-- ==== Sys2Proof/Word.lean ====
section
/-! DEFINITION. The 64-bit word and the byte (R48, R5), and the codeword of a granule (R76). -/

namespace Sys2Proof

/-- A 64-bit word: tag in [63:56], value in [55:0] (R48). -/
abbrev Word := BitVec 64

/-- One byte of memory. -/
abbrev Byte := BitVec 8

/-- The 144 bits of a granule and its check bits, data in [127:0] (R76): a codeword, or the bits in which a word
that was read differs from the codeword stored. -/
abbrev Codeword := BitVec 144

/-- The outcome of a Cairn check (R79): no error, one bit or one nibble corrected, or uncorrectable. -/
inductive Finding where
  | clean
  | bit (nibble : Nat) (syndrome : BitVec 16)
  | nibble (nibble : Nat) (syndrome : BitVec 16)
  | uncorrectable (syndrome : BitVec 16)
  deriving DecidableEq, Repr, Inhabited

end Sys2Proof
end

