-- ==== Sys2Proof/Syntax.lean ====
section
/-! DEFINITION. The commands of the block, one constructor per row of the opcode table, and the types of
their operands. A core instruction is a command: its parcel's fields come with it (assumption log 4). -/

namespace Sys2Proof

/-- Core c belongs to tile c/6, troika c/3 and quadrant c/24 (R17). -/
abbrev CoreId := Fin 96
abbrev TileId := Fin 16
abbrev QuadId := Fin 4
abbrev TroikaId := Fin 32

/-- The long opcodes (R119). -/
inductive Opcode where
  | mov | st | swap | ldb | stb | ldbit | stbit | mfc | mtc | setuprd | setupwr | add
  | sub | mul | div | rem | neg | abs | cmp | addto | subto | and | or | xor
  | andn | shl | shr | sar | popc | clz | parity | bitrev | crcstep | fadd | fsub | fmul
  | fdiv | fsqrt | fcmp | fcvt | cons | car | cdr | rplaca | rplacd | allocv | alloci | allocb
  | lenof | classof | idhash | weakref | pin | unpin | bitaddr | tagset | tagof | tageq | classis | eq
  | eql | casw | casg | swpg | faddw | bset | bclr | btest | bmov | band | bor | bxor
  | jmp | call | calln | ret | retn | rett | rete | trap | loop | loopx | savelo | savehi
  | restlo | resthi | spillw | fillw | space | fence | barrier | wait | eoin | eoif | niwopen | niwclose
  | trvgo | cqlook | cqins | cqdel | crgpost
  deriving DecidableEq, Repr

/-- The fields of a long operation parcel and its extension words (R117, R128). An extension word that
the addressing mode does not call for is not part of the instruction. -/
structure Long where
  cc : BitVec 4
  rd : BitVec 5
  ra : BitVec 5
  mode : BitVec 4
  rb : BitVec 5
  ext0 : BitVec 32
  ext1 : BitVec 32
  deriving DecidableEq, Repr

/-- What a host-window access of the instruction meets on the link (R138, R430). -/
inductive HostReply where
  | data (b : Byte) | timeout | errorCompletion
  deriving DecidableEq, Repr

/-- A microword that a sequencer fetches (R253): its micro-address, and the bits in which what is read differs from what
is stored, parity in bit 32. -/
structure MicroFetch where
  addr : BitVec 15
  flips : BitVec 33
  deriving DecidableEq, Repr

/-- Where a Cairn check is made (R77): on a read of an L1 cache of the core, at the block that holds the granule,
in the merge of a partial write there, or on receipt from the mesh. -/
inductive CheckPlace where
  | l1 | block | merge | mesh
  deriving DecidableEq, Repr

/-- A Cairn check: the granule of an address, and the bits in which what is read differs from its codeword. -/
structure CairnCheck where
  place : CheckPlace
  pa : Nat
  flips : Codeword
  deriving DecidableEq, Repr

/-- A hardware error or event that strikes the core during the instruction (assumption log 5).
`parity`: a register-file parity error in member k of the troika (R111). `ucode`: what the sequencer of member k
fetches in the slow path of the instruction (R253 to R257). `diverge`: member k of a voted troika differs in one
compared item, in a register or at an address `what` (R379). `threeWay`: all three differ (R384). `abandon`: a long slow path stops at an
interruption point (R251). `secondPass`: the second pass of RESTLO or RESTHI meets a fault (R102). -/
inductive Upset where
  | none
  | parity (k : Fin 3)
  | ucode (k : Fin 3) (run : List MicroFetch)
  | diverge (k : Fin 3) (item : Fin 7) (what : BitVec 44)
  | threeWay (item : Fin 7) (what : BitVec 44)
  | abandon
  | secondPass
  deriving DecidableEq, Repr

/-- Where an instruction executes and what befalls it there; `cairn`: the Cairn checks of its accesses that find an
error, in order. -/
structure At where
  core : CoreId
  upset : Upset
  host : HostReply
  cairn : List CairnCheck := []
  deriving DecidableEq, Repr

/-- What follows a PFX parcel (R139): a long operation by its opcode byte, which may be undefined or that of
another PFX, or a pair and whether its extension word follows. -/
inductive PfxBody where
  | long (code : Byte) (l : Long)
  | pair (ext : Bool)
  deriving DecidableEq, Repr

/-- The PFX parcel (R139). -/
structure Pfx where
  cond : BitVec 10
  rep : Bool
  rc : BitVec 5
  reserved : BitVec 7
  deriving DecidableEq, Repr

/-- The pair parcel and its extension word when bit X is 1 (R120). -/
structure PairParcel where
  a : BitVec 15
  b : BitVec 15
  ext : Option (BitVec 32)
  deriving DecidableEq, Repr

/-- Who makes a setup access (R11, R193, R428). -/
inductive Agent where
  | core (c : CoreId) | host
  deriving DecidableEq, Repr

/-- The part of a setup register that a write carries (R193, R428). -/
inductive Part where
  | full | low | high
  deriving DecidableEq, Repr

/-- A write to a setup register. -/
structure SetupWrite where
  agent : Agent
  part : Part
  value : Word
  deriving DecidableEq, Repr

/-- A master of the device (R18). -/
inductive Master where
  | core (c : CoreId) | moraine (t : TileId) | cirque (t : TileId) | traverse (e : Fin 2) | hre
  | crag | ridge (p : Fin 4)
  deriving DecidableEq, Repr

/-- A memory request reaching its holding block (R306): an entry of a core's store buffer, or a read or
write of a master. -/
inductive MemReq where
  | store (c : CoreId) (entry : Nat)
  | read (m : Master) (pa : Nat) (len : Nat)
  | write (m : Master) (pa : Nat) (bytes : List Byte)
  deriving DecidableEq, Repr

/-- The outcome of a channel read (R316): one granule whose codeword may be in error, at the first read and at the
second that follows an uncorrectable error; the MAC; or a counter line. -/
inductive DeepOutcome where
  | data (granule : Fin 4) (first again : Codeword)
  | transientMac
  | macFailed
  | counterFailed (level : Fin 10) (counterLine : Nat)
  deriving DecidableEq, Repr

/-- The outcome of loading a patch image (R261, R262). -/
inductive PatchOutcome where
  | loaded | memoryError | readBack
  deriving DecidableEq, Repr

/-- What a drained core reports of the load: the outcome, and the member of a voted troika whose outcome differs, with
it (R263). -/
structure PatchReport where
  all : PatchOutcome
  odd : Option (Fin 3 × PatchOutcome)
  deriving DecidableEq, Repr

/-- What one debug single step executes (R390): an instruction of the table, or a long parcel whose opcode byte is
undefined (R119). -/
inductive StepOp where
  | long (op : Opcode) (l : Long)
  | pfx (p : Pfx) (b : PfxBody)
  | pair (p : PairParcel)
  | bundle (w : Word)
  | undefined (code : Byte) (l : Long)
  deriving DecidableEq, Repr

/-- A register that a debug access names (R390). -/
inductive DebugReg where
  | reel (n : Fin 192) | trap (n : Fin 24) | global (n : Fin 8) | fast (n : Fin 8)
  | bit (n : Fin 256) | control (n : Byte) | pc | matchReg (n : Fin 32)
  deriving DecidableEq, Repr

/-- A host request that changes nothing in the device: a read of BAR0 or BAR2 by offset and size, or one to another
address (R20, R428). -/
inductive HostRequest where
  | bar0 (off len : Nat)
  | bar2 (off len : Nat)
  | other (addr : Nat)
  deriving DecidableEq, Repr

/-- What the host returns to a read of the ring engine (R430). -/
inductive HostBytes where
  | data (bytes : List Byte)
  | failed (timeout : Bool)
  deriving DecidableEq, Repr

/-- An instruction of the JTAG test access port (R535). -/
inductive JtagInstr where
  | idcode | bypass | extest | sample | clamp | highz
  deriving DecidableEq, Repr

/-- Who waits for room in a mailbox (R416, R441, R484): a Traverse channel, a submission ring, a Ridge port. -/
inductive MboxWaiter where
  | channel (n : Fin 64) | ring (n : Fin 64) | peer (p : Fin 4)
  deriving DecidableEq, Repr

/-- The outcome of a check whose inputs lie outside the model (a self-test, a training, a signature over
content that the model does not hold). -/
inductive Verdict where
  | pass | fail
  deriving DecidableEq, Repr

/-- A host read that is outstanding, by its reader (R430): the doorbell page, a descriptor or an extension, a
segment of the descriptor being performed, or a Traverse channel. -/
inductive HostReader where
  | doorbell | descriptor (r : Fin 64) | segment (r : Fin 64) | channel (n : Fin 64)
  deriving DecidableEq, Repr

/-- A host write to the MSI-X state of the function (R427; log 30): a table entry, or the enable and mask bits. -/
inductive MsixWrite where
  | entry (c : Fin 64) (addr : Word) (data : BitVec 32) (masked : Bool)
  | control (enable masked : Bool)
  deriving DecidableEq, Repr

/-- The SecTAG of a received frame and whether its ICV verifies under the SA it names (R470). -/
structure SecTag where
  sc : Fin 16
  an : Fin 4
  pn : Nat
  icv : Bool
  deriving DecidableEq, Repr

/-- A frame from a field link (R470): whether FEC decoding and FCS pass, the octets on the wire, the bytes from
the destination MAC to the end of the client data without SecTAG and ICV, and its time (R473). -/
structure RxFrame where
  fec : Bool
  fcs : Bool
  wire : Nat
  bytes : List Byte
  sec : Option SecTag
  stamp : Word
  deriving DecidableEq, Repr

/-- What a Ridge frame carries (R477, R483, R486): a remote request with its parameters, the reply to one, a
message of the Range-wide operations, or only an acknowledgement. -/
inductive RidgeMsg where
  | request (op : Nat) (p1 p2 p3 : Word) (bytes : List Byte) (len : Nat)
  | reply (status : Nat) (value : Word) (bytes : List Byte)
  | range (kind : Byte) (bytes : List Byte)
  | linkOnly
  deriving DecidableEq, Repr

/-- A frame that arrives at a Ridge port (R478, R479): the outcome of FEC and GCM, its numbers, and whether a
granule was found uncorrectable or poisoned. -/
structure RidgeRx where
  fec : Bool
  gcm : Bool
  seq : BitVec 16
  ack : BitVec 16
  nack : Bool
  dst : Byte
  src : Byte
  reqid : BitVec 32
  msg : RidgeMsg
  poison : Bool
  deriving DecidableEq, Repr

/-- The commands, in the families of the table: long operations, forms that carry several operations,
and the events of the other blocks. -/
inductive Instr where
  | mov (a : At) (l : Long)
  | st (a : At) (l : Long)
  | swap (a : At) (l : Long)
  | ldb (a : At) (l : Long)
  | stb (a : At) (l : Long)
  | ldbit (a : At) (l : Long)
  | stbit (a : At) (l : Long)
  | mfc (a : At) (l : Long)
  | mtc (a : At) (l : Long)
  | setuprd (a : At) (l : Long)
  | setupwr (a : At) (l : Long)
  | add (a : At) (l : Long)
  | sub (a : At) (l : Long)
  | mul (a : At) (l : Long)
  | div (a : At) (l : Long)
  | rem (a : At) (l : Long)
  | neg (a : At) (l : Long)
  | abs (a : At) (l : Long)
  | cmp (a : At) (l : Long)
  | addto (a : At) (l : Long)
  | subto (a : At) (l : Long)
  | and (a : At) (l : Long)
  | or (a : At) (l : Long)
  | xor (a : At) (l : Long)
  | andn (a : At) (l : Long)
  | shl (a : At) (l : Long)
  | shr (a : At) (l : Long)
  | sar (a : At) (l : Long)
  | popc (a : At) (l : Long)
  | clz (a : At) (l : Long)
  | parity (a : At) (l : Long)
  | bitrev (a : At) (l : Long)
  | crcstep (a : At) (l : Long)
  | fadd (a : At) (l : Long)
  | fsub (a : At) (l : Long)
  | fmul (a : At) (l : Long)
  | fdiv (a : At) (l : Long)
  | fsqrt (a : At) (l : Long)
  | fcmp (a : At) (l : Long)
  | fcvt (a : At) (l : Long)
  | cons (a : At) (l : Long)
  | car (a : At) (l : Long)
  | cdr (a : At) (l : Long)
  | rplaca (a : At) (l : Long)
  | rplacd (a : At) (l : Long)
  | allocv (a : At) (l : Long)
  | alloci (a : At) (l : Long)
  | allocb (a : At) (l : Long)
  | lenof (a : At) (l : Long)
  | classof (a : At) (l : Long)
  | idhash (a : At) (l : Long)
  | weakref (a : At) (l : Long)
  | pin (a : At) (l : Long)
  | unpin (a : At) (l : Long)
  | bitaddr (a : At) (l : Long)
  | tagset (a : At) (l : Long)
  | tagof (a : At) (l : Long)
  | tageq (a : At) (l : Long)
  | classis (a : At) (l : Long)
  | eq (a : At) (l : Long)
  | eql (a : At) (l : Long)
  | casw (a : At) (l : Long)
  | casg (a : At) (l : Long)
  | swpg (a : At) (l : Long)
  | faddw (a : At) (l : Long)
  | bset (a : At) (l : Long)
  | bclr (a : At) (l : Long)
  | btest (a : At) (l : Long)
  | bmov (a : At) (l : Long)
  | band (a : At) (l : Long)
  | bor (a : At) (l : Long)
  | bxor (a : At) (l : Long)
  | jmp (a : At) (l : Long)
  | call (a : At) (l : Long)
  | calln (a : At) (l : Long)
  | ret (a : At) (l : Long)
  | retn (a : At) (l : Long)
  | rett (a : At) (l : Long)
  | rete (a : At) (l : Long)
  | trap (a : At) (l : Long)
  | loop (a : At) (l : Long)
  | loopx (a : At) (l : Long)
  | savelo (a : At) (l : Long)
  | savehi (a : At) (l : Long)
  | restlo (a : At) (l : Long)
  | resthi (a : At) (l : Long)
  | spillw (a : At) (l : Long)
  | fillw (a : At) (l : Long)
  | space (a : At) (l : Long)
  | fence (a : At) (l : Long)
  | barrier (a : At) (l : Long)
  | wait (a : At) (l : Long)
  | eoin (a : At) (l : Long)
  | eoif (a : At) (l : Long)
  | niwopen (a : At) (l : Long)
  | niwclose (a : At) (l : Long)
  | trvgo (a : At) (l : Long)
  | cqlook (a : At) (l : Long)
  | cqins (a : At) (l : Long)
  | cqdel (a : At) (l : Long)
  | crgpost (a : At) (l : Long)
  | pfx (a : At) (p : Pfx) (b : PfxBody)
  | pair (a : At) (p : PairParcel)
  | bundle (a : At) (w : Word)
  | unitResultLanding (c : CoreId) (i : Nat)
  | barrierRelease (n : Fin 16)
  | waitWake (c : CoreId)
  | niwLimitExpiry (c : CoreId)
  | normalInterruptEntry (c : CoreId)
  | fastInterruptEntry (c : CoreId)
  | deferredMachineCheck (c : CoreId)
  | mcApply (c : CoreId) (w : SetupWrite)
  | mcDisable (c : CoreId) (w : SetupWrite)
  | patchDrain (c : CoreId) (r : PatchReport)
  | patchApplyEnd (c : CoreId)
  | tlbinvStart (p : Fin 97) (w : SetupWrite)
  | tlbinvComplete (p : Fin 97)
  | memoryRequestArrival (r : MemReq) (f : List CairnCheck)
  | memoryResponse (m : Master) (slot : Nat)
  | patrolScrub (pa : Nat) (f : Codeword)
  | tsrepGo (t : TileId) (w : SetupWrite)
  | rowRepairEnd (t : TileId)
  | evictionWriteback (q : QuadId)
  | deepReadComplete (q : QuadId) (line : Nat) (o : DeepOutcome)
  | deepReadTimeout (q : QuadId) (line : Nat)
  | retrainingStall (q : QuadId)
  | retrainingEnd (q : QuadId)
  | clean (q : QuadId) (w : SetupWrite)
  | cleanInv (q : QuadId) (w : SetupWrite)
  | inv (q : QuadId) (w : SetupWrite)
  | prefetch (q : QuadId) (w : SetupWrite)
  | prefetchLock (q : QuadId) (w : SetupWrite)
  | unlock (q : QuadId) (w : SetupWrite)
  | rangeOperationEnd (q : QuadId)
  | retire (q : QuadId) (w : SetupWrite)
  | channelRetireEnd (q : QuadId)
  | morStart (w : SetupWrite)
  | rootScan (c : CoreId)
  | markTrace (t : TileId)
  | markEnd
  | select
  | evacuateCopy (t : TileId)
  | cycleEnd
  | moveRequest (m : Master) (w : Word)
  | pageRemap (va : Nat) (page : Nat)
  | morHintGo (w : SetupWrite)
  | heapFullTimeout (c : CoreId)
  | allocationWaitEnd (c : CoreId)
  | cirqueTableMake (t : TileId)
  | advance (w : SetupWrite)
  | release (w : SetupWrite)
  | rebase (w : SetupWrite)
  | crpoolLoad (n : Fin 20) (w : SetupWrite)
  | resynchronisation (k : TroikaId)
  | troikaReset (k : TroikaId) (w : SetupWrite)
  | troikaResetEnd (k : TroikaId) (voter : Verdict)
  | debugHalt (k : TroikaId)
  | debugRead (c : CoreId) (r : DebugReg)
  | debugWrite (c : CoreId) (r : DebugReg) (v : Word)
  | debugMemoryAccess (c : CoreId) (pa : Nat) (write : Option Word)
  | debugStep (a : At) (op : StepOp)
  | debugResume (k : TroikaId)
  | sourcePulse (n : Fin 1024)
  | evcRaise (w : SetupWrite)
  | bitDelivery (g : Fin 64)
  | holdoffExpiry (g : Fin 64)
  | groupConfigWrite (g : Fin 64) (w : SetupWrite)
  | pendClear (i : Fin 16) (w : SetupWrite)
  | coreGating (c : CoreId)
  | coreWake (c : CoreId)
  | gatedWaitExpiry (g : Fin 64)
  | trvTimerTick (t : Fin 16)
  | burstRead (n : Fin 64) (h : HostBytes)
  | burstWrite (n : Fin 64)
  | ingressFrameReady (n : Fin 64)
  | completionPoint (n : Fin 64)
  | trvAbort (n : Fin 64) (w : SetupWrite)
  | channelDisable (n : Fin 64) (w : SetupWrite)
  | abortDrainEnd (n : Fin 64)
  | mboxAppendRetry (m : MboxWaiter)
  | mbwaitExpiry (m : MboxWaiter)
  | doorbellPoll (h : HostBytes)
  | descriptorFetch (r : Fin 64) (d : HostBytes) (exts : List HostBytes)
  | invoke (r : Fin 64)
  | importBytes (r : Fin 64) (h : HostBytes)
  | exportBytes (r : Fin 64)
  | query (r : Fin 64)
  | snapshot (r : Fin 64)
  | hostAttest (r : Fin 64)
  | patch (r : Fin 64) (h : HostBytes)
  | controlNop (r : Fin 64)
  | controlTime (r : Fin 64)
  | controlDrain (r : Fin 64)
  | cqHeadPoll (c : Fin 64) (h : HostBytes)
  | notification
  | cqHoldoffExpiry (c : Fin 64)
  | msixUnmask (m : MsixWrite)
  | hostReadFailure (r : HostReader) (timeout : Bool)
  | sqEnable (r : Fin 64) (w : SetupWrite)
  | sqReset (r : Fin 64) (w : SetupWrite)
  | cqDisable (c : Fin 64) (w : SetupWrite)
  | hreEnable (w : SetupWrite)
  | functionLevelReset
  | d3hotEntry (pme : Bool)
  | d0Return (bme : Bool)
  | linkDown (outstanding : List HostReader)
  | linkUp
  | hostUnsupportedRequest (r : HostRequest)
  | random
  | hash
  | gcmSeal
  | gcmOpen
  | sign
  | verify
  | sealVector
  | sealCheck
  | keygen
  | keyimport
  | keydelete
  | ctrRead
  | ctrInc
  | cragAttest
  | imgVerify
  | tpolRaise
  | debugUnlock
  | owner
  | tamperEvent (src : Fin 11)
  | tamperAlarmEnd
  | trngHealthFail
  | trngRestart
  | keyAgreement (p : Fin 4) (peer : List Byte) (v : Verdict)
  | rekey (p : Fin 4)
  | frameReceive (p : Fin 8) (f : RxFrame)
  | frameTransmit (p : Fin 8)
  | fieldLinkChange (p : Fin 8) (up : Bool)
  | saInstall (w : SetupWrite)
  | saRemove (w : SetupWrite)
  | pcntClear (p : Fin 8) (w : SetupWrite)
  | phcStep (w : SetupWrite)
  | modeChange (w : SetupWrite)
  | ridgeFrameReceive (p : Fin 4) (f : RidgeRx)
  | ridgeResendTimeout (p : Fin 4)
  | ridgeForward
  | readW
  | writeW
  | casW
  | faddW
  | readB
  | writeB
  | post
  | peerRequestServe (p : Fin 4)
  | rangeBarrierRelease (n : Fin 16)
  | broadcast (down : Bool) (kind : Byte) (bytes : List Byte)
  | rangeAdvance (k : Fin 8) (others : Byte)
  | rangeReset (w : SetupWrite)
  | cancel (w : SetupWrite)
  | recalibrationEnd (p : Fin 4)
  | bootHoldEnd (v : Verdict)
  | cragStageEnd
  | imageStageEnd
  | configStageEnd (plls : Verdict) (untrained : BitVec 4)
  | selftestStageEnd (faults : List (TileId × Fin 16384))
  | loadStageEnd (untested : List TroikaId)
  | failedStartRestart
  | bootWatchdogExpiry
  | saddleEntry
  | declareOperational (w : SetupWrite)
  | declareFail (w : SetupWrite)
  | cfgStart (w : SetupWrite)
  | sadCtlGo (w : SetupWrite)
  | tileOffline (w : SetupWrite)
  | tileOnline (w : SetupWrite)
  | tileSelfTest (w : SetupWrite)
  | retireCore (w : SetupWrite)
  | cragSwitch (w : SetupWrite)
  | ridgeLaneRecalibration (w : SetupWrite) (aMinute : Bool)
  | voterSelfTestRequest (w : SetupWrite)
  | retireTile (w : SetupWrite)
  | unitOperationEnd (faults : List (Fin 16384)) (v : Verdict)
  | vinAonUp
  | coreRailsUp (seqErr : Bool)
  | resetLAssert
  | resetLRelease
  | perstLAssert
  | perstLRelease
  | vinAonLow (below24 : Bool)
  | railExcursion (rail : Fin 12) (high : Bool) (measured : List Nat)
  | railStop (rail : Fin 12)
  | railsRecovered
  | clockFault (r : Fin 3)
  | clockReturn (r : Fin 3)
  | thermalSample (readings : List Int)
  | thermalStop (q : QuadId)
  | qclkRequest (q : QuadId) (w : SetupWrite)
  | clockStep (q : QuadId)
  | voltageSettle (q : QuadId)
  | delayMonitorCheck (q : QuadId) (short : Bool)
  | i3cWrite (bytes : List Byte)
  | i3cRead
  | i3cTimeout
  | jtagInstruction (i : JtagInstr)
  | gdtWrite (i : Fin 4096) (w : SetupWrite)
  | registerWrite (off : Nat) (w : SetupWrite)
  | laneRecalibrationStart (p : Fin 4) (lane : Fin 2)
  | flashReadTimeout
  | railReturn (q : QuadId) (neighbour : Bool)
  | crestOperationEnd
  | i3cAddressAssignment (a : Fin 128)
  | linkL1Entry
  deriving DecidableEq, Repr

end Sys2Proof
end

