-- ==== Sys2Proof/WellFormed.lean ====
section
/-! DEFINITION. Which commands are well formed: operands whose range their type does not say. A command that is not
well formed has a meaning all the same (nothing, or its operands taken as they fit); statements that need the range
name these checks. -/

namespace Sys2Proof

/-- A part of a register carries its own half alone (R193, R428). -/
def SetupWrite.wf (w : SetupWrite) : Bool :=
  match w.part with
  | .full => true
  | .low => w.value >>> 32 == 0
  | .high => w.value <<< 32 == 0

/-- A physical address has 44 bits (R23); a request moves 1 to 256 bytes. -/
def MemReq.wf : MemReq → Bool
  | .store _ _ => true
  | .read _ pa len => pa < 2 ^ 44 && 1 ≤ len && len ≤ 256
  | .write _ pa bs => pa < 2 ^ 44 && 1 ≤ bs.length && bs.length ≤ 256


/-- The write that a command carries, if it carries one. -/
def Instr.write? : Instr → Option SetupWrite
  | .mcApply _ w | .mcDisable _ w | .tlbinvStart _ w | .tsrepGo _ w | .clean _ w | .cleanInv _ w | .inv _ w
  | .prefetch _ w | .prefetchLock _ w | .unlock _ w | .retire _ w | .morStart w | .morHintGo w | .advance w
  | .release w | .rebase w | .crpoolLoad _ w | .troikaReset _ w | .evcRaise w | .groupConfigWrite _ w
  | .pendClear _ w | .trvAbort _ w | .channelDisable _ w | .sqEnable _ w | .sqReset _ w | .cqDisable _ w
  | .hreEnable w | .saInstall w | .saRemove w | .pcntClear _ w | .phcStep w | .modeChange w | .rangeReset w
  | .cancel w | .declareOperational w | .declareFail w | .cfgStart w | .sadCtlGo w | .tileOffline w | .tileOnline w
  | .tileSelfTest w | .retireCore w | .cragSwitch w | .ridgeLaneRecalibration w _ | .voterSelfTestRequest w
  | .retireTile w | .qclkRequest _ w | .gdtWrite _ w | .registerWrite _ w => some w
  | _ => none

/-- The operand ranges of a command that carries no setup write. -/
def Instr.rangesOk : Instr → Bool
  | .memoryRequestArrival r _ => r.wf
  | .patrolScrub pa _ => pa < 2 ^ 44 && pa % 16 == 0
  | .debugMemoryAccess _ pa _ => pa < 2 ^ 44 && pa % 8 == 0
  | .registerWrite off _ => off < 0x1000000 && off % 8 == 0
  | .thermalSample rs => rs.length == 64
  | .railExcursion _ _ ms => ms.length == 4
  | .frameReceive _ f => f.bytes.length ≤ 9216
  | .pageRemap va page => va < 2 ^ 47 && page < 2 ^ 44
  | _ => true

/-- A well-formed command. -/
def Instr.wellFormed (i : Instr) : Bool :=
  i.rangesOk && (match i.write? with | some w => w.wf | none => true)

end Sys2Proof
end

