-- ==== Sys2Proof/Config.lean ====
section
/-! DEFINITION. What an implementation fixes and the spec leaves open: free values with no body. -/

namespace Sys2Proof.Config

open Sys2Proof

/-- A value that the spec does not state, fresh for each number (assumption log 9). -/
opaque freeWord : Nat → Word

/-- Replacement choices of TLBs and L1 caches (assumption log 10): from the number of candidates. -/
opaque victim : Nat → Nat → Nat

/-- The free region taken among equals (R556; assumption log 12): from the candidates, in rising order. -/
opaque pickRegion : Nat → List Nat → Nat

/-- The identity of the microcode ROM (R258): a constant of the part. -/
opaque romId : BitVec 32

/-- Where in a tile store the copies of the Massif table lie (R44; assumption log 19), in granules: the first of three
places taken in turn. -/
opaque massifPlace : Nat

/-- Byte i of what a cryptographic operation yields (log 13): from the operation's number, its parameters and its
input. -/
opaque cryptoByte : Nat → List Nat → List Byte → Nat → Byte

/-- Whether a signature, a tag or a token verifies (log 13). -/
opaque cryptoOk : Nat → List Nat → List Byte → Bool

/-- Crag firmware that is verified comes up on a switch (R510), from its version. -/
opaque cragComesUp : Nat → Bool

/-- The check bits that the Cairn code adds to the data of a granule (R76), and the check bits of the poison pattern
(R80): the manual publishes no check matrix (log 43). -/
opaque cairnCheck : BitVec 128 → BitVec 16
opaque poisonCheck : BitVec 16

/-- The syndrome of an error pattern, and that of the poison pattern (R82; log 43). -/
opaque cairnSyndrome : Codeword → BitVec 16
opaque poisonSyndrome : BitVec 16

/-- What the decoder makes of an error outside the classes that R76 covers: its outcome, and the data bits that stay
wrong (log 43). -/
opaque cairnBeyond : Codeword → Finding × BitVec 128

/-- The words of the microcode ROM (R253; log 44). -/
opaque microRom : BitVec 14 → BitVec 32

/-- The entry that a full directory displaces for a new line, by the number of its line, from the lines that it
holds; none while it has room (R298; log 45). -/
opaque dirVictim : Nat → List Nat → Option Nat

/-- The stored form of a deep-memory line (R313; log 46): AES-256-XTS under the channel's key with the line address
as tweak, and the MAC over the ciphertext, check bits, address and counter. -/
opaque xts : Nat → Nat → BitVec 512 → BitVec 512
opaque lineMac : Nat → BitVec 512 → BitVec 64 → Nat → Nat → BitVec 64

/-- Where in tile 0 the code objects of a start begin, in granules (R501; log 40). -/
opaque loadPlace : Nat

/-- The entry of the recovery program, whose content the manual does not define (R504; log 40). -/
opaque recoveryEntry : Nat

end Sys2Proof.Config
end

