-- ==== Sys2Proof/Machine/State.lean ====
section
/-! DEFINITION. The state of the device as plain data, its reset value, and the reasons a step can stop. -/

namespace Sys2Proof.Machine

open Sys2Proof

/-- A sparse table: keys strictly rising; an unlisted key holds the default of its use. -/
abbrev Tbl (α : Type) := List (Nat × α)

/-- T.NIL 0, T.UNBOUND 0 and T.RET 0 (R50). -/
abbrev nil : Word := 0x0300000000000000#64
abbrev unbound : Word := 0x0500000000000000#64
abbrev ret0 : Word := 0x3000000000000000#64

/-- The cause codes (R217). -/
inductive Cause where
  | illegalOp | reservedField | illegalRepeat | tagReserved | wordFormat | pointerFormat | tagForge
  | memoryKind | misaligned | slotBounds | immutableWrite | divideZero | bignumSize | heapFull
  | dispatchTrap | loopDepth | saveChain | eoiOrder | trap | memoryError | pageAbsent | pageWrite
  | pageKind | walkFault | walkDevice | stackFault | doubleFault | machineCheck | interrupt
  deriving DecidableEq, Repr

/-- What a frame says of an exception: the fields of CAUSE and the cause-specific words (R225 to R228). -/
structure Trap where
  cause : Cause
  sub : Nat := 0
  vector : Nat := 0
  slot : Nat := 0
  async : Bool := false
  step : Nat := 0
  access : Nat := 0
  faddr : Word := nil
  foper : Word := nil
  detail : Nat := 0
  pempty : Bool := false   -- a copy-on-write that found its pool empty (R366); no field of the frame
  aux : Word := nil
  cont : Option Nat := none   -- where a transfer of control would have continued (R225); no field of the frame
  deriving DecidableEq, Repr

/-- Why an instruction does not complete: an exception, a double fault with its reason and the fault behind it
(R228), a window trap that a rotation needs (R92), a synchronous machine check (R244), an allocation that waits for
a region (R349), an access that waits (R344, R24, R295), or one that waits for its channel (R318). -/
inductive Stop where
  | trap (t : Trap)
  | doubleFault (reason : Nat) (t : Trap)
  | machineCheck (kind : Nat) (pa : Nat)
  | heapWait (t : Trap)
  | window (overflow : Bool)
  | hold
  | channel (pa len : Nat)
  deriving DecidableEq, Repr

/-- Whether a core issues, and why not (R208, R210, R238, R261, R349, R387, R390, R402). -/
inductive CoreMode where
  | stopped | running | waiting | gated | barrier (n len : Nat) | halted | debugHalt
  | heapWait (t : Trap) (npc : Nat) | patching
  deriving DecidableEq, Repr

/-- One store that has retired and is not yet performed (R296). `tagged` tells a tagged-word write, which
passes the write barrier when `barrier` says that its space takes part (R335, R343). -/
structure StoreEntry where
  pa : Nat
  bytes : List Byte
  tagged : Bool
  barrier : Bool
  deriving DecidableEq, Repr

/-- A unit result that has not landed (R158): a register by its number, or bit registers by number. -/
structure UnitResult where
  reg : Option Nat
  value : Word
  flags : Tbl Bool
  deriving DecidableEq, Repr

/-- The internal record of a window trap (R92): the address of the interrupted operation. -/
structure WindowTrap where
  overflow : Bool
  pc : Nat
  deriving DecidableEq, Repr

/-- The fast-class return record (R240). -/
structure FastReturn where
  pc : Nat
  fmt : Bool
  im : Bool
  deriving DecidableEq, Repr

/-- One entry of a TLB (R281). -/
structure TlbEntry where
  space : Nat
  vpn : Nat
  ppn : Nat
  epoch : Nat
  w : Bool
  d : Bool
  raw : Bool
  pin : Bool
  leaf : Nat
  recent : Bool := false   -- R280: recently used, in an L2 TLB
  deriving DecidableEq, Repr

/-- One match register (R256). -/
structure MatchReg where
  en : Bool
  rom : BitVec 14
  pram : BitVec 10
  deriving DecidableEq, Repr

/-- An apply or disable of microcode (R261, R264): asked for, by the image address, or with its drain done and its
outcome, and that of a member of a voted troika that differs (R263). What was loaded is held, none for a disable: the
match entries and the version; and the mode that the core goes back to. -/
inductive PatchJob where
  | apply (image : Nat) | disable
  | ending (r : PatchOutcome) (odd : Option (Fin 3 × PatchOutcome)) (load : Option (Tbl MatchReg × Nat)) (back : CoreMode)
  deriving DecidableEq, Repr

/-- The state of one core (R84, R381 and the rules named at each field). -/
structure Core where
  reel : Tbl Word            -- R88: key 8 * group + register; a listed key carries the written mark (R96)
  trapw : Tbl Word           -- R84: 24 registers of the trap window, likewise
  globals : Tbl Word         -- R84, R86: unlisted reads T.UNBOUND 0
  fast : Tbl Word            -- R108
  bits : BitVec 256          -- R105
  ls : Tbl Word              -- R106: unlisted reads T.RET 0
  le : Tbl Word
  lc : Tbl Word
  status : Word              -- R109
  cwp : Nat                  -- R89
  bottom : Nat
  resident : Nat
  pc : Nat                   -- R114
  codeObj : Word             -- R71, R133: the running code object, T.NIL before one is entered
  area : Option (Nat × Nat)  -- R71: its instruction area: first address and CODE_BYTES
  jump : Option Nat          -- R160: target of a taken T-format jump; the next bundle is its delay bundle
  onlyB : Bool               -- R232: slot B alone of the pair at pc executes
  shadow : Bool              -- R169
  pendRes : List UnitResult  -- R158, oldest first
  wtrap : Option WindowTrap  -- R92
  fastRet : Option FastReturn -- R240
  lastResort : Bool          -- R237
  entered : Option Cause     -- R223: the event whose handler was entered and whose first instruction is not yet fetched
  emerg : Tbl Byte           -- R234: 512 bytes; unlisted reads 0
  mode : CoreMode
  mcPend : Option Nat        -- R244 kind 0x03: the address of a deferred machine check
  abandon : Nat              -- R252: how often one instruction was abandoned in a row, and its address
  abandonAt : Nat
  niwTicks : Bool            -- R243: a window limit is running
  headers : List (Nat × Nat) -- R132: the header buffer: virtual and physical address of each header, newest first
  l1d : List Nat             -- R296: lines held by the L1 data cache, newest first
  l1i : List Nat
  l1bad : List Nat           -- R79: granules that a check found uncorrectable in an L1 cache of the core
  sbuf : List StoreEntry     -- R296, oldest first
  dtlb : List TlbEntry       -- R280
  itlb : List TlbEntry
  setupCap : Option (Nat × Word)   -- R193: captured register
  setupHeld : Option (Nat × Word)  -- R193: held low half
  pend : Tbl Word            -- R398: 16 words of the pending array; unlisted reads 0
  wbuf : List Word           -- R335: write-barrier buffer, up to 64
  spares : Nat               -- R336
  alloc : Tbl Nat            -- R196: next free address of the allocation buffer of each region kind
  ustack : List (BitVec 15)  -- R255: the micro-stack, the newest return address first
  pram : Tbl (BitVec 33)     -- R253: patch RAM with its parity bits; unlisted 0
  matchRegs : Tbl MatchReg   -- R256; unlisted disabled
  patch : Option PatchJob    -- R261
  scanned : Bool             -- R331: scanned in this flip
  minority : Bool            -- R379: outvoted and not yet resynchronised
  bars : Tbl Bool            -- R208, R209: barriers where the arrival counts; true once the episode is released
  deriving DecidableEq, Repr

/-- A core after a device start (R112); the fields the spec gives no value take the values of log 17. -/
def Core.reset : Core where
  reel := []
  trapw := []
  globals := []
  fast := []
  bits := 0
  ls := []
  le := []
  lc := []
  status := 0x0000000000010000#64
  cwp := 0
  bottom := 0
  resident := 1
  pc := 0
  codeObj := nil
  area := none
  jump := none
  onlyB := false
  shadow := false
  pendRes := []
  wtrap := none
  fastRet := none
  lastResort := false
  entered := none
  emerg := []
  mode := .stopped
  mcPend := none
  abandon := 0
  abandonAt := 0
  niwTicks := false
  headers := []
  l1d := []
  l1i := []
  l1bad := []
  sbuf := []
  dtlb := []
  itlb := []
  setupCap := none
  setupHeld := none
  pend := []
  wbuf := []
  spares := 2
  alloc := []
  ustack := []
  pram := []
  matchRegs := []
  patch := none
  scanned := false
  minority := false
  bars := []

/-- An invalidation in progress (R287). -/
structure Inval where
  kind : Nat
  space : Nat
  vpn : Nat
  deriving DecidableEq, Repr

/-- The collector's state beside its registers and tables in memory (R326 to R348). -/
structure Mor where
  bstate : Tbl Nat        -- R326: BSTATE of each region; unlisted stable
  work : List Word        -- words to trace
  weak : List Nat         -- R347: addresses of T.WEAK slots recorded
  tops : List Nat         -- R331: g6 and g7 addresses recorded
  hints : List (Nat × Nat × Nat)  -- R324: (region, OP, DEST) that the next SELECT applies
  cursors : Tbl Nat       -- next free address of each engine by region kind
  copied : Tbl Nat        -- bytes copied by each engine (MOR_CNTB)
  marked : Tbl Nat        -- granules marked by each engine (MOR_CNTB)
  engine : Nat            -- the tile whose Moraine engine or Cirque unit acts in this command (log 38)
  deriving DecidableEq, Repr

/-- A line of a deep cache (R299, R301). A dirty line keeps what the channel still stores, which INV brings back: its
bytes, and the granules of it that are poisoned there. -/
structure DLine where
  line : Nat
  way : Nat
  dirty : Bool
  locked : Bool
  recent : Bool
  stored : List Byte
  bad : List Nat
  deriving DecidableEq, Repr

/-- An entry of an eviction buffer (R302). -/
structure Evicted where
  line : Nat
  issued : Bool
  stored : List Byte
  bad : List Nat
  deriving DecidableEq, Repr

/-- A range operation in progress (R303). -/
structure RangeOp where
  op : Nat
  cls : Nat
  first : Nat
  lines : Nat
  deriving DecidableEq, Repr

/-- A deep cache and its channel (R299 to R320). -/
structure Deep where
  lines : List DLine
  evict : List Evicted
  retraining : Bool
  reads : List (Nat × Nat)   -- lines whose channel read is outstanding, with the requester class (R316)
  timedOut : List Nat    -- lines whose last read ended by the timeout of R317, for a core that still waits for it
  badCounters : List (Nat × Nat)   -- (first line, lines) that a failed counter line covers (R316)
  counters : Tbl Nat     -- R314: write-backs of each line
  verified : List (Nat × Nat)  -- R315: the counter cache: level and number of each counter line, newest first
  op : Option RangeOp    -- R303: its lines are visited when it ends
  deriving DecidableEq, Repr

/-- A request or response in flight of a master (R23). A read that waits for its channel has no data yet. -/
structure Flight where
  master : Master
  slot : Nat
  pa : Nat
  len : Nat
  waiting : Bool
  data : List Byte
  error : Bool
  deriving DecidableEq, Repr

/-- A posted write sent onto the host link (R429, R446). -/
structure HostWrite where
  addr : Nat
  bytes : List Byte
  deriving DecidableEq, Repr

/-- What a host request got (R20, R428): an output. -/
inductive HostAnswer where
  | data (w : Word) | unsupported
  deriving DecidableEq, Repr

/-- Fields of the Massif header and of the FIRMWARE entry (R33, R38). -/
structure Massif where
  lastType : Nat
  lastInstance : Nat
  lastCause : Nat
  oper : Bool
  saddle : Bool
  cragVersion : Nat
  bootVersion : Nat
  deriving DecidableEq, Repr

/-- A troika reset in progress (R387): the mode it sets, and whether a three-way disagreement made it. -/
structure Reset where
  voted : Bool
  auto : Bool
  deriving DecidableEq, Repr

/-- A customer key (R453): its type as KEYGEN codes it, its usage bits, and a number that stands for its secret
content (log 13). -/
structure Key where
  type : Nat
  usage : Nat
  id : Nat
  deriving DecidableEq, Repr

/-- What Crag holds (R450 to R466, R492, R528). The key store keeps all of it but the last three fields over a
device start. -/
structure Crag where
  counters : Tbl Nat        -- R460: the 64 monotonic counters; unlisted 0
  raises : Tbl Nat          -- R529: increments used of each counter
  keys : Tbl Key            -- R453: customer keys by slot
  zeroised : List Nat       -- slots whose key a tamper response cleared
  keyOps : Nat              -- R529: creations and deletions of customer keys
  owner : List Byte         -- R451: fingerprint of the owner root in the fuses
  transfers : Nat           -- R529: owner transfers used
  gb : Tbl Nat              -- R528: guardband steps of each quadrant
  fmax : Tbl Nat            -- R528: highest frequency of each quadrant; unlisted 2,000
  cleared : Bool            -- R459: a CLEAR since the last power-up
  lastSource : Nat          -- R459: the last tamper source
  volatileKeys : List Nat   -- R451: volatile slots (0x0030 to 0x003F) that hold a key
  rom : Bool                -- R504: no slot verified; Crag runs from its ROM
  deriving DecidableEq, Repr

/-- What the Base domain holds beside the BAS_ and SAD_ registers (R453, R464, R491 to R495). -/
structure Base where
  failures : List (Nat × Nat)  -- reason and boot slot of the failed starts since FAILS was cleared, oldest first
  failed : Bool                -- the attempt has ended in a failure: a start of KIND 0x8 is due (R494)
  policy : Nat                 -- the tamper policy last set, by which the Base domain acts alone (R464; log 16)
  recorded : List Nat          -- tamper sources recorded while the device was unpowered
  salt : Bool                  -- R453: the salt is held
  held : List Nat              -- what holds the device: 0 RESET_L, 1 PERST_L, 2 rail stop, 3 thermal stop,
                               -- 4 system reference, 5 core rails down, 6 VIN_AON below 2.4 V
  thermal : Bool               -- R530: a thermal stop to be reported by source 247 at the next start
  rtc : Nat                    -- R491, R515: the clock of the Base domain (log 22)
  deriving DecidableEq, Repr

/-- Pins and what they gave last (R533 to R540). -/
structure Board where
  healthOk : Bool          -- HEALTH_OK is high
  alarm : Bool             -- TAMPER_ALARM is high
  railsOut : List Nat      -- rail codes out of range (R523)
  outside : List Nat       -- clock references out of tolerance: 0 system, 1 field, 2 PCIe (R517)
  settling : List Nat      -- quadrants that wait 20 us for a higher voltage (R521)
  warned : List Nat        -- quadrants whose hottest sensor stands at WARN or above (R524)
  hot : Tbl Int            -- the hottest reading of each quadrant at the last sample, 0 unless listed (R524)
  peak : Tbl Int           -- the highest since CFG_THERM.MAXSEEN was cleared, -128 unless listed (R524)
  i3cOffset : Nat          -- R536
  i3cAddress : Option Nat  -- R536: the dynamic address
  i3cOut : Option Word     -- the register last read over I3C (an output)
  jtag : JtagInstr         -- R535
  debugOut : Option Word   -- the word last read by a debug access (an output, R390)
  deriving DecidableEq, Repr

/-- A Crest operation that runs beside other work (R371, R372), or an advance of the Range that this device asked
for (R487). -/
inductive CrestOp where
  | release (slot : Nat) | rebase | range (slot : Nat)
  deriving DecidableEq, Repr

/-- A part of an element that a Traverse channel has read and not written (R407). A frame brings its ingress
timestamp and full length (R415). -/
structure Chunk where
  elem : Nat
  pos : Nat
  total : Nat
  bytes : List Byte
  stamp : Option (Word × Nat)
  deriving DecidableEq, Repr

/-- A Traverse channel beside its registers (R408 to R423): the latched descriptor and the progress of the run. -/
structure Chan where
  ctl : Word
  src : Word
  dst : Word
  off : Word
  cnta : Word
  cntb : Word
  step0 : Word
  step1 : Word
  step2 : Word
  aux : Word
  sb : Word
  rd : Nat             -- the element that is read next, and the bytes of it that have been read
  rdPos : Nat
  wr : Nat             -- the first element that does not have every write response
  granted : Nat        -- elements granted
  banked : Nat         -- grants banked
  buf : List Chunk
  points : List Nat    -- completion points due, by the count of elements they cover, oldest first
  full : Bool          -- an append has found its mailbox full
  ending : Option (Nat × Bool × Nat)  -- an abort: CODE, completion reported instead, failed address
  deriving DecidableEq, Repr

/-- A frame of a field queue with the time of its arrival (R472, R473). -/
structure Frame where
  bytes : List Byte
  stamp : Word
  deriving DecidableEq, Repr

/-- A completion entry on its way (R443): PHASE is set when it is written. -/
structure HostEntry where
  cq : Nat
  sq : Option Nat
  words : List Word
  deriving DecidableEq, Repr

/-- How the fetch of a descriptor ended: to be performed, ended by a status with its DETAIL (R437, R438), or a
failed host read (R440). -/
inductive FetchEnd where
  | ready
  | status (code detail : Nat)
  | failed (timeout : Bool)
  deriving DecidableEq, Repr

/-- A descriptor that has been fetched (R436): its place in the order of all fetches, its words, its segments. -/
structure Fetched where
  order : Nat
  words : List Word
  segs : List (Nat × Nat)
  ends : FetchEnd
  deriving DecidableEq, Repr

/-- A submission ring beside its registers: the tail count read last, the descriptors fetched, the message that
waits for room in its mailbox (R441), a RESET that waits (R448). -/
structure Ring where
  tail : Nat
  fetched : List Fetched
  posting : Option Word
  resetting : Bool
  deriving DecidableEq, Repr

/-- A completion ring beside its registers: entries written, the head count read last, entries not announced. -/
structure CqRing where
  written : Nat
  head : Nat
  unann : Nat
  deriving DecidableEq, Repr

/-- The host ring engine (R433 to R448). -/
structure Hre where
  rings : Tbl Ring
  cqs : Tbl CqRing
  entries : List HostEntry   -- entries not yet written, oldest first
  order : Nat                -- descriptors fetched
  interval : Nat             -- R435: the poll interval in units of 250 ns
  deriving DecidableEq, Repr

/-- An entry of the MSI-X table (log 30). -/
structure MsixEntry where
  addr : Word
  data : BitVec 32
  masked : Bool
  deriving DecidableEq, Repr

/-- The PCIe function (R427 to R432, R446, R447; log 30). -/
structure Pcie where
  link : Bool               -- the Data Link Layer reports DL_Up
  l1 : Bool                 -- the link is in L1 or L1.1
  d3 : Bool                 -- D3hot
  bme : Bool                -- Bus Master Enable
  pmeEn : Bool
  pme : Bool                -- PME is signalled (an output)
  msix : Tbl MsixEntry      -- unlisted: zero, masked
  msixOn : Bool             -- MSI-X Enable
  msixMasked : Bool         -- the Function Mask
  pba : List Nat            -- vectors pending
  due : List Nat            -- vectors due in D3hot or without Bus Master Enable, oldest first
  answer : Option HostAnswer  -- the completion of the last host request that has one (R20; an output)
  deriving DecidableEq, Repr

/-- A MACsec SA (R469, NET_SAKEY): its eight words and the next PN to send, or the next expected. -/
structure Sa where
  words : List Word
  pn : Nat
  deriving DecidableEq, Repr

/-- A frame sent on a field port: the port, the bytes after padding, the PN of its SecTAG when protected. -/
structure TxFrame where
  port : Nat
  bytes : List Byte
  pn : Option Nat
  deriving DecidableEq, Repr

/-- The field ports (R468 to R476). -/
structure Net where
  up : List Nat          -- ports whose link is up
  sas : Tbl Sa           -- by ((DIR * 8 + PORT) * 16 + SC) * 4 + AN
  sakey : Tbl Word       -- NET_SAKEY0 to 7, which read 0
  last : Tbl Nat         -- the egress queue that each port served last
  sent : List TxFrame    -- frames sent, oldest first (an output)
  frac : Nat             -- fraction of a nanosecond of NET_PHC, in units of 2^-32
  deriving DecidableEq, Repr

/-- A message in the Range with its numbers (R477). -/
structure RidgeFrame where
  dst : Nat
  src : Nat
  reqid : Nat
  msg : RidgeMsg
  poison : Bool
  deriving DecidableEq, Repr

/-- A frame that waits for its acknowledgement: its SEQ and how often it was sent again (R478). -/
structure Unacked where
  seq : Nat
  frame : RidgeFrame
  resent : Nat
  deriving DecidableEq, Repr

/-- A Ridge port beside RDG_STATp. -/
structure RidgePort where
  tx : Nat                  -- SEQ of the next frame
  rx : Nat                  -- SEQ expected
  unacked : List Unacked
  badRow : Nat              -- frames in a row that failed GCM
  nack : Bool               -- the last frame was answered by a negative acknowledgement
  lane : Option Nat         -- the lane under recalibration
  session : Nat             -- sessions and rekeys so far
  frames : Nat              -- frames sent under the session key
  deriving DecidableEq, Repr

/-- A request of this device that waits for its reply: REQID, target, the command vector's address, OP. -/
structure RemoteOp where
  id : Nat
  dst : Nat
  vector : Nat
  op : Nat
  deriving DecidableEq, Repr

/-- The Ridge block (R477 to R490). -/
structure Ridge where
  ports : Tbl RidgePort
  inbox : Tbl (List RidgeFrame)   -- requests of peers to be served, by port
  posting : Tbl Word              -- the message of a POST under service that waits for room (R484)
  forward : List (Nat × RidgeFrame)  -- frames to be forwarded, with the port each came from
  own : List RemoteOp
  nextId : Nat
  turnX : Bool                    -- R480: which of the two ports to one peer is next
  turnY : Bool
  heard : Option (Byte × List Byte)  -- the last broadcast received (an output)
  deriving DecidableEq, Repr

/-- The state of the device. -/
structure State where
  pending : List Instr      -- the commands that wait, first in first out
  free : Nat                -- the model's own counter of free values taken (log 9)
  cores : Tbl Core          -- unlisted as Core.reset
  mem : List Host.Cell
  poison : List Nat         -- R80: poisoned granules by number, rising
  setup : Tbl Word          -- setup registers by offset; unlisted at reset value
  units : Tbl Nat           -- R39
  sizes : Tbl Nat           -- KiB of tile stores and channels where not as shipped
  l2tlb : Tbl (List TlbEntry)   -- R280, per tile
  edge : Tbl (List TlbEntry)    -- R268: Crag, Traverse 0, Traverse 1, ring engine, Ridge
  invs : Tbl Inval          -- R287, per pair
  remap : List Nat          -- R344: physical pages in the remap set
  codeObjs : List Nat       -- addresses of code objects made (log 11)
  codeSizes : Tbl Nat       -- R199: bytes of the instruction area of each code object that ALLOCI made (log 11)
  mor : Mor
  pools : Tbl (List Nat)    -- R363: pages of each Crest pool by physical address
  deep : Tbl Deep           -- per quadrant
  flights : List Flight     -- R23, R307: responses not yet returned
  queued : List (MemReq × List CairnCheck)   -- R24, R295: requests that wait for a slot or for their block
  dirs : Tbl (List Nat)     -- R297, R298: lines in the directory of tile store t, or of deep cache q at 16 + q
  repaired : Tbl (List Nat) -- R295: rows repaired, per tile
  rowRepair : Tbl Nat       -- R295: the row under repair, per tile
  toHost : List HostWrite   -- R429, R311: posted writes and MSI-X messages sent, oldest first (an output)
  compact : Bool            -- R47: the compact configuration (COMPACT of the Massif header)
  massif : Massif           -- R33: what the table's header holds beside derived words
  resets : Tbl Reset        -- R387: troika resets in progress
  replay : Tbl (List (DebugReg × Word))   -- R390: replay log of each troika, up to 256; one more marks overflow
  crag : Crag
  base : Base
  board : Board
  flash : Tbl Byte          -- R497: the flash; an unlisted byte reads 0xFF (log 21)
  crestOp : Option CrestOp  -- the operation behind CFG_CREST.BUSY
  evcWaits : List Nat       -- R403: groups with a 2 us wait for a gated target
  chans : Tbl Chan          -- Traverse channels that have been started
  ingress : Tbl (List Frame)      -- R472: ingress queues, oldest frame first
  egress : Tbl (List (List Byte)) -- R474: egress queues
  waking : List Nat         -- R402: gated cores whose wake has started
  hre : Hre
  pcie : Pcie
  net : Net
  ridge : Ridge
  deriving DecidableEq, Repr

/-- The device right after VIN_AON comes up (R491): boot state HOLD, every register at its reset value, no
command waiting (log 1). -/
def State.reset : State where
  pending := []
  free := 0
  cores := []
  mem := []
  poison := []
  setup := []
  units := []
  sizes := []
  l2tlb := []
  edge := []
  invs := []
  remap := []
  codeObjs := []
  codeSizes := []
  mor := ⟨[], [], [], [], [], [], [], [], 0⟩
  pools := []
  deep := []
  flights := []
  queued := []
  dirs := []
  repaired := []
  rowRepair := []
  toHost := []
  compact := false
  massif := ⟨0, 0, 0, false, false, 0, 0⟩
  resets := []
  replay := []
  crag := ⟨[], [], [], [], 0, [], 0, [], [], false, 0, [], false⟩
  base := ⟨[], false, 0, [], false, [], false, 0⟩
  board := ⟨false, false, [], [], [], [], [], [], 0, none, none, .idcode, none⟩
  flash := []
  crestOp := none
  evcWaits := []
  chans := []
  ingress := []
  egress := []
  waking := []
  hre := ⟨[], [], [], 0, 0⟩
  pcie := ⟨false, false, false, false, false, false, [], false, false, [], [], none⟩
  net := ⟨[], [], [], [], [], 0⟩
  ridge := ⟨[], [], [], [], [], 0, false, false, none⟩

/-- Why a step stops with a fault. -/
inductive Fault where
  /-- Raised by a command that names a physical address outside the 44-bit map (a memory request, a patrol
  read or a debug access): the spec gives no such address. Safe: the model stops. -/
  | noSuchAddress (pa : Nat)
  deriving DecidableEq, Repr

/-- Why a step is refused. -/
inductive Refusal where
  /-- Answered by an arm of `exec` for a command that the model does not give its meaning yet. Safe. -/
  | notModelled (mnemonic : String)
  deriving DecidableEq, Repr

end Sys2Proof.Machine
end

