-- ==== Sys2Proof/Machine/Bits.lean ====
section
/-! DEFINITION. Bit fields, tags, signed values and byte order of words (R4, R5, R48). -/

namespace Sys2Proof.Machine

open Sys2Proof

/-- Bits [hi:lo] of a word as a number. -/
def bitsOf (w : Word) (hi lo : Nat) : Nat := (w.toNat / 2 ^ lo) % 2 ^ (hi + 1 - lo)

/-- Bit i of a word. -/
def bitOf (w : Word) (i : Nat) : Bool := w.getLsbD i

/-- The word with bits [hi:lo] replaced by v. -/
def withBits (w : Word) (hi lo v : Nat) : Word :=
  let m := (2 ^ (hi + 1 - lo) - 1) * 2 ^ lo
  (w &&& ~~~ BitVec.ofNat 64 m) ||| BitVec.ofNat 64 ((v % 2 ^ (hi + 1 - lo)) * 2 ^ lo)

def withBit (w : Word) (i : Nat) (b : Bool) : Word := withBits w i i (if b then 1 else 0)

/-- The tag and the value bits (R48). -/
def tagOf (w : Word) : Nat := bitsOf w 63 56
def valOf (w : Word) : Nat := bitsOf w 55 0

/-- A word of a tag and a value, the value cut to 56 bits. -/
def mkWord (tag v : Nat) : Word := BitVec.ofNat 64 ((tag % 256) * 2 ^ 56 + v % 2 ^ 56)

/-- The T.FIX of an integer, kept modulo 2^56. -/
def fix (i : Int) : Word := mkWord 0 (i % 2 ^ 56).toNat
def fixN (n : Nat) : Word := mkWord 0 n

/-- Two's complement reading of an n-bit number (R4). -/
def signed (n : Nat) (v : Nat) : Int := if 2 * (v % 2 ^ n) < 2 ^ n then (v % 2 ^ n : Nat) else (v % 2 ^ n : Nat) - 2 ^ n

/-- The value of a T.FIX (R50). -/
def fixVal (w : Word) : Int := signed 56 (valOf w)

def boolWord (b : Bool) : Word := mkWord 4 (if b then 1 else 0)
def isFix (w : Word) : Bool := tagOf w == 0
def isNil (w : Word) : Bool := w == nil

/-- Little-endian bytes of a number, n of them, and back (R5). -/
def toBytes : Nat → Nat → List Byte
  | 0, _ => []
  | n + 1, v => BitVec.ofNat 8 v :: toBytes n (v / 256)

def ofBytes : List Byte → Nat
  | [] => 0
  | b :: bs => b.toNat + 256 * ofBytes bs

def wordOfBytes (bs : List Byte) : Word := BitVec.ofNat 64 (ofBytes bs)
def bytesOfWord (w : Word) : List Byte := toBytes 8 w.toNat

/-- Big-endian reading of bytes. -/
def ofBytesBE (bs : List Byte) : Nat := ofBytes bs.reverse

/-- Least common helpers of counters that stop at a bound. -/
def satInc (w : Word) (hi lo : Nat) : Word :=
  let v := bitsOf w hi lo
  withBits w hi lo (if v + 1 < 2 ^ (hi + 1 - lo) then v + 1 else v)

/-- A counter field that wraps. -/
def wrapInc (w : Word) (hi lo : Nat) (n : Nat) : Word := withBits w hi lo (bitsOf w hi lo + n)

/-- Pointer tags (R50: 0x10 to 0x1A). -/
def isPointerTag (t : Nat) : Bool := 0x10 ≤ t && t ≤ 0x1A
def isHeaderTag (t : Nat) : Bool := t == 0x20 || t == 0x21 || t == 0x22
def isUserTag (t : Nat) : Bool := 0x40 ≤ t && t ≤ 0x7F
def isImmediateTag (t : Nat) : Bool := t ≤ 6 || isUserTag t
def isReservedTag (t : Nat) : Bool :=
  (0x08 ≤ t && t ≤ 0x0F) || (0x1B ≤ t && t ≤ 0x1E) || (0x23 ≤ t && t ≤ 0x2D) || t == 0x2F
    || (0x33 ≤ t && t ≤ 0x3E) || 0x80 ≤ t

/-- The tag-class table (R50). -/
def classOfTag (t : Nat) : Nat :=
  if isUserTag t then 0xE else
  match t with
  | 0x00 => 0x0 | 0x01 => 0x1 | 0x02 => 0x2 | 0x03 => 0x3 | 0x04 => 0x4 | 0x06 => 0x5
  | 0x10 => 0x8 | 0x11 => 0x9 | 0x12 => 0xA | 0x13 => 0xB | 0x14 => 0xC | 0x15 => 0xD | 0x16 => 0xD
  | 0x17 => 0x6 | 0x18 => 0x7 | 0x19 => 0xA
  | _ => 0xF

/-- Whether an immediate's value meets the rule of its tag (R52). -/
def immediateOk (w : Word) : Bool :=
  let v := valOf w
  match tagOf w with
  | 1 => v ≤ 0x10FFFF && !(0xD800 ≤ v && v ≤ 0xDFFF)
  | 3 => v == 0
  | 4 => v ≤ 1
  | 5 => v == 0
  | _ => true

/-- Whether a pointer, address or internal word meets its format (R54, R55). -/
def addressFormatOk (w : Word) : Bool :=
  let v := valOf w
  let t := tagOf w
  if isPointerTag t then v < 2 ^ 47 && v % 16 == 0 else
  match t with
  | 0x07 => v < 2 ^ 50
  | 0x1F => v < 2 ^ 43
  | 0x2E => v < 2 ^ 47 && v % 16 == 0
  | 0x30 => v < 2 ^ 48 && (if bitOf w 47 then v % 8 == 0 else v % 4 == 0)
  | 0x31 => v < 2 ^ 32
  | 0x32 => v < 2 ^ 47 && v % 16 == 0
  | 0x3F => v < 2 ^ 32
  | _ => true

/-- What an inspection of a word finds (R51, R52, R54, R55): nothing, or the fault. -/
def inspectWord (w : Word) : Option Cause :=
  if isReservedTag (tagOf w) then some .tagReserved
  else if !immediateOk w then some .wordFormat
  else if !addressFormatOk w then some .pointerFormat
  else none

/-- Header fields (R59, R60). -/
def hdrClass (h : Word) : Nat := bitsOf h 55 40
def hdrLength (h : Word) : Nat := bitsOf h 39 8
def hdrHxt (h : Word) : Bool := bitOf h 5
def hdrFmt (h : Word) : Bool := bitOf h 4
def hdrHashed (h : Word) : Bool := bitOf h 3
def hdrSeal (h : Word) : Bool := bitOf h 2
def hdrPin (h : Word) : Bool := bitOf h 1
def hdrImm (h : Word) : Bool := bitOf h 0

def mkHeader (tag cls len flags : Nat) : Word :=
  BitVec.ofNat 64 (tag * 2 ^ 56 + cls * 2 ^ 40 + len * 2 ^ 8 + flags)

/-- Class indices that no header may carry (R61). -/
def classReserved (c : Nat) : Bool := c == 0 || (0x0B ≤ c && c ≤ 0xFF)

/-- A header that breaks R60 or carries a reserved class. -/
def headerMalformed (h : Word) : Bool :=
  bitsOf h 7 6 != 0 || (hdrFmt h && !(tagOf h == 0x20 && hdrClass h == 3))
    || (hdrSeal h && tagOf h != 0x22) || (hdrSeal h && !hdrImm h) || classReserved (hdrClass h)

def softClass (c : Nat) : Bool := 0x100 ≤ c

/-- Whether a header fits the object layouts of a strong pointer tag (R61). -/
def headerFits (ptag : Nat) (h : Word) : Bool :=
  let t := tagOf h
  let c := hdrClass h
  let n := hdrLength h
  match ptag with
  | 0x11 => t == 0x21 && (c == 7 || softClass c)
  | 0x12 => t == 0x22 && (c == 6 || softClass c)
  | 0x13 => t == 0x20 && c == 1 && n == 5
  | 0x14 => t == 0x20 && ((8 ≤ c && c ≤ 0xA) || softClass c)
  | 0x15 => t == 0x20 && c == 2 && 1 ≤ n
  | 0x16 => t == 0x20 && c == 3 && 5 ≤ n
  | 0x17 => t == 0x22 && c == 4
  | 0x18 => t == 0x22 && c == 5 && n == 8
  | 0x19 => t == 0x22 && hdrSeal h && hdrImm h && (c == 6 || softClass c)
  | _ => false

/-- The strong tag of the object whose header is h (R198). -/
def strongTagOfHeader (h : Word) : Nat :=
  let c := hdrClass h
  if tagOf h == 0x21 then 0x11
  else if tagOf h == 0x20 then
    (if c == 1 then 0x13 else if c == 2 then 0x15 else if c == 3 then 0x16 else 0x14)
  else if c == 4 then 0x17 else if c == 5 then 0x18 else if hdrSeal h then 0x19 else 0x12

def roundUp (n k : Nat) : Nat := (n + k - 1) / k * k

/-- The size of an object with a header; `codeBytes` counts for code objects (R62). -/
def objectSize (h : Word) (codeBytes : Nat) : Nat :=
  let tail := if hdrHxt h then 16 else 0
  if tagOf h == 0x22 then roundUp (8 + (if hdrSeal h then 24 else 0) + hdrLength h) 16 + tail
  else roundUp (8 * (1 + hdrLength h)) 16
    + (if tagOf h == 0x20 && hdrClass h == 3 then roundUp codeBytes 16 else 0) + tail

/-- The offset of the instruction area of a code object (R71) and of the payload of a byte vector (R67). -/
def codeAreaOffset (h : Word) : Nat := roundUp (8 * (1 + hdrLength h)) 16
def payloadOffset (h : Word) : Nat := if hdrSeal h then 32 else 8

/-- The tile, troika and quadrant of a core (R17). -/
def tileOfCore (c : CoreId) : Nat := c.val / 6
def troikaOfCore (c : CoreId) : Nat := c.val / 3
def quadOfCore (c : CoreId) : Nat := c.val / 24

/-- CRC-32C, reflected, of bytes from a state (R33, R357). -/
def crc32cByte (s : BitVec 32) (b : Byte) : BitVec 32 :=
  let step := fun (x : BitVec 32) =>
    if x.getLsbD 0 then (x >>> 1) ^^^ 0x82F63B78#32 else x >>> 1
  step (step (step (step (step (step (step (step (s ^^^ b.setWidth 32))))))))

def crc32c (s : BitVec 32) (bs : List Byte) : BitVec 32 := bs.foldl crc32cByte s

end Sys2Proof.Machine
end

