-- ==== Sys2Proof/Machine/Ops.lean ====
section
/-! DEFINITION. The named operations: sparse tables, physical memory, the cores' registers. -/

namespace Sys2Proof.Machine

open Sys2Proof

/-! ### Sparse tables -/

/-- The value listed under a key. -/
def Tbl.get? {α : Type} : Tbl α → Nat → Option α
  | [], _ => none
  | (a, v) :: t, k => if a = k then some v else Tbl.get? t k

/-- The table with a key listed. -/
def Tbl.put {α : Type} : Tbl α → Nat → α → Tbl α
  | [], k, v => [(k, v)]
  | (a, b) :: t, k, v =>
    if a < k then (a, b) :: Tbl.put t k v
    else if a = k then (k, v) :: t
    else (k, v) :: (a, b) :: t

/-- The table with a key not listed. -/
def Tbl.del {α : Type} : Tbl α → Nat → Tbl α
  | [], _ => []
  | (a, b) :: t, k => if a = k then Tbl.del t k else (a, b) :: Tbl.del t k

/-- Reading with a default, and writing so that no entry equal to the default is listed. -/
def Tbl.getD {α : Type} (t : Tbl α) (d : α) (k : Nat) : α := (Tbl.get? t k).getD d

def Tbl.putD {α : Type} [DecidableEq α] (t : Tbl α) (d : α) (k : Nat) (v : α) : Tbl α :=
  if v = d then Tbl.del t k else Tbl.put t k v

/-- Keys strictly rising above a bound. -/
def Tbl.risingFrom {α : Type} : Option Nat → Tbl α → Bool
  | _, [] => true
  | b, (a, _) :: t => (match b with | none => true | some x => decide (x < a)) && Tbl.risingFrom (some a) t

/-- A set of numbers kept as a strictly rising list. -/
def insertNat : List Nat → Nat → List Nat
  | [], k => [k]
  | a :: t, k => if a < k then a :: insertNat t k else if a = k then a :: t else k :: a :: t

def eraseNat (l : List Nat) (k : Nat) : List Nat := l.filter (fun a => a != k)

/-- The list with entry i replaced. -/
def setAt {α : Type} : List α → Nat → α → List α
  | [], _, _ => []
  | _ :: t, 0, v => v :: t
  | a :: t, i + 1, v => a :: setAt t i v

def dropAt {α : Type} : List α → Nat → List α
  | [], _ => []
  | _ :: t, 0 => t
  | a :: t, i + 1 => a :: dropAt t i

/-! ### Physical memory (R5, R49): bytes by physical address; an unlisted byte reads 0 (assumption log 7). -/

/-- What an unlisted address reads as. -/
def memDefault : Byte := 0

def readByte (s : State) (a : Nat) : Byte := Tbl.getD s.mem memDefault a

def writeByte (s : State) (a : Nat) (b : Byte) : State := { s with mem := Tbl.putD s.mem memDefault a b }

def readBytes (s : State) : Nat → Nat → List Byte
  | _, 0 => []
  | a, n + 1 => readByte s a :: readBytes s (a + 1) n

def writeBytes (s : State) : Nat → List Byte → State
  | _, [] => s
  | a, b :: bs => writeBytes (writeByte s a b) (a + 1) bs

def readWord (s : State) (a : Nat) : Word := wordOfBytes (readBytes s a 8)
def writeWord (s : State) (a : Nat) (w : Word) : State := writeBytes s a (bytesOfWord w)

/-- The canonical form of memory: addresses strictly rising, no entry equal to the default. -/
def Memory.wf (m : List Host.Cell) : Bool :=
  Tbl.risingFrom none m && m.all (fun c => c.2 != memDefault)

/-- Whether a failed counter line covers an address (R316). -/
def counterFailed (s : State) (a : Nat) : Bool :=
  s.deep.any (fun e => e.2.badCounters.any (fun x => x.1 ≤ a / 64 && a / 64 < x.1 + x.2))

/-- Poison marks by granule number (R80). -/
def poisoned (s : State) (a : Nat) : Bool := s.poison.contains (a / 16) || counterFailed s a
def setPoison (s : State) (a : Nat) : State := { s with poison := insertNat s.poison (a / 16) }
def clearPoison (s : State) (a : Nat) : State := { s with poison := eraseNat s.poison (a / 16) }

/-- Whether any granule of a span is poisoned. -/
def spanPoisoned (s : State) (a n : Nat) : Bool :=
  s.poison.any (fun g => a / 16 ≤ g && g * 16 < a + n)
    || s.deep.any (fun e => e.2.badCounters.any (fun x => x.1 * 64 < a + n && a < (x.1 + x.2) * 64))

/-- The write of one granule's share of a span (R80): a poisoned granule takes only a whole-granule write,
which ends its poison. The answer tells whether the granule stayed poisoned. -/
def writeGranule (s : State) (a : Nat) (bs : List Byte) : State × Bool :=
  if counterFailed s a then (s, true)
  else if poisoned s a then
    if a % 16 = 0 && bs.length = 16 then (clearPoison (writeBytes s a bs) a, false) else (s, true)
  else (writeBytes s a bs, false)

/-- A write granule by granule, in ascending order (R80); fuel counts granules. -/
def writeSpanF : Nat → State → Nat → List Byte → State × Bool
  | 0, s, _, _ => (s, false)
  | f + 1, s, a, bs =>
    if bs.isEmpty then (s, false) else
      let n := 16 - a % 16
      let (s1, e1) := writeGranule s a (bs.take n)
      let (s2, e2) := writeSpanF f s1 (a + n) (bs.drop n)
      (s2, e1 || e2)

def writeSpan (s : State) (a : Nat) (bs : List Byte) : State × Bool := writeSpanF (bs.length + 1) s a bs

/-! ### The map (R22 table, R312) -/

def physTop : Nat := 2 ^ 44
def inDevice (pa : Nat) : Bool := 0x800000000 ≤ pa && pa < 0x801000000
def inHostWindow (pa : Nat) : Bool := 0x80000000000 ≤ pa && pa < physTop
def tileOfPa (pa : Nat) : Option Nat := if pa < 0x10000000 then some (pa / 0x1000000) else none

/-- The deep-memory channel whose range holds an address. -/
def channelOfPa (pa : Nat) : Option Nat :=
  if 0x1000000000 ≤ pa && pa < 0x3000000000 then
    some ((pa - 0x1000000000) / 0x800000000) else none

/-! ### Cores -/

def State.core (s : State) (c : CoreId) : Core := Tbl.getD s.cores Core.reset c.val

def State.setCore (s : State) (c : CoreId) (k : Core) : State := { s with cores := Tbl.put s.cores c.val k }

def State.modCore (s : State) (c : CoreId) (f : Core → Core) : State := s.setCore c (f (s.core c))

/-! ### STATUS and CWP (R109, R89) -/

namespace Core

def space (k : Core) : Nat := bitsOf k.status 43 32
def ld (k : Core) : Nat := bitsOf k.status 26 24
def tw (k : Core) : Bool := bitOf k.status 23
def fb (k : Core) : Bool := bitOf k.status 22
def fmt (k : Core) : Bool := bitOf k.status 21
def niw (k : Core) : Bool := bitOf k.status 17
def im (k : Core) : Bool := bitOf k.status 16
def cstk (k : Core) : Nat := bitsOf k.status 15 14
def voted (k : Core) : Bool := bitOf k.status 13
def setStatus (k : Core) (hi lo v : Nat) : Core := { k with status := withBits k.status hi lo v }

/-- The dirty bit of a group: some register of it carries the written mark (R96, R97). -/
def dirty (k : Core) (g : Nat) : Bool := k.reel.any (fun e => e.1 / 8 == g)

def live (k : Core) : Nat := (List.range 24).foldl (fun a g => if k.dirty g then a + 2 ^ g else a) 0

/-- The CWP register as it reads (R89). -/
def cwpWord (k : Core) : Word := fixN (k.cwp * 2 ^ 32 + k.bottom * 2 ^ 28 + k.resident * 2 ^ 24 + k.live)

def voidGroup (k : Core) (g : Nat) : Core := { k with reel := k.reel.filter (fun e => e.1 / 8 != g) }

/-- The groups of window w: ins, locals, outs (R88). -/
def insGroup (w : Nat) : Nat := 12 + (w + 11) % 12
def localsGroup (w : Nat) : Nat := w % 12
def outsGroup (w : Nat) : Nat := 12 + w % 12

/-- The Reel key of register n (0 to 23) of window w. -/
def reelKey (w n : Nat) : Nat :=
  if n < 8 then 8 * insGroup w + n else if n < 16 then 8 * localsGroup w + (n - 8) else 8 * outsGroup w + (n - 16)

/-- The value of register number n (R85, R86, R96). -/
def getReg (k : Core) (n : Nat) : Word :=
  if n = 24 then nil
  else if 24 < n then Tbl.getD k.globals unbound (n - 24)
  else if k.fb && 8 ≤ n && n < 16 then Tbl.getD k.fast unbound (n - 8)
  else if k.tw then Tbl.getD k.trapw unbound n
  else Tbl.getD k.reel unbound (reelKey k.cwp n)

/-- The core with register number n written (R85, R86). -/
def setReg (k : Core) (n : Nat) (w : Word) : Core :=
  if n = 24 then k
  else if 24 < n then { k with globals := Tbl.putD k.globals unbound (n - 24) w }
  else if k.fb && 8 ≤ n && n < 16 then { k with fast := Tbl.putD k.fast unbound (n - 8) w }
  else if k.tw then { k with trapw := Tbl.put k.trapw n w }
  else { k with reel := Tbl.put k.reel (reelKey k.cwp n) w }

def g6 (k : Core) : Word := k.getReg 30
def g7 (k : Core) : Word := k.getReg 31

/-- Bit registers (R105). -/
def bit (k : Core) (n : Nat) : Bool := k.bits.getLsbD n
def setBit (k : Core) (n : Nat) (b : Bool) : Core :=
  let m := (1#256) <<< n
  { k with bits := if b then k.bits ||| m else k.bits &&& ~~~ m }

def setBits (k : Core) : Tbl Bool → Core
  | [] => k
  | (n, b) :: t => setBits (k.setBit n b) t

/-- Loop registers (R106). -/
def lsN (k : Core) (n : Nat) : Word := Tbl.getD k.ls ret0 n
def leN (k : Core) (n : Nat) : Word := Tbl.getD k.le ret0 n
def lcN (k : Core) (n : Nat) : Word := Tbl.getD k.lc (fixN 0) n

/-- Void the trap window (R92, R236). -/
def voidTrap (k : Core) : Core := { k with trapw := [] }

/-- Void the whole Reel. -/
def voidReel (k : Core) : Core := { k with reel := [] }

/-- A unit result lands (R158). -/
def land1 (k : Core) (u : UnitResult) : Core :=
  let k1 := match u.reg with | some n => k.setReg n u.value | none => k
  k1.setBits u.flags

/-- Every unit result lands, oldest first. -/
def landAll (k : Core) : Core := { (k.pendRes.foldl land1 k) with pendRes := [] }

end Core

/-- A fresh free value of the model (assumption log 9). -/
def takeFree (s : State) : Word × State := (Config.freeWord s.free, { s with free := s.free + 1 })

end Sys2Proof.Machine
end

