-- ==== Sys2Proof/Machine/Setup.lean ====
section
/-! DEFINITION. The setup registers: names, offsets in the device region, reset values and the access of
each bit (R545 to R553 and the tables of each chapter). -/

namespace Sys2Proof.Machine

open Sys2Proof

/-- A register as the manual names it; registers that exist many times carry an index beside the name. -/
inductive RegName where
  | msfGen   -- MSF_GEN, R46
  | msfCurrent   -- MSF_CURRENT, R46
  | msfChange   -- MSF_CHANGE, R46
  | basBoot   -- BAS_BOOT, R493
  | basBootsel   -- BAS_BOOTSEL, R502
  | basRail   -- BAS_RAIL, R523
  | basFilt   -- BAS_FILT, R525
  | sadReason   -- SAD_REASON, R504
  | sadCtl   -- SAD_CTL, R506
  | crgMbox   -- CRG_MBOX, R454
  | crgRoster   -- CRG_ROSTER, R462
  | crgTpol   -- CRG_TPOL, R465
  | crgTlog   -- CRG_TLOG, R464
  | crgStat   -- CRG_STAT, R455
  | cqxCmd   -- CQX_CMD, R356
  | cqxStat   -- CQX_STAT, R356
  | morCtl   -- MOR_CTL, R327
  | morStat   -- MOR_STAT, R327
  | morHeapbase   -- MOR_HEAPBASE, R321
  | morHeapsize   -- MOR_HEAPSIZE, R321
  | morArea   -- MOR_AREA, R323
  | morHint   -- MOR_HINT, R324
  | morFinlist   -- MOR_FINLIST, R348
  | morFinmbox   -- MOR_FINMBOX, R348
  | morCnta   -- MOR_CNTA, R341
  | morCntb   -- MOR_CNTB, R351
  | evcGcfg   -- EVC_GCFG, R394
  | evcGstat   -- EVC_GSTAT, R403
  | evcPend   -- EVC_PEND, R398
  | evcPsum   -- EVC_PSUM, R400
  | evcRaise   -- EVC_RAISE, R405
  | evcCpwr   -- EVC_CPWR, R402
  | trkMode   -- TRK_MODE, R374
  | trkSelf   -- TRK_SELF, R377
  | trkCtl   -- TRK_CTL, R387
  | trkEntry   -- TRK_ENTRY, R387
  | trkStat   -- TRK_STAT, R387
  | trkDiv   -- TRK_DIV, R379
  | trkDivrec   -- TRK_DIVREC, R379
  | hreCtl   -- HRE_CTL, R431
  | hreHwbase   -- HRE_HWBASE, R429
  | hreDbbase   -- HRE_DBBASE, R434
  | hreStat   -- HRE_STAT, R432
  | hreDevtab   -- HRE_DEVTAB, R449
  | hreSqbase   -- HRE_SQBASE, R448
  | hreSqcfg   -- HRE_SQCFG, R448
  | hreSqstat   -- HRE_SQSTAT, R448
  | hreCqbase   -- HRE_CQBASE, R433
  | hreCqcfg   -- HRE_CQCFG, R446
  | trvCfg   -- TRV_CFG, R416
  | trvTmr   -- TRV_TMR, R418
  | trvCtl   -- TRV_CTL, R408
  | trvSrc   -- TRV_SRC, R408
  | trvDst   -- TRV_DST, R408
  | trvOff   -- TRV_OFF, R408
  | trvCnta   -- TRV_CNTA, R408
  | trvCntb   -- TRV_CNTB, R408
  | trvStep0   -- TRV_STEP0, R408
  | trvStep1   -- TRV_STEP1, R408
  | trvStep2   -- TRV_STEP2, R408
  | trvAux   -- TRV_AUX, R408
  | trvSb   -- TRV_SB, R408
  | trvStat   -- TRV_STAT, R417
  | trvRes   -- TRV_RES, R422
  | netCfg   -- NET_CFG, R468
  | netPhc   -- NET_PHC, R473
  | netPhcadj   -- NET_PHCADJ, R473
  | netSactl   -- NET_SACTL, R469
  | netSakey   -- NET_SAKEY, R469
  | netPcfg   -- NET_PCFG, R471
  | netPcnt   -- NET_PCNT, R470
  | netTsmbox   -- NET_TSMBOX, R475
  | netEqcfg   -- NET_EQCFG, R474
  | rdgCfg   -- RDG_CFG, R481
  | rdgRange   -- RDG_RANGE, R486
  | rdgMbox   -- RDG_MBOX, R483
  | rdgStat   -- RDG_STAT, R489
  | dmcWaymaskLo   -- DMC_WAYMASK_LO, R301
  | dmcWaymaskHi   -- DMC_WAYMASK_HI, R301
  | dmcRbase   -- DMC_RBASE, R303
  | dmcRop   -- DMC_ROP, R303
  | dmcRstat   -- DMC_RSTAT, R303
  | dmcInteg   -- DMC_INTEG, R319
  | dmcIntaddr   -- DMC_INTADDR, R319
  | dmcCtl   -- DMC_CTL, R320
  | dmcDcerr   -- DMC_DCERR, R319
  | dmcDceaddr   -- DMC_DCEADDR, R319
  | dmcCherr   -- DMC_CHERR, R319
  | dmcCheaddr   -- DMC_CHEADDR, R319
  | cfgNiwlim   -- CFG_NIWLIM, R243
  | cfgCrest   -- CFG_CREST, R364
  | cfgOper   -- CFG_OPER, R496
  | cfgStart   -- CFG_START, R491
  | cfgUnitctl   -- CFG_UNITCTL, R508
  | cfgUnitstat   -- CFG_UNITSTAT, R508
  | cfgGfilt   -- CFG_GFILT, R525
  | cfgSnap   -- CFG_SNAP, R362
  | cfgCrpool   -- CFG_CRPOOL, R363
  | cfgBarLo   -- CFG_BAR_LO, R208
  | cfgBarHi   -- CFG_BAR_HI, R208
  | cfgQclk   -- CFG_QCLK, R521
  | cfgTherm   -- CFG_THERM, R524
  | cfgTsrep   -- CFG_TSREP, R295
  | cfgTsrstat   -- CFG_TSRSTAT, R295
  | cfgTserr   -- CFG_TSERR, R319
  | cfgTseaddr   -- CFG_TSEADDR, R319
  | cfgXtab   -- CFG_XTAB, R220
  | cfgXfast   -- CFG_XFAST, R220
  | cfgXdbl   -- CFG_XDBL, R220
  | cfgXmc   -- CFG_XMC, R220
  | cfgMcstat   -- CFG_MCSTAT, R246
  | cfgTlbinv   -- CFG_TLBINV, R286
  | cfgTlbstat   -- CFG_TLBSTAT, R286
  | mcPatchVersion   -- MC_PATCH_VERSION, R261
  | mcCtl   -- MC_CTL, R261
  | mcResult   -- MC_RESULT, R264
  | mcPerr   -- MC_PERR, R257
  | cfgL1err   -- CFG_L1ERR, R319
  | cfgL1eaddr   -- CFG_L1EADDR, R319
  | cfgGdt   -- CFG_GDT, R178
  | cfgSproot   -- CFG_SPROOT, R271
  deriving DecidableEq, Repr

/-- Kinds of the dispatch entries at reset: hardware, microcode or trap (R177). -/
def gdtKind (i : Nat) : Nat :=
  let g := i / 256
  let a := i / 16 % 16
  let b := i % 16
  let n := fun c => c == 0 || c == 2 || c == 6 || c == 7
  let hw := fun c => c == 0 || c == 2
  let pairHw := hw a && hw b
  let pairN := n a && n b
  let un := fun (_ : Unit) => if b != 0 then 2 else if hw a then 0 else if n a then 1 else 2
  let bin := fun (extra : Bool) => if pairHw || extra then 0 else if pairN then 1 else 2
  match g with
  | 0x0 => bin ((a == 5 && b == 0) || (a == 0 && b == 5))
  | 0x1 => bin ((a == 5 && b == 0) || (a == 5 && b == 5))
  | 0x4 => if a == 0 && b == 0 then 0
           else if (a == 0 && b == 6) || (a == 6 && b == 0) || (a == 6 && b == 6) then 1 else 2
  | 0x5 | 0x6 | 0xD | 0xE => un ()
  | 0x7 => bin ((a == 5 && b == 5) || (a == 1 && b == 1))
  | 0x8 => if (a == 6 && b == 6) || (a == 7 && b == 7) then 1 else 0
  | _ => bin false

/-- What the manual says of a register: offset of index 0 in the device region, distance of neighbours, how
many there are (R545), the reset value, and the bits that a write sets (RW), clears by a 1 (W1C) or starts an
action with (WO). The values that a boot configuration gives are those of log 16. -/
structure RegInfo where
  base : Nat
  stride : Nat
  count : Nat
  reset : Word
  rw : Word
  w1c : Word
  wo : Word
  deriving DecidableEq, Repr

def RegName.info : RegName → RegInfo
  | .msfGen => ⟨0x10000, 0x0, 1, 0x1, 0x0, 0x0, 0x0⟩
  | .msfCurrent => ⟨0x10008, 0x0, 1, 0x0, 0x0, 0x0, 0x0⟩
  | .msfChange => ⟨0x10010, 0x0, 1, 0x0, 0x0, 0x3fe, 0x0⟩
  | .basBoot => ⟨0x11000, 0x0, 1, 0x0, 0x0, 0x0, 0x0⟩
  | .basBootsel => ⟨0x11008, 0x0, 1, 0x0, 0x1, 0x0, 0x0⟩
  | .basRail => ⟨0x11010, 0x0, 1, 0x0, 0x0, 0xe000000000000000, 0x0⟩
  | .basFilt => ⟨0x11018, 0x0, 1, 0x191919191919, 0x1f1f1f1f1f1f, 0x0, 0x0⟩
  | .sadReason => ⟨0x12000, 0x0, 1, 0x0, 0x0, 0x0, 0x0⟩
  | .sadCtl => ⟨0x12008, 0x0, 1, 0x0, 0x0, 0x0, 0x800000000000ffff⟩
  | .crgMbox => ⟨0x13000, 0x0, 1, 0x0, 0x80007ffffffffff0, 0x0, 0x0⟩
  | .crgRoster => ⟨0x13008, 0x0, 1, 0x0, 0x80007ffffffffff0, 0x0, 0x0⟩
  | .crgTpol => ⟨0x13010, 0x0, 1, 0x0, 0x0, 0x0, 0x0⟩
  | .crgTlog => ⟨0x13018, 0x0, 1, 0x0, 0x0, 0xc000000000000000, 0x0⟩
  | .crgStat => ⟨0x13020, 0x0, 1, 0x0, 0x0, 0x0, 0x0⟩
  | .cqxCmd => ⟨0x15000, 0x10, 16, 0x0, 0x80007ffffffffff0, 0x0, 0x0⟩
  | .cqxStat => ⟨0x15008, 0x10, 16, 0x0, 0x0, 0xc000000000000000, 0x0⟩
  | .morCtl => ⟨0x14000, 0x0, 1, 0x3e8320a, 0x400fff00ffffffff, 0x0, 0x8000000000000000⟩
  | .morStat => ⟨0x14008, 0x0, 1, 0x0, 0x0, 0x1c00000000000000, 0x0⟩
  | .morHeapbase => ⟨0x14010, 0x0, 1, 0x0, 0x7ffffffc0000, 0x0, 0x0⟩
  | .morHeapsize => ⟨0x14018, 0x0, 1, 0x0, 0xfffff, 0x0, 0x0⟩
  | .morArea => ⟨0x14020, 0x0, 1, 0x0, 0xfffffffc000, 0x0, 0x0⟩
  | .morHint => ⟨0x14028, 0x0, 1, 0x0, 0x7f00000000fffff, 0x0, 0x8000000000000000⟩
  | .morFinlist => ⟨0x14030, 0x0, 1, 0x0, 0x80007ffffffffff0, 0x0, 0x0⟩
  | .morFinmbox => ⟨0x14038, 0x0, 1, 0x0, 0x80007ffffffffff0, 0x0, 0x0⟩
  | .morCnta => ⟨0x14100, 0x10, 16, 0x0, 0x0, 0x0, 0x0⟩
  | .morCntb => ⟨0x14108, 0x10, 16, 0x0, 0x0, 0x0, 0x0⟩
  | .evcGcfg => ⟨0x16000, 0x8, 64, 0x7f000000000000, 0xc07f7f00ffffffff, 0x0, 0x0⟩
  | .evcGstat => ⟨0x16200, 0x8, 64, 0x0, 0x0, 0xc000000000000000, 0x0⟩
  | .evcPend => ⟨0x16400, 0x8, 16, 0x0, 0x0, 0xffffffffffffffff, 0x0⟩
  | .evcPsum => ⟨0x16480, 0x0, 1, 0x0, 0x0, 0x0, 0x0⟩
  | .evcRaise => ⟨0x16488, 0x0, 1, 0x0, 0x0, 0x0, 0x3ff⟩
  | .evcCpwr => ⟨0x16800, 0x8, 96, 0xa, 0x800000000000ffff, 0x0, 0x0⟩
  | .trkMode => ⟨0x1a000, 0x0, 1, 0x0, 0x0, 0x0, 0x0⟩
  | .trkSelf => ⟨0x1a008, 0x0, 1, 0x0, 0x0, 0x0, 0x0⟩
  | .trkCtl => ⟨0x1a100, 0x40, 32, 0x10, 0x1ffff, 0x0, 0x8000000000000000⟩
  | .trkEntry => ⟨0x1a108, 0x40, 32, 0x0, 0x80007ffffffffff0, 0x0, 0x0⟩
  | .trkStat => ⟨0x1a110, 0x40, 32, 0x6000000000000000, 0x0, 0x0, 0x0⟩
  | .trkDiv => ⟨0x1a118, 0x40, 32, 0x0, 0x0, 0x0, 0x0⟩
  | .trkDivrec => ⟨0x1a120, 0x40, 32, 0x0, 0x0, 0xc000000000000000, 0x0⟩
  | .hreCtl => ⟨0x20000, 0x0, 1, 0x10000010000, 0x8000ffffffff0000, 0x0, 0x0⟩
  | .hreHwbase => ⟨0x20008, 0x0, 1, 0x0, 0xfffff80000000000, 0x0, 0x0⟩
  | .hreDbbase => ⟨0x20010, 0x0, 1, 0x0, 0xfffffffffffff000, 0x0, 0x0⟩
  | .hreStat => ⟨0x20018, 0x0, 1, 0x0, 0x0, 0x1, 0x0⟩
  | .hreDevtab => ⟨0x20020, 0x8, 4, 0x0, 0x80007ffffffffff0, 0x0, 0x0⟩
  | .hreSqbase => ⟨0x21000, 0x20, 64, 0x0, 0xfffffffffffff000, 0x0, 0x0⟩
  | .hreSqcfg => ⟨0x21008, 0x20, 64, 0x800000004, 0x803f00ff0000001f, 0x0, 0x4000000000000000⟩
  | .hreSqstat => ⟨0x21010, 0x20, 64, 0x0, 0x0, 0x0, 0x0⟩
  | .hreCqbase => ⟨0x22000, 0x20, 64, 0x0, 0xfffffffffffff000, 0x0, 0x0⟩
  | .hreCqcfg => ⟨0x22008, 0x20, 64, 0x104, 0x8000ffff0000ff1f, 0x0, 0x0⟩
  | .trvCfg => ⟨0x24000, 0x0, 1, 0x3e8, 0xffff, 0x0, 0x0⟩
  | .trvTmr => ⟨0x24100, 0x8, 16, 0x0, 0xc0000000ffffffff, 0x0, 0x0⟩
  | .trvCtl => ⟨0x26000, 0x80, 64, 0x0, 0x7ffffffffffff800, 0x0, 0x8000000000000000⟩
  | .trvSrc => ⟨0x26008, 0x80, 64, 0x0, 0x7fffffffffff, 0x0, 0x0⟩
  | .trvDst => ⟨0x26010, 0x80, 64, 0x0, 0x7fffffffffff, 0x0, 0x0⟩
  | .trvOff => ⟨0x26018, 0x80, 64, 0x0, 0xffffffffffffffff, 0x0, 0x0⟩
  | .trvCnta => ⟨0x26020, 0x80, 64, 0x0, 0x1ffffff01ffffff, 0x0, 0x0⟩
  | .trvCntb => ⟨0x26028, 0x80, 64, 0x0, 0xfff01ffffff, 0x0, 0x0⟩
  | .trvStep0 => ⟨0x26030, 0x80, 64, 0x0, 0xffffffffffffffff, 0x0, 0x0⟩
  | .trvStep1 => ⟨0x26038, 0x80, 64, 0x0, 0xffffffffffffffff, 0x0, 0x0⟩
  | .trvStep2 => ⟨0x26040, 0x80, 64, 0x0, 0xffffffffffffffff, 0x0, 0x0⟩
  | .trvAux => ⟨0x26048, 0x80, 64, 0x0, 0x80007fffffffffff, 0x0, 0x0⟩
  | .trvSb => ⟨0x26050, 0x80, 64, 0x0, 0x80007fffffffffff, 0x0, 0x0⟩
  | .trvStat => ⟨0x26058, 0x80, 64, 0x0, 0x0, 0x700000000000000, 0x0⟩
  | .trvRes => ⟨0x26060, 0x80, 64, 0x0, 0x0, 0x0, 0x0⟩
  | .netCfg => ⟨0x17000, 0x0, 1, 0x0, 0xff, 0x0, 0x0⟩
  | .netPhc => ⟨0x17008, 0x0, 1, 0x0, 0x0, 0x0, 0x0⟩
  | .netPhcadj => ⟨0x17010, 0x0, 1, 0x0, 0x7fffffffffffffff, 0x0, 0x8000000000000000⟩
  | .netSactl => ⟨0x17018, 0x0, 1, 0x0, 0x7ff0000000000000, 0x0, 0x8000000000000000⟩
  | .netSakey => ⟨0x17020, 0x8, 8, 0x0, 0x0, 0x0, 0xffffffffffffffff⟩
  | .netPcfg => ⟨0x17100, 0x8, 8, 0x0, 0xfffffffe3fffffff, 0x0, 0x0⟩
  | .netPcnt => ⟨0x17140, 0x8, 8, 0x0, 0x0, 0x0, 0x8000000000000000⟩
  | .netTsmbox => ⟨0x17180, 0x8, 8, 0x0, 0x80007ffffffffff0, 0x0, 0x0⟩
  | .netEqcfg => ⟨0x17200, 0x8, 64, 0x0, 0xc000000000000007, 0x0, 0x0⟩
  | .rdgCfg => ⟨0x18000, 0x0, 1, 0x0, 0x800fff0000000000, 0x0, 0x0⟩
  | .rdgRange => ⟨0x18008, 0x0, 1, 0x101, 0x0, 0x2000000000000000, 0xc000000000000000⟩
  | .rdgMbox => ⟨0x18010, 0x0, 1, 0x0, 0x80007ffffffffff0, 0x0, 0x0⟩
  | .rdgStat => ⟨0x18020, 0x8, 4, 0xffff, 0x0, 0x0, 0x0⟩
  | .dmcWaymaskLo => ⟨0x19000, 0x100, 4, 0xffffffffffffffff, 0xffffffffffffffff, 0x0, 0x0⟩
  | .dmcWaymaskHi => ⟨0x19008, 0x100, 4, 0xffffffffffffffff, 0xffffffffffffffff, 0x0, 0x0⟩
  | .dmcRbase => ⟨0x19010, 0x100, 4, 0x0, 0xfffffffffc0, 0x0, 0x0⟩
  | .dmcRop => ⟨0x19018, 0x100, 4, 0x0, 0xf070000ffffffff, 0x0, 0x8000000000000000⟩
  | .dmcRstat => ⟨0x19020, 0x100, 4, 0x0, 0x0, 0x4000000000000000, 0x0⟩
  | .dmcInteg => ⟨0x19028, 0x100, 4, 0x0, 0x0, 0xc000000000000000, 0x0⟩
  | .dmcIntaddr => ⟨0x19030, 0x100, 4, 0x0, 0x0, 0x0, 0x0⟩
  | .dmcCtl => ⟨0x19038, 0x100, 4, 0x3, 0x0, 0x0, 0x8000000000000000⟩
  | .dmcDcerr => ⟨0x19040, 0x100, 4, 0xff000000000000, 0x0, 0xc000000000000000, 0x0⟩
  | .dmcDceaddr => ⟨0x19048, 0x100, 4, 0x0, 0x0, 0x0, 0x0⟩
  | .dmcCherr => ⟨0x19050, 0x100, 4, 0xff000000000000, 0x0, 0xc000000000000000, 0x0⟩
  | .dmcCheaddr => ⟨0x19058, 0x100, 4, 0x0, 0x0, 0x0, 0x0⟩
  | .cfgNiwlim => ⟨0x40000, 0x0, 1, 0x100, 0x3ff, 0x0, 0x0⟩
  | .cfgCrest => ⟨0x40008, 0x0, 1, 0x0, 0x780000000000000, 0x800000000000000, 0xe000000000000000⟩
  | .cfgOper => ⟨0x40010, 0x0, 1, 0x80, 0xff, 0x0, 0xc000000000000000⟩
  | .cfgStart => ⟨0x40018, 0x0, 1, 0x0, 0x0, 0x0, 0x800000000000ffff⟩
  | .cfgUnitctl => ⟨0x40020, 0x0, 1, 0x0, 0xff00ff00000000, 0x0, 0x8000000000000000⟩
  | .cfgUnitstat => ⟨0x40028, 0x0, 1, 0x0, 0x0, 0x4000000000000000, 0x0⟩
  | .cfgGfilt => ⟨0x40030, 0x8, 2, 0x0, 0xffffffffffffffff, 0x0, 0x0⟩
  | .cfgSnap => ⟨0x40100, 0x8, 8, 0x0, 0xffffff000000000, 0x0, 0x0⟩
  | .cfgCrpool => ⟨0x40200, 0x8, 20, 0x0, 0xfffffffffff, 0x0, 0x0⟩
  | .cfgBarLo => ⟨0x40300, 0x10, 16, 0x0, 0xffffffffffffffff, 0x0, 0x0⟩
  | .cfgBarHi => ⟨0x40308, 0x10, 16, 0x0, 0x2ffffffff, 0x0, 0x0⟩
  | .cfgQclk => ⟨0x40400, 0x10, 4, 0x1607d007d0, 0xfff, 0x0, 0x0⟩
  | .cfgTherm => ⟨0x40408, 0x10, 4, 0x6e0080000000, 0xff0000000000, 0xff000000, 0x0⟩
  | .cfgTsrep => ⟨0x40800, 0x20, 16, 0x0, 0xffffffffff0, 0x0, 0x8000000000000000⟩
  | .cfgTsrstat => ⟨0x40808, 0x20, 16, 0x0, 0x0, 0x0, 0x0⟩
  | .cfgTserr => ⟨0x40810, 0x20, 16, 0xff000000000000, 0x0, 0xc000000000000000, 0x0⟩
  | .cfgTseaddr => ⟨0x40818, 0x20, 16, 0x0, 0x0, 0x0, 0x0⟩
  | .cfgXtab => ⟨0x41000, 0x80, 96, 0x0, 0x80007ffffffffff0, 0x0, 0x0⟩
  | .cfgXfast => ⟨0x41008, 0x80, 96, 0x0, 0x80007ffffffffff0, 0x0, 0x0⟩
  | .cfgXdbl => ⟨0x41010, 0x80, 96, 0x0, 0x80007ffffffffff0, 0x0, 0x0⟩
  | .cfgXmc => ⟨0x41018, 0x80, 96, 0x0, 0x80007ffffffffff0, 0x0, 0x0⟩
  | .cfgMcstat => ⟨0x41020, 0x80, 96, 0x0, 0x0, 0xc000000000000000, 0x0⟩
  | .cfgTlbinv => ⟨0x41028, 0x80, 97, 0x0, 0xffff7fffffffc000, 0x0, 0x0⟩
  | .cfgTlbstat => ⟨0x41030, 0x80, 97, 0x0, 0x0, 0x6000000000000000, 0x0⟩
  | .mcPatchVersion => ⟨0x41038, 0x80, 96, 0x0, 0x0, 0x0, 0x0⟩
  | .mcCtl => ⟨0x41040, 0x80, 96, 0x0, 0xffffffffff0, 0x0, 0xc000000000000000⟩
  | .mcResult => ⟨0x41048, 0x80, 96, 0x0, 0x0, 0x0, 0x0⟩
  | .mcPerr => ⟨0x41050, 0x80, 96, 0x0, 0x0, 0x8000000000000000, 0x0⟩
  | .cfgL1err => ⟨0x41058, 0x80, 96, 0xff000000000000, 0x0, 0xc000000000000000, 0x0⟩
  | .cfgL1eaddr => ⟨0x41060, 0x80, 96, 0x0, 0x0, 0x0, 0x0⟩
  | .cfgGdt => ⟨0x48000, 0x8, 4096, 0x0, 0x30fff, 0x0, 0x0⟩
  | .cfgSproot => ⟨0x50000, 0x8, 4096, 0x0, 0xe0000fffffffc000, 0x0, 0x0⟩

def RegName.rwMask (n : RegName) : Word := n.info.rw
def RegName.w1cMask (n : RegName) : Word := n.info.w1c
def RegName.woMask (n : RegName) : Word := n.info.wo

/-- The reset value of register i of a name; the dispatch table and the space roots have their own (R177, R271). -/
def RegName.resetValue (n : RegName) (i : Nat) : Word :=
  if n = .cfgGdt then BitVec.ofNat 64 (gdtKind i * 65536 + i)
  else if n = .cfgSproot then (if i = 0 then 0xC000000000000000#64 else 0#64)
  else n.info.reset

/-- Every name, for the search by offset. -/
def RegName.all : List RegName :=
  ([RegName.msfGen, RegName.msfCurrent, RegName.msfChange, RegName.basBoot, RegName.basBootsel, RegName.basRail] : List RegName) ++
  ([RegName.basFilt, RegName.sadReason, RegName.sadCtl, RegName.crgMbox, RegName.crgRoster, RegName.crgTpol] : List RegName) ++
  ([RegName.crgTlog, RegName.crgStat, RegName.cqxCmd, RegName.cqxStat, RegName.morCtl, RegName.morStat] : List RegName) ++
  ([RegName.morHeapbase, RegName.morHeapsize, RegName.morArea, RegName.morHint, RegName.morFinlist, RegName.morFinmbox] : List RegName) ++
  ([RegName.morCnta, RegName.morCntb, RegName.evcGcfg, RegName.evcGstat, RegName.evcPend, RegName.evcPsum] : List RegName) ++
  ([RegName.evcRaise, RegName.evcCpwr, RegName.trkMode, RegName.trkSelf, RegName.trkCtl, RegName.trkEntry] : List RegName) ++
  ([RegName.trkStat, RegName.trkDiv, RegName.trkDivrec, RegName.hreCtl, RegName.hreHwbase, RegName.hreDbbase] : List RegName) ++
  ([RegName.hreStat, RegName.hreDevtab, RegName.hreSqbase, RegName.hreSqcfg, RegName.hreSqstat, RegName.hreCqbase] : List RegName) ++
  ([RegName.hreCqcfg, RegName.trvCfg, RegName.trvTmr, RegName.trvCtl, RegName.trvSrc, RegName.trvDst] : List RegName) ++
  ([RegName.trvOff, RegName.trvCnta, RegName.trvCntb, RegName.trvStep0, RegName.trvStep1, RegName.trvStep2] : List RegName) ++
  ([RegName.trvAux, RegName.trvSb, RegName.trvStat, RegName.trvRes, RegName.netCfg, RegName.netPhc] : List RegName) ++
  ([RegName.netPhcadj, RegName.netSactl, RegName.netSakey, RegName.netPcfg, RegName.netPcnt, RegName.netTsmbox] : List RegName) ++
  ([RegName.netEqcfg, RegName.rdgCfg, RegName.rdgRange, RegName.rdgMbox, RegName.rdgStat, RegName.dmcWaymaskLo] : List RegName) ++
  ([RegName.dmcWaymaskHi, RegName.dmcRbase, RegName.dmcRop, RegName.dmcRstat, RegName.dmcInteg, RegName.dmcIntaddr] : List RegName) ++
  ([RegName.dmcCtl, RegName.dmcDcerr, RegName.dmcDceaddr, RegName.dmcCherr, RegName.dmcCheaddr, RegName.cfgNiwlim] : List RegName) ++
  ([RegName.cfgCrest, RegName.cfgOper, RegName.cfgStart, RegName.cfgUnitctl, RegName.cfgUnitstat, RegName.cfgGfilt] : List RegName) ++
  ([RegName.cfgSnap, RegName.cfgCrpool, RegName.cfgBarLo, RegName.cfgBarHi, RegName.cfgQclk, RegName.cfgTherm] : List RegName) ++
  ([RegName.cfgTsrep, RegName.cfgTsrstat, RegName.cfgTserr, RegName.cfgTseaddr, RegName.cfgXtab, RegName.cfgXfast] : List RegName) ++
  ([RegName.cfgXdbl, RegName.cfgXmc, RegName.cfgMcstat, RegName.cfgTlbinv, RegName.cfgTlbstat, RegName.mcPatchVersion] : List RegName) ++
  ([RegName.mcCtl, RegName.mcResult, RegName.mcPerr, RegName.cfgL1err, RegName.cfgL1eaddr, RegName.cfgGdt] : List RegName) ++
  ([RegName.cfgSproot] : List RegName)

def RegName.offset (n : RegName) (i : Nat) : Nat := n.info.base + i * n.info.stride

/-- The register at an offset of the device region, if one lies there (R545, R546). -/
def regAt (off : Nat) : Option (RegName × Nat) :=
  RegName.all.findSome? fun n =>
    let b := n.info.base
    let st := n.info.stride
    let cnt := n.info.count
    let i := if st = 0 then 0 else (off - b) / st
    if b ≤ off && off == b + i * st && i < cnt then some (n, i) else none

/-- The value held by a register. -/
def State.reg (s : State) (n : RegName) (i : Nat := 0) : Word :=
  Tbl.getD s.setup (n.resetValue i) (n.offset i)

/-- The state with a register holding a value: the hardware's own update, whatever the access column says. -/
def State.setR (s : State) (n : RegName) (i : Nat) (w : Word) : State :=
  { s with setup := Tbl.putD s.setup (n.resetValue i) (n.offset i) w }

/-- A field of a register, and the state with a field set. -/
def State.fld (s : State) (n : RegName) (i hi lo : Nat) : Nat := bitsOf (s.reg n i) hi lo
def State.flag (s : State) (n : RegName) (i b : Nat) : Bool := bitOf (s.reg n i) b
def State.setF (s : State) (n : RegName) (i hi lo v : Nat) : State := s.setR n i (withBits (s.reg n i) hi lo v)

/-- The bits that a write of a part carries (R193, R428). -/
def partMask : Part → Word
  | .full => 0xFFFFFFFFFFFFFFFF#64
  | .low => 0x00000000FFFFFFFF#64
  | .high => 0xFFFFFFFF00000000#64

end Sys2Proof.Machine
end

