-- ==== Sys2Proof/Machine/Signals.lean ====
section
/-! DEFINITION. Units and their states (R39, R40), event sources (R391), Cairn error records (R82). -/

namespace Sys2Proof.Machine

open Sys2Proof

/-! ### Units of the Massif table: keys and state codes (R39) -/

def uCore (c : Nat) : Nat := c
def uTroika (k : Nat) : Nat := 100 + k
def uTile (t : Nat) : Nat := 200 + t
def uChan (q : Nat) : Nat := 220 + q
def uPort (p : Nat) : Nat := 230 + p
def uRidge (p : Nat) : Nat := 240 + p
def uCrag : Nat := 250
def uHre : Nat := 251

def stAbsent : Nat := 0
def stOnline : Nat := 1
def stDraining : Nat := 2
def stOffline : Nat := 3
def stRetired : Nat := 4
def stNotConfigured : Nat := 5

/-- The state code of a unit; not configured until a start configures it (assumption log 16). -/
def State.unit (s : State) (u : Nat) : Nat := Tbl.getD s.units stNotConfigured u
def State.setUnit (s : State) (u v : Nat) : State := { s with units := Tbl.putD s.units stNotConfigured u v }
def State.online (s : State) (u : Nat) : Bool := s.unit u == stOnline

/-- Size in KiB of a tile store (16 MiB; 1 MiB in Saddle mode, R47) or of the usable part of a channel (R312). -/
def State.sizeKiB (s : State) (u : Nat) : Nat := Tbl.getD s.sizes (if u < 220 then 16384 else 0) u

/-- Whether a physical address lies in a tile store or channel that serves requests (R40, R312). -/
def accessible (s : State) (pa : Nat) : Bool :=
  match tileOfPa pa, channelOfPa pa with
  | some t, _ => s.online (uTile t) && pa % 0x1000000 < 1024 * s.sizeKiB (uTile t)
  | none, some q => s.online (uChan q) && (pa - 0x1000000000) % 0x800000000 < 1024 * s.sizeKiB (uChan q)
  | none, none => false

/-- Whether the address lies in a tile store or in deep memory at all. -/
def isMemory (pa : Nat) : Bool := (tileOfPa pa).isSome || (channelOfPa pa).isSome

/-! ### Voted troikas (R376, R377) -/

def troikaVoted (s : State) (k : Nat) : Bool := bitOf (s.reg .trkMode) k

/-- The lead of a voted troika stands for its checkers (R377). -/
def leadOf (s : State) (c : CoreId) : CoreId :=
  if troikaVoted s (troikaOfCore c) then ⟨3 * (c.val / 3), by omega⟩ else c

def leadOfNat (s : State) (n : Nat) : Nat :=
  if h : n < 96 then (leadOf s ⟨n, h⟩).val else n

/-- The cores of a troika. -/
def memberOf (k : TroikaId) (i : Fin 3) : CoreId := ⟨3 * k.val + i.val, by omega⟩
def troikaOf (c : CoreId) : TroikaId := ⟨c.val / 3, by omega⟩
def members (k : TroikaId) : List CoreId := [memberOf k 0, memberOf k 1, memberOf k 2]

/-- The cores that stand behind one number: all three of a voted troika, else the core itself. -/
def partners (s : State) (c : CoreId) : List CoreId :=
  if troikaVoted s (troikaOfCore c) then members (troikaOf c) else [c]

/-! ### Event sources (R391) -/

def sourceHeld (s : State) (n : Nat) : Bool := bitOf (s.reg .evcGstat (n / 16)) (n % 16)
def sourcePendingIn (k : Core) (n : Nat) : Bool := bitOf (Tbl.getD k.pend 0 (n / 64)) (n % 64)
def sourcePending (s : State) (n : Nat) : Bool :=
  sourceHeld s n || s.cores.any (fun e => sourcePendingIn e.2 n)

/-- A pulse of a source: its bit is held in the EVC unless it is already pending (R391, R395). -/
def pulse (s : State) (n : Nat) : State :=
  if n < 1024 && !sourcePending s n then s.setR .evcGstat (n / 16) (withBit (s.reg .evcGstat (n / 16)) (n % 16) true)
  else s

/-- Source i of the group of tile t (R392). -/
def tileSource (t i : Nat) : Nat := 768 + 16 * t + i

/-! ### Cairn error records (R82) -/

/-- What a record says of an error: KIND, SOURCE, NIBBLE and SYNDROME. -/
structure CairnError where
  kind : Nat
  source : Nat
  nibble : Nat
  syndrome : Nat
  deriving DecidableEq, Repr

/-- Log an error in a pair of records: the first since VALID was cleared is kept, a later one sets OVERFLOW,
a corrected one counts in CE_COUNT. -/
def logCairn (s : State) (info addr : RegName) (i pa : Nat) (e : CairnError) : State :=
  let w := s.reg info i
  let corrected := e.kind == 1 || e.kind == 2
  let w1 := if bitOf w 63 then withBit w 62 true
    else withBits (withBits (withBits (withBits (withBit w 63 true) 61 59 e.kind) 58 56 e.source) 55 48 e.nibble)
      47 32 e.syndrome
  let w2 := if corrected then satInc w1 15 0 else w1
  let s1 := s.setR info i w2
  if bitOf w 63 then s1 else s1.setR addr i (BitVec.ofNat 64 (pa / 16 * 16))

/-! ### The Cairn code (R76 to R81; log 43) -/

/-- The nibbles of an error pattern that are not zero. -/
def nibblesOf (e : Codeword) : List Nat := (List.range 36).filter (fun n => e.toNat / 16 ^ n % 16 != 0)

/-- A nibble of an error pattern with one bit set. -/
def oneBit (e : Codeword) (n : Nat) : Bool :=
  let v := e.toNat / 16 ^ n % 16
  v == 1 || v == 2 || v == 4 || v == 8

/-- What the decoder makes of an error pattern, and the data bits that it leaves wrong (R76): one bit or one nibble is
corrected; two bits, or a nibble and a bit of another nibble, are detected; of anything else the manual says nothing. -/
def judge (e : Codeword) : Finding × BitVec 128 :=
  match nibblesOf e with
  | [] => (.clean, 0)
  | [n] => (if oneBit e n then .bit n (Config.cairnSyndrome e) else .nibble n (Config.cairnSyndrome e), 0)
  | [m, n] => if oneBit e m || oneBit e n then (.uncorrectable (Config.cairnSyndrome e), 0) else Config.cairnBeyond e
  | _ => Config.cairnBeyond e

/-- The data of a granule, and its codeword as a store holds it: the check bits of the data, or the poison pattern
(R48, R76, R80). -/
def granuleData (s : State) (pa : Nat) : BitVec 128 := BitVec.ofNat 128 (ofBytes (readBytes s (pa / 16 * 16) 16))

def codewordAt (s : State) (pa : Nat) : Codeword :=
  (if poisoned s pa then Config.poisonCheck else Config.cairnCheck (granuleData s pa)) ++ granuleData s pa

/-- The data bits of a granule that an error leaves wrong. -/
def spoil (s : State) (pa : Nat) (d : BitVec 128) : State :=
  if d = 0 then s else writeBytes s (pa / 16 * 16) (toBytes 16 (granuleData s pa ^^^ d).toNat)

/-- The record of a finding (R79). -/
def findingError (src : Nat) : Finding → Option CairnError
  | .clean => none
  | .bit n y => some ⟨1, src, n, y.toNat⟩
  | .nibble n y => some ⟨2, src, n, y.toNat⟩
  | .uncorrectable y => some ⟨3, src, 0xFF, y.toNat⟩

/-- An error of a granule of a tile store or deep cache in the records of its block, with its event source (R79,
R392). -/
def blockError (s : State) (pa : Nat) (e : CairnError) : State :=
  match tileOfPa pa, channelOfPa pa with
  | some t, _ => pulse (logCairn s .cfgTserr .cfgTseaddr t pa e) (tileSource t (if e.kind == 3 then 15 else 14))
  | none, some q => pulse (logCairn s .dmcDcerr .dmcDceaddr q pa e) ((if e.kind == 3 then 212 else 208) + q)
  | none, none => s

/-- A check at a storage point of the tile stores or deep caches: the block corrects the granule and logs the error;
an uncorrectable granule is poisoned. A poisoned granule gives the poison outcome, whatever has struck it (R80). -/
def storageCheck (s : State) (pa src : Nat) (e : Codeword) : State :=
  if poisoned s pa then s else
  let (f, d) := judge e
  match findingError src f with
  | none => spoil s pa d
  | some x => blockError (if x.kind == 3 then setPoison s pa else spoil s pa d) pa x

/-- Poison consumed by a master: the holding block logs KIND 0b100; a tile store raises its source 15, and R392 names
no source of a deep cache for it (R79, R81, R392; log 43). -/
def poisonConsumed (s : State) (pa : Nat) : State :=
  let e : CairnError := ⟨4, 0, 0xFF, Config.poisonSyndrome.toNat⟩
  match tileOfPa pa, channelOfPa pa with
  | some t, _ => pulse (logCairn s .cfgTserr .cfgTseaddr t pa e) (tileSource t 15)
  | none, some q => logCairn s .dmcDcerr .dmcDceaddr q pa e
  | none, none => s

/-- The poisoned granules of a span are consumed: the first is logged (R81). -/
def consumeSpan (s : State) (pa n : Nat) : State :=
  match (List.range (n / 16 + 2)).find? (fun i => (pa / 16 + i) * 16 < pa + n && poisoned s (pa + 16 * i)) with
  | some i => poisonConsumed s (pa + 16 * i)
  | none => s

end Sys2Proof.Machine
end

