-- ==== Sys2Proof/Machine/DeepCache.lean ====
section
/-! DEFINITION. Quadrant deep caches: hits, allocation under way masks, victims and the eviction buffer
(R299 to R302), and the L1 caches' lines with the directory's removals (R296, R297). -/

namespace Sys2Proof.Machine

open Sys2Proof

def Deep.empty : Deep := ⟨[], [], false, [], [], [], [], [], none⟩

def State.deepOf (s : State) (q : Nat) : Deep := Tbl.getD s.deep Deep.empty q
def State.setDeep (s : State) (q : Nat) (d : Deep) : State := { s with deep := Tbl.putD s.deep Deep.empty q d }

/-- The ways that a class may allocate (DMC_WAYMASKq, R301). -/
def wayMask (s : State) (q cls : Nat) : Nat :=
  if cls < 4 then s.fld .dmcWaymaskLo q (16 * cls + 15) (16 * cls)
  else s.fld .dmcWaymaskHi q (16 * (cls - 4) + 15) (16 * (cls - 4))

def setOfLine (line : Nat) : Nat := line % 4096

def heldLine (d : Deep) (line : Nat) : Option DLine := d.lines.find? (fun l => l.line == line)

/-- An entry of the eviction buffer for a line, and whether its write-back has been issued (R302). -/
def evictedLine (d : Deep) (line : Nat) : Option Evicted := d.evict.find? (fun e => e.line == line)
def writeBackIssued (d : Deep) (line : Nat) : Bool := d.evict.any (fun e => e.line == line && e.issued)

/-- Whether the deep cache or its eviction buffer serves a line without the channel (R302). -/
def servedHere (d : Deep) (line : Nat) : Bool :=
  (heldLine d line).isSome || d.evict.any (fun e => e.line == line && !e.issued)

/-- The way that a class allocates for a line: a free way of its mask, else a not-recently-used one whose line is not
locked, else any unlocked one (R301; which of several is the choice of log 10). -/
def pickWay (s : State) (d : Deep) (cls q line : Nat) : Option Nat :=
  let m := wayMask s q cls
  let inSet := d.lines.filter (fun l => setOfLine l.line == setOfLine line)
  let mine := (List.range 16).filter (fun w => m / 2 ^ w % 2 == 1)
  match mine.find? (fun w => !inSet.any (fun l => l.way == w)) with
  | some w => some w
  | none =>
    let cand := mine.filter (fun w => inSet.any (fun l => l.way == w && !l.locked))
    let cold := cand.filter (fun w => inSet.any (fun l => l.way == w && !l.recent))
    let pool := if cold.isEmpty then cand else cold
    if pool.isEmpty then none else pool[Config.victim s.free pool.length % pool.length]?

/-- A line is recently used; when every line of its set is, only the last one used stays so (log 10). -/
def useLine (d : Deep) (line : Nat) : Deep :=
  let same := fun (l : DLine) => setOfLine l.line == setOfLine line
  let full := d.lines.all (fun l => !same l || l.recent || l.line == line)
  { d with lines := d.lines.map (fun l =>
      if l.line == line then { l with recent := true } else if same l && full then { l with recent := false } else l) }

/-- A write-back reaches the channel: the line's counter rises (R314). -/
def countWriteBack (d : Deep) (line : Nat) : Deep :=
  { d with counters := Tbl.put d.counters line (Tbl.getD d.counters 0 line + 1) }

/-- The oldest write-back is issued, or, when it has been, its write response arrives and the entry frees (R302). -/
def issueEvicted (d : Deep) : Deep :=
  match d.evict with
  | [] => d
  | e :: t => if e.issued then { d with evict := t } else { countWriteBack d e.line with evict := { e with issued := true } :: t }

/-- The oldest entry frees: what a miss waits for while the buffer is full (R302). -/
def freeEvicted (d : Deep) : Deep :=
  match d.evict with
  | [] => d
  | e :: t => { (if e.issued then d else countWriteBack d e.line) with evict := t }

/-- Put a line into a way, its old holder evicted: a dirty victim enters the buffer, a clean one is dropped;
a full buffer first frees an entry (R302). -/
def placeLine (d : Deep) (l : DLine) : Deep :=
  let victim := d.lines.find? (fun x => setOfLine x.line == setOfLine l.line && x.way == l.way)
  let rest := d.lines.filter (fun x => !(setOfLine x.line == setOfLine l.line && x.way == l.way))
  match victim with
  | none => { d with lines := l :: rest }
  | some v =>
    let d1 := if v.dirty && 32 ≤ d.evict.length then freeEvicted d else d
    { d1 with lines := l :: rest
              evict := if v.dirty then d1.evict ++ [⟨v.line, false, v.stored, v.bad⟩] else d1.evict }

/-- The poisoned granules of a line, by their place in it. -/
def badGranules (s : State) (line : Nat) : List Nat := (List.range 4).filter (fun i => poisoned s (line * 64 + 16 * i))

/-- The counter lines above a line, level by level: eight counters to a line (R314). -/
def counterPath (line : Nat) : List (Nat × Nat) := (List.range 9).map (fun l => (l + 1, line / 8 ^ (l + 1)))

/-- The counter lines that a read finds missing: those below the lowest level that the cache holds (R315). -/
def missingCounters (d : Deep) (line : Nat) : List (Nat × Nat) :=
  (counterPath line).takeWhile (fun x => !d.verified.contains x)

/-- Verified counter lines enter the counter cache of 2,048 lines; a full cache gives up its oldest (R315; log 10). -/
def holdCounters (d : Deep) (line : Nat) : Deep :=
  { d with verified := ((missingCounters d line) ++ d.verified).take 2048 }

/-- A request of a class to a line of channel q (R301, R302). The bytes of memory are those before a write. A request
to a line whose write-back has been issued waits for the response and then misses. -/
def deepTouch (s : State) (q cls line : Nat) (wr : Bool) : State :=
  let d0 := s.deepOf q
  let d := if writeBackIssued d0 line then { d0 with evict := d0.evict.filter (fun e => e.line != line) } else d0
  let now := readBytes s (line * 64) 64
  let mark := fun (l : DLine) =>
    if wr && !l.dirty then { l with dirty := true, stored := now, bad := badGranules s line } else l
  match heldLine d line with
  | some _ => s.setDeep q (useLine { d with lines := d.lines.map (fun l => if l.line == line then mark l else l) } line)
  | none =>
    match evictedLine d line, pickWay s d cls q line with
    | some e, some w =>
      let d1 := { d with evict := d.evict.filter (fun x => x.line != line) }
      s.setDeep q (useLine (placeLine d1 ⟨line, w, true, false, true, e.stored, e.bad⟩) line)
    | some _, none => s.setDeep q d
    | none, some w => s.setDeep q (useLine (placeLine (holdCounters d line) (mark ⟨line, w, false, false, true, [], []⟩)) line)
    | none, none => s.setDeep q (if wr then countWriteBack (holdCounters d line) line else holdCounters d line)

/-- Every line of a span is requested: the deep cache of its channel sees it (R299). -/
def cacheTouch (s : State) (cls pa n : Nat) (wr : Bool) : State :=
  match channelOfPa pa with
  | some q => (List.range ((pa + n + 63) / 64 - pa / 64)).foldl (fun x i => deepTouch x q cls (pa / 64 + i) wr) s
  | none => s

/-- What a read of an address meets at its channel before the data (R302, R317, R318): nothing, a wait (a retraining,
or an issued write-back of the line), or the end of a read that timed out. A line that the deep cache holds needs no
channel. -/
inductive DeepState where
  | ready | stalled | timedOut
  deriving DecidableEq, Repr

def deepState (s : State) (pa : Nat) : DeepState :=
  match channelOfPa pa with
  | none => .ready
  | some q =>
    let d := s.deepOf q
    if servedHere d (pa / 64) then .ready
    else if d.timedOut.contains (pa / 64) then .timedOut
    else if d.retraining || writeBackIssued d (pa / 64) then .stalled else .ready

/-- The row of an address of a tile store (R295): bank a[8:4] and the block of 64 granules 0x200 apart. -/
def bankOf (pa : Nat) : Nat := pa / 16 % 32
def rowOf (pa : Nat) : Nat := pa % 0x1000000 / 0x8000 * 32 + bankOf pa

/-- Whether a granule of a span lies in a row under repair: its requests wait until the copy ends (R295). -/
def rowBusy (s : State) (pa n : Nat) : Bool :=
  match tileOfPa pa with
  | none => false
  | some t =>
    match Tbl.get? s.rowRepair t with
    | none => false
    | some r => (List.range ((pa + n + 15) / 16 - pa / 16)).any (fun i => rowOf (pa + 16 * i) == r)

/-- What every line of a span meets: the first that is not ready. -/
def spanState (s : State) (pa n : Nat) : DeepState :=
  ((List.range ((pa + n + 63) / 64 - pa / 64)).map (fun i => deepState s ((pa / 64 + i) * 64))).find? (· != .ready)
    |>.getD .ready

/-- The error response of a timed-out read has been given. -/
def clearTimedOut (s : State) (line : Nat) : State :=
  match channelOfPa (line * 64) with
  | none => s
  | some q => s.setDeep q { s.deepOf q with timedOut := eraseNat (s.deepOf q).timedOut line }

/-- The requester class of a core at channel q and of the other masters (R301). -/
def coreClass (c : CoreId) (pa : Nat) : Nat := if channelOfPa pa == some (quadOfCore c) then 0 else 1

def classOfMaster : Master → Nat → Nat
  | .core c, pa => coreClass c pa
  | .moraine _, _ => 2
  | .cirque _, _ => 3
  | .traverse _, _ => 4
  | .hre, _ => 5
  | .crag, _ => 6
  | .ridge _, _ => 7

/-! ### Slots (R23, R24) -/

/-- The master whose slots a request takes: a Cirque unit uses those of its tile's Moraine engine. -/
def slotHolder : Master → Master
  | .cirque t => .moraine t
  | m => m

def slotsOf : Master → Nat
  | .core _ => 48
  | .traverse _ => 512
  | .moraine _ | .cirque _ => 128
  | .hre => 512
  | .crag => 8
  | .ridge _ => 64

def slotUsed (s : State) (m : Master) (i : Nat) : Bool :=
  s.flights.any (fun f => slotHolder f.master == slotHolder m && f.slot == i)

/-- The lowest free slot; with none the master stalls its next request (R24). -/
def freeSlot (s : State) (m : Master) : Option Nat := (List.range (slotsOf m)).find? (fun i => !slotUsed s m i)

def hasSlot (s : State) (m : Master) : Bool := (freeSlot s m).isSome

def addFlight (s : State) (f : Flight) : State := { s with flights := s.flights ++ [f] }

/-- An access that waits for its channel holds a slot of its master from its first try to the response (R23, R318). -/
def waitFlight (s : State) (m : Master) (pa n : Nat) : State :=
  if s.flights.any (fun f => f.master == m && f.pa == pa && f.len == n) then s else
  match freeSlot s m with
  | some i => addFlight s ⟨m, i, pa, n, true, [], false⟩
  | none => s

def endFlight (s : State) (c : CoreId) (pa n : Nat) : State :=
  { s with flights := s.flights.filter (fun f => !(f.master == .core c && f.pa == pa && f.len == n)) }

/-! ### L1 caches and the directories (R132, R296 to R298) -/

/-- The members of a list that a choice, if there is one, does not name. -/
def dropChosen (l : List Nat) (v : Option Nat) : List Nat :=
  l.filter (fun x => match v with | some y => x != y | none => true)

/-- A core whose L1 data cache has lost a line, if one is named: its headers and its granules found bad go with it
(R132). -/
def dropData (k : Core) (v : Option Nat) : Core :=
  { k with
    l1d := dropChosen k.l1d v
    l1bad := k.l1bad.filter (fun g => match v with | some y => g / 4 != y | none => true)
    headers := k.headers.filter (fun h => match v with | some y => h.2 / 64 != y | none => true) }

/-- The block whose directory has a line: tile store t, or deep cache q at 16 + q. -/
def dirOf (line : Nat) : Nat :=
  match tileOfPa (line * 64), channelOfPa (line * 64) with
  | some t, _ => t
  | none, some q => 16 + q
  | none, none => 20

def dirLines (s : State) (line : Nat) : List Nat := Tbl.getD s.dirs [] (dirOf line)

/-- Whether an L1 of some core holds a line. -/
def heldInL1 (s : State) (line : Nat) : Bool :=
  s.cores.any (fun x => x.2.l1d.contains line || x.2.l1i.contains line)

/-- A write by any master removes the line from every L1 but the writer's own data cache, drops header-buffer entries
of that line, and leaves in the directory the lines that some L1 still holds (R297, R132). -/
def removeLine (s : State) (writer : Option CoreId) (line : Nat) : State :=
  let s1 := { s with cores := s.cores.map (fun (x : Nat × Core) =>
    let own := match writer with | some c => c.val == x.1 | none => false
    let k := if own then x.2 else dropData x.2 (some line)
    (x.1, { k with l1i := eraseNat k.l1i line, headers := k.headers.filter (fun h => h.2 / 64 != line) })) }
  { s1 with dirs := if heldInL1 s1 line then s1.dirs
                    else Tbl.putD s1.dirs [] (dirOf line) (eraseNat (dirLines s1 line) line) }

/-- The line that a line entering an L1 of a set count and associativity displaces (log 10). -/
def l1Victim (l : List Nat) (sets ways pick line : Nat) : Option Nat :=
  let same := l.filter (fun x => x % sets == line % sets)
  if l.contains line || same.length < ways then none else same[Config.victim pick same.length % same.length]?

/-- The line takes its entry in the directory of its block; the entry that it displaces leaves every L1 first (R298;
log 45). -/
def enterDirectory (s : State) (line : Nat) : State :=
  let held := dirLines s line
  let v := if held.contains line then none else Config.dirVictim line held
  { s with
    cores := s.cores.map (fun (x : Nat × Core) => (x.1, { dropData x.2 v with l1i := dropChosen x.2.l1i v }))
    dirs := Tbl.put s.dirs (dirOf line) (if held.contains line then held else line :: dropChosen held v) }

/-- A line enters an L1 cache of the core: 8 ways of 64 sets for data, 4 of 128 for instructions (R296, R297). -/
def touchL1 (s : State) (c : CoreId) (fetch : Bool) (line : Nat) : State :=
  let s1 := enterDirectory s line
  s1.modCore c (fun k =>
    if fetch then
      { k with l1i := if k.l1i.contains line then k.l1i
                      else line :: dropChosen k.l1i (l1Victim k.l1i 128 4 s.free line) }
    else
      let k1 := dropData k (l1Victim k.l1d 64 8 s.free line)
      { k1 with l1d := if k.l1d.contains line then k.l1d else line :: k1.l1d })

/-- The lines that a span touches. -/
def removeLines (s : State) (writer : Option CoreId) (pa n : Nat) : State :=
  (List.range ((pa + n + 63) / 64 - pa / 64)).foldl (fun x i => removeLine x writer (pa / 64 + i)) s

/-- A write performed at its holding block (R306): the deep cache, every L1 copy, then the bytes; the answer
tells whether poison refused a share of it (R80). -/
def performWrite (s : State) (cls : Nat) (writer : Option CoreId) (pa : Nat) (bs : List Byte) : State × Bool :=
  let s1 := cacheTouch s cls pa bs.length true
  let s2 := removeLines s1 writer pa bs.length
  writeSpan s2 pa bs

/-- A word written at its block by a walker or by microcode (R278, R341). -/
def putWord (s : State) (cls pa : Nat) (w : Word) : State := (performWrite s cls none pa (bytesOfWord w)).1

end Sys2Proof.Machine
end

