-- ==== Sys2Proof/Machine/Translate.lean ====
section
/-! DEFINITION. Spaces, the table walk, TLBs, invalidation and Crest copy-on-write (R266 to R292, R366). -/

namespace Sys2Proof.Machine

open Sys2Proof

/-- The kinds of access (R226 ACCESS). -/
inductive Acc where
  | fetch | read | write | atomic | header
  deriving DecidableEq, Repr

def Acc.code : Acc → Nat
  | .fetch => 1 | .read => 2 | .write => 3 | .atomic => 4 | .header => 5

def Acc.writes : Acc → Bool
  | .write | .atomic => true
  | _ => false

/-- The first address of the emergency stack and the end of the virtual range (R234, R266). -/
def emergBase : Nat := 0x7FFFFFFFFE00
def vaTop : Nat := 2 ^ 47
def inEmergency (va : Nat) : Bool := emergBase ≤ va && va < vaTop

/-- The result of a translation: an untranslated identity, or an entry. -/
inductive Xlat where
  | identity (pa : Nat)
  | entry (e : TlbEntry)
  deriving DecidableEq, Repr

/-- A page of a space, its address and leaf. -/
def leafPpn (w : Word) : Nat := bitsOf w 39 10
def leafEpoch (w : Word) : Nat := bitsOf w 55 40
def entryOfLeaf (space va : Nat) (w : Word) (pa : Nat) : TlbEntry :=
  { space := space, vpn := va / 16384, ppn := leafPpn w, epoch := leafEpoch w, w := bitOf w 5, d := bitOf w 4,
    raw := bitOf w 7, pin := bitOf w 2, leaf := pa }

/-- A valid entry that breaks R275 at its level. -/
def entryMalformed (w : Word) (level : Nat) : Bool :=
  !isFix w || bitsOf w 9 8 != 0 || bitOf w 6 ||
    (if level < 3 then leafEpoch w != 0 || bitOf w 7 || bitsOf w 5 2 != 0 || !bitOf w 1 else bitOf w 1)

def walkIndex (va level : Nat) : Nat := va / 2 ^ (47 - 11 * level) % 2048

def pageTrap (c : Cause) (va access detail : Nat) : Trap :=
  { cause := c, access := access, faddr := fixN va, detail := detail }

/-- The levels of a walk from a table (R277): the leaf and its address, or the fault. A read that ends by the timeout of
its channel is an error response (R254, R317); one that meets a retraining or a row under repair waits (R295, R318): a
core's walk ends the command, another master's waits inside it (log 23). `left` counts levels. -/
def walkFrom (s : State) (waits : Bool) (va acc : Nat) : Nat → Nat → Except Stop (Word × Nat)
  | 0, _ => .error (.trap (pageTrap .pageAbsent va acc 0))
  | left + 1, table =>
    let level := 3 - left
    let pa := table + 8 * walkIndex va level
    let at_ := level * 2 ^ 48 + pa
    if inDevice pa then .error (.trap (pageTrap .walkDevice va 6 at_))
    else if inHostWindow pa || !accessible s pa || poisoned s pa || deepState s pa == .timedOut then
      .error (.trap (pageTrap .walkFault va 6 at_))
    else if waits && (deepState s pa == .stalled || rowBusy s pa 8) then .error .hold
    else
      let e := readWord s pa
      if !bitOf e 0 then .error (.trap (pageTrap .pageAbsent va acc pa))
      else if entryMalformed e level then .error (.trap (pageTrap .walkFault va 6 at_))
      else if left = 0 then .ok (e, pa)
      else walkFrom s waits va acc left (16384 * leafPpn e)

/-- The walk of a space that is valid and not identity mapped. -/
def walk (s : State) (space va acc : Nat) : Except Stop (Word × Nat) :=
  walkFrom s true va acc 3 (16384 * s.fld .cfgSproot space 43 14)

/-- The walk of a master other than a core. -/
def masterWalk (s : State) (space va acc : Nat) : Except Stop (Word × Nat) :=
  walkFrom s false va acc 3 (16384 * s.fld .cfgSproot space 43 14)

/-- The addresses that a walk reads. -/
def walkReads (s : State) (va : Nat) : Nat → Nat → List Nat
  | 0, _ => []
  | left + 1, table =>
    let pa := table + 8 * walkIndex va (3 - left)
    if !accessible s pa then [] else
      let e := readWord s pa
      pa :: (if bitOf e 0 then walkReads s va left (16384 * leafPpn e) else [])

/-- The deep caches see the reads of a walk, under the class that the master has at each address (R301). -/
def touchWalk (s : State) (cls : Nat → Nat) (space va : Nat) : State :=
  (walkReads s va 3 (16384 * s.fld .cfgSproot space 43 14)).foldl (fun x pa => cacheTouch x (cls pa) pa 8 false) s

def spaceValid (s : State) (space : Nat) : Bool := s.flag .cfgSproot space 63
def spaceIdmap (s : State) (space : Nat) : Bool := s.flag .cfgSproot space 62
def spaceRO (s : State) (space : Nat) : Bool := s.flag .cfgSproot space 61

/-- The address that the tables give now, with no update and no TLB: what engine accesses use. -/
def mapNow (s : State) (space va : Nat) : Option Nat :=
  if !spaceValid s space then none
  else if spaceIdmap s space then (if va < 2 ^ 44 then some va else none)
  else match masterWalk s space va 2 with
    | .ok (w, _) => some (16384 * leafPpn w + va % 16384)
    | .error _ => none

/-! ### TLBs (R280 to R283) -/

def tlbFind (t : List TlbEntry) (space va : Nat) : Option TlbEntry :=
  t.find? (fun e => e.space == space && e.vpn == va / 16384)

def tlbDrop (t : List TlbEntry) (space va : Nat) : List TlbEntry :=
  t.filter (fun e => !(e.space == space && e.vpn == va / 16384))

/-- Install an entry in a TLB of n entries; a full TLB gives up the entry that the replacement choice names. -/
def tlbInstall (t : List TlbEntry) (n pick : Nat) (e : TlbEntry) : List TlbEntry :=
  let t1 := t.filter (fun x => !(x.space == e.space && x.vpn == e.vpn))
  if t1.length < n then e :: t1 else e :: dropAt t1 (Config.victim pick t1.length % t1.length)

/-- An entry of a set of the L2 TLB is recently used; when every entry of a full set is, only this one stays so. -/
def useEntry (same : List TlbEntry) (e : TlbEntry) : List TlbEntry :=
  let isE := fun (x : TlbEntry) => x.space == e.space && x.vpn == e.vpn
  let full := 8 ≤ same.length && same.all (fun x => x.recent || isE x)
  same.map (fun x => if isE x then { x with recent := true } else if full then { x with recent := false } else x)

/-- The L2 TLB: 256 sets of 8 ways by address bits [21:14]; a not-recently-used way is replaced first (R280; which of
several is the choice of log 10). -/
def l2Install (t : List TlbEntry) (pick : Nat) (e : TlbEntry) : List TlbEntry :=
  let same := (t.filter (fun x => x.vpn % 256 == e.vpn % 256)).filter (fun x => !(x.space == e.space && x.vpn == e.vpn))
  let rest := t.filter (fun x => x.vpn % 256 != e.vpn % 256)
  let cold := same.filter (fun x => !x.recent)
  let pool := if cold.isEmpty then same else cold
  let kept := if same.length < 8 then same else
    match pool[Config.victim pick pool.length % pool.length]? with
    | some v => same.filter (fun x => x != v)
    | none => same
  useEntry (e :: kept) e ++ rest

/-- The L2 TLB after a hit on an entry. -/
def l2Use (t : List TlbEntry) (e : TlbEntry) : List TlbEntry :=
  useEntry (t.filter (fun x => x.vpn % 256 == e.vpn % 256)) e ++ t.filter (fun x => x.vpn % 256 != e.vpn % 256)

def coreL2 (s : State) (c : CoreId) : List TlbEntry := Tbl.getD s.l2tlb [] (tileOfCore c)

/-- Install in the L1 TLB of the access. -/
def fillL1 (s : State) (c : CoreId) (fetch : Bool) (e : TlbEntry) : State :=
  let e1 := { e with recent := false }
  s.modCore c (fun k => if fetch then { k with itlb := tlbInstall k.itlb 16 s.free e1 }
                        else { k with dtlb := tlbInstall k.dtlb 48 s.free e1 })

/-- Install in the L1 TLB of the access and in the tile's L2 TLB. -/
def installCore (s : State) (c : CoreId) (fetch : Bool) (e : TlbEntry) : State :=
  let s1 := fillL1 s c fetch e
  { s1 with l2tlb := Tbl.putD s1.l2tlb [] (tileOfCore c) (l2Install (coreL2 s c) s.free e) }

/-- Whether an invalidation of a kind matches an entry (R286). -/
def invMatches (i : Inval) (e : TlbEntry) : Bool :=
  match i.kind with
  | 1 => e.space == i.space && e.vpn == i.vpn
  | 2 => e.space == i.space
  | 3 => true
  | 4 => e.vpn == i.vpn
  | _ => false

/-- Every matching entry leaves every L1, L2 and edge TLB of the device (R287). -/
def invalidate (s : State) (i : Inval) : State :=
  let keep := fun (t : List TlbEntry) => t.filter (fun e => !invMatches i e)
  { s with
    cores := s.cores.map (fun x => (x.1, { x.2 with dtlb := keep x.2.dtlb, itlb := keep x.2.itlb }))
    l2tlb := (s.l2tlb.map (fun x => (x.1, keep x.2))).filter (fun x => !x.2.isEmpty)
    edge := (s.edge.map (fun x => (x.1, keep x.2))).filter (fun x => !x.2.isEmpty) }

/-! ### The other masters (R268, R280 to R283): an edge TLB each, and the tile's L2 TLB for its Moraine engine and
Cirque unit, whose tile stands in `mor.engine` -/

/-- The edge TLB of a master, by the requester class of its accesses (R305); class 12 is Traverse engine 1. -/
def edgeKey (cls : Nat) : Option Nat :=
  match cls with
  | 6 => some 0
  | 4 => some 1
  | 12 => some 2
  | 5 => some 3
  | 7 => some 4
  | _ => none

def edgeOf (s : State) (cls : Nat) : List TlbEntry :=
  match edgeKey cls with
  | some k => Tbl.getD s.edge [] k
  | none => Tbl.getD s.l2tlb [] s.mor.engine

/-- The entry of a master for an address. -/
def edgeFind (s : State) (cls space va : Nat) : Option TlbEntry := tlbFind (edgeOf s cls) space va

def edgeInstall (s : State) (cls : Nat) (e : TlbEntry) : State :=
  match edgeKey cls with
  | some k => { s with edge := Tbl.putD s.edge [] k (tlbInstall (edgeOf s cls) 64 s.free e) }
  | none => { s with l2tlb := Tbl.putD s.l2tlb [] s.mor.engine (l2Install (edgeOf s cls) s.free e) }

/-- The address that a master's translation gives, and whether its page is raw (R276): its TLB, else the tables. -/
def mapPage (s : State) (cls space va : Nat) : Option (Nat × Bool) :=
  if !spaceValid s space then none
  else if spaceIdmap s space then (if va < 2 ^ 44 then some (va, false) else none)
  else match edgeFind s cls space va with
    | some e => some (16384 * e.ppn + va % 16384, e.raw)
    | none => match masterWalk s space va 2 with
      | .ok (w, _) => some (16384 * leafPpn w + va % 16384, bitOf w 7)
      | .error _ => none

/-- The address of a byte access of a master, and of a tagged access, which a raw page refuses (R276). -/
def mapEdge (s : State) (cls space va : Nat) : Option Nat := (mapPage s cls space va).map (·.1)

def mapWord (s : State) (cls space va : Nat) : Option Nat :=
  match mapPage s cls space va with
  | some (pa, raw) => if raw then none else some pa
  | none => none

/-- The update walk and its install that a master's read makes on a miss (R277). -/
def touchPage (s : State) (cls space va : Nat) : State :=
  if !spaceValid s space || spaceIdmap s space then s
  else match edgeFind s cls space va with
  | some e => if (edgeKey cls).isSome then s
      else { s with l2tlb := Tbl.putD s.l2tlb [] s.mor.engine (l2Use (edgeOf s cls) e) }
  | none => match masterWalk s space va 2 with
    | .error _ => s
    | .ok (leaf, pa) =>
      let leaf1 := withBit leaf 3 true
      let s0 := touchWalk s (fun _ => cls % 8) space va
      let s1 := if leaf1 == leaf then s0 else putWord s0 (cls % 8) pa leaf1
      edgeInstall s1 cls (entryOfLeaf space va leaf1 pa)

/-- The deep caches see a master's read of the share of n bytes that lies in the page of an address. -/
def touchData (s : State) (cls space va n : Nat) : State :=
  match mapEdge s cls space va with
  | some pa => cacheTouch s (cls % 8) pa (min n (16384 - va % 16384)) false
  | none => s

/-- What a master's read of n bytes does beside giving them: the walk and install for each page, and the deep caches'
part (R268, R277, R299). -/
def touchEdge (s : State) (cls space va n : Nat) : State :=
  (List.range (if n == 0 then 0 else (va + n - 1) / 16384 + 1 - va / 16384)).foldl
    (fun x i =>
      let a := if i == 0 then va else (va / 16384 + i) * 16384
      touchData (touchPage x cls space a) cls space a (va + n - a)) s

/-! ### Crest pools, page and table copies (R363, R366) -/

/-- The pool of the block that holds an address. -/
def poolOf (pa : Nat) : Nat :=
  match tileOfPa pa, channelOfPa pa with
  | some t, _ => t
  | none, some q => 16 + q
  | none, none => 0

def poolPages (s : State) (n : Nat) : List Nat := Tbl.getD s.pools [] n

/-- CFG_CRPOOLn.FREE follows the pool. -/
def setPool (s : State) (n : Nat) (l : List Nat) : State :=
  { s with pools := Tbl.putD s.pools [] n l }.setF .cfgCrpool n 63 50 l.length

/-- Take a page from the pool of a block. -/
def takePage (s : State) (n : Nat) : Option (Nat × State) :=
  match poolPages s n with
  | [] => none
  | p :: t => some (p, setPool s n t)

def givePage (s : State) (pa : Nat) : State := setPool s (poolOf pa) (poolPages s (poolOf pa) ++ [pa])

/-- Copy n granules with their poison (R80). -/
def copyGranules (s : State) : Nat → Nat → Nat → State
  | _, _, 0 => s
  | src, dst, n + 1 =>
    let s1 := clearPoison (writeBytes s dst (readBytes s src 16)) dst
    let s2 := if poisoned s src then setPoison s1 dst else s1
    copyGranules s2 (src + 16) (dst + 16) n

/-- The copy of a page: the deep caches and the L1 caches see its reads and its writes (R297, R299). -/
def copyPage (s : State) (cls src dst : Nat) : State :=
  copyGranules (removeLines (cacheTouch (cacheTouch s cls src 16384 false) cls dst 16384 true) none dst 16384) src dst 1024

/-- The physical address of the level-3 table that a space's tables name for an address. -/
def level3Of (s : State) (space va : Nat) : Option (Nat × Nat) :=
  let l1 := 16384 * s.fld .cfgSproot space 43 14 + 8 * walkIndex va 1
  let e1 := readWord s l1
  if !bitOf e1 0 then none else
    let l2 := 16384 * leafPpn e1 + 8 * walkIndex va 2
    let e2 := readWord s l2
    if !bitOf e2 0 then none else some (16384 * leafPpn e2, l2)

def globalEpoch (s : State) : Nat := s.fld .cfgCrest 0 15 0

/-- The held snapshots with an epoch of at least e. -/
def heldSince (s : State) (e : Nat) : List Nat :=
  (List.range 8).filter (fun k => s.flag .cfgSnap k 63 && e ≤ s.fld .cfgSnap k 15 0)

/-- Point the level-2 entries of snapshots at a table. -/
def pointLevel2 (s : State) (cls va t3 : Nat) : List Nat → State
  | [] => s
  | k :: ks =>
    let s1 := match level3Of s (s.fld .cfgSnap k 59 48) va with
      | some (_, pa) => putWord s cls pa (withBits (readWord s pa) 39 10 (t3 / 16384))
      | none => s
    pointLevel2 s1 cls va t3 ks

/-- Copy-on-write of the page of a leaf by a master of a class (R366): the new leaf, or none when a pool is empty. -/
def copyOnWrite (s : State) (cls va : Nat) (leaf : Word) (leafPa : Nat) : Option (State × Word) :=
  let g := globalEpoch s
  let e := leafEpoch leaf
  let inv : Inval := ⟨4, 0, va / 16384⟩
  let table := leafPa - 8 * walkIndex va 3
  match heldSince s e with
  | [] =>
    let w := withBits leaf 55 40 g
    some (invalidate (putWord s cls leafPa w) inv, w)
  | held =>
    let need := held.filter (fun k => (level3Of s (s.fld .cfgSnap k 59 48) va).map (·.1) == some table)
    let step1 : Option State :=
      if need.isEmpty then some s else
        match takePage s (poolOf table) with
        | none => none
        | some (t3, s1) => some (pointLevel2 (copyPage s1 cls table t3) cls va t3 need)
    match step1 with
    | none => none
    | some s1 =>
      match takePage s1 (poolOf (16384 * leafPpn leaf)) with
      | none => none
      | some (p, s2) =>
        let w := withBits (withBits leaf 39 10 (p / 16384)) 55 40 g
        some (invalidate (putWord (copyPage s2 cls (16384 * leafPpn leaf) p) cls leafPa w) inv, w)

/-! ### The core's translation -/

/-- What an instruction computes with: the state, or a stop. -/
abbrev M (α : Type) := StateT State (Except Stop) α

def stopM {α : Type} (x : Stop) : M α := fun _ => .error x
def trapM {α : Type} (t : Trap) : M α := stopM (.trap t)

/-- Checks of a leaf against the access (R276, R277), for a hit or a walk. -/
def leafFault (ro raw w byteAcc : Bool) (acc : Acc) : Option Cause :=
  if raw && !byteAcc then some .pageKind
  else if acc.writes && (!w || ro) then some .pageWrite
  else none

/-- The update walk and its install (R277): sets A, and D for a write. -/
def walkUpdate (s : State) (c : CoreId) (space va : Nat) (acc : Acc) (byteAcc : Bool) :
    Except Stop (TlbEntry × State) :=
  match walk s space va acc.code with
  | .error x => .error x
  | .ok (leaf, pa) =>
    if s.remap.contains (leafPpn leaf) then .error .hold
    else match leafFault (spaceRO s space) (bitOf leaf 7) (bitOf leaf 5) byteAcc acc with
    | some cse => .error (.trap (pageTrap cse va acc.code pa))
    | none =>
      let need := !bitOf leaf 3 || (acc.writes && !bitOf leaf 4)
      let new := withBit (if acc.writes then withBit leaf 4 true else leaf) 3 true
      let s0 := touchWalk s (coreClass c) space va
      let s1 := if need then putWord s0 (coreClass c pa) pa new else s0
      let e := entryOfLeaf space va (if need then new else leaf) pa
      .ok (e, installCore s1 c (acc == .fetch) e)

/-- Look an address up in the core's TLBs (R280); an L2 hit fills the L1. -/
def tlbLookup (s : State) (c : CoreId) (fetch : Bool) (space va : Nat) : Option (TlbEntry × State) :=
  let k := s.core c
  match tlbFind (if fetch then k.itlb else k.dtlb) space va with
  | some e => some (e, s)
  | none => match tlbFind (coreL2 s c) space va with
    | some e => some (e, fillL1 { s with l2tlb := Tbl.putD s.l2tlb [] (tileOfCore c) (l2Use (coreL2 s c) e) } c fetch e)
    | none => none

/-- The entry that an access uses: one that a TLB holds, or that of a walk; a write through an entry with D 0 walks
(R282), and so does one whose epoch is old, so that the slow path sees the leaf as it stands (R285, R292). -/
def findEntry (s : State) (c : CoreId) (space va : Nat) (acc : Acc) (byteAcc : Bool) :
    Except Stop (TlbEntry × State) :=
  match tlbLookup s c (acc == .fetch) space va with
  | none => walkUpdate s c space va acc byteAcc
  | some (e, s1) =>
    match leafFault (spaceRO s space) e.raw e.w byteAcc acc with
    | some cse => .error (.trap (pageTrap cse va acc.code e.leaf))
    | none => if acc.writes && (!e.d || e.epoch != globalEpoch s1) then walkUpdate s1 c space va acc byteAcc else .ok (e, s1)

/-- The first line of a page whose read ends by a timeout, and whether one of its lines waits (R254). -/
def pageTimedOut (s : State) (pa : Nat) : Option Nat :=
  ((List.range 256).find? (fun i => deepState s (pa + 64 * i) == .timedOut)).map (fun i => pa + 64 * i)

def pageWaits (s : State) (pa : Nat) : Bool := spanState s pa 16384 != .ready || rowBusy s pa 16384

def devicePa (pa : Nat) : Bool := inDevice pa || inHostWindow pa

/-- A translated access: the entry used, copied on write where its epoch is old (R285), after the check of R58. -/
def translateEntry (s : State) (c : CoreId) (space va : Nat) (acc : Acc) (byteAcc : Bool) :
    Except Stop (TlbEntry × State) :=
  match findEntry s c space va acc byteAcc with
  | .error x => .error x
  | .ok (e, s1) =>
    let page := 16384 * e.ppn
    if devicePa (page + va % 16384) then .error (.trap { cause := .memoryKind, access := acc.code, faddr := fixN va })
    else if acc.writes && e.epoch != globalEpoch s1 then
      match pageTimedOut s1 page with
      | some pa => .error (.trap { cause := .memoryError, access := acc.code, faddr := fixN va, detail := 2 * 2 ^ 48 + pa })
      | none =>
        if pageWaits s1 page then .error .hold else
        match copyOnWrite s1 (coreClass c e.leaf) va (readWord s1 e.leaf) e.leaf with
        | none => .error (.trap { cause := .heapFull, step := 11, access := 0, pempty := true })
        | some (s2, w) =>
          let e2 := entryOfLeaf space va w e.leaf
          .ok (e2, installCore s2 c false e2)
    else .ok (e, s1)

/-- The physical address of a core's access, or the fault (R272, R273, R276, R277, R58). -/
def translate (s : State) (c : CoreId) (va : Nat) (acc : Acc) (byteAcc : Bool) : Except Stop (Nat × State) :=
  let space := (s.core c).space
  if !spaceValid s space then .error (.trap (pageTrap .pageAbsent va acc.code 0))
  else if spaceIdmap s space then
    if 2 ^ 44 ≤ va then .error (.trap (pageTrap .pageAbsent va acc.code 0))
    else if acc.writes && spaceRO s space then .error (.trap (pageTrap .pageWrite va acc.code 0))
    else if devicePa va then .error (.trap { cause := .memoryKind, access := acc.code, faddr := fixN va })
    else .ok (va, s)
  else match translateEntry s c space va acc byteAcc with
    | .error x => .error x
    | .ok (e, s1) => .ok (16384 * e.ppn + va % 16384, s1)

end Sys2Proof.Machine
end

