-- ==== Sys2Proof/Machine/Heap.lean ====
section
/-! DEFINITION. The heap window, its regions, allocation, moving an object, and the barriers of masters other
than cores (R321 to R349, R556). -/

namespace Sys2Proof.Machine

open Sys2Proof

def phase (s : State) : Nat := s.fld .morStat 0 63 61
def heapSpace (s : State) : Nat := s.fld .morCtl 0 51 40
def heapBase (s : State) : Nat := 262144 * s.fld .morHeapbase 0 46 18
def regionCount (s : State) : Nat := s.fld .morHeapsize 0 19 0
def cycleParity (s : State) : Nat := s.fld .morStat 0 31 0 % 2

/-- The region of an address, when it lies in the window (R321). -/
def regionOf (s : State) (va : Nat) : Option Nat :=
  if heapBase s ≤ va && (va - heapBase s) / 262144 < regionCount s then some ((va - heapBase s) / 262144) else none

def regionBase (s : State) (r : Nat) : Nat := heapBase s + 262144 * r

/-- The write barrier is on in FLIP and MARK (R327). -/
def barrierOn (s : State) : Bool := phase s == 2 || phase s == 3

/-! ### The collector area (R323, R324) -/

def areaBase (s : State) : Nat := 16384 * s.fld .morArea 0 43 14
def descPa (s : State) (r : Nat) : Nat := areaBase s + 8 * r
def markBase (s : State) : Nat := areaBase s + roundUp (8 * regionCount s) 16384
def startBase (s : State) : Nat := markBase s + roundUp (2048 * regionCount s) 16384

def desc (s : State) (r : Nat) : Word := readWord s (descPa s r)
def setDesc (s : State) (r : Nat) (w : Word) : State := putWord s 2 (descPa s r) w
def descKind (w : Word) : Nat := bitsOf w 55 53
def descField (s : State) (r hi lo v : Nat) : State := setDesc s r (withBits (desc s r) hi lo v)

/-- BSTATE of a region in the region-state table (R326). -/
def bstateOf (s : State) (r : Nat) : Nat := Tbl.getD s.mor.bstate 0 r

def setBstate (s : State) (r v : Nat) : State :=
  let s1 := { s with mor := { s.mor with bstate := Tbl.putD s.mor.bstate 0 r v } }
  descField s1 r 52 51 v

/-- Bit i of a bitmap. -/
def bitmapGet (s : State) (base i : Nat) : Bool := (readByte s (base + i / 8)).getLsbD (i % 8)
def bitmapSet (s : State) (base i : Nat) (b : Bool) : State :=
  let m := (1#8) <<< (i % 8)
  let old := readByte s (base + i / 8)
  (performWrite s 2 none (base + i / 8) [if b then old ||| m else old &&& ~~~ m]).1

def granuleIndex (s : State) (va : Nat) : Nat := (va - heapBase s) / 16

def setStart (s : State) (va : Nat) (b : Bool) : State :=
  if (regionOf s va).isSome then bitmapSet s (startBase s) (granuleIndex s va) b else s

def isStart (s : State) (va : Nat) : Bool := bitmapGet s (startBase s) (granuleIndex s va)

/-- Mark bits of a region, valid only at its MCYC (R329). -/
def isMarked (s : State) (va : Nat) : Bool :=
  match regionOf s va with
  | none => true
  | some r => bitsOf (desc s r) 48 48 == cycleParity s && bitmapGet s (markBase s) (granuleIndex s va)

/-- The 2,048 bytes of a bitmap that belong to a region become zero. -/
def clearBitmap (s : State) (base r : Nat) : State := (performWrite s 2 none (base + 2048 * r) (List.replicate 2048 0)).1

def setMark (s : State) (va : Nat) : State :=
  match regionOf s va with
  | none => s
  | some r =>
    let s1 := if bitsOf (desc s r) 48 48 == cycleParity s then s
      else descField (clearBitmap s (markBase s) r) r 48 48 (cycleParity s)
    bitmapSet s1 (markBase s1) (granuleIndex s1 va) true

/-! ### Engine accesses, in MOR_CTL.SPACE (R268) -/

def heapPa (s : State) (va : Nat) : Option Nat := mapEdge s 2 (heapSpace s) va

/-- The physical word that an engine reads in a space; none where the page is unmapped or raw, the block absent, the
granule poisoned, or the read of its channel timed out (R276, R254). -/
def masterWord (s : State) (space cls va : Nat) : Option Nat :=
  match mapWord s cls space va with
  | some pa => if accessible s pa && !poisoned s pa && deepState s pa != .timedOut then some pa else none
  | none => none

/-- A word of the heap as an engine reads it. -/
def heapWord (s : State) (va : Nat) : Option Word := (masterWord s (heapSpace s) 2 va).map (readWord s)

/-- The engine of a tile acts: its translations go through the tile's L2 TLB (R268). -/
def withEngine (s : State) (t : Nat) : State := { s with mor := { s.mor with engine := t } }

/-- What an engine's read of n bytes does beside giving them (R277, R299). -/
def heapTouch (s : State) (va n : Nat) : State := touchEdge s 2 (heapSpace s) va n

/-- Log an overwritten word while the barrier is on, at an engine: it becomes work (R335, R336). -/
def needsLog (w : Word) : Bool := isPointerTag (tagOf w) || tagOf w == 0x30
def logAtEngine (s : State) (old : Word) : State :=
  if barrierOn s && needsLog old then { s with mor := { s.mor with work := s.mor.work ++ [old] } } else s

/-- The words that a write of bytes overwrites are logged at the engine (R335). -/
def logSpan (s : State) (pa n : Nat) : State :=
  (List.range ((pa + n + 7) / 8 - pa / 8)).foldl (fun x i => logAtEngine x (readWord x (8 * (pa / 8 + i)))) s

/-- The translation of a write by a master other than a core: an entry with W and D and the present epoch, or
the update walk, copy-on-write where the epoch is old (R366), and the install: the page. A tagged write is refused by
a raw page (R276); a pool that is empty sets PEMPTY. A refusal gives the state that it leaves. -/
def edgeWriteEntry (s : State) (space cls : Nat) (tagged : Bool) (va : Nat) : Except State (State × Nat) :=
  let slow : Except State (State × Nat) :=
    match masterWalk s space va 3 with
    | .error _ => .error s
    | .ok (leaf, pa) =>
      if !bitOf leaf 5 || (tagged && bitOf leaf 7) || devicePa (16384 * leafPpn leaf) then .error s else
      let dirty := withBits leaf 4 3 3
      let s00 := touchWalk s (fun _ => cls % 8) space va
      let s0 := if dirty == leaf then s00 else putWord s00 (cls % 8) pa dirty
      let cow : Option (State × Word) :=
        if leafEpoch dirty == globalEpoch s0 then some (s0, dirty) else copyOnWrite s0 (cls % 8) va dirty pa
      match cow with
      | none => .error (s0.setF .cfgCrest 0 59 59 1)
      | some (s1, w) => .ok (edgeInstall s1 cls (entryOfLeaf space va w pa), leafPpn w)
  match edgeFind s cls space va with
  | some e =>
    if !e.w || (tagged && e.raw) then .error s
    else if e.d && e.epoch == globalEpoch s then .ok (s, e.ppn) else slow
  | none => slow

/-- The outcome of a write at its block: an error response where poison refused a share of it (R80). -/
def writeEnd (r : State × Bool) : Except State State := if r.2 then .error r.1 else .ok r.1

/-- A write by a master other than a core in a space, in one page: its translation, then the write at its block;
an error response gives the state that it leaves. -/
def masterWrite (s : State) (space cls : Nat) (tagged : Bool) (va : Nat) (bs : List Byte) : Except State State :=
  if !spaceValid s space || spaceRO s space then .error s
  else if spaceIdmap s space then
    if accessible s va && va < 2 ^ 44 then writeEnd (performWrite s (cls % 8) none va bs) else .error s
  else match edgeWriteEntry s space cls tagged va with
    | .error s1 => .error s1
    | .ok (s1, ppn) =>
      let target := 16384 * ppn + va % 16384
      if accessible s1 target then writeEnd (performWrite s1 (cls % 8) none target bs) else .error s1

/-- The same, granule by granule, so that it may cross pages: each granule takes its bytes or its error, and the write
fails when one of them did (R80); fuel counts granules. -/
def masterWriteSpan : Nat → State → Nat → Nat → Bool → Nat → List Byte → Except State State
  | 0, s, _, _, _, _, _ => .ok s
  | f + 1, s, space, cls, tagged, va, bs =>
    if bs.isEmpty then .ok s else
      let n := 16 - va % 16
      match masterWrite s space cls tagged va (bs.take n) with
      | .ok s1 => masterWriteSpan f s1 space cls tagged (va + n) (bs.drop n)
      | .error s1 =>
        match masterWriteSpan f s1 space cls tagged (va + n) (bs.drop n) with
        | .ok s2 | .error s2 => .error s2

/-- A write of a Moraine engine or Cirque unit: of tagged words, or of the raw body of an object that is copied. -/
def heapWriteAs (s : State) (tagged : Bool) (va : Nat) (bs : List Byte) : Option State :=
  (masterWriteSpan (bs.length + 1) s (heapSpace s) 2 tagged va bs).toOption

def heapWrite (s : State) (va : Nat) (bs : List Byte) : Option State := heapWriteAs s true va bs

/-! ### Healing against moved objects (R341) -/

/-- The word with a moved object's new address, keeping its tag; none where the object has not moved. -/
def movedWord (s : State) (w : Word) : Option Word :=
  match regionOf s (valOf w) with
  | none => none
  | some r =>
    if bstateOf s r == 0 then none else
      match heapWord s (valOf w) with
      | some h => if tagOf h == 0x2E then some (mkWord (tagOf w) (valOf h)) else none
      | none => none

def healMoved (s : State) (w : Word) : Word :=
  if isPointerTag (tagOf w) then (movedWord s w).getD w else w

/-! ### Regions (R325, R556) -/

/-- The rank of a block for an allocation whose own tile is t; none for a block that is not online. -/
def blockRank (s : State) (t pa : Nat) : Option Nat :=
  if !accessible s pa then none else
  match tileOfPa pa, channelOfPa pa with
  | some x, _ => some (if x == t then 0 else if x / 4 == t / 4 then 1 + x else 100 + x)
  | none, some q => some (if q == t / 4 then 1000 else 1001 + q)
  | none, none => none

def isFree (s : State) (r : Nat) : Bool := r < regionCount s && descKind (desc s r) == 0

def freeRegions (s : State) : List Nat := (List.range (regionCount s)).filter (isFree s)

/-- MOR_STAT.FREE follows the descriptors. -/
def countFree (s : State) : State := s.setF .morStat 0 51 32 (freeRegions s).length

/-- The start of a cycle (R327): FLIP, NEW cleared everywhere, no core scanned. -/
def clearNew (s : State) : Nat → State
  | 0 => s
  | n + 1 =>
    let s1 := clearNew s n
    if bitsOf (desc s1 n) 50 50 == 1 then descField s1 n 50 50 0 else s1

def startCycle (s : State) : State :=
  let s1 := clearNew s (regionCount s)
  let s2 := { s1 with
    mor := { s1.mor with work := [], weak := [], tops := [] }
    cores := s1.cores.map (fun (x : Nat × Core) => (x.1, { x.2 with scanned := false })) }
  s2.setF .morStat 0 63 61 2

/-- IDLE ends when free regions fall below TRIGGER percent (R327). -/
def triggerCycle (s : State) : State :=
  if phase s == 1 && s.fld .morStat 0 51 32 * 100 < s.fld .morCtl 0 7 0 * regionCount s then startCycle s else s

/-- Head regions of runs of n free regions, with their rank. -/
def candidateRuns (s : State) (t n : Nat) : List (Nat × Nat) :=
  (List.range (regionCount s)).filterMap fun r =>
    if (List.range n).all (fun i => isFree s (r + i)) then
      match heapPa s (regionBase s r) with
      | some pa => (blockRank s t pa).map (fun k => (k, r))
      | none => none
    else none

def setRun (s : State) (kind head : Nat) : Nat → State
  | 0 => s
  | n + 1 =>
    let s1 := setRun s kind head n
    let k := if kind == 3 && n != 0 then 4 else kind
    let w := withBits (withBits 0#64 55 53 k) 50 50 1
    setDesc s1 (head + n) w

/-- Take a region, or a run for a large object, of the best preference (R556). -/
def takeRegions (s : State) (t kind n : Nat) : Option (Nat × State) :=
  let cand := candidateRuns s t n
  match cand.map (·.1) with
  | [] => none
  | k :: ks =>
    let best := ks.foldl min k
    let same := (cand.filter (fun x => x.1 == best)).map (·.2)
    let r := same[Config.pickRegion s.free same % same.length]?.getD 0
    let s1 := setRun s kind r n
    let s2 := if kind == 3 then descField s1 r 39 20 n else s1
    some (r, triggerCycle (countFree s2))

/-- A cursor that still has room in a region of its kind that is stable. -/
def cursorFits (s : State) (kind size cur : Nat) : Bool :=
  match regionOf s cur with
  | some r => descKind (desc s r) == kind && bstateOf s r == 0 && cur % 16 == 0
      && cur + size ≤ regionBase s r + 262144
  | none => false

/-- A place for an object of a kind and size, own tile t: its address, the cursor after it, the state. Its region is NEW
until the next flip, and it is marked while the barrier is on (R324, R328). -/
def place (s : State) (t kind size cur : Nat) : Option (Nat × Nat × State) :=
  let fin := fun (a c : Nat) (s1 : State) =>
    let s2 := setStart s1 a true
    let s3 := if barrierOn s2 then setMark s2 a else s2
    let s4 := match regionOf s3 a with
      | some r => descField s3 r 50 50 1
      | none => s3
    some (a, c, s4)
  if kind == 3 || 262144 < size then
    match takeRegions s t kind ((size + 262143) / 262144) with
    | some (r, s1) => fin (regionBase s1 r) 1 s1
    | none => none
  else if cursorFits s kind size cur then fin cur (cur + size) s
  else match takeRegions s t kind 1 with
    | some (r, s1) => fin (regionBase s1 r) (regionBase s1 r + size) s1
    | none => none

/-- The region kind of an object (R325). -/
def kindFor (isCons isCode : Bool) (size : Nat) : Nat :=
  if isCons then 1 else if isCode then 5 else if size ≤ 4096 then 2 else 3

/-- An allocation by a master whose own tile is t (R556). -/
def engineAlloc (s : State) (t kind size : Nat) : Option (Nat × State) :=
  match place s t kind size (Tbl.getD s.mor.cursors 1 (8 * t + kind)) with
  | some (a, c, s1) =>
    some (a, if kind == 3 then s1 else { s1 with mor := { s1.mor with cursors := Tbl.putD s1.mor.cursors 1 (8 * t + kind) c } })
  | none => none

/-- A new object written by a master: header and body bytes at a fresh place. -/
def engineObject (s : State) (t kind : Nat) (bytes : List Byte) : Option (Nat × State) :=
  match engineAlloc s t kind bytes.length with
  | some (a, s1) => (heapWrite s1 a bytes).map (fun s2 => (a, s2))
  | none => none

def padWords : Nat → List Byte
  | 0 => []
  | n + 1 => bytesOfWord 0x3F00000000000000#64 ++ padWords n

/-- Header, prefix words, payload and pad words of a byte vector (R62, R67, R74). -/
def vectorBytes (cls flags : Nat) (head : List Word) (payload : List Byte) : List Byte :=
  let n := 8 + 8 * head.length + payload.length
  bytesOfWord (mkHeader 0x22 cls payload.length flags) ++ (head.map bytesOfWord).flatten ++ payload
    ++ List.replicate (roundUp n 8 - n) 0 ++ padWords ((roundUp n 16 - roundUp n 8) / 8)

/-- Bytes of a byte vector with a payload (R67, R196). -/
def byteVectorBytes (cls : Nat) (payload : List Byte) : List Byte := vectorBytes cls 0 [] payload

/-- Bytes of a tagged object: header, slots, pad words (R62). -/
def taggedBytes (hdr : Word) (slots : List Word) : List Byte :=
  let n := 8 * (1 + slots.length)
  bytesOfWord hdr ++ (slots.map bytesOfWord).flatten ++ padWords ((roundUp n 16 - n) / 8)

/-- The first-word size of an object: a cons region holds cells of 16 bytes. CODE_BYTES is slot 0. -/
def sizeAt (s : State) (va : Nat) : Option Nat :=
  match regionOf s va with
  | some r =>
    if descKind (desc s r) == 1 then some 16 else
      match heapWord s va with
      | some h =>
        if isHeaderTag (tagOf h) then
          let cb := if tagOf h == 0x20 && hdrClass h == 3 then ((heapWord s (va + 8)).map (fun w => valOf w % 2 ^ 32)).getD 0 else 0
          some (objectSize h cb)
        else none
      | none => none
  | none => none

/-- Which word offsets of an object hold tagged words: all of a cons cell or tagged object, word 3 of a seal. -/
def taggedOffset (hdr : Option Word) (off : Nat) : Bool :=
  match hdr with
  | none => true
  | some h =>
    if tagOf h == 0x22 then hdrSeal h && off == 24
    else off < 8 * (1 + hdrLength h)

/-- A granule of an object as its copy holds it: the words healed where they are tagged (R339). -/
def healedGranule (s : State) (hdr : Option Word) (off pa : Nat) : List Byte :=
  let word := fun (o : Nat) => if taggedOffset hdr (off + o) then healMoved s (readWord s (pa + o)) else readWord s (pa + o)
  bytesOfWord (word 0) ++ bytesOfWord (word 8)

/-- Poison that an engine meets: MOR_STAT.POISON and the poison source of its tile (R330), and the record of the block
that held it (R79). -/
def meetPoison (s : State) (t pa : Nat) : State := pulse (poisonConsumed (s.setF .morStat 0 60 60 1) pa) (tileSource t 11)

/-- Copy n granules of an object with its pointers healed (R339); a poisoned granule is copied poisoned and reported
(R80, R81, R330). -/
def copyObject (s : State) (hdr : Option Word) (src dst : Nat) : Nat → Option State
  | 0 => some s
  | n + 1 =>
    match copyObject s hdr src dst n with
    | none => none
    | some s0 =>
      let s1 := heapTouch s0 (src + 16 * n) 16
      match heapPa s1 (src + 16 * n) with
      | none => none
      | some pa =>
        match heapWriteAs s1 false (dst + 16 * n) (healedGranule s1 hdr (16 * n) pa) with
        | none => none
        | some s2 =>
          if poisoned s1 pa then
            some (meetPoison (match heapPa s2 (dst + 16 * n) with | some d => setPoison s2 d | none => s2) s2.mor.engine pa)
          else some s2

/-- The owner engine of a region (R338). -/
def ownerOf (s : State) (r : Nat) : Nat :=
  match heapPa s (regionBase s r) with
  | some pa => match tileOfPa pa, channelOfPa pa with
    | some t, _ => t
    | none, some q => 4 * q + r % 4
    | none, none => 0
  | none => 0

/-- Copy one object out of an evacuating region and write its T.FWD (R339): the new address. `tile` is the
requester's tile for a move on request. -/
def moveObject (s0 : State) (va : Nat) (tile : Option Nat) : Option (Nat × State) :=
  match regionOf s0 va with
  | none => none
  | some r =>
    let s := heapTouch (withEngine s0 (ownerOf s0 r)) va 8
    match sizeAt s va with
    | none => none
    | some size =>
      let d := desc s r
      let isCons := descKind d == 1
      let hdr := if isCons then none else heapWord s va
      let trailer := match hdr with | some h => hdrHashed h && !hdrHxt h | none => false
      let t := if bitsOf d 46 46 == 1 then bitsOf d 43 40 else match tile with | some x => x | none => ownerOf s r
      let total := size + (if trailer then 16 else 0)
      match engineAlloc s t (descKind d) total with
      | none => none
      | some (dst, s1) =>
        match copyObject s1 hdr va dst (size / 16) with
        | none => none
        | some s2 =>
          let s3 : Option State :=
            if trailer then
              let h := hdr.getD 0
              match heapWrite s2 dst (bytesOfWord (withBit h 5 true)) with
              | none => none
              | some x => heapWrite x (dst + size) (bytesOfWord (fixN (va / 16)) ++ bytesOfWord 0x3F00000000000000#64)
            else some s2
          match s3 with
          | none => none
          | some s4 =>
            match heapWrite s4 va (bytesOfWord (mkWord 0x2E dst)) with
            | none => none
            | some s5 =>
              let o := ownerOf s5 r
              let copied := Tbl.getD s5.mor.copied 0 o + total
              let s6 := { s5 with mor := { s5.mor with copied := Tbl.putD s5.mor.copied 0 o copied } }
              some (dst, s6.setF .morCntb o 31 0 (copied / 1024))

/-- The load barrier on a word for a master whose tile is t (R341): the healed word and whether it was healed;
none where the owner cannot move the object now. -/
def loadBarrier (s : State) (t : Nat) (w : Word) : Option (Word × Bool × State) :=
  if !isPointerTag (tagOf w) then some (w, false, s) else
  match regionOf s (valOf w) with
  | none => some (w, false, s)
  | some r =>
    if bstateOf s r == 0 then some (w, false, s) else
    match movedWord s w with
    | some w1 => some (w1, true, s)
    | none =>
      if bstateOf s r == 1 then
        match moveObject s (valOf w) (some t) with
        | some (a, s1) =>
          some (mkWord (tagOf w) a, true, s1.setR .morCnta (ownerOf s r) (wrapInc (s1.reg .morCnta (ownerOf s r)) 31 0 1))
        | none => none
      else some (w, false, s)

end Sys2Proof.Machine
end

