-- ==== Sys2Proof/Machine/Massif.lean ====
section
/-! DEFINITION. The Massif table as it reads: header, entries and CRC derived from the state (R31 to R41, R47,
R554, R557; log 18). -/

namespace Sys2Proof.Machine

open Sys2Proof

/-! ### Mesh positions (R554) -/

/-- Column and row of each tile, as shipped. -/
def tilePlaces : List (Nat × Nat) :=
  [(2, 0), (3, 0), (3, 1), (2, 1), (1, 0), (0, 0), (0, 1), (1, 1),
   (0, 2), (1, 2), (1, 3), (0, 3), (2, 2), (3, 2), (3, 3), (2, 3)]

def tileX (t : Nat) : Nat := (tilePlaces.getD t (0, 0)).1
def tileY (t : Nat) : Nat := (tilePlaces.getD t (0, 0)).2

/-- Neighbouring quadrants: those that share a side (R518, R554). -/
def neighbours (q : Nat) : List Nat := [(q + 1) % 4, (q + 3) % 4]

/-! ### What the entries report of other blocks -/

/-- The highest frequency of a quadrant in MHz (R528). -/
def fmaxOf (s : State) (q : Nat) : Nat := Tbl.getD s.crag.fmax 2000 q

def repairedRows (s : State) (t : Nat) : List Nat := Tbl.getD s.repaired [] t

/-- SPARE_ROWS of a tile: four spares in each of 32 banks, less those used (R38, R295). -/
def spareRows (s : State) (t : Nat) : Nat := 128 - (repairedRows s t).length

/-- A block whose units are all not configured answers nothing (R552). -/
def blockAnswers (s : State) (n : RegName) : Bool :=
  match n with
  | .netCfg | .netPhc | .netPhcadj | .netSactl | .netSakey | .netEqcfg =>
    (List.range 8).any (fun p => s.unit (uPort p) != stNotConfigured)
  | .rdgCfg | .rdgRange | .rdgMbox | .rdgStat => (List.range 4).any (fun p => s.unit (uRidge p) != stNotConfigured)
  | .dmcCtl => (List.range 4).any (fun q => s.unit (uChan q) != stNotConfigured)
  | _ => true

/-- The time of day of the PTP clock as a T.TIME (R473). -/
def timeWord (s : State) : Word := mkWord 6 (s.reg .netPhc).toNat

/-! ### States of entries that no unit key holds -/

/-- A quadrant is configured when a tile or core of it is. -/
def quadState (s : State) (q : Nat) : Nat :=
  if (List.range 4).all (fun i => s.unit (uTile (4 * q + i)) == stNotConfigured) &&
    (List.range 24).all (fun i => s.unit (uCore (24 * q + i)) == stNotConfigured) then stNotConfigured else stOnline

/-! ### Ports (R38, R468, R557) -/

/-- The mode of the half of a port. -/
def portMode (s : State) (p : Nat) : Nat := if p < 4 then s.fld .netCfg 0 3 0 else s.fld .netCfg 0 7 4

/-- Whether the mode of its half uses a port (R468). -/
def portConfigured (mode p : Nat) : Bool :=
  match mode with
  | 0 | 1 => true
  | 2 => p % 4 < 2
  | 3 => p % 4 == 0
  | _ => false

/-- LANES of a port: 0 for a port that its half does not use. -/
def fieldLanes (mode p : Nat) : Nat :=
  let h := p / 4 * 4
  if !portConfigured mode p then 0 else
  match mode with
  | 0 | 1 => 2 ^ p
  | 2 => 3 * 2 ^ (h + 2 * (p % 4))
  | _ => 15 * 2 ^ h

/-- MODE of a port (R38). No code stands for a half that is disabled (R468): its ports show 0 (DESIGN CHOICE, log 18). -/
def shownMode (mode : Nat) : Nat := if mode ≤ 3 then mode else 0

/-- The lanes of a Ridge port in use, of its pair 2p and 2p + 1. -/
def ridgeLanes (s : State) (p : Nat) : Nat :=
  if s.unit (uRidge p) != stOnline then 0
  else match (Tbl.get? s.ridge.ports p).bind (·.lane) with
    | some l => 2 ^ (2 * p + 1 - l)
    | none => 3 * 2 ^ (2 * p)

/-! ### Words -/

def entryHead (ty len inst st : Nat) : Nat := st * 2 ^ 40 + inst * 2 ^ 24 + len * 2 ^ 16 + 0x100 + ty

def quadEntry (s : State) (q : Nat) : List Nat :=
  [entryHead 1 2 q (quadState s q), q * 2 ^ 48 + 16 * 2 ^ 40 + 4 * 2 ^ 32 + 400 * 2 ^ 16 + fmaxOf s q]

def tileEntry (s : State) (t : Nat) : List Nat :=
  [entryHead 2 3 t (s.unit (uTile t)),
   spareRows s t * 2 ^ 16 + t / 4 * 2 ^ 8 + tileY t * 16 + tileX t,
   s.sizeKiB (uTile t) % 2 ^ 16 * 2 ^ 48 + t * 0x1000000]

def coreEntry (s : State) (c : Nat) : List Nat :=
  [entryHead 3 2 c (s.unit (uCore c)), s.fld .mcPatchVersion c 31 0 * 2 ^ 32 + c / 3 * 256 + c / 6]

def troikaEntryWords (s : State) (k : Nat) : List Nat :=
  [entryHead 4 2 k (s.unit (uTroika k)), 3 * k * 256 + (if troikaVoted s k then 1 else 0)]

/-- The ranges in the order of R38's KIND, tile stores and channels by number: which index a range has, the manual does not
say (DESIGN CHOICE, log 18). -/
def rangeEntry (s : State) (i : Nat) : List Nat :=
  let w := fun (st base unit kind size : Nat) => [entryHead 5 3 i st, base, unit * 2 ^ 52 + kind * 2 ^ 48 + size]
  if i < 16 then w (s.unit (uTile i)) (i * 0x1000000) i 0 (1024 * s.sizeKiB (uTile i))
  else if i < 20 then
    let q := i - 16
    w (s.unit (uChan q)) (0x1000000000 + q * 0x800000000) q 1 (1024 * s.sizeKiB (uChan q))
  else if i == 20 then w stOnline 0x800000000 0 2 0x1000000
  else w stOnline 0x80000000000 0 3 (2 ^ 43)

/-- Base and size in KiB of the block with a code (R546). -/
def blockPlace (code : Nat) : Nat × Nat :=
  match code with
  | 1 => (0x10000, 4) | 2 => (0x40000, 96) | 3 => (0x20000, 16) | 4 => (0x16000, 4) | 5 => (0x24000, 16)
  | 6 => (0x14000, 4) | 7 => (0x15000, 4) | 8 => (0x13000, 4) | 9 => (0x17000, 4) | 10 => (0x18000, 4)
  | 11 => (0x19000, 4) | 12 => (0x11000, 4) | 13 => (0x12000, 4) | _ => (0x1A000, 4)

def blockState (s : State) (code : Nat) : Nat :=
  let n := match code with | 9 => RegName.netCfg | 10 => RegName.rdgCfg | 11 => RegName.dmcCtl | _ => RegName.msfGen
  if blockAnswers s n then stOnline else stNotConfigured

def blockEntry (s : State) (i : Nat) : List Nat :=
  let (base, kib) := blockPlace (i + 1)
  [entryHead 6 3 i (blockState s (i + 1)), (i + 1) * 2 ^ 48 + 0x800000000 + base,
   2 ^ 48 + kib * 2 ^ 32 + base]

def fieldEntry (s : State) (p : Nat) : List Nat :=
  let m := portMode s p
  let b := fun (x : Bool) (n : Nat) => if x then 2 ^ n else 0
  [entryHead 7 2 p (s.unit (uPort p)),
   b (s.flag .netPcfg p 61) 17 + b (s.flag .netPcfg p 62) 16 + fieldLanes m p * 256 + shownMode m]

def ridgeEntry (s : State) (p : Nat) : List Nat :=
  let on := s.unit (uRidge p) == stOnline
  [entryHead 8 2 p (s.unit (uRidge p)),
   (if on then s.fld .rdgStat p 15 0 else 0xFFFF) * 2 ^ 16 + ridgeLanes s p * 256
     + (if on then s.fld .rdgStat p 61 60 else 0)]

def firmwareEntry (s : State) : List Nat :=
  [entryHead 9 3 0 1,
   s.fld .basBoot 0 53 53 * 2 ^ 33 + s.fld .basBoot 0 52 52 * 2 ^ 32 + s.massif.cragVersion % 2 ^ 32,
   s.massif.bootVersion % 2 ^ 32]

/-- The entries, sorted by type and instance (R36). -/
def massifEntries (s : State) : List Nat :=
  let each := fun (n : Nat) (f : Nat → List Nat) => ((List.range n).map f).flatten
  each 4 (quadEntry s) ++ each 16 (tileEntry s) ++ each 96 (coreEntry s) ++ each 32 (troikaEntryWords s)
    ++ each 22 (rangeEntry s) ++ each 14 (blockEntry s) ++ each 8 (fieldEntry s) ++ each 4 (ridgeEntry s)
    ++ firmwareEntry s ++ [entryHead 0xFF 1 0 1]

def massifEntryCount : Nat := 198
def massifLength : Nat := 3648

/-- The header with a CRC. -/
def massifHeader (s : State) (crc : Nat) : List Nat :=
  let b := fun (x : Bool) (n : Nat) => if x then 2 ^ n else 0
  [0x343746495353414D, 0x742000B10001, massifEntryCount * 2 ^ 32 + massifLength,
   (s.reg .msfGen).toNat,
   s.massif.lastType * 2 ^ 24 + s.massif.lastInstance * 256 + s.massif.lastCause,
   b s.massif.oper 2 + b s.massif.saddle 1 + b s.compact 0, 0, crc]

/-- CRC-32C with the initial and final values of R33. -/
def crcOf (bs : List Byte) : Nat := (crc32c 0xFFFFFFFF#32 bs ^^^ 0xFFFFFFFF#32).toNat

def bytesOfNats (ws : List Nat) : List Byte := (ws.map (toBytes 8)).flatten

/-- The table's words. -/
def massifWords (s : State) : List Nat :=
  let body := massifEntries s
  massifHeader s (crcOf (bytesOfNats (massifHeader s 0 ++ body))) ++ body

/-! ### The copies in tile store (R44, R45; log 19) -/

/-- What SEAL signs (R458). -/
def sealText (word1 word2 : Word) (cls : Nat) (payload : List Byte) : List Byte :=
  [0x45, 0x43, 0x55, 0x52, 0x41, 0x53, 0x4C, 0x31] ++ bytesOfWord word1 ++ bytesOfWord word2 ++ toBytes 2 cls
    ++ toBytes 4 payload.length ++ [0, 0] ++ payload

/-- The first tile store that is online: where the copies lie. -/
def copyTile (s : State) : Option Nat := (List.range 16).find? (fun t => s.online (uTile t))

/-- The bytes of a copy and of the vector that holds its signature, which takes 4,736 bytes. -/
def copyBytes : Nat := 3680
def copyRoom : Nat := copyBytes + 4736

/-- The address of the copy of a stable generation: three places taken in turn, so that a copy stays until two further
generations have been published (R45). -/
def copyPlace (t g : Nat) : Nat := t * 0x1000000 + Config.massifPlace % 63000 * 16 + copyRoom * (g / 2 % 3)

/-- Bytes written by the device at their block. Only the memory system changes. -/
def putBlock (s : State) (pa : Nat) (bs : List Byte) : State :=
  let t := (performWrite s 6 none pa bs).1
  { s with mem := t.mem, poison := t.poison, cores := t.cores, deep := t.deep, dirs := t.dirs }

/-- The sealed copy of the table as it stands at `pa`: a byte vector of class 0x0006 with the table image as its payload,
signed by the attestation key of slot 0x0001 with the hybrid algorithm (R44, R74, R458). -/
def sealTable (s : State) (pa : Nat) : State :=
  let image := bytesOfNats (massifWords s)
  let word1 := fixN (4 * 2 ^ 16 + 1)
  let word2 := timeWord s
  let sig := (List.range 4723).map (Config.cryptoByte 5 [1, 4, (s.reg .msfGen).toNat] (sealText word1 word2 6 image))
  putBlock (putBlock s (pa + copyBytes) (vectorBytes 6 1 [] sig)) pa
    (vectorBytes 6 5 [word1, word2, mkWord 0x12 (pa + copyBytes)] image)

/-- The copy of the generation that the table now shows is written, then MSF_CURRENT (R44). -/
def storeCopy (s : State) : State :=
  match copyTile s with
  | some t =>
    let pa := copyPlace t (s.reg .msfGen).toNat
    (sealTable s pa).setF .msfCurrent 0 43 4 (pa / 16)
  | none => s.setF .msfCurrent 0 43 4 0

/-- A word of the table as it reads. While GENERATION reads 1 every other word may hold any value (R41). -/
def massifWord (s : State) (off : Nat) : Word :=
  let i := off / 8
  if massifLength ≤ off then 0
  else if i == 3 then s.reg .msfGen
  else if (s.reg .msfGen).toNat == 1 then Config.freeWord s.free
  else BitVec.ofNat 64 ((massifWords s).getD i 0)

end Sys2Proof.Machine
end

