-- ==== Sys2Proof/Machine/CoreMem.lean ====
section
/-! DEFINITION. A core's accesses to memory: fetch checks, loads, headers, stores through the store buffer, and
the barriers it carries out (R116, R130, R134, R296, R306, R335, R341). -/

namespace Sys2Proof.Machine

open Sys2Proof

/-! ### Small steps of the instruction monad -/

def getC (c : CoreId) : M Core := fun s => .ok (s.core c, s)
def modC (c : CoreId) (f : Core → Core) : M Unit := fun s => .ok ((), s.modCore c f)
def regM (c : CoreId) (n : Nat) : M Word := fun s => .ok ((s.core c).getReg n, s)
def setRegM (c : CoreId) (n : Nat) (w : Word) : M Unit := modC c (fun k => k.setReg n w)
def setBitM (c : CoreId) (n : Nat) (b : Bool) : M Unit := modC c (fun k => k.setBit n b)
def freeM : M Word := fun s => .ok (takeFree s)

/-- Give the faults of a part of an instruction the step that raises them (R146, R226). -/
def atStep {α : Type} (n : Nat) (m : M α) : M α := fun s =>
  match m s with
  | .error (.trap t) => .error (.trap (if t.step = 0 then { t with step := n } else t))
  | r => r

/-- FOPER of a word, or T.NIL and its tag in DETAIL where a frame must not hold it (R228, R229). -/
def wordTrap (c : Cause) (w : Word) (step access : Nat) : Trap :=
  let t := tagOf w
  let hide := isReservedTag t || isHeaderTag t || t == 0x2E || t == 0x3F
  { cause := c, step := step, access := access, foper := if hide then nil else w, detail := if hide then 256 + t else t }

/-- A WORD_FORMAT of an operand at step 10 (R173). -/
def operandFault {α : Type} (w : Word) : M α := trapM (wordTrap .wordFormat w 10 0)
def simpleFault {α : Type} (c : Cause) (step : Nat) : M α := trapM { cause := c, step := step }

/-! ### Reading through the core's own stores -/

/-- The byte that the youngest store of the buffer gives an address (R296). -/
def forwarded (buf : List StoreEntry) (pa : Nat) : Option Byte :=
  buf.foldl (fun r e => if e.pa ≤ pa && pa < e.pa + e.bytes.length then e.bytes[pa - e.pa]? else r) none

def viewByte (s : State) (k : Core) (pa : Nat) : Byte := (forwarded k.sbuf pa).getD (readByte s pa)

def viewBytes (s : State) (k : Core) : Nat → Nat → List Byte
  | _, 0 => []
  | pa, n + 1 => viewByte s k pa :: viewBytes s k (pa + 1) n

def readEmerg (k : Core) : Nat → Nat → List Byte
  | _, 0 => []
  | o, n + 1 => Tbl.getD k.emerg 0 o :: readEmerg k (o + 1) n

def writeEmerg (k : Core) : Nat → List Byte → Core
  | _, [] => k
  | o, b :: bs => writeEmerg { k with emerg := Tbl.putD k.emerg 0 o b } (o + 1) bs

/-- Where an access of a core goes. -/
inductive Loc where
  | mem (pa : Nat)
  | emerg (off : Nat)
  deriving DecidableEq, Repr

/-- Translate, or reach the emergency stack without translation (R234, R267). -/
def locate (c : CoreId) (va : Nat) (acc : Acc) (byteAcc : Bool) : M Loc := fun s =>
  if inEmergency va then .ok (.emerg (va - emergBase), s)
  else match translate s c va acc byteAcc with
    | .ok (pa, s1) => .ok (.mem pa, s1)
    | .error x => .error x

def memError (va access kind pa : Nat) : Trap :=
  { cause := .memoryError, access := access, faddr := fixN va, detail := kind * 2 ^ 48 + pa }

/-- A granule that a check found uncorrectable in an L1 cache that still holds its line (R79). -/
def l1Bad (k : Core) (pa : Nat) : Bool := k.l1bad.contains (pa / 16)

/-- The first byte of a read that no store of the core covers and that is poisoned, at its block or in the L1 cache. -/
def readPoisoned (s : State) (k : Core) (pa n : Nat) : Option Nat :=
  ((List.range n).find? (fun i => (forwarded k.sbuf (pa + i)).isNone && (poisoned s (pa + i) || l1Bad k (pa + i)))).map (pa + ·)

/-- Every line of a span enters an L1 cache of the core. -/
def touchLines (s : State) (c : CoreId) (fetch : Bool) (pa n : Nat) : State :=
  (List.range ((pa + n + 63) / 64 - pa / 64)).foldl (fun x i => touchL1 x c fetch (pa / 64 + i)) s

/-- What a read of a core meets before its data: an error response or a timeout (R40, R317), a wait for the block, the
channel or a slot (R24, R295, R318), or poison (R81). A line that the L1 data cache holds waits for nothing. -/
def readStop (s : State) (c : CoreId) (va pa n : Nat) (acc : Acc) : Option Stop :=
  let k := s.core c
  if !accessible s pa || spanState s pa n == .timedOut then some (.trap (memError va acc.code 2 pa))
  else if spanState s pa n == .stalled && !k.l1d.contains (pa / 64) then some (.channel pa n)
  else if (rowBusy s pa n || !hasSlot s (.core c)) && !k.l1d.contains (pa / 64) then some .hold
  else (readPoisoned s k pa n).map (fun bad => .trap (memError va acc.code 1 bad))

/-- The bytes of a load in one page, with its errors (R40, R81). -/
def loadPart (c : CoreId) (va n : Nat) (acc : Acc) (byteAcc : Bool) : M (List Byte) := do
  match ← locate c va acc byteAcc with
  | .emerg o => return readEmerg (← getC c) o n
  | .mem pa =>
   fun s =>
    match readStop s c va pa n acc with
    | some x => .error x
    | none =>
      .ok (viewBytes s (s.core c) pa n, touchLines (endFlight (cacheTouch s (coreClass c pa) pa n false) c pa n) c false pa n)

/-- The bytes of a load, page by page; fuel counts pages. -/
def loadBytesF (c : CoreId) (acc : Acc) (byteAcc : Bool) : Nat → Nat → Nat → M (List Byte)
  | 0, _, _ => return []
  | f + 1, va, n =>
    if n ≤ 16384 - va % 16384 then loadPart c va n acc byteAcc
    else do
      let x ← loadPart c va (16384 - va % 16384) acc byteAcc
      let y ← loadBytesF c acc byteAcc f ((va / 16384 + 1) * 16384) (n - (16384 - va % 16384))
      return x ++ y

def loadBytes (c : CoreId) (va n : Nat) (acc : Acc) (byteAcc : Bool) : M (List Byte) :=
  loadBytesF c acc byteAcc (n / 16384 + 2) va n

def loadRaw (c : CoreId) (va : Nat) (acc : Acc) : M Word := do
  return wordOfBytes (← loadBytes c va 8 acc false)

/-- Space of the core is read-only: neither barrier acts (R343). -/
def barriersAct (s : State) (c : CoreId) : Bool := !spaceRO s (s.core c).space

/-- HEALS of the core's tile (MOR_CNTA). -/
def countHeal (s : State) (c : CoreId) : State :=
  s.setR .morCnta (tileOfCore c) (wrapInc (s.reg .morCnta (tileOfCore c)) 63 32 1)

/-- The load barrier on a word of a core (R341). -/
def healM (c : CoreId) (w : Word) : M Word := fun s =>
  if !barriersAct s c then .ok (w, s) else
  match loadBarrier s (tileOfCore c) w with
  | none => .error .hold
  | some (w1, healed, s1) => .ok (w1, if healed then countHeal s1 c else s1)

/-- A word healed on a load replaces its slot, unless the slot has changed (R341): a write of the core like any other,
with its translation, copy-on-write and deep-cache part (R274, R285, R297); a slot whose page takes no write stays. -/
def replaceSlot (s : State) (c : CoreId) (va : Nat) (old new : Word) : State :=
  match translate s c va .write false with
  | .ok (pa, s1) => if readWord s1 pa == old then (performWrite s1 (coreClass c pa) (some c) pa (bytesOfWord new)).1 else s1
  | .error _ => s

/-- A tagged word loaded: inspected (R51), then through the load barrier. -/
def loadWord (c : CoreId) (va : Nat) (acc : Acc) : M Word := do
  let w ← loadRaw c va acc
  match inspectWord w with
  | some cse => trapM (wordTrap cse w 0 acc.code |> fun t => { t with faddr := fixN va })
  | none =>
    let h ← healM c w
    if h != w then fun s => .ok (h, replaceSlot s c va w h) else return w

/-- A word healed from a register is written back into it (R341). -/
def healRegM (c : CoreId) (n : Nat) : M Word := do
  let w ← regM c n
  let h ← healM c w
  if h != w then setRegM c n h
  return h

/-! ### Objects (R61, R130) -/

/-- An object as an access finds it, with the pointer that named it. -/
structure Obj where
  ptr : Word
  addr : Nat
  hdr : Option Word      -- none for a cons cell
  deriving DecidableEq, Repr

def Obj.bound (o : Obj) : Nat := match o.hdr with | some h => hdrLength h | none => 2
def Obj.imm (o : Obj) : Bool := match o.hdr with | some h => hdrImm h | none => false
def Obj.isBytes (o : Obj) : Bool := match o.hdr with | some h => tagOf h == 0x22 | none => false
def Obj.slotAddr (o : Obj) (i : Nat) : Nat := match o.hdr with | some _ => o.addr + 8 * (i + 1) | none => o.addr + 8 * i
def Obj.payload (o : Obj) : Nat := match o.hdr with | some h => o.addr + payloadOffset h | none => o.addr

/-- Whether an address lies in a cons region (R65). -/
def inConsRegion (s : State) (va : Nat) : Bool :=
  match regionOf s va with
  | some r => descKind (desc s r) == 1
  | none => false

/-- The first word of an object: a reserved tag is refused (R51). -/
def headerWord (c : CoreId) (addr : Nat) (acc : Acc) : M Word := do
  let h ← loadRaw c addr acc
  if isReservedTag (tagOf h) then trapM { wordTrap .tagReserved h 0 acc.code with faddr := fixN addr } else return h

/-- A header through a pointer; a T.FWD is followed once in a read-only space (R368). -/
def readHeader (c : CoreId) (addr : Nat) (acc : Acc) : M (Nat × Word) := do
  let h ← headerWord c addr acc
  if tagOf h == 0x2E then
    let h2 ← headerWord c (valOf h) acc
    return (valOf h, h2)
  else return (addr, h)

/-- The header buffer takes the header that an object-slot mode has read: the last eight, least recently used first
out, each while the L1 data cache holds its line (R132). -/
def bufferHeader (c : CoreId) (addr : Nat) (hdr : Option Word) : M Unit := fun s =>
  match hdr, translate s c addr .header false with
  | some _, .ok (pa, s1) =>
    .ok ((), s1.modCore c (fun k => { k with headers := ((addr, pa) :: k.headers.filter (fun h => h.1 != addr)).take 8 }))
  | _, _ => .ok ((), s)

/-- The object that a pointer word names, its header checked against the tag (R60, R61). The faults carry the
given step. -/
def openObject (c : CoreId) (w : Word) (step : Nat) : M Obj := do
  let t := tagOf w
  if !isPointerTag t then trapM (wordTrap .wordFormat w step 0)
  else if !addressFormatOk w then trapM (wordTrap .pointerFormat w step 0)
  else
    let cons ← (fun s => .ok (t == 0x10 || (t == 0x1A && inConsRegion s (valOf w)), s) : M Bool)
    if cons then return ⟨w, valOf w, none⟩
    else
      let (a, h) ← atStep step (readHeader c (valOf w) .header)
      let fits := if t == 0x1A then isHeaderTag (tagOf h) && headerFits (strongTagOfHeader h) h else headerFits t h
      if headerMalformed h || !fits then
        trapM { wordTrap .wordFormat w step 5 with faddr := fixN a }
      else return ⟨w, a, some h⟩

/-! ### Stores -/

/-- A store performed at its block (R306): the overwritten word is logged while the barrier is on (R335), then
the write; an error response leaves a deferred machine check (R40, R81). -/
def logAtCore (k : Core) (old : Word) : Core :=
  if k.wbuf.length < 64 then { k with wbuf := k.wbuf ++ [old] } else k

/-- A full buffer goes to the engine and a spare takes its place (R336). -/
def handOver (s : State) (c : CoreId) : State :=
  let k := s.core c
  let s1 := { s with mor := { s.mor with work := s.mor.work ++ k.wbuf } }
  s1.setCore c { k with wbuf := [] }

def logCore (s : State) (c : CoreId) (old : Word) : State :=
  let s1 := if 64 ≤ (s.core c).wbuf.length then handOver s c else s
  s1.modCore c (fun k => logAtCore k old)

def oldWordOf (s : State) (pa : Nat) : Word := readWord s (pa / 8 * 8)

def performStore (s : State) (c : CoreId) (e : StoreEntry) : State :=
  let old := oldWordOf s e.pa
  let log := fun (x : State) (w : Word) => if needsLog w then logCore x c w else x
  let s1 := if e.tagged && e.barrier && barrierOn s then
      (if e.bytes.length = 16 then log (log s old) (oldWordOf s (e.pa + 8)) else log s old) else s
  if !accessible s1 e.pa then s1.modCore c (fun k => { k with mcPend := some e.pa })
  else
    let (s2, bad) := performWrite s1 (coreClass c e.pa) (some c) e.pa e.bytes
    if bad then s2.modCore c (fun k => { k with mcPend := some e.pa }) else s2

/-- The oldest entry of the store buffer is performed. -/
def drainOne (s : State) (c : CoreId) : State :=
  match (s.core c).sbuf with
  | [] => s
  | e :: t => performStore (s.modCore c (fun k => { k with sbuf := t })) c e

/-- Every entry is performed, in order: what an ordering operation waits for (R308). -/
def drainN (c : CoreId) : Nat → State → State
  | 0, s => s
  | n + 1, s => drainN c n (drainOne s c)

def drainStores (s : State) (c : CoreId) : State := drainN c (s.core c).sbuf.length s

/-- Whether a write of the core to a span waits for its block, its channel or a slot (R24, R295, R318). -/
def writeWaits (s : State) (c : CoreId) (pa n : Nat) : Bool :=
  rowBusy s pa n || spanState s pa n == .stalled || !hasSlot s (.core c)

/-- The core waits until every entry of its store buffer can be performed; then they are. -/
def drainM (c : CoreId) : M Unit := fun s =>
  if (s.core c).sbuf.any (fun e => writeWaits s c e.pa e.bytes.length) then .error .hold else .ok ((), drainStores s c)

/-- A store enters the buffer; a full buffer first performs its oldest entry (R296). -/
def enqueueStore (s : State) (c : CoreId) (pa : Nat) (bs : List Byte) (tagged : Bool) : State :=
  let s1 := if 16 ≤ (s.core c).sbuf.length then drainOne s c else s
  s1.modCore c (fun k => { k with sbuf := k.sbuf ++ [⟨pa, bs, tagged, barriersAct s c⟩] })

/-- The same, waiting while the buffer is full and its oldest entry cannot be performed. -/
def enqueueM (c : CoreId) (pa : Nat) (bs : List Byte) (tagged : Bool) : M Unit := fun s =>
  match (s.core c).sbuf with
  | e :: _ =>
    if 16 ≤ (s.core c).sbuf.length && writeWaits s c e.pa e.bytes.length then .error .hold
    else .ok ((), enqueueStore s c pa bs tagged)
  | [] => .ok ((), enqueueStore s c pa bs tagged)

def forgeTag (t : Nat) : Bool := isHeaderTag t || t == 0x2E || t == 0x3F

/-- R57 for one word: neither a header, T.FWD or T.FREE over another word nor any word over a header. -/
def mayOverwrite (old new : Word) : Bool := !(isHeaderTag (tagOf old)) && (old == new || !forgeTag (tagOf new))

/-- The words at a place as the core sees them. -/
def viewWord (s : State) (k : Core) (pa : Nat) : Word := wordOfBytes (viewBytes s k pa 8)

/-- A tagged-word store at a virtual address, its word through the load barrier (R341, R57; R63 is checked by the caller
with the header). -/
def storeWordAs (acc : Acc) (c : CoreId) (va : Nat) (w : Word) : M Unit := do
  let w ← healM c w
  match ← locate c va acc false with
  | .emerg o =>
    let k ← getC c
    if !mayOverwrite (wordOfBytes (readEmerg k o 8)) w then trapM { wordTrap .tagForge w 11 acc.code with faddr := fixN va }
    else modC c (fun k => writeEmerg k o (bytesOfWord w))
  | .mem pa =>
   fun s =>
    if !mayOverwrite (viewWord s (s.core c) pa) w then
      .error (.trap { wordTrap .tagForge w 11 acc.code with faddr := fixN va })
    else enqueueM c pa (bytesOfWord w) true s

def storeWord (c : CoreId) (va : Nat) (w : Word) : M Unit := storeWordAs .write c va w

/-- A byte store into a payload: no tag check (R67). -/
def storeBytesM (c : CoreId) (va : Nat) (bs : List Byte) : M Unit := do
  match ← locate c va .write true with
  | .emerg o => modC c (fun k => writeEmerg k o bs)
  | .mem pa => enqueueM c pa bs false

/-- A write performed at once at its block, for atomics and microcode (R200): the buffer is empty by then. In deep memory
the block is the quadrant's deep cache, whose line becomes dirty (R202: `performStore`, `performWrite`, `cacheTouch`). -/
def atomicWrite (c : CoreId) (va : Nat) (bs : List Byte) (tagged : Bool) : M Unit := do
  match ← locate c va .atomic (!tagged) with
  | .emerg o => modC c (fun k => writeEmerg k o bs)
  | .mem pa =>
   fun s =>
    if !accessible s pa || spanState s pa bs.length == .timedOut then .error (.trap (memError va 4 2 pa))
    else if writeWaits s c pa bs.length then .error .hold
    else if spanPoisoned s pa bs.length then .error (.trap (memError va 4 1 pa))
    else .ok ((), performStore s c ⟨pa, bs, tagged, barriersAct s c⟩)

/-! ### Fetch (R116, R146 step 1) -/

/-- Translation and read of one parcel. -/
def fetchParcel (c : CoreId) (va : Nat) : M Unit := do
  match ← locate c va .fetch true with
  | .emerg _ => return ()
  | .mem pa =>
   fun s =>
    if !accessible s pa || deepState s pa == .timedOut then .error (.trap (memError va 1 2 pa))
    else if deepState s pa == .stalled && !(s.core c).l1i.contains (pa / 64) then .error (.channel pa 4)
    else if (rowBusy s pa 4 || !hasSlot s (.core c)) && !(s.core c).l1i.contains (pa / 64) then .error .hold
    else if poisoned s pa || l1Bad (s.core c) pa then .error (.trap (memError va 1 1 pa))
    else .ok ((), touchL1 (endFlight (cacheTouch s (coreClass c pa) pa 4 false) c pa 4) c true (pa / 64))

/-- A word through the tables as they stand, with the core's own stores, without a fault. -/
def peekWord (s : State) (c : CoreId) (va : Nat) : Option Word :=
  match mapNow s (s.core c).space va with
  | some pa => if accessible s pa && !poisoned s pa then some (viewWord s (s.core c) pa) else none
  | none => none

/-- The instruction area of a code object with IMM set: its first address and CODE_BYTES (R71). -/
def codeArea (s : State) (c : CoreId) (b : Nat) : Option (Nat × Nat) :=
  match peekWord s c b, peekWord s c (b + 8) with
  | some h, some n =>
    if tagOf h == 0x20 && hdrClass h == 3 && hdrImm h && !headerMalformed h && isFix n && valOf n < 2 ^ 32 && valOf n % 8 == 0 then
      some (b + codeAreaOffset h, valOf n) else none
  | _, _ => none

/-- The fetch of the parcels of 4 bytes of an instruction or bundle, in order. The core fetches only from the
instruction area of its code object (R71): a parcel at or beyond its end is ILLEGAL_OP with the format's subcode (R116,
R148); with no such area, as after SPACE into a space that maps other memory there, WORD_FORMAT (R270). -/
def fetchParcels (c : CoreId) (first : Trap) (area : Option (Nat × Nat)) : Nat → Nat → M Unit
  | _, 0 => return ()
  | va, n + 1 => do
    match area with
    | none => do
      fetchParcel c va
      trapM (wordTrap .wordFormat (← getC c).codeObj 1 1)
    | some (a, len) =>
      if va < a then trapM (wordTrap .wordFormat (← getC c).codeObj 1 1)
      else if a + len < va + 4 then trapM first
      else do
        fetchParcel c va
        fetchParcels c first area (va + 4) n

def fetchM (c : CoreId) (parcels subcode first : Nat) : M Unit := atStep 1 do
  let k ← getC c
  fetchParcels c { cause := .illegalOp, sub := subcode, step := 1, detail := first } k.area k.pc parcels

end Sys2Proof.Machine
end

