-- ==== Sys2Proof/Machine/Numeric.lean ====
section
/-! DEFINITION. Numbers: binary64 with rounding to nearest even (R182), integers and bignum limbs (R72), the CRC
fold (R190) and bit helpers of the logic operations (R189). -/

namespace Sys2Proof.Machine

open Sys2Proof

/-! ### binary64 -/

/-- A binary64 value taken apart. -/
inductive F64 where
  | nan (bits : Nat)
  | inf (neg : Bool)
  | fin (neg : Bool) (m : Nat) (e : Int)    -- (-1)^neg * m * 2^e
  deriving DecidableEq, Repr

def f64Neg (b : Nat) : Bool := b / 2 ^ 63 % 2 == 1

def unpackF (b : Nat) : F64 :=
  let ex : Nat := b / 2 ^ 52 % 2048
  let fr : Nat := b % 2 ^ 52
  if ex == 2047 then (if fr == 0 then .inf (f64Neg b) else .nan b)
  else if ex == 0 then .fin (f64Neg b) fr (-1074)
  else .fin (f64Neg b) (fr + 2 ^ 52) ((ex : Int) - 1075)

def signBits (neg : Bool) : Nat := if neg then 2 ^ 63 else 0
def quietNaN : Nat := 0x7FF8000000000000
def infBits (neg : Bool) : Nat := signBits neg + 0x7FF0000000000000

/-- Round m * 2^e to nearest even; `sticky` says that a nonzero part below m was cut off. -/
def roundF (neg : Bool) (m : Nat) (e : Int) (sticky : Bool) : Nat :=
  if m == 0 then signBits neg else
    let bits : Int := Nat.log2 m + 1
    let sh : Int := max (bits - 53) (-1074 - e)
    let q : Nat :=
      if sh ≤ 0 then m * 2 ^ (-sh).toNat
      else
        let n := sh.toNat
        let q0 := m / 2 ^ n
        let r := m % 2 ^ n
        let half := 2 ^ (n - 1)
        let up := half < r || (r == half && (sticky || q0 % 2 == 1))
        if up then q0 + 1 else q0
    let field : Nat := if q < 2 ^ 52 then q else (e + sh + 1074).toNat * 2 ^ 52 + q
    if 2047 * 2 ^ 52 ≤ field then infBits neg else signBits neg + field

/-- Quiet a NaN (R182). -/
def quiet (b : Nat) : Nat := if b / 2 ^ 51 % 2 == 1 then b else b + 2 ^ 51

def signedM (neg : Bool) (m : Nat) : Int := if neg then -(m : Int) else m

def addFin (n1 : Bool) (m1 : Nat) (e1 : Int) (n2 : Bool) (m2 : Nat) (e2 : Int) : Nat :=
  let e := min e1 e2
  let v := signedM n1 (m1 * 2 ^ (e1 - e).toNat) + signedM n2 (m2 * 2 ^ (e2 - e).toNat)
  if v == 0 then signBits (n1 && n2) else roundF (v < 0) v.natAbs e false

def addF (a b : Nat) : Nat :=
  match unpackF a, unpackF b with
  | .nan x, _ => quiet x
  | _, .nan y => quiet y
  | .inf n, .inf m => if n == m then infBits n else quietNaN
  | .inf n, _ => infBits n
  | _, .inf m => infBits m
  | .fin n1 m1 e1, .fin n2 m2 e2 => addFin n1 m1 e1 n2 m2 e2

/-- Negation flips the sign of anything but a NaN. -/
def flipSign (b : Nat) : Nat := if f64Neg b then b - 2 ^ 63 else b + 2 ^ 63

def subF (a b : Nat) : Nat :=
  match unpackF a, unpackF b with
  | .nan x, _ => quiet x
  | _, .nan y => quiet y
  | _, _ => addF a (flipSign b)

def mulF (a b : Nat) : Nat :=
  match unpackF a, unpackF b with
  | .nan x, _ => quiet x
  | _, .nan y => quiet y
  | .inf n, .inf m => infBits (n != m)
  | .inf n, .fin m k _ => if k == 0 then quietNaN else infBits (n != m)
  | .fin n k _, .inf m => if k == 0 then quietNaN else infBits (n != m)
  | .fin n1 m1 e1, .fin n2 m2 e2 => roundF (n1 != n2) (m1 * m2) (e1 + e2) false

def divF (a b : Nat) : Nat :=
  match unpackF a, unpackF b with
  | .nan x, _ => quiet x
  | _, .nan y => quiet y
  | .inf _, .inf _ => quietNaN
  | .inf n, .fin m _ _ => infBits (n != m)
  | .fin n _ _, .inf m => signBits (n != m)
  | .fin n1 m1 e1, .fin n2 m2 e2 =>
    if m2 == 0 then (if m1 == 0 then quietNaN else infBits (n1 != n2))
    else roundF (n1 != n2) (m1 * 2 ^ 120 / m2) (e1 - e2 - 120) (m1 * 2 ^ 120 % m2 != 0)

/-- The integer square root, bit by bit from bit n - 1. -/
def sqrtBits (m : Nat) : Nat → Nat → Nat
  | 0, r => r
  | n + 1, r =>
    let t := r + 2 ^ n
    sqrtBits m n (if t * t ≤ m then t else r)

def sqrtF (a : Nat) : Nat :=
  match unpackF a with
  | .nan x => quiet x
  | .inf n => if n then quietNaN else infBits false
  | .fin n m e =>
    if m == 0 then a else if n then quietNaN else
      let odd := e % 2 != 0
      let m2 := (if odd then 2 * m else m) * 2 ^ 120
      let e2 := ((if odd then e - 1 else e) - 120) / 2
      let r := sqrtBits m2 100 0
      roundF false r e2 (r * r != m2)

/-- The order of two values: none when unordered, else the sign of a - b. -/
def cmpF (a b : Nat) : Option Int :=
  match unpackF a, unpackF b with
  | .nan _, _ => none
  | _, .nan _ => none
  | .inf n, .inf m => some (if n == m then 0 else if n then -1 else 1)
  | .inf n, _ => some (if n then -1 else 1)
  | _, .inf m => some (if m then 1 else -1)
  | .fin n1 m1 e1, .fin n2 m2 e2 =>
    let e := min e1 e2
    let v := signedM n1 (m1 * 2 ^ (e1 - e).toNat) - signedM n2 (m2 * 2 ^ (e2 - e).toNat)
    some v.sign

def intToF (i : Int) : Nat := roundF (i < 0) i.natAbs 0 false

/-- A float to an integer: 1 truncates, 2 rounds down, 3 rounds to nearest even (R189); none for NaN and infinity. -/
def fToInt (mode : Nat) (a : Nat) : Option Int :=
  match unpackF a with
  | .nan _ => none
  | .inf _ => none
  | .fin n m e =>
    if 0 ≤ e then some (signedM n (m * 2 ^ e.toNat)) else
      let d := 2 ^ (-e).toNat
      let q := m / d
      let r := m % d
      let near := if d < 2 * r || (2 * r == d && q % 2 == 1) then q + 1 else q
      some (match mode with
        | 1 => signedM n q
        | 2 => if n && r != 0 then -((q : Int) + 1) else signedM n q
        | _ => signedM n near)

def isNaNF (a : Nat) : Bool := match unpackF a with | .nan _ => true | _ => false
def isZeroF (a : Nat) : Bool := a % 2 ^ 63 == 0

/-! ### Integers and limbs (R72, R181) -/

def fitsFix (i : Int) : Bool := -(2 : Int) ^ 55 ≤ i && i < (2 : Int) ^ 55

/-- The fewest 64-bit limbs that hold an integer in two's complement. -/
def limbCount (i : Int) : Nat :=
  let m := if i < 0 then (-i - 1).toNat else i.toNat
  (if m == 0 then 1 else Nat.log2 m + 2 + 63) / 64 |> max 1

def limbBytes (i : Int) : List Byte :=
  let n := limbCount i
  toBytes (8 * n) (i % (2 : Int) ^ (64 * n)).toNat

def intOfLimbs (bs : List Byte) : Int := signed (8 * bs.length) (ofBytes bs)

/-- A payload that R72 admits: whole limbs, out of the T.FIX range, no shorter sequence. -/
def bignumOk (bs : List Byte) : Bool :=
  let n := bs.length / 8
  bs.length % 8 == 0 && 1 ≤ n && n ≤ 65536 && !fitsFix (intOfLimbs bs) && limbCount (intOfLimbs bs) == n

/-- Division toward zero and the remainder of the dividend's sign (R183). -/
def divTrunc (a b : Int) : Int := Int.tdiv a b
def remTrunc (a b : Int) : Int := Int.tmod a b

/-! ### Bit helpers of R189 -/

def popcount (v : Nat) : Nat := ((List.range 56).filter (fun i => v.testBit i)).length
def clz56 (v : Nat) : Nat := if v % 2 ^ 56 == 0 then 56 else 55 - Nat.log2 (v % 2 ^ 56)
def reverseBits (w v : Nat) : Nat := (List.range w).foldl (fun a i => if v.testBit i then a + 2 ^ (w - 1 - i) else a) 0

/-! ### The CRC fold (R190) -/

/-- The descriptor's parts. -/
structure CrcDesc where
  reflect : Bool
  w : Nat
  poly : Nat
  deriving DecidableEq, Repr

def crcBit (d : CrcDesc) (st : Nat) : Nat :=
  if d.reflect then
    (if st % 2 == 1 then (st / 2) ^^^ reverseBits d.w d.poly else st / 2)
  else if st.testBit (d.w - 1) then ((2 * st) ^^^ d.poly) % 2 ^ d.w else (2 * st) % 2 ^ d.w

def iter {α : Type} (f : α → α) : Nat → α → α
  | 0, a => a
  | n + 1, a => iter f n (f a)

def crcByte (d : CrcDesc) (st b : Nat) : Nat :=
  iter (crcBit d) 8 (if d.reflect then st ^^^ b else st ^^^ (b * 2 ^ (d.w - 8)))

/-- The k low bytes of the data, the most significant first. -/
def crcFold (d : CrcDesc) (data : Nat) : Nat → Nat → Nat
  | 0, st => st
  | k + 1, st => crcFold d data k (crcByte d st (data / 2 ^ (8 * k) % 256))

/-- The descriptor of a T.FIX, with its FOLD count when `fold` asks for it; none for a reserved value. -/
def crcDescOf (v : Nat) (fold : Bool) : Option (CrcDesc × Nat) :=
  let w := v / 2 ^ 32 % 64 + 1
  let poly := v % 2 ^ 32
  let f := v / 2 ^ 38 % 4
  if v / 2 ^ 41 != 0 || (fold && f == 3) || w < 8 || 32 < w || 2 ^ w ≤ poly then none
  else some (⟨v.testBit 40, w, poly⟩, 2 ^ f)

end Sys2Proof.Machine
end

