-- ==== Sys2Proof/Machine/Operands.lean ====
section
/-! DEFINITION. Long parcels: opcodes, forms and modes, the decode checks, and every form of operand B
(R117 to R137, R146, R171). -/

namespace Sys2Proof

open Sys2Proof.Machine

/-- The opcode byte (R119). -/
def Opcode.code : Opcode → Nat
  | .mov => 0x01
  | .st => 0x02
  | .swap => 0x03
  | .ldb => 0x04
  | .stb => 0x05
  | .ldbit => 0x06
  | .stbit => 0x07
  | .mfc => 0x08
  | .mtc => 0x09
  | .setuprd => 0x0A
  | .setupwr => 0x0B
  | .add => 0x10
  | .sub => 0x11
  | .mul => 0x12
  | .div => 0x13
  | .rem => 0x14
  | .neg => 0x15
  | .abs => 0x16
  | .cmp => 0x17
  | .addto => 0x18
  | .subto => 0x19
  | .and => 0x20
  | .or => 0x21
  | .xor => 0x22
  | .andn => 0x23
  | .shl => 0x24
  | .shr => 0x25
  | .sar => 0x26
  | .popc => 0x27
  | .clz => 0x28
  | .parity => 0x71
  | .bitrev => 0x72
  | .crcstep => 0x70
  | .fadd => 0x30
  | .fsub => 0x31
  | .fmul => 0x32
  | .fdiv => 0x33
  | .fsqrt => 0x34
  | .fcmp => 0x35
  | .fcvt => 0x36
  | .cons => 0x40
  | .car => 0x41
  | .cdr => 0x42
  | .rplaca => 0x43
  | .rplacd => 0x44
  | .allocv => 0x45
  | .alloci => 0x46
  | .allocb => 0x47
  | .lenof => 0x48
  | .classof => 0x49
  | .idhash => 0x4A
  | .weakref => 0x4B
  | .pin => 0x4C
  | .unpin => 0x4D
  | .bitaddr => 0x4E
  | .tagset => 0x4F
  | .tagof => 0x50
  | .tageq => 0x51
  | .classis => 0x52
  | .eq => 0x53
  | .eql => 0x54
  | .casw => 0x60
  | .casg => 0x61
  | .swpg => 0x62
  | .faddw => 0x63
  | .bset => 0x73
  | .bclr => 0x74
  | .btest => 0x79
  | .bmov => 0x75
  | .band => 0x76
  | .bor => 0x77
  | .bxor => 0x78
  | .jmp => 0x80
  | .call => 0x81
  | .calln => 0x82
  | .ret => 0x83
  | .retn => 0x84
  | .rett => 0x85
  | .rete => 0x86
  | .trap => 0x87
  | .loop => 0x90
  | .loopx => 0x91
  | .savelo => 0xA0
  | .savehi => 0xA1
  | .restlo => 0xA2
  | .resthi => 0xA3
  | .spillw => 0xA4
  | .fillw => 0xA5
  | .space => 0xA6
  | .fence => 0xB0
  | .barrier => 0xB1
  | .wait => 0xB2
  | .eoin => 0xB3
  | .eoif => 0xB4
  | .niwopen => 0xB5
  | .niwclose => 0xB6
  | .trvgo => 0xB7
  | .cqlook => 0xC0
  | .cqins => 0xC1
  | .cqdel => 0xC2
  | .crgpost => 0xC3

/-- The operand forms (R118). -/
inductive Form where
  | R | U | M | S | W | C | X | N
  deriving DecidableEq, Repr

def Opcode.form : Opcode → Form
  | .mov => .U
  | .st => .S
  | .swap => .W
  | .ldb => .U
  | .stb => .S
  | .ldbit => .R
  | .stbit => .W
  | .mfc => .U
  | .mtc => .C
  | .setuprd => .U
  | .setupwr => .C
  | .add => .R
  | .sub => .R
  | .mul => .R
  | .div => .R
  | .rem => .R
  | .neg => .U
  | .abs => .U
  | .cmp => .C
  | .addto => .M
  | .subto => .M
  | .and => .R
  | .or => .R
  | .xor => .R
  | .andn => .R
  | .shl => .R
  | .shr => .R
  | .sar => .R
  | .popc => .U
  | .clz => .U
  | .parity => .U
  | .bitrev => .R
  | .crcstep => .R
  | .fadd => .R
  | .fsub => .R
  | .fmul => .R
  | .fdiv => .R
  | .fsqrt => .U
  | .fcmp => .C
  | .fcvt => .R
  | .cons => .R
  | .car => .U
  | .cdr => .U
  | .rplaca => .C
  | .rplacd => .C
  | .allocv => .R
  | .alloci => .R
  | .allocb => .R
  | .lenof => .U
  | .classof => .U
  | .idhash => .U
  | .weakref => .R
  | .pin => .C
  | .unpin => .C
  | .bitaddr => .R
  | .tagset => .R
  | .tagof => .U
  | .tageq => .C
  | .classis => .C
  | .eq => .C
  | .eql => .C
  | .casw => .W
  | .casg => .W
  | .swpg => .W
  | .faddw => .W
  | .bset => .C
  | .bclr => .C
  | .btest => .C
  | .bmov => .C
  | .band => .C
  | .bor => .C
  | .bxor => .C
  | .jmp => .X
  | .call => .X
  | .calln => .X
  | .ret => .X
  | .retn => .X
  | .rett => .N
  | .rete => .N
  | .trap => .X
  | .loop => .C
  | .loopx => .X
  | .savelo => .U
  | .savehi => .U
  | .restlo => .U
  | .resthi => .U
  | .spillw => .N
  | .fillw => .N
  | .space => .U
  | .fence => .N
  | .barrier => .C
  | .wait => .N
  | .eoin => .N
  | .eoif => .N
  | .niwopen => .N
  | .niwclose => .N
  | .trvgo => .U
  | .cqlook => .R
  | .cqins => .R
  | .cqdel => .R
  | .crgpost => .R

/-- The mode sets (R171). -/
inductive ModeSet where
  | V | L | A | Y | BR | BW | K | none
  deriving DecidableEq, Repr

def Opcode.modes : Opcode → ModeSet
  | .mov => .V
  | .st => .L
  | .swap => .L
  | .ldb => .Y
  | .stb => .Y
  | .ldbit => .BR
  | .stbit => .BW
  | .mfc => .K
  | .mtc => .K
  | .setuprd => .K
  | .setupwr => .K
  | .add => .V
  | .sub => .V
  | .mul => .V
  | .div => .V
  | .rem => .V
  | .neg => .V
  | .abs => .V
  | .cmp => .V
  | .addto => .L
  | .subto => .L
  | .and => .V
  | .or => .V
  | .xor => .V
  | .andn => .V
  | .shl => .V
  | .shr => .V
  | .sar => .V
  | .popc => .V
  | .clz => .V
  | .parity => .V
  | .bitrev => .V
  | .crcstep => .V
  | .fadd => .V
  | .fsub => .V
  | .fmul => .V
  | .fdiv => .V
  | .fsqrt => .V
  | .fcmp => .V
  | .fcvt => .V
  | .cons => .V
  | .car => .V
  | .cdr => .V
  | .rplaca => .V
  | .rplacd => .V
  | .allocv => .V
  | .alloci => .V
  | .allocb => .V
  | .lenof => .V
  | .classof => .V
  | .idhash => .V
  | .weakref => .V
  | .pin => .V
  | .unpin => .V
  | .bitaddr => .V
  | .tagset => .V
  | .tagof => .V
  | .tageq => .V
  | .classis => .V
  | .eq => .V
  | .eql => .V
  | .casw => .A
  | .casg => .A
  | .swpg => .A
  | .faddw => .A
  | .bset => .K
  | .bclr => .K
  | .btest => .K
  | .bmov => .K
  | .band => .K
  | .bor => .K
  | .bxor => .K
  | .jmp => .V
  | .call => .V
  | .calln => .V
  | .ret => .V
  | .retn => .V
  | .rett => .none
  | .rete => .none
  | .trap => .K
  | .loop => .K
  | .loopx => .V
  | .savelo => .V
  | .savehi => .V
  | .restlo => .V
  | .resthi => .V
  | .spillw => .none
  | .fillw => .none
  | .space => .K
  | .fence => .none
  | .barrier => .K
  | .wait => .none
  | .eoin => .none
  | .eoif => .none
  | .niwopen => .none
  | .niwclose => .none
  | .trvgo => .K
  | .cqlook => .V
  | .cqins => .V
  | .cqdel => .V
  | .crgpost => .V

/-- Every opcode, for the search by code. -/
def Opcode.all : List Opcode :=
  ([Opcode.mov, Opcode.st, Opcode.swap, Opcode.ldb, Opcode.stb, Opcode.ldbit] : List Opcode) ++
  ([Opcode.stbit, Opcode.mfc, Opcode.mtc, Opcode.setuprd, Opcode.setupwr, Opcode.add] : List Opcode) ++
  ([Opcode.sub, Opcode.mul, Opcode.div, Opcode.rem, Opcode.neg, Opcode.abs] : List Opcode) ++
  ([Opcode.cmp, Opcode.addto, Opcode.subto, Opcode.and, Opcode.or, Opcode.xor] : List Opcode) ++
  ([Opcode.andn, Opcode.shl, Opcode.shr, Opcode.sar, Opcode.popc, Opcode.clz] : List Opcode) ++
  ([Opcode.parity, Opcode.bitrev, Opcode.crcstep, Opcode.fadd, Opcode.fsub, Opcode.fmul] : List Opcode) ++
  ([Opcode.fdiv, Opcode.fsqrt, Opcode.fcmp, Opcode.fcvt, Opcode.cons, Opcode.car] : List Opcode) ++
  ([Opcode.cdr, Opcode.rplaca, Opcode.rplacd, Opcode.allocv, Opcode.alloci, Opcode.allocb] : List Opcode) ++
  ([Opcode.lenof, Opcode.classof, Opcode.idhash, Opcode.weakref, Opcode.pin, Opcode.unpin] : List Opcode) ++
  ([Opcode.bitaddr, Opcode.tagset, Opcode.tagof, Opcode.tageq, Opcode.classis, Opcode.eq] : List Opcode) ++
  ([Opcode.eql, Opcode.casw, Opcode.casg, Opcode.swpg, Opcode.faddw, Opcode.bset] : List Opcode) ++
  ([Opcode.bclr, Opcode.btest, Opcode.bmov, Opcode.band, Opcode.bor, Opcode.bxor] : List Opcode) ++
  ([Opcode.jmp, Opcode.call, Opcode.calln, Opcode.ret, Opcode.retn, Opcode.rett] : List Opcode) ++
  ([Opcode.rete, Opcode.trap, Opcode.loop, Opcode.loopx, Opcode.savelo, Opcode.savehi] : List Opcode) ++
  ([Opcode.restlo, Opcode.resthi, Opcode.spillw, Opcode.fillw, Opcode.space, Opcode.fence] : List Opcode) ++
  ([Opcode.barrier, Opcode.wait, Opcode.eoin, Opcode.eoif, Opcode.niwopen, Opcode.niwclose] : List Opcode) ++
  ([Opcode.trvgo, Opcode.cqlook, Opcode.cqins, Opcode.cqdel, Opcode.crgpost] : List Opcode)

def Opcode.ofCode (n : Nat) : Option Opcode := Opcode.all.find? (fun o => o.code == n)

def ModeSet.admits : ModeSet → Nat → Bool
  | .V, m => m ≤ 9
  | .L, m => m == 0 || m == 4 || m == 5 || m == 6 || m == 8 || m == 9
  | .A, m => m == 4 || m == 5 || m == 6 || m == 8 || m == 9
  | .Y, m => m == 4 || m == 5 || m == 6 || m == 8 || m == 9
  | .BR, m => m == 0xA || m == 0xB
  | .BW, m => m == 0xB
  | .K, m => m == 0 || m == 1 || m == 2 || m == 7
  | .none, m => m == 0

/-- Extension words of a mode (R128). -/
def modeWords (m : Nat) : Nat := if m == 3 then 2 else if m == 2 || (4 ≤ m && m ≤ 9) || m == 0xB then 1 else 0

/-- Parcels of a long operation, and its first parcel as a number (R117). -/
def Long.parcels (l : Long) : Nat := 1 + modeWords l.mode.toNat
def Long.word (op : Opcode) (l : Long) : Nat :=
  op.code * 2 ^ 23 + l.cc.toNat * 2 ^ 19 + l.rd.toNat * 2 ^ 14 + l.ra.toNat * 2 ^ 9 + l.mode.toNat * 2 ^ 5 + l.rb.toNat

/-- Fields of the index extension word (R129). -/
def Long.rx (l : Long) : Nat := l.ext0.toNat % 32
def Long.disp (l : Long) : Int := signed 24 (l.ext0.toNat / 256)
def Long.dir (l : Long) : Bool := l.ext0.getLsbD 5
def Long.scale (l : Long) : Nat := l.ext0.toNat / 64 % 4

/-- The word of IMM64 (R128). -/
def Long.imm64 (l : Long) : Word := l.ext1 ++ l.ext0

end Sys2Proof

namespace Sys2Proof.Machine

open Sys2Proof

def usesPairs (op : Opcode) : Bool := op == .casg || op == .swpg
def isContextOp (op : Opcode) : Bool := op == .savelo || op == .savehi || op == .restlo || op == .resthi

/-- The field checks of step 3: the form's zero fields, the mode, the reserved bits (R118, R128, R129, R174, R204). -/
def fieldsOk (op : Opcode) (l : Long) : Bool :=
  let m := l.mode.toNat
  let zeroRd := match op.form with | .M | .S | .C | .X | .N => l.rd == 0 | _ => true
  let zeroRa := match op.form with | .U | .X | .N => l.ra == 0 | _ => true
  let form := zeroRd && zeroRa && (op.form != .N || (m == 0 && l.rb == 0))
  let index :=
    if m == 5 || m == 0xB then l.ext0.toNat / 32 % 8 == 0
    else if m == 6 then l.ext0.toNat / 64 % 4 == 0 && l.rx != l.rb.toNat
    else if m == 9 then !l.dir else true
  let imm := if m == 2 || m == 3 then l.rb == 0 else true
  let pairs := if usesPairs op then l.rd.toNat % 2 == 0 && l.ra.toNat % 2 == 0 else true
  let ctx := if isContextOp op then l.rd == 24 else true
  form && op.modes.admits m && index && imm && pairs && ctx

/-- What an IMM64 operand raises at step 3 (R137). -/
def imm64Fault (l : Long) : Option Cause :=
  if l.mode != 3 then none
  else
    let t := tagOf l.imm64
    if isReservedTag t then some .tagReserved
    else if !isImmediateTag t then some .tagForge
    else if !immediateOk l.imm64 then some .wordFormat
    else none

/-- The decode checks of steps 2 and 3 for a long operation. -/
def decodeFault (op : Opcode) (l : Long) : Option Trap :=
  if !fieldsOk op l then some { cause := .reservedField, step := 3, detail := l.word op }
  else (imm64Fault l).map (fun c => wordTrap c l.imm64 3 0)

/-- The CC field (R126). -/
def ccHolds (k : Core) (cc : Nat) : Bool :=
  match cc with
  | 0x0 => true
  | 0x1 => k.bit 0
  | 0x2 => !k.bit 0
  | 0x3 => k.bit 1
  | 0x4 => !k.bit 1
  | 0x5 => k.bit 2
  | 0x6 => !k.bit 2
  | 0x7 => k.bit 3
  | 0x8 => !k.bit 3
  | 0x9 => k.bit 4
  | 0xA => !k.bit 4
  | 0xB => k.bit 5
  | 0xC => k.bit 6
  | 0xD => k.bit 7
  | 0xE => k.bit 1 != k.bit 3
  | _ => k.bit 0 || k.bit 1 != k.bit 3

/-- The 10-bit condition field (R127): whether it is well formed, and whether it holds. -/
def condOk (f : Nat) : Bool := f / 256 != 3 && (f / 256 != 0 || f % 256 == 0)
def condHolds (k : Core) (f : Nat) : Bool :=
  match f / 256 with
  | 0 => true
  | 1 => k.bit (f % 256)
  | _ => !k.bit (f % 256)

/-! ### Operand B -/

/-- Operand B once its address is known. `imm` is the IMM flag of the object reached through a header. -/
inductive OpB where
  | nothing
  | reg (n : Nat)
  | val (w : Word)
  | word (va : Nat) (imm : Bool)
  | byte (va : Nat) (imm : Bool)
  | foreign (off : Nat)
  | bits (va : Nat) (lo w : Nat) (imm : Bool)
  deriving DecidableEq, Repr

/-- Operand B and the index register that SLOTXI moves after the access. -/
structure ResB where
  b : OpB
  post : Option (Nat × Word)
  deriving DecidableEq, Repr

def boundsTrap (idx : Int) (bound fa access : Nat) : Trap :=
  { cause := .slotBounds, step := 8, access := access, foper := fix idx, detail := bound, faddr := fixN (fa % 2 ^ 47) }

def misalignTrap (n va access : Nat) : Trap :=
  { cause := .misaligned, step := 8, access := access, detail := n, faddr := fixN va }

/-- RX as an integer (R129). -/
def indexReg (c : CoreId) (n : Nat) : M Int := do
  let w ← regM c n
  if isFix w then return fixVal w else trapM (wordTrap .wordFormat w 7 0)

/-- The base register of an object-slot mode (R130): checked at step 7, healed. -/
def objectBase (c : CoreId) (n : Nat) : M Word := do
  let w ← regM c n
  if !isPointerTag (tagOf w) then trapM (wordTrap .wordFormat w 7 0)
  else if !addressFormatOk w then trapM (wordTrap .pointerFormat w 7 0)
  else healRegM c n

/-- The base register of a plain-address mode: pointer, T.SP or T.FOREIGN (R134). -/
def plainBase (c : CoreId) (n : Nat) : M Word := do
  let w ← regM c n
  let t := tagOf w
  if !(isPointerTag t || t == 0x32 || t == 0x1F) then trapM (wordTrap .wordFormat w 7 0)
  else if !addressFormatOk w then trapM (wordTrap .pointerFormat w 7 0)
  else if isPointerTag t then healRegM c n else return w

/-- The running code object's constants vector (R133). -/
def constsBase (c : CoreId) : M Word := do
  let k ← getC c
  let o ← openObject c k.codeObj 8
  let v ← atStep 8 (loadWord c (o.slotAddr 2) .read)
  if tagOf v == 0x11 then return v
  else if isNil v then return v
  else trapM (wordTrap .wordFormat v 8 2)

/-- A slot of an object with its bound checked (R130, R62). -/
def slotOf (o : Obj) (idx : Int) (access : Nat) : M OpB :=
  if o.isBytes then trapM (wordTrap .wordFormat o.ptr 8 access)
  else if idx < 0 || (o.bound : Int) ≤ idx then
    trapM (boundsTrap idx o.bound ((o.addr : Int) + 8 * (idx + (if o.hdr.isSome then 1 else 0)) % 2 ^ 47).toNat access)
  else pure (.word (o.slotAddr idx.toNat) o.imm)

/-- A payload byte of a byte vector with its bound checked. -/
def byteOf (o : Obj) (idx : Int) (n : Nat) (access : Nat) : M OpB :=
  match o.hdr with
  | some h =>
    if !o.isBytes then trapM (wordTrap .wordFormat o.ptr 8 access)
    else if idx < 0 || (hdrLength h : Int) < idx + n then
      trapM (boundsTrap idx (hdrLength h) (((o.payload : Int) + idx) % 2 ^ 47).toNat access)
    else pure (.byte (o.payload + idx.toNat) o.imm)
  | none => trapM (wordTrap .wordFormat o.ptr 8 access)

/-- A bit field of a payload (R136). -/
def bitFieldOf (o : Obj) (idx : Int) (w : Nat) (access : Nat) : M OpB :=
  match o.hdr with
  | some h =>
    if !o.isBytes then trapM (wordTrap .wordFormat o.ptr 8 access)
    else if idx < 0 || (8 * hdrLength h : Int) < idx + w then
      trapM (boundsTrap idx (8 * hdrLength h) (((o.payload : Int) + idx / 8) % 2 ^ 47).toNat access)
    else
      let bit := 8 * o.payload + idx.toNat
      if 128 < bit % 128 + w then trapM (misalignTrap 16 (bit / 8) access)
      else pure (.bits (bit / 128 * 16) (bit % 128) w o.imm)
  | none => trapM (wordTrap .wordFormat o.ptr 8 access)

/-- A plain address: its range and alignment (R134). -/
def plainOf (base : Word) (off : Int) (set : ModeSet) (align access : Nat) : M OpB :=
  let sum := (valOf base : Int) + off
  let foreign := tagOf base == 0x1F
  if sum < 0 || (if foreign then (2 : Int) ^ 43 else (2 : Int) ^ 47) ≤ sum then
    trapM { wordTrap .pointerFormat base 7 access with step := 7 }
  else if set == .Y then
    (if foreign then pure (.foreign sum.toNat) else trapM { cause := .memoryKind, step := 7, access := access, faddr := fixN sum.toNat })
  else if foreign then trapM { cause := .memoryKind, step := 7, access := access, faddr := mkWord 0x1F sum.toNat }
  else if sum.toNat % align != 0 then trapM (misalignTrap align sum.toNat access)
  else pure (.word sum.toNat false)

/-- SLOT-like access of an object by the mode set. `width` is that of a bit field. -/
def accessOf (o : Obj) (idx : Int) (set : ModeSet) (align access : Nat) : M OpB := do
  if set == .Y then byteOf o idx 1 access
  else
    let b ← slotOf o idx access
    match b with
    | .word va i => if va % align != 0 then trapM (misalignTrap align va access) else return .word va i
    | x => return x

/-- The access that an operand would make, in a fault of its address (R226; log 8). -/
def forAccess {α : Type} (access : Nat) (m : M α) : M α := fun s =>
  match m s with
  | .error (.trap t) =>
    .error (.trap (if (t.step == 7 || t.step == 8) && t.access == 0 then { t with access := access } else t))
  | r => r

/-- The object of an object-slot mode, its header now in the header buffer (R130, R132). -/
def openSlot (c : CoreId) (w : Word) : M Obj := do
  let o ← openObject c w 8
  bufferHeader c o.addr o.hdr
  return o

/-- The address of operand B: steps 7 and 8 of R146. R136 adds a term i to the bit index of BITX, and R129 gives its
extension word no such field: the model takes it as 0 (log 47). -/
def addressB (c : CoreId) (set : ModeSet) (l : Long) (align width access : Nat) : M ResB := do
  let rb := l.rb.toNat
  match l.mode.toNat with
  | 0x0 => return ⟨if set == .none then .nothing else .reg rb, none⟩
  | 0x1 => return ⟨.val (fix (signed 5 rb)), none⟩
  | 0x2 => return ⟨.val (fix (signed 32 l.ext0.toNat)), none⟩
  | 0x3 => return ⟨.val l.imm64, none⟩
  | 0x4 =>
    let w ← objectBase c rb
    let o ← openSlot c w
    return ⟨← accessOf o l.ext0.toNat set align access, none⟩
  | 0x5 =>
    let w ← objectBase c rb
    let x ← indexReg c l.rx
    let o ← openSlot c w
    return ⟨← accessOf o (x + l.disp) set align access, none⟩
  | 0x6 =>
    let w ← objectBase c rb
    let x ← indexReg c l.rx
    let o ← openSlot c w
    let b ← accessOf o (x + l.disp) set align access
    return ⟨b, some (l.rx, fix (if l.dir then x - 1 else x + 1))⟩
  | 0x7 =>
    let v ← constsBase c
    if isNil v then trapM { boundsTrap l.ext0.toNat 0 0 2 with faddr := nil }
    else
      let o ← openSlot c v
      return ⟨← accessOf o l.ext0.toNat .V 8 2, none⟩
  | 0x8 =>
    let w ← plainBase c rb
    return ⟨← plainOf w (signed 32 l.ext0.toNat) set align access, none⟩
  | 0x9 =>
    let w ← plainBase c rb
    let x ← indexReg c l.rx
    return ⟨← plainOf w (x * 2 ^ l.scale + l.disp) set align access, none⟩
  | 0xA =>
    let w ← regM c rb
    if tagOf w != 0x07 then trapM (wordTrap .wordFormat w 7 0)
    else if !addressFormatOk w then trapM (wordTrap .pointerFormat w 7 0)
    else
      let bit := valOf w
      if 64 < bit % 64 + width then trapM (misalignTrap 8 (bit / 8) access)
      else return ⟨.bits (bit / 128 * 16) (bit % 128) width false, none⟩
  | 0xB =>
    let w ← objectBase c rb
    let x ← indexReg c l.rx
    let o ← openSlot c w
    return ⟨← bitFieldOf o (x + l.disp) width access, none⟩
  | _ => simpleFault .reservedField 3

/-- Resolve operand B: its address, with the access in the faults. -/
def resolveB (c : CoreId) (set : ModeSet) (l : Long) (align width access : Nat) : M ResB :=
  forAccess access (addressB c set l align width access)

/-- Read operand B as a tagged word (step 9). -/
def readB (c : CoreId) (acc : Acc) (b : OpB) : M Word := do
  match b with
  | .reg n => regM c n
  | .val w => return w
  | .word va _ => atStep 9 (loadWord c va acc)
  | _ => return nil

/-- Read a bit field: the bytes of its granule. -/
def readField (c : CoreId) (acc : Acc) (va lo w : Nat) : M Nat := do
  let bs ← atStep 9 (loadBytes c va 16 acc true)
  return ofBytes bs / 2 ^ lo % 2 ^ w

/-- Move the index register of SLOTXI. -/
def postB (c : CoreId) (r : ResB) : M Unit := do
  match r.post with
  | some (n, w) => setRegM c n w
  | none => return ()

/-- A write or an atomic at an address of an immutable object (R63, R226). -/
def immutableFault {α : Type} (acc : Acc) (va : Nat) : M α :=
  trapM { cause := .immutableWrite, step := 11, access := acc.code, faddr := fixN va }

/-- Write operand B (step 11): a value taken from a register passes the load barrier first (R341). -/
def writeB (c : CoreId) (b : OpB) (w : Word) : M Unit := do
  match b with
  | .reg n => setRegM c n w
  | .word va imm =>
    if imm then immutableFault .write va else atStep 11 (storeWord c va w)
  | _ => return ()

end Sys2Proof.Machine
end

