-- ==== Sys2Proof/Machine/Traps.lean ====
section
/-! DEFINITION. Rotation and window traps, the pushed frame, entry, double faults, machine checks and halts
(R90 to R94, R217 to R246). Taking an exception is the one operation `enterException`. -/

namespace Sys2Proof.Machine

open Sys2Proof

/-- The cause codes (R217). -/
def Cause.code : Cause → Nat
  | .illegalOp => 0x01 | .reservedField => 0x02 | .illegalRepeat => 0x03 | .tagReserved => 0x04
  | .wordFormat => 0x05 | .pointerFormat => 0x06 | .tagForge => 0x07 | .memoryKind => 0x08
  | .misaligned => 0x09 | .slotBounds => 0x0A | .immutableWrite => 0x0B | .divideZero => 0x0C
  | .bignumSize => 0x0D | .heapFull => 0x0E | .dispatchTrap => 0x0F | .loopDepth => 0x10
  | .saveChain => 0x11 | .eoiOrder => 0x12 | .trap => 0x13 | .memoryError => 0x14
  | .pageAbsent => 0x18 | .pageWrite => 0x19 | .pageKind => 0x1A | .walkFault => 0x1B
  | .walkDevice => 0x1C | .stackFault => 0x20 | .doubleFault => 0x21 | .machineCheck => 0x22
  | .interrupt => 0x30

def retWord (addr : Nat) (fmt : Bool) : Word := mkWord 0x30 (addr % 2 ^ 47 + if fmt then 2 ^ 47 else 0)
def retAddr (w : Word) : Nat := bitsOf w 46 0
def retFmt (w : Word) : Bool := bitOf w 47

/-! ### Rotation (R90, R91) -/

def rotatedForward (k : Core) : Core :=
  let w := (k.cwp + 1) % 12
  (({ k with cwp := w, resident := k.resident + 1 }).voidGroup (Core.localsGroup w)).voidGroup (Core.outsGroup w)

def rotatedBackward (k : Core) : Core :=
  let k1 := (k.voidGroup (Core.localsGroup k.cwp)).voidGroup (Core.outsGroup k.cwp)
  { k1 with cwp := (k.cwp + 11) % 12, resident := k.resident - 1 }

/-- A granule store of two tagged words, each through the load barrier (R230, R341). -/
def storePair (acc : Acc) (c : CoreId) (va : Nat) (x y : Word) : M Unit := do
  let x ← healM c x
  let y ← healM c y
  match ← locate c va acc false with
  | .emerg o =>
    let k ← getC c
    let old := readEmerg k o 16
    if !mayOverwrite (wordOfBytes (old.take 8)) x || !mayOverwrite (wordOfBytes (old.drop 8)) y then
      trapM { wordTrap .tagForge x 11 acc.code with faddr := fixN va }
    else modC c (fun k => writeEmerg k o (bytesOfWord x ++ bytesOfWord y))
  | .mem pa =>
   fun s =>
    if !mayOverwrite (viewWord s (s.core c) pa) x || !mayOverwrite (viewWord s (s.core c) (pa + 8)) y then
      .error (.trap { wordTrap .tagForge x 11 acc.code with faddr := fixN va })
    else enqueueM c pa (bytesOfWord x ++ bytesOfWord y) true s

def storePairs (acc : Acc) (c : CoreId) : Nat → List Word → M Unit
  | va, x :: y :: ws => do storePair acc c va x y; storePairs acc c (va + 16) ws
  | _, _ => return ()

/-- Store words at rising addresses. -/
def storeWords (acc : Acc) (c : CoreId) : Nat → List Word → M Unit
  | _, [] => return ()
  | va, w :: ws => do storeWordAs acc c va w; storeWords acc c (va + 8) ws

def loadWords (c : CoreId) : Nat → Nat → M (List Word)
  | _, 0 => return []
  | va, n + 1 => do
    let w ← loadWord c va .read
    let ws ← loadWords c (va + 8) n
    return w :: ws

/-- g6 as a T.SP (R87, R94). -/
def spillPointer (c : CoreId) : M Nat := do
  let w ← regM c 30
  if tagOf w == 0x32 then return valOf w else trapM (wordTrap .wordFormat w 10 0)

def setGlobal (k : Core) (n : Nat) (w : Word) : Core := { k with globals := Tbl.putD k.globals unbound n w }

/-- SPILLW: the oldest window as a record of 16 words below g6 (R94). -/
def spill (c : CoreId) : M Unit := do
  let k ← getC c
  let a ← spillPointer c
  if a < 128 then trapM (wordTrap .pointerFormat k.g6 10 3)
  else
    let w := k.bottom
    storeWords .write c (a - 128) ((List.range 16).map (fun n => Tbl.getD k.reel unbound (Core.reelKey w n)))
    modC c (fun k => setGlobal k 6 (mkWord 0x32 (a - 128)))
    modC c (fun k =>
      let k1 := (k.voidGroup (Core.insGroup w)).voidGroup (Core.localsGroup w)
      { k1 with bottom := (w + 1) % 12, resident := k1.resident - 1 })

def fillRegs (k : Core) (w : Nat) : Nat → List Word → Core
  | _, [] => k
  | n, x :: xs => fillRegs { k with reel := Tbl.put k.reel (Core.reelKey w n) x } w (n + 1) xs

/-- FILLW: the record at g6 into the window below the current one (R94). -/
def fill (c : CoreId) : M Unit := do
  let k ← getC c
  let a ← spillPointer c
  let ws ← loadWords c a 16
  let w := (k.cwp + 11) % 12
  if vaTop < a + 128 then trapM (wordTrap .pointerFormat k.g6 10 2)
  else
    modC c (fun k => fillRegs (setGlobal k 6 (mkWord 0x32 (a + 128))) w 0 ws)
    modC c (fun k => { k with bottom := w, resident := 2 })

/-- The entry into the trap window (R92): its groups are voided, i0 and i1 tell the trap and the window, and the address
of the interrupted operation is recorded. -/
def enterWindowTrap (s : State) (c : CoreId) (overflow : Bool) (pc : Nat) : State :=
  s.modCore c (fun k =>
    let i1 := if overflow then k.bottom else (k.cwp + 11) % 12
    { k.voidTrap.setStatus 23 23 1 with
      trapw := Tbl.put (Tbl.put [] 0 (fixN (if overflow then 0 else 1))) 1 (fixN i1)
      wtrap := some ⟨overflow, pc⟩ })

/-- Whether the core stands in the fixed handler of a window trap: in the trap window, not on the fast bank above it,
nor in a last-resort handler (R92, R93). -/
def inWindowTrap (k : Core) : Bool := k.tw && k.wtrap.isSome && !k.fb && !k.lastResort

/-- The fixed handler (R92, R94): SPILLW or FILLW, whose fault is a double fault of reason 1, then RETT, which ends the
trap window; the interrupted operation then runs again from its start. -/
def windowHandler (c : CoreId) : M Unit := fun s =>
  match (s.core c).wtrap with
  | none => .ok ((), s)
  | some w =>
    match (if w.overflow then spill c else fill c) s with
    | .ok (_, s1) => .ok ((), s1.modCore c (fun k => { k.setStatus 23 23 0 with wtrap := none }))
    | .error (.trap t) => .error (.doubleFault 1 t)
    | .error x => .error x

/-- A rotation in the trap window or in a last-resort handler (R93): where the operation would have continued goes with
it. -/
def rotationFault (cont : Option Nat) : Stop := .doubleFault 2 { cause := .doubleFault, cont := cont }

/-- The checks of a forward rotation (R90): a full Reel needs a window overflow first. -/
def wantForward (c : CoreId) (cont : Option Nat) : M Unit := do
  let k ← getC c
  if k.tw || k.lastResort then stopM (rotationFault cont)
  else if k.resident = 11 then stopM (.window true) else return ()

/-- The checks of a backward rotation (R91). -/
def wantBackward (c : CoreId) (cont : Option Nat) : M Unit := do
  let k ← getC c
  if k.tw || k.lastResort then stopM (rotationFault cont)
  else if k.resident = 1 then stopM (.window false) else return ()

def rotateBackward (c : CoreId) (cont : Option Nat) : M Unit := do
  wantBackward c cont
  modC c rotatedBackward

/-! ### Code objects as targets (R71, R205) -/

structure Target where
  closure : Word    -- the closure pointer, or T.NIL
  code : Word
  entry : Nat
  fmt : Bool
  area : Nat × Nat  -- its instruction area: first address and CODE_BYTES
  deriving DecidableEq, Repr

/-- ARITY as R71 has it. -/
def arityOk (w : Word) : Bool := isFix w && valOf w < 2 ^ 17

/-- A code object that meets R71, with its entry point, which lies in the instruction area. -/
def codeTarget (c : CoreId) (closure w : Word) : M Target := do
  if tagOf w != 0x16 then operandFault w
  else
    let w ← healM c w
    let o ← openObject c w 10
    let h := o.hdr.getD 0
    let n ← atStep 10 (loadWord c (o.slotAddr 0) .read)
    let e ← atStep 10 (loadWord c (o.slotAddr 1) .read)
    let r ← atStep 10 (loadWord c (o.slotAddr 4) .read)
    let ok := hdrImm h && isFix n && valOf n < 2 ^ 32 && valOf n % 8 == 0 && isFix e && valOf e < valOf n
      && valOf e % (if hdrFmt h then 8 else 4) == 0 && arityOk r
    let a := o.addr + codeAreaOffset h
    if ok then return ⟨closure, w, a + valOf e, hdrFmt h, (a, valOf n)⟩ else operandFault w

/-- A T.CODE or T.CLOSURE (R205). -/
def callTarget (c : CoreId) (w : Word) : M Target := do
  if tagOf w == 0x15 then
    let w ← healM c w
    let o ← openObject c w 10
    let x ← atStep 10 (loadWord c (o.slotAddr 0) .read)
    codeTarget c w x
  else codeTarget c nil w

/-- Control continues in a code object; a new format opens the shadow (R168, R169). -/
def enterCode (s : State) (c : CoreId) (t : Target) : State :=
  let k := s.core c
  let s1 := s.setCore c { k.setStatus 21 21 (if t.fmt then 1 else 0) with
    pc := t.entry, codeObj := t.code, area := some t.area, jump := none, onlyB := false, shadow := k.fmt != t.fmt }
  { s1 with codeObjs := insertNat s1.codeObjs (valOf t.code) }

/-- The code object whose instruction area holds an address: its pointer, header and area (log 11). -/
def codeHolding (s : State) (c : CoreId) (va : Nat) : Option (Nat × Word × (Nat × Nat)) :=
  s.codeObjs.findSome? fun b =>
    match codeArea s c b, peekWord s c b with
    | some (a, n), some h => if a ≤ va && va < a + n then some (b, h, (a, n)) else none
    | _, _ => none

/-! ### Frames (R225 to R229) -/

def innermost (k : Core) : Option Nat := if k.ld = 0 then none else some (k.ld - 1)

def atLoopEnd (k : Core) (pc : Nat) : Bool :=
  match innermost k with
  | some n => retAddr (k.leN n) == pc && bitsOf (k.lcN n) 35 32 == k.cwp
  | none => false

def loopWord (k : Core) (fpc : Nat) : Word :=
  match innermost k with
  | some n => fixN (bitsOf (k.lcN n) 35 32 * 2 ^ 36 + (if atLoopEnd k fpc then 2 ^ 35 else 0) + k.ld * 2 ^ 32
      + bitsOf (k.lcN n) 31 0)
  | none => fixN 0

def causeWord (t : Trap) : Word :=
  fixN (t.cause.code * 2 ^ 48 + t.sub * 2 ^ 40 + t.vector * 2 ^ 28 + t.slot * 2 ^ 26 + (if t.async then 2 ^ 24 else 0)
    + t.step * 2 ^ 20 + t.access * 2 ^ 16)

/-- A word as a frame may hold it (R229). -/
def frameSafe (w : Word) : Word :=
  let t := tagOf w
  if isReservedTag t || isHeaderTag t || t == 0x2E || t == 0x3F then nil else w

/-- The twelve words. A pushed STATUS has DS in a delay bundle and XFMT in a shadow, for a synchronous fault. -/
def buildFrame (k : Core) (t : Trap) (fpc npc : Nat) : List Word :=
  let st := k.status
  let st1 := if !t.async && k.jump.isSome then withBit st 19 true else st
  let st2 := if !t.async && k.shadow then withBit st1 20 true else st1
  [0x310000000000000C#64, causeWord t, retWord fpc k.fmt, retWord npc k.fmt, st2, frameSafe t.faddr, frameSafe t.foper,
   loopWord k fpc, k.cwpWord, frameSafe k.g7, fixN t.detail, frameSafe t.aux]

/-! ### Machine-check records and halts (R238, R246) -/

def recordCheck (s : State) (c : CoreId) (kind pa : Nat) : State :=
  let i := (leadOf s c).val
  let w := s.reg .cfgMcstat i
  s.setR .cfgMcstat i (if bitOf w 63 then withBit w 62 true
    else withBits (withBits (withBit w 63 true) 55 48 kind) 43 0 pa)

def setModes (s : State) (cs : List CoreId) (m : CoreMode) : State :=
  cs.foldl (fun x c => x.modCore c (fun k => { k with mode := m })) s

/-- A halt (R238): issue stops, the record, the core-halted source. -/
def halt (s : State) (c : CoreId) (kind pa : Nat) : State :=
  let i := (leadOf s c).val
  let s1 := recordCheck (setModes s (partners s c) .halted) c kind pa
  pulse (s1.setF .cfgMcstat i 60 60 1) (tileSource (i / 6) (i % 6))

/-- Words into the emergency stack. -/
def pushEmergency (k : Core) (es : Nat) (ws : List Word) : Core :=
  writeEmerg k (es - emergBase) (ws.map bytesOfWord).flatten

def fastAux (k : Core) : Word :=
  match k.fb, k.fastRet with
  | true, some f => retWord f.pc f.fmt
  | _, _ => nil

/-- The entry register of a last-resort event, and the handler it names (R236). -/
def lastResortReg (t : Trap) : RegName := if t.cause == .machineCheck then .cfgXmc else .cfgXdbl

def lastResortTarget (s : State) (c : CoreId) (r : RegName) : Except Stop (Target × State) :=
  (codeTarget c nil (mkWord 0x16 (s.fld r (leadOf s c).val 46 4 * 16))) s

/-- The access stops only because it waits. -/
def Stop.waits : Stop → Bool
  | .hold | .channel _ _ => true
  | _ => false

/-- The last-resort entry (R236), with code 0x21 or 0x22 by the trap's cause. A header read that waits leaves the state
as it is: the event comes again. -/
def enterLastResort (s : State) (c : CoreId) (t : Trap) (fpc npc : Nat) : State :=
  let k := s.core c
  let i := (leadOf s c).val
  let r := lastResortReg t
  if k.lastResort then halt s c 7 0
  else if !s.flag r i 63 then halt s c 7 0
  else match lastResortTarget s c r with
  | .error x => if x.waits then s else halt s c 7 0
  | .ok (tg, s1) =>
    let es := if tagOf k.g7 == 0x32 && inEmergency (valOf k.g7) then valOf k.g7 else vaTop
    if es < emergBase + 96 then halt s c 6 0
    else
      let sp := mkWord 0x32 (es - 96)
      let k0 := s1.core c
      let k1 := pushEmergency k0 (es - 96) (buildFrame k0 { t with aux := fastAux k0 } fpc npc)
      let k2 := ((setGlobal k1 7 sp).voidTrap.setStatus 23 22 2)
      let k3 := { k2 with lastResort := true, trapw := Tbl.put (Tbl.put [] 8 sp) 9 nil }
      let k4 := if s.compact then k3.setStatus 16 16 1 else k3
      enterCode ((s1.setCore c k4).setF .cfgMcstat i 61 61 1) c tg

/-- The code of an event in a double fault: a rotation in the trap window, SPILLW or FILLW outside it and a refused
fast-class entry, which carry the cause of the double fault itself, have none (R226, R228). -/
def eventCode (t : Trap) : Nat := if t.cause == .doubleFault then 0 else t.cause.code

/-- A double fault of a reason: `f` is the fault behind it and `orig` the original event (R226, R228). It carries ASYNC
as the original event would have, as R235 has it for a STACK_FAULT (DEDUCED, log 8). -/
def doubleFault (s : State) (c : CoreId) (reason : Nat) (f orig : Trap) (fpc npc : Nat) : State :=
  enterLastResort s c { cause := .doubleFault, sub := eventCode orig, detail := eventCode f * 256 + reason,
                        async := orig.async, slot := orig.slot, step := f.step, access := f.access, faddr := f.faddr } fpc npc

/-! ### Entry (R223, R235) -/

/-- A fault of an access, as against a refused object (R222). -/
def isAccessFault (t : Trap) : Bool :=
  match t.cause with
  | .pageAbsent | .pageWrite | .pageKind | .walkFault | .walkDevice | .memoryError | .memoryKind => true
  | _ => false

/-- The handler of an event (R221, R222): a double fault of reason 4 or 5 otherwise. -/
def readHandler (c : CoreId) (t : Trap) (code : Nat) : M Target := fun s =>
  let i := (leadOf s c).val
  let m : M Target := do
    let o ← openObject c (mkWord 0x11 (s.fld .cfgXtab i 46 4 * 16)) 10
    if o.bound < 64 then stopM (.doubleFault 5 t)
    else
      let w ← loadWord c (o.slotAddr code) .read
      callTarget c w
  if !s.flag .cfgXtab i 63 then .error (.doubleFault 5 t)
  else match m s with
    | .error (.trap f) => .error (if isAccessFault f then .doubleFault 4 f else .doubleFault 5 t)
    | r => r

/-- The last part of an entry: rotate, l0, l1, the handler (R223). -/
def intoHandler (s : State) (c : CoreId) (t : Trap) (sp : Nat) (tg : Target) : State :=
  let k := rotatedForward (setGlobal (s.core c) 7 (mkWord 0x32 sp))
  let k1 := (k.setReg 8 (mkWord 0x32 sp)).setReg 9 tg.closure
  let k2 := if s.compact then k1.setStatus 16 16 1 else k1
  let k3 := if t.cause == .interrupt then k2.setStatus 15 14 1 else k2
  (enterCode (s.setCore c k3) c tg).modCore c (fun k => { k with entered := some t.cause })

/-- A push that failed with `f` (R235): a STACK_FAULT frame on the emergency stack, and its handler; a failure that
began inside the emergency range halts. -/
def stackFault (s : State) (c : CoreId) (t : Trap) (why : Nat) (f : Option Trap) (fpc npc : Nat) : State :=
  let k := s.core c
  if tagOf k.g7 == 0x32 && inEmergency (valOf k.g7) then halt s c 6 0
  else
    let t1 : Trap := { cause := .stackFault, sub := t.cause.code, slot := t.slot, async := t.async, step := t.step,
                       access := if f.isSome then 7 else 0, faddr := (f.map (·.faddr)).getD nil,
                       detail := ((f.map (·.cause.code)).getD 0) * 256 + why }
    match (readHandler c t 0x20) s with
    | .error (.doubleFault r df) => doubleFault s c r df t fpc npc
    | .error _ => s
    | .ok (tg, s1) =>
      let es := vaTop - 96
      let k1 := s1.core c
      intoHandler (s1.setCore c (pushEmergency k1 es (buildFrame k1 t1 fpc npc))) c t1 es tg

/-- The push of a frame at g7: granule stores, performed before the handler's first instruction (R230). -/
def pushFrame (c : CoreId) (sp : Nat) (ws : List Word) : M Unit := do
  storePairs .write c sp ws
  drainM c

/-- Taking an exception or a normal-class interrupt (R223): the frame is pushed at g7, the Reel rotates, and
control is at the handler. A full Reel takes a window overflow instead, and the event comes again after it. A voted
troika runs this in its source core. -/
def enterException (s : State) (c : CoreId) (t : Trap) (fpc npc : Nat) : State :=
  let k := s.core c
  if k.lastResort then halt s c 7 0
  else if k.tw then doubleFault s c 1 t t fpc npc
  else if k.fb then doubleFault s c 3 t t fpc npc
  else if k.resident = 11 then enterWindowTrap s c true fpc
  else
    match (readHandler c t t.cause.code) s with
    | .error (.doubleFault r f) => doubleFault s c r f t fpc npc
    | .error _ => s
    | .ok (tg, s1) =>
      let g7 := k.g7
      if tagOf g7 != 0x32 then stackFault s c t 1 none fpc npc
      else if valOf g7 < 96 then stackFault s c t 2 none fpc npc
      else
        match (pushFrame c (valOf g7 - 96) (buildFrame (s1.core c) t fpc npc)) s1 with
        | .error (.trap f) => stackFault s c t 3 (some f) fpc npc
        | .error _ => s
        | .ok (_, s2) => intoHandler s2 c t (valOf g7 - 96) tg

/-! ### What a stop does -/

/-- An error in the records of the L1 caches of a core, with the source of its tile (R79, R319, R392). -/
def l1Error (s : State) (c : CoreId) (pa : Nat) (e : CairnError) : State :=
  pulse (logCairn s .cfgL1err .cfgL1eaddr c.val pa e) (tileSource (tileOfCore c) (if e.kind == 1 || e.kind == 2 then 14 else 15))

/-- Poison that a core consumes is logged where the granule is poisoned: its block, or the core's L1 cache. -/
def corePoison (s : State) (c : CoreId) (pa : Nat) : State :=
  if poisoned s pa then poisonConsumed s pa
  else if l1Bad (s.core c) pa then l1Error s c pa ⟨4, 0, 0xFF, Config.poisonSyndrome.toNat⟩ else s

/-- What the device records of a fault before it is entered: HEAP_FULL raises MOR_STAT.FULL and its source
(R349), an empty pool sets PEMPTY (R366), consumed poison is logged (R79); the error response of a timed-out read has
been given (R317). -/
def noteFault (s : State) (c : CoreId) (t : Trap) : State :=
  match t.cause with
  | .heapFull =>
    let s1 := pulse (s.setF .morStat 0 58 58 1) (tileSource (tileOfCore c) 12)
    if t.pempty then s1.setF .cfgCrest 0 59 59 1 else s1
  | .walkFault => clearTimedOut s (t.detail % 2 ^ 44 / 64)
  | .memoryError =>
    let pa := t.detail % 2 ^ 44
    let s := if t.detail / 2 ^ 48 == 2 then clearTimedOut s (pa / 64) else s
    if t.detail / 2 ^ 48 == 1 || t.detail / 2 ^ 48 == 5 then corePoison s c pa else s
  | _ => s

/-- Whether an entry must first wait: for an earlier store (R308), or for the read of a last-resort header. -/
def entryWaits (s : State) (c : CoreId) : Bool :=
  (s.core c).sbuf.any (fun e => writeWaits s c e.pa e.bytes.length)
    || [RegName.cfgXdbl, RegName.cfgXmc].any (fun r => s.flag r (leadOf s c).val 63 &&
        (match lastResortTarget s c r with | .error x => x.waits | .ok _ => false))

/-- A synchronous machine check (R236, R237, R242, R244): inside a last-resort handler the core halts with kind 0x07; in
the compact configuration with IM 1, with the kind of the check. -/
def raiseCheck (s : State) (c : CoreId) (kind pa slot fpc npc : Nat) : State :=
  if (s.core c).lastResort then halt s c 7 0
  else if s.compact && (s.core c).im then halt s c kind pa
  else enterLastResort (recordCheck s c kind pa) c { cause := .machineCheck, sub := kind, detail := pa, slot := slot } fpc npc

/-- The count of abandonments ends with the instruction at its address (R252). -/
def Core.served (k : Core) (pc : Nat) : Core := if k.abandonAt = pc then { k with abandon := 0 } else k

/-- A double fault of a reason for the fault f and the original event, with every earlier store performed (R308). -/
def raiseDouble (s : State) (c : CoreId) (reason : Nat) (f orig : Trap) (fpc npc : Nat) : State :=
  if entryWaits s c then s else doubleFault (noteFault (drainStores s c) c f) c reason f orig fpc npc

/-- An instruction that stops: its event is taken from the state before it (R147, R218), with every earlier store
performed (R308) and the count of its abandonments at 0 (R252). `fpc`, `npc` are those of the frame. -/
def raiseStop (s0 : State) (c : CoreId) (x : Stop) (fpc npc : Nat) : State :=
  let s := (drainStores s0 c).modCore c (fun k => k.served fpc)
  match x with
  | .trap t => if entryWaits s0 c then s0 else enterException (noteFault s c t) c t fpc npc
  | .doubleFault r t => raiseDouble (s0.modCore c (fun k => k.served fpc)) c r t t fpc (t.cont.getD npc)
  | .machineCheck kind pa =>
    if entryWaits s0 c then s0 else raiseCheck s c kind pa (if (s.core c).onlyB then 1 else 0) fpc npc
  | .window o => enterWindowTrap s0 c o fpc
  | .heapWait t => setModes (if phase s0 == 1 then startCycle s0 else s0) (partners s0 c) (.heapWait t npc)
  | .hold => s0
  | .channel pa n => waitFlight s0 (.core c) pa n

end Sys2Proof.Machine
end

