-- ==== Sys2Proof/Machine/Publish.lean ====
section
/-! DEFINITION. Publication of a change in the Massif table (R41, R42, R46), divergences and three-way
disagreements of a voted troika (R379, R384), and the start of a troika reset (R387). -/

namespace Sys2Proof.Machine

open Sys2Proof

/-- Bit of MSF_CHANGE for an entry type (R46): types 0x01 to 0x09. -/
def markChanged (s : State) (ty : Nat) : State :=
  if 1 ≤ ty && ty ≤ 9 then s.setR .msfChange 0 (withBit (s.reg .msfChange) ty true) else s

/-- The generation g stands: its LAST fields, the copy and MSF_CURRENT, and the Massif-change source (R33, R41, R44,
R46). The copy is written before the even GENERATION can be read: one step of the model. -/
def generation (s : State) (g ty inst cause : Nat) : State :=
  let s1 := s.setR .msfGen 0 (BitVec.ofNat 64 g)
  let s2 := { s1 with massif := { s1.massif with lastType := ty, lastInstance := inst, lastCause := cause } }
  pulse (storeCopy s2) 192

/-- A change of entries is published: the next stable generation with its bits of MSF_CHANGE, one for each type that the
change touched, the first of which LAST_TYPE names; during the build nothing is published on its own (R41, R46,
log 18). -/
def publishTypes (s : State) (tys : List Nat) (inst cause : Nat) : State :=
  let g := (s.reg .msfGen).toNat
  if g < 2 then s else generation (tys.foldl markChanged s) (g + 2) (tys.headD 0) inst cause

def publish (s : State) (ty inst cause : Nat) : State := publishTypes s [ty] inst cause

/-- Whether the REGBLOCK entry of NET_, RDG_ or DMC_ reads otherwise (R552). -/
def blockChanged (s s1 : State) : Bool := ([9, 10, 11] : List Nat).any (fun code => blockState s code != blockState s1 code)

/-- A unit changes state and the change is published; it touches type 6 too where the unit's block thereby turns
configured or not configured (R46, R552). -/
def publishUnit (s : State) (u st ty inst cause : Nat) : State :=
  let s1 := s.setUnit u st
  publishTypes s1 (if blockChanged s s1 then [ty, 6] else [ty]) inst cause

/-! ### Troika reset, first part (R387 steps 1 to 2) -/

def beginReset (s : State) (k : TroikaId) (voted auto : Bool) : State :=
  let s1 := setModes s (members k) .stopped
  let s2 := (s1.setF .trkStat k 63 63 1).setF .trkStat k 62 60 2
  let s3 := { s2 with resets := Tbl.put s2.resets k.val ⟨voted, auto⟩ }
  let s4 := publishUnit s3 (uTroika k) stDraining 4 k 1
  ((members k).filter (fun c => s.unit (uCore c.val) != stRetired)).foldl
    (fun x c => publishUnit x (uCore c.val) stDraining 3 c.val 1) s4

/-! ### Divergence (R379, R380, R384) -/

def divergeSource (k : TroikaId) : Nat := tileSource (k.val / 2) (6 + k.val % 2)

/-- TRK_DIVRECk keeps the first record (R379): `what` is the register of a register write, or the address of a request
or store. -/
def recordDivergence (s : State) (k : TroikaId) (three : Bool) (minor item what : Nat) : State :=
  let w := s.reg .trkDivrec k
  let reg := if item ≤ 1 then what % 256 else 0
  let addr := if item == 4 || item == 5 then what else 0
  s.setR .trkDivrec k (if bitOf w 63 then withBit w 62 true
    else withBits (withBits (withBits (withBits (withBit (withBit w 63 true) 61 three) 60 59 minor) 58 56 item) 55 48 reg)
      43 0 addr)

/-- A divergence with member m in the minority: counted, recorded, its source raised for the first record and at
each multiple of DIVTHR. A core already in the minority is ignored (R386). -/
def diverge (s : State) (k : TroikaId) (m : Fin 3) (item what : Nat) : State :=
  let c := memberOf k m
  if (s.core c).minority then s else
    let hi := 63 - 16 * m.val
    let first := !s.flag .trkDivrec k 63
    let s1 := s.setR .trkDiv k (satInc (s.reg .trkDiv k) hi (hi - 15))
    let s2 := recordDivergence s1 k false m.val item what
    let n := s2.fld .trkDiv k hi (hi - 15)
    let thr := s.fld .trkCtl k 15 0
    let s3 := if first || (thr != 0 && n % thr == 0) then pulse s2 (divergeSource k) else s2
    s3.modCore c (fun x => { x with minority := true })

/-- A three-way disagreement (R384): the machine check record, the divergence record, the source, and a troika
reset in the current mode. -/
def threeWay (s : State) (k : TroikaId) (item what : Nat) : State :=
  let s1 := recordCheck s (memberOf k 0) 5 0
  let s2 := recordDivergence (s1.setR .trkDiv k (satInc (s1.reg .trkDiv k) 15 0)) k true 3 item what
  beginReset (pulse s2 (divergeSource k)) k true true

def minorityCount (s : State) (k : TroikaId) : Nat :=
  ((members k).filter (fun c => (s.core c).minority)).length

/-- The core whose state a command of a core works on: the lead of a voted troika, or the lowest core of the
majority; a command to a checker has none (R376, R380; log 24). -/
def sourceCore (s : State) (c : CoreId) : Option CoreId :=
  if troikaVoted s (troikaOfCore c) then
    if c.val % 3 == 0 then (members (troikaOf c)).find? (fun m => !(s.core m).minority) else none
  else some c

/-- The other cores of the majority take the state of the source core. -/
def mirror (s : State) (c : CoreId) : State :=
  if troikaVoted s (troikaOfCore c) then
    (members (troikaOf c)).foldl (fun x m => if m == c || (x.core m).minority then x else x.setCore m (x.core c)) s
  else s

/-! ### Asynchronous events of a core (R219, R239) -/

/-- Sources set in the pending array whose group has a class (R399). -/
def classPending (s : State) (k : Core) (fast : Bool) : Bool :=
  (List.range 64).any (fun g => s.flag .evcGcfg g 62 == fast &&
    bitsOf (Tbl.getD k.pend 0 (g / 4)) (16 * (g % 4) + 15) (16 * (g % 4)) != 0)

/-- What holds off every event at a boundary (R239, first rows). -/
def heldAll (s : State) (k : Core) : Bool :=
  (s.compact && k.im) || (!s.compact && k.niw) || k.onlyB || k.jump.isSome || k.shadow || k.lastResort

def mayCheck (s : State) (k : Core) : Bool := !heldAll s k
def mayFast (s : State) (c : CoreId) (k : Core) : Bool :=
  !heldAll s k && k.cstk < 2 && s.flag .cfgXfast (leadOf s c).val 63
def mayNormal (s : State) (k : Core) : Bool := !heldAll s k && !k.tw && k.cstk == 0

def takesCheck (s : State) (k : Core) : Bool := mayCheck s k && k.mcPend.isSome
def takesFast (s : State) (c : CoreId) (k : Core) : Bool := mayFast s c k && classPending s k true
def takesNormal (s : State) (k : Core) : Bool := mayNormal s k && classPending s k false

/-- An event would be taken at this boundary. -/
def takesEvent (s : State) (c : CoreId) : Bool :=
  let k := s.core c
  takesCheck s k || takesFast s c k || takesNormal s k

end Sys2Proof.Machine
end

