-- ==== Sys2Proof/Machine/Flags.lean ====
section
/-! DEFINITION. Every flag computation of the operation catalogue (R105, R185, R189). -/

namespace Sys2Proof.Machine

open Sys2Proof

/-- f0 Z, f1 N, f2 C, f3 V. -/
def flagsZNCV (z n cy v : Bool) : Tbl Bool := [(0, z), (1, n), (2, cy), (3, v)]
def flagsZN (z n : Bool) : Tbl Bool := [(0, z), (1, n)]

/-- The 56-bit result of an operation on T.FIX operands, its zero and sign (R185 first row). -/
def fixZ (r : Int) : Bool := r % 2 ^ 56 == 0
def fixN55 (r : Int) : Bool := 2 ^ 55 ≤ r % 2 ^ 56
def unsigned56 (i : Int) : Nat := (i % 2 ^ 56).toNat

def flagsAdd (a b : Int) : Tbl Bool :=
  flagsZNCV (fixZ (a + b)) (fixN55 (a + b)) (2 ^ 56 ≤ unsigned56 a + unsigned56 b) (!fitsFix (a + b))

def flagsSub (a b : Int) : Tbl Bool :=
  flagsZNCV (fixZ (a - b)) (fixN55 (a - b)) (unsigned56 a < unsigned56 b) (!fitsFix (a - b))

def flagsAbs (b : Int) : Tbl Bool := flagsZNCV (fixZ b.natAbs) (fixN55 b.natAbs) false (!fitsFix b.natAbs)

/-- Any other integer result. -/
def flagsInt (r : Int) : Tbl Bool := flagsZNCV (r == 0) (r < 0) false (!fitsFix r)

/-- A float result by its binary64 bits. -/
def flagsFloat (b : Nat) : Tbl Bool :=
  flagsZNCV (isZeroF b) (f64Neg b && !isZeroF b && !isNaNF b) false (isNaNF b)

/-- A T.TIME result by its value. -/
def flagsTime (v : Nat) : Tbl Bool := flagsZNCV (v == 0) (v.testBit 55) false false

/-- A comparison of other pairs: the sign of the difference, none when unordered. -/
def flagsCmp (o : Option Int) : Tbl Bool :=
  match o with
  | none => flagsZNCV false false true false
  | some d => flagsZNCV (d == 0) (d < 0) false false

/-- Bitwise and shift results. -/
def flagsLogic (v : Nat) : Tbl Bool := flagsZN (v % 2 ^ 56 == 0) (v.testBit 55)

def setFlagsM (c : CoreId) (f : Tbl Bool) : M Unit := modC c (fun k => k.setBits f)

end Sys2Proof.Machine
end

