-- ==== Sys2Proof/Machine/Run.lean ====
section
/-! DEFINITION. How one instruction runs on a core: where it may, what strikes it, its steps, completion with
the loop test, or the event it stops with (R107, R111, R125, R146, R218, R251, R252, R257). -/

namespace Sys2Proof.Machine

open Sys2Proof

/-- What a completed body leaves the program counter to: the next instruction with the loop test (R107), the
same with no test, the pc that the body set, or this instruction again (a wait). -/
inductive Flow where
  | seq | skip (pc : Nat) | jump | stay
  deriving DecidableEq, Repr

/-- The loop test at the address of an instruction that passed control to the next (R107): nested loops may end
on one instruction; fuel counts levels. COUNT 0, which only MTC can leave in an active level, ends the level as COUNT 1
does: the manual gives 1 and above alone (DESIGN CHOICE, log 48). -/
def loopTest : Nat → Core → Nat → Nat → Core
  | 0, k, _, next => { k with pc := next }
  | f + 1, k, pc, next =>
    match innermost k with
    | none => { k with pc := next }
    | some n =>
      if atLoopEnd k pc then
        let cnt := bitsOf (k.lcN n) 31 0
        let put := fun (k : Core) (v : Nat) =>
          { k with lc := Tbl.putD k.lc (fixN 0) n (withBits (k.lcN n) 31 0 v) }
        if 1 < cnt then { put k (cnt - 1) with pc := retAddr (k.lsN n) }
        else loopTest f ((put k 0).setStatus 26 24 n) pc next
      else { k with pc := next }

/-- Completion at a boundary: the abandonment count of the instruction clears (R252), the first instruction of a handler
is done (R223), the shadow ends (R169), the micro-stack is empty (R255). -/
def complete (k : Core) (pc len : Nat) (fl : Flow) : Core :=
  let k0 := { k.served pc with entered := if k.fb then k.entered else none, ustack := [] }
  let done := { k0 with shadow := false, onlyB := false }
  match fl with
  | .seq => loopTest 5 done pc (pc + len)
  | .skip a => { done with pc := a }
  | .jump => k0
  | .stay => k

/-! ### The sequencer (R253 to R257; log 44) -/

/-- The classes of a microword, by its bits [31:28]. -/
inductive MicroClass where
  | alu | load | store | tag | branch | call | ret | wait | request | commit | reserved
  deriving DecidableEq, Repr

def microClass (w : BitVec 33) : MicroClass :=
  match w.toNat / 2 ^ 28 % 16 with
  | 0 => .alu | 1 => .load | 2 => .store | 3 => .tag | 4 => .branch | 5 => .call | 6 => .ret | 7 => .wait
  | 8 => .request | 9 => .commit | _ => .reserved

/-- The condition of a wait microword, by its bits [27:24]. -/
inductive MicroWait where
  | response | moraine | crag | cirque | counter | copyPath | storeBuffer | tlb | none
  deriving DecidableEq, Repr

def microWait (w : BitVec 33) : MicroWait :=
  match w.toNat / 2 ^ 24 % 16 with
  | 0 => .response | 1 => .moraine | 2 => .crag | 3 => .cirque | 4 => .counter | 5 => .copyPath | 6 => .storeBuffer
  | 7 => .tlb | _ => .none

/-- A microword with its parity bit; parity is even over the 33 bits (DESIGN CHOICE, log 44). -/
def bitCount (w : Nat) (n : Nat) : Nat := (List.range n).foldl (fun a i => a + w / 2 ^ i % 2) 0
def withParity (w : BitVec 32) : BitVec 33 := BitVec.ofNat 33 (w.toNat + bitCount w.toNat 32 % 2 * 2 ^ 32)
def parityOk (w : BitVec 33) : Bool := bitCount w.toNat 33 % 2 == 0

def isRom (ua : Nat) : Bool := ua < 0x4000

/-- Where a fetch of a micro-address goes: a ROM address of an enabled match register to the patch RAM, by the lowest
register that holds it (R256). -/
def redirected (k : Core) (ua : Nat) : Nat :=
  if !isRom ua then ua else
  match k.matchRegs.find? (fun m => m.2.en && m.2.rom.toNat == ua) with
  | some m => 0x4000 + m.2.pram.toNat
  | none => ua

/-- The microword stored at an address. -/
def storedMicro (k : Core) (ua : Nat) : BitVec 33 :=
  if isRom ua then withParity (Config.microRom (BitVec.ofNat 14 ua)) else Tbl.getD k.pram 0 (ua - 0x4000)

/-- One microword fetched at an address: a parity error at it, or the core and the address that a RETURN gives the next
fetch. A ninth CALL is a parity error at its own address, with the stack as it was (R255). -/
def microStep (k : Core) (ua : Nat) (flips : BitVec 33) : Except Nat (Core × Option Nat) :=
  let at_ := redirected k ua
  let w := storedMicro k at_ ^^^ flips
  if !parityOk w then .error at_
  else match microClass w with
    | .call => if 8 ≤ k.ustack.length then .error at_
               else .ok ({ k with ustack := BitVec.ofNat 15 (at_ + 1) :: k.ustack }, none)
    | .ret => match k.ustack with
      | a :: t => .ok ({ k with ustack := t }, some a.toNat)
      | [] => .ok (k, none)
    | _ => .ok (k, none)

/-- The microwords that a slow path fetches, in order: the address of the first parity error. -/
def microRun (k : Core) : Option Nat → List MicroFetch → Core × Option Nat
  | _, [] => (k, none)
  | next, f :: t =>
    match microStep k (next.getD f.addr.toNat) f.flips with
    | .error ua => (k, some ua)
    | .ok (k1, n) => microRun k1 n t

/-- A microcode parity error is counted in the core that met it (R257). -/
def countUcode (s : State) (c : CoreId) (ua : Nat) : State :=
  let w := s.reg .mcPerr c.val
  let w1 := if bitOf w 63 then w else withBits (withBit w 63 true) 46 32 ua
  s.setR .mcPerr c.val (if isRom ua then satInc w1 31 16 else satInc w1 15 0)

/-- The core runs from the ROM alone, and its patch level is published where it changes (R42, R257, R262). -/
def romOnly (s : State) (c : CoreId) : State :=
  let s1 := (s.modCore c (fun k => { k with matchRegs := [] })).setR .mcPatchVersion c.val 0
  if s.reg .mcPatchVersion c.val == 0 then s1 else publish s1 3 c.val 4

/-! ### What strikes the core -/

/-- What strikes the core before the instruction: nothing more, or an end of the command. -/
inductive Struck where
  | goOn (s : State)
  | over (s : State)

/-- A divergence of member m: the pair that runs on disagrees when the other member is already out (R383). -/
def strikeMember (s : State) (c : CoreId) (m : Fin 3) (item what : Nat) : Struck :=
  let k := troikaOf c
  if minorityCount s k == 1 && !(s.core (memberOf k m)).minority then .over (threeWay s k item what)
  else .goOn (diverge s k m item what)

/-- The core that an error of member m strikes: the member of a voted troika, a core of a split one itself. -/
def struckCore (s : State) (c : CoreId) (m : Fin 3) : CoreId :=
  if troikaVoted s (troikaOfCore c) then memberOf (troikaOf c) m else c

def strike (s : State) (c : CoreId) (u : Upset) (pc npc : Nat) : Struck :=
  let voted := troikaVoted s (troikaOfCore c)
  match u with
  | .none => .goOn s
  | .parity m =>
    if voted then strikeMember s c m 6 0 else .over (raiseStop s c (.machineCheck 1 0) pc npc)
  | .ucode m run =>
    let x := struckCore s c m
    let (k, err) := microRun (s.core x) none run
    match err with
    | none => .goOn (s.setCore x k)
    | some ua =>
      let s1 := countUcode (s.setCore x { k with ustack := [] }) x ua
      if voted then strikeMember s1 c m 6 0
      else .over (raiseStop (if isRom ua then s1 else romOnly s1 c) c (.machineCheck 2 0) pc npc)
  | .diverge m item what => if voted then strikeMember s c m item.val what.toNat else .goOn s
  | .threeWay item what => if voted then .over (threeWay s (troikaOf c) item.val what.toNat) else .goOn s
  | .abandon =>
    let k := s.core c
    let n := if k.abandonAt = pc then k.abandon else 0
    if k.patch.isSome then .over s
    else if takesEvent s c && n < 4 then .over (s.setCore c { k with abandon := n + 1, abandonAt := pc })
    else .goOn s
  | .secondPass => .goOn s

/-! ### The Cairn checks of the accesses (R77, R79) -/

/-- A check on a read of an L1 cache of the core that holds the line, or on receipt from the mesh: the record is the
core's; an uncorrectable granule is poisoned in the cache until its line leaves. -/
def coreCheck (s : State) (c : CoreId) (src pa : Nat) (e : Codeword) : State :=
  match findingError src (judge e).1 with
  | none => s
  | some x =>
    let s1 := l1Error s c pa x
    if x.kind == 3 then s1.modCore c (fun k => { k with l1bad := insertNat k.l1bad (pa / 16) }) else s1

def applyCheck (c : CoreId) (s : State) (x : CairnCheck) : State :=
  if !accessible s x.pa then s else
  match x.place with
  | .l1 =>
    let k := s.core c
    if k.l1d.contains (x.pa / 64) || k.l1i.contains (x.pa / 64) then coreCheck s c 0 x.pa x.flips else s
  | .mesh => coreCheck s c 2 x.pa x.flips
  | .block => storageCheck s x.pa 0 x.flips
  | .merge => storageCheck s x.pa 3 x.flips

def applyChecks (s : State) (c : CoreId) (xs : List CairnCheck) : State := xs.foldl (applyCheck c) s

/-! ### One instruction -/

/-- The stop of an instruction at pc, with its frame's NPC. A failed fetch of the first instruction of a handler is a
double fault (R223). Where the fetch of the first parcel, or of the one after a PFX, failed in M-format, NPC equals FPC
(R225); in T-format it is `after`: the next bundle, or the target of a delay bundle's jump (R163). -/
def stopAt (s : State) (c : CoreId) (x : Stop) (afterPfx : Bool) (pc after : Nat) : State :=
  let k := s.core c
  match x with
  | .trap t =>
    let fetch := t.access == 1 && t.step == 1
    let here := fetch && !k.fmt && (t.faddr == fixN pc || (afterPfx && t.faddr == fixN (pc + 4)))
    let npc := if here then pc else after
    match k.entered, fetch && !k.fb with
    | some e, true => raiseDouble s c 4 t { cause := e } pc npc
    | _, _ => raiseStop s c x pc npc
  | _ => raiseStop s c x pc after

/-- One instruction of `len` bytes on the core that a command names. `m` is its body. A core that does not issue
does nothing (log 3). A core in a window trap first ends it (R92). Unit results that are due land before anything
strikes (R165). A fault is taken from the state before the instruction. A core that its own setup write has stopped, by
a device start, completes nothing more. -/
def runBody (s : State) (a : At) (len : Nat) (afterPfx : Bool) (m : CoreId → M Flow) : State :=
  match sourceCore s a.core with
  | none => s
  | some c =>
    if (s.core c).mode != .running then s else
    match (if inWindowTrap (s.core c) then windowHandler c s else .ok ((), s)) with
    | .error x => mirror (raiseStop s c x (s.core c).pc (s.core c).pc) c
    | .ok (_, sw) =>
      let pc := (sw.core c).pc
      let after := ((sw.core c).jump).getD (pc + len)
      match strike (sw.modCore c Core.landAll) c a.upset pc after with
      | .over s1 => mirror s1 c
      | .goOn s0 =>
        let s1 := applyChecks s0 c a.cairn
        match m c s1 with
        | .ok (fl, s2) => mirror (s2.modCore c (fun k => if k.mode == .stopped then k else complete k pc len fl)) c
        | .error x => mirror (stopAt s1 c x afterPfx pc after) c

/-- The steps of a long operation around its own effect (R146): fetch, decode, condition, then the body. -/
def longSteps (op : Opcode) (l : Long) (body : CoreId → M Flow) (c : CoreId) : M Flow := do
  fetchM c l.parcels 5 (l.word op)
  match decodeFault op l with
  | some t => trapM t
  | none =>
    let k ← getC c
    if ccHolds k l.cc.toNat then body c else return .seq

def runLong (s : State) (a : At) (op : Opcode) (l : Long) (body : CoreId → M Flow) : State :=
  runBody s a (4 * l.parcels) false (longSteps op l body)

/-! ### Bodies by form (R118): operand B, the operation, then the result -/

/-- R and U: a value from RA and B into RD. -/
def bodyR (op : Opcode) (l : Long) (f : CoreId → Word → Word → M Word) (c : CoreId) : M Flow := do
  let r ← resolveB c op.modes l 8 0 2
  let b ← readB c .read r.b
  let a ← regM c l.ra.toNat
  let v ← atStep 10 (f c a b)
  postB c r
  setRegM c l.rd.toNat v
  return .seq

def bodyU (op : Opcode) (l : Long) (f : CoreId → Word → M Word) (c : CoreId) : M Flow :=
  bodyR op l (fun c _ b => f c b) c

/-- C: an effect from RA and B, no register. -/
def bodyC (op : Opcode) (l : Long) (f : CoreId → Word → Word → M Unit) (c : CoreId) : M Flow := do
  let r ← resolveB c op.modes l 8 0 2
  let b ← readB c .read r.b
  let a ← regM c l.ra.toNat
  atStep 10 (f c a b)
  postB c r
  return .seq

/-- M: B := RA op B. -/
def bodyM (op : Opcode) (l : Long) (f : CoreId → Word → Word → M Word) (c : CoreId) : M Flow := do
  let r ← resolveB c op.modes l 8 0 2
  let b ← readB c .read r.b
  let a ← regM c l.ra.toNat
  let v ← atStep 10 (f c a b)
  writeB c r.b v
  postB c r
  return .seq

end Sys2Proof.Machine
end

