-- ==== Sys2Proof/Machine/Move.lean ====
section
/-! DEFINITION. Moves, bytes, bit fields and control registers (R191, R110). -/

namespace Sys2Proof.Machine

open Sys2Proof

abbrev Out := Host.Outcome State Fault Refusal

/-- MOV: RD := B. -/
def bodyMov (l : Long) : CoreId → M Flow := bodyU .mov l (fun _ b => pure b)
def execMov (a : At) (l : Long) (s : State) : Out := .next (runLong s a .mov l (bodyMov l))

/-- ST: B := RA, RA through the load barrier. -/
def bodySt (l : Long) (c : CoreId) : M Flow := do
  let r ← resolveB c Opcode.st.modes l 8 0 3
  let w ← match r.b with
    | .reg _ => regM c l.ra.toNat
    | _ => healRegM c l.ra.toNat
  writeB c r.b w
  postB c r
  return .seq
def execSt (a : At) (l : Long) (s : State) : Out := .next (runLong s a .st l (bodySt l))

/-- An atomic exchange of a tagged word in memory: read, then a write at once, both at the block (R200). `f`
gives the word to write, if any, and the result. -/
def atomicWord (c : CoreId) (va : Nat) (imm : Bool) (f : Word → M (Option Word × Word)) : M Word := do
  drainM c
  let old ← atStep 9 (loadWord c va .atomic)
  let (new, res) ← f old
  match new with
  | some w =>
    if imm then immutableFault .atomic va
    else
      let raw ← atStep 11 (loadRaw c va .atomic)
      if !mayOverwrite raw w then trapM { wordTrap .tagForge w 11 4 with faddr := fixN va }
      else
        atStep 11 (atomicWrite c va (bytesOfWord w) true)
        return res
  | none => return res

/-- SWAP: RD := B and B := RA. -/
def bodySwap (l : Long) (c : CoreId) : M Flow := do
  let r ← resolveB c Opcode.swap.modes l 8 0 4
  match r.b with
  | .word va imm =>
    let w ← healRegM c l.ra.toNat
    let old ← atomicWord c va imm (fun old => pure (some w, old))
    postB c r
    setRegM c l.rd.toNat old
  | b =>
    let w ← regM c l.ra.toNat
    let old ← readB c .read b
    writeB c b w
    setRegM c l.rd.toNat old
  return .seq
def execSwap (a : At) (l : Long) (s : State) : Out := .next (runLong s a .swap l (bodySwap l))

/-- A byte of the host window: the link's reply (R138); while the link is down the read fails at once as a timeout
would (R430). -/
def foreignRead (a : At) (off : Nat) : M Byte := fun s =>
  let t : Trap := { cause := .memoryError, step := 9, access := 2, faddr := mkWord 0x1F off }
  let fail := fun (kind : Nat) =>
    (.error (.trap { t with detail := kind * 2 ^ 48 + 2 ^ 43 + off }) : Except Stop (Byte × State))
  match a.host with
  | .data b => if s.pcie.link then .ok (b, { s with pcie := { s.pcie with l1 := false } }) else fail 3
  | .timeout => fail 3
  | .errorCompletion => fail (if s.pcie.link then 4 else 3)

/-- The host address of a host-window offset (R429). -/
def hostAddr (s : State) (off : Nat) : Nat := s.fld .hreHwbase 0 63 43 * 2 ^ 43 + off

/-- A posted write to the host: the link leaves L1 for it; while the link is down it is discarded (R430, R446). -/
def sendHost (s : State) (addr : Nat) (bs : List Byte) : State :=
  if s.pcie.link then { s with toHost := s.toHost ++ [⟨addr, bs⟩], pcie := { s.pcie with l1 := false } } else s

/-- LDB: RD := T.FIX of one byte. -/
def bodyLdb (a : At) (l : Long) (c : CoreId) : M Flow := do
  let r ← resolveB c Opcode.ldb.modes l 1 0 2
  let b ← match r.b with
    | .byte va _ => atStep 9 (ofBytes <$> loadBytes c va 1 .read true)
    | .foreign off => BitVec.toNat <$> foreignRead a off
    | _ => pure 0
  postB c r
  setRegM c l.rd.toNat (fixN b)
  return .seq
def execLdb (a : At) (l : Long) (s : State) : Out := .next (runLong s a .ldb l (bodyLdb a l))

def wantFix (w : Word) : M Unit := if isFix w then pure () else operandFault w

/-- STB: a byte location := RA bits [7:0]. -/
def bodyStb (l : Long) (c : CoreId) : M Flow := do
  let r ← resolveB c Opcode.stb.modes l 1 0 3
  let w ← regM c l.ra.toNat
  wantFix w
  let b : Byte := BitVec.ofNat 8 (valOf w)
  match r.b with
  | .byte va imm => if imm then immutableFault .write va else atStep 11 (storeBytesM c va [b])
  | .foreign off =>
    fun s => .ok ((), sendHost s (hostAddr s off) [b])
  | _ => pure ()
  postB c r
  return .seq
def execStb (a : At) (l : Long) (s : State) : Out := .next (runLong s a .stb l (bodyStb l))

/-- A width operand: T.FIX 1 to 56. -/
def widthOf (w : Word) : M Nat :=
  if isFix w && 1 ≤ valOf w && valOf w ≤ 56 then pure (valOf w) else operandFault w

/-- The width by which the address is checked before the operand itself is (steps 7, 8 and 10 of R146). -/
def addressWidth (w : Word) : Nat := if isFix w && 1 ≤ valOf w && valOf w ≤ 56 then valOf w else 1

/-- LDBIT: RD := T.FIX of a w-bit field. -/
def bodyLdbit (l : Long) (c : CoreId) : M Flow := do
  let x ← regM c l.ra.toNat
  let r ← resolveB c Opcode.ldbit.modes l 1 (addressWidth x) 2
  match r.b with
  | .bits va lo n _ =>
    let v ← readField c .read va lo n
    let _ ← atStep 10 (widthOf x)
    postB c r
    setRegM c l.rd.toNat (fixN v)
  | _ => pure ()
  return .seq
def execLdbit (a : At) (l : Long) (s : State) : Out := .next (runLong s a .ldbit l (bodyLdbit l))

/-- STBIT: one atomic read-modify-write of a w-bit field; RD := the old field. -/
def bodyStbit (l : Long) (c : CoreId) : M Flow := do
  let n ← regM c l.rd.toNat
  let x ← regM c l.ra.toNat
  let r ← resolveB c Opcode.stbit.modes l 1 (addressWidth n) 4
  match r.b with
  | .bits va lo w imm =>
    drainM c
    let bs ← atStep 9 (loadBytes c va 16 .atomic true)
    let v := ofBytes bs
    let _ ← atStep 10 (widthOf n)
    atStep 10 (wantFix x)
    if imm then immutableFault .atomic va
    else
      let old := v / 2 ^ lo % 2 ^ w
      let new := v - old * 2 ^ lo + (valOf x % 2 ^ w) * 2 ^ lo
      atStep 11 (atomicWrite c va (toBytes 16 new) false)
      postB c r
      setRegM c l.rd.toNat (fixN old)
  | _ => pure ()
  return .seq
def execStbit (a : At) (l : Long) (s : State) : Out := .next (runLong s a .stbit l (bodyStbit l))

/-! ### Control registers (R110) -/

def controlValue (k : Core) (n : Nat) : Option Word :=
  if n == 0 then some k.status
  else if n == 1 then some k.cwpWord
  else if 0x10 ≤ n && n ≤ 0x13 then some (k.lsN (n - 0x10))
  else if 0x14 ≤ n && n ≤ 0x17 then some (k.leN (n - 0x14))
  else if 0x18 ≤ n && n ≤ 0x1B then some (k.lcN (n - 0x18))
  else none

/-- The value bits a control-register number may have; another number is a reserved field, a word that is no
T.FIX is a WORD_FORMAT (R173, R110). -/
def controlNumber (w : Word) : M Nat := if isFix w then pure (valOf w) else operandFault w

def reservedField {α : Type} (op : Opcode) (l : Long) : M α :=
  trapM { cause := .reservedField, step := 10, detail := l.word op }

/-- MFC: RD := a control register. -/
def bodyMfc (l : Long) : CoreId → M Flow := bodyU .mfc l fun c b => do
  let n ← controlNumber b
  match controlValue (← getC c) n with
  | some w => return w
  | none => reservedField .mfc l
def execMfc (a : At) (l : Long) (s : State) : Out := .next (runLong s a .mfc l (bodyMfc l))

/-- The STATUS after a write (R109): W1C of XFMT, DS, NIWX; RW of IM, in the compact configuration. -/
def writeStatus (k : Core) (compact : Bool) (w : Word) : Core :=
  let clr := fun (st : Word) (i : Nat) => if bitOf w i then withBit st i false else st
  let st := clr (clr (clr k.status 20) 19) 18
  { k with status := if compact then withBit st 16 (bitOf w 16) else st }

/-- A write of control register n (R110): none for a word that the register does not take. CWP ignores a write (R89). -/
def controlWrite (k : Core) (compact : Bool) (n : Nat) (w : Word) : Option Core :=
  if n ≤ 1 then
    if !isFix w then none else some (if n == 0 then writeStatus k compact w else k)
  else if n ≤ 0x17 then
    if tagOf w != 0x30 || !addressFormatOk w then none
    else if n ≤ 0x13 then some { k with ls := Tbl.putD k.ls ret0 (n - 0x10) w }
    else some { k with le := Tbl.putD k.le ret0 (n - 0x14) w }
  else if !isFix w || bitsOf w 55 36 != 0 then none
  else some { k with lc := Tbl.putD k.lc (fixN 0) (n - 0x18) w }

/-- MTC: a control register := RA. -/
def bodyMtc (l : Long) : CoreId → M Flow := bodyC .mtc l fun c a b => do
  let n ← controlNumber b
  if (controlValue Core.reset n).isNone then reservedField .mtc l
  else fun s => match controlWrite (s.core c) s.compact n a with
    | none => operandFault a s
    | some k => .ok ((), s.setCore c k)
def execMtc (a : At) (l : Long) (s : State) : Out := .next (runLong s a .mtc l (bodyMtc l))

end Sys2Proof.Machine
end

