-- ==== Sys2Proof/Machine/Alloc.lean ====
section
/-! DEFINITION. Allocation by a core and the objects it makes (R196, R197, R309, R349), integers and floats as
words (R181, R182). -/

namespace Sys2Proof.Machine

open Sys2Proof

/-- An allocation that finds no region (R349): with EN 0 HEAP_FULL at once; with EN 1 a cycle starts if none
runs and the core waits. -/
def noRegion {α : Type} : M α := fun s =>
  let t : Trap := { cause := .heapFull, step := 10 }
  if s.flag .morCtl 0 62 then .error (.heapWait t) else .error (.trap t)

/-- Write bytes of a new object, page by page, at once: the contents are visible before any store of its pointer
(R196, R309). A failure to take a page is the core's (R366). -/
def writeNew (va : Nat) (bs : List Byte) (space cls : Nat) : M Unit := fun s =>
  match masterWriteSpan (bs.length + 1) s space cls true va bs with
  | .ok s1 => .ok ((), s1)
  | .error _ => .error (.trap { cause := .heapFull, step := 10, pempty := true })

/-- A place from the core's allocation buffer (R196, R556): its address. -/
def allocCore (c : CoreId) (kind size : Nat) : M Nat := fun s =>
  match place s (tileOfCore c) kind size (Tbl.getD (s.core c).alloc 1 kind) with
  | some (a, cur, s1) =>
    .ok (a, if kind == 3 then s1 else s1.modCore c (fun k => { k with alloc := Tbl.putD k.alloc 1 kind cur }))
  | none => noRegion s

/-- A new object of the core, translated by its tile: its address. -/
def newObject (c : CoreId) (kind : Nat) (bs : List Byte) : M Nat := do
  let a ← allocCore c kind bs.length
  fun s => (do writeNew a bs (heapSpace s) (coreClass c a); pure a : M Nat) (withEngine s (tileOfCore c))

/-- A byte-vector-like object. -/
def newBytes (c : CoreId) (tag cls : Nat) (payload : List Byte) : M Word := do
  let bs := byteVectorBytes cls payload
  return mkWord tag (← newObject c (kindFor false false bs.length) bs)

/-- A tagged object. -/
def newTagged (c : CoreId) (ptag : Nat) (hdr : Word) (slots : List Word) : M Word := do
  let bs := taggedBytes hdr slots
  return mkWord ptag (← newObject c (kindFor false false bs.length) bs)

/-- A cons cell. -/
def newCons (c : CoreId) (x y : Word) : M Word := do
  return mkWord 0x10 (← newObject c 1 (bytesOfWord x ++ bytesOfWord y))

/-! ### Numbers as words -/

/-- The integer result (R181). -/
def intResult (c : CoreId) (i : Int) : M Word :=
  if fitsFix i then pure (fix i)
  else if 65536 < limbCount i then simpleFault .bignumSize 10
  else newBytes c 0x17 4 (limbBytes i)

/-- The float result by its binary64 bits (R182): a T.SFLOAT where the low eight bits are 0. -/
def floatResult (c : CoreId) (b : Nat) : M Word :=
  if b % 256 == 0 then pure (mkWord 2 (b / 256)) else newBytes c 0x18 5 (toBytes 8 b)

/-- An operand of a generic operation read as a number. -/
inductive Num where
  | int (i : Int)
  | flt (bits : Nat)
  deriving DecidableEq, Repr

/-- The payload of a number object through the load barrier. -/
def numPayload (c : CoreId) (w : Word) : M (List Byte) := do
  let w ← healM c w
  let o ← openObject c w 10
  atStep 10 (loadBytes c o.payload o.bound .read false)

def numOf (c : CoreId) (w : Word) : M Num := do
  match classOfTag (tagOf w) with
  | 0 => return .int (fixVal w)
  | 2 => return .flt (valOf w * 256)
  | 6 =>
    let bs ← numPayload c w
    if bignumOk bs then return .int (intOfLimbs bs) else operandFault w
  | 7 => return .flt (ofBytes (← numPayload c w))
  | _ => operandFault w

def Num.bits : Num → Nat
  | .int i => intToF i
  | .flt b => b

/-- The number of the dispatch table's entry (R176): `x` is the first and `y` the second operand; a unary group
has none. -/
def dispatchEntry (g : Nat) (x : Word) (y : Option Word) : Nat :=
  256 * g + 16 * classOfTag (tagOf x) + (match y with | some w => classOfTag (tagOf w) | none => 0)

/-- The entry of the generic dispatch table completes, or raises DISPATCH_TRAP (R176 to R180). -/
def dispatch (g : Nat) (x : Word) (y : Option Word) : M Unit := fun s =>
  let i := dispatchEntry g x y
  if s.fld .cfgGdt i 17 16 == 2 then
    .error (.trap { cause := .dispatchTrap, vector := s.fld .cfgGdt i 11 0, step := 10, foper := y.getD nil,
                    detail := i, aux := x })
  else .ok ((), s)

end Sys2Proof.Machine
end

