-- ==== Sys2Proof/Machine/Arith.lean ====
section
/-! DEFINITION. Generic arithmetic, float, logic and check operations (R176 to R190). -/

namespace Sys2Proof.Machine

open Sys2Proof

def bothFix (x y : Word) : Bool := isFix x && isFix y
def isTime (w : Word) : Bool := tagOf w == 6
def anyFloat (x y : Num) : Bool := match x, y with | .int _, .int _ => false | _, _ => true

/-- Flags of an integer result: the first row of R185 for T.FIX operands, else the second. -/
def intFlags (fixOnly : Bool) (first : Tbl Bool) (r : Int) : Tbl Bool := if fixOnly then first else flagsInt r

/-- An integer result with its flags. -/
def finishInt (c : CoreId) (r : Int) (f : Tbl Bool) : M Word := do
  let w ← intResult c r
  setFlagsM c f
  return w

def finishFloat (c : CoreId) (b : Nat) : M Word := do
  let w ← floatResult c b
  setFlagsM c (flagsFloat b)
  return w

def finishTime (c : CoreId) (v : Int) : M Word := do
  let n := (v % 2 ^ 56).toNat
  setFlagsM c (flagsTime n)
  return mkWord 6 n

/-- Generic ADD after the stack forms (R184, R185). -/
def genericAdd (c : CoreId) (x y : Word) : M Word := do
  dispatch 0x0 x (some y)
  if isTime x || isTime y then finishTime c ((valOf x : Int) + valOf y)
  else
    let a ← numOf c x
    let b ← numOf c y
    match a, b with
    | .int i, .int j => finishInt c (i + j) (intFlags (bothFix x y) (flagsAdd i j) (i + j))
    | _, _ => finishFloat c (addF a.bits b.bits)

/-- The difference of two times (R53). -/
def timeDiff (x y : Word) : Int := signed 56 (((valOf x : Int) - valOf y) % 2 ^ 56).toNat

def genericSub (c : CoreId) (x y : Word) : M Word := do
  dispatch 0x1 x (some y)
  if isTime x && isTime y then
    setFlagsM c (flagsInt (timeDiff x y))
    return fix (timeDiff x y)
  else if isTime x then finishTime c ((valOf x : Int) - fixVal y)
  else
    let a ← numOf c x
    let b ← numOf c y
    match a, b with
    | .int i, .int j => finishInt c (i - j) (intFlags (bothFix x y) (flagsSub i j) (i - j))
    | _, _ => finishFloat c (subF a.bits b.bits)

def genericMul (c : CoreId) (x y : Word) : M Word := do
  dispatch 0x2 x (some y)
  let a ← numOf c x
  let b ← numOf c y
  match a, b with
  | .int i, .int j => finishInt c (i * j) (flagsInt (i * j))
  | _, _ => finishFloat c (mulF a.bits b.bits)

def genericDiv (c : CoreId) (x y : Word) : M Word := do
  dispatch 0x3 x (some y)
  let a ← numOf c x
  let b ← numOf c y
  match a, b with
  | .int i, .int j =>
    if j = 0 then simpleFault .divideZero 10 else finishInt c (divTrunc i j) (flagsInt (divTrunc i j))
  | _, _ => finishFloat c (divF a.bits b.bits)

def genericRem (c : CoreId) (x y : Word) : M Word := do
  dispatch 0x4 x (some y)
  let a ← numOf c x
  let b ← numOf c y
  match a, b with
  | .int i, .int j =>
    if j = 0 then simpleFault .divideZero 10 else finishInt c (remTrunc i j) (flagsInt (remTrunc i j))
  | _, _ => operandFault y

/-- NEG of a NaN yields the NaN quieted (R182). -/
def negF (b : Nat) : Nat := if isNaNF b then quiet b else flipSign b
def absF (b : Nat) : Nat := if isNaNF b then quiet b else b % 2 ^ 63

def genericNeg (c : CoreId) (y : Word) : M Word := do
  dispatch 0x5 y none
  match ← numOf c y with
  | .int j => finishInt c (-j) (intFlags (isFix y) (flagsSub 0 j) (-j))
  | .flt b => finishFloat c (negF b)

def genericAbs (c : CoreId) (y : Word) : M Word := do
  dispatch 0x6 y none
  match ← numOf c y with
  | .int j => finishInt c j.natAbs (intFlags (isFix y) (flagsAbs j) j.natAbs)
  | .flt b => finishFloat c (absF b)

/-- CMP (R184, R185). -/
def genericCmp (c : CoreId) (x y : Word) : M Unit := do
  dispatch 0x7 x (some y)
  if isTime x then setFlagsM c (flagsCmp (some (timeDiff x y)))
  else if tagOf x == 1 then setFlagsM c (flagsCmp (some ((valOf x : Int) - valOf y)))
  else if bothFix x y then setFlagsM c (flagsSub (fixVal x) (fixVal y))
  else
    let a ← numOf c x
    let b ← numOf c y
    match a, b with
    | .int i, .int j => setFlagsM c (flagsCmp (some (i - j)))
    | _, _ => setFlagsM c (flagsCmp (cmpF a.bits b.bits))

/-- The stack forms of long ADD and SUB (R188): the resulting address as a T.SP. -/
def stackResult (a : Int) (w : Word) : M Word :=
  if a < 0 || (2 : Int) ^ 47 ≤ a then trapM (wordTrap .pointerFormat w 10 0)
  else if a % 16 != 0 then trapM { cause := .misaligned, step := 10, detail := 16 }
  else pure (mkWord 0x32 a.toNat)

/-- ADD of a T.VECTOR without IMM and a slot number: the address of the slot; none when dispatch takes it. -/
def vectorForm (c : CoreId) (x y : Word) : M (Option Word) := do
  if tagOf x == 0x11 && isFix y then
    let x ← healM c x
    let o ← openObject c x 10
    if o.imm then return none
    else if fixVal y < 0 || (o.bound : Int) < fixVal y then
      trapM { cause := .slotBounds, step := 10, foper := y, detail := o.bound }
    else return some (← stackResult (o.slotAddr (valOf y)) x)
  else return none

def bodyAdd (l : Long) : CoreId → M Flow := bodyR .add l fun c x y => do
  if tagOf x == 0x32 && isFix y then stackResult ((valOf x : Int) + fixVal y) x
  else match ← vectorForm c x y with
    | some w => return w
    | none => genericAdd c x y
def execAdd (a : At) (l : Long) (s : State) : Out := .next (runLong s a .add l (bodyAdd l))

def bodySub (l : Long) : CoreId → M Flow := bodyR .sub l fun c x y =>
  if tagOf x == 0x32 && isFix y then stackResult ((valOf x : Int) - fixVal y) x
  else if tagOf x == 0x32 && tagOf y == 0x32 then pure (fix ((valOf x : Int) - valOf y))
  else genericSub c x y
def execSub (a : At) (l : Long) (s : State) : Out := .next (runLong s a .sub l (bodySub l))

def bodyMul (l : Long) : CoreId → M Flow := bodyR .mul l genericMul
def execMul (a : At) (l : Long) (s : State) : Out := .next (runLong s a .mul l (bodyMul l))
def bodyDiv (l : Long) : CoreId → M Flow := bodyR .div l genericDiv
def execDiv (a : At) (l : Long) (s : State) : Out := .next (runLong s a .div l (bodyDiv l))
def bodyRem (l : Long) : CoreId → M Flow := bodyR .rem l genericRem
def execRem (a : At) (l : Long) (s : State) : Out := .next (runLong s a .rem l (bodyRem l))
def bodyNeg (l : Long) : CoreId → M Flow := bodyU .neg l genericNeg
def execNeg (a : At) (l : Long) (s : State) : Out := .next (runLong s a .neg l (bodyNeg l))
def bodyAbs (l : Long) : CoreId → M Flow := bodyU .abs l genericAbs
def execAbs (a : At) (l : Long) (s : State) : Out := .next (runLong s a .abs l (bodyAbs l))
def bodyCmp (l : Long) : CoreId → M Flow := bodyC .cmp l genericCmp
def execCmp (a : At) (l : Long) (s : State) : Out := .next (runLong s a .cmp l (bodyCmp l))

/-- ADDTO and SUBTO: SUBTO takes B as its first operand (R176). -/
def bodyAddto (l : Long) : CoreId → M Flow := bodyM .addto l genericAdd
def execAddto (a : At) (l : Long) (s : State) : Out := .next (runLong s a .addto l (bodyAddto l))
def bodySubto (l : Long) : CoreId → M Flow := bodyM .subto l (fun c x y => genericSub c y x)
def execSubto (a : At) (l : Long) (s : State) : Out := .next (runLong s a .subto l (bodySubto l))

/-! ### Float operations (R182, R185) -/

def floatOp (g : Nat) (f : Nat → Nat → Nat) (c : CoreId) (x y : Word) : M Word := do
  dispatch g x (some y)
  let a ← numOf c x
  let b ← numOf c y
  finishFloat c (f a.bits b.bits)

def bodyFadd (l : Long) : CoreId → M Flow := bodyR .fadd l (floatOp 0x9 addF)
def execFadd (a : At) (l : Long) (s : State) : Out := .next (runLong s a .fadd l (bodyFadd l))
def bodyFsub (l : Long) : CoreId → M Flow := bodyR .fsub l (floatOp 0xA subF)
def execFsub (a : At) (l : Long) (s : State) : Out := .next (runLong s a .fsub l (bodyFsub l))
def bodyFmul (l : Long) : CoreId → M Flow := bodyR .fmul l (floatOp 0xB mulF)
def execFmul (a : At) (l : Long) (s : State) : Out := .next (runLong s a .fmul l (bodyFmul l))
def bodyFdiv (l : Long) : CoreId → M Flow := bodyR .fdiv l (floatOp 0xC divF)
def execFdiv (a : At) (l : Long) (s : State) : Out := .next (runLong s a .fdiv l (bodyFdiv l))

def bodyFsqrt (l : Long) : CoreId → M Flow := bodyU .fsqrt l fun c y => do
  dispatch 0xD y none
  finishFloat c (sqrtF (← numOf c y).bits)
def execFsqrt (a : At) (l : Long) (s : State) : Out := .next (runLong s a .fsqrt l (bodyFsqrt l))

def bodyFcmp (l : Long) : CoreId → M Flow := bodyC .fcmp l fun c x y => do
  dispatch 0xF x (some y)
  let a ← numOf c x
  let b ← numOf c y
  setFlagsM c (flagsCmp (cmpF a.bits b.bits))
def execFcmp (a : At) (l : Long) (s : State) : Out := .next (runLong s a .fcmp l (bodyFcmp l))

/-- FCVT: RA is the mode; a NaN or infinity has no integer (R189). -/
def bodyFcvt (l : Long) : CoreId → M Flow := bodyR .fcvt l fun c m y => do
  if !isFix m || 3 < valOf m then operandFault m
  else
    dispatch 0xE y none
    let b ← numOf c y
    if valOf m == 0 then finishFloat c (match b with | .int i => intToF i | .flt f => if isNaNF f then quiet f else f)
    else match b with
      | .int i => finishInt c i (flagsInt i)
      | .flt f => match fToInt (valOf m) f with
        | some i => finishInt c i (flagsInt i)
        | none => operandFault y
def execFcvt (a : At) (l : Long) (s : State) : Out := .next (runLong s a .fcvt l (bodyFcvt l))

/-! ### Integer logic (R189) -/

def fixPair (x y : Word) : M Unit := do wantFix x; wantFix y

def logicOp (f : Nat → Nat → Nat) (c : CoreId) (x y : Word) : M Word := do
  fixPair x y
  let v := f (valOf x) (valOf y) % 2 ^ 56
  setFlagsM c (flagsLogic v)
  return fixN v

def andN (x y : Nat) : Nat := x &&& (2 ^ 56 - 1 - y % 2 ^ 56)

def bodyAnd (l : Long) : CoreId → M Flow := bodyR .and l (logicOp (fun x y => x &&& y))
def execAnd (a : At) (l : Long) (s : State) : Out := .next (runLong s a .and l (bodyAnd l))
def bodyOr (l : Long) : CoreId → M Flow := bodyR .or l (logicOp (fun x y => x ||| y))
def execOr (a : At) (l : Long) (s : State) : Out := .next (runLong s a .or l (bodyOr l))
def bodyXor (l : Long) : CoreId → M Flow := bodyR .xor l (logicOp (fun x y => x ^^^ y))
def execXor (a : At) (l : Long) (s : State) : Out := .next (runLong s a .xor l (bodyXor l))
def bodyAndn (l : Long) : CoreId → M Flow := bodyR .andn l (logicOp andN)
def execAndn (a : At) (l : Long) (s : State) : Out := .next (runLong s a .andn l (bodyAndn l))

/-- A shift count: T.FIX 0 to 63. -/
def shiftCount (w : Word) : M Nat :=
  if isFix w && valOf w ≤ 63 then pure (valOf w) else operandFault w

def shlOp (c : CoreId) (x y : Word) : M Word := do
  wantFix x
  let n ← shiftCount y
  let v := valOf x * 2 ^ n % 2 ^ 56
  setFlagsM c (flagsLogic v ++ [(3, signed 56 v != fixVal x * 2 ^ n)])
  return fixN v

def shrOp (c : CoreId) (x y : Word) : M Word := do
  wantFix x
  let n ← shiftCount y
  let v := valOf x / 2 ^ n
  setFlagsM c (flagsLogic v)
  return fixN v

def sarOp (c : CoreId) (x y : Word) : M Word := do
  wantFix x
  let n ← shiftCount y
  let v := fixVal x / 2 ^ n
  setFlagsM c (flagsLogic (unsigned56 v))
  return fix v

def bodyShl (l : Long) : CoreId → M Flow := bodyR .shl l shlOp
def execShl (a : At) (l : Long) (s : State) : Out := .next (runLong s a .shl l (bodyShl l))
def bodyShr (l : Long) : CoreId → M Flow := bodyR .shr l shrOp
def execShr (a : At) (l : Long) (s : State) : Out := .next (runLong s a .shr l (bodyShr l))
def bodySar (l : Long) : CoreId → M Flow := bodyR .sar l sarOp
def execSar (a : At) (l : Long) (s : State) : Out := .next (runLong s a .sar l (bodySar l))

/-- A count of bits: f0 only. -/
def countOp (f : Nat → Nat) (c : CoreId) (y : Word) : M Word := do
  wantFix y
  let v := f (valOf y)
  setFlagsM c [(0, v == 0)]
  return fixN v

def bodyPopc (l : Long) : CoreId → M Flow := bodyU .popc l (countOp popcount)
def execPopc (a : At) (l : Long) (s : State) : Out := .next (runLong s a .popc l (bodyPopc l))
def bodyClz (l : Long) : CoreId → M Flow := bodyU .clz l (countOp clz56)
def execClz (a : At) (l : Long) (s : State) : Out := .next (runLong s a .clz l (bodyClz l))
def bodyParity (l : Long) : CoreId → M Flow := bodyU .parity l (countOp (fun v => popcount v % 2))
def execParity (a : At) (l : Long) (s : State) : Out := .next (runLong s a .parity l (bodyParity l))

def bodyBitrev (l : Long) : CoreId → M Flow := bodyR .bitrev l fun _ w y => do
  let n ← widthOf w
  wantFix y
  return fixN (reverseBits n (valOf y))
def execBitrev (a : At) (l : Long) (s : State) : Out := .next (runLong s a .bitrev l (bodyBitrev l))

/-- CRCSTEP (R190): RD is the state, RA the descriptor, B the data. -/
def crcOp (st : Word) (d : CrcDesc) (k data : Nat) : M Word :=
  if isFix st && valOf st < 2 ^ d.w then pure (fixN (crcFold d data k (valOf st))) else operandFault st

def crcDescM (w : Word) (fold : Bool) : M (CrcDesc × Nat) :=
  match (if isFix w then crcDescOf (valOf w) fold else none) with
  | some d => pure d
  | none => operandFault w

def bodyCrcstep (l : Long) : CoreId → M Flow := bodyR .crcstep l fun c dw y => do
  let st ← regM c l.rd.toNat
  let (d, k) ← crcDescM dw true
  wantFix y
  crcOp st d k (valOf y)
def execCrcstep (a : At) (l : Long) (s : State) : Out := .next (runLong s a .crcstep l (bodyCrcstep l))

end Sys2Proof.Machine
end

