-- ==== Sys2Proof/Machine/Objects.lean ====
section
/-! DEFINITION. Tags, lists and objects (R194 to R199, R75). -/

namespace Sys2Proof.Machine

open Sys2Proof

/-- Operand B used as the base of an access: healed, and written back when it is a register (R341). -/
def healB (c : CoreId) (l : Long) (w : Word) : M Word :=
  if l.mode == 0 then healRegM c l.rb.toNat else healM c w

/-- CONS: both words pass the load barrier (R341). -/
def bodyCons (l : Long) : CoreId → M Flow := bodyR .cons l fun c _ b => do
  let x ← healRegM c l.ra.toNat
  let y ← healB c l b
  newCons c x y
def execCons (a : At) (l : Long) (s : State) : Out := .next (runLong s a .cons l (bodyCons l))

/-- A word of a cons cell. -/
def cellWord (l : Long) (i : Nat) (c : CoreId) (b : Word) : M Word :=
  if isNil b then pure nil
  else if tagOf b == 0x10 then do
    let o ← openObject c (← healB c l b) 10
    atStep 10 (loadWord c (o.slotAddr i) .read)
  else operandFault b

def bodyCar (l : Long) : CoreId → M Flow := bodyU .car l (cellWord l 0)
def execCar (a : At) (l : Long) (s : State) : Out := .next (runLong s a .car l (bodyCar l))
def bodyCdr (l : Long) : CoreId → M Flow := bodyU .cdr l (cellWord l 1)
def execCdr (a : At) (l : Long) (s : State) : Out := .next (runLong s a .cdr l (bodyCdr l))

/-- A word of a cons cell written with RA. -/
def cellWrite (l : Long) (i : Nat) (c : CoreId) (_ b : Word) : M Unit :=
  if tagOf b == 0x10 then do
    let o ← openObject c (← healB c l b) 10
    let x ← healRegM c l.ra.toNat
    atStep 11 (storeWord c (o.slotAddr i) x)
  else operandFault b

def bodyRplaca (l : Long) : CoreId → M Flow := bodyC .rplaca l (cellWrite l 0)
def execRplaca (a : At) (l : Long) (s : State) : Out := .next (runLong s a .rplaca l (bodyRplaca l))
def bodyRplacd (l : Long) : CoreId → M Flow := bodyC .rplacd l (cellWrite l 1)
def execRplacd (a : At) (l : Long) (s : State) : Out := .next (runLong s a .rplacd l (bodyRplacd l))

/-! ### Allocation (R196, R197) -/

/-- A length operand: a non-negative T.FIX within the LENGTH field. -/
def lengthOf (w : Word) : M Nat :=
  if isFix w && 0 ≤ fixVal w && valOf w < 2 ^ 32 then pure (valOf w) else operandFault w

def sizeCheck (size : Nat) (w : Word) : M Unit := if 2 ^ 32 < size then operandFault w else pure ()

def bodyAllocv (l : Long) : CoreId → M Flow := bodyR .allocv l fun c a b => do
  let n ← lengthOf b
  if isFix a && (valOf a == 7 || (0x100 ≤ valOf a && valOf a ≤ 0xFFFF)) then
    sizeCheck (roundUp (8 * (1 + n)) 16) b
    newTagged c 0x11 (mkHeader 0x21 (valOf a) n 0) (List.replicate n nil)
  else operandFault a
def execAllocv (a : At) (l : Long) (s : State) : Out := .next (runLong s a .allocv l (bodyAllocv l))

def bodyAllocb (l : Long) : CoreId → M Flow := bodyR .allocb l fun c a b => do
  let n ← lengthOf b
  if isFix a && (valOf a == 6 || (0x100 ≤ valOf a && valOf a ≤ 0xFFFF)) then
    sizeCheck (roundUp (8 + n) 16) b
    newBytes c 0x12 (valOf a) (List.replicate n 0)
  else operandFault a
def execAllocb (a : At) (l : Long) (s : State) : Out := .next (runLong s a .allocb l (bodyAllocb l))

/-- A mailbox with 2^k message slots (R212). -/
def mailboxSlots (n : Nat) : List Word := [fixN n, fixN 0, fixN 0, nil, nil] ++ List.replicate n unbound

def isPow2UpTo (n k : Nat) : Bool := (List.range (k + 1)).any (fun i => n == 2 ^ i)

/-- A free word that no rule of R56 need have made: an immediate, else T.UNBOUND. -/
def plainWord (w : Word) : Word := if isImmediateTag (tagOf w) && immediateOk w then w else unbound

/-- Slots of a code object that R197 does not fill: free values among the immediates (R56; log 9). -/
def freeSlots : Nat → M (List Word)
  | 0 => pure []
  | n + 1 => do
    let w ← freeM
    let ws ← freeSlots n
    return plainWord w :: ws

/-- A code object from a byte vector's payload (R197, R71). -/
def newCode (c : CoreId) (l : Long) (n : Nat) (b : Word) : M Word := do
  let src ← healRegM c l.ra.toNat
  let o ← openObject c src 10
  if n < 5 || o.bound == 0 || o.bound % 8 != 0 then operandFault b
  else
    let bytes ← atStep 10 (loadBytes c o.payload o.bound .read true)
    let rest ← freeSlots (n - 5)
    let slots := [fixN o.bound, fixN 0, nil, nil, fixN 0] ++ rest
    let area := bytes ++ padWords ((roundUp o.bound 16 - o.bound) / 8)
    let bs := taggedBytes (mkHeader 0x20 3 n 0) slots ++ area
    sizeCheck bs.length b
    let a ← newObject c 5 bs
    fun s => .ok (mkWord 0x16 a, { s with codeObjs := insertNat s.codeObjs a, codeSizes := Tbl.put s.codeSizes a o.bound })

def bodyAlloci (l : Long) : CoreId → M Flow := bodyR .alloci l fun c a b => do
  let n ← lengthOf b
  if tagOf a == 0x12 then newCode c l n b
  else if !isFix a then operandFault a
  else
    let cls := valOf a
    let make := fun (ptag : Nat) (slots : List Word) => do
      sizeCheck (roundUp (8 * (1 + n)) 16) b
      newTagged c ptag (mkHeader 0x20 cls n 0) slots
    if cls == 1 then (if n == 5 then make 0x13 (List.replicate n unbound) else operandFault b)
    else if cls == 2 then (if 1 ≤ n then make 0x15 (List.replicate n unbound) else operandFault b)
    else if cls == 8 then
      (if 5 ≤ n && isPow2UpTo (n - 5) 20 then make 0x14 (mailboxSlots (n - 5)) else operandFault b)
    else if cls == 0xA then (if n == 63 then make 0x14 (List.replicate n unbound) else operandFault b)
    else if 0x100 ≤ cls && cls ≤ 0xFFFF then make 0x14 (List.replicate n unbound)
    else operandFault a
def execAlloci (a : At) (l : Long) (s : State) : Out := .next (runLong s a .alloci l (bodyAlloci l))

/-! ### Queries -/

def bodyLenof (l : Long) : CoreId → M Flow := bodyU .lenof l fun c b => do
  if isNil b then return fixN 0
  else if isPointerTag (tagOf b) then
    let o ← openObject c (← healB c l b) 10
    return fixN o.bound
  else operandFault b
def execLenof (a : At) (l : Long) (s : State) : Out := .next (runLong s a .lenof l (bodyLenof l))

def bodyClassof (l : Long) : CoreId → M Flow := bodyU .classof l fun c b => do
  if isPointerTag (tagOf b) then
    let o ← openObject c (← healB c l b) 10
    return fixN (match o.hdr with | some h => hdrClass h | none => 0)
  else operandFault b
def execClassof (a : At) (l : Long) (s : State) : Out := .next (runLong s a .classof l (bodyClassof l))

/-- The identity hash (R75): HASHED is set by an atomic update of the header on first use. -/
def identityHash (c : CoreId) (w : Word) : M Word := do
  let o ← openObject c w 10
  match o.hdr with
  | none => operandFault w
  | some h =>
    if hdrHxt h then
      let cb ← (if tagOf h == 0x20 && hdrClass h == 3 then
        (fun x => valOf x % 2 ^ 32) <$> atStep 10 (loadWord c (o.addr + 8) .read) else pure 0)
      atStep 10 (loadWord c (o.addr + objectSize h cb - 16) .read)
    else
      if !hdrHashed h then
        drainM c
        atStep 10 (atomicWrite c o.addr (bytesOfWord (withBit h 3 true)) true)
      return fixN (o.addr / 16)

def bodyIdhash (l : Long) : CoreId → M Flow := bodyU .idhash l fun c b => do
  if isPointerTag (tagOf b) && tagOf b != 0x10 then identityHash c (← healB c l b) else operandFault b
def execIdhash (a : At) (l : Long) (s : State) : Out := .next (runLong s a .idhash l (bodyIdhash l))

/-- The strong tag of the object of a T.WEAK (R198); while the barrier is on its referent is marked (R347). -/
def strongOf (c : CoreId) (w : Word) : M Word := do
  let o ← openObject c w 10
  let t := match o.hdr with | some h => strongTagOfHeader h | none => 0x10
  fun s => .ok (mkWord t (valOf w), if barrierOn s then
    { setMark s (valOf w) with mor := { s.mor with work := s.mor.work ++ [mkWord t (valOf w)] } } else s)

def bodyWeakref (l : Long) : CoreId → M Flow := bodyR .weakref l fun c a b => do
  if !isFix a || 1 < valOf a then operandFault a
  else if valOf a == 0 then
    if isPointerTag (tagOf b) then return mkWord 0x1A (valOf (← healB c l b)) else operandFault b
  else if isNil b then return b
  else if tagOf b == 0x1A then strongOf c (← healB c l b)
  else if isPointerTag (tagOf b) then return b
  else operandFault b
def execWeakref (a : At) (l : Long) (s : State) : Out := .next (runLong s a .weakref l (bodyWeakref l))

/-! ### PIN, UNPIN (R199, R345) -/

/-- The header flag is updated atomically at its block. -/
def setHeaderFlag (c : CoreId) (o : Obj) (h : Word) (i : Nat) (b : Bool) : M Unit := do
  drainM c
  atStep 10 (atomicWrite c o.addr (bytesOfWord (withBit h i b)) true)

/-- R71 of a code object before IMM is set: the size of its instruction area stands in the directory (log 11). -/
def codeReady (c : CoreId) (o : Obj) (h : Word) : M Bool := do
  let n ← atStep 10 (loadWord c (o.slotAddr 0) .read)
  let e ← atStep 10 (loadWord c (o.slotAddr 1) .read)
  let ar ← atStep 10 (loadWord c (o.slotAddr 4) .read)
  let made ← (fun s => .ok (Tbl.get? s.codeSizes o.addr, s) : M (Option Nat))
  return isFix n && valOf n < 2 ^ 32 && valOf n % 8 == 0 && valOf n != 0 && isFix e && valOf e < valOf n
    && valOf e % (if hdrFmt h then 8 else 4) == 0 && arityOk ar && made.getD (valOf n) == valOf n

def markPinned (s : State) (va : Nat) : State :=
  match regionOf s va with
  | some r => descField s r 49 49 1
  | none => s

def bodyPin (l : Long) : CoreId → M Flow := bodyC .pin l fun c a b => do
  if !isPointerTag (tagOf a) || tagOf a == 0x10 then operandFault a
  else
    wantFix b
    let p ← healRegM c l.ra.toNat
    let o ← openObject c p 10
    match o.hdr with
    | none => operandFault a
    | some h =>
      let code := tagOf h == 0x20 && hdrClass h == 3
      if valOf b == 0 then
        setHeaderFlag c o h 1 true
        fun s => .ok ((), markPinned s o.addr)
      else if valOf b == 1 then
        let ok ← (if code then codeReady c o h else pure true)
        if ok then setHeaderFlag c o h 0 true else operandFault b
      else if valOf b == 4 && code && !hdrImm h then setHeaderFlag c o h 4 true
      else operandFault b
def execPin (a : At) (l : Long) (s : State) : Out := .next (runLong s a .pin l (bodyPin l))

def bodyUnpin (l : Long) : CoreId → M Flow := bodyC .unpin l fun c a b => do
  if !isPointerTag (tagOf a) || tagOf a == 0x10 then operandFault a
  else
    wantFix b
    let p ← healRegM c l.ra.toNat
    let o ← openObject c p 10
    match o.hdr with
    | none => operandFault a
    | some h => if valOf b == 0 then setHeaderFlag c o h 1 false else operandFault b
def execUnpin (a : At) (l : Long) (s : State) : Out := .next (runLong s a .unpin l (bodyUnpin l))

/-! ### BITADDR, TAGSET and the tag tests -/

def bodyBitaddr (l : Long) : CoreId → M Flow := bodyR .bitaddr l fun c a b => do
  if tagOf a != 0x12 then operandFault a
  else
    wantFix b
    let o ← openObject c (← healRegM c l.ra.toNat) 10
    if fixVal b < 0 || (8 * o.bound : Int) ≤ fixVal b then
      trapM { cause := .slotBounds, step := 10, foper := b, detail := 8 * o.bound }
    else return mkWord 0x07 (8 * o.payload + valOf b)
def execBitaddr (a : At) (l : Long) (s : State) : Out := .next (runLong s a .bitaddr l (bodyBitaddr l))

/-- TAGSET (R195). -/
def bodyTagset (l : Long) : CoreId → M Flow := bodyR .tagset l fun _ a b => do
  if !isImmediateTag (tagOf a) then operandFault a
  else if !isFix b || 255 < valOf b then operandFault b
  else
    let t := valOf b
    let w := mkWord t (valOf a)
    if isReservedTag t then trapM (wordTrap .tagReserved w 10 0)
    else if !isImmediateTag t && t != 0x1F then trapM (wordTrap .tagForge w 10 0)
    else match inspectWord w with
      | some cse => trapM (wordTrap cse w 10 0)
      | none => return w
def execTagset (a : At) (l : Long) (s : State) : Out := .next (runLong s a .tagset l (bodyTagset l))

def bodyTagof (l : Long) : CoreId → M Flow := bodyU .tagof l (fun _ b => pure (fixN (tagOf b)))
def execTagof (a : At) (l : Long) (s : State) : Out := .next (runLong s a .tagof l (bodyTagof l))

def tageqOp (c : CoreId) (a b : Word) : M Unit := setBitM c 4 (tagOf a == tagOf b)
def bodyTageq (l : Long) : CoreId → M Flow := bodyC .tageq l tageqOp
def execTageq (a : At) (l : Long) (s : State) : Out := .next (runLong s a .tageq l (bodyTageq l))

def classisOp (c : CoreId) (a b : Word) : M Unit :=
  if isFix b && valOf b ≤ 15 then setBitM c 4 (classOfTag (tagOf a) == valOf b) else operandFault b
def bodyClassis (l : Long) : CoreId → M Flow := bodyC .classis l classisOp
def execClassis (a : At) (l : Long) (s : State) : Out := .next (runLong s a .classis l (bodyClassis l))

/-- EQ compares after both words have passed the load barrier (R341). -/
def bodyEq (l : Long) : CoreId → M Flow := bodyC .eq l fun c _ b => do
  let x ← healRegM c l.ra.toNat
  let y ← healB c l b
  setBitM c 0 (x == y)
def execEq (a : At) (l : Long) (s : State) : Out := .next (runLong s a .eq l (bodyEq l))

/-- Whether two words are EQL once EQ has failed (R194). -/
def eqlValue (c : CoreId) (x y : Word) : M Bool := do
  let cx := classOfTag (tagOf x)
  if cx == classOfTag (tagOf y) && (cx == 6 || cx == 7) then
    let a ← numOf c x
    let b ← numOf c y
    return a == b
  else return x == y

def bodyEql (l : Long) : CoreId → M Flow := bodyC .eql l fun c a b => do
  dispatch 0x8 a (some b)
  let x ← healRegM c l.ra.toNat
  let y ← healB c l b
  let r ← (if x == y then pure true else eqlValue c x y)
  setBitM c 0 r
def execEql (a : At) (l : Long) (s : State) : Out := .next (runLong s a .eql l (bodyEql l))

end Sys2Proof.Machine
end

