-- ==== Sys2Proof/Machine/Atomics.lean ====
section
/-! DEFINITION. Atomic operations at the holding block and the bit registers (R200 to R203). -/

namespace Sys2Proof.Machine

open Sys2Proof

/-- CASW: B := RA if B equals RD; RD := old B; f0 := stored. -/
def bodyCasw (l : Long) (c : CoreId) : M Flow := do
  let r ← resolveB c Opcode.casw.modes l 8 0 4
  match r.b with
  | .word va imm =>
    let expect ← healRegM c l.rd.toNat
    let new ← healRegM c l.ra.toNat
    let (old, hit) ← (do
      let old ← atomicWord c va imm (fun old => pure (if old == expect then some new else none, old))
      return (old, old == expect) : M (Word × Bool))
    setBitM c 0 hit
    postB c r
    setRegM c l.rd.toNat old
  | _ => pure ()
  return .seq
def execCasw (a : At) (l : Long) (s : State) : Out := .next (runLong s a .casw l (bodyCasw l))

/-- FADDW: B := (old + RA) mod 2^56; RD := old; f0 new value 0, f3 the signed sum wrapped. -/
def bodyFaddw (l : Long) (c : CoreId) : M Flow := do
  let r ← resolveB c Opcode.faddw.modes l 8 0 4
  match r.b with
  | .word va imm =>
    let x ← regM c l.ra.toNat
    let old ← atomicWord c va imm (fun old => do
      wantFix x
      wantFix old
      return (some (fix (fixVal old + fixVal x)), old))
    let sum := fixVal old + fixVal x
    setFlagsM c [(0, fixZ sum), (3, !fitsFix sum)]
    postB c r
    setRegM c l.rd.toNat old
  | _ => pure ()
  return .seq
def execFaddw (a : At) (l : Long) (s : State) : Out := .next (runLong s a .faddw l (bodyFaddw l))

/-- The two words of a granule, inspected and healed. -/
def loadGranule (c : CoreId) (va : Nat) : M (Word × Word) := do
  drainM c
  let x ← atStep 9 (loadWord c va .atomic)
  let y ← atStep 9 (loadWord c (va + 8) .atomic)
  return (x, y)

/-- A granule written at once under R57 and R63. -/
def writeGranuleM (c : CoreId) (va : Nat) (imm : Bool) (x y : Word) : M Unit := do
  if imm then immutableFault .atomic va
  else
    let ox ← atStep 11 (loadRaw c va .atomic)
    let oy ← atStep 11 (loadRaw c (va + 8) .atomic)
    if !mayOverwrite ox x then trapM { wordTrap .tagForge x 11 4 with faddr := fixN va }
    else if !mayOverwrite oy y then trapM { wordTrap .tagForge y 11 4 with faddr := fixN (va + 8) }
    else atStep 11 (atomicWrite c va (bytesOfWord x ++ bytesOfWord y) true)

/-- CASG: as CASW on the granule with register pairs (R174). -/
def bodyCasg (l : Long) (c : CoreId) : M Flow := do
  let r ← resolveB c Opcode.casg.modes l 16 0 4
  let d := l.rd.toNat
  let n := l.ra.toNat
  match r.b with
  | .word va imm =>
    let ex ← healRegM c d
    let ey ← healRegM c (d + 1)
    let nx ← healRegM c n
    let ny ← healRegM c (n + 1)
    let (ox, oy) ← loadGranule c va
    let hit := ox == ex && oy == ey
    if hit then writeGranuleM c va imm nx ny
    setBitM c 0 hit
    postB c r
    setRegM c d ox
    setRegM c (d + 1) oy
  | _ => pure ()
  return .seq
def execCasg (a : At) (l : Long) (s : State) : Out := .next (runLong s a .casg l (bodyCasg l))

/-- SWPG: the RD pair takes the granule, the granule takes the RA pair. -/
def bodySwpg (l : Long) (c : CoreId) : M Flow := do
  let r ← resolveB c Opcode.swpg.modes l 16 0 4
  let d := l.rd.toNat
  let n := l.ra.toNat
  match r.b with
  | .word va imm =>
    let nx ← healRegM c n
    let ny ← healRegM c (n + 1)
    let (ox, oy) ← loadGranule c va
    writeGranuleM c va imm nx ny
    postB c r
    setRegM c d ox
    setRegM c (d + 1) oy
  | _ => pure ()
  return .seq
def execSwpg (a : At) (l : Long) (s : State) : Out := .next (runLong s a .swpg l (bodySwpg l))

/-! ### Bit registers (R175, R203) -/

/-- n(RA, B): the sum of two T.FIX values, g0 counting as 0 (R175). -/
def sumOperand (l : Long) (a b : Word) : M Int := do
  if l.ra != 24 then wantFix a
  wantFix b
  return (if l.ra == 24 then 0 else fixVal a) + fixVal b

def bitNumber (l : Long) (a b : Word) : M Nat := do
  let n ← sumOperand l a b
  if 0 ≤ n && n ≤ 255 then return n.toNat else operandFault b

def bodyBset (l : Long) : CoreId → M Flow := bodyC .bset l fun c a b => do setBitM c (← bitNumber l a b) true
def execBset (a : At) (l : Long) (s : State) : Out := .next (runLong s a .bset l (bodyBset l))
def bodyBclr (l : Long) : CoreId → M Flow := bodyC .bclr l fun c a b => do setBitM c (← bitNumber l a b) false
def execBclr (a : At) (l : Long) (s : State) : Out := .next (runLong s a .bclr l (bodyBclr l))
def bodyBtest (l : Long) : CoreId → M Flow := bodyC .btest l fun c a b => do
  let n ← bitNumber l a b
  setBitM c 4 ((← getC c).bit n)
def execBtest (a : At) (l : Long) (s : State) : Out := .next (runLong s a .btest l (bodyBtest l))

/-- d, s1, s2 and INV of the bit operations. -/
def bitArgs (l : Long) (a b : Word) (unary : Bool) : M (Nat × Nat × Nat × Bool) := do
  if l.ra != 24 then wantFix a
  wantFix b
  let d := if l.ra == 24 then 0 else valOf a
  if 255 < d then operandFault a
  else if 2 ^ 17 ≤ valOf b || (unary && valOf b / 256 % 256 != 0) then operandFault b
  else return (d, valOf b % 256, valOf b / 256 % 256, bitOf b 16)

def bitOp (l : Long) (unary : Bool) (f : Bool → Bool → Bool) (c : CoreId) (a b : Word) : M Unit := do
  let (d, s1, s2, inv) ← bitArgs l a b unary
  let k ← getC c
  setBitM c d (f (k.bit s1) (k.bit s2) != inv)

def bodyBmov (l : Long) : CoreId → M Flow := bodyC .bmov l (bitOp l true (fun x _ => x))
def execBmov (a : At) (l : Long) (s : State) : Out := .next (runLong s a .bmov l (bodyBmov l))
def bodyBand (l : Long) : CoreId → M Flow := bodyC .band l (bitOp l false (fun x y => x && y))
def execBand (a : At) (l : Long) (s : State) : Out := .next (runLong s a .band l (bodyBand l))
def bodyBor (l : Long) : CoreId → M Flow := bodyC .bor l (bitOp l false (fun x y => x || y))
def execBor (a : At) (l : Long) (s : State) : Out := .next (runLong s a .bor l (bodyBor l))
def bodyBxor (l : Long) : CoreId → M Flow := bodyC .bxor l (bitOp l false (fun x y => x != y))
def execBxor (a : At) (l : Long) (s : State) : Out := .next (runLong s a .bxor l (bodyBxor l))

end Sys2Proof.Machine
end

