-- ==== Sys2Proof/Machine/Control.lean ====
section
/-! DEFINITION. Control, loops, spill and fill, the space switch and the return from an exception
(R92 to R94, R107, R168 to R169, R204 to R206, R231, R232, R269, R270). -/

namespace Sys2Proof.Machine

open Sys2Proof

/-- Control continues at a T.RET: the format comes from the word, the running code object and its instruction area from
the address (log 11). A new format opens the shadow (R169). -/
def continueAt (s : State) (c : CoreId) (w : Word) : State :=
  let k := s.core c
  let held := codeHolding s c (retAddr w)
  s.setCore c { k.setStatus 21 21 (if retFmt w then 1 else 0) with
    pc := retAddr w, codeObj := (match held with | some h => mkWord 0x16 h.1 | none => nil), area := held.map (·.2.2)
    jump := none, onlyB := false, shadow := k.fmt != retFmt w }

/-- Whether a T.RET names an address in the instruction area of a code object of its format (R71, R168). -/
def inFormat (s : State) (c : CoreId) (w : Word) : Bool :=
  match codeHolding s c (retAddr w) with
  | some (_, h, _) => hdrFmt h == retFmt w
  | none => false

/-- A T.RET operand in the current format, in a code object of that format (R168). -/
def jumpTarget (c : CoreId) (w : Word) : M Word := fun s =>
  if tagOf w == 0x30 && addressFormatOk w && retFmt w == (s.core c).fmt && inFormat s c w then .ok (w, s)
  else operandFault w s

/-- The T.RET of a return: its format is that of the code object that holds the address (R168). -/
def returnTarget (c : CoreId) (w : Word) : M Word := fun s =>
  if tagOf w == 0x30 && addressFormatOk w && inFormat s c w then .ok (w, s) else operandFault w s

def continueM (c : CoreId) (w : Word) : M Unit := fun s => .ok ((), continueAt s c w)
def enterM (c : CoreId) (t : Target) : M Unit := fun s => .ok ((), enterCode s c t)

/-- Operand B of form X. -/
def operandX (op : Opcode) (l : Long) (c : CoreId) : M Word := do
  let r ← resolveB c op.modes l 8 0 2
  let b ← readB c .read r.b
  postB c r
  return b

/-! ### Jumps, calls and returns. `len` is the length of the instruction, a PFX included. -/

def bodyJmp (l : Long) (c : CoreId) : M Flow := do
  let w ← atStep 10 (jumpTarget c (← operandX .jmp l c))
  continueM c w
  return .jump
def execJmp (a : At) (l : Long) (s : State) : Out := .next (runLong s a .jmp l (bodyJmp l))

/-- o6, o7 and the entry of a call (R205), after the checks of its rotation. `next` is the address of the next
instruction. -/
def callTo (c : CoreId) (t : Target) (rotate : Bool) (next : Nat) : M Unit := do
  if rotate then wantForward c (some t.entry)
  let k ← getC c
  setRegM c 22 t.closure
  setRegM c 23 (retWord next k.fmt)
  if rotate then modC c rotatedForward
  enterM c t

def callBody (op : Opcode) (l : Long) (rotate : Bool) (len : Nat) (c : CoreId) : M Flow := do
  let b ← operandX op l c
  let t ← atStep 10 (callTarget c b)
  let k ← getC c
  callTo c t rotate (k.pc + len)
  return .jump

def bodyCall (l : Long) (len : Nat) : CoreId → M Flow := callBody .call l true len
def execCall (a : At) (l : Long) (s : State) : Out := .next (runLong s a .call l (bodyCall l (4 * l.parcels)))
def bodyCalln (l : Long) (len : Nat) : CoreId → M Flow := callBody .calln l false len
def execCalln (a : At) (l : Long) (s : State) : Out := .next (runLong s a .calln l (bodyCalln l (4 * l.parcels)))

def bodyRet (l : Long) (c : CoreId) : M Flow := do
  let w ← atStep 10 (returnTarget c (← operandX .ret l c))
  rotateBackward c (some (retAddr w))
  continueM c w
  return .jump
def execRet (a : At) (l : Long) (s : State) : Out := .next (runLong s a .ret l (bodyRet l))

def bodyRetn (l : Long) (c : CoreId) : M Flow := do
  let w ← atStep 10 (returnTarget c (← operandX .retn l c))
  continueM c w
  return .jump
def execRetn (a : At) (l : Long) (s : State) : Out := .next (runLong s a .retn l (bodyRetn l))

/-- RETT executed from a code object is an illegal operation in every state (R92). -/
def bodyRett (l : Long) (_ : CoreId) : M Flow :=
  trapM { cause := .illegalOp, sub := 7, step := 10, detail := l.word .rett }
def execRett (a : At) (l : Long) (s : State) : Out := .next (runLong s a .rett l (bodyRett l))

/-- TRAP: raises the exception with its code. -/
def bodyTrap (l : Long) (c : CoreId) : M Flow := do
  let b ← operandX .trap l c
  if isFix b && valOf b ≤ 255 then trapM { cause := .trap, sub := valOf b, step := 10 }
  else atStep 10 (operandFault b)
def execTrap (a : At) (l : Long) (s : State) : Out := .next (runLong s a .trap l (bodyTrap l))

/-! ### RETE (R231, R232) -/

/-- The first word of the frame that fails a check of the first pass. -/
def frameFault (f : List Word) : Option Word :=
  let w := fun i => f[i]?.getD nil
  let ret := fun i => tagOf (w i) == 0x30 && addressFormatOk (w i)
  let checks : List (Nat × Bool) :=
    [(0, w 0 == 0x310000000000000C#64),
     (1, isFix (w 1) && bitsOf (w 1) 15 0 == 0),
     (2, ret 2), (3, ret 3),
     (4, isFix (w 4) && bitsOf (w 4) 55 44 == 0 && bitsOf (w 4) 31 27 == 0 && bitsOf (w 4) 12 0 == 0),
     (7, isFix (w 7) && bitsOf (w 7) 55 40 == 0),
     (8, isFix (w 8) && bitsOf (w 8) 55 36 == 0),
     (9, tagOf (w 9) == 0x32)]
  (checks.find? (fun x => !x.2)).map (fun x => w x.1)

/-- The resumption (R232). -/
def resume (s : State) (c : CoreId) (f : List Word) : State :=
  let w := fun i => f[i]?.getD nil
  let cause := w 1
  let fpc := w 2
  let npc := w 3
  if bitOf cause 25 then
    if bitOf (w 7) 35 then
      let s1 := continueAt s c npc
      let k := s1.core c
      s1.setCore c (loopTest 5 k (retAddr fpc) k.pc)
    else continueAt s c npc
  else
    let s1 := continueAt s c fpc
    if bitOf (w 4) 19 then s1.modCore c (fun k => { k with jump := some (retAddr npc) })
    else if !retFmt fpc && bitsOf cause 27 26 == 1 then s1.modCore c (fun k => { k with onlyB := true })
    else s1

/-- STATUS after RETE. -/
def restoreStatus (k : Core) (compact lr : Bool) (st : Word) : Core :=
  let k1 := (k.setStatus 43 32 (bitsOf st 43 32)).setStatus 26 24 (bitsOf st 26 24)
  let k2 := if compact then k1.setStatus 16 16 (bitsOf st 16 16) else k1
  if lr then { k2.setStatus 23 22 (bitsOf st 23 22) with lastResort := false } else k2

/-- Where a return from a frame would continue. -/
def resumeAt (f : List Word) : Nat :=
  if bitOf (f[1]?.getD nil) 25 then retAddr (f[3]?.getD nil) else retAddr (f[2]?.getD nil)

/-- RETE: earlier stores are performed (R308), the frame is checked whole, then the window is left and the context is
back. A window trap whose record is still held goes on once STATUS.TW is back (R92, R236). -/
def bodyRete (_ : Long) (c : CoreId) : M Flow := do
  let k ← getC c
  let sp := k.g7
  if tagOf sp != 0x32 then operandFault sp
  else
    drainM c
    let f ← atStep 9 (loadWords c (valOf sp) 12)
    match frameFault f with
    | some x => operandFault x
    | none =>
      let w := fun i => f[i]?.getD nil
      let lr := k.lastResort
      if !lr && (k.cwp + 11) % 12 != bitsOf (w 8) 35 32 then operandFault (w 8)
      else
        if !lr then rotateBackward c (some (resumeAt f))
        modC c (fun k => setGlobal k 7 (w 9))
        fun s =>
          let s1 := s.modCore c (fun k => restoreStatus k s.compact lr (w 4))
          let s2 := if lr then s1.setF .cfgMcstat (leadOf s c).val 61 61 0 else s1
          .ok (.jump, resume s2 c f)
def execRete (a : At) (l : Long) (s : State) : Out := .next (runLong s a .rete l (bodyRete l))

/-! ### Loops (R107, R206) -/

/-- The length of the instruction at an address, from its first parcel (R225); a bundle is 8 bytes. -/
def parcelAt (c : CoreId) (va : Nat) : M Nat := do
  return ofBytes (← loadBytes c va 4 .fetch true)

def parcelLength (p : Nat) : Nat :=
  if p.testBit 31 then (if p.testBit 30 then 8 else 4) else 4 + 4 * modeWords (p / 32 % 16)

def lengthAt (c : CoreId) (va : Nat) : M Nat := do
  let k ← getC c
  if k.fmt then return 8
  else
    let p ← parcelAt c va
    if p / 2 ^ 23 == 0xFE then return 4 + parcelLength (← parcelAt c (va + 4)) else return parcelLength p

/-- A count of LOOP. -/
def loopCount (w : Word) : M Nat := if isFix w && valOf w < 2 ^ 32 then pure (valOf w) else operandFault w

/-- A new level with its body from `first` to `last`. -/
def newLevel (k : Core) (first last count : Nat) : Core :=
  let n := k.ld
  ({ k with ls := Tbl.putD k.ls ret0 n (retWord first k.fmt)
            le := Tbl.putD k.le ret0 n (retWord last k.fmt)
            lc := Tbl.putD k.lc (fixN 0) n (fixN (k.cwp * 2 ^ 32 + count)) }).setStatus 26 24 (n + 1)

/-- Whether an address lies in the instruction area of the running code object. -/
def inCode (s : State) (c : CoreId) (va : Nat) : Bool :=
  match (s.core c).area with
  | some (a, n) => a ≤ va && va < a + n
  | none => false

/-- LOOP and BR.LOOP: set up a level, or skip the body for a count of 0. -/
def loopSetup (c : CoreId) (first last count : Nat) : M Flow := do
  let k ← getC c
  if count = 0 then
    let n ← lengthAt c last
    return .skip (last + n)
  else if k.ld = 4 then simpleFault .loopDepth 10
  else
    modC c (fun k => newLevel k first last count)
    return .seq

def bodyLoop (l : Long) (len : Nat) (c : CoreId) : M Flow := do
  let r ← resolveB c Opcode.loop.modes l 8 0 2
  let b ← readB c .read r.b
  let a ← regM c l.ra.toNat
  let k ← getC c
  let first := k.pc + len
  atStep 10 do
    let n ← loopCount a
    wantFix b
    if fixVal b < 0 || fixVal b % 4 != 0 then operandFault b
    else
      let ok ← (fun s => .ok (inCode s c (first + valOf b), s) : M Bool)
      if !ok then operandFault b else loopSetup c first (first + valOf b) n
def execLoop (a : At) (l : Long) (s : State) : Out := .next (runLong s a .loop l (bodyLoop l (4 * l.parcels)))

/-- LOOPX: the innermost level ends. -/
def endLevel (k : Core) : Core :=
  let n := k.ld - 1
  { k with lc := Tbl.putD k.lc (fixN 0) n (withBits (k.lcN n) 31 0 0) }.setStatus 26 24 n

def bodyLoopx (l : Long) (c : CoreId) : M Flow := do
  let b ← operandX .loopx l c
  let k ← getC c
  if k.ld = 0 then simpleFault .loopDepth 10
  else
    let w ← atStep 10 (jumpTarget c b)
    modC c endLevel
    continueM c w
    return .jump
def execLoopx (a : At) (l : Long) (s : State) : Out := .next (runLong s a .loopx l (bodyLoopx l))

/-! ### SPILLW, FILLW and SPACE -/

/-- Outside the trap window a double fault of reason 6; inside it the step of the window trap (R94). -/
def windowStep (c : CoreId) (overflow : Bool) : M Flow := do
  let k ← getC c
  if !k.tw then stopM (.doubleFault 6 { cause := .doubleFault })
  else fun s => match (if overflow then spill c else fill c) s with
    | .ok (_, s1) => .ok (.seq, s1)
    | .error (.trap t) => .error (.doubleFault 1 t)
    | .error x => .error x

def bodySpillw (_ : Long) (c : CoreId) : M Flow := windowStep c true
def execSpillw (a : At) (l : Long) (s : State) : Out := .next (runLong s a .spillw l (bodySpillw l))
def bodyFillw (_ : Long) (c : CoreId) : M Flow := windowStep c false
def execFillw (a : At) (l : Long) (s : State) : Out := .next (runLong s a .fillw l (bodyFillw l))

/-- The instruction area of the running code object as the present space maps it (R71, R270). -/
def rearea (s : State) (c : CoreId) : State :=
  s.modCore c (fun k => { k with area := if tagOf k.codeObj == 0x16 then codeArea s c (valOf k.codeObj) else none })

/-- SPACE: earlier accesses complete, then the core runs in the new space; its next fetch is checked there. -/
def bodySpace (l : Long) : CoreId → M Flow := bodyU .space l fun c b => do
  if isFix b && valOf b < 4096 then
    drainM c
    let k ← getC c
    modC c (fun k => k.setStatus 43 32 (valOf b))
    fun s => .ok (fixN k.space, rearea s c)
  else operandFault b
def execSpace (a : At) (l : Long) (s : State) : Out := .next (runLong s a .space l (bodySpace l))

end Sys2Proof.Machine
end

