-- ==== Sys2Proof/Machine/Context.lean ====
section
/-! DEFINITION. Saving and restoring the context (R98 to R104). -/

namespace Sys2Proof.Machine

open Sys2Proof

/-- A save area: its T.INSTANCE, header checked, IMM clear (R98). -/
def saveArea (c : CoreId) (w : Word) (store : Bool) : M Obj := do
  if tagOf w != 0x14 then operandFault w
  else
    let w ← healM c w
    let o ← openObject c w 10
    let h := o.hdr.getD 0
    if tagOf h != 0x20 || hdrClass h != 0xA || hdrLength h != 63 then
      trapM { wordTrap .wordFormat w 10 5 with faddr := fixN o.addr }
    else if hdrImm h then
      if store then trapM { cause := .immutableWrite, step := 10, access := Acc.write.code, faddr := fixN o.addr }
      else trapM { wordTrap .wordFormat w 10 5 with faddr := fixN o.addr }
    else return o

/-- Object-slot stores of words from slot i, each through the load barrier (R101, R341). -/
def storeSlots (c : CoreId) (o : Obj) : Nat → List Word → M Unit
  | _, [] => return ()
  | i, w :: ws => do
    let h ← healM c w
    atStep 11 (storeWord c (o.slotAddr i) h)
    storeSlots c o (i + 1) ws

/-- The T.INSTANCE of the next area (R98). -/
def nextArea (c : CoreId) (o : Obj) : M Word := do
  let w ← atStep 10 (loadWord c (o.slotAddr 0) .read)
  if isNil w then simpleFault .saveChain 10 else return w

/-- Register n of the current window: the trap window while STATUS.TW is 1 (R85). -/
def windowReg (k : Core) (n : Nat) : Word :=
  if k.tw then Tbl.getD k.trapw unbound n else Tbl.getD k.reel unbound (Core.reelKey k.cwp n)

/-- Whether a group of the Reel belongs to the current window; none does while that is the trap window. -/
def inWindow (k : Core) (g : Nat) : Bool :=
  !k.tw && (g == Core.insGroup k.cwp || g == Core.localsGroup k.cwp || g == Core.outsGroup k.cwp)

/-- b0 to b255 as five T.FIX words. -/
def bitWords (k : Core) : List Word := (List.range 5).map (fun i => fixN (k.bits.toNat / 2 ^ (56 * i) % 2 ^ 56))

/-- Slots 1 to 62 of the lower area (R99). -/
def lowerWords (k : Core) : List Word :=
  [fixN (2 ^ 48 + bitsOf k.cwpWord 35 0)] ++ (List.range 8).map (fun i => k.getReg (24 + i)) ++ [k.status]
    ++ bitWords k ++ (List.range 4).map k.lsN ++ (List.range 4).map k.leN ++ (List.range 4).map k.lcN
    ++ (List.range 24).map (windowReg k) ++ List.replicate 11 nil

/-- The three groups of the current window are voided. -/
def voidWindow (k : Core) : Core :=
  if k.tw then k.voidTrap else ((k.voidGroup (Core.insGroup k.cwp)).voidGroup (Core.localsGroup k.cwp)).voidGroup (Core.outsGroup k.cwp)

/-- A context operation: B through its mode, then its work. -/
def contextOp (op : Opcode) (l : Long) (f : CoreId → Word → M Unit) (c : CoreId) : M Flow := do
  let r ← resolveB c op.modes l 8 0 2
  let b ← readB c .read r.b
  f c b
  postB c r
  return .seq

def bodySavelo (l : Long) : CoreId → M Flow := contextOp .savelo l fun c b => do
  let o ← saveArea c b true
  let k ← getC c
  storeSlots c o 1 (lowerWords k)
  drainM c
  modC c voidWindow
def execSavelo (a : At) (l : Long) (s : State) : Out := .next (runLong s a .savelo l (bodySavelo l))

/-- The dirty groups outside the current window, rising (R100). -/
def upperGroups (k : Core) : List Nat :=
  (List.range 24).filter (fun g => k.dirty g && !inWindow k g)

def groupWords (k : Core) (g : Nat) : List Word := (List.range 8).map (fun i => Tbl.getD k.reel unbound (8 * g + i))

def idsOf : Nat → List Nat → Nat
  | _, [] => 0
  | p, g :: gs => g * 2 ^ (5 * p) + idsOf (p + 1) gs

/-- Slots 1 to 62 of an upper area. -/
def upperWords (k : Core) (seq : Nat) (last : Bool) (gs : List Nat) : List Word :=
  let d := fixN (2 * 2 ^ 48 + seq * 2 ^ 40 + (if last then 2 ^ 39 else 0) + gs.length * 2 ^ 36 + idsOf 0 gs)
  let body := (gs.map (groupWords k)).flatten
  [d] ++ body ++ List.replicate (61 - body.length) nil

/-- Store the groups, seven to an area; fuel counts areas. -/
def saveUpper (c : CoreId) (k : Core) : Nat → Nat → List Nat → Word → M Unit
  | 0, _, _, _ => return ()
  | f + 1, seq, gs, w => do
    let o ← saveArea c w true
    let last := gs.length ≤ 7
    storeSlots c o 1 (upperWords k seq last (gs.take 7))
    if !last then
      let w2 ← nextArea c o
      saveUpper c k f (seq + 1) (gs.drop 7) w2

def bodySavehi (l : Long) : CoreId → M Flow := contextOp .savehi l fun c b => do
  let k ← getC c
  let gs := upperGroups k
  saveUpper c k 4 0 gs b
  drainM c
  modC c (fun k => gs.foldl Core.voidGroup k)
def execSavehi (a : At) (l : Long) (s : State) : Out := .next (runLong s a .savehi l (bodySavehi l))

/-! ### Restoring -/

/-- The words of n slots from slot i: only what a restore needs is read (R102). -/
def areaWords (c : CoreId) (o : Obj) (i n : Nat) : M (List Word) := atStep 10 (loadWords c (o.slotAddr i) n)

/-- A fault in the second pass tears the context: a machine check of kind 0x04 (R102, R244). -/
def secondPass (a : At) : M Unit := if a.upset == .secondPass then stopM (.machineCheck 4 0) else return ()

def reservedArea {α : Type} (op : Opcode) (l : Long) : M α := reservedField op l

/-- The tag rules of the lower area: T.FIX and T.RET words where R99 stores them; `i` is the slot. -/
def lowerWordOk (i : Nat) (w : Word) : Bool :=
  if i == 1 || (10 ≤ i && i ≤ 14) then isFix w
  else if i == 15 then isFix w && bitsOf w 55 32 == 0
  else if 16 ≤ i && i ≤ 23 then tagOf w == 0x30
  else if 24 ≤ i && i ≤ 27 then isFix w && bitsOf w 55 36 == 0
  else true

/-- The first word, from slot i on, that breaks them. -/
def lowerBadWord : Nat → List Word → Option Word
  | _, [] => none
  | i, w :: ws => if lowerWordOk i w then lowerBadWord (i + 1) ws else some w

/-- The descriptor of a lower area (R102). R99 fixes SEQ and bits [39:36] at 0; R102 names a check of SEQ for RESTHI
alone: the model counts both among the reserved bits (DESIGN CHOICE, log 48). -/
def lowerDescOk (d : Word) : Bool :=
  let cwp := bitsOf d 35 32
  let bottom := bitsOf d 31 28
  let res := bitsOf d 27 24
  bitsOf d 55 48 == 1 && bitsOf d 47 36 == 0 && cwp ≤ 11 && bottom ≤ 11 && res ≤ 11
    && res == (cwp + 12 - bottom) % 12 + 1

def restoreRegs (k : Core) (key : Nat → Nat) : Nat → List Word → Core
  | _, [] => k
  | n, x :: xs => restoreRegs { k with reel := Tbl.put k.reel (key n) x } key (n + 1) xs

def restoreTrap (k : Core) : Nat → List Word → Core
  | _, [] => k
  | n, x :: xs => restoreTrap { k with trapw := Tbl.put k.trapw n x } (n + 1) xs

def restoreGlobals (k : Core) : Nat → List Word → Core
  | _, [] => k
  | n, x :: xs => restoreGlobals (k.setReg n x) (n + 1) xs

def bitsOfWords (ws : List Word) : BitVec 256 :=
  BitVec.ofNat 256 (ws.foldr (fun w acc => valOf w + 2 ^ 56 * acc) 0)

/-- A loop-register file from four words. -/
def tblOf4 (d : Word) : Nat → List Word → Tbl Word
  | _, [] => []
  | n, x :: xs => if x = d then tblOf4 d (n + 1) xs else (n, x) :: tblOf4 d (n + 1) xs

/-- The second pass of RESTLO. While STATUS.TW is 1 the current window is the trap window (R85). A saved LD above 4 is
restored as it stands: the manual gives no check of it (DESIGN CHOICE, log 48). -/
def restoreLower (k : Core) (compact : Bool) (ws : List Word) : Core :=
  let w := fun i => ws[i - 1]?.getD nil
  let run := fun (i n : Nat) => (ws.drop (i - 1)).take n
  let d := w 1
  let st := w 10
  let k0 := { k.voidReel.voidTrap with cwp := bitsOf d 35 32, bottom := bitsOf d 31 28, resident := bitsOf d 27 24 }
  let k1 := if k0.tw then restoreTrap k0 0 (run 28 24) else restoreRegs k0 (Core.reelKey k0.cwp) 0 (run 28 24)
  let k2 := { restoreGlobals k1 25 (run 3 7) with
    bits := bitsOfWords (run 11 5)
    ls := tblOf4 ret0 0 (run 16 4)
    le := tblOf4 ret0 0 (run 20 4)
    lc := tblOf4 (fixN 0) 0 (run 24 4) }
  let k3 := (k2.setStatus 43 32 (bitsOf st 43 32)).setStatus 26 24 (bitsOf st 26 24)
  let k4 := k3.setStatus 20 18 (bitsOf st 20 18)
  if compact then k4.setStatus 16 16 (bitsOf st 16 16) else k4

/-- RESTLO: the slots of R99 but for that of g0, which is not loaded. -/
def bodyRestlo (a : At) (l : Long) : CoreId → M Flow := contextOp .restlo l fun c b => do
  let o ← saveArea c b false
  let d ← areaWords c o 1 1
  let rest ← areaWords c o 3 49
  let ws := d ++ [nil] ++ rest
  match lowerBadWord 1 ws with
  | some w => atStep 10 (operandFault w)
  | none =>
    if !lowerDescOk (d[0]?.getD nil) then reservedArea .restlo l
    else
      secondPass a
      fun s => .ok ((), s.modCore c (fun k => restoreLower k s.compact ws))
def execRestlo (a : At) (l : Long) (s : State) : Out := .next (runLong s a .restlo l (bodyRestlo a l))

def upperIds (d : Word) : List Nat := (List.range (bitsOf d 38 36)).map (fun p => bitsOf d (5 * p + 4) (5 * p))

/-- An upper descriptor at a position, after the groups already listed (R102). -/
def upperDescOk (k : Core) (seq : Nat) (seen : List Nat) (d : Word) : Bool :=
  let n := bitsOf d 38 36
  let ids := upperIds d
  let last := bitOf d 39
  bitsOf d 55 48 == 2 && !bitOf d 35 && bitsOf d 47 40 == seq && (n != 0 || (seq == 0 && last))
    && ids.all (fun g => g ≤ 23 && !inWindow k g)
    && decide ((seen ++ ids).Nodup) && bitsOf d 34 0 / 2 ^ (5 * n) == 0

/-- The first pass of RESTHI: groups with their words; fuel counts areas. -/
def readUpper (c : CoreId) (l : Long) (k : Core) : Nat → Nat → List Nat → Word → M (List (Nat × List Word))
  | 0, _, _, _ => reservedArea .resthi l
  | f + 1, seq, seen, w => do
    let o ← saveArea c w false
    let d := (← areaWords c o 1 1)[0]?.getD nil
    if !isFix d then atStep 10 (operandFault d)
    else if !upperDescOk k seq seen d then reservedArea .resthi l
    else
      let ids := upperIds d
      let ws ← areaWords c o 2 (8 * ids.length)
      let here := (List.range ids.length).map (fun p => (ids[p]?.getD 0, (ws.drop (8 * p)).take 8))
      if bitOf d 39 then return here
      else
        let w2 ← nextArea c o
        let more ← readUpper c l k f (seq + 1) (seen ++ ids) w2
        return here ++ more

def bodyResthi (a : At) (l : Long) : CoreId → M Flow := contextOp .resthi l fun c b => do
  let k ← getC c
  let gs ← readUpper c l k 25 0 [] b
  secondPass a
  modC c (fun k => gs.foldl (fun k g => restoreRegs k (fun n => 8 * g.1 + n) 0 g.2) k)
def execResthi (a : At) (l : Long) (s : State) : Out := .next (runLong s a .resthi l (bodyResthi a l))

end Sys2Proof.Machine
end

