-- ==== Sys2Proof/Machine/Sync.lean ====
section
/-! DEFINITION. Synchronisation and events of a core (R207 to R211, R243). -/

namespace Sys2Proof.Machine

open Sys2Proof

/-- FENCE: every earlier request completes (R207, R308). -/
def bodyFence (_ : Long) (c : CoreId) : M Flow := do
  drainM c
  return .seq
def execFence (a : At) (l : Long) (s : State) : Out := .next (runLong s a .fence l (bodyFence l))

/-! ### Barriers (R208, R209) -/

/-- Whether a core takes part in barrier n: bits of checkers are ignored. -/
def participant (s : State) (n : Nat) (c : CoreId) : Bool :=
  leadOf s c == c && (if c.val < 64 then s.flag .cfgBarLo n c.val else s.flag .cfgBarHi n (c.val - 64))

def allCores : List CoreId := List.finRange 96

def participants (s : State) (n : Nat) : List CoreId := allCores.filter (participant s n)

/-- The core whose bit stands for a core. -/
def barCore (s : State) (c : CoreId) : CoreId := leadOf s c

/-- BARRIER of `len` bytes: a FENCE, then the arrival; it waits unless its episode has been released. -/
def bodyBarrier (l : Long) (len : Nat) (c : CoreId) : M Flow := do
  let r ← resolveB c Opcode.barrier.modes l 8 0 2
  let b ← readB c .read r.b
  let a ← regM c l.ra.toNat
  let n ← atStep 10 (sumOperand l a b)
  if n < 0 || 15 < n then atStep 10 (operandFault b)
  else
    drainM c
    let i := n.toNat
    let inIt ← (fun s => .ok (participant s i (barCore s c), s) : M Bool)
    let k ← getC c
    if !inIt then
      modC c (fun k => { k.setBit 4 false with bars := Tbl.del k.bars i })
      return .seq
    else if Tbl.get? k.bars i == some true then
      modC c (fun k => { k.setBit 4 true with bars := Tbl.del k.bars i })
      return .seq
    else
      modC c (fun k => { k with bars := Tbl.put k.bars i false, mode := .barrier i len })
      return .stay
def execBarrier (a : At) (l : Long) (s : State) : Out :=
  .next (runLong s a .barrier l (bodyBarrier l (4 * l.parcels)))

/-- Whether the open episode of a barrier has an arrival of a core. -/
def arrived (s : State) (n : Nat) (c : CoreId) : Bool := Tbl.get? (s.core c).bars n == some false

/-- The mode of a core, or the one that a core in a patch drain goes back to (R261). -/
def Core.under (k : Core) : CoreMode := match k.patch with | some (.ending _ _ _ back) => back | _ => k.mode
def Core.setUnder (k : Core) (m : CoreMode) : Core :=
  match k.patch with
  | some (.ending r odd load _) => { k with patch := some (.ending r odd load m) }
  | _ => { k with mode := m }

/-- The end of BARRIER in a core that waits in it. -/
def leaveBarrier (k : Core) (n : Nat) (f4 : Bool) : Core :=
  match k.under with
  | .barrier m len =>
    if m = n then complete ({ k.setBit 4 f4 with bars := Tbl.del k.bars n }.setUnder .running) k.pc len .seq else k
  | _ => k

/-- The episode of barrier n is released: waiting cores complete with f4 1, a core that an interrupt took out of
its BARRIER completes when it executes it again. -/
def releaseBarrier (s : State) (n : Nat) : State :=
  (participants s n).foldl (fun x p => (partners s p).foldl (fun x c => x.modCore c fun k =>
    match k.under with
    | .barrier m _ => if m = n then leaveBarrier k n true else { k with bars := Tbl.put k.bars n true }
    | _ => { k with bars := Tbl.put k.bars n true }) x) s

/-- Every participant has arrived. -/
def allArrived (s : State) (n : Nat) : Bool :=
  !(participants s n).isEmpty && (participants s n).all (arrived s n)

/-- A change of the participant set (R209): a core removed while it waits completes with f4 0, and its arrival
no longer counts. -/
def recheckBarrier (s : State) (n : Nat) : State :=
  allCores.foldl (fun x c =>
    if (Tbl.get? (x.core c).bars n).isSome && !participant x n (barCore x c) then
      x.modCore c (fun k => match k.under with
        | .barrier m _ => if m = n then leaveBarrier k n false else { k with bars := Tbl.del k.bars n }
        | _ => { k with bars := Tbl.del k.bars n })
    else x) s

/-! ### WAIT (R210) -/

def anyPending (k : Core) : Bool := k.pend.any (fun e => e.2 != 0)

/-- What ends WAIT: a bit that would be taken, or any bit where IM or an open window holds interrupts off. -/
def waitEnds (s : State) (c : CoreId) (k : Core) : Bool :=
  takesFast s c k || takesNormal s k || ((if s.compact then k.im else k.niw) && anyPending k)

def bodyWait (_ : Long) (c : CoreId) : M Flow := do
  let k ← getC c
  let ends ← (fun s => .ok (waitEnds s c k, s) : M Bool)
  if k.tw || k.fb || ends then return .seq
  else
    modC c (fun k => { k with mode := .waiting })
    return .seq
def execWait (a : At) (l : Long) (s : State) : Out := .next (runLong s a .wait l (bodyWait l))

/-- WAIT_WAKE. -/
def execWaitWake (c : CoreId) (s : State) : Out := .next (
  match sourceCore s c with
  | none => s
  | some c =>
    let k := s.core c
    if k.mode == .waiting && waitEnds s c k then mirror (s.modCore c (fun k => { k with mode := .running })) c else s)

/-! ### Ends of classes and windows (R211, R240, R243) -/

def eoiOrder : M Flow := simpleFault .eoiOrder 10

def bodyEoin (_ : Long) (c : CoreId) : M Flow := do
  let k ← getC c
  if k.cstk = 1 then
    drainM c
    modC c (fun k => k.setStatus 15 14 0)
    return .seq
  else eoiOrder
def execEoin (a : At) (l : Long) (s : State) : Out := .next (runLong s a .eoin l (bodyEoin l))

/-- EOIF: earlier stores are performed (R308), then the interrupted code continues (R240). -/
def bodyEoif (_ : Long) (c : CoreId) : M Flow := do
  if (← getC c).cstk < 2 then eoiOrder
  else
    drainM c
    let k ← getC c
    match k.fastRet with
    | none =>
      modC c (fun k => (k.setStatus 15 14 (k.cstk % 2)).setStatus 22 22 0)
      return .seq
    | some f =>
      fun s =>
        let k1 := { (k.setStatus 15 14 (k.cstk % 2)).setStatus 22 22 0 with fastRet := none }
        let k2 := if s.compact then k1.setStatus 16 16 (if f.im then 1 else 0) else k1
        .ok (.jump, continueAt (s.setCore c k2) c (retWord f.pc f.fmt))
def execEoif (a : At) (l : Long) (s : State) : Out := .next (runLong s a .eoif l (bodyEoif l))

def bodyNiwopen (l : Long) (c : CoreId) : M Flow := do
  let k ← getC c
  fun s =>
    if s.compact || k.niw then .error (.trap { cause := .illegalOp, sub := 6, step := 10, detail := l.word .niwopen })
    else .ok (.seq, s.setCore c { k.setStatus 17 17 1 with niwTicks := true })
def execNiwopen (a : At) (l : Long) (s : State) : Out := .next (runLong s a .niwopen l (bodyNiwopen l))

def bodyNiwclose (_ : Long) (c : CoreId) : M Flow := do
  modC c (fun k => { k.setStatus 17 17 0 with niwTicks := false })
  return .seq
def execNiwclose (a : At) (l : Long) (s : State) : Out := .next (runLong s a .niwclose l (bodyNiwclose l))

/-- NIW_LIMIT_EXPIRY: the window ends at its limit. -/
def execNiwLimitExpiry (c : CoreId) (s : State) : Out := .next (
  match sourceCore s c with
  | none => s
  | some c =>
    let k := s.core c
    if k.niwTicks then mirror (s.setCore c { k.setStatus 18 17 2 with niwTicks := false }) c else s)

end Sys2Proof.Machine
end

