-- ==== Sys2Proof/Machine/Mailbox.lean ====
section
/-! DEFINITION. Mailboxes (R212 to R215): the append of every producer, the take of a device consumer, and
CRGPOST. -/

namespace Sys2Proof.Machine

open Sys2Proof

/-- What an append meets (R213): beside the three outcomes of the rule, a write that R57 refuses, and an access that
fails, in memory or in translation. -/
inductive Post where
  | posted | full | malformed | forged
  | failed (memory : Bool)
  deriving DecidableEq, Repr

def isCount32 (w : Word) : Bool := isFix w && valOf w < 2 ^ 32

/-- The check of R212 and R213 on LENGTH, SIZE, TAIL and HEAD: the slot that the message takes. -/
def mailboxSlot (len : Nat) (size tail head : Word) : Except Post Nat :=
  let n := valOf size
  let used := (valOf tail + 2 ^ 32 - valOf head) % 2 ^ 32
  if !(isFix size && 5 ≤ len && n == len - 5 && isPow2UpTo n 20 && isCount32 tail && isCount32 head && used ≤ n) then
    .error .malformed
  else if used == n then .error .full
  else .ok (5 + valOf tail % n)

def nextCount (w : Word) : Word := fixN ((valOf w + 1) % 2 ^ 32)

/-- SOURCE is raised when it holds a T.FIX (R213). -/
def raiseSource (s : State) (src : Word) : State := if isFix src then pulse s (valOf src) else s

/-! ### Producers other than cores -/

/-- A word of a space as a device of class `cls` reads it (R276, R81, R254). -/
def spaceWord (s : State) (cls space va : Nat) : Option Word := (masterWord s space cls va).map (readWord s)

/-- A device's read of a word that fails: poison that it met is logged at its block (R79). -/
def readFails {α : Type} (s : State) (cls space va : Nat) : Except (Post × State) α :=
  match mapWord s cls space va with
  | none => .error (.failed false, s)
  | some pa => .error (.failed true, consumeSpan s pa 8)

/-- A word read by a device, or what its failure leaves. -/
def deviceWord (s : State) (cls space va : Nat) : Except (Post × State) Word :=
  match spaceWord s cls space va with
  | some w => .ok w
  | none => readFails s cls space va

/-- The mailbox object at an address, reached through the load barrier: its address and LENGTH. -/
def mailboxAt (s : State) (cls space va : Nat) : Except (Post × State) (Nat × Nat) := do
  let w := healMoved s (mkWord 0x14 va)
  if !addressFormatOk w then .error (.malformed, s)
  else
    let h ← deviceWord s cls space (valOf w)
    if tagOf h == 0x20 && hdrClass h == 8 && !headerMalformed h then .ok (valOf w, hdrLength h)
    else .error (.malformed, s)

/-- A device's write of one word in a mailbox. -/
def deviceWrite (s : State) (space cls va : Nat) (w : Word) : Except (Post × State) State :=
  match masterWrite s space cls true va (bytesOfWord w) with
  | .ok s1 => .ok s1
  | .error s1 => .error (.failed (mapWord s cls space va).isSome, s1)

/-- The steps of an append (R213): the checks, R57 for the message, then the message and TAIL. -/
def appendSteps (s : State) (space cls va : Nat) (msg : Word) : Except (Post × State) State := do
  let (a, len) ← mailboxAt s cls space va
  let size ← deviceWord s cls space (a + 8)
  let tail ← deviceWord s cls space (a + 16)
  let head ← deviceWord s cls space (a + 24)
  let src ← deviceWord s cls space (a + 32)
  match mailboxSlot len size tail head with
  | .error p => .error (p, s)
  | .ok i =>
    let old ← deviceWord s cls space (a + 8 * (i + 1))
    if !mayOverwrite old msg then .error (.forged, s)
    else
      let s1 ← deviceWrite (logAtEngine s old) space cls (a + 8 * (i + 1)) msg
      let s2 ← deviceWrite s1 space cls (a + 16) (nextCount tail)
      .ok (raiseSource s2 src)

/-- The append of a device producer (R213): class `cls` names it to the deep caches. -/
def appendMailbox (s : State) (space cls va : Nat) (msg : Word) : State × Post :=
  match appendSteps (touchEdge s cls space va 40) space cls va msg with
  | .ok s1 => (s1, .posted)
  | .error (p, s1) => (s1, p)

/-- The append through a register with VALID and ADDR (R460, R475 and others), in MOR_CTL.SPACE. -/
def appendReg (s : State) (r : RegName) (i cls : Nat) (msg : Word) : State × Post :=
  appendMailbox s (heapSpace s) cls (s.fld r i 46 4 * 16) msg

/-- The steps of a device consumer that takes the oldest message (R214). -/
def takeSteps (s : State) (space cls va : Nat) : Except (Post × State) (Word × State) := do
  let (a, len) ← mailboxAt s cls space va
  let size ← deviceWord s cls space (a + 8)
  let tail ← deviceWord s cls space (a + 16)
  let head ← deviceWord s cls space (a + 24)
  match mailboxSlot len size tail head with
  | .error .malformed => .error (.malformed, s)
  | _ =>
    if tail == head then .error (.malformed, s)
    else
      let msg ← deviceWord s cls space (a + 8 * (6 + valOf head % valOf size))
      let s1 ← deviceWrite s space cls (a + 24) (nextCount head)
      .ok (msg, s1)

def takeMessage (s : State) (space cls va : Nat) : Option (Word × State) :=
  match takeSteps (touchEdge s cls space va 40) space cls va with
  | .ok r => some r
  | .error _ => none

/-- What a consumer that found no message leaves: poison that it met is logged (R79). -/
def missedMessage (s : State) (space cls va : Nat) : State :=
  match takeSteps (touchEdge s cls space va 40) space cls va with
  | .error (.failed true, s1) => s1
  | _ => s

/-! ### CRGPOST (R215) -/

/-- The append of a core: the result code of RD. The counts are read as they stand: a word that is no count makes the
mailbox malformed. Only a message that would be written can be refused under R57. -/
def postFromCore (c : CoreId) (o : Obj) (msg : Word) : M Nat := do
  drainM c
  let size ← atStep 10 (loadRaw c (o.slotAddr 0) .atomic)
  let tail ← atStep 10 (loadRaw c (o.slotAddr 1) .atomic)
  let head ← atStep 10 (loadRaw c (o.slotAddr 2) .atomic)
  let src ← atStep 10 (loadRaw c (o.slotAddr 3) .atomic)
  match mailboxSlot o.bound size tail head with
  | .error .full => return 1
  | .error _ => return 2
  | .ok i =>
    if o.imm then immutableFault .atomic (o.slotAddr i)
    else
      let old ← atStep 11 (loadRaw c (o.slotAddr i) .atomic)
      if !mayOverwrite old msg then trapM { wordTrap .tagForge msg 11 4 with faddr := fixN (o.slotAddr i) }
      else
        atStep 11 (atomicWrite c (o.slotAddr i) (bytesOfWord msg) true)
        atStep 11 (atomicWrite c (o.slotAddr 1) (bytesOfWord (nextCount tail)) true)
        fun s => .ok (0, raiseSource s src)

def bodyCrgpost (l : Long) : CoreId → M Flow := bodyR .crgpost l fun c _ b => do
  if tagOf b != 0x14 then operandFault b
  else
    let o ← openObject c (← healB c l b) 10
    let h := o.hdr.getD 0
    if tagOf h != 0x20 || hdrClass h != 8 then operandFault b
    else
      let r ← postFromCore c o (← healRegM c l.ra.toNat)
      setBitM c 0 (r == 0)
      return fixN r
def execCrgpost (a : At) (l : Long) (s : State) : Out := .next (runLong s a .crgpost l (bodyCrgpost l))

end Sys2Proof.Machine
end

