-- ==== Sys2Proof/Machine/CirqueOps.lean ====
section
/-! DEFINITION. Cirque tables: the layout of a new table, hashing, and CQLOOK, CQINS, CQDEL
(R216, R352 to R360). -/

namespace Sys2Proof.Machine

open Sys2Proof

/-! ### Layout (R352, R353) -/

def tableSlots (seed k : Nat) : List Word :=
  let bucket := [fixN 0] ++ List.replicate 7 nil
  [fixN (seed * 256 + k), fixN 0, nil, fixN 0, nil, nil, nil] ++ (List.replicate (2 ^ k) bucket).flatten

def ctrlOk (w : Word) : Bool := isFix w && bitsOf w 55 52 == 0
def ovhead (w : Word) : Nat := bitsOf w 51 34
def usedBit (w : Word) (i : Nat) : Bool := bitOf w (32 + i)
def fpOf (w : Word) (i : Nat) : Nat := bitsOf w (16 * i + 15) (16 * i)

/-- Slots of bucket b. -/
def ctrlSlot (b : Nat) : Nat := 7 + 8 * b
def keySlot (b i : Nat) : Nat := if i = 0 then 9 + 8 * b else 11 + 8 * b
def valueSlot (b i : Nat) : Nat := if i = 0 then 8 + 8 * b else 13 + 8 * b

/-! ### Hashing (R357) -/

def hashWord (c : CoreId) (w : Word) : M Word := do
  let t := tagOf w
  if 0x11 ≤ t && t ≤ 0x19 then
    let h ← identityHash c w
    return BitVec.ofNat 64 (t * 2 ^ 56) ||| h
  else return w

def cirqueHash (c : CoreId) (seed : Nat) (k0 k1 : Word) : M Nat := do
  let x ← hashWord c k0
  let y ← hashWord c k1
  return (crc32c (BitVec.ofNat 32 seed) (bytesOfWord x ++ bytesOfWord y)).toNat

def badKey (w : Word) : Bool :=
  let t := tagOf w
  t == 0x10 || t == 0x1A || isHeaderTag t || t == 0x2E || t == 0x3F

/-! ### The table as an operation finds it -/

structure Cq where
  obj : Obj
  k : Nat
  seed : Nat
  deriving DecidableEq, Repr

def slotW (c : CoreId) (o : Obj) (i : Nat) : M Word := atStep 10 (loadWord c (o.slotAddr i) .read)

/-- A write of the unit: R57 holds for it as for a value (R357), with TAG_FORGE (DEDUCED, log 8). -/
def putSlot (c : CoreId) (o : Obj) (i : Nat) (w : Word) : M Unit := atStep 11 do
  let old ← loadRaw c (o.slotAddr i) .atomic
  if !mayOverwrite old w then trapM { wordTrap .tagForge w 11 4 with faddr := fixN (o.slotAddr i) }
  else atomicWrite c (o.slotAddr i) (bytesOfWord w) true

/-- RA as a table (R216, R352). -/
def openTable (c : CoreId) (n : Nat) : M Cq := do
  let w ← regM c n
  if tagOf w != 0x14 then operandFault w
  else
    let w ← healRegM c n
    let o ← openObject c w 10
    let h := o.hdr.getD 0
    if tagOf h != 0x20 || hdrClass h != 9 then operandFault w
    else
      let shape ← slotW c o 0
      let k := bitsOf shape 4 0
      if !isFix shape || bitsOf shape 55 40 != 0 || bitsOf shape 7 5 != 0 || k < 4 || 16 < k || o.bound != 7 + 8 * 2 ^ k then
        operandFault shape
      else return ⟨o, k, bitsOf shape 39 8⟩

/-- The key of operand B: one granule (R216). -/
def cirqueKey (c : CoreId) (l : Long) (b : Word) : M (Word × Word) := do
  let key ← (if tagOf b == 0x10 then do
      let o ← openObject c (← healB c l b) 10
      let x ← atStep 10 (loadWord c (o.slotAddr 0) .read)
      let y ← atStep 10 (loadWord c (o.slotAddr 1) .read)
      pure (x, y)
    else do
      let w ← healB c l b
      pure (w, nil) : M (Word × Word))
  if badKey key.1 then operandFault key.1
  else if badKey key.2 then operandFault key.2
  else return key

/-- Whether entry i of bucket b matches. -/
def bucketMatches (c : CoreId) (o : Obj) (ctrl : Word) (b fp i : Nat) (k0 k1 : Word) : M Bool := do
  if !usedBit ctrl i || fpOf ctrl i != fp then return false
  else
    let x ← slotW c o (keySlot b i)
    let y ← slotW c o (keySlot b i + 1)
    return x == k0 && y == k1

/-- Where a key is. -/
inductive Found where
  | bucket (i : Nat)
  | chain (j : Nat) (before : Option Nat)
  | absent
  deriving DecidableEq, Repr

def ovSlot (j i : Nat) : Nat := 1 + 4 * j + i

/-- The overflow vector (R354), or none. -/
def openOverflow (c : CoreId) (o : Obj) : M (Option Obj) := do
  let w ← slotW c o 2
  if isNil w then return none
  else if tagOf w != 0x11 then operandFault w
  else
    let v ← openObject c w 10
    if v.bound % 4 != 1 then operandFault w else return some v

def linkOf (v : Obj) (w : Word) : M Nat :=
  if isFix w && valOf w ≤ (v.bound - 1) / 4 then pure (valOf w) else operandFault w

/-- The chain walk from index + 1; fuel is the capacity. -/
def walkChain (c : CoreId) (v : Obj) (k0 k1 : Word) : Nat → Nat → Option Nat → M Found
  | 0, _, _ => return .absent
  | f + 1, link, before =>
    if link = 0 then return .absent
    else do
      let j := link - 1
      let x ← slotW c v (ovSlot j 0)
      let y ← slotW c v (ovSlot j 1)
      if x == k0 && y == k1 then return .chain j before
      else
        let n ← linkOf v (← slotW c v (ovSlot j 3))
        walkChain c v k0 k1 f n (some j)

/-- The tile whose unit performs operations on a table (R359). -/
def unitOf (s : State) (c : CoreId) (va : Nat) : Nat :=
  match mapNow s (s.core c).space va with
  | some pa => match tileOfPa pa with
    | some t => t
    | none => match regionOf s va with | some r => ownerOf s r | none => tileOfCore c
  | none => tileOfCore c

def countReferred (c : CoreId) (o : Obj) : M Unit := fun s =>
  let t := unitOf s c o.addr
  .ok ((), s.setR .cqxStat t (wrapInc (s.reg .cqxStat t) 31 0 1))

/-- The search of R358: the bucket, then the chain in microcode. -/
def cirqueFind (c : CoreId) (t : Cq) (b fp : Nat) (ctrl k0 k1 : Word) : M Found := do
  if ← bucketMatches c t.obj ctrl b fp 0 k0 k1 then return .bucket 0
  else if ← bucketMatches c t.obj ctrl b fp 1 k0 k1 then return .bucket 1
  else if ovhead ctrl = 0 then return .absent
  else
    countReferred c t.obj
    match ← openOverflow c t.obj with
    | none => operandFault ctrl
    | some v =>
      if (v.bound - 1) / 4 < ovhead ctrl then operandFault ctrl
      else walkChain c v k0 k1 ((v.bound - 1) / 4) (ovhead ctrl) none

def bump (c : CoreId) (o : Obj) (i : Nat) (d : Int) : M Unit := do
  let w ← slotW c o i
  wantFix w
  putSlot c o i (fix (fixVal w + d))

/-- The free list of entries from i to n - 1 (log 31). -/
def freeEntries (i n : Nat) : List Word :=
  ((List.range (n - i)).map (fun j => [nil, nil, nil, fixN (if i + j + 1 < n then i + j + 2 else 0)])).flatten

/-- The vector after growth: the old entries at their indices, the new ones on the free list. -/
def growOverflow (c : CoreId) (o : Obj) (old : Option Obj) : M Obj := do
  let cap := match old with | some v => (v.bound - 1) / 4 | none => 0
  let newCap := if cap = 0 then 16 else min (2 * cap) 262143
  if cap = 262143 then simpleFault .heapFull 10
  else
    let kept ← (match old with
      | some v => do
        let ws ← atStep 10 (loadWords c (v.slotAddr 1) (4 * cap))
        pure ws
      | none => pure [] : M (List Word))
    let slots := fixN (cap + 1) :: kept ++ freeEntries cap newCap
    let w ← newTagged c 0x11 (mkHeader 0x21 7 slots.length 0) slots
    putSlot c o 2 w
    openObject c w 10

/-- An entry of the chain for a new key (R358, last row). -/
def insertChain (c : CoreId) (t : Cq) (b : Nat) (ctrl k0 k1 v : Word) : M Unit := do
  if ovhead ctrl = 0 then countReferred c t.obj
  let ov ← openOverflow c t.obj
  let free ← (match ov with
    | some x => do
      let w ← slotW c x 0
      linkOf x w
    | none => pure 0 : M Nat)
  let x ← (match ov with
    | some x => if free = 0 then growOverflow c t.obj (some x) else pure x
    | none => growOverflow c t.obj none : M Obj)
  let first ← linkOf x (← slotW c x 0)
  let j := first - 1
  let next ← slotW c x (ovSlot j 3)
  putSlot c x 0 next
  putSlot c x (ovSlot j 0) k0
  putSlot c x (ovSlot j 1) k1
  putSlot c x (ovSlot j 2) v
  putSlot c x (ovSlot j 3) (fixN (ovhead ctrl))
  putSlot c t.obj (ctrlSlot b) (withBits ctrl 51 34 (j + 1))
  bump c t.obj 1 1
  bump c t.obj 3 1

/-- Fill entry i of a bucket. -/
def insertBucket (c : CoreId) (t : Cq) (b fp i : Nat) (ctrl k0 k1 v : Word) : M Unit := do
  putSlot c t.obj (valueSlot b i) v
  putSlot c t.obj (keySlot b i) k0
  putSlot c t.obj (keySlot b i + 1) k1
  putSlot c t.obj (ctrlSlot b) (withBit (withBits ctrl (16 * i + 15) (16 * i) fp) (32 + i) true)
  bump c t.obj 1 1

def removeBucket (c : CoreId) (t : Cq) (b i : Nat) (ctrl : Word) : M Unit := do
  putSlot c t.obj (valueSlot b i) nil
  putSlot c t.obj (keySlot b i) nil
  putSlot c t.obj (keySlot b i + 1) nil
  putSlot c t.obj (ctrlSlot b) (withBit (withBits ctrl (16 * i + 15) (16 * i) 0) (32 + i) false)
  bump c t.obj 1 (-1)

def removeChain (c : CoreId) (t : Cq) (b j : Nat) (before : Option Nat) (ctrl : Word) : M Unit := do
  match ← openOverflow c t.obj with
  | none => operandFault ctrl
  | some x =>
    let next ← slotW c x (ovSlot j 3)
    let n ← linkOf x next
    match before with
    | some p => putSlot c x (ovSlot p 3) next
    | none => putSlot c t.obj (ctrlSlot b) (withBits ctrl 51 34 n)
    putSlot c x (ovSlot j 0) nil
    putSlot c x (ovSlot j 1) nil
    putSlot c x (ovSlot j 2) nil
    let free ← slotW c x 0
    putSlot c x (ovSlot j 3) free
    putSlot c x 0 (fixN (j + 1))
    bump c t.obj 1 (-1)
    bump c t.obj 3 (-1)

/-- The value of a found entry. -/
def foundValue (c : CoreId) (t : Cq) (b : Nat) : Found → M Word
  | .bucket i => slotW c t.obj (valueSlot b i)
  | .chain j _ => do
    match ← openOverflow c t.obj with
    | some x => slotW c x (ovSlot j 2)
    | none => return unbound
  | .absent => return unbound

def putValue (c : CoreId) (t : Cq) (b : Nat) (v : Word) : Found → M Unit
  | .bucket i => putSlot c t.obj (valueSlot b i) v
  | .chain j _ => do
    match ← openOverflow c t.obj with
    | some x => putSlot c x (ovSlot j 2) v
    | none => return ()
  | .absent => return ()

/-- An error status of the unit: MEMORY_ERROR with kind 5 (R216, R228). -/
def cirqueStatus {α : Type} (m : M α) : M α := fun s =>
  match m s with
  | .error (.trap t) =>
    if t.cause == .memoryError then .error (.trap { t with detail := 5 * 2 ^ 48 + t.detail % 2 ^ 48 }) else .error (.trap t)
  | r => r

/-- The bucket of a key with its CTRL word and fingerprint. -/
def cirqueAt (c : CoreId) (t : Cq) (k0 k1 : Word) : M (Nat × Nat × Word) := do
  let h ← cirqueHash c t.seed k0 k1
  let b := h % 2 ^ t.k
  let ctrl ← slotW c t.obj (ctrlSlot b)
  if ctrlOk ctrl then return (b, h / 2 ^ 16, ctrl) else operandFault ctrl

/-- A table that an operation changes has IMM clear: checked as a result write is, after the key and the value (R146,
R216). -/
def wantMutable (t : Cq) : M Unit := if t.obj.imm then immutableFault .write t.obj.addr else pure ()

/-- The operand steps shared by the three operations, and the work: the result word and the flag. -/
def cirqueOp (op : Opcode) (l : Long)
    (f : CoreId → Cq → Nat → Nat → Word → Word → Word → Found → M (Word × Bool)) (c : CoreId) : M Flow := do
  let r ← resolveB c op.modes l 8 0 2
  let b ← readB c .read r.b
  let (v, hit) ← atStep 10 (cirqueStatus (do
    drainM c
    let t ← openTable c l.ra.toNat
    let (k0, k1) ← cirqueKey c l b
    let (bk, fp, ctrl) ← cirqueAt c t k0 k1
    let at_ ← cirqueFind c t bk fp ctrl k0 k1
    f c t bk fp ctrl k0 k1 at_))
  postB c r
  setBitM c 4 hit
  setRegM c l.rd.toNat v
  return .seq

def bodyCqlook (l : Long) : CoreId → M Flow := cirqueOp .cqlook l fun c t b _ _ _ _ w => do
  return (← foundValue c t b w, w != .absent)
def execCqlook (a : At) (l : Long) (s : State) : Out := .next (runLong s a .cqlook l (bodyCqlook l))

def bodyCqins (l : Long) : CoreId → M Flow := cirqueOp .cqins l fun c t b fp ctrl k0 k1 w => do
  let v ← healRegM c l.rd.toNat
  if forgeTag (tagOf v) then trapM (wordTrap .tagForge v 10 0)
  else
    wantMutable t
    let old ← foundValue c t b w
    match w with
    | .absent =>
      if !usedBit ctrl 0 then insertBucket c t b fp 0 ctrl k0 k1 v
      else if !usedBit ctrl 1 then insertBucket c t b fp 1 ctrl k0 k1 v
      else insertChain c t b ctrl k0 k1 v
      return (old, false)
    | _ =>
      putValue c t b v w
      return (old, true)
def execCqins (a : At) (l : Long) (s : State) : Out := .next (runLong s a .cqins l (bodyCqins l))

def bodyCqdel (l : Long) : CoreId → M Flow := cirqueOp .cqdel l fun c t b _ ctrl _ _ w => do
  wantMutable t
  let old ← foundValue c t b w
  match w with
  | .absent => return (old, false)
  | .bucket i =>
    removeBucket c t b i ctrl
    return (old, true)
  | .chain j p =>
    removeChain c t b j p ctrl
    return (old, true)
def execCqdel (a : At) (l : Long) (s : State) : Out := .next (runLong s a .cqdel l (bodyCqdel l))

end Sys2Proof.Machine
end

