-- ==== Sys2Proof/Machine/Pair.lean ====
section
/-! DEFINITION. Short operations and pairs (R120 to R125, R146). -/

namespace Sys2Proof

/-- The fields of a short operation. -/
def shortSopc (x : BitVec 15) : Nat := x.toNat / 1024
def shortRd (x : BitVec 15) : Nat := x.toNat / 32 % 32
def shortRs (x : BitVec 15) : Nat := x.toNat % 32

/-- The first parcel as a number. -/
def PairParcel.word (p : PairParcel) : Nat :=
  2 ^ 31 + (if p.ext.isSome then 2 ^ 30 else 0) + p.a.toNat * 2 ^ 15 + p.b.toNat

def PairParcel.bytes (p : PairParcel) : Nat := if p.ext.isSome then 8 else 4
def PairParcel.condA (p : PairParcel) : Nat := match p.ext with | some e => e.toNat / 2 ^ 22 | none => 0
def PairParcel.condB (p : PairParcel) : Nat := match p.ext with | some e => e.toNat / 2 ^ 12 % 1024 | none => 0

end Sys2Proof

namespace Sys2Proof.Machine

open Sys2Proof

/-- Registers read and written, and flags read and written, by a short operation (R121). -/
def shortReads (sopc rd rs : Nat) : List Nat :=
  match sopc with
  | 0x01 | 0x10 | 0x11 | 0x13 => [rs]
  | 0x03 | 0x04 | 0x06 | 0x08 | 0x09 | 0x0A | 0x0D | 0x0E => [rd, rs]
  | 0x05 | 0x07 | 0x0B | 0x0C | 0x0F => [rd]
  | _ => []

def shortWrites (sopc rd : Nat) : List Nat :=
  match sopc with
  | 0x01 | 0x02 | 0x03 | 0x04 | 0x05 | 0x08 | 0x09 | 0x0A | 0x0B | 0x0C | 0x10 | 0x12 | 0x13 =>
    if rd = 24 then [] else [rd]
  | _ => []

def shortFlagReads (sopc rs : Nat) : List Nat := if sopc = 0x12 then [rs % 8] else []

def shortFlags (sopc : Nat) : List Nat :=
  match sopc with
  | 0x03 | 0x04 | 0x05 | 0x06 | 0x07 | 0x13 => [0, 1, 2, 3]
  | 0x08 | 0x09 | 0x0A | 0x0C => [0, 1]
  | 0x0B => [0, 1, 3]
  | 0x0D => [0]
  | 0x0E | 0x0F | 0x11 => [4]
  | _ => []

def meets (x y : List Nat) : Bool := x.any y.contains

/-- R122, on the encoding. -/
def independent (a b : BitVec 15) : Bool :=
  let wr := shortWrites (shortSopc a) (shortRd a)
  let wf := shortFlags (shortSopc a)
  let rb := shortReads (shortSopc b) (shortRd b) (shortRs b) ++ shortWrites (shortSopc b) (shortRd b)
  let fb := shortFlagReads (shortSopc b) (shortRs b) ++ shortFlags (shortSopc b)
  !meets wr rb && !meets wf fb

/-- Fields that the map marks 0 (R121). -/
def shortFieldsOk (x : BitVec 15) : Bool :=
  match shortSopc x with
  | 0x0F => shortRs x < 16
  | 0x11 => shortRd x == 0
  | 0x12 => shortRs x < 8
  | _ => true

/-- Steps 2 and 3 of R146 for a pair. -/
def pairDecode (p : PairParcel) : Option Trap :=
  let ill := fun (n : Nat) => some { cause := .illegalOp, sub := n, step := 2, detail := p.word : Trap }
  if 0x14 ≤ shortSopc p.a || 0x14 ≤ shortSopc p.b then ill 2
  else if !independent p.a p.b then ill 4
  else
    let extOk := match p.ext with | some e => e.toNat % 4096 == 0 && condOk p.condA && condOk p.condB | none => true
    if shortFieldsOk p.a && shortFieldsOk p.b && extOk then none
    else some { cause := .reservedField, step := 3, detail := p.word }

/-- The effect of a short operation (R121). -/
def shortOp (c : CoreId) (x : BitVec 15) : M Unit := do
  let rd := shortRd x
  let rs := shortRs x
  let d ← regM c rd
  let w ← regM c rs
  let imm := fix (signed 5 rs)
  let put := fun (m : M Word) => do
    let v ← m
    setRegM c rd v
  match shortSopc x with
  | 0x01 => setRegM c rd w
  | 0x02 => setRegM c rd imm
  | 0x03 => put (genericAdd c d w)
  | 0x04 => put (genericSub c d w)
  | 0x05 => put (genericAdd c d imm)
  | 0x06 => genericCmp c d w
  | 0x07 => genericCmp c d imm
  | 0x08 => put (logicOp (fun x y => x &&& y) c d w)
  | 0x09 => put (logicOp (fun x y => x ||| y) c d w)
  | 0x0A => put (logicOp (fun x y => x ^^^ y) c d w)
  | 0x0B => put (shlOp c d (fixN rs))
  | 0x0C => put (sarOp c d (fixN rs))
  | 0x0D =>
    let a ← healRegM c rd
    let b ← healRegM c rs
    setBitM c 0 (a == b)
  | 0x0E => tageqOp c d w
  | 0x0F => classisOp c d (fixN rs)
  | 0x10 => setRegM c rd (fixN (tagOf w))
  | 0x11 => setBitM c 4 (isNil w)
  | 0x12 => do
    let k ← getC c
    setRegM c rd (boolWord (k.bit (rs % 8)))
  | 0x13 => put (genericNeg c w)
  | _ => return ()

/-- A stop of slot B names slot 1. -/
def inSlotB : Stop → Stop
  | .trap t => .trap { t with slot := 1 }
  | .heapWait t => .heapWait { t with slot := 1 }
  | x => x

/-- Slot B after slot A: its fault leaves A's results and names slot 1 (R125); a wait of slot B goes on with slot
B alone. -/
def slotB (c : CoreId) (p : PairParcel) : M Flow := fun s =>
  match atStep 10 (shortOp c p.b) s with
  | .ok (_, s1) => .ok (.seq, s1)
  | .error x =>
    let pc := (s.core c).pc
    .ok (.stay, raiseStop (s.modCore c (fun k => { k with onlyB := true })) c (inSlotB x) pc (pc + p.bytes))

/-- A pair: decode, then both slots on the conditions as they stood before it (R123); after the return from a
fault of slot B, slot B alone (R125, R232). -/
def bodyPair (p : PairParcel) (c : CoreId) : M Flow := do
  fetchM c (p.bytes / 4) 5 p.word
  match pairDecode p with
  | some t => trapM t
  | none =>
    let k ← getC c
    if k.onlyB then slotB c p
    else
      let runA := condHolds k p.condA
      let runB := condHolds k p.condB
      if runA then atStep 10 (shortOp c p.a)
      if runB then slotB c p else return .seq

def execPair (a : At) (p : PairParcel) (s : State) : Out := .next (runBody s a p.bytes false (bodyPair p))

end Sys2Proof.Machine
end

