-- ==== Sys2Proof/Machine/Interrupts.lean ====
section
/-! DEFINITION. Asynchronous entries: normal class, fast class, deferred machine checks (R219, R239 to R241,
R244). -/

namespace Sys2Proof.Machine

open Sys2Proof

/-- Modes in which a core takes an event at a boundary or an interruption point (R209, R210, R349). -/
def takesEvents (k : Core) : Bool :=
  match k.mode with
  | .running | .waiting | .barrier _ _ | .heapWait _ _ => true
  | _ => false

/-- The core at the boundary: results landed, no wait. -/
def atBoundary (s : State) (c : CoreId) : State :=
  s.modCore c (fun k => { k.landAll with mode := .running })

/-- NORMAL_INTERRUPT_ENTRY: cause INTERRUPT through slot 0x30, unless an event of a higher rank is there. A window trap
that the entry itself, or an instruction, has begun ends first (R92). -/
def execNormalInterruptEntry (c : CoreId) (s : State) : Out := .next (
  match sourceCore s c with
  | none => s
  | some c =>
    let k := s.core c
    if !takesEvents k then s else
    match (if inWindowTrap k then windowHandler c s else .ok ((), s)) with
    | .error x => mirror (raiseStop s c x k.pc k.pc) c
    | .ok (_, s0) =>
      let k := s0.core c
      if takesNormal s0 k && !takesFast s0 c k && !takesCheck s0 k then
        mirror (enterException (atBoundary s0 c) c { cause := .interrupt, async := true } k.pc k.pc) c
      else s)

/-- The fast-class entry (R240), with every earlier store performed (R308); one that waits for a store, or for the read of
a header, comes again. -/
def enterFast (s0 : State) (c : CoreId) : State :=
  if entryWaits s0 c then s0 else
  let s := drainStores s0 c
  let pc := (s.core c).pc
  match (codeTarget c nil (mkWord 0x16 (s.fld .cfgXfast (leadOf s c).val 46 4 * 16))) s with
  | .error (.trap t) =>
    raiseDouble (noteFault s c t) c (if isAccessFault t then 4 else 5) { t with cause := .doubleFault }
      { cause := .doubleFault } pc pc
  | .error _ => s
  | .ok (tg, s1) =>
    let k := s1.core c
    let k1 := { (k.setStatus 22 22 1).setStatus 15 14 (k.cstk % 2 + 2) with fastRet := some ⟨k.pc, k.fmt, k.im⟩ }
    let k2 := if s.compact then k1.setStatus 16 16 1 else k1
    enterCode (s1.setCore c k2) c tg

def execFastInterruptEntry (c : CoreId) (s : State) : Out := .next (
  match sourceCore s c with
  | none => s
  | some c =>
    let k := s.core c
    if takesEvents k && takesFast s c k && !takesCheck s k then mirror (enterFast (atBoundary s c) c) c else s)

/-- DEFERRED_MACHINE_CHECK: kind 0x03 with the address that the refused store had. -/
def execDeferredMachineCheck (c : CoreId) (s : State) : Out := .next (
  match sourceCore s c with
  | none => s
  | some c =>
    let k := s.core c
    match k.mcPend with
    | some pa =>
      if takesEvents k && takesCheck s k && !entryWaits s c then
        let s1 := (drainStores (atBoundary s c) c).modCore c (fun k => { k with mcPend := none })
        mirror (enterLastResort (recordCheck s1 c 3 pa) c
          { cause := .machineCheck, sub := 3, async := true, detail := pa } k.pc k.pc) c
      else s
    | none => s)

end Sys2Proof.Machine
end

