-- ==== Sys2Proof/Machine/Transport.lean ====
section
/-! DEFINITION. T-format bundles and their units (R148 to R167). -/

namespace Sys2Proof.Machine

open Sys2Proof

/-- One move of a bundle (R150). -/
structure Move where
  slot : Nat
  bits : Nat
  guard : Nat
  src : Nat
  dst : Nat
  deriving DecidableEq, Repr

def moveAt (w : Word) (slot : Nat) : Move :=
  let lo := 40 - 20 * slot
  let b := bitsOf w (lo + 19) lo
  ⟨slot, b, b / 2 ^ 16, b / 256 % 256, b % 256⟩

def bundleKind (w : Word) : Nat := bitsOf w 63 62

/-- The moves of a bundle by its KIND (R149). -/
def movesOf (w : Word) : List Move :=
  match bundleKind w with
  | 0 => [moveAt w 0, moveAt w 1, moveAt w 2]
  | 1 => [moveAt w 0, moveAt w 1]
  | 2 => [moveAt w 0]
  | _ => []

def bundleImm (w : Word) : Word :=
  if bundleKind w = 1 then fix (signed 20 (bitsOf w 19 0)) else fix (signed 40 (bitsOf w 39 0))

/-! ### Ports (R156) -/

def unitOfPort (d : Nat) : Nat := d / 16

def isTrigger (d : Nat) : Bool :=
  (0x81 ≤ d && d ≤ 0x89) || (0x91 ≤ d && d ≤ 0x94) || (0xA1 ≤ d && d ≤ 0xA9) || (0xB0 ≤ d && d ≤ 0xBF)
    || (0xC1 ≤ d && d ≤ 0xC4) || (0xD1 ≤ d && d ≤ 0xD7) || (0xE2 ≤ d && d ≤ 0xE5)

def isOperandPort (d : Nat) : Bool :=
  d == 0x80 || d == 0x90 || d == 0xA0 || d == 0xC0 || d == 0xD0 || d == 0xE0 || d == 0xE1

def portDefined (d : Nat) : Bool := isTrigger d || isOperandPort d

/-- Whether a trigger uses an operand port. -/
def portUses (trigger port : Nat) : Bool :=
  match port with
  | 0x80 => 0x81 ≤ trigger && trigger ≤ 0x89
  | 0x90 => trigger == 0x92 || trigger == 0x93
  | 0xA0 => 0xA1 ≤ trigger && trigger ≤ 0xA3
  | 0xC0 => trigger == 0xC1
  | 0xD0 => trigger == 0xD7
  | 0xE0 => (0xB0 ≤ trigger && trigger ≤ 0xBF) || (0xE2 ≤ trigger && trigger ≤ 0xE5)
  | 0xE1 => 0xE2 ≤ trigger && trigger ≤ 0xE5
  | _ => false

/-- The default register of an operand port. -/
def portDefault (port : Nat) : Option Nat :=
  match port with | 0x80 => some 8 | 0xE0 => some 0 | 0xE1 => some 8 | _ => none

def operandPorts : List Nat := [0x80, 0x90, 0xA0, 0xC0, 0xD0, 0xE0, 0xE1]

def isJump (d : Nat) : Bool := d == 0xD1 || d == 0xD2
def isBranch (d : Nat) : Bool := 0xD1 ≤ d && d ≤ 0xD7

/-! ### Decode (R151, R153, R155, R161, R164, R167) -/

/-- The ILLEGAL_OP subcode of a move among the moves of its bundle. -/
def moveIllegal (k : Core) (ms : List Move) (m : Move) : Option Nat :=
  let others := ms.filter (fun x => x.slot != m.slot)
  if 0x80 ≤ m.dst && !portDefined m.dst then some 0x10
  else if (m.dst < 0x20 || 0x80 ≤ m.dst) && m.dst != 0x18 && others.any (fun x => x.dst == m.dst) then some 0x11
  else if isTrigger m.dst && others.any (fun x => isTrigger x.dst && unitOfPort x.dst == unitOfPort m.dst) then some 0x12
  else if isBranch m.dst && k.jump.isSome then some 0x13
  else if isJump m.dst && atLoopEnd k k.pc then some 0x14
  else none

/-- Whether a move is free of the RESERVED_FIELD faults. -/
def moveFieldsOk (kind : Nat) (ms : List Move) (m : Move) : Bool :=
  let srcOk := m.src < 0x40 || (m.src == 0x40 && kind != 0)
  let dstOk := m.dst < 0x20 || 0x80 ≤ m.dst
  let ports := if isTrigger m.dst then
      operandPorts.all (fun p => !portUses m.dst p || (portDefault p).isSome || ms.any (fun x => x.dst == p))
    else true
  let users := ms.filter (fun x => isTrigger x.dst && portUses x.dst m.dst)
  let operand := if isOperandPort m.dst then !users.isEmpty && users.all (fun x => x.guard == m.guard) else true
  srcOk && dstOk && ports && operand

def bundleTrap (c : Cause) (sub step : Nat) (m : Move) : Trap :=
  { cause := c, sub := sub, step := step, detail := m.bits }

/-- Steps 2 and 3 of R167. -/
def bundleDecode (k : Core) (w : Word) : Option Trap :=
  let ms := movesOf w
  match ms.findSome? (fun m => (moveIllegal k ms m).map (fun n => bundleTrap .illegalOp n 2 m)) with
  | some t => some t
  | none =>
    if bundleKind w == 3 || bitsOf w 61 60 != 0 then some (bundleTrap .reservedField 0 3 (moveAt w 0))
    else (ms.find? (fun m => !moveFieldsOk (bundleKind w) ms m)).map (bundleTrap .reservedField 0 3)

/-! ### Values -/

def sourceValue (k : Core) (imm : Word) (src : Nat) : Word :=
  if src < 0x20 then k.getReg src else if src < 0x40 then fix (signed 5 src) else imm

/-- A move that its guard lets through, with its value. -/
structure Live where
  move : Move
  value : Word
  deriving DecidableEq, Repr

def liveMoves (k : Core) (w : Word) : List Live :=
  ((movesOf w).filter (fun m => ccHolds k m.guard)).map (fun m => ⟨m, sourceValue k (bundleImm w) m.src⟩)

/-- The value of an operand port in this bundle. -/
def portValue (k : Core) (ls : List Live) (port : Nat) : Word :=
  match ls.find? (fun x => x.move.dst == port) with
  | some x => x.value
  | none => match portDefault port with | some n => k.getReg n | none => nil

/-! ### Units -/

/-- A result that lands later (R158): the flags that the operation wrote go back to what they were. -/
def pendResult (c : CoreId) (bits : BitVec 256) (reg : Option Nat) (v : Word) (fl : List Nat) : M Unit :=
  modC c fun k =>
    { k with bits := bits, pendRes := k.pendRes ++ [⟨reg, v, fl.map (fun n => (n, k.bit n))⟩] }

/-- A unit operation with a register result and flags. -/
def unitReg (c : CoreId) (reg : Nat) (fl : List Nat) (m : M Word) : M Unit := do
  let k ← getC c
  let v ← m
  pendResult c k.bits (some reg) v fl

/-- A unit operation with flags only. -/
def unitFlags (c : CoreId) (fl : List Nat) (m : M Unit) : M Unit := do
  let k ← getC c
  m
  pendResult c k.bits none nil fl

/-- The register that a port's value comes from, where a register gives it. -/
def portReg (ls : List Live) (port : Nat) : Option Nat :=
  match ls.find? (fun x => x.move.dst == port) with
  | some x => if x.move.src < 0x20 then some x.move.src else none
  | none => portDefault port

/-- The load barrier on a port's value, written back into its register unless a move of this bundle has replaced it
there (R131, R157, R341). -/
def healPort (c : CoreId) (reg : Option Nat) (w : Word) : M Word := do
  let h ← healM c w
  match reg with
  | some n =>
    let old ← regM c n
    if h != w && old == w then setRegM c n h
    return h
  | none => return h

def indexOf (w : Word) : M Int := if isFix w then pure (fixVal w) else trapM (wordTrap .wordFormat w 7 0)

/-- The object of a load or store trigger, with its index (R157): base, then index, then header. -/
def unitObject (c : CoreId) (reg : Option Nat) (p x : Word) : M (Obj × Int) := do
  if !isPointerTag (tagOf p) then trapM (wordTrap .wordFormat p 7 0)
  else if !addressFormatOk p then trapM (wordTrap .pointerFormat p 7 0)
  else
    let i ← indexOf x
    let o ← openSlot c (← healPort c reg p)
    return (o, i)
/-- Bytes one at a time, so that they may cross a granule or a page. -/
def loadEach (c : CoreId) : Nat → Nat → M (List Byte)
  | _, 0 => return []
  | va, n + 1 => do
    let b ← loadBytes c va 1 .read true
    let bs ← loadEach c (va + 1) n
    return b ++ bs

def storeEach (c : CoreId) : Nat → List Byte → M Unit
  | _, [] => return ()
  | va, b :: bs => do storeBytesM c va [b]; storeEach c (va + 1) bs

def loadSlot (c : CoreId) (reg : Option Nat) (p a : Word) : M Word := do
  let (o, i) ← unitObject c reg p a
  match ← slotOf o i 2 with
  | .word va _ => loadWord c va .read
  | _ => return nil

def loadPayload (c : CoreId) (reg : Option Nat) (p a : Word) (n : Nat) : M Word := do
  let (o, i) ← unitObject c reg p a
  match ← byteOf o i n 2 with
  | .byte va _ => return fixN (ofBytesBE (← loadEach c va n))
  | _ => return nil

/-- ST.S: the stored word goes through the load barrier too, from the register `src` that gives it. -/
def storeSlotT (c : CoreId) (reg src : Option Nat) (p x a : Word) : M Unit := do
  let (o, i) ← unitObject c reg p x
  match ← slotOf o i 3 with
  | .word va imm =>
    if imm then immutableFault .write va else storeWord c va (← healPort c src a)
  | _ => return ()

def storePayload (c : CoreId) (reg : Option Nat) (p x a : Word) (n : Nat) : M Unit := do
  let (o, i) ← unitObject c reg p x
  match ← byteOf o i n 3 with
  | .byte va imm =>
    wantFix a
    if imm then immutableFault .write va else storeEach c va (toBytes n (valOf a)).reverse
  | _ => return ()

/-- BIT.EXT. -/
def extractField (a d : Word) : M Word := do
  wantFix d
  wantFix a
  let w := bitsOf d 13 8
  let sh := bitsOf d 5 0
  if bitsOf d 55 14 != 0 || bitsOf d 7 6 != 0 || w < 1 || 56 < w || 55 < sh then operandFault d
  else return fixN (valOf a / 2 ^ sh % 2 ^ w)

def bitIndex (a : Word) : M Nat := if isFix a && valOf a ≤ 255 then pure (valOf a) else operandFault a

def crcDesc16 : Word := fixN (15 * 2 ^ 32 + 0x1021)
def crcDesc32 : Word := fixN (2 ^ 40 + 31 * 2 ^ 32 + 0x1EDC6F41)

/-- The bytes that a CRC trigger folds. -/
def crcBytes (d : Nat) : Nat := match (d - 0xA1) % 3 with | 0 => 1 | 1 => 2 | _ => 4

def foldCrc (c : CoreId) (k : Core) (d : Nat) (a desc : Word) : M Unit :=
  unitReg c 10 [] do
    let (x, _) ← crcDescM desc false
    wantFix a
    crcOp (k.getReg 10) x (crcBytes d) (valOf a)

/-- The operation of a trigger other than the branch unit's: `k` is the core before the bundle (R152). -/
def unitOp (c : CoreId) (k : Core) (ls : List Live) (x : Live) : M Unit :=
  let a := x.value
  let d := x.move.dst
  let port := portValue k ls
  let ptr := portReg ls 0xE0
  match d with
  | 0x81 => unitReg c 8 [0, 1, 2, 3] (genericAdd c a (port 0x80))
  | 0x82 => unitReg c 8 [0, 1, 2, 3] (genericSub c a (port 0x80))
  | 0x83 => unitFlags c [0, 1, 2, 3] (genericCmp c a (port 0x80))
  | 0x84 => unitReg c 8 [0, 1] (logicOp (fun x y => x &&& y) c a (port 0x80))
  | 0x85 => unitReg c 8 [0, 1] (logicOp (fun x y => x ||| y) c a (port 0x80))
  | 0x86 => unitReg c 8 [0, 1] (logicOp (fun x y => x ^^^ y) c a (port 0x80))
  | 0x87 => unitReg c 8 [0, 1, 3] (shlOp c a (port 0x80))
  | 0x88 => unitReg c 8 [0, 1] (shrOp c a (port 0x80))
  | 0x89 => unitReg c 8 [0, 1] (sarOp c a (port 0x80))
  | 0x91 => unitReg c 9 [] (pure (fixN (tagOf a)))
  | 0x92 => unitFlags c [4] (tageqOp c a (port 0x90))
  | 0x93 => unitFlags c [4] (classisOp c a (port 0x90))
  | 0x94 => unitFlags c [4] (setBitM c 4 (isNil a))
  | 0xC1 => unitReg c 15 [] (extractField a (port 0xC0))
  | 0xC2 => do
    let n ← bitIndex a
    unitFlags c [4] (setBitM c 4 (k.bit n))
  | 0xC3 => do
    let n ← bitIndex a
    unitFlags c [n] (setBitM c n true)
  | 0xC4 => do
    let n ← bitIndex a
    unitFlags c [n] (setBitM c n false)
  | 0xE2 => storeSlotT c ptr (if x.move.src < 0x20 then some x.move.src else none) (port 0xE0) (port 0xE1) a
  | 0xE3 => storePayload c ptr (port 0xE0) (port 0xE1) a 1
  | 0xE4 => storePayload c ptr (port 0xE0) (port 0xE1) a 2
  | 0xE5 => storePayload c ptr (port 0xE0) (port 0xE1) a 4
  | _ =>
    if 0xA1 ≤ d && d ≤ 0xA9 then
      foldCrc c k d a (if d ≤ 0xA3 then port 0xA0 else if d ≤ 0xA6 then crcDesc16 else crcDesc32)
    else if 0xB0 ≤ d && d ≤ 0xBF then
      let reg := 11 + d % 4
      let p := port 0xE0
      if d < 0xB4 then unitReg c reg [] (loadSlot c ptr p a)
      else unitReg c reg [] (loadPayload c ptr p a (if d < 0xB8 then 1 else if d < 0xBC then 2 else 4))
    else return ()

/-- A jump target inside the instruction area of a code object with FMT 1 (R160). -/
def jumpTargetT (c : CoreId) (d : Nat) (pc : Nat) (a : Word) : M Nat := fun s =>
  let bad := (operandFault a : M Nat) s
  let va : Option Nat :=
    if d == 0xD1 then
      (if isFix a && 0 ≤ (pc : Int) + 8 * fixVal a then some ((pc : Int) + 8 * fixVal a).toNat else none)
    else if tagOf a == 0x30 && addressFormatOk a && retFmt a then some (retAddr a) else none
  match va with
  | none => bad
  | some x => match codeHolding s c x with
    | some (_, h, _) => if hdrFmt h then .ok (x, s) else bad
    | none => bad

/-- The branch unit (R160 to R164). -/
def branchOp (c : CoreId) (k : Core) (ls : List Live) (x : Live) : M Flow := do
  let a := x.value
  let next := k.pc + 8
  match x.move.dst with
  | 0xD1 | 0xD2 =>
    let t ← jumpTargetT c x.move.dst k.pc a
    modC c (fun k => { k with jump := some t })
    return .skip next
  | 0xD3 | 0xD4 =>
    let t ← callTarget c a
    modC c Core.landAll
    callTo c t (x.move.dst == 0xD3) next
    return .jump
  | 0xD5 =>
    let w ← returnTarget c a
    modC c Core.landAll
    rotateBackward c (some (retAddr w))
    continueM c w
    return .jump
  | 0xD6 =>
    let w ← returnTarget c a
    continueM c w
    return .jump
  | _ =>
    let n ← loopCount a
    let b := portValue k ls 0xD0
    if !isFix b || fixVal b < 1 || (2 : Int) ^ 20 < fixVal b then operandFault b
    else
      let last := k.pc + 8 * valOf b
      let ok ← (fun s => .ok (inCode s c last, s) : M Bool)
      if !ok then operandFault b
      else if n = 0 then return .skip (last + 8)
      else loopSetup c next last n

/-- The stops of a trigger carry its slot, and its faults the steps of R167; a rotation stands in no step. -/
def stopInSlot (slot step : Nat) : Stop → Stop
  | .trap t => .trap { t with slot := slot, step := step }
  | .heapWait t => .heapWait { t with slot := slot, step := step }
  | .doubleFault r t => .doubleFault r { t with slot := slot }
  | x => x

def inSlot {α : Type} (slot step : Nat) (m : M α) : M α := fun s =>
  match m s with
  | .error x => .error (stopInSlot slot step x)
  | r => r

/-- What the branch unit checks before any rotation (R167 steps 5 and 6). -/
def branchCheck (c : CoreId) (k : Core) (ls : List Live) (x : Live) : M Unit := do
  match x.move.dst with
  | 0xD3 | 0xD4 => let _ ← callTarget c x.value
  | 0xD5 | 0xD6 => let _ ← returnTarget c x.value
  | _ => let _ ← branchOp c k ls x

/-- The rotation of BR.CALL and BR.RET, once every check of the bundle has passed (R219): a window trap comes before any
move of the bundle, which then executes again whole (R92, R152). -/
def rotationCheck (c : CoreId) (x : Live) : M Unit := do
  match x.move.dst with
  | 0xD3 =>
    let t ← callTarget c x.value
    wantForward c (some t.entry)
  | 0xD5 => wantBackward c (some (retAddr x.value))
  | _ => return ()

/-- The triggers in slot order, each on the state before the bundle: the first that faults ends it (R167). -/
def checkTriggers (c : CoreId) (k : Core) (ls : List Live) : List Live → M Unit
  | [] => return ()
  | x :: xs => fun s =>
    let m : M Unit := if isBranch x.move.dst then branchCheck c k ls x else unitOp c k ls x
    match inSlot x.move.slot (if isJump x.move.dst then 5 else 6) m s with
    | .error e => .error e
    | .ok _ => checkTriggers c k ls xs s

def runTriggers (c : CoreId) (k : Core) (ls : List Live) : List Live → M Unit
  | [] => return ()
  | x :: xs => do
    inSlot x.move.slot 6 (unitOp c k ls x)
    runTriggers c k ls xs

def writeMoves (c : CoreId) : List Live → M Unit
  | [] => return ()
  | x :: xs => do
    if x.move.dst < 0x20 then setRegM c x.move.dst x.value
    writeMoves c xs

/-- The steps of a bundle (R152, R165, R167). -/
def bundleSteps (w : Word) (c : CoreId) : M Flow := do
  let k ← getC c
  match bundleDecode k w with
  | some t => trapM t
  | none =>
    let ls := liveMoves k w
    let trig := ls.filter (fun x => isTrigger x.move.dst)
    checkTriggers c k ls (trig.filter (fun x => isJump x.move.dst))
    checkTriggers c k ls (trig.filter (fun x => !isJump x.move.dst))
    let branch := trig.find? (fun x => isBranch x.move.dst)
    match branch with
      | some x => (fun s => match inSlot x.move.slot 6 (rotationCheck c x) s with
          | .error e => .error e
          | .ok _ => .ok ((), s) : M Unit)
      | none => pure ()
    writeMoves c ls
    let stores := trig.filter (fun x => 0xE2 ≤ x.move.dst)
    let others := trig.filter (fun x => x.move.dst < 0xE2 && !isBranch x.move.dst)
    runTriggers c k ls others
    runTriggers c k ls stores
    let fl ← (match branch with
      | some x => inSlot x.move.slot 6 (branchOp c k ls x)
      | none => pure .seq : M Flow)
    match k.jump with
    | some t =>
      continueM c (retWord t true)
      return .jump
    | none => return fl

/-- BUNDLE. -/
def bodyBundle (w : Word) (c : CoreId) : M Flow := do
  fetchM c 2 0x15 (moveAt w 0).bits
  bundleSteps w c

def execBundle (a : At) (w : Word) (s : State) : Out := .next (runBody s a 8 false (bodyBundle w))

/-- UNIT_RESULT_LANDING: result i of those that have not landed; it is the last write of its register or flag
only when no later one pends, so the earlier ones land with it (R158). -/
def execUnitResultLanding (c : CoreId) (i : Nat) (s : State) : Out := .next (
  match sourceCore s c with
  | none => s
  | some c =>
    let k := s.core c
    match k.pendRes[i]? with
    | none => s
    | some _ =>
      let k1 := (k.pendRes.take (i + 1)).foldl Core.land1 k
      mirror (s.setCore c { k1 with pendRes := k.pendRes.drop (i + 1) }) c)

end Sys2Proof.Machine
end

