-- ==== Sys2Proof/Machine/SetupWrite.lean ====
section
/-! DEFINITION. The write of a setup register: who may write, which bits take the value (R11, R12, R428,
R545 to R552). The actions that a write starts are in the files of their blocks. -/

namespace Sys2Proof.Machine

open Sys2Proof

/-- The unit to which a register belongs (R552); registers that report a unit's state have none. -/
def unitOfReg (n : RegName) (i : Nat) : Option Nat :=
  match n with
  | .cfgXtab | .cfgXfast | .cfgXdbl | .cfgXmc | .mcPatchVersion | .mcCtl | .mcResult | .mcPerr | .cfgL1err
  | .cfgL1eaddr | .evcCpwr => some (uCore i)
  | .cfgTlbinv | .cfgTlbstat => if i < 96 then some (uCore i) else none
  | .cfgTsrep | .cfgTserr | .cfgTseaddr | .cqxCmd | .cqxStat | .morCnta | .morCntb => some (uTile i)
  | .dmcWaymaskLo | .dmcWaymaskHi | .dmcRbase | .dmcRop | .dmcRstat | .dmcInteg | .dmcIntaddr | .dmcDcerr
  | .dmcDceaddr | .dmcCherr | .dmcCheaddr => some (uChan i)
  | .netPcfg | .netPcnt | .netTsmbox => some (uPort i)
  | _ => none

/-- A unit whose registers answer: online or draining. -/
def unitAnswers (s : State) (u : Nat) : Bool := s.unit u == stOnline || s.unit u == stDraining

def regAnswers (s : State) (n : RegName) (i : Nat) : Bool :=
  blockAnswers s n && (match unitOfReg n i with | some u => unitAnswers s u | none => true)

/-- Registers that the host does not see (R548). -/
def hostBlind (n : RegName) : Bool :=
  match n with
  | .msfCurrent | .evcPend | .evcPsum | .hreDevtab | .netSakey | .netSactl => true
  | _ => false

/-- Registers that exist once per core and follow the lead of a voted troika (R377). -/
def perCore (n : RegName) (i : Nat) : Bool :=
  match n with
  | .cfgXtab | .cfgXfast | .cfgXdbl | .cfgXmc | .cfgMcstat | .mcCtl | .cfgL1err | .cfgL1eaddr => true
  | .cfgTlbinv | .cfgTlbstat => decide (i < 96)
  | _ => false

/-- A checker's register of a voted troika: it takes no write and reads as the lead's (R377). -/
def checkerReg (s : State) (n : RegName) (i : Nat) : Bool := perCore n i && leadOfNat s i != i

def mayReach (s : State) (ag : Agent) (n : RegName) (i : Nat) : Bool :=
  regAnswers s n i && !(ag == .host && hostBlind n) && !checkerReg s n i

/-- The bits of a write that it carries, and a field of them. -/
def carried (w : SetupWrite) : Word := w.value &&& partMask w.part
def acts (w : SetupWrite) (b : Nat) : Bool := bitOf (carried w) b
def wfld (w : SetupWrite) (hi lo : Nat) : Nat := bitsOf (carried w) hi lo

/-- The value of the RW fields after a write, before any refusal (R550). -/
def written (s : State) (n : RegName) (i : Nat) (w : SetupWrite) : Word :=
  let rw := n.rwMask &&& partMask w.part
  (s.reg n i &&& ~~~ rw) ||| (w.value &&& rw)

/-- The write itself: RW fields as `allow` leaves them, W1C fields cleared by a 1 (R11, R550). -/
def storeSetup (s : State) (n : RegName) (i : Nat) (w : SetupWrite) (allow : Word → Word → Word := fun _ v => v) :
    State :=
  s.setR n i (allow (s.reg n i) (written s n i w) &&& ~~~ (carried w &&& n.w1cMask))

/-- A field of the new value that its definition refuses keeps its old value (R12, R550). -/
def keepField (ok : Bool) (hi lo : Nat) (old new : Word) : Word :=
  if ok then new else withBits new hi lo (bitsOf old hi lo)

end Sys2Proof.Machine
end

