-- ==== Sys2Proof/Machine/Microcode.lean ====
section
/-! DEFINITION. Applying and disabling microcode patches (R253 to R265). -/

namespace Sys2Proof.Machine

open Sys2Proof

/-- The patch floor is counter 0 of Crag (R460). -/
def patchFloor (s : State) : Nat := Tbl.getD s.crag.counters 0 0

def setResult (s : State) (c : CoreId) (busy : Bool) (code : Nat) : State :=
  s.setR .mcResult c.val (BitVec.ofNat 64 ((if busy then 2 ^ 63 else 0) + code))

/-- The cores of a command that are not outvoted. -/
def majority (s : State) (c : CoreId) : List CoreId := (partners s c).filter (fun m => !(s.core m).minority)

def setPatch (s : State) (c : CoreId) (j : PatchJob) : State :=
  (majority s c).foldl (fun x m => x.modCore m (fun k => { k with patch := some j })) s

/-- A write of MC_CTL (R261, R264): it acts on every core of a voted troika. -/
def writeMcCtl (s : State) (c : CoreId) (w : SetupWrite) : State :=
  match sourceCore s c with
  | none => s
  | some src =>
    if (s.core src).patch.isSome then
      (if acts w 63 || acts w 62 then setResult s c true 3 else s)
    else
      let s1 := storeSetup s .mcCtl c.val w
      let code := s1.fld .mcResult c.val 7 0
      if acts w 63 then
        if (s1.core src).mode == .halted then setResult s1 c false 4
        else setResult (setPatch s1 c (.apply (s1.fld .mcCtl c.val 43 4 * 16))) c true code
      else if acts w 62 then
        if patchFloor s1 != 0 then setResult s1 c false 9
        else setResult (setPatch s1 c .disable) c true code
      else s1

/-- MC_APPLY. -/
def execMcApply (c : CoreId) (w : SetupWrite) (s : State) : Out :=
  .next (if acts w 63 && mayReach s w.agent .mcCtl c.val then writeMcCtl s c w else s)

/-- MC_DISABLE: ignored when APPLY is also 1. -/
def execMcDisable (c : CoreId) (w : SetupWrite) (s : State) : Out :=
  .next (if acts w 62 && !acts w 63 && mayReach s w.agent .mcCtl c.val then writeMcCtl s c w else s)

/-! ### The image (R258, R260) -/

def n64 (s : State) (a : Nat) : Nat := ofBytes (readBytes s a 8)
def n32 (s : State) (a : Nat) : Nat := ofBytes (readBytes s a 4)

/-- A loadable copy at a physical address: SEAL and IMM, key slot 0x0010 in the prefix. Its payload follows. -/
def loadableCopy (s : State) (a : Nat) : Bool :=
  let h := readWord s a
  accessible s a && tagOf h == 0x22 && hdrSeal h && hdrImm h && n64 s (a + 8) % 2 ^ 16 == 0x10

def imageWords (s : State) (p : Nat) : Nat := n64 s (p + 0x18) % 2 ^ 16
def imageMatches (s : State) (p : Nat) : Nat := n64 s (p + 0x18) / 2 ^ 16 % 256
def copyLevel (s : State) (p : Nat) : Nat := n64 s (p + 0x10) / 2 ^ 16 % 2 ^ 16
def imageEntry (s : State) (p n : Nat) : Word := BitVec.ofNat 64 (n64 s (p + 0x20 + 8 * n))

/-- The match entries have their reserved bits 0, and are 0 from MATCHES on. -/
def entriesOk (s : State) (p : Nat) : Bool :=
  (List.range 32).all (fun n =>
    let e := imageEntry s p n
    if n < imageMatches s p then bitsOf e 62 62 == 0 && bitsOf e 47 42 == 0 && bitsOf e 31 0 == 0 else e == 0)

/-- The payload meets R258, TARGET and ROM_ID apart. -/
def imageShaped (s : State) (p len : Nat) : Bool :=
  let w := imageWords s p
  let shape := n64 s (p + 0x18)
  n64 s p == 0x313048435450434D && imageMatches s p ≤ 32 && 1 ≤ w && w ≤ 1024 && shape / 2 ^ 25 % 128 == 0
    && 1 ≤ copyLevel s p && entriesOk s p && 0x120 + 4 * w ≤ len
    && (crc32c 0xFFFFFFFF#32 (readBytes s (p + 0x20) (0x100 + 4 * w)) ^^^ 0xFFFFFFFF#32).toNat == shape / 2 ^ 32

def imageTarget (s : State) (p : Nat) : Bool :=
  n64 s (p + 8) == 0x742000B10001 && n64 s (p + 0x10) / 2 ^ 32 == Config.romId.toNat

/-- The check of the image header (R261 step 3): a refusal code. -/
def imageRefused (s : State) (a : Nat) : Option Nat :=
  let p := a + 32
  if !loadableCopy s a || !imageShaped s p (hdrLength (readWord s a)) then some 5
  else if !imageTarget s p then some 6
  else none

/-- The patch words with their parity, generated on load (R258). -/
def loadPram (s : State) (p : Nat) : Nat → Tbl (BitVec 33)
  | 0 => []
  | n + 1 => Tbl.putD (loadPram s p n) 0 n (withParity (BitVec.ofNat 32 (n32 s (p + 0x120 + 4 * n))))

def loadMatches (s : State) (p : Nat) : Nat → Tbl MatchReg
  | 0 => []
  | n + 1 =>
    let e := imageEntry s p n
    Tbl.put (loadMatches s p n) n ⟨bitOf e 63, BitVec.ofNat 14 (bitsOf e 61 48), BitVec.ofNat 10 (bitsOf e 41 32)⟩

/-- PATCH_DRAIN (R261 steps 1 to 6): what the image holds is read here, once. A poisoned or absent image is a memory
error. -/
def execPatchDrain (c : CoreId) (r : PatchReport) (s : State) : Out := .next (
  match sourceCore s c with
  | none => s
  | some c =>
    let k := s.core c
    let i := leadOf s c
    let begin_ := fun (x : State) (load : Option (Tbl MatchReg × Nat)) (out : PatchOutcome) (pram : Tbl (BitVec 33)) =>
      x.modCore c (fun k => { k.landAll with
        mode := .patching, patch := some (.ending out r.odd load k.mode), matchRegs := [], pram := pram })
    if k.shadow || k.onlyB || k.jump.isSome || k.mode == .halted || k.mode == .stopped then s else
    match k.patch with
    | some .disable =>
      let s1 := drainStores s c
      mirror (begin_ s1 none .loaded k.pram) c
    | some (.apply image) =>
      let s1 := drainStores s c
      match imageRefused s1 image with
      | some code => mirror (setResult (s1.modCore c (fun k => { k with patch := none })) i false code) c
      | none =>
        let p := image + 32
        let bad := spanPoisoned s1 image (32 + 0x120 + 4 * imageWords s1 p)
        mirror (begin_ s1 (some (loadMatches s1 p (imageMatches s1 p), n64 s1 (p + 0x10) % 2 ^ 32))
          (if bad then .memoryError else r.all) (loadPram s1 p (imageWords s1 p))) c
    | _ => s)

/-- A core runs with what was loaded, or from the ROM alone (R261 step 7, R262), published as its level changes. -/
def endPatch (s : State) (c : CoreId) (load : Option (Tbl MatchReg × Nat)) (r : PatchOutcome) : State :=
  match load, r with
  | some (m, v), .loaded =>
    publish ((s.modCore c (fun k => { k with matchRegs := m })).setR .mcPatchVersion c.val (BitVec.ofNat 64 v)) 3 c.val 4
  | none, _ => publish ((s.modCore c (fun k => { k with matchRegs := [] })).setR .mcPatchVersion c.val 0) 3 c.val 4
  | _, _ => romOnly s c

/-- MC_RESULT.CODE at the end. -/
def patchCode (load : Option (Tbl MatchReg × Nat)) (r : PatchOutcome) : Nat :=
  match load, r with
  | none, _ => 2
  | _, .loaded => 1
  | _, .memoryError => 7
  | _, .readBack => 8

/-- PATCH_APPLY_END (R261 steps 7 and 8, R262): in a voted troika the voter compares what the members loaded, and a
member that differs has diverged (R263, item 2 of R378). -/
def execPatchApplyEnd (c : CoreId) (s : State) : Out := .next (
  match sourceCore s c with
  | none => s
  | some c =>
    match (s.core c).patch with
    | some (.ending r odd load back) =>
      let s1 := mirror (s.modCore c (fun k => { k with mode := back, patch := none })) c
      let s2 := (majority s1 c).foldl (fun x m => endPatch x m load r) s1
      let s3 := setResult s2 (leadOf s c) false (patchCode load r)
      match troikaVoted s (troikaOfCore c), odd with
      | true, some (m, o) =>
        let x := memberOf (troikaOf c) m
        if (s.core x).minority || load.isNone || o == r then s3
        else if minorityCount s (troikaOf c) == 1 then threeWay s3 (troikaOf c) 2 0
        else diverge (endPatch s3 x load o) (troikaOf c) m 2 0
      | _, _ => s3
    | _ => s)

end Sys2Proof.Machine
end

