-- ==== Sys2Proof/Machine/Reset.lean ====
section
/-! DEFINITION. A device start: what it resets and what it keeps (R491, R492, R495, R506), the requested voltage
of a quadrant (R520), and the tamper response (R464). -/

namespace Sys2Proof.Machine

open Sys2Proof

/-! ### The requested voltage (R520) -/

/-- The code of the lowest operating point that carries a frequency, before guardband. -/
def pointCode (mhz : Nat) : Nat :=
  if mhz ≤ 400 then 0 else if mhz ≤ 800 then 4 else if mhz ≤ 1200 then 9 else if mhz ≤ 1600 then 15 else 22

/-- With guardband steps of 5 mV, rounded up to a step of 10 mV, at most code 25. -/
def voltageCode (mhz gb : Nat) : Nat := min 25 (pointCode mhz + (gb + 1) / 2)

def gbOf (s : State) (q : Nat) : Nat := Tbl.getD s.crag.gb 0 q

/-- CFG_QCLKq as a start leaves it: REQ and CUR at FMAX, GB as Crag kept it (R528). -/
def clockAtStart (s : State) (q : Nat) : State :=
  let f := fmaxOf s q
  s.setR .cfgQclk q (BitVec.ofNat 64
    (gbOf s q * 2 ^ 48 + voltageCode f (gbOf s q) * 2 ^ 32 + f * 2 ^ 16 + f))

/-! ### The device reset (R491) -/

/-- Offsets of the BAS_ and SAD_ registers, which the Base domain holds. -/
def inBase (off : Nat) : Bool := 0x11000 ≤ off && off < 0x13000

/-- Every block at its reset value, but the Base domain, Crag's key store and counters, the flash, the retire
list, repaired rows, CRG_TLOG.COUNT and what lies outside the device. Memory is lost (R313) or filled by the start
(R493). -/
def resetDevice (s : State) : State :=
  let base : State :=
    { State.reset with
      pending := s.pending
      free := s.free
      setup := s.setup.filter (fun e => inBase e.1)
      units := s.units.filter (fun e => e.2 == stRetired)
      repaired := s.repaired
      toHost := s.toHost
      crag := { s.crag with volatileKeys := [] }
      base := s.base
      board := { s.board with healthOk := false, settling := [], hot := [], peak := [] }
      flash := s.flash }
  let s1 := base.setF .crgTlog 0 31 0 (s.fld .crgTlog 0 31 0)
  [0, 1, 2, 3].foldl clockAtStart s1

/-- Boot states (R493). -/
def bootState (s : State) : Nat := s.fld .basBoot 0 63 60
def setBoot (s : State) (st : Nat) : State := s.setF .basBoot 0 63 60 st
def failCount (s : State) : Nat := s.fld .basBoot 0 55 54
def inSaddle (s : State) : Bool := bootState s == 8

def clearFails (s : State) : State :=
  { s.setF .basBoot 0 55 54 0 with base := { s.base with failures := [], failed := false } }

/-- The Base domain's own reset when VIN_AON comes up (R491 KIND 0x0): registers at their reset values, the salt
lost and with it every customer key (R453), the count of tamper events since power-up at 0. -/
def resetBase (s : State) : State :=
  { (s.setF .crgTlog 0 31 0 0) with
    setup := ((s.setF .crgTlog 0 31 0 0).setup).filter (fun e => !inBase e.1)
    base := { State.reset.base with held := s.base.held, salt := false }
    crag := { s.crag with keys := [], cleared := false } }

/-- STARTS after a start of a kind: the start that follows the reset of the Base domain counts from 0 (log 26). -/
def countStart (s : State) (kind : Nat) : State :=
  if kind == 0 then s else s.setR .basBoot 0 (wrapInc (s.reg .basBoot) 31 0 1)

/-- A thermal stop noted before the start raises source 247 after it. -/
def noteThermal (s : State) : State :=
  if s.base.thermal then pulse { s with base := { s.base with thermal := false } } 247 else s

/-- What a start of a kind keeps of the Base domain: the reset of the domain clears it whole, a start that the
kind says so clears FAILS (R491, R506). -/
def baseAtStart (s : State) (kind : Nat) : State :=
  if kind == 0 then resetBase s
  else if kind == 9 || (inSaddle s && (kind == 1 || kind == 2)) then clearFails s else s

/-- No start has failed since this reset. -/
def clearFailed (s : State) : State := { s with base := { s.base with failed := false } }

/-- One device start of a kind (R491, R506). -/
def startOnce (s : State) (kind : Nat) : State :=
  noteThermal (countStart
    ((setBoot (clearFailed (resetDevice (baseAtStart s kind))) 0).setF .basBoot 0 59 56 kind) kind)

/-! ### Tamper (R464, R465) -/

/-- The action of a policy for a source. -/
def tamperAction (policy src : Nat) : Nat := policy / 4 ^ src % 4

/-- CRG_TLOG: the first event since VALID was cleared, and the count since power-up. -/
def logTamper (s : State) (src act : Nat) : State :=
  let w := s.reg .crgTlog
  let w1 := if bitOf w 63 then withBit w 62 true
    else withBits (withBits (withBit w 63 true) 61 58 src) 57 56 act
  { s.setR .crgTlog 0 (wrapInc w1 31 0 1) with crag := { s.crag with lastSource := src } }

/-- CLEAR: volatile keys go, TAMPER_ALARM rises, HEALTH_OK falls (R464, R538, R540). -/
def zeroise (s : State) : State :=
  { s with
    crag := { s.crag with volatileKeys := [], cleared := true }
    board := { s.board with alarm := true, healthOk := false } }

/-- Every customer key is lost and reads as cleared by tamper response. -/
def loseKeys (s : State) : State :=
  { s with crag := { s.crag with
      keys := [], zeroised := s.crag.keys.foldl (fun l e => insertNat l e.1) s.crag.zeroised } }

/-- DESTROY clears the salt too. -/
def destroySalt (s : State) : State := { (loseKeys s) with base := { s.base with salt := false } }

/-- The action up to the start that CLEAR and DESTROY make; the answer tells whether it is due. -/
def tamperEffects (s : State) (src act : Nat) : State × Bool :=
  let s1 := logTamper s src act
  let s2 := if 1 ≤ act then pulse s1 193 else s1
  let s3 := if 2 ≤ act then zeroise s2 else s2
  (if act == 3 then destroySalt s3 else s3, decide (2 ≤ act))

/-- The events that the Base domain recorded while the device was unpowered are acted on before any other work. -/
def applyRecorded (s : State) : State × Bool :=
  let srcs := s.base.recorded
  srcs.foldl (fun (x : State × Bool) src =>
    let (y, due) := tamperEffects x.1 src (tamperAction s.base.policy src)
    (y, x.2 || due)) ({ s with base := { s.base with recorded := [] } }, false)

/-- A device start. -/
def deviceStart (s : State) (kind : Nat) : State :=
  let (s1, due) := applyRecorded (startOnce s kind)
  if due then startOnce s1 5 else s1

/-- The device is without power or stopped, and the Base domain watches alone (R464, R517, R523, R524). -/
def unpowered (s : State) : Bool := s.base.held.any (fun h => 2 ≤ h && h ≤ 5)

/-- A tamper source is detected (R464): while the device is held without power the Base domain performs DESTROY
itself and records every other event. -/
def tamper (s : State) (src : Nat) : State :=
  if unpowered s then
    (if tamperAction s.base.policy src == 3 then destroySalt (zeroise s)
     else { s with base := { s.base with recorded := s.base.recorded ++ [src] } })
  else
    let (s1, due) := tamperEffects s src (s.fld .crgTpol 0 (2 * src + 1) (2 * src))
    if due then deviceStart s1 5 else s1

/-- TAMPER_EVENT. -/
def execTamperEvent (src : Fin 11) (s : State) : Out := .next (
  if s.base.held.contains 6 || (unpowered s && 9 ≤ src.val) then s else tamper s src.val)

/-- TAMPER_ALARM_END (R540). -/
def execTamperAlarmEnd (s : State) : Out := .next { s with board := { s.board with alarm := false } }

end Sys2Proof.Machine
end

