-- ==== Sys2Proof/Machine/Tlb.lean ====
section
/-! DEFINITION. TLB invalidation by CFG_TLBINV (R286, R287). -/

namespace Sys2Proof.Machine

open Sys2Proof

/-- A write of CFG_TLBINVp: dropped while the pair is busy, ignored with a reserved KIND; a write of the whole
register with KIND 0x1 to 0x4 starts an invalidation. -/
def writeTlbinv (s : State) (p : Nat) (w : SetupWrite) : State :=
  if s.flag .cfgTlbstat p 63 then s.setF .cfgTlbstat p 62 62 1
  else if 4 < wfld w 63 60 then s.setF .cfgTlbstat p 61 61 1
  else
    let s1 := storeSetup s .cfgTlbinv p w
    let kind := s1.fld .cfgTlbinv p 63 60
    if w.part == .full && 1 ≤ kind then
      let inv : Inval := ⟨kind, s1.fld .cfgTlbinv p 59 48, s1.fld .cfgTlbinv p 46 14⟩
      { s1 with invs := Tbl.put s1.invs p inv }.setF .cfgTlbstat p 63 63 1
    else s1

/-- TLBINV_START. -/
def execTlbinvStart (p : Fin 97) (w : SetupWrite) (s : State) : Out := .next (
  if w.part == .full && 1 ≤ wfld w 63 60 && wfld w 63 60 ≤ 4 && mayReach s w.agent .cfgTlbinv p.val then
    writeTlbinv s p.val w else s)

/-- Every core's buffered stores are performed: their accesses through an old entry have completed. -/
def drainAll (s : State) : State := (List.finRange 96).foldl drainStores s

/-- TLBINV_COMPLETE. -/
def execTlbinvComplete (p : Fin 97) (s : State) : Out := .next (
  match Tbl.get? s.invs p.val with
  | none => s
  | some i =>
    let s1 := invalidate (drainAll s) i
    let s2 := { s1 with invs := Tbl.del s1.invs p.val }
    (s2.setF .cfgTlbstat p.val 63 63 0).setR .cfgTlbstat p.val
      (wrapInc ((s2.setF .cfgTlbstat p.val 63 63 0).reg .cfgTlbstat p.val) 31 0 1))

end Sys2Proof.Machine
end

