-- ==== Sys2Proof/Machine/MemoryEvents.lean ====
section
/-! DEFINITION. The patrol (R83) and the start of a row repair of a tile store (R293 to R295). -/

namespace Sys2Proof.Machine

open Sys2Proof

/-! ### The patrol (R83) -/

/-- A record of channel q and its source (R319, R392). -/
def channelError (s : State) (q pa : Nat) (e : CairnError) : State :=
  pulse (logCairn s .dmcCherr .dmcCheaddr q pa e) ((if e.kind == 3 then 220 else 216) + q)

/-- A granule that a channel stores is poisoned there: of a line that the deep cache or its buffer holds dirty, the
stored form alone (R79, R302). -/
def poisonStored (s : State) (q pa : Nat) : State :=
  let d := s.deepOf q
  let line := pa / 64
  let add := fun (l : List Nat) => insertNat l (pa % 64 / 16)
  if d.lines.any (fun l => l.line == line && l.dirty) then
    s.setDeep q { d with lines := d.lines.map (fun l => if l.line == line then { l with bad := add l.bad } else l) }
  else if d.evict.any (fun e => e.line == line) then
    s.setDeep q { d with evict := d.evict.map (fun e => if e.line == line then { e with bad := add e.bad } else e) }
  else setPoison s pa

/-- Whether the granule that a channel stores is poisoned there. -/
def storedPoison (s : State) (q pa : Nat) : Bool :=
  let d := s.deepOf q
  match d.lines.find? (fun l => l.line == pa / 64 && l.dirty), evictedLine d (pa / 64) with
  | some l, _ => l.bad.contains (pa % 64 / 16)
  | none, some e => e.bad.contains (pa % 64 / 16)
  | none, none => poisoned s pa

/-- The patrol read of a granule of a channel, over its ciphertext: a corrected granule is written back with a new MAC
and counter (R79, R316). -/
def patrolChannel (s : State) (q pa : Nat) (flips : Codeword) : State :=
  if storedPoison s q pa then s else
  match findingError 1 (judge flips).1 with
  | none => s
  | some e =>
    if e.kind == 3 then poisonStored (channelError s q pa e) q pa
    else (channelError s q pa e).setDeep q (countWriteBack ((channelError s q pa e).deepOf q) (pa / 64))

/-- PATROL_SCRUB: one granule is read and, where needed, corrected or poisoned. -/
def execPatrolScrub (pa : Nat) (flips : Codeword) (s : State) : Out :=
  if physTop ≤ pa then .fault (.noSuchAddress pa)
  else .next (
    if !accessible s pa then s else
    match channelOfPa pa with
    | some q => patrolChannel s q pa flips
    | none => storageCheck s pa 1 flips)

/-! ### Row repair (R295) -/

def bankUsed (s : State) (t bank : Nat) : Nat := ((repairedRows s t).filter (fun r => r % 32 == bank)).length

def writeTsrep (s : State) (t : Nat) (w : SetupWrite) : State :=
  if acts w 63 && s.flag .cfgTsrstat t 63 then s.setF .cfgTsrstat t 7 0 4
  else
    let s1 := storeSetup s .cfgTsrep t w
    if !acts w 63 then s1
    else
      let pa := s1.fld .cfgTsrep t 43 4 * 16
      if tileOfPa pa != some t then s1.setF .cfgTsrstat t 7 0 3
      else if (repairedRows s1 t).contains (rowOf pa) then s1.setF .cfgTsrstat t 7 0 5
      else if 4 ≤ bankUsed s1 t (bankOf pa) then s1.setF .cfgTsrstat t 7 0 2
      else { s1 with rowRepair := Tbl.put s1.rowRepair t (rowOf pa) }.setF .cfgTsrstat t 63 63 1

/-- TSREP_GO. -/
def execTsrepGo (t : TileId) (w : SetupWrite) (s : State) : Out := .next (
  if acts w 63 && mayReach s w.agent .cfgTsrep t.val then writeTsrep s t.val w else s)

end Sys2Proof.Machine
end

