-- ==== Sys2Proof/Machine/DeepMemory.lean ====
section
/-! DEFINITION. Deep memory: write-backs, outcomes of channel reads, retraining, range operations and the
retirement of a channel (R302 to R305, R312 to R320). -/

namespace Sys2Proof.Machine

open Sys2Proof

/-! ### The stored form of a line (R313; log 46) -/

/-- The data of a line as the channel stores it, and which of its granules are poisoned there: a line that the deep
cache or its buffer holds dirty has its new data there alone. -/
def storedData (s : State) (q line : Nat) : BitVec 512 :=
  let d := s.deepOf q
  BitVec.ofNat 512 (ofBytes (match d.lines.find? (fun l => l.line == line && l.dirty), evictedLine d line with
    | some l, _ => l.stored
    | none, some e => e.stored
    | none, none => readBytes s (line * 64) 64))

/-- The channel's key: a new one at every device start. -/
def channelKey (s : State) (q : Nat) : Nat := 4 * s.fld .basBoot 0 31 0 + q

def cipherLine (s : State) (q line : Nat) : BitVec 512 := Config.xts (channelKey s q) (line * 64) (storedData s q line)

/-- The check bits of granule g, over its ciphertext, or the poison pattern (R80). -/
def lineChecks (s : State) (q line g : Nat) : BitVec 16 :=
  if storedPoison s q (line * 64 + 16 * g) then Config.poisonCheck
  else Config.cairnCheck (BitVec.ofNat 128 ((cipherLine s q line).toNat / 2 ^ (128 * g) % 2 ^ 128))

def lineCounter (s : State) (q line : Nat) : Nat := Tbl.getD (s.deepOf q).counters 0 line

/-- The MAC over the ciphertext, the four sets of check bits, the address and the counter. -/
def lineMac (s : State) (q line : Nat) : BitVec 64 :=
  let c := fun g => lineChecks s q line g
  Config.lineMac (channelKey s q) (cipherLine s q line) (c 3 ++ c 2 ++ c 1 ++ c 0) (line * 64) (lineCounter s q line)

/-- The 16 metadata bits of a beat: the check bits of a granule, then 16 bits of the MAC. -/
def metadataBeat (s : State) (q line beat : Nat) : BitVec 16 :=
  if beat % 2 == 0 then lineChecks s q line (beat / 2)
  else BitVec.ofNat 16 ((lineMac s q line).toNat / 2 ^ (16 * (beat / 2)) % 2 ^ 16)

/-! ### Outcomes of a channel read (R316) -/

/-- The lines of a span of n bytes. -/
def linesOf (pa n : Nat) : List Nat := (List.range ((pa + n + 63) / 64 - pa / 64)).map (pa / 64 + ·)

/-- The reads that wait for a line, and for no other, get their bytes, or an error response; a master that gets poison
consumes it (R79, R81). -/
def answerReads (s : State) (q line : Nat) (err : Bool) : State :=
  let d := s.deepOf q
  let s1 := s.setDeep q { d with reads := d.reads.filter (fun x => x.1 != line) }
  let due := fun (f : Flight) => f.waiting && (linesOf f.pa f.len).contains line
    && (err || !(linesOf f.pa f.len).any (fun x => (s1.deepOf q).reads.any (fun y => y.1 == x)))
  let s2 := (s1.flights.filter due).foldl (fun x f => if err then x else consumeSpan x f.pa f.len) s1
  { s2 with flights := s2.flights.map (fun f =>
      if due f then
        { f with waiting := false
                 data := if err then [] else readBytes s2 f.pa f.len
                 error := err || spanPoisoned s2 f.pa f.len }
      else f) }

/-- The class whose mask the line is allocated under. -/
def readClass (s : State) (q line : Nat) : Nat :=
  match (s.deepOf q).reads.find? (fun x => x.1 == line) with
  | some x => x.2
  | none => 0

/-- DMC_INTEGq and DMC_INTADDRq keep the first failure since VALID was cleared (R319). -/
def recordInteg (s : State) (q kind level pa : Nat) : State :=
  let w := s.reg .dmcInteg q
  if bitOf w 63 then s.setR .dmcInteg q (withBit w 62 true)
  else (s.setR .dmcInteg q (withBits (withBits (withBit w 63 true) 61 59 kind) 58 55 level)).setR .dmcIntaddr q
    (BitVec.ofNat 64 (pa / 64 * 64))

/-- An integrity event: its source, and tamper source 9 to Crag (R316, R317, R461). -/
def integrityEvent (s : State) (q kind level pa : Nat) : State :=
  tamper (pulse (recordInteg s q kind level pa) (196 + q)) 9

/-- All four granules are poisoned, the line dirty in the deep cache. -/
def poisonLine (s : State) (q line : Nat) : State :=
  let s1 := cacheTouch s (readClass s q line) (line * 64) 64 true
  [0, 16, 32, 48].foldl (fun x i => setPoison x (line * 64 + i)) s1

/-- One read of a line whose granule has an error pattern over its ciphertext: what the Cairn check finds, and whether
the MAC then matches. -/
structure LineRead where
  found : Option CairnError
  mac : Bool
  deriving DecidableEq, Repr

def readLine (flips : Codeword) : LineRead := ⟨findingError 0 (judge flips).1, decide ((judge flips).2 = 0)⟩

def LineRead.bad (r : LineRead) : Bool := match r.found with | some e => e.kind == 3 | none => false
def LineRead.good (r : LineRead) : Bool := r.mac && !r.bad

/-- The line is delivered; a corrected granule is logged and written back with a new MAC and counter. -/
def deliverLine (s : State) (q line pa : Nat) (r : LineRead) : State :=
  let s1 := match r.found with
    | some e => (channelError s q pa e).setDeep q (countWriteBack ((channelError s q pa e).deepOf q) line)
    | none => s
  answerReads (cacheTouch s1 (readClass s1 q line) (line * 64) 64 false) q line false

/-- The MAC failed on both reads: the line is poisoned, and the event goes to Crag. -/
def macFailure (s : State) (q line : Nat) : State :=
  integrityEvent (answerReads (poisonLine s q line) q line false) q 1 0 (line * 64)

/-- The outcomes of a read, with the second read that an uncorrectable granule or a failed MAC makes (R316). Counter
levels count from 1 (R319). -/
def deepOutcome (s : State) (q line : Nat) (o : DeepOutcome) : State :=
  match o with
  | .data g first again =>
    let pa := line * 64 + 16 * g.val
    let a := readLine first
    let b := readLine again
    if storedPoison s q pa then deliverLine s q line pa ⟨none, true⟩
    else if a.good then deliverLine s q line pa a
    else if b.good then
      deliverLine (if a.bad then s else s.setR .dmcInteg q (satInc (s.reg .dmcInteg q) 15 0)) q line pa b
    else match b.bad, b.found with
      | true, some e => answerReads (poisonLine (channelError s q pa e) q line) q line false
      | _, _ => macFailure s q line
  | .transientMac => deliverLine (s.setR .dmcInteg q (satInc (s.reg .dmcInteg q) 15 0)) q line (line * 64) ⟨none, true⟩
  | .macFailed => macFailure s q line
  | .counterFailed level cl =>
    if level.val == 0 then s else
    let d := s.deepOf q
    let n := 8 ^ level.val
    let first := line / n * n
    let s1 := s.setDeep q { d with badCounters := d.badCounters ++ [(first, n)]
                                   verified := d.verified.filter (fun x => x != (level.val, line / n)) }
    integrityEvent (answerReads s1 q line false) q 2 level.val (cl * 64)

/-- Whether channel q may read a line now: online and within its usable range, or draining with a read of the line that
it accepted before (R320), and the line not held by the deep cache. -/
def mayReadLine (s : State) (q line : Nat) : Bool :=
  let accepted := s.unit (uChan q) == stDraining && (s.deepOf q).reads.any (fun x => x.1 == line)
  channelOfPa (line * 64) == some q && (accessible s (line * 64) || accepted) && !servedHere (s.deepOf q) line

/-- DEEP_READ_COMPLETE. -/
def execDeepReadComplete (q : QuadId) (line : Nat) (o : DeepOutcome) (s : State) : Out := .next (
  if mayReadLine s q.val line && !(s.deepOf q.val).retraining then deepOutcome s q.val line o else s)

/-- DEEP_READ_TIMEOUT: an error response to the reads of masters, and to the core whose access waits (R317); a channel
that retrains raises none (R318). -/
def execDeepReadTimeout (q : QuadId) (line : Nat) (s : State) : Out := .next (
  if mayReadLine s q.val line && !(s.deepOf q.val).retraining then
    let d := s.deepOf q.val
    let s1 := if d.reads.any (fun x => x.1 == line) then answerReads s q.val line true
      else s.setDeep q.val { d with timedOut := insertNat d.timedOut line }
    integrityEvent s1 q.val 4 0 (line * 64)
  else s)

/-- RETRAINING_STALL (R318). -/
def execRetrainingStall (q : QuadId) (s : State) : Out := .next (
  if s.online (uChan q.val) then s.setDeep q.val { s.deepOf q.val with retraining := true } else s)

/-! ### Range operations (R303 to R305) -/

/-- A write of DMC_ROPq. GO while BUSY is ignored; a reserved OP ends at once. -/
def writeRop (s : State) (q : Nat) (w : SetupWrite) : State :=
  if acts w 63 && s.flag .dmcRstat q 63 then s.setF .dmcRstat q 62 62 1
  else
    let s1 := storeSetup s .dmcRop q w
    if !acts w 63 then s1
    else
      let op := s1.fld .dmcRop q 59 56
      if 6 < op then pulse (((s1.setF .dmcRstat q 61 56 3).setF .dmcRstat q 41 0 0)) (200 + q)
      else
        let r : RangeOp := ⟨op, s1.fld .dmcRop q 50 48, s1.fld .dmcRbase q 43 6, s1.fld .dmcRop q 31 0⟩
        (s1.setDeep q { s1.deepOf q with op := some r }).setF .dmcRstat q 63 63 1

/-- A row whose GO starts operation `op` of DMC_ROPq. -/
def startRangeOp (op : Nat) (q : QuadId) (w : SetupWrite) (s : State) : Out := .next (
  if acts w 63 && wfld w 59 56 == op && mayReach s w.agent .dmcRop q.val then writeRop s q.val w else s)

def execClean (q : QuadId) (w : SetupWrite) (s : State) : Out := startRangeOp 1 q w s
def execCleanInv (q : QuadId) (w : SetupWrite) (s : State) : Out := startRangeOp 2 q w s
def execInv (q : QuadId) (w : SetupWrite) (s : State) : Out := startRangeOp 3 q w s
def execPrefetch (q : QuadId) (w : SetupWrite) (s : State) : Out := startRangeOp 4 q w s
def execPrefetchLock (q : QuadId) (w : SetupWrite) (s : State) : Out := startRangeOp 5 q w s
def execUnlock (q : QuadId) (w : SetupWrite) (s : State) : Out := startRangeOp 6 q w s

/-- One visit: the state and what it adds to COUNT_A and COUNT_B. -/
structure Visit where
  s : State
  a : Nat
  b : Nat

def visitWriteBack (q line : Nat) (v : Visit) : Visit :=
  let d := v.s.deepOf q
  match heldLine d line, evictedLine d line with
  | some l, _ =>
    if l.dirty then
      let d1 := { d with lines := d.lines.map (fun x =>
        if x.line == line then { x with dirty := false, stored := [], bad := [] } else x) }
      { v with s := v.s.setDeep q (countWriteBack d1 line), a := v.a + 1 }
    else v
  | none, some e =>
    if e.issued then v else
      let d1 := { d with evict := d.evict.map (fun x => if x.line == line then { x with issued := true } else x) }
      { v with s := v.s.setDeep q (countWriteBack d1 line), a := v.a + 1 }
  | none, none => v

/-- The line leaves the deep cache and every L1. -/
def visitRemove (q line : Nat) (v : Visit) : Visit :=
  let d := v.s.deepOf q
  match heldLine d line with
  | none => v
  | some l =>
    let s1 := v.s.setDeep q { d with lines := d.lines.filter (fun x => x.line != line) }
    { s := removeLine s1 none line, a := v.a + 1, b := v.b + (if l.locked then 1 else 0) }

/-- A line is again what the channel stores: its bytes, and its poison. -/
def restoreLine (s : State) (line : Nat) (stored : List Byte) (bad : List Nat) : State :=
  let s1 := [0, 1, 2, 3].foldl (fun x i => clearPoison x (line * 64 + 16 * i)) (writeBytes s (line * 64) stored)
  bad.foldl (fun x i => setPoison x (line * 64 + 16 * i)) s1

/-- INV brings back what the channel stores. -/
def visitDiscard (q line : Nat) (v : Visit) : Visit :=
  let d := v.s.deepOf q
  match heldLine d line, evictedLine d line with
  | some l, _ => visitRemove q line (if l.dirty then { v with s := restoreLine v.s line l.stored l.bad } else v)
  | none, some e =>
    if e.issued then v else
      let s1 := v.s.setDeep q { d with evict := d.evict.filter (fun x => x.line != line) }
      { v with s := removeLine (restoreLine s1 line e.stored e.bad) none line }
  | none, none => v

/-- A line not held is read and allocated; one that the eviction buffer holds comes back from there with no read. -/
def visitPrefetch (q cls line : Nat) (v : Visit) : Visit :=
  if (heldLine (v.s.deepOf q) line).isSome then v
  else { v with s := deepTouch v.s q cls line false, a := v.a + (if servedHere (v.s.deepOf q) line then 0 else 1) }

/-- PREFETCH_LOCK never locks the sixteenth way of a set (R304). -/
def visitLock (q cls line : Nat) (v0 : Visit) : Visit :=
  let v := visitPrefetch q cls line v0
  let d := v.s.deepOf q
  let locked := (d.lines.filter (fun x => setOfLine x.line == setOfLine line && x.locked && x.line != line)).length
  match heldLine d line with
  | some _ =>
    if 15 ≤ locked then { v with b := v.b + 1 }
    else { v with s := v.s.setDeep q { d with lines := d.lines.map (fun x =>
      if x.line == line then { x with locked := true } else x) } }
  | none => { v with b := v.b + 1 }

def visitUnlock (q line : Nat) (v : Visit) : Visit :=
  let d := v.s.deepOf q
  match heldLine d line with
  | some l =>
    if l.locked then
      { v with s := v.s.setDeep q { d with lines := d.lines.map (fun x =>
          if x.line == line then { x with locked := false } else x) }
               a := v.a + 1 }
    else v
  | none => v

def visit (q op cls : Nat) (v : Visit) (line : Nat) : Visit :=
  match op with
  | 1 => visitWriteBack q line v
  | 2 =>
    let w := visitWriteBack q line v
    visitRemove q line { w with a := v.a }
  | 3 => visitDiscard q line v
  | 4 => visitPrefetch q cls line v
  | 5 => visitLock q cls line v
  | 6 => visitUnlock q line v
  | _ => v

/-- The lines of an operation that lie in the usable range before the first that does not. -/
def linesInside (s : State) (q : Nat) (r : RangeOp) : Nat :=
  let base := (0x1000000000 + q * 0x800000000) / 64
  let top := base + s.sizeKiB (uChan q) * 16
  if base ≤ r.first && r.first < top then min r.lines (top - r.first) else 0

/-- The lines that an operation may act on, rising: all of them for the prefetches, else those held. -/
def visited (s : State) (q n : Nat) (r : RangeOp) : List Nat :=
  if r.op == 4 || r.op == 5 then (List.range n).map (fun i => r.first + i)
  else
    let d := s.deepOf q
    let own := d.lines.foldl (fun l x => insertNat l x.line) []
    let all := d.evict.foldl (fun l x => insertNat l x.line) own
    all.filter (fun l => r.first ≤ l && l < r.first + n)

/-- RANGE_OPERATION_END. -/
def execRangeOperationEnd (q : QuadId) (s : State) : Out := .next (
  match (s.deepOf q.val).op with
  | none => s
  | some r =>
    let n := linesInside s q.val r
    let v := (visited s q.val n r).foldl (visit q.val r.op r.cls) ⟨s, 0, 0⟩
    let s1 := v.s.setDeep q.val { v.s.deepOf q.val with op := none }
    let cap := fun x => min x (2 ^ 21 - 1)
    let code := if r.op != 0 && n < r.lines then 2 else 1
    let s2 := (s1.setF .dmcRstat q.val 63 63 0).setF .dmcRstat q.val 61 56 code
    pulse ((s2.setF .dmcRstat q.val 41 21 (cap v.b)).setF .dmcRstat q.val 20 0 (cap v.a)) (200 + q.val))

/-! ### Retirement (R320) -/

def writeDmcCtl (s : State) (q : Nat) (w : SetupWrite) : State :=
  if acts w 63 && s.online (uChan q) then publishUnit (s.setF .dmcCtl q 2 0 1) (uChan q) stDraining 5 (16 + q) 5
  else s

/-- RETIRE. -/
def execRetire (q : QuadId) (w : SetupWrite) (s : State) : Out := .next (
  if acts w 63 && mayReach s w.agent .dmcCtl q.val then writeDmcCtl s q.val w else s)

/-- CHANNEL_RETIRE_END: once no accepted request is in flight, the cache is discarded and the channel retired. -/
def execChannelRetireEnd (q : QuadId) (s : State) : Out := .next (
  if s.unit (uChan q.val) == stDraining && !s.flights.any (fun f => channelOfPa f.pa == some q.val) then
    let s1 := s.setDeep q.val Deep.empty
    publishUnit (s1.setF .dmcCtl q.val 2 0 2) (uChan q.val) stRetired 5 (16 + q.val) 5
  else s)

end Sys2Proof.Machine
end

