-- ==== Sys2Proof/Machine/Moraine.lean ====
section
/-! DEFINITION. The collector cycle (R327 to R350): the root flip, marking, mark end, selection, evacuation, page
remap, hints, and allocations that wait. -/

namespace Sys2Proof.Machine

open Sys2Proof

def setPhase (s : State) (p : Nat) : State := s.setF .morStat 0 63 61 p
def morEnabled (s : State) : Bool := s.flag .morCtl 0 62

/-- A write of MOR_CTL (R327): START in IDLE begins a cycle; EN leaves OFF, and at IDLE a cleared EN returns to it. -/
def writeMorCtl (s : State) (w : SetupWrite) : State :=
  let s1 := storeSetup s .morCtl 0 w (fun o n => keepField (bitsOf n 15 8 ≤ 100) 15 8 o n)
  let s2 := if phase s1 == 0 && morEnabled s1 then setPhase s1 1
    else if phase s1 == 1 && !morEnabled s1 then setPhase s1 0 else s1
  if acts w 63 && phase s2 == 1 then startCycle s2 else triggerCycle s2

/-- MOR_START. -/
def execMorStart (w : SetupWrite) (s : State) : Out := .next (
  if acts w 63 && mayReach s w.agent .morCtl 0 then writeMorCtl s w else s)

/-- Work for the marker. -/
def addWork (s : State) (ws : List Word) : State := { s with mor := { s.mor with work := s.mor.work ++ ws } }

/-- Words that the marker takes as references (R330, R331): pointers and code addresses. -/
def isReference (w : Word) : Bool := isPointerTag (tagOf w) || tagOf w == 0x30

/-! ### The root flip (R331, R332) -/

def healTbl (s : State) (t : Tbl Word) : Tbl Word := t.map (fun e => (e.1, healMoved s e.2))

/-- The words in use on the emergency stack: from g7 up while g7 lies in it (R331, R234). -/
def emergencyInUse (k : Core) : List Nat :=
  (List.range 64).filter (fun i => tagOf k.g7 == 0x32 && inEmergency (valOf k.g7) && valOf k.g7 ≤ emergBase + 8 * i)

/-- The roots of a core with their forwarded pointers replaced. -/
def healRoots (s : State) (k : Core) : Core :=
  { k with
    reel := healTbl s k.reel
    trapw := if k.tw || k.lastResort then healTbl s k.trapw else k.trapw
    globals := healTbl s k.globals
    fast := healTbl s k.fast
    wbuf := k.wbuf.map (healMoved s)
    emerg := (emergencyInUse k).foldl (fun t i =>
      let old := (List.range 8).map (fun j => Tbl.getD t 0 (8 * i + j))
      let w := wordOfBytes old
      let w1 := healMoved s w
      if w1 == w then t
      else (List.range 8).foldl (fun t j => Tbl.put t (8 * i + j) ((bytesOfWord w1).getD j 0)) t) k.emerg }

/-- The references among the roots: registers, active loop levels, the fast-class and window-trap records, the
words in use on the emergency stack, and the write-barrier buffer. -/
def rootWords (k : Core) : List Word :=
  let loops := fun (t : Tbl Word) => (t.filter (fun e => e.1 < k.ld)).map (·.2)
  let fast := match k.fastRet with | some r => [retWord r.pc r.fmt] | none => []
  let wt := match k.wtrap with | some r => [retWord r.pc k.fmt] | none => []
  let emerg := (emergencyInUse k).map (fun i => wordOfBytes ((List.range 8).map (fun j => Tbl.getD k.emerg 0 (8 * i + j))))
  let trap := if k.tw || k.lastResort then k.trapw.map (·.2) else []
  (k.reel.map (·.2) ++ trap ++ k.globals.map (·.2) ++ k.fast.map (·.2) ++ loops k.ls ++ loops k.le
    ++ fast ++ wt ++ emerg ++ k.wbuf).filter isReference

/-- g6 and g7 as the flip records them. -/
def stackTops (k : Core) : List Nat := [k.g6, k.g7].filterMap (fun w => if tagOf w == 0x32 then some (valOf w) else none)

/-- Cores that FLIP still has to scan: the leads and split cores that run or wait. -/
def unscanned (s : State) : List CoreId :=
  (List.finRange 96).filter (fun c =>
    let k := s.core c
    leadOf s c == c && !k.scanned && k.mode != .halted && k.mode != .stopped)

def endFlip (s : State) : State := if phase s == 2 && (unscanned s).isEmpty then setPhase s 3 else s

/-- ROOT_SCAN: a core at a boundary, not in a patch drain. -/
def execRootScan (c : CoreId) (s : State) : Out := .next (
  if phase s != 2 then s else
  match sourceCore s c with
  | none => s
  | some c0 =>
    let k := s.core c0
    if k.mode == .halted || k.mode == .stopped || k.mode == .patching || (s.core (leadOf s c)).scanned then endFlip s
    else
      let k1 := healRoots s k.landAll
      let s1 := s.setCore c0 { k1 with wbuf := [], alloc := k1.alloc }
      let s2 := addWork { s1 with mor := { s1.mor with tops := s1.mor.tops ++ stackTops k1 } } (rootWords k1)
      let s3 := (partners s c).foldl (fun x m => x.modCore m (fun k => { k with scanned := true })) (mirror s2 c0)
      endFlip s3)

/-! ### Marking (R328 to R330, R333, R347) -/

/-- The object that holds an address: the last start at or below it in its region, or the head of its run. -/
def objectStart (s : State) (va : Nat) : Option Nat :=
  match regionOf s va with
  | none => none
  | some r =>
    let base := regionBase s r
    let n := (va - base) / 16
    match (List.range (n + 1)).reverse.find? (fun i => isStart s (base + 16 * i)) with
    | some i => some (base + 16 * i)
    | none =>
      if descKind (desc s r) == 4 then
        ((List.range r).reverse.find? (fun h => descKind (desc s h) != 4)).map (regionBase s)
      else none

/-- The slots of an object that the marker reads: offsets of words. A vector with a recorded g6 or g7 in its body
is traced from the lowest such address (R333). -/
def tracedOffsets (s : State) (va : Nat) (hdr : Option Word) : List Nat :=
  match hdr with
  | none => [0, 8]
  | some h =>
    if tagOf h == 0x22 then (if hdrSeal h then [24] else [])
    else
      let n := hdrLength h
      let tops := if tagOf h == 0x21 then s.mor.tops.filter (fun a => va ≤ a && a < va + 8 * (1 + n)) else []
      let first := match tops with | [] => 0 | t :: ts => ts.foldl min t
      ((List.range n).map (fun i => 8 * (i + 1))).filter (fun o => first ≤ va + o)

/-- One slot: a pointer into a forwarded region is replaced, a reference becomes work, a T.WEAK slot is recorded. A word
that fails its inspection (R51) is left as it stands, and so is a slot of a raw page (R276). -/
def traceSlot (t : Nat) (s0 : State) (va : Nat) : State :=
  let s := heapTouch (withEngine s0 t) va 8
  match mapWord s 2 (heapSpace s) va with
  | none => s
  | some pa =>
    if !accessible s pa then s
    else if poisoned s pa then meetPoison s t pa
    else
      let w := readWord s pa
      if (inspectWord w).isSome then s else
      let w1 := healMoved s w
      let s1 := if w1 == w then s else (heapWrite s va (bytesOfWord w1)).getD s
      if tagOf w1 == 0x1A then { s1 with mor := { s1.mor with weak := insertNat s1.mor.weak va } }
      else if isReference w1 then addWork s1 [w1] else s1

/-- Count marked granules of an engine (MOR_CNTBt.MARK_MIB). -/
def countMarked (s : State) (t size : Nat) : State :=
  let n := Tbl.getD s.mor.marked 0 t + size / 16
  { s with mor := { s.mor with marked := Tbl.putD s.mor.marked 0 t n } }.setF .morCntb t 63 32 (n / 65536)

/-- Mark an object and trace its slots. -/
def markObject (t : Nat) (s : State) (va : Nat) : State :=
  match regionOf s va with
  | none => s
  | some r =>
    if descKind (desc s r) == 6 || descKind (desc s r) == 0 || isMarked s va then s
    else
      let s1 := heapTouch (setMark (withEngine s t) va) va 8
      match heapPa s1 va with
      | none => s1
      | some pa =>
        if poisoned s1 pa then meetPoison s1 t pa
        else
          let hdr := if descKind (desc s r) == 1 then none else heapWord s1 va
          let s2 := countMarked s1 t ((sizeAt s1 va).getD 16)
          (tracedOffsets s2 va hdr).foldl (fun x o => traceSlot t x (va + o)) s2

/-- One word of work: its referent, past a forwarding word; a code address names the code object that holds it. -/
def traceWord (t : Nat) (s : State) (w : Word) : State :=
  if tagOf w == 0x30 then
    match objectStart s (retAddr w) with
    | some a => markObject t s a
    | none => s
  else if isPointerTag (tagOf w) then markObject t s (valOf (healMoved s w)) else s

/-- Trace until no work is left; fuel counts words. -/
def traceAll (t : Nat) : Nat → State → State
  | 0, s => s
  | f + 1, s =>
    match s.mor.work with
    | [] => s
    | w :: ws => traceAll t f (traceWord t { s with mor := { s.mor with work := ws } } w)

/-- Partly filled write-barrier buffers go to the engines (R336). -/
def handOverAll (s : State) : State :=
  (List.finRange 96).foldl (fun x c => if (x.core c).wbuf.isEmpty then x else handOver x c) s

/-- MARK_TRACE: an engine takes one word of work; with none left anywhere and every buffer empty, MARK ends. -/
def execMarkTrace (t : TileId) (s : State) : Out := .next (
  if phase s != 3 then s else
  match s.mor.work with
  | w :: ws => traceWord t.val { s with mor := { s.mor with work := ws } } w
  | [] =>
    let s1 := handOverAll s
    if s1.mor.work.isEmpty then setPhase s1 4 else s1)

/-! ### Mark end (R346 to R348) -/

/-- Allocation buffers and cursors that point into a region are given up when it is freed. -/
def dropCursors (s : State) (r : Nat) : State :=
  let out := fun (e : Nat × Nat) => regionOf s e.2 != some r
  { s with
    cores := s.cores.map (fun x => (x.1, { x.2 with alloc := x.2.alloc.filter out }))
    mor := { s.mor with cursors := s.mor.cursors.filter out } }

/-- A region becomes free. -/
def freeRegion (s : State) (r : Nat) : State :=
  let s1 := dropCursors (setBstate s r 0) r
  setDesc (clearBitmap s1 (startBase s1) r) r (fixN 0)

/-- The starts of the marked objects of a region. -/
def markedIn (s : State) (r : Nat) : List Nat :=
  ((List.range 16384).map (fun i => regionBase s r + 16 * i)).filter (fun a => isStart s a && isMarked s a)

def pinnedObject (s : State) (va : Nat) : Bool :=
  match regionOf s va with
  | some r => descKind (desc s r) != 1 && (match heapWord s va with | some h => isHeaderTag (tagOf h) && hdrPin h | none => false)
  | none => false

/-- LIVE and PINNED of a region; a forwarded region, a dead large run, an empty code region and an empty region that was
pinned are freed, unless they were allocated into since the flip. -/
def endRegion (s : State) (r : Nat) : State :=
  let d := desc s r
  let kind := descKind d
  let live := (markedIn s r).foldl (fun n a => n + (sizeAt s a).getD 16 / 16) 0
  let pinned := (markedIn s r).any (pinnedObject s)
  let keep := fun (x : State) =>
    setDesc x r (withBits (withBits (desc x r) 14 0 (min live 16384)) 49 49 (if pinned then 1 else 0))
  if kind == 0 || kind == 4 || kind == 6 || kind == 7 then s
  else if bstateOf s r == 2 then freeRegion s r
  else if kind == 3 then
    (if live == 0 && bitsOf d 50 50 == 0 then (List.range (bitsOf d 39 20)).foldl (fun x i => freeRegion x (r + i)) s else keep s)
  else if kind == 5 then (if live == 0 && bitsOf d 50 50 == 0 then freeRegion s r else keep s)
  else if live == 0 && bitsOf d 50 49 == 1 then freeRegion s r
  else keep s

/-- One slot of the finalisation list (R348). -/
def finaliseSlot (s : State) (va : Nat) : State :=
  match heapWord s va with
  | none => s
  | some w0 =>
    let w := healMoved s w0
    if tagOf w != 0x1A || isMarked s (valOf w) then s
    else
      let s1 := traceAll 0 (2 ^ 40) (markObject 0 s (valOf w))
      let tag := match regionOf s1 (valOf w), heapWord s1 (valOf w) with
        | some r, some h => if descKind (desc s1 r) == 1 then 0x10 else strongTagOfHeader h
        | _, _ => 0x10
      match appendReg s1 .morFinmbox 0 2 (mkWord tag (valOf w)) with
      | (s2, .posted) => (heapWrite s2 va (bytesOfWord nil)).getD s2
      | (s2, .full) => s2.setF .morStat 0 59 59 1
      | (s2, .malformed) | (s2, .forged) | (s2, .failed _) => s2

def finalise (s : State) : State :=
  if !s.flag .morFinlist 0 63 then s else
    let a := s.fld .morFinlist 0 46 4 * 16
    match heapWord s a with
    | some h =>
      if tagOf h == 0x21 && !headerMalformed h then (List.range (hdrLength h)).foldl (fun x i => finaliseSlot x (a + 8 * (i + 1))) s else s
    | none => s

/-- A recorded T.WEAK slot whose referent is unmarked becomes T.NIL, unless it has changed (R347). -/
def clearWeak (s : State) (va : Nat) : State :=
  match heapWord s va with
  | some w => if tagOf w == 0x1A && !isMarked s (valOf w) then (heapWrite s va (bytesOfWord nil)).getD s else s
  | none => s

/-- MARK_END: finalisation, weak slots, then the regions; allocations that waited may find a region. -/
def execMarkEnd (s : State) : Out := .next (
  if phase s != 4 then s else
    let s1 := finalise s
    let s2 := s1.mor.weak.foldl clearWeak s1
    let s3 := (List.range (regionCount s2)).foldl endRegion s2
    setPhase (countFree { s3 with mor := { s3.mor with weak := [], work := [] } }) 5)

/-! ### Selection (R337) -/

/-- Hints given with GO since the last SELECT (MOR_HINT). -/
def applyHint (s : State) (h : Nat × Nat × Nat) : State :=
  let (r, op, dest) := h
  let d := desc s r
  match op with
  | 3 => setDesc s r (withBits d 45 45 1)
  | 4 => setDesc s r (withBits (withBits d 46 46 1) 43 40 dest)
  | 5 => setDesc s r (withBits d 46 45 0)
  | _ => s

def liveOf (s : State) (r : Nat) : Nat := bitsOf (desc s r) 14 0
def wanted (s : State) (r : Nat) : Bool := bitsOf (desc s r) 46 45 != 0

def selectable (s : State) (r : Nat) : Bool :=
  let d := desc s r
  (descKind d == 1 || descKind d == 2) && bstateOf s r == 0 && bitsOf d 50 49 == 0 && bitsOf d 44 44 == 0
    && (wanted s r || liveOf s r * 100 < 16384 * s.fld .morCtl 0 15 8)

/-- Insertion by the order of R337: EVAC and DRAIN first, then rising LIVE, then rising number. -/
def insertRegion (s : State) (r : Nat) : List Nat → List Nat
  | [] => [r]
  | x :: xs =>
    let before := if wanted s r == wanted s x then liveOf s r < liveOf s x else wanted s r
    if before then r :: x :: xs else x :: insertRegion s r xs

/-- Take regions in order while the free regions can hold the live data of all chosen; one with LIVE 0 is freed. -/
def chooseRegions : List Nat → State → Nat → State
  | [], s, _ => s
  | r :: rs, s, held =>
    if liveOf s r == 0 then chooseRegions rs (countFree (freeRegion s r)) held
    else if held + liveOf s r ≤ 16384 * s.fld .morStat 0 51 32 then
      chooseRegions rs (setBstate s r 1) (held + liveOf s r)
    else chooseRegions rs s held

/-- SELECT: every core has drained the stores issued before it acknowledges the change (R339). -/
def execSelect (s : State) : Out := .next (
  if phase s != 5 then s else
    let s1 := drainAll (s.mor.hints.foldl applyHint s)
    let s2 := { s1 with mor := { s1.mor with hints := [] } }
    let order := ((List.range (regionCount s2)).filter (selectable s2)).foldl (fun l r => insertRegion s2 r l) []
    setPhase (countFree (chooseRegions order s2 0)) 6)

/-! ### Evacuation (R339, R344) -/

/-- The next marked object of a region that has not moved. -/
def nextUnmoved (s : State) (r : Nat) : Option Nat :=
  (markedIn s r).find? (fun a => match heapWord s a with | some w => tagOf w != 0x2E | none => false)

/-- EVACUATE_COPY: the owner's next object, or the end of its first evacuating region. -/
def execEvacuateCopy (t : TileId) (s : State) : Out := .next (
  if phase s != 6 then s else
  match (List.range (regionCount s)).find? (fun r => bstateOf s r == 1 && ownerOf s r == t.val) with
  | none => s
  | some r =>
    match nextUnmoved s r with
    | none => setBstate s r 2
    | some a =>
      match moveObject s a none with
      | some (_, s1) => s1
      | none => s)

/-- CYCLE_END. -/
def execCycleEnd (s : State) : Out := .next (
  if phase s == 6 && (List.range (regionCount s)).all (fun r => bstateOf s r != 1) then
    let s1 := s.setR .morStat 0 (wrapInc (s.reg .morStat) 31 0 1)
    let s2 := setPhase s1 (if morEnabled s1 then 1 else 0)
    triggerCycle (pulse s2 (tileSource 0 10))
  else s)

/-- The tile that a master's request names as its own, where it has one. -/
def tileOfMaster : Master → Option Nat
  | .core c => some (tileOfCore c)
  | .moraine t | .cirque t => some t.val
  | _ => none

/-- MOVE_REQUEST: the owner moves an object of at most 4 KiB of an evacuating region now (R341). -/
def execMoveRequest (m : Master) (w : Word) (s : State) : Out := .next (
  if !isPointerTag (tagOf w) then s else
  match regionOf s (valOf w) with
  | none => s
  | some r =>
    if bstateOf s r != 1 || (movedWord s w).isSome || 4096 < (sizeAt s (valOf w)).getD 0 then s else
    match moveObject s (valOf w) (tileOfMaster m) with
    | some (_, s1) => s1.setR .morCnta (ownerOf s r) (wrapInc (s1.reg .morCnta (ownerOf s r)) 31 0 1)
    | none => s)

/-- The head region of a large run, or the region itself. -/
def runHead (s : State) (r : Nat) : Nat :=
  if descKind (desc s r) == 4 then
    ((List.range r).reverse.find? (fun h => descKind (desc s h) == 3)).getD r
  else r

/-- PAGE_REMAP: a page of a drained large run or code region gets the physical page that the command names, in the
DEST tile; pages pinned in their leaf or of an older epoch are skipped (R344; log 32). -/
def execPageRemap (va page : Nat) (s : State) : Out := .next (
  let base := va / 16384 * 16384
  let new := 16384 * page
  match regionOf s base with
  | none => s
  | some r =>
    let h := desc s (runHead s r)
    let kind := descKind h
    let fits := (kind == 3 || kind == 5) && bitsOf h 46 46 == 1 && tileOfPa new == some (bitsOf h 43 40)
    match masterWalk s (heapSpace s) base 2 with
    | .error _ => s
    | .ok (leaf, pa) =>
      if phase s == 6 && fits && accessible s new && !bitOf leaf 2 && leafEpoch leaf == globalEpoch s
          && !spaceIdmap s (heapSpace s) then
        let s1 := invalidate (drainAll s) ⟨4, 0, base / 16384⟩
        let s2 := copyPage s1 2 (16384 * leafPpn leaf) new
        putWord s2 2 pa (withBits leaf 39 10 page)
      else s)

/-! ### Hints and waits -/

/-- A write of MOR_HINT. -/
def writeMorHint (s : State) (w : SetupWrite) : State :=
  let s1 := storeSetup s .morHint 0 w (fun o n => keepField (bitsOf n 58 56 ≤ 5) 58 56 o n)
  let r := s1.fld .morHint 0 19 0
  if !acts w 63 || regionCount s1 ≤ r then s1
  else match s1.fld .morHint 0 58 56 with
    | 0 => s1
    | 1 => descField s1 r 44 44 1
    | 2 => descField s1 r 44 44 0
    | op => { s1 with mor := { s1.mor with hints := s1.mor.hints ++ [(r, op, s1.fld .morHint 0 55 52)] } }

/-- MOR_HINT_GO. -/
def execMorHintGo (w : SetupWrite) (s : State) : Out := .next (
  if acts w 63 && mayReach s w.agent .morHint 0 then writeMorHint s w else s)

/-- HEAP_FULL_TIMEOUT: the allocation that waited raises HEAP_FULL (R349). -/
def execHeapFullTimeout (c : CoreId) (s : State) : Out := .next (
  match sourceCore s c with
  | none => s
  | some c =>
    match (s.core c).mode with
    | .heapWait t npc =>
      let s1 := s.modCore c (fun k => { k with mode := .running, onlyB := false })
      mirror (raiseStop s1 c (.trap t) (s1.core c).pc npc) c
    | _ => s)

/-- ALLOCATION_WAIT_END: a region is free again, and the instruction executes anew. -/
def execAllocationWaitEnd (c : CoreId) (s : State) : Out := .next (
  match (s.core c).mode with
  | .heapWait _ _ =>
    if s.fld .morStat 0 51 32 == 0 then s else setModes s (partners s c) .running
  | _ => s)

end Sys2Proof.Machine
end

