-- ==== Sys2Proof/Machine/Crest.lean ====
section
/-! DEFINITION. The Cirque unit's table making (R356), and Crest: pools, advance, release and rebase
(R362 to R373). -/

namespace Sys2Proof.Machine

open Sys2Proof

/-! ### HEAP_FULL of a master (R349) -/

/-- The record of an allocation by a master that found no region: a cycle begins where EN is 1 and the phase IDLE;
the wait of FULLWAIT has run out (log 33). -/
def engineHeapFull (s : State) (t : Nat) : State :=
  let s1 := if phase s == 1 && morEnabled s then startCycle s else s
  pulse (s1.setF .morStat 0 58 58 1) (tileSource t 12)

/-! ### CIRQUE_TABLE_MAKE (R356) -/

def cirqueBad (s : State) (t : Nat) (full : Bool) : State :=
  pulse (if full then s.setF .cqxStat t 63 63 1 else s.setF .cqxStat t 62 62 1) (tileSource t 13)

/-- The reply of the unit. -/
def cirqueReply (s : State) (t : Nat) (mbox : Nat) (w : Word) : State :=
  match appendMailbox s (heapSpace s) 3 mbox w with
  | (s1, .posted) => s1
  | (s1, _) => cirqueBad s1 t true

def makeTable (s : State) (t seed k : Nat) : Option (Word × State) :=
  let slots := tableSlots seed k
  let bs := taggedBytes (mkHeader 0x20 9 slots.length 0) slots
  match engineObject s t (kindFor false false bs.length) bs with
  | some (a, s1) => some (mkWord 0x14 a, s1)
  | none => none

def execCirqueTableMake (t : TileId) (s : State) : Out := .next (
  if !s.flag .cqxCmd t.val 63 || !s.online (uTile t.val) then s else
  match takeMessage (withEngine s t.val) (heapSpace s) 3 (s.fld .cqxCmd t.val 46 4 * 16) with
  | none => missedMessage (withEngine s t.val) (heapSpace s) 3 (s.fld .cqxCmd t.val 46 4 * 16)
  | some (msg0, s0) =>
    match loadBarrier s0 t.val msg0 with
    | none => cirqueBad s0 t.val false
    | some (msg, _, s1) =>
      if tagOf msg != 0x10 || !addressFormatOk msg then cirqueBad s1 t.val false else
      let s1 := heapTouch s1 (valOf msg) 16
      match heapWord s1 (valOf msg), heapWord s1 (valOf msg + 8) with
      | some d, some r0 =>
        match loadBarrier s1 t.val r0 with
        | none => cirqueBad s1 t.val false
        | some (r, _, s1) =>
          if tagOf r != 0x14 || !(mailboxAt s1 3 (heapSpace s1) (valOf r)).isOk then cirqueBad s1 t.val false
          else
            let k := bitsOf d 4 0
            if !isFix d || bitsOf d 55 40 != 0 || bitsOf d 7 5 != 0 || k < 4 || 16 < k then
              cirqueReply s1 t.val (valOf r) (fixN 1)
            else match makeTable s1 t.val (bitsOf d 39 8) k with
              | some (w, s2) => cirqueReply s2 t.val (valOf r) w
              | none => cirqueReply (engineHeapFull s1 t.val) t.val (valOf r) (fixN 2)
      | _, _ => cirqueBad s1 t.val false)

/-! ### Pools (R363) -/

def anyHeld (s : State) : Bool := (List.range 8).any (fun k => s.flag .cfgSnap k 63)

/-- The block of pool n. -/
def inPool (n pa : Nat) : Bool := if n < 16 then tileOfPa pa == some n else channelOfPa pa == some (n - 16)

/-- A write of CFG_CRPOOLn loads the pool, unless a snapshot is held; pages outside its block do not join it (DESIGN
CHOICE, log 33). -/
def writeCrpool (s : State) (n : Nat) (w : SetupWrite) : State :=
  if anyHeld s then s
  else
    let s1 := storeSetup s .cfgCrpool n w
    let base := s1.fld .cfgCrpool n 43 14
    let pages := (List.range (s1.fld .cfgCrpool n 13 0)).map (fun i => 16384 * (base + i))
    setPool s1 n (pages.filter (inPool n))

/-- CRPOOL_LOAD. -/
def execCrpoolLoad (n : Fin 20) (w : SetupWrite) (s : State) : Out := .next (
  if mayReach s w.agent .cfgCrpool n.val then writeCrpool s n.val w else s)

/-! ### Advance (R364, R365) -/

/-- Why an advance into slot k is refused. A live space without tables is refused as a bad space (log 33). -/
def advanceRefused (s : State) (k : Nat) : Option Nat :=
  let sp := s.fld .cfgSnap k 59 48
  let lv := s.fld .cfgSnap k 47 36
  let other := (List.range 8).any (fun j => j != k && s.flag .cfgSnap j 63 && s.fld .cfgSnap j 59 48 == sp)
  if s.flag .cfgSnap k 63 then some 2
  else if globalEpoch s == 0xFFFF then some 4
  else if sp == 0 || sp == lv || other || !spaceValid s lv || spaceIdmap s lv then some 8
  else none

def copyTable (s : State) (t : Nat) : Option (Nat × State) :=
  match takePage s (poolOf t) with
  | some (p, s1) => some (p, copyPage s1 2 t p)
  | none => none

/-- Copy the level-2 tables that a copied level-1 table maps, and point it at the copies. -/
def copyLevel2 (l1 : Nat) : List Nat → State → Option State
  | [], s => some s
  | i :: is, s =>
    let e := readWord s (l1 + 8 * i)
    if !bitOf e 0 then copyLevel2 l1 is s
    else match copyTable s (16384 * leafPpn e) with
      | none => none
      | some (p, s1) => copyLevel2 l1 is (putWord s1 2 (l1 + 8 * i) (withBits e 39 10 (p / 16384)))

/-- The copies of an advance into slot k: the new root. -/
def advanceCopies (s : State) (k : Nat) : Option (Nat × State) :=
  match copyTable s (16384 * s.fld .cfgSproot (s.fld .cfgSnap k 47 36) 43 14) with
  | none => none
  | some (l1, s1) => (copyLevel2 l1 (List.range 2048) s1).map (fun s2 => (l1, s2))

/-- The advance: every write is performed first; the answer is its CODE. A refusal changes nothing. -/
def advanceInto (s0 : State) (k : Nat) : Nat × State :=
  match advanceRefused s0 k with
  | some c => (c, s0)
  | none =>
    let s := drainAll s0
    match advanceCopies s k with
    | none => (6, s0)
    | some (l1, s1) =>
      let sp := s1.fld .cfgSnap k 59 48
      let root := withBits (withBits 0#64 63 61 5) 43 14 (l1 / 16384)
      let s2 := s1.setR .cfgSproot sp root
      let s3 := (s2.setF .cfgSnap k 15 0 (globalEpoch s2)).setF .cfgSnap k 63 63 1
      (1, s3.setF .cfgCrest 0 15 0 (globalEpoch s3 + 1))

def setCrestCode (s : State) (c : Nat) : State := s.setF .cfgCrest 0 47 40 c
def crestBusy (s : State) : Bool := s.flag .cfgCrest 0 60

/-- Devices of the Range (R481): one without a roster. -/
def rangeSize (s : State) : Nat := s.fld .rdgRange 0 7 0 * s.fld .rdgRange 0 15 8

/-! ### Release (R371) -/

/-- The pages that the valid entries of a table name. -/
def tableEntries (s : State) (t : Nat) : List Nat :=
  (List.range 2048).filterMap (fun i =>
    let e := readWord s (t + 8 * i)
    if bitOf e 0 then some (16384 * leafPpn e) else none)

/-- Every table and page that a space reaches from a root. -/
def reachedPages (s : State) (root : Nat) : List Nat :=
  let t2 := tableEntries s root
  let t3 := (t2.map (tableEntries s)).flatten
  let data := (t3.map (tableEntries s)).flatten
  root :: (t2 ++ t3 ++ data)

/-- The pages that other valid spaces reach. -/
def pagesOfOthers (s : State) (sp : Nat) : List Nat :=
  (((List.range 4096).filter (fun n => n != sp && spaceValid s n && !spaceIdmap s n)).map
    (fun n => reachedPages s (16384 * s.fld .cfgSproot n 43 14))).flatten

def releaseEnd (s : State) (k : Nat) : State :=
  let sp := s.fld .cfgSnap k 59 48
  let others := pagesOfOthers s sp
  let own := (reachedPages s (16384 * s.fld .cfgSproot sp 43 14)).foldl insertNat []
  let s1 := (own.filter (fun p => !others.contains p)).foldl givePage s
  s1.setF .cfgSnap k 63 63 0

def releaseStart (s : State) (k : Nat) : State :=
  if !s.flag .cfgSnap k 63 then setCrestCode s 3
  else
    let sp := s.fld .cfgSnap k 59 48
    let s1 := invalidate (s.setF .cfgSproot sp 63 63 0) ⟨2, sp, 0⟩
    { s1 with crestOp := some (.release k) }.setF .cfgCrest 0 60 60 1

/-! ### Rebase (R372) -/

def rebaseStart (s : State) : State :=
  if anyHeld s then setCrestCode s 5
  else { s with crestOp := some .rebase }.setF .cfgCrest 0 60 60 1

/-- EPOCH 0 in every leaf of a level-3 table. -/
def sweepTable (s : State) (t : Nat) : State :=
  (List.range 2048).foldl (fun x i =>
    let e := readWord x (t + 8 * i)
    if bitOf e 0 && leafEpoch e != 0 then putWord x 2 (t + 8 * i) (withBits e 55 40 0) else x) s

/-- The level-3 tables of every space with a table of its own. -/
def walkedTables (s : State) : List Nat :=
  let spaces := (List.range 4096).filter (fun n => spaceValid s n && !spaceIdmap s n)
  (spaces.map (fun n =>
    ((tableEntries s (16384 * s.fld .cfgSproot n 43 14)).map (tableEntries s)).flatten)).flatten

/-- REBASE clears every EPOCH and starts the count again at 0. -/
def rebaseEnd (s : State) : State :=
  let s1 := (walkedTables s).foldl sweepTable s
  (invalidate s1 ⟨3, 0, 0⟩).setF .cfgCrest 0 15 0 0

/-- CREST_OPERATION_END. -/
def execCrestOperationEnd (s : State) : Out := .next (
  let fin := fun (x : State) => setCrestCode ({ x with crestOp := none }.setF .cfgCrest 0 60 60 0) 1
  match s.crestOp with
  | some (.release k) => fin (releaseEnd s k)
  | some .rebase => fin (rebaseEnd s)
  | _ => s)

/-! ### CFG_CREST -/

/-- A write of CFG_CREST. While BUSY no operation starts and CODE becomes 0x07. With several bits set the first of
ADVANCE, RELEASE, REBASE counts (log 33). -/
def writeCrest (s : State) (w : SetupWrite) : State :=
  let s1 := storeSetup s .cfgCrest 0 w
  let k := s1.fld .cfgCrest 0 57 55
  if !(acts w 63 || acts w 62 || acts w 61) then s1
  else if crestBusy s1 then setCrestCode s1 7
  else if acts w 63 then
    if s1.flag .cfgCrest 0 58 && 1 < rangeSize s1 then
      match advanceRefused s1 k with
      | some c => setCrestCode s1 c
      | none => { s1 with crestOp := some (.range k) }.setF .cfgCrest 0 60 60 1
    else
      let (c, s2) := advanceInto s1 k
      setCrestCode s2 c
  else if acts w 62 then releaseStart s1 k
  else rebaseStart s1

def execAdvance (w : SetupWrite) (s : State) : Out := .next (
  if acts w 63 && mayReach s w.agent .cfgCrest 0 then writeCrest s w else s)
def execRelease (w : SetupWrite) (s : State) : Out := .next (
  if acts w 62 && !acts w 63 && mayReach s w.agent .cfgCrest 0 then writeCrest s w else s)
def execRebase (w : SetupWrite) (s : State) : Out := .next (
  if acts w 61 && !acts w 62 && !acts w 63 && mayReach s w.agent .cfgCrest 0 then writeCrest s w else s)

/-- A write of CFG_SNAPk: its spaces keep their values while the slot is held. -/
def writeSnap (s : State) (k : Nat) (w : SetupWrite) : State :=
  if s.flag .cfgSnap k 63 then s else storeSetup s .cfgSnap k w

end Sys2Proof.Machine
end

