-- ==== Sys2Proof/Machine/Troika.lean ====
section
/-! DEFINITION. Resynchronisation, troika reset and debug access but for the single step (R380 to R390). -/

namespace Sys2Proof.Machine

open Sys2Proof

/-! ### Resynchronisation (R380, R381) -/

/-- The minority core takes the whole state of the source core; a patch level that changes is published (R42). -/
def copyCore (s : State) (src dst : CoreId) : State :=
  let s1 := (s.setCore dst { s.core src with minority := false }).setR .mcPatchVersion dst.val (s.reg .mcPatchVersion src.val)
  if s.reg .mcPatchVersion dst.val == s.reg .mcPatchVersion src.val then s1 else publish s1 3 dst.val 4

def countResync (s : State) (k : TroikaId) : State := s.setR .trkStat k (satInc (s.reg .trkStat k) 15 0)

/-- RESYNCHRONISATION: at a boundary, not in a patch drain. -/
def execResynchronisation (k : TroikaId) (s : State) : Out := .next (
  match (members k).find? (fun c => (s.core c).minority), (members k).find? (fun c => !(s.core c).minority) with
  | some dst, some src =>
    if troikaVoted s k.val && (s.core src).mode != .patching && (Tbl.get? s.resets k.val).isNone then
      countResync (copyCore s src dst) k
    else s
  | _, _ => s)

/-! ### Troika reset (R387, R388) -/

/-- A write of TRK_CTLk. A troika that is not configured or is retired takes no reset (R39). -/
def writeTrkCtl (s : State) (k : TroikaId) (w : SetupWrite) : State :=
  let s1 := storeSetup s .trkCtl k.val w
  let st := s1.unit (uTroika k.val)
  if !acts w 63 || st == stNotConfigured || st == stRetired then s1
  else if s1.flag .trkStat k.val 63 then s1.setF .trkStat k.val 55 48 4
  else
    let mode := s1.flag .trkCtl k.val 16
    if s1.flag .trkMode 0 (32 + k.val) && mode != troikaVoted s1 k.val then s1.setF .trkStat k.val 55 48 2
    else beginReset s1 k mode false

/-- TROIKA_RESET. -/
def execTroikaReset (k : TroikaId) (w : SetupWrite) (s : State) : Out := .next (
  if acts w 63 && mayReach s w.agent .trkCtl k.val then writeTrkCtl s k w else s)

/-- The pending bits of a core return to the EVC as held (R403). -/
def returnPending (s : State) (c : CoreId) : State :=
  (List.range 64).foldl (fun x g =>
    let bits := bitsOf (Tbl.getD (s.core c).pend 0 (g / 4)) (16 * (g % 4) + 15) (16 * (g % 4))
    if bits == 0 then x
    else x.setR .evcGstat g (x.reg .evcGstat g ||| BitVec.ofNat 64 bits)) s

/-- Steps 3 to 5 for one core: stores issued complete, responses are discarded, the buffers go to the engine, the state of R112 with VOTED as
the new mode has it; a completed patch is kept, one under way leaves the ROM alone and its BUSY ends (R264). -/
def resetCore (voted : Bool) (s : State) (c : CoreId) : State :=
  let s1 := drainStores s c
  let s0 := { s1 with flights := s1.flights.filter (fun f => f.master != .core c) }
  let s2 := returnPending (handOver s0 c) c
  let k := s2.core c
  let new := { Core.reset with
    pram := if k.patch.isNone then k.pram else []
    matchRegs := if k.patch.isNone then k.matchRegs else [] }
  let s3 := s2.setCore c ((new.setStatus 16 16 (if s2.compact then 1 else 0)).setStatus 13 13 (if voted then 1 else 0))
  let s4 := if k.patch.isNone then s3 else romOnly (s3.setF .mcResult c.val 63 63 0) c
  s4.setF .cfgMcstat c.val 61 60 0

/-- The entry of the code object that TRK_ENTRYk names, when it meets R71. -/
def troikaEntry (s : State) (k : TroikaId) : Option Target :=
  if !s.flag .trkEntry k.val 63 then none else
  match (codeTarget (memberOf k 0) nil (mkWord 0x16 (s.fld .trkEntry k.val 46 4 * 16))) s with
  | .ok (t, _) => some t
  | .error _ => none

/-- A core starts at a target in space 0 (R387 step 8). -/
def startCore (s : State) (c : CoreId) (t : Target) (voted : Bool) : State :=
  let k := (s.core c).setStatus 13 13 (if voted then 1 else 0)
  let s1 := s.setCore c { k.setStatus 21 21 (if t.fmt then 1 else 0) with
    pc := t.entry, codeObj := t.code, area := some t.area, mode := .running }
  { s1 with codeObjs := insertNat s1.codeObjs (valOf t.code) }

/-- Members that retirement has left in service (R509). -/
def servingMembers (s : State) (k : TroikaId) : List CoreId :=
  (members k).filter (fun c => s.unit (uCore c.val) != stRetired)

/-- The troika and its cores in a state of service, with its code in TRK_STATk.STATE. -/
def settleTroika (s : State) (k : TroikaId) (st code cause : Nat) : State :=
  let s1 := (s.setF .trkStat k.val 62 60 code)
  let s2 := publishUnit s1 (uTroika k.val) st 4 k.val cause
  (servingMembers s k).foldl (fun x c => publishUnit x (uCore c.val) st 3 c.val cause) s2

/-- Steps 3 to 8 of R387, without its source. -/
def finishReset (s : State) (k : TroikaId) (r : Reset) (voter : Verdict) : State :=
  let s1 := (members k).foldl (resetCore r.voted) s
  let changed := r.voted != troikaVoted s k.val
  let s2 := s1.setF .trkMode 0 k.val k.val (if r.voted then 1 else 0)
  let s3 := { s2 with resets := Tbl.del s2.resets k.val, replay := Tbl.del s2.replay k.val }
  let s4 := s3.setF .trkStat k.val 63 63 0
  let code := fun (x : State) (n : Nat) => x.setF .trkStat k.val 55 48 n
  let cause := if changed then 2 else 1
  if r.voted && voter == .fail then code (settleTroika s4 k stOffline 5 cause) 3
  else match troikaEntry s4 k with
    | none => code (settleTroika s4 k stOffline 5 cause) (if r.auto then 5 else 1)
    | some t =>
      let s5 := settleTroika s4 k stOnline 0 cause
      code ((servingMembers s5 k).foldl (fun x c => startCore x c t r.voted) s5) (if r.auto then 5 else 1)

/-- TROIKA_RESET_END: its reset-done source is raised whatever the outcome. -/
def execTroikaResetEnd (k : TroikaId) (voter : Verdict) (s : State) : Out := .next (
  match Tbl.get? s.resets k.val with
  | none => s
  | some r => pulse (finishReset s k r voter) (tileSource (k.val / 2) (8 + k.val % 2)))

/-- A write of 1 to VALID of TRK_DIVRECk also clears TRK_DIVk. -/
def writeTrkDivrec (s : State) (k : Nat) (w : SetupWrite) : State :=
  let s1 := storeSetup s .trkDivrec k w
  if acts w 63 then s1.setR .trkDiv k 0 else s1

/-! ### Debug access (R390, R465) -/

/-- Debug over JTAG is allowed by Crag since DEBUG_UNLOCK. -/
def debugAllowed (s : State) : Bool := s.flag .crgStat 0 62

/-- DEBUG_HALT: every core of the troika that issues stops at a boundary. -/
def execDebugHalt (k : TroikaId) (s : State) : Out := .next (
  if !debugAllowed s || !(members k).any (fun c => (s.core c).mode == .running) then s else
    let s1 := (members k).foldl (fun x c =>
      if (x.core c).mode == .running then x.modCore c (fun k => { k.landAll with mode := .debugHalt }) else x) s
    s1.setF .trkStat k.val 62 60 4)

def matchWord (m : MatchReg) : Word :=
  BitVec.ofNat 64 ((if m.en then 2 ^ 63 else 0) + m.rom.toNat * 2 ^ 48 + m.pram.toNat * 2 ^ 32)

/-- The register that a debug access names. -/
def debugGet (k : Core) : DebugReg → Word
  | .reel n => Tbl.getD k.reel unbound n.val
  | .trap n => Tbl.getD k.trapw unbound n.val
  | .global n => if n.val = 0 then nil else Tbl.getD k.globals unbound n.val
  | .fast n => Tbl.getD k.fast unbound n.val
  | .bit n => fixN (if k.bit n.val then 1 else 0)
  | .control n => (controlValue k n.toNat).getD 0
  | .pc => fixN k.pc
  | .matchReg n => match Tbl.get? k.matchRegs n.val with | some m => matchWord m | none => 0

/-- A word that a debug access may bring into the package: no interface turns a tag and value from outside into a
pointer word, and no register holds a reserved tag or a malformed word (R21, R51, R56). -/
def debugWord (v : Word) : Bool := isImmediateTag (tagOf v) && (inspectWord v).isNone

/-- A debug write of a register keeps to what the register can hold: a tagged register takes an immediate word; a
control register what the control-register move would write (R89, R109, R110). Another value changes nothing (log 24).
A new pc stands in the code object that holds it (log 11). -/
def debugSet (s : State) (c : CoreId) (k : Core) (r : DebugReg) (v : Word) : Core :=
  match r with
  | .reel n => if debugWord v then { k with reel := Tbl.put k.reel n.val v } else k
  | .trap n => if debugWord v then { k with trapw := Tbl.put k.trapw n.val v } else k
  | .global n => if n.val = 0 || !debugWord v then k else { k with globals := Tbl.putD k.globals unbound n.val v }
  | .fast n => if debugWord v then { k with fast := Tbl.putD k.fast unbound n.val v } else k
  | .bit n => k.setBit n.val (bitOf v 0)
  | .control n => if (controlValue k n.toNat).isNone then k else (controlWrite k s.compact n.toNat v).getD k
  | .pc =>
    let held := codeHolding s c (bitsOf v 46 0)
    { k with pc := bitsOf v 46 0, codeObj := (match held with | some h => mkWord 0x16 h.1 | none => nil), area := held.map (·.2.2) }
  | .matchReg n =>
    let m : MatchReg := ⟨bitOf v 63, BitVec.ofNat 14 (bitsOf v 61 48), BitVec.ofNat 10 (bitsOf v 41 32)⟩
    { k with matchRegs := Tbl.put k.matchRegs n.val m }

def putDebug (s : State) (w : Option Word) : State := { s with board := { s.board with debugOut := w } }

/-- DEBUG_READ: in a voted troika the lead's state. -/
def execDebugRead (c : CoreId) (r : DebugReg) (s : State) : Out := .next (
  if debugAllowed s then putDebug s (some (debugGet (s.core (leadOf s c)) r)) else s)

/-- DEBUG_WRITE: in a voted troika to the lead, with an entry of the replay log; an entry beyond 256 marks the log
as overflowed. -/
def execDebugWrite (c : CoreId) (r : DebugReg) (v : Word) (s : State) : Out := .next (
  let i := leadOf s c
  if !debugAllowed s || (s.core i).mode != .debugHalt then s else
    let s1 := s.modCore i (fun k => debugSet s i k r v)
    if troikaVoted s (troikaOfCore c) then
      let log := Tbl.getD s1.replay [] (troikaOfCore c)
      { s1 with replay := Tbl.put s1.replay (troikaOfCore c) (if log.length ≤ 256 then log ++ [(r, v)] else log) }
    else s1)

/-- DEBUG_MEMORY_ACCESS: one word by its physical address, once through the port. -/
def execDebugMemoryAccess (c : CoreId) (pa : Nat) (write : Option Word) (s : State) : Out :=
  if physTop ≤ pa then .fault (.noSuchAddress pa)
  else .next (
    let a := pa / 8 * 8
    if !debugAllowed s then s
    else if !accessible s a || poisoned s a then putDebug s none
    else match write with
      | some w =>
        if debugWord w && mayOverwrite (readWord s a) w then
          (performWrite s (coreClass c a) (some (leadOf s c)) a (bytesOfWord w)).1
        else s
      | none => putDebug (cacheTouch s (coreClass c a) a 8 false) (some (readWord s a)))

/-- DEBUG_RESUME: the log is replayed into the checkers, or they are copied from the lead and counted. -/
def execDebugResume (k : TroikaId) (s : State) : Out := .next (
  if !debugAllowed s || s.fld .trkStat k.val 62 60 != 4 then s else
    let log := Tbl.getD s.replay [] k.val
    let lead := memberOf k 0
    let checkers := [memberOf k 1, memberOf k 2]
    let s1 :=
      if !troikaVoted s k.val then s
      else if 256 < log.length then countResync (checkers.foldl (fun x c => copyCore x lead c) s) k
      else checkers.foldl (fun x c => x.modCore c (fun y => log.foldl (fun z e => debugSet s c z e.1 e.2) y)) s
    let s2 := (members k).foldl (fun x c =>
      if (x.core c).mode == .debugHalt then x.modCore c (fun y => { y with mode := .running }) else x) s1
    { s2 with replay := Tbl.del s2.replay k.val }.setF .trkStat k.val 62 60 0)

end Sys2Proof.Machine
end

