-- ==== Sys2Proof/Machine/Evc.lean ====
section
/-! DEFINITION. The event concentrator: pulses, delivery, hold-off, gating and redirection (R391 to R405). -/

namespace Sys2Proof.Machine

open Sys2Proof

/-- SOURCE_PULSE. A source that the map marks reserved is never pulsed (R392). -/
def execSourcePulse (n : Fin 1024) (s : State) : Out := .next (
  if n.val == 195 || (204 ≤ n.val && n.val ≤ 207) then s else pulse s n.val)

/-- A write of EVC_RAISE pulses a general source; any other is ignored (R405). -/
def writeRaise (s : State) (w : SetupWrite) : State :=
  let n := wfld w 9 0
  if 256 ≤ n && n ≤ 767 then pulse s n else s

/-- EVC_RAISE. -/
def execEvcRaise (w : SetupWrite) (s : State) : Out := .next (
  if mayReach s w.agent .evcRaise 0 then writeRaise s w else s)

/-! ### Targets (R394, R402, R403) -/

/-- How a target stands. -/
inductive Taker where
  | awake | gated | down
  deriving DecidableEq, Repr

/-- A core by a number of EVC_GCFGg; a checker counts as its lead. 0x7F names none. -/
def takerOf (s : State) (n : Nat) : Taker :=
  if h : n < 96 then
    let c := leadOf s ⟨n, h⟩
    let m := (s.core c).mode
    if m == .halted || m == .stopped || !s.online (uCore c.val) then .down
    else if m == .gated then .gated else .awake
  else .down

def groupTarget (s : State) (g : Nat) : Nat := s.fld .evcGcfg g 46 40
def groupAlt (s : State) (g : Nat) : Nat := s.fld .evcGcfg g 54 48
def groupFast (s : State) (g : Nat) : Bool := s.flag .evcGcfg g 62
def timerRuns (s : State) (g : Nat) : Bool := s.flag .evcGstat g 61

/-- The held bits of a group that may be delivered (R395). -/
def deliverable (s : State) (g : Nat) : Nat :=
  if s.flag .evcGcfg g 63 then (s.fld .evcGstat g 15 0) &&& (s.fld .evcGcfg g 31 16) else 0

/-- Bits of a group join the pending array of every core behind a number (R396). -/
def deliverTo (s : State) (g n bits : Nat) (redirected : Bool) : State :=
  if h : n < 96 then
    let add := BitVec.ofNat 64 (bits * 2 ^ (16 * (g % 4)))
    let s1 := (partners s (leadOf s ⟨n, h⟩)).foldl (fun x c => x.modCore c (fun k =>
      { k with pend := Tbl.putD k.pend 0 (g / 4) (Tbl.getD k.pend 0 (g / 4) ||| add) })) s
    let w := s1.reg .evcGstat g
    let held := bitsOf w 15 0
    let w1 := withBits w 15 0 (held - (held &&& bits))
    let w2 := if redirected then withBit w1 63 true else w1
    let w3 := if s1.fld .evcGcfg g 15 0 == 0 then w2 else withBit w2 61 true
    { s1 with evcWaits := eraseNat s1.evcWaits g }.setR .evcGstat g w3
  else s

/-- The wake of a gated core begins (R402, R403). -/
def startWake (s : State) (n : Nat) : State := { s with waking := insertNat s.waking (leadOfNat s n) }

/-- Every deliverable bit of a group whose timer does not run goes where R403 says. -/
def deliverGroup (s : State) (g : Nat) : State :=
  let bits := deliverable s g
  if bits == 0 then s else
  let t := groupTarget s g
  let a := groupAlt s g
  match takerOf s t with
  | .awake => deliverTo s g t bits false
  | .gated =>
    if groupFast s g then startWake s t
    else if s.waking.contains (leadOfNat s t) then s
    else { s with evcWaits := insertNat s.evcWaits g }
  | .down =>
    match takerOf s a with
    | .awake => deliverTo s g a bits true
    | .gated => startWake s a
    | .down => s.setF .evcGstat g 62 62 1

/-- BIT_DELIVERY. -/
def execBitDelivery (g : Fin 64) (s : State) : Out := .next (
  if timerRuns s g.val then s else deliverGroup s g.val)

/-- HOLDOFF_EXPIRY (R401). -/
def execHoldoffExpiry (g : Fin 64) (s : State) : Out := .next (
  if timerRuns s g.val then deliverGroup (s.setF .evcGstat g.val 61 61 0) g.val else s)

/-- A write of EVC_GCFGg as one change (R394, R401): HOLDOFF 0 ends a running timer, and held bits are delivered. -/
def writeGcfg (s : State) (g : Nat) (w : SetupWrite) : State :=
  let s1 := storeSetup s .evcGcfg g w (fun o n =>
    keepField (bitsOf n 15 0 ≤ 62500) 15 0 o
      (keepField (bitsOf n 46 40 ≤ 95) 46 40 o (keepField (bitsOf n 54 48 ≤ 95 || bitsOf n 54 48 == 0x7F) 54 48 o n)))
  if timerRuns s1 g && s1.fld .evcGcfg g 15 0 == 0 then deliverGroup (s1.setF .evcGstat g 61 61 0) g else s1

/-- GROUP_CONFIG_WRITE. -/
def execGroupConfigWrite (g : Fin 64) (w : SetupWrite) (s : State) : Out := .next (
  if mayReach s w.agent .evcGcfg g.val then writeGcfg s g.val w else s)

/-- A W1C write of EVC_PENDw by a core clears bits of its own array; a checker's array follows the lead's (R398,
R400). The host does not reach the register. -/
def writePend (s : State) (i : Nat) (w : SetupWrite) : State :=
  match w.agent with
  | .host => s
  | .core c => (partners s c).foldl (fun x m => x.modCore m (fun k =>
      { k with pend := Tbl.putD k.pend 0 i (Tbl.getD k.pend 0 i &&& ~~~ carried w) })) s

/-- PEND_CLEAR. -/
def execPendClear (i : Fin 16) (w : SetupWrite) (s : State) : Out := .next (writePend s i.val w)

/-! ### Gating (R402, R403) -/

/-- CORE_GATING: a core in WAIT with GATE_EN; a voted troika gates as one. -/
def execCoreGating (c : CoreId) (s : State) : Out := .next (
  let i := leadOf s c
  if (s.core i).mode == .waiting && s.flag .evcCpwr i.val 63 then
    (setModes s (partners s c) .gated).setF .evcCpwr i.val 62 62 1
  else s)

/-- CORE_WAKE: the core is in WAIT again, and the bits held for it are delivered. -/
def execCoreWake (c : CoreId) (s : State) : Out := .next (
  let i := leadOf s c
  if (s.core i).mode == .gated && s.waking.contains i.val then
    let s1 := { setModes s (partners s c) .waiting with waking := eraseNat s.waking i.val }
    let s2 := s1.setF .evcCpwr i.val 62 62 0
    (List.range 64).foldl (fun x g =>
      let mine := leadOfNat x (groupTarget x g) == i.val || (takerOf x (groupTarget x g) == .down
        && leadOfNat x (groupAlt x g) == i.val)
      if mine && !timerRuns x g then deliverGroup x g else x) s2
  else s)

/-- GATED_WAIT_EXPIRY: the target if it woke, else an awake alternate, else the target is woken (R403). -/
def execGatedWaitExpiry (g : Fin 64) (s : State) : Out := .next (
  if !s.evcWaits.contains g.val then s else
    let s1 := { s with evcWaits := eraseNat s.evcWaits g.val }
    let bits := deliverable s1 g.val
    let t := groupTarget s1 g.val
    if bits == 0 then s1
    else match takerOf s1 t, takerOf s1 (groupAlt s1 g.val) with
      | .awake, _ => deliverTo s1 g.val t bits false
      | .gated, .awake => deliverTo s1 g.val (groupAlt s1 g.val) bits true
      | .gated, _ => startWake s1 t
      | .down, _ => deliverGroup s1 g.val)

/-- A write of EVC_CPWRc: GATEDLY 0 leaves the field unchanged. -/
def writeCpwr (s : State) (c : Nat) (w : SetupWrite) : State :=
  storeSetup s .evcCpwr c w (fun o n => keepField (bitsOf n 15 0 != 0) 15 0 o n)

end Sys2Proof.Machine
end

