-- ==== Sys2Proof/Machine/Traverse.lean ====
section
/-! DEFINITION. The Traverse engine: descriptors, starts and their checks, grants, bursts, completion points and
aborts (R406 to R425), and TRVGO (R207, R417). -/

namespace Sys2Proof.Machine

open Sys2Proof

/-! ### States and the latched descriptor (R408, R417) -/

def chDisabled : Nat := 0
def chIdle : Nat := 1
def chRunning : Nat := 2
def chWaiting : Nat := 3
def chAborting : Nat := 4
def chAborted : Nat := 5
def chDone : Nat := 6

def chState (s : State) (n : Nat) : Nat := s.fld .trvStat n 63 61
def setChState (s : State) (n st : Nat) : State := s.setF .trvStat n 63 61 st

def Chan.empty : Chan :=
  ⟨0, 0, 0, 0, 0, 0, 0, 0, 0, 0, 0, 0, 0, 0, 0, 0, [], [], false, none⟩

def State.chan (s : State) (n : Nat) : Chan := Tbl.getD s.chans Chan.empty n
def State.setChan (s : State) (n : Nat) (c : Chan) : State := { s with chans := Tbl.putD s.chans Chan.empty n c }

/-- The descriptor as the registers hold it. -/
def latch (s : State) (n : Nat) : Chan :=
  { Chan.empty with
    ctl := s.reg .trvCtl n, src := s.reg .trvSrc n, dst := s.reg .trvDst n, off := s.reg .trvOff n
    cnta := s.reg .trvCnta n, cntb := s.reg .trvCntb n, step0 := s.reg .trvStep0 n, step1 := s.reg .trvStep1 n
    step2 := s.reg .trvStep2 n, aux := s.reg .trvAux n, sb := s.reg .trvSb n }

def chActive (st : Nat) : Bool := st == chRunning || st == chWaiting || st == chAborting

/-- TRV_CTLen as it governs the channel: the latched one while it runs. -/
def ctlOf (s : State) (n : Nat) : Word := if chActive (chState s n) then (s.chan n).ctl else s.reg .trvCtl n

namespace Chan

def raw (c : Chan) : Bool := bitOf c.ctl 61
def skind (c : Chan) : Nat := bitsOf c.ctl 60 58
def dkind (c : Chan) : Nat := bitsOf c.ctl 57 55
def queue (c : Chan) : Nat := bitsOf c.ctl 54 49
def gran (c : Chan) : Nat := bitsOf c.ctl 40 39
def cpl (c : Chan) : Nat := bitsOf c.ctl 38 37
def esize (c : Chan) : Nat := bitsOf c.ctl 25 11
def c0 (c : Chan) : Nat := bitsOf c.cnta 24 0
def c1 (c : Chan) : Nat := bitsOf c.cnta 56 32
def c2 (c : Chan) : Nat := bitsOf c.cntb 24 0
def space (c : Chan) : Nat := bitsOf c.cntb 43 32
def total (c : Chan) : Nat := c.c0 * c.c1 * c.c2
def sstep (w : Word) : Int := signed 32 (bitsOf w 63 32)
def dstep (w : Word) : Int := signed 32 (bitsOf w 31 0)

/-- Indices of a linear element number (R409). -/
def i0 (c : Chan) (j : Nat) : Nat := j % c.c0
def i1 (c : Chan) (j : Nat) : Nat := j / c.c0 % c.c1
def i2 (c : Chan) (j : Nat) : Nat := j / (c.c0 * c.c1)

/-- The offset that the steps of one side give an element. -/
def walkS (c : Chan) (j : Nat) : Int := c.i0 j * sstep c.step0 + c.i1 j * sstep c.step1 + c.i2 j * sstep c.step2
def walkD (c : Chan) (j : Nat) : Int := c.i0 j * dstep c.step0 + c.i1 j * dstep c.step1 + c.i2 j * dstep c.step2

def saddr (c : Chan) : Nat := bitsOf c.src 46 0
def daddr (c : Chan) : Nat := bitsOf c.dst 46 0
def soff (c : Chan) : Nat := bitsOf c.off 63 32
def doff (c : Chan) : Nat := bitsOf c.off 31 0

/-- Elements of one grant (GRAN) and of one completion unit (CPL). -/
def unitOf (c : Chan) (code : Nat) : Nat :=
  match code with
  | 1 => c.c0 * c.c1
  | 2 => c.c0
  | 3 => 1
  | _ => c.total

/-- The lowest and highest offset of the steps of one side over the run (R411). -/
def hullLow (c : Chan) (step : Word → Int) : Int :=
  min 0 ((c.c0 - 1 : Nat) * step c.step0) + min 0 ((c.c1 - 1 : Nat) * step c.step1) + min 0 ((c.c2 - 1 : Nat) * step c.step2)
def hullHigh (c : Chan) (step : Word → Int) : Int :=
  max 0 ((c.c0 - 1 : Nat) * step c.step0) + max 0 ((c.c1 - 1 : Nat) * step c.step1) + max 0 ((c.c2 - 1 : Nat) * step c.step2)

end Chan

/-! ### Accesses of the engine -/

/-- The failure of an access: its code (R424's table) . -/
abbrev TrvM := Except Nat

/-- The requester class of a channel's engine: it names the engine's edge TLB (R406). -/
def trvCls (n : Nat) : Nat := if n < 32 then 4 else 12

/-- A translation in a space, with the fault code 0x06 and 0x07 for the device region or host window. -/
def trvXlat (s : State) (cls space va : Nat) (write byteAcc : Bool) : TrvM Nat :=
  let dev := fun (pa : Nat) => if inDevice pa || inHostWindow pa then (.error 7 : TrvM Nat) else .ok pa
  if !spaceValid s space || vaTop ≤ va || (write && spaceRO s space) then .error 6
  else if spaceIdmap s space then (if va < 2 ^ 44 then dev va else .error 6)
  else
    let allow := fun (raw w : Bool) (ppn : Nat) =>
      if (raw && !byteAcc) || (write && !w) then (.error 6 : TrvM Nat) else dev (16384 * ppn + va % 16384)
    match edgeFind s cls space va with
    | some e => allow e.raw e.w e.ppn
    | none => match masterWalk s space va (if write then 3 else 2) with
      | .error _ => .error 6
      | .ok (leaf, _) => allow (bitOf leaf 7) (bitOf leaf 5) (leafPpn leaf)

/-- The block that holds an address is not ready: a row under repair (R295), a channel in retraining or with the
line's write-back issued (R302, R318). -/
def trvBusy (s : State) (pa n : Nat) : Bool := rowBusy s pa n || spanState s pa n == .stalled

/-- Bytes read at a virtual address, within one page after another; code 0 is an access that has to wait. -/
def readAs (waits : Bool) (s : State) (cls space : Nat) (byteAcc : Bool) : Nat → Nat → TrvM (List Byte)
  | _, 0 => .ok []
  | va, n + 1 =>
    match trvXlat s cls space va false byteAcc with
    | .error e => .error e
    | .ok pa =>
      if !accessible s pa || poisoned s pa || deepState s pa == .timedOut then .error 9
      else if waits && trvBusy s pa 1 then .error 0
      else match readAs waits s cls space byteAcc (va + 1) n with
        | .error e => .error e
        | .ok bs => .ok (readByte s pa :: bs)

/-- The read of a master whose command takes in its waits (log 23). -/
def trvRead (s : State) (cls space : Nat) (byteAcc : Bool) (va n : Nat) : TrvM (List Byte) :=
  readAs false s cls space byteAcc va n

def trvWord (s : State) (cls space va : Nat) : TrvM Word := (trvRead s cls space false va 8).map wordOfBytes

/-- What a read of n bytes that failed leaves: the first granule that did not answer, when poison was the cause, is
logged at its block (R79, R81). -/
def meetRead (s : State) (cls space va n : Nat) : State :=
  let bad := ((List.range ((va + n + 15) / 16 - va / 16)).map (fun i => mapEdge s cls space ((va / 16 + i) * 16))).find?
    (fun p => match p with | some pa => !accessible s pa || poisoned s pa || deepState s pa == .timedOut | none => true)
  match bad with
  | some (some pa) => if accessible s pa && poisoned s pa then poisonConsumed s pa else s
  | _ => s

/-- Bytes written at a virtual address, of one page or two: in the byte class the words below are logged (R335). An
error code comes with the state that the write leaves. -/
def trvWrite (s : State) (cls space va : Nat) (byteAcc : Bool) (bs : List Byte) : Except (Nat × State) State :=
  if bs.isEmpty then .ok s else
  let last := va + bs.length - 1
  match trvXlat s cls space va true byteAcc, trvXlat s cls space last true byteAcc with
  | .ok pa, .ok pb =>
    let n := min bs.length (16384 - va % 16384)
    let m := bs.length - n
    if trvBusy s pa n || (m != 0 && trvBusy s (pb / 16384 * 16384) m) then .error (0, s)
    else
      let s0 := if !byteAcc then s
        else
          let s1 := if accessible s pa then logSpan s pa n else s
          if m != 0 && accessible s1 pb then logSpan s1 (pb / 16384 * 16384) m else s1
      match masterWriteSpan (bs.length + 1) s0 space cls (!byteAcc) va bs with
      | .ok s1 => .ok s1
      | .error s1 => .error (9, s1)
  | .error e, _ => .error (e, s)
  | _, .error e => .error (e, s)

/-- Healing of a word that the engine carries (R341). -/
def trvHeal (s : State) (w : Word) : Word × State :=
  match regionOf s (valOf w) with
  | none => (w, s)
  | some r => match loadBarrier s (ownerOf s r) w with
    | some (w1, _, s1) => (w1, s1)
    | none => (w, s)

/-- A header fits the layout that its own tag and class name (R61). -/
def fitsR61 (h : Word) : Bool := headerFits (strongTagOfHeader h) h

/-- The header of an object at an address: a read of it that fails has the code of that access (R421), and an address
that no object can have is refused with 0x05. -/
def trvHeader (s : State) (cls space va : Nat) : TrvM Word :=
  if va % 16 != 0 then .error 5 else
  match trvWord s cls space va with
  | .error e => .error (if e == 7 then 5 else e)
  | .ok h => .ok h

/-- A byte object at an address: header, LENGTH, and the payload's address, or code 0x05 (R411). -/
def trvBytesObject (s : State) (cls space va : Nat) (fits : Word → Bool) (dest : Bool) : TrvM (Nat × Nat) :=
  match trvHeader s cls space va with
  | .error e => .error e
  | .ok h =>
    if tagOf h != 0x22 || headerMalformed h || !fits h || !hdrPin h || (dest && hdrImm h) then .error 5
    else .ok (va + payloadOffset h, hdrLength h)

/-- A mailbox destination: its header, PIN and IMM (R411). -/
def trvMailboxOk (s : State) (cls space va : Nat) : TrvM Unit :=
  match trvHeader s cls space va with
  | .error e => .error e
  | .ok h =>
    if tagOf h != 0x20 || hdrClass h != 8 || headerMalformed h || !hdrPin h || hdrImm h then .error 5 else .ok ()

/-! ### Start checks (R410, R411) -/

def sourceAdmitted (raw : Bool) (k : Nat) : Bool := if raw then 1 ≤ k && k ≤ 4 else k == 0
def destAdmitted (raw : Bool) (k : Nat) : Bool := if raw then 1 ≤ k && k ≤ 4 else k == 0 || k == 5

def formatOk (c : Chan) : Bool :=
  let e := c.esize
  let esizeOk := 1 ≤ e && e ≤ 16384 && (c.raw || (if c.dkind == 5 then e == 8 else e == 8 || e == 16))
  let hostOk := fun (k a : Nat) => k != 3 || a < 2 ^ 43
  1 ≤ c.c0 && c.c0 ≤ 2 ^ 24 && 1 ≤ c.c1 && c.c1 ≤ 2 ^ 24 && 1 ≤ c.c2 && c.c2 ≤ 2 ^ 24 && esizeOk
    && sourceAdmitted c.raw c.skind && destAdmitted c.raw c.dkind
    && bitsOf c.ctl 48 47 != 3 && (bitsOf c.ctl 48 47 != 1 || bitsOf c.ctl 46 41 ≤ 15)
    && (!bitOf c.ctl 26 || (256 ≤ bitsOf c.ctl 36 27 && bitsOf c.ctl 36 27 ≤ 767))
    && (!bitOf c.sb 63 || bitsOf c.sb 46 0 % 64 == 0) && (!bitOf c.aux 63 || bitsOf c.aux 46 0 % 16 == 0)
    && hostOk c.skind c.saddr && hostOk c.dkind c.daddr
    && !(c.skind == 4 && c.raw && c.dkind != 1 && c.dkind != 2)
    && !(c.dkind == 4 && c.raw && c.skind != 1 && c.skind != 2 && c.skind != 3)

/-- A base or step of a data-class side that breaks ESIZE. -/
def aligned (c : Chan) : Bool :=
  let e : Int := c.esize
  let side := fun (base : Nat) (step : Word → Int) =>
    (base : Int) % e == 0 && step c.step0 % e == 0 && step c.step1 % e == 0 && step c.step2 % e == 0
  c.raw || (side c.saddr Chan.sstep && (if c.dkind == 5 then (c.daddr : Int) % e == 0 else side c.daddr Chan.dstep))

def bytesSide (s : State) (cls : Nat) (c : Chan) (addr off : Nat) (step : Word → Int) (dest : Bool) : TrvM Unit :=
  match trvBytesObject s cls c.space addr fitsR61 dest with
  | .error e => .error e
  | .ok (_, len) =>
    if (off : Int) + c.hullLow step < 0 || (len : Int) ≤ off + c.hullHigh step + c.esize - 1 then .error 3 else .ok ()

/-- The stamp vector (R415). -/
def stampOk (s : State) (cls : Nat) (c : Chan) : Bool :=
  !bitOf c.aux 63 || c.skind != 4 || !c.raw ||
    (match trvWord s cls c.space (bitsOf c.aux 46 0) with
     | .ok h => tagOf h == 0x21 && !headerMalformed h && hdrPin h && 3 ≤ hdrLength h
     | .error _ => false)

/-- The code of the first check that fails. -/
def startFault (s : State) (cls : Nat) (c : Chan) : Option Nat :=
  let check : TrvM Unit := do
    if !formatOk c then throw 4
    if !aligned c then throw 2
    if c.raw && c.skind == 1 then bytesSide s cls c c.saddr c.soff Chan.sstep false
    if c.raw && c.dkind == 1 then bytesSide s cls c c.daddr c.doff Chan.dstep true
    if !c.raw && c.dkind == 5 then trvMailboxOk s cls c.space c.daddr
    if !stampOk s cls c then throw 5
  match check with
  | .ok _ => none
  | .error e => some e

/-- Both sides MEM, or BYTES on one object, with hulls that share a byte (R420). -/
def inOrder (c : Chan) : Bool :=
  let meet := fun (a b : Int) =>
    decide (a + c.hullLow Chan.sstep ≤ b + c.hullHigh Chan.dstep + c.esize - 1)
      && decide (b + c.hullLow Chan.dstep ≤ a + c.hullHigh Chan.sstep + c.esize - 1)
  if !c.raw then c.dkind == 0 && meet c.saddr c.daddr
  else c.skind == 1 && c.dkind == 1 && c.saddr == c.daddr && meet c.soff c.doff

/-! ### Aborts (R421 to R423) -/

/-- The channel enters ABORTING with a code; nothing more is read or written, and the completion points that it has reached
still leave (R425). -/
def beginAbort (s : State) (n code addr : Nat) : State :=
  let c := s.chan n
  let late := c.wr == c.total && c.total != 0 && code == 1
  let s1 := s.setChan n { c with buf := [], full := false, ending := some (if late then 0 else code, late, addr) }
  setChState s1 n chAborting

/-- The object whose header a start check found poisoned is logged at its block (R79, R81). -/
def meetStart (s : State) (cls : Nat) (c : Chan) : State :=
  let objects := (if c.raw && c.skind == 1 then [c.saddr] else [])
    ++ (if (c.raw && c.dkind == 1) || (!c.raw && c.dkind == 5) then [c.daddr] else [])
  match objects.find? (fun a => match trvHeader s cls c.space a with | .error 9 => true | _ => false) with
  | some a => meetRead s cls c.space a 8
  | none => s

/-- A start (R417). -/
def startChannel (s : State) (n : Nat) : State :=
  let c := latch s n
  match startFault s (trvCls n) c with
  | some code => beginAbort ((if code == 9 then meetStart s (trvCls n) c else s).setChan n c) n code 0
  | none =>
    let c1 := { c with granted := min c.total (c.unitOf c.gran) }
    (setChState (s.setChan n c1) n chRunning).setF .trvStat n 59 59 (if inOrder c1 then 1 else 0)

/-- A timer tick or a chain trigger (R417). -/
def triggerChannel (s : State) (n : Nat) : State :=
  let st := chState s n
  let lost := fun (x : State) => x.setF .trvStat n 57 57 1
  if st == chIdle || st == chDone then startChannel s n
  else if st == chAborted || st == chAborting then lost s
  else if st == chRunning || st == chWaiting then
    let c := s.chan n
    if c.gran == 0 then lost s
    else if st == chWaiting then
      setChState (s.setChan n { c with granted := min c.total (c.granted + c.unitOf c.gran) }) n chRunning
    else if c.banked < 255 then s.setChan n { c with banked := c.banked + 1 }
    else lost s
  else s

/-- Every channel whose trigger of a kind names an index. -/
def triggerAll (s : State) (kind idx : Nat) : State :=
  (List.range 64).foldl (fun x n =>
    let w := ctlOf x n
    if bitsOf w 48 47 == kind && bitsOf w 46 41 == idx then triggerChannel x n else x) s

/-- TRV_TIMER_TICK. -/
def execTrvTimerTick (t : Fin 16) (s : State) : Out := .next (
  if s.flag .trvTmr t.val 63 then triggerAll s 1 t.val else s)

/-- TRVGO: the code of RD. -/
def trvGo (s : State) (n : Nat) : Nat × State :=
  let st := chState s n
  if st == chDisabled || !s.flag .trvCtl n 62 then (2, s)
  else if st == chIdle || st == chDone || st == chAborted then (0, startChannel s n)
  else (1, s)

def bodyTrvgo (l : Long) : CoreId → M Flow := bodyU .trvgo l fun c b => do
  if !isFix b || 64 ≤ valOf b then operandFault b
  else
    drainM c
    fun s =>
      let (r, s1) := trvGo s (valOf b)
      .ok (fixN r, s1)
def execTrvgo (a : At) (l : Long) (s : State) : Out := .next (runLong s a .trvgo l (bodyTrvgo l))

/-! ### BURST_READ (R407, R412, R414) -/

/-- A fixed share of the buffer: 32 KiB. -/
def bufferRoom (c : Chan) (n : Nat) : Bool := (c.buf.foldl (fun a x => a + x.bytes.length) 0) + n ≤ 32768

def setClipped (s : State) (n : Nat) : State := s.setF .trvStat n 56 56 1

/-- What the next burst reads: the bytes of one part of the element and the element's size. -/
def sourcePart (s : State) (n : Nat) (c : Chan) (h : HostBytes) : Except (Nat × Nat) (List Byte × Nat × State) :=
  let j := c.rd
  let cls := trvCls n
  let part := fun (total : Nat) => min 256 (total - c.rdPos)
  let at_ := fun (va : Nat) (r : TrvM (List Byte)) (total : Nat) (x : State) =>
    match r with
    | .ok bs => (.ok (bs, total, touchEdge x cls c.space va bs.length) : Except (Nat × Nat) (List Byte × Nat × State))
    | .error e => .error (e, va)
  if !c.raw then
    let va := ((c.saddr : Int) + c.walkS j).toNat
    match readAs true s cls c.space false va c.esize with
    | .error e => .error (e, va)
    | .ok bs =>
      let (w0, s1) := trvHeal (touchPage s cls c.space va) (wordOfBytes (bs.take 8))
      let (w1, s2) := if c.esize == 16 then trvHeal s1 (wordOfBytes (bs.drop 8)) else (0, s1)
      .ok (bytesOfWord w0 ++ (if c.esize == 16 then bytesOfWord w1 else []), c.esize, s2)
  else match c.skind with
  | 1 =>
    match trvBytesObject s cls c.space c.saddr fitsR61 false with
    | .error e => .error (e, c.saddr)
    | .ok (p, _) =>
      let va := ((p : Int) + c.soff + c.walkS j).toNat + c.rdPos
      at_ va (readAs true s cls c.space true va (part c.esize)) c.esize s
  | 2 =>
    let slot := ((c.saddr : Int) + c.walkS j).toNat
    match trvWord s (trvCls n) c.space slot with
    | .error e => .error (e, slot)
    | .ok w0 =>
      let (w, s1) := trvHeal (touchPage s cls c.space slot) w0
      if tagOf w != 0x12 && tagOf w != 0x19 then .error (5, slot) else
      match trvBytesObject s1 cls c.space (valOf w) (headerFits (tagOf w)) false with
      | .error e => .error (e, valOf w)
      | .ok (p, len) =>
        let total := min c.esize (len - c.soff)
        let va := p + c.soff + c.rdPos
        at_ va (readAs true s1 cls c.space true va (part total)) total
          (if total < c.esize && c.rdPos == 0 then setClipped s1 n else s1)
  | 3 =>
    let off := ((c.saddr : Int) + c.walkS j).toNat
    match h with
    | .failed _ => .error (10, off)
    | .data bs => if !s.pcie.link then .error (10, off) else .ok ((bs ++ List.replicate 256 0).take (part c.esize), c.esize, s)
  | _ => .ok ([], 0, s)

/-- The engine of a channel, as a master. -/
def trvMaster (n : Fin 64) : Master := .traverse ⟨n.val / 32, by omega⟩

/-- One burst of the read engine: one part, of at most 256 bytes, of the next granted element; in order, an element
is read only when the one before has been written (R420). A burst needs a slot (R24), and one that has to wait for its
channel holds a slot while it waits (R23, R318). -/
def execBurstRead (n : Fin 64) (h : HostBytes) (s : State) : Out := .next (
  let c := s.chan n.val
  let ordered := s.flag .trvStat n.val 59
  if chState s n.val != chRunning || c.granted ≤ c.rd || (c.raw && c.skind == 4) || (ordered && c.rd != c.wr)
    || !bufferRoom c 256 || !hasSlot s (trvMaster n) then s
  else match sourcePart s n.val c h with
    | .error (0, addr) => match mapEdge s (trvCls n.val) c.space addr with
      | some pa => waitFlight s (trvMaster n) pa 8
      | none => s
    | .error (code, addr) =>
      beginAbort (if code == 9 then meetRead s (trvCls n.val) c.space addr 256 else s) n.val code addr
    | .ok (bs, total, s1) =>
      let last := total ≤ c.rdPos + bs.length
      let c1 := { c with
        buf := c.buf ++ [⟨c.rd, c.rdPos, total, bs, none⟩]
        rd := if last then c.rd + 1 else c.rd
        rdPos := if last then 0 else c.rdPos + bs.length }
      s1.setChan n.val c1)

/-! ### BURST_WRITE (R412 to R416) -/

/-- The unit of a completion ends with an element (R419). -/
def endsUnit (c : Chan) (done : Nat) : Bool := done == c.total || done % c.unitOf c.cpl == 0

/-- An element has every write response: its completion point becomes due, the next banked grant is taken or the
channel waits. -/
def elementDone (s : State) (n : Nat) : State :=
  let c := s.chan n
  let done := c.wr + 1
  let c1 := { c with wr := done, points := if endsUnit c done then c.points ++ [done] else c.points }
  if done == c1.granted && done != c1.total then
    if 0 < c1.banked then
      s.setChan n { c1 with banked := c1.banked - 1, granted := min c1.total (c1.granted + c1.unitOf c1.gran) }
    else setChState (s.setChan n c1) n chWaiting
  else s.setChan n c1

/-- Words of a data-class element over memory: R57 for each, the write barrier for each overwritten pointer. -/
def writeWords (s : State) (cls space va : Nat) : List Word → Except (Nat × State) State
  | [] => .ok s
  | w :: ws =>
    match trvXlat s cls space va true false with
    | .error e => .error (e, s)
    | .ok pa =>
      if !accessible s pa then .error (9, s)
      else if trvBusy s pa 8 then .error (0, s)
      else if !mayOverwrite (readWord s pa) w then .error (8, s)
      else match trvWrite (logAtEngine s (readWord s pa)) cls space va false (bytesOfWord w) with
        | .error e => .error e
        | .ok s1 => writeWords s1 cls space (va + 8) ws

/-- The stamp granule of a frame (R415). -/
def writeStamp (s : State) (cls : Nat) (c : Chan) (j : Nat) (st : Word × Nat) : Except (Nat × State) State :=
  let v := bitsOf c.aux 46 0
  if !bitOf c.aux 63 then .ok s
  else match trvWord s cls c.space v with
    | .error e => .error (e, meetRead s cls c.space v 8)
    | .ok h =>
      let k := j % ((hdrLength h - 1) / 2)
      writeWords s cls c.space (v + 8 * (2 * k + 2)) [st.1, fixN st.2]

/-- What a write of one part of an element meets: its room, a wait, or a failure with its address. -/
inductive Wrote where
  | done (s : State) | waits (s : State) | failed (s : State) (code addr : Nat)

/-- A BVIND or BYTES destination: bytes beyond the object's LENGTH are discarded (R414). -/
def writePayload (s : State) (n : Nat) (c : Chan) (obj off : Nat) (fits : Word → Bool) (bs : List Byte) (clip : Bool) :
    Wrote :=
  match trvBytesObject s (trvCls n) c.space obj fits true with
  | .error e => .failed (meetRead s (trvCls n) c.space obj 8) e obj
  | .ok (p, len) =>
    let room := len - off
    let keep := if clip then bs.take room else bs
    match trvWrite s (trvCls n) c.space (p + off) true keep with
    | .error (e, x) => .failed x e (p + off)
    | .ok s1 => .done (if clip && room < bs.length then setClipped s1 n else s1)

def egressFrames (s : State) (q : Nat) : List (List Byte) := Tbl.getD s.egress [] q
def egressBytes (s : State) (q : Nat) : Nat := (egressFrames s q).foldl (fun a f => a + f.length) 0

def writePart (s : State) (n : Nat) (c : Chan) (k : Chunk) (bs : List Byte) : Wrote :=
  let j := k.elem
  if !c.raw then
    if c.dkind == 5 then
      match appendMailbox s c.space (trvCls n) c.daddr (wordOfBytes bs) with
      | (s1, .posted) => .done s1
      | (_, .full) => .waits (s.setChan n { c with full := true })
      | (x, .malformed) => .failed x 12 c.daddr
      | (x, .forged) => .failed x 8 c.daddr
      | (x, .failed memory) => .failed x (if memory then 9 else 6) c.daddr
    else
      let va := ((c.daddr : Int) + c.walkD j).toNat
      let ws := if bs.length == 16 then [wordOfBytes (bs.take 8), wordOfBytes (bs.drop 8)] else [wordOfBytes bs]
      match writeWords s (trvCls n) c.space va ws with
      | .ok s1 => .done s1
      | .error (e, x) => .failed x e va
  else match c.dkind with
  | 1 => writePayload s n c c.daddr (((c.doff : Int) + c.walkD j).toNat + k.pos) fitsR61 bs false
  | 2 =>
    let slot := ((c.daddr : Int) + c.walkD j).toNat
    match trvWord s (trvCls n) c.space slot with
    | .error e => .failed (meetRead s (trvCls n) c.space slot 8) e slot
    | .ok w0 =>
      let (w, s1) := trvHeal (touchPage s (trvCls n) c.space slot) w0
      if tagOf w != 0x12 && tagOf w != 0x19 then .failed s1 5 slot
      else writePayload s1 n c (valOf w) (c.doff + k.pos) (headerFits (tagOf w)) bs true
  | 3 => .done (sendHost s (hostAddr s (((c.daddr : Int) + c.walkD j).toNat + k.pos)) bs)
  | _ => .done s

/-- The parts of one element at the front of the buffer, when they are all there. -/
def wholeElement (c : Chan) : Option (List Byte) :=
  match c.buf with
  | [] => none
  | k :: _ =>
    let mine := c.buf.filter (fun x => x.elem == k.elem)
    let bs := (mine.map (·.bytes)).flatten
    if bs.length == k.total then some bs else none

/-- The key of an SA (R469). -/
def saKey (dir port sc an : Nat) : Nat := ((dir * 8 + port) * 16 + sc) * 4 + an

/-- The transmit SA of a port in use: of those installed, the one with the highest association number (log 28). -/
def txSa (s : State) (p : Nat) : Option (Nat × Sa) :=
  ([3, 2, 1, 0] : List Nat).findSome? (fun an => (Tbl.get? s.net.sas (saKey 1 p 0 an)).map (fun a => (an, a)))

def isProtected (s : State) (q p : Nat) : Bool := s.flag .netEqcfg q 62 && s.flag .netPcfg p 62

/-- DROP of a port (R470). -/
def countDrop (s : State) (p : Nat) : State := s.setR .netPcnt p (satInc (s.reg .netPcnt p) 15 0)

/-- A frame accepted from the channel and then discarded (R474). -/
def egressDropped (s : State) (q : Nat) (bs : List Byte) : Bool :=
  let p := s.fld .netEqcfg q 2 0
  9216 < bs.length + 4 || !s.net.up.contains p || (isProtected s q p && (txSa s p).isNone)

/-- An EGRESS element goes to its queue as one frame when the queue has room (R415, R474). -/
def writeEgress (s : State) (n : Nat) (c : Chan) : State :=
  match wholeElement c with
  | none => s
  | some bs =>
    let fin := fun (x : State) => elementDone (x.setChan n { c with buf := c.buf.filter (fun x => x.elem != c.wr) }) n
    if egressDropped s c.queue bs then fin (countDrop s (s.fld .netEqcfg c.queue 2 0))
    else if egressBytes s c.queue + bs.length ≤ 32768 then
      fin { s with egress := Tbl.put s.egress c.queue (egressFrames s c.queue ++ [bs]) }
    else s

/-- One burst of the write engine: at most 256 bytes of the oldest part. -/
def burstWrite (s : State) (n : Nat) : State :=
  let c := s.chan n
  match c.buf with
  | [] => s
  | k :: rest =>
    if c.raw && c.dkind == 4 then writeEgress s n c
    else
      let bs := k.bytes.take 256
      match writePart s n c k bs with
      | .waits s1 => s1
      | .failed x code addr => if code == 0 then s else beginAbort x n code addr
      | .done s1 =>
        let left := k.bytes.drop 256
        let c1 := { s1.chan n with full := false }
        if !left.isEmpty then s1.setChan n { c1 with buf := { k with pos := k.pos + 256, bytes := left } :: rest }
        else
          let s2 := s1.setChan n { c1 with buf := rest }
          if k.pos + bs.length < k.total then s2
          else match k.stamp with
            | none => elementDone s2 n
            | some st => match writeStamp s2 (trvCls n) c k.elem st with
              | .ok s3 => elementDone s3 n
              | .error (e, x) => if e == 0 then s else beginAbort x n e (bitsOf c.aux 46 0)

/-- BURST_WRITE. A channel whose mailbox was full waits for the next retry; a burst waits for a slot (R24) and for the
block that holds its target. -/
def execBurstWrite (n : Fin 64) (s : State) : Out := .next (
  if chState s n.val != chRunning || (s.chan n.val).full || !hasSlot s (trvMaster n) then s else burstWrite s n.val)

/-- INGRESS_FRAME_READY (R415): the frame at the head of the queue becomes the element; bytes beyond ESIZE or the
destination's room are discarded. -/
def execIngressFrameReady (n : Fin 64) (s : State) : Out := .next (
  let c := s.chan n.val
  match Tbl.getD s.ingress [] c.queue with
  | [] => s
  | f :: fs =>
    if chState s n.val != chRunning || !c.raw || c.skind != 4 || c.granted ≤ c.rd || !bufferRoom c f.bytes.length then s
    else
      let bs := f.bytes.take c.esize
      let s1 := { s with ingress := Tbl.putD s.ingress [] c.queue fs }
      let s2 := if c.esize < f.bytes.length then setClipped s1 n.val else s1
      s2.setChan n.val { c with
        buf := c.buf ++ [⟨c.rd, 0, bs.length, bs, some (f.stamp, f.bytes.length)⟩], rd := c.rd + 1 })

/-! ### Completion points (R419) -/

/-- What a point sends: its pulse, and a trigger to every channel chained to it. -/
def sendPoint (s : State) (n : Nat) : State :=
  let c := s.chan n
  triggerAll (if bitOf c.ctl 26 then pulse s (bitsOf c.ctl 36 27) else s) 2 n

/-- Every point that a channel has reached and not yet sent leaves (R425). -/
def sendPoints (s : State) (n : Nat) : State :=
  let c := s.chan n
  if c.points.isEmpty then s
  else c.points.foldl (fun x _ => sendPoint x n) (s.setChan n { c with points := [] })

/-- COMPLETION_POINT: the oldest point that is due; at the end of the run the channel enters DONE. -/
def execCompletionPoint (n : Fin 64) (s : State) : Out := .next (
  let c := s.chan n.val
  match c.points with
  | [] => s
  | p :: ps =>
    let s1 := s.setChan n.val { c with points := ps }
    sendPoint (if p == c.total && chState s n.val == chRunning then setChState s1 n.val chDone else s1) n.val)

/-! ### TRV_CTL (R408, R421, R423) -/

/-- A write of TRV_CTLen: its fields for the next start; EN and ABORT act at once. -/
def writeTrvCtl (s : State) (n : Nat) (w : SetupWrite) : State :=
  let s1 := storeSetup s .trvCtl n w
  let st := chState s1 n
  let en := s1.flag .trvCtl n 62
  let moving := st == chRunning || st == chWaiting
  if acts w 63 && (moving || st == chDone) then beginAbort s1 n 1 0
  else if !en && moving then beginAbort s1 n 1 0
  else if !en && (st == chIdle || st == chDone || st == chAborted) then setChState s1 n chDisabled
  else if en && st == chDisabled then setChState s1 n chIdle
  else s1

/-- TRV_ABORT. -/
def execTrvAbort (n : Fin 64) (w : SetupWrite) (s : State) : Out := .next (
  if acts w 63 && mayReach s w.agent .trvCtl n.val then writeTrvCtl s n.val w else s)

/-- CHANNEL_DISABLE: a write that clears EN of a running channel. -/
def execChannelDisable (n : Fin 64) (w : SetupWrite) (s : State) : Out := .next (
  if w.part != .low && !acts w 62 && !acts w 63 && mayReach s w.agent .trvCtl n.val then writeTrvCtl s n.val w else s)

/-- The words of the status block (R423). -/
def statusWords (s : State) (n code : Nat) (late : Bool) (r0 r1 r2 addr : Nat) : List Word :=
  let w0 := code * 256 + (if s.flag .trvStat n 59 then 4 else 0) + (if late then 3 else 0)
  [fixN w0, fixN r0, fixN r1, fixN r2, fixN (addr % 2 ^ 47), fixN n, timeWord s, nil]

/-- ABORT_DRAIN_END (R421, R422): the points reached before the abort (R425), the status block, the registers, ABORTED
and the abort's pulse. -/
def execAbortDrainEnd (n : Fin 64) (s0 : State) : Out := .next (
  let c0 := s0.chan n.val
  match c0.ending with
  | none => s0
  | some (code, late, addr) =>
    let c := { c0 with points := [] }
    let s := sendPoints s0 n.val
    let res := fun (count i : Nat) => if late then 0 else count - i
    let r0 := res c.c0 (c.i0 c.wr)
    let r1 := res c.c1 (c.i1 c.wr)
    let r2 := res c.c2 (c.i2 c.wr)
    let s1 := if bitOf c.sb 63 then
        match writeWords s (trvCls n.val) c.space (bitsOf c.sb 46 0) (statusWords s n.val code late r0 r1 r2 addr) with
        | .ok x => x
        | .error (_, x) => x.setF .trvStat n.val 58 58 1
      else s
    let s2 := (s1.setF .trvStat n.val 60 60 (if late then 1 else 0)).setF .trvStat n.val 55 48 code
    let s3 := (s2.setF .trvStat n.val 24 0 r2).setR .trvRes n.val (BitVec.ofNat 64 (r1 * 2 ^ 32 + r0))
    pulse (setChState (s3.setChan n.val { c with ending := none }) n.val chAborted) (128 + n.val))

/-! ### Waits for a mailbox (R416) -/

/-- The append of a channel is tried again. -/
def retryChannel (s : State) (n : Nat) : State :=
  if chState s n == chRunning && (s.chan n).full then burstWrite s n else s

/-- The wait of a channel has lasted beyond MBWAIT. -/
def expireChannel (s : State) (n : Nat) : State :=
  if chState s n == chRunning && (s.chan n).full then beginAbort s n 11 (s.chan n).daddr else s

end Sys2Proof.Machine
end

