-- ==== Sys2Proof/Machine/Images.lean ====
section
/-! DEFINITION. Signed images and the flash: patches (R258, R259), boot images (R498), Crag firmware (R499), the
slots (R497), and the cryptographic operations as opaque functions (R458; log 13). -/

namespace Sys2Proof.Machine

open Sys2Proof

/-! ### Cryptography (log 13): operation numbers are those of R456, with 0x20 and above for internal uses. -/

/-- Bytes that an operation yields. -/
def cryptoBytes (op : Nat) (ps : List Nat) (input : List Byte) (n : Nat) : List Byte :=
  (List.range n).map (Config.cryptoByte op ps input)

/-- A fresh number for what a random draw enters. -/
def fresh (s : State) : Nat × State := (s.free, { s with free := s.free + 1 })

/-- What stands for the key of a slot: the owner's fingerprint for slot 0x0021, a customer key's number. -/
def keyParams (s : State) (slot : Nat) : List Nat :=
  if slot == 0x21 then s.crag.owner.map (·.toNat)
  else match Tbl.get? s.crag.keys slot with
    | some k => [k.id]
    | none => []

/-- Bytes of a signature (R458). -/
def signatureLength (alg : Nat) : Nat :=
  match alg with | 1 => 96 | 2 => 64 | 3 => 4627 | 4 => 4723 | _ => 0

def verifyOne (s : State) (slot alg : Nat) (msg sig : List Byte) : Bool :=
  Config.cryptoOk 6 ([slot, alg, msg.length] ++ keyParams s slot) (msg ++ sig)

/-- A signature verifies; a hybrid one only when both parts do (R458). -/
def verifySig (s : State) (slot alg : Nat) (msg sig : List Byte) : Bool :=
  if sig.length != signatureLength alg then false
  else if alg == 4 then verifyOne s slot 1 msg (sig.take 96) && verifyOne s slot 3 msg (sig.drop 96)
  else verifyOne s slot alg msg sig

def signWith (s : State) (slot alg : Nat) (msg : List Byte) : List Byte × State :=
  let (n, s1) := fresh s
  (cryptoBytes 5 ([slot, alg, n] ++ keyParams s slot) msg (signatureLength alg), s1)

def sha384 (bs : List Byte) : List Byte := cryptoBytes 2 [2] bs 48

/-- SHA-384 of the identity public keys (R459). -/
def fingerprint : List Byte := cryptoBytes 0x20 [] [] 48

/-! ### Fields of an image -/

def le (img : List Byte) (off n : Nat) : Nat := ofBytes ((img.drop off).take n)

def imageLevel (img : List Byte) : Nat := le img 0x12 2
def raisesFloor (img : List Byte) : Bool := le img 0x10 1 % 2 == 1
def patchRaisesFloor (img : List Byte) : Bool := le img 0x1B 1 % 2 == 1
def payloadLength (img : List Byte) : Nat := le img 0x18 4

def partTarget : Nat := 0x742000B10001

/-- A floor counter (R460). -/
def floorOf (s : State) (i : Nat) : Nat := Tbl.getD s.crag.counters 0 i

/-- What a check of an image finds. -/
inductive ImageFault where
  | shape | target | crc | signature | floor
  deriving DecidableEq, Repr

/-- The checks of R498 in their order, for a boot image within a room of bytes. -/
def bootImageFault (s : State) (img : List Byte) : Option ImageFault :=
  let n := 0x120 + payloadLength img
  if img.length < 0x120 || img.length < n + 4723 then some .shape
  else if le img 0 8 != 0x3130544F4F424345 then some .shape
  else if le img 8 8 != partTarget then some .target
  else if crcOf ((img.drop 0x20).take (n - 0x20)) != le img 0x1C 4 then some .crc
  else if !verifySig s 0x21 4 (img.take n) ((img.drop n).take 4723) then some .signature
  else if imageLevel img < floorOf s 2 then some .floor
  else none

/-- The checks of R499, in the order of R498. -/
def cragImageFault (s : State) (img : List Byte) : Option ImageFault :=
  let n := 0x20 + payloadLength img
  if img.length < 0x20 || img.length < n + 4723 || le img 0x10 2 / 2 != 0 then some .shape
  else if le img 0 8 != 0x3130474152434345 then some .shape
  else if le img 8 8 != partTarget then some .target
  else if crcOf ((img.drop 0x20).take (n - 0x20)) != le img 0x1C 4 then some .crc
  else if !verifySig s 0x20 4 (img.take n) ((img.drop n).take 4723) then some .signature
  else if imageLevel img < floorOf s 1 then some .floor
  else none

/-- Entry i of the match table of a patch has its reserved bits 0; entries from MATCHES on are 0 (R258). -/
def matchEntryOk (img : List Byte) (i : Nat) : Bool :=
  let e := le img (0x20 + 8 * i) 8
  if le img 0x1A 1 ≤ i then e == 0 else e % 2 ^ 32 == 0 && e / 2 ^ 42 % 64 == 0 && e / 2 ^ 62 % 2 == 0

/-- The signed content of a patch. -/
def patchLength (img : List Byte) : Nat := 0x120 + 4 * le img 0x18 2

/-- The checks of R259; LEVEL lies from 1 to 0xFFFF (R258). -/
def patchFault (s : State) (img : List Byte) : Option ImageFault :=
  let n := patchLength img
  let w := le img 0x18 2
  if img.length < 0x120 || img.length < n + 4723 || w == 0 || 1024 < w || 32 < le img 0x1A 1
      || le img 0x1B 1 / 2 != 0 || imageLevel img == 0
      || !(List.range 32).all (matchEntryOk img) then some .shape
  else if le img 0 8 != 0x313048435450434D then some .shape
  else if le img 8 8 != partTarget || le img 0x14 4 != Config.romId.toNat then some .target
  else if crcOf ((img.drop 0x20).take (n - 0x20)) != le img 0x1C 4 then some .crc
  else if !verifySig s 0x20 4 (img.take n) ((img.drop n).take 4723) then some .signature
  else if imageLevel img < floorOf s 0 then some .floor
  else none

/-! ### The flash (R497) -/

def flashByte (s : State) (a : Nat) : Byte := Tbl.getD s.flash 0xFF a
def flashBytes (s : State) (a n : Nat) : List Byte := (List.range n).map (fun i => flashByte s (a + i))

def bootSlotBase (slot : Nat) : Nat := if slot == 0 then 0 else 0x2000000
def cragSlotBase (slot : Nat) : Nat := if slot == 0 then 0x4000000 else 0x4400000
def bootSlotSize : Nat := 0x2000000
def cragSlotSize : Nat := 0x400000

/-- The image in a slot: no byte beyond the slot is read. -/
def bootSlotImage (s : State) (slot : Nat) : List Byte :=
  let b := bootSlotBase slot
  let n := 0x120 + ofBytes (flashBytes s (b + 0x18) 4) + 4723
  flashBytes s b (min n bootSlotSize)

def cragSlotImage (s : State) (slot : Nat) : List Byte :=
  let b := cragSlotBase slot
  let n := 0x20 + ofBytes (flashBytes s (b + 0x18) 4) + 4723
  flashBytes s b (min n cragSlotSize)

def programFlash (s : State) : Nat → List Byte → State
  | _, [] => s
  | a, b :: bs => programFlash { s with flash := Tbl.putD s.flash 0xFF a b } (a + 1) bs

end Sys2Proof.Machine
end

