-- ==== Sys2Proof/Machine/Crag.lean ====
section
/-! DEFINITION. Crag: its mailbox, spans and outputs, every command of R456, attestation (R459), counters (R460),
the entropy source (R463) (R450 to R467). -/

namespace Sys2Proof.Machine

open Sys2Proof

/-! ### A command in progress -/

/-- What a command that failed leaves beside its status: the record of poison that it met (R79, R81), or the part of
its output that was written before the poison (R457). -/
inductive Residue where
  | nothing
  | poison (pa : Nat)
  | output (cls va : Nat) (bs : List Byte)
  deriving DecidableEq, Repr

abbrev CragM := StateT State (Except (Nat × Residue))

/-- Status codes (R456). -/
def sFormat : Nat := 1
def sAuth : Nat := 2
def sSlot : Nat := 3
def sUse : Nat := 4
def sMemory : Nat := 5
def sRange : Nat := 6
def sFloor : Nat := 7
def sTarget : Nat := 8
def sEntropy : Nat := 9
def sLimit : Nat := 10
def sZeroised : Nat := 11
def sHeapFull : Nat := 12
def sRefused : Nat := 13

def failM {α : Type} (code : Nat) : CragM α := fun _ => .error (code, .nothing)
def getM : CragM State := fun s => .ok (s, s)
def modM (f : State → State) : CragM Unit := fun s => .ok ((), f s)
def need (ok : Bool) (code : Nat) : CragM Unit := if ok then pure () else failM code

/-- A read of n bytes that fails ends the command with MEMORY_ERROR. -/
def readFailM {α : Type} (cls va n : Nat) : CragM α := fun s =>
  match (List.range ((va + n + 15) / 16 - va / 16)).findSome? (fun i =>
      match mapEdge s cls (heapSpace s) ((va / 16 + i) * 16) with
      | some pa => if accessible s pa && poisoned s pa then some pa else none
      | none => none) with
  | some pa => .error (sMemory, .poison pa)
  | none => .error (sMemory, .nothing)

/-- A tagged word that Crag reads, inspected (R51, R52, R54) and healed (R341); one that fails inspection is a malformed
parameter (log 37). -/
def wordM (va : Nat) (cls : Nat := 6) : CragM Word := fun s =>
  match spaceWord s cls (heapSpace s) va with
  | some w =>
    if (inspectWord w).isSome then .error (sFormat, .nothing) else .ok (trvHeal (touchEdge s cls (heapSpace s) va 8) w)
  | none => readFailM cls va 8 s

/-- A word of a command vector. -/
def slotM (vec i : Nat) (cls : Nat := 6) : CragM Word := wordM (vec + 8 * (i + 1)) cls

def param (vec i : Nat) (cls : Nat := 6) : CragM Word := slotM vec (5 + i) cls

/-- Parameters from i on are unused and hold T.NIL. -/
def unused (vec i : Nat) : CragM Unit := do
  let ws ← (List.range (7 - i)).mapM (fun j => param vec (i + j))
  need (ws.all isNil) sFormat

def fixParam (vec i bound : Nat) : CragM Nat := do
  let w ← param vec i
  need (isFix w && valOf w < bound) sFormat
  return valOf w

/-- A parameter that the table calls a T.BYTES. -/
def bytesParam (vec i : Nat) : CragM Word := do
  let w ← param vec i
  need (tagOf w == 0x12) sFormat
  return w

/-- A span (R456): offset and length. -/
def spanParam (vec i : Nat) : CragM (Nat × Nat) := do
  let w ← param vec i
  need (isFix w) sFormat
  return (bitsOf w 55 28, bitsOf w 27 0)

/-- The header of a byte vector named by a word. -/
def headerM (w : Word) (cls : Nat := 6) : CragM Word := fun s =>
  match spaceWord s cls (heapSpace s) (valOf w) with
  | some h => .ok (h, touchEdge s cls (heapSpace s) (valOf w) 8)
  | none => readFailM cls (valOf w) 8 s

def bytesAtM (va n : Nat) (cls : Nat := 6) : CragM (List Byte) := fun s =>
  match trvRead s cls (heapSpace s) true va n with
  | .ok bs => .ok (bs, touchEdge s cls (heapSpace s) va n)
  | .error _ => readFailM cls va n s

/-- A span of an input vector. -/
def readSpan (w : Word) (off len : Nat) : CragM (List Byte) := do
  need (tagOf w == 0x12 || tagOf w == 0x19) sFormat
  let h ← headerM w
  need (!headerMalformed h && headerFits (tagOf w) h) sFormat
  need (off + len ≤ hdrLength h) sRange
  bytesAtM (valOf w + payloadOffset h + off) len

/-- Whether an output vector takes len bytes at an offset: the address. -/
def outputAt (w : Word) (off len : Nat) : CragM Nat := do
  need (tagOf w == 0x12) sRange
  let h ← headerM w
  need (!headerMalformed h && headerFits 0x12 h && !hdrImm h && off + len ≤ hdrLength h) sRange
  return valOf w + payloadOffset h + off

/-- Bytes that a master writes at an address of the heap space: the words below are logged first (R335). -/
def writeBytesAt (s : State) (cls va : Nat) (bs : List Byte) : Except State State :=
  let n := min bs.length (16384 - va % 16384)
  let log := fun (x : State) (a k : Nat) => match mapEdge x cls (heapSpace x) a with
    | some pa => if k != 0 && accessible x pa then logSpan x pa k else x
    | none => x
  masterWriteSpan (bs.length + 1) (log (log s va n) (va + n) (bs.length - n)) (heapSpace s) cls false va bs

def writeOut (va : Nat) (bs : List Byte) (cls : Nat := 6) : CragM Unit := fun s =>
  match writeBytesAt s cls va bs with
  | .ok s1 => .ok ((), s1)
  | .error _ => .error (sMemory, .output cls va bs)

/-- The tile that holds an address (R458). -/
def tileHolding (s : State) (va : Nat) : Nat :=
  match regionOf s va with
  | some r => ownerOf s r
  | none => match mapNow s (heapSpace s) va with
    | some pa => (tileOfPa pa).getD 0
    | none => 0

/-- A new byte vector: header flags, class, the words between header and payload, the payload. -/
def cragBytes (tile cls flags : Nat) (pre : List Word) (payload : List Byte) : CragM Nat := fun s =>
  let bs := vectorBytes cls flags pre payload
  match engineObject s tile (kindFor false false bs.length) bs with
  | some (a, s1) => .ok (a, s1)
  | none => .error (sHeapFull, .nothing)

def ascii (t : String) : List Byte := t.toList.map (fun c => BitVec.ofNat 8 c.toNat)

/-! ### Keys (R451, R453) -/

def isCustomer (slot : Nat) : Bool := 0x100 ≤ slot && slot ≤ 0x2FF

/-- Usage bits in the order of R456, SIGN the highest (log 37). -/
def useSign : Nat := 3
def useVerify : Nat := 2
def useGcm : Nat := 1
def useKem : Nat := 0

/-- A customer key that a command uses. -/
def customerKey (slot : Nat) (types : List Nat) (use : Nat) : CragM Key := fun s =>
  match Tbl.get? s.crag.keys slot with
  | some k => if !types.contains k.type || k.usage / 2 ^ use % 2 == 0 then failM sUse s else .ok (k, s)
  | none => failM (if isCustomer slot && s.crag.zeroised.contains slot then sZeroised else sSlot) s

/-- Key types that an algorithm of R458 takes; no single key carries the hybrid (log 37). -/
def typesOf (alg : Nat) : List Nat :=
  match alg with | 1 => [2] | 2 => [3] | 3 => [4] | _ => []

def slotParam (vec i : Nat) : CragM Nat := fixParam vec i 0x10000

/-- An empty customer slot, with the budget of R529. -/
def emptySlot (slot : Nat) : CragM Unit := fun s =>
  if !isCustomer slot || (Tbl.get? s.crag.keys slot).isSome || 1000000 ≤ s.crag.keyOps then failM sSlot s
  else .ok ((), s)

def putKey (slot : Nat) (k : Key) : CragM Unit := modM fun s =>
  { s with crag := { s.crag with keys := Tbl.put s.crag.keys slot k, keyOps := s.crag.keyOps + 1
                                 zeroised := eraseNat s.crag.zeroised slot },
           base := { s.base with salt := true } }

def freshM : CragM Nat := fun s => .ok (fresh s)

/-- Data from the TRNG: refused while it is stopped (R463). -/
def entropyM : CragM Unit := do
  let s ← getM
  need (!s.flag .crgStat 0 63) sEntropy

/-! ### Seals (R74, R458) -/

/-- The word of a seal prefix that names the signature vector (R74). -/
def linkSignature (obj sigObj : Nat) : CragM Unit := fun s =>
  match masterWrite s (heapSpace s) 6 true (obj + 24) (bytesOfWord (mkWord 0x12 sigObj)) with
  | .ok s1 => .ok ((), s1)
  | .error _ => .error (sMemory, .nothing)

/-- A sealed vector, then its signature vector, then the T.SEALED pointer (R458). -/
def makeSealed (tile slot alg cls : Nat) (payload : List Byte) (msg : Option (List Byte)) : CragM Word := do
  let s ← getM
  let word1 := fixN (alg * 2 ^ 16 + slot)
  let word2 := timeWord s
  let sig ← (fun s => .ok (signWith s slot alg (msg.getD (sealText word1 word2 cls payload))) : CragM (List Byte))
  let obj ← cragBytes tile cls 5 [word1, word2, nil] payload
  let sigObj ← cragBytes tile 6 1 [] sig
  linkSignature obj sigObj
  return mkWord 0x19 obj

/-- Whether a slot's key may make or check a signature of an algorithm. -/
def signerOk (slot alg : Nat) (use : Nat) : CragM Unit := do
  if isCustomer slot then let _ ← customerKey slot (typesOf alg) use
  else
    need (slot == 1 || slot == 0x10 || slot == 0x20 || slot == 0x21) sSlot
    need (if slot == 0x10 then alg == 1 else alg == 1 || alg == 3 || alg == 4) sUse

/-- The signature of a sealed vector (R458). -/
def checkSealed (w : Word) : CragM Bool := do
  need (tagOf w == 0x19) sFormat
  let h ← headerM w
  need (!headerMalformed h && headerFits 0x19 h) sFormat
  let word1 ← wordM (valOf w + 8)
  let word2 ← wordM (valOf w + 16)
  let sigPtr ← wordM (valOf w + 24)
  need (isFix word1 && tagOf sigPtr == 0x12) sFormat
  let slot := bitsOf word1 15 0
  let alg := bitsOf word1 23 16
  if slot != 0x10 then signerOk slot alg (if isCustomer slot then useSign else useVerify)
  let payload ← bytesAtM (valOf w + payloadOffset h) (hdrLength h)
  let sh ← headerM sigPtr
  need (!headerMalformed sh && headerFits 0x12 sh) sFormat
  let sig ← bytesAtM (valOf sigPtr + payloadOffset sh) (hdrLength sh)
  let s ← getM
  return verifySig s slot alg (sealText word1 word2 (hdrClass h) payload) sig

/-! ### Attestation (R459) -/

/-- The 744 signed bytes. -/
def reportBytes (s : State) (nonce : List Byte) : List Byte :=
  let text := ascii "ECATTST1"
  let b := fun (x : Bool) (n : Nat) => if x then 2 ^ n else 0
  let flags := b (inSaddle s) 0 + b s.compact 1 + b (s.flag .crgStat 0 62) 2 + b s.crag.cleared 3
  let slot := s.fld .basBoot 0 53 53
  let cslot := s.fld .basBoot 0 52 52
  let boot := bootSlotImage s slot
  let crag := if s.crag.rom then cryptoBytes 0x21 [] [] 48 else sha384 (cragSlotImage s cslot)
  text ++ toBytes 2 0x7420 ++ [0xB1, 1] ++ toBytes 4 flags ++ fingerprint
    ++ toBytes 8 nonce.length ++ (nonce ++ List.replicate (32 - nonce.length) 0)
    ++ toBytes 8 (s.reg .netPhc).toNat
    ++ toBytes 4 s.massif.bootVersion ++ [BitVec.ofNat 8 slot, BitVec.ofNat 8 cslot, 0, 0]
    ++ toBytes 4 s.massif.cragVersion ++ toBytes 4 0
    ++ sha384 boot ++ crag
    ++ toBytes 8 (s.reg .msfGen).toNat ++ sha384 (bytesOfNats (massifWords s))
    ++ ((List.range 96).map (fun c => toBytes 4 (s.fld .mcPatchVersion c 31 0))).flatten
    ++ toBytes 4 (s.fld .trkMode 0 31 0) ++ toBytes 4 (s.fld .trkMode 0 63 32)
    ++ ((List.range 8).map (fun i => toBytes 8 (if 4 ≤ i then 0 else floorOf s i))).flatten
    ++ toBytes 4 (s.fld .crgTlog 0 31 0) ++ toBytes 4 s.crag.lastSource

/-! ### Counters (R460, R529) -/

def raisesOf (s : State) (i : Nat) : Nat := Tbl.getD s.crag.raises 0 i

def setCounter (s : State) (i v : Nat) : State :=
  { s with crag := { s.crag with counters := Tbl.putD s.crag.counters 0 i v
                                 raises := Tbl.putD s.crag.raises 0 i (raisesOf s i + 1) } }

/-- Increments of the software counters so far. -/
def softwareRaises (s : State) : Nat := s.crag.raises.foldl (fun a e => if 8 ≤ e.1 then a + e.2 else a) 0

/-- Counters 0 to 3 are raised within their endurance. -/
def raiseCounter (i v : Nat) : CragM Unit := fun s =>
  if v ≤ floorOf s i then .ok ((), s)
  else if 4096 ≤ raisesOf s i then failM sLimit s
  else .ok ((), setCounter s i v)

/-! ### The commands (R456): variant, vector address, and the RESULT -/

def cmdRandom (v vec : Nat) : CragM Word := do
  need (v == 0) sFormat
  let (off, len) ← spanParam vec 1
  unused vec 2
  need (1 ≤ len && len ≤ 4096) sFormat
  entropyM
  let a ← outputAt (← param vec 0) off len
  let n ← freshM
  writeOut a (cryptoBytes 1 [n] [] len)
  return fixN len

def digestLength (v : Nat) : Nat :=
  match v with | 0x01 | 0x11 => 32 | 0x02 | 0x12 => 48 | 0x03 | 0x13 => 64 | _ => 0

def cmdHash (v vec : Nat) : CragM Word := do
  let n := digestLength v
  need (n != 0) sFormat
  let (off, len) ← spanParam vec 1
  let out ← fixParam vec 3 (2 ^ 32)
  unused vec 4
  let bs ← readSpan (← param vec 0) off len
  let a ← outputAt (← param vec 2) out n
  writeOut a (cryptoBytes 2 [v] bs n)
  return fixN n

/-- Parameters of GCM_SEAL and GCM_OPEN: slot, IV, AAD, text. -/
def gcmInputs (v vec : Nat) : CragM (Key × List Byte × List Byte × List Byte × Nat) := do
  need (12 ≤ v && v ≤ 16) sFormat
  let slot ← slotParam vec 0
  let (ivOff, ivLen) ← spanParam vec 2
  let (aadOff, aadLen) ← spanParam vec 3
  let (off, len) ← spanParam vec 4
  need (ivLen == 12) sFormat
  let k ← customerKey slot [1] useGcm
  let w ← param vec 1
  let iv ← readSpan w ivOff ivLen
  let aad ← readSpan w aadOff aadLen
  let text ← readSpan w off len
  return (k, iv, aad, text, len)

def cmdGcmSeal (v vec : Nat) : CragM Word := do
  let (k, iv, aad, text, len) ← gcmInputs v vec
  let out ← fixParam vec 6 (2 ^ 32)
  let a ← outputAt (← param vec 5) out (len + v)
  writeOut a (cryptoBytes 3 [k.id, v, aad.length] (iv ++ aad ++ text) (len + v))
  return fixN (len + v)

def cmdGcmOpen (v vec : Nat) : CragM Word := do
  let (k, iv, aad, text, len) ← gcmInputs v vec
  need (v ≤ len) sFormat
  let n := len - v
  let w5 ← param vec 5
  let w6 ← param vec 6
  let dst ← (if n == 0 && isNil w5 then pure none
    else do
      need (isFix w6 && valOf w6 < 2 ^ 32) sFormat
      let a ← outputAt w5 (valOf w6) n
      pure (some a) : CragM (Option Nat))
  need (Config.cryptoOk 4 [k.id, v, aad.length] (iv ++ aad ++ text)) sAuth
  match dst with
  | some a => writeOut a (cryptoBytes 4 [k.id, v, aad.length] (iv ++ aad ++ text) n)
  | none => pure ()
  return boolWord true

def algOk (v : Nat) : Bool := 1 ≤ v && v ≤ 4

def cmdSign (v vec : Nat) : CragM Word := do
  need (algOk v) sFormat
  let slot ← slotParam vec 0
  let (off, len) ← spanParam vec 2
  let out ← fixParam vec 4 (2 ^ 32)
  unused vec 5
  need (isCustomer slot) sSlot
  let _ ← customerKey slot (typesOf v) useSign
  let bs ← readSpan (← param vec 1) off len
  let a ← outputAt (← param vec 3) out (signatureLength v)
  let sig ← (fun s => .ok (signWith s slot v bs) : CragM (List Byte))
  writeOut a sig
  return fixN (signatureLength v)

def cmdVerify (v vec : Nat) : CragM Word := do
  need (algOk v) sFormat
  let slot ← slotParam vec 0
  let (off, len) ← spanParam vec 2
  let (soff, slen) ← spanParam vec 4
  unused vec 5
  signerOk slot v useVerify
  let msg ← readSpan (← param vec 1) off len
  let sig ← readSpan (← bytesParam vec 3) soff slen
  let s ← getM
  need (verifySig s slot v msg sig) sAuth
  return boolWord true

def cmdSeal (v vec : Nat) : CragM Word := do
  need (algOk v) sFormat
  let slot ← slotParam vec 0
  let (off, len) ← spanParam vec 2
  let cls ← fixParam vec 3 0x10000
  unused vec 4
  need (cls == 6 || 0x100 ≤ cls) sFormat
  need (slot == 1 || isCustomer slot) sSlot
  signerOk slot v useSign
  let bs ← readSpan (← bytesParam vec 1) off len
  let s ← getM
  makeSealed (tileHolding s vec) slot v cls bs none

def cmdSealCheck (v vec : Nat) : CragM Word := do
  need (v == 0) sFormat
  unused vec 1
  let w ← param vec 0
  need (← checkSealed w) sAuth
  return boolWord true

/-- Length of the public part of a key by type (log 37). -/
def publicLength (t : Nat) : Nat :=
  match t with | 2 => 96 | 3 => 32 | 4 => 2592 | 5 => 1568 | _ => 0

def cmdKeygen (v vec : Nat) : CragM Word := do
  need (1 ≤ v && v ≤ 5) sFormat
  let slot ← slotParam vec 0
  let usage ← fixParam vec 1 16
  unused vec 3
  emptySlot slot
  entropyM
  let w ← param vec 2
  let n := publicLength v
  let dst ← (if isNil w then pure none else do
    let a ← outputAt w 0 n
    pure (some a) : CragM (Option Nat))
  let id ← freshM
  match dst with
  | some a => writeOut a (cryptoBytes 9 [v, id] [] n)
  | none => pure ()
  putKey slot ⟨v, usage, id⟩
  return fixN n

def cmdKeyimport (v vec : Nat) : CragM Word := do
  need (1 ≤ v && v ≤ 5) sFormat
  let slot ← slotParam vec 0
  let usage ← fixParam vec 1 16
  let (off, len) ← spanParam vec 3
  unused vec 4
  emptySlot slot
  need (1568 + 16 < len) sFormat
  let bs ← readSpan (← param vec 2) off len
  need (Config.cryptoOk 10 [v, slot] bs) sAuth
  let id ← freshM
  putKey slot ⟨v, usage, id⟩
  return fixN 0

def cmdKeydelete (v vec : Nat) : CragM Word := do
  need (v == 0) sFormat
  let slot ← slotParam vec 0
  unused vec 1
  let s ← getM
  need ((Tbl.get? s.crag.keys slot).isSome && s.crag.keyOps < 1000000)
    (if isCustomer slot && s.crag.zeroised.contains slot then sZeroised else sSlot)
  modM fun s => { s with crag := { s.crag with keys := Tbl.del s.crag.keys slot, keyOps := s.crag.keyOps + 1 } }
  return fixN 0

def cmdCtrRead (v vec : Nat) : CragM Word := do
  need (v == 0) sFormat
  let i ← fixParam vec 0 64
  unused vec 1
  let s ← getM
  return fixN (if 4 ≤ i && i ≤ 7 then 0 else floorOf s i)

def cmdCtrInc (v vec : Nat) : CragM Word := do
  need (v == 0) sFormat
  let i ← fixParam vec 0 64
  unused vec 1
  need (8 ≤ i) sFormat
  let s ← getM
  need (floorOf s i < 2 ^ 55 - 1 && raisesOf s i < 10000000 && softwareRaises s < 100000000) sLimit
  modM fun s => setCounter s i (floorOf s i + 1)
  return fixN (floorOf s i + 1)

def cmdAttest (v vec : Nat) : CragM Word := do
  need (v == 0) sFormat
  let (off, len) ← spanParam vec 1
  unused vec 2
  need (len ≤ 32) sFormat
  let nonce ← readSpan (← bytesParam vec 0) off len
  let s ← getM
  let report := reportBytes s nonce
  makeSealed (tileHolding s vec) 1 4 6 report (some report)

/-- The status of an image's fault. -/
def imageStatus : ImageFault → Nat
  | .shape | .crc => sFormat
  | .target => sTarget
  | .signature => sAuth
  | .floor => sFloor

/-- The loadable copy of a patch (R259), in a tile; its floor rises at the same time. -/
def loadable (tile : Nat) (img : List Byte) (raise : Bool) : CragM Word := do
  let s ← getM
  match patchFault s img with
  | some f => failM (imageStatus f)
  | none =>
    if raise && patchRaisesFloor img then raiseCounter 0 (imageLevel img)
    makeSealed tile 0x10 1 6 (img.take (patchLength img)) none

def cmdImgVerify (v vec : Nat) : CragM Word := do
  need (v ≤ 2) sFormat
  let (off, len) ← spanParam vec 1
  unused vec 2
  let img ← readSpan (← bytesParam vec 0) off len
  let s ← getM
  if v == 0 then loadable (tileHolding s vec) img true
  else
    match (if v == 1 then cragImageFault s img else bootImageFault s img) with
    | some f => failM (imageStatus f)
    | none =>
      if raisesFloor img then raiseCounter v (imageLevel img)
      return fixN 0

/-- The stronger action of each source (R465). -/
def strongerPolicy (a b : Nat) : Nat :=
  (List.range 11).foldl (fun x i => x + max (tamperAction a i) (tamperAction b i) * 4 ^ i) 0

def cmdTpolRaise (v vec : Nat) : CragM Word := do
  need (v == 0) sFormat
  let want ← fixParam vec 0 (2 ^ 22)
  unused vec 1
  let s ← getM
  let p := strongerPolicy (s.fld .crgTpol 0 21 0) want
  modM fun s => { s.setF .crgTpol 0 21 0 p with base := { s.base with policy := p } }
  return fixN p

/-- The payload of a token. -/
def tokenM (vec : Nat) : CragM (List Byte) := do
  let w ← bytesParam vec 0
  unused vec 1
  let h ← headerM w
  need (!headerMalformed h && headerFits (tagOf w) h) sFormat
  bytesAtM (valOf w + payloadOffset h) (hdrLength h)

def cmdDebugUnlock (v vec : Nat) : CragM Word := do
  need (v == 0) sFormat
  let token ← tokenM vec
  let s ← getM
  let text := ascii "ECDEBUG1"
  need (verifySig s 0x21 4 (fingerprint ++ toBytes 8 (floorOf s 3) ++ text) token) sRefused
  raiseCounter 3 (floorOf s 3 + 1)
  modM fun s => (loseKeys s).setF .crgStat 0 62 62 1
  return fixN 0

def cmdOwner (v vec : Nat) : CragM Word := do
  need (v == 0) sFormat
  let token ← tokenM vec
  let s ← getM
  need (token.length == 48 + 4723 && verifySig s 0x20 4 (token.take 48) (token.drop 48)
    && s.crag.transfers < 15) sRefused
  modM fun s => { s with crag := { s.crag with owner := token.take 48, transfers := s.crag.transfers + 1 } }
  return fixN (14 - s.crag.transfers)

/-! ### The mailbox (R454, R455) -/

/-- Crag performs commands: it is up, and no switch to another slot is under way (R466, R510). -/
def cragUp (s : State) : Bool :=
  s.online uCrag && !(s.flag .cfgUnitstat 0 63 && s.fld .cfgUnitstat 0 55 48 == 5) && s.base.held.isEmpty

/-- The command vector that a message names: its address, or none where the message is not such a vector. -/
def commandVector (s : State) (cls : Nat) (msg : Word) : Option Nat :=
  if tagOf msg != 0x11 || !addressFormatOk msg then none else
  match spaceWord s cls (heapSpace s) (valOf msg) with
  | some h =>
    if tagOf h == 0x21 && hdrClass h == 7 && hdrLength h == 12 && !headerMalformed h && !hdrImm h then some (valOf msg)
    else none
  | none => none

/-- A slot of a command vector written by Crag: its write passes the barrier. -/
def putVector (s : State) (cls vec i : Nat) (w : Word) : State :=
  let old := (spaceWord s cls (heapSpace s) (vec + 8 * (i + 1))).getD nil
  match masterWrite (logAtEngine s old) (heapSpace s) cls true (vec + 8 * (i + 1)) (bytesOfWord w) with
  | .ok s1 | .error s1 => s1

/-- RESULT, STATUS and the reply (R455, R485). A failed command leaves RESULT as it was, but for the T.BOOL of a
check that did not verify (log 36). -/
def answerVector (s : State) (cls vec : Nat) (result : Option Word) (status : Nat) : State :=
  let s1 := match result with | some w => putVector s cls vec 4 w | none => s
  let s2 := putVector s1 cls vec 3 (fixN status)
  match spaceWord s2 cls (heapSpace s2) (vec + 16) with
  | some r0 =>
    let (r, s3) := trvHeal s2 r0
    if tagOf r == 0x14 then (appendMailbox s3 (heapSpace s3) cls (valOf r) (mkWord 0x11 vec)).1 else s3
  | none => s2

/-- A message that is not a command vector (R455). -/
def badMessage (s : State) : State := pulse (s.setR .crgStat 0 (satInc (s.reg .crgStat) 47 32)) 194

/-- What a failed command leaves of its own: a record of consumed poison, or partial output. -/
def leave (s : State) : Residue → State
  | .nothing => s
  | .poison pa => poisonConsumed s pa
  | .output cls va bs => match writeBytesAt s cls va bs with | .ok s1 | .error s1 => s1

/-- The end of a command: RESULT on success, FALSE for a check that failed to verify. -/
def finishCrag (s : State) (vec : Nat) (checks : Bool) (r : Except (Nat × Residue) (Word × State)) : State :=
  let count := fun (x : State) => x.setR .crgStat 0 (wrapInc (x.reg .crgStat) 31 0 1)
  match r with
  | .ok (w, s1) => answerVector (count s1) 6 vec (some w) 0
  | .error (e, left) =>
    let s1 := if e == sHeapFull then engineHeapFull s (tileHolding s vec) else leave s left
    answerVector (count s1) 6 vec (if checks && e == sAuth then some (boolWord false) else none) e

/-- Opcodes that Crag offers: from its ROM only five (R504). -/
def offered (s : State) (op : Nat) : Bool :=
  1 ≤ op && op ≤ 0x12 && (!s.crag.rom || op == 1 || op == 2 || op == 0x0C || op == 0x0E || op == 0x0F)

/-- A command of Crag: the oldest message, when its opcode is the row's. A message that is no command vector, or
an opcode that Crag does not offer, is dealt with by whichever row finds it. -/
def cragRow (op : Nat) (cmd : Nat → Nat → CragM Word) (s : State) : State :=
  if !cragUp s || !s.flag .crgMbox 0 63 || !hasSlot s .crag then s else
  match takeMessage s (heapSpace s) 6 (s.fld .crgMbox 0 46 4 * 16) with
  | none => missedMessage s (heapSpace s) 6 (s.fld .crgMbox 0 46 4 * 16)
  | some (msg0, s0) =>
    let (msg, s1) := trvHeal s0 msg0
    match commandVector s1 6 msg with
    | none => badMessage s1
    | some vec =>
      match spaceWord s1 6 (heapSpace s1) (vec + 8) with
      | none => finishCrag s1 vec false ((readFailM 6 (vec + 8) 8 : CragM Word) s1)
      | some w =>
        let code := bitsOf w 7 0
        if !isFix w || bitsOf w 55 16 != 0 || !offered s1 code then
          finishCrag s1 vec false (.error (sFormat, .nothing))
        else if code != op then s
        else finishCrag s1 vec (op == 4 || op == 6 || op == 8) (cmd (bitsOf w 15 8) vec s1)

/-- RANDOM. -/
def execRandom (s : State) : Out := .next (cragRow 0x01 cmdRandom s)
/-- HASH. -/
def execHash (s : State) : Out := .next (cragRow 0x02 cmdHash s)
/-- GCM_SEAL. -/
def execGcmSeal (s : State) : Out := .next (cragRow 0x03 cmdGcmSeal s)
/-- GCM_OPEN. -/
def execGcmOpen (s : State) : Out := .next (cragRow 0x04 cmdGcmOpen s)
/-- SIGN. -/
def execSign (s : State) : Out := .next (cragRow 0x05 cmdSign s)
/-- VERIFY. -/
def execVerify (s : State) : Out := .next (cragRow 0x06 cmdVerify s)
/-- SEAL. -/
def execSeal (s : State) : Out := .next (cragRow 0x07 cmdSeal s)
/-- SEAL_CHECK. -/
def execSealCheck (s : State) : Out := .next (cragRow 0x08 cmdSealCheck s)
/-- KEYGEN. -/
def execKeygen (s : State) : Out := .next (cragRow 0x09 cmdKeygen s)
/-- KEYIMPORT. -/
def execKeyimport (s : State) : Out := .next (cragRow 0x0A cmdKeyimport s)
/-- KEYDELETE. -/
def execKeydelete (s : State) : Out := .next (cragRow 0x0B cmdKeydelete s)
/-- CTR_READ. -/
def execCtrRead (s : State) : Out := .next (cragRow 0x0C cmdCtrRead s)
/-- CTR_INC. -/
def execCtrInc (s : State) : Out := .next (cragRow 0x0D cmdCtrInc s)
/-- CRAG_ATTEST. -/
def execCragAttest (s : State) : Out := .next (cragRow 0x0E cmdAttest s)
/-- IMG_VERIFY. -/
def execImgVerify (s : State) : Out := .next (cragRow 0x0F cmdImgVerify s)
/-- TPOL_RAISE. -/
def execTpolRaise (s : State) : Out := .next (cragRow 0x10 cmdTpolRaise s)
/-- DEBUG_UNLOCK. -/
def execDebugUnlock (s : State) : Out := .next (cragRow 0x11 cmdDebugUnlock s)
/-- OWNER. -/
def execOwner (s : State) : Out := .next (cragRow 0x12 cmdOwner s)

/-! ### The entropy source (R463) -/

/-- TRNG_HEALTH_FAIL. -/
def execTrngHealthFail (s : State) : Out := .next (
  if s.online uCrag then pulse (s.setF .crgStat 0 63 63 1) 194 else s)

/-- TRNG_RESTART. -/
def execTrngRestart (s : State) : Out := .next (s.setF .crgStat 0 63 63 0)

end Sys2Proof.Machine
end

