-- ==== Sys2Proof/Machine/HostRings.lean ====
section
/-! DEFINITION. The host ring engine: the doorbell page, descriptors and their fetch, completion entries, MSI-X,
notifications, ring states, and the PCIe function (R427 to R449). -/

namespace Sys2Proof.Machine

open Sys2Proof

/-! ### State of the engine -/

def Ring.empty : Ring := ⟨0, [], none, false⟩
def CqRing.empty : CqRing := ⟨0, 0, 0⟩
def MsixEntry.empty : MsixEntry := ⟨0, 0, true⟩

def State.ring (s : State) (r : Nat) : Ring := Tbl.getD s.hre.rings Ring.empty r
def State.setRing (s : State) (r : Nat) (x : Ring) : State :=
  { s with hre := { s.hre with rings := Tbl.putD s.hre.rings Ring.empty r x } }
def State.cq (s : State) (c : Nat) : CqRing := Tbl.getD s.hre.cqs CqRing.empty c
def State.setCq (s : State) (c : Nat) (x : CqRing) : State :=
  { s with hre := { s.hre with cqs := Tbl.putD s.hre.cqs CqRing.empty c x } }

def sqState (s : State) (r : Nat) : Nat := s.fld .hreSqstat r 63 62
def sqRunning (s : State) (r : Nat) : Bool := sqState s r == 1
def sqHead (s : State) (r : Nat) : Nat := s.fld .hreSqstat r 31 0
def boundCq (s : State) (r : Nat) : Nat := s.fld .hreSqcfg r 53 48
def sqSize (s : State) (r : Nat) : Nat := 2 ^ s.fld .hreSqcfg r 4 0
def cqSize (s : State) (c : Nat) : Nat := 2 ^ s.fld .hreCqcfg c 4 0
def cqEnabled (s : State) (c : Nat) : Bool := s.flag .hreCqcfg c 63
def boundRings (s : State) (c : Nat) : List Nat := (List.range 64).filter (fun r => sqRunning s r && boundCq s r == c)

/-- The distance of two counts modulo 2^32. -/
def countDiff (a b : Nat) : Nat := (a + 2 ^ 32 - b % 2 ^ 32) % 2 ^ 32

/-- In D3hot, or with Bus Master Enable 0, the engine issues no request (R447). -/
def engineQuiet (s : State) : Bool := s.pcie.d3 || !s.pcie.bme

def engineOn (s : State) : Bool := s.flag .hreCtl 0 63 && s.online uHre

/-! ### Interrupts (R446, R447) -/

def vectorMasked (s : State) (c : Nat) : Bool :=
  !s.pcie.msixOn || s.pcie.msixMasked || (Tbl.getD s.pcie.msix MsixEntry.empty c).masked

/-- The MSI-X message of a vector. -/
def sendMsix (s : State) (c : Nat) : State :=
  let e := Tbl.getD s.pcie.msix MsixEntry.empty c
  sendHost s e.addr.toNat (toBytes 4 e.data.toNat)

/-- An interrupt that is due is sent, or pends (R446). -/
def deliverInterrupt (s : State) (c : Nat) : State :=
  if engineQuiet s then
    { s with pcie := { s.pcie with due := if s.pcie.due.contains c then s.pcie.due else s.pcie.due ++ [c]
                                   pme := s.pcie.pme || s.pcie.pmeEn } }
  else if vectorMasked s c then { s with pcie := { s.pcie with pba := insertNat s.pcie.pba c } }
  else sendMsix s c

/-- Ring c's interrupt becomes due. -/
def interruptDue (s : State) (c : Nat) : State := deliverInterrupt (s.setCq c { s.cq c with unann := 0 }) c

/-! ### Completion entries (R443, R444) -/

/-- Words 0 to 2 in one write, then word 3 with its PHASE. -/
def writeEntry (s : State) (e : HostEntry) : State :=
  let q := s.cq e.cq
  let size := cqSize s e.cq
  let a := s.fld .hreCqbase e.cq 63 12 * 4096 + 32 * (q.written % size)
  let phase := (q.written / size) % 2 == 0
  let bs := (e.words.take 3).map bytesOfWord
  let s1 := sendHost s a bs.flatten
  let s2 := sendHost s1 (a + 24) (bytesOfWord (withBit (e.words.getD 3 0) 63 phase))
  let n := q.unann + 1
  let s3 := s2.setCq e.cq { q with written := (q.written + 1) % 2 ^ 32, unann := n }
  if s.fld .hreCqcfg e.cq 47 32 == 0 || s.fld .hreCqcfg e.cq 15 8 ≤ n then interruptDue s3 e.cq else s3

def cqRoom (s : State) (c : Nat) : Bool := cqEnabled s c && countDiff (s.cq c).written (s.cq c).head < cqSize s c

/-- Entries are written in order, each ring's while it has room; none in D3hot. -/
def flushEntries (s : State) : State :=
  if engineQuiet s then s else
  let (rest, s1) := s.hre.entries.foldl (fun (x : List HostEntry × State) e =>
    if x.1.any (fun y => y.cq == e.cq) || !cqRoom x.2 e.cq then (x.1 ++ [e], x.2) else (x.1, writeEntry x.2 e)) ([], s)
  { s1 with hre := { s1.hre with entries := rest } }

/-- An entry on its way; PME is signalled for one that is held (R447). -/
def postEntry (s : State) (e : HostEntry) : State :=
  let s1 := { s with hre := { s.hre with entries := s.hre.entries ++ [e] } }
  if engineQuiet s then { s1 with pcie := { s1.pcie with pme := s1.pcie.pme || s1.pcie.pmeEn } } else flushEntries s1

/-- Word 3 of an entry. -/
def entryWord3 (detail sq op status : Nat) : Word :=
  BitVec.ofNat 64 (detail % 2 ^ 16 * 2 ^ 32 + sq * 2 ^ 16 + op % 256 * 256 + status % 256)

/-! ### Ring states (R448) -/

/-- A ring enters ERROR: its source is pulsed and an error completion goes out. The manual gives a STATUS and DETAIL
for the failures of host reads only, and an OPCODE only where there is a descriptor: the others are free (log 35). -/
def ringError (s : State) (r cause : Nat) (d : Option Word) : State :=
  if !sqRunning s r then s else
  let s1 := (s.setF .hreSqstat r 63 62 2).setF .hreSqstat r 55 48 cause
  let s2 := pulse (s1.setRing r { s1.ring r with fetched := [], posting := none }) (64 + r)
  let (f, s3) := takeFree s2
  let tag := match d with | some w => bitsOf w 63 32 | none => 0
  let op := match d with | some w => bitsOf w 7 0 | none => bitsOf f 7 0
  let status := if cause == 1 then 3 else if cause == 2 then 4 else bitsOf f 15 8
  let detail := if cause ≤ 2 then 0 else bitsOf f 31 16
  let w2 : Word := BitVec.ofNat 64 (tag * 2 ^ 32 + sqHead s r)
  let s4 := postEntry s3 ⟨boundCq s r, some r, [0, 0, w2, entryWord3 detail r op status]⟩
  if (s.ring r).resetting then (s4.setF .hreSqstat r 63 62 0).setRing r Ring.empty else s4

/-- A failed fetch at the front of a ring takes effect (R436, R440), and descriptors that end without an opcode's
effect complete. -/
def completeFront (s : State) (r status detail : Nat) (r0 r1 : Word) : State :=
  match (s.ring r).fetched with
  | [] => s
  | f :: fs =>
    let w0 := f.words.getD 0 0
    let head := (sqHead s r + 1) % 2 ^ 32
    let s1 := (s.setF .hreSqstat r 31 0 head).setRing r { s.ring r with fetched := fs, posting := none }
    let w2 : Word := BitVec.ofNat 64 (bitsOf w0 63 32 * 2 ^ 32 + head)
    let s2 := postEntry s1 ⟨boundCq s r, some r, [r0, r1, w2, entryWord3 detail r (bitsOf w0 7 0) status]⟩
    if (s2.ring r).resetting then
      ({ s2 with hre := { s2.hre with entries := s2.hre.entries.filter (fun e => e.sq != some r) } }.setF
        .hreSqstat r 63 62 0).setRing r Ring.empty
    else s2

/-- A ring may perform its next descriptor: its last completion has left, or in D3hot the device can hold one more. -/
def mayPerform (s : State) (r : Nat) : Bool :=
  sqRunning s r && s.online uHre &&
    (if engineQuiet s then s.hre.entries.length < 4096 else !s.hre.entries.any (fun e => e.sq == some r))

def settleRing : Nat → State → Nat → State
  | 0, s, _ => s
  | n + 1, s, r =>
    match (s.ring r).fetched with
    | f :: _ =>
      match f.ends with
      | .ready => s
      | .failed t => ringError s r (if t then 1 else 2) (if f.words.isEmpty then none else some (f.words.getD 0 0))
      | .status c d => if mayPerform s r then settleRing n (completeFront s r c d 0 0) r else s
    | [] => s

def settleAll (s : State) : State := (List.range 64).foldl (settleRing 17) s

/-- Room appears: entries leave, and descriptors that wait only for that complete. -/
def proceed (s : State) : State := flushEntries (settleAll (flushEntries s))

/-! ### DOORBELL_POLL (R434, R435) -/

/-- A read of the host as the link allows it (R430). -/
def hostReply (s : State) (h : HostBytes) : HostBytes := if s.pcie.link then h else .failed true

def enabledRings (s : State) : List Nat := (List.range 64).filter (sqRunning s)

/-- The head record of a completion ring. -/
def takeHead (s : State) (c : Nat) (rec : Word) : State :=
  if !cqEnabled s c then s
  else if bitsOf rec 63 32 != 0 then (boundRings s c).foldl (fun x r => ringError x r 4 none) s
  else
    let h := bitsOf rec 31 0
    if cqSize s c < countDiff (s.cq c).written h then (boundRings s c).foldl (fun x r => ringError x r 5 none) s
    else s.setCq c { s.cq c with head := h }

/-- The tail record of a submission ring; the answer tells whether it shows a new count. -/
def takeTail (s : State) (r : Nat) (rec : Word) : State × Bool :=
  if !sqRunning s r then (s, false)
  else if bitsOf rec 63 32 != 0 then (ringError s r 4 none, false)
  else
    let t := bitsOf rec 31 0
    if sqSize s r < countDiff t (sqHead s r) then (ringError s r 3 none, false)
    else (s.setRing r { s.ring r with tail := t }, t != (s.ring r).tail)

def setInterval (s : State) (n : Nat) : State := { s with hre := { s.hre with interval := n } }

/-- DOORBELL_POLL. -/
def execDoorbellPoll (h : HostBytes) (s : State) : Out := .next (
  if !engineOn s || engineQuiet s then s else
  match hostReply s h with
  | .failed t => (enabledRings s).foldl (fun x r => ringError x r (if t then 1 else 2) none) s
  | .data bs =>
    let rec_ := fun (i : Nat) => wordOfBytes ((bs.drop (8 * i)).take 8)
    let s1 := (List.range 64).foldl (fun x c => takeHead x c (rec_ (64 + c))) s
    let (s2, found) := (List.range 64).foldl (fun (x : State × Bool) r =>
      let (y, b) := takeTail x.1 r (rec_ r)
      (y, x.2 || b)) (s1, false)
    let lo := s.fld .hreCtl 0 31 16
    let hi := s.fld .hreCtl 0 47 32
    proceed (setInterval s2 (if found then lo else min hi (2 * max lo s.hre.interval))))

/-- CQ_HEAD_POLL: the head record of a ring without room. -/
def execCqHeadPoll (c : Fin 64) (h : HostBytes) (s : State) : Out := .next (
  if !engineOn s || engineQuiet s || cqRoom s c.val then s else
  match hostReply s h with
  | .failed t => (boundRings s c.val).foldl (fun x r => ringError x r (if t then 1 else 2) none) s
  | .data bs => proceed (takeHead s c.val (wordOfBytes (bs.take 8))))

/-! ### DESCRIPTOR_FETCH (R436 to R438) -/

/-- A span of host memory lies in the host window (R429). -/
def windowHolds (s : State) (a n : Nat) : Bool :=
  let base := hostAddr s 0
  base ≤ a && a + n ≤ base + 2 ^ 43

/-- Words of 64 bytes. -/
def wordsOf (bs : List Byte) : List Word := (List.range 8).map (fun i => wordOfBytes ((bs.drop (8 * i)).take 8))

/-- The bits that each opcode defines in P0 to P5, and whether it has segments. -/
def paramMasks (op : Nat) : Option (List Nat × Bool) :=
  let all := 2 ^ 64 - 1
  match op with
  | 0x01 => some ([0x3FFFFF, all, all, all, all, all], false)
  | 0x02 => some ([0xFFFFFFFF0000FFFF, 0, all, all, all, all], true)
  | 0x03 => some ([0xFFFFFFFF0000FFFF, 0xFFFFFFFF, all, all, all, all], true)
  | 0x04 => some ([0xFFFF, all, all, 0, 0, 0], false)
  | 0x05 => some ([0x107, 0, 0, 0, 0, 0], false)
  | 0x06 => some ([0xFFFFFFFF0000003F, all, all, all, all, all], false)
  | 0x07 => some ([0xFFFFFFFF00000003, 0, all, all, all, all], true)
  | 0x08 => some ([0xFF, 0, 0, 0, 0, 0], false)
  | _ => none

/-- P0 meets its opcode's rules. -/
def p0Ok (op : Nat) (p : Word) : Bool :=
  let len := bitsOf p 63 32
  match op with
  | 0x01 => bitsOf p 21 16 ≤ 40
  | 0x02 => 1 ≤ len && len ≤ 2 ^ 32 - 16
  | 0x03 => 1 ≤ len
  | 0x06 => bitsOf p 5 0 ≤ 32
  | 0x07 => bitsOf p 1 0 != 3
  | 0x08 => bitsOf p 7 0 ≤ 2
  | _ => true

/-- A key word of QUERY: an immediate tag, valid (R52). -/
def keyOk (w : Word) : Bool := isImmediateTag (tagOf w) && immediateOk w

/-- Bytes of a nonce beyond NLEN are not defined by the table and must be 0; so are inline bytes beyond LEN. -/
def tailZero (ws : List Word) (n : Nat) : Option Nat :=
  let bs := (ws.map bytesOfWord).flatten
  ((List.range bs.length).find? (fun i => n ≤ i && bs.getD i 0 != 0)).map (· / 8)

/-- The link to an extension: CHAIN and NEXT. -/
def nextOk (s : State) (chain : Bool) (next : Word) : Bool :=
  if chain then next.toNat % 64 == 0 && windowHolds s next.toNat 64 else next == 0

/-- The segments of a list of address and length words from word `first` on; `ended` tells that a segment of length 0
came before. A faulty field is answered by its word number. -/
def segments (s : State) : Nat → Bool → List Word → Except Nat (List (Nat × Nat) × Bool)
  | first, ended, a :: l :: rest =>
    if bitsOf l 63 32 != 0 then .error (first + 1)
    else if ended then
      if a != 0 then .error first else if l != 0 then .error (first + 1) else segments s (first + 2) true rest
    else if l == 0 then segments s (first + 2) true rest
    else if !windowHolds s a.toNat l.toNat then .error first
    else match segments s (first + 2) false rest with
      | .ok (more, e) => .ok ((a.toNat, l.toNat) :: more, e)
      | .error n => .error n
  | _, ended, _ => .ok ([], ended)

/-- The first faulty word of a descriptor (R437). -/
def faultyWord (s : State) (ws : List Word) : Option Nat :=
  let w0 := ws.getD 0 0
  let op := bitsOf w0 7 0
  let chain := bitOf w0 8
  match paramMasks op with
  | none => some 0
  | some (masks, segs) =>
    if bitsOf w0 31 9 != 0 || (chain && !segs) then some 0
    else if !nextOk s chain (ws.getD 1 0) then some 1
    else if !p0Ok op (ws.getD 2 0) then some 2
    else match (List.range 6).find? (fun i => (ws.getD (2 + i) 0).toNat &&& (2 ^ 64 - 1 - masks.getD i 0) != 0) with
      | some i => some (2 + i)
      | none =>
        match op with
        | 0x01 => (tailZero (ws.drop 3) (bitsOf (ws.getD 2 0) 21 16)).map (· + 3)
        | 0x04 => if !keyOk (ws.getD 3 0) then some 3 else if !keyOk (ws.getD 4 0) then some 4 else none
        | 0x06 =>
          match tailZero ((ws.drop 3).take 4) (bitsOf (ws.getD 2 0) 5 0) with
          | some i => some (i + 3)
          | none => if windowHolds s (ws.getD 7 0).toNat (bitsOf (ws.getD 2 0) 63 32) then none else some 7
        | _ => none

/-- Following the chain: what the extensions bring, counted against HOPLIM. None where the command brings too few of
them. -/
def followChain (s : State) (lim : Nat) : Nat → Bool → List HostBytes → List (Nat × Nat) →
    Option (List (Nat × Nat) × FetchEnd)
  | hops, ended, es, segs =>
    if lim < hops + 1 then some (segs, .status 2 lim) else
    match es with
    | [] => none
    | .failed t :: _ => some (segs, .failed t)
    | .data bs :: rest =>
      let ws := wordsOf bs
      let w0 := ws.getD 0 0
      let chain := bitOf w0 8
      if bitsOf w0 63 9 != 0 || bitsOf w0 7 0 != 0xE0 then some (segs, .status 1 0)
      else if !nextOk s chain (ws.getD 1 0) then some (segs, .status 1 1)
      else match segments s 2 ended (ws.drop 2) with
        | .error n => some (segs, .status 1 n)
        | .ok (more, e) =>
          if chain then followChain s lim (hops + 1) e rest (segs ++ more) else some (segs ++ more, .ready)

/-- What a descriptor and its extensions come to. -/
def readDescriptor (s : State) (r : Nat) (ws : List Word) (exts : List HostBytes) : Option (List (Nat × Nat) × FetchEnd) :=
  let op := bitsOf (ws.getD 0 0) 7 0
  match faultyWord s ws with
  | some n => some ([], .status 1 n)
  | none =>
    if inSaddle s && op != 6 && op != 7 && op != 8 then some ([], .status 9 0xFFFF)
    else match paramMasks op with
      | some (_, true) =>
        match segments s 4 false (ws.drop 4) with
        | .error n => some ([], .status 1 n)
        | .ok (segs, e) =>
          let gathered := if bitOf (ws.getD 0 0) 8 then
              followChain s (s.fld .hreSqcfg r 39 32) 0 e (exts.map (hostReply s)) segs else some (segs, .ready)
          match gathered with
          | some (all, .ready) =>
            if all.foldl (fun a x => a + x.2) 0 == bitsOf (ws.getD 2 0) 63 32 then some (all, .ready)
            else some (all, .status 1 2)
          | x => x
      | _ => some ([], .ready)

/-- DESCRIPTOR_FETCH: the next descriptor of a ring arrives, at most 16 ahead of the one performed. One that ends
without an opcode's effect completes in its turn. -/
def execDescriptorFetch (r : Fin 64) (d : HostBytes) (exts : List HostBytes) (s : State) : Out := .next (
  let q := s.ring r.val
  let failed := q.fetched.any (fun f => match f.ends with | .failed _ => true | _ => false)
  if !engineOn s || engineQuiet s || !sqRunning s r.val || 16 < q.fetched.length || failed || q.resetting
    || countDiff q.tail (sqHead s r.val) ≤ q.fetched.length then s else
  let add := fun (ws : List Word) (segs : List (Nat × Nat)) (e : FetchEnd) =>
    let s1 := s.setRing r.val { q with fetched := q.fetched ++ [⟨s.hre.order, ws, segs, e⟩] }
    proceed { s1 with hre := { s1.hre with order := s1.hre.order + 1 } }
  match hostReply s d with
  | .failed t => add [] [] (.failed t)
  | .data bs =>
    match readDescriptor s r.val (wordsOf bs) exts with
    | none => s
    | some (segs, e) => add (wordsOf bs) segs e)

/-! ### Performing descriptors (R439 to R442) -/

/-- The front descriptor of a ring when it is ready, its opcode is the row's and the engine has a slot (R24). -/
def frontOf (s : State) (r op : Nat) : Option Fetched :=
  if !mayPerform s r || !hasSlot s .hre then none else
  match (s.ring r).fetched with
  | f :: _ => if f.ends == .ready && bitsOf (f.words.getD 0 0) 7 0 == op && (s.ring r).posting.isNone then some f else none
  | [] => none

def finish (s : State) (r status detail : Nat) (r0 r1 : Word) : State := proceed (completeFront s r status detail r0 r1)

/-- Statuses (R440). -/
def stMemory : Nat := 5
def stNoEndpoint : Nat := 6
def stHeapFull : Nat := 8
def stRefused : Nat := 9
def stRange : Nat := 10

/-- A failed read of n bytes by the ring engine: its record of poison (R79, R81). -/
def ringMiss (s : State) (va n : Nat) : State := meetRead s 5 (heapSpace s) va n

/-- The word of a slot of a device-side table (R449), healed; a failure by its status, with the state that it leaves. -/
def tableSlot (s : State) (i slot : Nat) : Except (Nat × State) (Word × State) :=
  if !s.flag .hreDevtab i 63 then .error (stNoEndpoint, s) else
  let va := valOf (healMoved s (mkWord 0x11 (s.fld .hreDevtab i 46 4 * 16)))
  match spaceWord s 5 (heapSpace s) va with
  | none => .error (stMemory, ringMiss s va 8)
  | some h =>
    if headerMalformed h || !headerFits 0x11 h || hdrLength h ≤ slot then .error (stNoEndpoint, s) else
    match spaceWord s 5 (heapSpace s) (va + 8 * (slot + 1)) with
    | none => .error (stMemory, ringMiss s (va + 8 * (slot + 1)) 8)
    | some w => .ok (trvHeal (touchEdge s 5 (heapSpace s) va (8 * (slot + 2))) w)

def detailOf (status slot : Nat) : Nat := if status == stNoEndpoint || status == 7 then slot else 0

/-- The append of a message, or its end: full, it waits for the next retry (R441). A message slot that holds a header
makes the mailbox malformed; an access that fails, in translation too, is MEMORY_ERROR (log 35). -/
def appendMessage (s : State) (r e : Nat) (mbox : Nat) (msg : Word) : State :=
  match appendMailbox s (heapSpace s) 5 mbox msg with
  | (s1, .posted) => finish s1 r 0 0 0 0
  | (_, .full) => s.setRing r { s.ring r with posting := some msg }
  | (s1, .malformed) | (s1, .forged) => finish s1 r stNoEndpoint e 0 0
  | (s1, .failed _) => finish s1 r stMemory 0 0 0

/-- INVOKE and IMPORT: the byte vector in the mailbox's tile, with its header, and the append. -/
def postMessage (s : State) (r : Nat) (f : Fetched) (data : List Byte) : State :=
  let w0 := f.words.getD 0 0
  let e := bitsOf (f.words.getD 2 0) 15 0
  match tableSlot s 0 e with
  | .error (st, x) => finish x r st (detailOf st e) 0 0
  | .ok (w, s1) =>
    if tagOf w != 0x14 then finish s1 r stNoEndpoint e 0 0 else
    match mailboxAt s1 5 (heapSpace s1) (valOf w) with
    | .error (.failed _, x) => finish x r stMemory 0 0 0
    | .error (_, x) => finish x r stNoEndpoint e 0 0
    | .ok _ =>
    let head := toBytes 4 (bitsOf w0 63 32) ++ [BitVec.ofNat 8 r, BitVec.ofNat 8 (bitsOf w0 7 0), 0, 0]
      ++ toBytes 4 data.length ++ toBytes 4 0
    let bs := byteVectorBytes 6 (head ++ data)
    let t := tileHolding s1 (valOf w)
    match engineObject s1 t (kindFor false false bs.length) bs with
    | none => finish (engineHeapFull s1 t) r stHeapFull 0 0 0
    | some (a, s2) => appendMessage s2 r e (valOf w) (mkWord 0x12 a)

/-- INVOKE. -/
def execInvoke (r : Fin 64) (s : State) : Out := .next (
  match frontOf s r.val 1 with
  | none => s
  | some f =>
    postMessage s r.val f (((f.words.drop 3).map bytesOfWord).flatten.take (bitsOf (f.words.getD 2 0) 21 16)))

/-- The bytes gathered from the segments, or the failure of a read. -/
def gathered (s : State) (f : Fetched) (h : HostBytes) : Except Bool (List Byte) :=
  let n := bitsOf (f.words.getD 2 0) 63 32
  match hostReply s h with
  | .failed t => .error t
  | .data bs => .ok ((bs ++ List.replicate (n - bs.length) 0).take n)

/-- IMPORT. -/
def execImport (r : Fin 64) (h : HostBytes) (s : State) : Out := .next (
  match frontOf s r.val 2 with
  | none => s
  | some f =>
    if engineQuiet s then s else
    match gathered s f h with
    | .error t => ringError s r.val (if t then 1 else 2) (some (f.words.getD 0 0))
    | .ok bs => postMessage s r.val f bs)

/-- The append of a ring's message is tried again (R441). -/
def retryRing (s : State) (r : Nat) : State :=
  match (s.ring r).posting, (s.ring r).fetched with
  | some msg, f :: _ =>
    let e := bitsOf (f.words.getD 2 0) 15 0
    match tableSlot s 0 e with
    | .ok (w, s1) => appendMessage s1 r e (valOf w) msg
    | .error (st, x) => finish x r st (detailOf st e) 0 0
  | _, _ => s

/-- The mailbox stayed full beyond MBWAIT. -/
def expireRing (s : State) (r : Nat) : State :=
  match (s.ring r).posting, (s.ring r).fetched with
  | some _, f :: _ => finish s r 7 (bitsOf (f.words.getD 2 0) 15 0) 0 0
  | _, _ => s

/-- Bytes over the segments in order. -/
def scatter (s : State) : List (Nat × Nat) → List Byte → State
  | [], _ => s
  | (a, n) :: rest, bs => scatter (sendHost s a (bs.take n)) rest (bs.drop n)

/-- EXPORT: the data before the entry (R442). -/
def execExport (r : Fin 64) (s : State) : Out := .next (
  match frontOf s r.val 3 with
  | none => s
  | some f =>
    if engineQuiet s then s else
    let x := bitsOf (f.words.getD 2 0) 15 0
    let n := bitsOf (f.words.getD 2 0) 63 32
    let off := bitsOf (f.words.getD 3 0) 31 0
    match tableSlot s 1 x with
    | .error (st, y) => finish y r.val st (detailOf st x) 0 0
    | .ok (w, s1) =>
      if tagOf w != 0x12 && tagOf w != 0x19 then finish s1 r.val stNoEndpoint x 0 0 else
      match spaceWord s1 5 (heapSpace s1) (valOf w) with
      | none => finish (ringMiss s1 (valOf w) 8) r.val stMemory 0 0 0
      | some h =>
        let a := valOf w + payloadOffset h + off
        if headerMalformed h || !headerFits (tagOf w) h then finish s1 r.val stNoEndpoint x 0 0
        else if hdrLength h < off + n then finish s1 r.val stRange 0 0 0
        else match trvRead s1 5 (heapSpace s1) true a n with
          | .error _ => finish (ringMiss s1 a n) r.val stMemory 0 0 0
          | .ok bs =>
            finish (scatter (touchEdge s1 5 (heapSpace s1) a n) f.segs bs) r.val 0 0 (BitVec.ofNat 64 n) 0)

/-! ### QUERY (R439): CQLOOK of an immediate key -/

/-- A tagged object of a shape as the engine reads it: slot i. -/
def objSlot (s : State) (va i : Nat) : Option Word := spaceWord s 5 (heapSpace s) (va + 8 * (i + 1))

/-- A lookup that ends with a status; where a read of n bytes failed, its address. -/
structure LookFault where
  status : Nat
  va : Nat
  n : Nat
  deriving DecidableEq, Repr

/-- The chain of R358 from a link; fuel is the capacity. -/
def lookChain (s : State) (v cap : Nat) (k0 k1 : Word) : Nat → Nat → Except LookFault (Option Word)
  | 0, _ => .ok none
  | f + 1, link =>
    if link == 0 then .ok none
    else if cap < link then .error ⟨stMemory, 0, 0⟩
    else
      let j := link - 1
      match objSlot s v (ovSlot j 0), objSlot s v (ovSlot j 1), objSlot s v (ovSlot j 2), objSlot s v (ovSlot j 3) with
      | some x, some y, some val, some next =>
        if x == k0 && y == k1 then .ok (some val)
        else if isFix next then lookChain s v cap k0 k1 f (valOf next) else .error ⟨stMemory, 0, 0⟩
      | _, _, _, _ => .error ⟨stMemory, v + 8 * (ovSlot j 0 + 1), 32⟩

/-- The value of a key in a table, none where it is absent. -/
def hostLook (s : State) (va : Nat) (k0 k1 : Word) : Except LookFault (Option Word) :=
  let miss : Nat → Nat → Except LookFault (Option Word) := fun a n => .error ⟨stMemory, a, n⟩
  match spaceWord s 5 (heapSpace s) va with
  | none => miss va 8
  | some h =>
    if tagOf h != 0x20 || hdrClass h != 9 || headerMalformed h then .error ⟨stNoEndpoint, 0, 0⟩ else
    match objSlot s va 0 with
    | none => miss (va + 8) 8
    | some shape =>
      let k := bitsOf shape 4 0
      if !isFix shape || bitsOf shape 55 40 != 0 || bitsOf shape 7 5 != 0 || k < 4 || 16 < k
          || hdrLength h != 7 + 8 * 2 ^ k then .error ⟨stNoEndpoint, 0, 0⟩ else
      let hash := (crc32c (BitVec.ofNat 32 (bitsOf shape 39 8)) (bytesOfWord k0 ++ bytesOfWord k1)).toNat
      let b := hash % 2 ^ k
      let fp := hash / 2 ^ 16
      match objSlot s va (ctrlSlot b) with
      | none => miss (va + 8 * (ctrlSlot b + 1)) 8
      | some ctrl =>
        if !ctrlOk ctrl then .error ⟨stMemory, 0, 0⟩ else
        let near := fun (i : Nat) => usedBit ctrl i && fpOf ctrl i == fp
        let lost := fun (i : Nat) =>
          near i && ((objSlot s va (keySlot b i)).isNone || (objSlot s va (keySlot b i + 1)).isNone)
        let hit := fun (i : Nat) => near i
          && objSlot s va (keySlot b i) == some k0 && objSlot s va (keySlot b i + 1) == some k1
        if lost 0 then miss (va + 8 * (keySlot b 0 + 1)) 16
        else if !hit 0 && lost 1 then miss (va + 8 * (keySlot b 1 + 1)) 16
        else if hit 0 || hit 1 then
          match objSlot s va (valueSlot b (if hit 0 then 0 else 1)) with
          | some w => .ok (some w)
          | none => miss (va + 8 * (valueSlot b (if hit 0 then 0 else 1) + 1)) 8
        else if ovhead ctrl == 0 then .ok none
        else match objSlot s va 2 with
          | none => miss (va + 24) 8
          | some ow =>
            let v := valOf (healMoved s ow)
            if tagOf ow != 0x11 || !addressFormatOk ow then .error ⟨stMemory, 0, 0⟩ else
            match spaceWord s 5 (heapSpace s) v with
            | none => miss v 8
            | some vh =>
              if headerMalformed vh || !headerFits 0x11 vh then .error ⟨stMemory, 0, 0⟩
              else lookChain s v ((hdrLength vh - 1) / 4) k0 k1 ((hdrLength vh - 1) / 4 + 1) (ovhead ctrl)

/-- A value as the host sees it: a pointer's tag alone. -/
def hostValue (w : Word) : Word := if isPointerTag (tagOf w) then mkWord (tagOf w) 0 else w

/-- QUERY. -/
def execQuery (r : Fin 64) (s : State) : Out := .next (
  match frontOf s r.val 4 with
  | none => s
  | some f =>
    let q := bitsOf (f.words.getD 2 0) 15 0
    match tableSlot s 2 q with
    | .error (st, x) => finish x r.val st (detailOf st q) 0 0
    | .ok (w, s1) =>
      if tagOf w != 0x14 then finish s1 r.val stNoEndpoint q 0 0 else
      let s1 := touchEdge s1 5 (heapSpace s1) (valOf w) 16
      match hostLook (drainAll s1) (valOf w) (f.words.getD 3 0) (f.words.getD 4 0) with
      | .error e => finish (ringMiss s1 e.va e.n) r.val e.status (detailOf e.status q) 0 0
      | .ok (some v) => finish s1 r.val 0 0 (hostValue v) 1
      | .ok none => finish s1 r.val 0 0 unbound 0)

/-! ### SNAPSHOT, ATTEST, PATCH, CONTROL -/

/-- SNAPSHOT: the write of CFG_CREST that it stands for. -/
def execSnapshot (r : Fin 64) (s : State) : Out := .next (
  match frontOf s r.val 5 with
  | none => s
  | some f =>
    let p := f.words.getD 2 0
    let k := bitsOf p 2 0
    let v : Word := BitVec.ofNat 64 ((if bitOf p 8 then 2 ^ 62 else 2 ^ 63) + k * 2 ^ 55)
    let s1 := writeCrest s ⟨.host, .full, v⟩
    let code := s1.fld .cfgCrest 0 47 40
    let ok := code ≤ 1
    finish s1 r.val (if ok then 0 else stRefused) (if ok then 0 else code)
      (if ok then BitVec.ofNat 64 (s1.fld .cfgSnap k 15 0) else 0) 0)

/-- HOST_ATTEST: the report and its hybrid signature, 5,467 bytes. -/
def execHostAttest (r : Fin 64) (s : State) : Out := .next (
  match frontOf s r.val 6 with
  | none => s
  | some f =>
    if !cragUp s || engineQuiet s then s else
    let p := f.words.getD 2 0
    let nonce := (((f.words.drop 3).take 4).map bytesOfWord).flatten.take (bitsOf p 5 0)
    if bitsOf p 63 32 < 5467 then finish s r.val stRange 0 0 0
    else
      let report := reportBytes s nonce
      let (sig, s1) := signWith s 1 4 report
      finish (sendHost s1 (f.words.getD 7 0).toNat (report ++ sig)) r.val 0 0 5467 0)

/-- The slot that is not running or preferred takes a verified image (R505, R511). -/
def installImage (s : State) (kind : Nat) (img : List Byte) : State :=
  if kind == 1 then
    let slot := if inSaddle s then 1 - s.fld .basBootsel 0 1 1 else 1 - s.fld .basBoot 0 52 52
    programFlash s (cragSlotBase slot) img
  else if inSaddle s then
    let slot := 1 - s.fld .basBootsel 0 0 0
    (programFlash s (bootSlotBase slot) img).setF .basBootsel 0 0 0 slot
  else programFlash s (bootSlotBase (1 - s.fld .basBoot 0 53 53)) img

/-- Crag's verification and installation (R259, R511): RESULT0, or Crag's status. -/
def performPatch (s : State) (kind tile : Nat) (img : List Byte) : Except Nat (Nat × State) :=
  if kind == 0 then
    match loadable tile img true s with
    | .ok (w, s1) => .ok ((heapPa s1 (valOf w)).getD 0, s1)
    | .error e => .error e.1
  else
    let room := if kind == 1 then cragSlotSize else bootSlotSize
    match (if room < img.length then some .shape
           else if kind == 1 then cragImageFault s img else bootImageFault s img) with
    | some f => .error (imageStatus f)
    | none => .ok (0, installImage s kind img)

/-- PATCH. -/
def execPatch (r : Fin 64) (h : HostBytes) (s : State) : Out := .next (
  match frontOf s r.val 7 with
  | none => s
  | some f =>
    if !cragUp s || engineQuiet s then s else
    match gathered s f h with
    | .error t => ringError s r.val (if t then 1 else 2) (some (f.words.getD 0 0))
    | .ok img =>
      match performPatch s (bitsOf (f.words.getD 2 0) 1 0) 0 img with
      | .ok (v, s1) => finish s1 r.val 0 0 (BitVec.ofNat 64 v) 0
      | .error e =>
        if e == sHeapFull then finish (engineHeapFull s 0) r.val stHeapFull 0 0 0
        else finish s r.val stRefused e 0 0)

def controlSub (f : Fetched) : Nat := bitsOf (f.words.getD 2 0) 7 0

/-- CONTROL_NOP. -/
def execControlNop (r : Fin 64) (s : State) : Out := .next (
  match frontOf s r.val 8 with
  | some f => if controlSub f == 0 then finish s r.val 0 0 0 0 else s
  | none => s)

/-- CONTROL_TIME. -/
def execControlTime (r : Fin 64) (s : State) : Out := .next (
  match frontOf s r.val 8 with
  | some f => if controlSub f == 1 then finish s r.val 0 0 (timeWord s) 0 else s
  | none => s)

/-- CONTROL_DRAIN: once every descriptor fetched earlier, of any ring, has completed. -/
def execControlDrain (r : Fin 64) (s : State) : Out := .next (
  match frontOf s r.val 8 with
  | some f =>
    let earlier := s.hre.rings.any (fun e => e.2.fetched.any (fun g => g.order < f.order))
      || s.hre.entries.any (fun e => e.sq.isSome)
    if controlSub f == 2 && !earlier then finish s r.val 0 0 0 0 else s
  | none => s)

/-! ### Notifications (R445) -/

/-- NOTIFICATION: the oldest word of the notify mailbox. -/
def execNotification (s : State) : Out := .next (
  if !engineOn s || !s.flag .hreDevtab 3 63 || !hasSlot s .hre || (engineQuiet s && 4096 ≤ s.hre.entries.length)
    || (!engineQuiet s && s.hre.entries.any (fun e => e.sq.isNone)) then s else
  match takeMessage s (heapSpace s) 5 (s.fld .hreDevtab 3 46 4 * 16) with
  | none => missedMessage s (heapSpace s) 5 (s.fld .hreDevtab 3 46 4 * 16)
  | some (w, s1) =>
    let c := bitsOf w 55 50
    if !isFix w || bitsOf w 49 48 != 0 || !cqEnabled s1 c then s1.setF .hreStat 0 0 0 1
    else postEntry s1 ⟨c, none, [BitVec.ofNat 64 (bitsOf w 47 0), 0, 0, entryWord3 0 0 0 0]⟩)

/-! ### Interrupt events -/

/-- CQ_HOLDOFF_EXPIRY. -/
def execCqHoldoffExpiry (c : Fin 64) (s : State) : Out := .next (
  if 0 < (s.cq c.val).unann then interruptDue s c.val else s)

/-- Pending vectors that are no longer masked are sent (R446). -/
def sendPending (s : State) : State :=
  if engineQuiet s then s else
  s.pcie.pba.foldl (fun x c =>
    if vectorMasked x c then x else sendMsix { x with pcie := { x.pcie with pba := eraseNat x.pcie.pba c } } c) s

/-- MSIX_UNMASK. -/
def execMsixUnmask (m : MsixWrite) (s : State) : Out := .next (
  match m with
  | .entry c addr data masked =>
    sendPending { s with pcie := { s.pcie with msix := Tbl.putD s.pcie.msix MsixEntry.empty c.val ⟨addr, data, masked⟩ } }
  | .control on masked => sendPending { s with pcie := { s.pcie with msixOn := on, msixMasked := masked } })

/-! ### Failures of host reads (R430, R440) -/

/-- The failure reaches its reader. -/
def failReader (s : State) (t : Bool) : HostReader → State
  | .doorbell => (enabledRings s).foldl (fun x r => ringError x r (if t then 1 else 2) none) s
  | .descriptor r =>
    let q := s.ring r.val
    if !sqRunning s r.val || countDiff q.tail (sqHead s r.val) ≤ q.fetched.length then s
    else
      let s1 := s.setRing r.val { q with fetched := q.fetched ++ [⟨s.hre.order, [], [], .failed t⟩] }
      settleRing 17 { s1 with hre := { s1.hre with order := s1.hre.order + 1 } } r.val
  | .segment r =>
    match (s.ring r.val).fetched with
    | f :: _ =>
      let op := bitsOf (f.words.getD 0 0) 7 0
      if f.ends == .ready && (op == 2 || op == 7) && (s.ring r.val).posting.isNone then
        ringError s r.val (if t then 1 else 2) (some (f.words.getD 0 0)) else s
    | [] => s
  | .channel n =>
    let c := s.chan n.val
    if chState s n.val == chRunning && c.raw && c.skind == 3 && c.rd < c.granted then
      beginAbort s n.val 10 (((c.saddr : Int) + c.walkS c.rd).toNat)
    else s

/-- HOST_READ_FAILURE. -/
def execHostReadFailure (r : HostReader) (timeout : Bool) (s : State) : Out := .next (
  failReader s (timeout || !s.pcie.link) r)

/-- LINK_DOWN: every read outstanding fails as a timeout would. -/
def execLinkDown (outstanding : List HostReader) (s : State) : Out := .next (
  outstanding.foldl (fun x r => failReader x true r) { s with pcie := { s.pcie with link := false, l1 := false } })

/-- LINK_UP: not while a reset holds the device or the PCIe reference is out. -/
def execLinkUp (s : State) : Out := .next (
  if s.base.held.isEmpty && !s.board.outside.contains 2 then { s with pcie := { s.pcie with link := true, l1 := false } }
  else s)

/-- LINK_L1_ENTRY (R427). -/
def execLinkL1Entry (s : State) : Out := .next (
  if s.pcie.link then { s with pcie := { s.pcie with l1 := true } } else s)

/-! ### Writes of HRE_ registers (R448) -/

/-- HRE_SQBASEs is kept unless its ring is DISABLED. -/
def writeSqbase (s : State) (r : Nat) (w : SetupWrite) : State :=
  if sqState s r == 0 then storeSetup s .hreSqbase r w else s

def log2Ok (n : Nat) : Bool := 4 ≤ n && n ≤ 16

/-- A ring returns to DISABLED; a message on its way is waited for (R448). -/
def resetRing (s : State) (r : Nat) : State :=
  if sqRunning s r && (s.ring r).posting.isSome then
    s.setRing r { s.ring r with resetting := true, fetched := (s.ring r).fetched.take 1 }
  else
    let s1 := { s with hre := { s.hre with entries :=
      if (s.hre.entries.any (fun e => e.sq == some r)) && sqRunning s r then s.hre.entries.filter (fun e => e.sq != some r)
      else s.hre.entries } }
    (s1.setF .hreSqstat r 63 62 0).setRing r Ring.empty

/-- The start of a DISABLED ring, or its refusal. -/
def startRing (s : State) (r : Nat) (log2 : Nat) : State :=
  let c := boundCq s r
  if !cqEnabled s c || !log2Ok log2 || !windowHolds s (s.fld .hreSqbase r 63 12 * 4096) (64 * sqSize s r)
      || !windowHolds s (s.fld .hreCqbase c 63 12 * 4096) (32 * cqSize s c) then s.setF .hreSqstat r 55 48 7
  else (s.setR .hreSqstat r (withBits (withBits (s.reg .hreSqstat r) 63 62 1) 31 0 0)).setRing r Ring.empty

/-- A write of HRE_SQCFGs: fields as their definitions allow them, EN, then RESET (R550). -/
def writeSqcfg (s : State) (r : Nat) (w : SetupWrite) : State :=
  let off := sqState s r == 0
  let s1 := storeSetup s .hreSqcfg r w fun old new =>
    let a := keepField off 53 48 old new
    let b := keepField (bitsOf a 39 32 != 0) 39 32 old a
    keepField (off && log2Ok (bitsOf b 4 0)) 4 0 old b
  let log2 := if w.part == .high then s1.fld .hreSqcfg r 4 0 else wfld w 4 0
  let s2 := if acts w 63 && off then startRing s1 r log2 else s1
  if acts w 62 then resetRing s2 r else s2

/-- SQ_ENABLE. -/
def execSqEnable (r : Fin 64) (w : SetupWrite) (s : State) : Out := .next (
  if acts w 63 && mayReach s w.agent .hreSqcfg r.val then writeSqcfg s r.val w else s)

/-- SQ_RESET. -/
def execSqReset (r : Fin 64) (w : SetupWrite) (s : State) : Out := .next (
  if acts w 62 && mayReach s w.agent .hreSqcfg r.val then writeSqcfg s r.val w else s)

/-- A write of HRE_CQCFGc. A ring put into use starts with no entry written (log 35). -/
def writeCqcfg (s : State) (c : Nat) (w : SetupWrite) : State :=
  let was := cqEnabled s c
  let s1 := storeSetup s .hreCqcfg c w fun old new =>
    let a := keepField (bitsOf new 15 8 != 0) 15 8 old new
    keepField (!was && log2Ok (bitsOf a 4 0)) 4 0 old a
  if !was && cqEnabled s1 c then s1.setCq c CqRing.empty
  else if was && !cqEnabled s1 c then (boundRings s c).foldl (fun x r => ringError x r 6 none) s1
  else s1

/-- CQ_DISABLE. -/
def execCqDisable (c : Fin 64) (w : SetupWrite) (s : State) : Out := .next (
  if w.part != .low && !acts w 63 && mayReach s w.agent .hreCqcfg c.val then writeCqcfg s c.val w else s)

/-- A write of HRE_CTL: EN is ignored before the Operational state or Saddle mode (R431, R496). -/
def writeHreCtl (s : State) (w : SetupWrite) : State :=
  let allowed := bootState s == 7 || bootState s == 8
  let s1 := storeSetup s .hreCtl 0 w fun old new =>
    let hi := bitsOf new 47 32
    let a := keepField (1 ≤ hi && hi ≤ 256) 47 32 old new
    let lo := bitsOf a 31 16
    let b := keepField (1 ≤ lo && lo ≤ bitsOf a 47 32) 31 16 old a
    keepField (allowed || !bitOf b 63) 63 63 old b
  if s1.flag .hreCtl 0 63 && !s.flag .hreCtl 0 63 then setInterval s1 (s1.fld .hreCtl 0 31 16) else s1

/-- HRE_ENABLE. -/
def execHreEnable (w : SetupWrite) (s : State) : Out := .next (
  if acts w 63 && mayReach s w.agent .hreCtl 0 then writeHreCtl s w else s)

/-! ### Function resets and power states (R432, R447) -/

/-- Offsets of the host-visible HRE_ registers. -/
def inHre (off : Nat) : Bool := 0x20000 ≤ off && off < 0x24000 && !(0x20020 ≤ off && off < 0x20040)

/-- The function, the ring engine, every host-visible HRE_ register and the MSI-X table; the link stays as it is. -/
def resetFunction (s : State) : State :=
  { s with
    setup := s.setup.filter (fun e => !inHre e.1)
    hre := State.reset.hre
    pcie := { State.reset.pcie with link := s.pcie.link } }

/-- FUNCTION_LEVEL_RESET: FLRCNT alone is kept, and counts it (R432, R551). -/
def execFunctionLevelReset (s : State) : Out := .next (
  let s1 := (resetFunction s).setF .hreStat 0 47 32 (s.fld .hreStat 0 47 32)
  s1.setR .hreStat 0 (satInc (s1.reg .hreStat) 47 32))

/-- D3HOT_ENTRY, with the PME_En that the host has set. -/
def execD3hotEntry (pme : Bool) (s : State) : Out := .next
  { s with pcie := { s.pcie with
      d3 := true, pmeEn := pme, pme := pme && (!s.hre.entries.isEmpty || !s.pcie.due.isEmpty) } }

/-- D0_RETURN: the function is in D0 with Bus Master Enable as given; the entries held are written, then the
interrupts that are due are sent. -/
def execD0Return (bme : Bool) (s : State) : Out := .next (
  let s1 := { s with pcie := { s.pcie with d3 := false, bme := bme, pme := if bme then false else s.pcie.pme } }
  if !bme then s1 else
  let due := s1.pcie.due
  let s2 := proceed { s1 with pcie := { s1.pcie with due := [] } }
  sendPending (due.foldl deliverInterrupt s2))

end Sys2Proof.Machine
end

