-- ==== Sys2Proof/Machine/Field.lean ====
section
/-! DEFINITION. The field ports: modes, receiving, steering, sending, MACsec SAs, counters and the PTP clock
(R468 to R476, R490). -/

namespace Sys2Proof.Machine

open Sys2Proof

/-! ### Ports -/

def portEnabled (s : State) (p : Nat) : Bool := s.flag .netPcfg p 63
def portUp (s : State) (p : Nat) : Bool := s.net.up.contains p && portEnabled s p && s.online (uPort p)

/-- EVSRC of a port, when it names a source (NET_PCFGp). -/
def portEvent (s : State) (p : Nat) : State :=
  let n := s.fld .netPcfg p 57 48
  if 256 ≤ n && n ≤ 767 then pulse s n else s

def countFecunc (s : State) (p : Nat) : State := s.setR .netPcnt p (satInc (s.reg .netPcnt p) 62 48)
def countFcserr (s : State) (p : Nat) : State := s.setR .netPcnt p (satInc (s.reg .netPcnt p) 47 32)
def countSecfail (s : State) (p : Nat) : State := s.setR .netPcnt p (satInc (s.reg .netPcnt p) 31 16)

/-! ### What a frame is (R469, R471) -/

def be (bs : List Byte) (off n : Nat) : Nat := ofBytesBE ((bs.drop off).take n)

/-- The place of the EtherType after VLAN tags; fuel bounds their number. -/
def typeOffset (bs : List Byte) : Nat → Nat → Nat
  | 0, off => off
  | n + 1, off => if be bs off 2 == 0x8100 || be bs off 2 == 0x88A8 then typeOffset bs n (off + 4) else off

def etherType (bs : List Byte) : Nat := be bs (typeOffset bs 4 12) 2

/-- The outer VLAN ID, 0 without a tag (log 28). -/
def outerVlan (bs : List Byte) : Nat := if typeOffset bs 4 12 == 12 then 0 else be bs 14 2 % 4096

/-- The TCP or UDP flow of an IPv4 or IPv6 frame: addresses, protocol, ports, as bytes in frame order. -/
def ipFlow (bs : List Byte) : Option (Nat × List Byte × List Byte) :=
  let o := typeOffset bs 4 12 + 2
  let part := fun (i n : Nat) => (bs.drop (o + i)).take n
  if etherType bs == 0x0800 then
    let proto := be bs (o + 9) 1
    let l := be bs o 1 % 16 * 4
    if proto == 6 || proto == 17 then some (proto, part 12 8, part l 4) else none
  else if etherType bs == 0x86DD then
    let proto := be bs (o + 6) 1
    if proto == 6 || proto == 17 then some (proto, part 8 32, part 40 4) else none
  else none

def isEapol (bs : List Byte) : Bool := etherType bs == 0x888E

/-- PTP over Ethernet, and over UDP on ports 319 and 320. -/
def isPtp (bs : List Byte) : Bool :=
  etherType bs == 0x88F7 ||
  match ipFlow bs with
  | some (17, _, ports) => be ports 2 2 == 319 || be ports 2 2 == 320
  | _ => false

def isMacControl (bs : List Byte) : Bool := etherType bs == 0x8808

/-- The flow key of R471. -/
def flowKey (bs : List Byte) : List Byte :=
  match ipFlow bs with
  | some (proto, addrs, ports) => addrs ++ [BitVec.ofNat 8 proto] ++ ports
  | none => bs.take 12 ++ (toBytes 2 (outerVlan bs)).reverse ++ (toBytes 2 (etherType bs)).reverse

/-- The queue of a frame. -/
def steer (s : State) (p : Nat) (bs : List Byte) : Nat :=
  if isEapol bs || isPtp bs then s.fld .netPcfg p 38 33
  else s.fld .netPcfg p 47 42 + crcOf (flowKey bs) % 2 ^ s.fld .netPcfg p 41 39

/-! ### FRAME_RECEIVE (R470 to R473) -/

def ingressBytes (s : State) (q : Nat) : Nat := (Tbl.getD s.ingress [] q).foldl (fun a f => a + f.bytes.length) 0

/-- The MACsec check: the SA, the replay window, the ICV; none where the frame fails. A frame with a SecTAG on a port whose
MACSEC is 0 passes unchecked, its SecTAG and ICV already off: of such a frame the manual says nothing (DESIGN CHOICE,
log 28). -/
def macsecReceive (s : State) (p : Nat) (f : RxFrame) : Option State :=
  if !s.flag .netPcfg p 62 then some s else
  match f.sec with
  | none => if isEapol f.bytes then some s else none
  | some t =>
    let key := saKey 0 p t.sc.val t.an.val
    match Tbl.get? s.net.sas key with
    | none => none
    | some a =>
      if t.pn + s.fld .netPcfg p 29 0 < a.pn || !t.icv then none
      else some { s with net := { s.net with sas := Tbl.put s.net.sas key { a with pn := max a.pn (t.pn + 1) } } }

/-- The steering of a frame that passes every check: a queue of 32 KiB, with the source of its entry. -/
def enqueueFrame (s : State) (p : Nat) (f : RxFrame) : State :=
  let q := steer s p f.bytes % 64
  if 32768 < ingressBytes s q + f.bytes.length then countDrop s p
  else
    let (stamp, s1) := if s.flag .netPcfg p 61 then (mkWord 6 f.stamp.toNat, s)
      else ((mkWord 6 (takeFree s).1.toNat), (takeFree s).2)
    pulse { s1 with ingress := Tbl.put s1.ingress q (Tbl.getD s1.ingress [] q ++ [⟨f.bytes, stamp⟩]) } q

/-- FRAME_RECEIVE. -/
def execFrameReceive (p : Fin 8) (f : RxFrame) (s : State) : Out := .next (
  if !portUp s p.val then s
  else
    let s1 := if f.fec then s else countFecunc s p.val
    if !f.fec || !f.fcs then countFcserr s1 p.val
    else if f.wire < 64 || 9216 < f.wire || isMacControl f.bytes then countDrop s1 p.val
    else match macsecReceive s1 p.val f with
      | none => countSecfail s1 p.val
      | some s2 => enqueueFrame s2 p.val f)

/-! ### FRAME_TRANSMIT (R474 to R476) -/

/-- The next queue of a port in its round. -/
def nextQueue (s : State) (p : Nat) : Option Nat :=
  let last := Tbl.getD s.net.last 63 p
  ((List.range 64).map (fun i => (last + 1 + i) % 64)).find?
    (fun q => s.fld .netEqcfg q 2 0 == p && !(egressFrames s q).isEmpty)

/-- The egress timestamp of a marked frame (R475). -/
def egressStamp (s : State) (q p : Nat) : State :=
  if !s.flag .netEqcfg q 63 || !s.flag .netPcfg p 61 then s
  else if !s.flag .netTsmbox p 63 then countDrop s p
  else match appendReg s .netTsmbox p 4 (timeWord s) with
    | (s1, .posted) => s1
    | _ => countDrop s p

def pad60 (bs : List Byte) : List Byte := bs ++ List.replicate (60 - bs.length) 0

def sendFrame (s : State) (p : Nat) (bs : List Byte) (pn : Option Nat) : State :=
  { s with net := { s.net with sent := s.net.sent ++ [⟨p, pad60 bs, pn⟩] } }

/-- A frame under the port's transmit SA: its PN, and the event at 2^64 - 2^32. -/
def sendProtected (s : State) (q p : Nat) (bs : List Byte) : State :=
  match txSa s p with
  | none => countDrop s p
  | some (an, a) =>
    if 2 ^ 64 ≤ a.pn then countDrop s p
    else
      let s1 := { s with net := { s.net with sas := Tbl.put s.net.sas (saKey 1 p 0 an) { a with pn := a.pn + 1 } } }
      let s2 := sendFrame s1 p bs (some a.pn)
      egressStamp (if a.pn + 1 == 2 ^ 64 - 2 ^ 32 then portEvent s2 p else s2) q p

/-- FRAME_TRANSMIT. -/
def execFrameTransmit (p : Fin 8) (s : State) : Out := .next (
  if !portUp s p.val then s else
  match nextQueue s p.val with
  | none => s
  | some q =>
    match egressFrames s q with
    | [] => s
    | bs :: rest =>
      let s1 := { s with egress := Tbl.putD s.egress [] q rest
                         net := { s.net with last := Tbl.put s.net.last p.val q } }
      if isProtected s1 q p.val then sendProtected s1 q p.val bs
      else egressStamp (sendFrame s1 p.val bs none) q p.val)

/-! ### Links and modes (R468, R474, R490) -/

/-- The state of a port in its entry (R39): not configured, offline while its link is down, online. -/
def portState (s : State) (p : Nat) : Nat :=
  if !portConfigured (portMode s p) p then stNotConfigured
  else if s.net.up.contains p && portEnabled s p then stOnline else stOffline

/-- Ports whose entry reads otherwise than in an earlier state are published, once the change has taken effect: state,
mode, lanes, MACSEC and PTP (R38, R42). -/
def settlePorts (old s : State) : State :=
  (List.range 8).foldl (fun x p =>
    let st := portState x p
    if x.unit (uPort p) == st && fieldEntry x p == fieldEntry old p then x else publishUnit x (uPort p) st 7 p 3) s

/-- A port that a register write takes out of service is published as draining before it stops (R42). -/
def drainPort (s : State) (p : Nat) : State :=
  if s.unit (uPort p) == stOnline then publishUnit s (uPort p) stDraining 7 p 3 else s

def downPort (s : State) (p : Nat) : State := { s with net := { s.net with up := eraseNat s.net.up p } }

/-- FIELD_LINK_CHANGE. -/
def execFieldLinkChange (p : Fin 8) (up : Bool) (s : State) : Out := .next (
  if up == s.net.up.contains p.val || !portConfigured (portMode s p.val) p.val
    || (up && (!portEnabled s p.val || s.board.outside.contains 1 || inSaddle s || bootState s < 4)) then s
  else
    let s1 := { s with net := { s.net with
      up := if up then insertNat s.net.up p.val else eraseNat s.net.up p.val } }
    portEvent (settlePorts s s1) p.val)

def modeOk (m : Nat) : Bool := m ≤ 3 || m == 15

/-- A write of NET_CFG: a half whose mode changes goes down and retrains (R490). -/
def writeNetCfg (s : State) (w : SetupWrite) : State :=
  let store := fun (x : State) => storeSetup x .netCfg 0 w fun old new =>
    keepField (modeOk (bitsOf new 7 4)) 7 4 old (keepField (modeOk (bitsOf new 3 0)) 3 0 old new)
  let down := (List.range 8).filter (fun p => portMode s p != portMode (store s) p)
  settlePorts s (down.foldl (fun x p => if x.net.up.contains p then portEvent (downPort x p) p else x)
    (store (down.foldl drainPort s)))

/-- MODE_CHANGE. -/
def execModeChange (w : SetupWrite) (s : State) : Out := .next (
  if mayReach s w.agent .netCfg 0 then writeNetCfg s w else s)

/-- A write of NET_PCFGp (R471): a port that is disabled goes down; what its entry shows is published (R42). -/
def writePcfg (s : State) (p : Nat) (w : SetupWrite) : State :=
  let store := fun (x : State) => storeSetup x .netPcfg p w fun old new =>
    let a := keepField (bitsOf new 59 58 != 3) 59 58 old new
    let ok := bitsOf a 47 42 + 2 ^ bitsOf a 41 39 - 1 ≤ 63
    keepField ok 47 42 old (keepField ok 41 39 old a)
  if portEnabled (store s) p then settlePorts s (store s) else settlePorts s (downPort (store (drainPort s p)) p)

/-! ### Security associations (R469) -/

/-- NET_SAKEYw takes the data of a write; it reads 0. -/
def writeSakey (s : State) (i : Nat) (w : SetupWrite) : State :=
  let old := Tbl.getD s.net.sakey 0 i
  let m := partMask w.part
  { s with net := { s.net with sakey := Tbl.putD s.net.sakey 0 i ((old &&& ~~~ m) ||| (w.value &&& m)) } }

/-- A write of NET_SACTL: GO installs the SA and zeroes the key registers, or removes it. -/
def writeSactl (s : State) (w : SetupWrite) : State :=
  let s1 := storeSetup s .netSactl 0 w
  if !acts w 63 then s1 else
  let f := fun (hi lo : Nat) => s1.fld .netSactl 0 hi lo
  let key := saKey (f 62 62) (f 61 59) (f 58 55) (f 54 53)
  if f 52 52 == 1 then { s1 with net := { s1.net with sas := Tbl.del s1.net.sas key } }
  else
    let words := (List.range 8).map (fun i => Tbl.getD s1.net.sakey 0 i)
    { s1 with net := { s1.net with
        sas := Tbl.put s1.net.sas key ⟨words, (words.getD 7 0).toNat⟩
        sakey := [] } }

/-- The REMOVE bit that a write gives. -/
def removes (s : State) (w : SetupWrite) : Bool := bitOf (written s .netSactl 0 w) 52

/-- SA_INSTALL. -/
def execSaInstall (w : SetupWrite) (s : State) : Out := .next (
  if acts w 63 && !removes s w && mayReach s w.agent .netSactl 0 then writeSactl s w else s)

/-- SA_REMOVE. -/
def execSaRemove (w : SetupWrite) (s : State) : Out := .next (
  if acts w 63 && removes s w && mayReach s w.agent .netSactl 0 then writeSactl s w else s)

/-! ### Counters and the clock -/

/-- A write of NET_PCNTp: CLEAR clears every counter. -/
def writePcnt (s : State) (p : Nat) (w : SetupWrite) : State := if acts w 63 then s.setR .netPcnt p 0 else s

/-- PCNT_CLEAR. -/
def execPcntClear (p : Fin 8) (w : SetupWrite) (s : State) : Out := .next (
  if acts w 63 && mayReach s w.agent .netPcnt p.val then writePcnt s p.val w else s)

/-- A write of NET_PHCADJ: STEP adds OFFSET to TIME (R473). -/
def writePhcadj (s : State) (w : SetupWrite) : State :=
  let s1 := storeSetup s .netPhcadj 0 w
  if acts w 63 then
    s1.setR .netPhc 0 (BitVec.ofInt 64 ((s1.reg .netPhc).toNat + signed 31 (s1.fld .netPhcadj 0 62 32))) else s1

/-- PHC_STEP. -/
def execPhcStep (w : SetupWrite) (s : State) : Out := .next (
  if acts w 63 && mayReach s w.agent .netPhcadj 0 then writePhcadj s w else s)

/-- One nanosecond of the Net domain, with the rate correction of NET_PHCADJ.RATE (R473; log 2). -/
def tickPhc (s : State) : State :=
  let total : Int := (s.net.frac : Int) + 2 ^ 32 + signed 32 (s.fld .netPhcadj 0 31 0)
  let s1 := { s with net := { s.net with frac := (total % 2 ^ 32).toNat } }
  s1.setR .netPhc 0 (BitVec.ofInt 64 ((s1.reg .netPhc).toNat + total / 2 ^ 32))

end Sys2Proof.Machine
end

