-- ==== Sys2Proof/Machine/Ridge.lean ====
section
/-! DEFINITION. The Ridge ports and the Range: the roster, routing, framing, session keys, remote requests and
their service, and the Range-wide operations (R462, R477 to R490, R557). -/

namespace Sys2Proof.Machine

open Sys2Proof

/-! ### The roster (R481) -/

def torusSize (n : Nat) : Bool := n == 1 || n == 2 || n == 4 || n == 8

/-- X, Y and the own number that a roster's payload gives. -/
def rosterPayload (bs : List Byte) : Option (Nat × Nat × Nat) :=
  let x := le bs 8 1
  let y := le bs 9 1
  if bs.take 8 != ascii "ECRANGE1" || !torusSize x || !torusSize y || x < y || le bs 10 6 != 0
    || bs.length < 16 + 48 * (x * y) then none
  else match (List.range (x * y)).find? (fun r => (bs.drop (16 + 48 * r)).take 48 == fingerprint) with
    | some r => some (x, y, r)
    | none => none

/-- The payload of the sealed vector that CRG_ROSTER names, when slot 0x0021 signed it. -/
def rosterBytes (s : State) : Option (List Byte) :=
  if !s.flag .crgRoster 0 63 then none else
  let w := mkWord 0x19 (s.fld .crgRoster 0 46 4 * 16)
  let read : CragM (Option (List Byte)) := do
    let h ← headerM w
    let word1 ← wordM (valOf w + 8)
    let good ← checkSealed w
    let payload ← bytesAtM (valOf w + payloadOffset h) (hdrLength h)
    return if good && bitsOf word1 15 0 == 0x21 then some payload else none
  match read s with
  | .ok (r, _) => r
  | .error _ => none

def rosterOf (s : State) : Option (Nat × Nat × Nat) := (rosterBytes s).bind rosterPayload

/-- The number of a fingerprint in the roster. -/
def rosterIndex (s : State) (print : List Byte) : Option Nat :=
  match rosterBytes s, rosterOf s with
  | some bs, some (x, y, _) => (List.range (x * y)).find? (fun r => (bs.drop (16 + 48 * r)).take 48 == print)
  | _, _ => none

/-! ### Ports -/

def RidgePort.empty : RidgePort := ⟨0, 0, [], 0, false, none, 0, 0⟩
def State.rport (s : State) (p : Nat) : RidgePort := Tbl.getD s.ridge.ports RidgePort.empty p
def State.setRport (s : State) (p : Nat) (x : RidgePort) : State :=
  { s with ridge := { s.ridge with ports := Tbl.putD s.ridge.ports RidgePort.empty p x } }

def rangeX (s : State) : Nat := s.fld .rdgRange 0 7 0
def rangeY (s : State) : Nat := s.fld .rdgRange 0 15 8
def rangeSelf (s : State) : Nat := s.fld .rdgRange 0 21 16

def rdgState (s : State) (p : Nat) : Nat := s.fld .rdgStat p 63 62
def ridgeUp (s : State) (p : Nat) : Bool := 2 ≤ rdgState s p
def setBroken (s : State) : State := s.setF .rdgRange 0 61 61 1

/-- A change of state or width of a port: its source, and the entry's publication (R489). The entry's states are those of
R557's table: it never reads draining. -/
def ridgeChanged (s : State) (p u : Nat) : State := pulse (publishUnit s (uRidge p) u 8 p 3) (248 + p)

/-! ### Routing (R480, R482) -/

/-- The port that follows from a dimension: its first port (0 or 2), the size, the own place, the target's place,
the port the message came from, and which of two ports to one peer is next. -/
def routeIn (s : State) (first n own dst ingress : Nat) (turn : Bool) : Option Nat :=
  let d := (dst + n - own) % n
  let either := fun (a b : Nat) => if ridgeUp s a then some a else if ridgeUp s b then some b else none
  if n == 2 then (if turn then either (first + 1) first else either first (first + 1))
  else if ingress == first + 1 then either first (first + 1)
  else if ingress == first then either (first + 1) first
  else if 2 * d ≤ n then either first (first + 1)
  else either (first + 1) first

/-- The port toward a Range number: x first, then y. -/
def routeTo (s : State) (dst ingress : Nat) : Option Nat :=
  let x := rangeX s
  let r := rangeSelf s
  if x * rangeY s ≤ dst then none
  else if dst % x != r % x then routeIn s 0 x (r % x) (dst % x) ingress s.ridge.turnX
  else if dst / x != r / x then routeIn s 2 (rangeY s) (r / x) (dst / x) ingress s.ridge.turnY
  else none

/-- A frame leaves through a port; traffic over two ports to one peer alternates. -/
def sendVia (s : State) (p : Nat) (f : RidgeFrame) : State :=
  let k := s.rport p
  let s1 := s.setRport p { k with
    tx := (k.tx + 1) % 65536, unacked := k.unacked ++ [⟨k.tx, f, 0⟩], frames := k.frames + 1 }
  if p < 2 then (if rangeX s == 2 then { s1 with ridge := { s1.ridge with turnX := !s1.ridge.turnX } } else s1)
  else (if rangeY s == 2 then { s1 with ridge := { s1.ridge with turnY := !s1.ridge.turnY } } else s1)

/-- The sender holds up to 512 frames. -/
def portRoom (s : State) (p : Nat) : Bool := decide ((s.rport p).unacked.length < 512)

/-! ### Remote requests of this device (R483 to R485) -/

def rsTag : Nat := 2
def rsTarget : Nat := 3
def rsObject : Nat := 4
def rsMemory : Nat := 5
def rsUnreachable : Nat := 6
def rsMboxFull : Nat := 7
def rsHeapFull : Nat := 8

/-- The end of an own request. -/
def endRemote (s : State) (o : RemoteOp) (status : Nat) (result : Option Word) : State :=
  let s1 := { s with ridge := { s.ridge with own := s.ridge.own.filter (fun x => x.id != o.id) } }
  answerVector s1 7 (valOf (healMoved s1 (mkWord 0x11 o.vector))) result status

def rparam (vec i : Nat) : CragM Word := param vec i 7

def rUnused (vec i : Nat) : CragM Unit := do
  let ws ← (List.range (7 - i)).mapM (fun j => rparam vec (i + j))
  need (ws.all isNil) sFormat

/-- P1: an address at the target; a word's is a multiple of 8. -/
def rAddress (vec : Nat) (words : Bool) : CragM Word := do
  let w ← rparam vec 1
  need (isFix w && valOf w < vaTop && (!words || valOf w % 8 == 0)) sFormat
  return w

/-- A word that a request carries (R484). -/
def rImmediate (vec i : Nat) : CragM Word := do
  let w ← rparam vec i
  need (isImmediateTag (tagOf w)) rsTag
  return w

/-- The local vector of P3 and the span of P4: the address of the first byte and the length. A failure of the
object is OBJECT (log 39). -/
def rLocal (vec : Nat) (output : Bool) : CragM (Nat × Nat) := do
  let w ← rparam vec 3
  let span ← rparam vec 4
  need (tagOf w == 0x12 && isFix span) sFormat
  let off := bitsOf span 55 28
  let n := bitsOf span 27 0
  need (1 ≤ n && n ≤ 256) sFormat
  let h ← headerM w 7
  need (!headerMalformed h && headerFits 0x12 h && !(output && hdrImm h) && off + n ≤ hdrLength h) rsObject
  return (valOf w + payloadOffset h + off, n)

/-- The message of an operation, from its command vector. -/
def remoteMessage (op vec : Nat) : CragM RidgeMsg := do
  match op with
  | 1 =>
    let a ← rAddress vec true
    rUnused vec 2
    return .request op a 0 0 [] 0
  | 2 =>
    let a ← rAddress vec true
    rUnused vec 3
    return .request op a (← rImmediate vec 2) 0 [] 0
  | 3 =>
    let a ← rAddress vec true
    rUnused vec 4
    return .request op a (← rImmediate vec 2) (← rImmediate vec 3) [] 0
  | 4 =>
    let a ← rAddress vec true
    rUnused vec 3
    let x ← rImmediate vec 2
    need (isFix x) sFormat
    return .request op a x 0 [] 0
  | 5 =>
    let a ← rAddress vec false
    let off ← rparam vec 2
    need (isFix off && valOf a % 16 == 0) sFormat
    rUnused vec 5
    let (_, n) ← rLocal vec true
    return .request op a off 0 [] n
  | 6 =>
    let a ← rAddress vec false
    let off ← rparam vec 2
    need (isFix off && valOf a % 16 == 0) sFormat
    rUnused vec 5
    let (va, n) ← rLocal vec false
    return .request op a off 0 (← bytesAtM va n 7) n
  | _ =>
    let a ← rAddress vec false
    need (valOf a % 16 == 0 && isNil (← rparam vec 2)) sFormat
    rUnused vec 5
    let (va, n) ← rLocal vec false
    return .request op a 0 0 (← bytesAtM va n 7) n

/-- The target of P0: another device of the Range. -/
def remoteTarget (s : State) (vec : Nat) : CragM Nat := do
  let w ← rparam vec 0
  need (isFix w && valOf w < 64 && valOf w != rangeSelf s) sFormat
  return valOf w

/-- A request of this device: the oldest message of RDG_MBOX, when its OP is the row's. A message that is no
command vector is discarded, one with an OP of no row ends with FORMAT (log 39). -/
def ridgeRow (op : Nat) (s : State) : State :=
  if !s.flag .rdgMbox 0 63 || !s.base.held.isEmpty then s else
  match takeMessage s (heapSpace s) 7 (s.fld .rdgMbox 0 46 4 * 16) with
  | none => missedMessage s (heapSpace s) 7 (s.fld .rdgMbox 0 46 4 * 16)
  | some (msg0, s0) =>
    let (msg, s1) := trvHeal s0 msg0
    match commandVector s1 7 msg with
    | none => s1
    | some vec =>
      match spaceWord s1 7 (heapSpace s1) (vec + 8) with
      | none => answerVector (meetRead s1 7 (heapSpace s1) (vec + 8) 8) 7 vec none rsMemory
      | some w =>
        if !isFix w || valOf w == 0 || 7 < valOf w then answerVector s1 7 vec none sFormat
        else if valOf w != op then s
        else
          let parsed : CragM (Nat × RidgeMsg) := do
            let dst ← remoteTarget s1 vec
            let m ← remoteMessage op vec
            return (dst, m)
          match parsed s1 with
          | .error (e, left) => answerVector (leave s1 left) 7 vec none e
          | .ok ((dst, m), s2) =>
            match routeTo s2 dst 4 with
            | none => answerVector (setBroken s2) 7 vec none rsUnreachable
            | some p =>
              if !portRoom s2 p then s
              else
                let id := s2.ridge.nextId % (2 ^ 32 - 1) + 1
                let s3 := { s2 with ridge := { s2.ridge with
                  nextId := id, own := s2.ridge.own ++ [⟨id, dst, vec, op⟩] } }
                sendVia s3 p ⟨dst, rangeSelf s, id, m, false⟩

/-- READ_W. -/
def execReadW (s : State) : Out := .next (ridgeRow 1 s)
/-- WRITE_W. -/
def execWriteW (s : State) : Out := .next (ridgeRow 2 s)
/-- CAS_W. -/
def execCasW (s : State) : Out := .next (ridgeRow 3 s)
/-- FADD_W. -/
def execFaddW (s : State) : Out := .next (ridgeRow 4 s)
/-- READ_B. -/
def execReadB (s : State) : Out := .next (ridgeRow 5 s)
/-- WRITE_B. -/
def execWriteB (s : State) : Out := .next (ridgeRow 6 s)
/-- POST. -/
def execPost (s : State) : Out := .next (ridgeRow 7 s)

/-- The reply to an own request: RESULT and STATUS; READ_B first writes its bytes into the local vector. -/
def completeRemote (s : State) (f : RidgeFrame) (status : Nat) (value : Word) (bytes : List Byte) : State :=
  match s.ridge.own.find? (fun o => o.id == f.reqid && o.dst == f.src) with
  | none => s
  | some o =>
    if f.poison then endRemote s o rsMemory none
    else if status != 0 then endRemote s o status none
    else if o.op == 5 then
      let store : CragM Unit := do
        let (va, n) ← rLocal (valOf (healMoved s (mkWord 0x11 o.vector))) true
        writeOut va (bytes.take n) 7
      match store s with
      | .ok ((), s1) => endRemote s1 o 0 (some (fixN bytes.length))
      | .error (e, left) => endRemote (leave s left) o e none
    else if isImmediateTag (tagOf value) then endRemote s o 0 (some value)
    else endRemote s o rsTag none

/-! ### The link (R477 to R479) -/

/-- A frame that lost its port takes the turned route; with none, a request ends with UNREACHABLE: at once when it
is an own one, by a reply when a peer made it (log 39). -/
def routeOrEnd (s : State) (ingress : Nat) (f : RidgeFrame) : State :=
  match routeTo s f.dst ingress with
  | some p => sendVia s p f
  | none =>
    let s1 := setBroken s
    match f.msg with
    | .request .. =>
      if f.src == rangeSelf s then
        match s1.ridge.own.find? (fun o => o.id == f.reqid) with
        | some o => endRemote s1 o rsUnreachable none
        | none => s1
      else match routeTo s1 f.src 4 with
        | some p => sendVia s1 p ⟨f.src, f.dst, f.reqid, .reply rsUnreachable (fixN 0) [], false⟩
        | none => s1
    | _ => s1

/-- A link goes down (R478, R490): its keys go, and what it held goes another way. -/
def linkLost (s : State) (p : Nat) : State :=
  let k := s.rport p
  let s1 := s.setRport p { RidgePort.empty with session := k.session }
  let s2 := s1.setR .rdgStat p (withBits (withBits (s1.reg .rdgStat p) 63 60 0) 15 0 0xFFFF)
  let s3 := { s2 with crag := { s2.crag with volatileKeys := eraseNat (eraseNat s2.crag.volatileKeys (0x38 + 2 * p)) (0x39 + 2 * p) } }
  let u := if s.unit (uRidge p) == stNotConfigured then stNotConfigured else stOffline
  let s4 := pulse (ridgeChanged s3 p u) (252 + p)
  (k.unacked.map (·.frame)).foldl (fun x f => routeOrEnd x 4 f) s4

/-- Frames up to an acknowledged number are released. -/
def releaseAcked (l : List Unacked) (ack : Nat) : List Unacked :=
  if l.any (fun u => u.seq == ack) then (l.dropWhile (fun u => u.seq != ack)).drop 1 else l

/-- Every frame held is sent again, from the oldest; one sent again 64 times takes the link down. -/
def resendAll (s : State) (p : Nat) : State :=
  let k := s.rport p
  let held := k.unacked.map (fun u => { u with resent := u.resent + 1 })
  let s1 := s.setRport p { k with unacked := held }
  let s2 := s1.setR .rdgStat p (held.foldl (fun w _ => satInc w 47 32) (s1.reg .rdgStat p))
  if held.any (fun u => 64 ≤ u.resent) then linkLost s2 p else s2

/-- RIDGE_RESEND_TIMEOUT: a frame has waited 2 us. -/
def execRidgeResendTimeout (p : Fin 4) (s : State) : Out := .next (
  if !ridgeUp s p.val || (s.rport p.val).unacked.isEmpty then s else resendAll s p.val)

/-- A request joins the inbox of its port. -/
def toInbox (s : State) (p : Nat) (f : RidgeFrame) : State :=
  { s with ridge := { s.ridge with inbox := Tbl.putD s.ridge.inbox [] p (Tbl.getD s.ridge.inbox [] p ++ [f]) } }

/-- What an accepted frame does. -/
def acceptFrame (s : State) (p : Nat) (f : RidgeFrame) : State :=
  match f.msg with
  | .linkOnly => s
  | m =>
    if f.dst != rangeSelf s then { s with ridge := { s.ridge with forward := s.ridge.forward ++ [(p, f)] } }
    else match m with
      | .request .. => toInbox s p f
      | .reply status value bytes => completeRemote s f status value bytes
      | .range kind bytes => { s with ridge := { s.ridge with heard := some (kind, bytes) } }
      | .linkOnly => s

/-- RIDGE_FRAME_RECEIVE. A frame that fails FEC or GCM, or arrives out of order, is dropped and answered by a
negative acknowledgement. A link-only frame takes no number (log 39). -/
def execRidgeFrameReceive (p : Fin 4) (f : RidgeRx) (s : State) : Out := .next (
  let k := s.rport p.val
  if !ridgeUp s p.val then s
  else if !f.fec then s.setRport p.val { k with nack := true }
  else if !f.gcm then
    let s1 := s.setRport p.val { k with nack := true, badRow := k.badRow + 1 }
    let s2 := pulse (s1.setR .rdgStat p.val (satInc (s1.reg .rdgStat p.val) 31 16)) (252 + p.val)
    if 16 ≤ k.badRow + 1 then tamper (linkLost s2 p.val) 10 else s2
  else if f.msg != .linkOnly && f.seq.toNat != k.rx then s.setRport p.val { k with nack := true, badRow := 0 }
  else
    let next := if f.msg == .linkOnly then k.rx else (k.rx + 1) % 65536
    let s1 := s.setRport p.val { k with
      rx := next, badRow := 0, nack := false, unacked := releaseAcked k.unacked f.ack.toNat }
    let s2 := if f.nack then resendAll s1 p.val else s1
    acceptFrame s2 p.val ⟨f.dst.toNat, f.src.toNat, f.reqid.toNat, f.msg, f.poison⟩)

/-- RIDGE_FORWARD: the oldest message that waits goes on toward its target. -/
def execRidgeForward (s : State) : Out := .next (
  match s.ridge.forward with
  | [] => s
  | (ingress, f) :: rest =>
    let s1 := { s with ridge := { s.ridge with forward := rest } }
    match routeTo s f.dst ingress with
    | some p => if portRoom s p then sendVia s1 p f else s
    | none => routeOrEnd s1 ingress f)

/-! ### Service of a peer's request (R484) -/

/-- The access of n bytes at the target: TARGET for a fault, a read-only space, a unit that is not online, the device
region or the host window; MEMORY_ERROR for poison. -/
def peerAccess (s : State) (va n : Nat) (write byteAcc : Bool) : Option Nat :=
  let space := s.fld .rdgCfg 0 51 40
  let one := fun (a : Nat) => match trvXlat s 7 space a write byteAcc with
    | .error _ => some rsTarget
    | .ok pa => if !accessible s pa then some rsTarget else none
  match one va, one (va + n - 1) with
  | some e, _ => some e
  | _, some e => some e
  | none, none => match trvRead s 7 space byteAcc va n with
    | .ok _ => none
    | .error e => some (if e == 9 then rsMemory else rsTarget)

abbrev PeerM := Except Nat

def peerNeed (ok : Bool) (code : Nat) : PeerM Unit := if ok then .ok () else .error code

def peerAllowed (s : State) (va n : Nat) (write byteAcc : Bool) : PeerM Unit :=
  match peerAccess s va n write byteAcc with
  | some e => .error e
  | none => .ok ()

/-- A word operation: the word that it writes, if any, from the old one. -/
def peerWord (s : State) (va : Nat) (write : Bool) (f : Word → PeerM (Option Word)) : PeerM (Word × State) := do
  let space := s.fld .rdgCfg 0 51 40
  peerNeed (va < vaTop && va % 8 == 0) sFormat
  peerAllowed s va 8 write false
  let old ← (trvWord s 7 space va).mapError (fun _ => rsMemory)
  let s0 := touchEdge s 7 space va 8
  match ← f old with
  | none => return (old, s0)
  | some w =>
    peerNeed (mayOverwrite old w) rsObject
    match masterWrite (logAtEngine s0 old) space 7 true va (bytesOfWord w) with
    | .ok s1 => return (old, s1)
    | .error _ => throw rsMemory

/-- A pinned byte vector, and the place of n bytes of its payload. -/
def peerBytes (s : State) (va off n : Nat) (write : Bool) : PeerM Nat := do
  let space := s.fld .rdgCfg 0 51 40
  peerNeed (va < vaTop && va % 16 == 0) sFormat
  peerAllowed s va 8 false false
  let h ← (trvWord s 7 space va).mapError (fun _ => rsMemory)
  peerNeed (!headerMalformed h && headerFits 0x12 h && hdrPin h && !(write && hdrImm h) && off + n ≤ hdrLength h) rsObject
  let a := va + payloadOffset h + off
  peerAllowed s a n write true
  return a

/-- The bytes of a WRITE_B: the words below are logged first (R335). -/
def peerWrite (s : State) (space a : Nat) (bs : List Byte) : Except State State :=
  let n := min bs.length (16384 - a % 16384)
  let log := fun (x : State) (va k : Nat) => match mapEdge x 7 space va with
    | some pa => if k != 0 && accessible x pa then logSpan x pa k else x
    | none => x
  masterWriteSpan (bs.length + 1) (log (log s a n) (a + n) (bs.length - n)) space 7 false a bs

/-- The header word of an object at the target, as far as it can be read. -/
def peerHeader (s : State) (va : Nat) : Word :=
  match trvWord s 7 (s.fld .rdgCfg 0 51 40) va with | .ok h => h | .error _ => nil

/-- Poison carried by the bytes of a write stays with them (R80). -/
def poisonSpan (s : State) (space va n : Nat) : State :=
  (List.range n).foldl (fun x i => match mapEdge x 7 space (va + i) with | some pa => setPoison x pa | none => x) s

/-- A request that failed at the target: poison that its read met is logged at its block (R79, R81). -/
def peerMiss (s : State) (va n : Nat) : State := meetRead s 7 (s.fld .rdgCfg 0 51 40) va n

/-- What a request does: the reply's value and bytes, or its status; a POST that met a full mailbox leaves its
message. -/
inductive Served where
  | done (value : Word) (bytes : List Byte) (s : State)
  | waits (msg : Word) (s : State)
  | failed (status : Nat) (s : State)

def servedWord (s : State) (va : Nat) (r : PeerM (Word × State)) (result : Word → Word) : Served :=
  match r with
  | .ok (old, s1) => .done (result old) [] s1
  | .error e => .failed e (if e == rsMemory && va < vaTop then peerMiss s va 8 else s)

/-- POST: the byte vector in the mailbox's tile and the append. -/
def servePost (s : State) (va : Nat) (bytes : List Byte) : Served :=
  let space := s.fld .rdgCfg 0 51 40
  let check : PeerM Unit := do
    peerNeed (va < vaTop && va % 16 == 0) sFormat
    peerAllowed s va 8 false false
    let h ← (trvWord s 7 space va).mapError (fun _ => rsMemory)
    peerNeed (tagOf h == 0x20 && hdrClass h == 8 && !headerMalformed h && hdrPin h && !hdrImm h) rsObject
    peerNeed (!spaceRO s space) rsTarget
  match check with
  | .error e => .failed e (if e == rsMemory then peerMiss s va 8 else s)
  | .ok () =>
    let bs := byteVectorBytes 6 bytes
    let t := tileHolding s va
    match engineObject s t (kindFor false false bs.length) bs with
    | none => .failed rsHeapFull (engineHeapFull s t)
    | some (a, s1) =>
      match appendMailbox s1 space 7 va (mkWord 0x12 a) with
      | (s2, .posted) => .done (fixN 0) [] s2
      | (_, .full) => .waits (mkWord 0x12 a) s1
      | (s2, .malformed) | (s2, .forged) => .failed rsObject s2
      | (s2, .failed memory) => .failed (if memory then rsMemory else rsTarget) s2

/-- A request performed. -/
def serve (s : State) (poison : Bool) : RidgeMsg → Served
  | .request 1 p1 _ _ _ _ =>
    servedWord s (valOf p1) (peerWord s (valOf p1) false fun old => do
      peerNeed (isImmediateTag (tagOf old)) rsTag
      return none) id
  | .request 2 p1 p2 _ _ _ =>
    servedWord s (valOf p1) (peerWord s (valOf p1) true fun _ => do
      peerNeed (!poison) rsMemory
      peerNeed (isImmediateTag (tagOf p2)) rsTag
      return some p2) (fun _ => fixN 0)
  | .request 3 p1 p2 p3 _ _ =>
    servedWord s (valOf p1) (peerWord s (valOf p1) true fun old => do
      peerNeed (!poison) rsMemory
      peerNeed (isImmediateTag (tagOf p2) && isImmediateTag (tagOf p3) && isImmediateTag (tagOf old)) rsTag
      return if old == p3 then some p2 else none) id
  | .request 4 p1 p2 _ _ _ =>
    servedWord s (valOf p1) (peerWord s (valOf p1) true fun old => do
      peerNeed (!poison) rsMemory
      peerNeed (isFix p2 && isFix old) rsTag
      return some (fix (fixVal old + fixVal p2))) id
  | .request 5 p1 p2 _ _ n =>
    let space := s.fld .rdgCfg 0 51 40
    let read : PeerM (List Byte) := do
      peerNeed (1 ≤ n && n ≤ 256) sFormat
      let a ← peerBytes s (valOf p1) (valOf p2) n false
      (trvRead s 7 space true a n).mapError (fun _ => rsMemory)
    match read with
    | .ok bs => .done (fixN n) bs (touchEdge s 7 space (valOf p1) (valOf p2 + n))
    | .error e => .failed e (if e == rsMemory then peerMiss s (valOf p1) (payloadOffset (peerHeader s (valOf p1)) + valOf p2 + n) else s)
  | .request 6 p1 p2 _ bytes n =>
    let space := s.fld .rdgCfg 0 51 40
    let data := bytes.take n
    match peerBytes s (valOf p1) (valOf p2) data.length true with
    | .error e => .failed e (if e == rsMemory then peerMiss s (valOf p1) 8 else s)
    | .ok a => match peerWrite s space a data with
      | .error s1 => .failed rsMemory s1
      | .ok s1 =>
        if poison then .failed rsMemory (poisonSpan s1 space a data.length)
        else .done (fixN data.length) [] s1
  | .request 7 p1 _ _ bytes _ => if poison then .failed rsMemory s else servePost s (valOf p1) bytes
  | _ => .failed sFormat s

/-- The request at the front of a port's inbox ends: its reply goes back; with MEMORY_ERROR it carries the poison mark
(R81; log 39). -/
def replyTo (s : State) (p : Nat) (f : RidgeFrame) (status : Nat) (value : Word) (bytes : List Byte) : State :=
  let rest := (Tbl.getD s.ridge.inbox [] p).drop 1
  let s1 := { s with ridge := { s.ridge with
    inbox := Tbl.putD s.ridge.inbox [] p rest, posting := Tbl.del s.ridge.posting p } }
  routeOrEnd s1 4 ⟨f.src, rangeSelf s, f.reqid, .reply status value bytes, status == rsMemory⟩

/-- The reply has a port with room, or none at all. -/
def replyRoom (s : State) (f : RidgeFrame) : Bool :=
  match routeTo s f.src 4 with | some q => portRoom s q | none => true

/-- PEER_REQUEST_SERVE: the oldest request of a port, every write response included, when the port has a slot (R24). -/
def execPeerRequestServe (p : Fin 4) (s : State) : Out := .next (
  match Tbl.getD s.ridge.inbox [] p.val with
  | [] => s
  | f :: _ =>
    if (Tbl.get? s.ridge.posting p.val).isSome || !replyRoom s f || !s.base.held.isEmpty || !hasSlot s (.ridge p) then s else
    match serve s f.poison f.msg with
    | .done v bs s1 => replyTo s1 p.val f 0 v bs
    | .failed e s1 => replyTo s1 p.val f e (fixN 0) []
    | .waits msg s1 => { s1 with ridge := { s1.ridge with posting := Tbl.put s1.ridge.posting p.val msg } })

/-- The append of a POST is tried again (R441, R484). -/
def retryPeer (s : State) (p : Nat) : State :=
  match Tbl.get? s.ridge.posting p, Tbl.getD s.ridge.inbox [] p with
  | some msg, f :: _ =>
    match f.msg with
    | .request _ p1 _ _ _ _ =>
      if !replyRoom s f then s else
      match appendMailbox s (s.fld .rdgCfg 0 51 40) 7 (valOf p1) (healMoved s msg) with
      | (s1, .posted) => replyTo s1 p f 0 (fixN 0) []
      | (_, .full) => s
      | (s1, .malformed) | (s1, .forged) => replyTo s1 p f rsObject (fixN 0) []
      | (s1, .failed memory) => replyTo s1 p f (if memory then rsMemory else rsTarget) (fixN 0) []
    | _ => s
  | _, _ => s

/-- The mailbox stayed full beyond TRV_CFG.MBWAIT. -/
def expirePeer (s : State) (p : Nat) : State :=
  match Tbl.get? s.ridge.posting p, Tbl.getD s.ridge.inbox [] p with
  | some _, f :: _ => if replyRoom s f then replyTo s p f rsMboxFull (fixN 0) [] else s
  | _, _ => s

/-! ### Configuration and sessions (R462, R481, R557) -/

/-- A port is configured: EN, a valid roster, no Saddle mode, and a dimension of more than one device. -/
def ridgeConfigured (s : State) (r : Option (Nat × Nat × Nat)) (p : Nat) : Bool :=
  match r with
  | some (x, y, _) => s.flag .rdgCfg 0 63 && !inSaddle s && (if p < 2 then 1 < x else 1 < y)
  | none => false

/-- X, Y, the own number and the configured ports follow the roster and RDG_CFG.EN. A port that becomes configured
agrees keys. -/
def refreshRidge (s : State) : State :=
  let r := rosterOf s
  let (x, y, n) := r.getD (1, 1, 0)
  let s1 := s.setR .rdgRange 0 (withBits (withBits (withBits (s.reg .rdgRange 0) 7 0 x) 15 8 y) 21 16 n)
  (List.range 4).foldl (fun z p =>
    let conf := ridgeConfigured z r p
    if conf && z.unit (uRidge p) == stNotConfigured then ridgeChanged (z.setF .rdgStat p 63 62 1) p stOffline
    else if !conf && z.unit (uRidge p) != stNotConfigured then
      let z1 := if ridgeUp z p then linkLost z p else z
      ridgeChanged (z1.setF .rdgStat p 63 62 0) p stNotConfigured
    else z) s1

def writeRdgCfg (s : State) (w : SetupWrite) : State := refreshRidge (storeSetup s .rdgCfg 0 w)
def writeCrgRoster (s : State) (w : SetupWrite) : State := refreshRidge (storeSetup s .crgRoster 0 w)

/-- KEY_AGREEMENT: the two Crags agree a session; the verdict stands for the peer's signature and the exchange. A
failure leaves the port down and counts as tamper source 10. -/
def execKeyAgreement (p : Fin 4) (peer : List Byte) (v : Verdict) (s : State) : Out := .next (
  if !ridgeConfigured s (rosterOf s) p.val || s.unit (uRidge p.val) != stOffline || ridgeUp s p.val || !cragUp s then s
  else match rosterIndex s peer, v, s.flag .crgStat 0 63 with
    | some r, .pass, false =>
      let k := s.rport p.val
      let s1 := s.setRport p.val { RidgePort.empty with session := k.session + 1 }
      let w : Word := BitVec.ofNat 64 (2 * 2 ^ 62 + 2 * 2 ^ 60 + r)
      let s2 := s1.setR .rdgStat p.val w
      let s3 := { s2 with crag := { s2.crag with
        volatileKeys := insertNat (insertNat s2.crag.volatileKeys (0x38 + 2 * p.val)) (0x39 + 2 * p.val) } }
      ridgeChanged s3 p.val stOnline
    | _, _, _ =>
      let s1 := if rdgState s p.val == 1 then pulse (s.setF .rdgStat p.val 63 62 0) (248 + p.val) else s
      tamper s1 10)

/-- REKEY: a new session key after 2^32 frames or an hour, with no loss. -/
def execRekey (p : Fin 4) (s : State) : Out := .next (
  if !ridgeUp s p.val then s
  else
    let k := s.rport p.val
    s.setRport p.val { k with session := k.session + 1, frames := 0 })

/-! ### Recalibration (R489) -/

def startRecalibration (s : State) (p lane : Nat) : State :=
  if rdgState s p != 2 then s
  else
    let k := s.rport p
    let s1 := (s.setRport p { k with lane := some lane }).setF .rdgStat p 63 60 0xD
    ridgeChanged s1 p (s1.unit (uRidge p))

/-- LANE_RECALIBRATION_START. -/
def execLaneRecalibrationStart (p : Fin 4) (lane : Fin 2) (s : State) : Out := .next (
  startRecalibration s p.val lane.val)

/-- RECALIBRATION_END. -/
def execRecalibrationEnd (p : Fin 4) (s : State) : Out := .next (
  if rdgState s p.val != 3 then s
  else
    let k := s.rport p.val
    let s1 := (s.setRport p.val { k with lane := none }).setF .rdgStat p.val 63 60 0xA
    ridgeChanged s1 p.val (s1.unit (uRidge p.val)))

/-! ### Range-wide operations (R486, R487, R490) -/

def rangeBarrier (s : State) (n : Nat) : Bool := s.flag .cfgBarHi n 33

/-- BARRIER_RELEASE: a barrier of this device alone. -/
def execBarrierRelease (n : Fin 16) (s : State) : Out := .next (
  if allArrived s n.val && (!rangeBarrier s n.val || rangeSize s == 1) then releaseBarrier s n.val else s)

/-- RANGE_BARRIER_RELEASE: the release that comes down the tree. -/
def execRangeBarrierRelease (n : Fin 16) (s : State) : Out := .next (
  if allArrived s n.val && rangeBarrier s n.val && 1 < rangeSize s then releaseBarrier s n.val else s)

/-- One step from a place toward 0 in a dimension of size n, against the route of R482 from 0. -/
def towardRoot (n i : Nat) : Nat := if 2 * i ≤ n then i - 1 else (i + 1) % n

/-- The parent of a device in the tree rooted at device 0. -/
def treeParent (x y r : Nat) : Nat :=
  if r / x != 0 then r % x + x * towardRoot y (r / x) else towardRoot x (r % x)

def treeChildren (s : State) : List Nat :=
  let x := rangeX s
  (List.range (rangeSize s)).filter (fun r => r != 0 && treeParent x (rangeY s) r == rangeSelf s)

def sendRange (s : State) (kind : Byte) (bytes : List Byte) (dst : Nat) : State :=
  routeOrEnd s 4 ⟨dst, rangeSelf s, 0, .range kind bytes, false⟩

/-- BROADCAST: up to the root, then down to every device. -/
def execBroadcast (down : Bool) (kind : Byte) (bytes : List Byte) (s : State) : Out := .next (
  if down || rangeSelf s == 0 then
    let s1 := (treeChildren s).foldl (fun x r => sendRange x kind bytes r) s
    { s1 with ridge := { s1.ridge with heard := some (kind, bytes) } }
  else sendRange s kind bytes (treeParent (rangeX s) (rangeY s) (rangeSelf s)))

/-- RANGE_ADVANCE: the cut of an advance of the Range in slot k, once every own request has its response. `others`
is the CODE with which another device refuses, 0 when none does. -/
def execRangeAdvance (k : Fin 8) (others : Byte) (s : State) : Out := .next (
  if rangeSize s ≤ 1 || !s.ridge.own.isEmpty then s else
  let run := fun (x : State) => if others != 0 then (others.toNat, x) else advanceInto x k.val
  match s.crestOp with
  | some (.range j) =>
    if j != k.val then s
    else
      let (c, s1) := run s
      setCrestCode ({ s1 with crestOp := none }.setF .cfgCrest 0 60 60 0) c
  | some _ => s
  | none => (run s).2)

/-- The arrivals of a Range barrier end here: each waiting participant completes with f4 0. -/
def cancelBarrier (s : State) (n : Nat) : State :=
  allCores.foldl (fun x c => if arrived x n c then
    x.modCore c (fun k => { leaveBarrier k n false with bars := Tbl.del k.bars n }) else x) s

def cancelRange (s : State) : State :=
  (List.range 16).foldl (fun x n => if rangeBarrier x n then cancelBarrier x n else x) s

/-- A write of RDG_RANGE. -/
def writeRdgRange (s : State) (w : SetupWrite) : State :=
  let s1 := storeSetup s .rdgRange 0 w
  let s2 := if acts w 62 then cancelRange s1 else s1
  if acts w 63 then deviceStart s2 6 else s2

/-- RANGE_RESET. -/
def execRangeReset (w : SetupWrite) (s : State) : Out := .next (
  if acts w 63 && mayReach s w.agent .rdgRange 0 then writeRdgRange s w else s)

/-- CANCEL. -/
def execCancel (w : SetupWrite) (s : State) : Out := .next (
  if acts w 62 && mayReach s w.agent .rdgRange 0 then writeRdgRange s w else s)

end Sys2Proof.Machine
end

