-- ==== Sys2Proof/Machine/Start.lean ====
section
/-! DEFINITION. The boot state machine, Saddle mode, the declaration of the Operational state, the operations of
CFG_UNITCTL, and the reset and supply pins that make a start (R491 to R514, R522). -/

namespace Sys2Proof.Machine

open Sys2Proof

/-! ### Failures (R494, R495, R502) -/

/-- The boot slot of the current start (R502). -/
def bootSlot (s : State) : Nat :=
  let pref := s.fld .basBootsel 0 0 0
  if failCount s == 1 then 1 - pref else pref

/-- A stage ends the attempt: the reason is recorded and FAILS rises to at most 3. -/
def stageFailure (s : State) (reason : Nat) : State :=
  let f := if s.base.failures.length < 3 then s.base.failures ++ [(reason, bootSlot s)] else s.base.failures
  let s1 := (s.setF .basBoot 0 47 40 reason).setF .basBoot 0 55 54 (min 3 (failCount s + 1))
  { s1 with base := { s1.base with failures := f, failed := true } }

/-- A stage of a state may end: nothing holds the device and the attempt has not failed. -/
def inStage (s : State) (st : Nat) : Bool := bootState s == st && s.base.held.isEmpty && !s.base.failed

/-- The device is starting: neither OPERATIONAL nor SADDLE (R493, R495). -/
def starting (s : State) : Bool := bootState s < 7 && s.base.held.isEmpty && !s.base.failed

/-- FAILED_START_RESTART. -/
def execFailedStartRestart (s : State) : Out := .next (
  if s.base.failed && s.base.held.isEmpty then deviceStart s 8 else s)

/-- BOOT_WATCHDOG_EXPIRY. -/
def execBootWatchdogExpiry (s : State) : Out := .next (
  if starting s then deviceStart (stageFailure s 1) 7 else s)

/-- FLASH_READ_TIMEOUT: a stage that reads the flash. -/
def execFlashReadTimeout (s : State) : Out := .next (
  if inStage s 1 || inStage s 2 || inStage s 3 || inStage s 5 then stageFailure s 7 else s)

/-! ### Stages (R493) -/

/-- A unit takes a state of the start, unless it is retired (R492). -/
def bringUp (s : State) (u st : Nat) : State := if s.unit u == stRetired then s else s.setUnit u st

/-- BOOT_HOLD_END: references, PLLs and fuses. -/
def execBootHoldEnd (v : Verdict) (s : State) : Out := .next (
  if !inStage s 0 then s else match v with
  | .pass => setBoot s 1
  | .fail => stageFailure s 0xB)

/-- Crag runs from a slot, or from its ROM. -/
def runCrag (s : State) (slot : Nat) (rom : Bool) : State :=
  let version := if rom then 0 else le (cragSlotImage s slot) 0x14 4
  let s1 := s.setF .basBoot 0 52 52 slot
  bringUp { s1 with crag := { s1.crag with rom := rom }, massif := { s1.massif with cragVersion := version } } uCrag stOnline

/-- CRAG_STAGE_END: CRAGPREF first, then the other slot. With FAILS at 3 the start goes on to SADDLE_ENTRY. -/
def execCragStageEnd (s : State) : Out := .next (
  if !inStage s 1 then s else
  let pref := s.fld .basBootsel 0 1 1
  let onward := fun (x : State) => if failCount x == 3 then x else setBoot x 2
  match [pref, 1 - pref].find? (fun i => (cragImageFault s (cragSlotImage s i)).isNone) with
  | some i => onward (runCrag s i false)
  | none => if failCount s == 3 then runCrag s 0 true else stageFailure s 2)

/-- IMAGE_STAGE_END: the checks of R498 in their order. -/
def execImageStageEnd (s : State) : Out := .next (
  if !inStage s 2 then s else
  let slot := bootSlot s
  let img := bootSlotImage s slot
  match bootImageFault s img with
  | some .target => stageFailure s 5
  | some .floor => stageFailure s 4
  | some _ => stageFailure s 3
  | none =>
    let s1 := s.setF .basBoot 0 53 53 slot
    setBoot { s1 with massif := { s1.massif with bootVersion := le img 0x14 4 } } 3)

/-! ### The boot configuration (R500) -/

/-- The image of the slot that started. -/
def startedImage (s : State) : List Byte := bootSlotImage s (s.fld .basBoot 0 53 53)

def configWord (img : List Byte) (i : Nat) : Nat := le img (0x20 + 8 * i) 8

/-- The section of troika k, 0xFF for none. -/
def configEntry (img : List Byte) (k : Nat) : Nat := le img (0x38 + k) 1

def configQuad (img : List Byte) (q : Nat) : Bool := configWord img 0 / 2 ^ q % 2 == 1
def configVoted (img : List Byte) (k : Nat) : Bool := configWord img 1 / 2 ^ k % 2 == 1
def configChannel (img : List Byte) (q : Nat) : Nat := configWord img 8 / 16 ^ q % 16

/-- GiB of a population code. -/
def populated (code : Nat) : Nat := match code with | 1 => 4 | 2 => 8 | 3 => 16 | 4 => 32 | _ => 0

def patchOffset (img : List Byte) : Nat := configWord img 7 % 2 ^ 32
def patchBytes (img : List Byte) : Nat := configWord img 7 / 2 ^ 32

/-- Sections one after another: instruction area, ENTRY, FMT; and whether one runs past the end. -/
def splitSections : Nat → List Byte → List (List Byte × Nat × Bool) × Bool
  | 0, _ => ([], false)
  | n + 1, bs =>
    let cb := le bs 0 4
    if bs.length < 16 then ([], false)
    else if bs.length < 16 + cb then ([], true)
    else
      let (rest, bad) := splitSections n (bs.drop (16 + cb))
      (((bs.drop 16).take cb, le bs 4 4, le bs 8 1 % 2 == 1) :: rest, bad)

/-- The sections of an image end where a patch image begins (log 40). -/
def sectionsOf (img : List Byte) : List (List Byte × Nat × Bool) × Bool :=
  let n := payloadLength img
  let stop := if patchBytes img == 0 then n else min n (patchOffset img)
  splitSections (stop / 16 + 1) ((img.drop 0x120).take stop)

/-- The configuration is invalid (R500). -/
def configInvalid (img : List Byte) : Bool :=
  let w0 := configWord img 0
  let modes := modeOk (w0 / 2 ^ 8 % 16) && modeOk (w0 / 2 ^ 12 % 16)
  let reserved := w0 / 2 ^ 4 % 16 != 0 || w0 / 2 ^ 17 != 0 || configWord img 2 / 2 ^ 22 != 0
    || configWord img 8 / 2 ^ 16 != 0 || (List.range 23).any (fun i => configWord img (9 + i) != 0)
    || (List.range 4).any (fun q => 4 < configChannel img q)
  let n := (sectionsOf img).1.length
  let troikas := (List.range 32).any (fun k =>
    let e := configEntry img k
    (!configQuad img (k / 8) && (configVoted img k || e != 0xFF)) || (e != 0xFF && n ≤ e))
  w0 % 16 == 0 || !modes || reserved || troikas

/-- A channel as the configuration and its training leave it (R312, R534). -/
def bringChannel (img : List Byte) (untrained : BitVec 4) (s : State) (q : Nat) : State :=
  let gib := populated (configChannel img q)
  let u := uChan q
  if s.unit u == stRetired then s.setF .dmcCtl q 2 0 2
  else if !configQuad img q || gib == 0 then (s.setUnit u stNotConfigured).setF .dmcCtl q 2 0 3
  else if untrained.getLsbD q then (s.setUnit u stOffline).setF .dmcCtl q 2 0 4
  else
    let s1 := { s with
      sizes := Tbl.putD s.sizes 0 u (gib * 917504)
      crag := { s.crag with volatileKeys := insertNat s.crag.volatileKeys (0x30 + q) } }
    (s1.setUnit u stOnline).setF .dmcCtl q 2 0 0

/-- Registers that the configuration sets. -/
def applyConfig (s : State) (img : List Byte) : State :=
  let w0 := configWord img 0
  let s1 := s.setR .trkMode 0 (BitVec.ofNat 64 (configWord img 1))
  let s2 := (List.range 32).foldl (fun x k => x.setF .trkCtl k 16 16 (if configVoted img k then 1 else 0)) s1
  let s3 := s2.setR .crgTpol 0 (BitVec.ofNat 64 (configWord img 2))
  let s4 := { s3 with base := { s3.base with policy := configWord img 2 }
                      compact := w0 % 16 == 1 || w0 % 16 == 2 || w0 % 16 == 4 || w0 % 16 == 8 }
  let s5 := s4.setR .netCfg 0 (BitVec.ofNat 64 (w0 / 2 ^ 12 % 16 * 16 + w0 / 2 ^ 8 % 16))
  let s6 := s5.setF .rdgCfg 0 63 63 (w0 / 2 ^ 16 % 2)
  refreshRidge (settlePorts s6 (bringUp s6 uHre stOnline))

/-- CONFIG_STAGE_END. Training fails for every populated channel of an enabled quadrant: reason 0x08. -/
def execConfigStageEnd (plls : Verdict) (untrained : BitVec 4) (s : State) : Out := .next (
  if !inStage s 3 then s else
  let img := startedImage s
  let used := (List.range 4).filter (fun q => configQuad img q && populated (configChannel img q) != 0)
  if configInvalid img then stageFailure s 6
  else if plls == .fail then stageFailure s 0xB
  else
    let s1 := (List.range 4).foldl (bringChannel img untrained) (applyConfig s img)
    if !used.isEmpty && used.all (fun q => untrained.getLsbD q) then stageFailure s1 8 else setBoot s1 4)

/-! ### SELFTEST -/

/-- A faulty row takes a spare of its bank; none when the spares do not suffice. -/
def repairRow (s : State) (t row : Nat) : Option State :=
  if (repairedRows s t).contains row then some s
  else if 4 ≤ bankUsed s t (row % 32) then none
  else some { s with repaired := Tbl.put s.repaired t (insertNat (repairedRows s t) row) }

def repairRows (s : State) (t : Nat) : List Nat → Option State
  | [] => some s
  | r :: rs => (repairRow s t r).bind (fun s1 => repairRows s1 t rs)

/-- SELFTEST_STAGE_END: rows found faulty are repaired; a tile whose faults exceed its spares is offline. -/
def execSelftestStageEnd (faults : List (TileId × Fin 16384)) (s : State) : Out := .next (
  if !inStage s 4 then s else
  let img := startedImage s
  let one := fun (x : State) (t : Nat) =>
    if !configQuad img (t / 4) || x.unit (uTile t) == stRetired then x
    else match repairRows x t ((faults.filter (fun e => e.1.val == t)).map (fun e => e.2.val)) with
      | some y => y.setUnit (uTile t) stOnline
      | none => x.setUnit (uTile t) stOffline
  let s1 := (List.range 16).foldl one s
  if configQuad img 0 && s1.unit (uTile 0) == stOffline then stageFailure s1 9 else setBoot s1 5)

/-! ### LOAD (R501) -/

/-- The checks of R71 and R199 on a section. -/
def sectionOk (x : List Byte × Nat × Bool) : Bool :=
  let n := x.1.length
  n != 0 && n % 8 == 0 && x.2.1 < n && x.2.1 % (if x.2.2 then 8 else 4) == 0

/-- The code object of a section. -/
def sectionBytes (x : List Byte × Nat × Bool) : List Byte :=
  let n := x.1.length
  let flags := if x.2.2 then 0x11 else 1
  taggedBytes (mkHeader 0x20 3 5 flags) [fixN n, fixN x.2.1, nil, nil, fixN 0] ++ x.1
    ++ List.replicate (roundUp n 16 - n) 0

/-- The directory of code objects holds one more, of n bytes (log 11). -/
def noteCode (s : State) (a n : Nat) : State :=
  { s with codeObjs := insertNat s.codeObjs a, codeSizes := Tbl.put s.codeSizes a n }

/-- The code objects one after another in tile 0: their addresses and the state; none where a section fails. -/
def placeSections : List (List Byte × Nat × Bool) → Nat → State → Option (List Nat × State)
  | [], _, s => some ([], s)
  | x :: xs, a, s =>
    let bs := sectionBytes x
    if !sectionOk x || 0x1000000 < a + bs.length then none
    else match placeSections xs (a + bs.length) (writeBytes (noteCode s a x.1.length) a bs) with
      | some (rest, s1) => some (a :: rest, s1)
      | none => none

/-- The patch image of a boot image, on every core of a troika that starts. -/
def patchCores (img patch : List Byte) (s : State) : State :=
  let ram : Tbl (BitVec 33) := (List.range (le patch 0x18 2)).foldl
    (fun t i => Tbl.putD t 0 i (withParity (BitVec.ofNat 32 (le patch (0x120 + 4 * i) 4)))) []
  let regs : Tbl MatchReg := (List.range (le patch 0x1A 1)).foldl (fun t i =>
    let e : Word := BitVec.ofNat 64 (le patch (0x20 + 8 * i) 8)
    Tbl.put t i ⟨bitOf e 63, BitVec.ofNat 14 (bitsOf e 61 48), BitVec.ofNat 10 (bitsOf e 41 32)⟩) []
  (allCores.filter (fun c => configEntry img (c.val / 3) != 0xFF && s.unit (uCore c.val) != stRetired)).foldl
    (fun x c => (x.modCore c (fun k => { k with pram := ram, matchRegs := regs })).setR .mcPatchVersion c.val
      (BitVec.ofNat 64 (le patch 0x10 4))) s

/-- One troika in LOAD: a started one takes its troika reset, another of an enabled quadrant is offline. -/
def loadTroika (img : List Byte) (places : List Nat) (untested : List TroikaId) (s : State) (k : TroikaId) : State :=
  let e := configEntry img k.val
  if !configQuad img (k.val / 8) || s.unit (uTroika k.val) == stRetired then s
  else if e == 0xFF then settleTroika s k stOffline 5 0
  else
    let s1 := s.setR .trkEntry k.val (BitVec.ofNat 64 (2 ^ 63 + places.getD e 0))
    let v := configVoted img k.val
    let verdict := if v && untested.contains k then Verdict.fail else .pass
    pulse (finishReset s1 k ⟨v, false⟩ verdict) (tileSource (k.val / 2) (8 + k.val % 2))

/-- The table is built: GENERATION 2, every entry changed (R41, R46). -/
def endBuild (s : State) : State := generation ((List.range 9).foldl (fun x i => markChanged x (i + 1)) s) 2 0 0 0

/-- LOAD_STAGE_END. `untested` names troikas that fail their voter self-test. -/
def execLoadStageEnd (untested : List TroikaId) (s : State) : Out := .next (
  if !inStage s 5 then s else
  let img := startedImage s
  let (sections, bad) := sectionsOf img
  let patch := (img.drop (0x120 + patchOffset img)).take (patchBytes img)
  match (if bad then none else placeSections sections (Config.loadPlace % 65536 * 16) s) with
  | none => stageFailure s 0xE
  | some (places, s1) =>
    if patchBytes img != 0 && (patchFault s1 patch).isSome then stageFailure s1 0xD
    else
      let s2 := if patchBytes img == 0 then s1 else patchCores img patch s1
      let s3 := (List.finRange 32).foldl (loadTroika img places untested) s2
      let failedTest := untested.any (fun k => configQuad img (k.val / 8) && configVoted img k.val
        && configEntry img k.val != 0xFF && s.unit (uTroika k.val) != stRetired)
      if failedTest then stageFailure s3 0xA else endBuild (setBoot s3 6))

/-! ### Saddle mode (R47, R504) -/

/-- SAD_REASON: the three failures, oldest first. -/
def saddleReason (l : List (Nat × Nat)) : Word :=
  let f := fun (i : Nat) => l.getD i (0, 0)
  BitVec.ofNat 64 ((f 0).1 + (f 1).1 * 2 ^ 8 + (f 2).1 * 2 ^ 16 + ((f 0).2 + (f 1).2 * 2 + (f 2).2 * 4) * 2 ^ 24)

/-- A core of troika 0 begins the recovery program (log 40). -/
def recoverCore (s : State) (c : CoreId) : State :=
  (resetCore true s c).modCore c (fun k =>
    { k with pc := Config.recoveryEntry % 2 ^ 20, area := some (0, 2 ^ 20), mode := .running })

/-- SADDLE_ENTRY: the units of R47, and troika 0 in the recovery program. -/
def execSaddleEntry (s : State) : Out := .next (
  if !inStage s 1 || failCount s != 3 || !s.online uCrag then s else
  let s1 := s.setR .sadReason 0 (saddleReason s.base.failures)
  let s2 := { s1 with
    compact := true
    massif := { s1.massif with saddle := true }
    sizes := Tbl.putD s1.sizes 16384 (uTile 0) 1024 }
  let s3 := ((s2.setR .trkMode 0 1).setF .trkCtl 0 16 16 1).setR .netCfg 0 0xFF
  let s4 := [uTile 0, uTroika 0, uCore 0, uCore 1, uCore 2, uHre].foldl (fun x u => bringUp x u stOnline) s3
  let s5 := (members 0).foldl recoverCore (s4.setF .trkStat 0 62 60 0)
  let s6 := [1, 2, 3].foldl (fun x q => x.setF .cfgQclk q 36 32 0) s5
  endBuild (setBoot s6 8))

/-! ### CFG_OPER, CFG_START, SAD_CTL (R496, R491, R506) -/

/-- A write of CFG_OPER: OPER or FAIL act in RUNUP alone. The generation that sets OPER changes no entry: LAST_TYPE and
LAST_INSTANCE become 0, which the manual does not state (DESIGN CHOICE, log 18). -/
def writeCfgOper (s : State) (w : SetupWrite) : State :=
  let s1 := storeSetup s .cfgOper 0 w fun old new => keepField (0x80 ≤ bitsOf new 7 0) 7 0 old new
  if !inStage s1 6 then s1
  else if acts w 63 then
    let s2 := (clearFails s1).setF .basBootsel 0 0 0 (s1.fld .basBoot 0 53 53)
    let s3 := publish { s2 with massif := { s2.massif with oper := true } } 0 0 6
    let s4 := setBoot s3 7
    { s4 with board := { s4.board with healthOk := true } }
  else if acts w 62 then stageFailure s1 (s1.fld .cfgOper 0 7 0)
  else s1

/-- DECLARE_OPERATIONAL. -/
def execDeclareOperational (w : SetupWrite) (s : State) : Out := .next (
  if acts w 63 && mayReach s w.agent .cfgOper 0 then writeCfgOper s w else s)

/-- DECLARE_FAIL: ignored when OPER is also 1. -/
def execDeclareFail (w : SetupWrite) (s : State) : Out := .next (
  if acts w 62 && !acts w 63 && mayReach s w.agent .cfgOper 0 then writeCfgOper s w else s)

/-- GO with KEY in the same write. -/
def keyed (w : SetupWrite) : Bool := acts w 63 && wfld w 15 0 == 0x5354

def writeCfgStart (s : State) (w : SetupWrite) : State := if keyed w then deviceStart s 4 else s

/-- CFG_START. -/
def execCfgStart (w : SetupWrite) (s : State) : Out := .next (
  if keyed w && mayReach s w.agent .cfgStart 0 then writeCfgStart s w else s)

def writeSadCtl (s : State) (w : SetupWrite) : State := if keyed w && inSaddle s then deviceStart s 9 else s

/-- SAD_CTL_GO. -/
def execSadCtlGo (w : SetupWrite) (s : State) : Out := .next (
  if keyed w && mayReach s w.agent .sadCtl 0 then writeSadCtl s w else s)

/-! ### Unit operations (R508 to R513) -/

def unitBusy (s : State) : Bool := s.flag .cfgUnitstat 0 63
def unitEnd (s : State) (code : Nat) : State := (s.setF .cfgUnitstat 0 63 63 0).setF .cfgUnitstat 0 7 0 code
def unitBegin (s : State) : State := s.setF .cfgUnitstat 0 63 63 1

/-- A tile's change of state touches its TILE and its MEMRANGE entry in one generation. LAST_TYPE names the TILE entry,
with cause 1: which of the two it names, the manual does not state (DESIGN CHOICE, log 18). -/
def publishTile (s : State) (t st : Nat) : State := publishTypes (s.setUnit (uTile t) st) [2, 5] t 1

/-- Regions that a tile holds. -/
def tileRegions (s : State) (t : Nat) : List Nat :=
  (List.range (regionCount s)).filter (fun r => (heapPa s (regionBase s r)).bind tileOfPa == some t)

def evacuatingTile (s : State) (t : Nat) : Bool := (tileRegions s t).any (fun r => bstateOf s r == 1)

def tileInUse (s : State) (t : Nat) : Bool :=
  (tileRegions s t).any (fun r => descKind (desc s r) != 0) || s.flag .cqxCmd t 63 || !(poolPages s t).isEmpty || anyHeld s

/-- Whether the core of a retirement is offline or halted, and no checker (R509). -/
def mayRetire (s : State) (c : CoreId) : Bool :=
  let st := s.unit (uCore c.val)
  leadOf s c == c && st != stRetired && st != stNotConfigured && (st == stOffline || (s.core c).mode == .halted)

/-- The start of an operation: at once its CODE, or BUSY until UNIT_OPERATION_END. `aMinute`: the lane has not been
recalibrated within the last minute (R489). -/
def startUnit (s : State) (op unit : Nat) (aMinute : Bool) : State :=
  let st := s.unit (uTile unit)
  let s0 := (s.setF .cfgUnitstat 0 55 48 op).setF .cfgUnitstat 0 47 40 unit
  let tile := fun (x : State) => if 16 ≤ unit then unitEnd s0 0xB else x
  match op with
  | 1 => tile (
      if st != stOnline then unitEnd s0 3
      else if evacuatingTile s0 unit then unitBegin s0
      else if tileInUse s0 unit then unitEnd s0 4
      else unitBegin (publishTile s0 unit stDraining))
  | 2 => tile (if st != stOffline then unitEnd s0 3 else unitBegin s0)
  | 3 => tile (if st == stOnline then unitEnd s0 2 else if st != stOffline then unitEnd s0 3 else unitBegin s0)
  | 4 =>
    if h : unit < 96 then (if mayRetire s0 ⟨unit, h⟩ then unitBegin s0 else unitEnd s0 8) else unitEnd s0 0xB
  | 5 => unitBegin s0
  | 6 =>
    if 8 ≤ unit then unitEnd s0 0xB
    else if aMinute && rdgState s0 (unit / 2) == 2 then unitEnd (startRecalibration s0 (unit / 2) (unit % 2)) 1
    else unitEnd s0 0xA
  | 7 => unitEnd s0 7
  | 9 => tile (if st != stOffline then unitEnd s0 3 else unitBegin s0)
  | _ => unitEnd s0 0xB

/-- A write of CFG_UNITCTL. -/
def writeUnitctl (s : State) (w : SetupWrite) (aMinute : Bool) : State :=
  if acts w 63 && unitBusy s then (storeSetup s .cfgUnitctl 0 w).setF .cfgUnitstat 0 62 62 1
  else
    let s1 := storeSetup s .cfgUnitctl 0 w
    if acts w 63 then startUnit s1 (s1.fld .cfgUnitctl 0 55 48) (s1.fld .cfgUnitctl 0 39 32) aMinute else s1

/-- A write of CFG_UNITCTL with GO whose OP is the row's. -/
def unitRow (op : Nat) (w : SetupWrite) (aMinute : Bool) (s : State) : State :=
  if acts w 63 && mayReach s w.agent .cfgUnitctl 0 && bitsOf (written s .cfgUnitctl 0 w) 55 48 == op then
    writeUnitctl s w aMinute
  else s

/-- TILE_OFFLINE. -/
def execTileOffline (w : SetupWrite) (s : State) : Out := .next (unitRow 1 w true s)
/-- TILE_ONLINE. -/
def execTileOnline (w : SetupWrite) (s : State) : Out := .next (unitRow 2 w true s)
/-- TILE_SELF_TEST. -/
def execTileSelfTest (w : SetupWrite) (s : State) : Out := .next (unitRow 3 w true s)
/-- RETIRE_CORE. -/
def execRetireCore (w : SetupWrite) (s : State) : Out := .next (unitRow 4 w true s)
/-- CRAG_SWITCH. -/
def execCragSwitch (w : SetupWrite) (s : State) : Out := .next (unitRow 5 w true s)
/-- RIDGE_LANE_RECALIBRATION. -/
def execRidgeLaneRecalibration (w : SetupWrite) (aMinute : Bool) (s : State) : Out := .next (unitRow 6 w aMinute s)
/-- VOTER_SELF_TEST_REQUEST. -/
def execVoterSelfTestRequest (w : SetupWrite) (s : State) : Out := .next (unitRow 7 w true s)
/-- RETIRE_TILE. -/
def execRetireTile (w : SetupWrite) (s : State) : Out := .next (unitRow 9 w true s)

/-- Every granule of a tile store reads as zero bytes. -/
def fillTile (s : State) (t : Nat) : State :=
  { s with mem := s.mem.filter (fun e => e.1 / 0x1000000 != t)
           poison := s.poison.filter (fun g => g / 0x100000 != t) }

/-- The end of a tile's departure: a wait for the collector, the drain, or the refusal. -/
def endOffline (s : State) (t : Nat) : State :=
  if s.unit (uTile t) == stDraining then
    if s.flights.any (fun f => tileOfPa f.pa == some t) then s
    else unitEnd (publishTile { s with l2tlb := Tbl.del s.l2tlb t } t stOffline) 1
  else if evacuatingTile s t then s
  else if tileInUse s t then unitEnd s 4
  else publishTile s t stDraining

/-- A core leaves service for good; with its lead a voted troika does. One that is still online is published as draining
first (R42). -/
def retireCores (s : State) (c : CoreId) : State :=
  let drained := (partners s c).foldl (fun x m =>
    if x.online (uCore m.val) then publishUnit x (uCore m.val) stDraining 3 m.val 1 else x) s
  let s1 := (partners s c).foldl (fun x m =>
    publishUnit (x.modCore m (fun k => { k with mode := .stopped })) (uCore m.val) stRetired 3 m.val 1) drained
  let k := troikaOf c
  if (servingMembers s1 k).isEmpty then publishUnit s1 (uTroika k.val) stRetired 4 k.val 1 else s1

/-- The Crag switch: the other slot verifies and its firmware comes up, or the old one stays (R510). -/
def switchCrag (s : State) (v : Verdict) : State :=
  let slot := 1 - s.fld .basBoot 0 52 52
  let img := cragSlotImage s slot
  if (cragImageFault s img).isNone && v == .pass && Config.cragComesUp (le img 0x14 4) then
    unitEnd (publish ((runCrag s slot false).setF .basBootsel 0 1 1 slot) 9 0 4) 1
  else unitEnd s 9

/-- A Crest advance of the Range is in progress. -/
def rangeAdvancing (s : State) : Bool := match s.crestOp with | some (.range _) => true | _ => false

/-- UNIT_OPERATION_END. `faults` are the rows that a self-test finds faulty, `v` tells whether the new firmware
comes up. -/
def execUnitOperationEnd (faults : List (Fin 16384)) (v : Verdict) (s : State) : Out := .next (
  let unit := s.fld .cfgUnitstat 0 47 40
  if !unitBusy s then s else
  match s.fld .cfgUnitstat 0 55 48 with
  | 1 => endOffline s unit
  | 2 => unitEnd (publishTile (fillTile s unit) unit stOnline) 1
  | 3 => match repairRows s unit (faults.map (·.val)) with
    | some s1 => unitEnd (if (repairedRows s1 unit).length == (repairedRows s unit).length then s1 else publish s1 2 unit 1) 1
    | none => unitEnd s 6
  | 4 => if h : unit < 96 then unitEnd (retireCores s ⟨unit, h⟩) 1 else s
  | 5 => if rangeAdvancing s then s else switchCrag s v
  | 9 => unitEnd (publishTile s unit stRetired) 1
  | _ => s)

/-! ### Pins and supplies that make a start (R491, R522) -/

/-- The device stops: every block is in reset, the pins too, until a start. -/
def stopDevice (s : State) : State := resetDevice s

def hold (s : State) (code : Nat) : State := { s with base := { s.base with held := insertNat s.base.held code } }
def unhold (s : State) (code : Nat) : State := { s with base := { s.base with held := eraseNat s.base.held code } }

/-- A start that a supply or pin makes; none without VIN_AON. -/
def pinStart (s : State) (kind : Nat) : State := if s.base.held.contains 6 then s else deviceStart s kind

/-- VIN_AON_UP. -/
def execVinAonUp (s : State) : Out := .next (
  if s.base.held.contains 6 then deviceStart (unhold s 6) 0 else s)

/-- CORE_RAILS_UP: with VIN_AON held; a ramp out of order is noted. -/
def execCoreRailsUp (seqErr : Bool) (s : State) : Out := .next (
  if s.base.held.contains 6 then s
  else
    let s1 := unhold (unhold s 5) 2
    let s2 := if seqErr then s1.setF .basRail 0 61 61 1 else s1
    deviceStart { s2 with board := { s2.board with railsOut := [] } } 1)

/-- RESET_L_ASSERT. -/
def execResetLAssert (s : State) : Out := .next (
  if s.base.held.contains 0 then s else hold (stopDevice s) 0)

/-- RESET_L_RELEASE. -/
def execResetLRelease (s : State) : Out := .next (
  if s.base.held.contains 0 then pinStart (unhold s 0) 2 else s)

/-- PERST_L_ASSERT: in Saddle mode the PCIe function alone is reset. -/
def execPerstLAssert (s : State) : Out := .next (
  if s.base.held.contains 1 then s
  else if inSaddle s then
    let s1 := resetFunction s
    { s1 with pcie := { s1.pcie with link := false } }
  else hold (stopDevice s) 1)

/-- PERST_L_RELEASE. -/
def execPerstLRelease (s : State) : Out := .next (
  if s.base.held.contains 1 then pinStart (unhold s 1) 3 else s)

end Sys2Proof.Machine
end

