-- ==== Sys2Proof/Machine/Power.lean ====
section
/-! DEFINITION. Rails, clock references, quadrant clocks and their voltage requests, and temperature (R517 to R530). -/

namespace Sys2Proof.Machine

open Sys2Proof

/-! ### Rails (R519, R523) -/

/-- BAS_RAIL keeps the first event since VALID was cleared, and counts. -/
def recordRail (s : State) (rail : Nat) (high : Bool) : State :=
  let w := s.reg .basRail
  let w1 := if bitOf w 63 then withBit w 62 true
    else withBits (withBits (withBit w 63 true) 60 60 (if high then 1 else 0)) 59 56 rail
  s.setR .basRail 0 (satInc w1 15 0)

/-- A throttle cause of a quadrant. -/
def setThrottle (s : State) (q bit : Nat) (b : Bool) : State := s.setF .cfgQclk q bit bit (if b then 1 else 0)
def throttled (s : State) (q bit : Nat) : Bool := s.flag .cfgQclk q bit
def clockOf (s : State) (q : Nat) : Nat := s.fld .cfgQclk q 27 16
def setClock (s : State) (q mhz : Nat) : State := s.setF .cfgQclk q 27 16 mhz

/-- VIN_AON_LOW: below 2.7 V an event; below 2.4 V the Base domain resets, and the salt is lost. -/
def execVinAonLow (below24 : Bool) (s : State) : Out := .next (
  if s.base.held.contains 6 then s
  else if below24 then
    let s1 := hold (resetBase (stopDevice s)) 6
    { s1 with board := { State.reset.board with railsOut := s.board.railsOut, outside := s.board.outside } }
  else
    let s1 := pulse (recordRail s 0xB false) 240
    if starting s1 then stageFailure s1 0xC else s1)

/-- The measured difference of neighbouring core rails, in mV: the higher quadrant above 310 mV (R518). -/
def neighbourLimit (s : State) (measured : List Nat) (q : Nat) : State :=
  let m := fun (i : Nat) => measured.getD i 0
  if (neighbours q).any (fun n => m n + 310 < m q) && !throttled s q 42 then
    pulse (setClock (setThrottle s q 42 true) q 400) 244
  else s

/-- RAIL_EXCURSION: a rail out of its range for 1 us. `measured` are the core voltages in mV. -/
def execRailExcursion (rail : Fin 12) (high : Bool) (measured : List Nat) (s : State) : Out := .next (
  if s.base.held.contains 6 || unpowered s then s
  else
    let s0 := { s with board := { s.board with railsOut := insertNat s.board.railsOut rail.val } }
    let s1 := pulse (recordRail s0 rail.val high) 241
    if starting s1 then stageFailure s1 0xC
    else
      let s2 := if rail.val < 4 then setClock (setThrottle s1 rail.val 43 true) rail.val 400 else s1
      [0, 1, 2, 3].foldl (fun x q => neighbourLimit x measured q) s2)

/-- RAIL_STOP: a rail other than a core rail stays out of range for 100 us. -/
def execRailStop (rail : Fin 12) (s : State) : Out := .next (
  if rail.val < 4 || 11 ≤ rail.val || !s.board.railsOut.contains rail.val || s.base.held.contains 6 then s
  else hold (stopDevice s) 2)

/-- RAILS_RECOVERED: every rail in range and every sensor at 100 C or less, after a rail or thermal stop. -/
def execRailsRecovered (s : State) : Out := .next (
  if s.base.held.contains 2 || s.base.held.contains 3 then
    let s1 := unhold (unhold s 2) 3
    pinStart { s1 with board := { s1.board with railsOut := [] } } 1
  else s)

/-- RAIL_RETURN: a core rail back in range for 10 us, or a measured difference back within the limit. -/
def execRailReturn (q : QuadId) (neighbour : Bool) (s : State) : Out := .next (
  if neighbour then setThrottle s q.val 42 false
  else
    let s1 := { s with board := { s.board with railsOut := eraseNat s.board.railsOut q.val } }
    setThrottle s1 q.val 43 false)

/-! ### References (R517) -/

/-- Every field and Ridge port goes down with the field reference. -/
def fieldReferenceLost (s : State) : State :=
  let s1 := (List.range 8).foldl (fun x p =>
    if x.net.up.contains p then portEvent (settlePorts x (downPort x p)) p else x) s
  (List.range 4).foldl (fun x p => if ridgeUp x p then linkLost x p else x) s1

/-- The PCIe link goes down; reads that were outstanding fail by HOST_READ_FAILURE. -/
def linkReferenceLost (s : State) : State := { s with pcie := { s.pcie with link := false, l1 := false } }

/-- CLOCK_FAULT: 0 the system reference, 1 the field reference, 2 the PCIe reference. -/
def execClockFault (r : Fin 3) (s : State) : Out := .next (
  let s0 := { s with board := { s.board with outside := insertNat s.board.outside r.val } }
  if s.board.outside.contains r.val || s.base.held.contains 6 then s
  else
    let s1 := pulse s0 245
    match r.val with
    | 0 => hold (stopDevice s1) 4
    | 1 => fieldReferenceLost s1
    | _ => linkReferenceLost s1)

/-- CLOCK_RETURN: the system reference makes a start of KIND 0x1. -/
def execClockReturn (r : Fin 3) (s : State) : Out := .next (
  let s1 := { s with board := { s.board with outside := eraseNat s.board.outside r.val } }
  if r.val == 0 && s.base.held.contains 4 then pinStart (unhold s1 4) 1 else s1)

/-! ### Quadrant clocks (R520, R521, R528) -/

def fmaxReq (s : State) (q : Nat) : Nat := min (s.fld .cfgQclk q 11 0) (fmaxOf s q)
def voltage (s : State) (q : Nat) : Nat := s.fld .cfgQclk q 36 32

/-- A higher voltage is requested before the clock rises, with 20 us to settle. -/
def requestUp (s : State) (q mhz : Nat) : State :=
  let v := voltageCode mhz (gbOf s q)
  if voltage s q < v then
    { s.setF .cfgQclk q 36 32 v with board := { s.board with settling := insertNat s.board.settling q } }
  else s

/-- A write of CFG_QCLKq: REQ outside 400 to 2,000 keeps its value. -/
def writeQclk (s : State) (q : Nat) (w : SetupWrite) : State :=
  let s1 := storeSetup s .cfgQclk q w fun old new =>
    keepField (400 ≤ bitsOf new 11 0 && bitsOf new 11 0 ≤ 2000) 11 0 old new
  if clockOf s1 q < fmaxReq s1 q then requestUp s1 q (fmaxReq s1 q) else s1

/-- QCLK_REQUEST. -/
def execQclkRequest (q : QuadId) (w : SetupWrite) (s : State) : Out := .next (
  if mayReach s w.agent .cfgQclk q.val then writeQclk s q.val w else s)

/-- CLOCK_STEP: at most 100 MHz toward the target; a quadrant that is throttled or waits for its voltage stays. The
lower voltage is requested when the clock has reached its target. -/
def execClockStep (q : QuadId) (s : State) : Out := .next (
  let i := q.val
  let cur := clockOf s i
  let target := fmaxReq s i
  let held := s.fld .cfgQclk i 43 40 != 0 || s.board.settling.contains i
  if cur < target then
    if held then s
    else if voltage s i < voltageCode target (gbOf s i) then requestUp s i target
    else setClock s i (min target (cur + 100))
  else if target < cur then
    let next := max target (cur - 100)
    let s1 := setClock s i next
    if next == target then s1.setF .cfgQclk i 36 32 (voltageCode target (gbOf s i)) else s1
  else s)

/-- VOLTAGE_SETTLE. -/
def execVoltageSettle (q : QuadId) (s : State) : Out := .next
  { s with board := { s.board with settling := eraseNat s.board.settling q.val } }

/-- DELAY_MONITOR_CHECK: the hourly comparison of a quadrant. -/
def execDelayMonitorCheck (q : QuadId) (short : Bool) (s : State) : Out := .next (
  let i := q.val
  if !short || !s.base.held.isEmpty then s
  else
    let gb := gbOf s i
    if gb == 6 || voltage s i == 25 then
      let f := fmaxOf s i - 25
      pulse (publish { s with crag := { s.crag with fmax := Tbl.put s.crag.fmax i f } } 1 i 1) 246
    else
      let s1 := { s with crag := { s.crag with gb := Tbl.put s.crag.gb i (gb + 1) } }
      let s2 := s1.setF .cfgQclk i 51 48 (gb + 1)
      pulse (s2.setF .cfgQclk i 36 32 (max (voltage s i) (voltageCode (clockOf s i) (gb + 1)))) 246)

/-! ### Temperature (R524) -/

def signed8 (i : Int) : Nat := (i % 256).toNat

/-- The hottest sensor of a quadrant: its index within the quadrant and its reading. -/
def hottest (readings : List Int) (q : Nat) : Nat × Int :=
  (List.range 16).foldl (fun (best : Nat × Int) i =>
    let r := readings.getD (16 * q + i) 0
    if best.2 < r then (i, r) else best) (0, readings.getD (16 * q) 0)

/-- The hottest reading of the last sample, whether or not the eight bits of HOT can show it (log 42). -/
def hotOf (s : State) (q : Nat) : Int := Tbl.getD s.board.hot 0 q

/-- The highest reading since MAXSEEN was cleared. -/
def peakOf (s : State) (q : Nat) : Int := Tbl.getD s.board.peak (-128) q

/-- A reading in a signed eight-bit field; one outside -128 to 127 has no code there, and the field is free (log 42). -/
def showReading (s : State) (q hi lo : Nat) (t : Int) : State :=
  if -128 ≤ t && t ≤ 127 then s.setF .cfgTherm q hi lo (signed8 t)
  else (takeFree s).2.setF .cfgTherm q hi lo (bitsOf (takeFree s).1 7 0)

/-- HOT, SENSOR, MAXSEEN and WARN. -/
def readSensors (readings : List Int) (s : State) (q : Nat) : State :=
  let (i, hot) := hottest readings q
  let s0 := { s with board := { s.board with hot := Tbl.putD s.board.hot 0 q hot } }
  let s1 := (showReading s0 q 7 0 hot).setF .cfgTherm q 11 8 i
  let s2 := if peakOf s q < hot then
      showReading { s1 with board := { s1.board with peak := Tbl.putD s1.board.peak (-128) q hot } } q 31 24 hot
    else s1
  let warn := signed 8 (s.fld .cfgTherm q 47 40)
  let above := decide (warn ≤ hot)
  let s3 := { s2 with board := { s2.board with
    warned := if above then insertNat s2.board.warned q else eraseNat s2.board.warned q } }
  if above && !s.board.warned.contains q then pulse s3 242 else s3

/-- The throttle by temperature: from 125 C until 122 C or less. -/
def throttleHot (s : State) (q : Nat) : State :=
  let hot := hotOf s q
  if 125 ≤ hot && !throttled s q 40 then pulse (setThrottle s q 40 true) 243
  else if hot ≤ 122 && throttled s q 40 then setThrottle s q 40 false
  else s

/-- The throttle by a neighbour's temperature: from a difference above 45 C until 42 C or less. -/
def throttleNeighbour (s : State) (q : Nat) : State :=
  let gap := (neighbours q).foldl (fun (g : Int) n => max g (hotOf s q - hotOf s n)) 0
  if 45 < gap && !throttled s q 41 then pulse (setThrottle s q 41 true) 244
  else if gap ≤ 42 && throttled s q 41 then setThrottle s q 41 false
  else s

/-- A step down of a quadrant that its temperature throttles. -/
def stepDown (s : State) (q : Nat) : State :=
  if throttled s q 40 || throttled s q 41 then setClock s q (min (clockOf s q) (max 400 (clockOf s q - 100))) else s

/-- THERMAL_SAMPLE: the 64 readings, sensor i of tile t at 4t + i. -/
def execThermalSample (readings : List Int) (s : State) : Out := .next (
  if readings.length != 64 || s.base.held.contains 6 || unpowered s then s
  else
    let each := fun (f : State → Nat → State) (x : State) => [0, 1, 2, 3].foldl f x
    let s1 := each stepDown (each throttleNeighbour (each throttleHot (each (readSensors readings) s)))
    if readings.any (fun r => r < -70 || 150 < r) then tamper s1 4 else s1)

/-- THERMAL_STOP: at or above 135 C for 1 ms at 400 MHz. -/
def execThermalStop (q : QuadId) (s : State) : Out := .next (
  if hotOf s q.val < 135 || clockOf s q.val != 400 || s.base.held.contains 6 then s
  else
    let s1 := recordRail s 0xF true
    hold (stopDevice { s1 with base := { s1.base with thermal := true } }) 3)

end Sys2Proof.Machine
end

