-- ==== Sys2Proof/Machine/Pins.lean ====
section
/-! DEFINITION. The I3C target and the JTAG test access port (R526, R535, R536, R547). -/

namespace Sys2Proof.Machine

open Sys2Proof

/-- The I3C target answers: VIN_AON and VDDIO_18 are in range. -/
def i3cAnswers (s : State) : Bool := !s.base.held.contains 6 && !s.board.railsOut.contains 0xA

/-- I3C_WRITE: two bytes set the register offset; further ones are ignored. -/
def execI3cWrite (bytes : List Byte) (s : State) : Out := .next (
  match bytes with
  | lo :: hi :: _ =>
    if i3cAnswers s then { s with board := { s.board with i3cOffset := lo.toNat + 256 * hi.toNat } } else s
  | _ => s)

/-- A register of the BAS_ and SAD_ blocks at an I3C offset; 0 where none lies. -/
def i3cRegister (s : State) (off : Nat) : Word :=
  match regAt (0x11000 + off) with
  | some (n, i) => if off < 0x2000 then s.reg n i else 0
  | none => 0

/-- I3C_READ. -/
def execI3cRead (s : State) : Out := .next (
  if i3cAnswers s then { s with board := { s.board with i3cOut := some (i3cRegister s s.board.i3cOffset) } } else s)

/-- I3C_TIMEOUT: the transfer ends, and BAS_RAIL.I3CTO counts it. -/
def execI3cTimeout (s : State) : Out := .next (
  if i3cAnswers s then s.setR .basRail 0 (satInc (s.reg .basRail) 31 16) else s)

/-- I3C_ADDRESS_ASSIGNMENT: SETDAA or ENTDAA. -/
def execI3cAddressAssignment (a : Fin 128) (s : State) : Out := .next (
  if i3cAnswers s then { s with board := { s.board with i3cAddress := some a.val } } else s)

/-- JTAG_INSTRUCTION: EXTEST, SAMPLE/PRELOAD, CLAMP and HIGHZ act only while RESET_L is low and every rail is in
range, and otherwise as BYPASS. -/
def execJtagInstruction (i : JtagInstr) (s : State) : Out := .next (
  let boundary := s.base.held.contains 0 && !s.base.held.contains 6 && s.board.railsOut.isEmpty
  let acts := match i with
    | .idcode | .bypass => i
    | _ => if boundary then i else .bypass
  { s with board := { s.board with jtag := acts } })

/-- The identification code that IDCODE shifts out. -/
def jtagIdcode : BitVec 32 := 0x374209CB#32

/-- What passes while no command waits: one nanosecond of the PTP clock, once the device PLLs have locked at
the end of HOLD and while nothing holds the device (R473, R493; log 2). -/
def idle (s : State) : State := if 1 ≤ bootState s && s.base.held.isEmpty then tickPhc s else s

end Sys2Proof.Machine
end

