-- ==== Sys2Proof/Machine/SetupAccess.lean ====
section
/-! DEFINITION. Reads and writes of the setup registers by offset: the write of any register with what it starts,
the dispatch table, and the setup accesses of a core (R178, R179, R193, R428, R545 to R552). -/

namespace Sys2Proof.Machine

open Sys2Proof

/-! ### Writes -/

/-- A write of VALID that also clears counts of the same record. -/
def clearCounts (s : State) (n : RegName) (i hi : Nat) (w : SetupWrite) : State :=
  let s1 := storeSetup s n i w
  if acts w 63 then s1.setF n i hi 0 0 else s1

/-- Byte fields that keep their value where a write exceeds their maximum (R525). -/
def keepBytes (top : Nat) : List Nat → Word → Word → Word
  | [], _, new => new
  | j :: js, old, new =>
    keepBytes top js old (keepField (bitsOf new (8 * j + 7) (8 * j) ≤ top) (8 * j + 7) (8 * j) old new)

/-- A write of CFG_GDTi (R178, R179): KIND may become the entry's reset kind or 0b10; VECTOR is set all the same. -/
def writeGdt (s : State) (i : Nat) (w : SetupWrite) : State :=
  storeSetup s .cfgGdt i w fun old new =>
    keepField (bitsOf new 17 16 == gdtKind i || bitsOf new 17 16 == 2) 17 16 old new

/-- MOR_HEAPBASE, MOR_HEAPSIZE and MOR_AREA ignore writes unless PHASE is OFF (R327). -/
def writeWindow (s : State) (n : RegName) (w : SetupWrite) : State :=
  if phase s != 0 then s
  else countFree (storeSetup s n 0 w fun old new =>
    if n == .morHeapsize then keepField (bitsOf new 19 0 ≤ 0x80000) 19 0 old new else new)

/-- A write of 1s to CFG_THERMq.MAXSEEN resets it to 0x80 (R524; log 29). -/
def writeTherm (s : State) (q : Nat) (w : SetupWrite) : State :=
  let s1 := storeSetup s .cfgTherm q { w with value := w.value &&& ~~~ 0xFF000000#64 }
  if wfld w 31 24 != 0 then
    State.setF { s1 with board := { s1.board with peak := Tbl.del s1.board.peak q } } .cfgTherm q 31 24 0x80
  else s1

/-- The write of a register, with the actions that it starts. -/
def writeReg (s : State) (n : RegName) (i : Nat) (w : SetupWrite) : State :=
  match n with
  | .basRail => clearCounts s n i 15 w
  | .basFilt => storeSetup s n i w (keepBytes 25 (List.range 6))
  | .sadCtl => writeSadCtl s w
  | .crgRoster => writeCrgRoster s w
  | .morCtl => writeMorCtl s w
  | .morHeapbase | .morHeapsize | .morArea => writeWindow s n w
  | .morHint => writeMorHint s w
  | .evcGcfg => writeGcfg s i w
  | .evcPend => writePend s i w
  | .evcRaise => writeRaise s w
  | .evcCpwr => writeCpwr s i w
  | .trkCtl => if h : i < 32 then writeTrkCtl s ⟨i, h⟩ w else s
  | .trkDivrec => writeTrkDivrec s i w
  | .hreCtl => writeHreCtl s w
  | .hreSqbase => writeSqbase s i w
  | .hreSqcfg => writeSqcfg s i w
  | .hreCqcfg => writeCqcfg s i w
  | .trvCfg => storeSetup s n i w (fun o v => keepField (bitsOf v 15 0 != 0) 15 0 o v)
  | .trvTmr => storeSetup s n i w (fun o v => keepField (8 ≤ bitsOf v 31 0) 31 0 o v)
  | .trvCtl => writeTrvCtl s i w
  | .netCfg => writeNetCfg s w
  | .netPhcadj => writePhcadj s w
  | .netSactl => writeSactl s w
  | .netSakey => writeSakey s i w
  | .netPcfg => writePcfg s i w
  | .netPcnt => writePcnt s i w
  | .rdgCfg => writeRdgCfg s w
  | .rdgRange => writeRdgRange s w
  | .dmcRop => writeRop s i w
  | .dmcCtl => writeDmcCtl s i w
  | .dmcInteg | .dmcDcerr | .dmcCherr | .cfgTserr | .cfgL1err => clearCounts s n i 15 w
  | .mcPerr => clearCounts s n i 31 w
  | .cfgNiwlim => storeSetup s n i w (fun o v => keepField (1 ≤ bitsOf v 9 0 && bitsOf v 9 0 ≤ 512) 9 0 o v)
  | .cfgCrest => writeCrest s w
  | .cfgOper => writeCfgOper s w
  | .cfgStart => writeCfgStart s w
  | .cfgUnitctl => writeUnitctl s w true
  | .cfgGfilt => storeSetup s n i w (keepBytes 250 (List.range 8))
  | .cfgSnap => writeSnap s i w
  | .cfgCrpool => writeCrpool s i w
  | .cfgBarLo | .cfgBarHi => recheckBarrier (storeSetup s n i w) i
  | .cfgQclk => writeQclk s i w
  | .cfgTherm => writeTherm s i w
  | .cfgTsrep => writeTsrep s i w
  | .cfgTlbinv => writeTlbinv s i w
  | .mcCtl => if h : i < 96 then writeMcCtl s ⟨i, h⟩ w else s
  | .cfgGdt => writeGdt s i w
  | .msfGen | .msfCurrent | .msfChange | .basBoot | .basBootsel | .sadReason | .crgMbox | .crgTpol | .crgTlog
  | .crgStat | .cqxCmd | .cqxStat | .morStat | .morFinlist | .morFinmbox | .morCnta | .morCntb | .evcGstat
  | .evcPsum | .trkMode | .trkSelf | .trkEntry | .trkStat | .trkDiv | .hreHwbase | .hreDbbase | .hreStat
  | .hreDevtab | .hreSqstat | .hreCqbase | .trvSrc | .trvDst | .trvOff | .trvCnta | .trvCntb | .trvStep0
  | .trvStep1 | .trvStep2 | .trvAux | .trvSb | .trvStat | .trvRes | .netPhc | .netTsmbox | .netEqcfg | .rdgMbox
  | .rdgStat | .dmcWaymaskLo | .dmcWaymaskHi | .dmcRbase | .dmcRstat | .dmcIntaddr | .dmcDceaddr | .dmcCheaddr
  | .cfgUnitstat | .cfgTsrstat | .cfgTseaddr | .cfgXtab | .cfgXfast | .cfgXdbl | .cfgXmc | .cfgMcstat
  | .cfgTlbstat | .mcPatchVersion | .mcResult | .cfgL1eaddr | .cfgSproot => storeSetup s n i w

/-- A write at an offset of the device region. The table, an offset with no register, a register of a unit that
does not answer, one hidden from the host and a checker's register ignore it (R31, R377, R546, R548, R552). -/
def setupWrite (s : State) (off : Nat) (w : SetupWrite) : State :=
  match regAt off with
  | none => s
  | some (n, i) => if mayReach s w.agent n i then writeReg s n i w else s

/-- REGISTER_WRITE. -/
def execRegisterWrite (off : Nat) (w : SetupWrite) (s : State) : Out := .next (setupWrite s off w)

/-- GDT_WRITE. -/
def execGdtWrite (i : Fin 4096) (w : SetupWrite) (s : State) : Out := .next (
  if mayReach s w.agent .cfgGdt i.val then writeReg s .cfgGdt i.val w else s)

/-! ### Reads -/

/-- The bit of EVC_PSUM for each word of the array of a core (R400). -/
def pendSummary (k : Core) : Word :=
  (List.range 16).foldl (fun w i => withBit w i (Tbl.getD k.pend 0 i != 0)) 0

/-- What an agent reads at a multiple of 8 of the setup space. TRK_SELF is a core's own number, or its lead's; EVC_PEND
and EVC_PSUM are a core's own; a checker's register reads as the lead's; the host reads 0 of what it does not see, MSF_CURRENT
among it (R46, R377, R400, R546, R548, R552). -/
def readSetup (s : State) (ag : Agent) (off : Nat) : Word :=
  if off < 0x10000 then massifWord s off
  else match regAt off with
    | none => 0
    | some (n, i) =>
      if !regAnswers s n i || (ag == .host && hostBlind n) then 0
      else match n, ag with
        | .trkSelf, .core c => BitVec.ofNat 64 (leadOf s c).val
        | .evcPend, .core c => Tbl.getD (s.core c).pend 0 i
        | .evcPsum, .core c => pendSummary (s.core c)
        | _, _ => s.reg n (if perCore n i then leadOfNat s i else i)

def setupRead (s : State) (c : CoreId) (off : Nat) : Word := readSetup s (.core c) off

/-! ### Requests of the host (R20, R427, R428, R447) -/

/-- The word at a multiple of 8 of BAR2: the MSI-X table of 64 vectors, the Pending Bit Array at 0x2000, else 0 (R427;
the layout of an entry is that of PCI Express, log 30). -/
def msixWord (s : State) (off : Nat) : Word :=
  let e := Tbl.getD s.pcie.msix MsixEntry.empty (off / 16)
  if off == 0x2000 then s.pcie.pba.foldl (fun w c => withBit w c true) 0
  else if 0x400 ≤ off then 0
  else if off % 16 == 0 then e.addr
  else BitVec.ofNat 64 (e.data.toNat + (if e.masked then 2 ^ 32 else 0))

/-- The part of a word that an aligned read of 4 or 8 bytes takes. -/
def partOf (w : Word) (off len : Nat) : Word :=
  if len == 8 then w else BitVec.ofNat 64 (if off % 8 == 4 then bitsOf w 63 32 else bitsOf w 31 0)

/-- What a host request gets: data for a naturally aligned read of 4 or 8 bytes of BAR0 or BAR2, and Unsupported Request
for another size, another address, or any request in D3hot (R20, R428; BAR2 sizes and D3hot as in PCI Express, log 30). -/
def hostRead (s : State) : HostRequest → HostAnswer
  | .bar0 off len =>
    if (len == 4 || len == 8) && off % len == 0 && off < 0x400000 && !s.pcie.d3 then
      .data (partOf (readSetup s .host (off / 8 * 8)) off len)
    else .unsupported
  | .bar2 off len =>
    if (len == 4 || len == 8) && off % len == 0 && off < 0x4000 && !s.pcie.d3 then
      .data (partOf (msixWord s (off / 8 * 8)) off len)
    else .unsupported
  | .other _ => .unsupported

/-- HOST_UNSUPPORTED_REQUEST: a host request that changes nothing in the device gets its completion (R20). The table has
no row for a host read that is answered: this command takes it too (log 30). -/
def execHostUnsupportedRequest (r : HostRequest) (s : State) : Out := .next (
  if !s.pcie.link then s
  else
    let s1 := match r with | .bar0 off _ => if off < 0x10000 then (takeFree s).2 else s | _ => s
    { s1 with pcie := { s1.pcie with answer := some (hostRead s r) } })

/-- The offset operand of a setup access (R193). -/
def setupOffset (b : Word) : M Nat :=
  if !isFix b then operandFault b
  else
    let v := fixVal b
    if v < 0 || 0xFFFFFC < v then trapM (wordTrap .pointerFormat b 10 0)
    else if v.toNat % 4 != 0 then trapM { cause := .misaligned, step := 10, detail := 4 }
    else pure v.toNat

/-- The half of a setup word. -/
def halfOf (w : Word) (high : Bool) : Word := fixN (if high then bitsOf w 63 32 else bitsOf w 31 0)

/-- SETUPRD: the low half captures the register, of which the next setup access may read the other half. Reads of
the table while its GENERATION is 1 take a free value each (log 29). -/
def bodySetuprd (l : Long) : CoreId → M Flow := bodyU .setuprd l fun c b => do
  let off ← setupOffset b
  drainM c
  let at8 := off / 8 * 8
  let high := off % 8 == 4
  let k ← getC c
  let now ← (fun s => .ok (setupRead s c at8, if at8 < 0x10000 then (takeFree s).2 else s) : M Word)
  let w := match k.setupCap with
    | some (o, v) => if high && o == at8 then v else now
    | none => now
  modC c (fun k => { k with setupHeld := none, setupCap := if high then none else some (at8, w) })
  return halfOf w high
def execSetuprd (a : At) (l : Long) (s : State) : Out := .next (runLong s a .setuprd l (bodySetuprd l))

/-- SETUPWR: the low half is held; a high half commits it as one write of the whole register, or else writes the
high half alone. -/
def bodySetupwr (l : Long) : CoreId → M Flow := bodyC .setupwr l fun c a b => do
  if !isFix a || fixVal a < 0 || 0xFFFFFFFF < fixVal a then operandFault a
  else
    let off ← setupOffset b
    drainM c
    let at8 := off / 8 * 8
    let v := valOf a
    let k ← getC c
    if off % 8 == 0 then
      modC c (fun k => { k with setupCap := none, setupHeld := some (at8, BitVec.ofNat 64 v) })
    else
      modC c (fun k => { k with setupCap := none, setupHeld := none })
      let high : SetupWrite := ⟨.core c, .high, BitVec.ofNat 64 (v * 2 ^ 32)⟩
      let w := match k.setupHeld with
        | some (o, lo) => if o == at8 then ⟨.core c, .full, BitVec.ofNat 64 (v * 2 ^ 32 + lo.toNat)⟩ else high
        | none => high
      fun s => .ok ((), setupWrite s at8 w)
def execSetupwr (a : At) (l : Long) (s : State) : Out := .next (runLong s a .setupwr l (bodySetupwr l))

end Sys2Proof.Machine
end

