-- ==== Sys2Proof/Machine/Requests.lean ====
section
/-! DEFINITION. Requests of masters at the blocks that hold their addresses, with the responses and the ends of what they
wait for (R18, R23, R24, R40, R77 to R81, R295, R302, R306, R318). -/

namespace Sys2Proof.Machine

open Sys2Proof

/-! ### Granules of a span -/

/-- Two spans meet in a granule (R306). -/
def sameGranule (a n b k : Nat) : Bool := a / 16 ≤ (b + k - 1) / 16 && b / 16 ≤ (a + n - 1) / 16

/-- Whether a span covers the granule of an address whole (R78). -/
def coversGranule (pa n a : Nat) : Bool := pa ≤ a / 16 * 16 && a / 16 * 16 + 16 ≤ pa + n

/-- The checks of a place that a request makes, on granules of its span that satisfy p. -/
def checksAt (s : State) (place : CheckPlace) (src pa n : Nat) (p : Nat → Bool) (xs : List CairnCheck) : State :=
  xs.foldl (fun x k =>
    if k.place == place && sameGranule pa n k.pa 1 && p k.pa then storageCheck x k.pa src k.flips else x) s

/-- The merge of a partial write checks the codeword that it overwrites in part (R78). -/
def mergeChecks (s : State) (pa n : Nat) (xs : List CairnCheck) : State :=
  checksAt s .merge 3 pa n (fun a => !coversGranule pa n a) xs

/-- A write meets the check of its block as it arrives over the mesh; what it stores in error is poisoned (R77, R79). -/
def arrivalChecks (s : State) (pa n : Nat) (xs : List CairnCheck) : State := checksAt s .mesh 2 pa n (fun _ => true) xs

/-- What a master finds in the data that reaches it over the mesh: a core logs in its own record; whether a granule came
uncorrectable (R79, R82). -/
def receiptChecks (s : State) (m : Master) (pa n : Nat) (xs : List CairnCheck) : State × Bool :=
  xs.foldl (fun r k =>
    if k.place == .mesh && sameGranule pa n k.pa 1 then
      let bad := match findingError 2 (judge k.flips).1 with | some e => e.kind == 3 | none => false
      (match m with | .core c => coreCheck r.1 c 2 k.pa k.flips | _ => r.1, r.2 || bad)
    else r) (s, false)

/-! ### A request at its block -/

/-- Whether every byte of a span lies in memory that answers (R40). -/
def spanAccessible (s : State) (pa n : Nat) : Bool := accessible s pa && (n == 0 || accessible s (pa + n - 1))

/-- What a request waits for: a slot of its master, an earlier one of that master that waits for one, or the row or
channel of its span (R24, R295, R318). A read that only waits for its channel takes its slot and waits there. -/
def requestWaits (s : State) : MemReq → Bool
  | .store _ _ => false
  | .read m pa n => !hasSlot s m || rowBusy s pa n
  | .write m pa bs => !hasSlot s m || rowBusy s pa bs.length || (isMemory pa && spanState s pa bs.length == .stalled)

/-- Entry i of a core's store buffer reaches its block: not before an earlier entry to the same granule, and not while
its block makes it wait (R306, R307). -/
def storeArrives (s : State) (c : CoreId) (i : Nat) (xs : List CairnCheck) : State :=
  let k := s.core c
  match k.sbuf[i]? with
  | none => s
  | some e =>
    let n := e.bytes.length
    if (k.sbuf.take i).any (fun x => sameGranule x.pa x.bytes.length e.pa n) || writeWaits s c e.pa n then s
    else
      let s1 := if accessible s e.pa then mergeChecks s e.pa n xs else s
      let s2 := performStore (s1.modCore c (fun k => { k with sbuf := dropAt k.sbuf i })) c e
      mirror (if accessible s e.pa then arrivalChecks s2 e.pa n xs else s2) c

/-- The lines of a span that no deep cache holds: their channels read them, for the class of the master (R299, R301). -/
def missingLines (s : State) (pa n : Nat) : List Nat :=
  match channelOfPa pa with
  | some q => (linesOf pa n).filter (fun l => !servedHere (s.deepOf q) l)
  | none => []

def askChannel (s : State) (cls line : Nat) : State :=
  match channelOfPa (line * 64) with
  | some q =>
    let d := s.deepOf q
    if d.reads.any (fun x => x.1 == line) then s else s.setDeep q { d with reads := d.reads ++ [(line, cls)] }
  | none => s

/-- A read of memory: one that misses in its deep cache waits for the channel; poison among what it gets is consumed
(R40, R79, R81, R306). -/
def readArrives (s : State) (m : Master) (slot pa n : Nat) (xs : List CairnCheck) : State :=
  if !spanAccessible s pa n then addFlight s ⟨m, slot, pa, n, false, [], true⟩
  else
    let cls := classOfMaster m pa
    match missingLines s pa n with
    | [] =>
      let s1 := checksAt (cacheTouch s cls pa n false) .block 0 pa n (fun _ => true) xs
      let (s2, bad) := receiptChecks (consumeSpan s1 pa n) m pa n xs
      addFlight s2 ⟨m, slot, pa, n, false, readBytes s2 pa n, bad || spanPoisoned s2 pa n⟩
    | ls => addFlight (ls.foldl (fun x l => askChannel x cls l) s) ⟨m, slot, pa, n, true, [], false⟩

/-- A write to memory: the words that it overwrites are logged at the engine while the barrier is on (R335). -/
def writeArrives (s : State) (m : Master) (slot pa : Nat) (bs : List Byte) (xs : List CairnCheck) : State :=
  if !spanAccessible s pa bs.length then addFlight s ⟨m, slot, pa, bs.length, false, [], true⟩
  else
    let s1 := mergeChecks s pa bs.length xs
    let (s2, e) := performWrite (logSpan s1 pa bs.length) (classOfMaster m pa) none pa bs
    addFlight (arrivalChecks s2 pa bs.length xs) ⟨m, slot, pa, bs.length, false, [], e⟩

/-! ### The device region and the host window (R18, R58; log 38) -/

/-- The masters that reach the host window: their host data is the host's, a free value here. -/
def reachesHost : Master → Bool
  | .core _ | .traverse _ | .hre => true
  | .moraine _ | .cirque _ | .crag | .ridge _ => false

/-- n bytes that the host gives. -/
def hostBytes (s : State) (n : Nat) : List Byte := (List.range n).map (fun i => BitVec.ofNat 8 (Config.freeWord (s.free + i)).toNat)

def foreignReadArrives (s : State) (m : Master) (slot pa n : Nat) : State :=
  let refused := addFlight s ⟨m, slot, pa, n, false, [], true⟩
  if inDevice pa then
    match m with
    | .core c =>
      if n == 8 && pa % 8 == 0 then
        addFlight s ⟨m, slot, pa, n, false, bytesOfWord (setupRead s c (pa - 0x800000000)), false⟩
      else refused
    | _ => refused
  else if inHostWindow pa && reachesHost m && s.pcie.link then
    addFlight { s with free := s.free + n } ⟨m, slot, pa, n, false, hostBytes s n, false⟩
  else refused

def foreignWriteArrives (s : State) (m : Master) (slot pa : Nat) (bs : List Byte) : State :=
  let fin := fun (x : State) (e : Bool) => addFlight x ⟨m, slot, pa, bs.length, false, [], e⟩
  if inDevice pa then
    match m with
    | .core c =>
      if bs.length == 8 && pa % 8 == 0 then
        fin (setupWrite s (pa - 0x800000000) ⟨.core c, .full, wordOfBytes bs⟩) false
      else fin s true
    | _ => fin s true
  else if inHostWindow pa && reachesHost m then fin (sendHost s (hostAddr s (pa - 0x80000000000)) bs) false
  else fin s true

/-! ### The queue of requests (R24) -/

def performRequest (s : State) (r : MemReq) (xs : List CairnCheck) : State :=
  match r with
  | .store c i =>
    match sourceCore s c with
    | some k => storeArrives s k i xs
    | none => s
  | .read m pa n =>
    match freeSlot s m with
    | some i => if isMemory pa then readArrives s m i pa n xs else foreignReadArrives s m i pa n
    | none => s
  | .write m pa bs =>
    match freeSlot s m with
    | some i => if isMemory pa then writeArrives s m i pa bs xs else foreignWriteArrives s m i pa bs
    | none => s

/-- A request is performed, or waits behind those that wait. -/
def arrive (s : State) (e : MemReq × List CairnCheck) : State :=
  if requestWaits s e.1 then { s with queued := s.queued ++ [e] } else performRequest s e.1 e.2

/-- The requests that wait try again, in their order. -/
def serveQueued (s : State) : State := s.queued.foldl arrive { s with queued := [] }

def requestAddress : MemReq → Nat
  | .store _ _ => 0
  | .read _ pa _ => pa
  | .write _ pa _ => pa

/-- MEMORY_REQUEST_ARRIVAL. -/
def execMemoryRequestArrival (r : MemReq) (f : List CairnCheck) (s : State) : Out :=
  if physTop ≤ requestAddress r then .fault (.noSuchAddress (requestAddress r)) else .next (arrive (serveQueued s) (r, f))

/-- MEMORY_RESPONSE: the response of a slot returns and the slot frees. -/
def execMemoryResponse (m : Master) (slot : Nat) (s : State) : Out := .next (serveQueued
  { s with flights := s.flights.filter (fun f =>
      f.waiting || !(slotHolder f.master == slotHolder m && f.slot == slot)) })

/-- ROW_REPAIR_END: the spare stands in the row's place, and SPARE_ROWS is published (R295). -/
def execRowRepairEnd (t : TileId) (s : State) : Out := .next (
  match Tbl.get? s.rowRepair t.val with
  | none => s
  | some row =>
    let s1 := { s with
      rowRepair := Tbl.del s.rowRepair t.val
      repaired := Tbl.put s.repaired t.val (insertNat (repairedRows s t.val) row) }
    serveQueued (publish ((s1.setF .cfgTsrstat t.val 63 63 0).setF .cfgTsrstat t.val 7 0 1) 2 t.val 1))

/-- EVICTION_WRITEBACK: the oldest entry of the eviction buffer goes to the channel, or its write response returns
(R302). -/
def execEvictionWriteback (q : QuadId) (s : State) : Out := .next (
  let d := s.deepOf q.val
  if s.online (uChan q.val) && !d.retraining then serveQueued (s.setDeep q.val (issueEvicted d)) else s)

/-- RETRAINING_END (R318). -/
def execRetrainingEnd (q : QuadId) (s : State) : Out := .next (serveQueued (
  s.setDeep q.val { s.deepOf q.val with retraining := false }))

end Sys2Proof.Machine
end

