-- ==== Sys2Proof/Machine/Prefix.lean ====
section
/-! DEFINITION. The repeat prefix (R139 to R146), the single step of a debugger (R390), and the retries of a
message that waits for room in its mailbox (R416, R441, R484). -/

namespace Sys2Proof.Machine

open Sys2Proof

/-- The body of a long operation. `len` is the length of the whole instruction. -/
def bodyOf (a : At) (op : Opcode) (l : Long) (len : Nat) : CoreId → M Flow :=
  match op with
  | .mov => bodyMov l
  | .st => bodySt l
  | .swap => bodySwap l
  | .ldb => bodyLdb a l
  | .stb => bodyStb l
  | .ldbit => bodyLdbit l
  | .stbit => bodyStbit l
  | .mfc => bodyMfc l
  | .mtc => bodyMtc l
  | .setuprd => bodySetuprd l
  | .setupwr => bodySetupwr l
  | .add => bodyAdd l
  | .sub => bodySub l
  | .mul => bodyMul l
  | .div => bodyDiv l
  | .rem => bodyRem l
  | .neg => bodyNeg l
  | .abs => bodyAbs l
  | .cmp => bodyCmp l
  | .addto => bodyAddto l
  | .subto => bodySubto l
  | .and => bodyAnd l
  | .or => bodyOr l
  | .xor => bodyXor l
  | .andn => bodyAndn l
  | .shl => bodyShl l
  | .shr => bodyShr l
  | .sar => bodySar l
  | .popc => bodyPopc l
  | .clz => bodyClz l
  | .parity => bodyParity l
  | .bitrev => bodyBitrev l
  | .crcstep => bodyCrcstep l
  | .fadd => bodyFadd l
  | .fsub => bodyFsub l
  | .fmul => bodyFmul l
  | .fdiv => bodyFdiv l
  | .fsqrt => bodyFsqrt l
  | .fcmp => bodyFcmp l
  | .fcvt => bodyFcvt l
  | .cons => bodyCons l
  | .car => bodyCar l
  | .cdr => bodyCdr l
  | .rplaca => bodyRplaca l
  | .rplacd => bodyRplacd l
  | .allocv => bodyAllocv l
  | .alloci => bodyAlloci l
  | .allocb => bodyAllocb l
  | .lenof => bodyLenof l
  | .classof => bodyClassof l
  | .idhash => bodyIdhash l
  | .weakref => bodyWeakref l
  | .pin => bodyPin l
  | .unpin => bodyUnpin l
  | .bitaddr => bodyBitaddr l
  | .tagset => bodyTagset l
  | .tagof => bodyTagof l
  | .tageq => bodyTageq l
  | .classis => bodyClassis l
  | .eq => bodyEq l
  | .eql => bodyEql l
  | .casw => bodyCasw l
  | .casg => bodyCasg l
  | .swpg => bodySwpg l
  | .faddw => bodyFaddw l
  | .bset => bodyBset l
  | .bclr => bodyBclr l
  | .btest => bodyBtest l
  | .bmov => bodyBmov l
  | .band => bodyBand l
  | .bor => bodyBor l
  | .bxor => bodyBxor l
  | .jmp => bodyJmp l
  | .call => bodyCall l len
  | .calln => bodyCalln l len
  | .ret => bodyRet l
  | .retn => bodyRetn l
  | .rett => bodyRett l
  | .rete => bodyRete l
  | .trap => bodyTrap l
  | .loop => bodyLoop l len
  | .loopx => bodyLoopx l
  | .savelo => bodySavelo l
  | .savehi => bodySavehi l
  | .restlo => bodyRestlo a l
  | .resthi => bodyResthi a l
  | .spillw => bodySpillw l
  | .fillw => bodyFillw l
  | .space => bodySpace l
  | .fence => bodyFence l
  | .barrier => bodyBarrier l len
  | .wait => bodyWait l
  | .eoin => bodyEoin l
  | .eoif => bodyEoif l
  | .niwopen => bodyNiwopen l
  | .niwclose => bodyNiwclose l
  | .trvgo => bodyTrvgo l
  | .cqlook => bodyCqlook l
  | .cqins => bodyCqins l
  | .cqdel => bodyCqdel l
  | .crgpost => bodyCrgpost l

/-! ### The prefixed operation -/

/-- The PFX parcel as a number (R139). -/
def pfxWord (p : Pfx) : Nat :=
  0xFE * 2 ^ 23 + p.cond.toNat * 2 ^ 13 + (if p.rep then 2 ^ 12 else 0) + p.rc.toNat * 2 ^ 7 + p.reserved.toNat

/-- Parcels after the PFX. The length of a second PFX counts no extension word. -/
def pfxParcels : PfxBody → Nat
  | .long code l => if code.toNat == 0xFE then 1 else l.parcels
  | .pair ext => if ext then 2 else 1

/-- The field checks of the PFX (R140, R127). -/
def pfxFieldsOk (p : Pfx) (l : Long) : Bool :=
  let always := p.cond.toNat / 256 == 0
  p.reserved == 0 && condOk p.cond.toNat && (p.rep || (p.rc == 0 && !always)) && (always || l.cc == 0) && p.rc != 24

/-- The repeat rules (R141). RD of CASG and SWPG names a pair of registers (R174). -/
def repeatOk (p : Pfx) (op : Opcode) (l : Long) : Bool :=
  let pair := (op == .casg || op == .swpg) && l.rd.toNat + 1 == p.rc.toNat
  let named := match op.form with | .R | .U | .W => l.rd == p.rc || pair | _ => false
  op.code / 16 ≤ 7 && !named && !(l.mode == 6 && l.rx == p.rc.toNat)

/-- The condition: of the PFX, or CC where that is always; the fields are such that one of the two is always. -/
def pfxHolds (k : Core) (p : Pfx) (l : Long) : Bool := condHolds k p.cond.toNat && ccHolds k l.cc.toNat

/-- The first parcel of the instruction in the DETAIL of a decode fault (R228). -/
def pfxDetail (p : Pfx) : Stop → Stop
  | .trap t =>
    if t.cause == .illegalOp || t.cause == .reservedField || t.cause == .illegalRepeat then
      .trap { t with detail := pfxWord p } else .trap t
  | x => x

/-- A repeat ends when the count in RC is 0, or the condition false as the bits then stand (R142). -/
def repeatEnds (k : Core) (p : Pfx) (l : Long) : Bool :=
  let n := k.getReg p.rc.toNat
  (isFix n && valOf n == 0) || !pfxHolds k p l

/-- RC as an iteration retires: one less than what it then holds (R142). Of a word other than T.FIX, which the operation
itself wrote there, the manual states no difference: a free value (log 41). -/
def countDown (s : State) (c : CoreId) (rc : Nat) : State :=
  let n := (s.core c).getReg rc
  if isFix n then s.modCore c (fun k => k.setReg rc (fix (fixVal n - 1)))
  else (takeFree s).2.modCore c (fun k => k.setReg rc (takeFree s).1)

/-- The iterations (R142, R143): the tests, then a pending event, for which the core stands at the PFX again, then the
operation. A fault leaves its own iteration without effect. A command performs as many iterations as RC held at its
start (log 41). -/
def iterate (p : Pfx) (l : Long) (len : Nat) (body : CoreId → M Flow) (c : CoreId) : Nat → Bool → State → Flow × State
  | 0, _, s => (if repeatEnds (s.core c) p l then .seq else .stay, s)
  | n + 1, first, s =>
    if repeatEnds (s.core c) p l then (.seq, s)
    else if !first && takesEvent s c then (.stay, s)
    else match body c s with
      | .error x => (.stay, raiseStop s c (pfxDetail p x) (s.core c).pc ((s.core c).pc + len))
      | .ok (_, s1) =>
        let s2 := countDown s1 c p.rc.toNat
        if (s2.core c).mode != .running then (.stay, s2) else iterate p l len body c n false s2

/-- The steps of R146 for a prefixed operation, after its fetch. -/
def pfxSteps (a : At) (p : Pfx) (op : Opcode) (l : Long) (len : Nat) (c : CoreId) : M Flow := do
  if !pfxFieldsOk p l then simpleFault .reservedField 3
  else match decodeFault op l with
    | some t => trapM t
    | none =>
      if p.rep && !repeatOk p op l then simpleFault .illegalRepeat 4
      else
        let k ← getC c
        if !pfxHolds k p l then return .seq
        else if !p.rep then bodyOf a op l len c
        else
          let n := k.getReg p.rc.toNat
          if !isFix n || fixVal n < 0 || 0xFFFFFFFF < fixVal n then trapM (wordTrap .wordFormat n 6 0)
          else fun s => .ok (iterate p l len (bodyOf a op l len) c (valOf n) true s)

def bodyPfx (a : At) (p : Pfx) (b : PfxBody) (c : CoreId) : M Flow := fun s =>
  let len := 4 * (1 + pfxParcels b)
  let ill := fun (n : Nat) => (trapM { cause := .illegalOp, sub := n, step := 2 } : M Flow)
  let m : M Flow := do
    fetchM c (1 + pfxParcels b) 5 (pfxWord p)
    match b with
    | .pair _ => ill 3
    | .long code l =>
      if code.toNat == 0xFE then ill 3
      else match Opcode.ofCode code.toNat with
        | none => ill 1
        | some op => pfxSteps a p op l len c
  match m s with
  | .error x => .error (pfxDetail p x)
  | r => r

/-- PFX. -/
def execPfx (a : At) (p : Pfx) (b : PfxBody) (s : State) : Out :=
  .next (runBody s a (4 * (1 + pfxParcels b)) true (bodyPfx a p b))

/-! ### The single step of a debugger (R390) -/

/-- A long instruction whose opcode byte is undefined (R119, R145). -/
def undefinedSteps (code : Byte) (l : Long) (c : CoreId) : M Flow := do
  let first := code.toNat * 2 ^ 23 + l.word .mov % 2 ^ 23
  fetchM c l.parcels 5 first
  trapM { cause := .illegalOp, sub := 1, step := 2, detail := first }

def stepBody (s : State) (a : At) : StepOp → State
  | .long op l => runLong s a op l (bodyOf a op l (4 * l.parcels))
  | .pfx p b => runBody s a (4 * (1 + pfxParcels b)) true (bodyPfx a p b)
  | .pair p => runBody s a p.bytes false (bodyPair p)
  | .bundle w => runBody s a 8 false (bodyBundle w)
  | .undefined code l =>
    if code.toNat == 0xFE || (Opcode.ofCode code.toNat).isSome then s
    else runBody s a (4 * l.parcels) false (undefinedSteps code l)

/-- Cores in one mode change to another. -/
def turnModes (s : State) (cs : List CoreId) (old new : CoreMode) : State :=
  cs.foldl (fun x c => if (x.core c).mode == old then x.modCore c (fun k => { k with mode := new }) else x) s

/-- DEBUG_STEP: one instruction of a core halted for debug, in all three cores of a voted troika; what still issues
is halted again. -/
def execDebugStep (a : At) (op : StepOp) (s : State) : Out := .next (
  let c := leadOf s a.core
  if !debugAllowed s || (s.core c).mode != .debugHalt then s
  else
    let cs := partners s c
    turnModes (stepBody (turnModes s cs .debugHalt .running) { a with core := c } op) cs .running .debugHalt)

/-! ### Messages that wait for room -/

/-- MBOX_APPEND_RETRY. -/
def execMboxAppendRetry (m : MboxWaiter) (s : State) : Out := .next (
  match m with
  | .channel n => retryChannel s n.val
  | .ring r => retryRing s r.val
  | .peer p => retryPeer s p.val)

/-- MBWAIT_EXPIRY. -/
def execMbwaitExpiry (m : MboxWaiter) (s : State) : Out := .next (
  match m with
  | .channel n => expireChannel s n.val
  | .ring r => expireRing s r.val
  | .peer p => expirePeer s p.val)

end Sys2Proof.Machine
end

