-- ==== Sys2Proof/Machine/Dispatch.lean ====
section
/-! DEFINITION. The meaning of each command: one arm per row of the opcode table. -/

namespace Sys2Proof.Machine

open Sys2Proof

/-- The effect of a command on everything but the queue. -/
def exec (i : Instr) (s : State) : Host.Outcome State Fault Refusal :=
  match i with
  | .mov a l => Sys2Proof.Machine.execMov a l s
  | .st a l => Sys2Proof.Machine.execSt a l s
  | .swap a l => Sys2Proof.Machine.execSwap a l s
  | .ldb a l => Sys2Proof.Machine.execLdb a l s
  | .stb a l => Sys2Proof.Machine.execStb a l s
  | .ldbit a l => Sys2Proof.Machine.execLdbit a l s
  | .stbit a l => Sys2Proof.Machine.execStbit a l s
  | .mfc a l => Sys2Proof.Machine.execMfc a l s
  | .mtc a l => Sys2Proof.Machine.execMtc a l s
  | .setuprd a l => Sys2Proof.Machine.execSetuprd a l s
  | .setupwr a l => Sys2Proof.Machine.execSetupwr a l s
  | .add a l => Sys2Proof.Machine.execAdd a l s
  | .sub a l => Sys2Proof.Machine.execSub a l s
  | .mul a l => Sys2Proof.Machine.execMul a l s
  | .div a l => Sys2Proof.Machine.execDiv a l s
  | .rem a l => Sys2Proof.Machine.execRem a l s
  | .neg a l => Sys2Proof.Machine.execNeg a l s
  | .abs a l => Sys2Proof.Machine.execAbs a l s
  | .cmp a l => Sys2Proof.Machine.execCmp a l s
  | .addto a l => Sys2Proof.Machine.execAddto a l s
  | .subto a l => Sys2Proof.Machine.execSubto a l s
  | .and a l => Sys2Proof.Machine.execAnd a l s
  | .or a l => Sys2Proof.Machine.execOr a l s
  | .xor a l => Sys2Proof.Machine.execXor a l s
  | .andn a l => Sys2Proof.Machine.execAndn a l s
  | .shl a l => Sys2Proof.Machine.execShl a l s
  | .shr a l => Sys2Proof.Machine.execShr a l s
  | .sar a l => Sys2Proof.Machine.execSar a l s
  | .popc a l => Sys2Proof.Machine.execPopc a l s
  | .clz a l => Sys2Proof.Machine.execClz a l s
  | .parity a l => Sys2Proof.Machine.execParity a l s
  | .bitrev a l => Sys2Proof.Machine.execBitrev a l s
  | .crcstep a l => Sys2Proof.Machine.execCrcstep a l s
  | .fadd a l => Sys2Proof.Machine.execFadd a l s
  | .fsub a l => Sys2Proof.Machine.execFsub a l s
  | .fmul a l => Sys2Proof.Machine.execFmul a l s
  | .fdiv a l => Sys2Proof.Machine.execFdiv a l s
  | .fsqrt a l => Sys2Proof.Machine.execFsqrt a l s
  | .fcmp a l => Sys2Proof.Machine.execFcmp a l s
  | .fcvt a l => Sys2Proof.Machine.execFcvt a l s
  | .cons a l => Sys2Proof.Machine.execCons a l s
  | .car a l => Sys2Proof.Machine.execCar a l s
  | .cdr a l => Sys2Proof.Machine.execCdr a l s
  | .rplaca a l => Sys2Proof.Machine.execRplaca a l s
  | .rplacd a l => Sys2Proof.Machine.execRplacd a l s
  | .allocv a l => Sys2Proof.Machine.execAllocv a l s
  | .alloci a l => Sys2Proof.Machine.execAlloci a l s
  | .allocb a l => Sys2Proof.Machine.execAllocb a l s
  | .lenof a l => Sys2Proof.Machine.execLenof a l s
  | .classof a l => Sys2Proof.Machine.execClassof a l s
  | .idhash a l => Sys2Proof.Machine.execIdhash a l s
  | .weakref a l => Sys2Proof.Machine.execWeakref a l s
  | .pin a l => Sys2Proof.Machine.execPin a l s
  | .unpin a l => Sys2Proof.Machine.execUnpin a l s
  | .bitaddr a l => Sys2Proof.Machine.execBitaddr a l s
  | .tagset a l => Sys2Proof.Machine.execTagset a l s
  | .tagof a l => Sys2Proof.Machine.execTagof a l s
  | .tageq a l => Sys2Proof.Machine.execTageq a l s
  | .classis a l => Sys2Proof.Machine.execClassis a l s
  | .eq a l => Sys2Proof.Machine.execEq a l s
  | .eql a l => Sys2Proof.Machine.execEql a l s
  | .casw a l => Sys2Proof.Machine.execCasw a l s
  | .casg a l => Sys2Proof.Machine.execCasg a l s
  | .swpg a l => Sys2Proof.Machine.execSwpg a l s
  | .faddw a l => Sys2Proof.Machine.execFaddw a l s
  | .bset a l => Sys2Proof.Machine.execBset a l s
  | .bclr a l => Sys2Proof.Machine.execBclr a l s
  | .btest a l => Sys2Proof.Machine.execBtest a l s
  | .bmov a l => Sys2Proof.Machine.execBmov a l s
  | .band a l => Sys2Proof.Machine.execBand a l s
  | .bor a l => Sys2Proof.Machine.execBor a l s
  | .bxor a l => Sys2Proof.Machine.execBxor a l s
  | .jmp a l => Sys2Proof.Machine.execJmp a l s
  | .call a l => Sys2Proof.Machine.execCall a l s
  | .calln a l => Sys2Proof.Machine.execCalln a l s
  | .ret a l => Sys2Proof.Machine.execRet a l s
  | .retn a l => Sys2Proof.Machine.execRetn a l s
  | .rett a l => Sys2Proof.Machine.execRett a l s
  | .rete a l => Sys2Proof.Machine.execRete a l s
  | .trap a l => Sys2Proof.Machine.execTrap a l s
  | .loop a l => Sys2Proof.Machine.execLoop a l s
  | .loopx a l => Sys2Proof.Machine.execLoopx a l s
  | .savelo a l => Sys2Proof.Machine.execSavelo a l s
  | .savehi a l => Sys2Proof.Machine.execSavehi a l s
  | .restlo a l => Sys2Proof.Machine.execRestlo a l s
  | .resthi a l => Sys2Proof.Machine.execResthi a l s
  | .spillw a l => Sys2Proof.Machine.execSpillw a l s
  | .fillw a l => Sys2Proof.Machine.execFillw a l s
  | .space a l => Sys2Proof.Machine.execSpace a l s
  | .fence a l => Sys2Proof.Machine.execFence a l s
  | .barrier a l => Sys2Proof.Machine.execBarrier a l s
  | .wait a l => Sys2Proof.Machine.execWait a l s
  | .eoin a l => Sys2Proof.Machine.execEoin a l s
  | .eoif a l => Sys2Proof.Machine.execEoif a l s
  | .niwopen a l => Sys2Proof.Machine.execNiwopen a l s
  | .niwclose a l => Sys2Proof.Machine.execNiwclose a l s
  | .trvgo a l => Sys2Proof.Machine.execTrvgo a l s
  | .cqlook a l => Sys2Proof.Machine.execCqlook a l s
  | .cqins a l => Sys2Proof.Machine.execCqins a l s
  | .cqdel a l => Sys2Proof.Machine.execCqdel a l s
  | .crgpost a l => Sys2Proof.Machine.execCrgpost a l s
  | .pfx a p b => Sys2Proof.Machine.execPfx a p b s
  | .pair a p => Sys2Proof.Machine.execPair a p s
  | .bundle a w => Sys2Proof.Machine.execBundle a w s
  | .unitResultLanding c n => Sys2Proof.Machine.execUnitResultLanding c n s
  | .barrierRelease n => Sys2Proof.Machine.execBarrierRelease n s
  | .waitWake c => Sys2Proof.Machine.execWaitWake c s
  | .niwLimitExpiry c => Sys2Proof.Machine.execNiwLimitExpiry c s
  | .normalInterruptEntry c => Sys2Proof.Machine.execNormalInterruptEntry c s
  | .fastInterruptEntry c => Sys2Proof.Machine.execFastInterruptEntry c s
  | .deferredMachineCheck c => Sys2Proof.Machine.execDeferredMachineCheck c s
  | .mcApply c w => Sys2Proof.Machine.execMcApply c w s
  | .mcDisable c w => Sys2Proof.Machine.execMcDisable c w s
  | .patchDrain c r => Sys2Proof.Machine.execPatchDrain c r s
  | .patchApplyEnd c => Sys2Proof.Machine.execPatchApplyEnd c s
  | .tlbinvStart p w => Sys2Proof.Machine.execTlbinvStart p w s
  | .tlbinvComplete p => Sys2Proof.Machine.execTlbinvComplete p s
  | .memoryRequestArrival r f => Sys2Proof.Machine.execMemoryRequestArrival r f s
  | .memoryResponse m slot => Sys2Proof.Machine.execMemoryResponse m slot s
  | .patrolScrub pa f => Sys2Proof.Machine.execPatrolScrub pa f s
  | .tsrepGo t w => Sys2Proof.Machine.execTsrepGo t w s
  | .rowRepairEnd t => Sys2Proof.Machine.execRowRepairEnd t s
  | .evictionWriteback q => Sys2Proof.Machine.execEvictionWriteback q s
  | .deepReadComplete q line o => Sys2Proof.Machine.execDeepReadComplete q line o s
  | .deepReadTimeout q line => Sys2Proof.Machine.execDeepReadTimeout q line s
  | .retrainingStall q => Sys2Proof.Machine.execRetrainingStall q s
  | .retrainingEnd q => Sys2Proof.Machine.execRetrainingEnd q s
  | .clean q w => Sys2Proof.Machine.execClean q w s
  | .cleanInv q w => Sys2Proof.Machine.execCleanInv q w s
  | .inv q w => Sys2Proof.Machine.execInv q w s
  | .prefetch q w => Sys2Proof.Machine.execPrefetch q w s
  | .prefetchLock q w => Sys2Proof.Machine.execPrefetchLock q w s
  | .unlock q w => Sys2Proof.Machine.execUnlock q w s
  | .rangeOperationEnd q => Sys2Proof.Machine.execRangeOperationEnd q s
  | .retire q w => Sys2Proof.Machine.execRetire q w s
  | .channelRetireEnd q => Sys2Proof.Machine.execChannelRetireEnd q s
  | .morStart w => Sys2Proof.Machine.execMorStart w s
  | .rootScan c => Sys2Proof.Machine.execRootScan c s
  | .markTrace t => Sys2Proof.Machine.execMarkTrace t s
  | .markEnd => Sys2Proof.Machine.execMarkEnd s
  | .select => Sys2Proof.Machine.execSelect s
  | .evacuateCopy t => Sys2Proof.Machine.execEvacuateCopy t s
  | .cycleEnd => Sys2Proof.Machine.execCycleEnd s
  | .moveRequest m w => Sys2Proof.Machine.execMoveRequest m w s
  | .pageRemap va page => Sys2Proof.Machine.execPageRemap va page s
  | .morHintGo w => Sys2Proof.Machine.execMorHintGo w s
  | .heapFullTimeout c => Sys2Proof.Machine.execHeapFullTimeout c s
  | .allocationWaitEnd c => Sys2Proof.Machine.execAllocationWaitEnd c s
  | .cirqueTableMake t => Sys2Proof.Machine.execCirqueTableMake t s
  | .advance w => Sys2Proof.Machine.execAdvance w s
  | .release w => Sys2Proof.Machine.execRelease w s
  | .rebase w => Sys2Proof.Machine.execRebase w s
  | .crpoolLoad n w => Sys2Proof.Machine.execCrpoolLoad n w s
  | .resynchronisation k => Sys2Proof.Machine.execResynchronisation k s
  | .troikaReset k w => Sys2Proof.Machine.execTroikaReset k w s
  | .troikaResetEnd k voter => Sys2Proof.Machine.execTroikaResetEnd k voter s
  | .debugHalt k => Sys2Proof.Machine.execDebugHalt k s
  | .debugRead c r => Sys2Proof.Machine.execDebugRead c r s
  | .debugWrite c r v => Sys2Proof.Machine.execDebugWrite c r v s
  | .debugMemoryAccess c pa write => Sys2Proof.Machine.execDebugMemoryAccess c pa write s
  | .debugStep a op => Sys2Proof.Machine.execDebugStep a op s
  | .debugResume k => Sys2Proof.Machine.execDebugResume k s
  | .sourcePulse n => Sys2Proof.Machine.execSourcePulse n s
  | .evcRaise w => Sys2Proof.Machine.execEvcRaise w s
  | .bitDelivery g => Sys2Proof.Machine.execBitDelivery g s
  | .holdoffExpiry g => Sys2Proof.Machine.execHoldoffExpiry g s
  | .groupConfigWrite g w => Sys2Proof.Machine.execGroupConfigWrite g w s
  | .pendClear n w => Sys2Proof.Machine.execPendClear n w s
  | .coreGating c => Sys2Proof.Machine.execCoreGating c s
  | .coreWake c => Sys2Proof.Machine.execCoreWake c s
  | .gatedWaitExpiry g => Sys2Proof.Machine.execGatedWaitExpiry g s
  | .trvTimerTick t => Sys2Proof.Machine.execTrvTimerTick t s
  | .burstRead n h => Sys2Proof.Machine.execBurstRead n h s
  | .burstWrite n => Sys2Proof.Machine.execBurstWrite n s
  | .ingressFrameReady n => Sys2Proof.Machine.execIngressFrameReady n s
  | .completionPoint n => Sys2Proof.Machine.execCompletionPoint n s
  | .trvAbort n w => Sys2Proof.Machine.execTrvAbort n w s
  | .channelDisable n w => Sys2Proof.Machine.execChannelDisable n w s
  | .abortDrainEnd n => Sys2Proof.Machine.execAbortDrainEnd n s
  | .mboxAppendRetry m => Sys2Proof.Machine.execMboxAppendRetry m s
  | .mbwaitExpiry m => Sys2Proof.Machine.execMbwaitExpiry m s
  | .doorbellPoll h => Sys2Proof.Machine.execDoorbellPoll h s
  | .descriptorFetch r d exts => Sys2Proof.Machine.execDescriptorFetch r d exts s
  | .invoke r => Sys2Proof.Machine.execInvoke r s
  | .importBytes r h => Sys2Proof.Machine.execImport r h s
  | .exportBytes r => Sys2Proof.Machine.execExport r s
  | .query r => Sys2Proof.Machine.execQuery r s
  | .snapshot r => Sys2Proof.Machine.execSnapshot r s
  | .hostAttest r => Sys2Proof.Machine.execHostAttest r s
  | .patch r h => Sys2Proof.Machine.execPatch r h s
  | .controlNop r => Sys2Proof.Machine.execControlNop r s
  | .controlTime r => Sys2Proof.Machine.execControlTime r s
  | .controlDrain r => Sys2Proof.Machine.execControlDrain r s
  | .cqHeadPoll c h => Sys2Proof.Machine.execCqHeadPoll c h s
  | .notification => Sys2Proof.Machine.execNotification s
  | .cqHoldoffExpiry c => Sys2Proof.Machine.execCqHoldoffExpiry c s
  | .msixUnmask m => Sys2Proof.Machine.execMsixUnmask m s
  | .hostReadFailure r timeout => Sys2Proof.Machine.execHostReadFailure r timeout s
  | .sqEnable r w => Sys2Proof.Machine.execSqEnable r w s
  | .sqReset r w => Sys2Proof.Machine.execSqReset r w s
  | .cqDisable c w => Sys2Proof.Machine.execCqDisable c w s
  | .hreEnable w => Sys2Proof.Machine.execHreEnable w s
  | .functionLevelReset => Sys2Proof.Machine.execFunctionLevelReset s
  | .d3hotEntry pme => Sys2Proof.Machine.execD3hotEntry pme s
  | .d0Return bme => Sys2Proof.Machine.execD0Return bme s
  | .linkDown outstanding => Sys2Proof.Machine.execLinkDown outstanding s
  | .linkUp => Sys2Proof.Machine.execLinkUp s
  | .hostUnsupportedRequest r => Sys2Proof.Machine.execHostUnsupportedRequest r s
  | .random => Sys2Proof.Machine.execRandom s
  | .hash => Sys2Proof.Machine.execHash s
  | .gcmSeal => Sys2Proof.Machine.execGcmSeal s
  | .gcmOpen => Sys2Proof.Machine.execGcmOpen s
  | .sign => Sys2Proof.Machine.execSign s
  | .verify => Sys2Proof.Machine.execVerify s
  | .sealVector => Sys2Proof.Machine.execSeal s
  | .sealCheck => Sys2Proof.Machine.execSealCheck s
  | .keygen => Sys2Proof.Machine.execKeygen s
  | .keyimport => Sys2Proof.Machine.execKeyimport s
  | .keydelete => Sys2Proof.Machine.execKeydelete s
  | .ctrRead => Sys2Proof.Machine.execCtrRead s
  | .ctrInc => Sys2Proof.Machine.execCtrInc s
  | .cragAttest => Sys2Proof.Machine.execCragAttest s
  | .imgVerify => Sys2Proof.Machine.execImgVerify s
  | .tpolRaise => Sys2Proof.Machine.execTpolRaise s
  | .debugUnlock => Sys2Proof.Machine.execDebugUnlock s
  | .owner => Sys2Proof.Machine.execOwner s
  | .tamperEvent src => Sys2Proof.Machine.execTamperEvent src s
  | .tamperAlarmEnd => Sys2Proof.Machine.execTamperAlarmEnd s
  | .trngHealthFail => Sys2Proof.Machine.execTrngHealthFail s
  | .trngRestart => Sys2Proof.Machine.execTrngRestart s
  | .keyAgreement p peer v => Sys2Proof.Machine.execKeyAgreement p peer v s
  | .rekey p => Sys2Proof.Machine.execRekey p s
  | .frameReceive p f => Sys2Proof.Machine.execFrameReceive p f s
  | .frameTransmit p => Sys2Proof.Machine.execFrameTransmit p s
  | .fieldLinkChange p up => Sys2Proof.Machine.execFieldLinkChange p up s
  | .saInstall w => Sys2Proof.Machine.execSaInstall w s
  | .saRemove w => Sys2Proof.Machine.execSaRemove w s
  | .pcntClear p w => Sys2Proof.Machine.execPcntClear p w s
  | .phcStep w => Sys2Proof.Machine.execPhcStep w s
  | .modeChange w => Sys2Proof.Machine.execModeChange w s
  | .ridgeFrameReceive p f => Sys2Proof.Machine.execRidgeFrameReceive p f s
  | .ridgeResendTimeout p => Sys2Proof.Machine.execRidgeResendTimeout p s
  | .ridgeForward => Sys2Proof.Machine.execRidgeForward s
  | .readW => Sys2Proof.Machine.execReadW s
  | .writeW => Sys2Proof.Machine.execWriteW s
  | .casW => Sys2Proof.Machine.execCasW s
  | .faddW => Sys2Proof.Machine.execFaddW s
  | .readB => Sys2Proof.Machine.execReadB s
  | .writeB => Sys2Proof.Machine.execWriteB s
  | .post => Sys2Proof.Machine.execPost s
  | .peerRequestServe p => Sys2Proof.Machine.execPeerRequestServe p s
  | .rangeBarrierRelease n => Sys2Proof.Machine.execRangeBarrierRelease n s
  | .broadcast down kind bytes => Sys2Proof.Machine.execBroadcast down kind bytes s
  | .rangeAdvance k others => Sys2Proof.Machine.execRangeAdvance k others s
  | .rangeReset w => Sys2Proof.Machine.execRangeReset w s
  | .cancel w => Sys2Proof.Machine.execCancel w s
  | .recalibrationEnd p => Sys2Proof.Machine.execRecalibrationEnd p s
  | .bootHoldEnd v => Sys2Proof.Machine.execBootHoldEnd v s
  | .cragStageEnd => Sys2Proof.Machine.execCragStageEnd s
  | .imageStageEnd => Sys2Proof.Machine.execImageStageEnd s
  | .configStageEnd plls untrained => Sys2Proof.Machine.execConfigStageEnd plls untrained s
  | .selftestStageEnd faults => Sys2Proof.Machine.execSelftestStageEnd faults s
  | .loadStageEnd untested => Sys2Proof.Machine.execLoadStageEnd untested s
  | .failedStartRestart => Sys2Proof.Machine.execFailedStartRestart s
  | .bootWatchdogExpiry => Sys2Proof.Machine.execBootWatchdogExpiry s
  | .saddleEntry => Sys2Proof.Machine.execSaddleEntry s
  | .declareOperational w => Sys2Proof.Machine.execDeclareOperational w s
  | .declareFail w => Sys2Proof.Machine.execDeclareFail w s
  | .cfgStart w => Sys2Proof.Machine.execCfgStart w s
  | .sadCtlGo w => Sys2Proof.Machine.execSadCtlGo w s
  | .tileOffline w => Sys2Proof.Machine.execTileOffline w s
  | .tileOnline w => Sys2Proof.Machine.execTileOnline w s
  | .tileSelfTest w => Sys2Proof.Machine.execTileSelfTest w s
  | .retireCore w => Sys2Proof.Machine.execRetireCore w s
  | .cragSwitch w => Sys2Proof.Machine.execCragSwitch w s
  | .ridgeLaneRecalibration w aMinute => Sys2Proof.Machine.execRidgeLaneRecalibration w aMinute s
  | .voterSelfTestRequest w => Sys2Proof.Machine.execVoterSelfTestRequest w s
  | .retireTile w => Sys2Proof.Machine.execRetireTile w s
  | .unitOperationEnd faults v => Sys2Proof.Machine.execUnitOperationEnd faults v s
  | .vinAonUp => Sys2Proof.Machine.execVinAonUp s
  | .coreRailsUp seqErr => Sys2Proof.Machine.execCoreRailsUp seqErr s
  | .resetLAssert => Sys2Proof.Machine.execResetLAssert s
  | .resetLRelease => Sys2Proof.Machine.execResetLRelease s
  | .perstLAssert => Sys2Proof.Machine.execPerstLAssert s
  | .perstLRelease => Sys2Proof.Machine.execPerstLRelease s
  | .vinAonLow below24 => Sys2Proof.Machine.execVinAonLow below24 s
  | .railExcursion rail high measured => Sys2Proof.Machine.execRailExcursion rail high measured s
  | .railStop rail => Sys2Proof.Machine.execRailStop rail s
  | .railsRecovered => Sys2Proof.Machine.execRailsRecovered s
  | .clockFault r => Sys2Proof.Machine.execClockFault r s
  | .clockReturn r => Sys2Proof.Machine.execClockReturn r s
  | .thermalSample readings => Sys2Proof.Machine.execThermalSample readings s
  | .thermalStop q => Sys2Proof.Machine.execThermalStop q s
  | .qclkRequest q w => Sys2Proof.Machine.execQclkRequest q w s
  | .clockStep q => Sys2Proof.Machine.execClockStep q s
  | .voltageSettle q => Sys2Proof.Machine.execVoltageSettle q s
  | .delayMonitorCheck q short => Sys2Proof.Machine.execDelayMonitorCheck q short s
  | .i3cWrite bytes => Sys2Proof.Machine.execI3cWrite bytes s
  | .i3cRead => Sys2Proof.Machine.execI3cRead s
  | .i3cTimeout => Sys2Proof.Machine.execI3cTimeout s
  | .jtagInstruction j => Sys2Proof.Machine.execJtagInstruction j s
  | .gdtWrite n w => Sys2Proof.Machine.execGdtWrite n w s
  | .registerWrite off w => Sys2Proof.Machine.execRegisterWrite off w s
  | .laneRecalibrationStart p lane => Sys2Proof.Machine.execLaneRecalibrationStart p lane s
  | .flashReadTimeout => Sys2Proof.Machine.execFlashReadTimeout s
  | .railReturn q neighbour => Sys2Proof.Machine.execRailReturn q neighbour s
  | .crestOperationEnd => Sys2Proof.Machine.execCrestOperationEnd s
  | .i3cAddressAssignment a => Sys2Proof.Machine.execI3cAddressAssignment a s
  | .linkL1Entry => Sys2Proof.Machine.execLinkL1Entry s

end Sys2Proof.Machine
end

