-- ==== Sys2Proof/Safety.lean ====
section
/-! DEFINITION. What a run of one command is, in the terms that the statements use: a core that issues an
instruction, its operands, and the boundary at which it retires. -/

namespace Sys2Proof.Machine

open Sys2Proof

/-- A command on core `a.core` issues on core `c` (the core itself, or the lead of its voted troika; log 24): the
core runs, no window trap is under way, nothing strikes it and no Cairn check of its accesses finds an error. -/
structure Runs (s : State) (a : At) (c : CoreId) : Prop where
  source : sourceCore s a.core = some c
  running : (s.core c).mode = .running
  settled : inWindowTrap (s.core c) = false
  calm : a.upset = .none
  clean : a.cairn = []

/-- Every store that a core has buffered can be performed now: its block, its channel and a slot are free (R24, R295,
R308, R318). -/
def Drains (s : State) (c : CoreId) : Prop :=
  (s.core c).sbuf.any (fun e => writeWaits s c e.pa e.bytes.length) = false

/-- A long operation reaches its own effect (R146 steps 1 to 6): the parcels are fetched, the fields are well
formed and the condition holds. `s1` is the state after the fetch. -/
structure Issues (s : State) (a : At) (op : Opcode) (l : Long) (c : CoreId) (s1 : State) : Prop extends Runs s a c where
  fetched : fetchM c l.parcels 5 (l.word op) (s.modCore c Core.landAll) = .ok ((), s1)
  decoded : decodeFault op l = none
  holds : ccHolds (s1.core c) l.cc.toNat = true

/-- Operand B of a value operation (steps 7 to 9): where it is, its word, and the state after it is read. -/
structure Operand (op : Opcode) (l : Long) (c : CoreId) (s1 : State) (r : ResB) (b : Word) (s3 : State) : Prop where
  read : ∃ s2, resolveB c op.modes l 8 0 2 s1 = .ok (r, s2) ∧ readB c .read r.b s2 = .ok (b, s3)

/-- An operation stands before its own effect (step 10) with RA = x and operand B = y, in state `s3`. -/
structure Ready (s : State) (a : At) (op : Opcode) (l : Long) (c : CoreId) (r : ResB) (x y : Word) (s3 : State) : Prop where
  issued : ∃ s1, Issues s a op l c s1 ∧ Operand op l c s1 r y s3
  first : (s3.core c).getReg l.ra.toNat = x

/-- An operation knows where operand B is (steps 7 and 8), for an access of a kind, in state `s2`. -/
structure Located (s : State) (a : At) (op : Opcode) (l : Long) (c : CoreId) (align width access : Nat) (r : ResB)
    (s2 : State) : Prop where
  issued : ∃ s1, Issues s a op l c s1 ∧ resolveB c op.modes l align width access s1 = .ok (r, s2)

/-- The index register that SLOTXI moves. -/
def movedIndex (s : State) (c : CoreId) (r : ResB) : State :=
  match r.post with
  | some (n, w) => s.modCore c (fun k => k.setReg n w)
  | none => s

/-- An instruction of `len` bytes that stood at `pc` retires: control goes where `fl` says, with the loop test of
R107, in every core of the majority. -/
def retire (s : State) (c : CoreId) (pc len : Nat) (fl : Flow) : State :=
  mirror (s.modCore c (fun k => if k.mode == .stopped then k else complete k pc len fl)) c

/-- The same for a long operation of core c of the state before the command. -/
def retireLong (s0 : State) (l : Long) (s : State) (c : CoreId) : State :=
  retire s c (s0.core c).pc (4 * l.parcels) .seq

/-- A long operation that sends control elsewhere retires. -/
def retireJump (s0 : State) (l : Long) (s : State) (c : CoreId) : State :=
  retire s c (s0.core c).pc (4 * l.parcels) .jump

/-- A register written. -/
def withReg (s : State) (c : CoreId) (n : Nat) (v : Word) : State := s.modCore c (fun k => k.setReg n v)

/-- A result in RD, the index register moved first (R146 step 11). -/
def withResult (s : State) (c : CoreId) (r : ResB) (rd : BitVec 5) (v : Word) : State :=
  (movedIndex s c r).modCore c (fun k => k.setReg rd.toNat v)

/-- Flags written. -/
def withFlags (s : State) (c : CoreId) (f : Tbl Bool) : State := s.modCore c (fun k => k.setBits f)

/-- One bit register written. -/
def withBitReg (s : State) (c : CoreId) (n : Nat) (b : Bool) : State := s.modCore c (fun k => k.setBit n b)

/-- The state after a long operation of state s0 whose effect left `s` and result `v`: the index register and RD
are written and the operation retires. Nothing else changes. -/
def done (s0 : State) (l : Long) (c : CoreId) (r : ResB) (s : State) (v : Word) : State :=
  retireLong s0 l (withResult s c r l.rd v) c

/-- The same for an operation with no result. -/
def doneC (s0 : State) (l : Long) (c : CoreId) (r : ResB) (s : State) : State :=
  retireLong s0 l (movedIndex s c r) c

/-- The state after a trap of a long operation: nothing of the operation stays but the landed unit results, and the
exception is taken (R146, R226, R236). -/
def raised (s0 : State) (l : Long) (c : CoreId) (x : Trap) : State :=
  mirror (raiseStop (s0.modCore c Core.landAll) c (.trap x) (s0.core c).pc
    (((s0.core c).jump).getD ((s0.core c).pc + 4 * l.parcels))) c

/-- The state after any other stop of a long operation: a double fault, a machine check, a wait. -/
def stopped (s0 : State) (l : Long) (c : CoreId) (x : Stop) : State :=
  mirror (raiseStop (s0.modCore c Core.landAll) c x (s0.core c).pc
    (((s0.core c).jump).getD ((s0.core c).pc + 4 * l.parcels))) c

/-- A word to which a jump or return may go (R71, R168): a T.RET in its format, of an address in the instruction area of
a code object whose format is its own. -/
def Lands (s : State) (c : CoreId) (w : Word) : Prop :=
  tagOf w = 0x30 ∧ addressFormatOk w = true ∧
    ∃ b h area, codeHolding s c (retAddr w) = some (b, h, area) ∧ hdrFmt h = retFmt w

/-- An entry of the dispatch table that does not trap. -/
def Admits (s : State) (g : Nat) (x : Word) (y : Option Word) : Prop :=
  s.fld .cfgGdt (dispatchEntry g x y) 17 16 ≠ 2

/-- An atomic exchange of the word at va writes w and finds old: the earlier stores first, the word read, R57 for
the word in memory, the write (R200). -/
structure Exchanges (c : CoreId) (va : Nat) (s : State) (old w : Word) (t : State) : Prop where
  drained : Drains s c
  steps : ∃ s1 raw s2, loadWord c va .atomic (drainStores s c) = .ok (old, s1) ∧
    loadRaw c va .atomic s1 = .ok (raw, s2) ∧ mayOverwrite raw w = true ∧
    atomicWrite c va (bytesOfWord w) true s2 = .ok ((), t)

/-- A CQ operation has found where its key is (R216, R358): the stores before it are performed, RA is the table `t`,
the key is of bucket `b` with fingerprint `fp` and control word `ctrl`. -/
structure Searches (s : State) (c : CoreId) (l : Long) (y : Word) (t : Cq) (b fp : Nat) (ctrl k0 k1 : Word)
    (w : Found) (s4 : State) : Prop where
  drained : Drains s c
  steps : ∃ s1 s2 s3, openTable c l.ra.toNat (drainStores s c) = .ok (t, s1) ∧
    cirqueKey c l y s1 = .ok ((k0, k1), s2) ∧ cirqueAt c t k0 k1 s2 = .ok ((b, fp, ctrl), s3) ∧
    cirqueFind c t b fp ctrl k0 k1 s3 = .ok (w, s4)

/-- The state after a CQ operation: f4 tells whether the key was there, and RD is the result. -/
def cqDone (s0 : State) (l : Long) (c : CoreId) (r : ResB) (s : State) (hit : Bool) (v : Word) : State :=
  retireLong s0 l (withReg (withBitReg (movedIndex s c r) c 4 hit) c l.rd.toNat v) c

/-- A prefixed operation stands before its own effect (R139 to R146). -/
structure Prefixed (s : State) (a : At) (p : Pfx) (code : BitVec 8) (op : Opcode) (l : Long) (c : CoreId) (s1 : State) : Prop
    extends Runs s a c where
  fetched : fetchM c (1 + l.parcels) 5 (pfxWord p) (s.modCore c Core.landAll) = .ok ((), s1)
  known : Opcode.ofCode code.toNat = some op
  fields : pfxFieldsOk p l = true
  decoded : decodeFault op l = none

/-! ### Commands that a unit finds in its mailbox or in a setup register -/

/-- Crag finds a command of an opcode, with a variant, at the front of CRG_MBOX (R454 to R456): it is up, the oldest
message names the command vector `vec`, whose word COMMAND is `op` and `v`. `s1` is the state after the message is taken. -/
structure CragFinds (s : State) (op v vec : Nat) (s1 : State) : Prop where
  up : cragUp s = true
  valid : s.flag .crgMbox 0 63 = true
  slot : hasSlot s .crag = true
  message : ∃ m0 m s0, takeMessage s (heapSpace s) 6 (s.fld .crgMbox 0 46 4 * 16) = some (m0, s0) ∧ trvHeal s0 m0 = (m, s1) ∧
    commandVector s1 6 m = some vec
  command : ∃ w, spaceWord s1 6 (heapSpace s1) (vec + 8) = some w ∧ isFix w = true ∧ bitsOf w 55 16 = 0 ∧
    bitsOf w 7 0 = op ∧ bitsOf w 15 8 = v
  offers : offered s1 op = true

/-- Crag's count of commands rises by one (R454). -/
def cragCounted (s : State) : State := s.setR .crgStat 0 (wrapInc (s.reg .crgStat) 31 0 1)

/-- A remote request stands at the front of RDG_MBOX (R483): vector `vec`, operation `op`, target `dst`, message `m`; the
route leads through port `p`, which has room. `s2` is the state after the vector is read. -/
structure RidgeFinds (s : State) (op vec dst : Nat) (m : RidgeMsg) (p : Nat) (s2 : State) : Prop where
  valid : s.flag .rdgMbox 0 63 = true
  free : s.base.held = []
  message : ∃ m0 x s0 s1 w, takeMessage s (heapSpace s) 7 (s.fld .rdgMbox 0 46 4 * 16) = some (m0, s0) ∧
    trvHeal s0 m0 = (x, s1) ∧ commandVector s1 7 x = some vec ∧ spaceWord s1 7 (heapSpace s1) (vec + 8) = some w ∧
    w = fixN op ∧ ∃ t, remoteTarget s1 vec s1 = .ok (dst, t) ∧ remoteMessage op vec t = .ok (m, s2)
  route : routeTo s2 dst 4 = some p
  room : portRoom s2 p = true

/-- A write of CFG_UNITCTL whose GO is 1 and whose OP and UNIT are `op` and `unit`, while no operation is under way (R508):
`s0` shows both in CFG_UNITSTAT. -/
structure UnitAsked (s : State) (w : SetupWrite) (op unit : Nat) (s0 : State) : Prop where
  go : acts w 63 = true
  reach : mayReach s w.agent .cfgUnitctl 0 = true
  idle : unitBusy s = false
  named : bitsOf (written s .cfgUnitctl 0 w) 55 48 = op
  stored : (storeSetup s .cfgUnitctl 0 w).fld .cfgUnitctl 0 55 48 = op
  unitNamed : (storeSetup s .cfgUnitctl 0 w).fld .cfgUnitctl 0 39 32 = unit
  shown : s0 = ((storeSetup s .cfgUnitctl 0 w).setF .cfgUnitstat 0 55 48 op).setF .cfgUnitstat 0 47 40 unit

/-! ### Forms of statements over the generic operations (R176, R181, R182, R185) -/

/-- The two operands of a generic operation, read as numbers in turn. -/
structure Numbers (c : CoreId) (x y : Word) (s : State) (a b : Num) (t : State) : Prop where
  read : ∃ s1, numOf c x s = .ok (a, s1) ∧ numOf c y s1 = .ok (b, t)

/-- A number as an integer under a rounding mode of FCVT. -/
def numInt (m : Nat) : Machine.Num → Option Int
  | .int j => some j
  | .flt b => fToInt m b

/-- Two integers give the integer `v i j`; the flags are `fl i j` for two T.FIX, the second row of R185 else. -/
def IntegerForm (k : At → Long → Instr) (op : Opcode) (g : Nat) (v : Int → Int → Int) (fl : Int → Int → Tbl Bool) : Prop :=
  ∀ s a l c r x y s3 i j s5 w s6, Ready s a op l c r x y s3 → Admits s3 g x (some y) →
    Numbers c x y s3 (.int i) (.int j) s5 → intResult c (v i j) s5 = .ok (w, s6) →
    exec (k a l) s = .next (done s l c r (withFlags s6 c (if bothFix x y then fl i j else flagsInt (v i j))) w)

/-- Two numbers, one of them a float at least, give the float `f` of their binary64 values. -/
def FloatForm (k : At → Long → Instr) (op : Opcode) (g : Nat) (f : Nat → Nat → Nat) : Prop :=
  ∀ s a l c r x y s3 p q s5 w s6, Ready s a op l c r x y s3 → Admits s3 g x (some y) →
    Numbers c x y s3 p q s5 → anyFloat p q = true → floatResult c (f p.bits q.bits) s5 = .ok (w, s6) →
    exec (k a l) s = .next (done s l c r (withFlags s6 c (flagsFloat (f p.bits q.bits))) w)

/-- The trap of an entry with KIND 2 (R179). -/
def sentTo (s : State) (g : Nat) (x : Word) (y : Option Word) : Trap :=
  { cause := .dispatchTrap
    vector := s.fld .cfgGdt (dispatchEntry g x y) 11 0
    step := 10
    foper := y.getD nil
    detail := dispatchEntry g x y
    aux := x }

/-- A binary operation of a pair that the table sends to a handler raises DISPATCH_TRAP with the entry's vector. -/
def DispatchForm (k : At → Long → Instr) (op : Opcode) (g : Nat) : Prop :=
  ∀ s a l c r x y s3, Ready s a op l c r x y s3 → tagOf x ≠ 0x32 → tagOf x ≠ 0x11 → ¬ Admits s3 g x (some y) →
    exec (k a l) s = .next (raised s l c (sentTo s3 g x (some y)))

/-- The same for an operation of operand B alone. -/
def DispatchUnaryForm (k : At → Long → Instr) (op : Opcode) (g : Nat) : Prop :=
  ∀ s a l c r x y s3, Ready s a op l c r x y s3 → ¬ Admits s3 g y none →
    exec (k a l) s = .next (raised s l c (sentTo s3 g y none))

end Sys2Proof.Machine
end

