-- ==== Sys2Proof/Certificates/Slice0/Obligations.lean ====
section
/-! DEFINITION. The statements about the model. A state after a command is written as an equation, so that each says
what the command changes and, by that, that nothing else changes. `Ready`, `Issues`, `Located` and the other forms that a
statement assumes or names are in Sys2Proof/Safety.lean. -/

open Sys2Proof Sys2Proof.Machine

/-- The step takes the command at the front of the queue and performs it with the rest of the queue. With none waiting the
device idles: the model's own choice (log 2). -/
def Obligations.StepRunsFrontCommand : Prop :=
  (∀ c rest s, s.pending = c :: rest → step s = exec c { s with pending := rest })
  ∧ (∀ s, s.pending = [] → step s = .next (idle s))

/-- The state that VIN_AON leaves (R112 device start, R109, R491): nothing waits, no core runs, every register of a core
and every setup register reads its reset value, and memory is in canonical form. -/
def Obligations.ResetStateHolds : Prop :=
  State.reset.pending = [] ∧ Memory.wf State.reset.mem = true ∧ bootState State.reset = 0
  ∧ (∀ n i, State.reset.reg n i = n.resetValue i)
  ∧ (∀ c k, k = State.reset.core c → k.mode = .stopped ∧ k.getReg 24 = nil ∧ (∀ n, n < 32 → n ≠ 24 → k.getReg n = unbound)
      ∧ (∀ g, k.dirty g = false) ∧ k.cwp = 0 ∧ k.bottom = 0 ∧ k.resident = 1 ∧ (∀ n, Tbl.getD k.fast unbound n = unbound)
      ∧ (∀ n, k.bit n = false) ∧ (∀ n, k.lsN n = ret0 ∧ k.leN n = ret0 ∧ k.lcN n = fixN 0)
      ∧ k.im = true ∧ k.space = 0 ∧ k.ld = 0 ∧ k.tw = false ∧ k.fb = false ∧ k.niw = false ∧ k.cstk = 0)

/-- Every step of every command keeps the canonical form of memory: addresses strictly rising, no entry equal to what an
unlisted address reads as. The form is the model's own way of holding memory (log 7). -/
def Obligations.EveryStepKeepsMemoryCanonical : Prop :=
  ∀ s t, Memory.wf s.mem = true → step s = .next t → Memory.wf t.mem = true

/-- A read after a write gives what was written, little-endian (R5); a write leaves every other byte as it was; a span
with no poison takes all its bytes, and a poisoned granule is only healed by a write of the whole granule (R80). -/
def Obligations.WritesChangeTheirBytes : Prop :=
  (∀ s a b x, readByte (writeByte s a b) x = if x = a then b else readByte s x)
  ∧ (∀ s a w, readWord (writeWord s a w) a = w)
  ∧ (∀ s a w k, k < 8 → readByte (writeWord s a w) (a + k) = BitVec.ofNat 8 (bitsOf w (8 * k + 7) (8 * k)))
  ∧ (∀ s a bs x, x < a ∨ a + bs.length ≤ x → readByte (writeSpan s a bs).1 x = readByte s x)
  ∧ (∀ s a bs, spanPoisoned s a bs.length = false → (writeSpan s a bs).2 = false
      ∧ ∀ i b, bs[i]? = some b → readByte (writeSpan s a bs).1 (a + i) = b)
  ∧ (∀ s a bs, poisoned s a = true → ¬ (a % 16 = 0 ∧ bs.length = 16) → writeGranule s a bs = (s, true))
  ∧ (∀ s a bs, counterFailed s a = false → a % 16 = 0 → bs.length = 16 → poisoned (writeGranule s a bs).1 a = false)

/-- A load or a fetch of a core (R277, R296 to R298): the registers of every core, every setup register, every unit and
the queue stay; the core's own TLBs may take an entry, and L1 caches gain or lose lines; in memory only the leaf that
the walk of the address finds may change, and of it only the bit A. -/
def Obligations.ReadsChangeOnlyCaches : Prop :=
  (∀ s c va n acc ba bs s1, acc.writes = false → loadBytes c va n acc ba s = .ok (bs, s1) →
    s1.setup = s.setup ∧ s1.units = s.units ∧ s1.pending = s.pending
    ∧ (∀ d, ∃ x y z w u v, s1.core d = { s.core d with l1d := x, l1i := y, headers := z, l1bad := w, dtlb := u, itlb := v }
      ∧ (d ≠ c → u = (s.core d).dtlb ∧ v = (s.core d).itlb)))
  ∧ (∀ s c va n acc ba bs s1, acc.writes = false → n ≤ 16384 - va % 16384 → loadBytes c va n acc ba s = .ok (bs, s1) →
    (∀ x, (∀ leaf pa, walk s (s.core c).space va acc.code = .ok (leaf, pa) → x < pa ∨ pa + 8 ≤ x) →
        readByte s1 x = readByte s x)
    ∧ (∀ leaf pa, walk s (s.core c).space va acc.code = .ok (leaf, pa) →
        readWord s1 pa = leaf ∨ readWord s1 pa = withBit leaf 3 true))
  ∧ (∀ s c va s1, fetchParcel c va s = .ok ((), s1) →
    s1.setup = s.setup ∧ s1.units = s.units ∧ s1.pending = s.pending
    ∧ (∀ d, ∃ x y z w u v, s1.core d = { s.core d with l1d := x, l1i := y, headers := z, l1bad := w, dtlb := u, itlb := v }
      ∧ (d ≠ c → u = (s.core d).dtlb ∧ v = (s.core d).itlb))
    ∧ (∀ x, (∀ leaf pa, walk s (s.core c).space va Acc.fetch.code = .ok (leaf, pa) → x < pa ∨ pa + 8 ≤ x) →
        readByte s1 x = readByte s x)
    ∧ (∀ leaf pa, walk s (s.core c).space va Acc.fetch.code = .ok (leaf, pa) →
        readWord s1 pa = leaf ∨ readWord s1 pa = withBit leaf 3 true))

/-- What the number of a register names (R85, R86, R88): the group of the Reel window, the trap window, the fast bank or a
global; g0 reads T.NIL and a write to it changes nothing; a write of any other changes that register alone. -/
def Obligations.RegisterNumbersName : Prop :=
  (∀ (k : Core) n, k.tw = false → k.fb = false → k.cwp < 12 → n < 8 →
    k.getReg n = Tbl.getD k.reel unbound (8 * (12 + (k.cwp + 11) % 12) + n))
  ∧ (∀ (k : Core) n, k.tw = false → k.fb = false → k.cwp < 12 → n < 8 → k.getReg (8 + n) = Tbl.getD k.reel unbound (8 * k.cwp + n))
  ∧ (∀ (k : Core) n, k.tw = false → k.fb = false → k.cwp < 12 → n < 8 →
    k.getReg (16 + n) = Tbl.getD k.reel unbound (8 * (12 + k.cwp) + n))
  ∧ (∀ (k : Core) n, k.tw = true → n < 24 → (k.fb = false ∨ n < 8 ∨ 16 ≤ n) → k.getReg n = Tbl.getD k.trapw unbound n)
  ∧ (∀ (k : Core) n, k.tw = false → k.fb = true → k.cwp < 12 → n < 8 →
    k.getReg n = Tbl.getD k.reel unbound (8 * (12 + (k.cwp + 11) % 12) + n)
      ∧ k.getReg (16 + n) = Tbl.getD k.reel unbound (8 * (12 + k.cwp) + n))
  ∧ (∀ (k : Core) n, k.fb = true → n < 8 → k.getReg (8 + n) = Tbl.getD k.fast unbound n)
  ∧ (∀ (k : Core) n, 0 < n → n < 8 → k.getReg (24 + n) = Tbl.getD k.globals unbound n)
  ∧ (∀ (k : Core) w, k.getReg 24 = nil ∧ k.setReg 24 w = k)
  ∧ (∀ (k : Core) n m w, n < 32 → m < 32 → n ≠ 24 → (k.setReg n w).getReg m = if m = n then w else k.getReg m)

/-- Where operand B of a register or immediate mode comes from (R128): the register, the five-bit or 32-bit number, the
word of the instruction; resolving and reading it changes nothing. Mode SLOT names slot i of the object that RB points
to, and an index at or beyond the bound is SLOT_BOUNDS at step 8. -/
def Obligations.OperandsOfTheInstruction : Prop :=
  (∀ c set l al w ac acc s, l.mode = 0 → set ≠ .none → ∃ r, resolveB c set l al w ac s = .ok (r, s) ∧ r.post = none
    ∧ readB c acc r.b s = .ok ((s.core c).getReg l.rb.toNat, s))
  ∧ (∀ c set l al w ac acc s, l.mode = 1 → ∃ r, resolveB c set l al w ac s = .ok (r, s) ∧ r.post = none
    ∧ readB c acc r.b s = .ok (fix (signed 5 l.rb.toNat), s))
  ∧ (∀ c set l al w ac acc s, l.mode = 2 → ∃ r, resolveB c set l al w ac s = .ok (r, s) ∧ r.post = none
    ∧ readB c acc r.b s = .ok (fix (signed 32 l.ext0.toNat), s))
  ∧ (∀ c set l al w ac acc s, l.mode = 3 → ∃ r, resolveB c set l al w ac s = .ok (r, s) ∧ r.post = none
    ∧ readB c acc r.b s = .ok (l.ext1 ++ l.ext0, s))
  ∧ (∀ c set l al w ac s x o s1 s2 s3 i, l.mode = 4 → set ≠ .Y → objectBase c l.rb.toNat s = .ok (x, s1) →
    openObject c x 8 s1 = .ok (o, s2) → i = l.ext0.toNat → o.isBytes = false → i < o.bound → o.slotAddr i % al = 0 →
    s3 = s2 → resolveB c set l al w ac s = .ok (⟨.word (o.slotAddr i) o.imm, none⟩, s3))
  ∧ (∀ c set l al w ac s x o s1 s2 i, l.mode = 4 → set ≠ .Y → objectBase c l.rb.toNat s = .ok (x, s1) →
    openObject c x 8 s1 = .ok (o, s2) → i = l.ext0.toNat → o.isBytes = false → o.bound ≤ i → ac ≠ 0 →
    ∃ t, resolveB c set l al w ac s = .error (.trap t) ∧ t.cause = .slotBounds ∧ t.step = 8 ∧ t.detail = o.bound
      ∧ t.foper = fix i)

/-- A long operation that does not reach its effect. A false condition only passes on. A decode fault is raised whatever
the condition. IMM64 with a reserved tag, a tag that is no immediate's or a malformed immediate is such a fault
(R137). An instruction that ends beyond the instruction area is ILLEGAL_OP with subcode 5 and nothing of it executes
(R116). -/
def Obligations.FaultsBeforeTheEffect : Prop :=
  (∀ s a op l c s1 body, Runs s a c → fetchM c l.parcels 5 (l.word op) (s.modCore c Core.landAll) = .ok ((), s1) →
    decodeFault op l = none → ccHolds (s1.core c) l.cc.toNat = false → runLong s a op l body = retireLong s l s1 c)
  ∧ (∀ s a op l c s1 t body, Runs s a c → fetchM c l.parcels 5 (l.word op) (s.modCore c Core.landAll) = .ok ((), s1) →
    decodeFault op l = some t → t.step = 3 ∧ runLong s a op l body = raised s l c t)
  ∧ (∀ op l, fieldsOk op l = true → l.mode = 3 → isReservedTag (tagOf l.imm64) = true →
    decodeFault op l = some (wordTrap .tagReserved l.imm64 3 0))
  ∧ (∀ op l, fieldsOk op l = true → l.mode = 3 → isReservedTag (tagOf l.imm64) = false →
    isImmediateTag (tagOf l.imm64) = false → decodeFault op l = some (wordTrap .tagForge l.imm64 3 0))
  ∧ (∀ op l, fieldsOk op l = true → l.mode = 3 → isReservedTag (tagOf l.imm64) = false →
    isImmediateTag (tagOf l.imm64) = true → immediateOk l.imm64 = false →
    decodeFault op l = some (wordTrap .wordFormat l.imm64 3 0))
  ∧ (∀ s a op l c s1 b n i tr body, Runs s a c → (s.core c).area = some (b, n) → b ≤ (s.core c).pc → i < l.parcels →
    tr = { cause := .illegalOp, sub := 5, step := 1, detail := l.word op } →
    fetchParcels c tr (some (b, n)) (s.core c).pc i (s.modCore c Core.landAll) = .ok ((), s1) →
    b + n < (s.core c).pc + 4 * i + 4 → runLong s a op l body = raised s l c tr)
  ∧ (∀ s a p c s1 b n i tr, Runs s a c → (s.core c).area = some (b, n) → b ≤ (s.core c).pc → i < p.bytes / 4 →
    tr = { cause := .illegalOp, sub := 5, step := 1, detail := p.word } →
    fetchParcels c tr (some (b, n)) (s.core c).pc i (s.modCore c Core.landAll) = .ok ((), s1) →
    b + n < (s.core c).pc + 4 * i + 4 →
    exec (.pair a p) s = .next (mirror (raiseStop (s.modCore c Core.landAll) c (.trap tr) (s.core c).pc
      (((s.core c).jump).getD ((s.core c).pc + p.bytes))) c))
  ∧ (∀ s a p x c s1 b n i tr, Runs s a c → (s.core c).area = some (b, n) → b ≤ (s.core c).pc → i < 1 + pfxParcels x →
    tr = { cause := .illegalOp, sub := 5, step := 1, detail := pfxWord p } →
    fetchParcels c tr (some (b, n)) (s.core c).pc i (s.modCore c Core.landAll) = .ok ((), s1) →
    b + n < (s.core c).pc + 4 * i + 4 →
    exec (.pfx a p x) s = .next (mirror (raiseStop (s.modCore c Core.landAll) c (.trap tr) (s.core c).pc
      (((s.core c).jump).getD ((s.core c).pc + 4 * (1 + pfxParcels x)))) c))

/-- What retiring an operation with a result changes: RD (g0 discards it), the index register that SLOTXI moves, the pc,
and by the loop test COUNT and STATUS.LD. Every other register, every bit register, every other field of STATUS, the
cores of other troikas, memory, the setup registers, the units and the queue stay as its effect left them. -/
def Obligations.RetiringWritesOneRegister : Prop :=
  ∀ s0 l c r s v t, t = done s0 l c r s v →
    t.mem = s.mem ∧ t.setup = s.setup ∧ t.units = s.units ∧ t.pending = s.pending ∧ t.poison = s.poison
    ∧ (∀ d, troikaOfCore d ≠ troikaOfCore c → t.core d = s.core d)
    ∧ (∀ d, troikaVoted s (troikaOfCore c) = false → d ≠ c → t.core d = s.core d)
    ∧ (∀ n, n < 32 → n ≠ l.rd.toNat → (∀ p, r.post = some p → p.1 < 32 ∧ n ≠ p.1) → (t.core c).getReg n = (s.core c).getReg n)
    ∧ (l.rd.toNat ≠ 24 → (t.core c).getReg l.rd.toNat = v) ∧ (t.core c).getReg 24 = nil
    ∧ (t.core c).bits = (s.core c).bits ∧ (t.core c).ls = (s.core c).ls ∧ (t.core c).le = (s.core c).le
    ∧ withBits (t.core c).status 26 24 0 = withBits (s.core c).status 26 24 0
    ∧ (t.core c).cwp = (s.core c).cwp ∧ (t.core c).mode = (s.core c).mode ∧ (t.core c).sbuf = (s.core c).sbuf
    ∧ (t.core c).pend = (s.core c).pend

/-- MOV writes the word of operand B into RD. ST writes RA into operand B: into the register of mode 0x0, or to memory, RA
through the load barrier first. SWAP does both, the memory form as one exchange. Nothing else changes: each equation
gives the whole next state. A store to an object whose IMM flag is set raises IMMUTABLE_WRITE with the address, and
SWAP does after it has read the word. -/
def Obligations.MovesComplete : Prop :=
  ((∀ s a l c r x y s3, Ready s a .mov l c r x y s3 → exec (.mov a l) s = .next (done s l c r s3 y))
    ∧ (∀ s a l c r s2 n, Located s a .st l c 8 0 3 r s2 → r.b = .reg n →
        exec (.st a l) s = .next (doneC s l c r (withReg s2 c n ((s2.core c).getReg l.ra.toNat))))
    ∧ (∀ s a l c r s2 va w s3 s4, Located s a .st l c 8 0 3 r s2 → r.b = .word va false →
        healRegM c l.ra.toNat s2 = .ok (w, s3) → storeWord c va w s3 = .ok ((), s4) →
        exec (.st a l) s = .next (doneC s l c r s4))
    ∧ (∀ s a l c r s2 n, Located s a .swap l c 8 0 4 r s2 → r.b = .reg n →
        exec (.swap a l) s = .next (retireLong s l
          (withReg (withReg s2 c n ((s2.core c).getReg l.ra.toNat)) c l.rd.toNat ((s2.core c).getReg n)) c))
    ∧ (∀ s a l c r s2 va w s3 old s4, Located s a .swap l c 8 0 4 r s2 → r.b = .word va false →
        healRegM c l.ra.toNat s2 = .ok (w, s3) → Exchanges c va s3 old w s4 →
        exec (.swap a l) s = .next (done s l c r s4 old)))
  ∧ ((∀ s a l c r s2 va w s3, Located s a .st l c 8 0 3 r s2 → r.b = .word va true →
        healRegM c l.ra.toNat s2 = .ok (w, s3) →
        exec (.st a l) s = .next (raised s l c { cause := .immutableWrite, step := 11, access := 3, faddr := fixN va }))
    ∧ (∀ s a l c r s2 va w, Located s a .stb l c 1 0 3 r s2 → r.b = .byte va true →
        (s2.core c).getReg l.ra.toNat = w → isFix w = true →
        exec (.stb a l) s = .next (raised s l c { cause := .immutableWrite, step := 11, access := 3, faddr := fixN va }))
    ∧ (∀ s a l c r s2 va w s3 old s4, Located s a .swap l c 8 0 4 r s2 → r.b = .word va true →
        healRegM c l.ra.toNat s2 = .ok (w, s3) → loadWord c va .atomic (drainStores s3 c) = .ok (old, s4) → Drains s3 c →
        exec (.swap a l) s = .next (raised s l c { cause := .immutableWrite, step := 11, access := 4, faddr := fixN va })))

/-- LDB reads one byte as a T.FIX, of memory or of the host window; STB writes bits [7:0] of RA, to memory or as a posted
write to the host; LDBIT reads a field of RA bits; STBIT reads the field and writes RA's low bits into it in one
atomic update of its granule. -/
def Obligations.ByteAndFieldMovesComplete : Prop :=
  (∀ s a l c r s2 va imm bs s3, Located s a .ldb l c 1 0 2 r s2 → r.b = .byte va imm →
      loadBytes c va 1 .read true s2 = .ok (bs, s3) →
      exec (.ldb a l) s = .next (done s l c r s3 (fixN (ofBytes bs))))
  ∧ (∀ s a l c r s2 off b, Located s a .ldb l c 1 0 2 r s2 → r.b = .foreign off → a.host = .data b →
      s2.pcie.link = true →
      exec (.ldb a l) s = .next (done s l c r { s2 with pcie := { s2.pcie with l1 := false } } (fixN b.toNat)))
  ∧ (∀ s a l c r s2 va w s3, Located s a .stb l c 1 0 3 r s2 → r.b = .byte va false →
      (s2.core c).getReg l.ra.toNat = w → isFix w = true →
      storeBytesM c va [BitVec.ofNat 8 (valOf w)] s2 = .ok ((), s3) →
      exec (.stb a l) s = .next (doneC s l c r s3))
  ∧ (∀ s a l c r s2 off w, Located s a .stb l c 1 0 3 r s2 → r.b = .foreign off →
      (s2.core c).getReg l.ra.toNat = w → isFix w = true →
      exec (.stb a l) s = .next (doneC s l c r (sendHost s2 (hostAddr s2 off) [BitVec.ofNat 8 (valOf w)])))
  ∧ (∀ s a l c s1 r s2 va lo n imm w bs s3, Issues s a .ldbit l c s1 → (s1.core c).getReg l.ra.toNat = w →
      isFix w = true → 1 ≤ valOf w → valOf w ≤ 56 →
      resolveB c Opcode.ldbit.modes l 1 (valOf w) 2 s1 = .ok (r, s2) → r.b = .bits va lo n imm →
      loadBytes c va 16 .read true s2 = .ok (bs, s3) →
      exec (.ldbit a l) s = .next (done s l c r s3 (fixN (ofBytes bs / 2 ^ lo % 2 ^ n))))
  ∧ (∀ s a l c s1 r s2 va lo n x w bs s3 s4, Issues s a .stbit l c s1 → (s1.core c).getReg l.rd.toNat = w →
      isFix w = true → 1 ≤ valOf w → valOf w ≤ 56 → (s1.core c).getReg l.ra.toNat = x → isFix x = true →
      resolveB c Opcode.stbit.modes l 1 (valOf w) 4 s1 = .ok (r, s2) → r.b = .bits va lo n false →
      loadBytes c va 16 .atomic true (drainStores s2 c) = .ok (bs, s3) →
      atomicWrite c va (toBytes 16 (ofBytes bs - ofBytes bs / 2 ^ lo % 2 ^ n * 2 ^ lo + valOf x % 2 ^ n * 2 ^ lo)) false s3
        = .ok ((), s4) → Drains s2 c →
      exec (.stbit a l) s = .next (done s l c r s4 (fixN (ofBytes bs / 2 ^ lo % 2 ^ n))))

/-- MFC reads the control register that B numbers. MTC writes XFMT, DS and NIWX of STATUS where the written word has a 1
(IM as well in the compact configuration), leaves CWP, and sets a loop register. A number of no control register is
RESERVED_FIELD. SETUPRD of a low half captures the whole register and reads its bits [31:0]; the next SETUPRD of the
high half reads the captured bits [63:32], or the register's own where none is captured. SETUPWR of a low half holds
it; the next SETUPWR of the high half commits both as one write of the register; a high half with none held is a write
of that half. -/
def Obligations.ControlAndSetupAccessComplete : Prop :=
  ((∀ s a l c r x y s3 v, Ready s a .mfc l c r x y s3 → isFix y = true → controlValue (s3.core c) (valOf y) = some v →
        exec (.mfc a l) s = .next (done s l c r s3 v))
    ∧ (∀ s a l c r x y s3, Ready s a .mfc l c r x y s3 → isFix y = true → controlValue (s3.core c) (valOf y) = none →
        exec (.mfc a l) s = .next (raised s l c { cause := .reservedField, step := 10, detail := l.word .mfc }))
    ∧ (∀ s a l c r x y s3, Ready s a .mtc l c r x y s3 → isFix x = true → y = fixN 0 →
        exec (.mtc a l) s = .next (doneC s l c r (s3.modCore c (fun k => writeStatus k s3.compact x))))
    ∧ (∀ s a l c r x y s3, Ready s a .mtc l c r x y s3 → isFix x = true → y = fixN 1 →
        exec (.mtc a l) s = .next (doneC s l c r s3))
    ∧ (∀ s a l c r x y s3 n, Ready s a .mtc l c r x y s3 → tagOf x = 0x30 → addressFormatOk x = true → n < 4 →
        y = fixN (0x10 + n) →
        exec (.mtc a l) s = .next (doneC s l c r (s3.modCore c (fun k => { k with ls := Tbl.putD k.ls ret0 n x }))))
    ∧ (∀ s a l c r x y s3 n, Ready s a .mtc l c r x y s3 → tagOf x = 0x30 → addressFormatOk x = true → n < 4 →
        y = fixN (0x14 + n) →
        exec (.mtc a l) s = .next (doneC s l c r (s3.modCore c (fun k => { k with le := Tbl.putD k.le ret0 n x }))))
    ∧ (∀ s a l c r x y s3 n, Ready s a .mtc l c r x y s3 → isFix x = true → valOf x < 2 ^ 36 → n < 4 →
        y = fixN (0x18 + n) →
        exec (.mtc a l) s = .next (doneC s l c r (s3.modCore c (fun k => { k with lc := Tbl.putD k.lc (fixN 0) n x })))))
  ∧ ((∀ s a l c r x y s3 off, Ready s a .setuprd l c r x y s3 → y = fixN off → off ≤ 0xFFFFF8 → off % 8 = 0 → 0x10000 ≤ off → Drains s3 c →
        exec (.setuprd a l) s = .next (done s l c r
          ((drainStores s3 c).modCore c (fun k => { k with setupHeld := none, setupCap := some (off, setupRead (drainStores s3 c) c off) }))
          (fixN (bitsOf (setupRead (drainStores s3 c) c off) 31 0))))
    ∧ (∀ s a l c r x y s3 off s4, Ready s a .setuprd l c r x y s3 → y = fixN off → off % 8 = 0 → off < 0x10000 →
        s4 = drainStores s3 c → Drains s3 c →
        exec (.setuprd a l) s = .next (done s l c r
          ((takeFree s4).2.modCore c (fun k => { k with setupHeld := none, setupCap := some (off, setupRead s4 c off) }))
          (fixN (bitsOf (setupRead s4 c off) 31 0))))
    ∧ (∀ s a l c r x y s3 off, Ready s a .setuprd l c r x y s3 → y = fixN (off + 4) → off ≤ 0xFFFFF8 → off % 8 = 0 →
        0x10000 ≤ off → ((drainStores s3 c).core c).setupCap = none → Drains s3 c →
        exec (.setuprd a l) s = .next (done s l c r
          ((drainStores s3 c).modCore c (fun k => { k with setupHeld := none, setupCap := none }))
          (fixN (bitsOf (setupRead (drainStores s3 c) c off) 63 32))))
    ∧ (∀ s a l c r x y s3 off v, Ready s a .setuprd l c r x y s3 → y = fixN (off + 4) → off ≤ 0xFFFFF8 → off % 8 = 0 →
        0x10000 ≤ off → ((drainStores s3 c).core c).setupCap = some (off, v) → Drains s3 c →
        exec (.setuprd a l) s = .next (done s l c r
          ((drainStores s3 c).modCore c (fun k => { k with setupHeld := none, setupCap := none })) (fixN (bitsOf v 63 32))))
    ∧ (∀ s a l c r x y s3 off, Ready s a .setupwr l c r x y s3 → isFix x = true → valOf x < 2 ^ 32 → y = fixN off →
        off ≤ 0xFFFFF8 → off % 8 = 0 → Drains s3 c →
        exec (.setupwr a l) s = .next (doneC s l c r ((drainStores s3 c).modCore c
          (fun k => { k with setupCap := none, setupHeld := some (off, BitVec.ofNat 64 (valOf x)) }))))
    ∧ (∀ s a l c r x y s3 off lo, Ready s a .setupwr l c r x y s3 → isFix x = true → valOf x < 2 ^ 32 →
        y = fixN (off + 4) → off ≤ 0xFFFFF8 → off % 8 = 0 → ((drainStores s3 c).core c).setupHeld = some (off, lo) → Drains s3 c →
        exec (.setupwr a l) s = .next (doneC s l c r (setupWrite
          ((drainStores s3 c).modCore c (fun k => { k with setupCap := none, setupHeld := none })) off
          ⟨.core c, .full, BitVec.ofNat 64 (valOf x * 2 ^ 32 + lo.toNat)⟩)))
    ∧ (∀ s a l c r x y s3 off, Ready s a .setupwr l c r x y s3 → isFix x = true → valOf x < 2 ^ 32 →
        y = fixN (off + 4) → off ≤ 0xFFFFF8 → off % 8 = 0 → ((drainStores s3 c).core c).setupHeld = none → Drains s3 c →
        exec (.setupwr a l) s = .next (doneC s l c r (setupWrite
          ((drainStores s3 c).modCore c (fun k => { k with setupCap := none, setupHeld := none })) off
          ⟨.core c, .high, BitVec.ofNat 64 (valOf x * 2 ^ 32)⟩))))

/-- ADD, SUB and MUL of two integers give the exact integer, and of a float the binary64 result; ADD and SUB of T.FIX
operands take the first row of R185, MUL the second. DIV and REM truncate toward zero, and raise DIVIDE_ZERO on the
divisor 0; DIV of floats is the binary64 quotient. -/
def Obligations.IntegerArithmeticCompletes : Prop :=
  (IntegerForm .add .add 0x0 (· + ·) flagsAdd ∧ IntegerForm .sub .sub 0x1 (· - ·) flagsSub
    ∧ IntegerForm .mul .mul 0x2 (· * ·) (fun i j => flagsInt (i * j))
    ∧ FloatForm .add .add 0x0 addF ∧ FloatForm .sub .sub 0x1 subF ∧ FloatForm .mul .mul 0x2 mulF)
  ∧ ((∀ s a l c r x y s3 i j s5 w s6, Ready s a .div l c r x y s3 → Admits s3 0x3 x (some y) →
      Numbers c x y s3 (.int i) (.int j) s5 → j ≠ 0 → intResult c (i.tdiv j) s5 = .ok (w, s6) →
      exec (.div a l) s = .next (done s l c r (withFlags s6 c (flagsInt (i.tdiv j))) w))
    ∧ (∀ s a l c r x y s3 i j s5 w s6, Ready s a .rem l c r x y s3 → Admits s3 0x4 x (some y) →
      Numbers c x y s3 (.int i) (.int j) s5 → j ≠ 0 → intResult c (i.tmod j) s5 = .ok (w, s6) →
      exec (.rem a l) s = .next (done s l c r (withFlags s6 c (flagsInt (i.tmod j))) w))
    ∧ (∀ s a l c r x y s3 i s5, Ready s a .div l c r x y s3 → Admits s3 0x3 x (some y) →
      Numbers c x y s3 (.int i) (.int 0) s5 → exec (.div a l) s = .next (raised s l c { cause := .divideZero, step := 10 }))
    ∧ (∀ s a l c r x y s3 i s5, Ready s a .rem l c r x y s3 → Admits s3 0x4 x (some y) →
      Numbers c x y s3 (.int i) (.int 0) s5 → exec (.rem a l) s = .next (raised s l c { cause := .divideZero, step := 10 }))
    ∧ FloatForm .div .div 0x3 divF)

/-- NEG and ABS of an integer and of a float; a NaN is quieted. ADD and SUB of times: a time and an integer give the time
of 56 bits, two times their signed difference. The stack forms give the address as a T.SP, with the flags unchanged,
and the difference of two T.SP as a T.FIX. -/
def Obligations.NegationsAndTimesComplete : Prop :=
  ((∀ s a l c r x y s3 j s4 w s5, Ready s a .neg l c r x y s3 → Admits s3 0x5 y none →
      numOf c y s3 = .ok (.int j, s4) → intResult c (-j) s4 = .ok (w, s5) →
      exec (.neg a l) s = .next (done s l c r (withFlags s5 c (if isFix y then flagsSub 0 j else flagsInt (-j))) w))
    ∧ (∀ s a l c r x y s3 j s4 w s5, Ready s a .abs l c r x y s3 → Admits s3 0x6 y none →
      numOf c y s3 = .ok (.int j, s4) → intResult c j.natAbs s4 = .ok (w, s5) →
      exec (.abs a l) s = .next (done s l c r (withFlags s5 c (if isFix y then flagsAbs j else flagsInt j.natAbs)) w))
    ∧ (∀ s a l c r x y s3 b s4 w s5, Ready s a .neg l c r x y s3 → Admits s3 0x5 y none →
      numOf c y s3 = .ok (.flt b, s4) → floatResult c (if isNaNF b then quiet b else flipSign b) s4 = .ok (w, s5) →
      exec (.neg a l) s = .next (done s l c r (withFlags s5 c (flagsFloat (if isNaNF b then quiet b else flipSign b))) w))
    ∧ (∀ s a l c r x y s3 b s4 w s5, Ready s a .abs l c r x y s3 → Admits s3 0x6 y none →
      numOf c y s3 = .ok (.flt b, s4) → floatResult c (if isNaNF b then quiet b else b % 2 ^ 63) s4 = .ok (w, s5) →
      exec (.abs a l) s = .next (done s l c r (withFlags s5 c (flagsFloat (if isNaNF b then quiet b else b % 2 ^ 63))) w)))
  ∧ ((∀ s a l c r x y s3, Ready s a .add l c r x y s3 → (isTime x && isFix y || isFix x && isTime y) = true →
      Admits s3 0x0 x (some y) →
      exec (.add a l) s = .next (done s l c r (withFlags s3 c (flagsTime ((valOf x + valOf y) % 2 ^ 56)))
        (mkWord 6 ((valOf x + valOf y) % 2 ^ 56))))
    ∧ (∀ s a l c r x y s3, Ready s a .sub l c r x y s3 → isTime x = true → isTime y = true → Admits s3 0x1 x (some y) →
      exec (.sub a l) s = .next (done s l c r (withFlags s3 c (flagsInt (timeDiff x y))) (fix (timeDiff x y))))
    ∧ (∀ s a l c r x y s3, Ready s a .sub l c r x y s3 → isTime x = true → isFix y = true → Admits s3 0x1 x (some y) →
      exec (.sub a l) s = .next (done s l c r
        (withFlags s3 c (flagsTime (((valOf x : Int) - fixVal y) % 2 ^ 56).toNat)) (mkWord 6 (((valOf x : Int) - fixVal y) % 2 ^ 56).toNat)))
    ∧ (∀ s a l c r x y s3 n : _, Ready s a .add l c r x y s3 → tagOf x = 0x32 → isFix y = true →
      (valOf x : Int) + fixVal y = (n : Nat) → n < 2 ^ 47 → n % 16 = 0 →
      exec (.add a l) s = .next (done s l c r s3 (mkWord 0x32 n)))
    ∧ (∀ s a l c r x y s3 n : _, Ready s a .sub l c r x y s3 → tagOf x = 0x32 → isFix y = true →
      (valOf x : Int) - fixVal y = (n : Nat) → n < 2 ^ 47 → n % 16 = 0 →
      exec (.sub a l) s = .next (done s l c r s3 (mkWord 0x32 n)))
    ∧ (∀ s a l c r x y s3, Ready s a .sub l c r x y s3 → tagOf x = 0x32 → tagOf y = 0x32 →
      exec (.sub a l) s = .next (done s l c r s3 (fix ((valOf x : Int) - valOf y)))))

/-- CMP of two T.FIX writes f0 to f3 of their difference; of two times, of two T.CHAR and of other numbers it writes the
sign of the difference, and C for an unordered pair. Only flags change. FCMP compares as binary64. ADDTO and SUBTO
write B := RA + B and B := B - RA into operand B, with the flags of ADD and SUB. Generic operations of an operand pair
whose table entry has KIND 2 raise DISPATCH_TRAP, and nothing of the operation stays. -/
def Obligations.ComparisonsAndUpdatesComplete : Prop :=
  ((∀ s a l c r x y s3, Ready s a .cmp l c r x y s3 → bothFix x y = true → Admits s3 0x7 x (some y) →
      exec (.cmp a l) s = .next (doneC s l c r (withFlags s3 c (flagsSub (fixVal x) (fixVal y)))))
    ∧ (∀ s a l c r x y s3, Ready s a .cmp l c r x y s3 → isTime x = true → isTime y = true → Admits s3 0x7 x (some y) →
      exec (.cmp a l) s = .next (doneC s l c r (withFlags s3 c (flagsCmp (some (timeDiff x y))))))
    ∧ (∀ s a l c r x y s3, Ready s a .cmp l c r x y s3 → tagOf x = 1 → tagOf y = 1 → Admits s3 0x7 x (some y) →
      exec (.cmp a l) s = .next (doneC s l c r (withFlags s3 c (flagsCmp (some ((valOf x : Int) - valOf y))))))
    ∧ (∀ s a l c r x y s3 i j s5, Ready s a .cmp l c r x y s3 → bothFix x y = false → Admits s3 0x7 x (some y) →
      Numbers c x y s3 (.int i) (.int j) s5 →
      exec (.cmp a l) s = .next (doneC s l c r (withFlags s5 c (flagsCmp (some (i - j))))))
    ∧ (∀ s a l c r x y s3 p q s5, Ready s a .cmp l c r x y s3 → Admits s3 0x7 x (some y) →
      Numbers c x y s3 p q s5 → anyFloat p q = true →
      exec (.cmp a l) s = .next (doneC s l c r (withFlags s5 c (flagsCmp (cmpF p.bits q.bits)))))
    ∧ (∀ s a l c r x y s3 p q s5, Ready s a .fcmp l c r x y s3 → Admits s3 0xF x (some y) →
      Numbers c x y s3 p q s5 →
      exec (.fcmp a l) s = .next (doneC s l c r (withFlags s5 c (flagsCmp (cmpF p.bits q.bits))))))
  ∧ ((∀ s a l c r x y s3 i j s5 w s6 s7, Ready s a .addto l c r x y s3 → Admits s3 0x0 x (some y) →
      Numbers c x y s3 (.int i) (.int j) s5 → intResult c (i + j) s5 = .ok (w, s6) →
      writeB c r.b w (withFlags s6 c (if bothFix x y then flagsAdd i j else flagsInt (i + j))) = .ok ((), s7) →
      exec (.addto a l) s = .next (doneC s l c r s7))
    ∧ (∀ s a l c r x y s3 i j s5 w s6 s7, Ready s a .subto l c r x y s3 → Admits s3 0x1 y (some x) →
      Numbers c y x s3 (.int i) (.int j) s5 → intResult c (i - j) s5 = .ok (w, s6) →
      writeB c r.b w (withFlags s6 c (if bothFix y x then flagsSub i j else flagsInt (i - j))) = .ok ((), s7) →
      exec (.subto a l) s = .next (doneC s l c r s7))
    ∧ (∀ s a l c r x y s3 p q s5 w s6 s7, Ready s a .addto l c r x y s3 → Admits s3 0x0 x (some y) →
      Numbers c x y s3 p q s5 → anyFloat p q = true → floatResult c (addF p.bits q.bits) s5 = .ok (w, s6) →
      writeB c r.b w (withFlags s6 c (flagsFloat (addF p.bits q.bits))) = .ok ((), s7) →
      exec (.addto a l) s = .next (doneC s l c r s7))
    ∧ (∀ s a l c r x y s3 p q s5 w s6 s7, Ready s a .subto l c r x y s3 → Admits s3 0x1 y (some x) →
      Numbers c y x s3 p q s5 → anyFloat p q = true → floatResult c (subF p.bits q.bits) s5 = .ok (w, s6) →
      writeB c r.b w (withFlags s6 c (flagsFloat (subF p.bits q.bits))) = .ok ((), s7) →
      exec (.subto a l) s = .next (doneC s l c r s7)))
  ∧ (DispatchForm .add .add 0x0 ∧ DispatchForm .sub .sub 0x1 ∧ DispatchForm .mul .mul 0x2
    ∧ DispatchForm .div .div 0x3 ∧ DispatchForm .rem .rem 0x4 ∧ DispatchForm .cmp .cmp 0x7
    ∧ DispatchForm .fadd .fadd 0x9 ∧ DispatchForm .fsub .fsub 0xA ∧ DispatchForm .fmul .fmul 0xB
    ∧ DispatchForm .fdiv .fdiv 0xC ∧ DispatchForm .fcmp .fcmp 0xF ∧ DispatchUnaryForm .neg .neg 0x5
    ∧ DispatchUnaryForm .abs .abs 0x6 ∧ DispatchUnaryForm .fsqrt .fsqrt 0xD)

/-- FADD, FSUB, FMUL and FDIV round to nearest even on binary64, integers converted first; FSQRT the root; FCVT mode 0 to
a float, a NaN quieted, modes 1 to 3 to an integer. -/
def Obligations.FloatsComplete : Prop :=
  (∀ (k : At → Long → Instr) op g f, (k, op, g, f) ∈ [(Instr.fadd, Opcode.fadd, 0x9, addF), (.fsub, .fsub, 0xA, subF),
      (.fmul, .fmul, 0xB, mulF), (.fdiv, .fdiv, 0xC, divF)] →
    ∀ s a l c r x y s3 p q s5 w s6, Ready s a op l c r x y s3 → Admits s3 g x (some y) → Numbers c x y s3 p q s5 →
      floatResult c (f p.bits q.bits) s5 = .ok (w, s6) →
      exec (k a l) s = .next (done s l c r (withFlags s6 c (flagsFloat (f p.bits q.bits))) w))
  ∧ (∀ s a l c r x y s3 p s4 w s5, Ready s a .fsqrt l c r x y s3 → Admits s3 0xD y none → numOf c y s3 = .ok (p, s4) →
      floatResult c (sqrtF p.bits) s4 = .ok (w, s5) →
      exec (.fsqrt a l) s = .next (done s l c r (withFlags s5 c (flagsFloat (sqrtF p.bits))) w))
  ∧ (∀ s a l c r y s3 i s4 w s5, Ready s a .fcvt l c r (fixN 0) y s3 → Admits s3 0xE y none →
      numOf c y s3 = .ok (.int i, s4) → floatResult c (intToF i) s4 = .ok (w, s5) →
      exec (.fcvt a l) s = .next (done s l c r (withFlags s5 c (flagsFloat (intToF i))) w))
  ∧ (∀ s a l c r y s3 b s4 w s5, Ready s a .fcvt l c r (fixN 0) y s3 → Admits s3 0xE y none →
      numOf c y s3 = .ok (.flt b, s4) → floatResult c (if isNaNF b then quiet b else b) s4 = .ok (w, s5) →
      exec (.fcvt a l) s = .next (done s l c r (withFlags s5 c (flagsFloat (if isNaNF b then quiet b else b))) w))
  ∧ (∀ s a l c r m y s3 p i s4 w s5, Ready s a .fcvt l c r (fixN m) y s3 → 1 ≤ m → m ≤ 3 → Admits s3 0xE y none →
      numOf c y s3 = .ok (p, s4) → numInt m p = some i →
      intResult c i s4 = .ok (w, s5) →
      exec (.fcvt a l) s = .next (done s l c r (withFlags s5 c (flagsInt i)) w))

/-- AND, OR, XOR and ANDN of two T.FIX values, bit by bit; f0 and f1 of the result. SHL keeps 56 bits and tells in f3
whether the value changed; SHR shifts zeros in and SAR the sign. A count is 0 to 63. -/
def Obligations.LogicAndShiftsComplete : Prop :=
  (∀ (k : At → Long → Instr) op (f : Bool → Bool → Bool),
      (k, op, f) ∈ [(Instr.and, Opcode.and, (fun p q => p && q)), (.or, .or, (fun p q => p || q)), (.xor, .xor, (fun p q => p != q)),
        (.andn, .andn, (fun p q => p && !q))] →
      ∀ s a l c r x y s3, Ready s a op l c r x y s3 → isFix x = true → isFix y = true →
        ∃ v, v < 2 ^ 56 ∧ (∀ i, i < 56 → v.testBit i = f (bitOf x i) (bitOf y i))
          ∧ exec (k a l) s = .next (done s l c r (withFlags s3 c [(0, v == 0), (1, v.testBit 55)]) (fixN v)))
  ∧ ((∀ s a l c r x y s3 n v, Ready s a .shl l c r x y s3 → isFix x = true → y = fixN n → n ≤ 63 → v = valOf x * 2 ^ n % 2 ^ 56 →
      exec (.shl a l) s = .next (done s l c r
        (withFlags s3 c [(0, v == 0), (1, v.testBit 55), (3, signed 56 v != fixVal x * 2 ^ n)]) (fixN v)))
    ∧ (∀ s a l c r x y s3 n v, Ready s a .shr l c r x y s3 → isFix x = true → y = fixN n → n ≤ 63 → v = valOf x / 2 ^ n →
      exec (.shr a l) s = .next (done s l c r (withFlags s3 c [(0, v == 0), (1, v.testBit 55)]) (fixN v)))
    ∧ (∀ s a l c r x y s3 n i, Ready s a .sar l c r x y s3 → isFix x = true → y = fixN n → n ≤ 63 → i = fixVal x / 2 ^ n →
      exec (.sar a l) s = .next (done s l c r (withFlags s3 c [(0, i == 0), (1, decide (i < 0))]) (fix i)))
    ∧ (∀ (k : At → Long → Instr) op, (k, op) ∈ [(Instr.shl, Opcode.shl), (.shr, .shr), (.sar, .sar)] →
      ∀ s a l c r x y s3, Ready s a op l c r x y s3 → isFix x = true → isFix y = true → 63 < valOf y →
        exec (k a l) s = .next (raised s l c { cause := .wordFormat, step := 10, foper := y })))

/-- POPC, CLZ and PARITY count the 56 value bits and write f0 alone; BITREV turns a width around. CRCSTEP folds the data
of operand B into the CRC state that RD holds, by the descriptor in RA. BSET and BCLR write, BTEST copies to f4, the
bit register numbered by the sum of RA and operand B, g0 counting 0; BMOV, BAND, BOR and BXOR write bit RA with two
bits that operand B names, inverted by its bit 16. -/
def Obligations.CountsAndBitRegistersComplete : Prop :=
  ((∀ s a l c r x y s3 n, Ready s a .popc l c r x y s3 → isFix y = true → n = ((List.range 56).filter (bitOf y)).length →
      exec (.popc a l) s = .next (done s l c r (withBitReg s3 c 0 (n == 0)) (fixN n)))
    ∧ (∀ s a l c r x y s3 n, Ready s a .parity l c r x y s3 → isFix y = true → n = ((List.range 56).filter (bitOf y)).length % 2 →
      exec (.parity a l) s = .next (done s l c r (withBitReg s3 c 0 (n == 0)) (fixN n)))
    ∧ (∀ s a l c r x y s3 n, Ready s a .clz l c r x y s3 → isFix y = true → n ≤ 56 → (∀ i, 56 ≤ i + n → i < 56 → bitOf y i = false) →
      (n < 56 → bitOf y (55 - n) = true) →
      exec (.clz a l) s = .next (done s l c r (withBitReg s3 c 0 (n == 0)) (fixN n)))
    ∧ (∀ s a l c r x y s3 n, Ready s a .bitrev l c r x y s3 → x = fixN n → 1 ≤ n → n ≤ 56 → isFix y = true →
      ∃ v, v < 2 ^ n ∧ (∀ i, i < n → v.testBit i = bitOf y (n - 1 - i)) ∧ exec (.bitrev a l) s = .next (done s l c r s3 (fixN v))))
  ∧ ((∀ s a l c r x y s3 d k w, Ready s a .crcstep l c r x y s3 → isFix x = true → crcDescOf (valOf x) true = some (d, k) →
      isFix y = true → (s3.core c).getReg l.rd.toNat = w → isFix w = true → valOf w < 2 ^ d.w →
      exec (.crcstep a l) s = .next (done s l c r s3 (fixN (crcFold d (valOf y) k (valOf w)))))
    ∧ (∀ s a l c r x y s3, Ready s a .crcstep l c r x y s3 → (isFix x = false ∨ crcDescOf (valOf x) true = none) →
      exec (.crcstep a l) s = .next (raised s l c (wordTrap .wordFormat x 10 0))))
  ∧ ((∀ s a l c r x y s3 n, Ready s a .bset l c r x y s3 → (l.ra ≠ 24 → isFix x = true) → isFix y = true →
      (if l.ra = 24 then 0 else fixVal x) + fixVal y = (n : Nat) → n ≤ 255 →
      exec (.bset a l) s = .next (doneC s l c r (withBitReg s3 c n true)))
    ∧ (∀ s a l c r x y s3 n, Ready s a .bclr l c r x y s3 → (l.ra ≠ 24 → isFix x = true) → isFix y = true →
      (if l.ra = 24 then 0 else fixVal x) + fixVal y = (n : Nat) → n ≤ 255 →
      exec (.bclr a l) s = .next (doneC s l c r (withBitReg s3 c n false)))
    ∧ (∀ s a l c r x y s3 n, Ready s a .btest l c r x y s3 → (l.ra ≠ 24 → isFix x = true) → isFix y = true →
      (if l.ra = 24 then 0 else fixVal x) + fixVal y = (n : Nat) → n ≤ 255 →
      exec (.btest a l) s = .next (doneC s l c r (withBitReg s3 c 4 ((s3.core c).bit n))))
    ∧ (∀ s a l c r x y s3 d p, Ready s a .bmov l c r x y s3 → (l.ra ≠ 24 ∧ x = fixN d ∨ l.ra = 24 ∧ d = 0) → d ≤ 255 → isFix y = true →
      valOf y < 2 ^ 17 → valOf y / 256 % 256 = 0 → p = (s3.core c).bit (valOf y % 256) →
      exec (.bmov a l) s = .next (doneC s l c r (withBitReg s3 c d (p != bitOf y 16))))
    ∧ (∀ (k : At → Long → Instr) op (f : Bool → Bool → Bool),
      (k, op, f) ∈ [(Instr.band, Opcode.band, (fun p q => p && q)), (.bor, .bor, (fun p q => p || q)), (.bxor, .bxor, (fun p q => p != q))] →
      ∀ s a l c r x y s3 d p q, Ready s a op l c r x y s3 → (l.ra ≠ 24 ∧ x = fixN d ∨ l.ra = 24 ∧ d = 0) → d ≤ 255 → isFix y = true →
        valOf y < 2 ^ 17 → p = (s3.core c).bit (valOf y % 256) → q = (s3.core c).bit (valOf y / 256 % 256) →
        exec (k a l) s = .next (doneC s l c r (withBitReg s3 c d (f p q != bitOf y 16)))))

/-- CONS makes a cell of a cons region that holds RA and operand B, both through the load barrier, and RD the T.CONS of
its address. CAR and CDR of T.NIL are T.NIL, of a cell its words. RPLACA and RPLACD store RA into a word of a cell.
ALLOCV makes a vector of n slots of T.NIL, ALLOCB a byte vector of n zeros, ALLOCI an instance whose class decides its
size and first contents, or a code object from a byte vector. -/
def Obligations.ListsAndAllocationsComplete : Prop :=
  ((∀ s a l c r x y s3 v s4 w s5 va s6, Ready s a .cons l c r x y s3 → healRegM c l.ra.toNat s3 = .ok (v, s4) →
      healB c l y s4 = .ok (w, s5) → newObject c 1 (bytesOfWord v ++ bytesOfWord w) s5 = .ok (va, s6) →
      exec (.cons a l) s = .next (done s l c r s6 (mkWord 0x10 va)))
    ∧ (∀ s a l c r x y s3, Ready s a .car l c r x y s3 → y = nil → exec (.car a l) s = .next (done s l c r s3 nil))
    ∧ (∀ s a l c r x y s3, Ready s a .cdr l c r x y s3 → y = nil → exec (.cdr a l) s = .next (done s l c r s3 nil))
    ∧ (∀ s a l c r x y s3 w s4 v s5, Ready s a .car l c r x y s3 → tagOf y = 0x10 → healB c l y s3 = .ok (w, s4) →
      tagOf w = 0x10 → addressFormatOk w = true → loadWord c (valOf w) .read s4 = .ok (v, s5) → exec (.car a l) s = .next (done s l c r s5 v))
    ∧ (∀ s a l c r x y s3 w s4 v s5, Ready s a .cdr l c r x y s3 → tagOf y = 0x10 → healB c l y s3 = .ok (w, s4) →
      tagOf w = 0x10 → addressFormatOk w = true → loadWord c (valOf w + 8) .read s4 = .ok (v, s5) → exec (.cdr a l) s = .next (done s l c r s5 v))
    ∧ (∀ s a l c r x y s3 w s4 v s5 s6, Ready s a .rplaca l c r x y s3 → tagOf y = 0x10 → healB c l y s3 = .ok (w, s4) →
      tagOf w = 0x10 → addressFormatOk w = true → healRegM c l.ra.toNat s4 = .ok (v, s5) → storeWord c (valOf w) v s5 = .ok ((), s6) →
      exec (.rplaca a l) s = .next (doneC s l c r s6))
    ∧ (∀ s a l c r x y s3 w s4 v s5 s6, Ready s a .rplacd l c r x y s3 → tagOf y = 0x10 → healB c l y s3 = .ok (w, s4) →
      tagOf w = 0x10 → addressFormatOk w = true → healRegM c l.ra.toNat s4 = .ok (v, s5) → storeWord c (valOf w + 8) v s5 = .ok ((), s6) →
      exec (.rplacd a l) s = .next (doneC s l c r s6)))
  ∧ ((∀ s a l c r x y s3 k n va s4, Ready s a .allocv l c r x y s3 → y = fixN n → roundUp (8 * (1 + n)) 16 ≤ 2 ^ 32 → x = fixN k →
      (k = 7 ∨ 0x100 ≤ k ∧ k ≤ 0xFFFF) → newObject c (kindFor false false (taggedBytes (mkHeader 0x21 k n 0) (List.replicate n nil)).length)
        (taggedBytes (mkHeader 0x21 k n 0) (List.replicate n nil)) s3 = .ok (va, s4) →
      exec (.allocv a l) s = .next (done s l c r s4 (mkWord 0x11 va)))
    ∧ (∀ s a l c r x y s3 k n va s4, Ready s a .allocb l c r x y s3 → y = fixN n → roundUp (8 + n) 16 ≤ 2 ^ 32 → x = fixN k →
      (k = 6 ∨ 0x100 ≤ k ∧ k ≤ 0xFFFF) → newObject c (kindFor false false (byteVectorBytes k (List.replicate n 0)).length)
        (byteVectorBytes k (List.replicate n 0)) s3 = .ok (va, s4) →
      exec (.allocb a l) s = .next (done s l c r s4 (mkWord 0x12 va)))
    ∧ (∀ s a l c r x y s3 k n tag ws va s4, Ready s a .alloci l c r x y s3 → y = fixN n → roundUp (8 * (1 + n)) 16 ≤ 2 ^ 32 → x = fixN k →
      (k = 1 ∧ n = 5 ∧ tag = 0x13 ∧ ws = List.replicate n unbound ∨ k = 2 ∧ 1 ≤ n ∧ tag = 0x15 ∧ ws = List.replicate n unbound
        ∨ k = 8 ∧ 5 ≤ n ∧ (∃ j, j ≤ 20 ∧ n - 5 = 2 ^ j) ∧ tag = 0x14 ∧ ws = mailboxSlots (n - 5)
        ∨ k = 0xA ∧ n = 63 ∧ tag = 0x14 ∧ ws = List.replicate n unbound
        ∨ 0x100 ≤ k ∧ k ≤ 0xFFFF ∧ tag = 0x14 ∧ ws = List.replicate n unbound) →
      newObject c (kindFor false false (taggedBytes (mkHeader 0x20 k n 0) ws).length) (taggedBytes (mkHeader 0x20 k n 0) ws) s3 = .ok (va, s4) →
      exec (.alloci a l) s = .next (done s l c r s4 (mkWord tag va)))
    ∧ (∀ s a l c r x y s3 n v s4, Ready s a .alloci l c r x y s3 → y = fixN n → n < 2 ^ 32 → tagOf x = 0x12 →
      newCode c l n y s3 = .ok (v, s4) → exec (.alloci a l) s = .next (done s l c r s4 v)))

/-- LENOF is 0 for T.NIL and the bound of an object; CLASSOF the class of the header, 0 for a cell; IDHASH of an object
that has no stored hash is its address in granules, and HASHED is set, else the stored word; WEAKREF 0 makes a weak
pointer and WEAKREF 1 the strong one again; BITADDR numbers a bit of a byte vector. PIN 0 sets the header's PIN flag
and the region's PINNED bit, UNPIN 0 clears the flag; PIN 1 sets IMM, for a code object once R71 holds, and PIN 4 sets
FMT of a code object that is not yet IMM. TAGSET gives RA's value the immediate tag that operand B numbers, or
T.FOREIGN; a reserved tag, a tag that software may not make and a word that its tag does not allow are refused by
name. TAGOF is the tag. TAGEQ and CLASSIS write f4, EQ and EQL f0. -/
def Obligations.ObjectOperationsComplete : Prop :=
  ((∀ s a l c r x y s3, Ready s a .lenof l c r x y s3 → y = nil → exec (.lenof a l) s = .next (done s l c r s3 (fixN 0)))
    ∧ (∀ s a l c r x y s3 w s4 o s5, Ready s a .lenof l c r x y s3 → isPointerTag (tagOf y) = true →
      healB c l y s3 = .ok (w, s4) → openObject c w 10 s4 = .ok (o, s5) →
      exec (.lenof a l) s = .next (done s l c r s5 (fixN o.bound)))
    ∧ (∀ s a l c r x y s3 w s4 o s5, Ready s a .classof l c r x y s3 → isPointerTag (tagOf y) = true →
      healB c l y s3 = .ok (w, s4) → openObject c w 10 s4 = .ok (o, s5) →
      exec (.classof a l) s = .next (done s l c r s5 (fixN (match o.hdr with | some h => hdrClass h | none => 0))))
    ∧ (∀ s a l c r x y s3 w s4 o s5 h, Ready s a .idhash l c r x y s3 → isPointerTag (tagOf y) = true → tagOf y ≠ 0x10 →
      healB c l y s3 = .ok (w, s4) → openObject c w 10 s4 = .ok (o, s5) → o.hdr = some h → hdrHxt h = false → hdrHashed h = true →
      exec (.idhash a l) s = .next (done s l c r s5 (fixN (o.addr / 16))))
    ∧ (∀ s a l c r x y s3 w s4 o s5 h s6, Ready s a .idhash l c r x y s3 → isPointerTag (tagOf y) = true → tagOf y ≠ 0x10 →
      healB c l y s3 = .ok (w, s4) → openObject c w 10 s4 = .ok (o, s5) → o.hdr = some h → hdrHxt h = false → hdrHashed h = false →
      atomicWrite c o.addr (bytesOfWord (withBit h 3 true)) true (drainStores s5 c) = .ok ((), s6) → Drains s5 c →
      exec (.idhash a l) s = .next (done s l c r s6 (fixN (o.addr / 16))))
    ∧ (∀ s a l c r x y s3 w s4 o s5 h v s6, Ready s a .idhash l c r x y s3 → isPointerTag (tagOf y) = true → tagOf y ≠ 0x10 →
      healB c l y s3 = .ok (w, s4) → openObject c w 10 s4 = .ok (o, s5) → o.hdr = some h → hdrHxt h = true →
      ¬ (tagOf h = 0x20 ∧ hdrClass h = 3) → loadWord c (o.addr + objectSize h 0 - 16) .read s5 = .ok (v, s6) →
      exec (.idhash a l) s = .next (done s l c r s6 v))
    ∧ (∀ s a l c r x y s3 w s4, Ready s a .weakref l c r x y s3 → x = fixN 0 → isPointerTag (tagOf y) = true →
      healB c l y s3 = .ok (w, s4) → exec (.weakref a l) s = .next (done s l c r s4 (mkWord 0x1A (valOf w))))
    ∧ (∀ s a l c r x y s3 w s4 o s5 v, Ready s a .weakref l c r x y s3 → x = fixN 1 → tagOf y = 0x1A →
      healB c l y s3 = .ok (w, s4) → openObject c w 10 s4 = .ok (o, s5) →
      v = mkWord (match o.hdr with | some h => strongTagOfHeader h | none => 0x10) (valOf w) →
      exec (.weakref a l) s = .next (done s l c r (if barrierOn s5 then
        { setMark s5 (valOf w) with mor := { s5.mor with work := s5.mor.work ++ [v] } } else s5) v))
    ∧ (∀ s a l c r x y s3, Ready s a .weakref l c r x y s3 → x = fixN 1 →
      (y = nil ∨ isPointerTag (tagOf y) = true ∧ tagOf y ≠ 0x1A) → exec (.weakref a l) s = .next (done s l c r s3 y))
    ∧ (∀ s a l c r x y s3 w s4 o s5, Ready s a .bitaddr l c r x y s3 → tagOf x = 0x12 → isFix y = true → 0 ≤ fixVal y →
      healRegM c l.ra.toNat s3 = .ok (w, s4) → openObject c w 10 s4 = .ok (o, s5) → fixVal y < 8 * o.bound →
      exec (.bitaddr a l) s = .next (done s l c r s5 (mkWord 0x07 (8 * o.payload + valOf y)))))
  ∧ ((∀ s a l c r x y s3 w s4 o s5 h s6, Ready s a .pin l c r x y s3 → isPointerTag (tagOf x) = true → tagOf x ≠ 0x10 → y = fixN 0 →
      healRegM c l.ra.toNat s3 = .ok (w, s4) → openObject c w 10 s4 = .ok (o, s5) → o.hdr = some h →
      atomicWrite c o.addr (bytesOfWord (withBit h 1 true)) true (drainStores s5 c) = .ok ((), s6) → Drains s5 c →
      exec (.pin a l) s = .next (doneC s l c r (match regionOf s6 o.addr with | some q => descField s6 q 49 49 1 | none => s6)))
    ∧ (∀ s a l c r x y s3 w s4 o s5 h s6, Ready s a .pin l c r x y s3 → isPointerTag (tagOf x) = true → tagOf x ≠ 0x10 → y = fixN 1 →
      healRegM c l.ra.toNat s3 = .ok (w, s4) → openObject c w 10 s4 = .ok (o, s5) → o.hdr = some h →
      ¬ (tagOf h = 0x20 ∧ hdrClass h = 3) →
      atomicWrite c o.addr (bytesOfWord (withBit h 0 true)) true (drainStores s5 c) = .ok ((), s6) → Drains s5 c →
      exec (.pin a l) s = .next (doneC s l c r s6))
    ∧ (∀ s a l c r x y s3 w s4 o s5 h s6 s7, Ready s a .pin l c r x y s3 → isPointerTag (tagOf x) = true → tagOf x ≠ 0x10 → y = fixN 1 →
      healRegM c l.ra.toNat s3 = .ok (w, s4) → openObject c w 10 s4 = .ok (o, s5) → o.hdr = some h →
      tagOf h = 0x20 → hdrClass h = 3 → codeReady c o h s5 = .ok (true, s6) →
      atomicWrite c o.addr (bytesOfWord (withBit h 0 true)) true (drainStores s6 c) = .ok ((), s7) → Drains s6 c →
      exec (.pin a l) s = .next (doneC s l c r s7))
    ∧ (∀ s a l c r x y s3 w s4 o s5 h s6, Ready s a .pin l c r x y s3 → isPointerTag (tagOf x) = true → tagOf x ≠ 0x10 → y = fixN 4 →
      healRegM c l.ra.toNat s3 = .ok (w, s4) → openObject c w 10 s4 = .ok (o, s5) → o.hdr = some h →
      tagOf h = 0x20 → hdrClass h = 3 → hdrImm h = false →
      atomicWrite c o.addr (bytesOfWord (withBit h 4 true)) true (drainStores s5 c) = .ok ((), s6) → Drains s5 c →
      exec (.pin a l) s = .next (doneC s l c r s6))
    ∧ (∀ s a l c r x y s3 w s4 o s5 h s6, Ready s a .unpin l c r x y s3 → isPointerTag (tagOf x) = true → tagOf x ≠ 0x10 → y = fixN 0 →
      healRegM c l.ra.toNat s3 = .ok (w, s4) → openObject c w 10 s4 = .ok (o, s5) → o.hdr = some h →
      atomicWrite c o.addr (bytesOfWord (withBit h 1 false)) true (drainStores s5 c) = .ok ((), s6) → Drains s5 c →
      exec (.unpin a l) s = .next (doneC s l c r s6)))
  ∧ ((∀ s a l c r x y s3 t, Ready s a .tagset l c r x y s3 → isImmediateTag (tagOf x) = true → y = fixN t → t < 256 →
      isReservedTag t = false → (isImmediateTag t || t == 0x1F) = true → inspectWord (mkWord t (valOf x)) = none →
      exec (.tagset a l) s = .next (done s l c r s3 (mkWord t (valOf x))))
    ∧ (∀ s a l c r x y s3 t, Ready s a .tagset l c r x y s3 → isImmediateTag (tagOf x) = true → y = fixN t → t < 256 →
      isReservedTag t = true → exec (.tagset a l) s = .next (raised s l c (wordTrap .tagReserved (mkWord t (valOf x)) 10 0)))
    ∧ (∀ s a l c r x y s3 t, Ready s a .tagset l c r x y s3 → isImmediateTag (tagOf x) = true → y = fixN t → t < 256 →
      isReservedTag t = false → (isImmediateTag t || t == 0x1F) = false →
      exec (.tagset a l) s = .next (raised s l c (wordTrap .tagForge (mkWord t (valOf x)) 10 0)))
    ∧ (∀ s a l c r x y s3, Ready s a .tagof l c r x y s3 → exec (.tagof a l) s = .next (done s l c r s3 (fixN (tagOf y))))
    ∧ (∀ s a l c r x y s3, Ready s a .tageq l c r x y s3 →
      exec (.tageq a l) s = .next (doneC s l c r (withBitReg s3 c 4 (tagOf x == tagOf y))))
    ∧ (∀ s a l c r x y s3 n, Ready s a .classis l c r x y s3 → y = fixN n → n ≤ 15 →
      exec (.classis a l) s = .next (doneC s l c r (withBitReg s3 c 4 (classOfTag (tagOf x) == n))))
    ∧ (∀ s a l c r x y s3 v s4 w s5, Ready s a .eq l c r x y s3 → healRegM c l.ra.toNat s3 = .ok (v, s4) →
      healB c l y s4 = .ok (w, s5) →
      exec (.eq a l) s = .next (doneC s l c r (withBitReg s5 c 0 (v == w))))
    ∧ (∀ s a l c r x y s3 v s4 w s5, Ready s a .eql l c r x y s3 → Admits s3 0x8 x (some y) →
      healRegM c l.ra.toNat s3 = .ok (v, s4) → healB c l y s4 = .ok (w, s5) →
      (v = w ∨ ¬ (classOfTag (tagOf v) = classOfTag (tagOf w) ∧ (classOfTag (tagOf v) = 6 ∨ classOfTag (tagOf v) = 7))) →
      exec (.eql a l) s = .next (doneC s l c r (withBitReg s5 c 0 (v == w))))
    ∧ (∀ s a l c r x y s3 v s4 w s5 p q s6, Ready s a .eql l c r x y s3 → Admits s3 0x8 x (some y) →
      healRegM c l.ra.toNat s3 = .ok (v, s4) → healB c l y s4 = .ok (w, s5) → v ≠ w →
      classOfTag (tagOf v) = classOfTag (tagOf w) → (classOfTag (tagOf v) = 6 ∨ classOfTag (tagOf v) = 7) →
      Numbers c v w s5 p q s6 →
      exec (.eql a l) s = .next (doneC s l c r (withBitReg s6 c 0 (p == q)))))

/-- CASW exchanges when memory holds the expected word and tells so in f0; RD is the old word either way. FADDW adds
modulo 2^56, with f0 and f3 of the sum. CASG and SWPG do the same with a granule and register pairs: even RD and RA
name them. -/
def Obligations.AtomicsComplete : Prop :=
  ((∀ s a l c r s2 va e s3 w s4 s5, Located s a .casw l c 8 0 4 r s2 → r.b = .word va false →
      healRegM c l.rd.toNat s2 = .ok (e, s3) → healRegM c l.ra.toNat s3 = .ok (w, s4) → Exchanges c va s4 e w s5 →
      exec (.casw a l) s = .next (done s l c r (withBitReg s5 c 0 true) e))
    ∧ (∀ s a l c r s2 va imm e s3 w s4 old s5, Located s a .casw l c 8 0 4 r s2 → r.b = .word va imm →
      healRegM c l.rd.toNat s2 = .ok (e, s3) → healRegM c l.ra.toNat s3 = .ok (w, s4) →
      loadWord c va .atomic (drainStores s4 c) = .ok (old, s5) → old ≠ e → Drains s4 c →
      exec (.casw a l) s = .next (done s l c r (withBitReg s5 c 0 false) old))
    ∧ (∀ s a l c r s2 va x old s3, Located s a .faddw l c 8 0 4 r s2 → r.b = .word va false →
      (s2.core c).getReg l.ra.toNat = x → isFix x = true → isFix old = true →
      Exchanges c va s2 old (fix (fixVal old + fixVal x)) s3 →
      exec (.faddw a l) s = .next (done s l c r
        (withFlags s3 c [(0, fixZ (fixVal old + fixVal x)), (3, !fitsFix (fixVal old + fixVal x))]) old)))
  ∧ ((∀ s a l c r s2 va imm e1 s3 e2 s4 n1 s5 n2 s6 o1 o2 s7, Located s a .casg l c 16 0 4 r s2 → r.b = .word va imm →
      healRegM c l.rd.toNat s2 = .ok (e1, s3) → healRegM c (l.rd.toNat + 1) s3 = .ok (e2, s4) →
      healRegM c l.ra.toNat s4 = .ok (n1, s5) → healRegM c (l.ra.toNat + 1) s5 = .ok (n2, s6) →
      loadGranule c va s6 = .ok ((o1, o2), s7) → ¬ (o1 = e1 ∧ o2 = e2) →
      exec (.casg a l) s = .next (retireLong s l
        (withReg (withReg (movedIndex (withBitReg s7 c 0 false) c r) c l.rd.toNat o1) c (l.rd.toNat + 1) o2) c))
    ∧ (∀ s a l c r s2 va e1 s3 e2 s4 n1 s5 n2 s6 s7 s8, Located s a .casg l c 16 0 4 r s2 → r.b = .word va false →
      healRegM c l.rd.toNat s2 = .ok (e1, s3) → healRegM c (l.rd.toNat + 1) s3 = .ok (e2, s4) →
      healRegM c l.ra.toNat s4 = .ok (n1, s5) → healRegM c (l.ra.toNat + 1) s5 = .ok (n2, s6) →
      loadGranule c va s6 = .ok ((e1, e2), s7) → writeGranuleM c va false n1 n2 s7 = .ok ((), s8) →
      exec (.casg a l) s = .next (retireLong s l
        (withReg (withReg (movedIndex (withBitReg s8 c 0 true) c r) c l.rd.toNat e1) c (l.rd.toNat + 1) e2) c))
    ∧ (∀ s a l c r s2 va n1 s5 n2 s6 o1 o2 s7 s8, Located s a .swpg l c 16 0 4 r s2 → r.b = .word va false →
      healRegM c l.ra.toNat s2 = .ok (n1, s5) → healRegM c (l.ra.toNat + 1) s5 = .ok (n2, s6) →
      loadGranule c va s6 = .ok ((o1, o2), s7) → writeGranuleM c va false n1 n2 s7 = .ok ((), s8) →
      exec (.swpg a l) s = .next (retireLong s l
        (withReg (withReg (movedIndex s8 c r) c l.rd.toNat o1) c (l.rd.toNat + 1) o2) c)))

/-- Rotation forward (R90): CWP and the resident count go up by one, the outs of the old window are the ins of the new
one, its locals and outs read T.UNBOUND, and the globals are the same. -/
def Obligations.RotationMovesWindows : Prop :=
  ∀ k : Core, k.tw = false → k.fb = false → k.cwp < 12 → ∀ k', k' = rotatedForward k →
    k'.cwp = (k.cwp + 1) % 12 ∧ k'.resident = k.resident + 1 ∧ (∀ n, n < 8 → k'.getReg n = k.getReg (16 + n))
      ∧ (∀ n, 8 ≤ n → n < 24 → k'.getReg n = unbound) ∧ (∀ n, 24 ≤ n → n < 32 → k'.getReg n = k.getReg n)

/-- JMP, RETN and RET continue at the T.RET of operand B, in its format; RET rotates back first. With one window resident
it takes the window underflow trap in place of that, in the trap window or a last-resort handler a double fault of
reason 2. CALL and CALLN enter the code object of operand B, or of a closure's slot 0: o6 takes the closure or T.NIL,
o7 the T.RET of the next instruction, and CALL rotates. With eleven windows resident CALL takes the window overflow
trap in place of that, in the trap window or a last-resort handler a double fault of reason 2. -/
def Obligations.TransfersComplete : Prop :=
  ((∀ s a l c r x y s3, Ready s a .jmp l c r x y s3 → Lands (movedIndex s3 c r) c y →
      retFmt y = ((movedIndex s3 c r).core c).fmt →
      exec (.jmp a l) s = .next (retireJump s l (continueAt (movedIndex s3 c r) c y) c))
    ∧ (∀ s a l c r x y s3, Ready s a .retn l c r x y s3 → Lands (movedIndex s3 c r) c y →
      exec (.retn a l) s = .next (retireJump s l (continueAt (movedIndex s3 c r) c y) c))
    ∧ (∀ s a l c r x y s3 k, Ready s a .ret l c r x y s3 → Lands (movedIndex s3 c r) c y → k = (movedIndex s3 c r).core c →
      k.tw = false → k.lastResort = false → k.resident ≠ 1 →
      exec (.ret a l) s = .next (retireJump s l (continueAt ((movedIndex s3 c r).modCore c rotatedBackward) c y) c))
    ∧ (∀ s a l c r x y s3 k, Ready s a .ret l c r x y s3 → Lands (movedIndex s3 c r) c y → k = (movedIndex s3 c r).core c →
      k.tw = false → k.lastResort = false → k.resident = 1 → exec (.ret a l) s = .next (stopped s l c (.window false)))
    ∧ (∀ s a l c r x y s3 k, Ready s a .ret l c r x y s3 → Lands (movedIndex s3 c r) c y → k = (movedIndex s3 c r).core c →
      (k.tw || k.lastResort) = true →
      exec (.ret a l) s = .next (stopped s l c (.doubleFault 2 { cause := .doubleFault, cont := some (retAddr y) }))))
  ∧ ((∀ s a l c r x y s3 tg s4 s5, Ready s a .calln l c r x y s3 → callTarget c y (movedIndex s3 c r) = .ok (tg, s4) →
      s5 = withReg (withReg s4 c 22 tg.closure) c 23 (retWord ((s4.core c).pc + 4 * l.parcels) (s4.core c).fmt) →
      exec (.calln a l) s = .next (retireJump s l (enterCode s5 c tg) c))
    ∧ (∀ s a l c r x y s3 tg s4 s5, Ready s a .call l c r x y s3 → callTarget c y (movedIndex s3 c r) = .ok (tg, s4) →
      (s4.core c).tw = false → (s4.core c).lastResort = false → (s4.core c).resident ≠ 11 →
      s5 = withReg (withReg s4 c 22 tg.closure) c 23 (retWord ((s4.core c).pc + 4 * l.parcels) (s4.core c).fmt) →
      exec (.call a l) s = .next (retireJump s l (enterCode (s5.modCore c rotatedForward) c tg) c))
    ∧ (∀ s a l c r x y s3 tg s4, Ready s a .call l c r x y s3 → callTarget c y (movedIndex s3 c r) = .ok (tg, s4) →
      (s4.core c).tw = false → (s4.core c).lastResort = false → (s4.core c).resident = 11 →
      exec (.call a l) s = .next (stopped s l c (.window true)))
    ∧ (∀ s a l c r x y s3 tg s4, Ready s a .call l c r x y s3 → callTarget c y (movedIndex s3 c r) = .ok (tg, s4) →
      ((s4.core c).tw || (s4.core c).lastResort) = true →
      exec (.call a l) s = .next (stopped s l c (.doubleFault 2 { cause := .doubleFault, cont := some tg.entry }))))

/-- RETT in a code object is the illegal operation of subcode 7 in every state; TRAP raises the exception TRAP with the
code of operand B as its subcode. A window trap (R92). An operation stopped for it leaves the state before it with
STATUS.TW 1, the trap window's i0 telling the trap (0 overflow, 1 underflow) and i1 the window, the other registers
T.UNBOUND. The core's next long instruction first runs the fixed handler, SPILLW or FILLW and then RETT, and is then
itself as if the core stood after the handler; a trap in the handler is a double fault of reason 1. RETE (R231, R232):
the earlier stores are performed, the frame at g7 is read and checked whole; the Reel rotates back, g7 and STATUS are
those of the frame, and control resumes; out of the last-resort state there is no rotation. A word that fails a check
leaves everything and is a WORD_FORMAT. -/
def Obligations.TrapsAndReturnsComplete : Prop :=
  ((∀ s a l c s1, Issues s a .rett l c s1 →
      exec (.rett a l) s = .next (raised s l c { cause := .illegalOp, sub := 7, step := 10, detail := l.word .rett }))
    ∧ (∀ s a l c r x y s3, Ready s a .trap l c r x y s3 → isFix y = true → valOf y ≤ 255 →
      exec (.trap a l) s = .next (raised s l c { cause := .trap, sub := valOf y, step := 10 })))
  ∧ ((∀ s c o fpc npc k, s.core c = k → ∃ k', raiseStop s c (.window o) fpc npc = s.setCore c k' ∧ k'.tw = true
      ∧ k'.wtrap = some ⟨o, fpc⟩ ∧ k'.reel = k.reel ∧ k'.globals = k.globals
      ∧ Tbl.getD k'.trapw unbound 0 = fixN (if o then 0 else 1)
      ∧ Tbl.getD k'.trapw unbound 1 = fixN (if o then k.bottom else (k.cwp + 11) % 12)
      ∧ ∀ n, 2 ≤ n → Tbl.getD k'.trapw unbound n = unbound)
    ∧ (∀ s a op l body c s1, sourceCore s a.core = some c → (s.core c).mode = .running → inWindowTrap (s.core c) = true →
      windowHandler c s = .ok ((), s1) → sourceCore s1 a.core = some c → (s1.core c).mode = .running →
      inWindowTrap (s1.core c) = false → runLong s a op l body = runLong s1 a op l body)
    ∧ (∀ s a op l body c x, sourceCore s a.core = some c → (s.core c).mode = .running → inWindowTrap (s.core c) = true →
      windowHandler c s = .error x → runLong s a op l body = mirror (raiseStop s c x (s.core c).pc (s.core c).pc) c)
    ∧ (∀ s c w s1, (s.core c).wtrap = some w → (if w.overflow then spill c else fill c) s = .ok ((), s1) →
      windowHandler c s = .ok ((), s1.modCore c (fun k => { k.setStatus 23 23 0 with wtrap := none })))
    ∧ (∀ s c w t, (s.core c).wtrap = some w → (if w.overflow then spill c else fill c) s = .error (.trap t) →
      windowHandler c s = .error (.doubleFault 1 t)))
  ∧ ((∀ s a l c s1 sp f s2 s3, Issues s a .rete l c s1 → (s1.core c).g7 = sp → tagOf sp = 0x32 →
      Drains s1 c → loadWords c (valOf sp) 12 (drainStores s1 c) = .ok (f, s2) → frameFault f = none →
      (s1.core c).lastResort = false → ((s1.core c).cwp + 11) % 12 = bitsOf (f[8]?.getD nil) 35 32 →
      rotateBackward c (some (resumeAt f)) s2 = .ok ((), s3) →
      exec (.rete a l) s = .next (retireJump s l (resume ((s3.modCore c (fun k => setGlobal k 7 (f[9]?.getD nil))).modCore c
        (fun k => restoreStatus k s3.compact false (f[4]?.getD nil))) c f) c))
    ∧ (∀ s a l c s1 sp f s2, Issues s a .rete l c s1 → (s1.core c).g7 = sp → tagOf sp = 0x32 →
      Drains s1 c → loadWords c (valOf sp) 12 (drainStores s1 c) = .ok (f, s2) → frameFault f = none →
      (s1.core c).lastResort = true →
      exec (.rete a l) s = .next (retireJump s l (resume (((s2.modCore c (fun k => setGlobal k 7 (f[9]?.getD nil))).modCore c
        (fun k => restoreStatus k s2.compact true (f[4]?.getD nil))).setF .cfgMcstat (leadOf s2 c).val 61 61 0) c f) c))
    ∧ (∀ s a l c s1 sp f s2 x, Issues s a .rete l c s1 → (s1.core c).g7 = sp → tagOf sp = 0x32 →
      Drains s1 c → loadWords c (valOf sp) 12 (drainStores s1 c) = .ok (f, s2) → frameFault f = some x →
      exec (.rete a l) s = .next (raised s l c (wordTrap .wordFormat x 10 0))))

/-- LOOP opens a level whose body runs from the next instruction to the one at the distance B, RA times, and skips the
body for the count 0; LOOPX ends the innermost level and goes to operand B. The loop test at LE (R107): a count above
1 goes down by one and control goes to LS; the last pass ends the level and the test goes on with the level outside;
nothing happens at any other address. -/
def Obligations.LoopsComplete : Prop :=
  ((∀ s a l c r x y s3 first, Ready s a .loop l c r x y s3 → isFix x = true → 0 < valOf x → valOf x < 2 ^ 32 →
      isFix y = true → 0 ≤ fixVal y → fixVal y % 4 = 0 → first = (s3.core c).pc + 4 * l.parcels →
      inCode s3 c (first + valOf y) = true → (s3.core c).ld ≠ 4 →
      exec (.loop a l) s = .next (retireLong s l (s3.modCore c (fun k => newLevel k first (first + valOf y) (valOf x))) c))
    ∧ (∀ s a l c r x y s3 first n s4, Ready s a .loop l c r x y s3 → x = fixN 0 →
      isFix y = true → 0 ≤ fixVal y → fixVal y % 4 = 0 → first = (s3.core c).pc + 4 * l.parcels →
      inCode s3 c (first + valOf y) = true → lengthAt c (first + valOf y) s3 = .ok (n, s4) →
      exec (.loop a l) s = .next (retire s4 c (s.core c).pc (4 * l.parcels) (.skip (first + valOf y + n))))
    ∧ (∀ s a l c r x y s3 first, Ready s a .loop l c r x y s3 → isFix x = true → 0 < valOf x → valOf x < 2 ^ 32 →
      isFix y = true → 0 ≤ fixVal y → fixVal y % 4 = 0 → first = (s3.core c).pc + 4 * l.parcels →
      inCode s3 c (first + valOf y) = true → (s3.core c).ld = 4 →
      exec (.loop a l) s = .next (raised s l c { cause := .loopDepth, step := 10 }))
    ∧ (∀ s a l c r x y s3, Ready s a .loopx l c r x y s3 → ((movedIndex s3 c r).core c).ld ≠ 0 → Lands (movedIndex s3 c r) c y →
      retFmt y = ((movedIndex s3 c r).core c).fmt →
      exec (.loopx a l) s = .next (retireJump s l (continueAt ((movedIndex s3 c r).modCore c endLevel) c y) c)))
  ∧ ((∀ f k pc next, atLoopEnd k pc = true → 1 < bitsOf (k.lcN (k.ld - 1)) 31 0 →
      (loopTest (f + 1) k pc next).pc = retAddr (k.lsN (k.ld - 1)) ∧ (loopTest (f + 1) k pc next).ld = k.ld
      ∧ bitsOf ((loopTest (f + 1) k pc next).lcN (k.ld - 1)) 31 0 = bitsOf (k.lcN (k.ld - 1)) 31 0 - 1)
    ∧ (∀ k pc next, atLoopEnd k pc = true → k.ld = 1 → bitsOf (k.lcN 0) 31 0 ≤ 1 →
      (loopTest 5 k pc next).pc = next ∧ (loopTest 5 k pc next).ld = 0)
    ∧ (∀ f k pc next, atLoopEnd k pc = false → loopTest f k pc next = { k with pc := next }))

/-- SPILLW and FILLW run one step of the window trap inside the trap window, and are a double fault of reason 6 outside
it. SPACE completes the earlier stores, reads the old space and sets the new one, in which the instruction area of the
running code object is found again. SAVELO stores the lower area and voids the current window's groups, SAVEHI the
dirty groups outside it; RESTLO and RESTHI put back what the areas hold. -/
def Obligations.WindowAndContextOperationsComplete : Prop :=
  ((∀ s a l c s1 s2, Issues s a .spillw l c s1 → (s1.core c).tw = true → spill c s1 = .ok ((), s2) →
      exec (.spillw a l) s = .next (retireLong s l s2 c))
    ∧ (∀ s a l c s1 s2, Issues s a .fillw l c s1 → (s1.core c).tw = true → fill c s1 = .ok ((), s2) →
      exec (.fillw a l) s = .next (retireLong s l s2 c))
    ∧ (∀ s a l c s1, Issues s a .spillw l c s1 → (s1.core c).tw = false →
      exec (.spillw a l) s = .next (stopped s l c (.doubleFault 6 { cause := .doubleFault })))
    ∧ (∀ s a l c s1, Issues s a .fillw l c s1 → (s1.core c).tw = false →
      exec (.fillw a l) s = .next (stopped s l c (.doubleFault 6 { cause := .doubleFault })))
    ∧ (∀ s a l c r x y s3, Ready s a .space l c r x y s3 → isFix y = true → valOf y < 4096 → Drains s3 c →
      exec (.space a l) s = .next (done s l c r (rearea ((drainStores s3 c).modCore c (fun k => k.setStatus 43 32 (valOf y))) c)
        (fixN ((drainStores s3 c).core c).space))))
  ∧ ((∀ s a l c r x y s3 o s4 s5, Ready s a .savelo l c r x y s3 → saveArea c y true s3 = .ok (o, s4) →
      storeSlots c o 1 (lowerWords (s4.core c)) s4 = .ok ((), s5) → Drains s5 c →
      exec (.savelo a l) s = .next (doneC s l c r ((drainStores s5 c).modCore c voidWindow)))
    ∧ (∀ s a l c r x y s3 s4, Ready s a .savehi l c r x y s3 →
      saveUpper c (s3.core c) 4 0 (upperGroups (s3.core c)) y s3 = .ok ((), s4) → Drains s4 c →
      exec (.savehi a l) s = .next (doneC s l c r ((drainStores s4 c).modCore c
        (fun k => (upperGroups (s3.core c)).foldl Core.voidGroup k))))
    ∧ (∀ s a l c r x y s3 o s4 d s5 rest s6 ws, Ready s a .restlo l c r x y s3 → saveArea c y false s3 = .ok (o, s4) →
      areaWords c o 1 1 s4 = .ok (d, s5) → areaWords c o 3 49 s5 = .ok (rest, s6) → ws = d ++ [nil] ++ rest →
      lowerBadWord 1 ws = none → lowerDescOk (d[0]?.getD nil) = true →
      exec (.restlo a l) s = .next (doneC s l c r (s6.modCore c (fun k => restoreLower k s6.compact ws))))
    ∧ (∀ s a l c r x y s3 gs s4, Ready s a .resthi l c r x y s3 → readUpper c l (s3.core c) 25 0 [] y s3 = .ok (gs, s4) →
      exec (.resthi a l) s = .next (doneC s l c r (s4.modCore c
        (fun k => gs.foldl (fun k g => restoreRegs k (fun n => 8 * g.1 + n) 0 g.2) k)))))

/-- FENCE completes the earlier stores. BARRIER does too, then: outside the participant set it goes on with f4 0, an
episode already released goes on with f4 1, and else the core waits in the barrier with its arrival. WAIT goes on at
once inside a window or where an event is due, else the core waits. EOIN ends the normal class and EOIF the fast
class, each after the earlier stores; EOIF then goes back to what it interrupted; each out of order is EOI_ORDER.
NIWOPEN opens the window without interrupts, outside the compact configuration and not twice; NIWCLOSE closes it, and
its limit closes it with NIWX set. -/
def Obligations.WaitsAndClassEndsComplete : Prop :=
  ((∀ s a l c s1, Issues s a .fence l c s1 → Drains s1 c → exec (.fence a l) s = .next (retireLong s l (drainStores s1 c) c))
    ∧ (∀ s a l c r x y s3 n s4, Ready s a .barrier l c r x y s3 → (l.ra ≠ 24 → isFix x = true) → isFix y = true →
      (if l.ra = 24 then 0 else fixVal x) + fixVal y = (n : Nat) → n ≤ 15 → s4 = drainStores s3 c →
      participant s4 n (barCore s4 c) = false → Drains s3 c →
      exec (.barrier a l) s = .next (retireLong s l (s4.modCore c (fun k => { k.setBit 4 false with bars := Tbl.del k.bars n })) c))
    ∧ (∀ s a l c r x y s3 n s4, Ready s a .barrier l c r x y s3 → (l.ra ≠ 24 → isFix x = true) → isFix y = true →
      (if l.ra = 24 then 0 else fixVal x) + fixVal y = (n : Nat) → n ≤ 15 → s4 = drainStores s3 c →
      participant s4 n (barCore s4 c) = true → Tbl.get? (s4.core c).bars n = some true → Drains s3 c →
      exec (.barrier a l) s = .next (retireLong s l (s4.modCore c (fun k => { k.setBit 4 true with bars := Tbl.del k.bars n })) c))
    ∧ (∀ s a l c r x y s3 n s4, Ready s a .barrier l c r x y s3 → (l.ra ≠ 24 → isFix x = true) → isFix y = true →
      (if l.ra = 24 then 0 else fixVal x) + fixVal y = (n : Nat) → n ≤ 15 → s4 = drainStores s3 c →
      participant s4 n (barCore s4 c) = true → Tbl.get? (s4.core c).bars n ≠ some true → Drains s3 c →
      exec (.barrier a l) s = .next (retire (s4.modCore c (fun k => { k with bars := Tbl.put k.bars n false, mode := .barrier n (4 * l.parcels) }))
        c (s.core c).pc (4 * l.parcels) .stay))
    ∧ (∀ s a l c s1 k, Issues s a .wait l c s1 → k = s1.core c → (k.tw || k.fb || waitEnds s1 c k) = true →
      exec (.wait a l) s = .next (retireLong s l s1 c))
    ∧ (∀ s a l c s1 k, Issues s a .wait l c s1 → k = s1.core c → (k.tw || k.fb || waitEnds s1 c k) = false →
      exec (.wait a l) s = .next (retireLong s l (s1.modCore c (fun k => { k with mode := .waiting })) c))
    ∧ (∀ s c d k, sourceCore s c = some d → k = s.core d → k.mode = .waiting → waitEnds s d k = true →
      exec (.waitWake c) s = .next (mirror (s.modCore d (fun k => { k with mode := .running })) d)))
  ∧ ((∀ s a l c s1, Issues s a .eoin l c s1 → (s1.core c).cstk = 1 → Drains s1 c →
      exec (.eoin a l) s = .next (retireLong s l ((drainStores s1 c).modCore c (fun k => k.setStatus 15 14 0)) c))
    ∧ (∀ s a l c s1, Issues s a .eoin l c s1 → (s1.core c).cstk ≠ 1 →
      exec (.eoin a l) s = .next (raised s l c { cause := .eoiOrder, step := 10 }))
    ∧ (∀ s a l c s1 s2 k, Issues s a .eoif l c s1 → 2 ≤ (s1.core c).cstk → Drains s1 c → s2 = drainStores s1 c →
      k = s2.core c → k.fastRet = none →
      exec (.eoif a l) s = .next (retireLong s l (s2.modCore c (fun k => (k.setStatus 15 14 (k.cstk % 2)).setStatus 22 22 0)) c))
    ∧ (∀ s a l c s1 s2 k f k1, Issues s a .eoif l c s1 → 2 ≤ (s1.core c).cstk → Drains s1 c → s2 = drainStores s1 c →
      k = s2.core c → k.fastRet = some f →
      k1 = { (k.setStatus 15 14 (k.cstk % 2)).setStatus 22 22 0 with fastRet := none } →
      exec (.eoif a l) s = .next (retireJump s l (continueAt (s2.setCore c
        (if s2.compact then k1.setStatus 16 16 (if f.im then 1 else 0) else k1)) c (retWord f.pc f.fmt)) c))
    ∧ (∀ s a l c s1, Issues s a .eoif l c s1 → (s1.core c).cstk < 2 →
      exec (.eoif a l) s = .next (raised s l c { cause := .eoiOrder, step := 10 }))
    ∧ (∀ s a l c s1, Issues s a .niwopen l c s1 → s1.compact = false → (s1.core c).niw = false →
      exec (.niwopen a l) s = .next (retireLong s l (s1.modCore c (fun k => { k.setStatus 17 17 1 with niwTicks := true })) c))
    ∧ (∀ s a l c s1, Issues s a .niwopen l c s1 → (s1.compact = true ∨ (s1.core c).niw = true) →
      exec (.niwopen a l) s = .next (raised s l c { cause := .illegalOp, sub := 6, step := 10, detail := l.word .niwopen }))
    ∧ (∀ s a l c s1, Issues s a .niwclose l c s1 →
      exec (.niwclose a l) s = .next (retireLong s l (s1.modCore c (fun k => { k.setStatus 17 17 0 with niwTicks := false })) c))
    ∧ (∀ s c d k, sourceCore s c = some d → k = s.core d → k.niwTicks = true →
      exec (.niwLimitExpiry c) s = .next (mirror (s.modCore d (fun k => { k.setStatus 18 17 2 with niwTicks := false })) d)))

/-- CQLOOK gives the value at a key and f4 1, or T.UNBOUND and f4 0. CQINS puts RD's word at the key and gives the old
value; CQDEL removes the entry and gives its value. -/
def Obligations.TableOperationsComplete : Prop :=
  (∀ s a l c r x y s3 t b fp ctrl k0 k1 w s4 v s5, Ready s a .cqlook l c r x y s3 →
    Searches s3 c l y t b fp ctrl k0 k1 w s4 → foundValue c t b w s4 = .ok (v, s5) →
    exec (.cqlook a l) s = .next (cqDone s l c r s5 (w != .absent) v))
  ∧ (∀ s a l c r x y s3 t b fp ctrl k0 k1 w s4 v s5 old s6 s7, Ready s a .cqins l c r x y s3 →
    Searches s3 c l y t b fp ctrl k0 k1 w s4 → w ≠ .absent → healRegM c l.rd.toNat s4 = .ok (v, s5) →
    forgeTag (tagOf v) = false → t.obj.imm = false → foundValue c t b w s5 = .ok (old, s6) → putValue c t b v w s6 = .ok ((), s7) →
    exec (.cqins a l) s = .next (cqDone s l c r s7 true old))
  ∧ (∀ s a l c r x y s3 t b fp ctrl k0 k1 s4 v s5 i s6, Ready s a .cqins l c r x y s3 →
    Searches s3 c l y t b fp ctrl k0 k1 .absent s4 → healRegM c l.rd.toNat s4 = .ok (v, s5) →
    forgeTag (tagOf v) = false → t.obj.imm = false →
    (usedBit ctrl 0 = false ∧ i = 0 ∨ usedBit ctrl 0 = true ∧ usedBit ctrl 1 = false ∧ i = 1) →
    insertBucket c t b fp i ctrl k0 k1 v s5 = .ok ((), s6) →
    exec (.cqins a l) s = .next (cqDone s l c r s6 false unbound))
  ∧ (∀ s a l c r x y s3 t b fp ctrl k0 k1 s4 v s5 s6, Ready s a .cqins l c r x y s3 →
    Searches s3 c l y t b fp ctrl k0 k1 .absent s4 → healRegM c l.rd.toNat s4 = .ok (v, s5) →
    forgeTag (tagOf v) = false → t.obj.imm = false → usedBit ctrl 0 = true → usedBit ctrl 1 = true →
    insertChain c t b ctrl k0 k1 v s5 = .ok ((), s6) →
    exec (.cqins a l) s = .next (cqDone s l c r s6 false unbound))
  ∧ (∀ s a l c r x y s3 t b fp ctrl k0 k1 s4, Ready s a .cqdel l c r x y s3 →
    Searches s3 c l y t b fp ctrl k0 k1 .absent s4 → t.obj.imm = false →
    exec (.cqdel a l) s = .next (cqDone s l c r s4 false unbound))
  ∧ (∀ s a l c r x y s3 t b fp ctrl k0 k1 i s4 old s5 s6, Ready s a .cqdel l c r x y s3 →
    Searches s3 c l y t b fp ctrl k0 k1 (.bucket i) s4 → t.obj.imm = false → foundValue c t b (.bucket i) s4 = .ok (old, s5) →
    removeBucket c t b i ctrl s5 = .ok ((), s6) →
    exec (.cqdel a l) s = .next (cqDone s l c r s6 true old))
  ∧ (∀ s a l c r x y s3 t b fp ctrl k0 k1 j p s4 old s5 s6, Ready s a .cqdel l c r x y s3 →
    Searches s3 c l y t b fp ctrl k0 k1 (.chain j p) s4 → t.obj.imm = false → foundValue c t b (.chain j p) s4 = .ok (old, s5) →
    removeChain c t b j p ctrl s5 = .ok ((), s6) →
    exec (.cqdel a l) s = .next (cqDone s l c r s6 true old))

/-- CRGPOST appends RA to the mailbox of operand B; RD is 0, or 1 where it is full, or 2 where it is malformed, and f0
tells whether the message was posted. TRVGO starts an idle channel with TRVGO enabled, and tells in RD: 0 started, 1
busy, 2 not enabled. -/
def Obligations.PostsAndStartsComplete : Prop :=
  (∀ s a l c r x y s3 w s4 o s5 h msg s6 n s7, Ready s a .crgpost l c r x y s3 → tagOf y = 0x14 →
    healB c l y s3 = .ok (w, s4) → openObject c w 10 s4 = .ok (o, s5) → o.hdr = some h → tagOf h = 0x20 → hdrClass h = 8 →
    healRegM c l.ra.toNat s5 = .ok (msg, s6) → postFromCore c o msg s6 = .ok (n, s7) →
    exec (.crgpost a l) s = .next (done s l c r (withBitReg s7 c 0 (n == 0)) (fixN n)))
  ∧ (∀ s a l c r x y s3 n s4, Ready s a .trvgo l c r x y s3 → y = fixN n → n < 64 → s4 = drainStores s3 c →
    (chState s4 n = chDisabled ∨ s4.flag .trvCtl n 62 = false) → Drains s3 c →
    exec (.trvgo a l) s = .next (done s l c r s4 (fixN 2)))
  ∧ (∀ s a l c r x y s3 n s4, Ready s a .trvgo l c r x y s3 → y = fixN n → n < 64 → s4 = drainStores s3 c →
    s4.flag .trvCtl n 62 = true → (chState s4 n = chIdle ∨ chState s4 n = chDone ∨ chState s4 n = chAborted) → Drains s3 c →
    exec (.trvgo a l) s = .next (done s l c r (startChannel s4 n) (fixN 0)))
  ∧ (∀ s a l c r x y s3 n s4, Ready s a .trvgo l c r x y s3 → y = fixN n → n < 64 → s4 = drainStores s3 c →
    s4.flag .trvCtl n 62 = true → (chState s4 n = chRunning ∨ chState s4 n = chWaiting ∨ chState s4 n = chAborting) → Drains s3 c →
    exec (.trvgo a l) s = .next (done s l c r s4 (fixN 1)))

/-- A prefix whose condition fails only passes on; one without REP runs its operation once; with REP it runs it RC times,
RC counting down. -/
def Obligations.PrefixesComplete : Prop :=
  (∀ s a p code op l c s1, Prefixed s a p code op l c s1 → (p.rep = true → repeatOk p op l = true) →
    pfxHolds (s1.core c) p l = false →
    exec (.pfx a p (.long code l)) s = .next (retire s1 c (s.core c).pc (4 * (1 + l.parcels)) .seq))
  ∧ (∀ s a p code op l c s1 fl s2, Prefixed s a p code op l c s1 → p.rep = false → pfxHolds (s1.core c) p l = true →
    bodyOf a op l (4 * (1 + l.parcels)) c s1 = .ok (fl, s2) →
    exec (.pfx a p (.long code l)) s = .next (retire s2 c (s.core c).pc (4 * (1 + l.parcels)) fl))
  ∧ (∀ s a p code op l c s1 n fl s2, Prefixed s a p code op l c s1 → p.rep = true → repeatOk p op l = true →
    pfxHolds (s1.core c) p l = true → (s1.core c).getReg p.rc.toNat = fixN n → n < 2 ^ 32 →
    iterate p l (4 * (1 + l.parcels)) (bodyOf a op l (4 * (1 + l.parcels))) c n true s1 = (fl, s2) →
    exec (.pfx a p (.long code l)) s = .next (retire s2 c (s.core c).pc (4 * (1 + l.parcels)) fl))

/-- In states of a set P that every iteration keeps, in which the condition holds, the core runs and no event is due, an
operation that leaves RC alone is repeated until RC, which each iteration lowers by one, is 0, and control goes on
(R142). -/
def Obligations.RepeatCountsDown : Prop :=
  ∀ (p : Pfx) (l : Long) (len : Nat) (f : State → State) (P : State → Prop) (c : CoreId) (n : Nat) (s : State),
    p.rc ≠ 24 → n < 2 ^ 32 → P s → (s.core c).getReg p.rc.toNat = fixN n →
    (∀ x m, P x → m < n → (x.core c).getReg p.rc.toNat = fixN (m + 1) →
      ((f x).core c).getReg p.rc.toNat = fixN (m + 1) ∧ P ((f x).modCore c (fun k => k.setReg p.rc.toNat (fixN m)))) →
    (∀ x, P x → pfxHolds (x.core c) p l = true ∧ (x.core c).mode = .running ∧ takesEvent x c = false) →
    ∃ t, iterate p l len (fun _ x => .ok (.seq, f x)) c n true s = (.seq, t) ∧ P t ∧ (t.core c).getReg p.rc.toNat = fixN 0

/-- A pair runs slot A and then slot B, each under its own condition as it stood before the pair (R123): a flag that slot
A writes does not affect slot B, and a slot whose condition is false does nothing. A decode fault of either slot is
raised before either executes, whatever the conditions. The short operations on registers (R121). -/
def Obligations.PairsComplete : Prop :=
  ((∀ s a p c s1 s2 s3, Runs s a c → fetchM c (p.bytes / 4) 5 p.word (s.modCore c Core.landAll) = .ok ((), s1) →
      pairDecode p = none → (s1.core c).onlyB = false →
      (if condHolds (s1.core c) p.condA then shortOp c p.a s1 = .ok ((), s2) else s2 = s1) →
      (if condHolds (s1.core c) p.condB then shortOp c p.b s2 = .ok ((), s3) else s3 = s2) →
      exec (.pair a p) s = .next (retire s3 c (s.core c).pc p.bytes .seq))
    ∧ (∀ s a p c s1 t, Runs s a c → fetchM c (p.bytes / 4) 5 p.word (s.modCore c Core.landAll) = .ok ((), s1) →
      pairDecode p = some t →
      exec (.pair a p) s = .next (mirror (raiseStop (s.modCore c Core.landAll) c (.trap t) (s.core c).pc
        (((s.core c).jump).getD ((s.core c).pc + p.bytes))) c)))
  ∧ ((∀ c x s, shortSopc x = 0x01 → shortOp c x s = .ok ((), withReg s c (shortRd x) ((s.core c).getReg (shortRs x))))
    ∧ (∀ c x s, shortSopc x = 0x02 → shortOp c x s = .ok ((), withReg s c (shortRd x) (fix (signed 5 (shortRs x)))))
    ∧ (∀ c x s d w, shortSopc x = 0x03 → (s.core c).getReg (shortRd x) = d → (s.core c).getReg (shortRs x) = w →
      isFix d = true → isFix w = true → fitsFix (fixVal d + fixVal w) = true → Admits s 0x0 d (some w) →
      shortOp c x s = .ok ((), withReg (withFlags s c (flagsAdd (fixVal d) (fixVal w))) c (shortRd x) (fix (fixVal d + fixVal w))))
    ∧ (∀ c x s w, shortSopc x = 0x10 → (s.core c).getReg (shortRs x) = w →
      shortOp c x s = .ok ((), withReg s c (shortRd x) (fixN (tagOf w))))
    ∧ (∀ c x s, shortSopc x = 0x11 → shortOp c x s = .ok ((), withBitReg s c 4 ((s.core c).getReg (shortRs x) == nil)))
    ∧ (∀ c x s, shortSopc x = 0x12 → shortOp c x s = .ok ((), withReg s c (shortRd x) (boolWord ((s.core c).bit (shortRs x % 8))))))

/-- A bundle whose live moves all write registers writes them together, each with the value that its source had before the
bundle (R152); and a bundle whose units complete retires as its branch unit says. Result i of a unit lands, with those
before it: its register and flags are written and it waits no longer. -/
def Obligations.BundlesComplete : Prop :=
  ((∀ s a w c s1, Runs s a c → fetchM c 2 0x15 (moveAt w 0).bits (s.modCore c Core.landAll) = .ok ((), s1) →
      bundleDecode (s1.core c) w = none → (s1.core c).jump = none →
      (∀ x, x ∈ liveMoves (s1.core c) w → x.move.dst < 0x20) →
      exec (.bundle a w) s = .next (retire
        ((liveMoves (s1.core c) w).foldl (fun t x => withReg t c x.move.dst x.value) s1) c (s.core c).pc 8 .seq))
    ∧ (∀ s a w c s1 fl s2, Runs s a c → fetchM c 2 0x15 (moveAt w 0).bits (s.modCore c Core.landAll) = .ok ((), s1) →
      bundleSteps w c s1 = .ok (fl, s2) →
      exec (.bundle a w) s = .next (retire s2 c (s.core c).pc 8 fl)))
  ∧ (∀ s c d i k, sourceCore s c = some d → s.core d = k → i < k.pendRes.length →
      exec (.unitResultLanding c i) s = .next (mirror (s.setCore d
        { (k.pendRes.take (i + 1)).foldl Core.land1 k with pendRes := k.pendRes.drop (i + 1) }) d))

/-- A barrier whose participants have all arrived is released, by the device itself unless it spans the Range. An
interrupt of the normal class and of the fast class, and a deferred machine check, are entered at a boundary where
nothing of a higher rank is due; a fast-class entry and a machine check first perform every earlier store. -/
def Obligations.BarriersAndEventsTaken : Prop :=
  ((∀ s (n : Fin 16), allArrived s n.val = true → (rangeBarrier s n.val = false ∨ rangeSize s = 1) →
      exec (.barrierRelease n) s = .next (releaseBarrier s n.val))
    ∧ (∀ s (n : Fin 16), allArrived s n.val = true → rangeBarrier s n.val = true → 1 < rangeSize s →
      exec (.rangeBarrierRelease n) s = .next (releaseBarrier s n.val))
    ∧ (∀ k n len, k.under = .barrier n len → (leaveBarrier k n true).under = .running
        ∧ Tbl.get? (leaveBarrier k n true).bars n = none))
  ∧ ((∀ s c d k, sourceCore s c = some d → s.core d = k → takesEvents k = true → inWindowTrap k = false →
      takesNormal s k = true → takesFast s d k = false → takesCheck s k = false →
      exec (.normalInterruptEntry c) s = .next (mirror (enterException (atBoundary s d) d { cause := .interrupt, async := true } k.pc k.pc) d))
    ∧ (∀ s c d k u tg s1 k1, sourceCore s c = some d → s.core d = k → takesEvents k = true → takesFast s d k = true →
      takesCheck s k = false → entryWaits (atBoundary s d) d = false →
      u = drainStores (atBoundary s d) d → u.compact = false →
      codeTarget d nil (mkWord 0x16 (u.fld .cfgXfast (leadOf u d).val 46 4 * 16)) u = .ok (tg, s1) →
      k1 = { ((s1.core d).setStatus 22 22 1).setStatus 15 14 ((s1.core d).cstk % 2 + 2) with
        fastRet := some ⟨(s1.core d).pc, (s1.core d).fmt, (s1.core d).im⟩ } →
      exec (.fastInterruptEntry c) s = .next (mirror (enterCode (s1.setCore d k1) d tg) d))
    ∧ (∀ s c d k pa, sourceCore s c = some d → s.core d = k → k.mcPend = some pa → takesEvents k = true → takesCheck s k = true →
      entryWaits s d = false →
      exec (.deferredMachineCheck c) s = .next (mirror (enterLastResort
        (recordCheck ((drainStores (atBoundary s d) d).modCore d (fun k => { k with mcPend := none })) d 3 pa) d
        { cause := .machineCheck, sub := 3, async := true, detail := pa } k.pc k.pc) d)))

/-- Taking an exception with room in the Reel and on the stack (R223): the frame of twelve words is pushed below g7, the
Reel rotates, l0 is the T.SP of the frame and l1 the handler's closure, and control is at the handler's entry. With
the Reel full, a window overflow comes first and no frame is pushed (R92). The frame (R225 to R229): its header, the
cause with its code, the T.RET of the instruction and of the next, STATUS, CWP and g7 as they were. -/
def Obligations.ExceptionsEntered : Prop :=
  ((∀ s c t fpc npc k tg s1 s2 s3, s.core c = k → k.lastResort = false → k.tw = false → k.fb = false → k.resident ≠ 11 →
      readHandler c t t.cause.code s = .ok (tg, s1) → tagOf k.g7 = 0x32 → 96 ≤ valOf k.g7 →
      pushFrame c (valOf k.g7 - 96) (buildFrame (s1.core c) t fpc npc) s1 = .ok ((), s2) →
      s3 = enterException s c t fpc npc → (s2.core c).fb = false → (s2.core c).tw = false →
      (s3.core c).pc = tg.entry ∧ (s3.core c).codeObj = tg.code ∧ (s3.core c).area = some tg.area ∧ (s3.core c).fmt = tg.fmt
        ∧ (s3.core c).g7 = mkWord 0x32 (valOf k.g7 - 96) ∧ (s3.core c).getReg 8 = mkWord 0x32 (valOf k.g7 - 96)
        ∧ (s3.core c).getReg 9 = tg.closure ∧ (s3.core c).cwp = ((s2.core c).cwp + 1) % 12
        ∧ (s3.core c).entered = some t.cause ∧ s3.mem = s2.mem)
    ∧ (∀ s c t fpc npc k, s.core c = k → k.lastResort = false → k.tw = false → k.fb = false → k.resident = 11 →
      enterException s c t fpc npc = enterWindowTrap s c true fpc))
  ∧ (∀ k t fpc npc f, f = buildFrame k t fpc npc →
      f.length = 12 ∧ f[0]? = some 0x310000000000000C#64 ∧ f[1]? = some (causeWord t) ∧ f[2]? = some (retWord fpc k.fmt)
        ∧ f[3]? = some (retWord npc k.fmt) ∧ (k.jump = none → k.shadow = false → f[4]? = some k.status)
        ∧ f[8]? = some k.cwpWord ∧ (tagOf k.g7 = 0x32 → f[9]? = some k.g7) ∧ f[10]? = some (fixN t.detail))

/-- MC_APPLY with no patch under way latches the image in every core of the troika that runs on and makes MC_RESULT busy;
MC_DISABLE with a patch floor of 0 starts a disable, and with another floor is refused with code 9. The drain of a
patch at a boundary: a refused image ends the request with its code; an accepted one, and a disable, put the core into
the patch state with no match register, what was read held, until PATCH_APPLY_END loads it in each core that runs on
and writes MC_RESULT; a member of a voted troika whose outcome differs diverges. -/
def Obligations.PatchesComplete : Prop :=
  ((∀ s (c d : CoreId) w s1, acts w 63 = true → mayReach s w.agent .mcCtl c.val = true → sourceCore s c = some d →
      (s.core d).patch = none → s1 = storeSetup s .mcCtl c.val w → (s1.core d).mode ≠ .halted →
      exec (.mcApply c w) s = .next (setResult (setPatch s1 c (.apply (16 * s1.fld .mcCtl c.val 43 4)))
        c true (s1.fld .mcResult c.val 7 0)))
    ∧ (∀ s (c d : CoreId) w s1, acts w 62 = true → acts w 63 = false → mayReach s w.agent .mcCtl c.val = true →
      sourceCore s c = some d → (s.core d).patch = none → s1 = storeSetup s .mcCtl c.val w → patchFloor s1 = 0 →
      exec (.mcDisable c w) s = .next (setResult (setPatch s1 c .disable) c true (s1.fld .mcResult c.val 7 0)))
    ∧ (∀ s (c d : CoreId) w, acts w 62 = true → acts w 63 = false → mayReach s w.agent .mcCtl c.val = true →
      sourceCore s c = some d → (s.core d).patch = none → patchFloor (storeSetup s .mcCtl c.val w) ≠ 0 →
      exec (.mcDisable c w) s = .next (setResult (storeSetup s .mcCtl c.val w) c false 9)))
  ∧ ((∀ s c d k r odd image s1 code, sourceCore s c = some d → s.core d = k → k.shadow = false → k.onlyB = false →
      k.jump = none → k.mode ≠ .halted → k.mode ≠ .stopped → k.patch = some (.apply image) → s1 = drainStores s d →
      imageRefused s1 image = some code →
      exec (.patchDrain c ⟨r, odd⟩) s = .next (mirror (setResult (s1.modCore d (fun k => { k with patch := none })) (leadOf s d) false code) d))
    ∧ (∀ s c d k r odd image s1, sourceCore s c = some d → s.core d = k → k.shadow = false → k.onlyB = false → k.jump = none →
      k.mode ≠ .halted → k.mode ≠ .stopped → k.patch = some (.apply image) → s1 = drainStores s d →
      imageRefused s1 image = none → spanPoisoned s1 image (32 + 0x120 + 4 * imageWords s1 (image + 32)) = false →
      exec (.patchDrain c ⟨r, odd⟩) s = .next (mirror (s1.modCore d (fun x => { x.landAll with
        mode := .patching
        patch := some (.ending r odd (some (loadMatches s1 (image + 32) (imageMatches s1 (image + 32)),
          n64 s1 (image + 48) % 2 ^ 32)) x.mode)
        matchRegs := []
        pram := loadPram s1 (image + 32) (imageWords s1 (image + 32)) })) d))
    ∧ (∀ s c d k r odd s1, sourceCore s c = some d → s.core d = k → k.shadow = false → k.onlyB = false → k.jump = none →
      k.mode ≠ .halted → k.mode ≠ .stopped → k.patch = some .disable → s1 = drainStores s d →
      exec (.patchDrain c ⟨r, odd⟩) s = .next (mirror (s1.modCore d (fun x => { x.landAll with
          mode := .patching
          patch := some (.ending .loaded odd none x.mode)
          matchRegs := []
          pram := k.pram })) d))
    ∧ (∀ s c d r odd load back s1, sourceCore s c = some d → (s.core d).patch = some (.ending r odd load back) →
      (odd = none ∨ troikaVoted s (troikaOfCore d) = false) →
      s1 = mirror (s.modCore d (fun k => { k with mode := back, patch := none })) d →
      exec (.patchApplyEnd c) s = .next (setResult ((majority s1 d).foldl (fun x m => endPatch x m load r) s1)
        (leadOf s d) false (patchCode load r)))
    ∧ (∀ s c d r m o load back s1 s2, sourceCore s c = some d → (s.core d).patch = some (.ending r (some (m, o)) (some load) back) →
      troikaVoted s (troikaOfCore d) = true → (s.core (memberOf (troikaOf d) m)).minority = false → o ≠ r →
      minorityCount s (troikaOf d) ≠ 1 → s1 = mirror (s.modCore d (fun k => { k with mode := back, patch := none })) d →
      s2 = setResult ((majority s1 d).foldl (fun x m => endPatch x m (some load) r) s1) (leadOf s d) false (patchCode (some load) r) →
      exec (.patchApplyEnd c) s = .next (diverge (endPatch s2 (memberOf (troikaOf d) m) (some load) o) (troikaOf d) m 2 0)))

/-- A whole write of CFG_TLBINV with KIND 1 to 4 on an idle pair makes it busy; at the end the stores through old entries
have been performed, the entries are gone, BUSY is 0 and COUNT is one more. While the pair is busy a write is dropped
and DROPPED set. A request takes the lowest free slot of its master. A read of a block that answers gets its bytes,
poison among them consumed; one with a line that the deep cache lacks waits for its channel; a write is performed at
its block; an address of no online block gets an error response; a buffered store is performed once no earlier one to
its granule is before it. A response frees the slot, and what waited tries again. -/
def Obligations.TranslationAndMemoryRequestsComplete : Prop :=
  ((∀ s (p : Fin 97) w s1 i, w.part = .full → 1 ≤ wfld w 63 60 → wfld w 63 60 ≤ 4 → mayReach s w.agent .cfgTlbinv p.val = true →
      s.flag .cfgTlbstat p.val 63 = false → s1 = storeSetup s .cfgTlbinv p.val w → 1 ≤ s1.fld .cfgTlbinv p.val 63 60 →
      i = ⟨s1.fld .cfgTlbinv p.val 63 60, s1.fld .cfgTlbinv p.val 59 48, s1.fld .cfgTlbinv p.val 46 14⟩ →
      exec (.tlbinvStart p w) s = .next (({ s1 with invs := Tbl.put s1.invs p.val i }).setF .cfgTlbstat p.val 63 63 1))
    ∧ (∀ s (p : Fin 97) w, w.part = .full → 1 ≤ wfld w 63 60 → wfld w 63 60 ≤ 4 → mayReach s w.agent .cfgTlbinv p.val = true →
      s.flag .cfgTlbstat p.val 63 = true →
      exec (.tlbinvStart p w) s = .next (s.setF .cfgTlbstat p.val 62 62 1))
    ∧ (∀ s (p : Fin 97) i s1, Tbl.get? s.invs p.val = some i →
      s1 = ({ invalidate (drainAll s) i with invs := Tbl.del (invalidate (drainAll s) i).invs p.val }).setF .cfgTlbstat p.val 63 63 0 →
      exec (.tlbinvComplete p) s = .next (s1.setR .cfgTlbstat p.val (wrapInc (s1.reg .cfgTlbstat p.val) 31 0 1))))
  ∧ ((∀ s m pa n i s1, s.queued = [] → pa < physTop → freeSlot s m = some i → rowBusy s pa n = false → isMemory pa = true →
      spanAccessible s pa n = true → missingLines s pa n = [] →
      s1 = consumeSpan (cacheTouch s (classOfMaster m pa) pa n false) pa n →
      exec (.memoryRequestArrival (.read m pa n) []) s
        = .next (addFlight s1 ⟨m, i, pa, n, false, readBytes s1 pa n, spanPoisoned s1 pa n⟩))
    ∧ (∀ s m pa n i l ls, s.queued = [] → pa < physTop → freeSlot s m = some i → rowBusy s pa n = false → isMemory pa = true →
      spanAccessible s pa n = true → missingLines s pa n = l :: ls →
      exec (.memoryRequestArrival (.read m pa n) []) s
        = .next (addFlight ((l :: ls).foldl (fun x y => askChannel x (classOfMaster m pa) y) s) ⟨m, i, pa, n, true, [], false⟩))
    ∧ (∀ s m pa n i f, s.queued = [] → pa < physTop → freeSlot s m = some i → rowBusy s pa n = false → isMemory pa = true →
      spanAccessible s pa n = false →
      exec (.memoryRequestArrival (.read m pa n) f) s = .next (addFlight s ⟨m, i, pa, n, false, [], true⟩))
    ∧ (∀ s m pa bs i s1 e, s.queued = [] → pa < physTop → freeSlot s m = some i → rowBusy s pa bs.length = false →
      isMemory pa = true → spanState s pa bs.length ≠ .stalled → spanAccessible s pa bs.length = true →
      performWrite (logSpan s pa bs.length) (classOfMaster m pa) none pa bs = (s1, e) →
      exec (.memoryRequestArrival (.write m pa bs) []) s = .next (addFlight s1 ⟨m, i, pa, bs.length, false, [], e⟩))
    ∧ (∀ s c d i e, s.queued = [] → sourceCore s c = some d → (s.core d).sbuf[i]? = some e →
      ((s.core d).sbuf.take i).any (fun x => sameGranule x.pa x.bytes.length e.pa e.bytes.length) = false →
      writeWaits s d e.pa e.bytes.length = false →
      exec (.memoryRequestArrival (.store c i) []) s
        = .next (mirror (performStore (s.modCore d (fun k => { k with sbuf := dropAt k.sbuf i })) d e) d))
    ∧ (∀ s m slot, exec (.memoryResponse m slot) s = .next (serveQueued { s with flights := s.flights.filter (fun f =>
        f.waiting || !(slotHolder f.master == slotHolder m && f.slot == slot)) })))

/-- The patrol reads a granule: a clean one changes nothing, one of a tile store with an uncorrectable error is poisoned,
logged with its address and pulses the tile's source 15. Outside the physical address space there is nothing to read.
A row repair starts where GO names a row of its own tile not yet repaired, with a spare left in its bank, and ends
with the spare in the row's place, published. A request without a free slot, or of a row under repair, waits behind
those that wait (R24, R295). A core reaches the device region with an aligned word and, as Traverse and the ring
engine do, the host window while the link is up; another access there gets an error response (R18). -/
def Obligations.MemoryRepairsComplete : Prop :=
  ((∀ s pa, pa < physTop → exec (.patrolScrub pa 0) s = .next s)
    ∧ (∀ s pa f e t, pa < physTop → accessible s pa = true → poisoned s pa = false → tileOfPa pa = some t → channelOfPa pa = none →
      findingError 1 (judge f).1 = some e → e.kind = 3 →
      exec (.patrolScrub pa f) s = .next (pulse (logCairn (setPoison s pa) .cfgTserr .cfgTseaddr t pa e) (tileSource t 15)))
    ∧ (∀ s pa f, physTop ≤ pa → exec (.patrolScrub pa f) s = .fault (.noSuchAddress pa)))
  ∧ ((∀ s (t : TileId) w s1 pa, acts w 63 = true → mayReach s w.agent .cfgTsrep t.val = true → s.flag .cfgTsrstat t.val 63 = false →
      s1 = storeSetup s .cfgTsrep t.val w → pa = 16 * s1.fld .cfgTsrep t.val 43 4 → tileOfPa pa = some t.val →
      (repairedRows s t.val).contains (rowOf pa) = false → bankUsed s t.val (bankOf pa) < 4 →
      exec (.tsrepGo t w) s = .next (({ s1 with rowRepair := Tbl.put s1.rowRepair t.val (rowOf pa) }).setF .cfgTsrstat t.val 63 63 1))
    ∧ (∀ s (t : TileId) row s1, Tbl.get? s.rowRepair t.val = some row →
      s1 = { s with rowRepair := Tbl.del s.rowRepair t.val, repaired := Tbl.put s.repaired t.val (insertNat (repairedRows s t.val) row) } →
      exec (.rowRepairEnd t) s = .next (serveQueued (publish ((s1.setF .cfgTsrstat t.val 63 63 0).setF .cfgTsrstat t.val 7 0 1) 2 t.val 1))))
  ∧ ((∀ s r f, s.queued = [] → requestAddress r < physTop → requestWaits s r = true →
      exec (.memoryRequestArrival r f) s = .next { s with queued := [(r, f)] })
    ∧ (∀ s c pa i f, s.queued = [] → pa < physTop → freeSlot s (.core c) = some i → inDevice pa = true → pa % 8 = 0 →
      rowBusy s pa 8 = false → isMemory pa = false →
      exec (.memoryRequestArrival (.read (.core c) pa 8) f) s
        = .next (addFlight s ⟨.core c, i, pa, 8, false, bytesOfWord (setupRead s c (pa - 0x800000000)), false⟩))
    ∧ (∀ s m pa n i f, s.queued = [] → pa < physTop → freeSlot s m = some i → inDevice pa = false → inHostWindow pa = true →
      rowBusy s pa n = false → isMemory pa = false → reachesHost m = true → s.pcie.link = true →
      exec (.memoryRequestArrival (.read m pa n) f) s
        = .next (addFlight { s with free := s.free + n } ⟨m, i, pa, n, false, hostBytes s n, false⟩))
    ∧ (∀ s m pa n i f, s.queued = [] → pa < physTop → freeSlot s m = some i → inDevice pa = false → isMemory pa = false →
      rowBusy s pa n = false → (inHostWindow pa = false ∨ reachesHost m = false) →
      exec (.memoryRequestArrival (.read m pa n) f) s = .next (addFlight s ⟨m, i, pa, n, false, [], true⟩)))

/-- The oldest eviction of an online channel that is not retraining is issued, the counter of its line one more, and then
its write response frees its entry. A read of a line that the cache does not hold ends with its data, its reads
answered, or with a time-out: an error response and an integrity event. Retraining starts and ends. RETIRE of an
online channel makes it draining, published, and its end, with no request in flight, retired, its cache discarded. -/
def Obligations.DeepMemoryEventsComplete : Prop :=
  ((∀ s (q : QuadId) e es, s.online (uChan q.val) = true → (s.deepOf q.val).retraining = false → (s.deepOf q.val).evict = e :: es →
      e.issued = false →
      exec (.evictionWriteback q) s = .next (serveQueued (s.setDeep q.val { s.deepOf q.val with
          evict := { e with issued := true } :: es
          counters := Tbl.put (s.deepOf q.val).counters e.line (Tbl.getD (s.deepOf q.val).counters 0 e.line + 1) })))
    ∧ (∀ s (q : QuadId) e es, s.online (uChan q.val) = true → (s.deepOf q.val).retraining = false → (s.deepOf q.val).evict = e :: es →
      e.issued = true →
      exec (.evictionWriteback q) s = .next (serveQueued (s.setDeep q.val { s.deepOf q.val with evict := es })))
    ∧ (∀ s (q : QuadId) line g again, mayReadLine s q.val line = true → (s.deepOf q.val).retraining = false →
      exec (.deepReadComplete q line (.data g 0 again)) s
        = .next (answerReads (cacheTouch s (readClass s q.val line) (line * 64) 64 false) q.val line false))
    ∧ (∀ s (q : QuadId) line, mayReadLine s q.val line = true → (s.deepOf q.val).retraining = false →
      (s.deepOf q.val).reads.any (fun x => x.1 == line) = true →
      exec (.deepReadTimeout q line) s = .next (integrityEvent (answerReads s q.val line true) q.val 4 0 (line * 64)))
    ∧ (∀ s (q : QuadId) line, mayReadLine s q.val line = true → (s.deepOf q.val).retraining = false →
      (s.deepOf q.val).reads.any (fun x => x.1 == line) = false →
      exec (.deepReadTimeout q line) s = .next (integrityEvent
        (s.setDeep q.val { s.deepOf q.val with timedOut := insertNat (s.deepOf q.val).timedOut line }) q.val 4 0 (line * 64)))
    ∧ (∀ s (q : QuadId), s.online (uChan q.val) = true →
      exec (.retrainingStall q) s = .next (s.setDeep q.val { s.deepOf q.val with retraining := true }))
    ∧ (∀ s (q : QuadId), exec (.retrainingEnd q) s
        = .next (serveQueued (s.setDeep q.val { s.deepOf q.val with retraining := false }))))
  ∧ ((∀ s (q : QuadId) w, acts w 63 = true → mayReach s w.agent .dmcCtl q.val = true → s.online (uChan q.val) = true →
      exec (.retire q w) s = .next (publishUnit (s.setF .dmcCtl q.val 2 0 1) (uChan q.val) stDraining 5 (16 + q.val) 5))
    ∧ (∀ s (q : QuadId), s.unit (uChan q.val) = stDraining → s.flights.any (fun f => channelOfPa f.pa == some q.val) = false →
      exec (.channelRetireEnd q) s = .next (publishUnit ((s.setDeep q.val Deep.empty).setF .dmcCtl q.val 2 0 2)
        (uChan q.val) stRetired 5 (16 + q.val) 5)))

/-- GO with an operation on an idle channel latches it and makes DMC_RSTAT busy; a GO while busy only sets its DROPPED; at
the end the lines have been visited, the status has the counts and the source is pulsed. -/
def Obligations.RangeOperationsComplete : Prop :=
  (∀ (k : QuadId → SetupWrite → Instr) n, (k, n) ∈ [(Instr.clean, 1), (.cleanInv, 2), (.inv, 3), (.prefetch, 4), (.prefetchLock, 5),
      (.unlock, 6)] → ∀ s (q : QuadId) w s1 o, acts w 63 = true → wfld w 59 56 = n → mayReach s w.agent .dmcRop q.val = true →
    s.flag .dmcRstat q.val 63 = false → s1 = storeSetup s .dmcRop q.val w → s1.fld .dmcRop q.val 59 56 = n →
    o = ⟨n, s1.fld .dmcRop q.val 50 48, s1.fld .dmcRbase q.val 43 6, s1.fld .dmcRop q.val 31 0⟩ →
    exec (k q w) s = .next ((s1.setDeep q.val { s1.deepOf q.val with op := some o }).setF .dmcRstat q.val 63 63 1))
  ∧ (∀ (k : QuadId → SetupWrite → Instr) n, (k, n) ∈ [(Instr.clean, 1), (.cleanInv, 2), (.inv, 3), (.prefetch, 4), (.prefetchLock, 5),
      (.unlock, 6)] → ∀ s (q : QuadId) w, acts w 63 = true → wfld w 59 56 = n → mayReach s w.agent .dmcRop q.val = true →
    s.flag .dmcRstat q.val 63 = true → exec (k q w) s = .next (s.setF .dmcRstat q.val 62 62 1))
  ∧ (∀ s (q : QuadId) r n v s1 s2, (s.deepOf q.val).op = some r → n = linesInside s q.val r →
    v = (visited s q.val n r).foldl (visit q.val r.op r.cls) ⟨s, 0, 0⟩ →
    s1 = v.s.setDeep q.val { v.s.deepOf q.val with op := none } →
    s2 = (s1.setF .dmcRstat q.val 63 63 0).setF .dmcRstat q.val 61 56 (if r.op ≠ 0 ∧ n < r.lines then 2 else 1) →
    exec (.rangeOperationEnd q) s = .next (pulse ((s2.setF .dmcRstat q.val 41 21 (min v.b (2 ^ 21 - 1))).setF .dmcRstat q.val 20 0
      (min v.a (2 ^ 21 - 1))) (200 + q.val)))

/-- START in IDLE with EN 1 starts a cycle: FLIP, no core scanned, no work. A core that FLIP has not scanned is scanned at
a boundary: its roots are healed, its buffer and references become work, and FLIP ends when every core is scanned. In
MARK an engine traces one word of work, and with none left anywhere MARK ends. MARK_END finalises, clears weak slots
and settles every region; SELECT chooses the regions to evacuate. Each goes to the next phase. -/
def Obligations.CollectionAdvances : Prop :=
  ((∀ s w s1, acts w 63 = true → mayReach s w.agent .morCtl 0 = true → phase s = 1 →
      s1 = storeSetup s .morCtl 0 w (fun o n => keepField (bitsOf n 15 8 ≤ 100) 15 8 o n) → morEnabled s1 = true →
      exec (.morStart w) s = .next (startCycle s1))
    ∧ (∀ s, phase (startCycle s) = 2 ∧ (startCycle s).mor.work = [] ∧ ∀ c, ((startCycle s).core c).scanned = false)
    ∧ (∀ s c d k k1 s1, phase s = 2 → sourceCore s c = some d → s.core d = k → k.mode ≠ .halted → k.mode ≠ .stopped →
      k.mode ≠ .patching → (s.core (leadOf s c)).scanned = false → k1 = healRoots s k.landAll →
      s1 = addWork { s.setCore d { k1 with wbuf := [] } with mor := { s.mor with tops := s.mor.tops ++ stackTops k1 } } (rootWords k1) →
      exec (.rootScan c) s = .next (endFlip
        ((partners s c).foldl (fun x m => x.modCore m (fun k => { k with scanned := true })) (mirror s1 d)))))
  ∧ ((∀ s (t : TileId) w ws, phase s = 3 → s.mor.work = w :: ws →
      exec (.markTrace t) s = .next (traceWord t.val { s with mor := { s.mor with work := ws } } w))
    ∧ (∀ s (t : TileId), phase s = 3 → s.mor.work = [] → (handOverAll s).mor.work = [] →
      exec (.markTrace t) s = .next (setPhase (handOverAll s) 4))
    ∧ (∀ s s1 s2 s3, phase s = 4 → s1 = finalise s → s2 = s1.mor.weak.foldl clearWeak s1 →
      s3 = (List.range (regionCount s2)).foldl endRegion s2 →
      exec .markEnd s = .next (setPhase (countFree { s3 with mor := { s3.mor with weak := [], work := [] } }) 5))
    ∧ (∀ s s1, phase s = 5 → s1 = { drainAll (s.mor.hints.foldl applyHint s) with
          mor := { (drainAll (s.mor.hints.foldl applyHint s)).mor with hints := [] } } →
      exec .select s = .next (setPhase (countFree (chooseRegions
        (((List.range (regionCount s1)).filter (selectable s1)).foldl (fun l r => insertRegion s1 r l) []) s1 0)) 6))
    ∧ (∀ s p, p < 8 → phase (setPhase s p) = p))

/-- In EVACUATE the owner copies its next marked object out, and a region with none left is forwarded; when no region is
evacuating the cycle ends: CYCLES is one more and the phase IDLE, or OFF with EN 0. A move on request moves the object
of an evacuating region now. A page of a drained run gets another physical page. GO of MOR_HINT on a region of the
window records the hint for the next SELECT, or sets and clears the region's NOEVAC at once. An allocation that waits
for a region ends in HEAP_FULL when its wait runs out, and its instruction executes anew when a region is free. -/
def Obligations.EvacuationCompletes : Prop :=
  ((∀ s (t : TileId) r a b s1, phase s = 6 →
      (List.range (regionCount s)).find? (fun r => bstateOf s r == 1 && ownerOf s r == t.val) = some r →
      nextUnmoved s r = some a → moveObject s a none = some (b, s1) → exec (.evacuateCopy t) s = .next s1)
    ∧ (∀ s (t : TileId) r, phase s = 6 →
      (List.range (regionCount s)).find? (fun r => bstateOf s r == 1 && ownerOf s r == t.val) = some r →
      nextUnmoved s r = none → exec (.evacuateCopy t) s = .next (setBstate s r 2))
    ∧ (∀ s, phase s = 6 → (∀ r, r < regionCount s → bstateOf s r ≠ 1) →
      exec .cycleEnd s = .next (triggerCycle (pulse (setPhase (s.setR .morStat 0 (wrapInc (s.reg .morStat) 31 0 1))
        (if morEnabled s then 1 else 0)) (tileSource 0 10))))
    ∧ (∀ s m w r a s1, isPointerTag (tagOf w) = true → regionOf s (valOf w) = some r → bstateOf s r = 1 → movedWord s w = none →
      (sizeAt s (valOf w)).getD 0 ≤ 4096 → moveObject s (valOf w) (tileOfMaster m) = some (a, s1) →
      exec (.moveRequest m w) s
        = .next (s1.setR .morCnta (ownerOf s r) (wrapInc (s1.reg .morCnta (ownerOf s r)) 31 0 1)))
    ∧ (∀ s va page base r h leaf pa, base = va / 16384 * 16384 → regionOf s base = some r → h = desc s (runHead s r) →
      (descKind h = 3 ∨ descKind h = 5) → bitsOf h 46 46 = 1 → tileOfPa (16384 * page) = some (bitsOf h 43 40) →
      masterWalk s (heapSpace s) base 2 = .ok (leaf, pa) → phase s = 6 → accessible s (16384 * page) = true → bitOf leaf 2 = false →
      leafEpoch leaf = globalEpoch s → spaceIdmap s (heapSpace s) = false →
      exec (.pageRemap va page) s = .next (putWord (copyPage (invalidate (drainAll s) ⟨4, 0, base / 16384⟩) 2
        (16384 * leafPpn leaf) (16384 * page)) 2 pa (withBits leaf 39 10 page))))
  ∧ ((∀ s w s1 r op, acts w 63 = true → mayReach s w.agent .morHint 0 = true →
      s1 = storeSetup s .morHint 0 w (fun o n => keepField (bitsOf n 58 56 ≤ 5) 58 56 o n) → r = s1.fld .morHint 0 19 0 →
      r < regionCount s1 → op = s1.fld .morHint 0 58 56 → 3 ≤ op →
      exec (.morHintGo w) s
        = .next { s1 with mor := { s1.mor with hints := s1.mor.hints ++ [(r, op, s1.fld .morHint 0 55 52)] } })
    ∧ (∀ s w s1 r op, acts w 63 = true → mayReach s w.agent .morHint 0 = true →
      s1 = storeSetup s .morHint 0 w (fun o n => keepField (bitsOf n 58 56 ≤ 5) 58 56 o n) → r = s1.fld .morHint 0 19 0 →
      r < regionCount s1 → op = s1.fld .morHint 0 58 56 → (op = 1 ∨ op = 2) →
      exec (.morHintGo w) s = .next (descField s1 r 44 44 (if op = 1 then 1 else 0)))
    ∧ (∀ s c d t npc s1, sourceCore s c = some d → (s.core d).mode = .heapWait t npc →
      s1 = s.modCore d (fun k => { k with mode := .running, onlyB := false }) →
      exec (.heapFullTimeout c) s = .next (mirror (raiseStop s1 d (.trap t) (s1.core d).pc npc) d))
    ∧ (∀ s c t npc, (s.core c).mode = .heapWait t npc → s.fld .morStat 0 51 32 ≠ 0 →
      exec (.allocationWaitEnd c) s = .next (setModes s (partners s c) .running)))

/-- The unit of a tile takes a message of its mailbox: a well-formed request makes a table and posts it to the reply
mailbox; a request with a bad shape is answered by T.FIX 1. ADVANCE copies the table into a slot and raises the epoch,
with its code; a refusal changes only the code. RELEASE of a held slot and REBASE with none held begin, and their end
tells code 1. A pool takes the pages of its own block. -/
def Obligations.CirqueAndCrestComplete : Prop :=
  ((∀ s (t : TileId) m s0 msg b s2 s3 d r q b2 s1, s.flag .cqxCmd t.val 63 = true → s.online (uTile t.val) = true →
      takeMessage (withEngine s t.val) (heapSpace s) 3 (16 * s.fld .cqxCmd t.val 46 4) = some (m, s0) →
      loadBarrier s0 t.val m = some (msg, b, s2) → tagOf msg = 0x10 → addressFormatOk msg = true → s3 = heapTouch s2 (valOf msg) 16 →
      heapWord s3 (valOf msg) = some d → heapWord s3 (valOf msg + 8) = some r → loadBarrier s3 t.val r = some (q, b2, s1) →
      tagOf q = 0x14 → (mailboxAt s1 3 (heapSpace s1) (valOf q)).isOk = true → isFix d = true → bitsOf d 55 40 = 0 →
      bitsOf d 7 5 = 0 → 4 ≤ bitsOf d 4 0 → bitsOf d 4 0 ≤ 16 →
      exec (.cirqueTableMake t) s = .next (match makeTable s1 t.val (bitsOf d 39 8) (bitsOf d 4 0) with
        | some (w, s4) => cirqueReply s4 t.val (valOf q) w
        | none => cirqueReply (engineHeapFull s1 t.val) t.val (valOf q) (fixN 2)))
    ∧ (∀ s (t : TileId) m s0 msg b s2 s3 d r q b2 s1, s.flag .cqxCmd t.val 63 = true → s.online (uTile t.val) = true →
      takeMessage (withEngine s t.val) (heapSpace s) 3 (16 * s.fld .cqxCmd t.val 46 4) = some (m, s0) →
      loadBarrier s0 t.val m = some (msg, b, s2) → tagOf msg = 0x10 → addressFormatOk msg = true → s3 = heapTouch s2 (valOf msg) 16 →
      heapWord s3 (valOf msg) = some d → heapWord s3 (valOf msg + 8) = some r → loadBarrier s3 t.val r = some (q, b2, s1) →
      tagOf q = 0x14 → (mailboxAt s1 3 (heapSpace s1) (valOf q)).isOk = true → isFix d = false →
      exec (.cirqueTableMake t) s = .next (cirqueReply s1 t.val (valOf q) (fixN 1))))
  ∧ ((∀ s w s1 c s2, acts w 63 = true → mayReach s w.agent .cfgCrest 0 = true → s1 = storeSetup s .cfgCrest 0 w → crestBusy s1 = false →
      (s1.flag .cfgCrest 0 58 = false ∨ rangeSize s1 ≤ 1) → advanceInto s1 (s1.fld .cfgCrest 0 57 55) = (c, s2) →
      exec (.advance w) s = .next (s2.setF .cfgCrest 0 47 40 c))
    ∧ (∀ s k, globalEpoch s = 0xFFFF → s.flag .cfgSnap k 63 = false → advanceInto s k = (4, s))
    ∧ (∀ s w s1 k sp, acts w 62 = true → acts w 63 = false → mayReach s w.agent .cfgCrest 0 = true →
      s1 = storeSetup s .cfgCrest 0 w → crestBusy s1 = false → k = s1.fld .cfgCrest 0 57 55 → s1.flag .cfgSnap k 63 = true →
      sp = s1.fld .cfgSnap k 59 48 →
      exec (.release w) s = .next (({ invalidate (s1.setF .cfgSproot sp 63 63 0) ⟨2, sp, 0⟩ with crestOp := some (.release k) }).setF
        .cfgCrest 0 60 60 1))
    ∧ (∀ s w s1, acts w 61 = true → acts w 62 = false → acts w 63 = false → mayReach s w.agent .cfgCrest 0 = true →
      s1 = storeSetup s .cfgCrest 0 w → crestBusy s1 = false → anyHeld s1 = false →
      exec (.rebase w) s = .next (({ s1 with crestOp := some .rebase }).setF .cfgCrest 0 60 60 1))
    ∧ (∀ s k, s.crestOp = some (.release k) →
      exec .crestOperationEnd s = .next ((({ releaseEnd s k with crestOp := none }).setF .cfgCrest 0 60 60 0).setF .cfgCrest 0 47 40 1))
    ∧ (∀ s, s.crestOp = some .rebase →
      exec .crestOperationEnd s = .next ((({ rebaseEnd s with crestOp := none }).setF .cfgCrest 0 60 60 0).setF .cfgCrest 0 47 40 1))
    ∧ (∀ s (n : Fin 20) w s1 pages, mayReach s w.agent .cfgCrpool n.val = true → anyHeld s = false →
      s1 = storeSetup s .cfgCrpool n.val w →
      pages = (List.range (s1.fld .cfgCrpool n.val 13 0)).map (fun i => 16384 * (s1.fld .cfgCrpool n.val 43 14 + i)) →
      exec (.crpoolLoad n w) s = .next (setPool s1 n.val (pages.filter (inPool n.val)))))

/-- A resynchronisation copies the whole state of the majority into the minority core and counts. A troika reset begins
when asked of a troika in service, not already resetting and free to change its mode, and its end raises the
reset-done source. With debug access allowed: a halt stops the running cores of a troika, a halted core's registers
are read and written, one instruction is run, memory is read and written by physical address, and a resume lets the
cores go on. Without it nothing happens. -/
def Obligations.TroikasAndDebugComplete : Prop :=
  ((∀ s (k : TroikaId) dst src, (members k).find? (fun c => (s.core c).minority) = some dst →
      (members k).find? (fun c => !(s.core c).minority) = some src → troikaVoted s k.val = true → (s.core src).mode ≠ .patching →
      Tbl.get? s.resets k.val = none →
      exec (.resynchronisation k) s = .next (countResync (copyCore s src dst) k))
    ∧ (∀ s src dst, s.reg .mcPatchVersion dst.val = s.reg .mcPatchVersion src.val →
      (copyCore s src dst).core dst = { s.core src with minority := false })
    ∧ (∀ s src dst, s.reg .mcPatchVersion dst.val ≠ s.reg .mcPatchVersion src.val →
      ∃ t, t.core dst = { s.core src with minority := false } ∧ t.reg .mcPatchVersion dst.val = s.reg .mcPatchVersion src.val
        ∧ copyCore s src dst = publish t 3 dst.val 4)
    ∧ (∀ s (k : TroikaId) w s1, acts w 63 = true → mayReach s w.agent .trkCtl k.val = true → s1 = storeSetup s .trkCtl k.val w →
      s1.unit (uTroika k.val) ≠ stNotConfigured → s1.unit (uTroika k.val) ≠ stRetired → s1.flag .trkStat k.val 63 = false →
      (s1.flag .trkMode 0 (32 + k.val) = false ∨ s1.flag .trkCtl k.val 16 = troikaVoted s1 k.val) →
      exec (.troikaReset k w) s = .next (beginReset s1 k (s1.flag .trkCtl k.val 16) false))
    ∧ (∀ s (k : TroikaId) v r, Tbl.get? s.resets k.val = some r →
      exec (.troikaResetEnd k v) s = .next (pulse (finishReset s k r v) (tileSource (k.val / 2) (8 + k.val % 2)))))
  ∧ ((∀ s (k : TroikaId), debugAllowed s = true → (members k).any (fun c => (s.core c).mode == .running) = true →
      exec (.debugHalt k) s = .next (((members k).foldl (fun x c => if (x.core c).mode == .running then
        x.modCore c (fun y => { y.landAll with mode := .debugHalt }) else x) s).setF .trkStat k.val 62 60 4))
    ∧ (∀ s c r, debugAllowed s = true →
      exec (.debugRead c r) s = .next { s with board := { s.board with debugOut := some (debugGet (s.core (leadOf s c)) r) } })
    ∧ (∀ s c r v, debugAllowed s = true → (s.core (leadOf s c)).mode = .debugHalt → troikaVoted s (troikaOfCore c) = false →
      exec (.debugWrite c r v) s = .next (s.modCore (leadOf s c) (fun k => debugSet s (leadOf s c) k r v)))
    ∧ (∀ s a op c, debugAllowed s = true → c = leadOf s a.core → (s.core c).mode = .debugHalt →
      exec (.debugStep a op) s = .next (turnModes (stepBody (turnModes s (partners s c) .debugHalt .running) { a with core := c } op)
        (partners s c) .running .debugHalt))
    ∧ (∀ s c pa b, pa < physTop → b = pa / 8 * 8 → debugAllowed s = true → accessible s b = true → poisoned s b = false →
      exec (.debugMemoryAccess c pa none) s = .next (putDebug (cacheTouch s (coreClass c b) b 8 false) (some (readWord s b))))
    ∧ (∀ s c pa b w, pa < physTop → b = pa / 8 * 8 → debugAllowed s = true → accessible s b = true → poisoned s b = false →
      debugWord w = true → mayOverwrite (readWord s b) w = true →
      exec (.debugMemoryAccess c pa (some w)) s = .next (performWrite s (coreClass c b) (some (leadOf s c)) b (bytesOfWord w)).1)
    ∧ (∀ s (k : TroikaId) s1, debugAllowed s = true → s.fld .trkStat k.val 62 60 = 4 → troikaVoted s k.val = false →
      s1 = turnModes s (members k) .debugHalt .running →
      exec (.debugResume k) s = .next (({ s1 with replay := Tbl.del s1.replay k.val }).setF .trkStat k.val 62 60 0))
    ∧ (∀ s (k : TroikaId) c r v a op, debugAllowed s = false → exec (.debugHalt k) s = .next s ∧ exec (.debugRead c r) s = .next s
      ∧ exec (.debugWrite c r v) s = .next s ∧ exec (.debugStep a op) s = .next s ∧ exec (.debugResume k) s = .next s))

/-- A pulse holds the source's bit unless it is pending; EVC_RAISE pulses a general source; a group's bits go to its
target when its hold-off timer does not run, and again when it runs out; a write of a group's register acts on its
timer; a core clears bits of its own pending array. A core in WAIT with GATE_EN is gated; a wake puts it back into
WAIT and delivers what is held for it; a wait for a gated target ends with an awake alternate, or with the target's
wake. -/
def Obligations.EventsDelivered : Prop :=
  ((∀ s (n : Fin 1024), n.val ≠ 195 → ¬ (204 ≤ n.val ∧ n.val ≤ 207) → sourcePending s n.val = false →
      exec (.sourcePulse n) s = .next (s.setF .evcGstat (n.val / 16) (n.val % 16) (n.val % 16) 1))
    ∧ (∀ s (n : Fin 1024), sourcePending s n.val = true → exec (.sourcePulse n) s = .next s)
    ∧ (∀ s w, mayReach s w.agent .evcRaise 0 = true → 256 ≤ wfld w 9 0 → wfld w 9 0 ≤ 767 →
      exec (.evcRaise w) s = .next (pulse s (wfld w 9 0)))
    ∧ (∀ s (g : Fin 64) t, timerRuns s g.val = false → deliverable s g.val ≠ 0 → t = groupTarget s g.val → takerOf s t = .awake →
      exec (.bitDelivery g) s = .next (deliverTo s g.val t (deliverable s g.val) false))
    ∧ (∀ s (g : Fin 64) t, timerRuns s g.val = false → deliverable s g.val ≠ 0 → t = groupTarget s g.val → takerOf s t = .down →
      takerOf s (groupAlt s g.val) = .awake →
      exec (.bitDelivery g) s = .next (deliverTo s g.val (groupAlt s g.val) (deliverable s g.val) true))
    ∧ (∀ s (g : Fin 64) t, timerRuns s g.val = false → deliverable s g.val ≠ 0 → t = groupTarget s g.val → takerOf s t = .down →
      takerOf s (groupAlt s g.val) = .down → exec (.bitDelivery g) s = .next (s.setF .evcGstat g.val 62 62 1))
    ∧ (∀ s (g : Fin 64), timerRuns s g.val = true →
      exec (.holdoffExpiry g) s = .next (deliverGroup (s.setF .evcGstat g.val 61 61 0) g.val))
    ∧ (∀ s (g : Fin 64) w, mayReach s w.agent .evcGcfg g.val = true → exec (.groupConfigWrite g w) s = .next (writeGcfg s g.val w))
    ∧ (∀ s (i : Fin 16) c p v, troikaVoted s (troikaOfCore c) = false →
      exec (.pendClear i ⟨.core c, p, v⟩) s = .next (s.modCore c (fun k =>
        { k with pend := Tbl.putD k.pend 0 i.val (Tbl.getD k.pend 0 i.val &&& ~~~ (v &&& partMask p)) }))))
  ∧ ((∀ s c i, i = leadOf s c → (s.core i).mode = .waiting → s.flag .evcCpwr i.val 63 = true →
      exec (.coreGating c) s = .next ((setModes s (partners s c) .gated).setF .evcCpwr i.val 62 62 1))
    ∧ (∀ s c i s1, i = leadOf s c → (s.core i).mode = .gated → s.waking.contains i.val = true →
      s1 = { setModes s (partners s c) .waiting with waking := eraseNat s.waking i.val }.setF .evcCpwr i.val 62 62 0 →
      (∀ g : Nat, g < 64 → deliverable s1 g = 0) → exec (.coreWake c) s = .next s1)
    ∧ (∀ s (g : Fin 64) s1, s.evcWaits.contains g.val = true → s1 = { s with evcWaits := eraseNat s.evcWaits g.val } →
      deliverable s1 g.val ≠ 0 → takerOf s1 (groupTarget s1 g.val) = .gated → takerOf s1 (groupAlt s1 g.val) = .awake →
      exec (.gatedWaitExpiry g) s = .next (deliverTo s1 g.val (groupAlt s1 g.val) (deliverable s1 g.val) true))
    ∧ (∀ s (g : Fin 64) s1, s.evcWaits.contains g.val = true → s1 = { s with evcWaits := eraseNat s.evcWaits g.val } →
      deliverable s1 g.val ≠ 0 → takerOf s1 (groupTarget s1 g.val) = .gated → takerOf s1 (groupAlt s1 g.val) ≠ .awake →
      exec (.gatedWaitExpiry g) s = .next (startWake s1 (groupTarget s1 g.val))))

/-- A tick of an enabled timer triggers every channel that names it. A burst reads one part of the next granted element
into the buffer, or waits with a slot where the block is not ready; a burst writes the oldest part; a frame of an
ingress queue becomes an element. A completion point that is due ends the run where it is the last, pulses its source
and triggers the channels chained to it. ABORT stops a channel that runs or is done, a cleared EN a running one; when
the last response is in, the status block and the registers tell what was left and the channel is ABORTED. -/
def Obligations.TraverseChannelsRun : Prop :=
  ((∀ s (t : Fin 16), s.flag .trvTmr t.val 63 = true → exec (.trvTimerTick t) s = .next (triggerAll s 1 t.val))
    ∧ (∀ s (n : Fin 64) h c bs total s1, s.chan n.val = c → chState s n.val = chRunning → c.rd < c.granted →
      ¬ (c.raw = true ∧ c.skind = 4) → (s.flag .trvStat n.val 59 = true → c.rd = c.wr) → bufferRoom c 256 = true →
      hasSlot s (trvMaster n) = true →
      sourcePart s n.val c h = .ok (bs, total, s1) → c.rdPos + bs.length < total →
      exec (.burstRead n h) s = .next (s1.setChan n.val { c with buf := c.buf ++ [⟨c.rd, c.rdPos, total, bs, none⟩], rdPos := c.rdPos + bs.length }))
    ∧ (∀ s (n : Fin 64) h c bs total s1, s.chan n.val = c → chState s n.val = chRunning → c.rd < c.granted →
      ¬ (c.raw = true ∧ c.skind = 4) → (s.flag .trvStat n.val 59 = true → c.rd = c.wr) → bufferRoom c 256 = true →
      hasSlot s (trvMaster n) = true →
      sourcePart s n.val c h = .ok (bs, total, s1) → total ≤ c.rdPos + bs.length →
      exec (.burstRead n h) s = .next (s1.setChan n.val { c with buf := c.buf ++ [⟨c.rd, c.rdPos, total, bs, none⟩], rd := c.rd + 1, rdPos := 0 }))
    ∧ (∀ s (n : Fin 64) h c code addr, s.chan n.val = c → chState s n.val = chRunning → c.rd < c.granted →
      ¬ (c.raw = true ∧ c.skind = 4) → (s.flag .trvStat n.val 59 = true → c.rd = c.wr) → bufferRoom c 256 = true →
      hasSlot s (trvMaster n) = true →
      sourcePart s n.val c h = .error (code, addr) → code ≠ 0 →
      exec (.burstRead n h) s = .next (beginAbort (if code = 9 then meetRead s (trvCls n.val) c.space addr 256 else s) n.val code addr))
    ∧ (∀ s (n : Fin 64) h c addr pa, s.chan n.val = c → chState s n.val = chRunning → c.rd < c.granted →
      ¬ (c.raw = true ∧ c.skind = 4) → (s.flag .trvStat n.val 59 = true → c.rd = c.wr) → bufferRoom c 256 = true →
      hasSlot s (trvMaster n) = true → sourcePart s n.val c h = .error (0, addr) → mapEdge s (trvCls n.val) c.space addr = some pa →
      exec (.burstRead n h) s = .next (waitFlight s (trvMaster n) pa 8))
    ∧ (∀ s (n : Fin 64) c k rest s1, s.chan n.val = c → chState s n.val = chRunning → c.full = false → hasSlot s (trvMaster n) = true → c.buf = k :: rest →
      ¬ (c.raw = true ∧ c.dkind = 4) → writePart s n.val c k (k.bytes.take 256) = .done s1 → 256 < k.bytes.length →
      exec (.burstWrite n) s = .next (s1.setChan n.val { s1.chan n.val with full := false, buf := { k with pos := k.pos + 256, bytes := k.bytes.drop 256 } :: rest }))
    ∧ (∀ s (n : Fin 64) c k rest s1, s.chan n.val = c → chState s n.val = chRunning → c.full = false → hasSlot s (trvMaster n) = true → c.buf = k :: rest →
      ¬ (c.raw = true ∧ c.dkind = 4) → writePart s n.val c k (k.bytes.take 256) = .done s1 → k.bytes.length ≤ 256 →
      k.total ≤ k.pos + k.bytes.length → k.stamp = none →
      exec (.burstWrite n) s = .next (elementDone (s1.setChan n.val { s1.chan n.val with full := false, buf := rest }) n.val))
    ∧ (∀ (s : State) (n : Fin 64) (c : Chan) f fs, s.chan n.val = c → Tbl.getD s.ingress [] c.queue = f :: fs → chState s n.val = chRunning →
      c.raw = true → c.skind = 4 → c.rd < c.granted → bufferRoom c f.bytes.length = true → f.bytes.length ≤ c.esize →
      exec (.ingressFrameReady n) s = .next (State.setChan { s with ingress := Tbl.putD s.ingress [] c.queue fs } n.val
        { c with buf := c.buf ++ [⟨c.rd, 0, f.bytes.length, f.bytes, some (f.stamp, f.bytes.length)⟩], rd := c.rd + 1 })))
  ∧ ((∀ s (n : Fin 64) c p ps s1, s.chan n.val = c → c.points = p :: ps → p ≠ c.total → bitOf c.ctl 26 = true →
      s1 = pulse (s.setChan n.val { c with points := ps }) (bitsOf c.ctl 36 27) →
      exec (.completionPoint n) s = .next (triggerAll s1 2 n.val))
    ∧ (∀ s (n : Fin 64) c ps s1, s.chan n.val = c → c.points = c.total :: ps → bitOf c.ctl 26 = false →
      chState s n.val = chRunning → s1 = setChState (s.setChan n.val { c with points := ps }) n.val chDone →
      exec (.completionPoint n) s = .next (triggerAll s1 2 n.val))
    ∧ (∀ s (n : Fin 64) w s1, acts w 63 = true → mayReach s w.agent .trvCtl n.val = true → s1 = storeSetup s .trvCtl n.val w →
      (chState s n.val = chRunning ∨ chState s n.val = chWaiting ∨ chState s n.val = chDone) →
      exec (.trvAbort n w) s = .next (beginAbort s1 n.val 1 0))
    ∧ (∀ s (n : Fin 64) w s1, w.part ≠ .low → acts w 62 = false → acts w 63 = false → mayReach s w.agent .trvCtl n.val = true →
      s1 = storeSetup s .trvCtl n.val w → s1.flag .trvCtl n.val 62 = false → (chState s n.val = chRunning ∨ chState s n.val = chWaiting) →
      exec (.channelDisable n w) s = .next (beginAbort s1 n.val 1 0))
    ∧ (∀ s (n : Fin 64) w s1, w.part ≠ .low → acts w 62 = false → acts w 63 = false → mayReach s w.agent .trvCtl n.val = true →
      s1 = storeSetup s .trvCtl n.val w → s1.flag .trvCtl n.val 62 = false → chState s n.val = chIdle →
      exec (.channelDisable n w) s = .next (setChState s1 n.val chDisabled))
    ∧ (∀ s (n : Fin 64) c code late addr left r0 r1 r2 s0 s1, s.chan n.val = c → c.ending = some (code, late, addr) → c.points = [] →
      left = (fun (count i : Nat) => if late then 0 else count - i) → r0 = left c.c0 (c.i0 c.wr) → r1 = left c.c1 (c.i1 c.wr) →
      r2 = left c.c2 (c.i2 c.wr) →
      (if bitOf c.sb 63 = true then writeWords s (trvCls n.val) c.space (bitsOf c.sb 46 0) (statusWords s n.val code late r0 r1 r2 addr) = .ok s0
        else s0 = s) →
      s1 = ((((s0.setF .trvStat n.val 60 60 (if late then 1 else 0)).setF .trvStat n.val 55 48 code).setF .trvStat n.val 24 0 r2).setR .trvRes n.val
        (BitVec.ofNat 64 (r1 * 2 ^ 32 + r0))).setChan n.val { c with ending := none } →
      exec (.abortDrainEnd n) s = .next (pulse (setChState s1 n.val chAborted) (128 + n.val))))

/-- A message that waits for room is appended again, or its wait runs out: a channel aborts with code 11, a ring's
descriptor completes with status 7. The doorbell poll takes every head record, then every tail record, and adapts its
interval; a poll of one head record and a failed poll take effect on their rings. A fetched descriptor stands behind
those fetched before it. -/
def Obligations.WaitsForRoomEnd : Prop :=
  ((∀ s (n : Fin 64), chState s n.val = chRunning → (s.chan n.val).full = true →
      exec (.mboxAppendRetry (.channel n)) s = .next (burstWrite s n.val))
    ∧ (∀ s (r : Fin 64) msg f fs e w s1, (s.ring r.val).posting = some msg → (s.ring r.val).fetched = f :: fs →
      e = bitsOf (f.words.getD 2 0) 15 0 → tableSlot s 0 e = .ok (w, s1) →
      exec (.mboxAppendRetry (.ring r)) s = .next (appendMessage s1 r.val e (valOf w) msg))
    ∧ (∀ s (n : Fin 64), chState s n.val = chRunning → (s.chan n.val).full = true →
      exec (.mbwaitExpiry (.channel n)) s = .next (beginAbort s n.val 11 (s.chan n.val).daddr))
    ∧ (∀ s (r : Fin 64) msg f fs, (s.ring r.val).posting = some msg → (s.ring r.val).fetched = f :: fs →
      exec (.mbwaitExpiry (.ring r)) s = .next (finish s r.val 7 (bitsOf (f.words.getD 2 0) 15 0) 0 0)))
  ∧ ((∀ s bs s1 s2 found, engineOn s = true → engineQuiet s = false → s.pcie.link = true →
      s1 = (List.range 64).foldl (fun x c => takeHead x c (wordOfBytes ((bs.drop (8 * (64 + c))).take 8))) s →
      (List.range 64).foldl (fun (x : State × Bool) r => ((takeTail x.1 r (wordOfBytes ((bs.drop (8 * r)).take 8))).1,
        x.2 || (takeTail x.1 r (wordOfBytes ((bs.drop (8 * r)).take 8))).2)) (s1, false) = (s2, found) →
      exec (.doorbellPoll (.data bs)) s = .next (proceed (setInterval s2 (if found then s.fld .hreCtl 0 31 16
        else min (s.fld .hreCtl 0 47 32) (2 * max (s.fld .hreCtl 0 31 16) s.hre.interval)))))
    ∧ (∀ s t, engineOn s = true → engineQuiet s = false → s.pcie.link = true →
      exec (.doorbellPoll (.failed t)) s = .next ((enabledRings s).foldl (fun x r => ringError x r (if t then 1 else 2) none) s))
    ∧ (∀ s (c : Fin 64) bs, engineOn s = true → engineQuiet s = false → cqRoom s c.val = false → s.pcie.link = true →
      exec (.cqHeadPoll c (.data bs)) s = .next (proceed (takeHead s c.val (wordOfBytes (bs.take 8)))))
    ∧ (∀ s (r : Fin 64) q bs exts segs e s1, engineOn s = true → engineQuiet s = false → sqRunning s r.val = true → s.ring r.val = q →
      q.fetched.length ≤ 16 → q.fetched.any (fun f => match f.ends with | .failed _ => true | _ => false) = false →
      q.resetting = false → q.fetched.length < countDiff q.tail (sqHead s r.val) → s.pcie.link = true →
      readDescriptor s r.val (wordsOf bs) exts = some (segs, e) →
      s1 = s.setRing r.val { q with fetched := q.fetched ++ [⟨s.hre.order, wordsOf bs, segs, e⟩] } →
      exec (.descriptorFetch r (.data bs) exts) s = .next (proceed { s1 with hre := { s1.hre with order := s1.hre.order + 1 } })))

/-- INVOKE posts its inline bytes and IMPORT the bytes it gathers, as a byte vector, to the mailbox that they name; EXPORT
writes a payload to the host and completes with its length. QUERY answers the value of a key, a pointer by its tag
alone, or T.UNBOUND; SNAPSHOT stands for a write of CFG_CREST; ATTEST writes the signed report; PATCH installs what
Crag accepts; CONTROL completes with nothing, with the time, or once everything fetched earlier has completed. -/
def Obligations.HostOperationsComplete : Prop :=
  ((∀ s (r : Fin 64) f, frontOf s r.val 1 = some f → exec (.invoke r) s = .next (postMessage s r.val f
      (((f.words.drop 3).map bytesOfWord).flatten.take (bitsOf (f.words.getD 2 0) 21 16))))
    ∧ (∀ s (r : Fin 64) f bs, frontOf s r.val 2 = some f → engineQuiet s = false → s.pcie.link = true →
      bs.length = bitsOf (f.words.getD 2 0) 63 32 →
      exec (.importBytes r (.data bs)) s = .next (postMessage s r.val f bs))
    ∧ (∀ s (r : Fin 64) f w s1 h off n bs, frontOf s r.val 3 = some f → engineQuiet s = false →
      n = bitsOf (f.words.getD 2 0) 63 32 → off = bitsOf (f.words.getD 3 0) 31 0 →
      tableSlot s 1 (bitsOf (f.words.getD 2 0) 15 0) = .ok (w, s1) → (tagOf w = 0x12 ∨ tagOf w = 0x19) →
      spaceWord s1 5 (heapSpace s1) (valOf w) = some h → headerFits (tagOf w) h = true → headerMalformed h = false → off + n ≤ hdrLength h →
      trvRead s1 5 (heapSpace s1) true (valOf w + payloadOffset h + off) n = .ok bs →
      exec (.exportBytes r) s = .next (finish (scatter (touchEdge s1 5 (heapSpace s1) (valOf w) (payloadOffset h + off + n)) f.segs bs)
        r.val 0 0 (BitVec.ofNat 64 n) 0))
    ∧ (∀ s (r : Fin 64) f w s1 h off n, frontOf s r.val 3 = some f → engineQuiet s = false →
      n = bitsOf (f.words.getD 2 0) 63 32 → off = bitsOf (f.words.getD 3 0) 31 0 →
      tableSlot s 1 (bitsOf (f.words.getD 2 0) 15 0) = .ok (w, s1) → (tagOf w = 0x12 ∨ tagOf w = 0x19) →
      spaceWord s1 5 (heapSpace s1) (valOf w) = some h → headerFits (tagOf w) h = true → headerMalformed h = false → hdrLength h < off + n →
      exec (.exportBytes r) s = .next (finish s1 r.val stRange 0 0 0)))
  ∧ ((∀ s (r : Fin 64) f w s1 v, frontOf s r.val 4 = some f → tableSlot s 2 (bitsOf (f.words.getD 2 0) 15 0) = .ok (w, s1) → tagOf w = 0x14 →
      hostLook (drainAll (touchEdge s1 5 (heapSpace s1) (valOf w) 16)) (valOf w) (f.words.getD 3 0) (f.words.getD 4 0) = .ok (some v) →
      exec (.query r) s = .next (finish (touchEdge s1 5 (heapSpace s1) (valOf w) 16) r.val 0 0 (hostValue v) 1))
    ∧ (∀ s (r : Fin 64) f w s1, frontOf s r.val 4 = some f → tableSlot s 2 (bitsOf (f.words.getD 2 0) 15 0) = .ok (w, s1) → tagOf w = 0x14 →
      hostLook (drainAll (touchEdge s1 5 (heapSpace s1) (valOf w) 16)) (valOf w) (f.words.getD 3 0) (f.words.getD 4 0) = .ok none →
      exec (.query r) s = .next (finish (touchEdge s1 5 (heapSpace s1) (valOf w) 16) r.val 0 0 unbound 0))
    ∧ (∀ s (r : Fin 64) f k s1, frontOf s r.val 5 = some f → bitOf (f.words.getD 2 0) 8 = false → k = bitsOf (f.words.getD 2 0) 2 0 →
      s1 = writeCrest s ⟨.host, .full, BitVec.ofNat 64 (2 ^ 63 + k * 2 ^ 55)⟩ →
      exec (.snapshot r) s = .next (if s1.fld .cfgCrest 0 47 40 ≤ 1 then finish s1 r.val 0 0 (BitVec.ofNat 64 (s1.fld .cfgSnap k 15 0)) 0
        else finish s1 r.val stRefused (s1.fld .cfgCrest 0 47 40) 0 0))
    ∧ (∀ s (r : Fin 64) f nonce report sig s1, frontOf s r.val 6 = some f → cragUp s = true → engineQuiet s = false →
      5467 ≤ bitsOf (f.words.getD 2 0) 63 32 →
      nonce = (((f.words.drop 3).take 4).map bytesOfWord).flatten.take (bitsOf (f.words.getD 2 0) 5 0) →
      report = reportBytes s nonce → signWith s 1 4 report = (sig, s1) →
      exec (.hostAttest r) s = .next (finish (sendHost s1 (f.words.getD 7 0).toNat (report ++ sig)) r.val 0 0 5467 0))
    ∧ (∀ s (r : Fin 64) f img, frontOf s r.val 7 = some f → cragUp s = true → engineQuiet s = false → s.pcie.link = true →
      img.length = bitsOf (f.words.getD 2 0) 63 32 →
      exec (.patch r (.data img)) s = .next (match performPatch s (bitsOf (f.words.getD 2 0) 1 0) 0 img with
        | .ok (v, s1) => finish s1 r.val 0 0 (BitVec.ofNat 64 v) 0
        | .error e => if e == sHeapFull then finish (engineHeapFull s 0) r.val stHeapFull 0 0 0 else finish s r.val stRefused e 0 0))
    ∧ (∀ s (r : Fin 64) f, frontOf s r.val 8 = some f → bitsOf (f.words.getD 2 0) 7 0 = 0 →
      exec (.controlNop r) s = .next (finish s r.val 0 0 0 0))
    ∧ (∀ s (r : Fin 64) f, frontOf s r.val 8 = some f → bitsOf (f.words.getD 2 0) 7 0 = 1 →
      exec (.controlTime r) s = .next (finish s r.val 0 0 (timeWord s) 0))
    ∧ (∀ s (r : Fin 64) f, frontOf s r.val 8 = some f → bitsOf (f.words.getD 2 0) 7 0 = 2 →
      (∀ e, e ∈ s.hre.rings → ∀ g, g ∈ e.2.fetched → f.order ≤ g.order) → (∀ e, e ∈ s.hre.entries → e.sq = none) →
      exec (.controlDrain r) s = .next (finish s r.val 0 0 0 0)))

/-- A notification takes the oldest word of its mailbox and posts it as an entry. A hold-off that runs out makes the
interrupt due; unmasking sends what pends; a failed read reaches its reader. EN starts a disabled ring whose ring and
completion ring fit the window, or tells cause 7; RESET disables a ring; a completion ring taken out of use puts its
rings into ERROR with cause 6; HRE_CTL.EN is taken in the Operational state and in Saddle mode. -/
def Obligations.RingsAndNotificationsComplete : Prop :=
  ((∀ s w s1, engineOn s = true → s.flag .hreDevtab 3 63 = true → hasSlot s .hre = true → engineQuiet s = false → s.hre.entries.any (fun e => e.sq.isNone) = false →
      takeMessage s (heapSpace s) 5 (16 * s.fld .hreDevtab 3 46 4) = some (w, s1) → isFix w = true → bitsOf w 49 48 = 0 →
      cqEnabled s1 (bitsOf w 55 50) = true →
      exec .notification s = .next (postEntry s1 ⟨bitsOf w 55 50, none, [BitVec.ofNat 64 (bitsOf w 47 0), 0, 0, entryWord3 0 0 0 0]⟩))
    ∧ (∀ s (c : Fin 64), 0 < (s.cq c.val).unann → exec (.cqHoldoffExpiry c) s = .next (deliverInterrupt (s.setCq c.val { s.cq c.val with unann := 0 }) c.val))
    ∧ (∀ s (c : Fin 64) a d m, exec (.msixUnmask (.entry c a d m)) s = .next (sendPending
      { s with pcie := { s.pcie with msix := Tbl.putD s.pcie.msix MsixEntry.empty c.val ⟨a, d, m⟩ } }))
    ∧ (∀ s on m, exec (.msixUnmask (.control on m)) s = .next (sendPending { s with pcie := { s.pcie with msixOn := on, msixMasked := m } }))
    ∧ (∀ s t, exec (.hostReadFailure .doorbell t) s
        = .next ((enabledRings s).foldl (fun x r => ringError x r (if t || !s.pcie.link then 1 else 2) none) s)))
  ∧ ((∀ s (r : Fin 64) w s1 c, acts w 63 = true → acts w 62 = false → mayReach s w.agent .hreSqcfg r.val = true → sqState s r.val = 0 →
      s1 = storeSetup s .hreSqcfg r.val w (fun old new => keepField (log2Ok (bitsOf (keepField (bitsOf new 39 32 != 0) 39 32 old new) 4 0)) 4 0 old
        (keepField (bitsOf new 39 32 != 0) 39 32 old new)) → w.part = .full →
      c = boundCq s1 r.val → cqEnabled s1 c = true → log2Ok (wfld w 4 0) = true →
      windowHolds s1 (s1.fld .hreSqbase r.val 63 12 * 4096) (64 * sqSize s1 r.val) = true →
      windowHolds s1 (s1.fld .hreCqbase c 63 12 * 4096) (32 * cqSize s1 c) = true →
      exec (.sqEnable r w) s = .next ((s1.setR .hreSqstat r.val (withBits (withBits (s1.reg .hreSqstat r.val) 63 62 1) 31 0 0)).setRing r.val Ring.empty))
    ∧ (∀ s (r : Fin 64) w, acts w 62 = true → mayReach s w.agent .hreSqcfg r.val = true → sqState s r.val = 2 → acts w 63 = false →
      ∃ t, exec (.sqReset r w) s = .next t ∧ sqState t r.val = 0 ∧ t.ring r.val = Ring.empty ∧ t.mem = s.mem ∧ t.cores = s.cores
        ∧ t.toHost = s.toHost)
    ∧ (∀ s (c : Fin 64) w s1, w.part ≠ .low → acts w 63 = false → mayReach s w.agent .hreCqcfg c.val = true → cqEnabled s c.val = true →
      s1 = storeSetup s .hreCqcfg c.val w (fun old new => keepField false 4 0 old (keepField (bitsOf new 15 8 != 0) 15 8 old new)) →
      cqEnabled s1 c.val = false →
      exec (.cqDisable c w) s = .next ((boundRings s c.val).foldl (fun x r => ringError x r 6 none) s1))
    ∧ (∀ s w, acts w 63 = true → mayReach s w.agent .hreCtl 0 = true → (bootState s = 7 ∨ bootState s = 8) →
      ∃ t, exec (.hreEnable w) s = .next t ∧ t.flag .hreCtl 0 63 = true ∧ t.cores = s.cores ∧ t.mem = s.mem))

/-- A function-level reset clears the engine and counts itself; D3hot quiets the engine and D0 wakes it; the link goes
down with the reads that are outstanding, comes up, and enters L1. A host request that changes nothing in the device
gets its completion, Unsupported Request where it names nothing. -/
def Obligations.FunctionStatesComplete : Prop :=
  (∀ s, ∃ t, exec .functionLevelReset s = .next t ∧ t.hre = State.reset.hre ∧ t.pcie.link = s.pcie.link ∧ t.cores = s.cores
    ∧ t.mem = s.mem ∧ (s.fld .hreStat 0 47 32 < 65535 → t.fld .hreStat 0 47 32 = s.fld .hreStat 0 47 32 + 1))
  ∧ (∀ s p, ∃ t, exec (.d3hotEntry p) s = .next t ∧ engineQuiet t = true ∧ t.hre = s.hre)
  ∧ (∀ s, ∃ t, exec (.d0Return false) s = .next t ∧ t.pcie.d3 = false ∧ t.pcie.bme = false ∧ t.hre = s.hre)
  ∧ (∀ s s1, s1 = proceed { s with pcie := { s.pcie with d3 := false, bme := true, pme := false, due := [] } } →
    exec (.d0Return true) s = .next (sendPending (s.pcie.due.foldl deliverInterrupt s1)))
  ∧ (∀ s, exec (.linkDown []) s = .next { s with pcie := { s.pcie with link := false, l1 := false } })
  ∧ (∀ s rs x, exec (.linkDown (rs ++ [x])) s = (match exec (.linkDown rs) s with | .next t => .next (failReader t true x) | o => o))
  ∧ (∀ s, s.base.held = [] → s.board.outside.contains 2 = false →
    exec .linkUp s = .next { s with pcie := { s.pcie with link := true, l1 := false } })
  ∧ (∀ s, s.pcie.link = true → exec .linkL1Entry s = .next { s with pcie := { s.pcie with l1 := true } })
  ∧ (∀ s r, s.pcie.link = true → (∀ off len, r = .bar0 off len → 0x10000 ≤ off) →
    exec (.hostUnsupportedRequest r) s = .next { s with pcie := { s.pcie with answer := some (hostRead s r) } })
  ∧ (∀ s a, hostRead s (.other a) = .unsupported)

/-- Crag performs the command that it finds at the front of its mailbox: RESULT, STATUS 0 and the reply, and its count of
commands. A command that fails with a status leaves RESULT and records poison that it met; a check that did not verify
has RESULT FALSE. A message that is no command vector counts as bad and pulses source 194; a command that Crag does
not know or offer has status FORMAT. A tamper source takes the action of CRG_TPOL: LOG records it, INT also pulses
source 193, CLEAR also zeroises the volatile keys, and DESTROY the key store; CLEAR and DESTROY make a start of KIND
5. A device without power does DESTROY alone and records another event. The alarm ends; a failed health test stops the
TRNG until it restarts. -/
def Obligations.CragCommandsComplete : Prop :=
  ((∀ x ∈ [(Instr.random, 0x01, cmdRandom), (.hash, 0x02, cmdHash), (.gcmSeal, 0x03, cmdGcmSeal), (.sign, 0x05, cmdSign),
        (.keygen, 0x09, cmdKeygen), (.keydelete, 0x0B, cmdKeydelete), (.ctrRead, 0x0C, cmdCtrRead), (.ctrInc, 0x0D, cmdCtrInc),
        (.tpolRaise, 0x10, cmdTpolRaise)],
      ∀ s v vec s1 w s2, CragFinds s x.2.1 v vec s1 → x.2.2 v vec s1 = .ok (w, s2) →
        exec x.1 s = .next (answerVector (cragCounted s2) 6 vec (some w) 0))
    ∧ (∀ x ∈ [(Instr.gcmOpen, 0x04, cmdGcmOpen), (.verify, 0x06, cmdVerify), (.sealVector, 0x07, cmdSeal),
        (.sealCheck, 0x08, cmdSealCheck), (.keyimport, 0x0A, cmdKeyimport), (.cragAttest, 0x0E, cmdAttest),
        (.imgVerify, 0x0F, cmdImgVerify), (.debugUnlock, 0x11, cmdDebugUnlock), (.owner, 0x12, cmdOwner)],
      ∀ s v vec s1, CragFinds s x.2.1 v vec s1 → exec x.1 s = .next (match x.2.2 v vec s1 with
        | .ok (w, s2) => answerVector (cragCounted s2) 6 vec (some w) 0
        | .error (e, left) =>
          if e = 12 then answerVector (cragCounted (engineHeapFull s1 (tileHolding s1 vec))) 6 vec none 12
          else answerVector (cragCounted (leave s1 left)) 6 vec
            (if e = 2 ∧ x.2.1 ∈ [0x04, 0x06, 0x08] then some (boolWord false) else none) e))
    ∧ (∀ x ∈ [(Instr.random, 0x01, cmdRandom), (.hash, 0x02, cmdHash), (.gcmSeal, 0x03, cmdGcmSeal), (.gcmOpen, 0x04, cmdGcmOpen),
        (.sign, 0x05, cmdSign), (.verify, 0x06, cmdVerify), (.sealVector, 0x07, cmdSeal), (.sealCheck, 0x08, cmdSealCheck),
        (.keygen, 0x09, cmdKeygen), (.keyimport, 0x0A, cmdKeyimport), (.keydelete, 0x0B, cmdKeydelete),
        (.ctrRead, 0x0C, cmdCtrRead), (.ctrInc, 0x0D, cmdCtrInc), (.cragAttest, 0x0E, cmdAttest),
        (.imgVerify, 0x0F, cmdImgVerify), (.tpolRaise, 0x10, cmdTpolRaise), (.debugUnlock, 0x11, cmdDebugUnlock),
        (.owner, 0x12, cmdOwner)],
      ∀ s v vec s1 e left, CragFinds s x.2.1 v vec s1 → x.2.2 v vec s1 = .error (e, left) → e ≠ 2 → e ≠ 12 →
        exec x.1 s = .next (answerVector (cragCounted (leave s1 left)) 6 vec none e))
    ∧ (∀ x ∈ [(Instr.random, 0x01, cmdRandom), (.hash, 0x02, cmdHash), (.gcmSeal, 0x03, cmdGcmSeal), (.gcmOpen, 0x04, cmdGcmOpen),
        (.sign, 0x05, cmdSign), (.verify, 0x06, cmdVerify), (.sealVector, 0x07, cmdSeal), (.sealCheck, 0x08, cmdSealCheck),
        (.keygen, 0x09, cmdKeygen), (.keyimport, 0x0A, cmdKeyimport), (.keydelete, 0x0B, cmdKeydelete),
        (.ctrRead, 0x0C, cmdCtrRead), (.ctrInc, 0x0D, cmdCtrInc), (.cragAttest, 0x0E, cmdAttest),
        (.imgVerify, 0x0F, cmdImgVerify), (.tpolRaise, 0x10, cmdTpolRaise), (.debugUnlock, 0x11, cmdDebugUnlock),
        (.owner, 0x12, cmdOwner)],
      ∀ s m0 m s0 s1, cragUp s = true → s.flag .crgMbox 0 63 = true → hasSlot s .crag = true →
        takeMessage s (heapSpace s) 6 (s.fld .crgMbox 0 46 4 * 16) = some (m0, s0) → trvHeal s0 m0 = (m, s1) →
        commandVector s1 6 m = none →
        exec x.1 s = .next (pulse (s1.setR .crgStat 0 (satInc (s1.reg .crgStat) 47 32)) 194))
    ∧ (∀ x ∈ [(Instr.random, 0x01, cmdRandom), (.hash, 0x02, cmdHash), (.gcmSeal, 0x03, cmdGcmSeal), (.gcmOpen, 0x04, cmdGcmOpen),
        (.sign, 0x05, cmdSign), (.verify, 0x06, cmdVerify), (.sealVector, 0x07, cmdSeal), (.sealCheck, 0x08, cmdSealCheck),
        (.keygen, 0x09, cmdKeygen), (.keyimport, 0x0A, cmdKeyimport), (.keydelete, 0x0B, cmdKeydelete),
        (.ctrRead, 0x0C, cmdCtrRead), (.ctrInc, 0x0D, cmdCtrInc), (.cragAttest, 0x0E, cmdAttest),
        (.imgVerify, 0x0F, cmdImgVerify), (.tpolRaise, 0x10, cmdTpolRaise), (.debugUnlock, 0x11, cmdDebugUnlock),
        (.owner, 0x12, cmdOwner)],
      ∀ s m0 m s0 s1 vec w, cragUp s = true → s.flag .crgMbox 0 63 = true → hasSlot s .crag = true →
        takeMessage s (heapSpace s) 6 (s.fld .crgMbox 0 46 4 * 16) = some (m0, s0) → trvHeal s0 m0 = (m, s1) →
        commandVector s1 6 m = some vec → spaceWord s1 6 (heapSpace s1) (vec + 8) = some w →
        (isFix w = false ∨ offered s1 (bitsOf w 7 0) = false) →
        exec x.1 s = .next (answerVector (cragCounted s1) 6 vec none 1))
    ∧ (∀ s vec s1 p s2 s3, CragFinds s 0x0D 0 vec s1 → fixParam vec 0 64 s1 = .ok (p, s2) → unused vec 1 s2 = .ok ((), s3) → 8 ≤ p →
        floorOf s3 p < 2 ^ 55 - 1 → raisesOf s3 p < 10000000 → softwareRaises s3 < 100000000 →
        exec .ctrInc s = .next (answerVector (cragCounted (setCounter s3 p (floorOf s3 p + 1))) 6 vec (some (fixN (floorOf s3 p + 1))) 0)))
  ∧ ((∀ s (src : Fin 11) act, s.base.held = [] → act = s.fld .crgTpol 0 (2 * src.val + 1) (2 * src.val) → act = 0 →
      exec (.tamperEvent src) s = .next (logTamper s src.val act))
    ∧ (∀ s (src : Fin 11) act, s.base.held = [] → act = s.fld .crgTpol 0 (2 * src.val + 1) (2 * src.val) → act = 1 →
      exec (.tamperEvent src) s = .next (pulse (logTamper s src.val act) 193))
    ∧ (∀ s (src : Fin 11) act, s.base.held = [] → act = s.fld .crgTpol 0 (2 * src.val + 1) (2 * src.val) → act = 2 →
      exec (.tamperEvent src) s = .next (deviceStart (zeroise (pulse (logTamper s src.val act) 193)) 5))
    ∧ (∀ s (src : Fin 11) act, s.base.held = [] → act = s.fld .crgTpol 0 (2 * src.val + 1) (2 * src.val) → act = 3 →
      exec (.tamperEvent src) s = .next (deviceStart (destroySalt (zeroise (pulse (logTamper s src.val act) 193))) 5))
    ∧ (∀ s (src : Fin 11), unpowered s = true → s.base.held.contains 6 = false → src.val < 9 → tamperAction s.base.policy src.val = 3 →
      exec (.tamperEvent src) s = .next (destroySalt (zeroise s)))
    ∧ (∀ s (src : Fin 11), unpowered s = true → s.base.held.contains 6 = false → src.val < 9 → tamperAction s.base.policy src.val ≠ 3 →
      exec (.tamperEvent src) s = .next { s with base := { s.base with recorded := s.base.recorded ++ [src.val] } })
    ∧ (∀ s, exec .tamperAlarmEnd s = .next { s with board := { s.board with alarm := false } })
    ∧ (∀ s, s.online uCrag = true → exec .trngHealthFail s = .next (pulse (s.setF .crgStat 0 63 63 1) 194))
    ∧ (∀ s, exec .trngRestart s = .next (s.setF .crgStat 0 63 63 0)))

/-- A frame that passes every check joins the queue that steering gives, with its timestamp, and pulses that queue's
source; a frame with an error is counted and dropped. A port sends the oldest frame of its next queue, under its
transmit SA where the queue's frames are protected. A link change is published and raises the port's event; a mode
change takes the ports of a half down. GO of NET_SACTL installs an SA from the key registers, which it zeroes, or
removes one. CLEAR of NET_PCNTp clears the counters; STEP of NET_PHCADJ adds OFFSET to TIME. -/
def Obligations.FieldPortsComplete : Prop :=
  ((∀ s (p : Fin 8) f s1 q, portUp s p.val = true → f.fec = true → f.fcs = true → 64 ≤ f.wire → f.wire ≤ 9216 →
      isMacControl f.bytes = false → macsecReceive s p.val f = some s1 → q = steer s1 p.val f.bytes % 64 →
      ingressBytes s1 q + f.bytes.length ≤ 32768 → s1.flag .netPcfg p.val 61 = true →
      exec (.frameReceive p f) s = .next (pulse { s1 with
        ingress := Tbl.put s1.ingress q (Tbl.getD s1.ingress [] q ++ [⟨f.bytes, mkWord 6 f.stamp.toNat⟩]) } q))
    ∧ (∀ s (p : Fin 8) f s1 q, portUp s p.val = true → f.fec = true → f.fcs = true → 64 ≤ f.wire → f.wire ≤ 9216 →
      isMacControl f.bytes = false → macsecReceive s p.val f = some s1 → q = steer s1 p.val f.bytes % 64 →
      32768 < ingressBytes s1 q + f.bytes.length → exec (.frameReceive p f) s = .next (countDrop s1 p.val))
    ∧ (∀ s (p : Fin 8) f, portUp s p.val = true → f.fec = false →
      exec (.frameReceive p f) s = .next (countFcserr (countFecunc s p.val) p.val))
    ∧ (∀ s (p : Fin 8) f, portUp s p.val = true → f.fec = true → f.fcs = false →
      exec (.frameReceive p f) s = .next (countFcserr s p.val))
    ∧ (∀ s (p : Fin 8) f, portUp s p.val = true → f.fec = true → f.fcs = true → 64 ≤ f.wire → f.wire ≤ 9216 →
      isMacControl f.bytes = false → macsecReceive s p.val f = none →
      exec (.frameReceive p f) s = .next (countSecfail s p.val))
    ∧ (∀ s (p : Fin 8) q bs rest s1, portUp s p.val = true → nextQueue s p.val = some q → egressFrames s q = bs :: rest →
      s1 = { s with egress := Tbl.putD s.egress [] q rest, net := { s.net with last := Tbl.put s.net.last p.val q } } →
      isProtected s1 q p.val = false → s1.flag .netEqcfg q 63 = false →
      exec (.frameTransmit p) s = .next { s1 with net := { s1.net with sent := s1.net.sent ++ [⟨p.val, pad60 bs, none⟩] } })
    ∧ (∀ s (p : Fin 8) q bs rest s1 an a s2, portUp s p.val = true → nextQueue s p.val = some q → egressFrames s q = bs :: rest →
      s1 = { s with egress := Tbl.putD s.egress [] q rest, net := { s.net with last := Tbl.put s.net.last p.val q } } →
      isProtected s1 q p.val = true → txSa s1 p.val = some (an, a) → a.pn + 1 < 2 ^ 64 - 2 ^ 32 →
      s2 = { s1 with net := { s1.net with sas := Tbl.put s1.net.sas (saKey 1 p.val 0 an) { a with pn := a.pn + 1 } } } →
      exec (.frameTransmit p) s = .next (egressStamp (sendFrame s2 p.val bs (some a.pn)) q p.val)))
  ∧ ((∀ s (p : Fin 8), s.net.up.contains p.val = true → portConfigured (portMode s p.val) p.val = true →
      exec (.fieldLinkChange p false) s = .next (portEvent (settlePorts s { s with net := { s.net with up := eraseNat s.net.up p.val } }) p.val))
    ∧ (∀ s (p : Fin 8), s.net.up.contains p.val = false → portConfigured (portMode s p.val) p.val = true → portEnabled s p.val = true →
      s.board.outside.contains 1 = false → 4 ≤ bootState s → bootState s ≠ 8 →
      exec (.fieldLinkChange p true) s = .next (portEvent (settlePorts s { s with net := { s.net with up := insertNat s.net.up p.val } }) p.val))
    ∧ (∀ s w s1 d po an sc, acts w 63 = true → removes s w = false → mayReach s w.agent .netSactl 0 = true →
      s1 = storeSetup s .netSactl 0 w → s1.fld .netSactl 0 62 62 = d → s1.fld .netSactl 0 61 59 = po →
      s1.fld .netSactl 0 58 55 = sc → s1.fld .netSactl 0 54 53 = an → s1.fld .netSactl 0 52 52 = 0 →
      exec (.saInstall w) s = .next { s1 with net := { s1.net with
        sas := Tbl.put s1.net.sas (saKey d po sc an)
          ⟨(List.range 8).map (fun i => Tbl.getD s1.net.sakey 0 i), (Tbl.getD s1.net.sakey 0 7).toNat⟩
        sakey := [] } })
    ∧ (∀ s w s1 d po an sc, acts w 63 = true → removes s w = true → mayReach s w.agent .netSactl 0 = true →
      s1 = storeSetup s .netSactl 0 w → s1.fld .netSactl 0 62 62 = d → s1.fld .netSactl 0 61 59 = po →
      s1.fld .netSactl 0 58 55 = sc → s1.fld .netSactl 0 54 53 = an → s1.fld .netSactl 0 52 52 = 1 →
      exec (.saRemove w) s = .next { s1 with net := { s1.net with sas := Tbl.del s1.net.sas (saKey d po sc an) } })
    ∧ (∀ s (p : Fin 8) w, acts w 63 = true → mayReach s w.agent .netPcnt p.val = true →
      exec (.pcntClear p w) s = .next (s.setR .netPcnt p.val 0))
    ∧ (∀ s w s1, acts w 63 = true → mayReach s w.agent .netPhcadj 0 = true → s1 = storeSetup s .netPhcadj 0 w →
      exec (.phcStep w) s = .next (s1.setR .netPhc 0
        (BitVec.ofInt 64 ((s1.reg .netPhc).toNat + signed 31 (s1.fld .netPhcadj 0 62 32)))))
    ∧ (∀ s w s1, mayReach s w.agent .netCfg 0 = true → modeOk (bitsOf (written s .netCfg 0 w) 3 0) = true →
      modeOk (bitsOf (written s .netCfg 0 w) 7 4) = true → s1 = storeSetup s .netCfg 0 w → s.net.up = [] →
      (∀ p, p < 8 → s.unit (uPort p) ≠ stOnline) → exec (.modeChange w) s = .next (settlePorts s s1))
    ∧ (∀ s w s1, mayReach s w.agent .netCfg 0 = true → modeOk (bitsOf (written s .netCfg 0 w) 3 0) = false →
      modeOk (bitsOf (written s .netCfg 0 w) 7 4) = false → s1 = storeSetup s .netCfg 0 w (fun old new => keepField false 7 4 old (keepField false 3 0 old new)) → s.net.up = [] →
      (∀ p, p < 8 → s.unit (uPort p) ≠ stOnline) → exec (.modeChange w) s = .next (settlePorts s s1)))

/-- A remote request found in RDG_MBOX takes an identity, is remembered as the device's own, and leaves through the port
of its route in the order of the port's numbers. A frame in order is accepted and its acknowledgement releases what
was held; one out of order, or that fails FEC or GCM, is dropped and asks for a resend, and the sixteenth failure of
GCM takes the link down as tamper source 10. A frame waits two microseconds and is sent again. A waiting message goes
on by its route; a peer's request is served and its reply goes back. Key agreement brings a port up with the peer's
number in RDG_STAT and volatile keys, or fails as tamper source 10; a port that no verified roster configures stays as
it is. A new session key loses no frame. A recalibration leaves one lane until it ends. Range-wide messages go up to
the root and down to every device; an advance of the Range is refused where a device refuses; RESET makes a start of
KIND 6 and CANCEL releases the participants of Range barriers. -/
def Obligations.RangeTrafficCompletes : Prop :=
  (∀ x ∈ [(Instr.readW, 1), (.writeW, 2), (.casW, 3), (.faddW, 4), (.readB, 5), (.writeB, 6), (.post, 7)],
      ∀ s vec dst m p s2 id, RidgeFinds s x.2 vec dst m p s2 → id = s2.ridge.nextId % (2 ^ 32 - 1) + 1 →
        exec x.1 s = .next (sendVia { s2 with ridge := { s2.ridge with
          nextId := id, own := s2.ridge.own ++ [⟨id, dst, vec, x.2⟩] } } p ⟨dst, rangeSelf s, id, m, false⟩))
  ∧ ((∀ s (p : Fin 4) (f : RidgeRx) k, s.rport p.val = k → ridgeUp s p.val = true → f.fec = true → f.gcm = true → f.msg ≠ .linkOnly →
      f.seq.toNat = k.rx → f.nack = false →
      exec (.ridgeFrameReceive p f) s = .next (acceptFrame (s.setRport p.val { k with
        rx := (k.rx + 1) % 65536, badRow := 0, nack := false, unacked := releaseAcked k.unacked f.ack.toNat }) p.val
        ⟨f.dst.toNat, f.src.toNat, f.reqid.toNat, f.msg, f.poison⟩))
    ∧ (∀ s (p : Fin 4) (f : RidgeRx) k, s.rport p.val = k → ridgeUp s p.val = true → f.fec = true → f.gcm = true → f.msg ≠ .linkOnly →
      f.seq.toNat ≠ k.rx → exec (.ridgeFrameReceive p f) s = .next (s.setRport p.val { k with nack := true, badRow := 0 }))
    ∧ (∀ s (p : Fin 4) (f : RidgeRx) k, s.rport p.val = k → ridgeUp s p.val = true → f.fec = false →
      exec (.ridgeFrameReceive p f) s = .next (s.setRport p.val { k with nack := true }))
    ∧ (∀ s (p : Fin 4) (f : RidgeRx) k s1, s.rport p.val = k → ridgeUp s p.val = true → f.fec = true → f.gcm = false → k.badRow < 15 →
      s1 = s.setRport p.val { k with nack := true, badRow := k.badRow + 1 } →
      exec (.ridgeFrameReceive p f) s = .next (pulse (s1.setR .rdgStat p.val (satInc (s1.reg .rdgStat p.val) 31 16)) (252 + p.val)))
    ∧ (∀ s (p : Fin 4) (f : RidgeRx) k s1, s.rport p.val = k → ridgeUp s p.val = true → f.fec = true → f.gcm = false → k.badRow = 15 →
      s1 = s.setRport p.val { k with nack := true, badRow := 16 } →
      exec (.ridgeFrameReceive p f) s = .next (tamper (linkLost
        (pulse (s1.setR .rdgStat p.val (satInc (s1.reg .rdgStat p.val) 31 16)) (252 + p.val)) p.val) 10))
    ∧ (∀ s (p : Fin 4) k, s.rport p.val = k → ridgeUp s p.val = true → k.unacked ≠ [] → (∀ u ∈ k.unacked, u.resent < 63) →
      exec (.ridgeResendTimeout p) s = .next ((s.setRport p.val { k with
        unacked := k.unacked.map (fun u => { u with resent := u.resent + 1 }) }).setR .rdgStat p.val
        (k.unacked.foldl (fun w _ => satInc w 47 32) (s.reg .rdgStat p.val))))
    ∧ (∀ s ingress f rest p, s.ridge.forward = (ingress, f) :: rest → routeTo s f.dst ingress = some p → portRoom s p = true →
      exec .ridgeForward s = .next (sendVia { s with ridge := { s.ridge with forward := rest } } p f))
    ∧ (∀ s (p : Fin 4) f rest v bs s1, Tbl.getD s.ridge.inbox [] p.val = f :: rest → Tbl.get? s.ridge.posting p.val = none →
      replyRoom s f = true → s.base.held = [] → hasSlot s (.ridge p) = true → serve s f.poison f.msg = .done v bs s1 →
      exec (.peerRequestServe p) s = .next (replyTo s1 p.val f 0 v bs))
    ∧ (∀ s (p : Fin 4) f rest e s1, Tbl.getD s.ridge.inbox [] p.val = f :: rest → Tbl.get? s.ridge.posting p.val = none →
      replyRoom s f = true → s.base.held = [] → hasSlot s (.ridge p) = true → serve s f.poison f.msg = .failed e s1 →
      exec (.peerRequestServe p) s = .next (replyTo s1 p.val f e (fixN 0) [])))
  ∧ ((∀ s (p : Fin 4) peer, s.unit (uRidge p.val) = stOffline → ridgeUp s p.val = false → cragUp s = true →
      s.flag .crgStat 0 63 = false → exec (.keyAgreement p peer .pass) s = .next (
        if ridgeConfigured s (rosterOf s) p.val = true then match rosterIndex s peer with
          | some r => ridgeChanged { (s.setRport p.val { RidgePort.empty with session := (s.rport p.val).session + 1 }).setR .rdgStat p.val
              (BitVec.ofNat 64 (2 * 2 ^ 62 + 2 * 2 ^ 60 + r)) with crag := { s.crag with
                volatileKeys := insertNat (insertNat s.crag.volatileKeys (0x38 + 2 * p.val)) (0x39 + 2 * p.val) } } p.val stOnline
          | none => tamper (if rdgState s p.val = 1 then pulse (s.setF .rdgStat p.val 63 62 0) (248 + p.val) else s) 10
        else s))
    ∧ (∀ s (p : Fin 4) peer, s.unit (uRidge p.val) = stOffline → rdgState s p.val = 1 → cragUp s = true →
      exec (.keyAgreement p peer .fail) s = .next (
        if ridgeConfigured s (rosterOf s) p.val = true then tamper (pulse (s.setF .rdgStat p.val 63 62 0) (248 + p.val)) 10 else s))
    ∧ (∀ s (p : Fin 4) k, s.rport p.val = k → ridgeUp s p.val = true →
      exec (.rekey p) s = .next (s.setRport p.val { k with session := k.session + 1, frames := 0 }))
    ∧ (∀ s (p : Fin 4) (lane : Fin 2) s1, rdgState s p.val = 2 →
      s1 = (s.setRport p.val { s.rport p.val with lane := some lane.val }).setF .rdgStat p.val 63 60 0xD →
      exec (.laneRecalibrationStart p lane) s = .next (ridgeChanged s1 p.val (s1.unit (uRidge p.val))))
    ∧ (∀ s (p : Fin 4) s1, rdgState s p.val = 3 →
      s1 = (s.setRport p.val { s.rport p.val with lane := none }).setF .rdgStat p.val 63 60 0xA →
      exec (.recalibrationEnd p) s = .next (ridgeChanged s1 p.val (s1.unit (uRidge p.val))))
    ∧ (∀ s kind bytes s1, rangeSelf s ≠ 0 → s1 = sendRange s kind bytes (treeParent (rangeX s) (rangeY s) (rangeSelf s)) →
      exec (.broadcast false kind bytes) s = .next s1)
    ∧ (∀ s kind bytes s1, s1 = (treeChildren s).foldl (fun x r => sendRange x kind bytes r) s →
      exec (.broadcast true kind bytes) s = .next { s1 with ridge := { s1.ridge with heard := some (kind, bytes) } })
    ∧ (∀ s (k : Fin 8) c s1, 1 < rangeSize s → s.ridge.own = [] → s.crestOp = some (.range k.val) → advanceInto s k.val = (c, s1) →
      exec (.rangeAdvance k 0) s = .next (setCrestCode (({ s1 with crestOp := none } : State).setF .cfgCrest 0 60 60 0) c))
    ∧ (∀ s (k : Fin 8) (o : Byte), 1 < rangeSize s → s.ridge.own = [] → s.crestOp = some (.range k.val) → o ≠ 0 →
      exec (.rangeAdvance k o) s = .next (setCrestCode (({ s with crestOp := none } : State).setF .cfgCrest 0 60 60 0) o.toNat))
    ∧ (∀ s w, acts w 63 = true → acts w 62 = false → mayReach s w.agent .rdgRange 0 = true →
      exec (.rangeReset w) s = .next (deviceStart (storeSetup s .rdgRange 0 w) 6))
    ∧ (∀ s w, acts w 62 = true → acts w 63 = false → mayReach s w.agent .rdgRange 0 = true →
      exec (.cancel w) s = .next (cancelRange (storeSetup s .rdgRange 0 w))))

/-- Each stage of a start that passes goes on to the next state; one that fails records its reason and its slot, and
raises FAILS to at most 3. Crag comes from the slot that CRAGPREF names, else from the other, and after three failures
from its ROM where neither verifies. Nothing holds the device and the attempt has not failed. After three failures
Saddle mode begins with Crag up. OPER in RUNUP makes the device Operational, clears FAILS and raises HEALTH_OK; FAIL
ends the attempt with the written reason. CFG_START and SAD_CTL make a start with the key in the same write. -/
def Obligations.StartsAdvance : Prop :=
  ((∀ s, inStage s 0 = true → exec (.bootHoldEnd .pass) s = .next (s.setF .basBoot 0 63 60 1))
    ∧ (∀ s, inStage s 0 = true → exec (.bootHoldEnd .fail) s = .next (stageFailure s 0xB))
    ∧ (∀ s i, inStage s 1 = true → i = s.fld .basBootsel 0 1 1 → failCount s ≠ 3 → exec .cragStageEnd s = .next (
        if cragImageFault s (cragSlotImage s i) = none then (runCrag s i false).setF .basBoot 0 63 60 2
        else if cragImageFault s (cragSlotImage s (1 - i)) = none then (runCrag s (1 - i) false).setF .basBoot 0 63 60 2
        else stageFailure s 2))
    ∧ (∀ s i, inStage s 1 = true → i = s.fld .basBootsel 0 1 1 → failCount s = 3 → exec .cragStageEnd s = .next (
        if cragImageFault s (cragSlotImage s i) = none then runCrag s i false
        else if cragImageFault s (cragSlotImage s (1 - i)) = none then runCrag s (1 - i) false
        else runCrag s 0 true))
    ∧ (∀ s i img s1, inStage s 2 = true → i = bootSlot s → img = bootSlotImage s i → s1 = s.setF .basBoot 0 53 53 i →
      exec .imageStageEnd s = .next (match bootImageFault s img with
        | none => State.setF { s1 with massif := { s1.massif with bootVersion := le img 0x14 4 } } .basBoot 0 63 60 3
        | some .target => stageFailure s 5
        | some .floor => stageFailure s 4
        | some _ => stageFailure s 3))
    ∧ (∀ s img (u : BitVec 4) q, inStage s 3 = true → img = startedImage s → configInvalid img = false → q < 4 → configQuad img q = true →
      populated (configChannel img q) ≠ 0 → u.getLsbD q = false →
      exec (.configStageEnd .pass u) s = .next (((List.range 4).foldl (bringChannel img u) (applyConfig s img)).setF .basBoot 0 63 60 4))
    ∧ (∀ s img v u, inStage s 3 = true → img = startedImage s → configInvalid img = true →
      exec (.configStageEnd v u) s = .next (stageFailure s 6))
    ∧ (∀ s img s1, inStage s 4 = true → img = startedImage s →
      s1 = (List.range 16).foldl (fun (x : State) t =>
        if configQuad img (t / 4) = true ∧ x.unit (uTile t) ≠ stRetired then x.setUnit (uTile t) stOnline else x) s →
      (configQuad img 0 = true → s1.unit (uTile 0) ≠ stOffline) →
      exec (.selftestStageEnd []) s = .next (s1.setF .basBoot 0 63 60 5))
    ∧ (∀ s img sections places s1, inStage s 5 = true → img = startedImage s → sectionsOf img = (sections, false) →
      placeSections sections (Config.loadPlace % 65536 * 16) s = some (places, s1) → patchBytes img = 0 →
      exec (.loadStageEnd []) s = .next (endBuild (((List.finRange 32).foldl (loadTroika img places []) s1).setF .basBoot 0 63 60 6)))
    ∧ (∀ s (u : List TroikaId) img sections, inStage s 5 = true → img = startedImage s → sectionsOf img = (sections, true) →
      exec (.loadStageEnd u) s = .next (stageFailure s 0xE))
    ∧ (∀ s, (inStage s 1 = true ∨ inStage s 2 = true ∨ inStage s 3 = true ∨ inStage s 5 = true) →
      exec .flashReadTimeout s = .next (stageFailure s 7))
    ∧ (∀ s, starting s = true → exec .bootWatchdogExpiry s = .next (deviceStart (stageFailure s 1) 7))
    ∧ (∀ s, s.base.failed = true → s.base.held = [] → exec .failedStartRestart s = .next (deviceStart s 8)))
  ∧ ((∀ s s1 s2 s3 s4 s5, inStage s 1 = true → failCount s = 3 → s.online uCrag = true →
      s1 = { s.setR .sadReason 0 (saddleReason s.base.failures) with
        compact := true
        massif := { s.massif with saddle := true }
        sizes := Tbl.putD s.sizes 16384 (uTile 0) 1024 } →
      s2 = ((s1.setR .trkMode 0 1).setF .trkCtl 0 16 16 1).setR .netCfg 0 0xFF →
      s3 = [uTile 0, uTroika 0, uCore 0, uCore 1, uCore 2, uHre].foldl (fun x u => bringUp x u stOnline) s2 →
      s4 = (members 0).foldl recoverCore (s3.setF .trkStat 0 62 60 0) →
      s5 = ((s4.setF .cfgQclk 1 36 32 0).setF .cfgQclk 2 36 32 0).setF .cfgQclk 3 36 32 0 →
      exec .saddleEntry s = .next (endBuild (s5.setF .basBoot 0 63 60 8)))
    ∧ (∀ s w s1 s2 s3, acts w 63 = true → mayReach s w.agent .cfgOper 0 = true →
      s1 = storeSetup s .cfgOper 0 w (fun old new => keepField (0x80 ≤ bitsOf new 7 0) 7 0 old new) → inStage s1 6 = true →
      s2 = (clearFails s1).setF .basBootsel 0 0 0 (s1.fld .basBoot 0 53 53) →
      s3 = (publish { s2 with massif := { s2.massif with oper := true } } 0 0 6).setF .basBoot 0 63 60 7 →
      exec (.declareOperational w) s = .next { s3 with board := { s3.board with healthOk := true } })
    ∧ (∀ s w s1, acts w 62 = true → acts w 63 = false → mayReach s w.agent .cfgOper 0 = true →
      s1 = storeSetup s .cfgOper 0 w (fun old new => keepField (0x80 ≤ bitsOf new 7 0) 7 0 old new) → inStage s1 6 = true →
      exec (.declareFail w) s = .next (stageFailure s1 (s1.fld .cfgOper 0 7 0)))
    ∧ (∀ s w, keyed w = true → mayReach s w.agent .cfgStart 0 = true → exec (.cfgStart w) s = .next (deviceStart s 4))
    ∧ (∀ s w, keyed w = true → mayReach s w.agent .sadCtl 0 = true → inSaddle s = true → exec (.sadCtlGo w) s = .next (deviceStart s 9)))

/-- A request in CFG_UNITCTL is refused at once with its CODE or begins and is BUSY until its end; a request while another
is under way sets ERR alone. The end of a unit's operation clears BUSY and gives its CODE: a drained tile goes
offline, a tile comes back with every granule zero, a self-test repairs rows or finds too few spares, a core retires
with its partners, Crag's other slot runs or the old one stays, a tile retires. -/
def Obligations.UnitOperationsComplete : Prop :=
  ((∀ s w unit s0, UnitAsked s w 1 unit s0 → unit < 16 → (storeSetup s .cfgUnitctl 0 w).unit (uTile unit) = stOnline →
      evacuatingTile s0 unit = false → tileInUse s0 unit = false →
      exec (.tileOffline w) s = .next ((publishTile s0 unit stDraining).setF .cfgUnitstat 0 63 63 1))
    ∧ (∀ s w unit s0, UnitAsked s w 1 unit s0 → unit < 16 → (storeSetup s .cfgUnitctl 0 w).unit (uTile unit) = stOnline →
      evacuatingTile s0 unit = false → tileInUse s0 unit = true → exec (.tileOffline w) s = .next (unitEnd s0 4))
    ∧ (∀ x ∈ [(Instr.tileOnline, 2), (.tileSelfTest, 3), (.retireTile, 9)], ∀ s w unit s0,
      UnitAsked s w x.2 unit s0 → unit < 16 → (storeSetup s .cfgUnitctl 0 w).unit (uTile unit) = stOffline →
      exec (x.1 w) s = .next (s0.setF .cfgUnitstat 0 63 63 1))
    ∧ (∀ x ∈ [(Instr.tileOffline, 1), (.tileOnline, 2), (.tileSelfTest, 3), (.retireTile, 9)], ∀ s w unit s0,
      UnitAsked s w x.2 unit s0 → 16 ≤ unit → exec (x.1 w) s = .next (unitEnd s0 0xB))
    ∧ (∀ s w s0 (c : CoreId), UnitAsked s w 4 c.val s0 → mayRetire s0 c = true →
      exec (.retireCore w) s = .next (s0.setF .cfgUnitstat 0 63 63 1))
    ∧ (∀ s w s0 (c : CoreId), UnitAsked s w 4 c.val s0 → mayRetire s0 c = false → exec (.retireCore w) s = .next (unitEnd s0 8))
    ∧ (∀ s w unit s0, UnitAsked s w 5 unit s0 → exec (.cragSwitch w) s = .next (s0.setF .cfgUnitstat 0 63 63 1))
    ∧ (∀ s w unit s0, UnitAsked s w 6 unit s0 → unit < 8 → rdgState s0 (unit / 2) = 2 →
      exec (.ridgeLaneRecalibration w true) s = .next (unitEnd (startRecalibration s0 (unit / 2) (unit % 2)) 1))
    ∧ (∀ s w unit s0, UnitAsked s w 6 unit s0 → unit < 8 → exec (.ridgeLaneRecalibration w false) s = .next (unitEnd s0 0xA))
    ∧ (∀ s w unit s0, UnitAsked s w 7 unit s0 → exec (.voterSelfTestRequest w) s = .next (unitEnd s0 7))
    ∧ (∀ x ∈ [(Instr.tileOffline, 1), (.tileOnline, 2), (.tileSelfTest, 3), (.retireCore, 4), (.cragSwitch, 5),
        (.voterSelfTestRequest, 7), (.retireTile, 9)], ∀ s w,
      acts w 63 = true → mayReach s w.agent .cfgUnitctl 0 = true → unitBusy s = true → bitsOf (written s .cfgUnitctl 0 w) 55 48 = x.2 →
      exec (x.1 w) s = .next ((storeSetup s .cfgUnitctl 0 w).setF .cfgUnitstat 0 62 62 1)))
  ∧ ((∀ s t fs v, unitBusy s = true → s.fld .cfgUnitstat 0 55 48 = 1 → s.fld .cfgUnitstat 0 47 40 = t → s.unit (uTile t) = stDraining →
      (∀ f ∈ s.flights, tileOfPa f.pa ≠ some t) →
      exec (.unitOperationEnd fs v) s = .next (unitEnd (publishTile { s with l2tlb := Tbl.del s.l2tlb t } t stOffline) 1))
    ∧ (∀ s t fs v, unitBusy s = true → s.fld .cfgUnitstat 0 55 48 = 2 → s.fld .cfgUnitstat 0 47 40 = t →
      exec (.unitOperationEnd fs v) s = .next (unitEnd (publishTile { s with
        mem := s.mem.filter (fun e => e.1 / 0x1000000 != t), poison := s.poison.filter (fun g => g / 0x100000 != t) } t stOnline) 1))
    ∧ (∀ s t v, unitBusy s = true → s.fld .cfgUnitstat 0 55 48 = 3 → s.fld .cfgUnitstat 0 47 40 = t →
      exec (.unitOperationEnd [] v) s = .next (unitEnd s 1))
    ∧ (∀ s t (fs : List (Fin 16384)) v, unitBusy s = true → s.fld .cfgUnitstat 0 55 48 = 3 → s.fld .cfgUnitstat 0 47 40 = t →
      repairRows s t (fs.map (·.val)) = none → exec (.unitOperationEnd fs v) s = .next (unitEnd s 6))
    ∧ (∀ s (c : CoreId) fs v, unitBusy s = true → s.fld .cfgUnitstat 0 55 48 = 4 → s.fld .cfgUnitstat 0 47 40 = c.val →
      exec (.unitOperationEnd fs v) s = .next (unitEnd (retireCores s c) 1))
    ∧ (∀ s i fs, unitBusy s = true → s.fld .cfgUnitstat 0 55 48 = 5 → rangeAdvancing s = false → i = 1 - s.fld .basBoot 0 52 52 →
      exec (.unitOperationEnd fs .pass) s = .next (
        if cragImageFault s (cragSlotImage s i) = none ∧ Config.cragComesUp (le (cragSlotImage s i) 0x14 4) = true
        then unitEnd (publish ((runCrag s i false).setF .basBootsel 0 1 1 i) 9 0 4) 1
        else unitEnd s 9))
    ∧ (∀ s fs, unitBusy s = true → s.fld .cfgUnitstat 0 55 48 = 5 → rangeAdvancing s = false →
      exec (.unitOperationEnd fs .fail) s = .next (unitEnd s 9))
    ∧ (∀ s t fs v, unitBusy s = true → s.fld .cfgUnitstat 0 55 48 = 9 → s.fld .cfgUnitstat 0 47 40 = t →
      exec (.unitOperationEnd fs v) s = .next (unitEnd (publishTile s t stRetired) 1)))

/-- A write of the device region reaches the register at its offset, and an offset with none ignores it; so does one that
names an entry of the dispatch table. -/
def Obligations.RegisterWritesComplete : Prop :=
  (∀ s off n i w, regAt off = some (n, i) → mayReach s w.agent n i = true →
    exec (.registerWrite off w) s = .next (writeReg s n i w))
  ∧ (∀ s off n i w, regAt off = some (n, i) → mayReach s w.agent n i = false → exec (.registerWrite off w) s = .next s)
  ∧ (∀ s off w, regAt off = none → exec (.registerWrite off w) s = .next s)
  ∧ (∀ s (i : Fin 4096) w, mayReach s w.agent .cfgGdt i.val = true →
    exec (.gdtWrite i w) s = .next (writeGdt s i.val w))

/-- VIN_AON makes a start of KIND 0 and the core rails one of KIND 1; RESET_L and PERST_L hold the device in reset and
make starts of KIND 2 and 3 when they rise. Without VIN_AON none does. -/
def Obligations.PinsMakeStarts : Prop :=
  (∀ s, s.base.held.contains 6 = true → exec .vinAonUp s = .next (deviceStart (unhold s 6) 0))
  ∧ (∀ s s1, s.base.held.contains 6 = false → s1 = unhold (unhold s 5) 2 →
    exec (.coreRailsUp false) s = .next (deviceStart { s1 with board := { s1.board with railsOut := [] } } 1))
  ∧ (∀ s s1, s.base.held.contains 6 = false → s1 = (unhold (unhold s 5) 2).setF .basRail 0 61 61 1 →
    exec (.coreRailsUp true) s = .next (deviceStart { s1 with board := { s1.board with railsOut := [] } } 1))
  ∧ (∀ s, s.base.held.contains 0 = false → exec .resetLAssert s = .next (hold (resetDevice s) 0))
  ∧ (∀ s, s.base.held.contains 0 = true → (unhold s 0).base.held.contains 6 = false →
    exec .resetLRelease s = .next (deviceStart (unhold s 0) 2))
  ∧ (∀ s, s.base.held.contains 1 = false → inSaddle s = false → exec .perstLAssert s = .next (hold (resetDevice s) 1))
  ∧ (∀ s, s.base.held.contains 1 = false → inSaddle s = true →
    exec .perstLAssert s = .next { resetFunction s with pcie := { (resetFunction s).pcie with link := false } })
  ∧ (∀ s, s.base.held.contains 1 = true → (unhold s 1).base.held.contains 6 = false →
    exec .perstLRelease s = .next (deviceStart (unhold s 1) 3))

/-- BAS_RAIL records the first excursion and counts each. A core rail out of range throttles its quadrant to 400 MHz;
another rail that stays out stops the device until every rail is back, which makes a start of KIND 1. VIN_AON below
2.4 V resets the Base domain. A lost reference stops the device, or the links that it clocks. -/
def Obligations.SuppliesComplete : Prop :=
  (∀ s s1, s.base.held.contains 6 = false → s1 = pulse (recordRail s 0xB false) 240 → starting s1 = false →
    exec (.vinAonLow false) s = .next s1)
  ∧ (∀ s s1, s.base.held.contains 6 = false → s1 = pulse (recordRail s 0xB false) 240 → starting s1 = true →
    exec (.vinAonLow false) s = .next (stageFailure s1 0xC))
  ∧ (∀ s s1, s.base.held.contains 6 = false → s1 = hold (resetBase (resetDevice s)) 6 →
    exec (.vinAonLow true) s = .next { s1 with board := { State.reset.board with railsOut := s.board.railsOut, outside := s.board.outside } })
  ∧ (∀ s (rail : Fin 12) high s0 s1, s.base.held = [] →
    s0 = { s with board := { s.board with railsOut := insertNat s.board.railsOut rail.val } } →
    s1 = pulse (recordRail s0 rail.val high) 241 → starting s1 = false → 4 ≤ rail.val →
    exec (.railExcursion rail high []) s = .next s1)
  ∧ (∀ s (rail : Fin 12) high s0 s1, s.base.held = [] →
    s0 = { s with board := { s.board with railsOut := insertNat s.board.railsOut rail.val } } →
    s1 = pulse (recordRail s0 rail.val high) 241 → starting s1 = false → rail.val < 4 →
    exec (.railExcursion rail high []) s = .next ((s1.setF .cfgQclk rail.val 43 43 1).setF .cfgQclk rail.val 27 16 400))
  ∧ (∀ s (rail : Fin 12), 4 ≤ rail.val → rail.val < 11 → s.board.railsOut.contains rail.val = true → s.base.held.contains 6 = false →
    exec (.railStop rail) s = .next (hold (resetDevice s) 2))
  ∧ (∀ s s1, (s.base.held.contains 2 = true ∨ s.base.held.contains 3 = true) → s1 = unhold (unhold s 2) 3 →
    s1.base.held.contains 6 = false →
    exec .railsRecovered s = .next (deviceStart { s1 with board := { s1.board with railsOut := [] } } 1))
  ∧ (∀ s (q : QuadId), exec (.railReturn q true) s = .next (s.setF .cfgQclk q.val 42 42 0))
  ∧ (∀ s (q : QuadId), exec (.railReturn q false) s = .next
    (State.setF { s with board := { s.board with railsOut := eraseNat s.board.railsOut q.val } } .cfgQclk q.val 43 43 0))
  ∧ (∀ s s1, s.board.outside.contains 0 = false → s.base.held.contains 6 = false →
    s1 = pulse { s with board := { s.board with outside := insertNat s.board.outside 0 } } 245 →
    exec (.clockFault 0) s = .next (hold (resetDevice s1) 4))
  ∧ (∀ s s1, s.board.outside.contains 1 = false → s.base.held.contains 6 = false →
    s1 = pulse { s with board := { s.board with outside := insertNat s.board.outside 1 } } 245 →
    exec (.clockFault 1) s = .next (fieldReferenceLost s1))
  ∧ (∀ s s1, s.board.outside.contains 2 = false → s.base.held.contains 6 = false →
    s1 = pulse { s with board := { s.board with outside := insertNat s.board.outside 2 } } 245 →
    exec (.clockFault 2) s = .next { s1 with pcie := { s1.pcie with link := false, l1 := false } })
  ∧ (∀ s s1, s.base.held.contains 4 = true → s1 = unhold { s with board := { s.board with outside := eraseNat s.board.outside 0 } } 4 →
    s1.base.held.contains 6 = false → exec (.clockReturn 0) s = .next (deviceStart s1 1))
  ∧ (∀ s (r : Fin 3), r ≠ 0 → exec (.clockReturn r) s = .next { s with board := { s.board with outside := eraseNat s.board.outside r.val } })

/-- REQ takes a value of 400 to 2,000 and keeps its own otherwise; the voltage rises before the clock and falls after it.
A clock step is at most 100 MHz toward the target and waits for the voltage and the throttles. The delay monitor
raises the guardband by a step, or lowers FMAX by 25 MHz where it cannot. -/
def Obligations.ClocksComplete : Prop :=
  (∀ s (q : QuadId) w s1, mayReach s w.agent .cfgQclk q.val = true → 400 ≤ bitsOf (written s .cfgQclk q.val w) 11 0 →
    bitsOf (written s .cfgQclk q.val w) 11 0 ≤ 2000 → s1 = storeSetup s .cfgQclk q.val w → fmaxReq s1 q.val ≤ clockOf s1 q.val →
    exec (.qclkRequest q w) s = .next s1)
  ∧ (∀ s (q : QuadId) w s1, mayReach s w.agent .cfgQclk q.val = true → 400 ≤ bitsOf (written s .cfgQclk q.val w) 11 0 →
    bitsOf (written s .cfgQclk q.val w) 11 0 ≤ 2000 → s1 = storeSetup s .cfgQclk q.val w → clockOf s1 q.val < fmaxReq s1 q.val →
    voltage s1 q.val < voltageCode (fmaxReq s1 q.val) (gbOf s1 q.val) →
    exec (.qclkRequest q w) s = .next { s1.setF .cfgQclk q.val 36 32 (voltageCode (fmaxReq s1 q.val) (gbOf s1 q.val)) with
      board := { s1.board with settling := insertNat s1.board.settling q.val } })
  ∧ (∀ s (q : QuadId), clockOf s q.val < fmaxReq s q.val → s.fld .cfgQclk q.val 43 40 = 0 → s.board.settling.contains q.val = false →
    voltageCode (fmaxReq s q.val) (gbOf s q.val) ≤ voltage s q.val →
    exec (.clockStep q) s = .next (s.setF .cfgQclk q.val 27 16 (min (fmaxReq s q.val) (clockOf s q.val + 100))))
  ∧ (∀ s (q : QuadId), fmaxReq s q.val + 100 < clockOf s q.val →
    exec (.clockStep q) s = .next (s.setF .cfgQclk q.val 27 16 (clockOf s q.val - 100)))
  ∧ (∀ s (q : QuadId), fmaxReq s q.val < clockOf s q.val → clockOf s q.val ≤ fmaxReq s q.val + 100 →
    exec (.clockStep q) s = .next ((s.setF .cfgQclk q.val 27 16 (fmaxReq s q.val)).setF .cfgQclk q.val 36 32
      (voltageCode (fmaxReq s q.val) (gbOf s q.val))))
  ∧ (∀ s (q : QuadId), exec (.voltageSettle q) s = .next { s with board := { s.board with settling := eraseNat s.board.settling q.val } })
  ∧ (∀ s (q : QuadId) gb s1, s.base.held = [] → gb = gbOf s q.val → gb ≠ 6 → voltage s q.val ≠ 25 →
    s1 = State.setF { s with crag := { s.crag with gb := Tbl.put s.crag.gb q.val (gb + 1) } } .cfgQclk q.val 51 48 (gb + 1) →
    exec (.delayMonitorCheck q true) s = .next (pulse (s1.setF .cfgQclk q.val 36 32
      (max (voltage s q.val) (voltageCode (clockOf s q.val) (gb + 1)))) 246))
  ∧ (∀ s (q : QuadId), s.base.held = [] → (gbOf s q.val = 6 ∨ voltage s q.val = 25) →
    exec (.delayMonitorCheck q true) s = .next (pulse (publish { s with
      crag := { s.crag with fmax := Tbl.put s.crag.fmax q.val (fmaxOf s q.val - 25) } } 1 q.val 1) 246))

/-- A sample of the 64 sensors shows each quadrant's hottest, throttles and releases by it, and steps the clocks of
throttled quadrants down; a reading outside -70 to 150 degrees is tamper source 4 besides. A quadrant at or above 135
degrees at 400 MHz stops the device. The I3C target takes two bytes as its register offset, answers a read with that
register, counts a time-out in I3CTO and takes an address. JTAG boundary instructions act only while RESET_L is low
with every rail in range, and act as BYPASS otherwise. -/
def Obligations.TemperaturesAndTargetsComplete : Prop :=
  ((∀ s (rs : List Int), rs.length = 64 → s.base.held = [] → (∀ r ∈ rs, -70 ≤ r ∧ r ≤ 150) →
      exec (.thermalSample rs) s = .next ([0, 1, 2, 3].foldl stepDown ([0, 1, 2, 3].foldl throttleNeighbour
        ([0, 1, 2, 3].foldl throttleHot ([0, 1, 2, 3].foldl (readSensors rs) s)))))
    ∧ (∀ s (rs : List Int) r, rs.length = 64 → s.base.held = [] → r ∈ rs → (r < -70 ∨ 150 < r) →
      exec (.thermalSample rs) s = .next (tamper ([0, 1, 2, 3].foldl stepDown ([0, 1, 2, 3].foldl throttleNeighbour
        ([0, 1, 2, 3].foldl throttleHot ([0, 1, 2, 3].foldl (readSensors rs) s)))) 4))
    ∧ (∀ s (q : QuadId) s1, 135 ≤ hotOf s q.val → clockOf s q.val = 400 → s.base.held.contains 6 = false → s1 = recordRail s 0xF true →
      exec (.thermalStop q) s = .next (hold (resetDevice { s1 with base := { s1.base with thermal := true } }) 3)))
  ∧ ((∀ s (lo hi : Byte) rest, i3cAnswers s = true → exec (.i3cWrite (lo :: hi :: rest)) s =
      .next { s with board := { s.board with i3cOffset := lo.toNat + 256 * hi.toNat } })
    ∧ (∀ s, i3cAnswers s = true → exec .i3cRead s =
      .next { s with board := { s.board with i3cOut := some (i3cRegister s s.board.i3cOffset) } })
    ∧ (∀ s, i3cAnswers s = true → exec .i3cTimeout s = .next (s.setR .basRail 0 (satInc (s.reg .basRail) 31 16)))
    ∧ (∀ s (a : Fin 128), i3cAnswers s = true → exec (.i3cAddressAssignment a) s =
      .next { s with board := { s.board with i3cAddress := some a.val } })
    ∧ (∀ s i, s.base.held.contains 0 = true → s.base.held.contains 6 = false → s.board.railsOut = [] →
      exec (.jtagInstruction i) s = .next { s with board := { s.board with jtag := i } })
    ∧ (∀ s i, s.base.held.contains 0 = false → i ≠ .idcode →
      exec (.jtagInstruction i) s = .next { s with board := { s.board with jtag := .bypass } }))
end

