-- ==== Sys2Proof/Laws/Tables.lean ====
section
/-! SUPPORT. Sparse tables: what reading gives after a write, and that every operation keeps the keys rising. -/

namespace Sys2Proof.Machine

open Sys2Proof

variable {α : Type}

theorem Tbl.get?_put (t : Tbl α) (k j : Nat) (v : α) :
    Tbl.get? (Tbl.put t k v) j = if j = k then some v else Tbl.get? t j := by
  induction t with
  | nil => grind [Tbl.put, Tbl.get?]
  | cons e t ih => obtain ⟨a, b⟩ := e; grind [Tbl.put, Tbl.get?]

theorem Tbl.get?_del (t : Tbl α) (k j : Nat) :
    Tbl.get? (Tbl.del t k) j = if j = k then none else Tbl.get? t j := by
  induction t with
  | nil => grind [Tbl.del, Tbl.get?]
  | cons e t ih => obtain ⟨a, b⟩ := e; grind [Tbl.del, Tbl.get?]

@[simp] theorem Tbl.getD_put (t : Tbl α) (d : α) (k j : Nat) (v : α) :
    Tbl.getD (Tbl.put t k v) d j = if j = k then v else Tbl.getD t d j := by
  simp only [Tbl.getD, Tbl.get?_put]; split <;> rfl

@[simp] theorem Tbl.getD_putD [DecidableEq α] (t : Tbl α) (d : α) (k j : Nat) (v : α) :
    Tbl.getD (Tbl.putD t d k v) d j = if j = k then v else Tbl.getD t d j := by
  unfold Tbl.putD
  split
  · next h => simp only [Tbl.getD, Tbl.get?_del]; split <;> simp_all
  · simp only [Tbl.getD, Tbl.get?_put]; split <;> rfl

/-- A bound below which no key lies. -/
def Tbl.above (b : Option Nat) (k : Nat) : Bool := match b with | none => true | some x => decide (x < k)

theorem Tbl.risingFrom_cons (b : Option Nat) (k : Nat) (v : α) (t : Tbl α) :
    Tbl.risingFrom b ((k, v) :: t) = (Tbl.above b k && Tbl.risingFrom (some k) t) := by
  cases b <;> rfl

theorem Tbl.risingFrom_le {t : Tbl α} {a b : Nat} (hab : a ≤ b) (h : Tbl.risingFrom (some b) t = true) :
    Tbl.risingFrom (some a) t = true := by
  cases t with
  | nil => rfl
  | cons e t => obtain ⟨k, v⟩ := e; grind [Tbl.risingFrom]

theorem Tbl.risingFrom_none {t : Tbl α} {b : Option Nat} (h : Tbl.risingFrom b t = true) :
    Tbl.risingFrom none t = true := by
  cases t with
  | nil => rfl
  | cons e t => obtain ⟨k, v⟩ := e; cases b <;> grind [Tbl.risingFrom]

theorem Tbl.put_rising {t : Tbl α} {b : Option Nat} {k : Nat} (v : α)
    (h : Tbl.risingFrom b t = true) (hk : Tbl.above b k = true) : Tbl.risingFrom b (Tbl.put t k v) = true := by
  induction t generalizing b with
  | nil => simp [Tbl.put, Tbl.risingFrom_cons, hk, Tbl.risingFrom]
  | cons e t ih =>
    obtain ⟨a, w⟩ := e
    rw [Tbl.risingFrom_cons] at h
    simp only [Bool.and_eq_true] at h
    unfold Tbl.put
    split
    · rw [Tbl.risingFrom_cons, h.1, ih h.2 (by simpa [Tbl.above])]; rfl
    · split
      · next e => subst e; rw [Tbl.risingFrom_cons, h.1, h.2]; rfl
      · have : k < a := by omega
        rw [Tbl.risingFrom_cons, Tbl.risingFrom_cons, hk, h.2]
        simp [Tbl.above, this]

theorem Tbl.del_rising {t : Tbl α} {b : Option Nat} (k : Nat)
    (h : Tbl.risingFrom b t = true) : Tbl.risingFrom b (Tbl.del t k) = true := by
  induction t generalizing b with
  | nil => rfl
  | cons e t ih =>
    obtain ⟨a, w⟩ := e
    rw [Tbl.risingFrom_cons] at h
    simp only [Bool.and_eq_true] at h
    unfold Tbl.del
    split
    · cases b with
      | none => exact ih (Tbl.risingFrom_none h.2)
      | some x =>
        have : x < a := by simpa [Tbl.above] using h.1
        exact ih (Tbl.risingFrom_le (Nat.le_of_lt this) h.2)
    · rw [Tbl.risingFrom_cons, h.1, ih h.2]; rfl

theorem Tbl.filter_rising {t : Tbl α} {b : Option Nat} (f : Nat × α → Bool)
    (h : Tbl.risingFrom b t = true) : Tbl.risingFrom b (t.filter f) = true := by
  induction t generalizing b with
  | nil => rfl
  | cons e t ih =>
    obtain ⟨a, w⟩ := e
    rw [Tbl.risingFrom_cons] at h
    simp only [Bool.and_eq_true] at h
    rw [List.filter_cons]
    split
    · rw [Tbl.risingFrom_cons, h.1, ih h.2]; rfl
    · cases b with
      | none => exact ih (Tbl.risingFrom_none h.2)
      | some x =>
        have : x < a := by simpa [Tbl.above] using h.1
        exact ih (Tbl.risingFrom_le (Nat.le_of_lt this) h.2)

theorem Tbl.all_put {t : Tbl α} {p : Nat × α → Bool} {k : Nat} {v : α} (h : t.all p = true) (hv : p (k, v) = true) :
    (Tbl.put t k v).all p = true := by
  induction t with
  | nil => simp [Tbl.put, hv]
  | cons e t ih =>
    obtain ⟨a, w⟩ := e
    simp only [List.all_cons, Bool.and_eq_true] at h
    unfold Tbl.put
    split
    · simp [h.1, ih h.2]
    · split <;> simp_all

theorem Tbl.all_del {t : Tbl α} {p : Nat × α → Bool} (k : Nat) (h : t.all p = true) :
    (Tbl.del t k).all p = true := by
  induction t with
  | nil => rfl
  | cons e t ih =>
    obtain ⟨a, w⟩ := e
    simp only [List.all_cons, Bool.and_eq_true] at h
    unfold Tbl.del
    split
    · exact ih h.2
    · simp [h.1, ih h.2]

theorem Tbl.all_filter {t : Tbl α} {p : Nat × α → Bool} (f : Nat × α → Bool) (h : t.all p = true) :
    (t.filter f).all p = true := by
  simp only [List.all_eq_true, List.mem_filter] at *
  intro x hx; exact h x hx.1

end Sys2Proof.Machine
end

