-- ==== Sys2Proof/Laws/State.lean ====
section
/-! SUPPORT. What each update of the state leaves as it was: one lemma per field per update, and what a register,
a core, a unit or a channel reads after an update. -/

namespace Sys2Proof.Machine

open Sys2Proof

variable (s : State)

/-! ### State.setCore -/

@[simp] theorem State.setCore_pending (c : CoreId) (k : Core) : (s.setCore c k).pending = s.pending := rfl
@[simp] theorem State.setCore_free (c : CoreId) (k : Core) : (s.setCore c k).free = s.free := rfl
@[simp] theorem State.setCore_mem (c : CoreId) (k : Core) : (s.setCore c k).mem = s.mem := rfl
@[simp] theorem State.setCore_poison (c : CoreId) (k : Core) : (s.setCore c k).poison = s.poison := rfl
@[simp] theorem State.setCore_setup (c : CoreId) (k : Core) : (s.setCore c k).setup = s.setup := rfl
@[simp] theorem State.setCore_units (c : CoreId) (k : Core) : (s.setCore c k).units = s.units := rfl
@[simp] theorem State.setCore_sizes (c : CoreId) (k : Core) : (s.setCore c k).sizes = s.sizes := rfl
@[simp] theorem State.setCore_l2tlb (c : CoreId) (k : Core) : (s.setCore c k).l2tlb = s.l2tlb := rfl
@[simp] theorem State.setCore_edge (c : CoreId) (k : Core) : (s.setCore c k).edge = s.edge := rfl
@[simp] theorem State.setCore_invs (c : CoreId) (k : Core) : (s.setCore c k).invs = s.invs := rfl
@[simp] theorem State.setCore_remap (c : CoreId) (k : Core) : (s.setCore c k).remap = s.remap := rfl
@[simp] theorem State.setCore_codeObjs (c : CoreId) (k : Core) : (s.setCore c k).codeObjs = s.codeObjs := rfl
@[simp] theorem State.setCore_codeSizes (c : CoreId) (k : Core) : (s.setCore c k).codeSizes = s.codeSizes := rfl
@[simp] theorem State.setCore_mor (c : CoreId) (k : Core) : (s.setCore c k).mor = s.mor := rfl
@[simp] theorem State.setCore_pools (c : CoreId) (k : Core) : (s.setCore c k).pools = s.pools := rfl
@[simp] theorem State.setCore_deep (c : CoreId) (k : Core) : (s.setCore c k).deep = s.deep := rfl
@[simp] theorem State.setCore_flights (c : CoreId) (k : Core) : (s.setCore c k).flights = s.flights := rfl
@[simp] theorem State.setCore_queued (c : CoreId) (k : Core) : (s.setCore c k).queued = s.queued := rfl
@[simp] theorem State.setCore_dirs (c : CoreId) (k : Core) : (s.setCore c k).dirs = s.dirs := rfl
@[simp] theorem State.setCore_repaired (c : CoreId) (k : Core) : (s.setCore c k).repaired = s.repaired := rfl
@[simp] theorem State.setCore_rowRepair (c : CoreId) (k : Core) : (s.setCore c k).rowRepair = s.rowRepair := rfl
@[simp] theorem State.setCore_toHost (c : CoreId) (k : Core) : (s.setCore c k).toHost = s.toHost := rfl
@[simp] theorem State.setCore_compact (c : CoreId) (k : Core) : (s.setCore c k).compact = s.compact := rfl
@[simp] theorem State.setCore_massif (c : CoreId) (k : Core) : (s.setCore c k).massif = s.massif := rfl
@[simp] theorem State.setCore_resets (c : CoreId) (k : Core) : (s.setCore c k).resets = s.resets := rfl
@[simp] theorem State.setCore_replay (c : CoreId) (k : Core) : (s.setCore c k).replay = s.replay := rfl
@[simp] theorem State.setCore_crag (c : CoreId) (k : Core) : (s.setCore c k).crag = s.crag := rfl
@[simp] theorem State.setCore_base (c : CoreId) (k : Core) : (s.setCore c k).base = s.base := rfl
@[simp] theorem State.setCore_board (c : CoreId) (k : Core) : (s.setCore c k).board = s.board := rfl
@[simp] theorem State.setCore_flash (c : CoreId) (k : Core) : (s.setCore c k).flash = s.flash := rfl
@[simp] theorem State.setCore_crestOp (c : CoreId) (k : Core) : (s.setCore c k).crestOp = s.crestOp := rfl
@[simp] theorem State.setCore_evcWaits (c : CoreId) (k : Core) : (s.setCore c k).evcWaits = s.evcWaits := rfl
@[simp] theorem State.setCore_chans (c : CoreId) (k : Core) : (s.setCore c k).chans = s.chans := rfl
@[simp] theorem State.setCore_ingress (c : CoreId) (k : Core) : (s.setCore c k).ingress = s.ingress := rfl
@[simp] theorem State.setCore_egress (c : CoreId) (k : Core) : (s.setCore c k).egress = s.egress := rfl
@[simp] theorem State.setCore_waking (c : CoreId) (k : Core) : (s.setCore c k).waking = s.waking := rfl
@[simp] theorem State.setCore_hre (c : CoreId) (k : Core) : (s.setCore c k).hre = s.hre := rfl
@[simp] theorem State.setCore_pcie (c : CoreId) (k : Core) : (s.setCore c k).pcie = s.pcie := rfl
@[simp] theorem State.setCore_net (c : CoreId) (k : Core) : (s.setCore c k).net = s.net := rfl
@[simp] theorem State.setCore_ridge (c : CoreId) (k : Core) : (s.setCore c k).ridge = s.ridge := rfl

/-! ### State.modCore -/

@[simp] theorem State.modCore_pending (c : CoreId) (f : Core → Core) : (s.modCore c f).pending = s.pending := rfl
@[simp] theorem State.modCore_free (c : CoreId) (f : Core → Core) : (s.modCore c f).free = s.free := rfl
@[simp] theorem State.modCore_mem (c : CoreId) (f : Core → Core) : (s.modCore c f).mem = s.mem := rfl
@[simp] theorem State.modCore_poison (c : CoreId) (f : Core → Core) : (s.modCore c f).poison = s.poison := rfl
@[simp] theorem State.modCore_setup (c : CoreId) (f : Core → Core) : (s.modCore c f).setup = s.setup := rfl
@[simp] theorem State.modCore_units (c : CoreId) (f : Core → Core) : (s.modCore c f).units = s.units := rfl
@[simp] theorem State.modCore_sizes (c : CoreId) (f : Core → Core) : (s.modCore c f).sizes = s.sizes := rfl
@[simp] theorem State.modCore_l2tlb (c : CoreId) (f : Core → Core) : (s.modCore c f).l2tlb = s.l2tlb := rfl
@[simp] theorem State.modCore_edge (c : CoreId) (f : Core → Core) : (s.modCore c f).edge = s.edge := rfl
@[simp] theorem State.modCore_invs (c : CoreId) (f : Core → Core) : (s.modCore c f).invs = s.invs := rfl
@[simp] theorem State.modCore_remap (c : CoreId) (f : Core → Core) : (s.modCore c f).remap = s.remap := rfl
@[simp] theorem State.modCore_codeObjs (c : CoreId) (f : Core → Core) : (s.modCore c f).codeObjs = s.codeObjs := rfl
@[simp] theorem State.modCore_codeSizes (c : CoreId) (f : Core → Core) : (s.modCore c f).codeSizes = s.codeSizes := rfl
@[simp] theorem State.modCore_mor (c : CoreId) (f : Core → Core) : (s.modCore c f).mor = s.mor := rfl
@[simp] theorem State.modCore_pools (c : CoreId) (f : Core → Core) : (s.modCore c f).pools = s.pools := rfl
@[simp] theorem State.modCore_deep (c : CoreId) (f : Core → Core) : (s.modCore c f).deep = s.deep := rfl
@[simp] theorem State.modCore_flights (c : CoreId) (f : Core → Core) : (s.modCore c f).flights = s.flights := rfl
@[simp] theorem State.modCore_queued (c : CoreId) (f : Core → Core) : (s.modCore c f).queued = s.queued := rfl
@[simp] theorem State.modCore_dirs (c : CoreId) (f : Core → Core) : (s.modCore c f).dirs = s.dirs := rfl
@[simp] theorem State.modCore_repaired (c : CoreId) (f : Core → Core) : (s.modCore c f).repaired = s.repaired := rfl
@[simp] theorem State.modCore_rowRepair (c : CoreId) (f : Core → Core) : (s.modCore c f).rowRepair = s.rowRepair := rfl
@[simp] theorem State.modCore_toHost (c : CoreId) (f : Core → Core) : (s.modCore c f).toHost = s.toHost := rfl
@[simp] theorem State.modCore_compact (c : CoreId) (f : Core → Core) : (s.modCore c f).compact = s.compact := rfl
@[simp] theorem State.modCore_massif (c : CoreId) (f : Core → Core) : (s.modCore c f).massif = s.massif := rfl
@[simp] theorem State.modCore_resets (c : CoreId) (f : Core → Core) : (s.modCore c f).resets = s.resets := rfl
@[simp] theorem State.modCore_replay (c : CoreId) (f : Core → Core) : (s.modCore c f).replay = s.replay := rfl
@[simp] theorem State.modCore_crag (c : CoreId) (f : Core → Core) : (s.modCore c f).crag = s.crag := rfl
@[simp] theorem State.modCore_base (c : CoreId) (f : Core → Core) : (s.modCore c f).base = s.base := rfl
@[simp] theorem State.modCore_board (c : CoreId) (f : Core → Core) : (s.modCore c f).board = s.board := rfl
@[simp] theorem State.modCore_flash (c : CoreId) (f : Core → Core) : (s.modCore c f).flash = s.flash := rfl
@[simp] theorem State.modCore_crestOp (c : CoreId) (f : Core → Core) : (s.modCore c f).crestOp = s.crestOp := rfl
@[simp] theorem State.modCore_evcWaits (c : CoreId) (f : Core → Core) : (s.modCore c f).evcWaits = s.evcWaits := rfl
@[simp] theorem State.modCore_chans (c : CoreId) (f : Core → Core) : (s.modCore c f).chans = s.chans := rfl
@[simp] theorem State.modCore_ingress (c : CoreId) (f : Core → Core) : (s.modCore c f).ingress = s.ingress := rfl
@[simp] theorem State.modCore_egress (c : CoreId) (f : Core → Core) : (s.modCore c f).egress = s.egress := rfl
@[simp] theorem State.modCore_waking (c : CoreId) (f : Core → Core) : (s.modCore c f).waking = s.waking := rfl
@[simp] theorem State.modCore_hre (c : CoreId) (f : Core → Core) : (s.modCore c f).hre = s.hre := rfl
@[simp] theorem State.modCore_pcie (c : CoreId) (f : Core → Core) : (s.modCore c f).pcie = s.pcie := rfl
@[simp] theorem State.modCore_net (c : CoreId) (f : Core → Core) : (s.modCore c f).net = s.net := rfl
@[simp] theorem State.modCore_ridge (c : CoreId) (f : Core → Core) : (s.modCore c f).ridge = s.ridge := rfl

/-! ### State.setR -/

@[simp] theorem State.setR_pending (n : RegName) (i : Nat) (w : Word) : (s.setR n i w).pending = s.pending := rfl
@[simp] theorem State.setR_free (n : RegName) (i : Nat) (w : Word) : (s.setR n i w).free = s.free := rfl
@[simp] theorem State.setR_cores (n : RegName) (i : Nat) (w : Word) : (s.setR n i w).cores = s.cores := rfl
@[simp] theorem State.setR_mem (n : RegName) (i : Nat) (w : Word) : (s.setR n i w).mem = s.mem := rfl
@[simp] theorem State.setR_poison (n : RegName) (i : Nat) (w : Word) : (s.setR n i w).poison = s.poison := rfl
@[simp] theorem State.setR_units (n : RegName) (i : Nat) (w : Word) : (s.setR n i w).units = s.units := rfl
@[simp] theorem State.setR_sizes (n : RegName) (i : Nat) (w : Word) : (s.setR n i w).sizes = s.sizes := rfl
@[simp] theorem State.setR_l2tlb (n : RegName) (i : Nat) (w : Word) : (s.setR n i w).l2tlb = s.l2tlb := rfl
@[simp] theorem State.setR_edge (n : RegName) (i : Nat) (w : Word) : (s.setR n i w).edge = s.edge := rfl
@[simp] theorem State.setR_invs (n : RegName) (i : Nat) (w : Word) : (s.setR n i w).invs = s.invs := rfl
@[simp] theorem State.setR_remap (n : RegName) (i : Nat) (w : Word) : (s.setR n i w).remap = s.remap := rfl
@[simp] theorem State.setR_codeObjs (n : RegName) (i : Nat) (w : Word) : (s.setR n i w).codeObjs = s.codeObjs := rfl
@[simp] theorem State.setR_codeSizes (n : RegName) (i : Nat) (w : Word) : (s.setR n i w).codeSizes = s.codeSizes := rfl
@[simp] theorem State.setR_mor (n : RegName) (i : Nat) (w : Word) : (s.setR n i w).mor = s.mor := rfl
@[simp] theorem State.setR_pools (n : RegName) (i : Nat) (w : Word) : (s.setR n i w).pools = s.pools := rfl
@[simp] theorem State.setR_deep (n : RegName) (i : Nat) (w : Word) : (s.setR n i w).deep = s.deep := rfl
@[simp] theorem State.setR_flights (n : RegName) (i : Nat) (w : Word) : (s.setR n i w).flights = s.flights := rfl
@[simp] theorem State.setR_queued (n : RegName) (i : Nat) (w : Word) : (s.setR n i w).queued = s.queued := rfl
@[simp] theorem State.setR_dirs (n : RegName) (i : Nat) (w : Word) : (s.setR n i w).dirs = s.dirs := rfl
@[simp] theorem State.setR_repaired (n : RegName) (i : Nat) (w : Word) : (s.setR n i w).repaired = s.repaired := rfl
@[simp] theorem State.setR_rowRepair (n : RegName) (i : Nat) (w : Word) : (s.setR n i w).rowRepair = s.rowRepair := rfl
@[simp] theorem State.setR_toHost (n : RegName) (i : Nat) (w : Word) : (s.setR n i w).toHost = s.toHost := rfl
@[simp] theorem State.setR_compact (n : RegName) (i : Nat) (w : Word) : (s.setR n i w).compact = s.compact := rfl
@[simp] theorem State.setR_massif (n : RegName) (i : Nat) (w : Word) : (s.setR n i w).massif = s.massif := rfl
@[simp] theorem State.setR_resets (n : RegName) (i : Nat) (w : Word) : (s.setR n i w).resets = s.resets := rfl
@[simp] theorem State.setR_replay (n : RegName) (i : Nat) (w : Word) : (s.setR n i w).replay = s.replay := rfl
@[simp] theorem State.setR_crag (n : RegName) (i : Nat) (w : Word) : (s.setR n i w).crag = s.crag := rfl
@[simp] theorem State.setR_base (n : RegName) (i : Nat) (w : Word) : (s.setR n i w).base = s.base := rfl
@[simp] theorem State.setR_board (n : RegName) (i : Nat) (w : Word) : (s.setR n i w).board = s.board := rfl
@[simp] theorem State.setR_flash (n : RegName) (i : Nat) (w : Word) : (s.setR n i w).flash = s.flash := rfl
@[simp] theorem State.setR_crestOp (n : RegName) (i : Nat) (w : Word) : (s.setR n i w).crestOp = s.crestOp := rfl
@[simp] theorem State.setR_evcWaits (n : RegName) (i : Nat) (w : Word) : (s.setR n i w).evcWaits = s.evcWaits := rfl
@[simp] theorem State.setR_chans (n : RegName) (i : Nat) (w : Word) : (s.setR n i w).chans = s.chans := rfl
@[simp] theorem State.setR_ingress (n : RegName) (i : Nat) (w : Word) : (s.setR n i w).ingress = s.ingress := rfl
@[simp] theorem State.setR_egress (n : RegName) (i : Nat) (w : Word) : (s.setR n i w).egress = s.egress := rfl
@[simp] theorem State.setR_waking (n : RegName) (i : Nat) (w : Word) : (s.setR n i w).waking = s.waking := rfl
@[simp] theorem State.setR_hre (n : RegName) (i : Nat) (w : Word) : (s.setR n i w).hre = s.hre := rfl
@[simp] theorem State.setR_pcie (n : RegName) (i : Nat) (w : Word) : (s.setR n i w).pcie = s.pcie := rfl
@[simp] theorem State.setR_net (n : RegName) (i : Nat) (w : Word) : (s.setR n i w).net = s.net := rfl
@[simp] theorem State.setR_ridge (n : RegName) (i : Nat) (w : Word) : (s.setR n i w).ridge = s.ridge := rfl

/-! ### State.setF -/

@[simp] theorem State.setF_pending (n : RegName) (i hi lo v : Nat) : (s.setF n i hi lo v).pending = s.pending := rfl
@[simp] theorem State.setF_free (n : RegName) (i hi lo v : Nat) : (s.setF n i hi lo v).free = s.free := rfl
@[simp] theorem State.setF_cores (n : RegName) (i hi lo v : Nat) : (s.setF n i hi lo v).cores = s.cores := rfl
@[simp] theorem State.setF_mem (n : RegName) (i hi lo v : Nat) : (s.setF n i hi lo v).mem = s.mem := rfl
@[simp] theorem State.setF_poison (n : RegName) (i hi lo v : Nat) : (s.setF n i hi lo v).poison = s.poison := rfl
@[simp] theorem State.setF_units (n : RegName) (i hi lo v : Nat) : (s.setF n i hi lo v).units = s.units := rfl
@[simp] theorem State.setF_sizes (n : RegName) (i hi lo v : Nat) : (s.setF n i hi lo v).sizes = s.sizes := rfl
@[simp] theorem State.setF_l2tlb (n : RegName) (i hi lo v : Nat) : (s.setF n i hi lo v).l2tlb = s.l2tlb := rfl
@[simp] theorem State.setF_edge (n : RegName) (i hi lo v : Nat) : (s.setF n i hi lo v).edge = s.edge := rfl
@[simp] theorem State.setF_invs (n : RegName) (i hi lo v : Nat) : (s.setF n i hi lo v).invs = s.invs := rfl
@[simp] theorem State.setF_remap (n : RegName) (i hi lo v : Nat) : (s.setF n i hi lo v).remap = s.remap := rfl
@[simp] theorem State.setF_codeObjs (n : RegName) (i hi lo v : Nat) : (s.setF n i hi lo v).codeObjs = s.codeObjs := rfl
@[simp] theorem State.setF_codeSizes (n : RegName) (i hi lo v : Nat) : (s.setF n i hi lo v).codeSizes = s.codeSizes := rfl
@[simp] theorem State.setF_mor (n : RegName) (i hi lo v : Nat) : (s.setF n i hi lo v).mor = s.mor := rfl
@[simp] theorem State.setF_pools (n : RegName) (i hi lo v : Nat) : (s.setF n i hi lo v).pools = s.pools := rfl
@[simp] theorem State.setF_deep (n : RegName) (i hi lo v : Nat) : (s.setF n i hi lo v).deep = s.deep := rfl
@[simp] theorem State.setF_flights (n : RegName) (i hi lo v : Nat) : (s.setF n i hi lo v).flights = s.flights := rfl
@[simp] theorem State.setF_queued (n : RegName) (i hi lo v : Nat) : (s.setF n i hi lo v).queued = s.queued := rfl
@[simp] theorem State.setF_dirs (n : RegName) (i hi lo v : Nat) : (s.setF n i hi lo v).dirs = s.dirs := rfl
@[simp] theorem State.setF_repaired (n : RegName) (i hi lo v : Nat) : (s.setF n i hi lo v).repaired = s.repaired := rfl
@[simp] theorem State.setF_rowRepair (n : RegName) (i hi lo v : Nat) : (s.setF n i hi lo v).rowRepair = s.rowRepair := rfl
@[simp] theorem State.setF_toHost (n : RegName) (i hi lo v : Nat) : (s.setF n i hi lo v).toHost = s.toHost := rfl
@[simp] theorem State.setF_compact (n : RegName) (i hi lo v : Nat) : (s.setF n i hi lo v).compact = s.compact := rfl
@[simp] theorem State.setF_massif (n : RegName) (i hi lo v : Nat) : (s.setF n i hi lo v).massif = s.massif := rfl
@[simp] theorem State.setF_resets (n : RegName) (i hi lo v : Nat) : (s.setF n i hi lo v).resets = s.resets := rfl
@[simp] theorem State.setF_replay (n : RegName) (i hi lo v : Nat) : (s.setF n i hi lo v).replay = s.replay := rfl
@[simp] theorem State.setF_crag (n : RegName) (i hi lo v : Nat) : (s.setF n i hi lo v).crag = s.crag := rfl
@[simp] theorem State.setF_base (n : RegName) (i hi lo v : Nat) : (s.setF n i hi lo v).base = s.base := rfl
@[simp] theorem State.setF_board (n : RegName) (i hi lo v : Nat) : (s.setF n i hi lo v).board = s.board := rfl
@[simp] theorem State.setF_flash (n : RegName) (i hi lo v : Nat) : (s.setF n i hi lo v).flash = s.flash := rfl
@[simp] theorem State.setF_crestOp (n : RegName) (i hi lo v : Nat) : (s.setF n i hi lo v).crestOp = s.crestOp := rfl
@[simp] theorem State.setF_evcWaits (n : RegName) (i hi lo v : Nat) : (s.setF n i hi lo v).evcWaits = s.evcWaits := rfl
@[simp] theorem State.setF_chans (n : RegName) (i hi lo v : Nat) : (s.setF n i hi lo v).chans = s.chans := rfl
@[simp] theorem State.setF_ingress (n : RegName) (i hi lo v : Nat) : (s.setF n i hi lo v).ingress = s.ingress := rfl
@[simp] theorem State.setF_egress (n : RegName) (i hi lo v : Nat) : (s.setF n i hi lo v).egress = s.egress := rfl
@[simp] theorem State.setF_waking (n : RegName) (i hi lo v : Nat) : (s.setF n i hi lo v).waking = s.waking := rfl
@[simp] theorem State.setF_hre (n : RegName) (i hi lo v : Nat) : (s.setF n i hi lo v).hre = s.hre := rfl
@[simp] theorem State.setF_pcie (n : RegName) (i hi lo v : Nat) : (s.setF n i hi lo v).pcie = s.pcie := rfl
@[simp] theorem State.setF_net (n : RegName) (i hi lo v : Nat) : (s.setF n i hi lo v).net = s.net := rfl
@[simp] theorem State.setF_ridge (n : RegName) (i hi lo v : Nat) : (s.setF n i hi lo v).ridge = s.ridge := rfl

/-! ### State.setUnit -/

@[simp] theorem State.setUnit_pending (u v : Nat) : (s.setUnit u v).pending = s.pending := rfl
@[simp] theorem State.setUnit_free (u v : Nat) : (s.setUnit u v).free = s.free := rfl
@[simp] theorem State.setUnit_cores (u v : Nat) : (s.setUnit u v).cores = s.cores := rfl
@[simp] theorem State.setUnit_mem (u v : Nat) : (s.setUnit u v).mem = s.mem := rfl
@[simp] theorem State.setUnit_poison (u v : Nat) : (s.setUnit u v).poison = s.poison := rfl
@[simp] theorem State.setUnit_setup (u v : Nat) : (s.setUnit u v).setup = s.setup := rfl
@[simp] theorem State.setUnit_sizes (u v : Nat) : (s.setUnit u v).sizes = s.sizes := rfl
@[simp] theorem State.setUnit_l2tlb (u v : Nat) : (s.setUnit u v).l2tlb = s.l2tlb := rfl
@[simp] theorem State.setUnit_edge (u v : Nat) : (s.setUnit u v).edge = s.edge := rfl
@[simp] theorem State.setUnit_invs (u v : Nat) : (s.setUnit u v).invs = s.invs := rfl
@[simp] theorem State.setUnit_remap (u v : Nat) : (s.setUnit u v).remap = s.remap := rfl
@[simp] theorem State.setUnit_codeObjs (u v : Nat) : (s.setUnit u v).codeObjs = s.codeObjs := rfl
@[simp] theorem State.setUnit_codeSizes (u v : Nat) : (s.setUnit u v).codeSizes = s.codeSizes := rfl
@[simp] theorem State.setUnit_mor (u v : Nat) : (s.setUnit u v).mor = s.mor := rfl
@[simp] theorem State.setUnit_pools (u v : Nat) : (s.setUnit u v).pools = s.pools := rfl
@[simp] theorem State.setUnit_deep (u v : Nat) : (s.setUnit u v).deep = s.deep := rfl
@[simp] theorem State.setUnit_flights (u v : Nat) : (s.setUnit u v).flights = s.flights := rfl
@[simp] theorem State.setUnit_queued (u v : Nat) : (s.setUnit u v).queued = s.queued := rfl
@[simp] theorem State.setUnit_dirs (u v : Nat) : (s.setUnit u v).dirs = s.dirs := rfl
@[simp] theorem State.setUnit_repaired (u v : Nat) : (s.setUnit u v).repaired = s.repaired := rfl
@[simp] theorem State.setUnit_rowRepair (u v : Nat) : (s.setUnit u v).rowRepair = s.rowRepair := rfl
@[simp] theorem State.setUnit_toHost (u v : Nat) : (s.setUnit u v).toHost = s.toHost := rfl
@[simp] theorem State.setUnit_compact (u v : Nat) : (s.setUnit u v).compact = s.compact := rfl
@[simp] theorem State.setUnit_massif (u v : Nat) : (s.setUnit u v).massif = s.massif := rfl
@[simp] theorem State.setUnit_resets (u v : Nat) : (s.setUnit u v).resets = s.resets := rfl
@[simp] theorem State.setUnit_replay (u v : Nat) : (s.setUnit u v).replay = s.replay := rfl
@[simp] theorem State.setUnit_crag (u v : Nat) : (s.setUnit u v).crag = s.crag := rfl
@[simp] theorem State.setUnit_base (u v : Nat) : (s.setUnit u v).base = s.base := rfl
@[simp] theorem State.setUnit_board (u v : Nat) : (s.setUnit u v).board = s.board := rfl
@[simp] theorem State.setUnit_flash (u v : Nat) : (s.setUnit u v).flash = s.flash := rfl
@[simp] theorem State.setUnit_crestOp (u v : Nat) : (s.setUnit u v).crestOp = s.crestOp := rfl
@[simp] theorem State.setUnit_evcWaits (u v : Nat) : (s.setUnit u v).evcWaits = s.evcWaits := rfl
@[simp] theorem State.setUnit_chans (u v : Nat) : (s.setUnit u v).chans = s.chans := rfl
@[simp] theorem State.setUnit_ingress (u v : Nat) : (s.setUnit u v).ingress = s.ingress := rfl
@[simp] theorem State.setUnit_egress (u v : Nat) : (s.setUnit u v).egress = s.egress := rfl
@[simp] theorem State.setUnit_waking (u v : Nat) : (s.setUnit u v).waking = s.waking := rfl
@[simp] theorem State.setUnit_hre (u v : Nat) : (s.setUnit u v).hre = s.hre := rfl
@[simp] theorem State.setUnit_pcie (u v : Nat) : (s.setUnit u v).pcie = s.pcie := rfl
@[simp] theorem State.setUnit_net (u v : Nat) : (s.setUnit u v).net = s.net := rfl
@[simp] theorem State.setUnit_ridge (u v : Nat) : (s.setUnit u v).ridge = s.ridge := rfl

/-! ### State.setDeep -/

@[simp] theorem State.setDeep_pending (q : Nat) (d : Deep) : (s.setDeep q d).pending = s.pending := rfl
@[simp] theorem State.setDeep_free (q : Nat) (d : Deep) : (s.setDeep q d).free = s.free := rfl
@[simp] theorem State.setDeep_cores (q : Nat) (d : Deep) : (s.setDeep q d).cores = s.cores := rfl
@[simp] theorem State.setDeep_mem (q : Nat) (d : Deep) : (s.setDeep q d).mem = s.mem := rfl
@[simp] theorem State.setDeep_poison (q : Nat) (d : Deep) : (s.setDeep q d).poison = s.poison := rfl
@[simp] theorem State.setDeep_setup (q : Nat) (d : Deep) : (s.setDeep q d).setup = s.setup := rfl
@[simp] theorem State.setDeep_units (q : Nat) (d : Deep) : (s.setDeep q d).units = s.units := rfl
@[simp] theorem State.setDeep_sizes (q : Nat) (d : Deep) : (s.setDeep q d).sizes = s.sizes := rfl
@[simp] theorem State.setDeep_l2tlb (q : Nat) (d : Deep) : (s.setDeep q d).l2tlb = s.l2tlb := rfl
@[simp] theorem State.setDeep_edge (q : Nat) (d : Deep) : (s.setDeep q d).edge = s.edge := rfl
@[simp] theorem State.setDeep_invs (q : Nat) (d : Deep) : (s.setDeep q d).invs = s.invs := rfl
@[simp] theorem State.setDeep_remap (q : Nat) (d : Deep) : (s.setDeep q d).remap = s.remap := rfl
@[simp] theorem State.setDeep_codeObjs (q : Nat) (d : Deep) : (s.setDeep q d).codeObjs = s.codeObjs := rfl
@[simp] theorem State.setDeep_codeSizes (q : Nat) (d : Deep) : (s.setDeep q d).codeSizes = s.codeSizes := rfl
@[simp] theorem State.setDeep_mor (q : Nat) (d : Deep) : (s.setDeep q d).mor = s.mor := rfl
@[simp] theorem State.setDeep_pools (q : Nat) (d : Deep) : (s.setDeep q d).pools = s.pools := rfl
@[simp] theorem State.setDeep_flights (q : Nat) (d : Deep) : (s.setDeep q d).flights = s.flights := rfl
@[simp] theorem State.setDeep_queued (q : Nat) (d : Deep) : (s.setDeep q d).queued = s.queued := rfl
@[simp] theorem State.setDeep_dirs (q : Nat) (d : Deep) : (s.setDeep q d).dirs = s.dirs := rfl
@[simp] theorem State.setDeep_repaired (q : Nat) (d : Deep) : (s.setDeep q d).repaired = s.repaired := rfl
@[simp] theorem State.setDeep_rowRepair (q : Nat) (d : Deep) : (s.setDeep q d).rowRepair = s.rowRepair := rfl
@[simp] theorem State.setDeep_toHost (q : Nat) (d : Deep) : (s.setDeep q d).toHost = s.toHost := rfl
@[simp] theorem State.setDeep_compact (q : Nat) (d : Deep) : (s.setDeep q d).compact = s.compact := rfl
@[simp] theorem State.setDeep_massif (q : Nat) (d : Deep) : (s.setDeep q d).massif = s.massif := rfl
@[simp] theorem State.setDeep_resets (q : Nat) (d : Deep) : (s.setDeep q d).resets = s.resets := rfl
@[simp] theorem State.setDeep_replay (q : Nat) (d : Deep) : (s.setDeep q d).replay = s.replay := rfl
@[simp] theorem State.setDeep_crag (q : Nat) (d : Deep) : (s.setDeep q d).crag = s.crag := rfl
@[simp] theorem State.setDeep_base (q : Nat) (d : Deep) : (s.setDeep q d).base = s.base := rfl
@[simp] theorem State.setDeep_board (q : Nat) (d : Deep) : (s.setDeep q d).board = s.board := rfl
@[simp] theorem State.setDeep_flash (q : Nat) (d : Deep) : (s.setDeep q d).flash = s.flash := rfl
@[simp] theorem State.setDeep_crestOp (q : Nat) (d : Deep) : (s.setDeep q d).crestOp = s.crestOp := rfl
@[simp] theorem State.setDeep_evcWaits (q : Nat) (d : Deep) : (s.setDeep q d).evcWaits = s.evcWaits := rfl
@[simp] theorem State.setDeep_chans (q : Nat) (d : Deep) : (s.setDeep q d).chans = s.chans := rfl
@[simp] theorem State.setDeep_ingress (q : Nat) (d : Deep) : (s.setDeep q d).ingress = s.ingress := rfl
@[simp] theorem State.setDeep_egress (q : Nat) (d : Deep) : (s.setDeep q d).egress = s.egress := rfl
@[simp] theorem State.setDeep_waking (q : Nat) (d : Deep) : (s.setDeep q d).waking = s.waking := rfl
@[simp] theorem State.setDeep_hre (q : Nat) (d : Deep) : (s.setDeep q d).hre = s.hre := rfl
@[simp] theorem State.setDeep_pcie (q : Nat) (d : Deep) : (s.setDeep q d).pcie = s.pcie := rfl
@[simp] theorem State.setDeep_net (q : Nat) (d : Deep) : (s.setDeep q d).net = s.net := rfl
@[simp] theorem State.setDeep_ridge (q : Nat) (d : Deep) : (s.setDeep q d).ridge = s.ridge := rfl

/-! ### State.setChan -/

@[simp] theorem State.setChan_pending (n : Nat) (x : Chan) : (s.setChan n x).pending = s.pending := rfl
@[simp] theorem State.setChan_free (n : Nat) (x : Chan) : (s.setChan n x).free = s.free := rfl
@[simp] theorem State.setChan_cores (n : Nat) (x : Chan) : (s.setChan n x).cores = s.cores := rfl
@[simp] theorem State.setChan_mem (n : Nat) (x : Chan) : (s.setChan n x).mem = s.mem := rfl
@[simp] theorem State.setChan_poison (n : Nat) (x : Chan) : (s.setChan n x).poison = s.poison := rfl
@[simp] theorem State.setChan_setup (n : Nat) (x : Chan) : (s.setChan n x).setup = s.setup := rfl
@[simp] theorem State.setChan_units (n : Nat) (x : Chan) : (s.setChan n x).units = s.units := rfl
@[simp] theorem State.setChan_sizes (n : Nat) (x : Chan) : (s.setChan n x).sizes = s.sizes := rfl
@[simp] theorem State.setChan_l2tlb (n : Nat) (x : Chan) : (s.setChan n x).l2tlb = s.l2tlb := rfl
@[simp] theorem State.setChan_edge (n : Nat) (x : Chan) : (s.setChan n x).edge = s.edge := rfl
@[simp] theorem State.setChan_invs (n : Nat) (x : Chan) : (s.setChan n x).invs = s.invs := rfl
@[simp] theorem State.setChan_remap (n : Nat) (x : Chan) : (s.setChan n x).remap = s.remap := rfl
@[simp] theorem State.setChan_codeObjs (n : Nat) (x : Chan) : (s.setChan n x).codeObjs = s.codeObjs := rfl
@[simp] theorem State.setChan_codeSizes (n : Nat) (x : Chan) : (s.setChan n x).codeSizes = s.codeSizes := rfl
@[simp] theorem State.setChan_mor (n : Nat) (x : Chan) : (s.setChan n x).mor = s.mor := rfl
@[simp] theorem State.setChan_pools (n : Nat) (x : Chan) : (s.setChan n x).pools = s.pools := rfl
@[simp] theorem State.setChan_deep (n : Nat) (x : Chan) : (s.setChan n x).deep = s.deep := rfl
@[simp] theorem State.setChan_flights (n : Nat) (x : Chan) : (s.setChan n x).flights = s.flights := rfl
@[simp] theorem State.setChan_queued (n : Nat) (x : Chan) : (s.setChan n x).queued = s.queued := rfl
@[simp] theorem State.setChan_dirs (n : Nat) (x : Chan) : (s.setChan n x).dirs = s.dirs := rfl
@[simp] theorem State.setChan_repaired (n : Nat) (x : Chan) : (s.setChan n x).repaired = s.repaired := rfl
@[simp] theorem State.setChan_rowRepair (n : Nat) (x : Chan) : (s.setChan n x).rowRepair = s.rowRepair := rfl
@[simp] theorem State.setChan_toHost (n : Nat) (x : Chan) : (s.setChan n x).toHost = s.toHost := rfl
@[simp] theorem State.setChan_compact (n : Nat) (x : Chan) : (s.setChan n x).compact = s.compact := rfl
@[simp] theorem State.setChan_massif (n : Nat) (x : Chan) : (s.setChan n x).massif = s.massif := rfl
@[simp] theorem State.setChan_resets (n : Nat) (x : Chan) : (s.setChan n x).resets = s.resets := rfl
@[simp] theorem State.setChan_replay (n : Nat) (x : Chan) : (s.setChan n x).replay = s.replay := rfl
@[simp] theorem State.setChan_crag (n : Nat) (x : Chan) : (s.setChan n x).crag = s.crag := rfl
@[simp] theorem State.setChan_base (n : Nat) (x : Chan) : (s.setChan n x).base = s.base := rfl
@[simp] theorem State.setChan_board (n : Nat) (x : Chan) : (s.setChan n x).board = s.board := rfl
@[simp] theorem State.setChan_flash (n : Nat) (x : Chan) : (s.setChan n x).flash = s.flash := rfl
@[simp] theorem State.setChan_crestOp (n : Nat) (x : Chan) : (s.setChan n x).crestOp = s.crestOp := rfl
@[simp] theorem State.setChan_evcWaits (n : Nat) (x : Chan) : (s.setChan n x).evcWaits = s.evcWaits := rfl
@[simp] theorem State.setChan_ingress (n : Nat) (x : Chan) : (s.setChan n x).ingress = s.ingress := rfl
@[simp] theorem State.setChan_egress (n : Nat) (x : Chan) : (s.setChan n x).egress = s.egress := rfl
@[simp] theorem State.setChan_waking (n : Nat) (x : Chan) : (s.setChan n x).waking = s.waking := rfl
@[simp] theorem State.setChan_hre (n : Nat) (x : Chan) : (s.setChan n x).hre = s.hre := rfl
@[simp] theorem State.setChan_pcie (n : Nat) (x : Chan) : (s.setChan n x).pcie = s.pcie := rfl
@[simp] theorem State.setChan_net (n : Nat) (x : Chan) : (s.setChan n x).net = s.net := rfl
@[simp] theorem State.setChan_ridge (n : Nat) (x : Chan) : (s.setChan n x).ridge = s.ridge := rfl

/-! ### State.setRing -/

@[simp] theorem State.setRing_pending (r : Nat) (x : Ring) : (s.setRing r x).pending = s.pending := rfl
@[simp] theorem State.setRing_free (r : Nat) (x : Ring) : (s.setRing r x).free = s.free := rfl
@[simp] theorem State.setRing_cores (r : Nat) (x : Ring) : (s.setRing r x).cores = s.cores := rfl
@[simp] theorem State.setRing_mem (r : Nat) (x : Ring) : (s.setRing r x).mem = s.mem := rfl
@[simp] theorem State.setRing_poison (r : Nat) (x : Ring) : (s.setRing r x).poison = s.poison := rfl
@[simp] theorem State.setRing_setup (r : Nat) (x : Ring) : (s.setRing r x).setup = s.setup := rfl
@[simp] theorem State.setRing_units (r : Nat) (x : Ring) : (s.setRing r x).units = s.units := rfl
@[simp] theorem State.setRing_sizes (r : Nat) (x : Ring) : (s.setRing r x).sizes = s.sizes := rfl
@[simp] theorem State.setRing_l2tlb (r : Nat) (x : Ring) : (s.setRing r x).l2tlb = s.l2tlb := rfl
@[simp] theorem State.setRing_edge (r : Nat) (x : Ring) : (s.setRing r x).edge = s.edge := rfl
@[simp] theorem State.setRing_invs (r : Nat) (x : Ring) : (s.setRing r x).invs = s.invs := rfl
@[simp] theorem State.setRing_remap (r : Nat) (x : Ring) : (s.setRing r x).remap = s.remap := rfl
@[simp] theorem State.setRing_codeObjs (r : Nat) (x : Ring) : (s.setRing r x).codeObjs = s.codeObjs := rfl
@[simp] theorem State.setRing_codeSizes (r : Nat) (x : Ring) : (s.setRing r x).codeSizes = s.codeSizes := rfl
@[simp] theorem State.setRing_mor (r : Nat) (x : Ring) : (s.setRing r x).mor = s.mor := rfl
@[simp] theorem State.setRing_pools (r : Nat) (x : Ring) : (s.setRing r x).pools = s.pools := rfl
@[simp] theorem State.setRing_deep (r : Nat) (x : Ring) : (s.setRing r x).deep = s.deep := rfl
@[simp] theorem State.setRing_flights (r : Nat) (x : Ring) : (s.setRing r x).flights = s.flights := rfl
@[simp] theorem State.setRing_queued (r : Nat) (x : Ring) : (s.setRing r x).queued = s.queued := rfl
@[simp] theorem State.setRing_dirs (r : Nat) (x : Ring) : (s.setRing r x).dirs = s.dirs := rfl
@[simp] theorem State.setRing_repaired (r : Nat) (x : Ring) : (s.setRing r x).repaired = s.repaired := rfl
@[simp] theorem State.setRing_rowRepair (r : Nat) (x : Ring) : (s.setRing r x).rowRepair = s.rowRepair := rfl
@[simp] theorem State.setRing_toHost (r : Nat) (x : Ring) : (s.setRing r x).toHost = s.toHost := rfl
@[simp] theorem State.setRing_compact (r : Nat) (x : Ring) : (s.setRing r x).compact = s.compact := rfl
@[simp] theorem State.setRing_massif (r : Nat) (x : Ring) : (s.setRing r x).massif = s.massif := rfl
@[simp] theorem State.setRing_resets (r : Nat) (x : Ring) : (s.setRing r x).resets = s.resets := rfl
@[simp] theorem State.setRing_replay (r : Nat) (x : Ring) : (s.setRing r x).replay = s.replay := rfl
@[simp] theorem State.setRing_crag (r : Nat) (x : Ring) : (s.setRing r x).crag = s.crag := rfl
@[simp] theorem State.setRing_base (r : Nat) (x : Ring) : (s.setRing r x).base = s.base := rfl
@[simp] theorem State.setRing_board (r : Nat) (x : Ring) : (s.setRing r x).board = s.board := rfl
@[simp] theorem State.setRing_flash (r : Nat) (x : Ring) : (s.setRing r x).flash = s.flash := rfl
@[simp] theorem State.setRing_crestOp (r : Nat) (x : Ring) : (s.setRing r x).crestOp = s.crestOp := rfl
@[simp] theorem State.setRing_evcWaits (r : Nat) (x : Ring) : (s.setRing r x).evcWaits = s.evcWaits := rfl
@[simp] theorem State.setRing_chans (r : Nat) (x : Ring) : (s.setRing r x).chans = s.chans := rfl
@[simp] theorem State.setRing_ingress (r : Nat) (x : Ring) : (s.setRing r x).ingress = s.ingress := rfl
@[simp] theorem State.setRing_egress (r : Nat) (x : Ring) : (s.setRing r x).egress = s.egress := rfl
@[simp] theorem State.setRing_waking (r : Nat) (x : Ring) : (s.setRing r x).waking = s.waking := rfl
@[simp] theorem State.setRing_pcie (r : Nat) (x : Ring) : (s.setRing r x).pcie = s.pcie := rfl
@[simp] theorem State.setRing_net (r : Nat) (x : Ring) : (s.setRing r x).net = s.net := rfl
@[simp] theorem State.setRing_ridge (r : Nat) (x : Ring) : (s.setRing r x).ridge = s.ridge := rfl

/-! ### State.setCq -/

@[simp] theorem State.setCq_pending (c : Nat) (x : CqRing) : (s.setCq c x).pending = s.pending := rfl
@[simp] theorem State.setCq_free (c : Nat) (x : CqRing) : (s.setCq c x).free = s.free := rfl
@[simp] theorem State.setCq_cores (c : Nat) (x : CqRing) : (s.setCq c x).cores = s.cores := rfl
@[simp] theorem State.setCq_mem (c : Nat) (x : CqRing) : (s.setCq c x).mem = s.mem := rfl
@[simp] theorem State.setCq_poison (c : Nat) (x : CqRing) : (s.setCq c x).poison = s.poison := rfl
@[simp] theorem State.setCq_setup (c : Nat) (x : CqRing) : (s.setCq c x).setup = s.setup := rfl
@[simp] theorem State.setCq_units (c : Nat) (x : CqRing) : (s.setCq c x).units = s.units := rfl
@[simp] theorem State.setCq_sizes (c : Nat) (x : CqRing) : (s.setCq c x).sizes = s.sizes := rfl
@[simp] theorem State.setCq_l2tlb (c : Nat) (x : CqRing) : (s.setCq c x).l2tlb = s.l2tlb := rfl
@[simp] theorem State.setCq_edge (c : Nat) (x : CqRing) : (s.setCq c x).edge = s.edge := rfl
@[simp] theorem State.setCq_invs (c : Nat) (x : CqRing) : (s.setCq c x).invs = s.invs := rfl
@[simp] theorem State.setCq_remap (c : Nat) (x : CqRing) : (s.setCq c x).remap = s.remap := rfl
@[simp] theorem State.setCq_codeObjs (c : Nat) (x : CqRing) : (s.setCq c x).codeObjs = s.codeObjs := rfl
@[simp] theorem State.setCq_codeSizes (c : Nat) (x : CqRing) : (s.setCq c x).codeSizes = s.codeSizes := rfl
@[simp] theorem State.setCq_mor (c : Nat) (x : CqRing) : (s.setCq c x).mor = s.mor := rfl
@[simp] theorem State.setCq_pools (c : Nat) (x : CqRing) : (s.setCq c x).pools = s.pools := rfl
@[simp] theorem State.setCq_deep (c : Nat) (x : CqRing) : (s.setCq c x).deep = s.deep := rfl
@[simp] theorem State.setCq_flights (c : Nat) (x : CqRing) : (s.setCq c x).flights = s.flights := rfl
@[simp] theorem State.setCq_queued (c : Nat) (x : CqRing) : (s.setCq c x).queued = s.queued := rfl
@[simp] theorem State.setCq_dirs (c : Nat) (x : CqRing) : (s.setCq c x).dirs = s.dirs := rfl
@[simp] theorem State.setCq_repaired (c : Nat) (x : CqRing) : (s.setCq c x).repaired = s.repaired := rfl
@[simp] theorem State.setCq_rowRepair (c : Nat) (x : CqRing) : (s.setCq c x).rowRepair = s.rowRepair := rfl
@[simp] theorem State.setCq_toHost (c : Nat) (x : CqRing) : (s.setCq c x).toHost = s.toHost := rfl
@[simp] theorem State.setCq_compact (c : Nat) (x : CqRing) : (s.setCq c x).compact = s.compact := rfl
@[simp] theorem State.setCq_massif (c : Nat) (x : CqRing) : (s.setCq c x).massif = s.massif := rfl
@[simp] theorem State.setCq_resets (c : Nat) (x : CqRing) : (s.setCq c x).resets = s.resets := rfl
@[simp] theorem State.setCq_replay (c : Nat) (x : CqRing) : (s.setCq c x).replay = s.replay := rfl
@[simp] theorem State.setCq_crag (c : Nat) (x : CqRing) : (s.setCq c x).crag = s.crag := rfl
@[simp] theorem State.setCq_base (c : Nat) (x : CqRing) : (s.setCq c x).base = s.base := rfl
@[simp] theorem State.setCq_board (c : Nat) (x : CqRing) : (s.setCq c x).board = s.board := rfl
@[simp] theorem State.setCq_flash (c : Nat) (x : CqRing) : (s.setCq c x).flash = s.flash := rfl
@[simp] theorem State.setCq_crestOp (c : Nat) (x : CqRing) : (s.setCq c x).crestOp = s.crestOp := rfl
@[simp] theorem State.setCq_evcWaits (c : Nat) (x : CqRing) : (s.setCq c x).evcWaits = s.evcWaits := rfl
@[simp] theorem State.setCq_chans (c : Nat) (x : CqRing) : (s.setCq c x).chans = s.chans := rfl
@[simp] theorem State.setCq_ingress (c : Nat) (x : CqRing) : (s.setCq c x).ingress = s.ingress := rfl
@[simp] theorem State.setCq_egress (c : Nat) (x : CqRing) : (s.setCq c x).egress = s.egress := rfl
@[simp] theorem State.setCq_waking (c : Nat) (x : CqRing) : (s.setCq c x).waking = s.waking := rfl
@[simp] theorem State.setCq_pcie (c : Nat) (x : CqRing) : (s.setCq c x).pcie = s.pcie := rfl
@[simp] theorem State.setCq_net (c : Nat) (x : CqRing) : (s.setCq c x).net = s.net := rfl
@[simp] theorem State.setCq_ridge (c : Nat) (x : CqRing) : (s.setCq c x).ridge = s.ridge := rfl

/-! ### State.setRport -/

@[simp] theorem State.setRport_pending (p : Nat) (x : RidgePort) : (s.setRport p x).pending = s.pending := rfl
@[simp] theorem State.setRport_free (p : Nat) (x : RidgePort) : (s.setRport p x).free = s.free := rfl
@[simp] theorem State.setRport_cores (p : Nat) (x : RidgePort) : (s.setRport p x).cores = s.cores := rfl
@[simp] theorem State.setRport_mem (p : Nat) (x : RidgePort) : (s.setRport p x).mem = s.mem := rfl
@[simp] theorem State.setRport_poison (p : Nat) (x : RidgePort) : (s.setRport p x).poison = s.poison := rfl
@[simp] theorem State.setRport_setup (p : Nat) (x : RidgePort) : (s.setRport p x).setup = s.setup := rfl
@[simp] theorem State.setRport_units (p : Nat) (x : RidgePort) : (s.setRport p x).units = s.units := rfl
@[simp] theorem State.setRport_sizes (p : Nat) (x : RidgePort) : (s.setRport p x).sizes = s.sizes := rfl
@[simp] theorem State.setRport_l2tlb (p : Nat) (x : RidgePort) : (s.setRport p x).l2tlb = s.l2tlb := rfl
@[simp] theorem State.setRport_edge (p : Nat) (x : RidgePort) : (s.setRport p x).edge = s.edge := rfl
@[simp] theorem State.setRport_invs (p : Nat) (x : RidgePort) : (s.setRport p x).invs = s.invs := rfl
@[simp] theorem State.setRport_remap (p : Nat) (x : RidgePort) : (s.setRport p x).remap = s.remap := rfl
@[simp] theorem State.setRport_codeObjs (p : Nat) (x : RidgePort) : (s.setRport p x).codeObjs = s.codeObjs := rfl
@[simp] theorem State.setRport_codeSizes (p : Nat) (x : RidgePort) : (s.setRport p x).codeSizes = s.codeSizes := rfl
@[simp] theorem State.setRport_mor (p : Nat) (x : RidgePort) : (s.setRport p x).mor = s.mor := rfl
@[simp] theorem State.setRport_pools (p : Nat) (x : RidgePort) : (s.setRport p x).pools = s.pools := rfl
@[simp] theorem State.setRport_deep (p : Nat) (x : RidgePort) : (s.setRport p x).deep = s.deep := rfl
@[simp] theorem State.setRport_flights (p : Nat) (x : RidgePort) : (s.setRport p x).flights = s.flights := rfl
@[simp] theorem State.setRport_queued (p : Nat) (x : RidgePort) : (s.setRport p x).queued = s.queued := rfl
@[simp] theorem State.setRport_dirs (p : Nat) (x : RidgePort) : (s.setRport p x).dirs = s.dirs := rfl
@[simp] theorem State.setRport_repaired (p : Nat) (x : RidgePort) : (s.setRport p x).repaired = s.repaired := rfl
@[simp] theorem State.setRport_rowRepair (p : Nat) (x : RidgePort) : (s.setRport p x).rowRepair = s.rowRepair := rfl
@[simp] theorem State.setRport_toHost (p : Nat) (x : RidgePort) : (s.setRport p x).toHost = s.toHost := rfl
@[simp] theorem State.setRport_compact (p : Nat) (x : RidgePort) : (s.setRport p x).compact = s.compact := rfl
@[simp] theorem State.setRport_massif (p : Nat) (x : RidgePort) : (s.setRport p x).massif = s.massif := rfl
@[simp] theorem State.setRport_resets (p : Nat) (x : RidgePort) : (s.setRport p x).resets = s.resets := rfl
@[simp] theorem State.setRport_replay (p : Nat) (x : RidgePort) : (s.setRport p x).replay = s.replay := rfl
@[simp] theorem State.setRport_crag (p : Nat) (x : RidgePort) : (s.setRport p x).crag = s.crag := rfl
@[simp] theorem State.setRport_base (p : Nat) (x : RidgePort) : (s.setRport p x).base = s.base := rfl
@[simp] theorem State.setRport_board (p : Nat) (x : RidgePort) : (s.setRport p x).board = s.board := rfl
@[simp] theorem State.setRport_flash (p : Nat) (x : RidgePort) : (s.setRport p x).flash = s.flash := rfl
@[simp] theorem State.setRport_crestOp (p : Nat) (x : RidgePort) : (s.setRport p x).crestOp = s.crestOp := rfl
@[simp] theorem State.setRport_evcWaits (p : Nat) (x : RidgePort) : (s.setRport p x).evcWaits = s.evcWaits := rfl
@[simp] theorem State.setRport_chans (p : Nat) (x : RidgePort) : (s.setRport p x).chans = s.chans := rfl
@[simp] theorem State.setRport_ingress (p : Nat) (x : RidgePort) : (s.setRport p x).ingress = s.ingress := rfl
@[simp] theorem State.setRport_egress (p : Nat) (x : RidgePort) : (s.setRport p x).egress = s.egress := rfl
@[simp] theorem State.setRport_waking (p : Nat) (x : RidgePort) : (s.setRport p x).waking = s.waking := rfl
@[simp] theorem State.setRport_hre (p : Nat) (x : RidgePort) : (s.setRport p x).hre = s.hre := rfl
@[simp] theorem State.setRport_pcie (p : Nat) (x : RidgePort) : (s.setRport p x).pcie = s.pcie := rfl
@[simp] theorem State.setRport_net (p : Nat) (x : RidgePort) : (s.setRport p x).net = s.net := rfl

/-! ### Reading after an update -/

@[simp] theorem State.core_setCore (c d : CoreId) (k : Core) :
    (s.setCore c k).core d = if d = c then k else s.core d := by
  simp only [State.core, State.setCore, Tbl.getD_put, Fin.ext_iff]

@[simp] theorem State.core_modCore (c d : CoreId) (f : Core → Core) :
    (s.modCore c f).core d = if d = c then f (s.core c) else s.core d := State.core_setCore s c d _

@[simp] theorem State.unit_setUnit (u v w : Nat) : (s.setUnit u v).unit w = if w = u then v else s.unit w := by
  simp only [State.unit, State.setUnit, Tbl.getD_putD]

@[simp] theorem State.chan_setChan (n m : Nat) (x : Chan) : (s.setChan n x).chan m = if m = n then x else s.chan m := by
  simp only [State.chan, State.setChan, Tbl.getD_putD]

@[simp] theorem State.deepOf_setDeep (q p : Nat) (d : Deep) :
    (s.setDeep q d).deepOf p = if p = q then d else s.deepOf p := by
  simp only [State.deepOf, State.setDeep, Tbl.getD_putD]

@[simp] theorem State.ring_setRing (r t : Nat) (x : Ring) : (s.setRing r x).ring t = if t = r then x else s.ring t := by
  simp only [State.ring, State.setRing, Tbl.getD_putD]

@[simp] theorem State.cq_setCq (c d : Nat) (x : CqRing) : (s.setCq c x).cq d = if d = c then x else s.cq d := by
  simp only [State.cq, State.setCq, Tbl.getD_putD]

@[simp] theorem State.rport_setRport (p q : Nat) (x : RidgePort) :
    (s.setRport p x).rport q = if q = p then x else s.rport q := by
  simp only [State.rport, State.setRport, Tbl.getD_putD]

/-- A register that was just written. -/
@[simp] theorem State.reg_setR_same (n : RegName) (i : Nat) (w : Word) : (s.setR n i w).reg n i = w := by
  simp only [State.reg, State.setR, Tbl.getD_putD, if_true]

/-- A register at another offset. -/
theorem State.reg_setR_ne (n m : RegName) (i j : Nat) (w : Word) (h : m.offset j ≠ n.offset i) :
    (s.setR n i w).reg m j = s.reg m j := by
  simp only [State.reg, State.setR]
  unfold Tbl.putD
  split
  · simp only [Tbl.getD, Tbl.get?_del, if_neg h]
  · simp only [Tbl.getD, Tbl.get?_put, if_neg h]

/-- What only the setup registers say, an update of a core leaves. -/
@[simp] theorem State.reg_setCore (c : CoreId) (k : Core) (n : RegName) (i : Nat) : (s.setCore c k).reg n i = s.reg n i := rfl
@[simp] theorem State.fld_setCore (c : CoreId) (k : Core) (n : RegName) (i hi lo : Nat) :
    (s.setCore c k).fld n i hi lo = s.fld n i hi lo := rfl
@[simp] theorem State.flag_setCore (c : CoreId) (k : Core) (n : RegName) (i b : Nat) :
    (s.setCore c k).flag n i b = s.flag n i b := rfl
@[simp] theorem State.reg_modCore (c : CoreId) (f : Core → Core) (n : RegName) (i : Nat) :
    (s.modCore c f).reg n i = s.reg n i := rfl
@[simp] theorem State.fld_modCore (c : CoreId) (f : Core → Core) (n : RegName) (i hi lo : Nat) :
    (s.modCore c f).fld n i hi lo = s.fld n i hi lo := rfl
@[simp] theorem State.flag_modCore (c : CoreId) (f : Core → Core) (n : RegName) (i b : Nat) :
    (s.modCore c f).flag n i b = s.flag n i b := rfl
@[simp] theorem State.core_setR (n : RegName) (i : Nat) (w : Word) (c : CoreId) : (s.setR n i w).core c = s.core c := rfl
@[simp] theorem State.core_setF (n : RegName) (i hi lo v : Nat) (c : CoreId) : (s.setF n i hi lo v).core c = s.core c := rfl

end Sys2Proof.Machine
end

