-- ==== Sys2Proof/Laws/Bits.lean ====
section
/-! SUPPORT. Bit fields of a word: what a field reads after it, or another, is set; words of a tag and a value. -/

namespace Sys2Proof.Machine

open Sys2Proof

theorem bitsOf_lt (w : Word) (hi lo : Nat) : bitsOf w hi lo < 2 ^ (hi + 1 - lo) :=
  Nat.mod_lt _ (Nat.two_pow_pos _)

theorem testBit_bitsOf (w : Word) (hi lo i : Nat) :
    (bitsOf w hi lo).testBit i = (decide (i < hi + 1 - lo) && w.getLsbD (lo + i)) := by
  simp only [bitsOf, Nat.testBit_mod_two_pow, Nat.testBit_div_two_pow, BitVec.getLsbD]
  rw [Nat.add_comm i lo]

theorem getLsbD_withBits (w : Word) (hi lo v i : Nat) :
    (withBits w hi lo v).getLsbD i =
      (decide (i < 64) && (if lo ≤ i ∧ i < hi + 1 then v.testBit (i - lo) else w.getLsbD i)) := by
  simp only [withBits, BitVec.getLsbD_or, BitVec.getLsbD_and, BitVec.getLsbD_not, BitVec.getLsbD_ofNat,
    Nat.testBit_mul_two_pow, Nat.testBit_two_pow_sub_one, Nat.testBit_mod_two_pow]
  by_cases h : i < 64
  · by_cases h1 : lo ≤ i
    · by_cases h2 : i < hi + 1
      · have : i - lo < hi + 1 - lo := by omega
        simp [h, h1, h2, this]
      · have : ¬ i - lo < hi + 1 - lo := by omega
        simp [h, h1, h2, this]
    · simp [h, h1]
  · have : w.getLsbD i = false := BitVec.getLsbD_of_ge w i (by omega)
    simp [h, this]

/-- A field reads the value set, cut to its width. -/
@[simp] theorem bitsOf_withBits_same (w : Word) {hi lo : Nat} (v : Nat) (h : hi < 64) :
    bitsOf (withBits w hi lo v) hi lo = v % 2 ^ (hi + 1 - lo) := by
  apply Nat.eq_of_testBit_eq
  intro i
  rw [testBit_bitsOf, getLsbD_withBits, Nat.testBit_mod_two_pow]
  by_cases hi' : i < hi + 1 - lo
  · have a : lo + i < 64 := by omega
    have b : lo ≤ lo + i ∧ lo + i < hi + 1 := by omega
    simp [hi', a, b]
  · simp [hi']

/-- A field outside the one set reads as before. -/
theorem bitsOf_withBits_ne (w : Word) {hi lo h l : Nat} (v : Nat) (d : h < lo ∨ hi < l) :
    bitsOf (withBits w hi lo v) h l = bitsOf w h l := by
  apply Nat.eq_of_testBit_eq
  intro i
  rw [testBit_bitsOf, testBit_bitsOf, getLsbD_withBits]
  by_cases hi' : i < h + 1 - l
  · have b : ¬ (lo ≤ l + i ∧ l + i < hi + 1) := by omega
    simp only [hi', decide_true, Bool.true_and, b, if_false]
    by_cases c : l + i < 64
    · simp [c]
    · simp [c, BitVec.getLsbD_of_ge w (l + i) (by omega)]
  · simp [hi']

theorem bitOf_withBits_ne (w : Word) {hi lo i : Nat} (v : Nat) (d : i < lo ∨ hi < i) :
    bitOf (withBits w hi lo v) i = bitOf w i := by
  unfold bitOf
  rw [getLsbD_withBits]
  have b : ¬ (lo ≤ i ∧ i < hi + 1) := by omega
  simp only [b, if_false]
  by_cases c : i < 64
  · simp [c]
  · simp [c, BitVec.getLsbD_of_ge w i (by omega)]

theorem bitOf_withBits_in (w : Word) {hi lo i : Nat} (v : Nat) (h : i < 64) (d : lo ≤ i ∧ i ≤ hi) :
    bitOf (withBits w hi lo v) i = v.testBit (i - lo) := by
  unfold bitOf
  rw [getLsbD_withBits]
  have b : lo ≤ i ∧ i < hi + 1 := by omega
  simp [h, b]

@[simp] theorem tagOf_mkWord (t v : Nat) : tagOf (mkWord t v) = t % 256 := by
  simp only [tagOf, mkWord, bitsOf, BitVec.toNat_ofNat]
  have h : t % 256 * 2 ^ 56 + v % 2 ^ 56 < 2 ^ 64 := by omega
  omega

@[simp] theorem valOf_mkWord (t v : Nat) : valOf (mkWord t v) = v % 2 ^ 56 := by
  simp only [valOf, mkWord, bitsOf, BitVec.toNat_ofNat]
  omega

@[simp] theorem isFix_fixN (n : Nat) : isFix (fixN n) = true := by
  simp [isFix, fixN]

@[simp] theorem isFix_fix (i : Int) : isFix (fix i) = true := by
  simp [isFix, fix]

theorem isFix_iff (w : Word) : isFix w = true ↔ tagOf w = 0 := by
  simp [isFix]

/-! ### Fields of setup registers -/

variable (s : State)

@[simp] theorem State.fld_setF_same (n : RegName) (i lo v : Nat) {hi : Nat} (h : hi < 64) :
    (s.setF n i hi lo v).fld n i hi lo = v % 2 ^ (hi + 1 - lo) := by
  simp only [State.fld, State.setF, State.reg_setR_same, bitsOf_withBits_same _ _ h]

/-- Another field of the register. -/
theorem State.fld_setF_field (n : RegName) (i hi lo v h l : Nat) (d : h < lo ∨ hi < l) :
    (s.setF n i hi lo v).fld n i h l = s.fld n i h l := by
  simp only [State.fld, State.setF, State.reg_setR_same, bitsOf_withBits_ne _ _ d]

theorem State.flag_setF_field (n : RegName) (i hi lo v b : Nat) (d : b < lo ∨ hi < b) :
    (s.setF n i hi lo v).flag n i b = s.flag n i b := by
  simp only [State.flag, State.setF, State.reg_setR_same, bitOf_withBits_ne _ _ d]

theorem State.flag_setF_in (n : RegName) (i hi lo v b : Nat) (h : b < 64) (d : lo ≤ b ∧ b ≤ hi) :
    (s.setF n i hi lo v).flag n i b = v.testBit (b - lo) := by
  simp only [State.flag, State.setF, State.reg_setR_same, bitOf_withBits_in _ _ h d]

/-- A field of a register at another offset. -/
theorem State.fld_setF_ne (n m : RegName) (i hi lo v j h l : Nat) (d : m.offset j ≠ n.offset i) :
    (s.setF n i hi lo v).fld m j h l = s.fld m j h l := by
  simp only [State.fld, State.setF, State.reg_setR_ne s n m i j _ d]

theorem State.flag_setF_ne (n m : RegName) (i hi lo v j b : Nat) (d : m.offset j ≠ n.offset i) :
    (s.setF n i hi lo v).flag m j b = s.flag m j b := by
  simp only [State.flag, State.setF, State.reg_setR_ne s n m i j _ d]

end Sys2Proof.Machine
end

