-- ==== Sys2Proof/Laws/Memory.lean ====
section
/-! SUPPORT. Physical memory: a byte read after a write, and the canonical form kept by every operation that
writes memory. -/

namespace Sys2Proof.Machine

open Sys2Proof

/-- A read of one byte after a write of one byte. -/
@[simp] theorem readByte_writeByte (s : State) (a b : Nat) (v : Byte) :
    readByte (writeByte s a v) b = if b = a then v else readByte s b := by
  simp only [readByte, writeByte, Tbl.getD_putD]

/-- Bytes outside a written span read as before. -/
theorem readByte_writeBytes_out (s : State) (a : Nat) (bs : List Byte) (b : Nat)
    (h : b < a ∨ a + bs.length ≤ b) : readByte (writeBytes s a bs) b = readByte s b := by
  induction bs generalizing s a with
  | nil => rfl
  | cons x bs ih =>
    simp only [List.length_cons] at h
    rw [writeBytes, ih _ _ (by omega), readByte_writeByte, if_neg (by omega)]

/-- Byte i of a written span reads as written. -/
theorem readByte_writeBytes_in (s : State) (a : Nat) (bs : List Byte) (i : Nat) (h : i < bs.length) :
    readByte (writeBytes s a bs) (a + i) = bs[i] := by
  induction bs generalizing s a i with
  | nil => simp at h
  | cons x bs ih =>
    cases i with
    | zero => rw [writeBytes, readByte_writeBytes_out _ _ _ _ (by omega)]; simp
    | succ i =>
      have hi : i < bs.length := by simpa using h
      have := ih (writeByte s a x) (a + 1) i hi
      rw [writeBytes, show a + (i + 1) = a + 1 + i by omega, this]; rfl

/-- The canonical form of the state's memory. -/
@[reducible] def State.Canonical (s : State) : Prop := Memory.wf s.mem = true

theorem Memory.wf_putD {m : List Host.Cell} (h : Memory.wf m = true) (a : Nat) (b : Byte) :
    Memory.wf (Tbl.putD m memDefault a b) = true := by
  simp only [Memory.wf, Bool.and_eq_true] at *
  unfold Tbl.putD
  split
  · exact ⟨Tbl.del_rising a h.1, Tbl.all_del a h.2⟩
  · next hb => exact ⟨Tbl.put_rising b h.1 rfl, Tbl.all_put h.2 (by simpa using hb)⟩

theorem Memory.wf_filter {m : List Host.Cell} (h : Memory.wf m = true) (f : Host.Cell → Bool) :
    Memory.wf (m.filter f) = true := by
  simp only [Memory.wf, Bool.and_eq_true] at *
  exact ⟨Tbl.filter_rising f h.1, Tbl.all_filter f h.2⟩

theorem writeByte_canonical {s : State} (h : s.Canonical) (a : Nat) (b : Byte) : (writeByte s a b).Canonical :=
  Memory.wf_putD h a b

theorem writeBytes_canonical {s : State} (h : s.Canonical) (a : Nat) (bs : List Byte) :
    (writeBytes s a bs).Canonical := by
  induction bs generalizing s a with
  | nil => exact h
  | cons b bs ih => exact ih (writeByte_canonical h a b) (a + 1)

theorem reset_canonical : State.reset.Canonical := rfl

end Sys2Proof.Machine
end

