-- ==== Sys2Proof/Laws/Keeps.lean ====
section
/-! SUPPORT. Steps of the instruction monads that keep memory in its canonical form. -/

namespace Sys2Proof.Machine

open Sys2Proof

/-- Whatever m answers, a canonical memory stays canonical. -/
structure Keeps {ε α : Type} (m : StateT State (Except ε) α) : Prop where
  canonical : ∀ s a t, s.Canonical → m s = .ok (a, t) → t.Canonical

variable {ε α β : Type}

theorem Keeps.pure (a : α) : Keeps (Pure.pure a : StateT State (Except ε) α) := by
  constructor; intro s b t h e; cases e; exact h

theorem Keeps.bind {m : StateT State (Except ε) α} {f : α → StateT State (Except ε) β}
    (hm : Keeps m) (hf : ∀ a, Keeps (f a)) : Keeps (m >>= f) := by
  constructor
  intro s b t h e
  change (StateT.bind m f s) = _ at e
  unfold StateT.bind at e
  change Except.bind _ _ = _ at e
  cases hx : m s with
  | error x => rw [hx] at e; cases e
  | ok r => obtain ⟨a, u⟩ := r; rw [hx] at e; exact (hf a).canonical u b t (hm.canonical s a u h hx) e

theorem Keeps.map {m : StateT State (Except ε) α} {f : α → β} (hm : Keeps m) : Keeps (f <$> m) :=
  Keeps.bind hm (fun a => Keeps.pure (f a))

theorem Keeps.ite {c : Prop} [Decidable c] {m n : StateT State (Except ε) α} (hm : Keeps m) (hn : Keeps n) :
    Keeps (if c then m else n) := by split <;> assumption

theorem Keeps.error (x : ε) : Keeps (fun _ => .error x : StateT State (Except ε) α) := by
  constructor; intro s a t _ e; cases e

theorem Keeps.read (f : State → α) : Keeps (fun s => .ok (f s, s) : StateT State (Except ε) α) := by
  constructor; intro s a t h e; cases e; exact h

theorem Keeps.mapM {f : α → StateT State (Except ε) β} (hf : ∀ a, Keeps (f a)) (l : List α) : Keeps (l.mapM f) := by
  induction l with
  | nil => rw [List.mapM_nil]; exact Keeps.pure _
  | cons a l ih =>
    rw [List.mapM_cons]
    exact Keeps.bind (hf a) (fun _ => Keeps.bind ih (fun _ => Keeps.pure _))

/-- What the second of two steps answers, it answers on what the first did. -/
theorem except_bind_ok {x : Except ε α} {f : α → Except ε β} {r : β} (e : (x >>= f) = .ok r) :
    ∃ a, x = .ok a ∧ f a = .ok r := by
  cases x with
  | error y => cases e
  | ok a => exact ⟨a, rfl, e⟩

theorem canonical_of_mem {s t : State} (h : s.Canonical) (e : t.mem = s.mem) : t.Canonical := by
  unfold State.Canonical; rw [e]; exact h

theorem canonical_fst {s : State} (h : s.Canonical) (a : α) : (s, a).1.Canonical := h

theorem canonical_snd {s : State} (h : s.Canonical) (a : α) : (a, s).2.Canonical := h

theorem foldl_canonical {f : State → α → State} (hf : ∀ s a, s.Canonical → (f s a).Canonical) (l : List α)
    {s : State} (h : s.Canonical) : (l.foldl f s).Canonical := by
  induction l generalizing s with
  | nil => exact h
  | cons a l ih => exact ih (hf s a h)

end Sys2Proof.Machine
end

