-- ==== Sys2Proof/Laws/KeepsMemory.lean ====
section
/-! SUPPORT. Memory stays canonical: the memory operations, translation and the heap. One lemma per operation. -/

namespace Sys2Proof.Machine

open Sys2Proof

/-! ### Ops -/

theorem writeByte_keeps (s : State) (a : Nat) (b : Byte) (hC : s.Canonical) : (writeByte s a b).Canonical := by
  exact writeByte_canonical hC a b

theorem writeBytes_keeps (s : State) (x1 : Nat) (x2 : List Byte) (hC : s.Canonical) : (writeBytes s x1 x2).Canonical := by
  exact writeBytes_canonical hC _ _

theorem writeWord_keeps (s : State) (a : Nat) (w : Word) (hC : s.Canonical) : (writeWord s a w).Canonical := by
  grind [writeWord, ← writeBytes_keeps, foldl_canonical]

theorem setPoison_keeps (s : State) (a : Nat) (hC : s.Canonical) : (setPoison s a).Canonical := by
  grind [setPoison, foldl_canonical]

theorem clearPoison_keeps (s : State) (a : Nat) (hC : s.Canonical) : (clearPoison s a).Canonical := by
  grind [clearPoison, foldl_canonical]

theorem writeGranule_keeps (s : State) (a : Nat) (bs : List Byte) (hC : s.Canonical) : ((writeGranule s a bs).1).Canonical := by
  grind [writeGranule, ← writeBytes_keeps, ← clearPoison_keeps, foldl_canonical]

theorem writeGranule_keeps_eq (s : State) (a : Nat) (bs : List Byte) (hC : s.Canonical) {a0 a1} (eR : writeGranule s a bs = (a0, a1)) : a0.Canonical := by
  have := writeGranule_keeps s a bs hC; rw [eR] at this; exact this

theorem writeSpanF_keeps (x1 : Nat) (x2 : State) (x3 : Nat) (x4 : List Byte) (hC : x2.Canonical) : ((writeSpanF x1 x2 x3 x4).1).Canonical := by
  fun_induction writeSpanF x1 x2 x3 x4 <;> grind [writeSpanF, ← writeGranule_keeps, → writeGranule_keeps_eq, foldl_canonical]

theorem writeSpanF_keeps_eq (x1 : Nat) (x2 : State) (x3 : Nat) (x4 : List Byte) (hC : x2.Canonical) {a0 a1} (eR : writeSpanF x1 x2 x3 x4 = (a0, a1)) : a0.Canonical := by
  have := writeSpanF_keeps x1 x2 x3 x4 hC; rw [eR] at this; exact this

theorem writeSpan_keeps (s : State) (a : Nat) (bs : List Byte) (hC : s.Canonical) : ((writeSpan s a bs).1).Canonical := by
  grind [writeSpan, ← writeSpanF_keeps, → writeSpanF_keeps_eq, foldl_canonical]

theorem writeSpan_keeps_eq (s : State) (a : Nat) (bs : List Byte) (hC : s.Canonical) {a0 a1} (eR : writeSpan s a bs = (a0, a1)) : a0.Canonical := by
  have := writeSpan_keeps s a bs hC; rw [eR] at this; exact this

theorem State.setCore_keeps (s : State) (c : CoreId) (k : Core) (hC : s.Canonical) : (State.setCore s c k).Canonical := by
  grind [State.setCore, foldl_canonical]

theorem State.modCore_keeps (s : State) (c : CoreId) (f : Core → Core) (hC : s.Canonical) : (State.modCore s c f).Canonical := by
  grind [State.modCore, ← State.setCore_keeps, foldl_canonical]

theorem takeFree_keeps (s : State) (hC : s.Canonical) : ((takeFree s).2).Canonical := by
  grind [takeFree, foldl_canonical]

theorem takeFree_keeps_eq (s : State) (hC : s.Canonical) {a0 a1} (eR : takeFree s = (a0, a1)) : a1.Canonical := by
  have := takeFree_keeps s hC; rw [eR] at this; exact this

/-! ### Setup -/

theorem State.setR_keeps (s : State) (n : RegName) (i : Nat) (w : Word) (hC : s.Canonical) : (State.setR s n i w).Canonical := by
  grind [State.setR, foldl_canonical]

theorem State.setF_keeps (s : State) (n : RegName) (i hi lo v : Nat) (hC : s.Canonical) : (State.setF s n i hi lo v).Canonical := by
  grind [State.setF, ← State.setR_keeps, foldl_canonical]

/-! ### Signals -/

theorem State.setUnit_keeps (s : State) (u v : Nat) (hC : s.Canonical) : (State.setUnit s u v).Canonical := by
  grind [State.setUnit, foldl_canonical]

theorem pulse_keeps (s : State) (n : Nat) (hC : s.Canonical) : (pulse s n).Canonical := by
  grind [pulse, ← State.setR_keeps, foldl_canonical]

theorem logCairn_keeps (s : State) (info addr : RegName) (i pa : Nat) (e : CairnError) (hC : s.Canonical) : (logCairn s info addr i pa e).Canonical := by
  grind [logCairn, ← State.setR_keeps, foldl_canonical]

theorem spoil_keeps (s : State) (pa : Nat) (d : BitVec 128) (hC : s.Canonical) : (spoil s pa d).Canonical := by
  grind [spoil, ← writeBytes_keeps, foldl_canonical]

theorem blockError_keeps (s : State) (pa : Nat) (e : CairnError) (hC : s.Canonical) : (blockError s pa e).Canonical := by
  grind [blockError, ← pulse_keeps, ← logCairn_keeps, foldl_canonical]

theorem storageCheck_keeps (s : State) (pa src : Nat) (e : Codeword) (hC : s.Canonical) : (storageCheck s pa src e).Canonical := by
  grind [storageCheck, ← setPoison_keeps, ← spoil_keeps, ← blockError_keeps, foldl_canonical]

theorem poisonConsumed_keeps (s : State) (pa : Nat) (hC : s.Canonical) : (poisonConsumed s pa).Canonical := by
  grind [poisonConsumed, ← pulse_keeps, ← logCairn_keeps, foldl_canonical]

theorem consumeSpan_keeps (s : State) (pa n : Nat) (hC : s.Canonical) : (consumeSpan s pa n).Canonical := by
  grind [consumeSpan, ← poisonConsumed_keeps, foldl_canonical]

/-! ### DeepCache -/

theorem State.setDeep_keeps (s : State) (q : Nat) (d : Deep) (hC : s.Canonical) : (State.setDeep s q d).Canonical := by
  grind [State.setDeep, foldl_canonical]

theorem deepTouch_keeps (s : State) (q cls line : Nat) (wr : Bool) (hC : s.Canonical) : (deepTouch s q cls line wr).Canonical := by
  grind [deepTouch, ← State.setDeep_keeps, foldl_canonical]

theorem cacheTouch_keeps (s : State) (cls pa n : Nat) (wr : Bool) (hC : s.Canonical) : (cacheTouch s cls pa n wr).Canonical := by
  grind [cacheTouch, ← deepTouch_keeps, foldl_canonical]

theorem clearTimedOut_keeps (s : State) (line : Nat) (hC : s.Canonical) : (clearTimedOut s line).Canonical := by
  grind [clearTimedOut, ← State.setDeep_keeps, foldl_canonical]

theorem addFlight_keeps (s : State) (f : Flight) (hC : s.Canonical) : (addFlight s f).Canonical := by
  grind [addFlight, foldl_canonical]

theorem waitFlight_keeps (s : State) (m : Master) (pa n : Nat) (hC : s.Canonical) : (waitFlight s m pa n).Canonical := by
  grind [waitFlight, ← addFlight_keeps, foldl_canonical]

theorem endFlight_keeps (s : State) (c : CoreId) (pa n : Nat) (hC : s.Canonical) : (endFlight s c pa n).Canonical := by
  grind [endFlight, foldl_canonical]

theorem removeLine_keeps (s : State) (writer : Option CoreId) (line : Nat) (hC : s.Canonical) : (removeLine s writer line).Canonical := by
  grind [removeLine, foldl_canonical]

theorem enterDirectory_keeps (s : State) (line : Nat) (hC : s.Canonical) : (enterDirectory s line).Canonical := by
  grind [enterDirectory, foldl_canonical]

theorem touchL1_keeps (s : State) (c : CoreId) (fetch : Bool) (line : Nat) (hC : s.Canonical) : (touchL1 s c fetch line).Canonical := by
  grind [touchL1, ← State.modCore_keeps, ← enterDirectory_keeps, foldl_canonical]

theorem removeLines_keeps (s : State) (writer : Option CoreId) (pa n : Nat) (hC : s.Canonical) : (removeLines s writer pa n).Canonical := by
  grind [removeLines, ← removeLine_keeps, foldl_canonical]

theorem performWrite_keeps (s : State) (cls : Nat) (writer : Option CoreId) (pa : Nat) (bs : List Byte) (hC : s.Canonical) : ((performWrite s cls writer pa bs).1).Canonical := by
  grind [performWrite, ← writeSpan_keeps, → writeSpan_keeps_eq, ← cacheTouch_keeps, ← removeLines_keeps, foldl_canonical]

theorem performWrite_keeps_eq (s : State) (cls : Nat) (writer : Option CoreId) (pa : Nat) (bs : List Byte) (hC : s.Canonical) {a0 a1} (eR : performWrite s cls writer pa bs = (a0, a1)) : a0.Canonical := by
  have := performWrite_keeps s cls writer pa bs hC; rw [eR] at this; exact this

theorem putWord_keeps (s : State) (cls pa : Nat) (w : Word) (hC : s.Canonical) : (putWord s cls pa w).Canonical := by
  grind [putWord, ← performWrite_keeps, → performWrite_keeps_eq, foldl_canonical]

/-! ### Translate -/

theorem touchWalk_keeps (s : State) (cls : Nat → Nat) (space va : Nat) (hC : s.Canonical) : (touchWalk s cls space va).Canonical := by
  grind [touchWalk, ← cacheTouch_keeps, foldl_canonical]

theorem fillL1_keeps (s : State) (c : CoreId) (fetch : Bool) (e : TlbEntry) (hC : s.Canonical) : (fillL1 s c fetch e).Canonical := by
  grind [fillL1, ← State.modCore_keeps, foldl_canonical]

theorem installCore_keeps (s : State) (c : CoreId) (fetch : Bool) (e : TlbEntry) (hC : s.Canonical) : (installCore s c fetch e).Canonical := by
  grind [installCore, ← fillL1_keeps, foldl_canonical]

theorem invalidate_keeps (s : State) (i : Inval) (hC : s.Canonical) : (invalidate s i).Canonical := by
  grind [invalidate, foldl_canonical]

theorem edgeInstall_keeps (s : State) (cls : Nat) (e : TlbEntry) (hC : s.Canonical) : (edgeInstall s cls e).Canonical := by
  grind [edgeInstall, foldl_canonical]

theorem touchPage_keeps (s : State) (cls space va : Nat) (hC : s.Canonical) : (touchPage s cls space va).Canonical := by
  grind [touchPage, ← putWord_keeps, ← touchWalk_keeps, ← edgeInstall_keeps, foldl_canonical]

theorem touchData_keeps (s : State) (cls space va n : Nat) (hC : s.Canonical) : (touchData s cls space va n).Canonical := by
  grind [touchData, ← cacheTouch_keeps, foldl_canonical]

theorem touchEdge_keeps (s : State) (cls space va n : Nat) (hC : s.Canonical) : (touchEdge s cls space va n).Canonical := by
  grind [touchEdge, ← touchPage_keeps, ← touchData_keeps, foldl_canonical]

theorem setPool_keeps (s : State) (n : Nat) (l : List Nat) (hC : s.Canonical) : (setPool s n l).Canonical := by
  grind [setPool, ← State.setF_keeps, foldl_canonical]

theorem takePage_keeps (s : State) (n : Nat) (hC : s.Canonical) {rR} (eR : takePage s n = some rR) : (rR.2).Canonical := by
  unfold takePage at eR; grind [← setPool_keeps, foldl_canonical]

theorem givePage_keeps (s : State) (pa : Nat) (hC : s.Canonical) : (givePage s pa).Canonical := by
  grind [givePage, ← setPool_keeps, foldl_canonical]

theorem copyGranules_keeps (s : State) (x1 : Nat) (x2 : Nat) (x3 : Nat) (hC : s.Canonical) : (copyGranules s x1 x2 x3).Canonical := by
  fun_induction copyGranules s x1 x2 x3 <;> grind [← writeBytes_keeps, ← setPoison_keeps, ← clearPoison_keeps, foldl_canonical]

theorem copyPage_keeps (s : State) (cls src dst : Nat) (hC : s.Canonical) : (copyPage s cls src dst).Canonical := by
  grind [copyPage, ← cacheTouch_keeps, ← removeLines_keeps, ← copyGranules_keeps, foldl_canonical]

theorem pointLevel2_keeps (s : State) (cls va t3 : Nat) (x1 : List Nat) (hC : s.Canonical) : (pointLevel2 s cls va t3 x1).Canonical := by
  fun_induction pointLevel2 s cls va t3 x1 <;> grind [← putWord_keeps, foldl_canonical]

theorem copyOnWrite_keeps (s : State) (cls va : Nat) (leaf : Word) (leafPa : Nat) (hC : s.Canonical) {rR} (eR : copyOnWrite s cls va leaf leafPa = some rR) : (rR.1).Canonical := by
  unfold copyOnWrite at eR
  dsimp only at eR
  split at eR
  · cases eR; exact invalidate_keeps _ _ (putWord_keeps _ _ _ _ hC)
  · have key : ∀ t1 : State, t1.Canonical → (match takePage t1 (poolOf (16384 * leafPpn leaf)) with
        | none => none
        | some (p, s2) =>
          some (invalidate (putWord (copyPage s2 cls (16384 * leafPpn leaf) p) cls leafPa (withBits (withBits leaf 39 10 (p / 16384)) 55 40 (globalEpoch s))) ⟨4, 0, va / 16384⟩, (withBits (withBits leaf 39 10 (p / 16384)) 55 40 (globalEpoch s)))) = some rR → rR.1.Canonical := by
      intro t1 ht1 e
      split at e
      · cases e
      · next p s2 he => rw [← Option.some.inj e]; exact invalidate_keeps _ _ (putWord_keeps _ _ _ _ (copyPage_keeps _ _ _ _ (takePage_keeps _ _ ht1 he)))
    split at eR
    · cases eR
    · next s1 hs1 =>
      refine key s1 ?_ eR
      split at hs1
      · cases hs1; exact hC
      · split at hs1
        · cases hs1
        · next t3 s2 he => cases hs1; exact pointLevel2_keeps _ _ _ _ _ (copyPage_keeps _ _ _ _ (takePage_keeps _ _ hC he))

theorem stopM_keeps {α : Type} (x : Stop) : Keeps (stopM x : M α) := by
  exact Keeps.error _

theorem stopM_keeps_ok {α : Type} (x : Stop) {sA vA sB} (hA : State.Canonical sA) (eA : (stopM x : M α) sA = .ok (vA, sB)) : State.Canonical sB :=
  (stopM_keeps x).canonical sA vA sB hA eA

theorem trapM_keeps {α : Type} (t : Trap) : Keeps (trapM t : M α) := by
  exact Keeps.error _

theorem trapM_keeps_ok {α : Type} (t : Trap) {sA vA sB} (hA : State.Canonical sA) (eA : (trapM t : M α) sA = .ok (vA, sB)) : State.Canonical sB :=
  (trapM_keeps t).canonical sA vA sB hA eA

theorem walkUpdate_keeps (s : State) (c : CoreId) (space va : Nat) (acc : Acc) (byteAcc : Bool) (hC : s.Canonical) {rR} (eR : walkUpdate s c space va acc byteAcc = .ok rR) : (rR.2).Canonical := by
  unfold walkUpdate at eR; grind [← putWord_keeps, ← touchWalk_keeps, ← installCore_keeps, foldl_canonical]

theorem tlbLookup_keeps (s : State) (c : CoreId) (fetch : Bool) (space va : Nat) (hC : s.Canonical) {rR} (eR : tlbLookup s c fetch space va = some rR) : (rR.2).Canonical := by
  unfold tlbLookup at eR; grind [← fillL1_keeps, foldl_canonical]

theorem findEntry_keeps (s : State) (c : CoreId) (space va : Nat) (acc : Acc) (byteAcc : Bool) (hC : s.Canonical) {rR} (eR : findEntry s c space va acc byteAcc = .ok rR) : (rR.2).Canonical := by
  unfold findEntry at eR; grind [→ walkUpdate_keeps, → tlbLookup_keeps, foldl_canonical]

theorem translateEntry_keeps (s : State) (c : CoreId) (space va : Nat) (acc : Acc) (byteAcc : Bool) (hC : s.Canonical) {rR} (eR : translateEntry s c space va acc byteAcc = .ok rR) : (rR.2).Canonical := by
  unfold translateEntry at eR; grind [← installCore_keeps, → copyOnWrite_keeps, → findEntry_keeps, foldl_canonical]

theorem translate_keeps (s : State) (c : CoreId) (va : Nat) (acc : Acc) (byteAcc : Bool) (hC : s.Canonical) {rR} (eR : translate s c va acc byteAcc = .ok rR) : (rR.2).Canonical := by
  unfold translate at eR; grind [→ translateEntry_keeps, foldl_canonical]

/-! ### Heap -/

theorem setDesc_keeps (s : State) (r : Nat) (w : Word) (hC : s.Canonical) : (setDesc s r w).Canonical := by
  grind [setDesc, ← putWord_keeps, foldl_canonical]

theorem descField_keeps (s : State) (r hi lo v : Nat) (hC : s.Canonical) : (descField s r hi lo v).Canonical := by
  grind [descField, ← setDesc_keeps, foldl_canonical]

theorem setBstate_keeps (s : State) (r v : Nat) (hC : s.Canonical) : (setBstate s r v).Canonical := by
  grind [setBstate, ← descField_keeps, foldl_canonical]

theorem bitmapSet_keeps (s : State) (base i : Nat) (b : Bool) (hC : s.Canonical) : (bitmapSet s base i b).Canonical := by
  grind [bitmapSet, ← performWrite_keeps, → performWrite_keeps_eq, foldl_canonical]

theorem setStart_keeps (s : State) (va : Nat) (b : Bool) (hC : s.Canonical) : (setStart s va b).Canonical := by
  grind [setStart, ← bitmapSet_keeps, foldl_canonical]

theorem clearBitmap_keeps (s : State) (base r : Nat) (hC : s.Canonical) : (clearBitmap s base r).Canonical := by
  grind [clearBitmap, ← performWrite_keeps, → performWrite_keeps_eq, foldl_canonical]

theorem setMark_keeps (s : State) (va : Nat) (hC : s.Canonical) : (setMark s va).Canonical := by
  grind [setMark, ← descField_keeps, ← bitmapSet_keeps, ← clearBitmap_keeps, foldl_canonical]

theorem withEngine_keeps (s : State) (t : Nat) (hC : s.Canonical) : (withEngine s t).Canonical := by
  grind [withEngine, foldl_canonical]

theorem heapTouch_keeps (s : State) (va n : Nat) (hC : s.Canonical) : (heapTouch s va n).Canonical := by
  grind [heapTouch, ← touchEdge_keeps, foldl_canonical]

theorem logAtEngine_keeps (s : State) (old : Word) (hC : s.Canonical) : (logAtEngine s old).Canonical := by
  grind [logAtEngine, foldl_canonical]

theorem logSpan_keeps (s : State) (pa n : Nat) (hC : s.Canonical) : (logSpan s pa n).Canonical := by
  grind [logSpan, ← logAtEngine_keeps, foldl_canonical]

theorem edgeWriteEntry_keeps (s : State) (space cls : Nat) (tagged : Bool) (va : Nat) (hC : s.Canonical) {rR} (eR : edgeWriteEntry s space cls tagged va = .ok rR) : (rR.1).Canonical := by
  unfold edgeWriteEntry at eR
  dsimp only at eR
  have slow : (match masterWalk s space va 3 with
    | .error _ => .error s
    | .ok (leaf, pa) =>
      if !bitOf leaf 5 || (tagged && bitOf leaf 7) || devicePa (16384 * leafPpn leaf) then .error s else
      let dirty := withBits leaf 4 3 3
      let s00 := touchWalk s (fun _ => cls % 8) space va
      let s0 := if dirty == leaf then s00 else putWord s00 (cls % 8) pa dirty
      let cow : Option (State × Word) :=
        if leafEpoch dirty == globalEpoch s0 then some (s0, dirty) else copyOnWrite s0 (cls % 8) va dirty pa
      match cow with
      | none => .error (s0.setF .cfgCrest 0 59 59 1)
      | some (s1, w) => .ok (edgeInstall s1 cls (entryOfLeaf space va w pa), leafPpn w) : Except State (State × Nat)) = .ok rR → rR.1.Canonical := by
    intro e
    split at e
    · cases e
    · next leaf pa _ =>
      split at e
      · cases e
      · dsimp only at e
        have h0 : (if withBits leaf 4 3 3 == leaf then touchWalk s (fun _ => cls % 8) space va else putWord (touchWalk s (fun _ => cls % 8) space va) (cls % 8) pa (withBits leaf 4 3 3)).Canonical := by
          split
          · exact touchWalk_keeps _ _ _ _ hC
          · exact putWord_keeps _ _ _ _ (touchWalk_keeps _ _ _ _ hC)
        generalize (if withBits leaf 4 3 3 == leaf then touchWalk s (fun _ => cls % 8) space va else putWord (touchWalk s (fun _ => cls % 8) space va) (cls % 8) pa (withBits leaf 4 3 3)) = s0 at e h0
        split at e
        · cases e
        · next s1 w hc =>
          cases e
          apply edgeInstall_keeps
          split at hc
          · cases hc; exact h0
          · exact copyOnWrite_keeps _ _ _ _ _ h0 hc
  split at eR
  · split at eR
    · cases eR
    · split at eR
      · cases eR; exact hC
      · exact slow eR
  · exact slow eR

theorem edgeWriteEntry_keeps_err (s : State) (space cls : Nat) (tagged : Bool) (va : Nat) (hC : s.Canonical) {rR} (eR : edgeWriteEntry s space cls tagged va = .error rR) : (rR).Canonical := by
  unfold edgeWriteEntry at eR
  dsimp only at eR
  have slow : (match masterWalk s space va 3 with
    | .error _ => .error s
    | .ok (leaf, pa) =>
      if !bitOf leaf 5 || (tagged && bitOf leaf 7) || devicePa (16384 * leafPpn leaf) then .error s else
      let dirty := withBits leaf 4 3 3
      let s00 := touchWalk s (fun _ => cls % 8) space va
      let s0 := if dirty == leaf then s00 else putWord s00 (cls % 8) pa dirty
      let cow : Option (State × Word) :=
        if leafEpoch dirty == globalEpoch s0 then some (s0, dirty) else copyOnWrite s0 (cls % 8) va dirty pa
      match cow with
      | none => .error (s0.setF .cfgCrest 0 59 59 1)
      | some (s1, w) => .ok (edgeInstall s1 cls (entryOfLeaf space va w pa), leafPpn w) : Except State (State × Nat)) = .error rR → rR.Canonical := by
    intro e
    split at e
    · cases e; exact hC
    · next leaf pa _ =>
      split at e
      · cases e; exact hC
      · dsimp only at e
        have h0 : (if withBits leaf 4 3 3 == leaf then touchWalk s (fun _ => cls % 8) space va else putWord (touchWalk s (fun _ => cls % 8) space va) (cls % 8) pa (withBits leaf 4 3 3)).Canonical := by
          split
          · exact touchWalk_keeps _ _ _ _ hC
          · exact putWord_keeps _ _ _ _ (touchWalk_keeps _ _ _ _ hC)
        generalize (if withBits leaf 4 3 3 == leaf then touchWalk s (fun _ => cls % 8) space va else putWord (touchWalk s (fun _ => cls % 8) space va) (cls % 8) pa (withBits leaf 4 3 3)) = s0 at e h0
        split at e
        · cases e; exact State.setF_keeps _ _ _ _ _ _ h0
        · next s1 w hc =>
          cases e
  split at eR
  · split at eR
    · cases eR; exact hC
    · split at eR
      · cases eR
      · exact slow eR
  · exact slow eR

theorem writeEnd_keeps (r : State × Bool) (h_r : r.1.Canonical) {rR} (eR : writeEnd r = .ok rR) : (rR).Canonical := by
  unfold writeEnd at eR; split at eR
  · cases eR
  · cases eR; exact h_r

theorem writeEnd_keeps_err (r : State × Bool) (h_r : r.1.Canonical) {rR} (eR : writeEnd r = .error rR) : (rR).Canonical := by
  unfold writeEnd at eR; split at eR
  · cases eR; exact h_r
  · cases eR

theorem masterWrite_keeps (s : State) (space cls : Nat) (tagged : Bool) (va : Nat) (bs : List Byte) (hC : s.Canonical) {rR} (eR : masterWrite s space cls tagged va bs = .ok rR) : (rR).Canonical := by
  unfold masterWrite at eR
  split at eR
  · cases eR
  · split at eR
    · split at eR
      · exact writeEnd_keeps _ (performWrite_keeps _ _ _ _ _ hC) eR
      · cases eR
    · split at eR
      · next s1 he => cases eR
      · next s1 ppn he =>
        have h1 := edgeWriteEntry_keeps _ _ _ _ _ hC he
        dsimp only at eR
        split at eR
        · exact writeEnd_keeps _ (performWrite_keeps _ _ _ _ _ h1) eR
        · cases eR

theorem masterWrite_keeps_err (s : State) (space cls : Nat) (tagged : Bool) (va : Nat) (bs : List Byte) (hC : s.Canonical) {rR} (eR : masterWrite s space cls tagged va bs = .error rR) : (rR).Canonical := by
  unfold masterWrite at eR
  split at eR
  · cases eR; exact hC
  · split at eR
    · split at eR
      · exact writeEnd_keeps_err _ (performWrite_keeps _ _ _ _ _ hC) eR
      · cases eR; exact hC
    · split at eR
      · next s1 he => cases eR; exact edgeWriteEntry_keeps_err _ _ _ _ _ hC he
      · next s1 ppn he =>
        have h1 := edgeWriteEntry_keeps _ _ _ _ _ hC he
        dsimp only at eR
        split at eR
        · exact writeEnd_keeps_err _ (performWrite_keeps _ _ _ _ _ h1) eR
        · cases eR; exact h1

theorem masterWriteSpan_keeps (x1 : Nat) (x2 : State) (x3 : Nat) (x4 : Nat) (x5 : Bool) (x6 : Nat) (x7 : List Byte) (hC : x2.Canonical) {rR} (eR : masterWriteSpan x1 x2 x3 x4 x5 x6 x7 = .ok rR) : (rR).Canonical := by
  fun_induction masterWriteSpan x1 x2 x3 x4 x5 x6 x7 <;> grind [→ masterWrite_keeps, → masterWrite_keeps_err]

theorem masterWriteSpan_keeps_err (x1 : Nat) (x2 : State) (x3 : Nat) (x4 : Nat) (x5 : Bool) (x6 : Nat) (x7 : List Byte) (hC : x2.Canonical) {rR} (eR : masterWriteSpan x1 x2 x3 x4 x5 x6 x7 = .error rR) : (rR).Canonical := by
  fun_induction masterWriteSpan x1 x2 x3 x4 x5 x6 x7 <;> grind [→ masterWrite_keeps, → masterWrite_keeps_err, → masterWriteSpan_keeps]

theorem heapWriteAs_keeps (s : State) (tagged : Bool) (va : Nat) (bs : List Byte) (hC : s.Canonical) {rR} (eR : heapWriteAs s tagged va bs = some rR) : (rR).Canonical := by
  unfold heapWriteAs at eR
  cases h : masterWriteSpan (bs.length + 1) s (heapSpace s) 2 tagged va bs with
  | error x => rw [h] at eR; cases eR
  | ok x => rw [h] at eR; cases eR; exact masterWriteSpan_keeps _ _ _ _ _ _ _ hC h

theorem heapWrite_keeps (s : State) (va : Nat) (bs : List Byte) (hC : s.Canonical) {rR} (eR : heapWrite s va bs = some rR) : (rR).Canonical := by
  unfold heapWrite at eR; grind [→ heapWriteAs_keeps, foldl_canonical]

theorem countFree_keeps (s : State) (hC : s.Canonical) : (countFree s).Canonical := by
  grind [countFree, ← State.setF_keeps, foldl_canonical]

theorem clearNew_keeps (s : State) (x1 : Nat) (hC : s.Canonical) : (clearNew s x1).Canonical := by
  fun_induction clearNew s x1 <;> grind [← descField_keeps, foldl_canonical]

theorem startCycle_keeps (s : State) (hC : s.Canonical) : (startCycle s).Canonical := by
  grind [startCycle, ← State.setF_keeps, ← clearNew_keeps, foldl_canonical]

theorem triggerCycle_keeps (s : State) (hC : s.Canonical) : (triggerCycle s).Canonical := by
  grind [triggerCycle, ← startCycle_keeps, foldl_canonical]

theorem setRun_keeps (s : State) (kind head : Nat) (x1 : Nat) (hC : s.Canonical) : (setRun s kind head x1).Canonical := by
  fun_induction setRun s kind head x1 <;> grind [← setDesc_keeps, foldl_canonical]

theorem takeRegions_keeps (s : State) (t kind n : Nat) (hC : s.Canonical) {rR} (eR : takeRegions s t kind n = some rR) : (rR.2).Canonical := by
  unfold takeRegions at eR; grind [← descField_keeps, ← countFree_keeps, ← triggerCycle_keeps, ← setRun_keeps, foldl_canonical]

theorem place_keeps (s : State) (t kind size cur : Nat) (hC : s.Canonical) {rR} (eR : place s t kind size cur = some rR) : (rR.2.2).Canonical := by
  unfold place at eR; grind [← descField_keeps, ← setStart_keeps, ← setMark_keeps, → takeRegions_keeps, foldl_canonical]

theorem engineAlloc_keeps (s : State) (t kind size : Nat) (hC : s.Canonical) {rR} (eR : engineAlloc s t kind size = some rR) : (rR.2).Canonical := by
  unfold engineAlloc at eR; grind [→ place_keeps, foldl_canonical]

theorem engineObject_keeps (s : State) (t kind : Nat) (bytes : List Byte) (hC : s.Canonical) {rR} (eR : engineObject s t kind bytes = some rR) : (rR.2).Canonical := by
  unfold engineObject at eR
  split at eR
  · next a s1 he =>
    rw [Option.map_eq_some_iff] at eR
    obtain ⟨s2, h2, rfl⟩ := eR
    exact heapWrite_keeps _ _ _ (engineAlloc_keeps _ _ _ _ hC he) h2
  · cases eR

theorem meetPoison_keeps (s : State) (t pa : Nat) (hC : s.Canonical) : (meetPoison s t pa).Canonical := by
  grind [meetPoison, ← State.setF_keeps, ← pulse_keeps, ← poisonConsumed_keeps, foldl_canonical]

theorem copyObject_keeps (s : State) (hdr : Option Word) (src dst : Nat) (x1 : Nat) (hC : s.Canonical) {rR} (eR : copyObject s hdr src dst x1 = some rR) : (rR).Canonical := by
  induction x1 generalizing rR with
  | zero => cases eR; exact hC
  | succ n ih =>
    unfold copyObject at eR
    split at eR
    · cases eR
    · next s0 h0 =>
      dsimp only at eR
      split at eR
      · cases eR
      · split at eR
        · cases eR
        · next s2 h2 =>
          have c2 := heapWriteAs_keeps _ _ _ _ (heapTouch_keeps _ _ _ (ih h0)) h2
          split at eR
          · cases eR; apply meetPoison_keeps; split
            · exact setPoison_keeps _ _ c2
            · exact c2
          · cases eR; exact c2

theorem moveObject_keeps (s0 : State) (va : Nat) (tile : Option Nat) (hC : s0.Canonical) {rR} (eR : moveObject s0 va tile = some rR) : (rR.2).Canonical := by
  unfold moveObject at eR
  split at eR
  · cases eR
  · next r _ =>
    dsimp only at eR
    have h0 : (heapTouch (withEngine s0 (ownerOf s0 r)) va 8).Canonical := heapTouch_keeps _ _ _ (withEngine_keeps _ _ hC)
    split at eR
    · cases eR
    · split at eR
      · cases eR
      · next dst s1 h1 =>
        have c1 := engineAlloc_keeps _ _ _ _ h0 h1
        split at eR
        · cases eR
        · next s2 h2 =>
          have c2 := copyObject_keeps _ _ _ _ _ c1 h2
          split at eR
          · cases eR
          · next s4 h4 =>
            have c4 : s4.Canonical := by
              have two : ∀ (b : Bool) (x y : Option State), (if b = true then x else y) = some s4 → x = some s4 ∨ y = some s4 := by
                intro b x y e; cases b
                · exact .inr e
                · exact .inl e
              rcases two _ _ _ h4 with h | h
              · split at h
                · cases h
                · next x hx => exact heapWrite_keeps _ _ _ (heapWrite_keeps _ _ _ c2 hx) h
              · cases h; exact c2
            split at eR
            · cases eR
            · next s5 h5 =>
              have c5 : s5.Canonical := heapWrite_keeps _ _ _ c4 h5
              cases eR; exact State.setF_keeps _ _ _ _ _ _ c5

theorem loadBarrier_keeps (s : State) (t : Nat) (w : Word) (hC : s.Canonical) {rR} (eR : loadBarrier s t w = some rR) : (rR.2.2).Canonical := by
  unfold loadBarrier at eR; grind [← State.setR_keeps, → moveObject_keeps, foldl_canonical]

/-! ### CoreMem -/

theorem getC_keeps (c : CoreId) : Keeps (getC c : M Core) := by
  unfold getC; (repeat' first | with_reducible exact Keeps.pure _ | with_reducible exact Keeps.error _ | with_reducible exact Keeps.read _)

theorem getC_keeps_ok (c : CoreId) {sA vA sB} (hA : State.Canonical sA) (eA : (getC c : M Core) sA = .ok (vA, sB)) : State.Canonical sB :=
  (getC_keeps c).canonical sA vA sB hA eA

theorem modC_keeps (c : CoreId) (f : Core → Core) : Keeps (modC c f : M Unit) := by
  unfold modC; (repeat' first | with_reducible exact Keeps.pure _ | with_reducible exact Keeps.error _ | with_reducible exact Keeps.read _ | with_reducible assumption | with_reducible apply Keeps.bind | with_reducible apply Keeps.map | with_reducible apply Keeps.mapM | intro _ | split | dsimp only) <;> first | grind [← State.modCore_keeps, foldl_canonical] | (constructor; intro sA vA sB hA eA; grind [← State.modCore_keeps, foldl_canonical])

theorem modC_keeps_ok (c : CoreId) (f : Core → Core) {sA vA sB} (hA : State.Canonical sA) (eA : (modC c f : M Unit) sA = .ok (vA, sB)) : State.Canonical sB :=
  (modC_keeps c f).canonical sA vA sB hA eA

theorem regM_keeps (c : CoreId) (n : Nat) : Keeps (regM c n : M Word) := by
  unfold regM; (repeat' first | with_reducible exact Keeps.pure _ | with_reducible exact Keeps.error _ | with_reducible exact Keeps.read _)

theorem regM_keeps_ok (c : CoreId) (n : Nat) {sA vA sB} (hA : State.Canonical sA) (eA : (regM c n : M Word) sA = .ok (vA, sB)) : State.Canonical sB :=
  (regM_keeps c n).canonical sA vA sB hA eA

theorem setRegM_keeps (c : CoreId) (n : Nat) (w : Word) : Keeps (setRegM c n w : M Unit) := by
  unfold setRegM; (repeat' first | with_reducible exact Keeps.pure _ | with_reducible exact Keeps.error _ | with_reducible exact Keeps.read _ | with_reducible assumption | with_reducible apply Keeps.bind | with_reducible apply Keeps.map | with_reducible apply Keeps.mapM | with_reducible apply modC_keeps)

theorem setBitM_keeps (c : CoreId) (n : Nat) (b : Bool) : Keeps (setBitM c n b : M Unit) := by
  unfold setBitM; (repeat' first | with_reducible exact Keeps.pure _ | with_reducible exact Keeps.error _ | with_reducible exact Keeps.read _ | with_reducible assumption | with_reducible apply Keeps.bind | with_reducible apply Keeps.map | with_reducible apply Keeps.mapM | with_reducible apply modC_keeps)

theorem freeM_keeps : Keeps (freeM : M Word) := by
  unfold freeM; (repeat' first | with_reducible exact Keeps.pure _ | with_reducible exact Keeps.error _ | with_reducible exact Keeps.read _ | with_reducible assumption | with_reducible apply Keeps.bind | with_reducible apply Keeps.map | with_reducible apply Keeps.mapM | intro _ | split | dsimp only) <;> first | grind [← takeFree_keeps, → takeFree_keeps_eq, foldl_canonical] | (constructor; intro sA vA sB hA eA; grind [← takeFree_keeps, → takeFree_keeps_eq, foldl_canonical])

theorem atStep_keeps {α : Type} (n : Nat) (m : M α) (h_m : Keeps m) : Keeps (atStep n m : M α) := by
  constructor; intro sA vA sB hA eA; unfold atStep at eA; split at eA
  · cases eA
  · exact h_m.canonical _ _ _ hA eA

theorem atStep_keeps_ok {α : Type} (n : Nat) (m : M α) (h_m : Keeps m) {sA vA sB} (hA : State.Canonical sA) (eA : (atStep n m : M α) sA = .ok (vA, sB)) : State.Canonical sB :=
  (atStep_keeps n m h_m).canonical sA vA sB hA eA

theorem operandFault_keeps {α : Type} (w : Word) : Keeps (operandFault w : M α) := by
  unfold operandFault; (repeat' first | with_reducible exact Keeps.pure _ | with_reducible exact Keeps.error _ | with_reducible exact Keeps.read _ | with_reducible assumption | with_reducible apply Keeps.bind | with_reducible apply Keeps.map | with_reducible apply Keeps.mapM | with_reducible apply trapM_keeps)

theorem operandFault_keeps_ok {α : Type} (w : Word) {sA vA sB} (hA : State.Canonical sA) (eA : (operandFault w : M α) sA = .ok (vA, sB)) : State.Canonical sB :=
  (operandFault_keeps w).canonical sA vA sB hA eA

theorem simpleFault_keeps {α : Type} (c : Cause) (step : Nat) : Keeps (simpleFault c step : M α) := by
  unfold simpleFault; (repeat' first | with_reducible exact Keeps.pure _ | with_reducible exact Keeps.error _ | with_reducible exact Keeps.read _ | with_reducible assumption | with_reducible apply Keeps.bind | with_reducible apply Keeps.map | with_reducible apply Keeps.mapM | with_reducible apply trapM_keeps)

theorem locate_keeps (c : CoreId) (va : Nat) (acc : Acc) (byteAcc : Bool) : Keeps (locate c va acc byteAcc : M Loc) := by
  unfold locate; (repeat' first | with_reducible exact Keeps.pure _ | with_reducible exact Keeps.error _ | with_reducible exact Keeps.read _ | with_reducible assumption | with_reducible apply Keeps.bind | with_reducible apply Keeps.map | with_reducible apply Keeps.mapM | intro _ | split | dsimp only) <;> first | grind [→ translate_keeps, foldl_canonical] | (constructor; intro sA vA sB hA eA; grind [→ translate_keeps, foldl_canonical])

theorem locate_keeps_ok (c : CoreId) (va : Nat) (acc : Acc) (byteAcc : Bool) {sA vA sB} (hA : State.Canonical sA) (eA : (locate c va acc byteAcc : M Loc) sA = .ok (vA, sB)) : State.Canonical sB :=
  (locate_keeps c va acc byteAcc).canonical sA vA sB hA eA

theorem touchLines_keeps (s : State) (c : CoreId) (fetch : Bool) (pa n : Nat) (hC : s.Canonical) : (touchLines s c fetch pa n).Canonical := by
  grind [touchLines, ← touchL1_keeps, foldl_canonical]

theorem loadPart_keeps (c : CoreId) (va n : Nat) (acc : Acc) (byteAcc : Bool) : Keeps (loadPart c va n acc byteAcc : M (List Byte)) := by
  unfold loadPart; (repeat' first | with_reducible exact Keeps.pure _ | with_reducible exact Keeps.error _ | with_reducible exact Keeps.read _ | with_reducible assumption | with_reducible apply Keeps.bind | with_reducible apply Keeps.map | with_reducible apply Keeps.mapM | with_reducible apply getC_keeps | with_reducible apply locate_keeps | intro _ | split | dsimp only) <;> first | grind [← cacheTouch_keeps, ← endFlight_keeps, → getC_keeps_ok, → locate_keeps_ok, ← touchLines_keeps, foldl_canonical] | (constructor; intro sA vA sB hA eA; grind [← cacheTouch_keeps, ← endFlight_keeps, → getC_keeps_ok, → locate_keeps_ok, ← touchLines_keeps, foldl_canonical])

theorem loadBytesF_keeps (c : CoreId) (acc : Acc) (byteAcc : Bool) (x1 : Nat) (x2 : Nat) (x3 : Nat) : Keeps (loadBytesF c acc byteAcc x1 x2 x3 : M (List Byte)) := by
  induction x1 generalizing x2 x3 with
  | zero => unfold loadBytesF; exact Keeps.pure _
  | succ n ih =>
    unfold loadBytesF
    exact Keeps.ite (loadPart_keeps _ _ _ _ _) (Keeps.bind (loadPart_keeps _ _ _ _ _) (fun _ =>
      Keeps.bind (ih _ _) (fun _ => Keeps.pure _)))

theorem loadBytes_keeps (c : CoreId) (va n : Nat) (acc : Acc) (byteAcc : Bool) : Keeps (loadBytes c va n acc byteAcc : M (List Byte)) := by
  unfold loadBytes; (repeat' first | with_reducible exact Keeps.pure _ | with_reducible exact Keeps.error _ | with_reducible exact Keeps.read _ | with_reducible assumption | with_reducible apply Keeps.bind | with_reducible apply Keeps.map | with_reducible apply Keeps.mapM | with_reducible apply loadBytesF_keeps)

theorem loadBytes_keeps_ok (c : CoreId) (va n : Nat) (acc : Acc) (byteAcc : Bool) {sA vA sB} (hA : State.Canonical sA) (eA : (loadBytes c va n acc byteAcc : M (List Byte)) sA = .ok (vA, sB)) : State.Canonical sB :=
  (loadBytes_keeps c va n acc byteAcc).canonical sA vA sB hA eA

theorem loadRaw_keeps (c : CoreId) (va : Nat) (acc : Acc) : Keeps (loadRaw c va acc : M Word) := by
  unfold loadRaw; (repeat' first | with_reducible exact Keeps.pure _ | with_reducible exact Keeps.error _ | with_reducible exact Keeps.read _ | with_reducible assumption | with_reducible apply Keeps.bind | with_reducible apply Keeps.map | with_reducible apply Keeps.mapM | with_reducible apply loadBytes_keeps | intro _)

theorem loadRaw_keeps_ok (c : CoreId) (va : Nat) (acc : Acc) {sA vA sB} (hA : State.Canonical sA) (eA : (loadRaw c va acc : M Word) sA = .ok (vA, sB)) : State.Canonical sB :=
  (loadRaw_keeps c va acc).canonical sA vA sB hA eA

theorem countHeal_keeps (s : State) (c : CoreId) (hC : s.Canonical) : (countHeal s c).Canonical := by
  grind [countHeal, ← State.setR_keeps, foldl_canonical]

theorem healM_keeps (c : CoreId) (w : Word) : Keeps (healM c w : M Word) := by
  unfold healM; (repeat' first | with_reducible exact Keeps.pure _ | with_reducible exact Keeps.error _ | with_reducible exact Keeps.read _ | with_reducible assumption | with_reducible apply Keeps.bind | with_reducible apply Keeps.map | with_reducible apply Keeps.mapM | intro _ | split | dsimp only) <;> first | grind [→ loadBarrier_keeps, ← countHeal_keeps, foldl_canonical] | (constructor; intro sA vA sB hA eA; grind [→ loadBarrier_keeps, ← countHeal_keeps, foldl_canonical])

theorem healM_keeps_ok (c : CoreId) (w : Word) {sA vA sB} (hA : State.Canonical sA) (eA : (healM c w : M Word) sA = .ok (vA, sB)) : State.Canonical sB :=
  (healM_keeps c w).canonical sA vA sB hA eA

theorem replaceSlot_keeps (s : State) (c : CoreId) (va : Nat) (old new : Word) (hC : s.Canonical) : (replaceSlot s c va old new).Canonical := by
  grind [replaceSlot, ← performWrite_keeps, → performWrite_keeps_eq, → translate_keeps, foldl_canonical]

theorem loadWord_keeps (c : CoreId) (va : Nat) (acc : Acc) : Keeps (loadWord c va acc : M Word) := by
  unfold loadWord; (repeat' first | with_reducible exact Keeps.pure _ | with_reducible exact Keeps.error _ | with_reducible exact Keeps.read _ | with_reducible assumption | with_reducible apply Keeps.bind | with_reducible apply Keeps.map | with_reducible apply Keeps.mapM | with_reducible apply trapM_keeps | with_reducible apply loadRaw_keeps | with_reducible apply healM_keeps | intro _ | split | dsimp only) <;> first | grind [→ trapM_keeps_ok, → loadRaw_keeps_ok, → healM_keeps_ok, ← replaceSlot_keeps, foldl_canonical] | (constructor; intro sA vA sB hA eA; grind [→ trapM_keeps_ok, → loadRaw_keeps_ok, → healM_keeps_ok, ← replaceSlot_keeps, foldl_canonical])

theorem healRegM_keeps (c : CoreId) (n : Nat) : Keeps (healRegM c n : M Word) := by
  unfold healRegM; (repeat' first | with_reducible exact Keeps.pure _ | with_reducible exact Keeps.error _ | with_reducible exact Keeps.read _ | with_reducible assumption | with_reducible apply Keeps.bind | with_reducible apply Keeps.map | with_reducible apply Keeps.mapM | with_reducible apply regM_keeps | with_reducible apply setRegM_keeps | with_reducible apply healM_keeps | intro _ | split)

theorem healRegM_keeps_ok (c : CoreId) (n : Nat) {sA vA sB} (hA : State.Canonical sA) (eA : (healRegM c n : M Word) sA = .ok (vA, sB)) : State.Canonical sB :=
  (healRegM_keeps c n).canonical sA vA sB hA eA

theorem headerWord_keeps (c : CoreId) (addr : Nat) (acc : Acc) : Keeps (headerWord c addr acc : M Word) := by
  unfold headerWord; (repeat' first | with_reducible exact Keeps.pure _ | with_reducible exact Keeps.error _ | with_reducible exact Keeps.read _ | with_reducible assumption | with_reducible apply Keeps.bind | with_reducible apply Keeps.map | with_reducible apply Keeps.mapM | with_reducible apply trapM_keeps | with_reducible apply loadRaw_keeps | intro _ | split)

theorem readHeader_keeps (c : CoreId) (addr : Nat) (acc : Acc) : Keeps (readHeader c addr acc : M (Nat × Word)) := by
  unfold readHeader; (repeat' first | with_reducible exact Keeps.pure _ | with_reducible exact Keeps.error _ | with_reducible exact Keeps.read _ | with_reducible assumption | with_reducible apply Keeps.bind | with_reducible apply Keeps.map | with_reducible apply Keeps.mapM | with_reducible apply headerWord_keeps | intro _ | split)

theorem bufferHeader_keeps (c : CoreId) (addr : Nat) (hdr : Option Word) : Keeps (bufferHeader c addr hdr : M Unit) := by
  unfold bufferHeader; (repeat' first | with_reducible exact Keeps.pure _ | with_reducible exact Keeps.error _ | with_reducible exact Keeps.read _ | with_reducible assumption | with_reducible apply Keeps.bind | with_reducible apply Keeps.map | with_reducible apply Keeps.mapM | intro _ | split | dsimp only) <;> first | grind [← State.modCore_keeps, → translate_keeps, foldl_canonical] | (constructor; intro sA vA sB hA eA; grind [← State.modCore_keeps, → translate_keeps, foldl_canonical])

theorem openObject_keeps (c : CoreId) (w : Word) (step : Nat) : Keeps (openObject c w step : M Obj) := by
  unfold openObject; (repeat' first | with_reducible exact Keeps.pure _ | with_reducible exact Keeps.error _ | with_reducible exact Keeps.read _ | with_reducible assumption | with_reducible apply Keeps.bind | with_reducible apply Keeps.map | with_reducible apply Keeps.mapM | with_reducible apply trapM_keeps | with_reducible apply atStep_keeps | with_reducible apply readHeader_keeps | intro _ | split | dsimp only)

theorem openObject_keeps_ok (c : CoreId) (w : Word) (step : Nat) {sA vA sB} (hA : State.Canonical sA) (eA : (openObject c w step : M Obj) sA = .ok (vA, sB)) : State.Canonical sB :=
  (openObject_keeps c w step).canonical sA vA sB hA eA

theorem handOver_keeps (s : State) (c : CoreId) (hC : s.Canonical) : (handOver s c).Canonical := by
  grind [handOver, ← State.setCore_keeps, foldl_canonical]

theorem logCore_keeps (s : State) (c : CoreId) (old : Word) (hC : s.Canonical) : (logCore s c old).Canonical := by
  grind [logCore, ← State.modCore_keeps, ← handOver_keeps, foldl_canonical]

theorem performStore_keeps (s : State) (c : CoreId) (e : StoreEntry) (hC : s.Canonical) : (performStore s c e).Canonical := by
  grind [performStore, ← State.modCore_keeps, ← performWrite_keeps, → performWrite_keeps_eq, ← logCore_keeps, foldl_canonical]

theorem drainOne_keeps (s : State) (c : CoreId) (hC : s.Canonical) : (drainOne s c).Canonical := by
  grind [drainOne, ← State.modCore_keeps, ← performStore_keeps, foldl_canonical]

theorem drainN_keeps (c : CoreId) (x1 : Nat) (x2 : State) (hC : x2.Canonical) : (drainN c x1 x2).Canonical := by
  fun_induction drainN c x1 x2 <;> grind [← drainOne_keeps, foldl_canonical]

theorem drainStores_keeps (s : State) (c : CoreId) (hC : s.Canonical) : (drainStores s c).Canonical := by
  grind [drainStores, ← drainN_keeps, foldl_canonical]

theorem drainM_keeps (c : CoreId) : Keeps (drainM c : M Unit) := by
  unfold drainM; (repeat' first | with_reducible exact Keeps.pure _ | with_reducible exact Keeps.error _ | with_reducible exact Keeps.read _ | with_reducible assumption | with_reducible apply Keeps.bind | with_reducible apply Keeps.map | with_reducible apply Keeps.mapM | intro _ | split | dsimp only) <;> first | grind [← drainStores_keeps, foldl_canonical] | (constructor; intro sA vA sB hA eA; grind [← drainStores_keeps, foldl_canonical])

theorem drainM_keeps_ok (c : CoreId) {sA vA sB} (hA : State.Canonical sA) (eA : (drainM c : M Unit) sA = .ok (vA, sB)) : State.Canonical sB :=
  (drainM_keeps c).canonical sA vA sB hA eA

theorem enqueueStore_keeps (s : State) (c : CoreId) (pa : Nat) (bs : List Byte) (tagged : Bool) (hC : s.Canonical) : (enqueueStore s c pa bs tagged).Canonical := by
  grind [enqueueStore, ← State.modCore_keeps, ← drainOne_keeps, foldl_canonical]

theorem enqueueM_keeps (c : CoreId) (pa : Nat) (bs : List Byte) (tagged : Bool) : Keeps (enqueueM c pa bs tagged : M Unit) := by
  unfold enqueueM; (repeat' first | with_reducible exact Keeps.pure _ | with_reducible exact Keeps.error _ | with_reducible exact Keeps.read _ | with_reducible assumption | with_reducible apply Keeps.bind | with_reducible apply Keeps.map | with_reducible apply Keeps.mapM | intro _ | split | dsimp only) <;> first | grind [← enqueueStore_keeps, foldl_canonical] | (constructor; intro sA vA sB hA eA; grind [← enqueueStore_keeps, foldl_canonical])

theorem enqueueM_keeps_ok (c : CoreId) (pa : Nat) (bs : List Byte) (tagged : Bool) {sA vA sB} (hA : State.Canonical sA) (eA : (enqueueM c pa bs tagged : M Unit) sA = .ok (vA, sB)) : State.Canonical sB :=
  (enqueueM_keeps c pa bs tagged).canonical sA vA sB hA eA

theorem storeWordAs_keeps (acc : Acc) (c : CoreId) (va : Nat) (w : Word) : Keeps (storeWordAs acc c va w : M Unit) := by
  unfold storeWordAs; (repeat' first | with_reducible exact Keeps.pure _ | with_reducible exact Keeps.error _ | with_reducible exact Keeps.read _ | with_reducible assumption | with_reducible apply Keeps.bind | with_reducible apply Keeps.map | with_reducible apply Keeps.mapM | with_reducible apply trapM_keeps | with_reducible apply getC_keeps | with_reducible apply modC_keeps | with_reducible apply locate_keeps | with_reducible apply healM_keeps | with_reducible apply enqueueM_keeps | intro _ | split | dsimp only) <;> first | grind [→ trapM_keeps_ok, → getC_keeps_ok, → modC_keeps_ok, → locate_keeps_ok, → healM_keeps_ok, → enqueueM_keeps_ok, foldl_canonical] | (constructor; intro sA vA sB hA eA; grind [→ trapM_keeps_ok, → getC_keeps_ok, → modC_keeps_ok, → locate_keeps_ok, → healM_keeps_ok, → enqueueM_keeps_ok, foldl_canonical])

theorem storeWord_keeps (c : CoreId) (va : Nat) (w : Word) : Keeps (storeWord c va w : M Unit) := by
  unfold storeWord; (repeat' first | with_reducible exact Keeps.pure _ | with_reducible exact Keeps.error _ | with_reducible exact Keeps.read _ | with_reducible assumption | with_reducible apply Keeps.bind | with_reducible apply Keeps.map | with_reducible apply Keeps.mapM | with_reducible apply storeWordAs_keeps)

theorem storeBytesM_keeps (c : CoreId) (va : Nat) (bs : List Byte) : Keeps (storeBytesM c va bs : M Unit) := by
  unfold storeBytesM; (repeat' first | with_reducible exact Keeps.pure _ | with_reducible exact Keeps.error _ | with_reducible exact Keeps.read _ | with_reducible assumption | with_reducible apply Keeps.bind | with_reducible apply Keeps.map | with_reducible apply Keeps.mapM | with_reducible apply modC_keeps | with_reducible apply locate_keeps | with_reducible apply enqueueM_keeps | intro _ | split)

theorem storeBytesM_keeps_ok (c : CoreId) (va : Nat) (bs : List Byte) {sA vA sB} (hA : State.Canonical sA) (eA : (storeBytesM c va bs : M Unit) sA = .ok (vA, sB)) : State.Canonical sB :=
  (storeBytesM_keeps c va bs).canonical sA vA sB hA eA

theorem atomicWrite_keeps (c : CoreId) (va : Nat) (bs : List Byte) (tagged : Bool) : Keeps (atomicWrite c va bs tagged : M Unit) := by
  unfold atomicWrite; (repeat' first | with_reducible exact Keeps.pure _ | with_reducible exact Keeps.error _ | with_reducible exact Keeps.read _ | with_reducible assumption | with_reducible apply Keeps.bind | with_reducible apply Keeps.map | with_reducible apply Keeps.mapM | with_reducible apply modC_keeps | with_reducible apply locate_keeps | intro _ | split | dsimp only) <;> first | grind [→ modC_keeps_ok, → locate_keeps_ok, ← performStore_keeps, foldl_canonical] | (constructor; intro sA vA sB hA eA; grind [→ modC_keeps_ok, → locate_keeps_ok, ← performStore_keeps, foldl_canonical])

theorem atomicWrite_keeps_ok (c : CoreId) (va : Nat) (bs : List Byte) (tagged : Bool) {sA vA sB} (hA : State.Canonical sA) (eA : (atomicWrite c va bs tagged : M Unit) sA = .ok (vA, sB)) : State.Canonical sB :=
  (atomicWrite_keeps c va bs tagged).canonical sA vA sB hA eA

theorem fetchParcel_keeps (c : CoreId) (va : Nat) : Keeps (fetchParcel c va : M Unit) := by
  unfold fetchParcel; (repeat' first | with_reducible exact Keeps.pure _ | with_reducible exact Keeps.error _ | with_reducible exact Keeps.read _ | with_reducible assumption | with_reducible apply Keeps.bind | with_reducible apply Keeps.map | with_reducible apply Keeps.mapM | with_reducible apply locate_keeps | intro _ | split | dsimp only) <;> first | grind [← cacheTouch_keeps, ← endFlight_keeps, ← touchL1_keeps, → locate_keeps_ok, foldl_canonical] | (constructor; intro sA vA sB hA eA; grind [← cacheTouch_keeps, ← endFlight_keeps, ← touchL1_keeps, → locate_keeps_ok, foldl_canonical])

theorem fetchParcels_keeps (c : CoreId) (first : Trap) (area : Option (Nat × Nat)) (x1 : Nat) (x2 : Nat) : Keeps (fetchParcels c first area x1 x2 : M Unit) := by
  induction x2 generalizing x1 with
  | zero => unfold fetchParcels; exact Keeps.pure _
  | succ n ih =>
    unfold fetchParcels
    split
    · exact Keeps.bind (fetchParcel_keeps _ _) (fun _ => Keeps.bind (getC_keeps _) (fun _ => trapM_keeps _))
    · exact Keeps.ite (Keeps.bind (getC_keeps _) (fun _ => trapM_keeps _)) (Keeps.ite (trapM_keeps _)
        (Keeps.bind (fetchParcel_keeps _ _) (fun _ => ih _)))

theorem fetchM_keeps (c : CoreId) (parcels subcode first : Nat) : Keeps (fetchM c parcels subcode first : M Unit) := by
  unfold fetchM; (repeat' first | with_reducible exact Keeps.pure _ | with_reducible exact Keeps.error _ | with_reducible exact Keeps.read _ | with_reducible assumption | with_reducible apply Keeps.bind | with_reducible apply Keeps.map | with_reducible apply Keeps.mapM | with_reducible apply getC_keeps | with_reducible apply atStep_keeps | with_reducible apply fetchParcels_keeps | intro _)

end Sys2Proof.Machine
end

