-- ==== Sys2Proof/Laws/KeepsTraps.lean ====
section
/-! SUPPORT. Memory stays canonical: operands, exception entry and the running of an instruction. One lemma per operation. -/

namespace Sys2Proof.Machine

open Sys2Proof

/-! ### Operands -/

theorem indexReg_keeps (c : CoreId) (n : Nat) : Keeps (indexReg c n : M Int) := by
  unfold indexReg; (repeat' first | with_reducible exact Keeps.pure _ | with_reducible exact Keeps.error _ | with_reducible exact Keeps.read _ | with_reducible assumption | with_reducible apply Keeps.bind | with_reducible apply Keeps.map | with_reducible apply Keeps.mapM | with_reducible apply trapM_keeps | with_reducible apply regM_keeps | intro _ | split)

theorem objectBase_keeps (c : CoreId) (n : Nat) : Keeps (objectBase c n : M Word) := by
  unfold objectBase; (repeat' first | with_reducible exact Keeps.pure _ | with_reducible exact Keeps.error _ | with_reducible exact Keeps.read _ | with_reducible assumption | with_reducible apply Keeps.bind | with_reducible apply Keeps.map | with_reducible apply Keeps.mapM | with_reducible apply trapM_keeps | with_reducible apply regM_keeps | with_reducible apply healRegM_keeps | intro _ | split)

theorem plainBase_keeps (c : CoreId) (n : Nat) : Keeps (plainBase c n : M Word) := by
  unfold plainBase; (repeat' first | with_reducible exact Keeps.pure _ | with_reducible exact Keeps.error _ | with_reducible exact Keeps.read _ | with_reducible assumption | with_reducible apply Keeps.bind | with_reducible apply Keeps.map | with_reducible apply Keeps.mapM | with_reducible apply trapM_keeps | with_reducible apply regM_keeps | with_reducible apply healRegM_keeps | intro _ | split | dsimp only)

theorem constsBase_keeps (c : CoreId) : Keeps (constsBase c : M Word) := by
  unfold constsBase; (repeat' first | with_reducible exact Keeps.pure _ | with_reducible exact Keeps.error _ | with_reducible exact Keeps.read _ | with_reducible assumption | with_reducible apply Keeps.bind | with_reducible apply Keeps.map | with_reducible apply Keeps.mapM | with_reducible apply trapM_keeps | with_reducible apply getC_keeps | with_reducible apply atStep_keeps | with_reducible apply loadWord_keeps | with_reducible apply openObject_keeps | intro _ | split)

theorem slotOf_keeps (o : Obj) (idx : Int) (access : Nat) : Keeps (slotOf o idx access : M OpB) := by
  unfold slotOf; (repeat' first | with_reducible exact Keeps.pure _ | with_reducible exact Keeps.error _ | with_reducible exact Keeps.read _ | with_reducible assumption | with_reducible apply Keeps.bind | with_reducible apply Keeps.map | with_reducible apply Keeps.mapM | with_reducible apply trapM_keeps | intro _ | split)

theorem byteOf_keeps (o : Obj) (idx : Int) (n : Nat) (access : Nat) : Keeps (byteOf o idx n access : M OpB) := by
  unfold byteOf; (repeat' first | with_reducible exact Keeps.pure _ | with_reducible exact Keeps.error _ | with_reducible exact Keeps.read _ | with_reducible assumption | with_reducible apply Keeps.bind | with_reducible apply Keeps.map | with_reducible apply Keeps.mapM | with_reducible apply trapM_keeps | intro _ | split)

theorem bitFieldOf_keeps (o : Obj) (idx : Int) (w : Nat) (access : Nat) : Keeps (bitFieldOf o idx w access : M OpB) := by
  unfold bitFieldOf; (repeat' first | with_reducible exact Keeps.pure _ | with_reducible exact Keeps.error _ | with_reducible exact Keeps.read _ | with_reducible assumption | with_reducible apply Keeps.bind | with_reducible apply Keeps.map | with_reducible apply Keeps.mapM | with_reducible apply trapM_keeps | intro _ | split | dsimp only)

theorem plainOf_keeps (base : Word) (off : Int) (set : ModeSet) (align access : Nat) : Keeps (plainOf base off set align access : M OpB) := by
  unfold plainOf; (repeat' first | with_reducible exact Keeps.pure _ | with_reducible exact Keeps.error _ | with_reducible exact Keeps.read _ | with_reducible assumption | with_reducible apply Keeps.bind | with_reducible apply Keeps.map | with_reducible apply Keeps.mapM | with_reducible apply trapM_keeps | intro _ | split | dsimp only)

theorem accessOf_keeps (o : Obj) (idx : Int) (set : ModeSet) (align access : Nat) : Keeps (accessOf o idx set align access : M OpB) := by
  unfold accessOf; (repeat' first | with_reducible exact Keeps.pure _ | with_reducible exact Keeps.error _ | with_reducible exact Keeps.read _ | with_reducible assumption | with_reducible apply Keeps.bind | with_reducible apply Keeps.map | with_reducible apply Keeps.mapM | with_reducible apply trapM_keeps | with_reducible apply slotOf_keeps | with_reducible apply byteOf_keeps | intro _ | split)

theorem forAccess_keeps {α : Type} (access : Nat) (m : M α) (h_m : Keeps m) : Keeps (forAccess access m : M α) := by
  constructor; intro sA vA sB hA eA; unfold forAccess at eA; split at eA
  · cases eA
  · exact h_m.canonical _ _ _ hA eA

theorem openSlot_keeps (c : CoreId) (w : Word) : Keeps (openSlot c w : M Obj) := by
  unfold openSlot; (repeat' first | with_reducible exact Keeps.pure _ | with_reducible exact Keeps.error _ | with_reducible exact Keeps.read _ | with_reducible assumption | with_reducible apply Keeps.bind | with_reducible apply Keeps.map | with_reducible apply Keeps.mapM | with_reducible apply bufferHeader_keeps | with_reducible apply openObject_keeps | intro _)

theorem addressB_keeps (c : CoreId) (set : ModeSet) (l : Long) (align width access : Nat) : Keeps (addressB c set l align width access : M ResB) := by
  unfold addressB; (repeat' first | with_reducible exact Keeps.pure _ | with_reducible exact Keeps.error _ | with_reducible exact Keeps.read _ | with_reducible assumption | with_reducible apply Keeps.bind | with_reducible apply Keeps.map | with_reducible apply Keeps.mapM | with_reducible apply trapM_keeps | with_reducible apply regM_keeps | with_reducible apply simpleFault_keeps | with_reducible apply indexReg_keeps | with_reducible apply objectBase_keeps | with_reducible apply plainBase_keeps | with_reducible apply constsBase_keeps | with_reducible apply bitFieldOf_keeps | with_reducible apply plainOf_keeps | with_reducible apply accessOf_keeps | with_reducible apply openSlot_keeps | intro _ | split | dsimp only)

theorem resolveB_keeps (c : CoreId) (set : ModeSet) (l : Long) (align width access : Nat) : Keeps (resolveB c set l align width access : M ResB) := by
  unfold resolveB; (repeat' first | with_reducible exact Keeps.pure _ | with_reducible exact Keeps.error _ | with_reducible exact Keeps.read _ | with_reducible assumption | with_reducible apply Keeps.bind | with_reducible apply Keeps.map | with_reducible apply Keeps.mapM | with_reducible apply forAccess_keeps | with_reducible apply addressB_keeps)

theorem resolveB_keeps_ok (c : CoreId) (set : ModeSet) (l : Long) (align width access : Nat) {sA vA sB} (hA : State.Canonical sA) (eA : (resolveB c set l align width access : M ResB) sA = .ok (vA, sB)) : State.Canonical sB :=
  (resolveB_keeps c set l align width access).canonical sA vA sB hA eA

theorem readB_keeps (c : CoreId) (acc : Acc) (b : OpB) : Keeps (readB c acc b : M Word) := by
  unfold readB; (repeat' first | with_reducible exact Keeps.pure _ | with_reducible exact Keeps.error _ | with_reducible exact Keeps.read _ | with_reducible assumption | with_reducible apply Keeps.bind | with_reducible apply Keeps.map | with_reducible apply Keeps.mapM | with_reducible apply regM_keeps | with_reducible apply atStep_keeps | with_reducible apply loadWord_keeps | intro _ | split)

theorem readField_keeps (c : CoreId) (acc : Acc) (va lo w : Nat) : Keeps (readField c acc va lo w : M Nat) := by
  unfold readField; (repeat' first | with_reducible exact Keeps.pure _ | with_reducible exact Keeps.error _ | with_reducible exact Keeps.read _ | with_reducible assumption | with_reducible apply Keeps.bind | with_reducible apply Keeps.map | with_reducible apply Keeps.mapM | with_reducible apply atStep_keeps | with_reducible apply loadBytes_keeps | intro _)

theorem postB_keeps (c : CoreId) (r : ResB) : Keeps (postB c r : M Unit) := by
  unfold postB; (repeat' first | with_reducible exact Keeps.pure _ | with_reducible exact Keeps.error _ | with_reducible exact Keeps.read _ | with_reducible assumption | with_reducible apply Keeps.bind | with_reducible apply Keeps.map | with_reducible apply Keeps.mapM | with_reducible apply setRegM_keeps | intro _ | split)

theorem postB_keeps_ok (c : CoreId) (r : ResB) {sA vA sB} (hA : State.Canonical sA) (eA : (postB c r : M Unit) sA = .ok (vA, sB)) : State.Canonical sB :=
  (postB_keeps c r).canonical sA vA sB hA eA

theorem immutableFault_keeps {α : Type} (acc : Acc) (va : Nat) : Keeps (immutableFault acc va : M α) := by
  unfold immutableFault; (repeat' first | with_reducible exact Keeps.pure _ | with_reducible exact Keeps.error _ | with_reducible exact Keeps.read _ | with_reducible assumption | with_reducible apply Keeps.bind | with_reducible apply Keeps.map | with_reducible apply Keeps.mapM | with_reducible apply trapM_keeps)

theorem immutableFault_keeps_ok {α : Type} (acc : Acc) (va : Nat) {sA vA sB} (hA : State.Canonical sA) (eA : (immutableFault acc va : M α) sA = .ok (vA, sB)) : State.Canonical sB :=
  (immutableFault_keeps acc va).canonical sA vA sB hA eA

theorem writeB_keeps (c : CoreId) (b : OpB) (w : Word) : Keeps (writeB c b w : M Unit) := by
  unfold writeB; (repeat' first | with_reducible exact Keeps.pure _ | with_reducible exact Keeps.error _ | with_reducible exact Keeps.read _ | with_reducible assumption | with_reducible apply Keeps.bind | with_reducible apply Keeps.map | with_reducible apply Keeps.mapM | with_reducible apply setRegM_keeps | with_reducible apply atStep_keeps | with_reducible apply storeWord_keeps | with_reducible apply immutableFault_keeps | intro _ | split)

/-! ### Traps -/

theorem storePair_keeps (acc : Acc) (c : CoreId) (va : Nat) (x y : Word) : Keeps (storePair acc c va x y : M Unit) := by
  unfold storePair; (repeat' first | with_reducible exact Keeps.pure _ | with_reducible exact Keeps.error _ | with_reducible exact Keeps.read _ | with_reducible assumption | with_reducible apply Keeps.bind | with_reducible apply Keeps.map | with_reducible apply Keeps.mapM | with_reducible apply trapM_keeps | with_reducible apply getC_keeps | with_reducible apply modC_keeps | with_reducible apply locate_keeps | with_reducible apply healM_keeps | with_reducible apply enqueueM_keeps | intro _ | split | dsimp only) <;> first | grind [→ trapM_keeps_ok, → getC_keeps_ok, → modC_keeps_ok, → locate_keeps_ok, → healM_keeps_ok, → enqueueM_keeps_ok, foldl_canonical] | (constructor; intro sA vA sB hA eA; grind [→ trapM_keeps_ok, → getC_keeps_ok, → modC_keeps_ok, → locate_keeps_ok, → healM_keeps_ok, → enqueueM_keeps_ok, foldl_canonical])

theorem storePairs_keeps (acc : Acc) (c : CoreId) (x1 : Nat) (x2 : List Word) : Keeps (storePairs acc c x1 x2 : M Unit) := by
  fun_induction storePairs acc c x1 x2
  · next ih => exact Keeps.bind (storePair_keeps _ _ _ _ _) (fun _ => ih)
  · exact Keeps.pure _

theorem storeWords_keeps (acc : Acc) (c : CoreId) (x1 : Nat) (x2 : List Word) : Keeps (storeWords acc c x1 x2 : M Unit) := by
  induction x2 generalizing x1 with
  | nil => unfold storeWords; exact Keeps.pure _
  | cons w ws ih => unfold storeWords; exact Keeps.bind (storeWordAs_keeps acc c x1 w) (fun _ => ih _)

theorem loadWords_keeps (c : CoreId) (x1 : Nat) (x2 : Nat) : Keeps (loadWords c x1 x2 : M (List Word)) := by
  induction x2 generalizing x1 with
  | zero => unfold loadWords; exact Keeps.pure _
  | succ n ih => unfold loadWords; exact Keeps.bind (loadWord_keeps c x1 _) (fun _ => Keeps.bind (ih _) (fun _ => Keeps.pure _))

theorem loadWords_keeps_ok (c : CoreId) (x1 : Nat) (x2 : Nat) {sA vA sB} (hA : State.Canonical sA) (eA : (loadWords c x1 x2 : M (List Word)) sA = .ok (vA, sB)) : State.Canonical sB :=
  (loadWords_keeps c x1 x2).canonical sA vA sB hA eA

theorem spillPointer_keeps (c : CoreId) : Keeps (spillPointer c : M Nat) := by
  unfold spillPointer; (repeat' first | with_reducible exact Keeps.pure _ | with_reducible exact Keeps.error _ | with_reducible exact Keeps.read _ | with_reducible assumption | with_reducible apply Keeps.bind | with_reducible apply Keeps.map | with_reducible apply Keeps.mapM | with_reducible apply trapM_keeps | with_reducible apply regM_keeps | intro _ | split)

theorem spill_keeps (c : CoreId) : Keeps (spill c : M Unit) := by
  unfold spill; (repeat' first | with_reducible exact Keeps.pure _ | with_reducible exact Keeps.error _ | with_reducible exact Keeps.read _ | with_reducible assumption | with_reducible apply Keeps.bind | with_reducible apply Keeps.map | with_reducible apply Keeps.mapM | with_reducible apply trapM_keeps | with_reducible apply getC_keeps | with_reducible apply modC_keeps | with_reducible apply storeWords_keeps | with_reducible apply spillPointer_keeps | intro _ | split)

theorem spill_keeps_ok (c : CoreId) {sA vA sB} (hA : State.Canonical sA) (eA : (spill c : M Unit) sA = .ok (vA, sB)) : State.Canonical sB :=
  (spill_keeps c).canonical sA vA sB hA eA

theorem fill_keeps (c : CoreId) : Keeps (fill c : M Unit) := by
  unfold fill; (repeat' first | with_reducible exact Keeps.pure _ | with_reducible exact Keeps.error _ | with_reducible exact Keeps.read _ | with_reducible assumption | with_reducible apply Keeps.bind | with_reducible apply Keeps.map | with_reducible apply Keeps.mapM | with_reducible apply trapM_keeps | with_reducible apply getC_keeps | with_reducible apply modC_keeps | with_reducible apply loadWords_keeps | with_reducible apply spillPointer_keeps | intro _ | split)

theorem fill_keeps_ok (c : CoreId) {sA vA sB} (hA : State.Canonical sA) (eA : (fill c : M Unit) sA = .ok (vA, sB)) : State.Canonical sB :=
  (fill_keeps c).canonical sA vA sB hA eA

theorem enterWindowTrap_keeps (s : State) (c : CoreId) (overflow : Bool) (pc : Nat) (hC : s.Canonical) : (enterWindowTrap s c overflow pc).Canonical := by
  grind [enterWindowTrap, ← State.modCore_keeps, foldl_canonical]

theorem windowHandler_keeps (c : CoreId) : Keeps (windowHandler c : M Unit) := by
  unfold windowHandler; (repeat' first | with_reducible exact Keeps.pure _ | with_reducible exact Keeps.error _ | with_reducible exact Keeps.read _ | with_reducible assumption | with_reducible apply Keeps.bind | with_reducible apply Keeps.map | with_reducible apply Keeps.mapM | with_reducible apply spill_keeps | with_reducible apply fill_keeps | intro _ | split | dsimp only) <;> first | grind [← State.modCore_keeps, → spill_keeps_ok, → fill_keeps_ok, foldl_canonical] | (constructor; intro sA vA sB hA eA; grind [← State.modCore_keeps, → spill_keeps_ok, → fill_keeps_ok, foldl_canonical])

theorem windowHandler_keeps_ok (c : CoreId) {sA vA sB} (hA : State.Canonical sA) (eA : (windowHandler c : M Unit) sA = .ok (vA, sB)) : State.Canonical sB :=
  (windowHandler_keeps c).canonical sA vA sB hA eA

theorem wantForward_keeps (c : CoreId) (cont : Option Nat) : Keeps (wantForward c cont : M Unit) := by
  unfold wantForward; (repeat' first | with_reducible exact Keeps.pure _ | with_reducible exact Keeps.error _ | with_reducible exact Keeps.read _ | with_reducible assumption | with_reducible apply Keeps.bind | with_reducible apply Keeps.map | with_reducible apply Keeps.mapM | with_reducible apply stopM_keeps | with_reducible apply getC_keeps | intro _ | split)

theorem wantBackward_keeps (c : CoreId) (cont : Option Nat) : Keeps (wantBackward c cont : M Unit) := by
  unfold wantBackward; (repeat' first | with_reducible exact Keeps.pure _ | with_reducible exact Keeps.error _ | with_reducible exact Keeps.read _ | with_reducible assumption | with_reducible apply Keeps.bind | with_reducible apply Keeps.map | with_reducible apply Keeps.mapM | with_reducible apply stopM_keeps | with_reducible apply getC_keeps | intro _ | split)

theorem rotateBackward_keeps (c : CoreId) (cont : Option Nat) : Keeps (rotateBackward c cont : M Unit) := by
  unfold rotateBackward; (repeat' first | with_reducible exact Keeps.pure _ | with_reducible exact Keeps.error _ | with_reducible exact Keeps.read _ | with_reducible assumption | with_reducible apply Keeps.bind | with_reducible apply Keeps.map | with_reducible apply Keeps.mapM | with_reducible apply modC_keeps | with_reducible apply wantBackward_keeps | intro _)

theorem rotateBackward_keeps_ok (c : CoreId) (cont : Option Nat) {sA vA sB} (hA : State.Canonical sA) (eA : (rotateBackward c cont : M Unit) sA = .ok (vA, sB)) : State.Canonical sB :=
  (rotateBackward_keeps c cont).canonical sA vA sB hA eA

theorem codeTarget_keeps (c : CoreId) (closure w : Word) : Keeps (codeTarget c closure w : M Target) := by
  unfold codeTarget; (repeat' first | with_reducible exact Keeps.pure _ | with_reducible exact Keeps.error _ | with_reducible exact Keeps.read _ | with_reducible assumption | with_reducible apply Keeps.bind | with_reducible apply Keeps.map | with_reducible apply Keeps.mapM | with_reducible apply atStep_keeps | with_reducible apply operandFault_keeps | with_reducible apply healM_keeps | with_reducible apply loadWord_keeps | with_reducible apply openObject_keeps | intro _ | split | dsimp only)

theorem codeTarget_keeps_ok (c : CoreId) (closure w : Word) {sA vA sB} (hA : State.Canonical sA) (eA : (codeTarget c closure w : M Target) sA = .ok (vA, sB)) : State.Canonical sB :=
  (codeTarget_keeps c closure w).canonical sA vA sB hA eA

theorem callTarget_keeps (c : CoreId) (w : Word) : Keeps (callTarget c w : M Target) := by
  unfold callTarget; (repeat' first | with_reducible exact Keeps.pure _ | with_reducible exact Keeps.error _ | with_reducible exact Keeps.read _ | with_reducible assumption | with_reducible apply Keeps.bind | with_reducible apply Keeps.map | with_reducible apply Keeps.mapM | with_reducible apply atStep_keeps | with_reducible apply healM_keeps | with_reducible apply loadWord_keeps | with_reducible apply openObject_keeps | with_reducible apply codeTarget_keeps | intro _ | split)

theorem enterCode_keeps (s : State) (c : CoreId) (t : Target) (hC : s.Canonical) : (enterCode s c t).Canonical := by
  grind [enterCode, ← State.setCore_keeps, foldl_canonical]

theorem recordCheck_keeps (s : State) (c : CoreId) (kind pa : Nat) (hC : s.Canonical) : (recordCheck s c kind pa).Canonical := by
  grind [recordCheck, ← State.setR_keeps, foldl_canonical]

theorem setModes_keeps (s : State) (cs : List CoreId) (m : CoreMode) (hC : s.Canonical) : (setModes s cs m).Canonical := by
  grind [setModes, ← State.modCore_keeps, foldl_canonical]

theorem halt_keeps (s : State) (c : CoreId) (kind pa : Nat) (hC : s.Canonical) : (halt s c kind pa).Canonical := by
  grind [halt, ← State.setF_keeps, ← pulse_keeps, ← recordCheck_keeps, ← setModes_keeps, foldl_canonical]

theorem lastResortTarget_keeps (s : State) (c : CoreId) (r : RegName) (hC : s.Canonical) {rR} (eR : lastResortTarget s c r = .ok rR) : (rR.2).Canonical := by
  unfold lastResortTarget at eR; grind [→ codeTarget_keeps_ok, foldl_canonical]

theorem enterLastResort_keeps (s : State) (c : CoreId) (t : Trap) (fpc npc : Nat) (hC : s.Canonical) : (enterLastResort s c t fpc npc).Canonical := by
  grind [enterLastResort, ← State.setCore_keeps, ← State.setF_keeps, ← enterCode_keeps, ← halt_keeps, → lastResortTarget_keeps, foldl_canonical]

theorem doubleFault_keeps (s : State) (c : CoreId) (reason : Nat) (f orig : Trap) (fpc npc : Nat) (hC : s.Canonical) : (doubleFault s c reason f orig fpc npc).Canonical := by
  grind [doubleFault, ← enterLastResort_keeps, foldl_canonical]

theorem readHandler_keeps (c : CoreId) (t : Trap) (code : Nat) : Keeps (readHandler c t code : M Target) := by
  constructor; intro sA vA sB hA eA; unfold readHandler at eA; dsimp only at eA
  split at eA
  · cases eA
  · split at eA
    · cases eA
    · refine (Keeps.bind (openObject_keeps _ _ _) (fun o => ?_)).canonical _ _ _ hA eA
      split
      · exact Keeps.error _
      · exact Keeps.bind (loadWord_keeps _ _ _) (fun _ => callTarget_keeps _ _)

theorem readHandler_keeps_ok (c : CoreId) (t : Trap) (code : Nat) {sA vA sB} (hA : State.Canonical sA) (eA : (readHandler c t code : M Target) sA = .ok (vA, sB)) : State.Canonical sB :=
  (readHandler_keeps c t code).canonical sA vA sB hA eA

theorem intoHandler_keeps (s : State) (c : CoreId) (t : Trap) (sp : Nat) (tg : Target) (hC : s.Canonical) : (intoHandler s c t sp tg).Canonical := by
  grind [intoHandler, ← State.setCore_keeps, ← State.modCore_keeps, ← enterCode_keeps, foldl_canonical]

theorem stackFault_keeps (s : State) (c : CoreId) (t : Trap) (why : Nat) (f : Option Trap) (fpc npc : Nat) (hC : s.Canonical) : (stackFault s c t why f fpc npc).Canonical := by
  grind [stackFault, ← State.setCore_keeps, ← halt_keeps, ← doubleFault_keeps, → readHandler_keeps_ok, ← intoHandler_keeps, foldl_canonical]

theorem pushFrame_keeps (c : CoreId) (sp : Nat) (ws : List Word) : Keeps (pushFrame c sp ws : M Unit) := by
  unfold pushFrame; (repeat' first | with_reducible exact Keeps.pure _ | with_reducible exact Keeps.error _ | with_reducible exact Keeps.read _ | with_reducible assumption | with_reducible apply Keeps.bind | with_reducible apply Keeps.map | with_reducible apply Keeps.mapM | with_reducible apply drainM_keeps | with_reducible apply storePairs_keeps | intro _)

theorem pushFrame_keeps_ok (c : CoreId) (sp : Nat) (ws : List Word) {sA vA sB} (hA : State.Canonical sA) (eA : (pushFrame c sp ws : M Unit) sA = .ok (vA, sB)) : State.Canonical sB :=
  (pushFrame_keeps c sp ws).canonical sA vA sB hA eA

theorem enterException_keeps (s : State) (c : CoreId) (t : Trap) (fpc npc : Nat) (hC : s.Canonical) : (enterException s c t fpc npc).Canonical := by
  grind [enterException, ← enterWindowTrap_keeps, ← halt_keeps, ← doubleFault_keeps, → readHandler_keeps_ok, ← intoHandler_keeps, ← stackFault_keeps, → pushFrame_keeps_ok, foldl_canonical]

theorem l1Error_keeps (s : State) (c : CoreId) (pa : Nat) (e : CairnError) (hC : s.Canonical) : (l1Error s c pa e).Canonical := by
  grind [l1Error, ← pulse_keeps, ← logCairn_keeps, foldl_canonical]

theorem corePoison_keeps (s : State) (c : CoreId) (pa : Nat) (hC : s.Canonical) : (corePoison s c pa).Canonical := by
  grind [corePoison, ← poisonConsumed_keeps, ← l1Error_keeps, foldl_canonical]

theorem noteFault_keeps (s : State) (c : CoreId) (t : Trap) (hC : s.Canonical) : (noteFault s c t).Canonical := by
  grind [noteFault, ← State.setF_keeps, ← pulse_keeps, ← clearTimedOut_keeps, ← corePoison_keeps, foldl_canonical]

theorem raiseCheck_keeps (s : State) (c : CoreId) (kind pa slot fpc npc : Nat) (hC : s.Canonical) : (raiseCheck s c kind pa slot fpc npc).Canonical := by
  grind [raiseCheck, ← recordCheck_keeps, ← halt_keeps, ← enterLastResort_keeps, foldl_canonical]

theorem raiseDouble_keeps (s : State) (c : CoreId) (reason : Nat) (f orig : Trap) (fpc npc : Nat) (hC : s.Canonical) : (raiseDouble s c reason f orig fpc npc).Canonical := by
  grind [raiseDouble, ← drainStores_keeps, ← doubleFault_keeps, ← noteFault_keeps, foldl_canonical]

theorem raiseStop_keeps (s0 : State) (c : CoreId) (x : Stop) (fpc npc : Nat) (hC : s0.Canonical) : (raiseStop s0 c x fpc npc).Canonical := by
  unfold raiseStop; (repeat' split) <;> grind [← State.modCore_keeps, ← waitFlight_keeps, ← startCycle_keeps, ← drainStores_keeps, ← enterWindowTrap_keeps, ← setModes_keeps, ← doubleFault_keeps, ← enterException_keeps, ← noteFault_keeps, ← raiseCheck_keeps, ← raiseDouble_keeps, foldl_canonical]

/-! ### Massif -/

theorem putBlock_keeps (s : State) (pa : Nat) (bs : List Byte) (hC : s.Canonical) : (putBlock s pa bs).Canonical := by
  grind [putBlock, ← performWrite_keeps, → performWrite_keeps_eq, foldl_canonical]

theorem sealTable_keeps (s : State) (pa : Nat) (hC : s.Canonical) : (sealTable s pa).Canonical := by
  grind [sealTable, ← putBlock_keeps, foldl_canonical]

theorem storeCopy_keeps (s : State) (hC : s.Canonical) : (storeCopy s).Canonical := by
  grind [storeCopy, ← State.setF_keeps, ← sealTable_keeps, foldl_canonical]

/-! ### Publish -/

theorem markChanged_keeps (s : State) (ty : Nat) (hC : s.Canonical) : (markChanged s ty).Canonical := by
  grind [markChanged, ← State.setR_keeps, foldl_canonical]

theorem generation_keeps (s : State) (g ty inst cause : Nat) (hC : s.Canonical) : (generation s g ty inst cause).Canonical := by
  grind [generation, ← State.setR_keeps, ← pulse_keeps, ← storeCopy_keeps, foldl_canonical]

theorem publishTypes_keeps (s : State) (tys : List Nat) (inst cause : Nat) (hC : s.Canonical) : (publishTypes s tys inst cause).Canonical := by
  grind [publishTypes, ← markChanged_keeps, ← generation_keeps, foldl_canonical]

theorem publish_keeps (s : State) (ty inst cause : Nat) (hC : s.Canonical) : (publish s ty inst cause).Canonical := by
  grind [publish, ← publishTypes_keeps, foldl_canonical]

theorem publishUnit_keeps (s : State) (u st ty inst cause : Nat) (hC : s.Canonical) : (publishUnit s u st ty inst cause).Canonical := by
  grind [publishUnit, ← State.setUnit_keeps, ← publishTypes_keeps, foldl_canonical]

theorem beginReset_keeps (s : State) (k : TroikaId) (voted auto : Bool) (hC : s.Canonical) : (beginReset s k voted auto).Canonical := by
  grind [beginReset, ← State.setF_keeps, ← setModes_keeps, ← publishUnit_keeps, foldl_canonical]

theorem recordDivergence_keeps (s : State) (k : TroikaId) (three : Bool) (minor item what : Nat) (hC : s.Canonical) : (recordDivergence s k three minor item what).Canonical := by
  grind [recordDivergence, ← State.setR_keeps, foldl_canonical]

theorem diverge_keeps (s : State) (k : TroikaId) (m : Fin 3) (item what : Nat) (hC : s.Canonical) : (diverge s k m item what).Canonical := by
  grind [diverge, ← State.modCore_keeps, ← State.setR_keeps, ← pulse_keeps, ← recordDivergence_keeps, foldl_canonical]

theorem threeWay_keeps (s : State) (k : TroikaId) (item what : Nat) (hC : s.Canonical) : (threeWay s k item what).Canonical := by
  unfold threeWay; (repeat' split) <;> grind [← State.setR_keeps, ← pulse_keeps, ← recordCheck_keeps, ← beginReset_keeps, ← recordDivergence_keeps, foldl_canonical]

theorem mirror_keeps (s : State) (c : CoreId) (hC : s.Canonical) : (mirror s c).Canonical := by
  grind [mirror, ← State.setCore_keeps, foldl_canonical]

/-! ### Flags -/

theorem setFlagsM_keeps (c : CoreId) (f : Tbl Bool) : Keeps (setFlagsM c f : M Unit) := by
  unfold setFlagsM; (repeat' first | with_reducible exact Keeps.pure _ | with_reducible exact Keeps.error _ | with_reducible exact Keeps.read _ | with_reducible assumption | with_reducible apply Keeps.bind | with_reducible apply Keeps.map | with_reducible apply Keeps.mapM | with_reducible apply modC_keeps)

/-! ### Run -/

theorem countUcode_keeps (s : State) (c : CoreId) (ua : Nat) (hC : s.Canonical) : (countUcode s c ua).Canonical := by
  grind [countUcode, ← State.setR_keeps, foldl_canonical]

theorem romOnly_keeps (s : State) (c : CoreId) (hC : s.Canonical) : (romOnly s c).Canonical := by
  grind [romOnly, ← State.modCore_keeps, ← State.setR_keeps, ← publish_keeps, foldl_canonical]

theorem strikeMember_keeps (s : State) (c : CoreId) (m : Fin 3) (item what : Nat) (hC : s.Canonical) : (match strikeMember s c m item what with | .goOn t => t.Canonical | .over t => t.Canonical) := by
  unfold strikeMember; grind [← diverge_keeps, ← threeWay_keeps, foldl_canonical]

theorem strike_keeps (s : State) (c : CoreId) (u : Upset) (pc npc : Nat) (hC : s.Canonical) : (match strike s c u pc npc with | .goOn t => t.Canonical | .over t => t.Canonical) := by
  unfold strike; grind [← State.setCore_keeps, ← raiseStop_keeps, ← diverge_keeps, ← threeWay_keeps, ← countUcode_keeps, ← romOnly_keeps, strikeMember_keeps, foldl_canonical]

theorem coreCheck_keeps (s : State) (c : CoreId) (src pa : Nat) (e : Codeword) (hC : s.Canonical) : (coreCheck s c src pa e).Canonical := by
  grind [coreCheck, ← State.modCore_keeps, ← l1Error_keeps, foldl_canonical]

theorem applyCheck_keeps (c : CoreId) (s : State) (x : CairnCheck) (hC : s.Canonical) : (applyCheck c s x).Canonical := by
  grind [applyCheck, ← storageCheck_keeps, → place_keeps, ← coreCheck_keeps, foldl_canonical]

theorem applyChecks_keeps (s : State) (c : CoreId) (xs : List CairnCheck) (hC : s.Canonical) : (applyChecks s c xs).Canonical := by
  grind [applyChecks, ← applyCheck_keeps, foldl_canonical]

theorem stopAt_keeps (s : State) (c : CoreId) (x : Stop) (afterPfx : Bool) (pc after : Nat) (hC : s.Canonical) : (stopAt s c x afterPfx pc after).Canonical := by
  unfold stopAt; (repeat' split) <;> grind [← raiseDouble_keeps, ← raiseStop_keeps, foldl_canonical]

theorem runBody_keeps (s : State) (a : At) (len : Nat) (afterPfx : Bool) (m : CoreId → M Flow) (h_m : ∀ y0, Keeps (m y0)) (hC : s.Canonical) : (runBody s a len afterPfx m).Canonical := by
  unfold runBody
  split
  · exact hC
  · next c _ =>
    split
    · exact hC
    · split
      · exact mirror_keeps _ _ (raiseStop_keeps _ _ _ _ _ hC)
      · next sw hsw =>
        have hw : sw.Canonical := by
          split at hsw
          · exact windowHandler_keeps_ok _ hC hsw
          · cases hsw; exact hC
        have hk := strike_keeps (sw.modCore c Core.landAll) c a.upset (sw.core c).pc (((sw.core c).jump).getD ((sw.core c).pc + len)) (State.modCore_keeps _ _ _ hw)
        dsimp only
        split
        · next s1 he => rw [he] at hk; exact mirror_keeps _ _ hk
        · next s0 he =>
          rw [he] at hk
          have h1 := applyChecks_keeps s0 c a.cairn hk
          split
          · next fl s2 hm => exact mirror_keeps _ _ (State.modCore_keeps _ _ _ ((h_m c).canonical _ _ _ h1 hm))
          · exact mirror_keeps _ _ (stopAt_keeps _ _ _ _ _ _ h1)

theorem longSteps_keeps (op : Opcode) (l : Long) (body : CoreId → M Flow) (c : CoreId) (h_body : ∀ y0, Keeps (body y0)) : Keeps (longSteps op l body c : M Flow) := by
  unfold longSteps; (repeat' first | with_reducible exact Keeps.pure _ | with_reducible exact Keeps.error _ | with_reducible exact Keeps.read _ | with_reducible assumption | with_reducible apply Keeps.bind | with_reducible apply Keeps.map | with_reducible apply Keeps.mapM | with_reducible apply trapM_keeps | with_reducible apply getC_keeps | with_reducible apply fetchM_keeps | with_reducible apply h_body | intro _ | split)

theorem runLong_keeps (s : State) (a : At) (op : Opcode) (l : Long) (body : CoreId → M Flow) (h_body : ∀ y0, Keeps (body y0)) (hC : s.Canonical) : (runLong s a op l body).Canonical := by
  exact runBody_keeps _ _ _ _ _ (fun y => longSteps_keeps op l body y h_body) hC

theorem bodyR_keeps (op : Opcode) (l : Long) (f : CoreId → Word → Word → M Word) (c : CoreId) (h_f : ∀ y0 y1 y2, Keeps (f y0 y1 y2)) : Keeps (bodyR op l f c : M Flow) := by
  unfold bodyR; (repeat' first | with_reducible exact Keeps.pure _ | with_reducible exact Keeps.error _ | with_reducible exact Keeps.read _ | with_reducible assumption | with_reducible apply Keeps.bind | with_reducible apply Keeps.map | with_reducible apply Keeps.mapM | with_reducible apply regM_keeps | with_reducible apply setRegM_keeps | with_reducible apply atStep_keeps | with_reducible apply resolveB_keeps | with_reducible apply readB_keeps | with_reducible apply postB_keeps | with_reducible apply h_f | intro _)

theorem bodyU_keeps (op : Opcode) (l : Long) (f : CoreId → Word → M Word) (c : CoreId) (h_f : ∀ y0 y1, Keeps (f y0 y1)) : Keeps (bodyU op l f c : M Flow) := by
  unfold bodyU; (repeat' first | with_reducible exact Keeps.pure _ | with_reducible exact Keeps.error _ | with_reducible exact Keeps.read _ | with_reducible assumption | with_reducible apply Keeps.bind | with_reducible apply Keeps.map | with_reducible apply Keeps.mapM | with_reducible apply bodyR_keeps | with_reducible apply h_f | intro _)

theorem bodyU_keeps_ok (op : Opcode) (l : Long) (f : CoreId → Word → M Word) (c : CoreId) (h_f : ∀ y0 y1, Keeps (f y0 y1)) {sA vA sB} (hA : State.Canonical sA) (eA : (bodyU op l f c : M Flow) sA = .ok (vA, sB)) : State.Canonical sB :=
  (bodyU_keeps op l f c h_f).canonical sA vA sB hA eA

theorem bodyC_keeps (op : Opcode) (l : Long) (f : CoreId → Word → Word → M Unit) (c : CoreId) (h_f : ∀ y0 y1 y2, Keeps (f y0 y1 y2)) : Keeps (bodyC op l f c : M Flow) := by
  unfold bodyC; (repeat' first | with_reducible exact Keeps.pure _ | with_reducible exact Keeps.error _ | with_reducible exact Keeps.read _ | with_reducible assumption | with_reducible apply Keeps.bind | with_reducible apply Keeps.map | with_reducible apply Keeps.mapM | with_reducible apply regM_keeps | with_reducible apply atStep_keeps | with_reducible apply resolveB_keeps | with_reducible apply readB_keeps | with_reducible apply postB_keeps | with_reducible apply h_f | intro _)

theorem bodyC_keeps_ok (op : Opcode) (l : Long) (f : CoreId → Word → Word → M Unit) (c : CoreId) (h_f : ∀ y0 y1 y2, Keeps (f y0 y1 y2)) {sA vA sB} (hA : State.Canonical sA) (eA : (bodyC op l f c : M Flow) sA = .ok (vA, sB)) : State.Canonical sB :=
  (bodyC_keeps op l f c h_f).canonical sA vA sB hA eA

theorem bodyM_keeps (op : Opcode) (l : Long) (f : CoreId → Word → Word → M Word) (c : CoreId) (h_f : ∀ y0 y1 y2, Keeps (f y0 y1 y2)) : Keeps (bodyM op l f c : M Flow) := by
  unfold bodyM; (repeat' first | with_reducible exact Keeps.pure _ | with_reducible exact Keeps.error _ | with_reducible exact Keeps.read _ | with_reducible assumption | with_reducible apply Keeps.bind | with_reducible apply Keeps.map | with_reducible apply Keeps.mapM | with_reducible apply regM_keeps | with_reducible apply atStep_keeps | with_reducible apply resolveB_keeps | with_reducible apply readB_keeps | with_reducible apply postB_keeps | with_reducible apply writeB_keeps | with_reducible apply h_f | intro _)

end Sys2Proof.Machine
end

