-- ==== Sys2Proof/Laws/KeepsOps.lean ====
section
/-! SUPPORT. Memory stays canonical: the long operations, first part. One lemma per operation. -/

namespace Sys2Proof.Machine

open Sys2Proof

/-! ### Move -/

theorem bodyMov_keeps (l : Long) (x1 : CoreId) : Keeps (bodyMov l x1 : M Flow) := by
  unfold bodyMov; (repeat' first | with_reducible exact Keeps.pure _ | with_reducible exact Keeps.error _ | with_reducible exact Keeps.read _ | with_reducible assumption | with_reducible apply Keeps.bind | with_reducible apply Keeps.map | with_reducible apply Keeps.mapM | with_reducible apply bodyU_keeps | intro _)

theorem execMov_keeps (a : At) (l : Long) (s : State) (hC : s.Canonical) {tR : State} (eR : execMov a l s = .next tR) : tR.Canonical := by
  unfold execMov at eR; cases eR; (first | apply runLong_keeps) <;> (repeat' first | assumption | intro _ | apply bodyMov_keeps)

theorem bodySt_keeps (l : Long) (c : CoreId) : Keeps (bodySt l c : M Flow) := by
  unfold bodySt; (repeat' first | with_reducible exact Keeps.pure _ | with_reducible exact Keeps.error _ | with_reducible exact Keeps.read _ | with_reducible assumption | with_reducible apply Keeps.bind | with_reducible apply Keeps.map | with_reducible apply Keeps.mapM | with_reducible apply regM_keeps | with_reducible apply healRegM_keeps | with_reducible apply resolveB_keeps | with_reducible apply postB_keeps | with_reducible apply writeB_keeps | intro _ | split)

theorem execSt_keeps (a : At) (l : Long) (s : State) (hC : s.Canonical) {tR : State} (eR : execSt a l s = .next tR) : tR.Canonical := by
  unfold execSt at eR; cases eR; (first | apply runLong_keeps) <;> (repeat' first | assumption | intro _ | apply bodySt_keeps)

theorem atomicWord_keeps (c : CoreId) (va : Nat) (imm : Bool) (f : Word → M (Option Word × Word)) (h_f : ∀ y0, Keeps (f y0)) : Keeps (atomicWord c va imm f : M Word) := by
  unfold atomicWord; (repeat' first | with_reducible exact Keeps.pure _ | with_reducible exact Keeps.error _ | with_reducible exact Keeps.read _ | with_reducible assumption | with_reducible apply Keeps.bind | with_reducible apply Keeps.map | with_reducible apply Keeps.mapM | with_reducible apply trapM_keeps | with_reducible apply atStep_keeps | with_reducible apply loadRaw_keeps | with_reducible apply loadWord_keeps | with_reducible apply drainM_keeps | with_reducible apply atomicWrite_keeps | with_reducible apply immutableFault_keeps | with_reducible apply h_f | intro _ | split)

theorem bodySwap_keeps (l : Long) (c : CoreId) : Keeps (bodySwap l c : M Flow) := by
  unfold bodySwap; (repeat' first | with_reducible exact Keeps.pure _ | with_reducible exact Keeps.error _ | with_reducible exact Keeps.read _ | with_reducible assumption | with_reducible apply Keeps.bind | with_reducible apply Keeps.map | with_reducible apply Keeps.mapM | with_reducible apply regM_keeps | with_reducible apply setRegM_keeps | with_reducible apply healRegM_keeps | with_reducible apply resolveB_keeps | with_reducible apply readB_keeps | with_reducible apply postB_keeps | with_reducible apply writeB_keeps | with_reducible apply atomicWord_keeps | intro _ | split)

theorem execSwap_keeps (a : At) (l : Long) (s : State) (hC : s.Canonical) {tR : State} (eR : execSwap a l s = .next tR) : tR.Canonical := by
  unfold execSwap at eR; cases eR; (first | apply runLong_keeps) <;> (repeat' first | assumption | intro _ | apply bodySwap_keeps)

theorem foreignRead_keeps (a : At) (off : Nat) : Keeps (foreignRead a off : M Byte) := by
  unfold foreignRead; (repeat' first | with_reducible exact Keeps.pure _ | with_reducible exact Keeps.error _ | with_reducible exact Keeps.read _ | with_reducible assumption | with_reducible apply Keeps.bind | with_reducible apply Keeps.map | with_reducible apply Keeps.mapM | intro _ | split | dsimp only) <;> first | grind [foldl_canonical] | (constructor; intro sA vA sB hA eA; grind [foldl_canonical])

theorem sendHost_keeps (s : State) (addr : Nat) (bs : List Byte) (hC : s.Canonical) : (sendHost s addr bs).Canonical := by
  grind [sendHost, foldl_canonical]

theorem bodyLdb_keeps (a : At) (l : Long) (c : CoreId) : Keeps (bodyLdb a l c : M Flow) := by
  unfold bodyLdb; (repeat' first | with_reducible exact Keeps.pure _ | with_reducible exact Keeps.error _ | with_reducible exact Keeps.read _ | with_reducible assumption | with_reducible apply Keeps.bind | with_reducible apply Keeps.map | with_reducible apply Keeps.mapM | with_reducible apply setRegM_keeps | with_reducible apply atStep_keeps | with_reducible apply loadBytes_keeps | with_reducible apply resolveB_keeps | with_reducible apply postB_keeps | with_reducible apply foreignRead_keeps | intro _ | split)

theorem execLdb_keeps (a : At) (l : Long) (s : State) (hC : s.Canonical) {tR : State} (eR : execLdb a l s = .next tR) : tR.Canonical := by
  unfold execLdb at eR; cases eR; (first | apply runLong_keeps) <;> (repeat' first | assumption | intro _ | apply bodyLdb_keeps)

theorem wantFix_keeps (w : Word) : Keeps (wantFix w : M Unit) := by
  unfold wantFix; (repeat' first | with_reducible exact Keeps.pure _ | with_reducible exact Keeps.error _ | with_reducible exact Keeps.read _ | with_reducible assumption | with_reducible apply Keeps.bind | with_reducible apply Keeps.map | with_reducible apply Keeps.mapM | with_reducible apply operandFault_keeps | intro _ | split)

theorem wantFix_keeps_ok (w : Word) {sA vA sB} (hA : State.Canonical sA) (eA : (wantFix w : M Unit) sA = .ok (vA, sB)) : State.Canonical sB :=
  (wantFix_keeps w).canonical sA vA sB hA eA

theorem bodyStb_keeps (l : Long) (c : CoreId) : Keeps (bodyStb l c : M Flow) := by
  unfold bodyStb; (repeat' first | with_reducible exact Keeps.pure _ | with_reducible exact Keeps.error _ | with_reducible exact Keeps.read _ | with_reducible assumption | with_reducible apply Keeps.bind | with_reducible apply Keeps.map | with_reducible apply Keeps.mapM | with_reducible apply regM_keeps | with_reducible apply atStep_keeps | with_reducible apply storeBytesM_keeps | with_reducible apply resolveB_keeps | with_reducible apply postB_keeps | with_reducible apply immutableFault_keeps | with_reducible apply wantFix_keeps | intro _ | split | dsimp only) <;> first | grind [→ regM_keeps_ok, → atStep_keeps_ok, → storeBytesM_keeps_ok, → resolveB_keeps_ok, → postB_keeps_ok, → immutableFault_keeps_ok, ← sendHost_keeps, → wantFix_keeps_ok, foldl_canonical] | (constructor; intro sA vA sB hA eA; grind [→ regM_keeps_ok, → atStep_keeps_ok, → storeBytesM_keeps_ok, → resolveB_keeps_ok, → postB_keeps_ok, → immutableFault_keeps_ok, ← sendHost_keeps, → wantFix_keeps_ok, foldl_canonical])

theorem execStb_keeps (a : At) (l : Long) (s : State) (hC : s.Canonical) {tR : State} (eR : execStb a l s = .next tR) : tR.Canonical := by
  unfold execStb at eR; cases eR; (first | apply runLong_keeps) <;> (repeat' first | assumption | intro _ | apply bodyStb_keeps)

theorem widthOf_keeps (w : Word) : Keeps (widthOf w : M Nat) := by
  unfold widthOf; (repeat' first | with_reducible exact Keeps.pure _ | with_reducible exact Keeps.error _ | with_reducible exact Keeps.read _ | with_reducible assumption | with_reducible apply Keeps.bind | with_reducible apply Keeps.map | with_reducible apply Keeps.mapM | with_reducible apply operandFault_keeps | intro _ | split)

theorem bodyLdbit_keeps (l : Long) (c : CoreId) : Keeps (bodyLdbit l c : M Flow) := by
  unfold bodyLdbit; (repeat' first | with_reducible exact Keeps.pure _ | with_reducible exact Keeps.error _ | with_reducible exact Keeps.read _ | with_reducible assumption | with_reducible apply Keeps.bind | with_reducible apply Keeps.map | with_reducible apply Keeps.mapM | with_reducible apply regM_keeps | with_reducible apply setRegM_keeps | with_reducible apply atStep_keeps | with_reducible apply resolveB_keeps | with_reducible apply readField_keeps | with_reducible apply postB_keeps | with_reducible apply widthOf_keeps | intro _ | split)

theorem execLdbit_keeps (a : At) (l : Long) (s : State) (hC : s.Canonical) {tR : State} (eR : execLdbit a l s = .next tR) : tR.Canonical := by
  unfold execLdbit at eR; cases eR; (first | apply runLong_keeps) <;> (repeat' first | assumption | intro _ | apply bodyLdbit_keeps)

theorem bodyStbit_keeps (l : Long) (c : CoreId) : Keeps (bodyStbit l c : M Flow) := by
  unfold bodyStbit; (repeat' first | with_reducible exact Keeps.pure _ | with_reducible exact Keeps.error _ | with_reducible exact Keeps.read _ | with_reducible assumption | with_reducible apply Keeps.bind | with_reducible apply Keeps.map | with_reducible apply Keeps.mapM | with_reducible apply regM_keeps | with_reducible apply setRegM_keeps | with_reducible apply atStep_keeps | with_reducible apply loadBytes_keeps | with_reducible apply drainM_keeps | with_reducible apply atomicWrite_keeps | with_reducible apply resolveB_keeps | with_reducible apply postB_keeps | with_reducible apply immutableFault_keeps | with_reducible apply wantFix_keeps | with_reducible apply widthOf_keeps | intro _ | split)

theorem execStbit_keeps (a : At) (l : Long) (s : State) (hC : s.Canonical) {tR : State} (eR : execStbit a l s = .next tR) : tR.Canonical := by
  unfold execStbit at eR; cases eR; (first | apply runLong_keeps) <;> (repeat' first | assumption | intro _ | apply bodyStbit_keeps)

theorem controlNumber_keeps (w : Word) : Keeps (controlNumber w : M Nat) := by
  unfold controlNumber; (repeat' first | with_reducible exact Keeps.pure _ | with_reducible exact Keeps.error _ | with_reducible exact Keeps.read _ | with_reducible assumption | with_reducible apply Keeps.bind | with_reducible apply Keeps.map | with_reducible apply Keeps.mapM | with_reducible apply operandFault_keeps | intro _ | split)

theorem controlNumber_keeps_ok (w : Word) {sA vA sB} (hA : State.Canonical sA) (eA : (controlNumber w : M Nat) sA = .ok (vA, sB)) : State.Canonical sB :=
  (controlNumber_keeps w).canonical sA vA sB hA eA

theorem reservedField_keeps {α : Type} (op : Opcode) (l : Long) : Keeps (reservedField op l : M α) := by
  unfold reservedField; (repeat' first | with_reducible exact Keeps.pure _ | with_reducible exact Keeps.error _ | with_reducible exact Keeps.read _ | with_reducible assumption | with_reducible apply Keeps.bind | with_reducible apply Keeps.map | with_reducible apply Keeps.mapM | with_reducible apply trapM_keeps)

theorem reservedField_keeps_ok {α : Type} (op : Opcode) (l : Long) {sA vA sB} (hA : State.Canonical sA) (eA : (reservedField op l : M α) sA = .ok (vA, sB)) : State.Canonical sB :=
  (reservedField_keeps op l).canonical sA vA sB hA eA

theorem bodyMfc_keeps (l : Long) (x1 : CoreId) : Keeps (bodyMfc l x1 : M Flow) := by
  unfold bodyMfc; (repeat' first | with_reducible exact Keeps.pure _ | with_reducible exact Keeps.error _ | with_reducible exact Keeps.read _ | with_reducible assumption | with_reducible apply Keeps.bind | with_reducible apply Keeps.map | with_reducible apply Keeps.mapM | with_reducible apply getC_keeps | with_reducible apply bodyU_keeps | with_reducible apply controlNumber_keeps | with_reducible apply reservedField_keeps | intro _ | split)

theorem execMfc_keeps (a : At) (l : Long) (s : State) (hC : s.Canonical) {tR : State} (eR : execMfc a l s = .next tR) : tR.Canonical := by
  unfold execMfc at eR; cases eR; (first | apply runLong_keeps) <;> (repeat' first | assumption | intro _ | apply bodyMfc_keeps)

theorem bodyMtc_keeps (l : Long) (x1 : CoreId) : Keeps (bodyMtc l x1 : M Flow) := by
  unfold bodyMtc; (repeat' first | with_reducible exact Keeps.pure _ | with_reducible exact Keeps.error _ | with_reducible exact Keeps.read _ | with_reducible assumption | with_reducible apply Keeps.bind | with_reducible apply Keeps.map | with_reducible apply Keeps.mapM | with_reducible apply operandFault_keeps | with_reducible apply bodyC_keeps | with_reducible apply controlNumber_keeps | with_reducible apply reservedField_keeps | intro _ | split | dsimp only) <;> first | grind [← State.setCore_keeps, → operandFault_keeps_ok, → bodyC_keeps_ok, → controlNumber_keeps_ok, → reservedField_keeps_ok, foldl_canonical] | (constructor; intro sA vA sB hA eA; grind [← State.setCore_keeps, → operandFault_keeps_ok, → bodyC_keeps_ok, → controlNumber_keeps_ok, → reservedField_keeps_ok, foldl_canonical])

theorem execMtc_keeps (a : At) (l : Long) (s : State) (hC : s.Canonical) {tR : State} (eR : execMtc a l s = .next tR) : tR.Canonical := by
  unfold execMtc at eR; cases eR; (first | apply runLong_keeps) <;> (repeat' first | assumption | intro _ | apply bodyMtc_keeps)

/-! ### Alloc -/

theorem noRegion_keeps {α : Type} : Keeps (noRegion : M α) := by
  unfold noRegion; (repeat' first | with_reducible exact Keeps.pure _ | with_reducible exact Keeps.error _ | with_reducible exact Keeps.read _ | with_reducible assumption | with_reducible apply Keeps.bind | with_reducible apply Keeps.map | with_reducible apply Keeps.mapM | intro _ | split | dsimp only) <;> first | grind [foldl_canonical] | (constructor; intro sA vA sB hA eA; grind [foldl_canonical])

theorem noRegion_keeps_ok {α : Type} {sA vA sB} (hA : State.Canonical sA) (eA : (noRegion : M α) sA = .ok (vA, sB)) : State.Canonical sB :=
  (noRegion_keeps ).canonical sA vA sB hA eA

theorem writeNew_keeps (va : Nat) (bs : List Byte) (space cls : Nat) : Keeps (writeNew va bs space cls : M Unit) := by
  unfold writeNew; (repeat' first | with_reducible exact Keeps.pure _ | with_reducible exact Keeps.error _ | with_reducible exact Keeps.read _ | with_reducible assumption | with_reducible apply Keeps.bind | with_reducible apply Keeps.map | with_reducible apply Keeps.mapM | intro _ | split | dsimp only) <;> first | grind [→ masterWriteSpan_keeps, → masterWriteSpan_keeps_err, foldl_canonical] | (constructor; intro sA vA sB hA eA; grind [→ masterWriteSpan_keeps, → masterWriteSpan_keeps_err, foldl_canonical])

theorem allocCore_keeps (c : CoreId) (kind size : Nat) : Keeps (allocCore c kind size : M Nat) := by
  unfold allocCore; (repeat' first | with_reducible exact Keeps.pure _ | with_reducible exact Keeps.error _ | with_reducible exact Keeps.read _ | with_reducible assumption | with_reducible apply Keeps.bind | with_reducible apply Keeps.map | with_reducible apply Keeps.mapM | with_reducible apply noRegion_keeps | intro _ | split | dsimp only) <;> first | grind [← State.modCore_keeps, → place_keeps, → noRegion_keeps_ok, foldl_canonical] | (constructor; intro sA vA sB hA eA; grind [← State.modCore_keeps, → place_keeps, → noRegion_keeps_ok, foldl_canonical])

theorem newObject_keeps (c : CoreId) (kind : Nat) (bs : List Byte) : Keeps (newObject c kind bs : M Nat) := by
  exact Keeps.bind (allocCore_keeps _ _ _) (fun a => ⟨fun s x t hA e =>
    (Keeps.bind (writeNew_keeps a bs (heapSpace s) (coreClass c a)) (fun _ => Keeps.pure a)).canonical _ x t (withEngine_keeps s _ hA) e⟩)

theorem newObject_keeps_ok (c : CoreId) (kind : Nat) (bs : List Byte) {sA vA sB} (hA : State.Canonical sA) (eA : (newObject c kind bs : M Nat) sA = .ok (vA, sB)) : State.Canonical sB :=
  (newObject_keeps c kind bs).canonical sA vA sB hA eA

theorem newBytes_keeps (c : CoreId) (tag cls : Nat) (payload : List Byte) : Keeps (newBytes c tag cls payload : M Word) := by
  unfold newBytes; (repeat' first | with_reducible exact Keeps.pure _ | with_reducible exact Keeps.error _ | with_reducible exact Keeps.read _ | with_reducible assumption | with_reducible apply Keeps.bind | with_reducible apply Keeps.map | with_reducible apply Keeps.mapM | with_reducible apply newObject_keeps | intro _)

theorem newTagged_keeps (c : CoreId) (ptag : Nat) (hdr : Word) (slots : List Word) : Keeps (newTagged c ptag hdr slots : M Word) := by
  unfold newTagged; (repeat' first | with_reducible exact Keeps.pure _ | with_reducible exact Keeps.error _ | with_reducible exact Keeps.read _ | with_reducible assumption | with_reducible apply Keeps.bind | with_reducible apply Keeps.map | with_reducible apply Keeps.mapM | with_reducible apply newObject_keeps | intro _)

theorem newCons_keeps (c : CoreId) (x y : Word) : Keeps (newCons c x y : M Word) := by
  unfold newCons; (repeat' first | with_reducible exact Keeps.pure _ | with_reducible exact Keeps.error _ | with_reducible exact Keeps.read _ | with_reducible assumption | with_reducible apply Keeps.bind | with_reducible apply Keeps.map | with_reducible apply Keeps.mapM | with_reducible apply newObject_keeps | intro _)

theorem intResult_keeps (c : CoreId) (i : Int) : Keeps (intResult c i : M Word) := by
  unfold intResult; (repeat' first | with_reducible exact Keeps.pure _ | with_reducible exact Keeps.error _ | with_reducible exact Keeps.read _ | with_reducible assumption | with_reducible apply Keeps.bind | with_reducible apply Keeps.map | with_reducible apply Keeps.mapM | with_reducible apply simpleFault_keeps | with_reducible apply newBytes_keeps | intro _ | split)

theorem floatResult_keeps (c : CoreId) (b : Nat) : Keeps (floatResult c b : M Word) := by
  unfold floatResult; (repeat' first | with_reducible exact Keeps.pure _ | with_reducible exact Keeps.error _ | with_reducible exact Keeps.read _ | with_reducible assumption | with_reducible apply Keeps.bind | with_reducible apply Keeps.map | with_reducible apply Keeps.mapM | with_reducible apply newBytes_keeps | intro _ | split)

theorem numPayload_keeps (c : CoreId) (w : Word) : Keeps (numPayload c w : M (List Byte)) := by
  unfold numPayload; (repeat' first | with_reducible exact Keeps.pure _ | with_reducible exact Keeps.error _ | with_reducible exact Keeps.read _ | with_reducible assumption | with_reducible apply Keeps.bind | with_reducible apply Keeps.map | with_reducible apply Keeps.mapM | with_reducible apply atStep_keeps | with_reducible apply loadBytes_keeps | with_reducible apply healM_keeps | with_reducible apply openObject_keeps | intro _)

theorem numOf_keeps (c : CoreId) (w : Word) : Keeps (numOf c w : M Num) := by
  unfold numOf; (repeat' first | with_reducible exact Keeps.pure _ | with_reducible exact Keeps.error _ | with_reducible exact Keeps.read _ | with_reducible assumption | with_reducible apply Keeps.bind | with_reducible apply Keeps.map | with_reducible apply Keeps.mapM | with_reducible apply operandFault_keeps | with_reducible apply numPayload_keeps | intro _ | split)

theorem dispatch_keeps (g : Nat) (x : Word) (y : Option Word) : Keeps (dispatch g x y : M Unit) := by
  unfold dispatch; (repeat' first | with_reducible exact Keeps.pure _ | with_reducible exact Keeps.error _ | with_reducible exact Keeps.read _ | with_reducible assumption | with_reducible apply Keeps.bind | with_reducible apply Keeps.map | with_reducible apply Keeps.mapM | intro _ | split | dsimp only) <;> first | grind [foldl_canonical] | (constructor; intro sA vA sB hA eA; grind [foldl_canonical])

/-! ### Arith -/

theorem finishInt_keeps (c : CoreId) (r : Int) (f : Tbl Bool) : Keeps (finishInt c r f : M Word) := by
  unfold finishInt; (repeat' first | with_reducible exact Keeps.pure _ | with_reducible exact Keeps.error _ | with_reducible exact Keeps.read _ | with_reducible assumption | with_reducible apply Keeps.bind | with_reducible apply Keeps.map | with_reducible apply Keeps.mapM | with_reducible apply setFlagsM_keeps | with_reducible apply intResult_keeps | intro _)

theorem finishFloat_keeps (c : CoreId) (b : Nat) : Keeps (finishFloat c b : M Word) := by
  unfold finishFloat; (repeat' first | with_reducible exact Keeps.pure _ | with_reducible exact Keeps.error _ | with_reducible exact Keeps.read _ | with_reducible assumption | with_reducible apply Keeps.bind | with_reducible apply Keeps.map | with_reducible apply Keeps.mapM | with_reducible apply setFlagsM_keeps | with_reducible apply floatResult_keeps | intro _)

theorem finishTime_keeps (c : CoreId) (v : Int) : Keeps (finishTime c v : M Word) := by
  unfold finishTime; (repeat' first | with_reducible exact Keeps.pure _ | with_reducible exact Keeps.error _ | with_reducible exact Keeps.read _ | with_reducible assumption | with_reducible apply Keeps.bind | with_reducible apply Keeps.map | with_reducible apply Keeps.mapM | with_reducible apply setFlagsM_keeps | intro _)

theorem genericAdd_keeps (c : CoreId) (x y : Word) : Keeps (genericAdd c x y : M Word) := by
  unfold genericAdd; (repeat' first | with_reducible exact Keeps.pure _ | with_reducible exact Keeps.error _ | with_reducible exact Keeps.read _ | with_reducible assumption | with_reducible apply Keeps.bind | with_reducible apply Keeps.map | with_reducible apply Keeps.mapM | with_reducible apply numOf_keeps | with_reducible apply dispatch_keeps | with_reducible apply finishInt_keeps | with_reducible apply finishFloat_keeps | with_reducible apply finishTime_keeps | intro _ | split)

theorem genericSub_keeps (c : CoreId) (x y : Word) : Keeps (genericSub c x y : M Word) := by
  unfold genericSub; (repeat' first | with_reducible exact Keeps.pure _ | with_reducible exact Keeps.error _ | with_reducible exact Keeps.read _ | with_reducible assumption | with_reducible apply Keeps.bind | with_reducible apply Keeps.map | with_reducible apply Keeps.mapM | with_reducible apply setFlagsM_keeps | with_reducible apply numOf_keeps | with_reducible apply dispatch_keeps | with_reducible apply finishInt_keeps | with_reducible apply finishFloat_keeps | with_reducible apply finishTime_keeps | intro _ | split)

theorem genericMul_keeps (c : CoreId) (x y : Word) : Keeps (genericMul c x y : M Word) := by
  unfold genericMul; (repeat' first | with_reducible exact Keeps.pure _ | with_reducible exact Keeps.error _ | with_reducible exact Keeps.read _ | with_reducible assumption | with_reducible apply Keeps.bind | with_reducible apply Keeps.map | with_reducible apply Keeps.mapM | with_reducible apply numOf_keeps | with_reducible apply dispatch_keeps | with_reducible apply finishInt_keeps | with_reducible apply finishFloat_keeps | intro _ | split)

theorem genericDiv_keeps (c : CoreId) (x y : Word) : Keeps (genericDiv c x y : M Word) := by
  unfold genericDiv; (repeat' first | with_reducible exact Keeps.pure _ | with_reducible exact Keeps.error _ | with_reducible exact Keeps.read _ | with_reducible assumption | with_reducible apply Keeps.bind | with_reducible apply Keeps.map | with_reducible apply Keeps.mapM | with_reducible apply simpleFault_keeps | with_reducible apply numOf_keeps | with_reducible apply dispatch_keeps | with_reducible apply finishInt_keeps | with_reducible apply finishFloat_keeps | intro _ | split)

theorem genericRem_keeps (c : CoreId) (x y : Word) : Keeps (genericRem c x y : M Word) := by
  unfold genericRem; (repeat' first | with_reducible exact Keeps.pure _ | with_reducible exact Keeps.error _ | with_reducible exact Keeps.read _ | with_reducible assumption | with_reducible apply Keeps.bind | with_reducible apply Keeps.map | with_reducible apply Keeps.mapM | with_reducible apply operandFault_keeps | with_reducible apply simpleFault_keeps | with_reducible apply numOf_keeps | with_reducible apply dispatch_keeps | with_reducible apply finishInt_keeps | intro _ | split)

theorem genericNeg_keeps (c : CoreId) (y : Word) : Keeps (genericNeg c y : M Word) := by
  unfold genericNeg; (repeat' first | with_reducible exact Keeps.pure _ | with_reducible exact Keeps.error _ | with_reducible exact Keeps.read _ | with_reducible assumption | with_reducible apply Keeps.bind | with_reducible apply Keeps.map | with_reducible apply Keeps.mapM | with_reducible apply numOf_keeps | with_reducible apply dispatch_keeps | with_reducible apply finishInt_keeps | with_reducible apply finishFloat_keeps | intro _ | split)

theorem genericAbs_keeps (c : CoreId) (y : Word) : Keeps (genericAbs c y : M Word) := by
  unfold genericAbs; (repeat' first | with_reducible exact Keeps.pure _ | with_reducible exact Keeps.error _ | with_reducible exact Keeps.read _ | with_reducible assumption | with_reducible apply Keeps.bind | with_reducible apply Keeps.map | with_reducible apply Keeps.mapM | with_reducible apply numOf_keeps | with_reducible apply dispatch_keeps | with_reducible apply finishInt_keeps | with_reducible apply finishFloat_keeps | intro _ | split)

theorem genericCmp_keeps (c : CoreId) (x y : Word) : Keeps (genericCmp c x y : M Unit) := by
  unfold genericCmp; (repeat' first | with_reducible exact Keeps.pure _ | with_reducible exact Keeps.error _ | with_reducible exact Keeps.read _ | with_reducible assumption | with_reducible apply Keeps.bind | with_reducible apply Keeps.map | with_reducible apply Keeps.mapM | with_reducible apply setFlagsM_keeps | with_reducible apply numOf_keeps | with_reducible apply dispatch_keeps | intro _ | split)

theorem stackResult_keeps (a : Int) (w : Word) : Keeps (stackResult a w : M Word) := by
  unfold stackResult; (repeat' first | with_reducible exact Keeps.pure _ | with_reducible exact Keeps.error _ | with_reducible exact Keeps.read _ | with_reducible assumption | with_reducible apply Keeps.bind | with_reducible apply Keeps.map | with_reducible apply Keeps.mapM | with_reducible apply trapM_keeps | intro _ | split)

theorem vectorForm_keeps (c : CoreId) (x y : Word) : Keeps (vectorForm c x y : M (Option Word)) := by
  unfold vectorForm; (repeat' first | with_reducible exact Keeps.pure _ | with_reducible exact Keeps.error _ | with_reducible exact Keeps.read _ | with_reducible assumption | with_reducible apply Keeps.bind | with_reducible apply Keeps.map | with_reducible apply Keeps.mapM | with_reducible apply trapM_keeps | with_reducible apply healM_keeps | with_reducible apply openObject_keeps | with_reducible apply stackResult_keeps | intro _ | split)

theorem bodyAdd_keeps (l : Long) (x1 : CoreId) : Keeps (bodyAdd l x1 : M Flow) := by
  unfold bodyAdd; (repeat' first | with_reducible exact Keeps.pure _ | with_reducible exact Keeps.error _ | with_reducible exact Keeps.read _ | with_reducible assumption | with_reducible apply Keeps.bind | with_reducible apply Keeps.map | with_reducible apply Keeps.mapM | with_reducible apply bodyR_keeps | with_reducible apply genericAdd_keeps | with_reducible apply stackResult_keeps | with_reducible apply vectorForm_keeps | intro _ | split)

theorem execAdd_keeps (a : At) (l : Long) (s : State) (hC : s.Canonical) {tR : State} (eR : execAdd a l s = .next tR) : tR.Canonical := by
  unfold execAdd at eR; cases eR; (first | apply runLong_keeps) <;> (repeat' first | assumption | intro _ | apply bodyAdd_keeps)

theorem bodySub_keeps (l : Long) (x1 : CoreId) : Keeps (bodySub l x1 : M Flow) := by
  unfold bodySub; (repeat' first | with_reducible exact Keeps.pure _ | with_reducible exact Keeps.error _ | with_reducible exact Keeps.read _ | with_reducible assumption | with_reducible apply Keeps.bind | with_reducible apply Keeps.map | with_reducible apply Keeps.mapM | with_reducible apply bodyR_keeps | with_reducible apply genericSub_keeps | with_reducible apply stackResult_keeps | intro _ | split)

theorem execSub_keeps (a : At) (l : Long) (s : State) (hC : s.Canonical) {tR : State} (eR : execSub a l s = .next tR) : tR.Canonical := by
  unfold execSub at eR; cases eR; (first | apply runLong_keeps) <;> (repeat' first | assumption | intro _ | apply bodySub_keeps)

theorem bodyMul_keeps (l : Long) (x1 : CoreId) : Keeps (bodyMul l x1 : M Flow) := by
  unfold bodyMul; (repeat' first | with_reducible exact Keeps.pure _ | with_reducible exact Keeps.error _ | with_reducible exact Keeps.read _ | with_reducible assumption | with_reducible apply Keeps.bind | with_reducible apply Keeps.map | with_reducible apply Keeps.mapM | with_reducible apply bodyR_keeps | with_reducible apply genericMul_keeps)

theorem execMul_keeps (a : At) (l : Long) (s : State) (hC : s.Canonical) {tR : State} (eR : execMul a l s = .next tR) : tR.Canonical := by
  unfold execMul at eR; cases eR; (first | apply runLong_keeps) <;> (repeat' first | assumption | intro _ | apply bodyMul_keeps)

theorem bodyDiv_keeps (l : Long) (x1 : CoreId) : Keeps (bodyDiv l x1 : M Flow) := by
  unfold bodyDiv; (repeat' first | with_reducible exact Keeps.pure _ | with_reducible exact Keeps.error _ | with_reducible exact Keeps.read _ | with_reducible assumption | with_reducible apply Keeps.bind | with_reducible apply Keeps.map | with_reducible apply Keeps.mapM | with_reducible apply bodyR_keeps | with_reducible apply genericDiv_keeps)

theorem execDiv_keeps (a : At) (l : Long) (s : State) (hC : s.Canonical) {tR : State} (eR : execDiv a l s = .next tR) : tR.Canonical := by
  unfold execDiv at eR; cases eR; (first | apply runLong_keeps) <;> (repeat' first | assumption | intro _ | apply bodyDiv_keeps)

theorem bodyRem_keeps (l : Long) (x1 : CoreId) : Keeps (bodyRem l x1 : M Flow) := by
  unfold bodyRem; (repeat' first | with_reducible exact Keeps.pure _ | with_reducible exact Keeps.error _ | with_reducible exact Keeps.read _ | with_reducible assumption | with_reducible apply Keeps.bind | with_reducible apply Keeps.map | with_reducible apply Keeps.mapM | with_reducible apply bodyR_keeps | with_reducible apply genericRem_keeps)

theorem execRem_keeps (a : At) (l : Long) (s : State) (hC : s.Canonical) {tR : State} (eR : execRem a l s = .next tR) : tR.Canonical := by
  unfold execRem at eR; cases eR; (first | apply runLong_keeps) <;> (repeat' first | assumption | intro _ | apply bodyRem_keeps)

theorem bodyNeg_keeps (l : Long) (x1 : CoreId) : Keeps (bodyNeg l x1 : M Flow) := by
  unfold bodyNeg; (repeat' first | with_reducible exact Keeps.pure _ | with_reducible exact Keeps.error _ | with_reducible exact Keeps.read _ | with_reducible assumption | with_reducible apply Keeps.bind | with_reducible apply Keeps.map | with_reducible apply Keeps.mapM | with_reducible apply bodyU_keeps | with_reducible apply genericNeg_keeps)

theorem execNeg_keeps (a : At) (l : Long) (s : State) (hC : s.Canonical) {tR : State} (eR : execNeg a l s = .next tR) : tR.Canonical := by
  unfold execNeg at eR; cases eR; (first | apply runLong_keeps) <;> (repeat' first | assumption | intro _ | apply bodyNeg_keeps)

theorem bodyAbs_keeps (l : Long) (x1 : CoreId) : Keeps (bodyAbs l x1 : M Flow) := by
  unfold bodyAbs; (repeat' first | with_reducible exact Keeps.pure _ | with_reducible exact Keeps.error _ | with_reducible exact Keeps.read _ | with_reducible assumption | with_reducible apply Keeps.bind | with_reducible apply Keeps.map | with_reducible apply Keeps.mapM | with_reducible apply bodyU_keeps | with_reducible apply genericAbs_keeps)

theorem execAbs_keeps (a : At) (l : Long) (s : State) (hC : s.Canonical) {tR : State} (eR : execAbs a l s = .next tR) : tR.Canonical := by
  unfold execAbs at eR; cases eR; (first | apply runLong_keeps) <;> (repeat' first | assumption | intro _ | apply bodyAbs_keeps)

theorem bodyCmp_keeps (l : Long) (x1 : CoreId) : Keeps (bodyCmp l x1 : M Flow) := by
  unfold bodyCmp; (repeat' first | with_reducible exact Keeps.pure _ | with_reducible exact Keeps.error _ | with_reducible exact Keeps.read _ | with_reducible assumption | with_reducible apply Keeps.bind | with_reducible apply Keeps.map | with_reducible apply Keeps.mapM | with_reducible apply bodyC_keeps | with_reducible apply genericCmp_keeps)

theorem execCmp_keeps (a : At) (l : Long) (s : State) (hC : s.Canonical) {tR : State} (eR : execCmp a l s = .next tR) : tR.Canonical := by
  unfold execCmp at eR; cases eR; (first | apply runLong_keeps) <;> (repeat' first | assumption | intro _ | apply bodyCmp_keeps)

theorem bodyAddto_keeps (l : Long) (x1 : CoreId) : Keeps (bodyAddto l x1 : M Flow) := by
  unfold bodyAddto; (repeat' first | with_reducible exact Keeps.pure _ | with_reducible exact Keeps.error _ | with_reducible exact Keeps.read _ | with_reducible assumption | with_reducible apply Keeps.bind | with_reducible apply Keeps.map | with_reducible apply Keeps.mapM | with_reducible apply bodyM_keeps | with_reducible apply genericAdd_keeps)

theorem execAddto_keeps (a : At) (l : Long) (s : State) (hC : s.Canonical) {tR : State} (eR : execAddto a l s = .next tR) : tR.Canonical := by
  unfold execAddto at eR; cases eR; (first | apply runLong_keeps) <;> (repeat' first | assumption | intro _ | apply bodyAddto_keeps)

theorem bodySubto_keeps (l : Long) (x1 : CoreId) : Keeps (bodySubto l x1 : M Flow) := by
  unfold bodySubto; (repeat' first | with_reducible exact Keeps.pure _ | with_reducible exact Keeps.error _ | with_reducible exact Keeps.read _ | with_reducible assumption | with_reducible apply Keeps.bind | with_reducible apply Keeps.map | with_reducible apply Keeps.mapM | with_reducible apply bodyM_keeps | with_reducible apply genericSub_keeps | intro _)

theorem execSubto_keeps (a : At) (l : Long) (s : State) (hC : s.Canonical) {tR : State} (eR : execSubto a l s = .next tR) : tR.Canonical := by
  unfold execSubto at eR; cases eR; (first | apply runLong_keeps) <;> (repeat' first | assumption | intro _ | apply bodySubto_keeps)

theorem floatOp_keeps (g : Nat) (f : Nat → Nat → Nat) (c : CoreId) (x y : Word) : Keeps (floatOp g f c x y : M Word) := by
  unfold floatOp; (repeat' first | with_reducible exact Keeps.pure _ | with_reducible exact Keeps.error _ | with_reducible exact Keeps.read _ | with_reducible assumption | with_reducible apply Keeps.bind | with_reducible apply Keeps.map | with_reducible apply Keeps.mapM | with_reducible apply numOf_keeps | with_reducible apply dispatch_keeps | with_reducible apply finishFloat_keeps | intro _)

theorem bodyFadd_keeps (l : Long) (x1 : CoreId) : Keeps (bodyFadd l x1 : M Flow) := by
  unfold bodyFadd; (repeat' first | with_reducible exact Keeps.pure _ | with_reducible exact Keeps.error _ | with_reducible exact Keeps.read _ | with_reducible assumption | with_reducible apply Keeps.bind | with_reducible apply Keeps.map | with_reducible apply Keeps.mapM | with_reducible apply bodyR_keeps | with_reducible apply floatOp_keeps)

theorem execFadd_keeps (a : At) (l : Long) (s : State) (hC : s.Canonical) {tR : State} (eR : execFadd a l s = .next tR) : tR.Canonical := by
  unfold execFadd at eR; cases eR; (first | apply runLong_keeps) <;> (repeat' first | assumption | intro _ | apply bodyFadd_keeps)

theorem bodyFsub_keeps (l : Long) (x1 : CoreId) : Keeps (bodyFsub l x1 : M Flow) := by
  unfold bodyFsub; (repeat' first | with_reducible exact Keeps.pure _ | with_reducible exact Keeps.error _ | with_reducible exact Keeps.read _ | with_reducible assumption | with_reducible apply Keeps.bind | with_reducible apply Keeps.map | with_reducible apply Keeps.mapM | with_reducible apply bodyR_keeps | with_reducible apply floatOp_keeps)

theorem execFsub_keeps (a : At) (l : Long) (s : State) (hC : s.Canonical) {tR : State} (eR : execFsub a l s = .next tR) : tR.Canonical := by
  unfold execFsub at eR; cases eR; (first | apply runLong_keeps) <;> (repeat' first | assumption | intro _ | apply bodyFsub_keeps)

theorem bodyFmul_keeps (l : Long) (x1 : CoreId) : Keeps (bodyFmul l x1 : M Flow) := by
  unfold bodyFmul; (repeat' first | with_reducible exact Keeps.pure _ | with_reducible exact Keeps.error _ | with_reducible exact Keeps.read _ | with_reducible assumption | with_reducible apply Keeps.bind | with_reducible apply Keeps.map | with_reducible apply Keeps.mapM | with_reducible apply bodyR_keeps | with_reducible apply floatOp_keeps)

theorem execFmul_keeps (a : At) (l : Long) (s : State) (hC : s.Canonical) {tR : State} (eR : execFmul a l s = .next tR) : tR.Canonical := by
  unfold execFmul at eR; cases eR; (first | apply runLong_keeps) <;> (repeat' first | assumption | intro _ | apply bodyFmul_keeps)

theorem bodyFdiv_keeps (l : Long) (x1 : CoreId) : Keeps (bodyFdiv l x1 : M Flow) := by
  unfold bodyFdiv; (repeat' first | with_reducible exact Keeps.pure _ | with_reducible exact Keeps.error _ | with_reducible exact Keeps.read _ | with_reducible assumption | with_reducible apply Keeps.bind | with_reducible apply Keeps.map | with_reducible apply Keeps.mapM | with_reducible apply bodyR_keeps | with_reducible apply floatOp_keeps)

theorem execFdiv_keeps (a : At) (l : Long) (s : State) (hC : s.Canonical) {tR : State} (eR : execFdiv a l s = .next tR) : tR.Canonical := by
  unfold execFdiv at eR; cases eR; (first | apply runLong_keeps) <;> (repeat' first | assumption | intro _ | apply bodyFdiv_keeps)

theorem bodyFsqrt_keeps (l : Long) (x1 : CoreId) : Keeps (bodyFsqrt l x1 : M Flow) := by
  unfold bodyFsqrt; (repeat' first | with_reducible exact Keeps.pure _ | with_reducible exact Keeps.error _ | with_reducible exact Keeps.read _ | with_reducible assumption | with_reducible apply Keeps.bind | with_reducible apply Keeps.map | with_reducible apply Keeps.mapM | with_reducible apply bodyU_keeps | with_reducible apply numOf_keeps | with_reducible apply dispatch_keeps | with_reducible apply finishFloat_keeps | intro _)

theorem execFsqrt_keeps (a : At) (l : Long) (s : State) (hC : s.Canonical) {tR : State} (eR : execFsqrt a l s = .next tR) : tR.Canonical := by
  unfold execFsqrt at eR; cases eR; (first | apply runLong_keeps) <;> (repeat' first | assumption | intro _ | apply bodyFsqrt_keeps)

theorem bodyFcmp_keeps (l : Long) (x1 : CoreId) : Keeps (bodyFcmp l x1 : M Flow) := by
  unfold bodyFcmp; (repeat' first | with_reducible exact Keeps.pure _ | with_reducible exact Keeps.error _ | with_reducible exact Keeps.read _ | with_reducible assumption | with_reducible apply Keeps.bind | with_reducible apply Keeps.map | with_reducible apply Keeps.mapM | with_reducible apply setFlagsM_keeps | with_reducible apply bodyC_keeps | with_reducible apply numOf_keeps | with_reducible apply dispatch_keeps | intro _)

theorem execFcmp_keeps (a : At) (l : Long) (s : State) (hC : s.Canonical) {tR : State} (eR : execFcmp a l s = .next tR) : tR.Canonical := by
  unfold execFcmp at eR; cases eR; (first | apply runLong_keeps) <;> (repeat' first | assumption | intro _ | apply bodyFcmp_keeps)

theorem bodyFcvt_keeps (l : Long) (x1 : CoreId) : Keeps (bodyFcvt l x1 : M Flow) := by
  unfold bodyFcvt; (repeat' first | with_reducible exact Keeps.pure _ | with_reducible exact Keeps.error _ | with_reducible exact Keeps.read _ | with_reducible assumption | with_reducible apply Keeps.bind | with_reducible apply Keeps.map | with_reducible apply Keeps.mapM | with_reducible apply operandFault_keeps | with_reducible apply bodyR_keeps | with_reducible apply numOf_keeps | with_reducible apply dispatch_keeps | with_reducible apply finishInt_keeps | with_reducible apply finishFloat_keeps | intro _ | split)

theorem execFcvt_keeps (a : At) (l : Long) (s : State) (hC : s.Canonical) {tR : State} (eR : execFcvt a l s = .next tR) : tR.Canonical := by
  unfold execFcvt at eR; cases eR; (first | apply runLong_keeps) <;> (repeat' first | assumption | intro _ | apply bodyFcvt_keeps)

theorem fixPair_keeps (x y : Word) : Keeps (fixPair x y : M Unit) := by
  unfold fixPair; (repeat' first | with_reducible exact Keeps.pure _ | with_reducible exact Keeps.error _ | with_reducible exact Keeps.read _ | with_reducible assumption | with_reducible apply Keeps.bind | with_reducible apply Keeps.map | with_reducible apply Keeps.mapM | with_reducible apply wantFix_keeps | intro _)

theorem logicOp_keeps (f : Nat → Nat → Nat) (c : CoreId) (x y : Word) : Keeps (logicOp f c x y : M Word) := by
  unfold logicOp; (repeat' first | with_reducible exact Keeps.pure _ | with_reducible exact Keeps.error _ | with_reducible exact Keeps.read _ | with_reducible assumption | with_reducible apply Keeps.bind | with_reducible apply Keeps.map | with_reducible apply Keeps.mapM | with_reducible apply setFlagsM_keeps | with_reducible apply fixPair_keeps | intro _)

theorem bodyAnd_keeps (l : Long) (x1 : CoreId) : Keeps (bodyAnd l x1 : M Flow) := by
  unfold bodyAnd; (repeat' first | with_reducible exact Keeps.pure _ | with_reducible exact Keeps.error _ | with_reducible exact Keeps.read _ | with_reducible assumption | with_reducible apply Keeps.bind | with_reducible apply Keeps.map | with_reducible apply Keeps.mapM | with_reducible apply bodyR_keeps | with_reducible apply logicOp_keeps)

theorem execAnd_keeps (a : At) (l : Long) (s : State) (hC : s.Canonical) {tR : State} (eR : execAnd a l s = .next tR) : tR.Canonical := by
  unfold execAnd at eR; cases eR; (first | apply runLong_keeps) <;> (repeat' first | assumption | intro _ | apply bodyAnd_keeps)

theorem bodyOr_keeps (l : Long) (x1 : CoreId) : Keeps (bodyOr l x1 : M Flow) := by
  unfold bodyOr; (repeat' first | with_reducible exact Keeps.pure _ | with_reducible exact Keeps.error _ | with_reducible exact Keeps.read _ | with_reducible assumption | with_reducible apply Keeps.bind | with_reducible apply Keeps.map | with_reducible apply Keeps.mapM | with_reducible apply bodyR_keeps | with_reducible apply logicOp_keeps)

theorem execOr_keeps (a : At) (l : Long) (s : State) (hC : s.Canonical) {tR : State} (eR : execOr a l s = .next tR) : tR.Canonical := by
  unfold execOr at eR; cases eR; (first | apply runLong_keeps) <;> (repeat' first | assumption | intro _ | apply bodyOr_keeps)

theorem bodyXor_keeps (l : Long) (x1 : CoreId) : Keeps (bodyXor l x1 : M Flow) := by
  unfold bodyXor; (repeat' first | with_reducible exact Keeps.pure _ | with_reducible exact Keeps.error _ | with_reducible exact Keeps.read _ | with_reducible assumption | with_reducible apply Keeps.bind | with_reducible apply Keeps.map | with_reducible apply Keeps.mapM | with_reducible apply bodyR_keeps | with_reducible apply logicOp_keeps)

theorem execXor_keeps (a : At) (l : Long) (s : State) (hC : s.Canonical) {tR : State} (eR : execXor a l s = .next tR) : tR.Canonical := by
  unfold execXor at eR; cases eR; (first | apply runLong_keeps) <;> (repeat' first | assumption | intro _ | apply bodyXor_keeps)

theorem bodyAndn_keeps (l : Long) (x1 : CoreId) : Keeps (bodyAndn l x1 : M Flow) := by
  unfold bodyAndn; (repeat' first | with_reducible exact Keeps.pure _ | with_reducible exact Keeps.error _ | with_reducible exact Keeps.read _ | with_reducible assumption | with_reducible apply Keeps.bind | with_reducible apply Keeps.map | with_reducible apply Keeps.mapM | with_reducible apply bodyR_keeps | with_reducible apply logicOp_keeps)

theorem execAndn_keeps (a : At) (l : Long) (s : State) (hC : s.Canonical) {tR : State} (eR : execAndn a l s = .next tR) : tR.Canonical := by
  unfold execAndn at eR; cases eR; (first | apply runLong_keeps) <;> (repeat' first | assumption | intro _ | apply bodyAndn_keeps)

theorem shiftCount_keeps (w : Word) : Keeps (shiftCount w : M Nat) := by
  unfold shiftCount; (repeat' first | with_reducible exact Keeps.pure _ | with_reducible exact Keeps.error _ | with_reducible exact Keeps.read _ | with_reducible assumption | with_reducible apply Keeps.bind | with_reducible apply Keeps.map | with_reducible apply Keeps.mapM | with_reducible apply operandFault_keeps | intro _ | split)

theorem shlOp_keeps (c : CoreId) (x y : Word) : Keeps (shlOp c x y : M Word) := by
  unfold shlOp; (repeat' first | with_reducible exact Keeps.pure _ | with_reducible exact Keeps.error _ | with_reducible exact Keeps.read _ | with_reducible assumption | with_reducible apply Keeps.bind | with_reducible apply Keeps.map | with_reducible apply Keeps.mapM | with_reducible apply setFlagsM_keeps | with_reducible apply wantFix_keeps | with_reducible apply shiftCount_keeps | intro _)

theorem shrOp_keeps (c : CoreId) (x y : Word) : Keeps (shrOp c x y : M Word) := by
  unfold shrOp; (repeat' first | with_reducible exact Keeps.pure _ | with_reducible exact Keeps.error _ | with_reducible exact Keeps.read _ | with_reducible assumption | with_reducible apply Keeps.bind | with_reducible apply Keeps.map | with_reducible apply Keeps.mapM | with_reducible apply setFlagsM_keeps | with_reducible apply wantFix_keeps | with_reducible apply shiftCount_keeps | intro _)

theorem sarOp_keeps (c : CoreId) (x y : Word) : Keeps (sarOp c x y : M Word) := by
  unfold sarOp; (repeat' first | with_reducible exact Keeps.pure _ | with_reducible exact Keeps.error _ | with_reducible exact Keeps.read _ | with_reducible assumption | with_reducible apply Keeps.bind | with_reducible apply Keeps.map | with_reducible apply Keeps.mapM | with_reducible apply setFlagsM_keeps | with_reducible apply wantFix_keeps | with_reducible apply shiftCount_keeps | intro _)

theorem bodyShl_keeps (l : Long) (x1 : CoreId) : Keeps (bodyShl l x1 : M Flow) := by
  unfold bodyShl; (repeat' first | with_reducible exact Keeps.pure _ | with_reducible exact Keeps.error _ | with_reducible exact Keeps.read _ | with_reducible assumption | with_reducible apply Keeps.bind | with_reducible apply Keeps.map | with_reducible apply Keeps.mapM | with_reducible apply bodyR_keeps | with_reducible apply shlOp_keeps)

theorem execShl_keeps (a : At) (l : Long) (s : State) (hC : s.Canonical) {tR : State} (eR : execShl a l s = .next tR) : tR.Canonical := by
  unfold execShl at eR; cases eR; (first | apply runLong_keeps) <;> (repeat' first | assumption | intro _ | apply bodyShl_keeps)

theorem bodyShr_keeps (l : Long) (x1 : CoreId) : Keeps (bodyShr l x1 : M Flow) := by
  unfold bodyShr; (repeat' first | with_reducible exact Keeps.pure _ | with_reducible exact Keeps.error _ | with_reducible exact Keeps.read _ | with_reducible assumption | with_reducible apply Keeps.bind | with_reducible apply Keeps.map | with_reducible apply Keeps.mapM | with_reducible apply bodyR_keeps | with_reducible apply shrOp_keeps)

theorem execShr_keeps (a : At) (l : Long) (s : State) (hC : s.Canonical) {tR : State} (eR : execShr a l s = .next tR) : tR.Canonical := by
  unfold execShr at eR; cases eR; (first | apply runLong_keeps) <;> (repeat' first | assumption | intro _ | apply bodyShr_keeps)

theorem bodySar_keeps (l : Long) (x1 : CoreId) : Keeps (bodySar l x1 : M Flow) := by
  unfold bodySar; (repeat' first | with_reducible exact Keeps.pure _ | with_reducible exact Keeps.error _ | with_reducible exact Keeps.read _ | with_reducible assumption | with_reducible apply Keeps.bind | with_reducible apply Keeps.map | with_reducible apply Keeps.mapM | with_reducible apply bodyR_keeps | with_reducible apply sarOp_keeps)

theorem execSar_keeps (a : At) (l : Long) (s : State) (hC : s.Canonical) {tR : State} (eR : execSar a l s = .next tR) : tR.Canonical := by
  unfold execSar at eR; cases eR; (first | apply runLong_keeps) <;> (repeat' first | assumption | intro _ | apply bodySar_keeps)

theorem countOp_keeps (f : Nat → Nat) (c : CoreId) (y : Word) : Keeps (countOp f c y : M Word) := by
  unfold countOp; (repeat' first | with_reducible exact Keeps.pure _ | with_reducible exact Keeps.error _ | with_reducible exact Keeps.read _ | with_reducible assumption | with_reducible apply Keeps.bind | with_reducible apply Keeps.map | with_reducible apply Keeps.mapM | with_reducible apply setFlagsM_keeps | with_reducible apply wantFix_keeps | intro _)

theorem bodyPopc_keeps (l : Long) (x1 : CoreId) : Keeps (bodyPopc l x1 : M Flow) := by
  unfold bodyPopc; (repeat' first | with_reducible exact Keeps.pure _ | with_reducible exact Keeps.error _ | with_reducible exact Keeps.read _ | with_reducible assumption | with_reducible apply Keeps.bind | with_reducible apply Keeps.map | with_reducible apply Keeps.mapM | with_reducible apply bodyU_keeps | with_reducible apply countOp_keeps)

theorem execPopc_keeps (a : At) (l : Long) (s : State) (hC : s.Canonical) {tR : State} (eR : execPopc a l s = .next tR) : tR.Canonical := by
  unfold execPopc at eR; cases eR; (first | apply runLong_keeps) <;> (repeat' first | assumption | intro _ | apply bodyPopc_keeps)

theorem bodyClz_keeps (l : Long) (x1 : CoreId) : Keeps (bodyClz l x1 : M Flow) := by
  unfold bodyClz; (repeat' first | with_reducible exact Keeps.pure _ | with_reducible exact Keeps.error _ | with_reducible exact Keeps.read _ | with_reducible assumption | with_reducible apply Keeps.bind | with_reducible apply Keeps.map | with_reducible apply Keeps.mapM | with_reducible apply bodyU_keeps | with_reducible apply countOp_keeps)

theorem execClz_keeps (a : At) (l : Long) (s : State) (hC : s.Canonical) {tR : State} (eR : execClz a l s = .next tR) : tR.Canonical := by
  unfold execClz at eR; cases eR; (first | apply runLong_keeps) <;> (repeat' first | assumption | intro _ | apply bodyClz_keeps)

theorem bodyParity_keeps (l : Long) (x1 : CoreId) : Keeps (bodyParity l x1 : M Flow) := by
  unfold bodyParity; (repeat' first | with_reducible exact Keeps.pure _ | with_reducible exact Keeps.error _ | with_reducible exact Keeps.read _ | with_reducible assumption | with_reducible apply Keeps.bind | with_reducible apply Keeps.map | with_reducible apply Keeps.mapM | with_reducible apply bodyU_keeps | with_reducible apply countOp_keeps)

theorem execParity_keeps (a : At) (l : Long) (s : State) (hC : s.Canonical) {tR : State} (eR : execParity a l s = .next tR) : tR.Canonical := by
  unfold execParity at eR; cases eR; (first | apply runLong_keeps) <;> (repeat' first | assumption | intro _ | apply bodyParity_keeps)

theorem bodyBitrev_keeps (l : Long) (x1 : CoreId) : Keeps (bodyBitrev l x1 : M Flow) := by
  unfold bodyBitrev; (repeat' first | with_reducible exact Keeps.pure _ | with_reducible exact Keeps.error _ | with_reducible exact Keeps.read _ | with_reducible assumption | with_reducible apply Keeps.bind | with_reducible apply Keeps.map | with_reducible apply Keeps.mapM | with_reducible apply bodyR_keeps | with_reducible apply wantFix_keeps | with_reducible apply widthOf_keeps | intro _)

theorem execBitrev_keeps (a : At) (l : Long) (s : State) (hC : s.Canonical) {tR : State} (eR : execBitrev a l s = .next tR) : tR.Canonical := by
  unfold execBitrev at eR; cases eR; (first | apply runLong_keeps) <;> (repeat' first | assumption | intro _ | apply bodyBitrev_keeps)

theorem crcOp_keeps (st : Word) (d : CrcDesc) (k data : Nat) : Keeps (crcOp st d k data : M Word) := by
  unfold crcOp; (repeat' first | with_reducible exact Keeps.pure _ | with_reducible exact Keeps.error _ | with_reducible exact Keeps.read _ | with_reducible assumption | with_reducible apply Keeps.bind | with_reducible apply Keeps.map | with_reducible apply Keeps.mapM | with_reducible apply operandFault_keeps | intro _ | split)

theorem crcDescM_keeps (w : Word) (fold : Bool) : Keeps (crcDescM w fold : M (CrcDesc × Nat)) := by
  unfold crcDescM; (repeat' first | with_reducible exact Keeps.pure _ | with_reducible exact Keeps.error _ | with_reducible exact Keeps.read _ | with_reducible assumption | with_reducible apply Keeps.bind | with_reducible apply Keeps.map | with_reducible apply Keeps.mapM | with_reducible apply operandFault_keeps | intro _ | split)

theorem bodyCrcstep_keeps (l : Long) (x1 : CoreId) : Keeps (bodyCrcstep l x1 : M Flow) := by
  unfold bodyCrcstep; (repeat' first | with_reducible exact Keeps.pure _ | with_reducible exact Keeps.error _ | with_reducible exact Keeps.read _ | with_reducible assumption | with_reducible apply Keeps.bind | with_reducible apply Keeps.map | with_reducible apply Keeps.mapM | with_reducible apply regM_keeps | with_reducible apply bodyR_keeps | with_reducible apply wantFix_keeps | with_reducible apply crcOp_keeps | with_reducible apply crcDescM_keeps | intro _)

theorem execCrcstep_keeps (a : At) (l : Long) (s : State) (hC : s.Canonical) {tR : State} (eR : execCrcstep a l s = .next tR) : tR.Canonical := by
  unfold execCrcstep at eR; cases eR; (first | apply runLong_keeps) <;> (repeat' first | assumption | intro _ | apply bodyCrcstep_keeps)

/-! ### Objects -/

theorem healB_keeps (c : CoreId) (l : Long) (w : Word) : Keeps (healB c l w : M Word) := by
  unfold healB; (repeat' first | with_reducible exact Keeps.pure _ | with_reducible exact Keeps.error _ | with_reducible exact Keeps.read _ | with_reducible assumption | with_reducible apply Keeps.bind | with_reducible apply Keeps.map | with_reducible apply Keeps.mapM | with_reducible apply healM_keeps | with_reducible apply healRegM_keeps | intro _ | split)

theorem bodyCons_keeps (l : Long) (x1 : CoreId) : Keeps (bodyCons l x1 : M Flow) := by
  unfold bodyCons; (repeat' first | with_reducible exact Keeps.pure _ | with_reducible exact Keeps.error _ | with_reducible exact Keeps.read _ | with_reducible assumption | with_reducible apply Keeps.bind | with_reducible apply Keeps.map | with_reducible apply Keeps.mapM | with_reducible apply healRegM_keeps | with_reducible apply bodyR_keeps | with_reducible apply newCons_keeps | with_reducible apply healB_keeps | intro _)

theorem execCons_keeps (a : At) (l : Long) (s : State) (hC : s.Canonical) {tR : State} (eR : execCons a l s = .next tR) : tR.Canonical := by
  unfold execCons at eR; cases eR; (first | apply runLong_keeps) <;> (repeat' first | assumption | intro _ | apply bodyCons_keeps)

theorem cellWord_keeps (l : Long) (i : Nat) (c : CoreId) (b : Word) : Keeps (cellWord l i c b : M Word) := by
  unfold cellWord; (repeat' first | with_reducible exact Keeps.pure _ | with_reducible exact Keeps.error _ | with_reducible exact Keeps.read _ | with_reducible assumption | with_reducible apply Keeps.bind | with_reducible apply Keeps.map | with_reducible apply Keeps.mapM | with_reducible apply atStep_keeps | with_reducible apply operandFault_keeps | with_reducible apply loadWord_keeps | with_reducible apply openObject_keeps | with_reducible apply healB_keeps | intro _ | split)

theorem bodyCar_keeps (l : Long) (x1 : CoreId) : Keeps (bodyCar l x1 : M Flow) := by
  unfold bodyCar; (repeat' first | with_reducible exact Keeps.pure _ | with_reducible exact Keeps.error _ | with_reducible exact Keeps.read _ | with_reducible assumption | with_reducible apply Keeps.bind | with_reducible apply Keeps.map | with_reducible apply Keeps.mapM | with_reducible apply bodyU_keeps | with_reducible apply cellWord_keeps)

theorem execCar_keeps (a : At) (l : Long) (s : State) (hC : s.Canonical) {tR : State} (eR : execCar a l s = .next tR) : tR.Canonical := by
  unfold execCar at eR; cases eR; (first | apply runLong_keeps) <;> (repeat' first | assumption | intro _ | apply bodyCar_keeps)

theorem bodyCdr_keeps (l : Long) (x1 : CoreId) : Keeps (bodyCdr l x1 : M Flow) := by
  unfold bodyCdr; (repeat' first | with_reducible exact Keeps.pure _ | with_reducible exact Keeps.error _ | with_reducible exact Keeps.read _ | with_reducible assumption | with_reducible apply Keeps.bind | with_reducible apply Keeps.map | with_reducible apply Keeps.mapM | with_reducible apply bodyU_keeps | with_reducible apply cellWord_keeps)

theorem execCdr_keeps (a : At) (l : Long) (s : State) (hC : s.Canonical) {tR : State} (eR : execCdr a l s = .next tR) : tR.Canonical := by
  unfold execCdr at eR; cases eR; (first | apply runLong_keeps) <;> (repeat' first | assumption | intro _ | apply bodyCdr_keeps)

theorem cellWrite_keeps (l : Long) (i : Nat) (c : CoreId) (u0 b : Word) : Keeps (cellWrite l i c u0 b : M Unit) := by
  unfold cellWrite; (repeat' first | with_reducible exact Keeps.pure _ | with_reducible exact Keeps.error _ | with_reducible exact Keeps.read _ | with_reducible assumption | with_reducible apply Keeps.bind | with_reducible apply Keeps.map | with_reducible apply Keeps.mapM | with_reducible apply atStep_keeps | with_reducible apply operandFault_keeps | with_reducible apply healRegM_keeps | with_reducible apply openObject_keeps | with_reducible apply storeWord_keeps | with_reducible apply healB_keeps | intro _ | split)

theorem bodyRplaca_keeps (l : Long) (x1 : CoreId) : Keeps (bodyRplaca l x1 : M Flow) := by
  unfold bodyRplaca; (repeat' first | with_reducible exact Keeps.pure _ | with_reducible exact Keeps.error _ | with_reducible exact Keeps.read _ | with_reducible assumption | with_reducible apply Keeps.bind | with_reducible apply Keeps.map | with_reducible apply Keeps.mapM | with_reducible apply bodyC_keeps | with_reducible apply cellWrite_keeps)

theorem execRplaca_keeps (a : At) (l : Long) (s : State) (hC : s.Canonical) {tR : State} (eR : execRplaca a l s = .next tR) : tR.Canonical := by
  unfold execRplaca at eR; cases eR; (first | apply runLong_keeps) <;> (repeat' first | assumption | intro _ | apply bodyRplaca_keeps)

theorem bodyRplacd_keeps (l : Long) (x1 : CoreId) : Keeps (bodyRplacd l x1 : M Flow) := by
  unfold bodyRplacd; (repeat' first | with_reducible exact Keeps.pure _ | with_reducible exact Keeps.error _ | with_reducible exact Keeps.read _ | with_reducible assumption | with_reducible apply Keeps.bind | with_reducible apply Keeps.map | with_reducible apply Keeps.mapM | with_reducible apply bodyC_keeps | with_reducible apply cellWrite_keeps)

theorem execRplacd_keeps (a : At) (l : Long) (s : State) (hC : s.Canonical) {tR : State} (eR : execRplacd a l s = .next tR) : tR.Canonical := by
  unfold execRplacd at eR; cases eR; (first | apply runLong_keeps) <;> (repeat' first | assumption | intro _ | apply bodyRplacd_keeps)

theorem lengthOf_keeps (w : Word) : Keeps (lengthOf w : M Nat) := by
  unfold lengthOf; (repeat' first | with_reducible exact Keeps.pure _ | with_reducible exact Keeps.error _ | with_reducible exact Keeps.read _ | with_reducible assumption | with_reducible apply Keeps.bind | with_reducible apply Keeps.map | with_reducible apply Keeps.mapM | with_reducible apply operandFault_keeps | intro _ | split)

theorem sizeCheck_keeps (size : Nat) (w : Word) : Keeps (sizeCheck size w : M Unit) := by
  unfold sizeCheck; (repeat' first | with_reducible exact Keeps.pure _ | with_reducible exact Keeps.error _ | with_reducible exact Keeps.read _ | with_reducible assumption | with_reducible apply Keeps.bind | with_reducible apply Keeps.map | with_reducible apply Keeps.mapM | with_reducible apply operandFault_keeps | intro _ | split)

theorem sizeCheck_keeps_ok (size : Nat) (w : Word) {sA vA sB} (hA : State.Canonical sA) (eA : (sizeCheck size w : M Unit) sA = .ok (vA, sB)) : State.Canonical sB :=
  (sizeCheck_keeps size w).canonical sA vA sB hA eA

theorem bodyAllocv_keeps (l : Long) (x1 : CoreId) : Keeps (bodyAllocv l x1 : M Flow) := by
  unfold bodyAllocv; (repeat' first | with_reducible exact Keeps.pure _ | with_reducible exact Keeps.error _ | with_reducible exact Keeps.read _ | with_reducible assumption | with_reducible apply Keeps.bind | with_reducible apply Keeps.map | with_reducible apply Keeps.mapM | with_reducible apply operandFault_keeps | with_reducible apply bodyR_keeps | with_reducible apply newTagged_keeps | with_reducible apply lengthOf_keeps | with_reducible apply sizeCheck_keeps | intro _ | split)

theorem execAllocv_keeps (a : At) (l : Long) (s : State) (hC : s.Canonical) {tR : State} (eR : execAllocv a l s = .next tR) : tR.Canonical := by
  unfold execAllocv at eR; cases eR; (first | apply runLong_keeps) <;> (repeat' first | assumption | intro _ | apply bodyAllocv_keeps)

theorem bodyAllocb_keeps (l : Long) (x1 : CoreId) : Keeps (bodyAllocb l x1 : M Flow) := by
  unfold bodyAllocb; (repeat' first | with_reducible exact Keeps.pure _ | with_reducible exact Keeps.error _ | with_reducible exact Keeps.read _ | with_reducible assumption | with_reducible apply Keeps.bind | with_reducible apply Keeps.map | with_reducible apply Keeps.mapM | with_reducible apply operandFault_keeps | with_reducible apply bodyR_keeps | with_reducible apply newBytes_keeps | with_reducible apply lengthOf_keeps | with_reducible apply sizeCheck_keeps | intro _ | split)

theorem execAllocb_keeps (a : At) (l : Long) (s : State) (hC : s.Canonical) {tR : State} (eR : execAllocb a l s = .next tR) : tR.Canonical := by
  unfold execAllocb at eR; cases eR; (first | apply runLong_keeps) <;> (repeat' first | assumption | intro _ | apply bodyAllocb_keeps)

theorem freeSlots_keeps (x1 : Nat) : Keeps (freeSlots x1 : M (List Word)) := by
  induction x1 with
  | zero => unfold freeSlots; exact Keeps.pure _
  | succ n ih => unfold freeSlots; exact Keeps.bind freeM_keeps (fun _ => Keeps.bind ih (fun _ => Keeps.pure _))

theorem freeSlots_keeps_ok (x1 : Nat) {sA vA sB} (hA : State.Canonical sA) (eA : (freeSlots x1 : M (List Word)) sA = .ok (vA, sB)) : State.Canonical sB :=
  (freeSlots_keeps x1).canonical sA vA sB hA eA

theorem newCode_keeps (c : CoreId) (l : Long) (n : Nat) (b : Word) : Keeps (newCode c l n b : M Word) := by
  unfold newCode; (repeat' first | with_reducible exact Keeps.pure _ | with_reducible exact Keeps.error _ | with_reducible exact Keeps.read _ | with_reducible assumption | with_reducible apply Keeps.bind | with_reducible apply Keeps.map | with_reducible apply Keeps.mapM | with_reducible apply atStep_keeps | with_reducible apply operandFault_keeps | with_reducible apply loadBytes_keeps | with_reducible apply healRegM_keeps | with_reducible apply openObject_keeps | with_reducible apply newObject_keeps | with_reducible apply sizeCheck_keeps | with_reducible apply freeSlots_keeps | intro _ | split | dsimp only) <;> first | grind [→ atStep_keeps_ok, → operandFault_keeps_ok, → loadBytes_keeps_ok, → healRegM_keeps_ok, → openObject_keeps_ok, → newObject_keeps_ok, → sizeCheck_keeps_ok, → freeSlots_keeps_ok, foldl_canonical] | (constructor; intro sA vA sB hA eA; grind [→ atStep_keeps_ok, → operandFault_keeps_ok, → loadBytes_keeps_ok, → healRegM_keeps_ok, → openObject_keeps_ok, → newObject_keeps_ok, → sizeCheck_keeps_ok, → freeSlots_keeps_ok, foldl_canonical])

theorem bodyAlloci_keeps (l : Long) (x1 : CoreId) : Keeps (bodyAlloci l x1 : M Flow) := by
  unfold bodyAlloci; (repeat' first | with_reducible exact Keeps.pure _ | with_reducible exact Keeps.error _ | with_reducible exact Keeps.read _ | with_reducible assumption | with_reducible apply Keeps.bind | with_reducible apply Keeps.map | with_reducible apply Keeps.mapM | with_reducible apply operandFault_keeps | with_reducible apply bodyR_keeps | with_reducible apply newTagged_keeps | with_reducible apply lengthOf_keeps | with_reducible apply sizeCheck_keeps | with_reducible apply newCode_keeps | intro _ | split | dsimp only)

theorem execAlloci_keeps (a : At) (l : Long) (s : State) (hC : s.Canonical) {tR : State} (eR : execAlloci a l s = .next tR) : tR.Canonical := by
  unfold execAlloci at eR; cases eR; (first | apply runLong_keeps) <;> (repeat' first | assumption | intro _ | apply bodyAlloci_keeps)

theorem bodyLenof_keeps (l : Long) (x1 : CoreId) : Keeps (bodyLenof l x1 : M Flow) := by
  unfold bodyLenof; (repeat' first | with_reducible exact Keeps.pure _ | with_reducible exact Keeps.error _ | with_reducible exact Keeps.read _ | with_reducible assumption | with_reducible apply Keeps.bind | with_reducible apply Keeps.map | with_reducible apply Keeps.mapM | with_reducible apply operandFault_keeps | with_reducible apply openObject_keeps | with_reducible apply bodyU_keeps | with_reducible apply healB_keeps | intro _ | split)

theorem execLenof_keeps (a : At) (l : Long) (s : State) (hC : s.Canonical) {tR : State} (eR : execLenof a l s = .next tR) : tR.Canonical := by
  unfold execLenof at eR; cases eR; (first | apply runLong_keeps) <;> (repeat' first | assumption | intro _ | apply bodyLenof_keeps)

theorem bodyClassof_keeps (l : Long) (x1 : CoreId) : Keeps (bodyClassof l x1 : M Flow) := by
  unfold bodyClassof; (repeat' first | with_reducible exact Keeps.pure _ | with_reducible exact Keeps.error _ | with_reducible exact Keeps.read _ | with_reducible assumption | with_reducible apply Keeps.bind | with_reducible apply Keeps.map | with_reducible apply Keeps.mapM | with_reducible apply operandFault_keeps | with_reducible apply openObject_keeps | with_reducible apply bodyU_keeps | with_reducible apply healB_keeps | intro _ | split)

theorem execClassof_keeps (a : At) (l : Long) (s : State) (hC : s.Canonical) {tR : State} (eR : execClassof a l s = .next tR) : tR.Canonical := by
  unfold execClassof at eR; cases eR; (first | apply runLong_keeps) <;> (repeat' first | assumption | intro _ | apply bodyClassof_keeps)

theorem identityHash_keeps (c : CoreId) (w : Word) : Keeps (identityHash c w : M Word) := by
  unfold identityHash; (repeat' first | with_reducible exact Keeps.pure _ | with_reducible exact Keeps.error _ | with_reducible exact Keeps.read _ | with_reducible assumption | with_reducible apply Keeps.bind | with_reducible apply Keeps.map | with_reducible apply Keeps.mapM | with_reducible apply atStep_keeps | with_reducible apply operandFault_keeps | with_reducible apply loadWord_keeps | with_reducible apply openObject_keeps | with_reducible apply drainM_keeps | with_reducible apply atomicWrite_keeps | intro _ | split)

theorem bodyIdhash_keeps (l : Long) (x1 : CoreId) : Keeps (bodyIdhash l x1 : M Flow) := by
  unfold bodyIdhash; (repeat' first | with_reducible exact Keeps.pure _ | with_reducible exact Keeps.error _ | with_reducible exact Keeps.read _ | with_reducible assumption | with_reducible apply Keeps.bind | with_reducible apply Keeps.map | with_reducible apply Keeps.mapM | with_reducible apply operandFault_keeps | with_reducible apply bodyU_keeps | with_reducible apply healB_keeps | with_reducible apply identityHash_keeps | intro _ | split)

theorem execIdhash_keeps (a : At) (l : Long) (s : State) (hC : s.Canonical) {tR : State} (eR : execIdhash a l s = .next tR) : tR.Canonical := by
  unfold execIdhash at eR; cases eR; (first | apply runLong_keeps) <;> (repeat' first | assumption | intro _ | apply bodyIdhash_keeps)

theorem strongOf_keeps (c : CoreId) (w : Word) : Keeps (strongOf c w : M Word) := by
  unfold strongOf; (repeat' first | with_reducible exact Keeps.pure _ | with_reducible exact Keeps.error _ | with_reducible exact Keeps.read _ | with_reducible assumption | with_reducible apply Keeps.bind | with_reducible apply Keeps.map | with_reducible apply Keeps.mapM | with_reducible apply openObject_keeps | intro _ | split | dsimp only) <;> first | grind [← setMark_keeps, → openObject_keeps_ok, foldl_canonical] | (constructor; intro sA vA sB hA eA; grind [← setMark_keeps, → openObject_keeps_ok, foldl_canonical])

theorem bodyWeakref_keeps (l : Long) (x1 : CoreId) : Keeps (bodyWeakref l x1 : M Flow) := by
  unfold bodyWeakref; (repeat' first | with_reducible exact Keeps.pure _ | with_reducible exact Keeps.error _ | with_reducible exact Keeps.read _ | with_reducible assumption | with_reducible apply Keeps.bind | with_reducible apply Keeps.map | with_reducible apply Keeps.mapM | with_reducible apply operandFault_keeps | with_reducible apply bodyR_keeps | with_reducible apply healB_keeps | with_reducible apply strongOf_keeps | intro _ | split)

theorem execWeakref_keeps (a : At) (l : Long) (s : State) (hC : s.Canonical) {tR : State} (eR : execWeakref a l s = .next tR) : tR.Canonical := by
  unfold execWeakref at eR; cases eR; (first | apply runLong_keeps) <;> (repeat' first | assumption | intro _ | apply bodyWeakref_keeps)

theorem setHeaderFlag_keeps (c : CoreId) (o : Obj) (h : Word) (i : Nat) (b : Bool) : Keeps (setHeaderFlag c o h i b : M Unit) := by
  unfold setHeaderFlag; (repeat' first | with_reducible exact Keeps.pure _ | with_reducible exact Keeps.error _ | with_reducible exact Keeps.read _ | with_reducible assumption | with_reducible apply Keeps.bind | with_reducible apply Keeps.map | with_reducible apply Keeps.mapM | with_reducible apply atStep_keeps | with_reducible apply drainM_keeps | with_reducible apply atomicWrite_keeps | intro _)

theorem setHeaderFlag_keeps_ok (c : CoreId) (o : Obj) (h : Word) (i : Nat) (b : Bool) {sA vA sB} (hA : State.Canonical sA) (eA : (setHeaderFlag c o h i b : M Unit) sA = .ok (vA, sB)) : State.Canonical sB :=
  (setHeaderFlag_keeps c o h i b).canonical sA vA sB hA eA

theorem codeReady_keeps (c : CoreId) (o : Obj) (h : Word) : Keeps (codeReady c o h : M Bool) := by
  unfold codeReady; (repeat' first | with_reducible exact Keeps.pure _ | with_reducible exact Keeps.error _ | with_reducible exact Keeps.read _ | with_reducible assumption | with_reducible apply Keeps.bind | with_reducible apply Keeps.map | with_reducible apply Keeps.mapM | with_reducible apply atStep_keeps | with_reducible apply loadWord_keeps | intro _)

theorem codeReady_keeps_ok (c : CoreId) (o : Obj) (h : Word) {sA vA sB} (hA : State.Canonical sA) (eA : (codeReady c o h : M Bool) sA = .ok (vA, sB)) : State.Canonical sB :=
  (codeReady_keeps c o h).canonical sA vA sB hA eA

theorem markPinned_keeps (s : State) (va : Nat) (hC : s.Canonical) : (markPinned s va).Canonical := by
  grind [markPinned, ← descField_keeps, foldl_canonical]

theorem bodyPin_keeps (l : Long) (x1 : CoreId) : Keeps (bodyPin l x1 : M Flow) := by
  unfold bodyPin; (repeat' first | with_reducible exact Keeps.pure _ | with_reducible exact Keeps.error _ | with_reducible exact Keeps.read _ | with_reducible assumption | with_reducible apply Keeps.bind | with_reducible apply Keeps.map | with_reducible apply Keeps.mapM | with_reducible apply operandFault_keeps | with_reducible apply healRegM_keeps | with_reducible apply openObject_keeps | with_reducible apply bodyC_keeps | with_reducible apply wantFix_keeps | with_reducible apply setHeaderFlag_keeps | with_reducible apply codeReady_keeps | intro _ | split | dsimp only) <;> first | grind [→ operandFault_keeps_ok, → healRegM_keeps_ok, → openObject_keeps_ok, → bodyC_keeps_ok, → wantFix_keeps_ok, → setHeaderFlag_keeps_ok, → codeReady_keeps_ok, ← markPinned_keeps, foldl_canonical] | (constructor; intro sA vA sB hA eA; grind [→ operandFault_keeps_ok, → healRegM_keeps_ok, → openObject_keeps_ok, → bodyC_keeps_ok, → wantFix_keeps_ok, → setHeaderFlag_keeps_ok, → codeReady_keeps_ok, ← markPinned_keeps, foldl_canonical])

theorem execPin_keeps (a : At) (l : Long) (s : State) (hC : s.Canonical) {tR : State} (eR : execPin a l s = .next tR) : tR.Canonical := by
  unfold execPin at eR; cases eR; (first | apply runLong_keeps) <;> (repeat' first | assumption | intro _ | apply bodyPin_keeps)

theorem bodyUnpin_keeps (l : Long) (x1 : CoreId) : Keeps (bodyUnpin l x1 : M Flow) := by
  unfold bodyUnpin; (repeat' first | with_reducible exact Keeps.pure _ | with_reducible exact Keeps.error _ | with_reducible exact Keeps.read _ | with_reducible assumption | with_reducible apply Keeps.bind | with_reducible apply Keeps.map | with_reducible apply Keeps.mapM | with_reducible apply operandFault_keeps | with_reducible apply healRegM_keeps | with_reducible apply openObject_keeps | with_reducible apply bodyC_keeps | with_reducible apply wantFix_keeps | with_reducible apply setHeaderFlag_keeps | intro _ | split)

theorem execUnpin_keeps (a : At) (l : Long) (s : State) (hC : s.Canonical) {tR : State} (eR : execUnpin a l s = .next tR) : tR.Canonical := by
  unfold execUnpin at eR; cases eR; (first | apply runLong_keeps) <;> (repeat' first | assumption | intro _ | apply bodyUnpin_keeps)

theorem bodyBitaddr_keeps (l : Long) (x1 : CoreId) : Keeps (bodyBitaddr l x1 : M Flow) := by
  unfold bodyBitaddr; (repeat' first | with_reducible exact Keeps.pure _ | with_reducible exact Keeps.error _ | with_reducible exact Keeps.read _ | with_reducible assumption | with_reducible apply Keeps.bind | with_reducible apply Keeps.map | with_reducible apply Keeps.mapM | with_reducible apply trapM_keeps | with_reducible apply operandFault_keeps | with_reducible apply healRegM_keeps | with_reducible apply openObject_keeps | with_reducible apply bodyR_keeps | with_reducible apply wantFix_keeps | intro _ | split)

theorem execBitaddr_keeps (a : At) (l : Long) (s : State) (hC : s.Canonical) {tR : State} (eR : execBitaddr a l s = .next tR) : tR.Canonical := by
  unfold execBitaddr at eR; cases eR; (first | apply runLong_keeps) <;> (repeat' first | assumption | intro _ | apply bodyBitaddr_keeps)

theorem bodyTagset_keeps (l : Long) (x1 : CoreId) : Keeps (bodyTagset l x1 : M Flow) := by
  unfold bodyTagset; (repeat' first | with_reducible exact Keeps.pure _ | with_reducible exact Keeps.error _ | with_reducible exact Keeps.read _ | with_reducible assumption | with_reducible apply Keeps.bind | with_reducible apply Keeps.map | with_reducible apply Keeps.mapM | with_reducible apply trapM_keeps | with_reducible apply operandFault_keeps | with_reducible apply bodyR_keeps | intro _ | split | dsimp only)

theorem execTagset_keeps (a : At) (l : Long) (s : State) (hC : s.Canonical) {tR : State} (eR : execTagset a l s = .next tR) : tR.Canonical := by
  unfold execTagset at eR; cases eR; (first | apply runLong_keeps) <;> (repeat' first | assumption | intro _ | apply bodyTagset_keeps)

theorem bodyTagof_keeps (l : Long) (x1 : CoreId) : Keeps (bodyTagof l x1 : M Flow) := by
  unfold bodyTagof; (repeat' first | with_reducible exact Keeps.pure _ | with_reducible exact Keeps.error _ | with_reducible exact Keeps.read _ | with_reducible assumption | with_reducible apply Keeps.bind | with_reducible apply Keeps.map | with_reducible apply Keeps.mapM | with_reducible apply bodyU_keeps | intro _)

theorem execTagof_keeps (a : At) (l : Long) (s : State) (hC : s.Canonical) {tR : State} (eR : execTagof a l s = .next tR) : tR.Canonical := by
  unfold execTagof at eR; cases eR; (first | apply runLong_keeps) <;> (repeat' first | assumption | intro _ | apply bodyTagof_keeps)

theorem tageqOp_keeps (c : CoreId) (a b : Word) : Keeps (tageqOp c a b : M Unit) := by
  unfold tageqOp; (repeat' first | with_reducible exact Keeps.pure _ | with_reducible exact Keeps.error _ | with_reducible exact Keeps.read _ | with_reducible assumption | with_reducible apply Keeps.bind | with_reducible apply Keeps.map | with_reducible apply Keeps.mapM | with_reducible apply setBitM_keeps)

theorem bodyTageq_keeps (l : Long) (x1 : CoreId) : Keeps (bodyTageq l x1 : M Flow) := by
  unfold bodyTageq; (repeat' first | with_reducible exact Keeps.pure _ | with_reducible exact Keeps.error _ | with_reducible exact Keeps.read _ | with_reducible assumption | with_reducible apply Keeps.bind | with_reducible apply Keeps.map | with_reducible apply Keeps.mapM | with_reducible apply bodyC_keeps | with_reducible apply tageqOp_keeps)

theorem execTageq_keeps (a : At) (l : Long) (s : State) (hC : s.Canonical) {tR : State} (eR : execTageq a l s = .next tR) : tR.Canonical := by
  unfold execTageq at eR; cases eR; (first | apply runLong_keeps) <;> (repeat' first | assumption | intro _ | apply bodyTageq_keeps)

theorem classisOp_keeps (c : CoreId) (a b : Word) : Keeps (classisOp c a b : M Unit) := by
  unfold classisOp; (repeat' first | with_reducible exact Keeps.pure _ | with_reducible exact Keeps.error _ | with_reducible exact Keeps.read _ | with_reducible assumption | with_reducible apply Keeps.bind | with_reducible apply Keeps.map | with_reducible apply Keeps.mapM | with_reducible apply setBitM_keeps | with_reducible apply operandFault_keeps | intro _ | split)

theorem bodyClassis_keeps (l : Long) (x1 : CoreId) : Keeps (bodyClassis l x1 : M Flow) := by
  unfold bodyClassis; (repeat' first | with_reducible exact Keeps.pure _ | with_reducible exact Keeps.error _ | with_reducible exact Keeps.read _ | with_reducible assumption | with_reducible apply Keeps.bind | with_reducible apply Keeps.map | with_reducible apply Keeps.mapM | with_reducible apply bodyC_keeps | with_reducible apply classisOp_keeps)

theorem execClassis_keeps (a : At) (l : Long) (s : State) (hC : s.Canonical) {tR : State} (eR : execClassis a l s = .next tR) : tR.Canonical := by
  unfold execClassis at eR; cases eR; (first | apply runLong_keeps) <;> (repeat' first | assumption | intro _ | apply bodyClassis_keeps)

theorem bodyEq_keeps (l : Long) (x1 : CoreId) : Keeps (bodyEq l x1 : M Flow) := by
  unfold bodyEq; (repeat' first | with_reducible exact Keeps.pure _ | with_reducible exact Keeps.error _ | with_reducible exact Keeps.read _ | with_reducible assumption | with_reducible apply Keeps.bind | with_reducible apply Keeps.map | with_reducible apply Keeps.mapM | with_reducible apply setBitM_keeps | with_reducible apply healRegM_keeps | with_reducible apply bodyC_keeps | with_reducible apply healB_keeps | intro _)

theorem execEq_keeps (a : At) (l : Long) (s : State) (hC : s.Canonical) {tR : State} (eR : execEq a l s = .next tR) : tR.Canonical := by
  unfold execEq at eR; cases eR; (first | apply runLong_keeps) <;> (repeat' first | assumption | intro _ | apply bodyEq_keeps)

theorem eqlValue_keeps (c : CoreId) (x y : Word) : Keeps (eqlValue c x y : M Bool) := by
  unfold eqlValue; (repeat' first | with_reducible exact Keeps.pure _ | with_reducible exact Keeps.error _ | with_reducible exact Keeps.read _ | with_reducible assumption | with_reducible apply Keeps.bind | with_reducible apply Keeps.map | with_reducible apply Keeps.mapM | with_reducible apply numOf_keeps | intro _ | split | dsimp only)

theorem bodyEql_keeps (l : Long) (x1 : CoreId) : Keeps (bodyEql l x1 : M Flow) := by
  unfold bodyEql; (repeat' first | with_reducible exact Keeps.pure _ | with_reducible exact Keeps.error _ | with_reducible exact Keeps.read _ | with_reducible assumption | with_reducible apply Keeps.bind | with_reducible apply Keeps.map | with_reducible apply Keeps.mapM | with_reducible apply setBitM_keeps | with_reducible apply healRegM_keeps | with_reducible apply bodyC_keeps | with_reducible apply dispatch_keeps | with_reducible apply healB_keeps | with_reducible apply eqlValue_keeps | intro _ | split)

theorem execEql_keeps (a : At) (l : Long) (s : State) (hC : s.Canonical) {tR : State} (eR : execEql a l s = .next tR) : tR.Canonical := by
  unfold execEql at eR; cases eR; (first | apply runLong_keeps) <;> (repeat' first | assumption | intro _ | apply bodyEql_keeps)

/-! ### Atomics -/

theorem bodyCasw_keeps (l : Long) (c : CoreId) : Keeps (bodyCasw l c : M Flow) := by
  unfold bodyCasw; (repeat' first | with_reducible exact Keeps.pure _ | with_reducible exact Keeps.error _ | with_reducible exact Keeps.read _ | with_reducible assumption | with_reducible apply Keeps.bind | with_reducible apply Keeps.map | with_reducible apply Keeps.mapM | with_reducible apply setRegM_keeps | with_reducible apply setBitM_keeps | with_reducible apply healRegM_keeps | with_reducible apply resolveB_keeps | with_reducible apply postB_keeps | with_reducible apply atomicWord_keeps | intro _ | split)

theorem execCasw_keeps (a : At) (l : Long) (s : State) (hC : s.Canonical) {tR : State} (eR : execCasw a l s = .next tR) : tR.Canonical := by
  unfold execCasw at eR; cases eR; (first | apply runLong_keeps) <;> (repeat' first | assumption | intro _ | apply bodyCasw_keeps)

theorem bodyFaddw_keeps (l : Long) (c : CoreId) : Keeps (bodyFaddw l c : M Flow) := by
  unfold bodyFaddw; (repeat' first | with_reducible exact Keeps.pure _ | with_reducible exact Keeps.error _ | with_reducible exact Keeps.read _ | with_reducible assumption | with_reducible apply Keeps.bind | with_reducible apply Keeps.map | with_reducible apply Keeps.mapM | with_reducible apply regM_keeps | with_reducible apply setRegM_keeps | with_reducible apply resolveB_keeps | with_reducible apply postB_keeps | with_reducible apply setFlagsM_keeps | with_reducible apply atomicWord_keeps | with_reducible apply wantFix_keeps | intro _ | split)

theorem execFaddw_keeps (a : At) (l : Long) (s : State) (hC : s.Canonical) {tR : State} (eR : execFaddw a l s = .next tR) : tR.Canonical := by
  unfold execFaddw at eR; cases eR; (first | apply runLong_keeps) <;> (repeat' first | assumption | intro _ | apply bodyFaddw_keeps)

theorem loadGranule_keeps (c : CoreId) (va : Nat) : Keeps (loadGranule c va : M (Word × Word)) := by
  unfold loadGranule; (repeat' first | with_reducible exact Keeps.pure _ | with_reducible exact Keeps.error _ | with_reducible exact Keeps.read _ | with_reducible assumption | with_reducible apply Keeps.bind | with_reducible apply Keeps.map | with_reducible apply Keeps.mapM | with_reducible apply atStep_keeps | with_reducible apply loadWord_keeps | with_reducible apply drainM_keeps | intro _)

theorem writeGranuleM_keeps (c : CoreId) (va : Nat) (imm : Bool) (x y : Word) : Keeps (writeGranuleM c va imm x y : M Unit) := by
  unfold writeGranuleM; (repeat' first | with_reducible exact Keeps.pure _ | with_reducible exact Keeps.error _ | with_reducible exact Keeps.read _ | with_reducible assumption | with_reducible apply Keeps.bind | with_reducible apply Keeps.map | with_reducible apply Keeps.mapM | with_reducible apply trapM_keeps | with_reducible apply atStep_keeps | with_reducible apply loadRaw_keeps | with_reducible apply atomicWrite_keeps | with_reducible apply immutableFault_keeps | intro _ | split)

theorem bodyCasg_keeps (l : Long) (c : CoreId) : Keeps (bodyCasg l c : M Flow) := by
  unfold bodyCasg; (repeat' first | with_reducible exact Keeps.pure _ | with_reducible exact Keeps.error _ | with_reducible exact Keeps.read _ | with_reducible assumption | with_reducible apply Keeps.bind | with_reducible apply Keeps.map | with_reducible apply Keeps.mapM | with_reducible apply setRegM_keeps | with_reducible apply setBitM_keeps | with_reducible apply healRegM_keeps | with_reducible apply resolveB_keeps | with_reducible apply postB_keeps | with_reducible apply loadGranule_keeps | with_reducible apply writeGranuleM_keeps | intro _ | split | dsimp only)

theorem execCasg_keeps (a : At) (l : Long) (s : State) (hC : s.Canonical) {tR : State} (eR : execCasg a l s = .next tR) : tR.Canonical := by
  unfold execCasg at eR; cases eR; (first | apply runLong_keeps) <;> (repeat' first | assumption | intro _ | apply bodyCasg_keeps)

theorem bodySwpg_keeps (l : Long) (c : CoreId) : Keeps (bodySwpg l c : M Flow) := by
  unfold bodySwpg; (repeat' first | with_reducible exact Keeps.pure _ | with_reducible exact Keeps.error _ | with_reducible exact Keeps.read _ | with_reducible assumption | with_reducible apply Keeps.bind | with_reducible apply Keeps.map | with_reducible apply Keeps.mapM | with_reducible apply setRegM_keeps | with_reducible apply healRegM_keeps | with_reducible apply resolveB_keeps | with_reducible apply postB_keeps | with_reducible apply loadGranule_keeps | with_reducible apply writeGranuleM_keeps | intro _ | split)

theorem execSwpg_keeps (a : At) (l : Long) (s : State) (hC : s.Canonical) {tR : State} (eR : execSwpg a l s = .next tR) : tR.Canonical := by
  unfold execSwpg at eR; cases eR; (first | apply runLong_keeps) <;> (repeat' first | assumption | intro _ | apply bodySwpg_keeps)

theorem sumOperand_keeps (l : Long) (a b : Word) : Keeps (sumOperand l a b : M Int) := by
  unfold sumOperand; (repeat' first | with_reducible exact Keeps.pure _ | with_reducible exact Keeps.error _ | with_reducible exact Keeps.read _ | with_reducible assumption | with_reducible apply Keeps.bind | with_reducible apply Keeps.map | with_reducible apply Keeps.mapM | with_reducible apply wantFix_keeps | intro _ | split)

theorem bitNumber_keeps (l : Long) (a b : Word) : Keeps (bitNumber l a b : M Nat) := by
  unfold bitNumber; (repeat' first | with_reducible exact Keeps.pure _ | with_reducible exact Keeps.error _ | with_reducible exact Keeps.read _ | with_reducible assumption | with_reducible apply Keeps.bind | with_reducible apply Keeps.map | with_reducible apply Keeps.mapM | with_reducible apply operandFault_keeps | with_reducible apply sumOperand_keeps | intro _ | split)

theorem bodyBset_keeps (l : Long) (x1 : CoreId) : Keeps (bodyBset l x1 : M Flow) := by
  unfold bodyBset; (repeat' first | with_reducible exact Keeps.pure _ | with_reducible exact Keeps.error _ | with_reducible exact Keeps.read _ | with_reducible assumption | with_reducible apply Keeps.bind | with_reducible apply Keeps.map | with_reducible apply Keeps.mapM | with_reducible apply setBitM_keeps | with_reducible apply bodyC_keeps | with_reducible apply bitNumber_keeps | intro _)

theorem execBset_keeps (a : At) (l : Long) (s : State) (hC : s.Canonical) {tR : State} (eR : execBset a l s = .next tR) : tR.Canonical := by
  unfold execBset at eR; cases eR; (first | apply runLong_keeps) <;> (repeat' first | assumption | intro _ | apply bodyBset_keeps)

theorem bodyBclr_keeps (l : Long) (x1 : CoreId) : Keeps (bodyBclr l x1 : M Flow) := by
  unfold bodyBclr; (repeat' first | with_reducible exact Keeps.pure _ | with_reducible exact Keeps.error _ | with_reducible exact Keeps.read _ | with_reducible assumption | with_reducible apply Keeps.bind | with_reducible apply Keeps.map | with_reducible apply Keeps.mapM | with_reducible apply setBitM_keeps | with_reducible apply bodyC_keeps | with_reducible apply bitNumber_keeps | intro _)

theorem execBclr_keeps (a : At) (l : Long) (s : State) (hC : s.Canonical) {tR : State} (eR : execBclr a l s = .next tR) : tR.Canonical := by
  unfold execBclr at eR; cases eR; (first | apply runLong_keeps) <;> (repeat' first | assumption | intro _ | apply bodyBclr_keeps)

theorem bodyBtest_keeps (l : Long) (x1 : CoreId) : Keeps (bodyBtest l x1 : M Flow) := by
  unfold bodyBtest; (repeat' first | with_reducible exact Keeps.pure _ | with_reducible exact Keeps.error _ | with_reducible exact Keeps.read _ | with_reducible assumption | with_reducible apply Keeps.bind | with_reducible apply Keeps.map | with_reducible apply Keeps.mapM | with_reducible apply getC_keeps | with_reducible apply setBitM_keeps | with_reducible apply bodyC_keeps | with_reducible apply bitNumber_keeps | intro _)

theorem execBtest_keeps (a : At) (l : Long) (s : State) (hC : s.Canonical) {tR : State} (eR : execBtest a l s = .next tR) : tR.Canonical := by
  unfold execBtest at eR; cases eR; (first | apply runLong_keeps) <;> (repeat' first | assumption | intro _ | apply bodyBtest_keeps)

theorem bitArgs_keeps (l : Long) (a b : Word) (unary : Bool) : Keeps (bitArgs l a b unary : M (Nat × Nat × Nat × Bool)) := by
  unfold bitArgs; (repeat' first | with_reducible exact Keeps.pure _ | with_reducible exact Keeps.error _ | with_reducible exact Keeps.read _ | with_reducible assumption | with_reducible apply Keeps.bind | with_reducible apply Keeps.map | with_reducible apply Keeps.mapM | with_reducible apply operandFault_keeps | with_reducible apply wantFix_keeps | intro _ | split | dsimp only)

theorem bitOp_keeps (l : Long) (unary : Bool) (f : Bool → Bool → Bool) (c : CoreId) (a b : Word) : Keeps (bitOp l unary f c a b : M Unit) := by
  unfold bitOp; (repeat' first | with_reducible exact Keeps.pure _ | with_reducible exact Keeps.error _ | with_reducible exact Keeps.read _ | with_reducible assumption | with_reducible apply Keeps.bind | with_reducible apply Keeps.map | with_reducible apply Keeps.mapM | with_reducible apply getC_keeps | with_reducible apply setBitM_keeps | with_reducible apply bitArgs_keeps | intro _)

theorem bodyBmov_keeps (l : Long) (x1 : CoreId) : Keeps (bodyBmov l x1 : M Flow) := by
  unfold bodyBmov; (repeat' first | with_reducible exact Keeps.pure _ | with_reducible exact Keeps.error _ | with_reducible exact Keeps.read _ | with_reducible assumption | with_reducible apply Keeps.bind | with_reducible apply Keeps.map | with_reducible apply Keeps.mapM | with_reducible apply bodyC_keeps | with_reducible apply bitOp_keeps)

theorem execBmov_keeps (a : At) (l : Long) (s : State) (hC : s.Canonical) {tR : State} (eR : execBmov a l s = .next tR) : tR.Canonical := by
  unfold execBmov at eR; cases eR; (first | apply runLong_keeps) <;> (repeat' first | assumption | intro _ | apply bodyBmov_keeps)

theorem bodyBand_keeps (l : Long) (x1 : CoreId) : Keeps (bodyBand l x1 : M Flow) := by
  unfold bodyBand; (repeat' first | with_reducible exact Keeps.pure _ | with_reducible exact Keeps.error _ | with_reducible exact Keeps.read _ | with_reducible assumption | with_reducible apply Keeps.bind | with_reducible apply Keeps.map | with_reducible apply Keeps.mapM | with_reducible apply bodyC_keeps | with_reducible apply bitOp_keeps)

theorem execBand_keeps (a : At) (l : Long) (s : State) (hC : s.Canonical) {tR : State} (eR : execBand a l s = .next tR) : tR.Canonical := by
  unfold execBand at eR; cases eR; (first | apply runLong_keeps) <;> (repeat' first | assumption | intro _ | apply bodyBand_keeps)

theorem bodyBor_keeps (l : Long) (x1 : CoreId) : Keeps (bodyBor l x1 : M Flow) := by
  unfold bodyBor; (repeat' first | with_reducible exact Keeps.pure _ | with_reducible exact Keeps.error _ | with_reducible exact Keeps.read _ | with_reducible assumption | with_reducible apply Keeps.bind | with_reducible apply Keeps.map | with_reducible apply Keeps.mapM | with_reducible apply bodyC_keeps | with_reducible apply bitOp_keeps)

theorem execBor_keeps (a : At) (l : Long) (s : State) (hC : s.Canonical) {tR : State} (eR : execBor a l s = .next tR) : tR.Canonical := by
  unfold execBor at eR; cases eR; (first | apply runLong_keeps) <;> (repeat' first | assumption | intro _ | apply bodyBor_keeps)

theorem bodyBxor_keeps (l : Long) (x1 : CoreId) : Keeps (bodyBxor l x1 : M Flow) := by
  unfold bodyBxor; (repeat' first | with_reducible exact Keeps.pure _ | with_reducible exact Keeps.error _ | with_reducible exact Keeps.read _ | with_reducible assumption | with_reducible apply Keeps.bind | with_reducible apply Keeps.map | with_reducible apply Keeps.mapM | with_reducible apply bodyC_keeps | with_reducible apply bitOp_keeps)

theorem execBxor_keeps (a : At) (l : Long) (s : State) (hC : s.Canonical) {tR : State} (eR : execBxor a l s = .next tR) : tR.Canonical := by
  unfold execBxor at eR; cases eR; (first | apply runLong_keeps) <;> (repeat' first | assumption | intro _ | apply bodyBxor_keeps)

end Sys2Proof.Machine
end

