-- ==== Sys2Proof/Laws/KeepsControl.lean ====
section
/-! SUPPORT. Memory stays canonical: the long operations of control and context, pairs and bundles. One lemma per operation. -/

namespace Sys2Proof.Machine

open Sys2Proof

/-! ### Control -/

theorem continueAt_keeps (s : State) (c : CoreId) (w : Word) (hC : s.Canonical) : (continueAt s c w).Canonical := by
  grind [continueAt, ← State.setCore_keeps, foldl_canonical]

theorem jumpTarget_keeps (c : CoreId) (w : Word) : Keeps (jumpTarget c w : M Word) := by
  unfold jumpTarget; (repeat' first | with_reducible exact Keeps.pure _ | with_reducible exact Keeps.error _ | with_reducible exact Keeps.read _ | with_reducible assumption | with_reducible apply Keeps.bind | with_reducible apply Keeps.map | with_reducible apply Keeps.mapM | with_reducible apply operandFault_keeps | intro _ | split | dsimp only) <;> first | grind [→ operandFault_keeps_ok, foldl_canonical] | (constructor; intro sA vA sB hA eA; grind [→ operandFault_keeps_ok, foldl_canonical])

theorem returnTarget_keeps (c : CoreId) (w : Word) : Keeps (returnTarget c w : M Word) := by
  unfold returnTarget; (repeat' first | with_reducible exact Keeps.pure _ | with_reducible exact Keeps.error _ | with_reducible exact Keeps.read _ | with_reducible assumption | with_reducible apply Keeps.bind | with_reducible apply Keeps.map | with_reducible apply Keeps.mapM | with_reducible apply operandFault_keeps | intro _ | split | dsimp only) <;> first | grind [→ operandFault_keeps_ok, foldl_canonical] | (constructor; intro sA vA sB hA eA; grind [→ operandFault_keeps_ok, foldl_canonical])

theorem continueM_keeps (c : CoreId) (w : Word) : Keeps (continueM c w : M Unit) := by
  unfold continueM; (repeat' first | with_reducible exact Keeps.pure _ | with_reducible exact Keeps.error _ | with_reducible exact Keeps.read _ | with_reducible assumption | with_reducible apply Keeps.bind | with_reducible apply Keeps.map | with_reducible apply Keeps.mapM | intro _ | split | dsimp only) <;> first | grind [← continueAt_keeps, foldl_canonical] | (constructor; intro sA vA sB hA eA; grind [← continueAt_keeps, foldl_canonical])

theorem continueM_keeps_ok (c : CoreId) (w : Word) {sA vA sB} (hA : State.Canonical sA) (eA : (continueM c w : M Unit) sA = .ok (vA, sB)) : State.Canonical sB :=
  (continueM_keeps c w).canonical sA vA sB hA eA

theorem enterM_keeps (c : CoreId) (t : Target) : Keeps (enterM c t : M Unit) := by
  unfold enterM; (repeat' first | with_reducible exact Keeps.pure _ | with_reducible exact Keeps.error _ | with_reducible exact Keeps.read _ | with_reducible assumption | with_reducible apply Keeps.bind | with_reducible apply Keeps.map | with_reducible apply Keeps.mapM | intro _ | split | dsimp only) <;> first | grind [← enterCode_keeps, foldl_canonical] | (constructor; intro sA vA sB hA eA; grind [← enterCode_keeps, foldl_canonical])

theorem operandX_keeps (op : Opcode) (l : Long) (c : CoreId) : Keeps (operandX op l c : M Word) := by
  unfold operandX; (repeat' first | with_reducible exact Keeps.pure _ | with_reducible exact Keeps.error _ | with_reducible exact Keeps.read _ | with_reducible assumption | with_reducible apply Keeps.bind | with_reducible apply Keeps.map | with_reducible apply Keeps.mapM | with_reducible apply resolveB_keeps | with_reducible apply readB_keeps | with_reducible apply postB_keeps | intro _)

theorem bodyJmp_keeps (l : Long) (c : CoreId) : Keeps (bodyJmp l c : M Flow) := by
  unfold bodyJmp; (repeat' first | with_reducible exact Keeps.pure _ | with_reducible exact Keeps.error _ | with_reducible exact Keeps.read _ | with_reducible assumption | with_reducible apply Keeps.bind | with_reducible apply Keeps.map | with_reducible apply Keeps.mapM | with_reducible apply atStep_keeps | with_reducible apply jumpTarget_keeps | with_reducible apply continueM_keeps | with_reducible apply operandX_keeps | intro _)

theorem execJmp_keeps (a : At) (l : Long) (s : State) (hC : s.Canonical) {tR : State} (eR : execJmp a l s = .next tR) : tR.Canonical := by
  unfold execJmp at eR; cases eR; (first | apply runLong_keeps) <;> (repeat' first | assumption | intro _ | apply bodyJmp_keeps)

theorem callTo_keeps (c : CoreId) (t : Target) (rotate : Bool) (next : Nat) : Keeps (callTo c t rotate next : M Unit) := by
  unfold callTo; (repeat' first | with_reducible exact Keeps.pure _ | with_reducible exact Keeps.error _ | with_reducible exact Keeps.read _ | with_reducible assumption | with_reducible apply Keeps.bind | with_reducible apply Keeps.map | with_reducible apply Keeps.mapM | with_reducible apply getC_keeps | with_reducible apply modC_keeps | with_reducible apply setRegM_keeps | with_reducible apply wantForward_keeps | with_reducible apply enterM_keeps | intro _ | split)

theorem callBody_keeps (op : Opcode) (l : Long) (rotate : Bool) (len : Nat) (c : CoreId) : Keeps (callBody op l rotate len c : M Flow) := by
  unfold callBody; (repeat' first | with_reducible exact Keeps.pure _ | with_reducible exact Keeps.error _ | with_reducible exact Keeps.read _ | with_reducible assumption | with_reducible apply Keeps.bind | with_reducible apply Keeps.map | with_reducible apply Keeps.mapM | with_reducible apply getC_keeps | with_reducible apply atStep_keeps | with_reducible apply callTarget_keeps | with_reducible apply operandX_keeps | with_reducible apply callTo_keeps | intro _)

theorem bodyCall_keeps (l : Long) (len : Nat) (x1 : CoreId) : Keeps (bodyCall l len x1 : M Flow) := by
  unfold bodyCall; (repeat' first | with_reducible exact Keeps.pure _ | with_reducible exact Keeps.error _ | with_reducible exact Keeps.read _ | with_reducible assumption | with_reducible apply Keeps.bind | with_reducible apply Keeps.map | with_reducible apply Keeps.mapM | with_reducible apply callBody_keeps)

theorem execCall_keeps (a : At) (l : Long) (s : State) (hC : s.Canonical) {tR : State} (eR : execCall a l s = .next tR) : tR.Canonical := by
  unfold execCall at eR; cases eR; (first | apply runLong_keeps) <;> (repeat' first | assumption | intro _ | apply bodyCall_keeps)

theorem bodyCalln_keeps (l : Long) (len : Nat) (x1 : CoreId) : Keeps (bodyCalln l len x1 : M Flow) := by
  unfold bodyCalln; (repeat' first | with_reducible exact Keeps.pure _ | with_reducible exact Keeps.error _ | with_reducible exact Keeps.read _ | with_reducible assumption | with_reducible apply Keeps.bind | with_reducible apply Keeps.map | with_reducible apply Keeps.mapM | with_reducible apply callBody_keeps)

theorem execCalln_keeps (a : At) (l : Long) (s : State) (hC : s.Canonical) {tR : State} (eR : execCalln a l s = .next tR) : tR.Canonical := by
  unfold execCalln at eR; cases eR; (first | apply runLong_keeps) <;> (repeat' first | assumption | intro _ | apply bodyCalln_keeps)

theorem bodyRet_keeps (l : Long) (c : CoreId) : Keeps (bodyRet l c : M Flow) := by
  unfold bodyRet; (repeat' first | with_reducible exact Keeps.pure _ | with_reducible exact Keeps.error _ | with_reducible exact Keeps.read _ | with_reducible assumption | with_reducible apply Keeps.bind | with_reducible apply Keeps.map | with_reducible apply Keeps.mapM | with_reducible apply atStep_keeps | with_reducible apply rotateBackward_keeps | with_reducible apply returnTarget_keeps | with_reducible apply continueM_keeps | with_reducible apply operandX_keeps | intro _)

theorem execRet_keeps (a : At) (l : Long) (s : State) (hC : s.Canonical) {tR : State} (eR : execRet a l s = .next tR) : tR.Canonical := by
  unfold execRet at eR; cases eR; (first | apply runLong_keeps) <;> (repeat' first | assumption | intro _ | apply bodyRet_keeps)

theorem bodyRetn_keeps (l : Long) (c : CoreId) : Keeps (bodyRetn l c : M Flow) := by
  unfold bodyRetn; (repeat' first | with_reducible exact Keeps.pure _ | with_reducible exact Keeps.error _ | with_reducible exact Keeps.read _ | with_reducible assumption | with_reducible apply Keeps.bind | with_reducible apply Keeps.map | with_reducible apply Keeps.mapM | with_reducible apply atStep_keeps | with_reducible apply returnTarget_keeps | with_reducible apply continueM_keeps | with_reducible apply operandX_keeps | intro _)

theorem execRetn_keeps (a : At) (l : Long) (s : State) (hC : s.Canonical) {tR : State} (eR : execRetn a l s = .next tR) : tR.Canonical := by
  unfold execRetn at eR; cases eR; (first | apply runLong_keeps) <;> (repeat' first | assumption | intro _ | apply bodyRetn_keeps)

theorem bodyRett_keeps (l : Long) (u0 : CoreId) : Keeps (bodyRett l u0 : M Flow) := by
  unfold bodyRett; (repeat' first | with_reducible exact Keeps.pure _ | with_reducible exact Keeps.error _ | with_reducible exact Keeps.read _ | with_reducible assumption | with_reducible apply Keeps.bind | with_reducible apply Keeps.map | with_reducible apply Keeps.mapM | with_reducible apply trapM_keeps)

theorem execRett_keeps (a : At) (l : Long) (s : State) (hC : s.Canonical) {tR : State} (eR : execRett a l s = .next tR) : tR.Canonical := by
  unfold execRett at eR; cases eR; (first | apply runLong_keeps) <;> (repeat' first | assumption | intro _ | apply bodyRett_keeps)

theorem bodyTrap_keeps (l : Long) (c : CoreId) : Keeps (bodyTrap l c : M Flow) := by
  unfold bodyTrap; (repeat' first | with_reducible exact Keeps.pure _ | with_reducible exact Keeps.error _ | with_reducible exact Keeps.read _ | with_reducible assumption | with_reducible apply Keeps.bind | with_reducible apply Keeps.map | with_reducible apply Keeps.mapM | with_reducible apply trapM_keeps | with_reducible apply atStep_keeps | with_reducible apply operandFault_keeps | with_reducible apply operandX_keeps | intro _ | split)

theorem execTrap_keeps (a : At) (l : Long) (s : State) (hC : s.Canonical) {tR : State} (eR : execTrap a l s = .next tR) : tR.Canonical := by
  unfold execTrap at eR; cases eR; (first | apply runLong_keeps) <;> (repeat' first | assumption | intro _ | apply bodyTrap_keeps)

theorem resume_keeps (s : State) (c : CoreId) (f : List Word) (hC : s.Canonical) : (resume s c f).Canonical := by
  grind [resume, ← State.setCore_keeps, ← State.modCore_keeps, ← continueAt_keeps, foldl_canonical]

theorem bodyRete_keeps (u0 : Long) (c : CoreId) : Keeps (bodyRete u0 c : M Flow) := by
  unfold bodyRete; (repeat' first | with_reducible exact Keeps.pure _ | with_reducible exact Keeps.error _ | with_reducible exact Keeps.read _ | with_reducible assumption | with_reducible apply Keeps.bind | with_reducible apply Keeps.map | with_reducible apply Keeps.mapM | with_reducible apply getC_keeps | with_reducible apply modC_keeps | with_reducible apply atStep_keeps | with_reducible apply operandFault_keeps | with_reducible apply drainM_keeps | with_reducible apply loadWords_keeps | with_reducible apply rotateBackward_keeps | intro _ | split | dsimp only) <;> first | grind [← State.modCore_keeps, ← State.setF_keeps, → getC_keeps_ok, → modC_keeps_ok, → atStep_keeps_ok, → operandFault_keeps_ok, → drainM_keeps_ok, → loadWords_keeps_ok, → rotateBackward_keeps_ok, ← resume_keeps, foldl_canonical] | (constructor; intro sA vA sB hA eA; grind [← State.modCore_keeps, ← State.setF_keeps, → getC_keeps_ok, → modC_keeps_ok, → atStep_keeps_ok, → operandFault_keeps_ok, → drainM_keeps_ok, → loadWords_keeps_ok, → rotateBackward_keeps_ok, ← resume_keeps, foldl_canonical])

theorem execRete_keeps (a : At) (l : Long) (s : State) (hC : s.Canonical) {tR : State} (eR : execRete a l s = .next tR) : tR.Canonical := by
  unfold execRete at eR; cases eR; (first | apply runLong_keeps) <;> (repeat' first | assumption | intro _ | apply bodyRete_keeps)

theorem parcelAt_keeps (c : CoreId) (va : Nat) : Keeps (parcelAt c va : M Nat) := by
  unfold parcelAt; (repeat' first | with_reducible exact Keeps.pure _ | with_reducible exact Keeps.error _ | with_reducible exact Keeps.read _ | with_reducible assumption | with_reducible apply Keeps.bind | with_reducible apply Keeps.map | with_reducible apply Keeps.mapM | with_reducible apply loadBytes_keeps | intro _)

theorem lengthAt_keeps (c : CoreId) (va : Nat) : Keeps (lengthAt c va : M Nat) := by
  unfold lengthAt; (repeat' first | with_reducible exact Keeps.pure _ | with_reducible exact Keeps.error _ | with_reducible exact Keeps.read _ | with_reducible assumption | with_reducible apply Keeps.bind | with_reducible apply Keeps.map | with_reducible apply Keeps.mapM | with_reducible apply getC_keeps | with_reducible apply parcelAt_keeps | intro _ | split)

theorem loopCount_keeps (w : Word) : Keeps (loopCount w : M Nat) := by
  unfold loopCount; (repeat' first | with_reducible exact Keeps.pure _ | with_reducible exact Keeps.error _ | with_reducible exact Keeps.read _ | with_reducible assumption | with_reducible apply Keeps.bind | with_reducible apply Keeps.map | with_reducible apply Keeps.mapM | with_reducible apply operandFault_keeps | intro _ | split)

theorem loopSetup_keeps (c : CoreId) (first last count : Nat) : Keeps (loopSetup c first last count : M Flow) := by
  unfold loopSetup; (repeat' first | with_reducible exact Keeps.pure _ | with_reducible exact Keeps.error _ | with_reducible exact Keeps.read _ | with_reducible assumption | with_reducible apply Keeps.bind | with_reducible apply Keeps.map | with_reducible apply Keeps.mapM | with_reducible apply getC_keeps | with_reducible apply modC_keeps | with_reducible apply simpleFault_keeps | with_reducible apply lengthAt_keeps | intro _ | split)

theorem bodyLoop_keeps (l : Long) (len : Nat) (c : CoreId) : Keeps (bodyLoop l len c : M Flow) := by
  unfold bodyLoop; (repeat' first | with_reducible exact Keeps.pure _ | with_reducible exact Keeps.error _ | with_reducible exact Keeps.read _ | with_reducible assumption | with_reducible apply Keeps.bind | with_reducible apply Keeps.map | with_reducible apply Keeps.mapM | with_reducible apply getC_keeps | with_reducible apply regM_keeps | with_reducible apply atStep_keeps | with_reducible apply operandFault_keeps | with_reducible apply resolveB_keeps | with_reducible apply readB_keeps | with_reducible apply wantFix_keeps | with_reducible apply loopCount_keeps | with_reducible apply loopSetup_keeps | intro _ | split)

theorem execLoop_keeps (a : At) (l : Long) (s : State) (hC : s.Canonical) {tR : State} (eR : execLoop a l s = .next tR) : tR.Canonical := by
  unfold execLoop at eR; cases eR; (first | apply runLong_keeps) <;> (repeat' first | assumption | intro _ | apply bodyLoop_keeps)

theorem bodyLoopx_keeps (l : Long) (c : CoreId) : Keeps (bodyLoopx l c : M Flow) := by
  unfold bodyLoopx; (repeat' first | with_reducible exact Keeps.pure _ | with_reducible exact Keeps.error _ | with_reducible exact Keeps.read _ | with_reducible assumption | with_reducible apply Keeps.bind | with_reducible apply Keeps.map | with_reducible apply Keeps.mapM | with_reducible apply getC_keeps | with_reducible apply modC_keeps | with_reducible apply atStep_keeps | with_reducible apply simpleFault_keeps | with_reducible apply jumpTarget_keeps | with_reducible apply continueM_keeps | with_reducible apply operandX_keeps | intro _ | split)

theorem execLoopx_keeps (a : At) (l : Long) (s : State) (hC : s.Canonical) {tR : State} (eR : execLoopx a l s = .next tR) : tR.Canonical := by
  unfold execLoopx at eR; cases eR; (first | apply runLong_keeps) <;> (repeat' first | assumption | intro _ | apply bodyLoopx_keeps)

theorem windowStep_keeps (c : CoreId) (overflow : Bool) : Keeps (windowStep c overflow : M Flow) := by
  unfold windowStep; (repeat' first | with_reducible exact Keeps.pure _ | with_reducible exact Keeps.error _ | with_reducible exact Keeps.read _ | with_reducible assumption | with_reducible apply Keeps.bind | with_reducible apply Keeps.map | with_reducible apply Keeps.mapM | with_reducible apply stopM_keeps | with_reducible apply getC_keeps | with_reducible apply spill_keeps | with_reducible apply fill_keeps | intro _ | split | dsimp only) <;> first | grind [→ stopM_keeps_ok, → getC_keeps_ok, → spill_keeps_ok, → fill_keeps_ok, ← doubleFault_keeps, foldl_canonical] | (constructor; intro sA vA sB hA eA; grind [→ stopM_keeps_ok, → getC_keeps_ok, → spill_keeps_ok, → fill_keeps_ok, ← doubleFault_keeps, foldl_canonical])

theorem bodySpillw_keeps (u0 : Long) (c : CoreId) : Keeps (bodySpillw u0 c : M Flow) := by
  unfold bodySpillw; (repeat' first | with_reducible exact Keeps.pure _ | with_reducible exact Keeps.error _ | with_reducible exact Keeps.read _ | with_reducible assumption | with_reducible apply Keeps.bind | with_reducible apply Keeps.map | with_reducible apply Keeps.mapM | with_reducible apply windowStep_keeps)

theorem execSpillw_keeps (a : At) (l : Long) (s : State) (hC : s.Canonical) {tR : State} (eR : execSpillw a l s = .next tR) : tR.Canonical := by
  unfold execSpillw at eR; cases eR; (first | apply runLong_keeps) <;> (repeat' first | assumption | intro _ | apply bodySpillw_keeps)

theorem bodyFillw_keeps (u0 : Long) (c : CoreId) : Keeps (bodyFillw u0 c : M Flow) := by
  unfold bodyFillw; (repeat' first | with_reducible exact Keeps.pure _ | with_reducible exact Keeps.error _ | with_reducible exact Keeps.read _ | with_reducible assumption | with_reducible apply Keeps.bind | with_reducible apply Keeps.map | with_reducible apply Keeps.mapM | with_reducible apply windowStep_keeps)

theorem execFillw_keeps (a : At) (l : Long) (s : State) (hC : s.Canonical) {tR : State} (eR : execFillw a l s = .next tR) : tR.Canonical := by
  unfold execFillw at eR; cases eR; (first | apply runLong_keeps) <;> (repeat' first | assumption | intro _ | apply bodyFillw_keeps)

theorem rearea_keeps (s : State) (c : CoreId) (hC : s.Canonical) : (rearea s c).Canonical := by
  grind [rearea, ← State.modCore_keeps, foldl_canonical]

theorem bodySpace_keeps (l : Long) (x1 : CoreId) : Keeps (bodySpace l x1 : M Flow) := by
  unfold bodySpace; (repeat' first | with_reducible exact Keeps.pure _ | with_reducible exact Keeps.error _ | with_reducible exact Keeps.read _ | with_reducible assumption | with_reducible apply Keeps.bind | with_reducible apply Keeps.map | with_reducible apply Keeps.mapM | with_reducible apply getC_keeps | with_reducible apply modC_keeps | with_reducible apply operandFault_keeps | with_reducible apply drainM_keeps | with_reducible apply bodyU_keeps | intro _ | split | dsimp only) <;> first | grind [→ getC_keeps_ok, → modC_keeps_ok, → operandFault_keeps_ok, → drainM_keeps_ok, → bodyU_keeps_ok, ← rearea_keeps, foldl_canonical] | (constructor; intro sA vA sB hA eA; grind [→ getC_keeps_ok, → modC_keeps_ok, → operandFault_keeps_ok, → drainM_keeps_ok, → bodyU_keeps_ok, ← rearea_keeps, foldl_canonical])

theorem execSpace_keeps (a : At) (l : Long) (s : State) (hC : s.Canonical) {tR : State} (eR : execSpace a l s = .next tR) : tR.Canonical := by
  unfold execSpace at eR; cases eR; (first | apply runLong_keeps) <;> (repeat' first | assumption | intro _ | apply bodySpace_keeps)

/-! ### Context -/

theorem saveArea_keeps (c : CoreId) (w : Word) (store : Bool) : Keeps (saveArea c w store : M Obj) := by
  unfold saveArea; (repeat' first | with_reducible exact Keeps.pure _ | with_reducible exact Keeps.error _ | with_reducible exact Keeps.read _ | with_reducible assumption | with_reducible apply Keeps.bind | with_reducible apply Keeps.map | with_reducible apply Keeps.mapM | with_reducible apply trapM_keeps | with_reducible apply operandFault_keeps | with_reducible apply simpleFault_keeps | with_reducible apply healM_keeps | with_reducible apply openObject_keeps | intro _ | split | dsimp only)

theorem saveArea_keeps_ok (c : CoreId) (w : Word) (store : Bool) {sA vA sB} (hA : State.Canonical sA) (eA : (saveArea c w store : M Obj) sA = .ok (vA, sB)) : State.Canonical sB :=
  (saveArea_keeps c w store).canonical sA vA sB hA eA

theorem storeSlots_keeps (c : CoreId) (o : Obj) (x1 : Nat) (x2 : List Word) : Keeps (storeSlots c o x1 x2 : M Unit) := by
  induction x2 generalizing x1 with
  | nil => unfold storeSlots; exact Keeps.pure _
  | cons z zs ih => unfold storeSlots; repeat' first | with_reducible exact Keeps.pure _ | with_reducible exact Keeps.error _ | with_reducible exact Keeps.read _ | with_reducible assumption | with_reducible apply ih | with_reducible apply Keeps.bind | with_reducible apply Keeps.map | with_reducible apply Keeps.mapM | with_reducible apply atStep_keeps | with_reducible apply healM_keeps | with_reducible apply storeWord_keeps | intro _

theorem nextArea_keeps (c : CoreId) (o : Obj) : Keeps (nextArea c o : M Word) := by
  unfold nextArea; (repeat' first | with_reducible exact Keeps.pure _ | with_reducible exact Keeps.error _ | with_reducible exact Keeps.read _ | with_reducible assumption | with_reducible apply Keeps.bind | with_reducible apply Keeps.map | with_reducible apply Keeps.mapM | with_reducible apply atStep_keeps | with_reducible apply simpleFault_keeps | with_reducible apply loadWord_keeps | intro _ | split)

theorem contextOp_keeps (op : Opcode) (l : Long) (f : CoreId → Word → M Unit) (c : CoreId) (h_f : ∀ y0 y1, Keeps (f y0 y1)) : Keeps (contextOp op l f c : M Flow) := by
  unfold contextOp; (repeat' first | with_reducible exact Keeps.pure _ | with_reducible exact Keeps.error _ | with_reducible exact Keeps.read _ | with_reducible assumption | with_reducible apply Keeps.bind | with_reducible apply Keeps.map | with_reducible apply Keeps.mapM | with_reducible apply resolveB_keeps | with_reducible apply readB_keeps | with_reducible apply postB_keeps | with_reducible apply h_f | intro _)

theorem contextOp_keeps_ok (op : Opcode) (l : Long) (f : CoreId → Word → M Unit) (c : CoreId) (h_f : ∀ y0 y1, Keeps (f y0 y1)) {sA vA sB} (hA : State.Canonical sA) (eA : (contextOp op l f c : M Flow) sA = .ok (vA, sB)) : State.Canonical sB :=
  (contextOp_keeps op l f c h_f).canonical sA vA sB hA eA

theorem bodySavelo_keeps (l : Long) (x1 : CoreId) : Keeps (bodySavelo l x1 : M Flow) := by
  unfold bodySavelo; (repeat' first | with_reducible exact Keeps.pure _ | with_reducible exact Keeps.error _ | with_reducible exact Keeps.read _ | with_reducible assumption | with_reducible apply Keeps.bind | with_reducible apply Keeps.map | with_reducible apply Keeps.mapM | with_reducible apply getC_keeps | with_reducible apply modC_keeps | with_reducible apply drainM_keeps | with_reducible apply saveArea_keeps | with_reducible apply storeSlots_keeps | with_reducible apply contextOp_keeps | intro _)

theorem execSavelo_keeps (a : At) (l : Long) (s : State) (hC : s.Canonical) {tR : State} (eR : execSavelo a l s = .next tR) : tR.Canonical := by
  unfold execSavelo at eR; cases eR; (first | apply runLong_keeps) <;> (repeat' first | assumption | intro _ | apply bodySavelo_keeps)

theorem saveUpper_keeps (c : CoreId) (k : Core) (x1 : Nat) (x2 : Nat) (x3 : List Nat) (x4 : Word) : Keeps (saveUpper c k x1 x2 x3 x4 : M Unit) := by
  induction x1 generalizing x2 x3 x4 with
  | zero => unfold saveUpper; exact Keeps.pure _
  | succ n ih => unfold saveUpper; repeat' first | with_reducible exact Keeps.pure _ | with_reducible exact Keeps.error _ | with_reducible exact Keeps.read _ | with_reducible assumption | with_reducible apply ih | with_reducible apply Keeps.bind | with_reducible apply Keeps.map | with_reducible apply Keeps.mapM | with_reducible apply saveArea_keeps | with_reducible apply storeSlots_keeps | with_reducible apply nextArea_keeps | intro _ | split

theorem bodySavehi_keeps (l : Long) (x1 : CoreId) : Keeps (bodySavehi l x1 : M Flow) := by
  unfold bodySavehi; (repeat' first | with_reducible exact Keeps.pure _ | with_reducible exact Keeps.error _ | with_reducible exact Keeps.read _ | with_reducible assumption | with_reducible apply Keeps.bind | with_reducible apply Keeps.map | with_reducible apply Keeps.mapM | with_reducible apply getC_keeps | with_reducible apply modC_keeps | with_reducible apply drainM_keeps | with_reducible apply contextOp_keeps | with_reducible apply saveUpper_keeps | intro _)

theorem execSavehi_keeps (a : At) (l : Long) (s : State) (hC : s.Canonical) {tR : State} (eR : execSavehi a l s = .next tR) : tR.Canonical := by
  unfold execSavehi at eR; cases eR; (first | apply runLong_keeps) <;> (repeat' first | assumption | intro _ | apply bodySavehi_keeps)

theorem areaWords_keeps (c : CoreId) (o : Obj) (i n : Nat) : Keeps (areaWords c o i n : M (List Word)) := by
  unfold areaWords; (repeat' first | with_reducible exact Keeps.pure _ | with_reducible exact Keeps.error _ | with_reducible exact Keeps.read _ | with_reducible assumption | with_reducible apply Keeps.bind | with_reducible apply Keeps.map | with_reducible apply Keeps.mapM | with_reducible apply atStep_keeps | with_reducible apply loadWords_keeps)

theorem areaWords_keeps_ok (c : CoreId) (o : Obj) (i n : Nat) {sA vA sB} (hA : State.Canonical sA) (eA : (areaWords c o i n : M (List Word)) sA = .ok (vA, sB)) : State.Canonical sB :=
  (areaWords_keeps c o i n).canonical sA vA sB hA eA

theorem secondPass_keeps (a : At) : Keeps (secondPass a : M Unit) := by
  unfold secondPass; (repeat' first | with_reducible exact Keeps.pure _ | with_reducible exact Keeps.error _ | with_reducible exact Keeps.read _ | with_reducible assumption | with_reducible apply Keeps.bind | with_reducible apply Keeps.map | with_reducible apply Keeps.mapM | with_reducible apply stopM_keeps | intro _ | split)

theorem secondPass_keeps_ok (a : At) {sA vA sB} (hA : State.Canonical sA) (eA : (secondPass a : M Unit) sA = .ok (vA, sB)) : State.Canonical sB :=
  (secondPass_keeps a).canonical sA vA sB hA eA

theorem reservedArea_keeps {α : Type} (op : Opcode) (l : Long) : Keeps (reservedArea op l : M α) := by
  unfold reservedArea; (repeat' first | with_reducible exact Keeps.pure _ | with_reducible exact Keeps.error _ | with_reducible exact Keeps.read _ | with_reducible assumption | with_reducible apply Keeps.bind | with_reducible apply Keeps.map | with_reducible apply Keeps.mapM | with_reducible apply reservedField_keeps)

theorem reservedArea_keeps_ok {α : Type} (op : Opcode) (l : Long) {sA vA sB} (hA : State.Canonical sA) (eA : (reservedArea op l : M α) sA = .ok (vA, sB)) : State.Canonical sB :=
  (reservedArea_keeps op l).canonical sA vA sB hA eA

theorem bodyRestlo_keeps (a : At) (l : Long) (x1 : CoreId) : Keeps (bodyRestlo a l x1 : M Flow) := by
  unfold bodyRestlo; (repeat' first | with_reducible exact Keeps.pure _ | with_reducible exact Keeps.error _ | with_reducible exact Keeps.read _ | with_reducible assumption | with_reducible apply Keeps.bind | with_reducible apply Keeps.map | with_reducible apply Keeps.mapM | with_reducible apply atStep_keeps | with_reducible apply operandFault_keeps | with_reducible apply saveArea_keeps | with_reducible apply contextOp_keeps | with_reducible apply areaWords_keeps | with_reducible apply secondPass_keeps | with_reducible apply reservedArea_keeps | intro _ | split | dsimp only) <;> first | grind [← State.modCore_keeps, → atStep_keeps_ok, → operandFault_keeps_ok, → saveArea_keeps_ok, → contextOp_keeps_ok, → areaWords_keeps_ok, → secondPass_keeps_ok, → reservedArea_keeps_ok, foldl_canonical] | (constructor; intro sA vA sB hA eA; grind [← State.modCore_keeps, → atStep_keeps_ok, → operandFault_keeps_ok, → saveArea_keeps_ok, → contextOp_keeps_ok, → areaWords_keeps_ok, → secondPass_keeps_ok, → reservedArea_keeps_ok, foldl_canonical])

theorem execRestlo_keeps (a : At) (l : Long) (s : State) (hC : s.Canonical) {tR : State} (eR : execRestlo a l s = .next tR) : tR.Canonical := by
  unfold execRestlo at eR; cases eR; (first | apply runLong_keeps) <;> (repeat' first | assumption | intro _ | apply bodyRestlo_keeps)

theorem readUpper_keeps (c : CoreId) (l : Long) (k : Core) (x1 : Nat) (x2 : Nat) (x3 : List Nat) (x4 : Word) : Keeps (readUpper c l k x1 x2 x3 x4 : M (List (Nat × List Word))) := by
  induction x1 generalizing x2 x3 x4 with
  | zero => unfold readUpper; exact reservedArea_keeps _ _
  | succ n ih =>
    unfold readUpper
    repeat' first | with_reducible exact Keeps.pure _ | with_reducible apply ih | with_reducible apply Keeps.bind | with_reducible apply atStep_keeps | with_reducible apply operandFault_keeps | with_reducible apply saveArea_keeps | with_reducible apply nextArea_keeps | with_reducible apply areaWords_keeps | with_reducible apply reservedArea_keeps | intro _ | split | dsimp only

theorem bodyResthi_keeps (a : At) (l : Long) (x1 : CoreId) : Keeps (bodyResthi a l x1 : M Flow) := by
  unfold bodyResthi; (repeat' first | with_reducible exact Keeps.pure _ | with_reducible exact Keeps.error _ | with_reducible exact Keeps.read _ | with_reducible assumption | with_reducible apply Keeps.bind | with_reducible apply Keeps.map | with_reducible apply Keeps.mapM | with_reducible apply getC_keeps | with_reducible apply modC_keeps | with_reducible apply contextOp_keeps | with_reducible apply secondPass_keeps | with_reducible apply readUpper_keeps | intro _)

theorem execResthi_keeps (a : At) (l : Long) (s : State) (hC : s.Canonical) {tR : State} (eR : execResthi a l s = .next tR) : tR.Canonical := by
  unfold execResthi at eR; cases eR; (first | apply runLong_keeps) <;> (repeat' first | assumption | intro _ | apply bodyResthi_keeps)

/-! ### Sync -/

theorem bodyFence_keeps (u0 : Long) (c : CoreId) : Keeps (bodyFence u0 c : M Flow) := by
  unfold bodyFence; (repeat' first | with_reducible exact Keeps.pure _ | with_reducible exact Keeps.error _ | with_reducible exact Keeps.read _ | with_reducible assumption | with_reducible apply Keeps.bind | with_reducible apply Keeps.map | with_reducible apply Keeps.mapM | with_reducible apply drainM_keeps | intro _)

theorem execFence_keeps (a : At) (l : Long) (s : State) (hC : s.Canonical) {tR : State} (eR : execFence a l s = .next tR) : tR.Canonical := by
  unfold execFence at eR; cases eR; (first | apply runLong_keeps) <;> (repeat' first | assumption | intro _ | apply bodyFence_keeps)

theorem bodyBarrier_keeps (l : Long) (len : Nat) (c : CoreId) : Keeps (bodyBarrier l len c : M Flow) := by
  unfold bodyBarrier; (repeat' first | with_reducible exact Keeps.pure _ | with_reducible exact Keeps.error _ | with_reducible exact Keeps.read _ | with_reducible assumption | with_reducible apply Keeps.bind | with_reducible apply Keeps.map | with_reducible apply Keeps.mapM | with_reducible apply getC_keeps | with_reducible apply modC_keeps | with_reducible apply regM_keeps | with_reducible apply atStep_keeps | with_reducible apply operandFault_keeps | with_reducible apply drainM_keeps | with_reducible apply resolveB_keeps | with_reducible apply readB_keeps | with_reducible apply sumOperand_keeps | intro _ | split)

theorem execBarrier_keeps (a : At) (l : Long) (s : State) (hC : s.Canonical) {tR : State} (eR : execBarrier a l s = .next tR) : tR.Canonical := by
  unfold execBarrier at eR; cases eR; (first | apply runLong_keeps) <;> (repeat' first | assumption | intro _ | apply bodyBarrier_keeps)

theorem releaseBarrier_keeps (s : State) (n : Nat) (hC : s.Canonical) : (releaseBarrier s n).Canonical := by
  grind [releaseBarrier, ← State.modCore_keeps, foldl_canonical]

theorem recheckBarrier_keeps (s : State) (n : Nat) (hC : s.Canonical) : (recheckBarrier s n).Canonical := by
  grind [recheckBarrier, ← State.modCore_keeps, foldl_canonical]

theorem bodyWait_keeps (u0 : Long) (c : CoreId) : Keeps (bodyWait u0 c : M Flow) := by
  unfold bodyWait; (repeat' first | with_reducible exact Keeps.pure _ | with_reducible exact Keeps.error _ | with_reducible exact Keeps.read _ | with_reducible assumption | with_reducible apply Keeps.bind | with_reducible apply Keeps.map | with_reducible apply Keeps.mapM | with_reducible apply getC_keeps | with_reducible apply modC_keeps | intro _ | split)

theorem execWait_keeps (a : At) (l : Long) (s : State) (hC : s.Canonical) {tR : State} (eR : execWait a l s = .next tR) : tR.Canonical := by
  unfold execWait at eR; cases eR; (first | apply runLong_keeps) <;> (repeat' first | assumption | intro _ | apply bodyWait_keeps)

theorem execWaitWake_keeps (c : CoreId) (s : State) (hC : s.Canonical) {tR : State} (eR : execWaitWake c s = .next tR) : tR.Canonical := by
  unfold execWaitWake at eR; grind [← State.modCore_keeps, ← mirror_keeps, foldl_canonical]

theorem eoiOrder_keeps : Keeps (eoiOrder : M Flow) := by
  unfold eoiOrder; (repeat' first | with_reducible exact Keeps.pure _ | with_reducible exact Keeps.error _ | with_reducible exact Keeps.read _ | with_reducible assumption | with_reducible apply Keeps.bind | with_reducible apply Keeps.map | with_reducible apply Keeps.mapM | with_reducible apply simpleFault_keeps)

theorem eoiOrder_keeps_ok {sA vA sB} (hA : State.Canonical sA) (eA : (eoiOrder : M Flow) sA = .ok (vA, sB)) : State.Canonical sB :=
  (eoiOrder_keeps ).canonical sA vA sB hA eA

theorem bodyEoin_keeps (u0 : Long) (c : CoreId) : Keeps (bodyEoin u0 c : M Flow) := by
  unfold bodyEoin; (repeat' first | with_reducible exact Keeps.pure _ | with_reducible exact Keeps.error _ | with_reducible exact Keeps.read _ | with_reducible assumption | with_reducible apply Keeps.bind | with_reducible apply Keeps.map | with_reducible apply Keeps.mapM | with_reducible apply getC_keeps | with_reducible apply modC_keeps | with_reducible apply drainM_keeps | with_reducible apply eoiOrder_keeps | intro _ | split)

theorem execEoin_keeps (a : At) (l : Long) (s : State) (hC : s.Canonical) {tR : State} (eR : execEoin a l s = .next tR) : tR.Canonical := by
  unfold execEoin at eR; cases eR; (first | apply runLong_keeps) <;> (repeat' first | assumption | intro _ | apply bodyEoin_keeps)

theorem bodyEoif_keeps (u0 : Long) (c : CoreId) : Keeps (bodyEoif u0 c : M Flow) := by
  unfold bodyEoif; (repeat' first | with_reducible exact Keeps.pure _ | with_reducible exact Keeps.error _ | with_reducible exact Keeps.read _ | with_reducible assumption | with_reducible apply Keeps.bind | with_reducible apply Keeps.map | with_reducible apply Keeps.mapM | with_reducible apply getC_keeps | with_reducible apply modC_keeps | with_reducible apply drainM_keeps | with_reducible apply eoiOrder_keeps | intro _ | split | dsimp only) <;> first | grind [← State.setCore_keeps, → getC_keeps_ok, → modC_keeps_ok, → drainM_keeps_ok, ← continueAt_keeps, → eoiOrder_keeps_ok, foldl_canonical] | (constructor; intro sA vA sB hA eA; grind [← State.setCore_keeps, → getC_keeps_ok, → modC_keeps_ok, → drainM_keeps_ok, ← continueAt_keeps, → eoiOrder_keeps_ok, foldl_canonical])

theorem execEoif_keeps (a : At) (l : Long) (s : State) (hC : s.Canonical) {tR : State} (eR : execEoif a l s = .next tR) : tR.Canonical := by
  unfold execEoif at eR; cases eR; (first | apply runLong_keeps) <;> (repeat' first | assumption | intro _ | apply bodyEoif_keeps)

theorem bodyNiwopen_keeps (l : Long) (c : CoreId) : Keeps (bodyNiwopen l c : M Flow) := by
  unfold bodyNiwopen; (repeat' first | with_reducible exact Keeps.pure _ | with_reducible exact Keeps.error _ | with_reducible exact Keeps.read _ | with_reducible assumption | with_reducible apply Keeps.bind | with_reducible apply Keeps.map | with_reducible apply Keeps.mapM | with_reducible apply getC_keeps | intro _ | split | dsimp only) <;> first | grind [← State.setCore_keeps, → getC_keeps_ok, foldl_canonical] | (constructor; intro sA vA sB hA eA; grind [← State.setCore_keeps, → getC_keeps_ok, foldl_canonical])

theorem execNiwopen_keeps (a : At) (l : Long) (s : State) (hC : s.Canonical) {tR : State} (eR : execNiwopen a l s = .next tR) : tR.Canonical := by
  unfold execNiwopen at eR; cases eR; (first | apply runLong_keeps) <;> (repeat' first | assumption | intro _ | apply bodyNiwopen_keeps)

theorem bodyNiwclose_keeps (u0 : Long) (c : CoreId) : Keeps (bodyNiwclose u0 c : M Flow) := by
  unfold bodyNiwclose; (repeat' first | with_reducible exact Keeps.pure _ | with_reducible exact Keeps.error _ | with_reducible exact Keeps.read _ | with_reducible assumption | with_reducible apply Keeps.bind | with_reducible apply Keeps.map | with_reducible apply Keeps.mapM | with_reducible apply modC_keeps | intro _)

theorem execNiwclose_keeps (a : At) (l : Long) (s : State) (hC : s.Canonical) {tR : State} (eR : execNiwclose a l s = .next tR) : tR.Canonical := by
  unfold execNiwclose at eR; cases eR; (first | apply runLong_keeps) <;> (repeat' first | assumption | intro _ | apply bodyNiwclose_keeps)

theorem execNiwLimitExpiry_keeps (c : CoreId) (s : State) (hC : s.Canonical) {tR : State} (eR : execNiwLimitExpiry c s = .next tR) : tR.Canonical := by
  unfold execNiwLimitExpiry at eR; grind [← State.setCore_keeps, ← mirror_keeps, foldl_canonical]

/-! ### Mailbox -/

theorem raiseSource_keeps (s : State) (src : Word) (hC : s.Canonical) : (raiseSource s src).Canonical := by
  grind [raiseSource, ← pulse_keeps, foldl_canonical]

theorem readFails_keeps_err {α : Type} (s : State) (cls space va : Nat) (hC : s.Canonical) {rR} (eR : readFails (α := α) s cls space va = .error rR) : (rR.2).Canonical := by
  unfold readFails at eR; grind [← consumeSpan_keeps, foldl_canonical]

theorem deviceWord_keeps_err (s : State) (cls space va : Nat) (hC : s.Canonical) {rR} (eR : deviceWord s cls space va = .error rR) : (rR.2).Canonical := by
  unfold deviceWord at eR; grind [→ readFails_keeps_err, foldl_canonical]

/-- What a device's access at a mailbox leaves: P of its value, and a canonical memory where it fails. -/

def PostKeeps {α : Type} (P : α → Prop) : Except (Post × State) α → Prop
  | .ok a => P a
  | .error e => e.2.Canonical

theorem PostKeeps.bind {α β : Type} {P : α → Prop} {Q : β → Prop} {x : Except (Post × State) α}
    {f : α → Except (Post × State) β} (h : PostKeeps P x) (hf : ∀ a, P a → PostKeeps Q (f a)) : PostKeeps Q (x >>= f) := by
  cases x with
  | error e => exact h
  | ok a => exact hf a h

theorem PostKeeps.err {α : Type} {x : Except (Post × State) α} (h : ∀ e, x = .error e → e.2.Canonical) :
    PostKeeps (fun _ => True) x := by
  cases x with
  | error e => exact h e rfl
  | ok a => trivial

theorem deviceWord_kept (s : State) (cls space va : Nat) (hC : s.Canonical) :
    PostKeeps (fun _ => True) (deviceWord s cls space va) := .err (fun _ h => deviceWord_keeps_err s cls space va hC h)

theorem mailboxAt_kept (s : State) (cls space va : Nat) (hC : s.Canonical) :
    PostKeeps (fun _ => True) (mailboxAt s cls space va) := by
  unfold mailboxAt
  dsimp only
  split
  · exact hC
  · refine PostKeeps.bind (deviceWord_kept _ _ _ _ hC) (fun h _ => ?_)
    split
    · trivial
    · exact hC

theorem mailboxAt_keeps_err (s : State) (cls space va : Nat) (hC : s.Canonical) {rR} (eR : mailboxAt s cls space va = .error rR) : (rR.2).Canonical := by
  have := mailboxAt_kept s cls space va hC; rw [eR] at this; exact this

theorem deviceWrite_keeps (s : State) (space cls va : Nat) (w : Word) (hC : s.Canonical) {rR} (eR : deviceWrite s space cls va w = .ok rR) : (rR).Canonical := by
  unfold deviceWrite at eR; grind [→ masterWrite_keeps, → masterWrite_keeps_err, foldl_canonical]

theorem deviceWrite_keeps_err (s : State) (space cls va : Nat) (w : Word) (hC : s.Canonical) {rR} (eR : deviceWrite s space cls va w = .error rR) : (rR.2).Canonical := by
  unfold deviceWrite at eR; grind [→ masterWrite_keeps, → masterWrite_keeps_err, foldl_canonical]

theorem deviceWrite_kept (s : State) (space cls va : Nat) (w : Word) (hC : s.Canonical) :
    PostKeeps State.Canonical (deviceWrite s space cls va w) := by
  cases h : deviceWrite s space cls va w with
  | error e => exact deviceWrite_keeps_err s space cls va w hC h
  | ok t => exact deviceWrite_keeps s space cls va w hC h

theorem appendSteps_kept (s : State) (space cls va : Nat) (msg : Word) (hC : s.Canonical) :
    PostKeeps State.Canonical (appendSteps s space cls va msg) := by
  unfold appendSteps
  refine PostKeeps.bind (mailboxAt_kept _ _ _ _ hC) (fun m _ => ?_)
  dsimp only
  refine PostKeeps.bind (deviceWord_kept _ _ _ _ hC) (fun size _ => ?_)
  refine PostKeeps.bind (deviceWord_kept _ _ _ _ hC) (fun tail _ => ?_)
  refine PostKeeps.bind (deviceWord_kept _ _ _ _ hC) (fun head _ => ?_)
  refine PostKeeps.bind (deviceWord_kept _ _ _ _ hC) (fun src _ => ?_)
  split
  · exact hC
  · refine PostKeeps.bind (deviceWord_kept _ _ _ _ hC) (fun old _ => ?_)
    split
    · exact hC
    · refine PostKeeps.bind (deviceWrite_kept _ _ _ _ _ (logAtEngine_keeps _ _ hC)) (fun s1 h1 => ?_)
      refine PostKeeps.bind (deviceWrite_kept _ _ _ _ _ h1) (fun s2 h2 => ?_)
      exact raiseSource_keeps _ _ h2

theorem appendSteps_keeps (s : State) (space cls va : Nat) (msg : Word) (hC : s.Canonical) {rR} (eR : appendSteps s space cls va msg = .ok rR) : (rR).Canonical := by
  have := appendSteps_kept s space cls va msg hC; rw [eR] at this; exact this

theorem appendSteps_keeps_err (s : State) (space cls va : Nat) (msg : Word) (hC : s.Canonical) {rR} (eR : appendSteps s space cls va msg = .error rR) : (rR.2).Canonical := by
  have := appendSteps_kept s space cls va msg hC; rw [eR] at this; exact this

theorem appendMailbox_keeps (s : State) (space cls va : Nat) (msg : Word) (hC : s.Canonical) : ((appendMailbox s space cls va msg).1).Canonical := by
  unfold appendMailbox
  split
  · next h => exact appendSteps_keeps _ _ _ _ _ (touchEdge_keeps _ _ _ _ _ hC) h
  · next h => exact appendSteps_keeps_err _ _ _ _ _ (touchEdge_keeps _ _ _ _ _ hC) h

theorem appendMailbox_keeps_eq (s : State) (space cls va : Nat) (msg : Word) (hC : s.Canonical) {a0 a1} (eR : appendMailbox s space cls va msg = (a0, a1)) : a0.Canonical := by
  have := appendMailbox_keeps s space cls va msg hC; rw [eR] at this; exact this

theorem appendReg_keeps (s : State) (r : RegName) (i cls : Nat) (msg : Word) (hC : s.Canonical) : ((appendReg s r i cls msg).1).Canonical := by
  grind [appendReg, ← appendMailbox_keeps, → appendMailbox_keeps_eq, foldl_canonical]

theorem appendReg_keeps_eq (s : State) (r : RegName) (i cls : Nat) (msg : Word) (hC : s.Canonical) {a0 a1} (eR : appendReg s r i cls msg = (a0, a1)) : a0.Canonical := by
  have := appendReg_keeps s r i cls msg hC; rw [eR] at this; exact this

theorem takeSteps_kept (s : State) (space cls va : Nat) (hC : s.Canonical) :
    PostKeeps (fun r => r.2.Canonical) (takeSteps s space cls va) := by
  unfold takeSteps
  refine PostKeeps.bind (mailboxAt_kept _ _ _ _ hC) (fun m _ => ?_)
  dsimp only
  refine PostKeeps.bind (deviceWord_kept _ _ _ _ hC) (fun size _ => ?_)
  refine PostKeeps.bind (deviceWord_kept _ _ _ _ hC) (fun tail _ => ?_)
  refine PostKeeps.bind (deviceWord_kept _ _ _ _ hC) (fun head _ => ?_)
  split
  · exact hC
  · split
    · exact hC
    · refine PostKeeps.bind (deviceWord_kept _ _ _ _ hC) (fun msg _ => ?_)
      refine PostKeeps.bind (deviceWrite_kept _ _ _ _ _ hC) (fun s1 h1 => ?_)
      exact h1

theorem takeSteps_keeps (s : State) (space cls va : Nat) (hC : s.Canonical) {rR} (eR : takeSteps s space cls va = .ok rR) : (rR.2).Canonical := by
  have := takeSteps_kept s space cls va hC; rw [eR] at this; exact this

theorem takeSteps_keeps_err (s : State) (space cls va : Nat) (hC : s.Canonical) {rR} (eR : takeSteps s space cls va = .error rR) : (rR.2).Canonical := by
  have := takeSteps_kept s space cls va hC; rw [eR] at this; exact this

theorem takeMessage_keeps (s : State) (space cls va : Nat) (hC : s.Canonical) {rR} (eR : takeMessage s space cls va = some rR) : (rR.2).Canonical := by
  unfold takeMessage at eR
  split at eR
  · next h => cases eR; exact takeSteps_keeps _ _ _ _ (touchEdge_keeps _ _ _ _ _ hC) h
  · cases eR

theorem missedMessage_keeps (s : State) (space cls va : Nat) (hC : s.Canonical) : (missedMessage s space cls va).Canonical := by
  unfold missedMessage
  split
  · next h => exact takeSteps_keeps_err _ _ _ _ (touchEdge_keeps _ _ _ _ _ hC) h
  · exact hC

theorem postFromCore_keeps (c : CoreId) (o : Obj) (msg : Word) : Keeps (postFromCore c o msg : M Nat) := by
  unfold postFromCore; (repeat' first | with_reducible exact Keeps.pure _ | with_reducible exact Keeps.error _ | with_reducible exact Keeps.read _ | with_reducible assumption | with_reducible apply Keeps.bind | with_reducible apply Keeps.map | with_reducible apply Keeps.mapM | with_reducible apply trapM_keeps | with_reducible apply atStep_keeps | with_reducible apply loadRaw_keeps | with_reducible apply drainM_keeps | with_reducible apply atomicWrite_keeps | with_reducible apply immutableFault_keeps | intro _ | split | dsimp only) <;> first | grind [→ trapM_keeps_ok, → atStep_keeps_ok, → loadRaw_keeps_ok, → drainM_keeps_ok, → atomicWrite_keeps_ok, → immutableFault_keeps_ok, ← raiseSource_keeps, foldl_canonical] | (constructor; intro sA vA sB hA eA; grind [→ trapM_keeps_ok, → atStep_keeps_ok, → loadRaw_keeps_ok, → drainM_keeps_ok, → atomicWrite_keeps_ok, → immutableFault_keeps_ok, ← raiseSource_keeps, foldl_canonical])

theorem bodyCrgpost_keeps (l : Long) (x1 : CoreId) : Keeps (bodyCrgpost l x1 : M Flow) := by
  unfold bodyCrgpost; (repeat' first | with_reducible exact Keeps.pure _ | with_reducible exact Keeps.error _ | with_reducible exact Keeps.read _ | with_reducible assumption | with_reducible apply Keeps.bind | with_reducible apply Keeps.map | with_reducible apply Keeps.mapM | with_reducible apply trapM_keeps | with_reducible apply setBitM_keeps | with_reducible apply operandFault_keeps | with_reducible apply healRegM_keeps | with_reducible apply openObject_keeps | with_reducible apply bodyR_keeps | with_reducible apply healB_keeps | with_reducible apply postFromCore_keeps | intro _ | split | dsimp only)

theorem execCrgpost_keeps (a : At) (l : Long) (s : State) (hC : s.Canonical) {tR : State} (eR : execCrgpost a l s = .next tR) : tR.Canonical := by
  unfold execCrgpost at eR; cases eR; (first | apply runLong_keeps) <;> (repeat' first | assumption | intro _ | apply bodyCrgpost_keeps)

/-! ### CirqueOps -/

theorem hashWord_keeps (c : CoreId) (w : Word) : Keeps (hashWord c w : M Word) := by
  unfold hashWord; (repeat' first | with_reducible exact Keeps.pure _ | with_reducible exact Keeps.error _ | with_reducible exact Keeps.read _ | with_reducible assumption | with_reducible apply Keeps.bind | with_reducible apply Keeps.map | with_reducible apply Keeps.mapM | with_reducible apply identityHash_keeps | intro _ | split | dsimp only)

theorem cirqueHash_keeps (c : CoreId) (seed : Nat) (k0 k1 : Word) : Keeps (cirqueHash c seed k0 k1 : M Nat) := by
  unfold cirqueHash; (repeat' first | with_reducible exact Keeps.pure _ | with_reducible exact Keeps.error _ | with_reducible exact Keeps.read _ | with_reducible assumption | with_reducible apply Keeps.bind | with_reducible apply Keeps.map | with_reducible apply Keeps.mapM | with_reducible apply hashWord_keeps | intro _)

theorem slotW_keeps (c : CoreId) (o : Obj) (i : Nat) : Keeps (slotW c o i : M Word) := by
  unfold slotW; (repeat' first | with_reducible exact Keeps.pure _ | with_reducible exact Keeps.error _ | with_reducible exact Keeps.read _ | with_reducible assumption | with_reducible apply Keeps.bind | with_reducible apply Keeps.map | with_reducible apply Keeps.mapM | with_reducible apply atStep_keeps | with_reducible apply loadWord_keeps)

theorem putSlot_keeps (c : CoreId) (o : Obj) (i : Nat) (w : Word) : Keeps (putSlot c o i w : M Unit) := by
  unfold putSlot; (repeat' first | with_reducible exact Keeps.pure _ | with_reducible exact Keeps.error _ | with_reducible exact Keeps.read _ | with_reducible assumption | with_reducible apply Keeps.bind | with_reducible apply Keeps.map | with_reducible apply Keeps.mapM | with_reducible apply trapM_keeps | with_reducible apply atStep_keeps | with_reducible apply loadRaw_keeps | with_reducible apply atomicWrite_keeps | intro _ | split)

theorem openTable_keeps (c : CoreId) (n : Nat) : Keeps (openTable c n : M Cq) := by
  unfold openTable; (repeat' first | with_reducible exact Keeps.pure _ | with_reducible exact Keeps.error _ | with_reducible exact Keeps.read _ | with_reducible assumption | with_reducible apply Keeps.bind | with_reducible apply Keeps.map | with_reducible apply Keeps.mapM | with_reducible apply regM_keeps | with_reducible apply operandFault_keeps | with_reducible apply healRegM_keeps | with_reducible apply openObject_keeps | with_reducible apply slotW_keeps | intro _ | split | dsimp only)

theorem cirqueKey_keeps (c : CoreId) (l : Long) (b : Word) : Keeps (cirqueKey c l b : M (Word × Word)) := by
  unfold cirqueKey; (repeat' first | with_reducible exact Keeps.pure _ | with_reducible exact Keeps.error _ | with_reducible exact Keeps.read _ | with_reducible assumption | with_reducible apply Keeps.bind | with_reducible apply Keeps.map | with_reducible apply Keeps.mapM | with_reducible apply atStep_keeps | with_reducible apply operandFault_keeps | with_reducible apply loadWord_keeps | with_reducible apply openObject_keeps | with_reducible apply healB_keeps | intro _ | split)

theorem bucketMatches_keeps (c : CoreId) (o : Obj) (ctrl : Word) (b fp i : Nat) (k0 k1 : Word) : Keeps (bucketMatches c o ctrl b fp i k0 k1 : M Bool) := by
  unfold bucketMatches; (repeat' first | with_reducible exact Keeps.pure _ | with_reducible exact Keeps.error _ | with_reducible exact Keeps.read _ | with_reducible assumption | with_reducible apply Keeps.bind | with_reducible apply Keeps.map | with_reducible apply Keeps.mapM | with_reducible apply slotW_keeps | intro _ | split)

theorem openOverflow_keeps (c : CoreId) (o : Obj) : Keeps (openOverflow c o : M (Option Obj)) := by
  unfold openOverflow; (repeat' first | with_reducible exact Keeps.pure _ | with_reducible exact Keeps.error _ | with_reducible exact Keeps.read _ | with_reducible assumption | with_reducible apply Keeps.bind | with_reducible apply Keeps.map | with_reducible apply Keeps.mapM | with_reducible apply operandFault_keeps | with_reducible apply openObject_keeps | with_reducible apply slotW_keeps | intro _ | split)

theorem linkOf_keeps (v : Obj) (w : Word) : Keeps (linkOf v w : M Nat) := by
  unfold linkOf; (repeat' first | with_reducible exact Keeps.pure _ | with_reducible exact Keeps.error _ | with_reducible exact Keeps.read _ | with_reducible assumption | with_reducible apply Keeps.bind | with_reducible apply Keeps.map | with_reducible apply Keeps.mapM | with_reducible apply operandFault_keeps | intro _ | split)

theorem walkChain_keeps (c : CoreId) (v : Obj) (k0 k1 : Word) (x1 : Nat) (x2 : Nat) (x3 : Option Nat) : Keeps (walkChain c v k0 k1 x1 x2 x3 : M Found) := by
  induction x1 generalizing x2 x3 with
  | zero => unfold walkChain; exact Keeps.pure _
  | succ n ih => unfold walkChain; repeat' first | with_reducible exact Keeps.pure _ | with_reducible exact Keeps.error _ | with_reducible exact Keeps.read _ | with_reducible assumption | with_reducible apply ih | with_reducible apply Keeps.bind | with_reducible apply Keeps.map | with_reducible apply Keeps.mapM | with_reducible apply slotW_keeps | with_reducible apply linkOf_keeps | intro _ | split

theorem countReferred_keeps (c : CoreId) (o : Obj) : Keeps (countReferred c o : M Unit) := by
  unfold countReferred; (repeat' first | with_reducible exact Keeps.pure _ | with_reducible exact Keeps.error _ | with_reducible exact Keeps.read _ | with_reducible assumption | with_reducible apply Keeps.bind | with_reducible apply Keeps.map | with_reducible apply Keeps.mapM | intro _ | split | dsimp only) <;> first | grind [← State.setR_keeps, foldl_canonical] | (constructor; intro sA vA sB hA eA; grind [← State.setR_keeps, foldl_canonical])

theorem cirqueFind_keeps (c : CoreId) (t : Cq) (b fp : Nat) (ctrl k0 k1 : Word) : Keeps (cirqueFind c t b fp ctrl k0 k1 : M Found) := by
  unfold cirqueFind; (repeat' first | with_reducible exact Keeps.pure _ | with_reducible exact Keeps.error _ | with_reducible exact Keeps.read _ | with_reducible assumption | with_reducible apply Keeps.bind | with_reducible apply Keeps.map | with_reducible apply Keeps.mapM | with_reducible apply operandFault_keeps | with_reducible apply bucketMatches_keeps | with_reducible apply openOverflow_keeps | with_reducible apply walkChain_keeps | with_reducible apply countReferred_keeps | intro _ | split)

theorem bump_keeps (c : CoreId) (o : Obj) (i : Nat) (d : Int) : Keeps (bump c o i d : M Unit) := by
  unfold bump; (repeat' first | with_reducible exact Keeps.pure _ | with_reducible exact Keeps.error _ | with_reducible exact Keeps.read _ | with_reducible assumption | with_reducible apply Keeps.bind | with_reducible apply Keeps.map | with_reducible apply Keeps.mapM | with_reducible apply wantFix_keeps | with_reducible apply slotW_keeps | with_reducible apply putSlot_keeps | intro _)

theorem growOverflow_keeps (c : CoreId) (o : Obj) (old : Option Obj) : Keeps (growOverflow c o old : M Obj) := by
  unfold growOverflow; (repeat' first | with_reducible exact Keeps.pure _ | with_reducible exact Keeps.error _ | with_reducible exact Keeps.read _ | with_reducible assumption | with_reducible apply Keeps.bind | with_reducible apply Keeps.map | with_reducible apply Keeps.mapM | with_reducible apply atStep_keeps | with_reducible apply simpleFault_keeps | with_reducible apply openObject_keeps | with_reducible apply loadWords_keeps | with_reducible apply newTagged_keeps | with_reducible apply putSlot_keeps | intro _ | split | dsimp only)

theorem insertChain_keeps (c : CoreId) (t : Cq) (b : Nat) (ctrl k0 k1 v : Word) : Keeps (insertChain c t b ctrl k0 k1 v : M Unit) := by
  unfold insertChain; (repeat' first | with_reducible exact Keeps.pure _ | with_reducible exact Keeps.error _ | with_reducible exact Keeps.read _ | with_reducible assumption | with_reducible apply Keeps.bind | with_reducible apply Keeps.map | with_reducible apply Keeps.mapM | with_reducible apply slotW_keeps | with_reducible apply putSlot_keeps | with_reducible apply openOverflow_keeps | with_reducible apply linkOf_keeps | with_reducible apply countReferred_keeps | with_reducible apply bump_keeps | with_reducible apply growOverflow_keeps | intro _ | split)

theorem insertBucket_keeps (c : CoreId) (t : Cq) (b fp i : Nat) (ctrl k0 k1 v : Word) : Keeps (insertBucket c t b fp i ctrl k0 k1 v : M Unit) := by
  unfold insertBucket; (repeat' first | with_reducible exact Keeps.pure _ | with_reducible exact Keeps.error _ | with_reducible exact Keeps.read _ | with_reducible assumption | with_reducible apply Keeps.bind | with_reducible apply Keeps.map | with_reducible apply Keeps.mapM | with_reducible apply putSlot_keeps | with_reducible apply bump_keeps | intro _)

theorem removeBucket_keeps (c : CoreId) (t : Cq) (b i : Nat) (ctrl : Word) : Keeps (removeBucket c t b i ctrl : M Unit) := by
  unfold removeBucket; (repeat' first | with_reducible exact Keeps.pure _ | with_reducible exact Keeps.error _ | with_reducible exact Keeps.read _ | with_reducible assumption | with_reducible apply Keeps.bind | with_reducible apply Keeps.map | with_reducible apply Keeps.mapM | with_reducible apply putSlot_keeps | with_reducible apply bump_keeps | intro _)

theorem removeChain_keeps (c : CoreId) (t : Cq) (b j : Nat) (before : Option Nat) (ctrl : Word) : Keeps (removeChain c t b j before ctrl : M Unit) := by
  unfold removeChain; (repeat' first | with_reducible exact Keeps.pure _ | with_reducible exact Keeps.error _ | with_reducible exact Keeps.read _ | with_reducible assumption | with_reducible apply Keeps.bind | with_reducible apply Keeps.map | with_reducible apply Keeps.mapM | with_reducible apply operandFault_keeps | with_reducible apply slotW_keeps | with_reducible apply putSlot_keeps | with_reducible apply openOverflow_keeps | with_reducible apply linkOf_keeps | with_reducible apply bump_keeps | intro _ | split)

theorem foundValue_keeps (c : CoreId) (t : Cq) (b : Nat) (x1 : Found) : Keeps (foundValue c t b x1 : M Word) := by
  unfold foundValue; (repeat' first | with_reducible exact Keeps.pure _ | with_reducible exact Keeps.error _ | with_reducible exact Keeps.read _ | with_reducible assumption | with_reducible apply Keeps.bind | with_reducible apply Keeps.map | with_reducible apply Keeps.mapM | with_reducible apply slotW_keeps | with_reducible apply openOverflow_keeps | intro _ | split)

theorem putValue_keeps (c : CoreId) (t : Cq) (b : Nat) (v : Word) (x1 : Found) : Keeps (putValue c t b v x1 : M Unit) := by
  unfold putValue; (repeat' first | with_reducible exact Keeps.pure _ | with_reducible exact Keeps.error _ | with_reducible exact Keeps.read _ | with_reducible assumption | with_reducible apply Keeps.bind | with_reducible apply Keeps.map | with_reducible apply Keeps.mapM | with_reducible apply putSlot_keeps | with_reducible apply openOverflow_keeps | intro _ | split)

theorem cirqueStatus_keeps {α : Type} (m : M α) (h_m : Keeps m) : Keeps (cirqueStatus m : M α) := by
  constructor; intro sA vA sB hA eA; unfold cirqueStatus at eA
  split at eA
  · split at eA <;> cases eA
  · exact h_m.canonical _ _ _ hA eA

theorem cirqueAt_keeps (c : CoreId) (t : Cq) (k0 k1 : Word) : Keeps (cirqueAt c t k0 k1 : M (Nat × Nat × Word)) := by
  unfold cirqueAt; (repeat' first | with_reducible exact Keeps.pure _ | with_reducible exact Keeps.error _ | with_reducible exact Keeps.read _ | with_reducible assumption | with_reducible apply Keeps.bind | with_reducible apply Keeps.map | with_reducible apply Keeps.mapM | with_reducible apply operandFault_keeps | with_reducible apply cirqueHash_keeps | with_reducible apply slotW_keeps | intro _ | split)

theorem wantMutable_keeps (t : Cq) : Keeps (wantMutable t : M Unit) := by
  unfold wantMutable; (repeat' first | with_reducible exact Keeps.pure _ | with_reducible exact Keeps.error _ | with_reducible exact Keeps.read _ | with_reducible assumption | with_reducible apply Keeps.bind | with_reducible apply Keeps.map | with_reducible apply Keeps.mapM | with_reducible apply immutableFault_keeps | intro _ | split)

theorem cirqueOp_keeps (op : Opcode) (l : Long) (f : CoreId → Cq → Nat → Nat → Word → Word → Word → Found → M (Word × Bool)) (c : CoreId) (h_f : ∀ y0 y1 y2 y3 y4 y5 y6 y7, Keeps (f y0 y1 y2 y3 y4 y5 y6 y7)) : Keeps (cirqueOp op l f c : M Flow) := by
  unfold cirqueOp; (repeat' first | with_reducible exact Keeps.pure _ | with_reducible exact Keeps.error _ | with_reducible exact Keeps.read _ | with_reducible assumption | with_reducible apply Keeps.bind | with_reducible apply Keeps.map | with_reducible apply Keeps.mapM | with_reducible apply setRegM_keeps | with_reducible apply setBitM_keeps | with_reducible apply atStep_keeps | with_reducible apply drainM_keeps | with_reducible apply resolveB_keeps | with_reducible apply readB_keeps | with_reducible apply postB_keeps | with_reducible apply openTable_keeps | with_reducible apply cirqueKey_keeps | with_reducible apply cirqueFind_keeps | with_reducible apply cirqueStatus_keeps | with_reducible apply cirqueAt_keeps | with_reducible apply h_f | intro _)

theorem bodyCqlook_keeps (l : Long) (x1 : CoreId) : Keeps (bodyCqlook l x1 : M Flow) := by
  unfold bodyCqlook; (repeat' first | with_reducible exact Keeps.pure _ | with_reducible exact Keeps.error _ | with_reducible exact Keeps.read _ | with_reducible assumption | with_reducible apply Keeps.bind | with_reducible apply Keeps.map | with_reducible apply Keeps.mapM | with_reducible apply foundValue_keeps | with_reducible apply cirqueOp_keeps | intro _)

theorem execCqlook_keeps (a : At) (l : Long) (s : State) (hC : s.Canonical) {tR : State} (eR : execCqlook a l s = .next tR) : tR.Canonical := by
  unfold execCqlook at eR; cases eR; (first | apply runLong_keeps) <;> (repeat' first | assumption | intro _ | apply bodyCqlook_keeps)

theorem bodyCqins_keeps (l : Long) (x1 : CoreId) : Keeps (bodyCqins l x1 : M Flow) := by
  unfold bodyCqins; (repeat' first | with_reducible exact Keeps.pure _ | with_reducible exact Keeps.error _ | with_reducible exact Keeps.read _ | with_reducible assumption | with_reducible apply Keeps.bind | with_reducible apply Keeps.map | with_reducible apply Keeps.mapM | with_reducible apply trapM_keeps | with_reducible apply healRegM_keeps | with_reducible apply insertChain_keeps | with_reducible apply insertBucket_keeps | with_reducible apply foundValue_keeps | with_reducible apply putValue_keeps | with_reducible apply wantMutable_keeps | with_reducible apply cirqueOp_keeps | intro _ | split)

theorem execCqins_keeps (a : At) (l : Long) (s : State) (hC : s.Canonical) {tR : State} (eR : execCqins a l s = .next tR) : tR.Canonical := by
  unfold execCqins at eR; cases eR; (first | apply runLong_keeps) <;> (repeat' first | assumption | intro _ | apply bodyCqins_keeps)

theorem bodyCqdel_keeps (l : Long) (x1 : CoreId) : Keeps (bodyCqdel l x1 : M Flow) := by
  unfold bodyCqdel; (repeat' first | with_reducible exact Keeps.pure _ | with_reducible exact Keeps.error _ | with_reducible exact Keeps.read _ | with_reducible assumption | with_reducible apply Keeps.bind | with_reducible apply Keeps.map | with_reducible apply Keeps.mapM | with_reducible apply removeBucket_keeps | with_reducible apply removeChain_keeps | with_reducible apply foundValue_keeps | with_reducible apply wantMutable_keeps | with_reducible apply cirqueOp_keeps | intro _ | split)

theorem execCqdel_keeps (a : At) (l : Long) (s : State) (hC : s.Canonical) {tR : State} (eR : execCqdel a l s = .next tR) : tR.Canonical := by
  unfold execCqdel at eR; cases eR; (first | apply runLong_keeps) <;> (repeat' first | assumption | intro _ | apply bodyCqdel_keeps)

/-! ### Pair -/

theorem shortOp_keeps (c : CoreId) (x : BitVec 15) : Keeps (shortOp c x : M Unit) := by
  unfold shortOp; (repeat' first | with_reducible exact Keeps.pure _ | with_reducible exact Keeps.error _ | with_reducible exact Keeps.read _ | with_reducible assumption | with_reducible apply Keeps.bind | with_reducible apply Keeps.map | with_reducible apply Keeps.mapM | with_reducible apply getC_keeps | with_reducible apply regM_keeps | with_reducible apply setRegM_keeps | with_reducible apply setBitM_keeps | with_reducible apply healRegM_keeps | with_reducible apply genericAdd_keeps | with_reducible apply genericSub_keeps | with_reducible apply genericNeg_keeps | with_reducible apply genericCmp_keeps | with_reducible apply logicOp_keeps | with_reducible apply shlOp_keeps | with_reducible apply sarOp_keeps | with_reducible apply tageqOp_keeps | with_reducible apply classisOp_keeps | intro _ | split)

theorem slotB_keeps (c : CoreId) (p : PairParcel) : Keeps (slotB c p : M Flow) := by
  constructor; intro sA vA sB hA eA; unfold slotB at eA
  split at eA
  · next s1 h1 => cases eA; exact (atStep_keeps _ _ (shortOp_keeps c p.b)).canonical _ _ _ hA h1
  · cases eA; exact raiseStop_keeps _ _ _ _ _ (State.modCore_keeps _ _ _ hA)

theorem bodyPair_keeps (p : PairParcel) (c : CoreId) : Keeps (bodyPair p c : M Flow) := by
  unfold bodyPair; (repeat' first | with_reducible exact Keeps.pure _ | with_reducible exact Keeps.error _ | with_reducible exact Keeps.read _ | with_reducible assumption | with_reducible apply Keeps.bind | with_reducible apply Keeps.map | with_reducible apply Keeps.mapM | with_reducible apply trapM_keeps | with_reducible apply getC_keeps | with_reducible apply atStep_keeps | with_reducible apply fetchM_keeps | with_reducible apply shortOp_keeps | with_reducible apply slotB_keeps | intro _ | split | dsimp only)

theorem execPair_keeps (a : At) (p : PairParcel) (s : State) (hC : s.Canonical) {tR : State} (eR : execPair a p s = .next tR) : tR.Canonical := by
  unfold execPair at eR; cases eR; (first | apply runBody_keeps) <;> (repeat' first | assumption | intro _ | apply bodyPair_keeps)

/-! ### Interrupts -/

theorem atBoundary_keeps (s : State) (c : CoreId) (hC : s.Canonical) : (atBoundary s c).Canonical := by
  grind [atBoundary, ← State.modCore_keeps, foldl_canonical]

theorem execNormalInterruptEntry_keeps (c : CoreId) (s : State) (hC : s.Canonical) {tR : State} (eR : execNormalInterruptEntry c s = .next tR) : tR.Canonical := by
  unfold execNormalInterruptEntry at eR; grind [→ windowHandler_keeps_ok, ← enterException_keeps, ← raiseStop_keeps, ← mirror_keeps, ← atBoundary_keeps, foldl_canonical]

theorem enterFast_keeps (s0 : State) (c : CoreId) (hC : s0.Canonical) : (enterFast s0 c).Canonical := by
  unfold enterFast
  split
  · exact hC
  · dsimp only
    split
    · exact raiseDouble_keeps _ _ _ _ _ _ _ (noteFault_keeps _ _ _ (drainStores_keeps _ _ hC))
    · exact drainStores_keeps _ _ hC
    · next h => exact enterCode_keeps _ _ _ (State.setCore_keeps _ _ _ (codeTarget_keeps_ok _ _ _ (drainStores_keeps _ _ hC) h))

theorem execFastInterruptEntry_keeps (c : CoreId) (s : State) (hC : s.Canonical) {tR : State} (eR : execFastInterruptEntry c s = .next tR) : tR.Canonical := by
  unfold execFastInterruptEntry at eR; grind [← mirror_keeps, ← atBoundary_keeps, ← enterFast_keeps, foldl_canonical]

theorem execDeferredMachineCheck_keeps (c : CoreId) (s : State) (hC : s.Canonical) {tR : State} (eR : execDeferredMachineCheck c s = .next tR) : tR.Canonical := by
  unfold execDeferredMachineCheck at eR
  obtain rfl := Host.Outcome.next.inj eR
  split
  · exact hC
  · dsimp only
    split
    · split
      · exact mirror_keeps _ _ (enterLastResort_keeps _ _ _ _ _ (recordCheck_keeps _ _ _ _ (State.modCore_keeps _ _ _ (drainStores_keeps _ _ (atBoundary_keeps _ _ hC)))))
      · exact hC
    · exact hC

/-! ### Transport -/

theorem pendResult_keeps (c : CoreId) (bits : BitVec 256) (reg : Option Nat) (v : Word) (fl : List Nat) : Keeps (pendResult c bits reg v fl : M Unit) := by
  unfold pendResult; (repeat' first | with_reducible exact Keeps.pure _ | with_reducible exact Keeps.error _ | with_reducible exact Keeps.read _ | with_reducible assumption | with_reducible apply Keeps.bind | with_reducible apply Keeps.map | with_reducible apply Keeps.mapM | with_reducible apply modC_keeps)

theorem unitReg_keeps (c : CoreId) (reg : Nat) (fl : List Nat) (m : M Word) (h_m : Keeps m) : Keeps (unitReg c reg fl m : M Unit) := by
  unfold unitReg; (repeat' first | with_reducible exact Keeps.pure _ | with_reducible exact Keeps.error _ | with_reducible exact Keeps.read _ | with_reducible assumption | with_reducible apply Keeps.bind | with_reducible apply Keeps.map | with_reducible apply Keeps.mapM | with_reducible apply getC_keeps | with_reducible apply pendResult_keeps | with_reducible apply h_m | intro _)

theorem unitFlags_keeps (c : CoreId) (fl : List Nat) (m : M Unit) (h_m : Keeps m) : Keeps (unitFlags c fl m : M Unit) := by
  unfold unitFlags; (repeat' first | with_reducible exact Keeps.pure _ | with_reducible exact Keeps.error _ | with_reducible exact Keeps.read _ | with_reducible assumption | with_reducible apply Keeps.bind | with_reducible apply Keeps.map | with_reducible apply Keeps.mapM | with_reducible apply getC_keeps | with_reducible apply pendResult_keeps | with_reducible apply h_m | intro _)

theorem healPort_keeps (c : CoreId) (reg : Option Nat) (w : Word) : Keeps (healPort c reg w : M Word) := by
  unfold healPort; (repeat' first | with_reducible exact Keeps.pure _ | with_reducible exact Keeps.error _ | with_reducible exact Keeps.read _ | with_reducible assumption | with_reducible apply Keeps.bind | with_reducible apply Keeps.map | with_reducible apply Keeps.mapM | with_reducible apply regM_keeps | with_reducible apply setRegM_keeps | with_reducible apply healM_keeps | intro _ | split)

theorem indexOf_keeps (w : Word) : Keeps (indexOf w : M Int) := by
  unfold indexOf; (repeat' first | with_reducible exact Keeps.pure _ | with_reducible exact Keeps.error _ | with_reducible exact Keeps.read _ | with_reducible assumption | with_reducible apply Keeps.bind | with_reducible apply Keeps.map | with_reducible apply Keeps.mapM | with_reducible apply trapM_keeps | intro _ | split)

theorem unitObject_keeps (c : CoreId) (reg : Option Nat) (p x : Word) : Keeps (unitObject c reg p x : M (Obj × Int)) := by
  unfold unitObject; (repeat' first | with_reducible exact Keeps.pure _ | with_reducible exact Keeps.error _ | with_reducible exact Keeps.read _ | with_reducible assumption | with_reducible apply Keeps.bind | with_reducible apply Keeps.map | with_reducible apply Keeps.mapM | with_reducible apply trapM_keeps | with_reducible apply openSlot_keeps | with_reducible apply healPort_keeps | with_reducible apply indexOf_keeps | intro _ | split)

theorem loadEach_keeps (c : CoreId) (x1 : Nat) (x2 : Nat) : Keeps (loadEach c x1 x2 : M (List Byte)) := by
  induction x2 generalizing x1 with
  | zero => unfold loadEach; exact Keeps.pure _
  | succ n ih => unfold loadEach; repeat' first | with_reducible exact Keeps.pure _ | with_reducible exact Keeps.error _ | with_reducible exact Keeps.read _ | with_reducible assumption | with_reducible apply ih | with_reducible apply Keeps.bind | with_reducible apply Keeps.map | with_reducible apply Keeps.mapM | with_reducible apply loadBytes_keeps | intro _

theorem storeEach_keeps (c : CoreId) (x1 : Nat) (x2 : List Byte) : Keeps (storeEach c x1 x2 : M Unit) := by
  induction x2 generalizing x1 with
  | nil => unfold storeEach; exact Keeps.pure _
  | cons z zs ih => unfold storeEach; repeat' first | with_reducible exact Keeps.pure _ | with_reducible exact Keeps.error _ | with_reducible exact Keeps.read _ | with_reducible assumption | with_reducible apply ih | with_reducible apply Keeps.bind | with_reducible apply Keeps.map | with_reducible apply Keeps.mapM | with_reducible apply storeBytesM_keeps | intro _

theorem loadSlot_keeps (c : CoreId) (reg : Option Nat) (p a : Word) : Keeps (loadSlot c reg p a : M Word) := by
  unfold loadSlot; (repeat' first | with_reducible exact Keeps.pure _ | with_reducible exact Keeps.error _ | with_reducible exact Keeps.read _ | with_reducible assumption | with_reducible apply Keeps.bind | with_reducible apply Keeps.map | with_reducible apply Keeps.mapM | with_reducible apply loadWord_keeps | with_reducible apply slotOf_keeps | with_reducible apply unitObject_keeps | intro _ | split)

theorem loadPayload_keeps (c : CoreId) (reg : Option Nat) (p a : Word) (n : Nat) : Keeps (loadPayload c reg p a n : M Word) := by
  unfold loadPayload; (repeat' first | with_reducible exact Keeps.pure _ | with_reducible exact Keeps.error _ | with_reducible exact Keeps.read _ | with_reducible assumption | with_reducible apply Keeps.bind | with_reducible apply Keeps.map | with_reducible apply Keeps.mapM | with_reducible apply byteOf_keeps | with_reducible apply unitObject_keeps | with_reducible apply loadEach_keeps | intro _ | split)

theorem storeSlotT_keeps (c : CoreId) (reg src : Option Nat) (p x a : Word) : Keeps (storeSlotT c reg src p x a : M Unit) := by
  unfold storeSlotT; (repeat' first | with_reducible exact Keeps.pure _ | with_reducible exact Keeps.error _ | with_reducible exact Keeps.read _ | with_reducible assumption | with_reducible apply Keeps.bind | with_reducible apply Keeps.map | with_reducible apply Keeps.mapM | with_reducible apply storeWord_keeps | with_reducible apply slotOf_keeps | with_reducible apply immutableFault_keeps | with_reducible apply healPort_keeps | with_reducible apply unitObject_keeps | intro _ | split)

theorem storePayload_keeps (c : CoreId) (reg : Option Nat) (p x a : Word) (n : Nat) : Keeps (storePayload c reg p x a n : M Unit) := by
  unfold storePayload; (repeat' first | with_reducible exact Keeps.pure _ | with_reducible exact Keeps.error _ | with_reducible exact Keeps.read _ | with_reducible assumption | with_reducible apply Keeps.bind | with_reducible apply Keeps.map | with_reducible apply Keeps.mapM | with_reducible apply byteOf_keeps | with_reducible apply immutableFault_keeps | with_reducible apply wantFix_keeps | with_reducible apply unitObject_keeps | with_reducible apply storeEach_keeps | intro _ | split)

theorem extractField_keeps (a d : Word) : Keeps (extractField a d : M Word) := by
  unfold extractField; (repeat' first | with_reducible exact Keeps.pure _ | with_reducible exact Keeps.error _ | with_reducible exact Keeps.read _ | with_reducible assumption | with_reducible apply Keeps.bind | with_reducible apply Keeps.map | with_reducible apply Keeps.mapM | with_reducible apply operandFault_keeps | with_reducible apply wantFix_keeps | intro _ | split | dsimp only)

theorem bitIndex_keeps (a : Word) : Keeps (bitIndex a : M Nat) := by
  unfold bitIndex; (repeat' first | with_reducible exact Keeps.pure _ | with_reducible exact Keeps.error _ | with_reducible exact Keeps.read _ | with_reducible assumption | with_reducible apply Keeps.bind | with_reducible apply Keeps.map | with_reducible apply Keeps.mapM | with_reducible apply operandFault_keeps | intro _ | split)

theorem foldCrc_keeps (c : CoreId) (k : Core) (d : Nat) (a desc : Word) : Keeps (foldCrc c k d a desc : M Unit) := by
  unfold foldCrc; (repeat' first | with_reducible exact Keeps.pure _ | with_reducible exact Keeps.error _ | with_reducible exact Keeps.read _ | with_reducible assumption | with_reducible apply Keeps.bind | with_reducible apply Keeps.map | with_reducible apply Keeps.mapM | with_reducible apply wantFix_keeps | with_reducible apply crcOp_keeps | with_reducible apply crcDescM_keeps | with_reducible apply unitReg_keeps | intro _)

theorem unitOp_keeps (c : CoreId) (k : Core) (ls : List Live) (x : Live) : Keeps (unitOp c k ls x : M Unit) := by
  unfold unitOp; (repeat' first | with_reducible exact Keeps.pure _ | with_reducible exact Keeps.error _ | with_reducible exact Keeps.read _ | with_reducible assumption | with_reducible apply Keeps.bind | with_reducible apply Keeps.map | with_reducible apply Keeps.mapM | with_reducible apply setBitM_keeps | with_reducible apply genericAdd_keeps | with_reducible apply genericSub_keeps | with_reducible apply genericCmp_keeps | with_reducible apply logicOp_keeps | with_reducible apply shlOp_keeps | with_reducible apply shrOp_keeps | with_reducible apply sarOp_keeps | with_reducible apply tageqOp_keeps | with_reducible apply classisOp_keeps | with_reducible apply unitReg_keeps | with_reducible apply unitFlags_keeps | with_reducible apply loadSlot_keeps | with_reducible apply loadPayload_keeps | with_reducible apply storeSlotT_keeps | with_reducible apply storePayload_keeps | with_reducible apply extractField_keeps | with_reducible apply bitIndex_keeps | with_reducible apply foldCrc_keeps | intro _ | split | dsimp only)

theorem jumpTargetT_keeps (c : CoreId) (d : Nat) (pc : Nat) (a : Word) : Keeps (jumpTargetT c d pc a : M Nat) := by
  unfold jumpTargetT; (repeat' first | with_reducible exact Keeps.pure _ | with_reducible exact Keeps.error _ | with_reducible exact Keeps.read _ | with_reducible assumption | with_reducible apply Keeps.bind | with_reducible apply Keeps.map | with_reducible apply Keeps.mapM | with_reducible apply operandFault_keeps | intro _ | split | dsimp only) <;> first | grind [→ operandFault_keeps_ok, foldl_canonical] | (constructor; intro sA vA sB hA eA; grind [→ operandFault_keeps_ok, foldl_canonical])

theorem branchOp_keeps (c : CoreId) (k : Core) (ls : List Live) (x : Live) : Keeps (branchOp c k ls x : M Flow) := by
  unfold branchOp; (repeat' first | with_reducible exact Keeps.pure _ | with_reducible exact Keeps.error _ | with_reducible exact Keeps.read _ | with_reducible assumption | with_reducible apply Keeps.bind | with_reducible apply Keeps.map | with_reducible apply Keeps.mapM | with_reducible apply modC_keeps | with_reducible apply operandFault_keeps | with_reducible apply rotateBackward_keeps | with_reducible apply callTarget_keeps | with_reducible apply returnTarget_keeps | with_reducible apply continueM_keeps | with_reducible apply callTo_keeps | with_reducible apply loopCount_keeps | with_reducible apply loopSetup_keeps | with_reducible apply jumpTargetT_keeps | intro _ | split | dsimp only)

theorem branchOp_keeps_ok (c : CoreId) (k : Core) (ls : List Live) (x : Live) {sA vA sB} (hA : State.Canonical sA) (eA : (branchOp c k ls x : M Flow) sA = .ok (vA, sB)) : State.Canonical sB :=
  (branchOp_keeps c k ls x).canonical sA vA sB hA eA

theorem inSlot_keeps {α : Type} (slot step : Nat) (m : M α) (h_m : Keeps m) : Keeps (inSlot slot step m : M α) := by
  constructor; intro sA vA sB hA eA; unfold inSlot at eA
  split at eA
  · cases eA
  · exact h_m.canonical _ _ _ hA eA

theorem inSlot_keeps_ok {α : Type} (slot step : Nat) (m : M α) (h_m : Keeps m) {sA vA sB} (hA : State.Canonical sA) (eA : (inSlot slot step m : M α) sA = .ok (vA, sB)) : State.Canonical sB :=
  (inSlot_keeps slot step m h_m).canonical sA vA sB hA eA

theorem branchCheck_keeps (c : CoreId) (k : Core) (ls : List Live) (x : Live) : Keeps (branchCheck c k ls x : M Unit) := by
  unfold branchCheck; (repeat' first | with_reducible exact Keeps.pure _ | with_reducible exact Keeps.error _ | with_reducible exact Keeps.read _ | with_reducible assumption | with_reducible apply Keeps.bind | with_reducible apply Keeps.map | with_reducible apply Keeps.mapM | with_reducible apply callTarget_keeps | with_reducible apply returnTarget_keeps | with_reducible apply branchOp_keeps | intro _ | split)

theorem rotationCheck_keeps (c : CoreId) (x : Live) : Keeps (rotationCheck c x : M Unit) := by
  unfold rotationCheck; (repeat' first | with_reducible exact Keeps.pure _ | with_reducible exact Keeps.error _ | with_reducible exact Keeps.read _ | with_reducible assumption | with_reducible apply Keeps.bind | with_reducible apply Keeps.map | with_reducible apply Keeps.mapM | with_reducible apply wantForward_keeps | with_reducible apply wantBackward_keeps | with_reducible apply callTarget_keeps | intro _ | split)

theorem rotationCheck_keeps_ok (c : CoreId) (x : Live) {sA vA sB} (hA : State.Canonical sA) (eA : (rotationCheck c x : M Unit) sA = .ok (vA, sB)) : State.Canonical sB :=
  (rotationCheck_keeps c x).canonical sA vA sB hA eA

theorem checkTriggers_keeps (c : CoreId) (k : Core) (ls : List Live) (x1 : List Live) : Keeps (checkTriggers c k ls x1 : M Unit) := by
  induction x1 with
  | nil => unfold checkTriggers; exact Keeps.pure _
  | cons z zs ih =>
    unfold checkTriggers
    constructor; intro sA vA sB hA eA
    dsimp only at eA
    split at eA
    · cases eA
    · exact ih.canonical _ _ _ hA eA

theorem checkTriggers_keeps_ok (c : CoreId) (k : Core) (ls : List Live) (x1 : List Live) {sA vA sB} (hA : State.Canonical sA) (eA : (checkTriggers c k ls x1 : M Unit) sA = .ok (vA, sB)) : State.Canonical sB :=
  (checkTriggers_keeps c k ls x1).canonical sA vA sB hA eA

theorem runTriggers_keeps (c : CoreId) (k : Core) (ls : List Live) (x1 : List Live) : Keeps (runTriggers c k ls x1 : M Unit) := by
  induction x1 with
  | nil => unfold runTriggers; exact Keeps.pure _
  | cons z zs ih => unfold runTriggers; repeat' first | with_reducible exact Keeps.pure _ | with_reducible exact Keeps.error _ | with_reducible exact Keeps.read _ | with_reducible assumption | with_reducible apply ih | with_reducible apply Keeps.bind | with_reducible apply Keeps.map | with_reducible apply Keeps.mapM | with_reducible apply unitOp_keeps | with_reducible apply inSlot_keeps | intro _

theorem runTriggers_keeps_ok (c : CoreId) (k : Core) (ls : List Live) (x1 : List Live) {sA vA sB} (hA : State.Canonical sA) (eA : (runTriggers c k ls x1 : M Unit) sA = .ok (vA, sB)) : State.Canonical sB :=
  (runTriggers_keeps c k ls x1).canonical sA vA sB hA eA

theorem writeMoves_keeps (c : CoreId) (x1 : List Live) : Keeps (writeMoves c x1 : M Unit) := by
  induction x1 with
  | nil => unfold writeMoves; exact Keeps.pure _
  | cons z zs ih => unfold writeMoves; repeat' first | with_reducible exact Keeps.pure _ | with_reducible exact Keeps.error _ | with_reducible exact Keeps.read _ | with_reducible assumption | with_reducible apply ih | with_reducible apply Keeps.bind | with_reducible apply Keeps.map | with_reducible apply Keeps.mapM | with_reducible apply setRegM_keeps | intro _ | split

theorem writeMoves_keeps_ok (c : CoreId) (x1 : List Live) {sA vA sB} (hA : State.Canonical sA) (eA : (writeMoves c x1 : M Unit) sA = .ok (vA, sB)) : State.Canonical sB :=
  (writeMoves_keeps c x1).canonical sA vA sB hA eA

theorem bundleSteps_keeps (w : Word) (c : CoreId) : Keeps (bundleSteps w c : M Flow) := by
  unfold bundleSteps; (repeat' first | with_reducible exact Keeps.pure _ | with_reducible exact Keeps.error _ | with_reducible exact Keeps.read _ | with_reducible assumption | with_reducible apply Keeps.bind | with_reducible apply Keeps.map | with_reducible apply Keeps.mapM | with_reducible apply trapM_keeps | with_reducible apply getC_keeps | with_reducible apply continueM_keeps | with_reducible apply branchOp_keeps | with_reducible apply inSlot_keeps | with_reducible apply rotationCheck_keeps | with_reducible apply checkTriggers_keeps | with_reducible apply runTriggers_keeps | with_reducible apply writeMoves_keeps | intro _ | split | dsimp only) <;> first | grind [→ trapM_keeps_ok, → getC_keeps_ok, → continueM_keeps_ok, → branchOp_keeps_ok, → inSlot_keeps_ok, → rotationCheck_keeps_ok, → checkTriggers_keeps_ok, → runTriggers_keeps_ok, → writeMoves_keeps_ok, foldl_canonical] | (constructor; intro sA vA sB hA eA; grind [→ trapM_keeps_ok, → getC_keeps_ok, → continueM_keeps_ok, → branchOp_keeps_ok, → inSlot_keeps_ok, → rotationCheck_keeps_ok, → checkTriggers_keeps_ok, → runTriggers_keeps_ok, → writeMoves_keeps_ok, foldl_canonical])

theorem bodyBundle_keeps (w : Word) (c : CoreId) : Keeps (bodyBundle w c : M Flow) := by
  unfold bodyBundle; (repeat' first | with_reducible exact Keeps.pure _ | with_reducible exact Keeps.error _ | with_reducible exact Keeps.read _ | with_reducible assumption | with_reducible apply Keeps.bind | with_reducible apply Keeps.map | with_reducible apply Keeps.mapM | with_reducible apply fetchM_keeps | with_reducible apply bundleSteps_keeps | intro _)

theorem execBundle_keeps (a : At) (w : Word) (s : State) (hC : s.Canonical) {tR : State} (eR : execBundle a w s = .next tR) : tR.Canonical := by
  unfold execBundle at eR; cases eR; (first | apply runBody_keeps) <;> (repeat' first | assumption | intro _ | apply bodyBundle_keeps)

theorem execUnitResultLanding_keeps (c : CoreId) (i : Nat) (s : State) (hC : s.Canonical) {tR : State} (eR : execUnitResultLanding c i s = .next tR) : tR.Canonical := by
  unfold execUnitResultLanding at eR; grind [← State.setCore_keeps, ← mirror_keeps, foldl_canonical]

end Sys2Proof.Machine
end

