-- ==== Sys2Proof/Laws/KeepsUnits.lean ====
section
/-! SUPPORT. Memory stays canonical: microcode, resets, TLBs, memory events, the deep cache, Moraine and Crest. One lemma per operation. -/

namespace Sys2Proof.Machine

open Sys2Proof

/-! ### SetupWrite -/

theorem storeSetup_keeps (s : State) (n : RegName) (i : Nat) (w : SetupWrite) (allow : Word → Word → Word) (hC : s.Canonical) : (storeSetup s n i w allow).Canonical := by
  grind [storeSetup, ← State.setR_keeps, foldl_canonical]

/-! ### Microcode -/

theorem setResult_keeps (s : State) (c : CoreId) (busy : Bool) (code : Nat) (hC : s.Canonical) : (setResult s c busy code).Canonical := by
  grind [setResult, ← State.setR_keeps, foldl_canonical]

theorem setPatch_keeps (s : State) (c : CoreId) (j : PatchJob) (hC : s.Canonical) : (setPatch s c j).Canonical := by
  grind [setPatch, ← State.modCore_keeps, foldl_canonical]

theorem writeMcCtl_keeps (s : State) (c : CoreId) (w : SetupWrite) (hC : s.Canonical) : (writeMcCtl s c w).Canonical := by
  grind [writeMcCtl, ← storeSetup_keeps, ← setResult_keeps, ← setPatch_keeps, foldl_canonical]

theorem execMcApply_keeps (c : CoreId) (w : SetupWrite) (s : State) (hC : s.Canonical) {tR : State} (eR : execMcApply c w s = .next tR) : tR.Canonical := by
  unfold execMcApply at eR; grind [← writeMcCtl_keeps, foldl_canonical]

theorem execMcDisable_keeps (c : CoreId) (w : SetupWrite) (s : State) (hC : s.Canonical) {tR : State} (eR : execMcDisable c w s = .next tR) : tR.Canonical := by
  unfold execMcDisable at eR; grind [← writeMcCtl_keeps, foldl_canonical]

theorem execPatchDrain_keeps (c : CoreId) (r : PatchReport) (s : State) (hC : s.Canonical) {tR : State} (eR : execPatchDrain c r s = .next tR) : tR.Canonical := by
  unfold execPatchDrain at eR
  obtain rfl := Host.Outcome.next.inj eR
  split
  · exact hC
  · dsimp only
    split
    · exact hC
    · split
      · exact mirror_keeps _ _ (State.modCore_keeps _ _ _ (drainStores_keeps _ _ hC))
      · split
        · exact mirror_keeps _ _ (setResult_keeps _ _ _ _ (State.modCore_keeps _ _ _ (drainStores_keeps _ _ hC)))
        · exact mirror_keeps _ _ (State.modCore_keeps _ _ _ (drainStores_keeps _ _ hC))
      · exact hC

theorem endPatch_keeps (s : State) (c : CoreId) (load : Option (Tbl MatchReg × Nat)) (r : PatchOutcome) (hC : s.Canonical) : (endPatch s c load r).Canonical := by
  unfold endPatch; (repeat' split) <;> grind [← State.modCore_keeps, ← State.setR_keeps, ← publish_keeps, ← romOnly_keeps, foldl_canonical]

theorem execPatchApplyEnd_keeps (c : CoreId) (s : State) (hC : s.Canonical) {tR : State} (eR : execPatchApplyEnd c s = .next tR) : tR.Canonical := by
  unfold execPatchApplyEnd at eR
  obtain rfl := Host.Outcome.next.inj eR
  split
  · exact hC
  · next c _ =>
    split
    · next r odd load back _ =>
      have h1 := mirror_keeps _ c (State.modCore_keeps s c (fun k => { k with mode := back, patch := none }) hC)
      have h2 := foldl_canonical (fun s a h => endPatch_keeps s a load r h) (majority (mirror (s.modCore c (fun k => { k with mode := back, patch := none })) c) c) h1
      dsimp only
      have h3 := setResult_keeps _ (leadOf s c) false (patchCode load r) h2
      split
      · split
        · exact h3
        · split
          · exact threeWay_keeps _ _ _ _ h3
          · exact diverge_keeps _ _ _ _ _ (endPatch_keeps _ _ _ _ h3)
      · exact h3
    · exact hC

/-! ### Reset -/

theorem clockAtStart_keeps (s : State) (q : Nat) (hC : s.Canonical) : (clockAtStart s q).Canonical := by
  grind [clockAtStart, ← State.setR_keeps, foldl_canonical]

theorem resetDevice_keeps (s : State) (hC : s.Canonical) : (resetDevice s).Canonical := by
  unfold resetDevice
  exact foldl_canonical (fun s a h => clockAtStart_keeps s a h) _ (State.setF_keeps _ _ _ _ _ _ reset_canonical)

theorem setBoot_keeps (s : State) (st : Nat) (hC : s.Canonical) : (setBoot s st).Canonical := by
  grind [setBoot, ← State.setF_keeps, foldl_canonical]

theorem clearFails_keeps (s : State) (hC : s.Canonical) : (clearFails s).Canonical := by
  grind [clearFails, ← State.setF_keeps, foldl_canonical]

theorem resetBase_keeps (s : State) (hC : s.Canonical) : (resetBase s).Canonical := by
  grind [resetBase, ← State.setF_keeps, foldl_canonical]

theorem countStart_keeps (s : State) (kind : Nat) (hC : s.Canonical) : (countStart s kind).Canonical := by
  grind [countStart, ← State.setR_keeps, foldl_canonical]

theorem noteThermal_keeps (s : State) (hC : s.Canonical) : (noteThermal s).Canonical := by
  grind [noteThermal, ← pulse_keeps, foldl_canonical]

theorem baseAtStart_keeps (s : State) (kind : Nat) (hC : s.Canonical) : (baseAtStart s kind).Canonical := by
  grind [baseAtStart, ← clearFails_keeps, ← resetBase_keeps, foldl_canonical]

theorem clearFailed_keeps (s : State) (hC : s.Canonical) : (clearFailed s).Canonical := by
  grind [clearFailed, foldl_canonical]

theorem startOnce_keeps (s : State) (kind : Nat) (hC : s.Canonical) : (startOnce s kind).Canonical := by
  unfold startOnce
  exact noteThermal_keeps _ (countStart_keeps _ _ (State.setF_keeps _ _ _ _ _ _ (setBoot_keeps _ _ (clearFailed_keeps _ (resetDevice_keeps _ (baseAtStart_keeps s kind hC))))))

theorem logTamper_keeps (s : State) (src act : Nat) (hC : s.Canonical) : (logTamper s src act).Canonical := by
  grind [logTamper, ← State.setR_keeps, foldl_canonical]

theorem zeroise_keeps (s : State) (hC : s.Canonical) : (zeroise s).Canonical := by
  grind [zeroise, foldl_canonical]

theorem loseKeys_keeps (s : State) (hC : s.Canonical) : (loseKeys s).Canonical := by
  grind [loseKeys, foldl_canonical]

theorem destroySalt_keeps (s : State) (hC : s.Canonical) : (destroySalt s).Canonical := by
  grind [destroySalt, ← loseKeys_keeps, foldl_canonical]

theorem tamperEffects_keeps (s : State) (src act : Nat) (hC : s.Canonical) : ((tamperEffects s src act).1).Canonical := by
  grind [tamperEffects, ← pulse_keeps, ← logTamper_keeps, ← zeroise_keeps, ← destroySalt_keeps, foldl_canonical]

theorem tamperEffects_keeps_eq (s : State) (src act : Nat) (hC : s.Canonical) {a0 a1} (eR : tamperEffects s src act = (a0, a1)) : a0.Canonical := by
  have := tamperEffects_keeps s src act hC; rw [eR] at this; exact this

theorem applyRecorded_keeps (s : State) (hC : s.Canonical) : ((applyRecorded s).1).Canonical := by
  have key : ∀ (l : List Nat) (x : State × Bool), x.1.Canonical → (l.foldl (fun (x : State × Bool) src =>
    let (y, due) := tamperEffects x.1 src (tamperAction s.base.policy src)
    (y, x.2 || due)) x).1.Canonical := by
    intro l
    induction l with
    | nil => exact fun x h => h
    | cons a l ih => exact fun x h => ih _ (tamperEffects_keeps _ _ _ h)
  exact key _ _ hC

theorem applyRecorded_keeps_eq (s : State) (hC : s.Canonical) {a0 a1} (eR : applyRecorded s = (a0, a1)) : a0.Canonical := by
  have := applyRecorded_keeps s hC; rw [eR] at this; exact this

theorem deviceStart_keeps (s : State) (kind : Nat) (hC : s.Canonical) : (deviceStart s kind).Canonical := by
  grind [deviceStart, ← startOnce_keeps, ← applyRecorded_keeps, → applyRecorded_keeps_eq, foldl_canonical]

theorem tamper_keeps (s : State) (src : Nat) (hC : s.Canonical) : (tamper s src).Canonical := by
  grind [tamper, ← zeroise_keeps, ← destroySalt_keeps, ← tamperEffects_keeps, → tamperEffects_keeps_eq, ← deviceStart_keeps, foldl_canonical]

theorem execTamperEvent_keeps (src : Fin 11) (s : State) (hC : s.Canonical) {tR : State} (eR : execTamperEvent src s = .next tR) : tR.Canonical := by
  unfold execTamperEvent at eR; grind [← tamper_keeps, foldl_canonical]

theorem execTamperAlarmEnd_keeps (s : State) (hC : s.Canonical) {tR : State} (eR : execTamperAlarmEnd s = .next tR) : tR.Canonical := by
  unfold execTamperAlarmEnd at eR; grind [foldl_canonical]

/-! ### Tlb -/

theorem writeTlbinv_keeps (s : State) (p : Nat) (w : SetupWrite) (hC : s.Canonical) : (writeTlbinv s p w).Canonical := by
  grind [writeTlbinv, ← State.setF_keeps, ← storeSetup_keeps, foldl_canonical]

theorem execTlbinvStart_keeps (p : Fin 97) (w : SetupWrite) (s : State) (hC : s.Canonical) {tR : State} (eR : execTlbinvStart p w s = .next tR) : tR.Canonical := by
  unfold execTlbinvStart at eR; grind [← writeTlbinv_keeps, foldl_canonical]

theorem drainAll_keeps (s : State) (hC : s.Canonical) : (drainAll s).Canonical := by
  grind [drainAll, ← drainStores_keeps, foldl_canonical]

theorem execTlbinvComplete_keeps (p : Fin 97) (s : State) (hC : s.Canonical) {tR : State} (eR : execTlbinvComplete p s = .next tR) : tR.Canonical := by
  unfold execTlbinvComplete at eR; grind [← State.setR_keeps, ← State.setF_keeps, ← invalidate_keeps, ← drainAll_keeps, foldl_canonical]

/-! ### MemoryEvents -/

theorem channelError_keeps (s : State) (q pa : Nat) (e : CairnError) (hC : s.Canonical) : (channelError s q pa e).Canonical := by
  grind [channelError, ← pulse_keeps, ← logCairn_keeps, foldl_canonical]

theorem poisonStored_keeps (s : State) (q pa : Nat) (hC : s.Canonical) : (poisonStored s q pa).Canonical := by
  grind [poisonStored, ← setPoison_keeps, ← State.setDeep_keeps, foldl_canonical]

theorem patrolChannel_keeps (s : State) (q pa : Nat) (flips : Codeword) (hC : s.Canonical) : (patrolChannel s q pa flips).Canonical := by
  grind [patrolChannel, ← State.setDeep_keeps, ← channelError_keeps, ← poisonStored_keeps, foldl_canonical]

theorem execPatrolScrub_keeps (pa : Nat) (flips : Codeword) (s : State) (hC : s.Canonical) {tR : State} (eR : execPatrolScrub pa flips s = .next tR) : tR.Canonical := by
  unfold execPatrolScrub at eR; grind [← storageCheck_keeps, ← patrolChannel_keeps, foldl_canonical]

theorem writeTsrep_keeps (s : State) (t : Nat) (w : SetupWrite) (hC : s.Canonical) : (writeTsrep s t w).Canonical := by
  grind [writeTsrep, ← State.setF_keeps, ← storeSetup_keeps, foldl_canonical]

theorem execTsrepGo_keeps (t : TileId) (w : SetupWrite) (s : State) (hC : s.Canonical) {tR : State} (eR : execTsrepGo t w s = .next tR) : tR.Canonical := by
  unfold execTsrepGo at eR; grind [← writeTsrep_keeps, foldl_canonical]

/-! ### DeepMemory -/

theorem answerReads_keeps (s : State) (q line : Nat) (err : Bool) (hC : s.Canonical) : (answerReads s q line err).Canonical := by
  grind [answerReads, ← consumeSpan_keeps, ← State.setDeep_keeps, foldl_canonical]

theorem recordInteg_keeps (s : State) (q kind level pa : Nat) (hC : s.Canonical) : (recordInteg s q kind level pa).Canonical := by
  grind [recordInteg, ← State.setR_keeps, foldl_canonical]

theorem integrityEvent_keeps (s : State) (q kind level pa : Nat) (hC : s.Canonical) : (integrityEvent s q kind level pa).Canonical := by
  grind [integrityEvent, ← pulse_keeps, ← tamper_keeps, ← recordInteg_keeps, foldl_canonical]

theorem poisonLine_keeps (s : State) (q line : Nat) (hC : s.Canonical) : (poisonLine s q line).Canonical := by
  grind [poisonLine, ← setPoison_keeps, ← cacheTouch_keeps, foldl_canonical]

theorem deliverLine_keeps (s : State) (q line pa : Nat) (r : LineRead) (hC : s.Canonical) : (deliverLine s q line pa r).Canonical := by
  grind [deliverLine, ← State.setDeep_keeps, ← cacheTouch_keeps, ← channelError_keeps, ← answerReads_keeps, foldl_canonical]

theorem macFailure_keeps (s : State) (q line : Nat) (hC : s.Canonical) : (macFailure s q line).Canonical := by
  grind [macFailure, ← answerReads_keeps, ← integrityEvent_keeps, ← poisonLine_keeps, foldl_canonical]

theorem deepOutcome_keeps (s : State) (q line : Nat) (o : DeepOutcome) (hC : s.Canonical) : (deepOutcome s q line o).Canonical := by
  unfold deepOutcome; (repeat' split) <;> grind [← State.setR_keeps, ← State.setDeep_keeps, ← channelError_keeps, ← answerReads_keeps, ← integrityEvent_keeps, ← poisonLine_keeps, ← deliverLine_keeps, ← macFailure_keeps, foldl_canonical]

theorem execDeepReadComplete_keeps (q : QuadId) (line : Nat) (o : DeepOutcome) (s : State) (hC : s.Canonical) {tR : State} (eR : execDeepReadComplete q line o s = .next tR) : tR.Canonical := by
  unfold execDeepReadComplete at eR; grind [← deepOutcome_keeps, foldl_canonical]

theorem execDeepReadTimeout_keeps (q : QuadId) (line : Nat) (s : State) (hC : s.Canonical) {tR : State} (eR : execDeepReadTimeout q line s = .next tR) : tR.Canonical := by
  unfold execDeepReadTimeout at eR; grind [← State.setDeep_keeps, ← answerReads_keeps, ← integrityEvent_keeps, foldl_canonical]

theorem execRetrainingStall_keeps (q : QuadId) (s : State) (hC : s.Canonical) {tR : State} (eR : execRetrainingStall q s = .next tR) : tR.Canonical := by
  unfold execRetrainingStall at eR; grind [← State.setDeep_keeps, foldl_canonical]

theorem writeRop_keeps (s : State) (q : Nat) (w : SetupWrite) (hC : s.Canonical) : (writeRop s q w).Canonical := by
  grind [writeRop, ← State.setF_keeps, ← pulse_keeps, ← State.setDeep_keeps, ← storeSetup_keeps, foldl_canonical]

theorem startRangeOp_keeps (op : Nat) (q : QuadId) (w : SetupWrite) (s : State) (hC : s.Canonical) {tR : State} (eR : startRangeOp op q w s = .next tR) : tR.Canonical := by
  unfold startRangeOp at eR; grind [← writeRop_keeps, foldl_canonical]

theorem execClean_keeps (q : QuadId) (w : SetupWrite) (s : State) (hC : s.Canonical) {tR : State} (eR : execClean q w s = .next tR) : tR.Canonical := by
  unfold execClean at eR; grind [→ startRangeOp_keeps, foldl_canonical]

theorem execCleanInv_keeps (q : QuadId) (w : SetupWrite) (s : State) (hC : s.Canonical) {tR : State} (eR : execCleanInv q w s = .next tR) : tR.Canonical := by
  unfold execCleanInv at eR; grind [→ startRangeOp_keeps, foldl_canonical]

theorem execInv_keeps (q : QuadId) (w : SetupWrite) (s : State) (hC : s.Canonical) {tR : State} (eR : execInv q w s = .next tR) : tR.Canonical := by
  unfold execInv at eR; grind [→ startRangeOp_keeps, foldl_canonical]

theorem execPrefetch_keeps (q : QuadId) (w : SetupWrite) (s : State) (hC : s.Canonical) {tR : State} (eR : execPrefetch q w s = .next tR) : tR.Canonical := by
  unfold execPrefetch at eR; grind [→ startRangeOp_keeps, foldl_canonical]

theorem execPrefetchLock_keeps (q : QuadId) (w : SetupWrite) (s : State) (hC : s.Canonical) {tR : State} (eR : execPrefetchLock q w s = .next tR) : tR.Canonical := by
  unfold execPrefetchLock at eR; grind [→ startRangeOp_keeps, foldl_canonical]

theorem execUnlock_keeps (q : QuadId) (w : SetupWrite) (s : State) (hC : s.Canonical) {tR : State} (eR : execUnlock q w s = .next tR) : tR.Canonical := by
  unfold execUnlock at eR; grind [→ startRangeOp_keeps, foldl_canonical]

theorem restoreLine_keeps (s : State) (line : Nat) (stored : List Byte) (bad : List Nat) (hC : s.Canonical) : (restoreLine s line stored bad).Canonical := by
  grind [restoreLine, ← writeBytes_keeps, ← setPoison_keeps, ← clearPoison_keeps, foldl_canonical]

theorem visitWriteBack_keeps (q line : Nat) (v : Visit) (hC : v.s.Canonical) : (visitWriteBack q line v).s.Canonical := by
  unfold visitWriteBack
  grind [← State.setDeep_keeps, ← writeBytes_keeps, ← removeLine_keeps, ← deepTouch_keeps]

theorem visitRemove_keeps (q line : Nat) (v : Visit) (hC : v.s.Canonical) : (visitRemove q line v).s.Canonical := by
  unfold visitRemove
  grind [← State.setDeep_keeps, ← writeBytes_keeps, ← removeLine_keeps, ← deepTouch_keeps]

theorem visitDiscard_keeps (q line : Nat) (v : Visit) (hC : v.s.Canonical) : (visitDiscard q line v).s.Canonical := by
  unfold visitDiscard
  dsimp only
  split
  · refine visitRemove_keeps _ _ _ ?_
    split
    · exact restoreLine_keeps _ _ _ _ hC
    · exact hC
  · split
    · exact hC
    · exact removeLine_keeps _ _ _ (restoreLine_keeps _ _ _ _ (State.setDeep_keeps _ _ _ hC))
  · exact hC

theorem visitPrefetch_keeps (q cls line : Nat) (v : Visit) (hC : v.s.Canonical) : (visitPrefetch q cls line v).s.Canonical := by
  unfold visitPrefetch
  grind [← State.setDeep_keeps, ← writeBytes_keeps, ← removeLine_keeps, ← deepTouch_keeps, ← visitRemove_keeps]

theorem visitLock_keeps (q cls line : Nat) (v : Visit) (hC : v.s.Canonical) : (visitLock q cls line v).s.Canonical := by
  unfold visitLock
  grind [← State.setDeep_keeps, ← writeBytes_keeps, ← removeLine_keeps, ← deepTouch_keeps, ← visitRemove_keeps, ← visitPrefetch_keeps]

theorem visitUnlock_keeps (q line : Nat) (v : Visit) (hC : v.s.Canonical) : (visitUnlock q line v).s.Canonical := by
  unfold visitUnlock
  grind [← State.setDeep_keeps, ← writeBytes_keeps, ← removeLine_keeps, ← deepTouch_keeps, ← visitRemove_keeps, ← visitPrefetch_keeps]

theorem visit_keeps (q op cls : Nat) (v : Visit) (line : Nat) (hC : v.s.Canonical) : (visit q op cls v line).s.Canonical := by
  unfold visit
  grind [visitWriteBack_keeps, visitRemove_keeps, visitDiscard_keeps, visitPrefetch_keeps, visitLock_keeps, visitUnlock_keeps]

theorem execRangeOperationEnd_keeps (q : QuadId) (s : State) (hC : s.Canonical) {tR : State} (eR : execRangeOperationEnd q s = .next tR) : tR.Canonical := by
  unfold execRangeOperationEnd at eR
  obtain rfl := Host.Outcome.next.inj eR
  split
  · exact hC
  · next r hr =>
    have hv : ∀ (l : List Nat) (v : Visit), v.s.Canonical → (l.foldl (visit q.val r.op r.cls) v).s.Canonical := by
      intro l
      induction l with
      | nil => exact fun v h => h
      | cons a l ih => exact fun v h => ih _ (visit_keeps _ _ _ _ _ h)
    have h0 := hv (visited s q.val (linesInside s q.val r) r) ⟨s, 0, 0⟩ hC
    dsimp only
    generalize List.foldl (visit q.val r.op r.cls) ⟨s, 0, 0⟩ _ = v at h0 ⊢
    exact pulse_keeps _ _ (State.setF_keeps _ _ _ _ _ _ (State.setF_keeps _ _ _ _ _ _ (State.setF_keeps _ _ _ _ _ _ (State.setF_keeps _ _ _ _ _ _ (State.setDeep_keeps _ _ _ h0)))))

theorem writeDmcCtl_keeps (s : State) (q : Nat) (w : SetupWrite) (hC : s.Canonical) : (writeDmcCtl s q w).Canonical := by
  grind [writeDmcCtl, ← State.setF_keeps, ← publishUnit_keeps, foldl_canonical]

theorem execRetire_keeps (q : QuadId) (w : SetupWrite) (s : State) (hC : s.Canonical) {tR : State} (eR : execRetire q w s = .next tR) : tR.Canonical := by
  unfold execRetire at eR; grind [← writeDmcCtl_keeps, foldl_canonical]

theorem execChannelRetireEnd_keeps (q : QuadId) (s : State) (hC : s.Canonical) {tR : State} (eR : execChannelRetireEnd q s = .next tR) : tR.Canonical := by
  unfold execChannelRetireEnd at eR; grind [← State.setF_keeps, ← State.setDeep_keeps, ← publishUnit_keeps, foldl_canonical]

/-! ### Moraine -/

theorem setPhase_keeps (s : State) (p : Nat) (hC : s.Canonical) : (setPhase s p).Canonical := by
  grind [setPhase, ← State.setF_keeps, foldl_canonical]

theorem writeMorCtl_keeps (s : State) (w : SetupWrite) (hC : s.Canonical) : (writeMorCtl s w).Canonical := by
  grind [writeMorCtl, ← startCycle_keeps, ← triggerCycle_keeps, ← storeSetup_keeps, ← setPhase_keeps, foldl_canonical]

theorem execMorStart_keeps (w : SetupWrite) (s : State) (hC : s.Canonical) {tR : State} (eR : execMorStart w s = .next tR) : tR.Canonical := by
  unfold execMorStart at eR; grind [← writeMorCtl_keeps, foldl_canonical]

theorem addWork_keeps (s : State) (ws : List Word) (hC : s.Canonical) : (addWork s ws).Canonical := by
  grind [addWork, foldl_canonical]

theorem endFlip_keeps (s : State) (hC : s.Canonical) : (endFlip s).Canonical := by
  grind [endFlip, ← setPhase_keeps, foldl_canonical]

theorem execRootScan_keeps (c : CoreId) (s : State) (hC : s.Canonical) {tR : State} (eR : execRootScan c s = .next tR) : tR.Canonical := by
  unfold execRootScan at eR; grind [← State.setCore_keeps, ← State.modCore_keeps, ← mirror_keeps, ← addWork_keeps, ← endFlip_keeps, foldl_canonical]

theorem traceSlot_keeps (t : Nat) (s0 : State) (va : Nat) (hC : s0.Canonical) : (traceSlot t s0 va).Canonical := by
  unfold traceSlot
  have hT := heapTouch_keeps (withEngine s0 t) va 8 (withEngine_keeps s0 t hC)
  generalize heapTouch (withEngine s0 t) va 8 = s at hT
  dsimp only
  split
  · exact hT
  · split
    · exact hT
    · split
      · exact meetPoison_keeps _ _ _ hT
      · split
        · exact hT
        · rename_i pa _ _ _ _
          have h1 : (if healMoved s (readWord s pa) == readWord s pa then s else (heapWrite s va (bytesOfWord (healMoved s (readWord s pa)))).getD s).Canonical := by
            split
            · exact hT
            · cases h : heapWrite s va (bytesOfWord (healMoved s (readWord s pa))) with
              | none => exact hT
              | some t => exact heapWrite_keeps _ _ _ hT h
          split
          · exact h1
          · split
            · exact addWork_keeps _ _ h1
            · exact h1

theorem countMarked_keeps (s : State) (t size : Nat) (hC : s.Canonical) : (countMarked s t size).Canonical := by
  grind [countMarked, ← State.setF_keeps, foldl_canonical]

theorem markObject_keeps (t : Nat) (s : State) (va : Nat) (hC : s.Canonical) : (markObject t s va).Canonical := by
  unfold markObject; (repeat' split) <;> grind [← setMark_keeps, ← withEngine_keeps, ← heapTouch_keeps, ← meetPoison_keeps, ← traceSlot_keeps, ← countMarked_keeps, foldl_canonical]

theorem traceWord_keeps (t : Nat) (s : State) (w : Word) (hC : s.Canonical) : (traceWord t s w).Canonical := by
  grind [traceWord, ← markObject_keeps, foldl_canonical]

theorem traceAll_keeps (t : Nat) (x1 : Nat) (x2 : State) (hC : x2.Canonical) : (traceAll t x1 x2).Canonical := by
  fun_induction traceAll t x1 x2 <;> grind [← traceWord_keeps, foldl_canonical]

theorem handOverAll_keeps (s : State) (hC : s.Canonical) : (handOverAll s).Canonical := by
  grind [handOverAll, ← handOver_keeps, foldl_canonical]

theorem execMarkTrace_keeps (t : TileId) (s : State) (hC : s.Canonical) {tR : State} (eR : execMarkTrace t s = .next tR) : tR.Canonical := by
  unfold execMarkTrace at eR; grind [← setPhase_keeps, ← traceWord_keeps, ← handOverAll_keeps, foldl_canonical]

theorem dropCursors_keeps (s : State) (r : Nat) (hC : s.Canonical) : (dropCursors s r).Canonical := by
  grind [dropCursors, foldl_canonical]

theorem freeRegion_keeps (s : State) (r : Nat) (hC : s.Canonical) : (freeRegion s r).Canonical := by
  grind [freeRegion, ← setDesc_keeps, ← setBstate_keeps, ← clearBitmap_keeps, ← dropCursors_keeps, foldl_canonical]

theorem endRegion_keeps (s : State) (r : Nat) (hC : s.Canonical) : (endRegion s r).Canonical := by
  unfold endRegion
  dsimp only
  have hk : ∀ w, (setDesc s r w).Canonical := fun w => setDesc_keeps _ _ _ hC
  repeat' split
  all_goals first | with_reducible exact hC | with_reducible apply hk | with_reducible exact freeRegion_keeps _ _ hC | exact foldl_canonical (fun s a h => freeRegion_keeps _ _ h) _ hC

theorem finaliseSlot_keeps (s : State) (va : Nat) (hC : s.Canonical) : (finaliseSlot s va).Canonical := by
  unfold finaliseSlot
  split
  · exact hC
  · dsimp only
    split
    · exact hC
    · rename_i w0 _ _
      have h1 := traceAll_keeps 0 (2 ^ 40) _ (markObject_keeps 0 s (valOf (healMoved s w0)) hC)
      generalize traceAll 0 (2 ^ 40) (markObject 0 s (valOf (healMoved s w0))) = s1 at h1 ⊢
      split <;> rename_i s2 h2 <;> have h3 := appendReg_keeps_eq _ _ _ _ _ h1 h2
      · cases h : heapWrite s2 va (bytesOfWord nil) with
        | none => exact h3
        | some t => exact heapWrite_keeps _ _ _ h3 h
      · exact State.setF_keeps _ _ _ _ _ _ h3
      all_goals exact h3

theorem finalise_keeps (s : State) (hC : s.Canonical) : (finalise s).Canonical := by
  grind [finalise, ← finaliseSlot_keeps, foldl_canonical]

theorem clearWeak_keeps (s : State) (va : Nat) (hC : s.Canonical) : (clearWeak s va).Canonical := by
  unfold clearWeak
  split
  · split
    · cases h : heapWrite s va (bytesOfWord nil) with
      | none => exact hC
      | some t => exact heapWrite_keeps _ _ _ hC h
    · exact hC
  · exact hC

theorem execMarkEnd_keeps (s : State) (hC : s.Canonical) {tR : State} (eR : execMarkEnd s = .next tR) : tR.Canonical := by
  unfold execMarkEnd at eR; grind [← countFree_keeps, ← setPhase_keeps, ← endRegion_keeps, ← finalise_keeps, ← clearWeak_keeps, foldl_canonical]

theorem applyHint_keeps (s : State) (h : Nat × Nat × Nat) (hC : s.Canonical) : (applyHint s h).Canonical := by
  unfold applyHint; (repeat' split) <;> grind [← setDesc_keeps, foldl_canonical]

theorem chooseRegions_keeps (x1 : List Nat) (x2 : State) (x3 : Nat) (hC : x2.Canonical) : (chooseRegions x1 x2 x3).Canonical := by
  fun_induction chooseRegions x1 x2 x3 <;> grind [← setBstate_keeps, ← countFree_keeps, ← freeRegion_keeps, foldl_canonical]

theorem execSelect_keeps (s : State) (hC : s.Canonical) {tR : State} (eR : execSelect s = .next tR) : tR.Canonical := by
  unfold execSelect at eR; grind [← countFree_keeps, ← drainAll_keeps, ← setPhase_keeps, ← applyHint_keeps, ← chooseRegions_keeps, foldl_canonical]

theorem execEvacuateCopy_keeps (t : TileId) (s : State) (hC : s.Canonical) {tR : State} (eR : execEvacuateCopy t s = .next tR) : tR.Canonical := by
  unfold execEvacuateCopy at eR; grind [← setBstate_keeps, → moveObject_keeps, foldl_canonical]

theorem execCycleEnd_keeps (s : State) (hC : s.Canonical) {tR : State} (eR : execCycleEnd s = .next tR) : tR.Canonical := by
  unfold execCycleEnd at eR; grind [← State.setR_keeps, ← pulse_keeps, ← triggerCycle_keeps, ← setPhase_keeps, foldl_canonical]

theorem execMoveRequest_keeps (m : Master) (w : Word) (s : State) (hC : s.Canonical) {tR : State} (eR : execMoveRequest m w s = .next tR) : tR.Canonical := by
  unfold execMoveRequest at eR; grind [← State.setR_keeps, → moveObject_keeps, foldl_canonical]

theorem execPageRemap_keeps (va page : Nat) (s : State) (hC : s.Canonical) {tR : State} (eR : execPageRemap va page s = .next tR) : tR.Canonical := by
  unfold execPageRemap at eR; grind [← putWord_keeps, ← invalidate_keeps, ← copyPage_keeps, ← drainAll_keeps, foldl_canonical]

theorem writeMorHint_keeps (s : State) (w : SetupWrite) (hC : s.Canonical) : (writeMorHint s w).Canonical := by
  grind [writeMorHint, ← descField_keeps, ← storeSetup_keeps, foldl_canonical]

theorem execMorHintGo_keeps (w : SetupWrite) (s : State) (hC : s.Canonical) {tR : State} (eR : execMorHintGo w s = .next tR) : tR.Canonical := by
  unfold execMorHintGo at eR; grind [← writeMorHint_keeps, foldl_canonical]

theorem execHeapFullTimeout_keeps (c : CoreId) (s : State) (hC : s.Canonical) {tR : State} (eR : execHeapFullTimeout c s = .next tR) : tR.Canonical := by
  unfold execHeapFullTimeout at eR; grind [← State.modCore_keeps, ← raiseStop_keeps, ← mirror_keeps, foldl_canonical]

theorem execAllocationWaitEnd_keeps (c : CoreId) (s : State) (hC : s.Canonical) {tR : State} (eR : execAllocationWaitEnd c s = .next tR) : tR.Canonical := by
  unfold execAllocationWaitEnd at eR; grind [← setModes_keeps, foldl_canonical]

/-! ### Crest -/

theorem engineHeapFull_keeps (s : State) (t : Nat) (hC : s.Canonical) : (engineHeapFull s t).Canonical := by
  grind [engineHeapFull, ← State.setF_keeps, ← pulse_keeps, ← startCycle_keeps, foldl_canonical]

theorem cirqueBad_keeps (s : State) (t : Nat) (full : Bool) (hC : s.Canonical) : (cirqueBad s t full).Canonical := by
  grind [cirqueBad, ← State.setF_keeps, ← pulse_keeps, foldl_canonical]

theorem cirqueReply_keeps (s : State) (t : Nat) (mbox : Nat) (w : Word) (hC : s.Canonical) : (cirqueReply s t mbox w).Canonical := by
  grind [cirqueReply, ← appendMailbox_keeps, → appendMailbox_keeps_eq, ← cirqueBad_keeps, foldl_canonical]

theorem makeTable_keeps (s : State) (t seed k : Nat) (hC : s.Canonical) {rR} (eR : makeTable s t seed k = some rR) : (rR.2).Canonical := by
  unfold makeTable at eR; grind [→ engineObject_keeps, foldl_canonical]

theorem execCirqueTableMake_keeps (t : TileId) (s : State) (hC : s.Canonical) {tR : State} (eR : execCirqueTableMake t s = .next tR) : tR.Canonical := by
  unfold execCirqueTableMake at eR
  obtain rfl := Host.Outcome.next.inj eR
  split
  · exact hC
  · have hW := withEngine_keeps s t.val hC
    split
    · exact missedMessage_keeps _ _ _ _ hW
    · next msg0 s0 h0 =>
      have c0 := takeMessage_keeps _ _ _ _ hW h0
      split
      · exact cirqueBad_keeps _ _ _ c0
      · next msg x s1 h1 =>
        have c1 := loadBarrier_keeps _ _ _ c0 h1
        split
        · exact cirqueBad_keeps _ _ _ c1
        · have c2 := heapTouch_keeps s1 (valOf msg) 16 c1
          dsimp only
          split
          · split
            · exact cirqueBad_keeps _ _ _ c2
            · next r x3 s3 h3 =>
              have c3 := loadBarrier_keeps _ _ _ c2 h3
              split
              · exact cirqueBad_keeps _ _ _ c3
              · split
                · exact cirqueReply_keeps _ _ _ _ c3
                · split
                  · next w s2 h2 => exact cirqueReply_keeps _ _ _ _ (makeTable_keeps _ _ _ _ c3 h2)
                  · exact cirqueReply_keeps _ _ _ _ (engineHeapFull_keeps _ _ c3)
          · exact cirqueBad_keeps _ _ _ c2

theorem writeCrpool_keeps (s : State) (n : Nat) (w : SetupWrite) (hC : s.Canonical) : (writeCrpool s n w).Canonical := by
  grind [writeCrpool, ← setPool_keeps, ← storeSetup_keeps, foldl_canonical]

theorem execCrpoolLoad_keeps (n : Fin 20) (w : SetupWrite) (s : State) (hC : s.Canonical) {tR : State} (eR : execCrpoolLoad n w s = .next tR) : tR.Canonical := by
  unfold execCrpoolLoad at eR; grind [← writeCrpool_keeps, foldl_canonical]

theorem copyTable_keeps (s : State) (t : Nat) (hC : s.Canonical) {rR} (eR : copyTable s t = some rR) : (rR.2).Canonical := by
  unfold copyTable at eR; grind [→ takePage_keeps, ← copyPage_keeps, foldl_canonical]

theorem copyLevel2_keeps (l1 : Nat) (x1 : List Nat) (x2 : State) (hC : x2.Canonical) {rR} (eR : copyLevel2 l1 x1 x2 = some rR) : (rR).Canonical := by
  fun_induction copyLevel2 l1 x1 x2 <;> grind [← putWord_keeps, → copyTable_keeps, foldl_canonical]

theorem advanceCopies_keeps (s : State) (k : Nat) (hC : s.Canonical) {rR} (eR : advanceCopies s k = some rR) : (rR.2).Canonical := by
  unfold advanceCopies at eR
  split at eR
  · cases eR
  · next l1 s1 h1 =>
    rw [Option.map_eq_some_iff] at eR
    obtain ⟨s2, h2, rfl⟩ := eR
    exact copyLevel2_keeps _ _ _ (copyTable_keeps _ _ hC h1) h2

theorem advanceInto_keeps (s0 : State) (k : Nat) (hC : s0.Canonical) : ((advanceInto s0 k).2).Canonical := by
  unfold advanceInto
  split
  · exact hC
  · dsimp only
    split
    · exact hC
    · next l1 s1 h1 =>
      have h2 := advanceCopies_keeps _ _ (drainAll_keeps _ hC) h1
      exact State.setF_keeps _ _ _ _ _ _ (State.setF_keeps _ _ _ _ _ _ (State.setF_keeps _ _ _ _ _ _ (State.setR_keeps _ _ _ _ h2)))

theorem advanceInto_keeps_eq (s0 : State) (k : Nat) (hC : s0.Canonical) {a0 a1} (eR : advanceInto s0 k = (a0, a1)) : a1.Canonical := by
  have := advanceInto_keeps s0 k hC; rw [eR] at this; exact this

theorem setCrestCode_keeps (s : State) (c : Nat) (hC : s.Canonical) : (setCrestCode s c).Canonical := by
  grind [setCrestCode, ← State.setF_keeps, foldl_canonical]

theorem releaseEnd_keeps (s : State) (k : Nat) (hC : s.Canonical) : (releaseEnd s k).Canonical := by
  grind [releaseEnd, ← State.setF_keeps, ← givePage_keeps, foldl_canonical]

theorem releaseStart_keeps (s : State) (k : Nat) (hC : s.Canonical) : (releaseStart s k).Canonical := by
  grind [releaseStart, ← State.setF_keeps, ← invalidate_keeps, ← setCrestCode_keeps, foldl_canonical]

theorem rebaseStart_keeps (s : State) (hC : s.Canonical) : (rebaseStart s).Canonical := by
  grind [rebaseStart, ← State.setF_keeps, ← setCrestCode_keeps, foldl_canonical]

theorem sweepTable_keeps (s : State) (t : Nat) (hC : s.Canonical) : (sweepTable s t).Canonical := by
  grind [sweepTable, ← putWord_keeps, foldl_canonical]

theorem rebaseEnd_keeps (s : State) (hC : s.Canonical) : (rebaseEnd s).Canonical := by
  unfold rebaseEnd
  exact State.setF_keeps _ _ _ _ _ _ (invalidate_keeps _ _ (foldl_canonical sweepTable_keeps _ hC))

theorem execCrestOperationEnd_keeps (s : State) (hC : s.Canonical) {tR : State} (eR : execCrestOperationEnd s = .next tR) : tR.Canonical := by
  unfold execCrestOperationEnd at eR; grind [← State.setF_keeps, ← setCrestCode_keeps, ← releaseEnd_keeps, ← rebaseEnd_keeps, foldl_canonical]

theorem writeCrest_keeps (s : State) (w : SetupWrite) (hC : s.Canonical) : (writeCrest s w).Canonical := by
  grind [writeCrest, ← State.setF_keeps, ← storeSetup_keeps, ← advanceInto_keeps, → advanceInto_keeps_eq, ← setCrestCode_keeps, ← releaseStart_keeps, ← rebaseStart_keeps, foldl_canonical]

theorem execAdvance_keeps (w : SetupWrite) (s : State) (hC : s.Canonical) {tR : State} (eR : execAdvance w s = .next tR) : tR.Canonical := by
  unfold execAdvance at eR; grind [← writeCrest_keeps, foldl_canonical]

theorem execRelease_keeps (w : SetupWrite) (s : State) (hC : s.Canonical) {tR : State} (eR : execRelease w s = .next tR) : tR.Canonical := by
  unfold execRelease at eR; grind [← writeCrest_keeps, foldl_canonical]

theorem execRebase_keeps (w : SetupWrite) (s : State) (hC : s.Canonical) {tR : State} (eR : execRebase w s = .next tR) : tR.Canonical := by
  unfold execRebase at eR; grind [← writeCrest_keeps, foldl_canonical]

theorem writeSnap_keeps (s : State) (k : Nat) (w : SetupWrite) (hC : s.Canonical) : (writeSnap s k w).Canonical := by
  grind [writeSnap, ← storeSetup_keeps, foldl_canonical]

end Sys2Proof.Machine
end

