-- ==== Sys2Proof/Laws/KeepsEngines.lean ====
section
/-! SUPPORT. Memory stays canonical: the troikas, the Event Crossing, Traverse, Crag and the host rings. One lemma per operation. -/

namespace Sys2Proof.Machine

open Sys2Proof

/-! ### Troika -/

theorem copyCore_keeps (s : State) (src dst : CoreId) (hC : s.Canonical) : (copyCore s src dst).Canonical := by
  grind [copyCore, ← State.setCore_keeps, ← State.setR_keeps, ← publish_keeps, foldl_canonical]

theorem countResync_keeps (s : State) (k : TroikaId) (hC : s.Canonical) : (countResync s k).Canonical := by
  grind [countResync, ← State.setR_keeps, foldl_canonical]

theorem execResynchronisation_keeps (k : TroikaId) (s : State) (hC : s.Canonical) {tR : State} (eR : execResynchronisation k s = .next tR) : tR.Canonical := by
  unfold execResynchronisation at eR; grind [← copyCore_keeps, ← countResync_keeps, foldl_canonical]

theorem writeTrkCtl_keeps (s : State) (k : TroikaId) (w : SetupWrite) (hC : s.Canonical) : (writeTrkCtl s k w).Canonical := by
  grind [writeTrkCtl, ← State.setF_keeps, ← beginReset_keeps, ← storeSetup_keeps, foldl_canonical]

theorem execTroikaReset_keeps (k : TroikaId) (w : SetupWrite) (s : State) (hC : s.Canonical) {tR : State} (eR : execTroikaReset k w s = .next tR) : tR.Canonical := by
  unfold execTroikaReset at eR; grind [← writeTrkCtl_keeps, foldl_canonical]

theorem returnPending_keeps (s : State) (c : CoreId) (hC : s.Canonical) : (returnPending s c).Canonical := by
  grind [returnPending, ← State.setR_keeps, foldl_canonical]

theorem resetCore_keeps (voted : Bool) (s : State) (c : CoreId) (hC : s.Canonical) : (resetCore voted s c).Canonical := by
  grind [resetCore, ← State.setCore_keeps, ← State.setF_keeps, ← handOver_keeps, ← drainStores_keeps, ← romOnly_keeps, ← returnPending_keeps, foldl_canonical]

theorem startCore_keeps (s : State) (c : CoreId) (t : Target) (voted : Bool) (hC : s.Canonical) : (startCore s c t voted).Canonical := by
  grind [startCore, ← State.setCore_keeps, foldl_canonical]

theorem settleTroika_keeps (s : State) (k : TroikaId) (st code cause : Nat) (hC : s.Canonical) : (settleTroika s k st code cause).Canonical := by
  grind [settleTroika, ← State.setF_keeps, ← publishUnit_keeps, foldl_canonical]

theorem finishReset_keeps (s : State) (k : TroikaId) (r : Reset) (voter : Verdict) (hC : s.Canonical) : (finishReset s k r voter).Canonical := by
  grind [finishReset, ← State.setF_keeps, ← resetCore_keeps, ← startCore_keeps, ← settleTroika_keeps, foldl_canonical]

theorem execTroikaResetEnd_keeps (k : TroikaId) (voter : Verdict) (s : State) (hC : s.Canonical) {tR : State} (eR : execTroikaResetEnd k voter s = .next tR) : tR.Canonical := by
  unfold execTroikaResetEnd at eR; grind [← pulse_keeps, ← finishReset_keeps, foldl_canonical]

theorem writeTrkDivrec_keeps (s : State) (k : Nat) (w : SetupWrite) (hC : s.Canonical) : (writeTrkDivrec s k w).Canonical := by
  grind [writeTrkDivrec, ← State.setR_keeps, ← storeSetup_keeps, foldl_canonical]

theorem execDebugHalt_keeps (k : TroikaId) (s : State) (hC : s.Canonical) {tR : State} (eR : execDebugHalt k s = .next tR) : tR.Canonical := by
  unfold execDebugHalt at eR; grind [← State.modCore_keeps, ← State.setF_keeps, foldl_canonical]

theorem putDebug_keeps (s : State) (w : Option Word) (hC : s.Canonical) : (putDebug s w).Canonical := by
  grind [putDebug, foldl_canonical]

theorem execDebugRead_keeps (c : CoreId) (r : DebugReg) (s : State) (hC : s.Canonical) {tR : State} (eR : execDebugRead c r s = .next tR) : tR.Canonical := by
  unfold execDebugRead at eR; grind [← putDebug_keeps, foldl_canonical]

theorem execDebugWrite_keeps (c : CoreId) (r : DebugReg) (v : Word) (s : State) (hC : s.Canonical) {tR : State} (eR : execDebugWrite c r v s = .next tR) : tR.Canonical := by
  unfold execDebugWrite at eR; grind [← State.modCore_keeps, foldl_canonical]

theorem execDebugMemoryAccess_keeps (c : CoreId) (pa : Nat) (write : Option Word) (s : State) (hC : s.Canonical) {tR : State} (eR : execDebugMemoryAccess c pa write s = .next tR) : tR.Canonical := by
  unfold execDebugMemoryAccess at eR; grind [← cacheTouch_keeps, ← performWrite_keeps, → performWrite_keeps_eq, ← putDebug_keeps, foldl_canonical]

theorem execDebugResume_keeps (k : TroikaId) (s : State) (hC : s.Canonical) {tR : State} (eR : execDebugResume k s = .next tR) : tR.Canonical := by
  unfold execDebugResume at eR; grind [← State.modCore_keeps, ← State.setF_keeps, ← copyCore_keeps, ← countResync_keeps, foldl_canonical]

/-! ### Evc -/

theorem execSourcePulse_keeps (n : Fin 1024) (s : State) (hC : s.Canonical) {tR : State} (eR : execSourcePulse n s = .next tR) : tR.Canonical := by
  unfold execSourcePulse at eR; grind [← pulse_keeps, foldl_canonical]

theorem writeRaise_keeps (s : State) (w : SetupWrite) (hC : s.Canonical) : (writeRaise s w).Canonical := by
  grind [writeRaise, ← pulse_keeps, foldl_canonical]

theorem execEvcRaise_keeps (w : SetupWrite) (s : State) (hC : s.Canonical) {tR : State} (eR : execEvcRaise w s = .next tR) : tR.Canonical := by
  unfold execEvcRaise at eR; grind [← writeRaise_keeps, foldl_canonical]

theorem deliverTo_keeps (s : State) (g n bits : Nat) (redirected : Bool) (hC : s.Canonical) : (deliverTo s g n bits redirected).Canonical := by
  grind [deliverTo, ← State.modCore_keeps, ← State.setR_keeps, foldl_canonical]

theorem startWake_keeps (s : State) (n : Nat) (hC : s.Canonical) : (startWake s n).Canonical := by
  grind [startWake, foldl_canonical]

theorem deliverGroup_keeps (s : State) (g : Nat) (hC : s.Canonical) : (deliverGroup s g).Canonical := by
  grind [deliverGroup, ← State.setF_keeps, ← deliverTo_keeps, ← startWake_keeps, foldl_canonical]

theorem execBitDelivery_keeps (g : Fin 64) (s : State) (hC : s.Canonical) {tR : State} (eR : execBitDelivery g s = .next tR) : tR.Canonical := by
  unfold execBitDelivery at eR; grind [← deliverGroup_keeps, foldl_canonical]

theorem execHoldoffExpiry_keeps (g : Fin 64) (s : State) (hC : s.Canonical) {tR : State} (eR : execHoldoffExpiry g s = .next tR) : tR.Canonical := by
  unfold execHoldoffExpiry at eR; grind [← State.setF_keeps, ← deliverGroup_keeps, foldl_canonical]

theorem writeGcfg_keeps (s : State) (g : Nat) (w : SetupWrite) (hC : s.Canonical) : (writeGcfg s g w).Canonical := by
  grind [writeGcfg, ← State.setF_keeps, ← storeSetup_keeps, ← deliverGroup_keeps, foldl_canonical]

theorem execGroupConfigWrite_keeps (g : Fin 64) (w : SetupWrite) (s : State) (hC : s.Canonical) {tR : State} (eR : execGroupConfigWrite g w s = .next tR) : tR.Canonical := by
  unfold execGroupConfigWrite at eR; grind [← writeGcfg_keeps, foldl_canonical]

theorem writePend_keeps (s : State) (i : Nat) (w : SetupWrite) (hC : s.Canonical) : (writePend s i w).Canonical := by
  grind [writePend, ← State.modCore_keeps, foldl_canonical]

theorem execPendClear_keeps (i : Fin 16) (w : SetupWrite) (s : State) (hC : s.Canonical) {tR : State} (eR : execPendClear i w s = .next tR) : tR.Canonical := by
  unfold execPendClear at eR; grind [← writePend_keeps, foldl_canonical]

theorem execCoreGating_keeps (c : CoreId) (s : State) (hC : s.Canonical) {tR : State} (eR : execCoreGating c s = .next tR) : tR.Canonical := by
  unfold execCoreGating at eR; grind [← State.setF_keeps, ← setModes_keeps, foldl_canonical]

theorem execCoreWake_keeps (c : CoreId) (s : State) (hC : s.Canonical) {tR : State} (eR : execCoreWake c s = .next tR) : tR.Canonical := by
  unfold execCoreWake at eR; grind [← State.setF_keeps, ← setModes_keeps, ← deliverGroup_keeps, foldl_canonical]

theorem execGatedWaitExpiry_keeps (g : Fin 64) (s : State) (hC : s.Canonical) {tR : State} (eR : execGatedWaitExpiry g s = .next tR) : tR.Canonical := by
  unfold execGatedWaitExpiry at eR; grind [← deliverTo_keeps, ← startWake_keeps, ← deliverGroup_keeps, foldl_canonical]

theorem writeCpwr_keeps (s : State) (c : Nat) (w : SetupWrite) (hC : s.Canonical) : (writeCpwr s c w).Canonical := by
  grind [writeCpwr, ← storeSetup_keeps, foldl_canonical]

/-! ### Traverse -/

theorem setChState_keeps (s : State) (n st : Nat) (hC : s.Canonical) : (setChState s n st).Canonical := by
  grind [setChState, ← State.setF_keeps, foldl_canonical]

theorem State.setChan_keeps (s : State) (n : Nat) (c : Chan) (hC : s.Canonical) : (State.setChan s n c).Canonical := by
  grind [State.setChan, foldl_canonical]

theorem meetRead_keeps (s : State) (cls space va n : Nat) (hC : s.Canonical) : (meetRead s cls space va n).Canonical := by
  grind [meetRead, ← poisonConsumed_keeps, foldl_canonical]

theorem trvWrite_keeps (s : State) (cls space va : Nat) (byteAcc : Bool) (bs : List Byte) (hC : s.Canonical) {rR} (eR : trvWrite s cls space va byteAcc bs = .ok rR) : (rR).Canonical := by
  have iteCanon : ∀ {p : Prop} [Decidable p] (x y : State), x.Canonical → y.Canonical →
      (if p then x else y).Canonical := fun x y hx hy => by split <;> assumption
  unfold trvWrite at eR
  split at eR
  · cases eR; exact hC
  · dsimp only at eR
    split at eR
    · split at eR
      · cases eR
      · split at eR
        · next s1 h1 => cases eR; refine masterWriteSpan_keeps _ _ _ _ _ _ _ ?_ h1; repeat' first | exact hC | apply logSpan_keeps | refine iteCanon _ _ ?_ ?_
        · next s1 h1 => cases eR
    · cases eR
    · cases eR

theorem trvWrite_keeps_err (s : State) (cls space va : Nat) (byteAcc : Bool) (bs : List Byte) (hC : s.Canonical) {rR} (eR : trvWrite s cls space va byteAcc bs = .error rR) : (rR.2).Canonical := by
  have iteCanon : ∀ {p : Prop} [Decidable p] (x y : State), x.Canonical → y.Canonical →
      (if p then x else y).Canonical := fun x y hx hy => by split <;> assumption
  unfold trvWrite at eR
  split at eR
  · cases eR
  · dsimp only at eR
    split at eR
    · split at eR
      · cases eR; exact hC
      · split at eR
        · next s1 h1 => cases eR
        · next s1 h1 => cases eR; refine masterWriteSpan_keeps_err _ _ _ _ _ _ _ ?_ h1; repeat' first | exact hC | apply logSpan_keeps | refine iteCanon _ _ ?_ ?_
    · cases eR; exact hC
    · cases eR; exact hC

theorem trvHeal_keeps (s : State) (w : Word) (hC : s.Canonical) : ((trvHeal s w).2).Canonical := by
  grind [trvHeal, → loadBarrier_keeps, foldl_canonical]

theorem trvHeal_keeps_eq (s : State) (w : Word) (hC : s.Canonical) {a0 a1} (eR : trvHeal s w = (a0, a1)) : a1.Canonical := by
  have := trvHeal_keeps s w hC; rw [eR] at this; exact this

theorem beginAbort_keeps (s : State) (n code addr : Nat) (hC : s.Canonical) : (beginAbort s n code addr).Canonical := by
  grind [beginAbort, ← setChState_keeps, ← State.setChan_keeps, foldl_canonical]

theorem meetStart_keeps (s : State) (cls : Nat) (c : Chan) (hC : s.Canonical) : (meetStart s cls c).Canonical := by
  unfold meetStart; grind [← meetRead_keeps]

theorem startChannel_keeps (s : State) (n : Nat) (hC : s.Canonical) : (startChannel s n).Canonical := by
  unfold startChannel
  dsimp only
  generalize latch s n = c
  cases startFault s (trvCls n) c with
  | some code =>
    dsimp only
    split
    · exact beginAbort_keeps _ _ _ _ (State.setChan_keeps _ _ _ (meetStart_keeps _ _ _ hC))
    · exact beginAbort_keeps _ _ _ _ (State.setChan_keeps _ _ _ hC)
  | none => exact State.setF_keeps _ _ _ _ _ _ (setChState_keeps _ _ _ (State.setChan_keeps _ _ _ hC))

theorem triggerChannel_keeps (s : State) (n : Nat) (hC : s.Canonical) : (triggerChannel s n).Canonical := by
  grind [triggerChannel, ← State.setF_keeps, ← setChState_keeps, ← State.setChan_keeps, ← startChannel_keeps, foldl_canonical]

theorem triggerAll_keeps (s : State) (kind idx : Nat) (hC : s.Canonical) : (triggerAll s kind idx).Canonical := by
  grind [triggerAll, ← triggerChannel_keeps, foldl_canonical]

theorem execTrvTimerTick_keeps (t : Fin 16) (s : State) (hC : s.Canonical) {tR : State} (eR : execTrvTimerTick t s = .next tR) : tR.Canonical := by
  unfold execTrvTimerTick at eR; grind [← triggerAll_keeps, foldl_canonical]

theorem trvGo_keeps (s : State) (n : Nat) (hC : s.Canonical) : ((trvGo s n).2).Canonical := by
  grind [trvGo, ← startChannel_keeps, foldl_canonical]

theorem trvGo_keeps_eq (s : State) (n : Nat) (hC : s.Canonical) {a0 a1} (eR : trvGo s n = (a0, a1)) : a1.Canonical := by
  have := trvGo_keeps s n hC; rw [eR] at this; exact this

theorem bodyTrvgo_keeps (l : Long) (x1 : CoreId) : Keeps (bodyTrvgo l x1 : M Flow) := by
  unfold bodyTrvgo; (repeat' first | with_reducible exact Keeps.pure _ | with_reducible exact Keeps.error _ | with_reducible exact Keeps.read _ | with_reducible assumption | with_reducible apply Keeps.bind | with_reducible apply Keeps.map | with_reducible apply Keeps.mapM | with_reducible apply operandFault_keeps | with_reducible apply drainM_keeps | with_reducible apply bodyU_keeps | intro _ | split | dsimp only) <;> first | grind [→ operandFault_keeps_ok, → drainM_keeps_ok, → bodyU_keeps_ok, ← trvGo_keeps, → trvGo_keeps_eq, foldl_canonical] | (constructor; intro sA vA sB hA eA; grind [→ operandFault_keeps_ok, → drainM_keeps_ok, → bodyU_keeps_ok, ← trvGo_keeps, → trvGo_keeps_eq, foldl_canonical])

theorem execTrvgo_keeps (a : At) (l : Long) (s : State) (hC : s.Canonical) {tR : State} (eR : execTrvgo a l s = .next tR) : tR.Canonical := by
  unfold execTrvgo at eR; cases eR; (first | apply runLong_keeps) <;> (repeat' first | assumption | intro _ | apply bodyTrvgo_keeps)

theorem setClipped_keeps (s : State) (n : Nat) (hC : s.Canonical) : (setClipped s n).Canonical := by
  grind [setClipped, ← State.setF_keeps, foldl_canonical]

theorem sourcePart_keeps (s : State) (n : Nat) (c : Chan) (h : HostBytes) (hC : s.Canonical) {rR} (eR : sourcePart s n c h = .ok rR) : (rR.2.2).Canonical := by
  unfold sourcePart at eR; dsimp only at eR; (repeat' split at eR) <;> grind [← touchPage_keeps, ← touchEdge_keeps, ← trvHeal_keeps, → trvHeal_keeps_eq, ← setClipped_keeps, foldl_canonical]

theorem execBurstRead_keeps (n : Fin 64) (h : HostBytes) (s : State) (hC : s.Canonical) {tR : State} (eR : execBurstRead n h s = .next tR) : tR.Canonical := by
  unfold execBurstRead at eR; grind [← waitFlight_keeps, ← State.setChan_keeps, ← meetRead_keeps, ← beginAbort_keeps, → sourcePart_keeps, foldl_canonical]

theorem elementDone_keeps (s : State) (n : Nat) (hC : s.Canonical) : (elementDone s n).Canonical := by
  grind [elementDone, ← setChState_keeps, ← State.setChan_keeps, foldl_canonical]

theorem writeWords_keeps (s : State) (cls space va : Nat) (x1 : List Word) (hC : s.Canonical) {rR} (eR : writeWords s cls space va x1 = .ok rR) : (rR).Canonical := by
  induction x1 generalizing s va with
  | nil => cases eR; exact hC
  | cons w ws ih =>
    unfold writeWords at eR
    split at eR
    · cases eR
    · split at eR
      · cases eR
      · split at eR
        · cases eR
        · split at eR
          · cases eR
          · split at eR
            · next h1 => cases eR
            · next s1 h1 => exact ih _ _ (trvWrite_keeps _ _ _ _ _ _ (logAtEngine_keeps _ _ hC) h1) eR

theorem writeWords_keeps_err (s : State) (cls space va : Nat) (x1 : List Word) (hC : s.Canonical) {rR} (eR : writeWords s cls space va x1 = .error rR) : (rR.2).Canonical := by
  induction x1 generalizing s va with
  | nil => cases eR
  | cons w ws ih =>
    unfold writeWords at eR
    split at eR
    · cases eR; exact hC
    · split at eR
      · cases eR; exact hC
      · split at eR
        · cases eR; exact hC
        · split at eR
          · cases eR; exact hC
          · split at eR
            · next h1 => cases eR; exact trvWrite_keeps_err _ _ _ _ _ _ (logAtEngine_keeps _ _ hC) h1
            · next s1 h1 => exact ih _ _ (trvWrite_keeps _ _ _ _ _ _ (logAtEngine_keeps _ _ hC) h1) eR

theorem writeStamp_keeps (s : State) (cls : Nat) (c : Chan) (j : Nat) (st : Word × Nat) (hC : s.Canonical) {rR} (eR : writeStamp s cls c j st = .ok rR) : (rR).Canonical := by
  unfold writeStamp at eR; grind [→ writeWords_keeps, foldl_canonical]

theorem writeStamp_keeps_err (s : State) (cls : Nat) (c : Chan) (j : Nat) (st : Word × Nat) (hC : s.Canonical) {rR} (eR : writeStamp s cls c j st = .error rR) : (rR.2).Canonical := by
  unfold writeStamp at eR; grind [← meetRead_keeps, → writeWords_keeps, → writeWords_keeps_err, foldl_canonical]

/-- What a write of a part answers keeps memory canonical. -/

def Wrote.Kept : Wrote → Prop
  | .done t => t.Canonical
  | .waits t => t.Canonical
  | .failed s _ _ => s.Canonical

theorem writePayload_keeps (s : State) (n : Nat) (c : Chan) (obj off : Nat) (fits : Word → Bool) (bs : List Byte) (clip : Bool) (hC : s.Canonical) : (writePayload s n c obj off fits bs clip).Kept := by
  unfold writePayload; grind [Wrote.Kept, ← meetRead_keeps, → trvWrite_keeps, → trvWrite_keeps_err, ← setClipped_keeps, foldl_canonical]

theorem writePart_keeps (s : State) (n : Nat) (c : Chan) (k : Chunk) (bs : List Byte) (hC : s.Canonical) : (writePart s n c k bs).Kept := by
  unfold writePart; grind [Wrote.Kept, ← touchPage_keeps, ← sendHost_keeps, ← appendMailbox_keeps, → appendMailbox_keeps_eq, ← State.setChan_keeps, ← meetRead_keeps, ← trvHeal_keeps, → trvHeal_keeps_eq, → writeWords_keeps, → writeWords_keeps_err, writePayload_keeps, foldl_canonical]

theorem countDrop_keeps (s : State) (p : Nat) (hC : s.Canonical) : (countDrop s p).Canonical := by
  grind [countDrop, ← State.setR_keeps, foldl_canonical]

theorem writeEgress_keeps (s : State) (n : Nat) (c : Chan) (hC : s.Canonical) : (writeEgress s n c).Canonical := by
  grind [writeEgress, ← State.setChan_keeps, ← elementDone_keeps, ← countDrop_keeps, foldl_canonical]

theorem burstWrite_keeps (s : State) (n : Nat) (hC : s.Canonical) : (burstWrite s n).Canonical := by
  unfold burstWrite
  dsimp only
  split
  · exact hC
  · split
    · exact writeEgress_keeps _ _ _ hC
    · next k rest _ _ =>
      have hp := writePart_keeps s n (s.chan n) k (k.bytes.take 256) hC
      split
      · next s1 h1 => rw [h1] at hp; exact hp
      · next h1 =>
        rw [h1] at hp
        split
        · exact hC
        · exact beginAbort_keeps _ _ _ _ hp
      · next s1 h1 =>
        rw [h1] at hp
        split
        · exact State.setChan_keeps _ _ _ hp
        · split
          · exact State.setChan_keeps _ _ _ hp
          · split
            · exact elementDone_keeps _ _ (State.setChan_keeps _ _ _ hp)
            · split
              · next s3 h3 => exact elementDone_keeps _ _ (writeStamp_keeps _ _ _ _ _ (State.setChan_keeps _ _ _ hp) h3)
              · next h3 =>
                split
                · exact hC
                · exact beginAbort_keeps _ _ _ _ (writeStamp_keeps_err _ _ _ _ _ (State.setChan_keeps _ _ _ hp) h3)

theorem execBurstWrite_keeps (n : Fin 64) (s : State) (hC : s.Canonical) {tR : State} (eR : execBurstWrite n s = .next tR) : tR.Canonical := by
  unfold execBurstWrite at eR; grind [← burstWrite_keeps, foldl_canonical]

theorem execIngressFrameReady_keeps (n : Fin 64) (s : State) (hC : s.Canonical) {tR : State} (eR : execIngressFrameReady n s = .next tR) : tR.Canonical := by
  unfold execIngressFrameReady at eR; grind [← State.setChan_keeps, ← setClipped_keeps, foldl_canonical]

theorem sendPoint_keeps (s : State) (n : Nat) (hC : s.Canonical) : (sendPoint s n).Canonical := by
  grind [sendPoint, ← pulse_keeps, ← triggerAll_keeps]

theorem sendPoints_keeps (s : State) (n : Nat) (hC : s.Canonical) : (sendPoints s n).Canonical := by
  unfold sendPoints
  dsimp only
  split
  · exact hC
  · exact foldl_canonical (fun x _ hx => sendPoint_keeps x n hx) _ (State.setChan_keeps _ _ _ hC)

theorem execCompletionPoint_keeps (n : Fin 64) (s : State) (hC : s.Canonical) {tR : State} (eR : execCompletionPoint n s = .next tR) : tR.Canonical := by
  unfold execCompletionPoint at eR; grind [← setChState_keeps, ← State.setChan_keeps, ← sendPoint_keeps]

theorem writeTrvCtl_keeps (s : State) (n : Nat) (w : SetupWrite) (hC : s.Canonical) : (writeTrvCtl s n w).Canonical := by
  grind [writeTrvCtl, ← storeSetup_keeps, ← setChState_keeps, ← beginAbort_keeps, foldl_canonical]

theorem execTrvAbort_keeps (n : Fin 64) (w : SetupWrite) (s : State) (hC : s.Canonical) {tR : State} (eR : execTrvAbort n w s = .next tR) : tR.Canonical := by
  unfold execTrvAbort at eR; grind [← writeTrvCtl_keeps, foldl_canonical]

theorem execChannelDisable_keeps (n : Fin 64) (w : SetupWrite) (s : State) (hC : s.Canonical) {tR : State} (eR : execChannelDisable n w s = .next tR) : tR.Canonical := by
  unfold execChannelDisable at eR; grind [← writeTrvCtl_keeps, foldl_canonical]

theorem execAbortDrainEnd_keeps (n : Fin 64) (s : State) (hC : s.Canonical) {tR : State} (eR : execAbortDrainEnd n s = .next tR) : tR.Canonical := by
  unfold execAbortDrainEnd at eR
  obtain rfl := Host.Outcome.next.inj eR
  dsimp only
  split
  · exact hC
  · have hP := sendPoints_keeps s n.val hC
    refine pulse_keeps _ _ (setChState_keeps _ _ _ (State.setChan_keeps _ _ _ (State.setR_keeps _ _ _ _ (State.setF_keeps _ _ _ _ _ _ (State.setF_keeps _ _ _ _ _ _ (State.setF_keeps _ _ _ _ _ _ ?_))))))
    split
    · split
      · next h => exact writeWords_keeps _ _ _ _ _ hP h
      · next h => exact State.setF_keeps _ _ _ _ _ _ (writeWords_keeps_err _ _ _ _ _ hP h)
    · exact hP

theorem retryChannel_keeps (s : State) (n : Nat) (hC : s.Canonical) : (retryChannel s n).Canonical := by
  grind [retryChannel, ← burstWrite_keeps, foldl_canonical]

theorem expireChannel_keeps (s : State) (n : Nat) (hC : s.Canonical) : (expireChannel s n).Canonical := by
  grind [expireChannel, ← beginAbort_keeps, foldl_canonical]

/-! ### Images -/

theorem fresh_keeps (s : State) (hC : s.Canonical) : ((fresh s).2).Canonical := by
  grind [fresh, foldl_canonical]

theorem fresh_keeps_eq (s : State) (hC : s.Canonical) {a0 a1} (eR : fresh s = (a0, a1)) : a1.Canonical := by
  have := fresh_keeps s hC; rw [eR] at this; exact this

theorem signWith_keeps (s : State) (slot alg : Nat) (msg : List Byte) (hC : s.Canonical) : ((signWith s slot alg msg).2).Canonical := by
  grind [signWith, ← fresh_keeps, → fresh_keeps_eq, foldl_canonical]

theorem signWith_keeps_eq (s : State) (slot alg : Nat) (msg : List Byte) (hC : s.Canonical) {a0 a1} (eR : signWith s slot alg msg = (a0, a1)) : a1.Canonical := by
  have := signWith_keeps s slot alg msg hC; rw [eR] at this; exact this

theorem programFlash_keeps (s : State) (x1 : Nat) (x2 : List Byte) (hC : s.Canonical) : (programFlash s x1 x2).Canonical := by
  fun_induction programFlash s x1 x2 <;> grind [foldl_canonical]

/-! ### Crag -/

theorem failM_keeps {α : Type} (code : Nat) : Keeps (failM code : CragM α) := by
  unfold failM; (repeat' first | with_reducible exact Keeps.pure _ | with_reducible exact Keeps.error _)

theorem failM_keeps_ok {α : Type} (code : Nat) {sA vA sB} (hA : State.Canonical sA) (eA : (failM code : CragM α) sA = .ok (vA, sB)) : State.Canonical sB :=
  (failM_keeps code).canonical sA vA sB hA eA

theorem getM_keeps : Keeps (getM : CragM State) := by
  unfold getM; (repeat' first | with_reducible exact Keeps.pure _ | with_reducible exact Keeps.error _ | with_reducible exact Keeps.read _)

theorem getM_keeps_ok {sA vA sB} (hA : State.Canonical sA) (eA : (getM : CragM State) sA = .ok (vA, sB)) : State.Canonical sB :=
  (getM_keeps ).canonical sA vA sB hA eA

theorem modM_keeps (f : State → State) (h_f : ∀ y0, y0.Canonical → (f y0).Canonical) : Keeps (modM f : CragM Unit) := by
  unfold modM; (repeat' first | with_reducible exact Keeps.pure _ | with_reducible exact Keeps.error _ | with_reducible exact Keeps.read _ | with_reducible assumption | with_reducible apply Keeps.bind | with_reducible apply Keeps.map | with_reducible apply Keeps.mapM | with_reducible apply h_f | intro _ | split | dsimp only) <;> first | grind [foldl_canonical] | (constructor; intro sA vA sB hA eA; grind [foldl_canonical])

theorem modM_keeps_ok (f : State → State) (h_f : ∀ y0, y0.Canonical → (f y0).Canonical) {sA vA sB} (hA : State.Canonical sA) (eA : (modM f : CragM Unit) sA = .ok (vA, sB)) : State.Canonical sB :=
  (modM_keeps f h_f).canonical sA vA sB hA eA

theorem need_keeps (ok : Bool) (code : Nat) : Keeps (need ok code : CragM Unit) := by
  unfold need; (repeat' first | with_reducible exact Keeps.pure _ | with_reducible exact Keeps.error _ | with_reducible exact Keeps.read _ | with_reducible assumption | with_reducible apply Keeps.bind | with_reducible apply Keeps.map | with_reducible apply Keeps.mapM | with_reducible apply failM_keeps | intro _ | split)

theorem need_keeps_ok (ok : Bool) (code : Nat) {sA vA sB} (hA : State.Canonical sA) (eA : (need ok code : CragM Unit) sA = .ok (vA, sB)) : State.Canonical sB :=
  (need_keeps ok code).canonical sA vA sB hA eA

theorem readFailM_keeps {α : Type} (cls va n : Nat) : Keeps (readFailM cls va n : CragM α) := by
  unfold readFailM; (repeat' first | with_reducible exact Keeps.pure _ | with_reducible exact Keeps.error _ | with_reducible exact Keeps.read _ | with_reducible assumption | with_reducible apply Keeps.bind | with_reducible apply Keeps.map | with_reducible apply Keeps.mapM | intro _ | split | dsimp only) <;> first | grind [foldl_canonical] | (constructor; intro sA vA sB hA eA; grind [foldl_canonical])

theorem readFailM_keeps_ok {α : Type} (cls va n : Nat) {sA vA sB} (hA : State.Canonical sA) (eA : (readFailM cls va n : CragM α) sA = .ok (vA, sB)) : State.Canonical sB :=
  (readFailM_keeps cls va n).canonical sA vA sB hA eA

theorem wordM_keeps (va : Nat) (cls : Nat) : Keeps (wordM va cls : CragM Word) := by
  unfold wordM; (repeat' first | with_reducible exact Keeps.pure _ | with_reducible exact Keeps.error _ | with_reducible exact Keeps.read _ | with_reducible assumption | with_reducible apply Keeps.bind | with_reducible apply Keeps.map | with_reducible apply Keeps.mapM | with_reducible apply readFailM_keeps | intro _ | split | dsimp only) <;> first | grind [← touchEdge_keeps, ← trvHeal_keeps, → trvHeal_keeps_eq, → readFailM_keeps_ok, foldl_canonical] | (constructor; intro sA vA sB hA eA; grind [← touchEdge_keeps, ← trvHeal_keeps, → trvHeal_keeps_eq, → readFailM_keeps_ok, foldl_canonical])

theorem slotM_keeps (vec i : Nat) (cls : Nat) : Keeps (slotM vec i cls : CragM Word) := by
  unfold slotM; (repeat' first | with_reducible exact Keeps.pure _ | with_reducible exact Keeps.error _ | with_reducible exact Keeps.read _ | with_reducible assumption | with_reducible apply Keeps.bind | with_reducible apply Keeps.map | with_reducible apply Keeps.mapM | with_reducible apply wordM_keeps)

theorem param_keeps (vec i : Nat) (cls : Nat) : Keeps (param vec i cls : CragM Word) := by
  unfold param; (repeat' first | with_reducible exact Keeps.pure _ | with_reducible exact Keeps.error _ | with_reducible exact Keeps.read _ | with_reducible assumption | with_reducible apply Keeps.bind | with_reducible apply Keeps.map | with_reducible apply Keeps.mapM | with_reducible apply slotM_keeps)

theorem param_keeps_ok (vec i : Nat) (cls : Nat) {sA vA sB} (hA : State.Canonical sA) (eA : (param vec i cls : CragM Word) sA = .ok (vA, sB)) : State.Canonical sB :=
  (param_keeps vec i cls).canonical sA vA sB hA eA

theorem unused_keeps (vec i : Nat) : Keeps (unused vec i : CragM Unit) := by
  unfold unused; (repeat' first | with_reducible exact Keeps.pure _ | with_reducible exact Keeps.error _ | with_reducible exact Keeps.read _ | with_reducible assumption | with_reducible apply Keeps.bind | with_reducible apply Keeps.map | with_reducible apply Keeps.mapM | with_reducible apply need_keeps | with_reducible apply param_keeps | intro _)

theorem unused_keeps_ok (vec i : Nat) {sA vA sB} (hA : State.Canonical sA) (eA : (unused vec i : CragM Unit) sA = .ok (vA, sB)) : State.Canonical sB :=
  (unused_keeps vec i).canonical sA vA sB hA eA

theorem fixParam_keeps (vec i bound : Nat) : Keeps (fixParam vec i bound : CragM Nat) := by
  unfold fixParam; (repeat' first | with_reducible exact Keeps.pure _ | with_reducible exact Keeps.error _ | with_reducible exact Keeps.read _ | with_reducible assumption | with_reducible apply Keeps.bind | with_reducible apply Keeps.map | with_reducible apply Keeps.mapM | with_reducible apply need_keeps | with_reducible apply param_keeps | intro _)

theorem fixParam_keeps_ok (vec i bound : Nat) {sA vA sB} (hA : State.Canonical sA) (eA : (fixParam vec i bound : CragM Nat) sA = .ok (vA, sB)) : State.Canonical sB :=
  (fixParam_keeps vec i bound).canonical sA vA sB hA eA

theorem bytesParam_keeps (vec i : Nat) : Keeps (bytesParam vec i : CragM Word) := by
  unfold bytesParam; (repeat' first | with_reducible exact Keeps.pure _ | with_reducible exact Keeps.error _ | with_reducible exact Keeps.read _ | with_reducible assumption | with_reducible apply Keeps.bind | with_reducible apply Keeps.map | with_reducible apply Keeps.mapM | with_reducible apply need_keeps | with_reducible apply param_keeps | intro _)

theorem bytesParam_keeps_ok (vec i : Nat) {sA vA sB} (hA : State.Canonical sA) (eA : (bytesParam vec i : CragM Word) sA = .ok (vA, sB)) : State.Canonical sB :=
  (bytesParam_keeps vec i).canonical sA vA sB hA eA

theorem spanParam_keeps (vec i : Nat) : Keeps (spanParam vec i : CragM (Nat × Nat)) := by
  unfold spanParam; (repeat' first | with_reducible exact Keeps.pure _ | with_reducible exact Keeps.error _ | with_reducible exact Keeps.read _ | with_reducible assumption | with_reducible apply Keeps.bind | with_reducible apply Keeps.map | with_reducible apply Keeps.mapM | with_reducible apply need_keeps | with_reducible apply param_keeps | intro _)

theorem spanParam_keeps_ok (vec i : Nat) {sA vA sB} (hA : State.Canonical sA) (eA : (spanParam vec i : CragM (Nat × Nat)) sA = .ok (vA, sB)) : State.Canonical sB :=
  (spanParam_keeps vec i).canonical sA vA sB hA eA

theorem headerM_keeps (w : Word) (cls : Nat) : Keeps (headerM w cls : CragM Word) := by
  unfold headerM; (repeat' first | with_reducible exact Keeps.pure _ | with_reducible exact Keeps.error _ | with_reducible exact Keeps.read _ | with_reducible assumption | with_reducible apply Keeps.bind | with_reducible apply Keeps.map | with_reducible apply Keeps.mapM | with_reducible apply readFailM_keeps | intro _ | split | dsimp only) <;> first | grind [← touchEdge_keeps, → readFailM_keeps_ok, foldl_canonical] | (constructor; intro sA vA sB hA eA; grind [← touchEdge_keeps, → readFailM_keeps_ok, foldl_canonical])

theorem bytesAtM_keeps (va n : Nat) (cls : Nat) : Keeps (bytesAtM va n cls : CragM (List Byte)) := by
  unfold bytesAtM; (repeat' first | with_reducible exact Keeps.pure _ | with_reducible exact Keeps.error _ | with_reducible exact Keeps.read _ | with_reducible assumption | with_reducible apply Keeps.bind | with_reducible apply Keeps.map | with_reducible apply Keeps.mapM | with_reducible apply readFailM_keeps | intro _ | split | dsimp only) <;> first | grind [← touchEdge_keeps, → readFailM_keeps_ok, foldl_canonical] | (constructor; intro sA vA sB hA eA; grind [← touchEdge_keeps, → readFailM_keeps_ok, foldl_canonical])

theorem readSpan_keeps (w : Word) (off len : Nat) : Keeps (readSpan w off len : CragM (List Byte)) := by
  unfold readSpan; (repeat' first | with_reducible exact Keeps.pure _ | with_reducible exact Keeps.error _ | with_reducible exact Keeps.read _ | with_reducible assumption | with_reducible apply Keeps.bind | with_reducible apply Keeps.map | with_reducible apply Keeps.mapM | with_reducible apply need_keeps | with_reducible apply headerM_keeps | with_reducible apply bytesAtM_keeps | intro _)

theorem readSpan_keeps_ok (w : Word) (off len : Nat) {sA vA sB} (hA : State.Canonical sA) (eA : (readSpan w off len : CragM (List Byte)) sA = .ok (vA, sB)) : State.Canonical sB :=
  (readSpan_keeps w off len).canonical sA vA sB hA eA

theorem outputAt_keeps (w : Word) (off len : Nat) : Keeps (outputAt w off len : CragM Nat) := by
  unfold outputAt; (repeat' first | with_reducible exact Keeps.pure _ | with_reducible exact Keeps.error _ | with_reducible exact Keeps.read _ | with_reducible assumption | with_reducible apply Keeps.bind | with_reducible apply Keeps.map | with_reducible apply Keeps.mapM | with_reducible apply need_keeps | with_reducible apply headerM_keeps | intro _)

theorem outputAt_keeps_ok (w : Word) (off len : Nat) {sA vA sB} (hA : State.Canonical sA) (eA : (outputAt w off len : CragM Nat) sA = .ok (vA, sB)) : State.Canonical sB :=
  (outputAt_keeps w off len).canonical sA vA sB hA eA

theorem writeBytesAt_keeps (s : State) (cls va : Nat) (bs : List Byte) (hC : s.Canonical) {rR} (eR : writeBytesAt s cls va bs = .ok rR) : (rR).Canonical := by
  unfold writeBytesAt at eR
  dsimp only at eR
  refine masterWriteSpan_keeps _ _ _ _ _ _ _ ?_ eR
  have hl : ∀ (x : State) (a k : Nat), x.Canonical → (match mapEdge x cls (heapSpace x) a with
      | some pa => if k != 0 && accessible x pa then logSpan x pa k else x
      | none => x).Canonical := by
    intro x a k h
    split
    · split
      · exact logSpan_keeps _ _ _ h
      · exact h
    · exact h
  exact hl _ _ _ (hl _ _ _ hC)

theorem writeBytesAt_keeps_err (s : State) (cls va : Nat) (bs : List Byte) (hC : s.Canonical) {rR} (eR : writeBytesAt s cls va bs = .error rR) : (rR).Canonical := by
  unfold writeBytesAt at eR
  dsimp only at eR
  refine masterWriteSpan_keeps_err _ _ _ _ _ _ _ ?_ eR
  have hl : ∀ (x : State) (a k : Nat), x.Canonical → (match mapEdge x cls (heapSpace x) a with
      | some pa => if k != 0 && accessible x pa then logSpan x pa k else x
      | none => x).Canonical := by
    intro x a k h
    split
    · split
      · exact logSpan_keeps _ _ _ h
      · exact h
    · exact h
  exact hl _ _ _ (hl _ _ _ hC)

theorem writeOut_keeps (va : Nat) (bs : List Byte) (cls : Nat) : Keeps (writeOut va bs cls : CragM Unit) := by
  unfold writeOut; (repeat' first | with_reducible exact Keeps.pure _ | with_reducible exact Keeps.error _ | with_reducible exact Keeps.read _ | with_reducible assumption | with_reducible apply Keeps.bind | with_reducible apply Keeps.map | with_reducible apply Keeps.mapM | intro _ | split | dsimp only) <;> first | grind [→ writeBytesAt_keeps, → writeBytesAt_keeps_err, foldl_canonical] | (constructor; intro sA vA sB hA eA; grind [→ writeBytesAt_keeps, → writeBytesAt_keeps_err, foldl_canonical])

theorem writeOut_keeps_ok (va : Nat) (bs : List Byte) (cls : Nat) {sA vA sB} (hA : State.Canonical sA) (eA : (writeOut va bs cls : CragM Unit) sA = .ok (vA, sB)) : State.Canonical sB :=
  (writeOut_keeps va bs cls).canonical sA vA sB hA eA

theorem cragBytes_keeps (tile cls flags : Nat) (pre : List Word) (payload : List Byte) : Keeps (cragBytes tile cls flags pre payload : CragM Nat) := by
  unfold cragBytes; (repeat' first | with_reducible exact Keeps.pure _ | with_reducible exact Keeps.error _ | with_reducible exact Keeps.read _ | with_reducible assumption | with_reducible apply Keeps.bind | with_reducible apply Keeps.map | with_reducible apply Keeps.mapM | intro _ | split | dsimp only) <;> first | grind [→ engineObject_keeps, foldl_canonical] | (constructor; intro sA vA sB hA eA; grind [→ engineObject_keeps, foldl_canonical])

theorem cragBytes_keeps_ok (tile cls flags : Nat) (pre : List Word) (payload : List Byte) {sA vA sB} (hA : State.Canonical sA) (eA : (cragBytes tile cls flags pre payload : CragM Nat) sA = .ok (vA, sB)) : State.Canonical sB :=
  (cragBytes_keeps tile cls flags pre payload).canonical sA vA sB hA eA

theorem customerKey_keeps (slot : Nat) (types : List Nat) (use : Nat) : Keeps (customerKey slot types use : CragM Key) := by
  unfold customerKey; (repeat' first | with_reducible exact Keeps.pure _ | with_reducible exact Keeps.error _ | with_reducible exact Keeps.read _ | with_reducible assumption | with_reducible apply Keeps.bind | with_reducible apply Keeps.map | with_reducible apply Keeps.mapM | with_reducible apply failM_keeps | intro _ | split | dsimp only) <;> first | grind [→ failM_keeps_ok, foldl_canonical] | (constructor; intro sA vA sB hA eA; grind [→ failM_keeps_ok, foldl_canonical])

theorem customerKey_keeps_ok (slot : Nat) (types : List Nat) (use : Nat) {sA vA sB} (hA : State.Canonical sA) (eA : (customerKey slot types use : CragM Key) sA = .ok (vA, sB)) : State.Canonical sB :=
  (customerKey_keeps slot types use).canonical sA vA sB hA eA

theorem slotParam_keeps (vec i : Nat) : Keeps (slotParam vec i : CragM Nat) := by
  unfold slotParam; (repeat' first | with_reducible exact Keeps.pure _ | with_reducible exact Keeps.error _ | with_reducible exact Keeps.read _ | with_reducible assumption | with_reducible apply Keeps.bind | with_reducible apply Keeps.map | with_reducible apply Keeps.mapM | with_reducible apply fixParam_keeps)

theorem slotParam_keeps_ok (vec i : Nat) {sA vA sB} (hA : State.Canonical sA) (eA : (slotParam vec i : CragM Nat) sA = .ok (vA, sB)) : State.Canonical sB :=
  (slotParam_keeps vec i).canonical sA vA sB hA eA

theorem emptySlot_keeps (slot : Nat) : Keeps (emptySlot slot : CragM Unit) := by
  unfold emptySlot; (repeat' first | with_reducible exact Keeps.pure _ | with_reducible exact Keeps.error _ | with_reducible exact Keeps.read _ | with_reducible assumption | with_reducible apply Keeps.bind | with_reducible apply Keeps.map | with_reducible apply Keeps.mapM | with_reducible apply failM_keeps | intro _ | split | dsimp only) <;> first | grind [→ failM_keeps_ok, foldl_canonical] | (constructor; intro sA vA sB hA eA; grind [→ failM_keeps_ok, foldl_canonical])

theorem putKey_keeps (slot : Nat) (k : Key) : Keeps (putKey slot k : CragM Unit) := by
  unfold putKey; (repeat' first | with_reducible exact Keeps.pure _ | with_reducible exact Keeps.error _ | with_reducible exact Keeps.read _ | with_reducible assumption | with_reducible apply Keeps.bind | with_reducible apply Keeps.map | with_reducible apply Keeps.mapM | with_reducible apply modM_keeps | intro _)

theorem freshM_keeps : Keeps (freshM : CragM Nat) := by
  unfold freshM; (repeat' first | with_reducible exact Keeps.pure _ | with_reducible exact Keeps.error _ | with_reducible exact Keeps.read _ | with_reducible assumption | with_reducible apply Keeps.bind | with_reducible apply Keeps.map | with_reducible apply Keeps.mapM | intro _ | split | dsimp only) <;> first | grind [← fresh_keeps, → fresh_keeps_eq, foldl_canonical] | (constructor; intro sA vA sB hA eA; grind [← fresh_keeps, → fresh_keeps_eq, foldl_canonical])

theorem entropyM_keeps : Keeps (entropyM : CragM Unit) := by
  unfold entropyM; (repeat' first | with_reducible exact Keeps.pure _ | with_reducible exact Keeps.error _ | with_reducible exact Keeps.read _ | with_reducible assumption | with_reducible apply Keeps.bind | with_reducible apply Keeps.map | with_reducible apply Keeps.mapM | with_reducible apply getM_keeps | with_reducible apply need_keeps | intro _)

theorem linkSignature_keeps (obj sigObj : Nat) : Keeps (linkSignature obj sigObj : CragM Unit) := by
  unfold linkSignature; (repeat' first | with_reducible exact Keeps.pure _ | with_reducible exact Keeps.error _ | with_reducible exact Keeps.read _ | with_reducible assumption | with_reducible apply Keeps.bind | with_reducible apply Keeps.map | with_reducible apply Keeps.mapM | intro _ | split | dsimp only) <;> first | grind [→ masterWrite_keeps, → masterWrite_keeps_err, foldl_canonical] | (constructor; intro sA vA sB hA eA; grind [→ masterWrite_keeps, → masterWrite_keeps_err, foldl_canonical])

theorem linkSignature_keeps_ok (obj sigObj : Nat) {sA vA sB} (hA : State.Canonical sA) (eA : (linkSignature obj sigObj : CragM Unit) sA = .ok (vA, sB)) : State.Canonical sB :=
  (linkSignature_keeps obj sigObj).canonical sA vA sB hA eA

theorem makeSealed_keeps (tile slot alg cls : Nat) (payload : List Byte) (msg : Option (List Byte)) : Keeps (makeSealed tile slot alg cls payload msg : CragM Word) := by
  unfold makeSealed; (repeat' first | with_reducible exact Keeps.pure _ | with_reducible exact Keeps.error _ | with_reducible exact Keeps.read _ | with_reducible assumption | with_reducible apply Keeps.bind | with_reducible apply Keeps.map | with_reducible apply Keeps.mapM | with_reducible apply getM_keeps | with_reducible apply cragBytes_keeps | with_reducible apply linkSignature_keeps | intro _ | split | dsimp only) <;> first | grind [← signWith_keeps, → signWith_keeps_eq, → getM_keeps_ok, → cragBytes_keeps_ok, → linkSignature_keeps_ok, foldl_canonical] | (constructor; intro sA vA sB hA eA; grind [← signWith_keeps, → signWith_keeps_eq, → getM_keeps_ok, → cragBytes_keeps_ok, → linkSignature_keeps_ok, foldl_canonical])

theorem signerOk_keeps (slot alg : Nat) (use : Nat) : Keeps (signerOk slot alg use : CragM Unit) := by
  unfold signerOk; (repeat' first | with_reducible exact Keeps.pure _ | with_reducible exact Keeps.error _ | with_reducible exact Keeps.read _ | with_reducible assumption | with_reducible apply Keeps.bind | with_reducible apply Keeps.map | with_reducible apply Keeps.mapM | with_reducible apply need_keeps | with_reducible apply customerKey_keeps | intro _ | split)

theorem checkSealed_keeps (w : Word) : Keeps (checkSealed w : CragM Bool) := by
  unfold checkSealed; (repeat' first | with_reducible exact Keeps.pure _ | with_reducible exact Keeps.error _ | with_reducible exact Keeps.read _ | with_reducible assumption | with_reducible apply Keeps.bind | with_reducible apply Keeps.map | with_reducible apply Keeps.mapM | with_reducible apply getM_keeps | with_reducible apply need_keeps | with_reducible apply wordM_keeps | with_reducible apply headerM_keeps | with_reducible apply bytesAtM_keeps | with_reducible apply signerOk_keeps | intro _ | split | dsimp only)

theorem setCounter_keeps (s : State) (i v : Nat) (hC : s.Canonical) : (setCounter s i v).Canonical := by
  grind [setCounter, foldl_canonical]

theorem raiseCounter_keeps (i v : Nat) : Keeps (raiseCounter i v : CragM Unit) := by
  unfold raiseCounter; (repeat' first | with_reducible exact Keeps.pure _ | with_reducible exact Keeps.error _ | with_reducible exact Keeps.read _ | with_reducible assumption | with_reducible apply Keeps.bind | with_reducible apply Keeps.map | with_reducible apply Keeps.mapM | with_reducible apply failM_keeps | intro _ | split | dsimp only) <;> first | grind [→ failM_keeps_ok, ← setCounter_keeps, foldl_canonical] | (constructor; intro sA vA sB hA eA; grind [→ failM_keeps_ok, ← setCounter_keeps, foldl_canonical])

theorem raiseCounter_keeps_ok (i v : Nat) {sA vA sB} (hA : State.Canonical sA) (eA : (raiseCounter i v : CragM Unit) sA = .ok (vA, sB)) : State.Canonical sB :=
  (raiseCounter_keeps i v).canonical sA vA sB hA eA

theorem cmdRandom_keeps (v vec : Nat) : Keeps (cmdRandom v vec : CragM Word) := by
  unfold cmdRandom; (repeat' first | with_reducible exact Keeps.pure _ | with_reducible exact Keeps.error _ | with_reducible exact Keeps.read _ | with_reducible assumption | with_reducible apply Keeps.bind | with_reducible apply Keeps.map | with_reducible apply Keeps.mapM | with_reducible apply need_keeps | with_reducible apply param_keeps | with_reducible apply unused_keeps | with_reducible apply spanParam_keeps | with_reducible apply outputAt_keeps | with_reducible apply writeOut_keeps | with_reducible apply freshM_keeps | with_reducible apply entropyM_keeps | intro _)

theorem cmdHash_keeps (v vec : Nat) : Keeps (cmdHash v vec : CragM Word) := by
  unfold cmdHash; (repeat' first | with_reducible exact Keeps.pure _ | with_reducible exact Keeps.error _ | with_reducible exact Keeps.read _ | with_reducible assumption | with_reducible apply Keeps.bind | with_reducible apply Keeps.map | with_reducible apply Keeps.mapM | with_reducible apply need_keeps | with_reducible apply param_keeps | with_reducible apply unused_keeps | with_reducible apply fixParam_keeps | with_reducible apply spanParam_keeps | with_reducible apply readSpan_keeps | with_reducible apply outputAt_keeps | with_reducible apply writeOut_keeps | intro _)

theorem gcmInputs_keeps (v vec : Nat) : Keeps (gcmInputs v vec : CragM (Key × List Byte × List Byte × List Byte × Nat)) := by
  unfold gcmInputs; (repeat' first | with_reducible exact Keeps.pure _ | with_reducible exact Keeps.error _ | with_reducible exact Keeps.read _ | with_reducible assumption | with_reducible apply Keeps.bind | with_reducible apply Keeps.map | with_reducible apply Keeps.mapM | with_reducible apply need_keeps | with_reducible apply param_keeps | with_reducible apply spanParam_keeps | with_reducible apply readSpan_keeps | with_reducible apply customerKey_keeps | with_reducible apply slotParam_keeps | intro _)

theorem cmdGcmSeal_keeps (v vec : Nat) : Keeps (cmdGcmSeal v vec : CragM Word) := by
  unfold cmdGcmSeal; (repeat' first | with_reducible exact Keeps.pure _ | with_reducible exact Keeps.error _ | with_reducible exact Keeps.read _ | with_reducible assumption | with_reducible apply Keeps.bind | with_reducible apply Keeps.map | with_reducible apply Keeps.mapM | with_reducible apply param_keeps | with_reducible apply fixParam_keeps | with_reducible apply outputAt_keeps | with_reducible apply writeOut_keeps | with_reducible apply gcmInputs_keeps | intro _)

theorem cmdGcmOpen_keeps (v vec : Nat) : Keeps (cmdGcmOpen v vec : CragM Word) := by
  unfold cmdGcmOpen; (repeat' first | with_reducible exact Keeps.pure _ | with_reducible exact Keeps.error _ | with_reducible exact Keeps.read _ | with_reducible assumption | with_reducible apply Keeps.bind | with_reducible apply Keeps.map | with_reducible apply Keeps.mapM | with_reducible apply need_keeps | with_reducible apply param_keeps | with_reducible apply outputAt_keeps | with_reducible apply writeOut_keeps | with_reducible apply gcmInputs_keeps | intro _ | split)

theorem cmdSign_keeps (v vec : Nat) : Keeps (cmdSign v vec : CragM Word) := by
  unfold cmdSign; (repeat' first | with_reducible exact Keeps.pure _ | with_reducible exact Keeps.error _ | with_reducible exact Keeps.read _ | with_reducible assumption | with_reducible apply Keeps.bind | with_reducible apply Keeps.map | with_reducible apply Keeps.mapM | with_reducible apply need_keeps | with_reducible apply param_keeps | with_reducible apply unused_keeps | with_reducible apply fixParam_keeps | with_reducible apply spanParam_keeps | with_reducible apply readSpan_keeps | with_reducible apply outputAt_keeps | with_reducible apply writeOut_keeps | with_reducible apply customerKey_keeps | with_reducible apply slotParam_keeps | intro _ | split | dsimp only) <;> first | grind [← signWith_keeps, → signWith_keeps_eq, → need_keeps_ok, → param_keeps_ok, → unused_keeps_ok, → fixParam_keeps_ok, → spanParam_keeps_ok, → readSpan_keeps_ok, → outputAt_keeps_ok, → writeOut_keeps_ok, → customerKey_keeps_ok, → slotParam_keeps_ok, foldl_canonical] | (constructor; intro sA vA sB hA eA; grind [← signWith_keeps, → signWith_keeps_eq, → need_keeps_ok, → param_keeps_ok, → unused_keeps_ok, → fixParam_keeps_ok, → spanParam_keeps_ok, → readSpan_keeps_ok, → outputAt_keeps_ok, → writeOut_keeps_ok, → customerKey_keeps_ok, → slotParam_keeps_ok, foldl_canonical])

theorem cmdVerify_keeps (v vec : Nat) : Keeps (cmdVerify v vec : CragM Word) := by
  unfold cmdVerify; (repeat' first | with_reducible apply bytesParam_keeps | with_reducible exact Keeps.pure _ | with_reducible exact Keeps.error _ | with_reducible exact Keeps.read _ | with_reducible assumption | with_reducible apply Keeps.bind | with_reducible apply Keeps.map | with_reducible apply Keeps.mapM | with_reducible apply getM_keeps | with_reducible apply need_keeps | with_reducible apply param_keeps | with_reducible apply unused_keeps | with_reducible apply spanParam_keeps | with_reducible apply readSpan_keeps | with_reducible apply slotParam_keeps | with_reducible apply signerOk_keeps | intro _)

theorem cmdSeal_keeps (v vec : Nat) : Keeps (cmdSeal v vec : CragM Word) := by
  unfold cmdSeal; (repeat' first | with_reducible apply bytesParam_keeps | with_reducible exact Keeps.pure _ | with_reducible exact Keeps.error _ | with_reducible exact Keeps.read _ | with_reducible assumption | with_reducible apply Keeps.bind | with_reducible apply Keeps.map | with_reducible apply Keeps.mapM | with_reducible apply getM_keeps | with_reducible apply need_keeps | with_reducible apply param_keeps | with_reducible apply unused_keeps | with_reducible apply fixParam_keeps | with_reducible apply spanParam_keeps | with_reducible apply readSpan_keeps | with_reducible apply slotParam_keeps | with_reducible apply makeSealed_keeps | with_reducible apply signerOk_keeps | intro _)

theorem cmdSealCheck_keeps (v vec : Nat) : Keeps (cmdSealCheck v vec : CragM Word) := by
  unfold cmdSealCheck; (repeat' first | with_reducible exact Keeps.pure _ | with_reducible exact Keeps.error _ | with_reducible exact Keeps.read _ | with_reducible assumption | with_reducible apply Keeps.bind | with_reducible apply Keeps.map | with_reducible apply Keeps.mapM | with_reducible apply need_keeps | with_reducible apply param_keeps | with_reducible apply unused_keeps | with_reducible apply checkSealed_keeps | intro _)

theorem cmdKeygen_keeps (v vec : Nat) : Keeps (cmdKeygen v vec : CragM Word) := by
  unfold cmdKeygen; (repeat' first | with_reducible exact Keeps.pure _ | with_reducible exact Keeps.error _ | with_reducible exact Keeps.read _ | with_reducible assumption | with_reducible apply Keeps.bind | with_reducible apply Keeps.map | with_reducible apply Keeps.mapM | with_reducible apply need_keeps | with_reducible apply param_keeps | with_reducible apply unused_keeps | with_reducible apply fixParam_keeps | with_reducible apply outputAt_keeps | with_reducible apply writeOut_keeps | with_reducible apply slotParam_keeps | with_reducible apply emptySlot_keeps | with_reducible apply putKey_keeps | with_reducible apply freshM_keeps | with_reducible apply entropyM_keeps | intro _ | split)

theorem cmdKeyimport_keeps (v vec : Nat) : Keeps (cmdKeyimport v vec : CragM Word) := by
  unfold cmdKeyimport; (repeat' first | with_reducible exact Keeps.pure _ | with_reducible exact Keeps.error _ | with_reducible exact Keeps.read _ | with_reducible assumption | with_reducible apply Keeps.bind | with_reducible apply Keeps.map | with_reducible apply Keeps.mapM | with_reducible apply need_keeps | with_reducible apply param_keeps | with_reducible apply unused_keeps | with_reducible apply fixParam_keeps | with_reducible apply spanParam_keeps | with_reducible apply readSpan_keeps | with_reducible apply slotParam_keeps | with_reducible apply emptySlot_keeps | with_reducible apply putKey_keeps | with_reducible apply freshM_keeps | intro _)

theorem cmdKeydelete_keeps (v vec : Nat) : Keeps (cmdKeydelete v vec : CragM Word) := by
  unfold cmdKeydelete; (repeat' first | with_reducible exact Keeps.pure _ | with_reducible exact Keeps.error _ | with_reducible exact Keeps.read _ | with_reducible assumption | with_reducible apply Keeps.bind | with_reducible apply Keeps.map | with_reducible apply Keeps.mapM | with_reducible apply getM_keeps | with_reducible apply modM_keeps | with_reducible apply need_keeps | with_reducible apply unused_keeps | with_reducible apply slotParam_keeps | intro _)

theorem cmdCtrRead_keeps (v vec : Nat) : Keeps (cmdCtrRead v vec : CragM Word) := by
  unfold cmdCtrRead; (repeat' first | with_reducible exact Keeps.pure _ | with_reducible exact Keeps.error _ | with_reducible exact Keeps.read _ | with_reducible assumption | with_reducible apply Keeps.bind | with_reducible apply Keeps.map | with_reducible apply Keeps.mapM | with_reducible apply getM_keeps | with_reducible apply need_keeps | with_reducible apply unused_keeps | with_reducible apply fixParam_keeps | intro _)

theorem cmdCtrInc_keeps (v vec : Nat) : Keeps (cmdCtrInc v vec : CragM Word) := by
  unfold cmdCtrInc; (repeat' first | with_reducible exact Keeps.pure _ | with_reducible exact Keeps.error _ | with_reducible exact Keeps.read _ | with_reducible assumption | with_reducible apply Keeps.bind | with_reducible apply Keeps.map | with_reducible apply Keeps.mapM | with_reducible apply getM_keeps | with_reducible apply modM_keeps | with_reducible apply need_keeps | with_reducible apply unused_keeps | with_reducible apply fixParam_keeps | intro _ | split | dsimp only) <;> first | grind [→ getM_keeps_ok, → modM_keeps_ok, → need_keeps_ok, → unused_keeps_ok, → fixParam_keeps_ok, ← setCounter_keeps, foldl_canonical] | (constructor; intro sA vA sB hA eA; grind [→ getM_keeps_ok, → modM_keeps_ok, → need_keeps_ok, → unused_keeps_ok, → fixParam_keeps_ok, ← setCounter_keeps, foldl_canonical])

theorem cmdAttest_keeps (v vec : Nat) : Keeps (cmdAttest v vec : CragM Word) := by
  unfold cmdAttest; (repeat' first | with_reducible apply bytesParam_keeps | with_reducible exact Keeps.pure _ | with_reducible exact Keeps.error _ | with_reducible exact Keeps.read _ | with_reducible assumption | with_reducible apply Keeps.bind | with_reducible apply Keeps.map | with_reducible apply Keeps.mapM | with_reducible apply getM_keeps | with_reducible apply need_keeps | with_reducible apply param_keeps | with_reducible apply unused_keeps | with_reducible apply spanParam_keeps | with_reducible apply readSpan_keeps | with_reducible apply makeSealed_keeps | intro _)

theorem loadable_keeps (tile : Nat) (img : List Byte) (raise : Bool) : Keeps (loadable tile img raise : CragM Word) := by
  unfold loadable; (repeat' first | with_reducible exact Keeps.pure _ | with_reducible exact Keeps.error _ | with_reducible exact Keeps.read _ | with_reducible assumption | with_reducible apply Keeps.bind | with_reducible apply Keeps.map | with_reducible apply Keeps.mapM | with_reducible apply failM_keeps | with_reducible apply getM_keeps | with_reducible apply makeSealed_keeps | with_reducible apply raiseCounter_keeps | intro _ | split)

theorem loadable_keeps_ok (tile : Nat) (img : List Byte) (raise : Bool) {sA vA sB} (hA : State.Canonical sA) (eA : (loadable tile img raise : CragM Word) sA = .ok (vA, sB)) : State.Canonical sB :=
  (loadable_keeps tile img raise).canonical sA vA sB hA eA

theorem cmdImgVerify_keeps (v vec : Nat) : Keeps (cmdImgVerify v vec : CragM Word) := by
  unfold cmdImgVerify; (repeat' first | with_reducible apply bytesParam_keeps | with_reducible exact Keeps.pure _ | with_reducible exact Keeps.error _ | with_reducible exact Keeps.read _ | with_reducible assumption | with_reducible apply Keeps.bind | with_reducible apply Keeps.map | with_reducible apply Keeps.mapM | with_reducible apply failM_keeps | with_reducible apply getM_keeps | with_reducible apply need_keeps | with_reducible apply param_keeps | with_reducible apply unused_keeps | with_reducible apply spanParam_keeps | with_reducible apply readSpan_keeps | with_reducible apply raiseCounter_keeps | with_reducible apply loadable_keeps | intro _ | split)

theorem cmdTpolRaise_keeps (v vec : Nat) : Keeps (cmdTpolRaise v vec : CragM Word) := by
  unfold cmdTpolRaise; (repeat' first | with_reducible exact Keeps.pure _ | with_reducible exact Keeps.error _ | with_reducible exact Keeps.read _ | with_reducible assumption | with_reducible apply Keeps.bind | with_reducible apply Keeps.map | with_reducible apply Keeps.mapM | with_reducible apply getM_keeps | with_reducible apply modM_keeps | with_reducible apply need_keeps | with_reducible apply unused_keeps | with_reducible apply fixParam_keeps | intro _ | split | dsimp only) <;> first | grind [← State.setF_keeps, → getM_keeps_ok, → modM_keeps_ok, → need_keeps_ok, → unused_keeps_ok, → fixParam_keeps_ok, foldl_canonical] | (constructor; intro sA vA sB hA eA; grind [← State.setF_keeps, → getM_keeps_ok, → modM_keeps_ok, → need_keeps_ok, → unused_keeps_ok, → fixParam_keeps_ok, foldl_canonical])

theorem tokenM_keeps (vec : Nat) : Keeps (tokenM vec : CragM (List Byte)) := by
  unfold tokenM; (repeat' first | with_reducible apply bytesParam_keeps | with_reducible exact Keeps.pure _ | with_reducible exact Keeps.error _ | with_reducible exact Keeps.read _ | with_reducible assumption | with_reducible apply Keeps.bind | with_reducible apply Keeps.map | with_reducible apply Keeps.mapM | with_reducible apply need_keeps | with_reducible apply param_keeps | with_reducible apply unused_keeps | with_reducible apply headerM_keeps | with_reducible apply bytesAtM_keeps | intro _)

theorem tokenM_keeps_ok (vec : Nat) {sA vA sB} (hA : State.Canonical sA) (eA : (tokenM vec : CragM (List Byte)) sA = .ok (vA, sB)) : State.Canonical sB :=
  (tokenM_keeps vec).canonical sA vA sB hA eA

theorem cmdDebugUnlock_keeps (v vec : Nat) : Keeps (cmdDebugUnlock v vec : CragM Word) := by
  unfold cmdDebugUnlock; (repeat' first | with_reducible exact Keeps.pure _ | with_reducible exact Keeps.error _ | with_reducible exact Keeps.read _ | with_reducible assumption | with_reducible apply Keeps.bind | with_reducible apply Keeps.map | with_reducible apply Keeps.mapM | with_reducible apply getM_keeps | with_reducible apply modM_keeps | with_reducible apply need_keeps | with_reducible apply raiseCounter_keeps | with_reducible apply tokenM_keeps | intro _ | split | dsimp only) <;> first | grind [← State.setF_keeps, ← loseKeys_keeps, → getM_keeps_ok, → modM_keeps_ok, → need_keeps_ok, → raiseCounter_keeps_ok, → tokenM_keeps_ok, foldl_canonical] | (constructor; intro sA vA sB hA eA; grind [← State.setF_keeps, ← loseKeys_keeps, → getM_keeps_ok, → modM_keeps_ok, → need_keeps_ok, → raiseCounter_keeps_ok, → tokenM_keeps_ok, foldl_canonical])

theorem cmdOwner_keeps (v vec : Nat) : Keeps (cmdOwner v vec : CragM Word) := by
  unfold cmdOwner; (repeat' first | with_reducible exact Keeps.pure _ | with_reducible exact Keeps.error _ | with_reducible exact Keeps.read _ | with_reducible assumption | with_reducible apply Keeps.bind | with_reducible apply Keeps.map | with_reducible apply Keeps.mapM | with_reducible apply getM_keeps | with_reducible apply modM_keeps | with_reducible apply need_keeps | with_reducible apply tokenM_keeps | intro _)

theorem putVector_keeps (s : State) (cls vec i : Nat) (w : Word) (hC : s.Canonical) : (putVector s cls vec i w).Canonical := by
  unfold putVector
  dsimp only
  split
  · next s1 h => exact masterWrite_keeps _ _ _ _ _ _ (logAtEngine_keeps _ _ hC) h
  · next s1 h => exact masterWrite_keeps_err _ _ _ _ _ _ (logAtEngine_keeps _ _ hC) h

theorem answerVector_keeps (s : State) (cls vec : Nat) (result : Option Word) (status : Nat) (hC : s.Canonical) : (answerVector s cls vec result status).Canonical := by
  unfold answerVector; (repeat' split) <;> grind [← appendMailbox_keeps, → appendMailbox_keeps_eq, ← trvHeal_keeps, → trvHeal_keeps_eq, ← putVector_keeps, foldl_canonical]

theorem badMessage_keeps (s : State) (hC : s.Canonical) : (badMessage s).Canonical := by
  grind [badMessage, ← State.setR_keeps, ← pulse_keeps, foldl_canonical]

theorem leave_keeps (s : State) (x1 : Residue) (hC : s.Canonical) : (leave s x1).Canonical := by
  unfold leave; (repeat' split) <;> grind [← poisonConsumed_keeps, → writeBytesAt_keeps, → writeBytesAt_keeps_err, foldl_canonical]

theorem finishCrag_keeps (s : State) (vec : Nat) (checks : Bool) (r : Except (Nat × Residue) (Word × State)) (h_r : ∀ rR, r = .ok rR → (rR.2).Canonical) (hC : s.Canonical) : (finishCrag s vec checks r).Canonical := by
  unfold finishCrag
  dsimp only
  split
  · next w s1 => exact answerVector_keeps _ _ _ _ _ (State.setR_keeps _ _ _ _ (h_r _ rfl))
  · apply answerVector_keeps
    apply State.setR_keeps
    split
    · exact engineHeapFull_keeps _ _ hC
    · exact leave_keeps _ _ hC

theorem cragRow_keeps (op : Nat) (cmd : Nat → Nat → CragM Word) (s : State) (h_cmd : ∀ y0 y1, Keeps (cmd y0 y1)) (hC : s.Canonical) : (cragRow op cmd s).Canonical := by
  unfold cragRow
  split
  · exact hC
  · split
    · exact missedMessage_keeps _ _ _ _ hC
    · next msg0 s0 h0 =>
      have c0 := trvHeal_keeps s0 msg0 (takeMessage_keeps _ _ _ _ hC h0)
      generalize trvHeal s0 msg0 = p at c0
      obtain ⟨msg, s1⟩ := p
      dsimp only at c0 ⊢
      have he : ∀ code, ∀ rR, (Except.error code : Except (Nat × Residue) (Word × State)) = .ok rR → rR.2.Canonical := fun _ _ e => nomatch e
      split
      · exact badMessage_keeps _ c0
      · split
        · exact finishCrag_keeps _ _ _ _ (fun rR e => (readFailM_keeps _ _ _).canonical _ _ _ c0 e) c0
        · split
          · exact finishCrag_keeps _ _ _ _ (he _) c0
          · split
            · exact hC
            · exact finishCrag_keeps _ _ _ _ (fun rR e => (h_cmd _ _).canonical _ _ _ c0 e) c0

theorem execRandom_keeps (s : State) (hC : s.Canonical) {tR : State} (eR : execRandom s = .next tR) : tR.Canonical := by
  unfold execRandom at eR; cases eR; (first | apply cragRow_keeps) <;> (repeat' first | assumption | intro _ | apply cmdRandom_keeps)

theorem execHash_keeps (s : State) (hC : s.Canonical) {tR : State} (eR : execHash s = .next tR) : tR.Canonical := by
  unfold execHash at eR; cases eR; (first | apply cragRow_keeps) <;> (repeat' first | assumption | intro _ | apply cmdHash_keeps)

theorem execGcmSeal_keeps (s : State) (hC : s.Canonical) {tR : State} (eR : execGcmSeal s = .next tR) : tR.Canonical := by
  unfold execGcmSeal at eR; cases eR; (first | apply cragRow_keeps) <;> (repeat' first | assumption | intro _ | apply cmdGcmSeal_keeps)

theorem execGcmOpen_keeps (s : State) (hC : s.Canonical) {tR : State} (eR : execGcmOpen s = .next tR) : tR.Canonical := by
  unfold execGcmOpen at eR; cases eR; (first | apply cragRow_keeps) <;> (repeat' first | assumption | intro _ | apply cmdGcmOpen_keeps)

theorem execSign_keeps (s : State) (hC : s.Canonical) {tR : State} (eR : execSign s = .next tR) : tR.Canonical := by
  unfold execSign at eR; cases eR; (first | apply cragRow_keeps) <;> (repeat' first | assumption | intro _ | apply cmdSign_keeps)

theorem execVerify_keeps (s : State) (hC : s.Canonical) {tR : State} (eR : execVerify s = .next tR) : tR.Canonical := by
  unfold execVerify at eR; cases eR; (first | apply cragRow_keeps) <;> (repeat' first | assumption | intro _ | apply cmdVerify_keeps)

theorem execSeal_keeps (s : State) (hC : s.Canonical) {tR : State} (eR : execSeal s = .next tR) : tR.Canonical := by
  unfold execSeal at eR; cases eR; (first | apply cragRow_keeps) <;> (repeat' first | assumption | intro _ | apply cmdSeal_keeps)

theorem execSealCheck_keeps (s : State) (hC : s.Canonical) {tR : State} (eR : execSealCheck s = .next tR) : tR.Canonical := by
  unfold execSealCheck at eR; cases eR; (first | apply cragRow_keeps) <;> (repeat' first | assumption | intro _ | apply cmdSealCheck_keeps)

theorem execKeygen_keeps (s : State) (hC : s.Canonical) {tR : State} (eR : execKeygen s = .next tR) : tR.Canonical := by
  unfold execKeygen at eR; cases eR; (first | apply cragRow_keeps) <;> (repeat' first | assumption | intro _ | apply cmdKeygen_keeps)

theorem execKeyimport_keeps (s : State) (hC : s.Canonical) {tR : State} (eR : execKeyimport s = .next tR) : tR.Canonical := by
  unfold execKeyimport at eR; cases eR; (first | apply cragRow_keeps) <;> (repeat' first | assumption | intro _ | apply cmdKeyimport_keeps)

theorem execKeydelete_keeps (s : State) (hC : s.Canonical) {tR : State} (eR : execKeydelete s = .next tR) : tR.Canonical := by
  unfold execKeydelete at eR; cases eR; (first | apply cragRow_keeps) <;> (repeat' first | assumption | intro _ | apply cmdKeydelete_keeps)

theorem execCtrRead_keeps (s : State) (hC : s.Canonical) {tR : State} (eR : execCtrRead s = .next tR) : tR.Canonical := by
  unfold execCtrRead at eR; cases eR; (first | apply cragRow_keeps) <;> (repeat' first | assumption | intro _ | apply cmdCtrRead_keeps)

theorem execCtrInc_keeps (s : State) (hC : s.Canonical) {tR : State} (eR : execCtrInc s = .next tR) : tR.Canonical := by
  unfold execCtrInc at eR; cases eR; (first | apply cragRow_keeps) <;> (repeat' first | assumption | intro _ | apply cmdCtrInc_keeps)

theorem execCragAttest_keeps (s : State) (hC : s.Canonical) {tR : State} (eR : execCragAttest s = .next tR) : tR.Canonical := by
  unfold execCragAttest at eR; cases eR; (first | apply cragRow_keeps) <;> (repeat' first | assumption | intro _ | apply cmdAttest_keeps)

theorem execImgVerify_keeps (s : State) (hC : s.Canonical) {tR : State} (eR : execImgVerify s = .next tR) : tR.Canonical := by
  unfold execImgVerify at eR; cases eR; (first | apply cragRow_keeps) <;> (repeat' first | assumption | intro _ | apply cmdImgVerify_keeps)

theorem execTpolRaise_keeps (s : State) (hC : s.Canonical) {tR : State} (eR : execTpolRaise s = .next tR) : tR.Canonical := by
  unfold execTpolRaise at eR; cases eR; (first | apply cragRow_keeps) <;> (repeat' first | assumption | intro _ | apply cmdTpolRaise_keeps)

theorem execDebugUnlock_keeps (s : State) (hC : s.Canonical) {tR : State} (eR : execDebugUnlock s = .next tR) : tR.Canonical := by
  unfold execDebugUnlock at eR; cases eR; (first | apply cragRow_keeps) <;> (repeat' first | assumption | intro _ | apply cmdDebugUnlock_keeps)

theorem execOwner_keeps (s : State) (hC : s.Canonical) {tR : State} (eR : execOwner s = .next tR) : tR.Canonical := by
  unfold execOwner at eR; cases eR; (first | apply cragRow_keeps) <;> (repeat' first | assumption | intro _ | apply cmdOwner_keeps)

theorem execTrngHealthFail_keeps (s : State) (hC : s.Canonical) {tR : State} (eR : execTrngHealthFail s = .next tR) : tR.Canonical := by
  unfold execTrngHealthFail at eR; grind [← State.setF_keeps, ← pulse_keeps, foldl_canonical]

theorem execTrngRestart_keeps (s : State) (hC : s.Canonical) {tR : State} (eR : execTrngRestart s = .next tR) : tR.Canonical := by
  unfold execTrngRestart at eR; grind [← State.setF_keeps, foldl_canonical]

/-! ### HostRings -/

theorem State.setRing_keeps (s : State) (r : Nat) (x : Ring) (hC : s.Canonical) : (State.setRing s r x).Canonical := by
  grind [State.setRing, foldl_canonical]

theorem State.setCq_keeps (s : State) (c : Nat) (x : CqRing) (hC : s.Canonical) : (State.setCq s c x).Canonical := by
  grind [State.setCq, foldl_canonical]

theorem sendMsix_keeps (s : State) (c : Nat) (hC : s.Canonical) : (sendMsix s c).Canonical := by
  grind [sendMsix, ← sendHost_keeps, foldl_canonical]

theorem deliverInterrupt_keeps (s : State) (c : Nat) (hC : s.Canonical) : (deliverInterrupt s c).Canonical := by
  grind [deliverInterrupt, ← sendMsix_keeps, foldl_canonical]

theorem interruptDue_keeps (s : State) (c : Nat) (hC : s.Canonical) : (interruptDue s c).Canonical := by
  grind [interruptDue, ← State.setCq_keeps, ← deliverInterrupt_keeps, foldl_canonical]

theorem writeEntry_keeps (s : State) (e : HostEntry) (hC : s.Canonical) : (writeEntry s e).Canonical := by
  grind [writeEntry, ← sendHost_keeps, ← State.setCq_keeps, ← interruptDue_keeps, foldl_canonical]

theorem flushEntries_keeps (s : State) (hC : s.Canonical) : (flushEntries s).Canonical := by
  have key : ∀ (l : List HostEntry) (x : List HostEntry × State), x.2.Canonical →
      (l.foldl (fun (x : List HostEntry × State) e =>
        if x.1.any (fun y => y.cq == e.cq) || !cqRoom x.2 e.cq then (x.1 ++ [e], x.2) else (x.1, writeEntry x.2 e)) x).2.Canonical := by
    intro l
    induction l with
    | nil => exact fun x h => h
    | cons a l ih =>
      intro x h
      refine ih _ ?_
      dsimp only
      split
      · exact h
      · exact writeEntry_keeps _ _ h
  unfold flushEntries
  split
  · exact hC
  · exact key _ ([], s) hC

theorem postEntry_keeps (s : State) (e : HostEntry) (hC : s.Canonical) : (postEntry s e).Canonical := by
  grind [postEntry, ← flushEntries_keeps, foldl_canonical]

theorem ringError_keeps (s : State) (r cause : Nat) (d : Option Word) (hC : s.Canonical) : (ringError s r cause d).Canonical := by
  unfold ringError
  split
  · exact hC
  · dsimp only
    have h2 := pulse_keeps (((s.setF .hreSqstat r 63 62 2).setF .hreSqstat r 55 48 cause).setRing r
      { ((s.setF .hreSqstat r 63 62 2).setF .hreSqstat r 55 48 cause).ring r with fetched := [], posting := none }) (64 + r)
      (State.setRing_keeps _ _ _ (State.setF_keeps _ _ _ _ _ _ (State.setF_keeps _ _ _ _ _ _ hC)))
    have h3 := takeFree_keeps _ h2
    split
    · exact State.setRing_keeps _ _ _ (State.setF_keeps _ _ _ _ _ _ (postEntry_keeps _ _ h3))
    · exact postEntry_keeps _ _ h3

theorem completeFront_keeps (s : State) (r status detail : Nat) (r0 r1 : Word) (hC : s.Canonical) : (completeFront s r status detail r0 r1).Canonical := by
  grind [completeFront, ← State.setF_keeps, ← State.setRing_keeps, ← postEntry_keeps, foldl_canonical]

theorem settleRing_keeps (x1 : Nat) (x2 : State) (x3 : Nat) (hC : x2.Canonical) : (settleRing x1 x2 x3).Canonical := by
  fun_induction settleRing x1 x2 x3 <;> grind [← ringError_keeps, ← completeFront_keeps, foldl_canonical]

theorem settleAll_keeps (s : State) (hC : s.Canonical) : (settleAll s).Canonical := by
  grind [settleAll, ← settleRing_keeps, foldl_canonical]

theorem proceed_keeps (s : State) (hC : s.Canonical) : (proceed s).Canonical := by
  grind [proceed, ← flushEntries_keeps, ← settleAll_keeps, foldl_canonical]

theorem takeHead_keeps (s : State) (c : Nat) (rec : Word) (hC : s.Canonical) : (takeHead s c rec).Canonical := by
  unfold takeHead
  split
  · exact hC
  · split
    · exact foldl_canonical (fun x r h => ringError_keeps x r 4 none h) _ hC
    · dsimp only
      split
      · exact foldl_canonical (fun x r h => ringError_keeps x r 5 none h) _ hC
      · exact State.setCq_keeps _ _ _ hC

theorem takeTail_keeps (s : State) (r : Nat) (rec : Word) (hC : s.Canonical) : ((takeTail s r rec).1).Canonical := by
  have key : ∀ p : State × Bool, takeTail s r rec = p → p.1.Canonical := by
    intro p e
    unfold takeTail at e
    split at e
    · rw [← e]; exact canonical_fst hC _
    · split at e
      · rw [← e]; exact canonical_fst (ringError_keeps s r 4 none hC) _
      · dsimp only at e
        split at e
        · rw [← e]; exact canonical_fst (ringError_keeps s r 3 none hC) _
        · rw [← e]; exact canonical_fst (State.setRing_keeps _ _ _ hC) _
  exact key _ rfl

theorem setInterval_keeps (s : State) (n : Nat) (hC : s.Canonical) : (setInterval s n).Canonical := by
  grind [setInterval, foldl_canonical]

theorem execDoorbellPoll_keeps (h : HostBytes) (s : State) (hC : s.Canonical) {tR : State} (eR : execDoorbellPoll h s = .next tR) : tR.Canonical := by
  unfold execDoorbellPoll at eR
  obtain rfl := Host.Outcome.next.inj eR
  split
  · exact hC
  · split
    · exact foldl_canonical (fun x r h => ringError_keeps x r _ none h) _ hC
    · next bs _ =>
      have key : ∀ (l : List Nat) (x : State × Bool), x.1.Canonical → (l.foldl (fun (x : State × Bool) r =>
          let (y, b) := takeTail x.1 r (wordOfBytes ((bs.drop (8 * r)).take 8))
          (y, x.2 || b)) x).1.Canonical := by
        intro l
        induction l with
        | nil => exact fun x h => h
        | cons a l ih =>
          intro x h
          rw [List.foldl_cons]
          refine ih _ ?_
          have h1 := takeTail_keeps x.1 a (wordOfBytes ((bs.drop (8 * a)).take 8)) h
          generalize takeTail x.1 a (wordOfBytes ((bs.drop (8 * a)).take 8)) = p at h1 ⊢
          obtain ⟨y, b⟩ := p
          exact h1
      have h1 := foldl_canonical (f := fun x c => takeHead x c (wordOfBytes ((bs.drop (8 * (64 + c))).take 8)))
        (fun x c h => takeHead_keeps _ _ _ h) (List.range 64) hC
      have h2 := key (List.range 64) (_, false) (canonical_fst h1 false)
      dsimp only
      generalize List.foldl (fun (x : State × Bool) r => _) _ _ = p at h2 ⊢
      obtain ⟨s2, found⟩ := p
      exact proceed_keeps _ (setInterval_keeps _ _ h2)

theorem execCqHeadPoll_keeps (c : Fin 64) (h : HostBytes) (s : State) (hC : s.Canonical) {tR : State} (eR : execCqHeadPoll c h s = .next tR) : tR.Canonical := by
  unfold execCqHeadPoll at eR; grind [← ringError_keeps, ← proceed_keeps, ← takeHead_keeps, foldl_canonical]

theorem execDescriptorFetch_keeps (r : Fin 64) (d : HostBytes) (exts : List HostBytes) (s : State) (hC : s.Canonical) {tR : State} (eR : execDescriptorFetch r d exts s = .next tR) : tR.Canonical := by
  unfold execDescriptorFetch at eR; grind [← State.setRing_keeps, ← proceed_keeps, foldl_canonical]

theorem finish_keeps (s : State) (r status detail : Nat) (r0 r1 : Word) (hC : s.Canonical) : (finish s r status detail r0 r1).Canonical := by
  grind [finish, ← completeFront_keeps, ← proceed_keeps, foldl_canonical]

theorem ringMiss_keeps (s : State) (va n : Nat) (hC : s.Canonical) : (ringMiss s va n).Canonical := by
  grind [ringMiss, ← meetRead_keeps, foldl_canonical]

theorem tableSlot_keeps (s : State) (i slot : Nat) (hC : s.Canonical) {rR} (eR : tableSlot s i slot = .ok rR) : (rR.2).Canonical := by
  unfold tableSlot at eR; grind [← touchEdge_keeps, ← trvHeal_keeps, → trvHeal_keeps_eq, foldl_canonical]

theorem tableSlot_keeps_err (s : State) (i slot : Nat) (hC : s.Canonical) {rR} (eR : tableSlot s i slot = .error rR) : (rR.2).Canonical := by
  unfold tableSlot at eR; grind [← touchEdge_keeps, ← trvHeal_keeps, → trvHeal_keeps_eq, ← ringMiss_keeps, foldl_canonical]

theorem appendMessage_keeps (s : State) (r e : Nat) (mbox : Nat) (msg : Word) (hC : s.Canonical) : (appendMessage s r e mbox msg).Canonical := by
  grind [appendMessage, ← appendMailbox_keeps, → appendMailbox_keeps_eq, ← State.setRing_keeps, ← finish_keeps, foldl_canonical]

theorem postMessage_keeps (s : State) (r : Nat) (f : Fetched) (data : List Byte) (hC : s.Canonical) : (postMessage s r f data).Canonical := by
  grind [postMessage, → engineObject_keeps, → mailboxAt_keeps_err, ← engineHeapFull_keeps, ← finish_keeps, → tableSlot_keeps, → tableSlot_keeps_err, ← appendMessage_keeps, foldl_canonical]

theorem execInvoke_keeps (r : Fin 64) (s : State) (hC : s.Canonical) {tR : State} (eR : execInvoke r s = .next tR) : tR.Canonical := by
  unfold execInvoke at eR; grind [← postMessage_keeps, foldl_canonical]

theorem execImport_keeps (r : Fin 64) (h : HostBytes) (s : State) (hC : s.Canonical) {tR : State} (eR : execImport r h s = .next tR) : tR.Canonical := by
  unfold execImport at eR; grind [← ringError_keeps, ← postMessage_keeps, foldl_canonical]

theorem retryRing_keeps (s : State) (r : Nat) (hC : s.Canonical) : (retryRing s r).Canonical := by
  grind [retryRing, ← finish_keeps, → tableSlot_keeps, → tableSlot_keeps_err, ← appendMessage_keeps, foldl_canonical]

theorem expireRing_keeps (s : State) (r : Nat) (hC : s.Canonical) : (expireRing s r).Canonical := by
  grind [expireRing, ← finish_keeps, foldl_canonical]

theorem scatter_keeps (s : State) (x1 : List (Nat × Nat)) (x2 : List Byte) (hC : s.Canonical) : (scatter s x1 x2).Canonical := by
  fun_induction scatter s x1 x2 <;> grind [← sendHost_keeps, foldl_canonical]

theorem execExport_keeps (r : Fin 64) (s : State) (hC : s.Canonical) {tR : State} (eR : execExport r s = .next tR) : tR.Canonical := by
  unfold execExport at eR
  obtain rfl := Host.Outcome.next.inj eR
  split
  · exact hC
  · dsimp only
    split
    · exact hC
    · split
      · next h1 => exact finish_keeps _ _ _ _ _ _ (tableSlot_keeps_err _ _ _ hC h1)
      · next w s1 h1 =>
        have c1 := tableSlot_keeps _ _ _ hC h1
        repeat' split
        all_goals first
          | exact finish_keeps _ _ _ _ _ _ c1
          | exact finish_keeps _ _ _ _ _ _ (ringMiss_keeps _ _ _ c1)
          | exact finish_keeps _ _ _ _ _ _ (scatter_keeps _ _ _ (touchEdge_keeps _ _ _ _ _ c1))

theorem execQuery_keeps (r : Fin 64) (s : State) (hC : s.Canonical) {tR : State} (eR : execQuery r s = .next tR) : tR.Canonical := by
  unfold execQuery at eR
  obtain rfl := Host.Outcome.next.inj eR
  split
  · exact hC
  · dsimp only
    split
    · next h1 => exact finish_keeps _ _ _ _ _ _ (tableSlot_keeps_err _ _ _ hC h1)
    · next w s1 h1 =>
      have c1 := tableSlot_keeps _ _ _ hC h1
      repeat' split
      all_goals first
        | exact finish_keeps _ _ _ _ _ _ c1
        | exact finish_keeps _ _ _ _ _ _ (ringMiss_keeps _ _ _ (touchEdge_keeps _ _ _ _ _ c1))
        | exact finish_keeps _ _ _ _ _ _ (touchEdge_keeps _ _ _ _ _ c1)

theorem execSnapshot_keeps (r : Fin 64) (s : State) (hC : s.Canonical) {tR : State} (eR : execSnapshot r s = .next tR) : tR.Canonical := by
  unfold execSnapshot at eR; grind [← writeCrest_keeps, ← finish_keeps, foldl_canonical]

theorem execHostAttest_keeps (r : Fin 64) (s : State) (hC : s.Canonical) {tR : State} (eR : execHostAttest r s = .next tR) : tR.Canonical := by
  unfold execHostAttest at eR; grind [← sendHost_keeps, ← signWith_keeps, → signWith_keeps_eq, ← finish_keeps, foldl_canonical]

theorem installImage_keeps (s : State) (kind : Nat) (img : List Byte) (hC : s.Canonical) : (installImage s kind img).Canonical := by
  grind [installImage, ← State.setF_keeps, ← programFlash_keeps, foldl_canonical]

theorem performPatch_keeps (s : State) (kind tile : Nat) (img : List Byte) (hC : s.Canonical) {rR} (eR : performPatch s kind tile img = .ok rR) : (rR.2).Canonical := by
  unfold performPatch at eR; grind [→ loadable_keeps_ok, ← installImage_keeps, foldl_canonical]

theorem execPatch_keeps (r : Fin 64) (h : HostBytes) (s : State) (hC : s.Canonical) {tR : State} (eR : execPatch r h s = .next tR) : tR.Canonical := by
  unfold execPatch at eR; grind [← engineHeapFull_keeps, ← ringError_keeps, ← finish_keeps, → performPatch_keeps, foldl_canonical]

theorem execControlNop_keeps (r : Fin 64) (s : State) (hC : s.Canonical) {tR : State} (eR : execControlNop r s = .next tR) : tR.Canonical := by
  unfold execControlNop at eR; grind [← finish_keeps, foldl_canonical]

theorem execControlTime_keeps (r : Fin 64) (s : State) (hC : s.Canonical) {tR : State} (eR : execControlTime r s = .next tR) : tR.Canonical := by
  unfold execControlTime at eR; grind [← finish_keeps, foldl_canonical]

theorem execControlDrain_keeps (r : Fin 64) (s : State) (hC : s.Canonical) {tR : State} (eR : execControlDrain r s = .next tR) : tR.Canonical := by
  unfold execControlDrain at eR; grind [← finish_keeps, foldl_canonical]

theorem execNotification_keeps (s : State) (hC : s.Canonical) {tR : State} (eR : execNotification s = .next tR) : tR.Canonical := by
  unfold execNotification at eR; grind [← State.setF_keeps, → takeMessage_keeps, ← missedMessage_keeps, ← postEntry_keeps, foldl_canonical]

theorem execCqHoldoffExpiry_keeps (c : Fin 64) (s : State) (hC : s.Canonical) {tR : State} (eR : execCqHoldoffExpiry c s = .next tR) : tR.Canonical := by
  unfold execCqHoldoffExpiry at eR; grind [← interruptDue_keeps, foldl_canonical]

theorem sendPending_keeps (s : State) (hC : s.Canonical) : (sendPending s).Canonical := by
  grind [sendPending, ← sendMsix_keeps, foldl_canonical]

theorem execMsixUnmask_keeps (m : MsixWrite) (s : State) (hC : s.Canonical) {tR : State} (eR : execMsixUnmask m s = .next tR) : tR.Canonical := by
  unfold execMsixUnmask at eR; grind [← sendPending_keeps, foldl_canonical]

theorem failReader_keeps (s : State) (t : Bool) (x1 : HostReader) (hC : s.Canonical) : (failReader s t x1).Canonical := by
  unfold failReader; (repeat' split) <;> grind [← beginAbort_keeps, ← State.setRing_keeps, ← ringError_keeps, ← settleRing_keeps, foldl_canonical]

theorem execHostReadFailure_keeps (r : HostReader) (timeout : Bool) (s : State) (hC : s.Canonical) {tR : State} (eR : execHostReadFailure r timeout s = .next tR) : tR.Canonical := by
  unfold execHostReadFailure at eR; grind [← failReader_keeps, foldl_canonical]

theorem execLinkDown_keeps (outstanding : List HostReader) (s : State) (hC : s.Canonical) {tR : State} (eR : execLinkDown outstanding s = .next tR) : tR.Canonical := by
  unfold execLinkDown at eR; grind [← failReader_keeps, foldl_canonical]

theorem execLinkUp_keeps (s : State) (hC : s.Canonical) {tR : State} (eR : execLinkUp s = .next tR) : tR.Canonical := by
  unfold execLinkUp at eR; grind [foldl_canonical]

theorem execLinkL1Entry_keeps (s : State) (hC : s.Canonical) {tR : State} (eR : execLinkL1Entry s = .next tR) : tR.Canonical := by
  unfold execLinkL1Entry at eR; grind [foldl_canonical]

theorem writeSqbase_keeps (s : State) (r : Nat) (w : SetupWrite) (hC : s.Canonical) : (writeSqbase s r w).Canonical := by
  grind [writeSqbase, ← storeSetup_keeps, foldl_canonical]

theorem resetRing_keeps (s : State) (r : Nat) (hC : s.Canonical) : (resetRing s r).Canonical := by
  grind [resetRing, ← State.setF_keeps, ← State.setRing_keeps, foldl_canonical]

theorem startRing_keeps (s : State) (r : Nat) (log2 : Nat) (hC : s.Canonical) : (startRing s r log2).Canonical := by
  grind [startRing, ← State.setR_keeps, ← State.setF_keeps, ← State.setRing_keeps, foldl_canonical]

theorem writeSqcfg_keeps (s : State) (r : Nat) (w : SetupWrite) (hC : s.Canonical) : (writeSqcfg s r w).Canonical := by
  grind [writeSqcfg, ← storeSetup_keeps, ← resetRing_keeps, ← startRing_keeps, foldl_canonical]

theorem execSqEnable_keeps (r : Fin 64) (w : SetupWrite) (s : State) (hC : s.Canonical) {tR : State} (eR : execSqEnable r w s = .next tR) : tR.Canonical := by
  unfold execSqEnable at eR; grind [← writeSqcfg_keeps, foldl_canonical]

theorem execSqReset_keeps (r : Fin 64) (w : SetupWrite) (s : State) (hC : s.Canonical) {tR : State} (eR : execSqReset r w s = .next tR) : tR.Canonical := by
  unfold execSqReset at eR; grind [← writeSqcfg_keeps, foldl_canonical]

theorem writeCqcfg_keeps (s : State) (c : Nat) (w : SetupWrite) (hC : s.Canonical) : (writeCqcfg s c w).Canonical := by
  grind [writeCqcfg, ← storeSetup_keeps, ← State.setCq_keeps, ← ringError_keeps, foldl_canonical]

theorem execCqDisable_keeps (c : Fin 64) (w : SetupWrite) (s : State) (hC : s.Canonical) {tR : State} (eR : execCqDisable c w s = .next tR) : tR.Canonical := by
  unfold execCqDisable at eR; grind [← writeCqcfg_keeps, foldl_canonical]

theorem writeHreCtl_keeps (s : State) (w : SetupWrite) (hC : s.Canonical) : (writeHreCtl s w).Canonical := by
  grind [writeHreCtl, ← storeSetup_keeps, ← setInterval_keeps, foldl_canonical]

theorem execHreEnable_keeps (w : SetupWrite) (s : State) (hC : s.Canonical) {tR : State} (eR : execHreEnable w s = .next tR) : tR.Canonical := by
  unfold execHreEnable at eR; grind [← writeHreCtl_keeps, foldl_canonical]

theorem resetFunction_keeps (s : State) (hC : s.Canonical) : (resetFunction s).Canonical := by
  grind [resetFunction, ← State.setF_keeps, foldl_canonical]

theorem execFunctionLevelReset_keeps (s : State) (hC : s.Canonical) {tR : State} (eR : execFunctionLevelReset s = .next tR) : tR.Canonical := by
  unfold execFunctionLevelReset at eR; grind [← State.setR_keeps, ← State.setF_keeps, ← resetFunction_keeps, foldl_canonical]

theorem execD3hotEntry_keeps (pme : Bool) (s : State) (hC : s.Canonical) {tR : State} (eR : execD3hotEntry pme s = .next tR) : tR.Canonical := by
  unfold execD3hotEntry at eR; grind [foldl_canonical]

theorem execD0Return_keeps (bme : Bool) (s : State) (hC : s.Canonical) {tR : State} (eR : execD0Return bme s = .next tR) : tR.Canonical := by
  unfold execD0Return at eR; grind [← deliverInterrupt_keeps, ← proceed_keeps, ← sendPending_keeps, foldl_canonical]

end Sys2Proof.Machine
end

