-- ==== Sys2Proof/Laws/KeepsDevice.lean ====
section
/-! SUPPORT. Memory stays canonical: the network, Ridge, the start, power, pins, setup accesses, the requests of the masters and the prefix. One lemma per operation. -/

namespace Sys2Proof.Machine

open Sys2Proof

/-! ### Field -/

theorem portEvent_keeps (s : State) (p : Nat) (hC : s.Canonical) : (portEvent s p).Canonical := by
  grind [portEvent, ← pulse_keeps, foldl_canonical]

theorem countFecunc_keeps (s : State) (p : Nat) (hC : s.Canonical) : (countFecunc s p).Canonical := by
  grind [countFecunc, ← State.setR_keeps, foldl_canonical]

theorem countFcserr_keeps (s : State) (p : Nat) (hC : s.Canonical) : (countFcserr s p).Canonical := by
  grind [countFcserr, ← State.setR_keeps, foldl_canonical]

theorem countSecfail_keeps (s : State) (p : Nat) (hC : s.Canonical) : (countSecfail s p).Canonical := by
  grind [countSecfail, ← State.setR_keeps, foldl_canonical]

theorem macsecReceive_keeps (s : State) (p : Nat) (f : RxFrame) (hC : s.Canonical) {rR} (eR : macsecReceive s p f = some rR) : (rR).Canonical := by
  unfold macsecReceive at eR; grind [foldl_canonical]

theorem enqueueFrame_keeps (s : State) (p : Nat) (f : RxFrame) (hC : s.Canonical) : (enqueueFrame s p f).Canonical := by
  grind [enqueueFrame, ← takeFree_keeps, → takeFree_keeps_eq, ← pulse_keeps, ← countDrop_keeps, foldl_canonical]

theorem execFrameReceive_keeps (p : Fin 8) (f : RxFrame) (s : State) (hC : s.Canonical) {tR : State} (eR : execFrameReceive p f s = .next tR) : tR.Canonical := by
  unfold execFrameReceive at eR; grind [← countDrop_keeps, ← countFecunc_keeps, ← countFcserr_keeps, ← countSecfail_keeps, → macsecReceive_keeps, ← enqueueFrame_keeps, foldl_canonical]

theorem egressStamp_keeps (s : State) (q p : Nat) (hC : s.Canonical) : (egressStamp s q p).Canonical := by
  grind [egressStamp, ← appendReg_keeps, → appendReg_keeps_eq, ← countDrop_keeps, foldl_canonical]

theorem sendFrame_keeps (s : State) (p : Nat) (bs : List Byte) (pn : Option Nat) (hC : s.Canonical) : (sendFrame s p bs pn).Canonical := by
  grind [sendFrame, foldl_canonical]

theorem sendProtected_keeps (s : State) (q p : Nat) (bs : List Byte) (hC : s.Canonical) : (sendProtected s q p bs).Canonical := by
  grind [sendProtected, ← countDrop_keeps, ← portEvent_keeps, ← egressStamp_keeps, ← sendFrame_keeps, foldl_canonical]

theorem execFrameTransmit_keeps (p : Fin 8) (s : State) (hC : s.Canonical) {tR : State} (eR : execFrameTransmit p s = .next tR) : tR.Canonical := by
  unfold execFrameTransmit at eR; grind [← egressStamp_keeps, ← sendFrame_keeps, ← sendProtected_keeps, foldl_canonical]

theorem settlePorts_keeps (old s : State) (hC : old.Canonical) (hC1 : s.Canonical) : (settlePorts old s).Canonical := by
  grind [settlePorts, ← publishUnit_keeps, foldl_canonical]

theorem drainPort_keeps (s : State) (p : Nat) (hC : s.Canonical) : (drainPort s p).Canonical := by
  grind [drainPort, ← publishUnit_keeps, foldl_canonical]

theorem downPort_keeps (s : State) (p : Nat) (hC : s.Canonical) : (downPort s p).Canonical := by
  grind [downPort, foldl_canonical]

theorem execFieldLinkChange_keeps (p : Fin 8) (up : Bool) (s : State) (hC : s.Canonical) {tR : State} (eR : execFieldLinkChange p up s = .next tR) : tR.Canonical := by
  unfold execFieldLinkChange at eR; grind [← portEvent_keeps, ← settlePorts_keeps, foldl_canonical]

theorem writeNetCfg_keeps (s : State) (w : SetupWrite) (hC : s.Canonical) : (writeNetCfg s w).Canonical := by
  grind [writeNetCfg, ← storeSetup_keeps, ← portEvent_keeps, ← settlePorts_keeps, ← drainPort_keeps, ← downPort_keeps, foldl_canonical]

theorem execModeChange_keeps (w : SetupWrite) (s : State) (hC : s.Canonical) {tR : State} (eR : execModeChange w s = .next tR) : tR.Canonical := by
  unfold execModeChange at eR; grind [← writeNetCfg_keeps, foldl_canonical]

theorem writePcfg_keeps (s : State) (p : Nat) (w : SetupWrite) (hC : s.Canonical) : (writePcfg s p w).Canonical := by
  grind [writePcfg, ← storeSetup_keeps, ← settlePorts_keeps, ← drainPort_keeps, ← downPort_keeps, foldl_canonical]

theorem writeSakey_keeps (s : State) (i : Nat) (w : SetupWrite) (hC : s.Canonical) : (writeSakey s i w).Canonical := by
  grind [writeSakey, foldl_canonical]

theorem writeSactl_keeps (s : State) (w : SetupWrite) (hC : s.Canonical) : (writeSactl s w).Canonical := by
  grind [writeSactl, ← storeSetup_keeps, foldl_canonical]

theorem execSaInstall_keeps (w : SetupWrite) (s : State) (hC : s.Canonical) {tR : State} (eR : execSaInstall w s = .next tR) : tR.Canonical := by
  unfold execSaInstall at eR; grind [← writeSactl_keeps, foldl_canonical]

theorem execSaRemove_keeps (w : SetupWrite) (s : State) (hC : s.Canonical) {tR : State} (eR : execSaRemove w s = .next tR) : tR.Canonical := by
  unfold execSaRemove at eR; grind [← writeSactl_keeps, foldl_canonical]

theorem writePcnt_keeps (s : State) (p : Nat) (w : SetupWrite) (hC : s.Canonical) : (writePcnt s p w).Canonical := by
  grind [writePcnt, ← State.setR_keeps, foldl_canonical]

theorem execPcntClear_keeps (p : Fin 8) (w : SetupWrite) (s : State) (hC : s.Canonical) {tR : State} (eR : execPcntClear p w s = .next tR) : tR.Canonical := by
  unfold execPcntClear at eR; grind [← writePcnt_keeps, foldl_canonical]

theorem writePhcadj_keeps (s : State) (w : SetupWrite) (hC : s.Canonical) : (writePhcadj s w).Canonical := by
  grind [writePhcadj, ← State.setR_keeps, ← storeSetup_keeps, foldl_canonical]

theorem execPhcStep_keeps (w : SetupWrite) (s : State) (hC : s.Canonical) {tR : State} (eR : execPhcStep w s = .next tR) : tR.Canonical := by
  unfold execPhcStep at eR; grind [← writePhcadj_keeps, foldl_canonical]

theorem tickPhc_keeps (s : State) (hC : s.Canonical) : (tickPhc s).Canonical := by
  grind [tickPhc, ← State.setR_keeps, foldl_canonical]

/-! ### Ridge -/

theorem State.setRport_keeps (s : State) (p : Nat) (x : RidgePort) (hC : s.Canonical) : (State.setRport s p x).Canonical := by
  grind [State.setRport, foldl_canonical]

theorem setBroken_keeps (s : State) (hC : s.Canonical) : (setBroken s).Canonical := by
  grind [setBroken, ← State.setF_keeps, foldl_canonical]

theorem ridgeChanged_keeps (s : State) (p u : Nat) (hC : s.Canonical) : (ridgeChanged s p u).Canonical := by
  grind [ridgeChanged, ← pulse_keeps, ← publishUnit_keeps, foldl_canonical]

theorem sendVia_keeps (s : State) (p : Nat) (f : RidgeFrame) (hC : s.Canonical) : (sendVia s p f).Canonical := by
  grind [sendVia, ← State.setRport_keeps, foldl_canonical]

theorem endRemote_keeps (s : State) (o : RemoteOp) (status : Nat) (result : Option Word) (hC : s.Canonical) : (endRemote s o status result).Canonical := by
  grind [endRemote, ← answerVector_keeps, foldl_canonical]

theorem rparam_keeps (vec i : Nat) : Keeps (rparam vec i : CragM Word) := by
  unfold rparam; (repeat' first | with_reducible exact Keeps.pure _ | with_reducible exact Keeps.error _ | with_reducible exact Keeps.read _ | with_reducible assumption | with_reducible apply Keeps.bind | with_reducible apply Keeps.map | with_reducible apply Keeps.mapM | with_reducible apply param_keeps)

theorem rUnused_keeps (vec i : Nat) : Keeps (rUnused vec i : CragM Unit) := by
  unfold rUnused; (repeat' first | with_reducible exact Keeps.pure _ | with_reducible exact Keeps.error _ | with_reducible exact Keeps.read _ | with_reducible assumption | with_reducible apply Keeps.bind | with_reducible apply Keeps.map | with_reducible apply Keeps.mapM | with_reducible apply need_keeps | with_reducible apply rparam_keeps | intro _)

theorem rAddress_keeps (vec : Nat) (words : Bool) : Keeps (rAddress vec words : CragM Word) := by
  unfold rAddress; (repeat' first | with_reducible exact Keeps.pure _ | with_reducible exact Keeps.error _ | with_reducible exact Keeps.read _ | with_reducible assumption | with_reducible apply Keeps.bind | with_reducible apply Keeps.map | with_reducible apply Keeps.mapM | with_reducible apply need_keeps | with_reducible apply rparam_keeps | intro _)

theorem rImmediate_keeps (vec i : Nat) : Keeps (rImmediate vec i : CragM Word) := by
  unfold rImmediate; (repeat' first | with_reducible exact Keeps.pure _ | with_reducible exact Keeps.error _ | with_reducible exact Keeps.read _ | with_reducible assumption | with_reducible apply Keeps.bind | with_reducible apply Keeps.map | with_reducible apply Keeps.mapM | with_reducible apply need_keeps | with_reducible apply rparam_keeps | intro _)

theorem rLocal_keeps (vec : Nat) (output : Bool) : Keeps (rLocal vec output : CragM (Nat × Nat)) := by
  unfold rLocal; (repeat' first | with_reducible exact Keeps.pure _ | with_reducible exact Keeps.error _ | with_reducible exact Keeps.read _ | with_reducible assumption | with_reducible apply Keeps.bind | with_reducible apply Keeps.map | with_reducible apply Keeps.mapM | with_reducible apply need_keeps | with_reducible apply headerM_keeps | with_reducible apply rparam_keeps | intro _)

theorem remoteMessage_keeps (op vec : Nat) : Keeps (remoteMessage op vec : CragM RidgeMsg) := by
  unfold remoteMessage; (repeat' first | with_reducible exact Keeps.pure _ | with_reducible exact Keeps.error _ | with_reducible exact Keeps.read _ | with_reducible assumption | with_reducible apply Keeps.bind | with_reducible apply Keeps.map | with_reducible apply Keeps.mapM | with_reducible apply need_keeps | with_reducible apply bytesAtM_keeps | with_reducible apply rparam_keeps | with_reducible apply rUnused_keeps | with_reducible apply rAddress_keeps | with_reducible apply rImmediate_keeps | with_reducible apply rLocal_keeps | intro _ | split)

theorem remoteTarget_keeps (s : State) (vec : Nat) : Keeps (remoteTarget s vec : CragM Nat) := by
  unfold remoteTarget; (repeat' first | with_reducible exact Keeps.pure _ | with_reducible exact Keeps.error _ | with_reducible exact Keeps.read _ | with_reducible assumption | with_reducible apply Keeps.bind | with_reducible apply Keeps.map | with_reducible apply Keeps.mapM | with_reducible apply need_keeps | with_reducible apply rparam_keeps | intro _)

theorem ridgeRow_keeps (op : Nat) (s : State) (hC : s.Canonical) : (ridgeRow op s).Canonical := by
  unfold ridgeRow
  split
  · exact hC
  · split
    · exact missedMessage_keeps _ _ _ _ hC
    · next msg0 s0 h0 =>
      have c0 := trvHeal_keeps s0 msg0 (takeMessage_keeps _ _ _ _ hC h0)
      generalize trvHeal s0 msg0 = p at c0
      obtain ⟨msg, s1⟩ := p
      dsimp only at c0 ⊢
      split
      · exact c0
      · next vec _ =>
        split
        · exact answerVector_keeps _ _ _ _ _ (meetRead_keeps _ _ _ _ _ c0)
        · split
          · exact answerVector_keeps _ _ _ _ _ c0
          · split
            · exact hC
            · split
              · exact answerVector_keeps _ _ _ _ _ (leave_keeps _ _ c0)
              · next dst m s2 h2 =>
                have c2 : s2.Canonical := (Keeps.bind (remoteTarget_keeps s1 vec) (fun _ =>
                  Keeps.bind (remoteMessage_keeps op vec) (fun _ => Keeps.pure _))).canonical _ _ _ c0 h2
                split
                · exact answerVector_keeps _ _ _ _ _ (setBroken_keeps _ c2)
                · split
                  · exact hC
                  · exact sendVia_keeps _ _ _ c2

theorem execReadW_keeps (s : State) (hC : s.Canonical) {tR : State} (eR : execReadW s = .next tR) : tR.Canonical := by
  unfold execReadW at eR; grind [← ridgeRow_keeps, foldl_canonical]

theorem execWriteW_keeps (s : State) (hC : s.Canonical) {tR : State} (eR : execWriteW s = .next tR) : tR.Canonical := by
  unfold execWriteW at eR; grind [← ridgeRow_keeps, foldl_canonical]

theorem execCasW_keeps (s : State) (hC : s.Canonical) {tR : State} (eR : execCasW s = .next tR) : tR.Canonical := by
  unfold execCasW at eR; grind [← ridgeRow_keeps, foldl_canonical]

theorem execFaddW_keeps (s : State) (hC : s.Canonical) {tR : State} (eR : execFaddW s = .next tR) : tR.Canonical := by
  unfold execFaddW at eR; grind [← ridgeRow_keeps, foldl_canonical]

theorem execReadB_keeps (s : State) (hC : s.Canonical) {tR : State} (eR : execReadB s = .next tR) : tR.Canonical := by
  unfold execReadB at eR; grind [← ridgeRow_keeps, foldl_canonical]

theorem execWriteB_keeps (s : State) (hC : s.Canonical) {tR : State} (eR : execWriteB s = .next tR) : tR.Canonical := by
  unfold execWriteB at eR; grind [← ridgeRow_keeps, foldl_canonical]

theorem execPost_keeps (s : State) (hC : s.Canonical) {tR : State} (eR : execPost s = .next tR) : tR.Canonical := by
  unfold execPost at eR; grind [← ridgeRow_keeps, foldl_canonical]

theorem completeRemote_keeps (s : State) (f : RidgeFrame) (status : Nat) (value : Word) (bytes : List Byte) (hC : s.Canonical) : (completeRemote s f status value bytes).Canonical := by
  unfold completeRemote
  split
  · exact hC
  · split
    · exact endRemote_keeps _ _ _ _ hC
    · split
      · exact endRemote_keeps _ _ _ _ hC
      · split
        · dsimp only
          split
          · next s1 h1 =>
            exact endRemote_keeps _ _ _ _ ((Keeps.bind (rLocal_keeps _ _) (fun _ => writeOut_keeps _ _ _)).canonical _ _ _ hC h1)
          · exact endRemote_keeps _ _ _ _ (leave_keeps _ _ hC)
        · split <;> exact endRemote_keeps _ _ _ _ hC

theorem routeOrEnd_keeps (s : State) (ingress : Nat) (f : RidgeFrame) (hC : s.Canonical) : (routeOrEnd s ingress f).Canonical := by
  grind [routeOrEnd, ← setBroken_keeps, ← sendVia_keeps, ← endRemote_keeps, foldl_canonical]

theorem linkLost_keeps (s : State) (p : Nat) (hC : s.Canonical) : (linkLost s p).Canonical := by
  grind [linkLost, ← State.setR_keeps, ← pulse_keeps, ← State.setRport_keeps, ← ridgeChanged_keeps, ← routeOrEnd_keeps, foldl_canonical]

theorem resendAll_keeps (s : State) (p : Nat) (hC : s.Canonical) : (resendAll s p).Canonical := by
  grind [resendAll, ← State.setR_keeps, ← State.setRport_keeps, ← linkLost_keeps, foldl_canonical]

theorem execRidgeResendTimeout_keeps (p : Fin 4) (s : State) (hC : s.Canonical) {tR : State} (eR : execRidgeResendTimeout p s = .next tR) : tR.Canonical := by
  unfold execRidgeResendTimeout at eR; grind [← resendAll_keeps, foldl_canonical]

theorem toInbox_keeps (s : State) (p : Nat) (f : RidgeFrame) (hC : s.Canonical) : (toInbox s p f).Canonical := by
  grind [toInbox, foldl_canonical]

theorem acceptFrame_keeps (s : State) (p : Nat) (f : RidgeFrame) (hC : s.Canonical) : (acceptFrame s p f).Canonical := by
  grind [acceptFrame, ← completeRemote_keeps, ← toInbox_keeps, foldl_canonical]

theorem execRidgeFrameReceive_keeps (p : Fin 4) (f : RidgeRx) (s : State) (hC : s.Canonical) {tR : State} (eR : execRidgeFrameReceive p f s = .next tR) : tR.Canonical := by
  unfold execRidgeFrameReceive at eR; grind [← State.setR_keeps, ← pulse_keeps, ← tamper_keeps, ← State.setRport_keeps, ← linkLost_keeps, ← resendAll_keeps, ← acceptFrame_keeps, foldl_canonical]

theorem execRidgeForward_keeps (s : State) (hC : s.Canonical) {tR : State} (eR : execRidgeForward s = .next tR) : tR.Canonical := by
  unfold execRidgeForward at eR; grind [← sendVia_keeps, ← routeOrEnd_keeps, foldl_canonical]

theorem peerWord_keeps (s : State) (va : Nat) (write : Bool) (f : Word → PeerM (Option Word)) (hC : s.Canonical) {rR} (eR : peerWord s va write f = .ok rR) : (rR.2).Canonical := by
  unfold peerWord at eR
  dsimp only at eR
  obtain ⟨_, _, eR⟩ := except_bind_ok eR
  obtain ⟨_, _, eR⟩ := except_bind_ok eR
  obtain ⟨old, _, eR⟩ := except_bind_ok eR
  obtain ⟨o, _, eR⟩ := except_bind_ok eR
  split at eR
  · cases eR; exact touchEdge_keeps _ _ _ _ _ hC
  · obtain ⟨_, _, eR⟩ := except_bind_ok eR
    split at eR
    · next s1 h1 => cases eR; exact masterWrite_keeps _ _ _ _ _ _ (logAtEngine_keeps _ _ (touchEdge_keeps _ _ _ _ _ hC)) h1
    · cases eR

theorem peerWrite_keeps (s : State) (space a : Nat) (bs : List Byte) (hC : s.Canonical) {rR} (eR : peerWrite s space a bs = .ok rR) : (rR).Canonical := by
  unfold peerWrite at eR
  dsimp only at eR
  refine masterWriteSpan_keeps _ _ _ _ _ _ _ ?_ eR
  have hl : ∀ (x : State) (a k : Nat), x.Canonical → (match mapEdge x 7 (space) a with
      | some pa => if k != 0 && accessible x pa then logSpan x pa k else x
      | none => x).Canonical := by
    intro x a k h
    split
    · split
      · exact logSpan_keeps _ _ _ h
      · exact h
    · exact h
  exact hl _ _ _ (hl _ _ _ hC)

theorem peerWrite_keeps_err (s : State) (space a : Nat) (bs : List Byte) (hC : s.Canonical) {rR} (eR : peerWrite s space a bs = .error rR) : (rR).Canonical := by
  unfold peerWrite at eR
  dsimp only at eR
  refine masterWriteSpan_keeps_err _ _ _ _ _ _ _ ?_ eR
  have hl : ∀ (x : State) (a k : Nat), x.Canonical → (match mapEdge x 7 (space) a with
      | some pa => if k != 0 && accessible x pa then logSpan x pa k else x
      | none => x).Canonical := by
    intro x a k h
    split
    · split
      · exact logSpan_keeps _ _ _ h
      · exact h
    · exact h
  exact hl _ _ _ (hl _ _ _ hC)

theorem poisonSpan_keeps (s : State) (space va n : Nat) (hC : s.Canonical) : (poisonSpan s space va n).Canonical := by
  grind [poisonSpan, ← setPoison_keeps, foldl_canonical]

theorem peerMiss_keeps (s : State) (va n : Nat) (hC : s.Canonical) : (peerMiss s va n).Canonical := by
  grind [peerMiss, ← meetRead_keeps, foldl_canonical]

/-- What a served request answers keeps memory canonical. -/

def Served.Kept : Served → Prop
  | .done _ _ t => t.Canonical
  | .waits _ t => t.Canonical
  | .failed _ t => t.Canonical

theorem servedWord_keeps (s : State) (va : Nat) (r : PeerM (Word × State)) (result : Word → Word) (h_r : ∀ rR, r = .ok rR → (rR.2).Canonical) (hC : s.Canonical) : (servedWord s va r result).Kept := by
  unfold servedWord; grind [Served.Kept, ← peerMiss_keeps, foldl_canonical]

theorem servePost_keeps (s : State) (va : Nat) (bytes : List Byte) (hC : s.Canonical) : (servePost s va bytes).Kept := by
  unfold servePost; grind [Served.Kept, → engineObject_keeps, ← appendMailbox_keeps, → appendMailbox_keeps_eq, ← engineHeapFull_keeps, ← peerMiss_keeps, foldl_canonical]

theorem serve_keeps (s : State) (poison : Bool) (x1 : RidgeMsg) (hC : s.Canonical) : (serve s poison x1).Kept := by
  unfold serve; grind [Served.Kept, ← touchEdge_keeps, → peerWord_keeps, → peerWrite_keeps, → peerWrite_keeps_err, ← poisonSpan_keeps, ← peerMiss_keeps, servedWord_keeps, servePost_keeps, foldl_canonical]

theorem replyTo_keeps (s : State) (p : Nat) (f : RidgeFrame) (status : Nat) (value : Word) (bytes : List Byte) (hC : s.Canonical) : (replyTo s p f status value bytes).Canonical := by
  grind [replyTo, ← routeOrEnd_keeps, foldl_canonical]

theorem execPeerRequestServe_keeps (p : Fin 4) (s : State) (hC : s.Canonical) {tR : State} (eR : execPeerRequestServe p s = .next tR) : tR.Canonical := by
  unfold execPeerRequestServe at eR
  obtain rfl := Host.Outcome.next.inj eR
  split
  · exact hC
  · next f _ _ =>
    split
    · exact hC
    · have h := serve_keeps s f.poison f.msg hC
      generalize serve s f.poison f.msg = x at h
      cases x with
      | done v bs s1 => exact replyTo_keeps _ _ _ _ _ _ h
      | waits msg s1 => exact h
      | failed e s1 => exact replyTo_keeps _ _ _ _ _ _ h

theorem retryPeer_keeps (s : State) (p : Nat) (hC : s.Canonical) : (retryPeer s p).Canonical := by
  grind [retryPeer, ← appendMailbox_keeps, → appendMailbox_keeps_eq, ← replyTo_keeps, foldl_canonical]

theorem expirePeer_keeps (s : State) (p : Nat) (hC : s.Canonical) : (expirePeer s p).Canonical := by
  grind [expirePeer, ← replyTo_keeps, foldl_canonical]

theorem refreshRidge_keeps (s : State) (hC : s.Canonical) : (refreshRidge s).Canonical := by
  grind [refreshRidge, ← State.setR_keeps, ← State.setF_keeps, ← ridgeChanged_keeps, ← linkLost_keeps, foldl_canonical]

theorem writeRdgCfg_keeps (s : State) (w : SetupWrite) (hC : s.Canonical) : (writeRdgCfg s w).Canonical := by
  grind [writeRdgCfg, ← storeSetup_keeps, ← refreshRidge_keeps, foldl_canonical]

theorem writeCrgRoster_keeps (s : State) (w : SetupWrite) (hC : s.Canonical) : (writeCrgRoster s w).Canonical := by
  grind [writeCrgRoster, ← storeSetup_keeps, ← refreshRidge_keeps, foldl_canonical]

theorem execKeyAgreement_keeps (p : Fin 4) (peer : List Byte) (v : Verdict) (s : State) (hC : s.Canonical) {tR : State} (eR : execKeyAgreement p peer v s = .next tR) : tR.Canonical := by
  unfold execKeyAgreement at eR; grind [← State.setR_keeps, ← State.setF_keeps, ← pulse_keeps, ← tamper_keeps, ← State.setRport_keeps, ← ridgeChanged_keeps, foldl_canonical]

theorem execRekey_keeps (p : Fin 4) (s : State) (hC : s.Canonical) {tR : State} (eR : execRekey p s = .next tR) : tR.Canonical := by
  unfold execRekey at eR; grind [← State.setRport_keeps, foldl_canonical]

theorem startRecalibration_keeps (s : State) (p lane : Nat) (hC : s.Canonical) : (startRecalibration s p lane).Canonical := by
  grind [startRecalibration, ← State.setF_keeps, ← State.setRport_keeps, ← ridgeChanged_keeps, foldl_canonical]

theorem execLaneRecalibrationStart_keeps (p : Fin 4) (lane : Fin 2) (s : State) (hC : s.Canonical) {tR : State} (eR : execLaneRecalibrationStart p lane s = .next tR) : tR.Canonical := by
  unfold execLaneRecalibrationStart at eR; grind [← startRecalibration_keeps, foldl_canonical]

theorem execRecalibrationEnd_keeps (p : Fin 4) (s : State) (hC : s.Canonical) {tR : State} (eR : execRecalibrationEnd p s = .next tR) : tR.Canonical := by
  unfold execRecalibrationEnd at eR; grind [← State.setF_keeps, ← State.setRport_keeps, ← ridgeChanged_keeps, foldl_canonical]

theorem execBarrierRelease_keeps (n : Fin 16) (s : State) (hC : s.Canonical) {tR : State} (eR : execBarrierRelease n s = .next tR) : tR.Canonical := by
  unfold execBarrierRelease at eR; grind [← releaseBarrier_keeps, foldl_canonical]

theorem execRangeBarrierRelease_keeps (n : Fin 16) (s : State) (hC : s.Canonical) {tR : State} (eR : execRangeBarrierRelease n s = .next tR) : tR.Canonical := by
  unfold execRangeBarrierRelease at eR; grind [← releaseBarrier_keeps, foldl_canonical]

theorem sendRange_keeps (s : State) (kind : Byte) (bytes : List Byte) (dst : Nat) (hC : s.Canonical) : (sendRange s kind bytes dst).Canonical := by
  grind [sendRange, ← routeOrEnd_keeps, foldl_canonical]

theorem execBroadcast_keeps (down : Bool) (kind : Byte) (bytes : List Byte) (s : State) (hC : s.Canonical) {tR : State} (eR : execBroadcast down kind bytes s = .next tR) : tR.Canonical := by
  unfold execBroadcast at eR; grind [← sendRange_keeps, foldl_canonical]

theorem execRangeAdvance_keeps (k : Fin 8) (others : Byte) (s : State) (hC : s.Canonical) {tR : State} (eR : execRangeAdvance k others s = .next tR) : tR.Canonical := by
  unfold execRangeAdvance at eR; grind [← State.setF_keeps, ← advanceInto_keeps, → advanceInto_keeps_eq, ← setCrestCode_keeps, foldl_canonical]

theorem cancelBarrier_keeps (s : State) (n : Nat) (hC : s.Canonical) : (cancelBarrier s n).Canonical := by
  grind [cancelBarrier, ← State.modCore_keeps, foldl_canonical]

theorem cancelRange_keeps (s : State) (hC : s.Canonical) : (cancelRange s).Canonical := by
  grind [cancelRange, ← cancelBarrier_keeps, foldl_canonical]

theorem writeRdgRange_keeps (s : State) (w : SetupWrite) (hC : s.Canonical) : (writeRdgRange s w).Canonical := by
  grind [writeRdgRange, ← storeSetup_keeps, ← deviceStart_keeps, ← cancelRange_keeps, foldl_canonical]

theorem execRangeReset_keeps (w : SetupWrite) (s : State) (hC : s.Canonical) {tR : State} (eR : execRangeReset w s = .next tR) : tR.Canonical := by
  unfold execRangeReset at eR; grind [← writeRdgRange_keeps, foldl_canonical]

theorem execCancel_keeps (w : SetupWrite) (s : State) (hC : s.Canonical) {tR : State} (eR : execCancel w s = .next tR) : tR.Canonical := by
  unfold execCancel at eR; grind [← writeRdgRange_keeps, foldl_canonical]

/-! ### Start -/

theorem stageFailure_keeps (s : State) (reason : Nat) (hC : s.Canonical) : (stageFailure s reason).Canonical := by
  grind [stageFailure, ← State.setF_keeps, foldl_canonical]

theorem execFailedStartRestart_keeps (s : State) (hC : s.Canonical) {tR : State} (eR : execFailedStartRestart s = .next tR) : tR.Canonical := by
  unfold execFailedStartRestart at eR; grind [← deviceStart_keeps, foldl_canonical]

theorem execBootWatchdogExpiry_keeps (s : State) (hC : s.Canonical) {tR : State} (eR : execBootWatchdogExpiry s = .next tR) : tR.Canonical := by
  unfold execBootWatchdogExpiry at eR; grind [← deviceStart_keeps, ← stageFailure_keeps, foldl_canonical]

theorem execFlashReadTimeout_keeps (s : State) (hC : s.Canonical) {tR : State} (eR : execFlashReadTimeout s = .next tR) : tR.Canonical := by
  unfold execFlashReadTimeout at eR; grind [← stageFailure_keeps, foldl_canonical]

theorem bringUp_keeps (s : State) (u st : Nat) (hC : s.Canonical) : (bringUp s u st).Canonical := by
  grind [bringUp, ← State.setUnit_keeps, foldl_canonical]

theorem execBootHoldEnd_keeps (v : Verdict) (s : State) (hC : s.Canonical) {tR : State} (eR : execBootHoldEnd v s = .next tR) : tR.Canonical := by
  unfold execBootHoldEnd at eR; grind [← setBoot_keeps, ← stageFailure_keeps, foldl_canonical]

theorem runCrag_keeps (s : State) (slot : Nat) (rom : Bool) (hC : s.Canonical) : (runCrag s slot rom).Canonical := by
  grind [runCrag, ← State.setF_keeps, ← bringUp_keeps, foldl_canonical]

theorem execCragStageEnd_keeps (s : State) (hC : s.Canonical) {tR : State} (eR : execCragStageEnd s = .next tR) : tR.Canonical := by
  unfold execCragStageEnd at eR; grind [← setBoot_keeps, ← stageFailure_keeps, ← runCrag_keeps, foldl_canonical]

theorem execImageStageEnd_keeps (s : State) (hC : s.Canonical) {tR : State} (eR : execImageStageEnd s = .next tR) : tR.Canonical := by
  unfold execImageStageEnd at eR; grind [← State.setF_keeps, ← setBoot_keeps, ← stageFailure_keeps, foldl_canonical]

theorem bringChannel_keeps (img : List Byte) (untrained : BitVec 4) (s : State) (q : Nat) (hC : s.Canonical) : (bringChannel img untrained s q).Canonical := by
  grind [bringChannel, ← State.setF_keeps, ← State.setUnit_keeps, foldl_canonical]

theorem applyConfig_keeps (s : State) (img : List Byte) (hC : s.Canonical) : (applyConfig s img).Canonical := by
  grind [applyConfig, ← State.setR_keeps, ← State.setF_keeps, ← settlePorts_keeps, ← refreshRidge_keeps, ← bringUp_keeps, foldl_canonical]

theorem execConfigStageEnd_keeps (plls : Verdict) (untrained : BitVec 4) (s : State) (hC : s.Canonical) {tR : State} (eR : execConfigStageEnd plls untrained s = .next tR) : tR.Canonical := by
  unfold execConfigStageEnd at eR; grind [← setBoot_keeps, ← stageFailure_keeps, ← bringChannel_keeps, ← applyConfig_keeps, foldl_canonical]

theorem repairRow_keeps (s : State) (t row : Nat) (hC : s.Canonical) {rR} (eR : repairRow s t row = some rR) : (rR).Canonical := by
  unfold repairRow at eR; grind [foldl_canonical]

theorem repairRows_keeps (s : State) (t : Nat) (x1 : List Nat) (hC : s.Canonical) {rR} (eR : repairRows s t x1 = some rR) : (rR).Canonical := by
  induction x1 generalizing s with
  | nil => cases eR; exact hC
  | cons r rs ih =>
    unfold repairRows at eR
    rw [Option.bind_eq_some_iff] at eR
    obtain ⟨s1, h1, h2⟩ := eR
    exact ih _ (repairRow_keeps _ _ _ hC h1) h2

theorem execSelftestStageEnd_keeps (faults : List (TileId × Fin 16384)) (s : State) (hC : s.Canonical) {tR : State} (eR : execSelftestStageEnd faults s = .next tR) : tR.Canonical := by
  unfold execSelftestStageEnd at eR; grind [← State.setUnit_keeps, ← setBoot_keeps, ← stageFailure_keeps, → repairRows_keeps, foldl_canonical]

theorem noteCode_keeps (s : State) (a n : Nat) (hC : s.Canonical) : (noteCode s a n).Canonical := by
  grind [noteCode, foldl_canonical]

theorem placeSections_keeps (x1 : List (List Byte × Nat × Bool)) (x2 : Nat) (x3 : State) (hC : x3.Canonical) {rR} (eR : placeSections x1 x2 x3 = some rR) : (rR.2).Canonical := by
  induction x1 generalizing x2 x3 rR with
  | nil => cases eR; exact hC
  | cons x xs ih =>
    unfold placeSections at eR
    dsimp only at eR
    split at eR
    · cases eR
    · split at eR
      · next rest s1 h1 =>
        rw [← Option.some.inj eR]
        exact canonical_of_mem (ih _ _ (writeBytes_keeps _ _ _ (noteCode_keeps _ _ _ hC)) h1) rfl
      · cases eR

theorem patchCores_keeps (img patch : List Byte) (s : State) (hC : s.Canonical) : (patchCores img patch s).Canonical := by
  grind [patchCores, ← State.modCore_keeps, ← State.setR_keeps, foldl_canonical]

theorem loadTroika_keeps (img : List Byte) (places : List Nat) (untested : List TroikaId) (s : State) (k : TroikaId) (hC : s.Canonical) : (loadTroika img places untested s k).Canonical := by
  grind [loadTroika, ← State.setR_keeps, ← pulse_keeps, ← settleTroika_keeps, ← finishReset_keeps, foldl_canonical]

theorem endBuild_keeps (s : State) (hC : s.Canonical) : (endBuild s).Canonical := by
  grind [endBuild, ← markChanged_keeps, ← generation_keeps, foldl_canonical]

theorem execLoadStageEnd_keeps (untested : List TroikaId) (s : State) (hC : s.Canonical) {tR : State} (eR : execLoadStageEnd untested s = .next tR) : tR.Canonical := by
  unfold execLoadStageEnd at eR; grind [← setBoot_keeps, ← stageFailure_keeps, → placeSections_keeps, ← patchCores_keeps, ← loadTroika_keeps, ← endBuild_keeps, foldl_canonical]

theorem recoverCore_keeps (s : State) (c : CoreId) (hC : s.Canonical) : (recoverCore s c).Canonical := by
  grind [recoverCore, ← State.modCore_keeps, ← resetCore_keeps, foldl_canonical]

theorem execSaddleEntry_keeps (s : State) (hC : s.Canonical) {tR : State} (eR : execSaddleEntry s = .next tR) : tR.Canonical := by
  unfold execSaddleEntry at eR; grind [← State.setR_keeps, ← State.setF_keeps, ← setBoot_keeps, ← bringUp_keeps, ← endBuild_keeps, ← recoverCore_keeps, foldl_canonical]

theorem writeCfgOper_keeps (s : State) (w : SetupWrite) (hC : s.Canonical) : (writeCfgOper s w).Canonical := by
  grind [writeCfgOper, ← State.setF_keeps, ← publish_keeps, ← storeSetup_keeps, ← setBoot_keeps, ← clearFails_keeps, ← stageFailure_keeps, foldl_canonical]

theorem execDeclareOperational_keeps (w : SetupWrite) (s : State) (hC : s.Canonical) {tR : State} (eR : execDeclareOperational w s = .next tR) : tR.Canonical := by
  unfold execDeclareOperational at eR; grind [← writeCfgOper_keeps, foldl_canonical]

theorem execDeclareFail_keeps (w : SetupWrite) (s : State) (hC : s.Canonical) {tR : State} (eR : execDeclareFail w s = .next tR) : tR.Canonical := by
  unfold execDeclareFail at eR; grind [← writeCfgOper_keeps, foldl_canonical]

theorem writeCfgStart_keeps (s : State) (w : SetupWrite) (hC : s.Canonical) : (writeCfgStart s w).Canonical := by
  grind [writeCfgStart, ← deviceStart_keeps, foldl_canonical]

theorem execCfgStart_keeps (w : SetupWrite) (s : State) (hC : s.Canonical) {tR : State} (eR : execCfgStart w s = .next tR) : tR.Canonical := by
  unfold execCfgStart at eR; grind [← writeCfgStart_keeps, foldl_canonical]

theorem writeSadCtl_keeps (s : State) (w : SetupWrite) (hC : s.Canonical) : (writeSadCtl s w).Canonical := by
  grind [writeSadCtl, ← deviceStart_keeps, foldl_canonical]

theorem execSadCtlGo_keeps (w : SetupWrite) (s : State) (hC : s.Canonical) {tR : State} (eR : execSadCtlGo w s = .next tR) : tR.Canonical := by
  unfold execSadCtlGo at eR; grind [← writeSadCtl_keeps, foldl_canonical]

theorem unitEnd_keeps (s : State) (code : Nat) (hC : s.Canonical) : (unitEnd s code).Canonical := by
  grind [unitEnd, ← State.setF_keeps, foldl_canonical]

theorem unitBegin_keeps (s : State) (hC : s.Canonical) : (unitBegin s).Canonical := by
  grind [unitBegin, ← State.setF_keeps, foldl_canonical]

theorem publishTile_keeps (s : State) (t st : Nat) (hC : s.Canonical) : (publishTile s t st).Canonical := by
  grind [publishTile, ← State.setUnit_keeps, ← publishTypes_keeps, foldl_canonical]

theorem startUnit_keeps (s : State) (op unit : Nat) (aMinute : Bool) (hC : s.Canonical) : (startUnit s op unit aMinute).Canonical := by
  unfold startUnit; (repeat' split) <;> grind [← State.setF_keeps, ← startRecalibration_keeps, ← unitEnd_keeps, ← unitBegin_keeps, ← publishTile_keeps, foldl_canonical]

theorem writeUnitctl_keeps (s : State) (w : SetupWrite) (aMinute : Bool) (hC : s.Canonical) : (writeUnitctl s w aMinute).Canonical := by
  grind [writeUnitctl, ← State.setF_keeps, ← storeSetup_keeps, ← startUnit_keeps, foldl_canonical]

theorem unitRow_keeps (op : Nat) (w : SetupWrite) (aMinute : Bool) (s : State) (hC : s.Canonical) : (unitRow op w aMinute s).Canonical := by
  grind [unitRow, ← writeUnitctl_keeps, foldl_canonical]

theorem execTileOffline_keeps (w : SetupWrite) (s : State) (hC : s.Canonical) {tR : State} (eR : execTileOffline w s = .next tR) : tR.Canonical := by
  unfold execTileOffline at eR; grind [← unitRow_keeps, foldl_canonical]

theorem execTileOnline_keeps (w : SetupWrite) (s : State) (hC : s.Canonical) {tR : State} (eR : execTileOnline w s = .next tR) : tR.Canonical := by
  unfold execTileOnline at eR; grind [← unitRow_keeps, foldl_canonical]

theorem execTileSelfTest_keeps (w : SetupWrite) (s : State) (hC : s.Canonical) {tR : State} (eR : execTileSelfTest w s = .next tR) : tR.Canonical := by
  unfold execTileSelfTest at eR; grind [← unitRow_keeps, foldl_canonical]

theorem execRetireCore_keeps (w : SetupWrite) (s : State) (hC : s.Canonical) {tR : State} (eR : execRetireCore w s = .next tR) : tR.Canonical := by
  unfold execRetireCore at eR; grind [← unitRow_keeps, foldl_canonical]

theorem execCragSwitch_keeps (w : SetupWrite) (s : State) (hC : s.Canonical) {tR : State} (eR : execCragSwitch w s = .next tR) : tR.Canonical := by
  unfold execCragSwitch at eR; grind [← unitRow_keeps, foldl_canonical]

theorem execRidgeLaneRecalibration_keeps (w : SetupWrite) (aMinute : Bool) (s : State) (hC : s.Canonical) {tR : State} (eR : execRidgeLaneRecalibration w aMinute s = .next tR) : tR.Canonical := by
  unfold execRidgeLaneRecalibration at eR; grind [← unitRow_keeps, foldl_canonical]

theorem execVoterSelfTestRequest_keeps (w : SetupWrite) (s : State) (hC : s.Canonical) {tR : State} (eR : execVoterSelfTestRequest w s = .next tR) : tR.Canonical := by
  unfold execVoterSelfTestRequest at eR; grind [← unitRow_keeps, foldl_canonical]

theorem execRetireTile_keeps (w : SetupWrite) (s : State) (hC : s.Canonical) {tR : State} (eR : execRetireTile w s = .next tR) : tR.Canonical := by
  unfold execRetireTile at eR; grind [← unitRow_keeps, foldl_canonical]

theorem fillTile_keeps (s : State) (t : Nat) (hC : s.Canonical) : (fillTile s t).Canonical := by
  exact Memory.wf_filter hC _

theorem endOffline_keeps (s : State) (t : Nat) (hC : s.Canonical) : (endOffline s t).Canonical := by
  grind [endOffline, ← unitEnd_keeps, ← publishTile_keeps, foldl_canonical]

theorem retireCores_keeps (s : State) (c : CoreId) (hC : s.Canonical) : (retireCores s c).Canonical := by
  grind [retireCores, ← State.modCore_keeps, ← publishUnit_keeps, foldl_canonical]

theorem switchCrag_keeps (s : State) (v : Verdict) (hC : s.Canonical) : (switchCrag s v).Canonical := by
  grind [switchCrag, ← State.setF_keeps, ← publish_keeps, ← runCrag_keeps, ← unitEnd_keeps, foldl_canonical]

theorem execUnitOperationEnd_keeps (faults : List (Fin 16384)) (v : Verdict) (s : State) (hC : s.Canonical) {tR : State} (eR : execUnitOperationEnd faults v s = .next tR) : tR.Canonical := by
  unfold execUnitOperationEnd at eR; grind [← publish_keeps, → repairRows_keeps, ← unitEnd_keeps, ← publishTile_keeps, ← fillTile_keeps, ← endOffline_keeps, ← retireCores_keeps, ← switchCrag_keeps, foldl_canonical]

theorem stopDevice_keeps (s : State) (hC : s.Canonical) : (stopDevice s).Canonical := by
  grind [stopDevice, ← resetDevice_keeps, foldl_canonical]

theorem hold_keeps (s : State) (code : Nat) (hC : s.Canonical) : (hold s code).Canonical := by
  grind [hold, foldl_canonical]

theorem unhold_keeps (s : State) (code : Nat) (hC : s.Canonical) : (unhold s code).Canonical := by
  grind [unhold, foldl_canonical]

theorem pinStart_keeps (s : State) (kind : Nat) (hC : s.Canonical) : (pinStart s kind).Canonical := by
  grind [pinStart, ← deviceStart_keeps, foldl_canonical]

theorem execVinAonUp_keeps (s : State) (hC : s.Canonical) {tR : State} (eR : execVinAonUp s = .next tR) : tR.Canonical := by
  unfold execVinAonUp at eR; grind [← deviceStart_keeps, ← unhold_keeps, foldl_canonical]

theorem execCoreRailsUp_keeps (seqErr : Bool) (s : State) (hC : s.Canonical) {tR : State} (eR : execCoreRailsUp seqErr s = .next tR) : tR.Canonical := by
  unfold execCoreRailsUp at eR; grind [← State.setF_keeps, ← deviceStart_keeps, ← unhold_keeps, foldl_canonical]

theorem execResetLAssert_keeps (s : State) (hC : s.Canonical) {tR : State} (eR : execResetLAssert s = .next tR) : tR.Canonical := by
  unfold execResetLAssert at eR; grind [← stopDevice_keeps, ← hold_keeps, foldl_canonical]

theorem execResetLRelease_keeps (s : State) (hC : s.Canonical) {tR : State} (eR : execResetLRelease s = .next tR) : tR.Canonical := by
  unfold execResetLRelease at eR; grind [← unhold_keeps, ← pinStart_keeps, foldl_canonical]

theorem execPerstLAssert_keeps (s : State) (hC : s.Canonical) {tR : State} (eR : execPerstLAssert s = .next tR) : tR.Canonical := by
  unfold execPerstLAssert at eR; grind [← resetFunction_keeps, ← stopDevice_keeps, ← hold_keeps, foldl_canonical]

theorem execPerstLRelease_keeps (s : State) (hC : s.Canonical) {tR : State} (eR : execPerstLRelease s = .next tR) : tR.Canonical := by
  unfold execPerstLRelease at eR; grind [← unhold_keeps, ← pinStart_keeps, foldl_canonical]

/-! ### Power -/

theorem recordRail_keeps (s : State) (rail : Nat) (high : Bool) (hC : s.Canonical) : (recordRail s rail high).Canonical := by
  grind [recordRail, ← State.setR_keeps, foldl_canonical]

theorem setThrottle_keeps (s : State) (q bit : Nat) (b : Bool) (hC : s.Canonical) : (setThrottle s q bit b).Canonical := by
  grind [setThrottle, ← State.setF_keeps, foldl_canonical]

theorem setClock_keeps (s : State) (q mhz : Nat) (hC : s.Canonical) : (setClock s q mhz).Canonical := by
  grind [setClock, ← State.setF_keeps, foldl_canonical]

theorem execVinAonLow_keeps (below24 : Bool) (s : State) (hC : s.Canonical) {tR : State} (eR : execVinAonLow below24 s = .next tR) : tR.Canonical := by
  unfold execVinAonLow at eR; grind [← pulse_keeps, ← resetBase_keeps, ← stageFailure_keeps, ← stopDevice_keeps, ← hold_keeps, ← recordRail_keeps, foldl_canonical]

theorem neighbourLimit_keeps (s : State) (measured : List Nat) (q : Nat) (hC : s.Canonical) : (neighbourLimit s measured q).Canonical := by
  grind [neighbourLimit, ← pulse_keeps, ← setThrottle_keeps, ← setClock_keeps, foldl_canonical]

theorem execRailExcursion_keeps (rail : Fin 12) (high : Bool) (measured : List Nat) (s : State) (hC : s.Canonical) {tR : State} (eR : execRailExcursion rail high measured s = .next tR) : tR.Canonical := by
  unfold execRailExcursion at eR; grind [← pulse_keeps, ← stageFailure_keeps, ← recordRail_keeps, ← setThrottle_keeps, ← setClock_keeps, ← neighbourLimit_keeps, foldl_canonical]

theorem execRailStop_keeps (rail : Fin 12) (s : State) (hC : s.Canonical) {tR : State} (eR : execRailStop rail s = .next tR) : tR.Canonical := by
  unfold execRailStop at eR; grind [← stopDevice_keeps, ← hold_keeps, foldl_canonical]

theorem execRailsRecovered_keeps (s : State) (hC : s.Canonical) {tR : State} (eR : execRailsRecovered s = .next tR) : tR.Canonical := by
  unfold execRailsRecovered at eR; grind [← unhold_keeps, ← pinStart_keeps, foldl_canonical]

theorem execRailReturn_keeps (q : QuadId) (neighbour : Bool) (s : State) (hC : s.Canonical) {tR : State} (eR : execRailReturn q neighbour s = .next tR) : tR.Canonical := by
  unfold execRailReturn at eR; grind [← setThrottle_keeps, foldl_canonical]

theorem fieldReferenceLost_keeps (s : State) (hC : s.Canonical) : (fieldReferenceLost s).Canonical := by
  grind [fieldReferenceLost, ← portEvent_keeps, ← settlePorts_keeps, ← downPort_keeps, ← linkLost_keeps, foldl_canonical]

theorem linkReferenceLost_keeps (s : State) (hC : s.Canonical) : (linkReferenceLost s).Canonical := by
  grind [linkReferenceLost, foldl_canonical]

theorem execClockFault_keeps (r : Fin 3) (s : State) (hC : s.Canonical) {tR : State} (eR : execClockFault r s = .next tR) : tR.Canonical := by
  unfold execClockFault at eR; grind [← pulse_keeps, ← stopDevice_keeps, ← hold_keeps, ← fieldReferenceLost_keeps, ← linkReferenceLost_keeps, foldl_canonical]

theorem execClockReturn_keeps (r : Fin 3) (s : State) (hC : s.Canonical) {tR : State} (eR : execClockReturn r s = .next tR) : tR.Canonical := by
  unfold execClockReturn at eR; grind [← unhold_keeps, ← pinStart_keeps, foldl_canonical]

theorem requestUp_keeps (s : State) (q mhz : Nat) (hC : s.Canonical) : (requestUp s q mhz).Canonical := by
  grind [requestUp, ← State.setF_keeps, foldl_canonical]

theorem writeQclk_keeps (s : State) (q : Nat) (w : SetupWrite) (hC : s.Canonical) : (writeQclk s q w).Canonical := by
  grind [writeQclk, ← storeSetup_keeps, ← requestUp_keeps, foldl_canonical]

theorem execQclkRequest_keeps (q : QuadId) (w : SetupWrite) (s : State) (hC : s.Canonical) {tR : State} (eR : execQclkRequest q w s = .next tR) : tR.Canonical := by
  unfold execQclkRequest at eR; grind [← writeQclk_keeps, foldl_canonical]

theorem execClockStep_keeps (q : QuadId) (s : State) (hC : s.Canonical) {tR : State} (eR : execClockStep q s = .next tR) : tR.Canonical := by
  unfold execClockStep at eR; grind [← State.setF_keeps, ← setClock_keeps, ← requestUp_keeps, foldl_canonical]

theorem execVoltageSettle_keeps (q : QuadId) (s : State) (hC : s.Canonical) {tR : State} (eR : execVoltageSettle q s = .next tR) : tR.Canonical := by
  unfold execVoltageSettle at eR; grind [foldl_canonical]

theorem execDelayMonitorCheck_keeps (q : QuadId) (short : Bool) (s : State) (hC : s.Canonical) {tR : State} (eR : execDelayMonitorCheck q short s = .next tR) : tR.Canonical := by
  unfold execDelayMonitorCheck at eR; grind [← State.setF_keeps, ← pulse_keeps, ← publish_keeps, foldl_canonical]

theorem showReading_keeps (s : State) (q hi lo : Nat) (t : Int) (hC : s.Canonical) : (showReading s q hi lo t).Canonical := by
  grind [showReading, ← takeFree_keeps, → takeFree_keeps_eq, ← State.setF_keeps, foldl_canonical]

theorem readSensors_keeps (readings : List Int) (s : State) (q : Nat) (hC : s.Canonical) : (readSensors readings s q).Canonical := by
  have h1 : (showReading { s with board := { s.board with hot := Tbl.putD s.board.hot 0 q (hottest readings q).2 } } q 7 0
      (hottest readings q).2).Canonical := showReading_keeps _ _ _ _ _ hC
  have h2 := State.setF_keeps _ .cfgTherm q 11 8 (hottest readings q).1 h1
  unfold readSensors
  dsimp only
  split <;> split
  · exact pulse_keeps _ _ (showReading_keeps _ _ _ _ _ h2)
  · exact pulse_keeps _ _ h2
  · exact showReading_keeps _ _ _ _ _ h2
  · exact h2

theorem throttleHot_keeps (s : State) (q : Nat) (hC : s.Canonical) : (throttleHot s q).Canonical := by
  grind [throttleHot, ← pulse_keeps, ← setThrottle_keeps, foldl_canonical]

theorem throttleNeighbour_keeps (s : State) (q : Nat) (hC : s.Canonical) : (throttleNeighbour s q).Canonical := by
  grind [throttleNeighbour, ← pulse_keeps, ← setThrottle_keeps, foldl_canonical]

theorem stepDown_keeps (s : State) (q : Nat) (hC : s.Canonical) : (stepDown s q).Canonical := by
  grind [stepDown, ← setClock_keeps, foldl_canonical]

theorem execThermalSample_keeps (readings : List Int) (s : State) (hC : s.Canonical) {tR : State} (eR : execThermalSample readings s = .next tR) : tR.Canonical := by
  unfold execThermalSample at eR; grind [← tamper_keeps, ← readSensors_keeps, ← throttleHot_keeps, ← throttleNeighbour_keeps, ← stepDown_keeps, foldl_canonical]

theorem execThermalStop_keeps (q : QuadId) (s : State) (hC : s.Canonical) {tR : State} (eR : execThermalStop q s = .next tR) : tR.Canonical := by
  unfold execThermalStop at eR; grind [← stopDevice_keeps, ← hold_keeps, ← recordRail_keeps, foldl_canonical]

/-! ### Pins -/

theorem execI3cWrite_keeps (bytes : List Byte) (s : State) (hC : s.Canonical) {tR : State} (eR : execI3cWrite bytes s = .next tR) : tR.Canonical := by
  unfold execI3cWrite at eR; grind [foldl_canonical]

theorem execI3cRead_keeps (s : State) (hC : s.Canonical) {tR : State} (eR : execI3cRead s = .next tR) : tR.Canonical := by
  unfold execI3cRead at eR; grind [foldl_canonical]

theorem execI3cTimeout_keeps (s : State) (hC : s.Canonical) {tR : State} (eR : execI3cTimeout s = .next tR) : tR.Canonical := by
  unfold execI3cTimeout at eR; grind [← State.setR_keeps, foldl_canonical]

theorem execI3cAddressAssignment_keeps (a : Fin 128) (s : State) (hC : s.Canonical) {tR : State} (eR : execI3cAddressAssignment a s = .next tR) : tR.Canonical := by
  unfold execI3cAddressAssignment at eR; grind [foldl_canonical]

theorem execJtagInstruction_keeps (i : JtagInstr) (s : State) (hC : s.Canonical) {tR : State} (eR : execJtagInstruction i s = .next tR) : tR.Canonical := by
  unfold execJtagInstruction at eR; grind [foldl_canonical]

theorem idle_keeps (s : State) (hC : s.Canonical) : (idle s).Canonical := by
  grind [idle, ← tickPhc_keeps, foldl_canonical]

/-! ### SetupAccess -/

theorem clearCounts_keeps (s : State) (n : RegName) (i hi : Nat) (w : SetupWrite) (hC : s.Canonical) : (clearCounts s n i hi w).Canonical := by
  grind [clearCounts, ← State.setF_keeps, ← storeSetup_keeps, foldl_canonical]

theorem writeGdt_keeps (s : State) (i : Nat) (w : SetupWrite) (hC : s.Canonical) : (writeGdt s i w).Canonical := by
  grind [writeGdt, ← storeSetup_keeps, foldl_canonical]

theorem writeWindow_keeps (s : State) (n : RegName) (w : SetupWrite) (hC : s.Canonical) : (writeWindow s n w).Canonical := by
  grind [writeWindow, ← countFree_keeps, ← storeSetup_keeps, foldl_canonical]

theorem writeTherm_keeps (s : State) (q : Nat) (w : SetupWrite) (hC : s.Canonical) : (writeTherm s q w).Canonical := by
  grind [writeTherm, ← State.setF_keeps, ← storeSetup_keeps, foldl_canonical]

theorem writeReg_keeps (s : State) (n : RegName) (i : Nat) (w : SetupWrite) (hC : s.Canonical) : (writeReg s n i w).Canonical := by
  cases n <;> unfold writeReg <;> dsimp only
  all_goals first
    | with_reducible exact clearCounts_keeps _ _ _ _ _ hC
    | with_reducible exact storeSetup_keeps _ _ _ _ _ hC
    | with_reducible exact writeSadCtl_keeps _ _ hC
    | with_reducible exact writeCrgRoster_keeps _ _ hC
    | with_reducible exact writeMorCtl_keeps _ _ hC
    | with_reducible exact writeWindow_keeps _ _ _ hC
    | with_reducible exact writeMorHint_keeps _ _ hC
    | with_reducible exact writeGcfg_keeps _ _ _ hC
    | with_reducible exact writePend_keeps _ _ _ hC
    | with_reducible exact writeRaise_keeps _ _ hC
    | with_reducible exact writeCpwr_keeps _ _ _ hC
    | with_reducible exact writeTrkDivrec_keeps _ _ _ hC
    | with_reducible exact writeHreCtl_keeps _ _ hC
    | with_reducible exact writeSqbase_keeps _ _ _ hC
    | with_reducible exact writeSqcfg_keeps _ _ _ hC
    | with_reducible exact writeCqcfg_keeps _ _ _ hC
    | with_reducible exact writeTrvCtl_keeps _ _ _ hC
    | with_reducible exact writeNetCfg_keeps _ _ hC
    | with_reducible exact writePhcadj_keeps _ _ hC
    | with_reducible exact writeSactl_keeps _ _ hC
    | with_reducible exact writeSakey_keeps _ _ _ hC
    | with_reducible exact writePcfg_keeps _ _ _ hC
    | with_reducible exact writePcnt_keeps _ _ _ hC
    | with_reducible exact writeRdgCfg_keeps _ _ hC
    | with_reducible exact writeRdgRange_keeps _ _ hC
    | with_reducible exact writeRop_keeps _ _ _ hC
    | with_reducible exact writeDmcCtl_keeps _ _ _ hC
    | with_reducible exact writeCrest_keeps _ _ hC
    | with_reducible exact writeCfgOper_keeps _ _ hC
    | with_reducible exact writeCfgStart_keeps _ _ hC
    | with_reducible exact writeUnitctl_keeps _ _ _ hC
    | with_reducible exact writeSnap_keeps _ _ _ hC
    | with_reducible exact writeCrpool_keeps _ _ _ hC
    | with_reducible exact writeQclk_keeps _ _ _ hC
    | with_reducible exact writeTherm_keeps _ _ _ hC
    | with_reducible exact writeTsrep_keeps _ _ _ hC
    | with_reducible exact writeTlbinv_keeps _ _ _ hC
    | with_reducible exact writeGdt_keeps _ _ _ hC
    | with_reducible exact recheckBarrier_keeps _ _ (storeSetup_keeps _ _ _ _ _ hC)
    | (split <;> first | with_reducible exact writeTrkCtl_keeps _ _ _ hC | with_reducible exact writeMcCtl_keeps _ _ _ hC | with_reducible exact hC)

theorem setupWrite_keeps (s : State) (off : Nat) (w : SetupWrite) (hC : s.Canonical) : (setupWrite s off w).Canonical := by
  grind [setupWrite, ← writeReg_keeps, foldl_canonical]

theorem execRegisterWrite_keeps (off : Nat) (w : SetupWrite) (s : State) (hC : s.Canonical) {tR : State} (eR : execRegisterWrite off w s = .next tR) : tR.Canonical := by
  unfold execRegisterWrite at eR; grind [← setupWrite_keeps, foldl_canonical]

theorem execGdtWrite_keeps (i : Fin 4096) (w : SetupWrite) (s : State) (hC : s.Canonical) {tR : State} (eR : execGdtWrite i w s = .next tR) : tR.Canonical := by
  unfold execGdtWrite at eR; grind [← writeReg_keeps, foldl_canonical]

theorem execHostUnsupportedRequest_keeps (r : HostRequest) (s : State) (hC : s.Canonical) {tR : State} (eR : execHostUnsupportedRequest r s = .next tR) : tR.Canonical := by
  unfold execHostUnsupportedRequest at eR; grind [← takeFree_keeps, → takeFree_keeps_eq, foldl_canonical]

theorem setupOffset_keeps (b : Word) : Keeps (setupOffset b : M Nat) := by
  unfold setupOffset; (repeat' first | with_reducible exact Keeps.pure _ | with_reducible exact Keeps.error _ | with_reducible exact Keeps.read _ | with_reducible assumption | with_reducible apply Keeps.bind | with_reducible apply Keeps.map | with_reducible apply Keeps.mapM | with_reducible apply trapM_keeps | with_reducible apply operandFault_keeps | intro _ | split | dsimp only)

theorem setupOffset_keeps_ok (b : Word) {sA vA sB} (hA : State.Canonical sA) (eA : (setupOffset b : M Nat) sA = .ok (vA, sB)) : State.Canonical sB :=
  (setupOffset_keeps b).canonical sA vA sB hA eA

theorem bodySetuprd_keeps (l : Long) (x1 : CoreId) : Keeps (bodySetuprd l x1 : M Flow) := by
  unfold bodySetuprd; (repeat' first | with_reducible exact Keeps.pure _ | with_reducible exact Keeps.error _ | with_reducible exact Keeps.read _ | with_reducible assumption | with_reducible apply Keeps.bind | with_reducible apply Keeps.map | with_reducible apply Keeps.mapM | with_reducible apply getC_keeps | with_reducible apply modC_keeps | with_reducible apply drainM_keeps | with_reducible apply bodyU_keeps | with_reducible apply setupOffset_keeps | intro _ | split | dsimp only) <;> first | grind [← takeFree_keeps, → takeFree_keeps_eq, → getC_keeps_ok, → modC_keeps_ok, → drainM_keeps_ok, → bodyU_keeps_ok, → setupOffset_keeps_ok, foldl_canonical] | (constructor; intro sA vA sB hA eA; grind [← takeFree_keeps, → takeFree_keeps_eq, → getC_keeps_ok, → modC_keeps_ok, → drainM_keeps_ok, → bodyU_keeps_ok, → setupOffset_keeps_ok, foldl_canonical])

theorem execSetuprd_keeps (a : At) (l : Long) (s : State) (hC : s.Canonical) {tR : State} (eR : execSetuprd a l s = .next tR) : tR.Canonical := by
  unfold execSetuprd at eR; cases eR; (first | apply runLong_keeps) <;> (repeat' first | assumption | intro _ | apply bodySetuprd_keeps)

theorem bodySetupwr_keeps (l : Long) (x1 : CoreId) : Keeps (bodySetupwr l x1 : M Flow) := by
  unfold bodySetupwr; (repeat' first | with_reducible exact Keeps.pure _ | with_reducible exact Keeps.error _ | with_reducible exact Keeps.read _ | with_reducible assumption | with_reducible apply Keeps.bind | with_reducible apply Keeps.map | with_reducible apply Keeps.mapM | with_reducible apply getC_keeps | with_reducible apply modC_keeps | with_reducible apply operandFault_keeps | with_reducible apply drainM_keeps | with_reducible apply bodyC_keeps | with_reducible apply setupOffset_keeps | intro _ | split | dsimp only) <;> first | grind [→ getC_keeps_ok, → modC_keeps_ok, → operandFault_keeps_ok, → drainM_keeps_ok, → bodyC_keeps_ok, ← setupWrite_keeps, → setupOffset_keeps_ok, foldl_canonical] | (constructor; intro sA vA sB hA eA; grind [→ getC_keeps_ok, → modC_keeps_ok, → operandFault_keeps_ok, → drainM_keeps_ok, → bodyC_keeps_ok, ← setupWrite_keeps, → setupOffset_keeps_ok, foldl_canonical])

theorem execSetupwr_keeps (a : At) (l : Long) (s : State) (hC : s.Canonical) {tR : State} (eR : execSetupwr a l s = .next tR) : tR.Canonical := by
  unfold execSetupwr at eR; cases eR; (first | apply runLong_keeps) <;> (repeat' first | assumption | intro _ | apply bodySetupwr_keeps)

/-! ### Requests -/

theorem checksAt_keeps (s : State) (place : CheckPlace) (src pa n : Nat) (p : Nat → Bool) (xs : List CairnCheck) (hC : s.Canonical) : (checksAt s place src pa n p xs).Canonical := by
  grind [checksAt, ← storageCheck_keeps, → place_keeps, foldl_canonical]

theorem mergeChecks_keeps (s : State) (pa n : Nat) (xs : List CairnCheck) (hC : s.Canonical) : (mergeChecks s pa n xs).Canonical := by
  grind [mergeChecks, ← checksAt_keeps, foldl_canonical]

theorem arrivalChecks_keeps (s : State) (pa n : Nat) (xs : List CairnCheck) (hC : s.Canonical) : (arrivalChecks s pa n xs).Canonical := by
  grind [arrivalChecks, ← checksAt_keeps, foldl_canonical]

theorem receiptChecks_keeps (s : State) (m : Master) (pa n : Nat) (xs : List CairnCheck) (hC : s.Canonical) : ((receiptChecks s m pa n xs).1).Canonical := by
  unfold receiptChecks
  have key : ∀ (ks : List CairnCheck) (r : State × Bool), r.1.Canonical → (ks.foldl (fun r k =>
      if k.place == .mesh && sameGranule pa n k.pa 1 then
        let bad := match findingError 2 (judge k.flips).1 with | some e => e.kind == 3 | none => false
        (match m with | .core c => coreCheck r.1 c 2 k.pa k.flips | _ => r.1, r.2 || bad)
      else r) r).1.Canonical := by
    intro ks
    induction ks with
    | nil => exact fun r h => h
    | cons k ks ih =>
      intro r h
      refine ih _ ?_
      dsimp only
      repeat' split
      all_goals first | exact h | exact coreCheck_keeps _ _ _ _ _ h
  exact key xs (s, false) hC

theorem receiptChecks_keeps_eq (s : State) (m : Master) (pa n : Nat) (xs : List CairnCheck) (hC : s.Canonical) {a0 a1} (eR : receiptChecks s m pa n xs = (a0, a1)) : a0.Canonical := by
  have := receiptChecks_keeps s m pa n xs hC; rw [eR] at this; exact this

theorem storeArrives_keeps (s : State) (c : CoreId) (i : Nat) (xs : List CairnCheck) (hC : s.Canonical) : (storeArrives s c i xs).Canonical := by
  grind [storeArrives, ← State.modCore_keeps, ← performStore_keeps, ← mirror_keeps, ← mergeChecks_keeps, ← arrivalChecks_keeps, foldl_canonical]

theorem askChannel_keeps (s : State) (cls line : Nat) (hC : s.Canonical) : (askChannel s cls line).Canonical := by
  grind [askChannel, ← State.setDeep_keeps, foldl_canonical]

theorem readArrives_keeps (s : State) (m : Master) (slot pa n : Nat) (xs : List CairnCheck) (hC : s.Canonical) : (readArrives s m slot pa n xs).Canonical := by
  unfold readArrives; (repeat' split) <;> grind [← consumeSpan_keeps, ← cacheTouch_keeps, ← addFlight_keeps, ← checksAt_keeps, ← receiptChecks_keeps, → receiptChecks_keeps_eq, ← askChannel_keeps, foldl_canonical]

theorem writeArrives_keeps (s : State) (m : Master) (slot pa : Nat) (bs : List Byte) (xs : List CairnCheck) (hC : s.Canonical) : (writeArrives s m slot pa bs xs).Canonical := by
  grind [writeArrives, ← addFlight_keeps, ← performWrite_keeps, → performWrite_keeps_eq, ← logSpan_keeps, ← mergeChecks_keeps, ← arrivalChecks_keeps, foldl_canonical]

theorem foreignReadArrives_keeps (s : State) (m : Master) (slot pa n : Nat) (hC : s.Canonical) : (foreignReadArrives s m slot pa n).Canonical := by
  unfold foreignReadArrives; (repeat' split) <;> grind [← addFlight_keeps, foldl_canonical]

theorem foreignWriteArrives_keeps (s : State) (m : Master) (slot pa : Nat) (bs : List Byte) (hC : s.Canonical) : (foreignWriteArrives s m slot pa bs).Canonical := by
  unfold foreignWriteArrives; (repeat' split) <;> grind [← addFlight_keeps, ← sendHost_keeps, ← setupWrite_keeps, foldl_canonical]

theorem performRequest_keeps (s : State) (r : MemReq) (xs : List CairnCheck) (hC : s.Canonical) : (performRequest s r xs).Canonical := by
  unfold performRequest; (repeat' split) <;> grind [← storeArrives_keeps, ← readArrives_keeps, ← writeArrives_keeps, ← foreignReadArrives_keeps, ← foreignWriteArrives_keeps, foldl_canonical]

theorem arrive_keeps (s : State) (e : MemReq × List CairnCheck) (hC : s.Canonical) : (arrive s e).Canonical := by
  grind [arrive, ← performRequest_keeps, foldl_canonical]

theorem serveQueued_keeps (s : State) (hC : s.Canonical) : (serveQueued s).Canonical := by
  grind [serveQueued, ← arrive_keeps, foldl_canonical]

theorem execMemoryRequestArrival_keeps (r : MemReq) (f : List CairnCheck) (s : State) (hC : s.Canonical) {tR : State} (eR : execMemoryRequestArrival r f s = .next tR) : tR.Canonical := by
  unfold execMemoryRequestArrival at eR; grind [← arrive_keeps, ← serveQueued_keeps, foldl_canonical]

theorem execMemoryResponse_keeps (m : Master) (slot : Nat) (s : State) (hC : s.Canonical) {tR : State} (eR : execMemoryResponse m slot s = .next tR) : tR.Canonical := by
  unfold execMemoryResponse at eR; grind [← serveQueued_keeps, foldl_canonical]

theorem execRowRepairEnd_keeps (t : TileId) (s : State) (hC : s.Canonical) {tR : State} (eR : execRowRepairEnd t s = .next tR) : tR.Canonical := by
  unfold execRowRepairEnd at eR; grind [← State.setF_keeps, ← publish_keeps, ← serveQueued_keeps, foldl_canonical]

theorem execEvictionWriteback_keeps (q : QuadId) (s : State) (hC : s.Canonical) {tR : State} (eR : execEvictionWriteback q s = .next tR) : tR.Canonical := by
  unfold execEvictionWriteback at eR; grind [← State.setDeep_keeps, ← serveQueued_keeps, foldl_canonical]

theorem execRetrainingEnd_keeps (q : QuadId) (s : State) (hC : s.Canonical) {tR : State} (eR : execRetrainingEnd q s = .next tR) : tR.Canonical := by
  unfold execRetrainingEnd at eR; grind [← State.setDeep_keeps, ← serveQueued_keeps, foldl_canonical]

/-! ### Prefix -/

theorem bodyOf_keeps (a : At) (op : Opcode) (l : Long) (len : Nat) (x1 : CoreId) : Keeps (bodyOf a op l len x1 : M Flow) := by
  unfold bodyOf; (repeat' first | with_reducible exact Keeps.pure _ | with_reducible exact Keeps.error _ | with_reducible exact Keeps.read _ | with_reducible assumption | with_reducible apply Keeps.bind | with_reducible apply Keeps.map | with_reducible apply Keeps.mapM | with_reducible apply bodyMov_keeps | with_reducible apply bodySt_keeps | with_reducible apply bodySwap_keeps | with_reducible apply bodyLdb_keeps | with_reducible apply bodyStb_keeps | with_reducible apply bodyLdbit_keeps | with_reducible apply bodyStbit_keeps | with_reducible apply bodyMfc_keeps | with_reducible apply bodyMtc_keeps | with_reducible apply bodyAdd_keeps | with_reducible apply bodySub_keeps | with_reducible apply bodyMul_keeps | with_reducible apply bodyDiv_keeps | with_reducible apply bodyRem_keeps | with_reducible apply bodyNeg_keeps | with_reducible apply bodyAbs_keeps | with_reducible apply bodyCmp_keeps | with_reducible apply bodyAddto_keeps | with_reducible apply bodySubto_keeps | with_reducible apply bodyFadd_keeps | with_reducible apply bodyFsub_keeps | with_reducible apply bodyFmul_keeps | with_reducible apply bodyFdiv_keeps | with_reducible apply bodyFsqrt_keeps | with_reducible apply bodyFcmp_keeps | with_reducible apply bodyFcvt_keeps | with_reducible apply bodyAnd_keeps | with_reducible apply bodyOr_keeps | with_reducible apply bodyXor_keeps | with_reducible apply bodyAndn_keeps | with_reducible apply bodyShl_keeps | with_reducible apply bodyShr_keeps | with_reducible apply bodySar_keeps | with_reducible apply bodyPopc_keeps | with_reducible apply bodyClz_keeps | with_reducible apply bodyParity_keeps | with_reducible apply bodyBitrev_keeps | with_reducible apply bodyCrcstep_keeps | with_reducible apply bodyCons_keeps | with_reducible apply bodyCar_keeps | with_reducible apply bodyCdr_keeps | with_reducible apply bodyRplaca_keeps | with_reducible apply bodyRplacd_keeps | with_reducible apply bodyAllocv_keeps | with_reducible apply bodyAllocb_keeps | with_reducible apply bodyAlloci_keeps | with_reducible apply bodyLenof_keeps | with_reducible apply bodyClassof_keeps | with_reducible apply bodyIdhash_keeps | with_reducible apply bodyWeakref_keeps | with_reducible apply bodyPin_keeps | with_reducible apply bodyUnpin_keeps | with_reducible apply bodyBitaddr_keeps | with_reducible apply bodyTagset_keeps | with_reducible apply bodyTagof_keeps | with_reducible apply bodyTageq_keeps | with_reducible apply bodyClassis_keeps | with_reducible apply bodyEq_keeps | with_reducible apply bodyEql_keeps | with_reducible apply bodyCasw_keeps | with_reducible apply bodyFaddw_keeps | with_reducible apply bodyCasg_keeps | with_reducible apply bodySwpg_keeps | with_reducible apply bodyBset_keeps | with_reducible apply bodyBclr_keeps | with_reducible apply bodyBtest_keeps | with_reducible apply bodyBmov_keeps | with_reducible apply bodyBand_keeps | with_reducible apply bodyBor_keeps | with_reducible apply bodyBxor_keeps | with_reducible apply bodyJmp_keeps | with_reducible apply bodyCall_keeps | with_reducible apply bodyCalln_keeps | with_reducible apply bodyRet_keeps | with_reducible apply bodyRetn_keeps | with_reducible apply bodyRett_keeps | with_reducible apply bodyTrap_keeps | with_reducible apply bodyRete_keeps | with_reducible apply bodyLoop_keeps | with_reducible apply bodyLoopx_keeps | with_reducible apply bodySpillw_keeps | with_reducible apply bodyFillw_keeps | with_reducible apply bodySpace_keeps | with_reducible apply bodySavelo_keeps | with_reducible apply bodySavehi_keeps | with_reducible apply bodyRestlo_keeps | with_reducible apply bodyResthi_keeps | with_reducible apply bodyFence_keeps | with_reducible apply bodyBarrier_keeps | with_reducible apply bodyWait_keeps | with_reducible apply bodyEoin_keeps | with_reducible apply bodyEoif_keeps | with_reducible apply bodyNiwopen_keeps | with_reducible apply bodyNiwclose_keeps | with_reducible apply bodyCrgpost_keeps | with_reducible apply bodyCqlook_keeps | with_reducible apply bodyCqins_keeps | with_reducible apply bodyCqdel_keeps | with_reducible apply bodyTrvgo_keeps | with_reducible apply bodySetuprd_keeps | with_reducible apply bodySetupwr_keeps | intro _ | split)

theorem countDown_keeps (s : State) (c : CoreId) (rc : Nat) (hC : s.Canonical) : (countDown s c rc).Canonical := by
  grind [countDown, ← State.modCore_keeps, ← takeFree_keeps, → takeFree_keeps_eq, foldl_canonical]

theorem iterate_keeps (p : Pfx) (l : Long) (len : Nat) (body : CoreId → M Flow) (c : CoreId) (x1 : Nat) (x2 : Bool) (x3 : State) (h_body : ∀ y0, Keeps (body y0)) (hC : x3.Canonical) : ((iterate p l len body c x1 x2 x3).2).Canonical := by
  induction x1 generalizing x2 x3 with
  | zero => exact hC
  | succ n ih =>
    have key : ∀ r : Flow × State, iterate p l len body c (n + 1) x2 x3 = r → r.2.Canonical := by
      intro r e
      unfold iterate at e
      split at e
      · rw [← e]; exact hC
      · split at e
        · rw [← e]; exact hC
        · split at e
          · rw [← e]; exact canonical_snd (raiseStop_keeps _ _ _ _ _ hC) _
          · next s1 h1 =>
            dsimp only at e
            have c1 := countDown_keeps s1 c p.rc.toNat ((h_body c).canonical _ _ _ hC h1)
            split at e
            · rw [← e]; exact canonical_snd c1 _
            · rw [← e]; exact ih _ _ c1
    exact key _ rfl

theorem pfxSteps_keeps (a : At) (p : Pfx) (op : Opcode) (l : Long) (len : Nat) (c : CoreId) : Keeps (pfxSteps a p op l len c : M Flow) := by
  unfold pfxSteps
  split
  · exact simpleFault_keeps _ _
  · split
    · exact trapM_keeps _
    · split
      · exact simpleFault_keeps _ _
      · refine Keeps.bind (getC_keeps c) (fun k => ?_)
        split
        · exact Keeps.pure _
        · split
          · exact bodyOf_keeps _ _ _ _ _
          · dsimp only
            split
            · exact trapM_keeps _
            · constructor
              intro sA vA sB hA eA
              have h := iterate_keeps p l len (bodyOf a op l len) c (valOf (k.getReg p.rc.toNat)) true sA (fun y => bodyOf_keeps _ _ _ _ y) hA
              have e := Except.ok.inj eA
              rw [e] at h
              exact h

theorem bodyPfx_keeps (a : At) (p : Pfx) (b : PfxBody) (c : CoreId) : Keeps (bodyPfx a p b c : M Flow) := by
  constructor; intro sA vA sB hA eA; unfold bodyPfx at eA; dsimp only at eA
  split at eA
  · cases eA
  · refine (Keeps.bind (fetchM_keeps _ _ _ _) (fun _ => ?_)).canonical _ _ _ hA eA
    split
    · exact trapM_keeps _
    · split
      · exact trapM_keeps _
      · split
        · exact trapM_keeps _
        · exact pfxSteps_keeps _ _ _ _ _ _

theorem execPfx_keeps (a : At) (p : Pfx) (b : PfxBody) (s : State) (hC : s.Canonical) {tR : State} (eR : execPfx a p b s = .next tR) : tR.Canonical := by
  unfold execPfx at eR; cases eR; (first | apply runBody_keeps) <;> (repeat' first | assumption | intro _ | apply bodyPfx_keeps)

theorem undefinedSteps_keeps (code : Byte) (l : Long) (c : CoreId) : Keeps (undefinedSteps code l c : M Flow) := by
  unfold undefinedSteps; (repeat' first | with_reducible exact Keeps.pure _ | with_reducible exact Keeps.error _ | with_reducible exact Keeps.read _ | with_reducible assumption | with_reducible apply Keeps.bind | with_reducible apply Keeps.map | with_reducible apply Keeps.mapM | with_reducible apply trapM_keeps | with_reducible apply fetchM_keeps | intro _)

theorem stepBody_keeps (s : State) (a : At) (x1 : StepOp) (hC : s.Canonical) : (stepBody s a x1).Canonical := by
  unfold stepBody
  split
  · exact runLong_keeps _ _ _ _ _ (fun y => bodyOf_keeps _ _ _ _ y) hC
  · exact runBody_keeps _ _ _ _ _ (fun y => bodyPfx_keeps _ _ _ y) hC
  · exact runBody_keeps _ _ _ _ _ (fun y => bodyPair_keeps _ y) hC
  · exact runBody_keeps _ _ _ _ _ (fun y => bodyBundle_keeps _ y) hC
  · split
    · exact hC
    · exact runBody_keeps _ _ _ _ _ (fun y => undefinedSteps_keeps _ _ y) hC

theorem turnModes_keeps (s : State) (cs : List CoreId) (old new : CoreMode) (hC : s.Canonical) : (turnModes s cs old new).Canonical := by
  grind [turnModes, ← State.modCore_keeps, foldl_canonical]

theorem execDebugStep_keeps (a : At) (op : StepOp) (s : State) (hC : s.Canonical) {tR : State} (eR : execDebugStep a op s = .next tR) : tR.Canonical := by
  unfold execDebugStep at eR; grind [← stepBody_keeps, ← turnModes_keeps, foldl_canonical]

theorem execMboxAppendRetry_keeps (m : MboxWaiter) (s : State) (hC : s.Canonical) {tR : State} (eR : execMboxAppendRetry m s = .next tR) : tR.Canonical := by
  unfold execMboxAppendRetry at eR; grind [← retryChannel_keeps, ← retryRing_keeps, ← retryPeer_keeps, foldl_canonical]

theorem execMbwaitExpiry_keeps (m : MboxWaiter) (s : State) (hC : s.Canonical) {tR : State} (eR : execMbwaitExpiry m s = .next tR) : tR.Canonical := by
  unfold execMbwaitExpiry at eR; grind [← expireChannel_keeps, ← expireRing_keeps, ← expirePeer_keeps, foldl_canonical]

end Sys2Proof.Machine
end

