-- ==== Sys2Proof/Laws/KeepsExec.lean ====
section
/-! SUPPORT. Every command keeps memory canonical. -/

namespace Sys2Proof.Machine

open Sys2Proof

theorem exec_keeps (i : Instr) (s : State) (hC : s.Canonical) {tR : State} (eR : exec i s = .next tR) : tR.Canonical := by
  cases i with
  | mov a l => exact execMov_keeps a l s hC eR
  | st a l => exact execSt_keeps a l s hC eR
  | swap a l => exact execSwap_keeps a l s hC eR
  | ldb a l => exact execLdb_keeps a l s hC eR
  | stb a l => exact execStb_keeps a l s hC eR
  | ldbit a l => exact execLdbit_keeps a l s hC eR
  | stbit a l => exact execStbit_keeps a l s hC eR
  | mfc a l => exact execMfc_keeps a l s hC eR
  | mtc a l => exact execMtc_keeps a l s hC eR
  | setuprd a l => exact execSetuprd_keeps a l s hC eR
  | setupwr a l => exact execSetupwr_keeps a l s hC eR
  | add a l => exact execAdd_keeps a l s hC eR
  | sub a l => exact execSub_keeps a l s hC eR
  | mul a l => exact execMul_keeps a l s hC eR
  | div a l => exact execDiv_keeps a l s hC eR
  | rem a l => exact execRem_keeps a l s hC eR
  | neg a l => exact execNeg_keeps a l s hC eR
  | abs a l => exact execAbs_keeps a l s hC eR
  | cmp a l => exact execCmp_keeps a l s hC eR
  | addto a l => exact execAddto_keeps a l s hC eR
  | subto a l => exact execSubto_keeps a l s hC eR
  | and a l => exact execAnd_keeps a l s hC eR
  | or a l => exact execOr_keeps a l s hC eR
  | xor a l => exact execXor_keeps a l s hC eR
  | andn a l => exact execAndn_keeps a l s hC eR
  | shl a l => exact execShl_keeps a l s hC eR
  | shr a l => exact execShr_keeps a l s hC eR
  | sar a l => exact execSar_keeps a l s hC eR
  | popc a l => exact execPopc_keeps a l s hC eR
  | clz a l => exact execClz_keeps a l s hC eR
  | parity a l => exact execParity_keeps a l s hC eR
  | bitrev a l => exact execBitrev_keeps a l s hC eR
  | crcstep a l => exact execCrcstep_keeps a l s hC eR
  | fadd a l => exact execFadd_keeps a l s hC eR
  | fsub a l => exact execFsub_keeps a l s hC eR
  | fmul a l => exact execFmul_keeps a l s hC eR
  | fdiv a l => exact execFdiv_keeps a l s hC eR
  | fsqrt a l => exact execFsqrt_keeps a l s hC eR
  | fcmp a l => exact execFcmp_keeps a l s hC eR
  | fcvt a l => exact execFcvt_keeps a l s hC eR
  | cons a l => exact execCons_keeps a l s hC eR
  | car a l => exact execCar_keeps a l s hC eR
  | cdr a l => exact execCdr_keeps a l s hC eR
  | rplaca a l => exact execRplaca_keeps a l s hC eR
  | rplacd a l => exact execRplacd_keeps a l s hC eR
  | allocv a l => exact execAllocv_keeps a l s hC eR
  | alloci a l => exact execAlloci_keeps a l s hC eR
  | allocb a l => exact execAllocb_keeps a l s hC eR
  | lenof a l => exact execLenof_keeps a l s hC eR
  | classof a l => exact execClassof_keeps a l s hC eR
  | idhash a l => exact execIdhash_keeps a l s hC eR
  | weakref a l => exact execWeakref_keeps a l s hC eR
  | pin a l => exact execPin_keeps a l s hC eR
  | unpin a l => exact execUnpin_keeps a l s hC eR
  | bitaddr a l => exact execBitaddr_keeps a l s hC eR
  | tagset a l => exact execTagset_keeps a l s hC eR
  | tagof a l => exact execTagof_keeps a l s hC eR
  | tageq a l => exact execTageq_keeps a l s hC eR
  | classis a l => exact execClassis_keeps a l s hC eR
  | eq a l => exact execEq_keeps a l s hC eR
  | eql a l => exact execEql_keeps a l s hC eR
  | casw a l => exact execCasw_keeps a l s hC eR
  | casg a l => exact execCasg_keeps a l s hC eR
  | swpg a l => exact execSwpg_keeps a l s hC eR
  | faddw a l => exact execFaddw_keeps a l s hC eR
  | bset a l => exact execBset_keeps a l s hC eR
  | bclr a l => exact execBclr_keeps a l s hC eR
  | btest a l => exact execBtest_keeps a l s hC eR
  | bmov a l => exact execBmov_keeps a l s hC eR
  | band a l => exact execBand_keeps a l s hC eR
  | bor a l => exact execBor_keeps a l s hC eR
  | bxor a l => exact execBxor_keeps a l s hC eR
  | jmp a l => exact execJmp_keeps a l s hC eR
  | call a l => exact execCall_keeps a l s hC eR
  | calln a l => exact execCalln_keeps a l s hC eR
  | ret a l => exact execRet_keeps a l s hC eR
  | retn a l => exact execRetn_keeps a l s hC eR
  | rett a l => exact execRett_keeps a l s hC eR
  | rete a l => exact execRete_keeps a l s hC eR
  | trap a l => exact execTrap_keeps a l s hC eR
  | loop a l => exact execLoop_keeps a l s hC eR
  | loopx a l => exact execLoopx_keeps a l s hC eR
  | savelo a l => exact execSavelo_keeps a l s hC eR
  | savehi a l => exact execSavehi_keeps a l s hC eR
  | restlo a l => exact execRestlo_keeps a l s hC eR
  | resthi a l => exact execResthi_keeps a l s hC eR
  | spillw a l => exact execSpillw_keeps a l s hC eR
  | fillw a l => exact execFillw_keeps a l s hC eR
  | space a l => exact execSpace_keeps a l s hC eR
  | fence a l => exact execFence_keeps a l s hC eR
  | barrier a l => exact execBarrier_keeps a l s hC eR
  | wait a l => exact execWait_keeps a l s hC eR
  | eoin a l => exact execEoin_keeps a l s hC eR
  | eoif a l => exact execEoif_keeps a l s hC eR
  | niwopen a l => exact execNiwopen_keeps a l s hC eR
  | niwclose a l => exact execNiwclose_keeps a l s hC eR
  | trvgo a l => exact execTrvgo_keeps a l s hC eR
  | cqlook a l => exact execCqlook_keeps a l s hC eR
  | cqins a l => exact execCqins_keeps a l s hC eR
  | cqdel a l => exact execCqdel_keeps a l s hC eR
  | crgpost a l => exact execCrgpost_keeps a l s hC eR
  | pfx a p b => exact execPfx_keeps a p b s hC eR
  | pair a p => exact execPair_keeps a p s hC eR
  | bundle a w => exact execBundle_keeps a w s hC eR
  | unitResultLanding c n => exact execUnitResultLanding_keeps c n s hC eR
  | barrierRelease n => exact execBarrierRelease_keeps n s hC eR
  | waitWake c => exact execWaitWake_keeps c s hC eR
  | niwLimitExpiry c => exact execNiwLimitExpiry_keeps c s hC eR
  | normalInterruptEntry c => exact execNormalInterruptEntry_keeps c s hC eR
  | fastInterruptEntry c => exact execFastInterruptEntry_keeps c s hC eR
  | deferredMachineCheck c => exact execDeferredMachineCheck_keeps c s hC eR
  | mcApply c w => exact execMcApply_keeps c w s hC eR
  | mcDisable c w => exact execMcDisable_keeps c w s hC eR
  | patchDrain c r => exact execPatchDrain_keeps c r s hC eR
  | patchApplyEnd c => exact execPatchApplyEnd_keeps c s hC eR
  | tlbinvStart p w => exact execTlbinvStart_keeps p w s hC eR
  | tlbinvComplete p => exact execTlbinvComplete_keeps p s hC eR
  | memoryRequestArrival r f => exact execMemoryRequestArrival_keeps r f s hC eR
  | memoryResponse m slot => exact execMemoryResponse_keeps m slot s hC eR
  | patrolScrub pa f => exact execPatrolScrub_keeps pa f s hC eR
  | tsrepGo t w => exact execTsrepGo_keeps t w s hC eR
  | rowRepairEnd t => exact execRowRepairEnd_keeps t s hC eR
  | evictionWriteback q => exact execEvictionWriteback_keeps q s hC eR
  | deepReadComplete q line o => exact execDeepReadComplete_keeps q line o s hC eR
  | deepReadTimeout q line => exact execDeepReadTimeout_keeps q line s hC eR
  | retrainingStall q => exact execRetrainingStall_keeps q s hC eR
  | retrainingEnd q => exact execRetrainingEnd_keeps q s hC eR
  | clean q w => exact execClean_keeps q w s hC eR
  | cleanInv q w => exact execCleanInv_keeps q w s hC eR
  | inv q w => exact execInv_keeps q w s hC eR
  | prefetch q w => exact execPrefetch_keeps q w s hC eR
  | prefetchLock q w => exact execPrefetchLock_keeps q w s hC eR
  | unlock q w => exact execUnlock_keeps q w s hC eR
  | rangeOperationEnd q => exact execRangeOperationEnd_keeps q s hC eR
  | retire q w => exact execRetire_keeps q w s hC eR
  | channelRetireEnd q => exact execChannelRetireEnd_keeps q s hC eR
  | morStart w => exact execMorStart_keeps w s hC eR
  | rootScan c => exact execRootScan_keeps c s hC eR
  | markTrace t => exact execMarkTrace_keeps t s hC eR
  | markEnd => exact execMarkEnd_keeps s hC eR
  | select => exact execSelect_keeps s hC eR
  | evacuateCopy t => exact execEvacuateCopy_keeps t s hC eR
  | cycleEnd => exact execCycleEnd_keeps s hC eR
  | moveRequest m w => exact execMoveRequest_keeps m w s hC eR
  | pageRemap va page => exact execPageRemap_keeps va page s hC eR
  | morHintGo w => exact execMorHintGo_keeps w s hC eR
  | heapFullTimeout c => exact execHeapFullTimeout_keeps c s hC eR
  | allocationWaitEnd c => exact execAllocationWaitEnd_keeps c s hC eR
  | cirqueTableMake t => exact execCirqueTableMake_keeps t s hC eR
  | advance w => exact execAdvance_keeps w s hC eR
  | release w => exact execRelease_keeps w s hC eR
  | rebase w => exact execRebase_keeps w s hC eR
  | crpoolLoad n w => exact execCrpoolLoad_keeps n w s hC eR
  | resynchronisation k => exact execResynchronisation_keeps k s hC eR
  | troikaReset k w => exact execTroikaReset_keeps k w s hC eR
  | troikaResetEnd k voter => exact execTroikaResetEnd_keeps k voter s hC eR
  | debugHalt k => exact execDebugHalt_keeps k s hC eR
  | debugRead c r => exact execDebugRead_keeps c r s hC eR
  | debugWrite c r v => exact execDebugWrite_keeps c r v s hC eR
  | debugMemoryAccess c pa write => exact execDebugMemoryAccess_keeps c pa write s hC eR
  | debugStep a op => exact execDebugStep_keeps a op s hC eR
  | debugResume k => exact execDebugResume_keeps k s hC eR
  | sourcePulse n => exact execSourcePulse_keeps n s hC eR
  | evcRaise w => exact execEvcRaise_keeps w s hC eR
  | bitDelivery g => exact execBitDelivery_keeps g s hC eR
  | holdoffExpiry g => exact execHoldoffExpiry_keeps g s hC eR
  | groupConfigWrite g w => exact execGroupConfigWrite_keeps g w s hC eR
  | pendClear n w => exact execPendClear_keeps n w s hC eR
  | coreGating c => exact execCoreGating_keeps c s hC eR
  | coreWake c => exact execCoreWake_keeps c s hC eR
  | gatedWaitExpiry g => exact execGatedWaitExpiry_keeps g s hC eR
  | trvTimerTick t => exact execTrvTimerTick_keeps t s hC eR
  | burstRead n h => exact execBurstRead_keeps n h s hC eR
  | burstWrite n => exact execBurstWrite_keeps n s hC eR
  | ingressFrameReady n => exact execIngressFrameReady_keeps n s hC eR
  | completionPoint n => exact execCompletionPoint_keeps n s hC eR
  | trvAbort n w => exact execTrvAbort_keeps n w s hC eR
  | channelDisable n w => exact execChannelDisable_keeps n w s hC eR
  | abortDrainEnd n => exact execAbortDrainEnd_keeps n s hC eR
  | mboxAppendRetry m => exact execMboxAppendRetry_keeps m s hC eR
  | mbwaitExpiry m => exact execMbwaitExpiry_keeps m s hC eR
  | doorbellPoll h => exact execDoorbellPoll_keeps h s hC eR
  | descriptorFetch r d exts => exact execDescriptorFetch_keeps r d exts s hC eR
  | invoke r => exact execInvoke_keeps r s hC eR
  | importBytes r h => exact execImport_keeps r h s hC eR
  | exportBytes r => exact execExport_keeps r s hC eR
  | query r => exact execQuery_keeps r s hC eR
  | snapshot r => exact execSnapshot_keeps r s hC eR
  | hostAttest r => exact execHostAttest_keeps r s hC eR
  | patch r h => exact execPatch_keeps r h s hC eR
  | controlNop r => exact execControlNop_keeps r s hC eR
  | controlTime r => exact execControlTime_keeps r s hC eR
  | controlDrain r => exact execControlDrain_keeps r s hC eR
  | cqHeadPoll c h => exact execCqHeadPoll_keeps c h s hC eR
  | notification => exact execNotification_keeps s hC eR
  | cqHoldoffExpiry c => exact execCqHoldoffExpiry_keeps c s hC eR
  | msixUnmask m => exact execMsixUnmask_keeps m s hC eR
  | hostReadFailure r timeout => exact execHostReadFailure_keeps r timeout s hC eR
  | sqEnable r w => exact execSqEnable_keeps r w s hC eR
  | sqReset r w => exact execSqReset_keeps r w s hC eR
  | cqDisable c w => exact execCqDisable_keeps c w s hC eR
  | hreEnable w => exact execHreEnable_keeps w s hC eR
  | functionLevelReset => exact execFunctionLevelReset_keeps s hC eR
  | d3hotEntry pme => exact execD3hotEntry_keeps pme s hC eR
  | d0Return bme => exact execD0Return_keeps bme s hC eR
  | linkDown outstanding => exact execLinkDown_keeps outstanding s hC eR
  | linkUp => exact execLinkUp_keeps s hC eR
  | hostUnsupportedRequest r => exact execHostUnsupportedRequest_keeps r s hC eR
  | random => exact execRandom_keeps s hC eR
  | hash => exact execHash_keeps s hC eR
  | gcmSeal => exact execGcmSeal_keeps s hC eR
  | gcmOpen => exact execGcmOpen_keeps s hC eR
  | sign => exact execSign_keeps s hC eR
  | verify => exact execVerify_keeps s hC eR
  | sealVector => exact execSeal_keeps s hC eR
  | sealCheck => exact execSealCheck_keeps s hC eR
  | keygen => exact execKeygen_keeps s hC eR
  | keyimport => exact execKeyimport_keeps s hC eR
  | keydelete => exact execKeydelete_keeps s hC eR
  | ctrRead => exact execCtrRead_keeps s hC eR
  | ctrInc => exact execCtrInc_keeps s hC eR
  | cragAttest => exact execCragAttest_keeps s hC eR
  | imgVerify => exact execImgVerify_keeps s hC eR
  | tpolRaise => exact execTpolRaise_keeps s hC eR
  | debugUnlock => exact execDebugUnlock_keeps s hC eR
  | owner => exact execOwner_keeps s hC eR
  | tamperEvent src => exact execTamperEvent_keeps src s hC eR
  | tamperAlarmEnd => exact execTamperAlarmEnd_keeps s hC eR
  | trngHealthFail => exact execTrngHealthFail_keeps s hC eR
  | trngRestart => exact execTrngRestart_keeps s hC eR
  | keyAgreement p peer v => exact execKeyAgreement_keeps p peer v s hC eR
  | rekey p => exact execRekey_keeps p s hC eR
  | frameReceive p f => exact execFrameReceive_keeps p f s hC eR
  | frameTransmit p => exact execFrameTransmit_keeps p s hC eR
  | fieldLinkChange p up => exact execFieldLinkChange_keeps p up s hC eR
  | saInstall w => exact execSaInstall_keeps w s hC eR
  | saRemove w => exact execSaRemove_keeps w s hC eR
  | pcntClear p w => exact execPcntClear_keeps p w s hC eR
  | phcStep w => exact execPhcStep_keeps w s hC eR
  | modeChange w => exact execModeChange_keeps w s hC eR
  | ridgeFrameReceive p f => exact execRidgeFrameReceive_keeps p f s hC eR
  | ridgeResendTimeout p => exact execRidgeResendTimeout_keeps p s hC eR
  | ridgeForward => exact execRidgeForward_keeps s hC eR
  | readW => exact execReadW_keeps s hC eR
  | writeW => exact execWriteW_keeps s hC eR
  | casW => exact execCasW_keeps s hC eR
  | faddW => exact execFaddW_keeps s hC eR
  | readB => exact execReadB_keeps s hC eR
  | writeB => exact execWriteB_keeps s hC eR
  | post => exact execPost_keeps s hC eR
  | peerRequestServe p => exact execPeerRequestServe_keeps p s hC eR
  | rangeBarrierRelease n => exact execRangeBarrierRelease_keeps n s hC eR
  | broadcast down kind bytes => exact execBroadcast_keeps down kind bytes s hC eR
  | rangeAdvance k others => exact execRangeAdvance_keeps k others s hC eR
  | rangeReset w => exact execRangeReset_keeps w s hC eR
  | cancel w => exact execCancel_keeps w s hC eR
  | recalibrationEnd p => exact execRecalibrationEnd_keeps p s hC eR
  | bootHoldEnd v => exact execBootHoldEnd_keeps v s hC eR
  | cragStageEnd => exact execCragStageEnd_keeps s hC eR
  | imageStageEnd => exact execImageStageEnd_keeps s hC eR
  | configStageEnd plls untrained => exact execConfigStageEnd_keeps plls untrained s hC eR
  | selftestStageEnd faults => exact execSelftestStageEnd_keeps faults s hC eR
  | loadStageEnd untested => exact execLoadStageEnd_keeps untested s hC eR
  | failedStartRestart => exact execFailedStartRestart_keeps s hC eR
  | bootWatchdogExpiry => exact execBootWatchdogExpiry_keeps s hC eR
  | saddleEntry => exact execSaddleEntry_keeps s hC eR
  | declareOperational w => exact execDeclareOperational_keeps w s hC eR
  | declareFail w => exact execDeclareFail_keeps w s hC eR
  | cfgStart w => exact execCfgStart_keeps w s hC eR
  | sadCtlGo w => exact execSadCtlGo_keeps w s hC eR
  | tileOffline w => exact execTileOffline_keeps w s hC eR
  | tileOnline w => exact execTileOnline_keeps w s hC eR
  | tileSelfTest w => exact execTileSelfTest_keeps w s hC eR
  | retireCore w => exact execRetireCore_keeps w s hC eR
  | cragSwitch w => exact execCragSwitch_keeps w s hC eR
  | ridgeLaneRecalibration w aMinute => exact execRidgeLaneRecalibration_keeps w aMinute s hC eR
  | voterSelfTestRequest w => exact execVoterSelfTestRequest_keeps w s hC eR
  | retireTile w => exact execRetireTile_keeps w s hC eR
  | unitOperationEnd faults v => exact execUnitOperationEnd_keeps faults v s hC eR
  | vinAonUp => exact execVinAonUp_keeps s hC eR
  | coreRailsUp seqErr => exact execCoreRailsUp_keeps seqErr s hC eR
  | resetLAssert => exact execResetLAssert_keeps s hC eR
  | resetLRelease => exact execResetLRelease_keeps s hC eR
  | perstLAssert => exact execPerstLAssert_keeps s hC eR
  | perstLRelease => exact execPerstLRelease_keeps s hC eR
  | vinAonLow below24 => exact execVinAonLow_keeps below24 s hC eR
  | railExcursion rail high measured => exact execRailExcursion_keeps rail high measured s hC eR
  | railStop rail => exact execRailStop_keeps rail s hC eR
  | railsRecovered => exact execRailsRecovered_keeps s hC eR
  | clockFault r => exact execClockFault_keeps r s hC eR
  | clockReturn r => exact execClockReturn_keeps r s hC eR
  | thermalSample readings => exact execThermalSample_keeps readings s hC eR
  | thermalStop q => exact execThermalStop_keeps q s hC eR
  | qclkRequest q w => exact execQclkRequest_keeps q w s hC eR
  | clockStep q => exact execClockStep_keeps q s hC eR
  | voltageSettle q => exact execVoltageSettle_keeps q s hC eR
  | delayMonitorCheck q short => exact execDelayMonitorCheck_keeps q short s hC eR
  | i3cWrite bytes => exact execI3cWrite_keeps bytes s hC eR
  | i3cRead => exact execI3cRead_keeps s hC eR
  | i3cTimeout => exact execI3cTimeout_keeps s hC eR
  | jtagInstruction j => exact execJtagInstruction_keeps j s hC eR
  | gdtWrite n w => exact execGdtWrite_keeps n w s hC eR
  | registerWrite off w => exact execRegisterWrite_keeps off w s hC eR
  | laneRecalibrationStart p lane => exact execLaneRecalibrationStart_keeps p lane s hC eR
  | flashReadTimeout => exact execFlashReadTimeout_keeps s hC eR
  | railReturn q neighbour => exact execRailReturn_keeps q neighbour s hC eR
  | crestOperationEnd => exact execCrestOperationEnd_keeps s hC eR
  | i3cAddressAssignment a => exact execI3cAddressAssignment_keeps a s hC eR
  | linkL1Entry => exact execLinkL1Entry_keeps s hC eR

end Sys2Proof.Machine
end

