-- ==== Sys2Proof/Laws/Run.lean ====
section
/-! SUPPORT. How an instruction runs: the steps of the instruction monad, the forms of R118, and the retirement of
a long operation whose own effect is known. -/

namespace Sys2Proof.Machine

open Sys2Proof

variable {α β : Type} {s t : State} {c : CoreId}

/-! ### Steps of the monad -/

theorem M.bind_ok {m : M α} {f : α → M β} {a : α} (h : m s = .ok (a, t)) : (m >>= f) s = f a t := by
  simp only [bind, StateT.bind, h, Except.bind]

theorem M.bind_error {m : M α} {f : α → M β} {x : Stop} (h : m s = .error x) : (m >>= f) s = .error x := by
  simp only [bind, StateT.bind, h, Except.bind]

@[simp] theorem M.pure_run (a : α) : (Pure.pure a : M α) s = .ok (a, s) := rfl
@[simp] theorem getC_run : getC c s = .ok (s.core c, s) := rfl
@[simp] theorem modC_run (f : Core → Core) : modC c f s = .ok ((), s.modCore c f) := rfl
@[simp] theorem regM_run (n : Nat) : regM c n s = .ok ((s.core c).getReg n, s) := rfl
@[simp] theorem setRegM_run (n : Nat) (w : Word) : setRegM c n w s = .ok ((), s.modCore c (fun k => k.setReg n w)) := rfl
@[simp] theorem setFlagsM_run (f : Tbl Bool) : setFlagsM c f s = .ok ((), withFlags s c f) := rfl
theorem drainM_run (h : Drains s c) : drainM c s = .ok ((), drainStores s c) := by
  unfold Drains at h; unfold drainM; rw [h]; rfl
@[simp] theorem freeM_run : freeM s = .ok (takeFree s) := rfl
@[simp] theorem trapM_run (x : Trap) : (trapM x : M α) s = .error (.trap x) := rfl
@[simp] theorem stopM_run (x : Stop) : (stopM x : M α) s = .error x := rfl

@[simp] theorem postB_run (r : ResB) : postB c r s = .ok ((), movedIndex s c r) := by
  unfold postB movedIndex; cases h : r.post <;> rfl

theorem atStep_ok {m : M α} {a : α} (n : Nat) (h : m s = .ok (a, t)) : atStep n m s = .ok (a, t) := by
  simp only [atStep, h]

theorem atStep_trap {m : M α} {x : Trap} (n : Nat) (h : m s = .error (.trap x)) :
    atStep n m s = .error (.trap (if x.step = 0 then { x with step := n } else x)) := by
  simp only [atStep, h]

/-- A step by itself, in a chain. -/
@[simp] theorem M.bind_getC (f : Core → M β) : (getC c >>= f) s = f (s.core c) s := rfl
@[simp] theorem M.bind_modC (g : Core → Core) (f : Unit → M β) : (modC c g >>= f) s = f () (s.modCore c g) := rfl
@[simp] theorem M.bind_regM (n : Nat) (f : Word → M β) : (regM c n >>= f) s = f ((s.core c).getReg n) s := rfl
@[simp] theorem M.bind_setRegM (n : Nat) (w : Word) (f : Unit → M β) :
    (setRegM c n w >>= f) s = f () (s.modCore c (fun k => k.setReg n w)) := rfl
@[simp] theorem M.bind_setFlagsM (x : Tbl Bool) (f : Unit → M β) :
    (setFlagsM c x >>= f) s = f () (withFlags s c x) := rfl
theorem M.bind_drainM (h : Drains s c) (f : Unit → M β) : (drainM c >>= f) s = f () (drainStores s c) :=
  M.bind_ok (drainM_run h)
@[simp] theorem M.bind_pure (a : α) (f : α → M β) : ((Pure.pure a : M α) >>= f) s = f a s := rfl
@[simp] theorem M.bind_trapM (x : Trap) (f : α → M β) : ((trapM x : M α) >>= f) s = .error (.trap x) := rfl
@[simp] theorem M.bind_freeM (f : Word → M β) : (freeM >>= f) s = f (takeFree s).1 (takeFree s).2 := rfl
@[simp] theorem M.bind_postB (r : ResB) (f : Unit → M β) : (postB c r >>= f) s = f () (movedIndex s c r) :=
  M.bind_ok (postB_run r)

/-! ### The forms -/

theorem bodyR_ok {op : Opcode} {l : Long} {f : CoreId → Word → Word → M Word} {s1 s3 s4 : State} {r : ResB} {b v : Word}
    (h : Operand op l c s1 r b s3) (hf : f c ((s3.core c).getReg l.ra.toNat) b s3 = .ok (v, s4)) :
    bodyR op l f c s1 = .ok (.seq, withResult s4 c r l.rd v) := by
  obtain ⟨s2, h1, h2⟩ := h.read
  unfold bodyR
  rw [M.bind_ok h1, M.bind_ok h2, M.bind_regM, M.bind_ok (atStep_ok 10 hf), M.bind_postB]
  rfl

theorem bodyU_ok {op : Opcode} {l : Long} {f : CoreId → Word → M Word} {s1 s3 s4 : State} {r : ResB} {b v : Word}
    (h : Operand op l c s1 r b s3) (hf : f c b s3 = .ok (v, s4)) :
    bodyU op l f c s1 = .ok (.seq, withResult s4 c r l.rd v) := bodyR_ok h hf

theorem bodyC_ok {op : Opcode} {l : Long} {f : CoreId → Word → Word → M Unit} {s1 s3 s4 : State} {r : ResB} {b : Word}
    (h : Operand op l c s1 r b s3) (hf : f c ((s3.core c).getReg l.ra.toNat) b s3 = .ok ((), s4)) :
    bodyC op l f c s1 = .ok (.seq, movedIndex s4 c r) := by
  obtain ⟨s2, h1, h2⟩ := h.read
  unfold bodyC
  rw [M.bind_ok h1, M.bind_ok h2, M.bind_regM, M.bind_ok (atStep_ok 10 hf)]
  simp

theorem bodyM_ok {op : Opcode} {l : Long} {f : CoreId → Word → Word → M Word} {s1 s3 s4 s5 : State} {r : ResB} {b v : Word}
    (h : Operand op l c s1 r b s3) (hf : f c ((s3.core c).getReg l.ra.toNat) b s3 = .ok (v, s4))
    (hw : writeB c r.b v s4 = .ok ((), s5)) : bodyM op l f c s1 = .ok (.seq, movedIndex s5 c r) := by
  obtain ⟨s2, h1, h2⟩ := h.read
  unfold bodyM
  rw [M.bind_ok h1, M.bind_ok h2, M.bind_regM, M.bind_ok (atStep_ok 10 hf), M.bind_ok hw]
  simp

/-! ### A long operation -/

theorem longSteps_ok {a : At} {op : Opcode} {l : Long} {s1 : State} {body : CoreId → M Flow} (h : Issues s a op l c s1) :
    longSteps op l body c (s.modCore c Core.landAll) = body c s1 := by
  unfold longSteps
  rw [M.bind_ok h.fetched, h.decoded]
  simp [h.holds]

/-- The operation retires when its effect is known. -/
theorem runLong_ok {a : At} {op : Opcode} {l : Long} {s1 s2 : State} {fl : Flow} {body : CoreId → M Flow}
    (h : Issues s a op l c s1) (hb : body c s1 = .ok (fl, s2)) :
    runLong s a op l body = retire s2 c (s.core c).pc (4 * l.parcels) fl := by
  have hs := h.source
  have h1 := (longSteps_ok (body := body) h).trans hb
  simp [runLong, runBody, hs, h.running, h.settled, h.calm, h.clean, applyChecks, strike, h1, retire]

/-- A trap in the effect is raised at the instruction. -/
theorem runLong_trap {a : At} {op : Opcode} {l : Long} {s1 : State} {x : Trap} {body : CoreId → M Flow}
    (h : Issues s a op l c s1) (hb : body c s1 = .error (.trap x)) (hx : x.step ≠ 1) :
    runLong s a op l body = raised s l c x := by
  have hs := h.source
  have h1 := (longSteps_ok (body := body) h).trans hb
  simp [runLong, runBody, hs, h.running, h.settled, h.calm, h.clean, applyChecks, strike, h1, stopAt, hx, raised]

/-! ### An operation that stands before its own effect -/

theorem Ready.value {a : At} {op : Opcode} {l : Long} {r : ResB} {x y v : Word} {s3 s4 : State}
    {f : CoreId → Word → Word → M Word} (h : Ready s a op l c r x y s3) (hf : f c x y s3 = .ok (v, s4)) :
    runLong s a op l (bodyR op l f) = done s l c r s4 v := by
  obtain ⟨⟨s1, hi, ho⟩, rfl⟩ := h
  exact runLong_ok hi (bodyR_ok ho hf)

theorem Ready.unary {a : At} {op : Opcode} {l : Long} {r : ResB} {x y v : Word} {s3 s4 : State}
    {f : CoreId → Word → M Word} (h : Ready s a op l c r x y s3) (hf : f c y s3 = .ok (v, s4)) :
    runLong s a op l (bodyU op l f) = done s l c r s4 v := h.value hf

theorem Ready.effect {a : At} {op : Opcode} {l : Long} {r : ResB} {x y : Word} {s3 s4 : State}
    {f : CoreId → Word → Word → M Unit} (h : Ready s a op l c r x y s3) (hf : f c x y s3 = .ok ((), s4)) :
    runLong s a op l (bodyC op l f) = doneC s l c r s4 := by
  obtain ⟨⟨s1, hi, ho⟩, rfl⟩ := h
  exact runLong_ok hi (bodyC_ok ho hf)

theorem Ready.update {a : At} {op : Opcode} {l : Long} {r : ResB} {x y v : Word} {s3 s4 s5 : State}
    {f : CoreId → Word → Word → M Word} (h : Ready s a op l c r x y s3) (hf : f c x y s3 = .ok (v, s4))
    (hw : writeB c r.b v s4 = .ok ((), s5)) : runLong s a op l (bodyM op l f) = doneC s l c r s5 := by
  obtain ⟨⟨s1, hi, ho⟩, rfl⟩ := h
  exact runLong_ok hi (bodyM_ok ho hf hw)

theorem Ready.valueTrap {a : At} {op : Opcode} {l : Long} {r : ResB} {x y : Word} {s3 : State} {t : Trap}
    {f : CoreId → Word → Word → M Word} (h : Ready s a op l c r x y s3) (hf : f c x y s3 = .error (.trap t))
    (ht : 1 < t.step) : runLong s a op l (bodyR op l f) = raised s l c t := by
  obtain ⟨⟨s1, hi, ho⟩, rfl⟩ := h
  obtain ⟨s2, h1, h2⟩ := ho.read
  refine runLong_trap hi ?_ (by omega)
  unfold bodyR
  rw [M.bind_ok h1, M.bind_ok h2, M.bind_regM, M.bind_error (atStep_trap 10 hf), if_neg (by omega)]

theorem Ready.effectTrap {a : At} {op : Opcode} {l : Long} {r : ResB} {x y : Word} {s3 : State} {t : Trap}
    {f : CoreId → Word → Word → M Unit} (h : Ready s a op l c r x y s3) (hf : f c x y s3 = .error (.trap t))
    (ht : 1 < t.step) : runLong s a op l (bodyC op l f) = raised s l c t := by
  obtain ⟨⟨s1, hi, ho⟩, rfl⟩ := h
  obtain ⟨s2, h1, h2⟩ := ho.read
  refine runLong_trap hi ?_ (by omega)
  unfold bodyC
  rw [M.bind_ok h1, M.bind_ok h2, M.bind_regM, M.bind_error (atStep_trap 10 hf), if_neg (by omega)]

theorem Located.runs {a : At} {op : Opcode} {l : Long} {al w ac : Nat} {r : ResB} {s2 s4 : State} {fl : Flow}
    {body : CoreId → M Flow} (h : Located s a op l c al w ac r s2)
    (hb : ∀ s1, resolveB c op.modes l al w ac s1 = .ok (r, s2) → body c s1 = .ok (fl, s4)) :
    runLong s a op l body = retire s4 c (s.core c).pc (4 * l.parcels) fl := by
  obtain ⟨s1, hi, hr⟩ := h.issued
  exact runLong_ok hi (hb s1 hr)

theorem dispatch_ok {g : Nat} {x : Word} {y : Option Word} (h : Admits s g x y) : dispatch g x y s = .ok ((), s) := by
  simp only [dispatch, beq_iff_eq, if_neg h]

end Sys2Proof.Machine
end

