-- ==== Sys2Proof/Tests/Slice0.lean ====
section
/-! SUPPORT. Tests: the checks of WellFormed, examples of the spec, and for every statement that has hypotheses a witness: a
state and operands that meet all of them together. A witness is checked by evaluation: a Boolean computes what the
hypotheses name, in their order, and a lemma for each kind of hypothesis says that it then holds. -/

namespace Sys2Proof.Tests

open Sys2Proof Sys2Proof.Machine

-- One theorem at a time: each waits for the kernel, and a thread for each would not fit in memory.
set_option Elab.async false

/-! ### The checks of WellFormed refuse -/

theorem test_full_write_ok : (Instr.registerWrite 8 ⟨.host, .full, -1#64⟩).wellFormed = true := by decide
theorem test_low_write_keeps_low : (Instr.registerWrite 8 ⟨.host, .low, 0x100000000#64⟩).wellFormed = false := by decide
theorem test_high_write_keeps_high : (Instr.cfgStart ⟨.host, .high, 0x5354#64⟩).wellFormed = false := by decide
theorem test_register_offset_range : (Instr.registerWrite 0x1000000 ⟨.host, .full, 0#64⟩).wellFormed = false := by decide
theorem test_register_offset_aligned : (Instr.registerWrite 4 ⟨.host, .full, 0#64⟩).wellFormed = false := by decide
theorem test_request_address_range : (MemReq.read .hre (2 ^ 44) 1).wf = false := by decide
theorem test_request_not_empty : (MemReq.read .hre 0 0).wf = false := by decide
theorem test_request_length : (MemReq.read .hre 0 257).wf = false := by decide
theorem test_request_write_not_empty : (MemReq.write .hre 0 []).wf = false := by decide
theorem test_request_write_range : (MemReq.write .hre (2 ^ 44) [0]).wf = false := by decide
theorem test_request_write_length : (MemReq.write .hre 0 (List.replicate 257 0)).wf = false := by decide +kernel
theorem test_scrub_aligned : (Instr.patrolScrub 8 0).wellFormed = false := by decide
theorem test_scrub_range : (Instr.patrolScrub (2 ^ 44) 0).wellFormed = false := by decide
theorem test_debug_access_aligned : (Instr.debugMemoryAccess 0 4 none).wellFormed = false := by decide
theorem test_debug_access_range : (Instr.debugMemoryAccess 0 (2 ^ 44) none).wellFormed = false := by decide
theorem test_sample_has_64 : (Instr.thermalSample []).wellFormed = false := by decide
theorem test_excursion_has_four : (Instr.railExcursion 0 true []).wellFormed = false := by decide
theorem test_frame_length : (Instr.frameReceive 0 ⟨true, true, 64, List.replicate 9217 0, none, 0⟩).wellFormed = false := by
  decide +kernel
theorem test_remap_page_range : (Instr.pageRemap (2 ^ 47) 0).wellFormed = false := by decide
theorem test_remap_target_range : (Instr.pageRemap 0 (2 ^ 44)).wellFormed = false := by decide

/-! ### Examples of the spec -/

/-- The dispatch task of file 04: CWP 5, BOTTOM 1, RESIDENT 5, dirty groups 1 to 5 and 12 to 17. -/
theorem test_cwp_register_example :
    ({ Core.reset with cwp := 5, bottom := 1, resident := 5,
                       reel := [1, 2, 3, 4, 5, 12, 13, 14, 15, 16, 17].map (fun g => (8 * g, fixN 0)) } : Core).cwpWord
      = 0x000000051503F03E#64 := by decide +kernel

/-- File 07: nine one-byte folds of "123456789" from 0xFFFF leave 0x29B1. -/
theorem test_crc16_example :
    (crcDescOf 0x0000000F00001021 true).map (fun d => crcFold d.1 0x313233343536373839 9 0xFFFF) = some 0x29B1 := by decide +kernel

/-- File 07: the CRC-32C of the same bytes, inverted at the end. -/
theorem test_crc32c_example :
    (crcDescOf 0x0000019F1EDC6F41 true).map (fun d => crcFold d.1 0x313233343536373839 9 0xFFFFFFFF ^^^ 0xFFFFFFFF)
      = some 0xE3069283 := by decide +kernel

/-- File 02: the first and the third word of the TILE entry of tile 9, online with its full 16 MiB. -/
theorem test_tile_entry_example :
    (tileEntry (State.reset.setUnit (uTile 9) stOnline) 9).getD 0 0 = 0x0000010009030102
      ∧ (tileEntry (State.reset.setUnit (uTile 9) stOnline) 9).getD 2 0 = 0x4000000009000000 := by decide +kernel

/-- File 21: at 118 degrees beside a neighbour at 71, quadrant 1 steps down 100 MHz and its THR reads 0b0010. -/
theorem test_neighbour_throttle_example :
    (match exec (.thermalSample (List.replicate 16 100 ++ List.replicate 16 118 ++ List.replicate 16 71 ++ List.replicate 16 100))
        (((State.reset.setF .cfgQclk 1 11 0 2000).setF .cfgQclk 1 27 16 2000).setR .cfgTherm 1 0x00006E0080000000#64) with
     | .next t => (t.fld .cfgQclk 1 43 40, t.fld .cfgQclk 1 27 16)
     | _ => (0, 0)) = (2, 1900) := by decide +kernel

/-- R86: g0 discards a write and reads T.NIL. -/
theorem test_g0_discards : (Core.reset.setReg 24 (fixN 5)).getReg 24 = nil := by decide +kernel

/-! ### How a witness is checked: a Boolean that computes what the hypotheses name, in order -/

theorem and_of {a b : Bool} {p q : Prop} (h : (a && b) = true) (hp : a = true → p) (hq : b = true → q) : p ∧ q := by
  simp only [Bool.and_eq_true] at h; exact ⟨hp h.1, hq h.2⟩

/-- A value named by an equation. -/
def eqB {α : Type} (e : α) (q : α → Bool) : Bool := q e
theorem eq_of {α : Type} {e : α} {q : α → Bool} {P : α → Prop} (h : eqB e q = true) (hp : ∀ v, q v = true → P v) :
    ∃ v, v = e ∧ P v := ⟨e, rfl, hp e h⟩
theorem eq_of' {α : Type} {e : α} {q : α → Bool} {P : α → Prop} (h : eqB e q = true) (hp : ∀ v, q v = true → P v) :
    ∃ v, e = v ∧ P v := ⟨e, rfl, hp e h⟩

/-- An effect that does not stop. -/
def okB {α : Type} (r : Except Stop (α × State)) (q : α → State → Bool) : Bool :=
  match r with | .ok (a, t) => q a t | .error _ => false
theorem ok_of {α : Type} {r : Except Stop (α × State)} {q : α → State → Bool} {P : α → State → Prop} (h : okB r q = true)
    (hp : ∀ a t, q a t = true → P a t) : ∃ a t, r = .ok (a, t) ∧ P a t := by
  unfold okB at h; split at h
  · exact ⟨_, _, rfl, hp _ _ h⟩
  · cases h
def okU (r : Except Stop (Unit × State)) (q : State → Bool) : Bool :=
  match r with | .ok (_, t) => q t | .error _ => false
theorem okU_of {r : Except Stop (Unit × State)} {q : State → Bool} {P : State → Prop} (h : okU r q = true)
    (hp : ∀ t, q t = true → P t) : ∃ t, r = .ok ((), t) ∧ P t := by
  unfold okU at h; split at h
  · exact ⟨_, rfl, hp _ h⟩
  · cases h
def okE {ε α : Type} (r : Except ε α) (q : α → Bool) : Bool := match r with | .ok a => q a | .error _ => false
theorem okE_of {ε α : Type} {r : Except ε α} {q : α → Bool} {P : α → Prop} (h : okE r q = true)
    (hp : ∀ a, q a = true → P a) : ∃ a, r = .ok a ∧ P a := by
  unfold okE at h; split at h
  · exact ⟨_, rfl, hp _ h⟩
  · cases h
def errE {ε α : Type} (r : Except ε α) (q : ε → Bool) : Bool := match r with | .error a => q a | .ok _ => false
theorem errE_of {ε α : Type} {r : Except ε α} {q : ε → Bool} {P : ε → Prop} (h : errE r q = true)
    (hp : ∀ a, q a = true → P a) : ∃ a, r = .error a ∧ P a := by
  unfold errE at h; split at h
  · exact ⟨_, rfl, hp _ h⟩
  · cases h
def someB {α : Type} (r : Option α) (q : α → Bool) : Bool := match r with | some a => q a | none => false
theorem some_of {α : Type} {r : Option α} {q : α → Bool} {P : α → Prop} (h : someB r q = true)
    (hp : ∀ a, q a = true → P a) : ∃ a, r = some a ∧ P a := by
  unfold someB at h; split at h
  · exact ⟨_, rfl, hp _ h⟩
  · cases h
def someP {α β : Type} (r : Option (α × β)) (q : α → β → Bool) : Bool := match r with | some (a, b) => q a b | none => false
theorem someP_of {α β : Type} {r : Option (α × β)} {q : α → β → Bool} {P : α → β → Prop} (h : someP r q = true)
    (hp : ∀ a b, q a b = true → P a b) : ∃ a b, r = some (a, b) ∧ P a b := by
  unfold someP at h; split at h
  · exact ⟨_, _, rfl, hp _ _ h⟩
  · cases h
def pairB {α β : Type} (r : α × β) (q : α → β → Bool) : Bool := q r.1 r.2
theorem pair_of {α β : Type} {r : α × β} {q : α → β → Bool} {P : α → β → Prop} (h : pairB r q = true)
    (hp : ∀ a b, q a b = true → P a b) : ∃ a b, r = (a, b) ∧ P a b := ⟨r.1, r.2, rfl, hp _ _ h⟩

/-- A core that issues. -/
def runsB (s : State) (a : At) (q : CoreId → Bool) : Bool :=
  match sourceCore s a.core with
  | some c => decide ((s.core c).mode = .running) && (decide (inWindowTrap (s.core c) = false) &&
      (decide (a.upset = .none) && (decide (a.cairn = []) && q c)))
  | none => false
theorem runs_of {s a q} {P : CoreId → Prop} (h : runsB s a q = true) (hp : ∀ c, q c = true → P c) :
    ∃ c, Runs s a c ∧ P c := by
  unfold runsB at h; split at h
  · simp only [Bool.and_eq_true, decide_eq_true_eq] at h; exact ⟨_, ⟨‹_›, h.1, h.2.1, h.2.2.1, h.2.2.2.1⟩, hp _ h.2.2.2.2⟩
  · cases h
/-- An operation before its own effect. -/
def issuesB (s : State) (a : At) (op : Opcode) (l : Long) (q : CoreId → State → Bool) : Bool :=
  runsB s a fun c => okU (fetchM c l.parcels 5 (l.word op) (s.modCore c Core.landAll)) fun s1 =>
    decide (decodeFault op l = none) && (ccHolds (s1.core c) l.cc.toNat && q c s1)
theorem issues_of {s a op l q} {P : CoreId → State → Prop} (h : issuesB s a op l q = true)
    (hp : ∀ c s1, q c s1 = true → P c s1) : ∃ c s1, Issues s a op l c s1 ∧ P c s1 := by
  obtain ⟨c, hr, hq⟩ := runs_of (P := fun c => okU _ _ = true) h fun c hc => hc
  obtain ⟨s1, h1, h2⟩ := okU_of (P := fun t => (decide _ && (_ && _)) = true) hq fun t ht => ht
  simp only [Bool.and_eq_true, decide_eq_true_eq] at h2
  exact ⟨c, s1, ⟨hr, h1, h2.1, h2.2.1⟩, hp _ _ h2.2.2⟩
def operandB (op : Opcode) (l : Long) (c : CoreId) (s1 : State) (q : ResB → Word → State → Bool) : Bool :=
  okB (resolveB c op.modes l 8 0 2 s1) fun r s2 => okB (readB c .read r.b s2) fun b s3 => q r b s3
theorem operand_of {op l c s1 q} {P : ResB → Word → State → Prop} (h : operandB op l c s1 q = true)
    (hp : ∀ r b s3, q r b s3 = true → P r b s3) : ∃ r b s3, Operand op l c s1 r b s3 ∧ P r b s3 := by
  obtain ⟨r, s2, h1, h2⟩ := ok_of (P := fun r s2 => okB _ _ = true) h fun _ _ ht => ht
  obtain ⟨b, s3, h3, h4⟩ := ok_of (P := fun b s3 => q r b s3 = true) h2 fun _ _ ht => ht
  exact ⟨r, b, s3, ⟨⟨s2, h1, h3⟩⟩, hp _ _ _ h4⟩
def readyB (s : State) (a : At) (op : Opcode) (l : Long) (q : CoreId → ResB → Word → Word → State → Bool) : Bool :=
  issuesB s a op l fun c s1 => operandB op l c s1 fun r y s3 => q c r ((s3.core c).getReg l.ra.toNat) y s3
theorem ready_of {s a op l q} {P : CoreId → ResB → Word → Word → State → Prop} (h : readyB s a op l q = true)
    (hp : ∀ c r x y s3, q c r x y s3 = true → P c r x y s3) : ∃ c r x y s3, Ready s a op l c r x y s3 ∧ P c r x y s3 := by
  obtain ⟨c, s1, hi, h1⟩ := issues_of (P := fun c s1 => operandB _ _ c s1 _ = true) h fun _ _ ht => ht
  obtain ⟨r, y, s3, ho, h2⟩ := operand_of (P := fun r y s3 => q c r _ y s3 = true) h1 fun _ _ _ ht => ht
  exact ⟨c, r, _, y, s3, ⟨⟨s1, hi, ho⟩, rfl⟩, hp _ _ _ _ _ h2⟩
def locatedB (s : State) (a : At) (op : Opcode) (l : Long) (al w ac : Nat) (q : CoreId → ResB → State → Bool) : Bool :=
  issuesB s a op l fun c s1 => okB (resolveB c op.modes l al w ac s1) fun r s2 => q c r s2
theorem located_of {s a op l al w ac q} {P : CoreId → ResB → State → Prop} (h : locatedB s a op l al w ac q = true)
    (hp : ∀ c r s2, q c r s2 = true → P c r s2) : ∃ c r s2, Located s a op l c al w ac r s2 ∧ P c r s2 := by
  obtain ⟨c, s1, hi, h1⟩ := issues_of (P := fun c s1 => okB _ _ = true) h fun _ _ ht => ht
  obtain ⟨r, s2, h2, h3⟩ := ok_of (P := fun r s2 => q c r s2 = true) h1 fun _ _ ht => ht
  exact ⟨c, r, s2, ⟨⟨s1, hi, h2⟩⟩, hp _ _ _ h3⟩
def landsB (s : State) (c : CoreId) (w : Word) : Bool :=
  decide (tagOf w = 0x30) && addressFormatOk w &&
    (match codeHolding s c (retAddr w) with | some (_, h, _) => hdrFmt h == retFmt w | none => false)
theorem lands_of {s c w} (h : landsB s c w = true) : Lands s c w := by
  simp only [landsB, Bool.and_eq_true, decide_eq_true_eq] at h
  obtain ⟨⟨h1, h2⟩, h3⟩ := h
  split at h3
  · next b hd ar e => exact ⟨h1, h2, b, hd, ar, e, by simpa using h3⟩
  · cases h3
theorem notLands_of {s c w} (h : (!landsB s c w) = true) : ¬ Lands s c w := by
  rintro ⟨h1, h2, b, hd, ar, e, h3⟩
  simp [landsB, h1, h2, e, h3] at h
theorem drains_of {s : State} {c : CoreId} (h : (!((s.core c).sbuf.any (fun e => writeWaits s c e.pa e.bytes.length))) = true) :
    Drains s c := by simpa [Drains] using h
def admitsB (s : State) (g : Nat) (x : Word) (y : Option Word) : Bool := decide (s.fld .cfgGdt (dispatchEntry g x y) 17 16 ≠ 2)
theorem admits_of {s : State} {g : Nat} {x : Word} {y : Option Word} (h : admitsB s g x y = true) : Admits s g x y := by
  simpa [admitsB, Admits] using h
def numbersB (c : CoreId) (x y : Word) (s : State) (q : Machine.Num → Machine.Num → State → Bool) : Bool :=
  okB (numOf c x s) fun a s1 => okB (numOf c y s1) fun b t => q a b t
theorem numbers_of {c x y s q} {P : Machine.Num → Machine.Num → State → Prop} (h : numbersB c x y s q = true)
    (hp : ∀ a b t, q a b t = true → P a b t) : ∃ a b t, Numbers c x y s a b t ∧ P a b t := by
  obtain ⟨a, s1, h1, h2⟩ := ok_of (P := fun a s1 => okB _ _ = true) h fun _ _ ht => ht
  obtain ⟨b, t, h3, h4⟩ := ok_of (P := fun b t => q a b t = true) h2 fun _ _ ht => ht
  exact ⟨a, b, t, ⟨⟨s1, h1, h3⟩⟩, hp _ _ _ h4⟩
/-- Two integers. -/
def intsB (c : CoreId) (x y : Word) (s : State) (q : Int → Int → State → Bool) : Bool :=
  numbersB c x y s fun a b t => match a, b with | .int i, .int j => q i j t | _, _ => false
theorem ints_of {c x y s q} {P : Int → Int → State → Prop} (h : intsB c x y s q = true)
    (hp : ∀ i j t, q i j t = true → P i j t) : ∃ i j t, Numbers c x y s (.int i) (.int j) t ∧ P i j t := by
  obtain ⟨a, b, t, h1, h2⟩ := numbers_of (P := fun a b t => (match a, b with | .int i, .int j => q i j t | _, _ => false) = true)
    h fun _ _ _ ht => ht
  split at h2
  · exact ⟨_, _, _, h1, hp _ _ _ h2⟩
  · cases h2
/-! What operand B is -/
def bRegB (b : OpB) (q : Nat → Bool) : Bool := match b with | .reg n => q n | _ => false
theorem bReg_of {b q} {P : Nat → Prop} (h : bRegB b q = true) (hp : ∀ n, q n = true → P n) : ∃ n, b = .reg n ∧ P n := by
  unfold bRegB at h; split at h
  · exact ⟨_, rfl, hp _ h⟩
  · cases h
def bWordB (b : OpB) (q : Nat → Bool → Bool) : Bool := match b with | .word n i => q n i | _ => false
theorem bWord_of {b q} {P : Nat → Bool → Prop} (h : bWordB b q = true) (hp : ∀ n i, q n i = true → P n i) :
    ∃ n i, b = .word n i ∧ P n i := by
  unfold bWordB at h; split at h
  · exact ⟨_, _, rfl, hp _ _ h⟩
  · cases h
def bByteB (b : OpB) (q : Nat → Bool → Bool) : Bool := match b with | .byte n i => q n i | _ => false
theorem bByte_of {b q} {P : Nat → Bool → Prop} (h : bByteB b q = true) (hp : ∀ n i, q n i = true → P n i) :
    ∃ n i, b = .byte n i ∧ P n i := by
  unfold bByteB at h; split at h
  · exact ⟨_, _, rfl, hp _ _ h⟩
  · cases h
def bForeignB (b : OpB) (q : Nat → Bool) : Bool := match b with | .foreign n => q n | _ => false
theorem bForeign_of {b q} {P : Nat → Prop} (h : bForeignB b q = true) (hp : ∀ n, q n = true → P n) :
    ∃ n, b = .foreign n ∧ P n := by
  unfold bForeignB at h; split at h
  · exact ⟨_, rfl, hp _ h⟩
  · cases h
def bBitsB (b : OpB) (q : Nat → Nat → Nat → Bool → Bool) : Bool := match b with | .bits n x y i => q n x y i | _ => false
theorem bBits_of {b q} {P : Nat → Nat → Nat → Bool → Prop} (h : bBitsB b q = true) (hp : ∀ n x y i, q n x y i = true → P n x y i) :
    ∃ n x y i, b = .bits n x y i ∧ P n x y i := by
  unfold bBitsB at h; split at h
  · exact ⟨_, _, _, _, rfl, hp _ _ _ _ h⟩
  · cases h
/-- An exchange of a known word. -/
def exchB (c : CoreId) (va : Nat) (s : State) (w : Word) (q : Word → State → Bool) : Bool :=
  !(s.core c).sbuf.any (fun e => writeWaits s c e.pa e.bytes.length) &&
  okB (loadWord c va .atomic (drainStores s c)) fun old s1 => okB (loadRaw c va .atomic s1) fun raw s2 =>
    mayOverwrite raw w && okU (atomicWrite c va (bytesOfWord w) true s2) fun t => q old t
theorem exch_of {c va s w q} {P : Word → State → Prop} (h : exchB c va s w q = true) (hp : ∀ o t, q o t = true → P o t) :
    ∃ o t, Exchanges c va s o w t ∧ P o t := by
  unfold exchB at h
  simp only [Bool.and_eq_true, Bool.not_eq_true'] at h
  obtain ⟨h0, h⟩ := h
  obtain ⟨old, s1, h1, h2⟩ := ok_of (P := fun a s1 => okB _ _ = true) h fun _ _ ht => ht
  obtain ⟨raw, s2, h3, h4⟩ := ok_of (P := fun a s2 => (_ && _) = true) h2 fun _ _ ht => ht
  simp only [Bool.and_eq_true] at h4
  obtain ⟨t, h5, h6⟩ := okU_of (P := fun t => q old t = true) h4.2 fun _ ht => ht
  exact ⟨old, t, ⟨h0, s1, raw, s2, h1, h3, h4.1, h5⟩, hp _ _ h6⟩
theorem notAdmits_of {s : State} {g : Nat} {x : Word} {y : Option Word} (h : (!admitsB s g x y) = true) : ¬ Admits s g x y := by
  simpa [admitsB, Admits] using h
/-- One number. -/
def intB (c : CoreId) (x : Word) (s : State) (q : Int → State → Bool) : Bool :=
  okB (numOf c x s) fun a t => match a with | .int i => q i t | _ => false
theorem int_of {c x s q} {P : Int → State → Prop} (h : intB c x s q = true)
    (hp : ∀ i t, q i t = true → P i t) : ∃ i t, numOf c x s = .ok (.int i, t) ∧ P i t := by
  obtain ⟨a, t, h1, h2⟩ := ok_of (P := fun a t => (match a with | .int i => q i t | _ => false) = true) h fun _ _ ht => ht
  split at h2
  · exact ⟨_, _, h1, hp _ _ h2⟩
  · cases h2
def fltB (c : CoreId) (x : Word) (s : State) (q : Nat → State → Bool) : Bool :=
  okB (numOf c x s) fun a t => match a with | .flt i => q i t | _ => false
theorem flt_of {c x s q} {P : Nat → State → Prop} (h : fltB c x s q = true)
    (hp : ∀ i t, q i t = true → P i t) : ∃ i t, numOf c x s = .ok (.flt i, t) ∧ P i t := by
  obtain ⟨a, t, h1, h2⟩ := ok_of (P := fun a t => (match a with | .flt i => q i t | _ => false) = true) h fun _ _ ht => ht
  split at h2
  · exact ⟨_, _, h1, hp _ _ h2⟩
  · cases h2

def okP {α β : Type} (r : Except Stop ((α × β) × State)) (q : α → β → State → Bool) : Bool :=
  match r with | .ok ((a, b), t) => q a b t | .error _ => false
theorem okP_of {α β : Type} {r : Except Stop ((α × β) × State)} {q : α → β → State → Bool} {P : α → β → State → Prop}
    (h : okP r q = true) (hp : ∀ a b t, q a b t = true → P a b t) : ∃ a b t, r = .ok ((a, b), t) ∧ P a b t := by
  unfold okP at h; split at h
  · exact ⟨_, _, _, rfl, hp _ _ _ h⟩
  · cases h
def searchesB (s : State) (c : CoreId) (l : Long) (y : Word)
    (q : Cq → Nat → Nat → Word → Word → Word → Found → State → Bool) : Bool :=
  !(s.core c).sbuf.any (fun e => writeWaits s c e.pa e.bytes.length) &&
  okB (openTable c l.ra.toNat (drainStores s c)) fun t s1 => okP (cirqueKey c l y s1) fun k0 k1 s2 =>
    okB (cirqueAt c t k0 k1 s2) fun x s3 => okB (cirqueFind c t x.1 x.2.1 x.2.2 k0 k1 s3) fun w s4 => q t x.1 x.2.1 x.2.2 k0 k1 w s4
theorem searches_of {s c l y q} {P : Cq → Nat → Nat → Word → Word → Word → Found → State → Prop}
    (h : searchesB s c l y q = true) (hp : ∀ t b fp ctrl k0 k1 w s4, q t b fp ctrl k0 k1 w s4 = true → P t b fp ctrl k0 k1 w s4) :
    ∃ t b fp ctrl k0 k1 w s4, Searches s c l y t b fp ctrl k0 k1 w s4 ∧ P t b fp ctrl k0 k1 w s4 := by
  unfold searchesB at h
  simp only [Bool.and_eq_true, Bool.not_eq_true'] at h
  obtain ⟨h0, h⟩ := h
  obtain ⟨t, s1, h1, h⟩ := ok_of (P := fun t s1 => okP _ _ = true) h fun _ _ ht => ht
  obtain ⟨k0, k1, s2, h2, h⟩ := okP_of (P := fun k0 k1 s2 => okB _ _ = true) h fun _ _ _ ht => ht
  obtain ⟨⟨b, fp, ctrl⟩, s3, h3, h⟩ := ok_of (P := fun x s3 => okB _ _ = true) h fun _ _ ht => ht
  obtain ⟨w, s4, h4, h⟩ := ok_of (P := fun w s4 => q t b fp ctrl k0 k1 w s4 = true) h fun _ _ ht => ht
  exact ⟨t, b, fp, ctrl, k0, k1, w, s4, ⟨h0, s1, s2, s3, h1, h2, h3, h4⟩, hp _ _ _ _ _ _ _ _ h⟩
def prefixedB (s : State) (a : At) (p : Pfx) (code : BitVec 8) (op : Opcode) (l : Long) (q : CoreId → State → Bool) : Bool :=
  runsB s a fun c => okU (fetchM c (1 + l.parcels) 5 (pfxWord p) (s.modCore c Core.landAll)) fun s1 =>
    decide (Opcode.ofCode code.toNat = some op) && (pfxFieldsOk p l && (decide (decodeFault op l = none) && q c s1))
theorem prefixed_of {s a p code op l q} {P : CoreId → State → Prop} (h : prefixedB s a p code op l q = true)
    (hp : ∀ c s1, q c s1 = true → P c s1) : ∃ c s1, Prefixed s a p code op l c s1 ∧ P c s1 := by
  obtain ⟨c, hr, hq⟩ := runs_of (P := fun c => okU _ _ = true) h fun c hc => hc
  obtain ⟨s1, h1, h2⟩ := okU_of (P := fun t => (decide _ && (_ && _)) = true) hq fun t ht => ht
  simp only [Bool.and_eq_true, decide_eq_true_eq] at h2
  exact ⟨c, s1, ⟨hr, h1, h2.1, h2.2.1, h2.2.2.1⟩, hp _ _ h2.2.2.2⟩
/-- A slot of a pair: done where its condition holds. -/
def iteB (p : Prop) [Decidable p] (m : M Unit) (s : State) (q : State → Bool) : Bool :=
  if p then okU (m s) q else q s
theorem ite_of {p : Prop} [Decidable p] {m : M Unit} {s : State} {q : State → Bool} {P : State → Prop} (h : iteB p m s q = true)
    (hp : ∀ t, q t = true → P t) : ∃ t, (if p then m s = .ok ((), t) else t = s) ∧ P t := by
  unfold iteB at h; split at h
  · obtain ⟨t, h1, h2⟩ := okU_of (P := fun t => q t = true) h fun _ ht => ht
    exact ⟨t, by simp only [*, if_true], hp _ h2⟩
  · exact ⟨s, by simp only [*, if_false], hp _ h⟩
def consB {α : Type} (l : List α) (q : α → List α → Bool) : Bool := match l with | x :: xs => q x xs | [] => false
theorem cons_of {α : Type} {l : List α} {q : α → List α → Bool} {P : α → List α → Prop} (h : consB l q = true)
    (hp : ∀ x xs, q x xs = true → P x xs) : ∃ x xs, l = x :: xs ∧ P x xs := by
  unfold consB at h; split at h
  · exact ⟨_, _, rfl, hp _ _ h⟩
  · cases h
def someT {α β γ : Type} (r : Option (α × β × γ)) (q : α → β → γ → Bool) : Bool := match r with | some (a, b, c) => q a b c | none => false
theorem someT_of {α β γ : Type} {r : Option (α × β × γ)} {q : α → β → γ → Bool} {P : α → β → γ → Prop} (h : someT r q = true)
    (hp : ∀ a b c, q a b c = true → P a b c) : ∃ a b c, r = some (a, b, c) ∧ P a b c := by
  unfold someT at h; split at h
  · exact ⟨_, _, _, rfl, hp _ _ _ h⟩
  · cases h
def okT {ε α β γ : Type} (r : Except ε (α × β × γ)) (q : α → β → γ → Bool) : Bool := match r with | .ok (a, b, c) => q a b c | .error _ => false
theorem okT_of {ε α β γ : Type} {r : Except ε (α × β × γ)} {q : α → β → γ → Bool} {P : α → β → γ → Prop} (h : okT r q = true)
    (hp : ∀ a b c, q a b c = true → P a b c) : ∃ a b c, r = .ok (a, b, c) ∧ P a b c := by
  unfold okT at h; split at h
  · exact ⟨_, _, _, rfl, hp _ _ _ h⟩
  · cases h
def okQ {ε α β : Type} (r : Except ε (α × β)) (q : α → β → Bool) : Bool := match r with | .ok (a, b) => q a b | .error _ => false
theorem okQ_of {ε α β : Type} {r : Except ε (α × β)} {q : α → β → Bool} {P : α → β → Prop} (h : okQ r q = true)
    (hp : ∀ a b, q a b = true → P a b) : ∃ a b, r = .ok (a, b) ∧ P a b := by
  unfold okQ at h; split at h
  · exact ⟨_, _, rfl, hp _ _ h⟩
  · cases h
/-- An effect under a condition. -/
def iteE {ε α : Type} (p : Prop) [Decidable p] (m : Except ε α) (s : α) (q : α → Bool) : Bool := if p then okE m q else q s
theorem iteE_of {ε α : Type} {p : Prop} [Decidable p] {m : Except ε α} {s : α} {q : α → Bool} {P : α → Prop} (h : iteE p m s q = true)
    (hp : ∀ t, q t = true → P t) : ∃ t, (if p then m = .ok t else t = s) ∧ P t := by
  unfold iteE at h; split at h
  · obtain ⟨t, h1, h2⟩ := okE_of (P := fun t => q t = true) h fun _ ht => ht
    exact ⟨t, by simp only [*, if_true], hp _ h2⟩
  · exact ⟨s, by simp only [*, if_false], hp _ h⟩
def doneB (w : Wrote) (q : State → Bool) : Bool := match w with | .done s => q s | _ => false
theorem done_of {w : Wrote} {q : State → Bool} {P : State → Prop} (h : doneB w q = true) (hp : ∀ s, q s = true → P s) :
    ∃ s, w = .done s ∧ P s := by
  unfold doneB at h; split at h
  · exact ⟨_, rfl, hp _ h⟩
  · cases h
def okO {ε α : Type} (r : Except ε (Option α)) (q : α → Bool) : Bool := match r with | .ok (some a) => q a | _ => false
theorem okO_of {ε α : Type} {r : Except ε (Option α)} {q : α → Bool} {P : α → Prop} (h : okO r q = true)
    (hp : ∀ a, q a = true → P a) : ∃ a, r = .ok (some a) ∧ P a := by
  unfold okO at h; split at h
  · exact ⟨_, rfl, hp _ h⟩
  · cases h
def errP {α β γ : Type} (r : Except (α × β) γ) (q : α → β → Bool) : Bool := match r with | .error (a, b) => q a b | _ => false
theorem errP_of {α β γ : Type} {r : Except (α × β) γ} {q : α → β → Bool} {P : α → β → Prop} (h : errP r q = true)
    (hp : ∀ a b, q a b = true → P a b) : ∃ a b, r = .error (a, b) ∧ P a b := by
  unfold errP at h; split at h
  · exact ⟨_, _, rfl, hp _ _ h⟩
  · cases h

/-! #### Commands that a unit finds -/

def unitAskedB (s : State) (w : SetupWrite) (op : Nat) (q : Nat → State → Bool) : Bool :=
  decide (acts w 63 = true) && (decide (mayReach s w.agent .cfgUnitctl 0 = true) && (decide (unitBusy s = false) &&
  (decide (bitsOf (written s .cfgUnitctl 0 w) 55 48 = op) && (decide ((storeSetup s .cfgUnitctl 0 w).fld .cfgUnitctl 0 55 48 = op) &&
    q ((storeSetup s .cfgUnitctl 0 w).fld .cfgUnitctl 0 39 32)
      (((storeSetup s .cfgUnitctl 0 w).setF .cfgUnitstat 0 55 48 op).setF .cfgUnitstat 0 47 40
        ((storeSetup s .cfgUnitctl 0 w).fld .cfgUnitctl 0 39 32))))))
theorem unitAsked_of {s w op q} {P : Nat → State → Prop} (h : unitAskedB s w op q = true)
    (hp : ∀ u t, q u t = true → P u t) : ∃ u t, UnitAsked s w op u t ∧ P u t := by
  simp only [unitAskedB, Bool.and_eq_true, decide_eq_true_eq] at h
  obtain ⟨h1, h2, h3, h4, h5, h6⟩ := h
  exact ⟨_, _, ⟨h1, h2, h3, h4, h5, rfl, rfl⟩, hp _ _ h6⟩

def cragFindsB (s : State) (op : Nat) (q : Nat → Nat → State → Bool) : Bool :=
  decide (cragUp s = true) && (decide (s.flag .crgMbox 0 63 = true) && (decide (hasSlot s .crag = true) &&
  someP (takeMessage s (heapSpace s) 6 (s.fld .crgMbox 0 46 4 * 16)) fun m0 s0 => pairB (trvHeal s0 m0) fun m s1 =>
    someB (commandVector s1 6 m) fun vec => someB (spaceWord s1 6 (heapSpace s1) (vec + 8)) fun w =>
      decide (isFix w = true) && (decide (bitsOf w 55 16 = 0) && (decide (bitsOf w 7 0 = op) && (decide (offered s1 op = true) &&
        q (bitsOf w 15 8) vec s1)))))
theorem cragFinds_of {s op q} {P : Nat → Nat → State → Prop} (h : cragFindsB s op q = true)
    (hp : ∀ v vec t, q v vec t = true → P v vec t) : ∃ v vec t, CragFinds s op v vec t ∧ P v vec t := by
  unfold cragFindsB at h
  simp only [Bool.and_eq_true, decide_eq_true_eq] at h
  obtain ⟨h1, h2, hs, h⟩ := h
  obtain ⟨m0, s0, e1, h⟩ := someP_of (P := fun m0 s0 => pairB (trvHeal s0 m0) _ = true) h fun _ _ ht => ht
  obtain ⟨m, s1, e2, h⟩ := pair_of (P := fun m s1 => someB (commandVector s1 6 m) _ = true) h fun _ _ ht => ht
  obtain ⟨vec, e3, h⟩ := some_of (P := fun vec => someB (spaceWord s1 6 (heapSpace s1) (vec + 8)) _ = true) h fun _ ht => ht
  obtain ⟨w, e4, h⟩ := some_of (P := fun w => (decide (isFix w = true) && (_ && (_ && (_ && q (bitsOf w 15 8) vec s1)))) = true) h fun _ ht => ht
  simp only [Bool.and_eq_true, decide_eq_true_eq] at h
  obtain ⟨a1, a2, a3, a4, h⟩ := h
  exact ⟨_, _, _, ⟨h1, h2, hs, ⟨m0, m, s0, e1, e2, e3⟩, ⟨w, e4, a1, a2, a3, rfl⟩, a4⟩, hp _ _ _ h⟩

def okR {ε α : Type} (r : Except ε (α × State)) (q : α → State → Bool) : Bool :=
  match r with | .ok (a, t) => q a t | .error _ => false
theorem okR_of {ε α : Type} {r : Except ε (α × State)} {q : α → State → Bool} {P : α → State → Prop} (h : okR r q = true)
    (hp : ∀ a t, q a t = true → P a t) : ∃ a t, r = .ok (a, t) ∧ P a t := by
  unfold okR at h; split at h
  · exact ⟨_, _, rfl, hp _ _ h⟩
  · cases h

def ridgeFindsB (s : State) (op : Nat) (q : Nat → Nat → RidgeMsg → Nat → State → Bool) : Bool :=
  decide (s.flag .rdgMbox 0 63 = true) && (decide (s.base.held = []) &&
  someP (takeMessage s (heapSpace s) 7 (s.fld .rdgMbox 0 46 4 * 16)) fun m0 s0 => pairB (trvHeal s0 m0) fun x s1 =>
    someB (commandVector s1 7 x) fun vec => someB (spaceWord s1 7 (heapSpace s1) (vec + 8)) fun w => decide (w = fixN op) &&
      okR (remoteTarget s1 vec s1) fun dst t => okR (remoteMessage op vec t) fun m s2 =>
        someB (routeTo s2 dst 4) fun p => decide (portRoom s2 p = true) && q vec dst m p s2)
theorem ridgeFinds_of {s op q} {P : Nat → Nat → RidgeMsg → Nat → State → Prop} (h : ridgeFindsB s op q = true)
    (hp : ∀ vec dst m p t, q vec dst m p t = true → P vec dst m p t) :
    ∃ vec dst m p t, RidgeFinds s op vec dst m p t ∧ P vec dst m p t := by
  unfold ridgeFindsB at h
  simp only [Bool.and_eq_true, decide_eq_true_eq] at h
  obtain ⟨h1, h2, h⟩ := h
  obtain ⟨m0, s0, e1, h⟩ := someP_of (P := fun m0 s0 => pairB (trvHeal s0 m0) _ = true) h fun _ _ ht => ht
  obtain ⟨x, s1, e2, h⟩ := pair_of (P := fun x s1 => someB (commandVector s1 7 x) _ = true) h fun _ _ ht => ht
  obtain ⟨vec, e3, h⟩ := some_of (P := fun vec => someB (spaceWord s1 7 (heapSpace s1) (vec + 8)) _ = true) h fun _ ht => ht
  obtain ⟨w, e4, h⟩ := some_of (P := fun w => (decide (w = fixN op) && _) = true) h fun _ ht => ht
  simp only [Bool.and_eq_true, decide_eq_true_eq] at h
  obtain ⟨a1, h⟩ := h
  obtain ⟨dst, t, e5, h⟩ := okR_of (P := fun dst t => okR (remoteMessage op vec t) _ = true) h fun _ _ ht => ht
  obtain ⟨m, s2, e6, h⟩ := okR_of (P := fun m s2 => someB (routeTo s2 dst 4) _ = true) h fun _ _ ht => ht
  obtain ⟨p, e7, h⟩ := some_of (P := fun p => (decide (portRoom s2 p = true) && _) = true) h fun _ ht => ht
  simp only [Bool.and_eq_true, decide_eq_true_eq] at h
  exact ⟨vec, dst, m, p, s2, ⟨h1, h2, ⟨m0, x, s0, s1, w, e1, e2, e3, e4, a1, t, e5, e6⟩, e7, h.1⟩, hp _ _ _ _ _ h.2⟩

def consP {α β : Type} (l : List (α × β)) (q : α → β → List (α × β) → Bool) : Bool :=
  match l with | (a, b) :: r => q a b r | [] => false
theorem consP_of {α β : Type} {l : List (α × β)} {q : α → β → List (α × β) → Bool} {P : α → β → List (α × β) → Prop}
    (h : consP l q = true) (hp : ∀ a b r, q a b r = true → P a b r) : ∃ a b r, l = (a, b) :: r ∧ P a b r := by
  unfold consP at h; split at h
  · exact ⟨_, _, _, rfl, hp _ _ _ h⟩
  · cases h
def servedB (r : Served) (q : Word → List Byte → State → Bool) : Bool := match r with | .done v bs t => q v bs t | _ => false
theorem served_of {r : Served} {q : Word → List Byte → State → Bool} {P : Word → List Byte → State → Prop}
    (h : servedB r q = true) (hp : ∀ v bs t, q v bs t = true → P v bs t) : ∃ v bs t, r = .done v bs t ∧ P v bs t := by
  unfold servedB at h; split at h
  · exact ⟨_, _, _, rfl, hp _ _ _ h⟩
  · cases h
def failedB (r : Served) (q : Nat → State → Bool) : Bool := match r with | .failed e t => q e t | _ => false
theorem failed_of {r : Served} {q : Nat → State → Bool} {P : Nat → State → Prop}
    (h : failedB r q = true) (hp : ∀ e t, q e t = true → P e t) : ∃ e t, r = .failed e t ∧ P e t := by
  unfold failedB at h; split at h
  · exact ⟨_, _, rfl, hp _ _ h⟩
  · cases h
def nextB (r : Out) (q : State → Bool) : Bool := match r with | .next t => q t | _ => false
theorem next_of {r : Out} {q : State → Bool} {P : State → Prop} (h : nextB r q = true) (hp : ∀ t, q t = true → P t) :
    ∃ t, r = .next t ∧ P t := by
  unfold nextB at h; split at h
  · exact ⟨_, rfl, hp _ h⟩
  · cases h
def trapB {α : Type} (r : Except Stop α) (q : Trap → Bool) : Bool := match r with | .error (.trap t) => q t | _ => false
theorem trap_of {α : Type} {r : Except Stop α} {q : Trap → Bool} {P : Trap → Prop} (h : trapB r q = true)
    (hp : ∀ t, q t = true → P t) : ∃ t, r = .error (.trap t) ∧ P t := by
  unfold trapB at h; split at h
  · exact ⟨_, rfl, hp _ h⟩
  · cases h
/-! #### A patch image of this part: the identity of its ROM and so its CRC are not known, so the words that hold them are kept apart -/

theorem readBytes_writeBytes_out (s : State) (a : Nat) (bs : List Byte) (n b : Nat) (h : b + n ≤ a ∨ a + bs.length ≤ b) :
    readBytes (writeBytes s a bs) b n = readBytes s b n := by
  induction n generalizing b with
  | zero => simp only [readBytes]
  | succ n ih =>
    simp only [readBytes]
    rw [ih (b + 1) (by omega), readByte_writeBytes_out _ _ _ _ (by omega)]
theorem readBytes_writeBytes (s : State) (a : Nat) (bs : List Byte) : readBytes (writeBytes s a bs) a bs.length = bs := by
  induction bs generalizing s a with
  | nil => rfl
  | cons x bs ih =>
    rw [List.length_cons, readBytes, writeBytes, ih, readByte_writeBytes_out _ _ _ _ (Or.inl (Nat.lt_succ_self a)), readByte_writeByte,
      if_pos rfl]
theorem n64_put (s : State) (a v : Nat) (h : v < 2 ^ 64) : n64 (writeBytes s a (toBytes 8 v)) a = v := by
  have e : n64 (writeBytes s a (toBytes 8 v)) a = ofBytes (toBytes 8 v) := congrArg ofBytes (readBytes_writeBytes s a (toBytes 8 v))
  rw [e]
  simp only [toBytes, ofBytes, BitVec.toNat_ofNat]
  omega
/-- An image at 0x2000 with the ROM_ID of the part and its own CRC. -/
def withRom (s : State) : State :=
  writeBytes (writeBytes s 0x2030 (toBytes 8 (0x10000 + 2 ^ 32 * Config.romId.toNat))) 0x2038
    (toBytes 8 (1 + 2 ^ 32 * (crc32c 0xFFFFFFFF#32 (readBytes s 0x2040 0x104) ^^^ 0xFFFFFFFF#32).toNat))
theorem readBytes_withRom (s : State) (n a : Nat) (h : a + n ≤ 0x2030 ∨ 0x2040 ≤ a) : readBytes (withRom s) a n = readBytes s a n := by
  have l : ∀ v, (toBytes 8 v).length = 8 := fun v => by simp only [toBytes, List.length_cons, List.length_nil]
  unfold withRom
  rw [readBytes_writeBytes_out _ _ _ _ _ (by rw [l]; omega), readBytes_writeBytes_out _ _ _ _ _ (by rw [l]; omega)]
theorem n64_withRom (s : State) (a : Nat) (h : a + 8 ≤ 0x2030 ∨ 0x2040 ≤ a) : n64 (withRom s) a = n64 s a :=
  congrArg ofBytes (readBytes_withRom s 8 a h)
theorem image_accepted (s : State) (h0 : accessible (withRom s) 0x2000 = true) (h1 : readWord s 0x2000 = mkHeader 0x22 6 0x124 5)
    (h2 : n64 s 0x2008 = 0x10) (h3 : n64 s 0x2020 = 0x313048435450434D) (h4 : n64 s 0x2028 = 0x742000B10001)
    (h5 : ∀ n, n < 32 → imageEntry s 0x2020 n = 0) : imageRefused (withRom s) 0x2000 = none := by
  have e1 : readWord (withRom s) 0x2000 = mkHeader 0x22 6 0x124 5 := by
    rw [← h1]; exact congrArg wordOfBytes (readBytes_withRom s 8 _ (by omega))
  have e2 : n64 (withRom s) 0x2008 = 0x10 := by rw [n64_withRom _ _ (by omega), h2]
  have e3 : n64 (withRom s) 0x2020 = 0x313048435450434D := by rw [n64_withRom _ _ (by omega), h3]
  have e4 : n64 (withRom s) 0x2028 = 0x742000B10001 := by rw [n64_withRom _ _ (by omega), h4]
  have e5 : n64 (withRom s) 0x2030 = 0x10000 + 2 ^ 32 * Config.romId.toNat := by
    have := Config.romId.isLt
    unfold withRom
    rw [n64, readBytes_writeBytes_out _ _ _ _ _ (by omega)]
    exact n64_put _ _ _ (by omega)
  have e6 : n64 (withRom s) 0x2038 = 1 + 2 ^ 32 * (crc32c 0xFFFFFFFF#32 (readBytes (withRom s) 0x2040 0x104) ^^^ 0xFFFFFFFF#32).toNat := by
    rw [readBytes_withRom _ _ _ (by omega)]
    exact n64_put _ _ _ (by have := (crc32c 0xFFFFFFFF#32 (readBytes s 0x2040 0x104) ^^^ 0xFFFFFFFF#32).isLt; omega)
  have e7 : ∀ n, imageEntry (withRom s) 0x2020 n = imageEntry s 0x2020 n := fun n => by
    unfold imageEntry; rw [n64_withRom _ _ (by omega)]
  generalize withRom s = t at *
  generalize hc : (crc32c 0xFFFFFFFF#32 (readBytes t 0x2040 0x104) ^^^ 0xFFFFFFFF#32).toNat = crc at e6
  have a1 : loadableCopy t 0x2000 = true := by
    simp only [loadableCopy, e1, h0, e2, show (0x2000 : Nat) + 8 = 0x2008 by rfl]; decide +kernel
  have w : imageWords t 0x2020 = 1 := by simp only [imageWords, show (0x2020 : Nat) + 0x18 = 0x2038 by rfl, e6]; omega
  have m : imageMatches t 0x2020 = 0 := by simp only [imageMatches, show (0x2020 : Nat) + 0x18 = 0x2038 by rfl, e6]; omega
  have v : 1 ≤ copyLevel t 0x2020 := by simp only [copyLevel, show (0x2020 : Nat) + 0x10 = 0x2030 by rfl, e5]; omega
  have a2 : imageShaped t 0x2020 (hdrLength (readWord t 0x2000)) = true := by
    have x : entriesOk t 0x2020 = true := by
      simp only [entriesOk, m, e7, List.all_eq_true, List.mem_range]
      intro n hn
      rw [h5 n hn]; rfl
    have y1 : (1 + 2 ^ 32 * crc) / 2 ^ 25 % 128 = 0 := by omega
    have y2 : (1 + 2 ^ 32 * crc) / 2 ^ 32 = crc := by omega
    simp only [imageShaped, e1, w, m, e3, x, show (0x2020 : Nat) + 0x18 = 0x2038 by rfl, show (0x2020 : Nat) + 0x20 = 0x2040 by rfl,
      show (0x100 : Nat) + 4 * 1 = 0x104 by rfl, e6, y1, y2, hc, decide_eq_true v, beq_self_eq_true, Bool.and_true]
    decide +kernel
  have a3 : imageTarget t 0x2020 = true := by
    simp only [imageTarget, show (0x2020 : Nat) + 8 = 0x2028 by rfl, show (0x2020 : Nat) + 0x10 = 0x2030 by rfl, e4, e5,
      show (0x10000 + 2 ^ 32 * Config.romId.toNat) / 2 ^ 32 = Config.romId.toNat by omega, beq_self_eq_true, Bool.and_true]
  simp only [imageRefused, show (0x2000 : Nat) + 32 = 0x2020 by rfl, a1, a2, a3]
  rfl

/-! ### Small states -/

def at0 : At := ⟨0, .none, .data 0x5A, []⟩
def core0 (regs : List (Nat × Word)) : Core :=
  regs.foldl (fun k x => k.setReg x.1 x.2) { Core.reset.setStatus 16 16 0 with mode := .running, pc := 0x30, area := some (0, 2 ^ 32) }
def mem0 (s : State) (ws : List (Nat × Word)) : State := ws.foldl (fun s x => writeWord s x.1 x.2) s
def tile0 : State := State.reset.setUnit (uTile 0) stOnline
/-- Core 0 runs at 0x30 of tile store 0, in space 0, with registers and memory words. -/
def st (regs : List (Nat × Word)) (ws : List (Nat × Word)) : State := (mem0 tile0 ws).setCore 0 (core0 regs)
def lg (rd ra mode rb : Nat) (e0 : Nat := 0) (cc : Nat := 0) (e1 : Nat := 0) : Long :=
  ⟨BitVec.ofNat 4 cc, BitVec.ofNat 5 rd, BitVec.ofNat 5 ra, BitVec.ofNat 4 mode, BitVec.ofNat 5 rb, BitVec.ofNat 32 e0, BitVec.ofNat 32 e1⟩
/-- A heap of four regions at 0x400000 whose tables lie at 0x200000, with a region of cons cells, one of small objects
and one of code in use. -/
def heap0 (s : State) : State :=
  mem0 (((s.setR .morHeapbase 0 0x400000#64).setR .morHeapsize 0 4#64).setR .morArea 0 0x200000#64)
    [(0x200000, withBits 0#64 55 53 1), (0x200008, withBits 0#64 55 53 2), (0x200010, withBits 0#64 55 53 5)]
def cursors0 : Tbl Nat := [(1, 0x400000), (2, 0x440000), (5, 0x480000)]
/-- As `st`, with that heap. -/
def sth (regs : List (Nat × Word)) (ws : List (Nat × Word)) : State :=
  (mem0 (heap0 tile0) ws).setCore 0 { core0 regs with alloc := cursors0 }
/-- As `st`, with the core changed before its registers are written. -/
def stc (f : Core → Core) (regs : List (Nat × Word)) (ws : List (Nat × Word)) : State :=
  (mem0 tile0 ws).setCore 0 (regs.foldl (fun k x => k.setReg x.1 x.2)
    (f { Core.reset.setStatus 16 16 0 with mode := .running, pc := 0x30, area := some (0, 2 ^ 32) }))
/-- An immutable code object at a, of n bytes, entry 0 (R71). -/
def code0 (a n : Nat) : List (Nat × Word) := [(a, mkHeader 0x20 3 5 1), (a + 8, fixN n)]
/-- A table of 16 buckets at 0x1000; the key T.FIX 5 belongs to bucket 1 with fingerprint 10072. -/
def table0 (ws : List (Nat × Word)) : List (Nat × Word) := [(0x1000, mkHeader 0x20 9 135 0), (0x1008, fixN 4), (0x1018, nil)] ++ ws
/-- The chain of bucket 1 holds the key, in the overflow vector at 0x2000; a second entry is free. -/
def chain0 (ctrl head : Nat) : List (Nat × Word) :=
  table0 [(0x1018, mkWord 0x11 0x2000), (0x1080, fixN ctrl), (0x2000, mkHeader 0x21 7 9 0), (0x2008, fixN 2), (0x2010, fixN head),
    (0x2018, nil), (0x2020, fixN 7)]
/-- A lower area at 0x1000 that RESTLO accepts. -/
def lower0 : List (Nat × Word) := [(0x1000, mkHeader 0x20 0xA 63 0), (0x1010, fixN (2 ^ 48 + 2 ^ 24))]
  ++ (List.range 8).map (fun i => (0x1088 + 8 * i, retWord 0 false))
/-- As `stc`, with a code object of each format, at 0x8000 and at 0x9000, in the directory. -/
def stj (f : Core → Core) (regs : List (Nat × Word)) : State :=
  { stc f regs (code0 0x8000 0x100 ++ [(0x9000, mkHeader 0x20 3 5 17), (0x9008, fixN 0x100)]) with codeObjs := [0x8000, 0x9000] }
/-- Handlers at a code object at 0x1000 for every cause, in a vector at 0x2000 (R222). -/
def handlers0 : List (Nat × Word) := code0 0x1000 16 ++ [(0x2000, mkHeader 0x21 7 64 0)]
  ++ (List.range 64).map (fun i => (0x2008 + 8 * i, mkWord 0x16 0x1000))
/-- As `stc`, with those handlers and the exception stack at 0x4000. -/
def sth0 (f : Core → Core) : State :=
  (stc f [(31, mkWord 0x32 0x4000)] handlers0).setR .cfgXtab 0 (BitVec.ofNat 64 (2 ^ 63 + 0x2000))
/-- The device after reset with units online, and a host write of a whole register. -/
def on (us : List Nat) : State := us.foldl (fun s u => s.setUnit u stOnline) State.reset
def sw (v : Nat) : SetupWrite := ⟨.host, .full, BitVec.ofNat 64 v⟩
def withCore (s : State) (f : Core → Core) : State := s.setCore 0 (f { Core.reset with mode := .running, pc := 0x30 })
/-- A heap of four regions at 0x400000 whose tables lie at 0x200000: region 0 holds an object of three slots that is
marked, region 1 has room for small objects. -/
def heapM (p : Nat) : State :=
  let s := mem0 ((((on [uTile 0, uTroika 0, uCore 0]).setR .morHeapbase 0 0x400000#64).setR .morHeapsize 0 4#64).setR .morArea 0 0x200000#64)
    [(0x200000, withBits 0#64 55 53 2), (0x200008, withBits 0#64 55 53 2), (0x400000, mkHeader 0x21 7 3 0)]
  (setMark (setStart { s with mor := { s.mor with cursors := [(2, 0x440000)] } } 0x400000 true) 0x400000).setF .morStat 0 63 61 p
/-- A mailbox of one slot at a that holds a message. -/
def box0 (a : Nat) (w : Word) : List (Nat × Word) :=
  [(a, mkHeader 0x20 8 6 0), (a + 8, fixN 1), (a + 16, fixN 1), (a + 24, fixN 0), (a + 0x30, w)]
/-- Space 1 maps the page of 0x400000 to page 0x100 through tables at pages 4, 5 and 6. -/
def map1 : List (Nat × Word) := [(0x10000, fixN (5 * 1024 + 3)), (0x14000, fixN (6 * 1024 + 3)), (0x18800, fixN (0x100 * 1024 + 0x29))]
def chan3 : State := { on [uChan 3] with sizes := [(uChan 3, 33554432)] }
def waits63 (s : State) : State := { s with evcWaits := [63] }
/-- A patch image of level 1 with one word at 0x2020, for a core of microcode version 0 (R258); its ROM_ID is 0 here. -/
def image0 : List (Nat × Word) :=
  [(0x2000, mkHeader 0x22 6 0x124 5), (0x2008, 0x10), (0x2020, 0x313048435450434D), (0x2028, 0x742000B10001), (0x2030, 0x10000),
    (0x2038, 0xECF39E0900000001)]
/-- Core 0 has that image to load. -/
def patchSt : State := withCore (mem0 (on [uCore 0, uTile 0]) image0) (fun k => { k with patch := some (.apply 0x2000) })
/-- Traverse channel 63 in state `st`, with units online and the link up. -/
def chn (c : Chan) (st : Nat) : State :=
  { (on [uTile 0]).setF .trvStat 63 63 61 st with chans := [(63, c)], pcie := { State.reset.pcie with link := true, bme := true } }
/-- A raw run of one element of n bytes from the host to the host. -/
def raw0 (n : Nat) : Chan := { Chan.empty with ctl := BitVec.ofNat 64 (2 ^ 61 + 3 * 2 ^ 58 + 3 * 2 ^ 55 + n * 2 ^ 11), cnta := 0x100000001#64, cntb := 1#64, granted := 1 }
/-- Ring 63 runs and its completion ring 0 has room; `f` is the descriptor to be performed. -/
def hst (fs : List Fetched) (post : Option Word := none) : State :=
  { ((((on [uTile 0, uHre, uCrag]).setF .hreSqstat 63 63 62 1).setR .hreCqcfg 0 (BitVec.ofNat 64 (2 ^ 63 + 4))).setF .hreCtl 0 63 63 1) with
    hre := { State.reset.hre with rings := [(63, ⟨0, fs, post, false⟩)] }
    pcie := { State.reset.pcie with link := true, bme := true } }
def desc0 (op : Nat) (p : List Nat) : Fetched := ⟨0, [BitVec.ofNat 64 op, 0] ++ p.map (BitVec.ofNat 64), [], .ready⟩
/-- Device table i is a vector at 0x1000 whose slot 0 holds w. -/
def dev (i : Nat) (w : Word) (ws : List (Nat × Word)) (s : State) : State :=
  mem0 (s.setR .hreDevtab i (BitVec.ofNat 64 (2 ^ 63 + 0x1000))) ([(0x1000, mkHeader 0x21 7 4 0), (0x1008, w)] ++ ws)
/-- The device in state `st` of a start, its supplies in range. -/
def bt (st : Nat) : State :=
  let s := (on [uCrag]).setF .basBoot 0 63 60 st
  { s with base := { s.base with held := [] } }
/-- A boot image of n bytes of sections in slot 0 that enables quadrant `q` with one channel; the flash is erased elsewhere. -/
def img0 (n q : Nat) (s : State) : State :=
  let head := (List.range 4).map (fun i => (0x18 + i, if i = 0 then BitVec.ofNat 8 n else 0))
  let config := (List.range 24).map (fun i => (0x20 + i, if i = 0 then BitVec.ofNat 8 q else 0))
  { s with flash := head ++ config ++ (List.range 200).map (fun i => (0x58 + i, if i = 8 then 1 else 0)) }
/-- A unit operation under way. -/
def unitOp (op unit : Nat) (s : State := bt 7) : State :=
  ((s.setF .cfgUnitstat 0 63 63 1).setF .cfgUnitstat 0 55 48 op).setF .cfgUnitstat 0 47 40 unit
def ask (op unit : Nat) : SetupWrite := sw (2 ^ 63 + op * 2 ^ 48 + unit * 2 ^ 32)
def swc (v : Nat) : SetupWrite := ⟨.core 0, .full, BitVec.ofNat 64 v⟩
/-- A command vector of a class at 0x3000 with its parameters, named by the one message of a mailbox at 0x2000. -/
def cmdv (cmd : Word) (ps : List Word) : List (Nat × Word) :=
  [(0x2000, mkHeader 0x20 8 6 0), (0x2008, fixN 1), (0x2010, fixN 1), (0x2018, fixN 0), (0x2030, mkWord 0x11 0x3000),
    (0x3000, mkHeader 0x21 7 12 0), (0x3008, cmd), (0x3010, nil), (0x3018, nil), (0x3020, nil), (0x3028, nil)] ++
  (List.range 7).map (fun i => (0x3030 + 8 * i, ps.getD i nil))
/-- Crag, with keys, finds that command; a byte vector of 4,096 bytes lies at 0x4000, and heap regions take objects. -/
def crg (cmd : Word) (ps : List Word) : State :=
  let s := mem0 (((((bt 7).setUnit (uTile 0) stOnline).setR .crgMbox 0 (BitVec.ofNat 64 (2 ^ 63 + 0x2000))).setR .morHeapbase 0 0x400000#64).setR
    .morHeapsize 0 4#64 |>.setR .morArea 0 0x200000#64) ([(0x4000, mkHeader 0x22 6 4096 0), (0x200008, withBits 0#64 55 53 2)] ++ cmdv cmd ps)
  { s with mor := { s.mor with cursors := [(2, 0x440000)] }
           crag := { s.crag with keys := [(0x100, ⟨1, 15, 0⟩), (0x101, ⟨3, 15, 1⟩)] } }
def bv : Word := mkWord 0x12 0x4000
def span (off n : Nat) : Word := fixN (off * 2 ^ 28 + n)
/-- Field port 7 is up. -/
def prt : State :=
  let s := ((bt 7).setUnit (uPort 7) stOnline).setF .netPcfg 7 63 63 1
  { s with net := { s.net with up := [7] } }
def frm (bs : List Byte) (wire : Nat) : RxFrame := ⟨true, true, wire, bs, none, 0⟩
def egr (s : State) : State := { s.setF .netEqcfg 63 2 0 7 with egress := [(63, [[1, 2]])] }
/-- Device 0 of a Range of two, its Ridge port 0 up. -/
def rdg : State := ((bt 7).setR .rdgRange 0 0x102#64).setF .rdgStat 0 63 62 2 |>.setUnit (uRidge 0) stOnline
/-- The same finds a remote request in RDG_MBOX. -/
def rem (op : Nat) (ps : List Word) : State :=
  mem0 ((rdg.setUnit (uTile 0) stOnline).setR .rdgMbox 0 (BitVec.ofNat 64 (2 ^ 63 + 0x2000)))
    ([(0x4000, mkHeader 0x22 6 4096 0)] ++ cmdv (fixN op) ps)
def rx (seq : Nat) (fec gcm : Bool) : RidgeRx := ⟨fec, gcm, BitVec.ofNat 16 seq, 0, false, 0, 1, 7, .reply 0 (fixN 0) [], false⟩
def prq (f : RidgeMsg) : State :=
  let s := rdg.setUnit (uTile 0) stOnline
  { s with ridge := { s.ridge with inbox := [(3, [⟨0, 1, 7, f, false⟩])] } }
def held0 (l : List Nat) : State := { bt 7 with base := { (bt 7).base with held := l } }
/-- Quadrant 3 asks for `req`, runs at `clk` and stands at voltage `v`. -/
def qd (req clk v : Nat) : State := (((bt 7).setF .cfgQclk 3 11 0 req).setF .cfgQclk 3 27 16 clk).setF .cfgQclk 3 36 32 v
def twCore : Core := Core.reset.setStatus 23 23 1
def fastCore : Core := Core.reset.setStatus 22 22 1

/-! ### The witnesses -/

/-- The hypotheses of Obligations.StepRunsFrontCommand are met. -/
theorem witness_StepRunsFrontCommand :
    (∃ (s : State), ∃ c rest, s.pending = c :: rest)
    ∧ (∃ (s : State), s.pending = []) := by
  refine ⟨?_, ?_⟩
  · have k : ∀ (s : State), (consB (s.pending) fun c rest => true) = true → ∃ c rest, s.pending = c :: rest := by
      intro s h
      obtain ⟨c, rest, h, -⟩ := cons_of (P := fun _ _ => True) h fun _ _ _ => trivial
      exact ⟨c, rest, h⟩
    exact ⟨{ State.reset with pending := [.resetLAssert, .vinAonUp] }, k _ (by decide +kernel)⟩
  · have k : ∀ (s : State), (decide (s.pending = [])) = true → s.pending = [] := by
      intro s h
      exact of_decide_eq_true h
    exact ⟨State.reset, k _ (by decide +kernel)⟩

/-- The hypotheses of Obligations.EveryStepKeepsMemoryCanonical are met. -/
theorem witness_EveryStepKeepsMemoryCanonical :
    ∃ (s : State), Memory.wf s.mem = true ∧ ∃ t, step s = .next t := by
  have k : ∀ (s : State), ((decide (Memory.wf s.mem = true)) && (nextB (step s) fun t => true)) = true → Memory.wf s.mem = true ∧ ∃ t, step s = .next t := by
    intro s h
    refine and_of h (fun h => of_decide_eq_true h) fun h => ?_
    obtain ⟨t, h, -⟩ := next_of (P := fun _ => True) h fun _ _ => trivial
    exact ⟨t, h⟩
  exact ⟨{ tile0 with pending := [.vinAonUp] }, k _ (by decide +kernel)⟩

/-- The hypotheses of Obligations.WritesChangeTheirBytes are met. -/
theorem witness_WritesChangeTheirBytes :
    (∃ (k : Nat), k < 8)
    ∧ (∃ (a : Nat) (bs : List Byte) (x : Nat), (x < a ∨ a + bs.length ≤ x))
    ∧ (∃ (a : Nat) (bs : List Byte) (x : Nat), (x < a ∨ a + bs.length ≤ x))
    ∧ (∃ (s : State) (a : Nat) (bs : List Byte) (i : Nat) (b : Byte), spanPoisoned s a bs.length = false ∧ bs[i]? = some b)
    ∧ (∃ (s : State) (a : Nat) (bs : List Byte), poisoned s a = true ∧ (¬ (a % 16 = 0 ∧ bs.length = 16)))
    ∧ (∃ (s : State) (a : Nat) (bs : List Byte), counterFailed s a = false ∧ a % 16 = 0 ∧ bs.length = 16) := by
  refine ⟨?_, ?_, ?_, ?_, ?_, ?_⟩
  · have k : ∀ (k : Nat), (decide (k < 8)) = true → k < 8 := by
      intro k h
      exact of_decide_eq_true h
    exact ⟨7, k _ (by decide +kernel)⟩
  · have k : ∀ (a : Nat) (bs : List Byte) (x : Nat), (decide (x < a ∨ a + bs.length ≤ x)) = true → (x < a ∨ a + bs.length ≤ x) := by
      intro a bs x h
      exact of_decide_eq_true h
    exact ⟨16, [1, 2], 15, k _ _ _ (by decide +kernel)⟩
  · have k : ∀ (a : Nat) (bs : List Byte) (x : Nat), (decide (x < a ∨ a + bs.length ≤ x)) = true → (x < a ∨ a + bs.length ≤ x) := by
      intro a bs x h
      exact of_decide_eq_true h
    exact ⟨16, [1, 2], 18, k _ _ _ (by decide +kernel)⟩
  · exact ⟨tile0, 15, [1, 2], 1, 2, by decide +kernel, rfl⟩
  · have k : ∀ (s : State) (a : Nat) (bs : List Byte), ((decide (poisoned s a = true)) && (decide (¬ (a % 16 = 0 ∧ bs.length = 16)))) = true → poisoned s a = true ∧ (¬ (a % 16 = 0 ∧ bs.length = 16)) := by
      intro s a bs h
      refine and_of h (fun h => of_decide_eq_true h) fun h => ?_
      exact of_decide_eq_true h
    exact ⟨{ tile0 with poison := [1] }, 16, [1, 2], k _ _ _ (by decide +kernel)⟩
  · have k : ∀ (s : State) (a : Nat) (bs : List Byte), ((decide (counterFailed s a = false)) && ((decide (a % 16 = 0)) && (decide (bs.length = 16)))) = true → counterFailed s a = false ∧ a % 16 = 0 ∧ bs.length = 16 := by
      intro s a bs h
      refine and_of h (fun h => of_decide_eq_true h) fun h => ?_
      refine and_of h (fun h => of_decide_eq_true h) fun h => ?_
      exact of_decide_eq_true h
    exact ⟨tile0, 16, List.replicate 16 1, k _ _ _ (by decide +kernel)⟩

/-- The hypotheses of Obligations.ReadsChangeOnlyCaches are met. -/
theorem witness_ReadsChangeOnlyCaches :
    (∃ (s : State) (c : CoreId) (va : Nat) (n : Nat) (acc : Acc) (ba : Bool), acc.writes = false ∧ ∃ bs s1, loadBytes c va n acc ba s = .ok (bs, s1))
    ∧ (∃ (s : State) (c : CoreId) (va : Nat) (n : Nat) (acc : Acc) (ba : Bool), acc.writes = false ∧ n ≤ 16384 - va % 16384 ∧ ∃ bs s1, loadBytes c va n acc ba s = .ok (bs, s1))
    ∧ (∃ (s : State) (c : CoreId) (va : Nat), ∃ s1, fetchParcel c va s = .ok ((), s1)) := by
  refine ⟨?_, ?_, ?_⟩
  · have k : ∀ (s : State) (c : CoreId) (va : Nat) (n : Nat) (acc : Acc) (ba : Bool), ((decide (acc.writes = false)) && (okB (loadBytes c va n acc ba s) fun bs s1 => true)) = true → acc.writes = false ∧ ∃ bs s1, loadBytes c va n acc ba s = .ok (bs, s1) := by
      intro s c va n acc ba h
      refine and_of h (fun h => of_decide_eq_true h) fun h => ?_
      obtain ⟨bs, s1, h, -⟩ := ok_of (P := fun _ _ => True) h fun _ _ _ => trivial
      exact ⟨bs, s1, h⟩
    exact ⟨st [] [], 0, 0x31, 1, .read, true, k _ _ _ _ _ _ (by decide +kernel)⟩
  · have k : ∀ (s : State) (c : CoreId) (va : Nat) (n : Nat) (acc : Acc) (ba : Bool), ((decide (acc.writes = false)) && ((decide (n ≤ 16384 - va % 16384)) && (okB (loadBytes c va n acc ba s) fun bs s1 => true))) = true → acc.writes = false ∧ n ≤ 16384 - va % 16384 ∧ ∃ bs s1, loadBytes c va n acc ba s = .ok (bs, s1) := by
      intro s c va n acc ba h
      refine and_of h (fun h => of_decide_eq_true h) fun h => ?_
      refine and_of h (fun h => of_decide_eq_true h) fun h => ?_
      obtain ⟨bs, s1, h, -⟩ := ok_of (P := fun _ _ => True) h fun _ _ _ => trivial
      exact ⟨bs, s1, h⟩
    exact ⟨st [] [], 0, 0x31, 1, .read, true, k _ _ _ _ _ _ (by decide +kernel)⟩
  · have k : ∀ (s : State) (c : CoreId) (va : Nat), (okU (fetchParcel c va s) fun s1 => true) = true → ∃ s1, fetchParcel c va s = .ok ((), s1) := by
      intro s c va h
      obtain ⟨s1, h, -⟩ := okU_of (P := fun _ => True) h fun _ _ => trivial
      exact ⟨s1, h⟩
    exact ⟨st [] [], 0, 0x30, k _ _ _ (by decide +kernel)⟩

/-- The hypotheses of Obligations.RegisterNumbersName are met. -/
theorem witness_RegisterNumbersName :
    (∃ (k : Core) (n : Nat), k.tw = false ∧ k.fb = false ∧ k.cwp < 12 ∧ n < 8)
    ∧ (∃ (k : Core) (n : Nat), k.tw = false ∧ k.fb = false ∧ k.cwp < 12 ∧ n < 8)
    ∧ (∃ (k : Core) (n : Nat), k.tw = false ∧ k.fb = false ∧ k.cwp < 12 ∧ n < 8)
    ∧ (∃ (k : Core) (n : Nat), k.tw = true ∧ n < 24 ∧ ((k.fb = false ∨ n < 8 ∨ 16 ≤ n)))
    ∧ (∃ (k : Core) (n : Nat), k.tw = true ∧ n < 24 ∧ ((k.fb = false ∨ n < 8 ∨ 16 ≤ n)))
    ∧ (∃ (k : Core) (n : Nat), k.tw = false ∧ k.fb = true ∧ k.cwp < 12 ∧ n < 8)
    ∧ (∃ (k : Core) (n : Nat), k.fb = true ∧ n < 8)
    ∧ (∃ (k : Core) (n : Nat), 0 < n ∧ n < 8)
    ∧ (∃ (n : Nat) (m : Nat), n < 32 ∧ m < 32 ∧ n ≠ 24) := by
  refine ⟨?_, ?_, ?_, ?_, ?_, ?_, ?_, ?_, ?_⟩
  · have k : ∀ (k : Core) (n : Nat), ((decide (k.tw = false)) && ((decide (k.fb = false)) && ((decide (k.cwp < 12)) && (decide (n < 8))))) = true → k.tw = false ∧ k.fb = false ∧ k.cwp < 12 ∧ n < 8 := by
      intro k n h
      refine and_of h (fun h => of_decide_eq_true h) fun h => ?_
      refine and_of h (fun h => of_decide_eq_true h) fun h => ?_
      refine and_of h (fun h => of_decide_eq_true h) fun h => ?_
      exact of_decide_eq_true h
    exact ⟨Core.reset, 7, k _ _ (by decide +kernel)⟩
  · have k : ∀ (k : Core) (n : Nat), ((decide (k.tw = false)) && ((decide (k.fb = false)) && ((decide (k.cwp < 12)) && (decide (n < 8))))) = true → k.tw = false ∧ k.fb = false ∧ k.cwp < 12 ∧ n < 8 := by
      intro k n h
      refine and_of h (fun h => of_decide_eq_true h) fun h => ?_
      refine and_of h (fun h => of_decide_eq_true h) fun h => ?_
      refine and_of h (fun h => of_decide_eq_true h) fun h => ?_
      exact of_decide_eq_true h
    exact ⟨Core.reset, 7, k _ _ (by decide +kernel)⟩
  · have k : ∀ (k : Core) (n : Nat), ((decide (k.tw = false)) && ((decide (k.fb = false)) && ((decide (k.cwp < 12)) && (decide (n < 8))))) = true → k.tw = false ∧ k.fb = false ∧ k.cwp < 12 ∧ n < 8 := by
      intro k n h
      refine and_of h (fun h => of_decide_eq_true h) fun h => ?_
      refine and_of h (fun h => of_decide_eq_true h) fun h => ?_
      refine and_of h (fun h => of_decide_eq_true h) fun h => ?_
      exact of_decide_eq_true h
    exact ⟨Core.reset, 7, k _ _ (by decide +kernel)⟩
  · have k : ∀ (k : Core) (n : Nat), ((decide (k.tw = true)) && ((decide (n < 24)) && (decide ((k.fb = false ∨ n < 8 ∨ 16 ≤ n))))) = true → k.tw = true ∧ n < 24 ∧ ((k.fb = false ∨ n < 8 ∨ 16 ≤ n)) := by
      intro k n h
      refine and_of h (fun h => of_decide_eq_true h) fun h => ?_
      refine and_of h (fun h => of_decide_eq_true h) fun h => ?_
      exact of_decide_eq_true h
    exact ⟨twCore, 0, k _ _ (by decide +kernel)⟩
  · have k : ∀ (k : Core) (n : Nat), ((decide (k.tw = true)) && ((decide (n < 24)) && (decide ((k.fb = false ∨ n < 8 ∨ 16 ≤ n))))) = true → k.tw = true ∧ n < 24 ∧ ((k.fb = false ∨ n < 8 ∨ 16 ≤ n)) := by
      intro k n h
      refine and_of h (fun h => of_decide_eq_true h) fun h => ?_
      refine and_of h (fun h => of_decide_eq_true h) fun h => ?_
      exact of_decide_eq_true h
    exact ⟨twCore, 23, k _ _ (by decide +kernel)⟩
  · have k : ∀ (k : Core) (n : Nat), ((decide (k.tw = false)) && ((decide (k.fb = true)) && ((decide (k.cwp < 12)) && (decide (n < 8))))) = true → k.tw = false ∧ k.fb = true ∧ k.cwp < 12 ∧ n < 8 := by
      intro k n h
      refine and_of h (fun h => of_decide_eq_true h) fun h => ?_
      refine and_of h (fun h => of_decide_eq_true h) fun h => ?_
      refine and_of h (fun h => of_decide_eq_true h) fun h => ?_
      exact of_decide_eq_true h
    exact ⟨fastCore, 7, k _ _ (by decide +kernel)⟩
  · have k : ∀ (k : Core) (n : Nat), ((decide (k.fb = true)) && (decide (n < 8))) = true → k.fb = true ∧ n < 8 := by
      intro k n h
      refine and_of h (fun h => of_decide_eq_true h) fun h => ?_
      exact of_decide_eq_true h
    exact ⟨fastCore, 7, k _ _ (by decide +kernel)⟩
  · have k : ∀ (k : Core) (n : Nat), ((decide (0 < n)) && (decide (n < 8))) = true → 0 < n ∧ n < 8 := by
      intro k n h
      refine and_of h (fun h => of_decide_eq_true h) fun h => ?_
      exact of_decide_eq_true h
    exact ⟨Core.reset, 7, k (Core.reset) _ (by decide +kernel)⟩
  · have k : ∀ (n : Nat) (m : Nat), ((decide (n < 32)) && ((decide (m < 32)) && (decide (n ≠ 24)))) = true → n < 32 ∧ m < 32 ∧ n ≠ 24 := by
      intro n m h
      refine and_of h (fun h => of_decide_eq_true h) fun h => ?_
      refine and_of h (fun h => of_decide_eq_true h) fun h => ?_
      exact of_decide_eq_true h
    exact ⟨31, 24, k _ _ (by decide +kernel)⟩

/-- The hypotheses of Obligations.OperandsOfTheInstruction are met. -/
theorem witness_OperandsOfTheInstruction :
    (∃ (set : ModeSet) (l : Long), l.mode = 0 ∧ set ≠ .none)
    ∧ (∃ (l : Long), l.mode = 1)
    ∧ (∃ (l : Long), l.mode = 2)
    ∧ (∃ (l : Long), l.mode = 3)
    ∧ (∃ (c : CoreId) (set : ModeSet) (l : Long) (al : Nat) (s : State), l.mode = 4 ∧ set ≠ .Y ∧ ∃ x s1, objectBase c l.rb.toNat s = .ok (x, s1) ∧ ∃ o s2, openObject c x 8 s1 = .ok (o, s2) ∧ ∃ i, i = l.ext0.toNat ∧ o.isBytes = false ∧ i < o.bound ∧ o.slotAddr i % al = 0 ∧ ∃ s3, s3 = s2)
    ∧ (∃ (c : CoreId) (set : ModeSet) (l : Long) (ac : Nat) (s : State), l.mode = 4 ∧ set ≠ .Y ∧ ∃ x s1, objectBase c l.rb.toNat s = .ok (x, s1) ∧ ∃ o s2, openObject c x 8 s1 = .ok (o, s2) ∧ ∃ i, i = l.ext0.toNat ∧ o.isBytes = false ∧ o.bound ≤ i ∧ ac ≠ 0) := by
  refine ⟨?_, ?_, ?_, ?_, ?_, ?_⟩
  · have k : ∀ (set : ModeSet) (l : Long), ((decide (l.mode = 0)) && (decide (set ≠ .none))) = true → l.mode = 0 ∧ set ≠ .none := by
      intro set l h
      refine and_of h (fun h => of_decide_eq_true h) fun h => ?_
      exact of_decide_eq_true h
    exact ⟨.V, lg 1 0 0 2 3, k _ _ (by decide +kernel)⟩
  · have k : ∀ (l : Long), (decide (l.mode = 1)) = true → l.mode = 1 := by
      intro l h
      exact of_decide_eq_true h
    exact ⟨lg 1 0 1 2 3, k _ (by decide +kernel)⟩
  · have k : ∀ (l : Long), (decide (l.mode = 2)) = true → l.mode = 2 := by
      intro l h
      exact of_decide_eq_true h
    exact ⟨lg 1 0 2 2 3, k _ (by decide +kernel)⟩
  · have k : ∀ (l : Long), (decide (l.mode = 3)) = true → l.mode = 3 := by
      intro l h
      exact of_decide_eq_true h
    exact ⟨lg 1 0 3 2 3, k _ (by decide +kernel)⟩
  · have k : ∀ (c : CoreId) (set : ModeSet) (l : Long) (al : Nat) (s : State), ((decide (l.mode = 4)) && ((decide (set ≠ .Y)) && (okB (objectBase c l.rb.toNat s) fun x s1 => okB (openObject c x 8 s1) fun o s2 => eqB (l.ext0.toNat) fun i => (decide (o.isBytes = false)) && ((decide (i < o.bound)) && ((decide (o.slotAddr i % al = 0)) && (eqB (s2) fun s3 => true)))))) = true → l.mode = 4 ∧ set ≠ .Y ∧ ∃ x s1, objectBase c l.rb.toNat s = .ok (x, s1) ∧ ∃ o s2, openObject c x 8 s1 = .ok (o, s2) ∧ ∃ i, i = l.ext0.toNat ∧ o.isBytes = false ∧ i < o.bound ∧ o.slotAddr i % al = 0 ∧ ∃ s3, s3 = s2 := by
      intro c set l al s h
      refine and_of h (fun h => of_decide_eq_true h) fun h => ?_
      refine and_of h (fun h => of_decide_eq_true h) fun h => ?_
      refine ok_of h fun x s1 h => ?_
      refine ok_of h fun o s2 h => ?_
      refine eq_of h fun i h => ?_
      refine and_of h (fun h => of_decide_eq_true h) fun h => ?_
      refine and_of h (fun h => of_decide_eq_true h) fun h => ?_
      refine and_of h (fun h => of_decide_eq_true h) fun h => ?_
      obtain ⟨s3, h, -⟩ := eq_of (P := fun _ => True) h fun _ _ => trivial
      exact ⟨s3, h⟩
    exact ⟨0, .V, lg 1 0 4 2 3, 8, st [(2, mkWord 0x11 0x1000)] [(0x1000, mkHeader 0x21 7 4 0)], k _ _ _ _ _ (by decide +kernel)⟩
  · have k : ∀ (c : CoreId) (set : ModeSet) (l : Long) (ac : Nat) (s : State), ((decide (l.mode = 4)) && ((decide (set ≠ .Y)) && (okB (objectBase c l.rb.toNat s) fun x s1 => okB (openObject c x 8 s1) fun o s2 => eqB (l.ext0.toNat) fun i => (decide (o.isBytes = false)) && ((decide (o.bound ≤ i)) && (decide (ac ≠ 0)))))) = true → l.mode = 4 ∧ set ≠ .Y ∧ ∃ x s1, objectBase c l.rb.toNat s = .ok (x, s1) ∧ ∃ o s2, openObject c x 8 s1 = .ok (o, s2) ∧ ∃ i, i = l.ext0.toNat ∧ o.isBytes = false ∧ o.bound ≤ i ∧ ac ≠ 0 := by
      intro c set l ac s h
      refine and_of h (fun h => of_decide_eq_true h) fun h => ?_
      refine and_of h (fun h => of_decide_eq_true h) fun h => ?_
      refine ok_of h fun x s1 h => ?_
      refine ok_of h fun o s2 h => ?_
      refine eq_of h fun i h => ?_
      refine and_of h (fun h => of_decide_eq_true h) fun h => ?_
      refine and_of h (fun h => of_decide_eq_true h) fun h => ?_
      exact of_decide_eq_true h
    exact ⟨0, .V, lg 1 0 4 2 3, 2, st [(2, mkWord 0x11 0x1000)] [(0x1000, mkHeader 0x21 7 3 0)], k _ _ _ _ _ (by decide +kernel)⟩

/-- The hypotheses of Obligations.FaultsBeforeTheEffect are met. -/
theorem witness_FaultsBeforeTheEffect :
    (∃ (s : State) (a : _) (op : Opcode) (l : Long) (body : CoreId → M Flow), ∃ c, Runs s a c ∧ ∃ s1, fetchM c l.parcels 5 (l.word op) (s.modCore c Core.landAll) = .ok ((), s1) ∧ decodeFault op l = none ∧ ccHolds (s1.core c) l.cc.toNat = false)
    ∧ (∃ (s : State) (a : _) (op : Opcode) (l : Long) (body : CoreId → M Flow), ∃ c, Runs s a c ∧ ∃ s1, fetchM c l.parcels 5 (l.word op) (s.modCore c Core.landAll) = .ok ((), s1) ∧ ∃ t, decodeFault op l = some t)
    ∧ (∃ (op : Opcode) (l : Long), fieldsOk op l = true ∧ l.mode = 3 ∧ isReservedTag (tagOf l.imm64) = true)
    ∧ (∃ (op : Opcode) (l : Long), fieldsOk op l = true ∧ l.mode = 3 ∧ isReservedTag (tagOf l.imm64) = false ∧ isImmediateTag (tagOf l.imm64) = false)
    ∧ (∃ (op : Opcode) (l : Long), fieldsOk op l = true ∧ l.mode = 3 ∧ isReservedTag (tagOf l.imm64) = false ∧ isImmediateTag (tagOf l.imm64) = true ∧ immediateOk l.imm64 = false)
    ∧ (∃ (s : State) (a : _) (op : Opcode) (l : Long) (b : Nat) (n : Nat) (i : Nat) (body : CoreId → M Flow), ∃ c, Runs s a c ∧ (s.core c).area = some (b, n) ∧ b ≤ (s.core c).pc ∧ i < l.parcels ∧ ∃ tr, tr = { cause := .illegalOp, sub := 5, step := 1, detail := l.word op } ∧ ∃ s1, fetchParcels c tr (some (b, n)) (s.core c).pc i (s.modCore c Core.landAll) = .ok ((), s1) ∧ b + n < (s.core c).pc + 4 * i + 4)
    ∧ (∃ (s : State) (a : _) (p : PairParcel) (b : Nat) (n : Nat) (i : Nat), ∃ c, Runs s a c ∧ (s.core c).area = some (b, n) ∧ b ≤ (s.core c).pc ∧ i < p.bytes / 4 ∧ ∃ tr, tr = { cause := .illegalOp, sub := 5, step := 1, detail := p.word } ∧ ∃ s1, fetchParcels c tr (some (b, n)) (s.core c).pc i (s.modCore c Core.landAll) = .ok ((), s1) ∧ b + n < (s.core c).pc + 4 * i + 4)
    ∧ (∃ (s : State) (a : _) (p : Pfx) (x : PfxBody) (b : Nat) (n : Nat) (i : Nat), ∃ c, Runs s a c ∧ (s.core c).area = some (b, n) ∧ b ≤ (s.core c).pc ∧ i < 1 + pfxParcels x ∧ ∃ tr, tr = { cause := .illegalOp, sub := 5, step := 1, detail := pfxWord p } ∧ ∃ s1, fetchParcels c tr (some (b, n)) (s.core c).pc i (s.modCore c Core.landAll) = .ok ((), s1) ∧ b + n < (s.core c).pc + 4 * i + 4) := by
  refine ⟨?_, ?_, ?_, ?_, ?_, ?_, ?_, ?_⟩
  · have k : ∀ (s : State) (a : _) (op : Opcode) (l : Long) (body : CoreId → M Flow), (runsB s a fun c => okU (fetchM c l.parcels 5 (l.word op) (s.modCore c Core.landAll)) fun s1 => (decide (decodeFault op l = none)) && (decide (ccHolds (s1.core c) l.cc.toNat = false))) = true → ∃ c, Runs s a c ∧ ∃ s1, fetchM c l.parcels 5 (l.word op) (s.modCore c Core.landAll) = .ok ((), s1) ∧ decodeFault op l = none ∧ ccHolds (s1.core c) l.cc.toNat = false := by
      intro s a op l body h
      refine runs_of h fun c h => ?_
      refine okU_of h fun s1 h => ?_
      refine and_of h (fun h => of_decide_eq_true h) fun h => ?_
      exact of_decide_eq_true h
    exact ⟨st [] [], at0, .mov, lg 1 0 0 3 0 1, bodyMov (lg 1 2 0 3), k _ _ _ _ (bodyMov (lg 1 2 0 3)) (by decide +kernel)⟩
  · have k : ∀ (s : State) (a : _) (op : Opcode) (l : Long) (body : CoreId → M Flow), (runsB s a fun c => okU (fetchM c l.parcels 5 (l.word op) (s.modCore c Core.landAll)) fun s1 => someB (decodeFault op l) fun t => true) = true → ∃ c, Runs s a c ∧ ∃ s1, fetchM c l.parcels 5 (l.word op) (s.modCore c Core.landAll) = .ok ((), s1) ∧ ∃ t, decodeFault op l = some t := by
      intro s a op l body h
      refine runs_of h fun c h => ?_
      refine okU_of h fun s1 h => ?_
      obtain ⟨t, h, -⟩ := some_of (P := fun _ => True) h fun _ _ => trivial
      exact ⟨t, h⟩
    exact ⟨st [] [], at0, .mov, lg 1 2 15 3, bodyMov (lg 1 2 0 3), k _ _ _ _ (bodyMov (lg 1 2 0 3)) (by decide +kernel)⟩
  · have k : ∀ (op : Opcode) (l : Long), ((decide (fieldsOk op l = true)) && ((decide (l.mode = 3)) && (decide (isReservedTag (tagOf l.imm64) = true)))) = true → fieldsOk op l = true ∧ l.mode = 3 ∧ isReservedTag (tagOf l.imm64) = true := by
      intro op l h
      refine and_of h (fun h => of_decide_eq_true h) fun h => ?_
      refine and_of h (fun h => of_decide_eq_true h) fun h => ?_
      exact of_decide_eq_true h
    exact ⟨.mov, ⟨0, 1, 0, 3, 0, 0, 0x3E000000#32⟩, k _ _ (by decide +kernel)⟩
  · have k : ∀ (op : Opcode) (l : Long), ((decide (fieldsOk op l = true)) && ((decide (l.mode = 3)) && ((decide (isReservedTag (tagOf l.imm64) = false)) && (decide (isImmediateTag (tagOf l.imm64) = false))))) = true → fieldsOk op l = true ∧ l.mode = 3 ∧ isReservedTag (tagOf l.imm64) = false ∧ isImmediateTag (tagOf l.imm64) = false := by
      intro op l h
      refine and_of h (fun h => of_decide_eq_true h) fun h => ?_
      refine and_of h (fun h => of_decide_eq_true h) fun h => ?_
      refine and_of h (fun h => of_decide_eq_true h) fun h => ?_
      exact of_decide_eq_true h
    exact ⟨.mov, ⟨0, 1, 0, 3, 0, 0, 0x11000000#32⟩, k _ _ (by decide +kernel)⟩
  · have k : ∀ (op : Opcode) (l : Long), ((decide (fieldsOk op l = true)) && ((decide (l.mode = 3)) && ((decide (isReservedTag (tagOf l.imm64) = false)) && ((decide (isImmediateTag (tagOf l.imm64) = true)) && (decide (immediateOk l.imm64 = false)))))) = true → fieldsOk op l = true ∧ l.mode = 3 ∧ isReservedTag (tagOf l.imm64) = false ∧ isImmediateTag (tagOf l.imm64) = true ∧ immediateOk l.imm64 = false := by
      intro op l h
      refine and_of h (fun h => of_decide_eq_true h) fun h => ?_
      refine and_of h (fun h => of_decide_eq_true h) fun h => ?_
      refine and_of h (fun h => of_decide_eq_true h) fun h => ?_
      refine and_of h (fun h => of_decide_eq_true h) fun h => ?_
      exact of_decide_eq_true h
    exact ⟨.mov, ⟨0, 1, 0, 3, 0, 1, 0x05000000#32⟩, k _ _ (by decide +kernel)⟩
  · have k : ∀ (s : State) (a : _) (op : Opcode) (l : Long) (b : Nat) (n : Nat) (i : Nat) (body : CoreId → M Flow), (runsB s a fun c => (decide ((s.core c).area = some (b, n))) && ((decide (b ≤ (s.core c).pc)) && ((decide (i < l.parcels)) && (eqB ({ cause := .illegalOp, sub := 5, step := 1, detail := l.word op }) fun tr => okU (fetchParcels c tr (some (b, n)) (s.core c).pc i (s.modCore c Core.landAll)) fun s1 => decide (b + n < (s.core c).pc + 4 * i + 4))))) = true → ∃ c, Runs s a c ∧ (s.core c).area = some (b, n) ∧ b ≤ (s.core c).pc ∧ i < l.parcels ∧ ∃ tr, tr = { cause := .illegalOp, sub := 5, step := 1, detail := l.word op } ∧ ∃ s1, fetchParcels c tr (some (b, n)) (s.core c).pc i (s.modCore c Core.landAll) = .ok ((), s1) ∧ b + n < (s.core c).pc + 4 * i + 4 := by
      intro s a op l b n i body h
      refine runs_of h fun c h => ?_
      refine and_of h (fun h => of_decide_eq_true h) fun h => ?_
      refine and_of h (fun h => of_decide_eq_true h) fun h => ?_
      refine and_of h (fun h => of_decide_eq_true h) fun h => ?_
      refine eq_of h fun tr h => ?_
      refine okU_of h fun s1 h => ?_
      exact of_decide_eq_true h
    exact ⟨(st [] []).modCore 0 (fun k => { k with area := some (0x20, 0x14) }), at0, .mov, lg 1 2 2 3, 0x20, 0x14, 1, bodyMov (lg 1 2 0 3), k _ _ _ _ _ _ _ (bodyMov (lg 1 2 0 3)) (by decide +kernel)⟩
  · have k : ∀ (s : State) (a : _) (p : PairParcel) (b : Nat) (n : Nat) (i : Nat), (runsB s a fun c => (decide ((s.core c).area = some (b, n))) && ((decide (b ≤ (s.core c).pc)) && ((decide (i < p.bytes / 4)) && (eqB ({ cause := .illegalOp, sub := 5, step := 1, detail := p.word }) fun tr => okU (fetchParcels c tr (some (b, n)) (s.core c).pc i (s.modCore c Core.landAll)) fun s1 => decide (b + n < (s.core c).pc + 4 * i + 4))))) = true → ∃ c, Runs s a c ∧ (s.core c).area = some (b, n) ∧ b ≤ (s.core c).pc ∧ i < p.bytes / 4 ∧ ∃ tr, tr = { cause := .illegalOp, sub := 5, step := 1, detail := p.word } ∧ ∃ s1, fetchParcels c tr (some (b, n)) (s.core c).pc i (s.modCore c Core.landAll) = .ok ((), s1) ∧ b + n < (s.core c).pc + 4 * i + 4 := by
      intro s a p b n i h
      refine runs_of h fun c h => ?_
      refine and_of h (fun h => of_decide_eq_true h) fun h => ?_
      refine and_of h (fun h => of_decide_eq_true h) fun h => ?_
      refine and_of h (fun h => of_decide_eq_true h) fun h => ?_
      refine eq_of h fun tr h => ?_
      refine okU_of h fun s1 h => ?_
      exact of_decide_eq_true h
    exact ⟨(st [] []).modCore 0 (fun k => { k with area := some (0x20, 0x14) }), at0, ⟨0, 0, some 0⟩, 0x20, 0x14, 1, k _ _ _ _ _ _ (by decide +kernel)⟩
  · have k : ∀ (s : State) (a : _) (p : Pfx) (x : PfxBody) (b : Nat) (n : Nat) (i : Nat), (runsB s a fun c => (decide ((s.core c).area = some (b, n))) && ((decide (b ≤ (s.core c).pc)) && ((decide (i < 1 + pfxParcels x)) && (eqB ({ cause := .illegalOp, sub := 5, step := 1, detail := pfxWord p }) fun tr => okU (fetchParcels c tr (some (b, n)) (s.core c).pc i (s.modCore c Core.landAll)) fun s1 => decide (b + n < (s.core c).pc + 4 * i + 4))))) = true → ∃ c, Runs s a c ∧ (s.core c).area = some (b, n) ∧ b ≤ (s.core c).pc ∧ i < 1 + pfxParcels x ∧ ∃ tr, tr = { cause := .illegalOp, sub := 5, step := 1, detail := pfxWord p } ∧ ∃ s1, fetchParcels c tr (some (b, n)) (s.core c).pc i (s.modCore c Core.landAll) = .ok ((), s1) ∧ b + n < (s.core c).pc + 4 * i + 4 := by
      intro s a p x b n i h
      refine runs_of h fun c h => ?_
      refine and_of h (fun h => of_decide_eq_true h) fun h => ?_
      refine and_of h (fun h => of_decide_eq_true h) fun h => ?_
      refine and_of h (fun h => of_decide_eq_true h) fun h => ?_
      refine eq_of h fun tr h => ?_
      refine okU_of h fun s1 h => ?_
      exact of_decide_eq_true h
    exact ⟨(st [] []).modCore 0 (fun k => { k with area := some (0x20, 0x14) }), at0, ⟨0, false, 0, 0⟩, .pair false, 0x20, 0x14, 1, k _ _ _ _ _ _ _ (by decide +kernel)⟩

/-- The hypotheses of Obligations.RetiringWritesOneRegister are met. -/
theorem witness_RetiringWritesOneRegister :
    ∃ (s0 : State) (l : Long) (c : CoreId) (r : ResB) (s : State) (v : Word), ∃ t, t = done s0 l c r s v := by
  have k : ∀ (s0 : State) (l : Long) (c : CoreId) (r : ResB) (s : State) (v : Word), (eqB (done s0 l c r s v) fun t => true) = true → ∃ t, t = done s0 l c r s v := by
    intro s0 l c r s v h
    obtain ⟨t, h, -⟩ := eq_of (P := fun _ => True) h fun _ _ => trivial
    exact ⟨t, h⟩
  exact ⟨st [] [], lg 31 1 0 2, 0, ⟨.reg 2, none⟩, st [] [], fixN 7, k _ _ _ _ _ _ (by decide +kernel)⟩

/-- The hypotheses of part 1 of Obligations.MovesComplete are met. -/
theorem witness_MovesComplete :
    (∃ (s : State) (a : _) (l : _), ∃ c r x y s3, Ready s a .mov l c r x y s3)
    ∧ (∃ (s : State) (a : _) (l : _), ∃ c r s2, Located s a .st l c 8 0 3 r s2 ∧ ∃ n, r.b = .reg n)
    ∧ (∃ (s : State) (a : _) (l : _), ∃ c r s2, Located s a .st l c 8 0 3 r s2 ∧ ∃ va w1, r.b = .word va w1 ∧ w1 = false ∧ ∃ w s3, healRegM c l.ra.toNat s2 = .ok (w, s3) ∧ ∃ s4, storeWord c va w s3 = .ok ((), s4))
    ∧ (∃ (s : State) (a : _) (l : _), ∃ c r s2, Located s a .swap l c 8 0 4 r s2 ∧ ∃ n, r.b = .reg n)
    ∧ (∃ (s : State) (a : _) (l : _), ∃ c r s2, Located s a .swap l c 8 0 4 r s2 ∧ ∃ va w1, r.b = .word va w1 ∧ w1 = false ∧ ∃ w s3, healRegM c l.ra.toNat s2 = .ok (w, s3) ∧ ∃ old s4, Exchanges c va s3 old w s4) := by
  refine ⟨?_, ?_, ?_, ?_, ?_⟩
  · have k : ∀ (s : State) (a : _) (l : _), (readyB s a .mov l fun c r x y s3 => true) = true → ∃ c r x y s3, Ready s a .mov l c r x y s3 := by
      intro s a l h
      obtain ⟨c, r, x, y, s3, h, -⟩ := ready_of (P := fun _ _ _ _ _ => True) h fun _ _ _ _ _ _ => trivial
      exact ⟨c, r, x, y, s3, h⟩
    exact ⟨st [(1, fixN 7)] [], at0, lg 2 0 0 1, k _ _ _ (by decide +kernel)⟩
  · have k : ∀ (s : State) (a : _) (l : _), (locatedB s a .st l 8 0 3 fun c r s2 => bRegB (r.b) fun n => true) = true → ∃ c r s2, Located s a .st l c 8 0 3 r s2 ∧ ∃ n, r.b = .reg n := by
      intro s a l h
      refine located_of h fun c r s2 h => ?_
      obtain ⟨n, h, -⟩ := bReg_of (P := fun _ => True) h fun _ _ => trivial
      exact ⟨n, h⟩
    exact ⟨st [(1, fixN 7)] [], at0, lg 0 1 0 2, k _ _ _ (by decide +kernel)⟩
  · have k : ∀ (s : State) (a : _) (l : _), (locatedB s a .st l 8 0 3 fun c r s2 => bWordB (r.b) fun va w1 => (decide (w1 = false)) && (okB (healRegM c l.ra.toNat s2) fun w s3 => okU (storeWord c va w s3) fun s4 => true)) = true → ∃ c r s2, Located s a .st l c 8 0 3 r s2 ∧ ∃ va w1, r.b = .word va w1 ∧ w1 = false ∧ ∃ w s3, healRegM c l.ra.toNat s2 = .ok (w, s3) ∧ ∃ s4, storeWord c va w s3 = .ok ((), s4) := by
      intro s a l h
      refine located_of h fun c r s2 h => ?_
      refine bWord_of h fun va w1 h => ?_
      refine and_of h (fun h => of_decide_eq_true h) fun h => ?_
      refine ok_of h fun w s3 h => ?_
      obtain ⟨s4, h, -⟩ := okU_of (P := fun _ => True) h fun _ _ => trivial
      exact ⟨s4, h⟩
    exact ⟨st [(1, fixN 7), (2, mkWord 0x32 0x1000)] [], at0, lg 0 1 8 2 8, k _ _ _ (by decide +kernel)⟩
  · have k : ∀ (s : State) (a : _) (l : _), (locatedB s a .swap l 8 0 4 fun c r s2 => bRegB (r.b) fun n => true) = true → ∃ c r s2, Located s a .swap l c 8 0 4 r s2 ∧ ∃ n, r.b = .reg n := by
      intro s a l h
      refine located_of h fun c r s2 h => ?_
      obtain ⟨n, h, -⟩ := bReg_of (P := fun _ => True) h fun _ _ => trivial
      exact ⟨n, h⟩
    exact ⟨st [(1, fixN 7)] [], at0, lg 3 1 0 2, k _ _ _ (by decide +kernel)⟩
  · have k : ∀ (s : State) (a : _) (l : _), (locatedB s a .swap l 8 0 4 fun c r s2 => bWordB (r.b) fun va w1 => (decide (w1 = false)) && (okB (healRegM c l.ra.toNat s2) fun w s3 => exchB c va s3 w fun old s4 => true)) = true → ∃ c r s2, Located s a .swap l c 8 0 4 r s2 ∧ ∃ va w1, r.b = .word va w1 ∧ w1 = false ∧ ∃ w s3, healRegM c l.ra.toNat s2 = .ok (w, s3) ∧ ∃ old s4, Exchanges c va s3 old w s4 := by
      intro s a l h
      refine located_of h fun c r s2 h => ?_
      refine bWord_of h fun va w1 h => ?_
      refine and_of h (fun h => of_decide_eq_true h) fun h => ?_
      refine ok_of h fun w s3 h => ?_
      obtain ⟨old, s4, h, -⟩ := exch_of (P := fun _ _ => True) h fun _ _ _ => trivial
      exact ⟨old, s4, h⟩
    exact ⟨st [(1, fixN 7), (2, mkWord 0x32 0x1000)] [], at0, lg 3 1 8 2 8, k _ _ _ (by decide +kernel)⟩

/-- The hypotheses of part 2 of Obligations.MovesComplete are met. -/
theorem witness_ImmutableStoresTrap :
    (∃ (s : State) (a : _) (l : _), ∃ c r s2, Located s a .st l c 8 0 3 r s2 ∧ ∃ va w1, r.b = .word va w1 ∧ w1 = true ∧ ∃ w s3, healRegM c l.ra.toNat s2 = .ok (w, s3))
    ∧ (∃ (s : State) (a : _) (l : _), ∃ c r s2, Located s a .stb l c 1 0 3 r s2 ∧ ∃ va w1, r.b = .byte va w1 ∧ w1 = true ∧ ∃ w, (s2.core c).getReg l.ra.toNat = w ∧ isFix w = true)
    ∧ (∃ (s : State) (a : _) (l : _), ∃ c r s2, Located s a .swap l c 8 0 4 r s2 ∧ ∃ va w1, r.b = .word va w1 ∧ w1 = true ∧ ∃ w s3, healRegM c l.ra.toNat s2 = .ok (w, s3) ∧ ∃ old s4, loadWord c va .atomic (drainStores s3 c) = .ok (old, s4) ∧ Drains s3 c) := by
  refine ⟨?_, ?_, ?_⟩
  · have k : ∀ (s : State) (a : _) (l : _), (locatedB s a .st l 8 0 3 fun c r s2 => bWordB (r.b) fun va w1 => (decide (w1 = true)) && (okB (healRegM c l.ra.toNat s2) fun w s3 => true)) = true → ∃ c r s2, Located s a .st l c 8 0 3 r s2 ∧ ∃ va w1, r.b = .word va w1 ∧ w1 = true ∧ ∃ w s3, healRegM c l.ra.toNat s2 = .ok (w, s3) := by
      intro s a l h
      refine located_of h fun c r s2 h => ?_
      refine bWord_of h fun va w1 h => ?_
      refine and_of h (fun h => of_decide_eq_true h) fun h => ?_
      obtain ⟨w, s3, h, -⟩ := ok_of (P := fun _ _ => True) h fun _ _ _ => trivial
      exact ⟨w, s3, h⟩
    exact ⟨st [(1, fixN 7), (2, mkWord 0x11 0x1000)] [(0x1000, mkHeader 0x21 7 3 1)], at0, lg 0 1 4 2 2, k _ _ _ (by decide +kernel)⟩
  · have k : ∀ (s : State) (a : _) (l : _), (locatedB s a .stb l 1 0 3 fun c r s2 => bByteB (r.b) fun va w1 => (decide (w1 = true)) && (eqB ((s2.core c).getReg l.ra.toNat) fun w => decide (isFix w = true))) = true → ∃ c r s2, Located s a .stb l c 1 0 3 r s2 ∧ ∃ va w1, r.b = .byte va w1 ∧ w1 = true ∧ ∃ w, (s2.core c).getReg l.ra.toNat = w ∧ isFix w = true := by
      intro s a l h
      refine located_of h fun c r s2 h => ?_
      refine bByte_of h fun va w1 h => ?_
      refine and_of h (fun h => of_decide_eq_true h) fun h => ?_
      refine eq_of' h fun w h => ?_
      exact of_decide_eq_true h
    exact ⟨st [(1, fixN 7), (2, mkWord 0x12 0x1000)] [(0x1000, mkHeader 0x22 6 16 1)], at0, lg 0 1 4 2 15, k _ _ _ (by decide +kernel)⟩
  · have k : ∀ (s : State) (a : _) (l : _), (locatedB s a .swap l 8 0 4 fun c r s2 => bWordB (r.b) fun va w1 => (decide (w1 = true)) && (okB (healRegM c l.ra.toNat s2) fun w s3 => okB (loadWord c va .atomic (drainStores s3 c)) fun old s4 => !((s3.core c).sbuf.any (fun e => writeWaits s3 c e.pa e.bytes.length)))) = true → ∃ c r s2, Located s a .swap l c 8 0 4 r s2 ∧ ∃ va w1, r.b = .word va w1 ∧ w1 = true ∧ ∃ w s3, healRegM c l.ra.toNat s2 = .ok (w, s3) ∧ ∃ old s4, loadWord c va .atomic (drainStores s3 c) = .ok (old, s4) ∧ Drains s3 c := by
      intro s a l h
      refine located_of h fun c r s2 h => ?_
      refine bWord_of h fun va w1 h => ?_
      refine and_of h (fun h => of_decide_eq_true h) fun h => ?_
      refine ok_of h fun w s3 h => ?_
      refine ok_of h fun old s4 h => ?_
      exact drains_of h
    exact ⟨st [(1, fixN 7), (2, mkWord 0x11 0x1000)] [(0x1000, mkHeader 0x21 7 3 1)], at0, lg 3 1 4 2 0, k _ _ _ (by decide +kernel)⟩

/-- The hypotheses of Obligations.ByteAndFieldMovesComplete are met. -/
theorem witness_ByteAndFieldMovesComplete :
    (∃ (s : State) (a : _) (l : _), ∃ c r s2, Located s a .ldb l c 1 0 2 r s2 ∧ ∃ va imm, r.b = .byte va imm ∧ ∃ bs s3, loadBytes c va 1 .read true s2 = .ok (bs, s3))
    ∧ (∃ (s : State) (a : _) (l : _) (b : _), ∃ c r s2, Located s a .ldb l c 1 0 2 r s2 ∧ ∃ off, r.b = .foreign off ∧ a.host = .data b ∧ s2.pcie.link = true)
    ∧ (∃ (s : State) (a : _) (l : _), ∃ c r s2, Located s a .stb l c 1 0 3 r s2 ∧ ∃ va w1, r.b = .byte va w1 ∧ w1 = false ∧ ∃ w, (s2.core c).getReg l.ra.toNat = w ∧ isFix w = true ∧ ∃ s3, storeBytesM c va [BitVec.ofNat 8 (valOf w)] s2 = .ok ((), s3))
    ∧ (∃ (s : State) (a : _) (l : _), ∃ c r s2, Located s a .stb l c 1 0 3 r s2 ∧ ∃ off, r.b = .foreign off ∧ ∃ w, (s2.core c).getReg l.ra.toNat = w ∧ isFix w = true)
    ∧ (∃ (s : State) (a : _) (l : _), ∃ c s1, Issues s a .ldbit l c s1 ∧ ∃ w, (s1.core c).getReg l.ra.toNat = w ∧ isFix w = true ∧ 1 ≤ valOf w ∧ valOf w ≤ 56 ∧ ∃ r s2, resolveB c Opcode.ldbit.modes l 1 (valOf w) 2 s1 = .ok (r, s2) ∧ ∃ va lo n imm, r.b = .bits va lo n imm ∧ ∃ bs s3, loadBytes c va 16 .read true s2 = .ok (bs, s3))
    ∧ (∃ (s : State) (a : _) (l : _), ∃ c s1, Issues s a .stbit l c s1 ∧ ∃ w, (s1.core c).getReg l.rd.toNat = w ∧ isFix w = true ∧ 1 ≤ valOf w ∧ valOf w ≤ 56 ∧ ∃ x, (s1.core c).getReg l.ra.toNat = x ∧ isFix x = true ∧ ∃ r s2, resolveB c Opcode.stbit.modes l 1 (valOf w) 4 s1 = .ok (r, s2) ∧ ∃ va lo n w1, r.b = .bits va lo n w1 ∧ w1 = false ∧ ∃ bs s3, loadBytes c va 16 .atomic true (drainStores s2 c) = .ok (bs, s3) ∧ ∃ s4, atomicWrite c va (toBytes 16 (ofBytes bs - ofBytes bs / 2 ^ lo % 2 ^ n * 2 ^ lo + valOf x % 2 ^ n * 2 ^ lo)) false s3 = .ok ((), s4) ∧ Drains s2 c) := by
  refine ⟨?_, ?_, ?_, ?_, ?_, ?_⟩
  · have k : ∀ (s : State) (a : _) (l : _), (locatedB s a .ldb l 1 0 2 fun c r s2 => bByteB (r.b) fun va imm => okB (loadBytes c va 1 .read true s2) fun bs s3 => true) = true → ∃ c r s2, Located s a .ldb l c 1 0 2 r s2 ∧ ∃ va imm, r.b = .byte va imm ∧ ∃ bs s3, loadBytes c va 1 .read true s2 = .ok (bs, s3) := by
      intro s a l h
      refine located_of h fun c r s2 h => ?_
      refine bByte_of h fun va imm h => ?_
      obtain ⟨bs, s3, h, -⟩ := ok_of (P := fun _ _ => True) h fun _ _ _ => trivial
      exact ⟨bs, s3, h⟩
    exact ⟨st [(1, fixN 7), (2, mkWord 0x12 0x1000), (3, fixN 0)] [(0x1000, mkHeader 0x22 6 32 0)], at0, lg 4 0 4 2 31, k _ _ _ (by decide +kernel)⟩
  · have k : ∀ (s : State) (a : _) (l : _) (b : _), (locatedB s a .ldb l 1 0 2 fun c r s2 => bForeignB (r.b) fun off => (decide (a.host = .data b)) && (decide (s2.pcie.link = true))) = true → ∃ c r s2, Located s a .ldb l c 1 0 2 r s2 ∧ ∃ off, r.b = .foreign off ∧ a.host = .data b ∧ s2.pcie.link = true := by
      intro s a l b h
      refine located_of h fun c r s2 h => ?_
      refine bForeign_of h fun off h => ?_
      refine and_of h (fun h => of_decide_eq_true h) fun h => ?_
      exact of_decide_eq_true h
    exact ⟨{ st [(1, fixN 7), (2, mkWord 0x1F 0x1000)] [] with pcie := { State.reset.pcie with link := true } }, at0, lg 4 0 8 2 8, 0x5A, k _ _ _ _ (by decide +kernel)⟩
  · have k : ∀ (s : State) (a : _) (l : _), (locatedB s a .stb l 1 0 3 fun c r s2 => bByteB (r.b) fun va w1 => (decide (w1 = false)) && (eqB ((s2.core c).getReg l.ra.toNat) fun w => (decide (isFix w = true)) && (okU (storeBytesM c va [BitVec.ofNat 8 (valOf w)] s2) fun s3 => true))) = true → ∃ c r s2, Located s a .stb l c 1 0 3 r s2 ∧ ∃ va w1, r.b = .byte va w1 ∧ w1 = false ∧ ∃ w, (s2.core c).getReg l.ra.toNat = w ∧ isFix w = true ∧ ∃ s3, storeBytesM c va [BitVec.ofNat 8 (valOf w)] s2 = .ok ((), s3) := by
      intro s a l h
      refine located_of h fun c r s2 h => ?_
      refine bByte_of h fun va w1 h => ?_
      refine and_of h (fun h => of_decide_eq_true h) fun h => ?_
      refine eq_of' h fun w h => ?_
      refine and_of h (fun h => of_decide_eq_true h) fun h => ?_
      obtain ⟨s3, h, -⟩ := okU_of (P := fun _ => True) h fun _ _ => trivial
      exact ⟨s3, h⟩
    exact ⟨st [(1, fixN 7), (2, mkWord 0x12 0x1000), (3, fixN 0)] [(0x1000, mkHeader 0x22 6 32 0)], at0, lg 0 1 4 2 31, k _ _ _ (by decide +kernel)⟩
  · have k : ∀ (s : State) (a : _) (l : _), (locatedB s a .stb l 1 0 3 fun c r s2 => bForeignB (r.b) fun off => eqB ((s2.core c).getReg l.ra.toNat) fun w => decide (isFix w = true)) = true → ∃ c r s2, Located s a .stb l c 1 0 3 r s2 ∧ ∃ off, r.b = .foreign off ∧ ∃ w, (s2.core c).getReg l.ra.toNat = w ∧ isFix w = true := by
      intro s a l h
      refine located_of h fun c r s2 h => ?_
      refine bForeign_of h fun off h => ?_
      refine eq_of' h fun w h => ?_
      exact of_decide_eq_true h
    exact ⟨{ st [(1, fixN 7), (2, mkWord 0x1F 0x1000)] [] with pcie := { State.reset.pcie with link := true } }, at0, lg 0 1 8 2 8, k _ _ _ (by decide +kernel)⟩
  · have k : ∀ (s : State) (a : _) (l : _), (issuesB s a .ldbit l fun c s1 => eqB ((s1.core c).getReg l.ra.toNat) fun w => (decide (isFix w = true)) && ((decide (1 ≤ valOf w)) && ((decide (valOf w ≤ 56)) && (okB (resolveB c Opcode.ldbit.modes l 1 (valOf w) 2 s1) fun r s2 => bBitsB (r.b) fun va lo n imm => okB (loadBytes c va 16 .read true s2) fun bs s3 => true)))) = true → ∃ c s1, Issues s a .ldbit l c s1 ∧ ∃ w, (s1.core c).getReg l.ra.toNat = w ∧ isFix w = true ∧ 1 ≤ valOf w ∧ valOf w ≤ 56 ∧ ∃ r s2, resolveB c Opcode.ldbit.modes l 1 (valOf w) 2 s1 = .ok (r, s2) ∧ ∃ va lo n imm, r.b = .bits va lo n imm ∧ ∃ bs s3, loadBytes c va 16 .read true s2 = .ok (bs, s3) := by
      intro s a l h
      refine issues_of h fun c s1 h => ?_
      refine eq_of' h fun w h => ?_
      refine and_of h (fun h => of_decide_eq_true h) fun h => ?_
      refine and_of h (fun h => of_decide_eq_true h) fun h => ?_
      refine and_of h (fun h => of_decide_eq_true h) fun h => ?_
      refine ok_of h fun r s2 h => ?_
      refine bBits_of h fun va lo n imm h => ?_
      obtain ⟨bs, s3, h, -⟩ := ok_of (P := fun _ _ => True) h fun _ _ _ => trivial
      exact ⟨bs, s3, h⟩
    exact ⟨st [(1, fixN 7), (2, mkWord 0x12 0x1000), (3, fixN 0)] [(0x1000, mkHeader 0x22 6 32 0)], at0, lg 4 1 11 2 3, k _ _ _ (by decide +kernel)⟩
  · have k : ∀ (s : State) (a : _) (l : _), (issuesB s a .stbit l fun c s1 => eqB ((s1.core c).getReg l.rd.toNat) fun w => (decide (isFix w = true)) && ((decide (1 ≤ valOf w)) && ((decide (valOf w ≤ 56)) && (eqB ((s1.core c).getReg l.ra.toNat) fun x => (decide (isFix x = true)) && (okB (resolveB c Opcode.stbit.modes l 1 (valOf w) 4 s1) fun r s2 => bBitsB (r.b) fun va lo n w1 => (decide (w1 = false)) && (okB (loadBytes c va 16 .atomic true (drainStores s2 c)) fun bs s3 => okU (atomicWrite c va (toBytes 16 (ofBytes bs - ofBytes bs / 2 ^ lo % 2 ^ n * 2 ^ lo + valOf x % 2 ^ n * 2 ^ lo)) false s3) fun s4 => !((s2.core c).sbuf.any (fun e => writeWaits s2 c e.pa e.bytes.length)))))))) = true → ∃ c s1, Issues s a .stbit l c s1 ∧ ∃ w, (s1.core c).getReg l.rd.toNat = w ∧ isFix w = true ∧ 1 ≤ valOf w ∧ valOf w ≤ 56 ∧ ∃ x, (s1.core c).getReg l.ra.toNat = x ∧ isFix x = true ∧ ∃ r s2, resolveB c Opcode.stbit.modes l 1 (valOf w) 4 s1 = .ok (r, s2) ∧ ∃ va lo n w1, r.b = .bits va lo n w1 ∧ w1 = false ∧ ∃ bs s3, loadBytes c va 16 .atomic true (drainStores s2 c) = .ok (bs, s3) ∧ ∃ s4, atomicWrite c va (toBytes 16 (ofBytes bs - ofBytes bs / 2 ^ lo % 2 ^ n * 2 ^ lo + valOf x % 2 ^ n * 2 ^ lo)) false s3 = .ok ((), s4) ∧ Drains s2 c := by
      intro s a l h
      refine issues_of h fun c s1 h => ?_
      refine eq_of' h fun w h => ?_
      refine and_of h (fun h => of_decide_eq_true h) fun h => ?_
      refine and_of h (fun h => of_decide_eq_true h) fun h => ?_
      refine and_of h (fun h => of_decide_eq_true h) fun h => ?_
      refine eq_of' h fun x h => ?_
      refine and_of h (fun h => of_decide_eq_true h) fun h => ?_
      refine ok_of h fun r s2 h => ?_
      refine bBits_of h fun va lo n w1 h => ?_
      refine and_of h (fun h => of_decide_eq_true h) fun h => ?_
      refine ok_of h fun bs s3 h => ?_
      refine okU_of h fun s4 h => ?_
      exact drains_of h
    exact ⟨st [(4, fixN 7), (1, fixN 7), (2, mkWord 0x12 0x1000), (3, fixN 0)] [(0x1000, mkHeader 0x22 6 32 0)], at0, lg 4 1 11 2 3, k _ _ _ (by decide +kernel)⟩

/-- The hypotheses of part 1 of Obligations.ControlAndSetupAccessComplete are met. -/
theorem witness_ControlRegistersComplete :
    (∃ (s : State) (a : _) (l : _), ∃ c r x y s3, Ready s a .mfc l c r x y s3 ∧ isFix y = true ∧ ∃ v, controlValue (s3.core c) (valOf y) = some v)
    ∧ (∃ (s : State) (a : _) (l : _), ∃ c r x y s3, Ready s a .mfc l c r x y s3 ∧ isFix y = true ∧ controlValue (s3.core c) (valOf y) = none)
    ∧ (∃ (s : State) (a : _) (l : _), ∃ c r x y s3, Ready s a .mtc l c r x y s3 ∧ isFix x = true ∧ y = fixN 0)
    ∧ (∃ (s : State) (a : _) (l : _), ∃ c r x y s3, Ready s a .mtc l c r x y s3 ∧ isFix x = true ∧ y = fixN 1)
    ∧ (∃ (s : State) (a : _) (l : _) (n : _), ∃ c r x y s3, Ready s a .mtc l c r x y s3 ∧ tagOf x = 0x30 ∧ addressFormatOk x = true ∧ n < 4 ∧ y = fixN (0x10 + n))
    ∧ (∃ (s : State) (a : _) (l : _) (n : _), ∃ c r x y s3, Ready s a .mtc l c r x y s3 ∧ tagOf x = 0x30 ∧ addressFormatOk x = true ∧ n < 4 ∧ y = fixN (0x14 + n))
    ∧ (∃ (s : State) (a : _) (l : _) (n : _), ∃ c r x y s3, Ready s a .mtc l c r x y s3 ∧ isFix x = true ∧ valOf x < 2 ^ 36 ∧ n < 4 ∧ y = fixN (0x18 + n)) := by
  refine ⟨?_, ?_, ?_, ?_, ?_, ?_, ?_⟩
  · have k : ∀ (s : State) (a : _) (l : _), (readyB s a .mfc l fun c r x y s3 => (decide (isFix y = true)) && (someB (controlValue (s3.core c) (valOf y)) fun v => true)) = true → ∃ c r x y s3, Ready s a .mfc l c r x y s3 ∧ isFix y = true ∧ ∃ v, controlValue (s3.core c) (valOf y) = some v := by
      intro s a l h
      refine ready_of h fun c r x y s3 h => ?_
      refine and_of h (fun h => of_decide_eq_true h) fun h => ?_
      obtain ⟨v, h, -⟩ := some_of (P := fun _ => True) h fun _ _ => trivial
      exact ⟨v, h⟩
    exact ⟨st [(1, fixN 0x1B)] [], at0, lg 2 0 0 1, k _ _ _ (by decide +kernel)⟩
  · have k : ∀ (s : State) (a : _) (l : _), (readyB s a .mfc l fun c r x y s3 => (decide (isFix y = true)) && (decide (controlValue (s3.core c) (valOf y) = none))) = true → ∃ c r x y s3, Ready s a .mfc l c r x y s3 ∧ isFix y = true ∧ controlValue (s3.core c) (valOf y) = none := by
      intro s a l h
      refine ready_of h fun c r x y s3 h => ?_
      refine and_of h (fun h => of_decide_eq_true h) fun h => ?_
      exact of_decide_eq_true h
    exact ⟨st [(1, fixN 0x1C)] [], at0, lg 2 0 0 1, k _ _ _ (by decide +kernel)⟩
  · have k : ∀ (s : State) (a : _) (l : _), (readyB s a .mtc l fun c r x y s3 => (decide (isFix x = true)) && (decide (y = fixN 0))) = true → ∃ c r x y s3, Ready s a .mtc l c r x y s3 ∧ isFix x = true ∧ y = fixN 0 := by
      intro s a l h
      refine ready_of h fun c r x y s3 h => ?_
      refine and_of h (fun h => of_decide_eq_true h) fun h => ?_
      exact of_decide_eq_true h
    exact ⟨st [(1, fixN 0x1C0000), (2, fixN 0)] [], at0, lg 0 1 0 2, k _ _ _ (by decide +kernel)⟩
  · have k : ∀ (s : State) (a : _) (l : _), (readyB s a .mtc l fun c r x y s3 => (decide (isFix x = true)) && (decide (y = fixN 1))) = true → ∃ c r x y s3, Ready s a .mtc l c r x y s3 ∧ isFix x = true ∧ y = fixN 1 := by
      intro s a l h
      refine ready_of h fun c r x y s3 h => ?_
      refine and_of h (fun h => of_decide_eq_true h) fun h => ?_
      exact of_decide_eq_true h
    exact ⟨st [(1, fixN 1), (2, fixN 1)] [], at0, lg 0 1 0 2, k _ _ _ (by decide +kernel)⟩
  · have k : ∀ (s : State) (a : _) (l : _) (n : _), (readyB s a .mtc l fun c r x y s3 => (decide (tagOf x = 0x30)) && ((decide (addressFormatOk x = true)) && ((decide (n < 4)) && (decide (y = fixN (0x10 + n)))))) = true → ∃ c r x y s3, Ready s a .mtc l c r x y s3 ∧ tagOf x = 0x30 ∧ addressFormatOk x = true ∧ n < 4 ∧ y = fixN (0x10 + n) := by
      intro s a l n h
      refine ready_of h fun c r x y s3 h => ?_
      refine and_of h (fun h => of_decide_eq_true h) fun h => ?_
      refine and_of h (fun h => of_decide_eq_true h) fun h => ?_
      refine and_of h (fun h => of_decide_eq_true h) fun h => ?_
      exact of_decide_eq_true h
    exact ⟨st [(1, mkWord 0x30 0x34), (2, fixN 0x13)] [], at0, lg 0 1 0 2, 3, k _ _ _ _ (by decide +kernel)⟩
  · have k : ∀ (s : State) (a : _) (l : _) (n : _), (readyB s a .mtc l fun c r x y s3 => (decide (tagOf x = 0x30)) && ((decide (addressFormatOk x = true)) && ((decide (n < 4)) && (decide (y = fixN (0x14 + n)))))) = true → ∃ c r x y s3, Ready s a .mtc l c r x y s3 ∧ tagOf x = 0x30 ∧ addressFormatOk x = true ∧ n < 4 ∧ y = fixN (0x14 + n) := by
      intro s a l n h
      refine ready_of h fun c r x y s3 h => ?_
      refine and_of h (fun h => of_decide_eq_true h) fun h => ?_
      refine and_of h (fun h => of_decide_eq_true h) fun h => ?_
      refine and_of h (fun h => of_decide_eq_true h) fun h => ?_
      exact of_decide_eq_true h
    exact ⟨st [(1, mkWord 0x30 0x34), (2, fixN 0x14)] [], at0, lg 0 1 0 2, 0, k _ _ _ _ (by decide +kernel)⟩
  · have k : ∀ (s : State) (a : _) (l : _) (n : _), (readyB s a .mtc l fun c r x y s3 => (decide (isFix x = true)) && ((decide (valOf x < 2 ^ 36)) && ((decide (n < 4)) && (decide (y = fixN (0x18 + n)))))) = true → ∃ c r x y s3, Ready s a .mtc l c r x y s3 ∧ isFix x = true ∧ valOf x < 2 ^ 36 ∧ n < 4 ∧ y = fixN (0x18 + n) := by
      intro s a l n h
      refine ready_of h fun c r x y s3 h => ?_
      refine and_of h (fun h => of_decide_eq_true h) fun h => ?_
      refine and_of h (fun h => of_decide_eq_true h) fun h => ?_
      refine and_of h (fun h => of_decide_eq_true h) fun h => ?_
      exact of_decide_eq_true h
    exact ⟨st [(1, fixN 0xFFFFFFFFF), (2, fixN 0x1B)] [], at0, lg 0 1 0 2, 3, k _ _ _ _ (by decide +kernel)⟩

/-- The hypotheses of part 2 of Obligations.ControlAndSetupAccessComplete are met. -/
theorem witness_SetupAccessComplete :
    (∃ (s : State) (a : _) (l : _) (off : _), ∃ c r x y s3, Ready s a .setuprd l c r x y s3 ∧ y = fixN off ∧ off ≤ 0xFFFFF8 ∧ off % 8 = 0 ∧ 0x10000 ≤ off ∧ Drains s3 c)
    ∧ (∃ (s : State) (a : _) (l : _) (off : _), ∃ c r x y s3, Ready s a .setuprd l c r x y s3 ∧ y = fixN off ∧ off % 8 = 0 ∧ off < 0x10000 ∧ ∃ s4, s4 = drainStores s3 c ∧ Drains s3 c)
    ∧ (∃ (s : State) (a : _) (l : _) (off : _), ∃ c r x y s3, Ready s a .setuprd l c r x y s3 ∧ y = fixN (off + 4) ∧ off ≤ 0xFFFFF8 ∧ off % 8 = 0 ∧ 0x10000 ≤ off ∧ ((drainStores s3 c).core c).setupCap = none ∧ Drains s3 c)
    ∧ (∃ (s : State) (a : _) (l : _) (off : _), ∃ c r x y s3, Ready s a .setuprd l c r x y s3 ∧ y = fixN (off + 4) ∧ off ≤ 0xFFFFF8 ∧ off % 8 = 0 ∧ 0x10000 ≤ off ∧ ∃ w1 v, ((drainStores s3 c).core c).setupCap = some (w1, v) ∧ w1 = off ∧ Drains s3 c)
    ∧ (∃ (s : State) (a : _) (l : _) (off : _), ∃ c r x y s3, Ready s a .setupwr l c r x y s3 ∧ isFix x = true ∧ valOf x < 2 ^ 32 ∧ y = fixN off ∧ off ≤ 0xFFFFF8 ∧ off % 8 = 0 ∧ Drains s3 c)
    ∧ (∃ (s : State) (a : _) (l : _) (off : _), ∃ c r x y s3, Ready s a .setupwr l c r x y s3 ∧ isFix x = true ∧ valOf x < 2 ^ 32 ∧ y = fixN (off + 4) ∧ off ≤ 0xFFFFF8 ∧ off % 8 = 0 ∧ ∃ w1 lo, ((drainStores s3 c).core c).setupHeld = some (w1, lo) ∧ w1 = off ∧ Drains s3 c)
    ∧ (∃ (s : State) (a : _) (l : _) (off : _), ∃ c r x y s3, Ready s a .setupwr l c r x y s3 ∧ isFix x = true ∧ valOf x < 2 ^ 32 ∧ y = fixN (off + 4) ∧ off ≤ 0xFFFFF8 ∧ off % 8 = 0 ∧ ((drainStores s3 c).core c).setupHeld = none ∧ Drains s3 c) := by
  refine ⟨?_, ?_, ?_, ?_, ?_, ?_, ?_⟩
  · have k : ∀ (s : State) (a : _) (l : _) (off : _), (readyB s a .setuprd l fun c r x y s3 => (decide (y = fixN off)) && ((decide (off ≤ 0xFFFFF8)) && ((decide (off % 8 = 0)) && ((decide (0x10000 ≤ off)) && (!((s3.core c).sbuf.any (fun e => writeWaits s3 c e.pa e.bytes.length))))))) = true → ∃ c r x y s3, Ready s a .setuprd l c r x y s3 ∧ y = fixN off ∧ off ≤ 0xFFFFF8 ∧ off % 8 = 0 ∧ 0x10000 ≤ off ∧ Drains s3 c := by
      intro s a l off h
      refine ready_of h fun c r x y s3 h => ?_
      refine and_of h (fun h => of_decide_eq_true h) fun h => ?_
      refine and_of h (fun h => of_decide_eq_true h) fun h => ?_
      refine and_of h (fun h => of_decide_eq_true h) fun h => ?_
      refine and_of h (fun h => of_decide_eq_true h) fun h => ?_
      exact drains_of h
    exact ⟨st [(2, fixN 0xFFFFF8)] [], at0, lg 3 0 0 2, 0xFFFFF8, k _ _ _ _ (by decide +kernel)⟩
  · have k : ∀ (s : State) (a : _) (l : _) (off : _), (readyB s a .setuprd l fun c r x y s3 => (decide (y = fixN off)) && ((decide (off % 8 = 0)) && ((decide (off < 0x10000)) && (eqB (drainStores s3 c) fun s4 => !((s3.core c).sbuf.any (fun e => writeWaits s3 c e.pa e.bytes.length)))))) = true → ∃ c r x y s3, Ready s a .setuprd l c r x y s3 ∧ y = fixN off ∧ off % 8 = 0 ∧ off < 0x10000 ∧ ∃ s4, s4 = drainStores s3 c ∧ Drains s3 c := by
      intro s a l off h
      refine ready_of h fun c r x y s3 h => ?_
      refine and_of h (fun h => of_decide_eq_true h) fun h => ?_
      refine and_of h (fun h => of_decide_eq_true h) fun h => ?_
      refine and_of h (fun h => of_decide_eq_true h) fun h => ?_
      refine eq_of h fun s4 h => ?_
      exact drains_of h
    exact ⟨st [(2, fixN 0xFFF8)] [], at0, lg 3 0 0 2, 0xFFF8, k _ _ _ _ (by decide +kernel)⟩
  · have k : ∀ (s : State) (a : _) (l : _) (off : _), (readyB s a .setuprd l fun c r x y s3 => (decide (y = fixN (off + 4))) && ((decide (off ≤ 0xFFFFF8)) && ((decide (off % 8 = 0)) && ((decide (0x10000 ≤ off)) && ((decide (((drainStores s3 c).core c).setupCap = none)) && (!((s3.core c).sbuf.any (fun e => writeWaits s3 c e.pa e.bytes.length)))))))) = true → ∃ c r x y s3, Ready s a .setuprd l c r x y s3 ∧ y = fixN (off + 4) ∧ off ≤ 0xFFFFF8 ∧ off % 8 = 0 ∧ 0x10000 ≤ off ∧ ((drainStores s3 c).core c).setupCap = none ∧ Drains s3 c := by
      intro s a l off h
      refine ready_of h fun c r x y s3 h => ?_
      refine and_of h (fun h => of_decide_eq_true h) fun h => ?_
      refine and_of h (fun h => of_decide_eq_true h) fun h => ?_
      refine and_of h (fun h => of_decide_eq_true h) fun h => ?_
      refine and_of h (fun h => of_decide_eq_true h) fun h => ?_
      refine and_of h (fun h => of_decide_eq_true h) fun h => ?_
      exact drains_of h
    exact ⟨st [(2, fixN 0x10004)] [], at0, lg 3 0 0 2, 0x10000, k _ _ _ _ (by decide +kernel)⟩
  · have k : ∀ (s : State) (a : _) (l : _) (off : _), (readyB s a .setuprd l fun c r x y s3 => (decide (y = fixN (off + 4))) && ((decide (off ≤ 0xFFFFF8)) && ((decide (off % 8 = 0)) && ((decide (0x10000 ≤ off)) && (someP (((drainStores s3 c).core c).setupCap) fun w1 v => (decide (w1 = off)) && (!((s3.core c).sbuf.any (fun e => writeWaits s3 c e.pa e.bytes.length)))))))) = true → ∃ c r x y s3, Ready s a .setuprd l c r x y s3 ∧ y = fixN (off + 4) ∧ off ≤ 0xFFFFF8 ∧ off % 8 = 0 ∧ 0x10000 ≤ off ∧ ∃ w1 v, ((drainStores s3 c).core c).setupCap = some (w1, v) ∧ w1 = off ∧ Drains s3 c := by
      intro s a l off h
      refine ready_of h fun c r x y s3 h => ?_
      refine and_of h (fun h => of_decide_eq_true h) fun h => ?_
      refine and_of h (fun h => of_decide_eq_true h) fun h => ?_
      refine and_of h (fun h => of_decide_eq_true h) fun h => ?_
      refine and_of h (fun h => of_decide_eq_true h) fun h => ?_
      refine someP_of h fun w1 v h => ?_
      refine and_of h (fun h => of_decide_eq_true h) fun h => ?_
      exact drains_of h
    exact ⟨(st [(1, fixN 7), (2, fixN 0x10024)] []).modCore 0 (fun k => { k with setupCap := some (0x10020, 5#64), setupHeld := some (0x10020, 6#64) }), at0, lg 3 0 0 2, 0x10020, k _ _ _ _ (by decide +kernel)⟩
  · have k : ∀ (s : State) (a : _) (l : _) (off : _), (readyB s a .setupwr l fun c r x y s3 => (decide (isFix x = true)) && ((decide (valOf x < 2 ^ 32)) && ((decide (y = fixN off)) && ((decide (off ≤ 0xFFFFF8)) && ((decide (off % 8 = 0)) && (!((s3.core c).sbuf.any (fun e => writeWaits s3 c e.pa e.bytes.length)))))))) = true → ∃ c r x y s3, Ready s a .setupwr l c r x y s3 ∧ isFix x = true ∧ valOf x < 2 ^ 32 ∧ y = fixN off ∧ off ≤ 0xFFFFF8 ∧ off % 8 = 0 ∧ Drains s3 c := by
      intro s a l off h
      refine ready_of h fun c r x y s3 h => ?_
      refine and_of h (fun h => of_decide_eq_true h) fun h => ?_
      refine and_of h (fun h => of_decide_eq_true h) fun h => ?_
      refine and_of h (fun h => of_decide_eq_true h) fun h => ?_
      refine and_of h (fun h => of_decide_eq_true h) fun h => ?_
      refine and_of h (fun h => of_decide_eq_true h) fun h => ?_
      exact drains_of h
    exact ⟨st [(1, fixN 0xFFFFFFFF), (2, fixN 0xFFFFF8)] [], at0, lg 0 1 0 2, 0xFFFFF8, k _ _ _ _ (by decide +kernel)⟩
  · have k : ∀ (s : State) (a : _) (l : _) (off : _), (readyB s a .setupwr l fun c r x y s3 => (decide (isFix x = true)) && ((decide (valOf x < 2 ^ 32)) && ((decide (y = fixN (off + 4))) && ((decide (off ≤ 0xFFFFF8)) && ((decide (off % 8 = 0)) && (someP (((drainStores s3 c).core c).setupHeld) fun w1 lo => (decide (w1 = off)) && (!((s3.core c).sbuf.any (fun e => writeWaits s3 c e.pa e.bytes.length))))))))) = true → ∃ c r x y s3, Ready s a .setupwr l c r x y s3 ∧ isFix x = true ∧ valOf x < 2 ^ 32 ∧ y = fixN (off + 4) ∧ off ≤ 0xFFFFF8 ∧ off % 8 = 0 ∧ ∃ w1 lo, ((drainStores s3 c).core c).setupHeld = some (w1, lo) ∧ w1 = off ∧ Drains s3 c := by
      intro s a l off h
      refine ready_of h fun c r x y s3 h => ?_
      refine and_of h (fun h => of_decide_eq_true h) fun h => ?_
      refine and_of h (fun h => of_decide_eq_true h) fun h => ?_
      refine and_of h (fun h => of_decide_eq_true h) fun h => ?_
      refine and_of h (fun h => of_decide_eq_true h) fun h => ?_
      refine and_of h (fun h => of_decide_eq_true h) fun h => ?_
      refine someP_of h fun w1 lo h => ?_
      refine and_of h (fun h => of_decide_eq_true h) fun h => ?_
      exact drains_of h
    exact ⟨(st [(1, fixN 7), (2, fixN 0x10024)] []).modCore 0 (fun k => { k with setupCap := some (0x10020, 5#64), setupHeld := some (0x10020, 6#64) }), at0, lg 0 1 0 2, 0x10020, k _ _ _ _ (by decide +kernel)⟩
  · have k : ∀ (s : State) (a : _) (l : _) (off : _), (readyB s a .setupwr l fun c r x y s3 => (decide (isFix x = true)) && ((decide (valOf x < 2 ^ 32)) && ((decide (y = fixN (off + 4))) && ((decide (off ≤ 0xFFFFF8)) && ((decide (off % 8 = 0)) && ((decide (((drainStores s3 c).core c).setupHeld = none)) && (!((s3.core c).sbuf.any (fun e => writeWaits s3 c e.pa e.bytes.length))))))))) = true → ∃ c r x y s3, Ready s a .setupwr l c r x y s3 ∧ isFix x = true ∧ valOf x < 2 ^ 32 ∧ y = fixN (off + 4) ∧ off ≤ 0xFFFFF8 ∧ off % 8 = 0 ∧ ((drainStores s3 c).core c).setupHeld = none ∧ Drains s3 c := by
      intro s a l off h
      refine ready_of h fun c r x y s3 h => ?_
      refine and_of h (fun h => of_decide_eq_true h) fun h => ?_
      refine and_of h (fun h => of_decide_eq_true h) fun h => ?_
      refine and_of h (fun h => of_decide_eq_true h) fun h => ?_
      refine and_of h (fun h => of_decide_eq_true h) fun h => ?_
      refine and_of h (fun h => of_decide_eq_true h) fun h => ?_
      refine and_of h (fun h => of_decide_eq_true h) fun h => ?_
      exact drains_of h
    exact ⟨st [(1, fixN 7), (2, fixN 0x10024)] [], at0, lg 0 1 0 2, 0x10020, k _ _ _ _ (by decide +kernel)⟩

/-- The hypotheses of part 1 of Obligations.IntegerArithmeticCompletes are met. -/
theorem witness_SumsAndProductsComplete :
    (∃ (s : State) (a : _) (l : _), ∃ c r x y s3, Ready s a .add l c r x y s3 ∧ Admits s3 0x0 x (some y) ∧ ∃ i j s5, Numbers c x y s3 (.int i) (.int j) s5 ∧ ∃ w s6, intResult c ((· + ·) i j) s5 = .ok (w, s6))
    ∧ (∃ (s : State) (a : _) (l : _), ∃ c r x y s3, Ready s a .sub l c r x y s3 ∧ Admits s3 0x1 x (some y) ∧ ∃ i j s5, Numbers c x y s3 (.int i) (.int j) s5 ∧ ∃ w s6, intResult c ((· - ·) i j) s5 = .ok (w, s6))
    ∧ (∃ (s : State) (a : _) (l : _), ∃ c r x y s3, Ready s a .mul l c r x y s3 ∧ Admits s3 0x2 x (some y) ∧ ∃ i j s5, Numbers c x y s3 (.int i) (.int j) s5 ∧ ∃ w s6, intResult c ((· * ·) i j) s5 = .ok (w, s6))
    ∧ (∃ (s : State) (a : _) (l : _), ∃ c r x y s3, Ready s a .add l c r x y s3 ∧ Admits s3 0x0 x (some y) ∧ ∃ p q s5, Numbers c x y s3 p q s5 ∧ anyFloat p q = true ∧ ∃ w s6, floatResult c (addF p.bits q.bits) s5 = .ok (w, s6))
    ∧ (∃ (s : State) (a : _) (l : _), ∃ c r x y s3, Ready s a .sub l c r x y s3 ∧ Admits s3 0x1 x (some y) ∧ ∃ p q s5, Numbers c x y s3 p q s5 ∧ anyFloat p q = true ∧ ∃ w s6, floatResult c (subF p.bits q.bits) s5 = .ok (w, s6))
    ∧ (∃ (s : State) (a : _) (l : _), ∃ c r x y s3, Ready s a .mul l c r x y s3 ∧ Admits s3 0x2 x (some y) ∧ ∃ p q s5, Numbers c x y s3 p q s5 ∧ anyFloat p q = true ∧ ∃ w s6, floatResult c (mulF p.bits q.bits) s5 = .ok (w, s6)) := by
  refine ⟨?_, ?_, ?_, ?_, ?_, ?_⟩
  · have k : ∀ (s : State) (a : _) (l : _), (readyB s a .add l fun c r x y s3 => (admitsB s3 0x0 x (some y)) && (intsB c x y s3 fun i j s5 => okB (intResult c ((· + ·) i j) s5) fun w s6 => true)) = true → ∃ c r x y s3, Ready s a .add l c r x y s3 ∧ Admits s3 0x0 x (some y) ∧ ∃ i j s5, Numbers c x y s3 (.int i) (.int j) s5 ∧ ∃ w s6, intResult c ((· + ·) i j) s5 = .ok (w, s6) := by
      intro s a l h
      refine ready_of h fun c r x y s3 h => ?_
      refine and_of h (fun h => admits_of h) fun h => ?_
      refine ints_of h fun i j s5 h => ?_
      obtain ⟨w, s6, h, -⟩ := ok_of (P := fun _ _ => True) h fun _ _ _ => trivial
      exact ⟨w, s6, h⟩
    exact ⟨st [(1, fixN 0x7FFFFFFFFFFFFF), (2, fixN 0)] [], at0, lg 3 1 0 2, k _ _ _ (by decide +kernel)⟩
  · have k : ∀ (s : State) (a : _) (l : _), (readyB s a .sub l fun c r x y s3 => (admitsB s3 0x1 x (some y)) && (intsB c x y s3 fun i j s5 => okB (intResult c ((· - ·) i j) s5) fun w s6 => true)) = true → ∃ c r x y s3, Ready s a .sub l c r x y s3 ∧ Admits s3 0x1 x (some y) ∧ ∃ i j s5, Numbers c x y s3 (.int i) (.int j) s5 ∧ ∃ w s6, intResult c ((· - ·) i j) s5 = .ok (w, s6) := by
      intro s a l h
      refine ready_of h fun c r x y s3 h => ?_
      refine and_of h (fun h => admits_of h) fun h => ?_
      refine ints_of h fun i j s5 h => ?_
      obtain ⟨w, s6, h, -⟩ := ok_of (P := fun _ _ => True) h fun _ _ _ => trivial
      exact ⟨w, s6, h⟩
    exact ⟨st [(1, fixN 0x7FFFFFFFFFFFFF), (2, fixN 0)] [], at0, lg 3 1 0 2, k _ _ _ (by decide +kernel)⟩
  · have k : ∀ (s : State) (a : _) (l : _), (readyB s a .mul l fun c r x y s3 => (admitsB s3 0x2 x (some y)) && (intsB c x y s3 fun i j s5 => okB (intResult c ((· * ·) i j) s5) fun w s6 => true)) = true → ∃ c r x y s3, Ready s a .mul l c r x y s3 ∧ Admits s3 0x2 x (some y) ∧ ∃ i j s5, Numbers c x y s3 (.int i) (.int j) s5 ∧ ∃ w s6, intResult c ((· * ·) i j) s5 = .ok (w, s6) := by
      intro s a l h
      refine ready_of h fun c r x y s3 h => ?_
      refine and_of h (fun h => admits_of h) fun h => ?_
      refine ints_of h fun i j s5 h => ?_
      obtain ⟨w, s6, h, -⟩ := ok_of (P := fun _ _ => True) h fun _ _ _ => trivial
      exact ⟨w, s6, h⟩
    exact ⟨st [(1, fixN 7), (2, fixN 5)] [], at0, lg 3 1 0 2, k _ _ _ (by decide +kernel)⟩
  · have k : ∀ (s : State) (a : _) (l : _), (readyB s a .add l fun c r x y s3 => (admitsB s3 0x0 x (some y)) && (numbersB c x y s3 fun p q s5 => (decide (anyFloat p q = true)) && (okB (floatResult c (addF p.bits q.bits) s5) fun w s6 => true))) = true → ∃ c r x y s3, Ready s a .add l c r x y s3 ∧ Admits s3 0x0 x (some y) ∧ ∃ p q s5, Numbers c x y s3 p q s5 ∧ anyFloat p q = true ∧ ∃ w s6, floatResult c (addF p.bits q.bits) s5 = .ok (w, s6) := by
      intro s a l h
      refine ready_of h fun c r x y s3 h => ?_
      refine and_of h (fun h => admits_of h) fun h => ?_
      refine numbers_of h fun p q s5 h => ?_
      refine and_of h (fun h => of_decide_eq_true h) fun h => ?_
      obtain ⟨w, s6, h, -⟩ := ok_of (P := fun _ _ => True) h fun _ _ _ => trivial
      exact ⟨w, s6, h⟩
    exact ⟨st [(1, mkWord 2 0x3FF00000000000), (2, mkWord 2 0xC0000000000000)] [], at0, lg 3 1 0 2, k _ _ _ (by decide +kernel)⟩
  · have k : ∀ (s : State) (a : _) (l : _), (readyB s a .sub l fun c r x y s3 => (admitsB s3 0x1 x (some y)) && (numbersB c x y s3 fun p q s5 => (decide (anyFloat p q = true)) && (okB (floatResult c (subF p.bits q.bits) s5) fun w s6 => true))) = true → ∃ c r x y s3, Ready s a .sub l c r x y s3 ∧ Admits s3 0x1 x (some y) ∧ ∃ p q s5, Numbers c x y s3 p q s5 ∧ anyFloat p q = true ∧ ∃ w s6, floatResult c (subF p.bits q.bits) s5 = .ok (w, s6) := by
      intro s a l h
      refine ready_of h fun c r x y s3 h => ?_
      refine and_of h (fun h => admits_of h) fun h => ?_
      refine numbers_of h fun p q s5 h => ?_
      refine and_of h (fun h => of_decide_eq_true h) fun h => ?_
      obtain ⟨w, s6, h, -⟩ := ok_of (P := fun _ _ => True) h fun _ _ _ => trivial
      exact ⟨w, s6, h⟩
    exact ⟨st [(1, mkWord 2 0x3FF00000000000), (2, fixN 3)] [], at0, lg 3 1 0 2, k _ _ _ (by decide +kernel)⟩
  · have k : ∀ (s : State) (a : _) (l : _), (readyB s a .mul l fun c r x y s3 => (admitsB s3 0x2 x (some y)) && (numbersB c x y s3 fun p q s5 => (decide (anyFloat p q = true)) && (okB (floatResult c (mulF p.bits q.bits) s5) fun w s6 => true))) = true → ∃ c r x y s3, Ready s a .mul l c r x y s3 ∧ Admits s3 0x2 x (some y) ∧ ∃ p q s5, Numbers c x y s3 p q s5 ∧ anyFloat p q = true ∧ ∃ w s6, floatResult c (mulF p.bits q.bits) s5 = .ok (w, s6) := by
      intro s a l h
      refine ready_of h fun c r x y s3 h => ?_
      refine and_of h (fun h => admits_of h) fun h => ?_
      refine numbers_of h fun p q s5 h => ?_
      refine and_of h (fun h => of_decide_eq_true h) fun h => ?_
      obtain ⟨w, s6, h, -⟩ := ok_of (P := fun _ _ => True) h fun _ _ _ => trivial
      exact ⟨w, s6, h⟩
    exact ⟨st [(1, mkWord 2 0x3FF00000000000), (2, mkWord 2 0xC0000000000000)] [], at0, lg 3 1 0 2, k _ _ _ (by decide +kernel)⟩

/-- The hypotheses of part 2 of Obligations.IntegerArithmeticCompletes are met. -/
theorem witness_QuotientsComplete :
    (∃ (s : State) (a : _) (l : _), ∃ c r x y s3, Ready s a .div l c r x y s3 ∧ Admits s3 0x3 x (some y) ∧ ∃ i j s5, Numbers c x y s3 (.int i) (.int j) s5 ∧ j ≠ 0 ∧ ∃ w s6, intResult c (i.tdiv j) s5 = .ok (w, s6))
    ∧ (∃ (s : State) (a : _) (l : _), ∃ c r x y s3, Ready s a .rem l c r x y s3 ∧ Admits s3 0x4 x (some y) ∧ ∃ i j s5, Numbers c x y s3 (.int i) (.int j) s5 ∧ j ≠ 0 ∧ ∃ w s6, intResult c (i.tmod j) s5 = .ok (w, s6))
    ∧ (∃ (s : State) (a : _) (l : _), ∃ c r x y s3, Ready s a .div l c r x y s3 ∧ Admits s3 0x3 x (some y) ∧ ∃ i w1 s5, Numbers c x y s3 (.int i) (.int w1) s5 ∧ w1 = 0)
    ∧ (∃ (s : State) (a : _) (l : _), ∃ c r x y s3, Ready s a .rem l c r x y s3 ∧ Admits s3 0x4 x (some y) ∧ ∃ i w1 s5, Numbers c x y s3 (.int i) (.int w1) s5 ∧ w1 = 0)
    ∧ (∃ (s : State) (a : _) (l : _), ∃ c r x y s3, Ready s a .div l c r x y s3 ∧ Admits s3 0x3 x (some y) ∧ ∃ p q s5, Numbers c x y s3 p q s5 ∧ anyFloat p q = true ∧ ∃ w s6, floatResult c (divF p.bits q.bits) s5 = .ok (w, s6)) := by
  refine ⟨?_, ?_, ?_, ?_, ?_⟩
  · have k : ∀ (s : State) (a : _) (l : _), (readyB s a .div l fun c r x y s3 => (admitsB s3 0x3 x (some y)) && (intsB c x y s3 fun i j s5 => (decide (j ≠ 0)) && (okB (intResult c (i.tdiv j) s5) fun w s6 => true))) = true → ∃ c r x y s3, Ready s a .div l c r x y s3 ∧ Admits s3 0x3 x (some y) ∧ ∃ i j s5, Numbers c x y s3 (.int i) (.int j) s5 ∧ j ≠ 0 ∧ ∃ w s6, intResult c (i.tdiv j) s5 = .ok (w, s6) := by
      intro s a l h
      refine ready_of h fun c r x y s3 h => ?_
      refine and_of h (fun h => admits_of h) fun h => ?_
      refine ints_of h fun i j s5 h => ?_
      refine and_of h (fun h => of_decide_eq_true h) fun h => ?_
      obtain ⟨w, s6, h, -⟩ := ok_of (P := fun _ _ => True) h fun _ _ _ => trivial
      exact ⟨w, s6, h⟩
    exact ⟨st [(1, fixN 7), (2, fixN 5)] [], at0, lg 3 1 0 2, k _ _ _ (by decide +kernel)⟩
  · have k : ∀ (s : State) (a : _) (l : _), (readyB s a .rem l fun c r x y s3 => (admitsB s3 0x4 x (some y)) && (intsB c x y s3 fun i j s5 => (decide (j ≠ 0)) && (okB (intResult c (i.tmod j) s5) fun w s6 => true))) = true → ∃ c r x y s3, Ready s a .rem l c r x y s3 ∧ Admits s3 0x4 x (some y) ∧ ∃ i j s5, Numbers c x y s3 (.int i) (.int j) s5 ∧ j ≠ 0 ∧ ∃ w s6, intResult c (i.tmod j) s5 = .ok (w, s6) := by
      intro s a l h
      refine ready_of h fun c r x y s3 h => ?_
      refine and_of h (fun h => admits_of h) fun h => ?_
      refine ints_of h fun i j s5 h => ?_
      refine and_of h (fun h => of_decide_eq_true h) fun h => ?_
      obtain ⟨w, s6, h, -⟩ := ok_of (P := fun _ _ => True) h fun _ _ _ => trivial
      exact ⟨w, s6, h⟩
    exact ⟨st [(1, fixN 7), (2, fixN 5)] [], at0, lg 3 1 0 2, k _ _ _ (by decide +kernel)⟩
  · have k : ∀ (s : State) (a : _) (l : _), (readyB s a .div l fun c r x y s3 => (admitsB s3 0x3 x (some y)) && (intsB c x y s3 fun i w1 s5 => decide (w1 = 0))) = true → ∃ c r x y s3, Ready s a .div l c r x y s3 ∧ Admits s3 0x3 x (some y) ∧ ∃ i w1 s5, Numbers c x y s3 (.int i) (.int w1) s5 ∧ w1 = 0 := by
      intro s a l h
      refine ready_of h fun c r x y s3 h => ?_
      refine and_of h (fun h => admits_of h) fun h => ?_
      refine ints_of h fun i w1 s5 h => ?_
      exact of_decide_eq_true h
    exact ⟨st [(1, fixN 7), (2, fixN 0)] [], at0, lg 3 1 0 2, k _ _ _ (by decide +kernel)⟩
  · have k : ∀ (s : State) (a : _) (l : _), (readyB s a .rem l fun c r x y s3 => (admitsB s3 0x4 x (some y)) && (intsB c x y s3 fun i w1 s5 => decide (w1 = 0))) = true → ∃ c r x y s3, Ready s a .rem l c r x y s3 ∧ Admits s3 0x4 x (some y) ∧ ∃ i w1 s5, Numbers c x y s3 (.int i) (.int w1) s5 ∧ w1 = 0 := by
      intro s a l h
      refine ready_of h fun c r x y s3 h => ?_
      refine and_of h (fun h => admits_of h) fun h => ?_
      refine ints_of h fun i w1 s5 h => ?_
      exact of_decide_eq_true h
    exact ⟨st [(1, fixN 7), (2, fixN 0)] [], at0, lg 3 1 0 2, k _ _ _ (by decide +kernel)⟩
  · have k : ∀ (s : State) (a : _) (l : _), (readyB s a .div l fun c r x y s3 => (admitsB s3 0x3 x (some y)) && (numbersB c x y s3 fun p q s5 => (decide (anyFloat p q = true)) && (okB (floatResult c (divF p.bits q.bits) s5) fun w s6 => true))) = true → ∃ c r x y s3, Ready s a .div l c r x y s3 ∧ Admits s3 0x3 x (some y) ∧ ∃ p q s5, Numbers c x y s3 p q s5 ∧ anyFloat p q = true ∧ ∃ w s6, floatResult c (divF p.bits q.bits) s5 = .ok (w, s6) := by
      intro s a l h
      refine ready_of h fun c r x y s3 h => ?_
      refine and_of h (fun h => admits_of h) fun h => ?_
      refine numbers_of h fun p q s5 h => ?_
      refine and_of h (fun h => of_decide_eq_true h) fun h => ?_
      obtain ⟨w, s6, h, -⟩ := ok_of (P := fun _ _ => True) h fun _ _ _ => trivial
      exact ⟨w, s6, h⟩
    exact ⟨st [(1, mkWord 2 0x3FF00000000000), (2, mkWord 2 0xC0000000000000)] [], at0, lg 3 1 0 2, k _ _ _ (by decide +kernel)⟩

/-- The hypotheses of part 1 of Obligations.NegationsAndTimesComplete are met. -/
theorem witness_NegationsComplete :
    (∃ (s : State) (a : _) (l : _), ∃ c r x y s3, Ready s a .neg l c r x y s3 ∧ Admits s3 0x5 y none ∧ ∃ j s4, numOf c y s3 = .ok (.int j, s4) ∧ ∃ w s5, intResult c (-j) s4 = .ok (w, s5))
    ∧ (∃ (s : State) (a : _) (l : _), ∃ c r x y s3, Ready s a .abs l c r x y s3 ∧ Admits s3 0x6 y none ∧ ∃ j s4, numOf c y s3 = .ok (.int j, s4) ∧ ∃ w s5, intResult c j.natAbs s4 = .ok (w, s5))
    ∧ (∃ (s : State) (a : _) (l : _), ∃ c r x y s3, Ready s a .neg l c r x y s3 ∧ Admits s3 0x5 y none ∧ ∃ b s4, numOf c y s3 = .ok (.flt b, s4) ∧ ∃ w s5, floatResult c (if isNaNF b then quiet b else flipSign b) s4 = .ok (w, s5))
    ∧ (∃ (s : State) (a : _) (l : _), ∃ c r x y s3, Ready s a .neg l c r x y s3 ∧ Admits s3 0x5 y none ∧ ∃ b s4, numOf c y s3 = .ok (.flt b, s4) ∧ ∃ w s5, floatResult c (if isNaNF b then quiet b else flipSign b) s4 = .ok (w, s5))
    ∧ (∃ (s : State) (a : _) (l : _), ∃ c r x y s3, Ready s a .abs l c r x y s3 ∧ Admits s3 0x6 y none ∧ ∃ b s4, numOf c y s3 = .ok (.flt b, s4) ∧ ∃ w s5, floatResult c (if isNaNF b then quiet b else b % 2 ^ 63) s4 = .ok (w, s5))
    ∧ (∃ (s : State) (a : _) (l : _), ∃ c r x y s3, Ready s a .abs l c r x y s3 ∧ Admits s3 0x6 y none ∧ ∃ b s4, numOf c y s3 = .ok (.flt b, s4) ∧ ∃ w s5, floatResult c (if isNaNF b then quiet b else b % 2 ^ 63) s4 = .ok (w, s5)) := by
  refine ⟨?_, ?_, ?_, ?_, ?_, ?_⟩
  · have k : ∀ (s : State) (a : _) (l : _), (readyB s a .neg l fun c r x y s3 => (admitsB s3 0x5 y none) && (intB c y s3 fun j s4 => okB (intResult c (-j) s4) fun w s5 => true)) = true → ∃ c r x y s3, Ready s a .neg l c r x y s3 ∧ Admits s3 0x5 y none ∧ ∃ j s4, numOf c y s3 = .ok (.int j, s4) ∧ ∃ w s5, intResult c (-j) s4 = .ok (w, s5) := by
      intro s a l h
      refine ready_of h fun c r x y s3 h => ?_
      refine and_of h (fun h => admits_of h) fun h => ?_
      refine int_of h fun j s4 h => ?_
      obtain ⟨w, s5, h, -⟩ := ok_of (P := fun _ _ => True) h fun _ _ _ => trivial
      exact ⟨w, s5, h⟩
    exact ⟨st [(1, fixN 7), (2, fixN 5)] [], at0, lg 3 0 0 2, k _ _ _ (by decide +kernel)⟩
  · have k : ∀ (s : State) (a : _) (l : _), (readyB s a .abs l fun c r x y s3 => (admitsB s3 0x6 y none) && (intB c y s3 fun j s4 => okB (intResult c j.natAbs s4) fun w s5 => true)) = true → ∃ c r x y s3, Ready s a .abs l c r x y s3 ∧ Admits s3 0x6 y none ∧ ∃ j s4, numOf c y s3 = .ok (.int j, s4) ∧ ∃ w s5, intResult c j.natAbs s4 = .ok (w, s5) := by
      intro s a l h
      refine ready_of h fun c r x y s3 h => ?_
      refine and_of h (fun h => admits_of h) fun h => ?_
      refine int_of h fun j s4 h => ?_
      obtain ⟨w, s5, h, -⟩ := ok_of (P := fun _ _ => True) h fun _ _ _ => trivial
      exact ⟨w, s5, h⟩
    exact ⟨st [(2, fix (-7))] [], at0, lg 3 0 0 2, k _ _ _ (by decide +kernel)⟩
  · have k : ∀ (s : State) (a : _) (l : _), (readyB s a .neg l fun c r x y s3 => (admitsB s3 0x5 y none) && (fltB c y s3 fun b s4 => okB (floatResult c (if isNaNF b then quiet b else flipSign b) s4) fun w s5 => true)) = true → ∃ c r x y s3, Ready s a .neg l c r x y s3 ∧ Admits s3 0x5 y none ∧ ∃ b s4, numOf c y s3 = .ok (.flt b, s4) ∧ ∃ w s5, floatResult c (if isNaNF b then quiet b else flipSign b) s4 = .ok (w, s5) := by
      intro s a l h
      refine ready_of h fun c r x y s3 h => ?_
      refine and_of h (fun h => admits_of h) fun h => ?_
      refine flt_of h fun b s4 h => ?_
      obtain ⟨w, s5, h, -⟩ := ok_of (P := fun _ _ => True) h fun _ _ _ => trivial
      exact ⟨w, s5, h⟩
    exact ⟨st [(1, mkWord 2 0x3FF00000000000), (2, mkWord 2 0xC0000000000000)] [], at0, lg 3 0 0 2, k _ _ _ (by decide +kernel)⟩
  · have k : ∀ (s : State) (a : _) (l : _), (readyB s a .neg l fun c r x y s3 => (admitsB s3 0x5 y none) && (fltB c y s3 fun b s4 => okB (floatResult c (if isNaNF b then quiet b else flipSign b) s4) fun w s5 => true)) = true → ∃ c r x y s3, Ready s a .neg l c r x y s3 ∧ Admits s3 0x5 y none ∧ ∃ b s4, numOf c y s3 = .ok (.flt b, s4) ∧ ∃ w s5, floatResult c (if isNaNF b then quiet b else flipSign b) s4 = .ok (w, s5) := by
      intro s a l h
      refine ready_of h fun c r x y s3 h => ?_
      refine and_of h (fun h => admits_of h) fun h => ?_
      refine flt_of h fun b s4 h => ?_
      obtain ⟨w, s5, h, -⟩ := ok_of (P := fun _ _ => True) h fun _ _ _ => trivial
      exact ⟨w, s5, h⟩
    exact ⟨st [(2, mkWord 2 0x7FF00000000001)] [], at0, lg 3 0 0 2, k _ _ _ (by decide +kernel)⟩
  · have k : ∀ (s : State) (a : _) (l : _), (readyB s a .abs l fun c r x y s3 => (admitsB s3 0x6 y none) && (fltB c y s3 fun b s4 => okB (floatResult c (if isNaNF b then quiet b else b % 2 ^ 63) s4) fun w s5 => true)) = true → ∃ c r x y s3, Ready s a .abs l c r x y s3 ∧ Admits s3 0x6 y none ∧ ∃ b s4, numOf c y s3 = .ok (.flt b, s4) ∧ ∃ w s5, floatResult c (if isNaNF b then quiet b else b % 2 ^ 63) s4 = .ok (w, s5) := by
      intro s a l h
      refine ready_of h fun c r x y s3 h => ?_
      refine and_of h (fun h => admits_of h) fun h => ?_
      refine flt_of h fun b s4 h => ?_
      obtain ⟨w, s5, h, -⟩ := ok_of (P := fun _ _ => True) h fun _ _ _ => trivial
      exact ⟨w, s5, h⟩
    exact ⟨st [(1, mkWord 2 0x3FF00000000000), (2, mkWord 2 0xC0000000000000)] [], at0, lg 3 0 0 2, k _ _ _ (by decide +kernel)⟩
  · have k : ∀ (s : State) (a : _) (l : _), (readyB s a .abs l fun c r x y s3 => (admitsB s3 0x6 y none) && (fltB c y s3 fun b s4 => okB (floatResult c (if isNaNF b then quiet b else b % 2 ^ 63) s4) fun w s5 => true)) = true → ∃ c r x y s3, Ready s a .abs l c r x y s3 ∧ Admits s3 0x6 y none ∧ ∃ b s4, numOf c y s3 = .ok (.flt b, s4) ∧ ∃ w s5, floatResult c (if isNaNF b then quiet b else b % 2 ^ 63) s4 = .ok (w, s5) := by
      intro s a l h
      refine ready_of h fun c r x y s3 h => ?_
      refine and_of h (fun h => admits_of h) fun h => ?_
      refine flt_of h fun b s4 h => ?_
      obtain ⟨w, s5, h, -⟩ := ok_of (P := fun _ _ => True) h fun _ _ _ => trivial
      exact ⟨w, s5, h⟩
    exact ⟨st [(2, mkWord 2 0x7FF00000000001)] [], at0, lg 3 0 0 2, k _ _ _ (by decide +kernel)⟩

/-- The hypotheses of part 2 of Obligations.NegationsAndTimesComplete are met. -/
theorem witness_TimeAndStackSumsComplete :
    (∃ (s : State) (a : _) (l : _), ∃ c r x y s3, Ready s a .add l c r x y s3 ∧ (isTime x && isFix y || isFix x && isTime y) = true ∧ Admits s3 0x0 x (some y))
    ∧ (∃ (s : State) (a : _) (l : _), ∃ c r x y s3, Ready s a .add l c r x y s3 ∧ (isTime x && isFix y || isFix x && isTime y) = true ∧ Admits s3 0x0 x (some y))
    ∧ (∃ (s : State) (a : _) (l : _), ∃ c r x y s3, Ready s a .sub l c r x y s3 ∧ isTime x = true ∧ isTime y = true ∧ Admits s3 0x1 x (some y))
    ∧ (∃ (s : State) (a : _) (l : _), ∃ c r x y s3, Ready s a .sub l c r x y s3 ∧ isTime x = true ∧ isFix y = true ∧ Admits s3 0x1 x (some y))
    ∧ (∃ (s : State) (a : _) (l : _) (n : _), ∃ c r x y s3, Ready s a .add l c r x y s3 ∧ tagOf x = 0x32 ∧ isFix y = true ∧ (valOf x : Int) + fixVal y = (n : Nat) ∧ n < 2 ^ 47 ∧ n % 16 = 0)
    ∧ (∃ (s : State) (a : _) (l : _) (n : _), ∃ c r x y s3, Ready s a .sub l c r x y s3 ∧ tagOf x = 0x32 ∧ isFix y = true ∧ (valOf x : Int) - fixVal y = (n : Nat) ∧ n < 2 ^ 47 ∧ n % 16 = 0)
    ∧ (∃ (s : State) (a : _) (l : _), ∃ c r x y s3, Ready s a .sub l c r x y s3 ∧ tagOf x = 0x32 ∧ tagOf y = 0x32) := by
  refine ⟨?_, ?_, ?_, ?_, ?_, ?_, ?_⟩
  · have k : ∀ (s : State) (a : _) (l : _), (readyB s a .add l fun c r x y s3 => (decide ((isTime x && isFix y || isFix x && isTime y) = true)) && (admitsB s3 0x0 x (some y))) = true → ∃ c r x y s3, Ready s a .add l c r x y s3 ∧ (isTime x && isFix y || isFix x && isTime y) = true ∧ Admits s3 0x0 x (some y) := by
      intro s a l h
      refine ready_of h fun c r x y s3 h => ?_
      refine and_of h (fun h => of_decide_eq_true h) fun h => ?_
      exact admits_of h
    exact ⟨st [(1, mkWord 6 0xFFFFFFFFFFFFFF), (2, fixN 1)] [], at0, lg 3 1 0 2, k _ _ _ (by decide +kernel)⟩
  · have k : ∀ (s : State) (a : _) (l : _), (readyB s a .add l fun c r x y s3 => (decide ((isTime x && isFix y || isFix x && isTime y) = true)) && (admitsB s3 0x0 x (some y))) = true → ∃ c r x y s3, Ready s a .add l c r x y s3 ∧ (isTime x && isFix y || isFix x && isTime y) = true ∧ Admits s3 0x0 x (some y) := by
      intro s a l h
      refine ready_of h fun c r x y s3 h => ?_
      refine and_of h (fun h => of_decide_eq_true h) fun h => ?_
      exact admits_of h
    exact ⟨st [(1, fixN 1), (2, mkWord 6 3)] [], at0, lg 3 1 0 2, k _ _ _ (by decide +kernel)⟩
  · have k : ∀ (s : State) (a : _) (l : _), (readyB s a .sub l fun c r x y s3 => (decide (isTime x = true)) && ((decide (isTime y = true)) && (admitsB s3 0x1 x (some y)))) = true → ∃ c r x y s3, Ready s a .sub l c r x y s3 ∧ isTime x = true ∧ isTime y = true ∧ Admits s3 0x1 x (some y) := by
      intro s a l h
      refine ready_of h fun c r x y s3 h => ?_
      refine and_of h (fun h => of_decide_eq_true h) fun h => ?_
      refine and_of h (fun h => of_decide_eq_true h) fun h => ?_
      exact admits_of h
    exact ⟨st [(1, mkWord 6 5), (2, mkWord 6 0xFFFFFFFFFFFFFF)] [], at0, lg 3 1 0 2, k _ _ _ (by decide +kernel)⟩
  · have k : ∀ (s : State) (a : _) (l : _), (readyB s a .sub l fun c r x y s3 => (decide (isTime x = true)) && ((decide (isFix y = true)) && (admitsB s3 0x1 x (some y)))) = true → ∃ c r x y s3, Ready s a .sub l c r x y s3 ∧ isTime x = true ∧ isFix y = true ∧ Admits s3 0x1 x (some y) := by
      intro s a l h
      refine ready_of h fun c r x y s3 h => ?_
      refine and_of h (fun h => of_decide_eq_true h) fun h => ?_
      refine and_of h (fun h => of_decide_eq_true h) fun h => ?_
      exact admits_of h
    exact ⟨st [(1, mkWord 6 0xFFFFFFFFFFFFFF), (2, fixN 1)] [], at0, lg 3 1 0 2, k _ _ _ (by decide +kernel)⟩
  · have k : ∀ (s : State) (a : _) (l : _) (n : _), (readyB s a .add l fun c r x y s3 => (decide (tagOf x = 0x32)) && ((decide (isFix y = true)) && ((decide ((valOf x : Int) + fixVal y = (n : Nat))) && ((decide (n < 2 ^ 47)) && (decide (n % 16 = 0)))))) = true → ∃ c r x y s3, Ready s a .add l c r x y s3 ∧ tagOf x = 0x32 ∧ isFix y = true ∧ (valOf x : Int) + fixVal y = (n : Nat) ∧ n < 2 ^ 47 ∧ n % 16 = 0 := by
      intro s a l n h
      refine ready_of h fun c r x y s3 h => ?_
      refine and_of h (fun h => of_decide_eq_true h) fun h => ?_
      refine and_of h (fun h => of_decide_eq_true h) fun h => ?_
      refine and_of h (fun h => of_decide_eq_true h) fun h => ?_
      refine and_of h (fun h => of_decide_eq_true h) fun h => ?_
      exact of_decide_eq_true h
    exact ⟨st [(1, mkWord 0x32 0x1000), (2, fixN 16)] [], at0, lg 3 1 0 2, 0x1010, k _ _ _ _ (by decide +kernel)⟩
  · have k : ∀ (s : State) (a : _) (l : _) (n : _), (readyB s a .sub l fun c r x y s3 => (decide (tagOf x = 0x32)) && ((decide (isFix y = true)) && ((decide ((valOf x : Int) - fixVal y = (n : Nat))) && ((decide (n < 2 ^ 47)) && (decide (n % 16 = 0)))))) = true → ∃ c r x y s3, Ready s a .sub l c r x y s3 ∧ tagOf x = 0x32 ∧ isFix y = true ∧ (valOf x : Int) - fixVal y = (n : Nat) ∧ n < 2 ^ 47 ∧ n % 16 = 0 := by
      intro s a l n h
      refine ready_of h fun c r x y s3 h => ?_
      refine and_of h (fun h => of_decide_eq_true h) fun h => ?_
      refine and_of h (fun h => of_decide_eq_true h) fun h => ?_
      refine and_of h (fun h => of_decide_eq_true h) fun h => ?_
      refine and_of h (fun h => of_decide_eq_true h) fun h => ?_
      exact of_decide_eq_true h
    exact ⟨st [(1, mkWord 0x32 0x1000), (2, fixN 16)] [], at0, lg 3 1 0 2, 0xFF0, k _ _ _ _ (by decide +kernel)⟩
  · have k : ∀ (s : State) (a : _) (l : _), (readyB s a .sub l fun c r x y s3 => (decide (tagOf x = 0x32)) && (decide (tagOf y = 0x32))) = true → ∃ c r x y s3, Ready s a .sub l c r x y s3 ∧ tagOf x = 0x32 ∧ tagOf y = 0x32 := by
      intro s a l h
      refine ready_of h fun c r x y s3 h => ?_
      refine and_of h (fun h => of_decide_eq_true h) fun h => ?_
      exact of_decide_eq_true h
    exact ⟨st [(1, mkWord 0x32 0x1000), (2, mkWord 0x32 0x2000)] [], at0, lg 3 1 0 2, k _ _ _ (by decide +kernel)⟩

/-- The hypotheses of part 1 of Obligations.ComparisonsAndUpdatesComplete are met. -/
theorem witness_ComparisonsComplete :
    (∃ (s : State) (a : _) (l : _), ∃ c r x y s3, Ready s a .cmp l c r x y s3 ∧ bothFix x y = true ∧ Admits s3 0x7 x (some y))
    ∧ (∃ (s : State) (a : _) (l : _), ∃ c r x y s3, Ready s a .cmp l c r x y s3 ∧ isTime x = true ∧ isTime y = true ∧ Admits s3 0x7 x (some y))
    ∧ (∃ (s : State) (a : _) (l : _), ∃ c r x y s3, Ready s a .cmp l c r x y s3 ∧ tagOf x = 1 ∧ tagOf y = 1 ∧ Admits s3 0x7 x (some y))
    ∧ (∃ (s : State) (a : _) (l : _), ∃ c r x y s3, Ready s a .cmp l c r x y s3 ∧ bothFix x y = false ∧ Admits s3 0x7 x (some y) ∧ ∃ i j s5, Numbers c x y s3 (.int i) (.int j) s5)
    ∧ (∃ (s : State) (a : _) (l : _), ∃ c r x y s3, Ready s a .cmp l c r x y s3 ∧ Admits s3 0x7 x (some y) ∧ ∃ p q s5, Numbers c x y s3 p q s5 ∧ anyFloat p q = true)
    ∧ (∃ (s : State) (a : _) (l : _), ∃ c r x y s3, Ready s a .fcmp l c r x y s3 ∧ Admits s3 0xF x (some y) ∧ ∃ p q s5, Numbers c x y s3 p q s5) := by
  refine ⟨?_, ?_, ?_, ?_, ?_, ?_⟩
  · have k : ∀ (s : State) (a : _) (l : _), (readyB s a .cmp l fun c r x y s3 => (decide (bothFix x y = true)) && (admitsB s3 0x7 x (some y))) = true → ∃ c r x y s3, Ready s a .cmp l c r x y s3 ∧ bothFix x y = true ∧ Admits s3 0x7 x (some y) := by
      intro s a l h
      refine ready_of h fun c r x y s3 h => ?_
      refine and_of h (fun h => of_decide_eq_true h) fun h => ?_
      exact admits_of h
    exact ⟨st [(1, fixN 7), (2, fixN 5)] [], at0, lg 0 1 0 2, k _ _ _ (by decide +kernel)⟩
  · have k : ∀ (s : State) (a : _) (l : _), (readyB s a .cmp l fun c r x y s3 => (decide (isTime x = true)) && ((decide (isTime y = true)) && (admitsB s3 0x7 x (some y)))) = true → ∃ c r x y s3, Ready s a .cmp l c r x y s3 ∧ isTime x = true ∧ isTime y = true ∧ Admits s3 0x7 x (some y) := by
      intro s a l h
      refine ready_of h fun c r x y s3 h => ?_
      refine and_of h (fun h => of_decide_eq_true h) fun h => ?_
      refine and_of h (fun h => of_decide_eq_true h) fun h => ?_
      exact admits_of h
    exact ⟨st [(1, mkWord 6 5), (2, mkWord 6 0xFFFFFFFFFFFFFF)] [], at0, lg 0 1 0 2, k _ _ _ (by decide +kernel)⟩
  · have k : ∀ (s : State) (a : _) (l : _), (readyB s a .cmp l fun c r x y s3 => (decide (tagOf x = 1)) && ((decide (tagOf y = 1)) && (admitsB s3 0x7 x (some y)))) = true → ∃ c r x y s3, Ready s a .cmp l c r x y s3 ∧ tagOf x = 1 ∧ tagOf y = 1 ∧ Admits s3 0x7 x (some y) := by
      intro s a l h
      refine ready_of h fun c r x y s3 h => ?_
      refine and_of h (fun h => of_decide_eq_true h) fun h => ?_
      refine and_of h (fun h => of_decide_eq_true h) fun h => ?_
      exact admits_of h
    exact ⟨st [(1, mkWord 1 0x41), (2, mkWord 1 0x10FFFF)] [], at0, lg 0 1 0 2, k _ _ _ (by decide +kernel)⟩
  · have k : ∀ (s : State) (a : _) (l : _), (readyB s a .cmp l fun c r x y s3 => (decide (bothFix x y = false)) && ((admitsB s3 0x7 x (some y)) && (intsB c x y s3 fun i j s5 => true))) = true → ∃ c r x y s3, Ready s a .cmp l c r x y s3 ∧ bothFix x y = false ∧ Admits s3 0x7 x (some y) ∧ ∃ i j s5, Numbers c x y s3 (.int i) (.int j) s5 := by
      intro s a l h
      refine ready_of h fun c r x y s3 h => ?_
      refine and_of h (fun h => of_decide_eq_true h) fun h => ?_
      refine and_of h (fun h => admits_of h) fun h => ?_
      obtain ⟨i, j, s5, h, -⟩ := ints_of (P := fun _ _ _ => True) h fun _ _ _ _ => trivial
      exact ⟨i, j, s5, h⟩
    exact ⟨st [(1, mkWord 0x17 0x1000), (2, fixN 5)] [(0x1000, mkHeader 0x22 4 8 0), (0x1008, 0x80000000000000#64)], at0, lg 0 1 0 2, k _ _ _ (by decide +kernel)⟩
  · have k : ∀ (s : State) (a : _) (l : _), (readyB s a .cmp l fun c r x y s3 => (admitsB s3 0x7 x (some y)) && (numbersB c x y s3 fun p q s5 => decide (anyFloat p q = true))) = true → ∃ c r x y s3, Ready s a .cmp l c r x y s3 ∧ Admits s3 0x7 x (some y) ∧ ∃ p q s5, Numbers c x y s3 p q s5 ∧ anyFloat p q = true := by
      intro s a l h
      refine ready_of h fun c r x y s3 h => ?_
      refine and_of h (fun h => admits_of h) fun h => ?_
      refine numbers_of h fun p q s5 h => ?_
      exact of_decide_eq_true h
    exact ⟨st [(1, mkWord 2 0x3FF00000000000), (2, mkWord 2 0x7FF00000000001)] [], at0, lg 0 1 0 2, k _ _ _ (by decide +kernel)⟩
  · have k : ∀ (s : State) (a : _) (l : _), (readyB s a .fcmp l fun c r x y s3 => (admitsB s3 0xF x (some y)) && (numbersB c x y s3 fun p q s5 => true)) = true → ∃ c r x y s3, Ready s a .fcmp l c r x y s3 ∧ Admits s3 0xF x (some y) ∧ ∃ p q s5, Numbers c x y s3 p q s5 := by
      intro s a l h
      refine ready_of h fun c r x y s3 h => ?_
      refine and_of h (fun h => admits_of h) fun h => ?_
      obtain ⟨p, q, s5, h, -⟩ := numbers_of (P := fun _ _ _ => True) h fun _ _ _ _ => trivial
      exact ⟨p, q, s5, h⟩
    exact ⟨st [(1, fixN 7), (2, fixN 5)] [], at0, lg 0 1 0 2, k _ _ _ (by decide +kernel)⟩

/-- The hypotheses of part 2 of Obligations.ComparisonsAndUpdatesComplete are met. -/
theorem witness_UpdatesComplete :
    (∃ (s : State) (a : _) (l : _), ∃ c r x y s3, Ready s a .addto l c r x y s3 ∧ Admits s3 0x0 x (some y) ∧ ∃ i j s5, Numbers c x y s3 (.int i) (.int j) s5 ∧ ∃ w s6, intResult c (i + j) s5 = .ok (w, s6) ∧ ∃ s7, writeB c r.b w (withFlags s6 c (if bothFix x y then flagsAdd i j else flagsInt (i + j))) = .ok ((), s7))
    ∧ (∃ (s : State) (a : _) (l : _), ∃ c r x y s3, Ready s a .subto l c r x y s3 ∧ Admits s3 0x1 y (some x) ∧ ∃ i j s5, Numbers c y x s3 (.int i) (.int j) s5 ∧ ∃ w s6, intResult c (i - j) s5 = .ok (w, s6) ∧ ∃ s7, writeB c r.b w (withFlags s6 c (if bothFix y x then flagsSub i j else flagsInt (i - j))) = .ok ((), s7))
    ∧ (∃ (s : State) (a : _) (l : _), ∃ c r x y s3, Ready s a .addto l c r x y s3 ∧ Admits s3 0x0 x (some y) ∧ ∃ p q s5, Numbers c x y s3 p q s5 ∧ anyFloat p q = true ∧ ∃ w s6, floatResult c (addF p.bits q.bits) s5 = .ok (w, s6) ∧ ∃ s7, writeB c r.b w (withFlags s6 c (flagsFloat (addF p.bits q.bits))) = .ok ((), s7))
    ∧ (∃ (s : State) (a : _) (l : _), ∃ c r x y s3, Ready s a .subto l c r x y s3 ∧ Admits s3 0x1 y (some x) ∧ ∃ p q s5, Numbers c y x s3 p q s5 ∧ anyFloat p q = true ∧ ∃ w s6, floatResult c (subF p.bits q.bits) s5 = .ok (w, s6) ∧ ∃ s7, writeB c r.b w (withFlags s6 c (flagsFloat (subF p.bits q.bits))) = .ok ((), s7)) := by
  refine ⟨?_, ?_, ?_, ?_⟩
  · have k : ∀ (s : State) (a : _) (l : _), (readyB s a .addto l fun c r x y s3 => (admitsB s3 0x0 x (some y)) && (intsB c x y s3 fun i j s5 => okB (intResult c (i + j) s5) fun w s6 => okU (writeB c r.b w (withFlags s6 c (if bothFix x y then flagsAdd i j else flagsInt (i + j)))) fun s7 => true)) = true → ∃ c r x y s3, Ready s a .addto l c r x y s3 ∧ Admits s3 0x0 x (some y) ∧ ∃ i j s5, Numbers c x y s3 (.int i) (.int j) s5 ∧ ∃ w s6, intResult c (i + j) s5 = .ok (w, s6) ∧ ∃ s7, writeB c r.b w (withFlags s6 c (if bothFix x y then flagsAdd i j else flagsInt (i + j))) = .ok ((), s7) := by
      intro s a l h
      refine ready_of h fun c r x y s3 h => ?_
      refine and_of h (fun h => admits_of h) fun h => ?_
      refine ints_of h fun i j s5 h => ?_
      refine ok_of h fun w s6 h => ?_
      obtain ⟨s7, h, -⟩ := okU_of (P := fun _ => True) h fun _ _ => trivial
      exact ⟨s7, h⟩
    exact ⟨st [(1, fixN 7), (2, fixN 5)] [], at0, lg 0 1 0 2, k _ _ _ (by decide +kernel)⟩
  · have k : ∀ (s : State) (a : _) (l : _), (readyB s a .subto l fun c r x y s3 => (admitsB s3 0x1 y (some x)) && (intsB c y x s3 fun i j s5 => okB (intResult c (i - j) s5) fun w s6 => okU (writeB c r.b w (withFlags s6 c (if bothFix y x then flagsSub i j else flagsInt (i - j)))) fun s7 => true)) = true → ∃ c r x y s3, Ready s a .subto l c r x y s3 ∧ Admits s3 0x1 y (some x) ∧ ∃ i j s5, Numbers c y x s3 (.int i) (.int j) s5 ∧ ∃ w s6, intResult c (i - j) s5 = .ok (w, s6) ∧ ∃ s7, writeB c r.b w (withFlags s6 c (if bothFix y x then flagsSub i j else flagsInt (i - j))) = .ok ((), s7) := by
      intro s a l h
      refine ready_of h fun c r x y s3 h => ?_
      refine and_of h (fun h => admits_of h) fun h => ?_
      refine ints_of h fun i j s5 h => ?_
      refine ok_of h fun w s6 h => ?_
      obtain ⟨s7, h, -⟩ := okU_of (P := fun _ => True) h fun _ _ => trivial
      exact ⟨s7, h⟩
    exact ⟨st [(1, fixN 7), (2, fixN 5)] [], at0, lg 0 1 0 2, k _ _ _ (by decide +kernel)⟩
  · have k : ∀ (s : State) (a : _) (l : _), (readyB s a .addto l fun c r x y s3 => (admitsB s3 0x0 x (some y)) && (numbersB c x y s3 fun p q s5 => (decide (anyFloat p q = true)) && (okB (floatResult c (addF p.bits q.bits) s5) fun w s6 => okU (writeB c r.b w (withFlags s6 c (flagsFloat (addF p.bits q.bits)))) fun s7 => true))) = true → ∃ c r x y s3, Ready s a .addto l c r x y s3 ∧ Admits s3 0x0 x (some y) ∧ ∃ p q s5, Numbers c x y s3 p q s5 ∧ anyFloat p q = true ∧ ∃ w s6, floatResult c (addF p.bits q.bits) s5 = .ok (w, s6) ∧ ∃ s7, writeB c r.b w (withFlags s6 c (flagsFloat (addF p.bits q.bits))) = .ok ((), s7) := by
      intro s a l h
      refine ready_of h fun c r x y s3 h => ?_
      refine and_of h (fun h => admits_of h) fun h => ?_
      refine numbers_of h fun p q s5 h => ?_
      refine and_of h (fun h => of_decide_eq_true h) fun h => ?_
      refine ok_of h fun w s6 h => ?_
      obtain ⟨s7, h, -⟩ := okU_of (P := fun _ => True) h fun _ _ => trivial
      exact ⟨s7, h⟩
    exact ⟨st [(1, mkWord 2 0x3FF00000000000), (2, mkWord 2 0xC0000000000000)] [], at0, lg 0 1 0 2, k _ _ _ (by decide +kernel)⟩
  · have k : ∀ (s : State) (a : _) (l : _), (readyB s a .subto l fun c r x y s3 => (admitsB s3 0x1 y (some x)) && (numbersB c y x s3 fun p q s5 => (decide (anyFloat p q = true)) && (okB (floatResult c (subF p.bits q.bits) s5) fun w s6 => okU (writeB c r.b w (withFlags s6 c (flagsFloat (subF p.bits q.bits)))) fun s7 => true))) = true → ∃ c r x y s3, Ready s a .subto l c r x y s3 ∧ Admits s3 0x1 y (some x) ∧ ∃ p q s5, Numbers c y x s3 p q s5 ∧ anyFloat p q = true ∧ ∃ w s6, floatResult c (subF p.bits q.bits) s5 = .ok (w, s6) ∧ ∃ s7, writeB c r.b w (withFlags s6 c (flagsFloat (subF p.bits q.bits))) = .ok ((), s7) := by
      intro s a l h
      refine ready_of h fun c r x y s3 h => ?_
      refine and_of h (fun h => admits_of h) fun h => ?_
      refine numbers_of h fun p q s5 h => ?_
      refine and_of h (fun h => of_decide_eq_true h) fun h => ?_
      refine ok_of h fun w s6 h => ?_
      obtain ⟨s7, h, -⟩ := okU_of (P := fun _ => True) h fun _ _ => trivial
      exact ⟨s7, h⟩
    exact ⟨st [(1, mkWord 2 0x3FF00000000000), (2, fixN 3)] [], at0, lg 0 1 0 2, k _ _ _ (by decide +kernel)⟩

/-- The hypotheses of part 3 of Obligations.ComparisonsAndUpdatesComplete are met. -/
theorem witness_DispatchTrapsTaken :
    (∃ (s : State) (a : _) (l : _), ∃ c r x y s3, Ready s a .add l c r x y s3 ∧ tagOf x ≠ 0x32 ∧ tagOf x ≠ 0x11 ∧ ¬ Admits s3 0x0 x (some y))
    ∧ (∃ (s : State) (a : _) (l : _), ∃ c r x y s3, Ready s a .sub l c r x y s3 ∧ tagOf x ≠ 0x32 ∧ tagOf x ≠ 0x11 ∧ ¬ Admits s3 0x1 x (some y))
    ∧ (∃ (s : State) (a : _) (l : _), ∃ c r x y s3, Ready s a .mul l c r x y s3 ∧ tagOf x ≠ 0x32 ∧ tagOf x ≠ 0x11 ∧ ¬ Admits s3 0x2 x (some y))
    ∧ (∃ (s : State) (a : _) (l : _), ∃ c r x y s3, Ready s a .div l c r x y s3 ∧ tagOf x ≠ 0x32 ∧ tagOf x ≠ 0x11 ∧ ¬ Admits s3 0x3 x (some y))
    ∧ (∃ (s : State) (a : _) (l : _), ∃ c r x y s3, Ready s a .rem l c r x y s3 ∧ tagOf x ≠ 0x32 ∧ tagOf x ≠ 0x11 ∧ ¬ Admits s3 0x4 x (some y))
    ∧ (∃ (s : State) (a : _) (l : _), ∃ c r x y s3, Ready s a .cmp l c r x y s3 ∧ tagOf x ≠ 0x32 ∧ tagOf x ≠ 0x11 ∧ ¬ Admits s3 0x7 x (some y))
    ∧ (∃ (s : State) (a : _) (l : _), ∃ c r x y s3, Ready s a .fadd l c r x y s3 ∧ tagOf x ≠ 0x32 ∧ tagOf x ≠ 0x11 ∧ ¬ Admits s3 0x9 x (some y))
    ∧ (∃ (s : State) (a : _) (l : _), ∃ c r x y s3, Ready s a .fsub l c r x y s3 ∧ tagOf x ≠ 0x32 ∧ tagOf x ≠ 0x11 ∧ ¬ Admits s3 0xA x (some y))
    ∧ (∃ (s : State) (a : _) (l : _), ∃ c r x y s3, Ready s a .fmul l c r x y s3 ∧ tagOf x ≠ 0x32 ∧ tagOf x ≠ 0x11 ∧ ¬ Admits s3 0xB x (some y))
    ∧ (∃ (s : State) (a : _) (l : _), ∃ c r x y s3, Ready s a .fdiv l c r x y s3 ∧ tagOf x ≠ 0x32 ∧ tagOf x ≠ 0x11 ∧ ¬ Admits s3 0xC x (some y))
    ∧ (∃ (s : State) (a : _) (l : _), ∃ c r x y s3, Ready s a .fcmp l c r x y s3 ∧ tagOf x ≠ 0x32 ∧ tagOf x ≠ 0x11 ∧ ¬ Admits s3 0xF x (some y))
    ∧ (∃ (s : State) (a : _) (l : _), ∃ c r x y s3, Ready s a .neg l c r x y s3 ∧ ¬ Admits s3 0x5 y none)
    ∧ (∃ (s : State) (a : _) (l : _), ∃ c r x y s3, Ready s a .abs l c r x y s3 ∧ ¬ Admits s3 0x6 y none)
    ∧ (∃ (s : State) (a : _) (l : _), ∃ c r x y s3, Ready s a .fsqrt l c r x y s3 ∧ ¬ Admits s3 0xD y none) := by
  refine ⟨?_, ?_, ?_, ?_, ?_, ?_, ?_, ?_, ?_, ?_, ?_, ?_, ?_, ?_⟩
  · have k : ∀ (s : State) (a : _) (l : _), (readyB s a .add l fun c r x y s3 => (decide (tagOf x ≠ 0x32)) && ((decide (tagOf x ≠ 0x11)) && (!admitsB s3 0x0 x (some y)))) = true → ∃ c r x y s3, Ready s a .add l c r x y s3 ∧ tagOf x ≠ 0x32 ∧ tagOf x ≠ 0x11 ∧ ¬ Admits s3 0x0 x (some y) := by
      intro s a l h
      refine ready_of h fun c r x y s3 h => ?_
      refine and_of h (fun h => of_decide_eq_true h) fun h => ?_
      refine and_of h (fun h => of_decide_eq_true h) fun h => ?_
      exact notAdmits_of h
    exact ⟨(st [(1, fixN 7), (2, fixN 5)] []).setF .cfgGdt 0 17 16 2, at0, lg 3 1 0 2, k _ _ _ (by decide +kernel)⟩
  · have k : ∀ (s : State) (a : _) (l : _), (readyB s a .sub l fun c r x y s3 => (decide (tagOf x ≠ 0x32)) && ((decide (tagOf x ≠ 0x11)) && (!admitsB s3 0x1 x (some y)))) = true → ∃ c r x y s3, Ready s a .sub l c r x y s3 ∧ tagOf x ≠ 0x32 ∧ tagOf x ≠ 0x11 ∧ ¬ Admits s3 0x1 x (some y) := by
      intro s a l h
      refine ready_of h fun c r x y s3 h => ?_
      refine and_of h (fun h => of_decide_eq_true h) fun h => ?_
      refine and_of h (fun h => of_decide_eq_true h) fun h => ?_
      exact notAdmits_of h
    exact ⟨(st [(1, fixN 7), (2, fixN 5)] []).setF .cfgGdt 256 17 16 2, at0, lg 3 1 0 2, k _ _ _ (by decide +kernel)⟩
  · have k : ∀ (s : State) (a : _) (l : _), (readyB s a .mul l fun c r x y s3 => (decide (tagOf x ≠ 0x32)) && ((decide (tagOf x ≠ 0x11)) && (!admitsB s3 0x2 x (some y)))) = true → ∃ c r x y s3, Ready s a .mul l c r x y s3 ∧ tagOf x ≠ 0x32 ∧ tagOf x ≠ 0x11 ∧ ¬ Admits s3 0x2 x (some y) := by
      intro s a l h
      refine ready_of h fun c r x y s3 h => ?_
      refine and_of h (fun h => of_decide_eq_true h) fun h => ?_
      refine and_of h (fun h => of_decide_eq_true h) fun h => ?_
      exact notAdmits_of h
    exact ⟨(st [(1, fixN 7), (2, fixN 5)] []).setF .cfgGdt 512 17 16 2, at0, lg 3 1 0 2, k _ _ _ (by decide +kernel)⟩
  · have k : ∀ (s : State) (a : _) (l : _), (readyB s a .div l fun c r x y s3 => (decide (tagOf x ≠ 0x32)) && ((decide (tagOf x ≠ 0x11)) && (!admitsB s3 0x3 x (some y)))) = true → ∃ c r x y s3, Ready s a .div l c r x y s3 ∧ tagOf x ≠ 0x32 ∧ tagOf x ≠ 0x11 ∧ ¬ Admits s3 0x3 x (some y) := by
      intro s a l h
      refine ready_of h fun c r x y s3 h => ?_
      refine and_of h (fun h => of_decide_eq_true h) fun h => ?_
      refine and_of h (fun h => of_decide_eq_true h) fun h => ?_
      exact notAdmits_of h
    exact ⟨(st [(1, fixN 7), (2, fixN 5)] []).setF .cfgGdt 768 17 16 2, at0, lg 3 1 0 2, k _ _ _ (by decide +kernel)⟩
  · have k : ∀ (s : State) (a : _) (l : _), (readyB s a .rem l fun c r x y s3 => (decide (tagOf x ≠ 0x32)) && ((decide (tagOf x ≠ 0x11)) && (!admitsB s3 0x4 x (some y)))) = true → ∃ c r x y s3, Ready s a .rem l c r x y s3 ∧ tagOf x ≠ 0x32 ∧ tagOf x ≠ 0x11 ∧ ¬ Admits s3 0x4 x (some y) := by
      intro s a l h
      refine ready_of h fun c r x y s3 h => ?_
      refine and_of h (fun h => of_decide_eq_true h) fun h => ?_
      refine and_of h (fun h => of_decide_eq_true h) fun h => ?_
      exact notAdmits_of h
    exact ⟨(st [(1, fixN 7), (2, fixN 5)] []).setF .cfgGdt 1024 17 16 2, at0, lg 3 1 0 2, k _ _ _ (by decide +kernel)⟩
  · have k : ∀ (s : State) (a : _) (l : _), (readyB s a .cmp l fun c r x y s3 => (decide (tagOf x ≠ 0x32)) && ((decide (tagOf x ≠ 0x11)) && (!admitsB s3 0x7 x (some y)))) = true → ∃ c r x y s3, Ready s a .cmp l c r x y s3 ∧ tagOf x ≠ 0x32 ∧ tagOf x ≠ 0x11 ∧ ¬ Admits s3 0x7 x (some y) := by
      intro s a l h
      refine ready_of h fun c r x y s3 h => ?_
      refine and_of h (fun h => of_decide_eq_true h) fun h => ?_
      refine and_of h (fun h => of_decide_eq_true h) fun h => ?_
      exact notAdmits_of h
    exact ⟨(st [(1, fixN 7), (2, fixN 5)] []).setF .cfgGdt 1792 17 16 2, at0, lg 0 1 0 2, k _ _ _ (by decide +kernel)⟩
  · have k : ∀ (s : State) (a : _) (l : _), (readyB s a .fadd l fun c r x y s3 => (decide (tagOf x ≠ 0x32)) && ((decide (tagOf x ≠ 0x11)) && (!admitsB s3 0x9 x (some y)))) = true → ∃ c r x y s3, Ready s a .fadd l c r x y s3 ∧ tagOf x ≠ 0x32 ∧ tagOf x ≠ 0x11 ∧ ¬ Admits s3 0x9 x (some y) := by
      intro s a l h
      refine ready_of h fun c r x y s3 h => ?_
      refine and_of h (fun h => of_decide_eq_true h) fun h => ?_
      refine and_of h (fun h => of_decide_eq_true h) fun h => ?_
      exact notAdmits_of h
    exact ⟨(st [(1, fixN 7), (2, fixN 5)] []).setF .cfgGdt 2304 17 16 2, at0, lg 3 1 0 2, k _ _ _ (by decide +kernel)⟩
  · have k : ∀ (s : State) (a : _) (l : _), (readyB s a .fsub l fun c r x y s3 => (decide (tagOf x ≠ 0x32)) && ((decide (tagOf x ≠ 0x11)) && (!admitsB s3 0xA x (some y)))) = true → ∃ c r x y s3, Ready s a .fsub l c r x y s3 ∧ tagOf x ≠ 0x32 ∧ tagOf x ≠ 0x11 ∧ ¬ Admits s3 0xA x (some y) := by
      intro s a l h
      refine ready_of h fun c r x y s3 h => ?_
      refine and_of h (fun h => of_decide_eq_true h) fun h => ?_
      refine and_of h (fun h => of_decide_eq_true h) fun h => ?_
      exact notAdmits_of h
    exact ⟨(st [(1, fixN 7), (2, fixN 5)] []).setF .cfgGdt 2560 17 16 2, at0, lg 3 1 0 2, k _ _ _ (by decide +kernel)⟩
  · have k : ∀ (s : State) (a : _) (l : _), (readyB s a .fmul l fun c r x y s3 => (decide (tagOf x ≠ 0x32)) && ((decide (tagOf x ≠ 0x11)) && (!admitsB s3 0xB x (some y)))) = true → ∃ c r x y s3, Ready s a .fmul l c r x y s3 ∧ tagOf x ≠ 0x32 ∧ tagOf x ≠ 0x11 ∧ ¬ Admits s3 0xB x (some y) := by
      intro s a l h
      refine ready_of h fun c r x y s3 h => ?_
      refine and_of h (fun h => of_decide_eq_true h) fun h => ?_
      refine and_of h (fun h => of_decide_eq_true h) fun h => ?_
      exact notAdmits_of h
    exact ⟨(st [(1, fixN 7), (2, fixN 5)] []).setF .cfgGdt 2816 17 16 2, at0, lg 3 1 0 2, k _ _ _ (by decide +kernel)⟩
  · have k : ∀ (s : State) (a : _) (l : _), (readyB s a .fdiv l fun c r x y s3 => (decide (tagOf x ≠ 0x32)) && ((decide (tagOf x ≠ 0x11)) && (!admitsB s3 0xC x (some y)))) = true → ∃ c r x y s3, Ready s a .fdiv l c r x y s3 ∧ tagOf x ≠ 0x32 ∧ tagOf x ≠ 0x11 ∧ ¬ Admits s3 0xC x (some y) := by
      intro s a l h
      refine ready_of h fun c r x y s3 h => ?_
      refine and_of h (fun h => of_decide_eq_true h) fun h => ?_
      refine and_of h (fun h => of_decide_eq_true h) fun h => ?_
      exact notAdmits_of h
    exact ⟨(st [(1, fixN 7), (2, fixN 5)] []).setF .cfgGdt 3072 17 16 2, at0, lg 3 1 0 2, k _ _ _ (by decide +kernel)⟩
  · have k : ∀ (s : State) (a : _) (l : _), (readyB s a .fcmp l fun c r x y s3 => (decide (tagOf x ≠ 0x32)) && ((decide (tagOf x ≠ 0x11)) && (!admitsB s3 0xF x (some y)))) = true → ∃ c r x y s3, Ready s a .fcmp l c r x y s3 ∧ tagOf x ≠ 0x32 ∧ tagOf x ≠ 0x11 ∧ ¬ Admits s3 0xF x (some y) := by
      intro s a l h
      refine ready_of h fun c r x y s3 h => ?_
      refine and_of h (fun h => of_decide_eq_true h) fun h => ?_
      refine and_of h (fun h => of_decide_eq_true h) fun h => ?_
      exact notAdmits_of h
    exact ⟨(st [(1, fixN 7), (2, fixN 5)] []).setF .cfgGdt 3840 17 16 2, at0, lg 0 1 0 2, k _ _ _ (by decide +kernel)⟩
  · have k : ∀ (s : State) (a : _) (l : _), (readyB s a .neg l fun c r x y s3 => !admitsB s3 0x5 y none) = true → ∃ c r x y s3, Ready s a .neg l c r x y s3 ∧ ¬ Admits s3 0x5 y none := by
      intro s a l h
      refine ready_of h fun c r x y s3 h => ?_
      exact notAdmits_of h
    exact ⟨(st [(1, fixN 7), (2, fixN 5)] []).setF .cfgGdt 1280 17 16 2, at0, lg 3 0 0 2, k _ _ _ (by decide +kernel)⟩
  · have k : ∀ (s : State) (a : _) (l : _), (readyB s a .abs l fun c r x y s3 => !admitsB s3 0x6 y none) = true → ∃ c r x y s3, Ready s a .abs l c r x y s3 ∧ ¬ Admits s3 0x6 y none := by
      intro s a l h
      refine ready_of h fun c r x y s3 h => ?_
      exact notAdmits_of h
    exact ⟨(st [(1, fixN 7), (2, fixN 5)] []).setF .cfgGdt 1536 17 16 2, at0, lg 3 0 0 2, k _ _ _ (by decide +kernel)⟩
  · have k : ∀ (s : State) (a : _) (l : _), (readyB s a .fsqrt l fun c r x y s3 => !admitsB s3 0xD y none) = true → ∃ c r x y s3, Ready s a .fsqrt l c r x y s3 ∧ ¬ Admits s3 0xD y none := by
      intro s a l h
      refine ready_of h fun c r x y s3 h => ?_
      exact notAdmits_of h
    exact ⟨(st [(1, fixN 7), (2, fixN 5)] []).setF .cfgGdt 3328 17 16 2, at0, lg 3 0 0 2, k _ _ _ (by decide +kernel)⟩

/-- The hypotheses of Obligations.FloatsComplete are met. -/
theorem witness_FloatsComplete :
    (∃ (s : State) (a : _) (l : _), ∃ c r x y s3, Ready s a Opcode.fadd l c r x y s3 ∧ Admits s3 0x9 x (some y) ∧ ∃ p q s5, Numbers c x y s3 p q s5 ∧ ∃ w s6, floatResult c (addF p.bits q.bits) s5 = .ok (w, s6))
    ∧ (∃ (s : State) (a : _) (l : _), ∃ c r x y s3, Ready s a Opcode.fsub l c r x y s3 ∧ Admits s3 0xA x (some y) ∧ ∃ p q s5, Numbers c x y s3 p q s5 ∧ ∃ w s6, floatResult c (subF p.bits q.bits) s5 = .ok (w, s6))
    ∧ (∃ (s : State) (a : _) (l : _), ∃ c r x y s3, Ready s a Opcode.fmul l c r x y s3 ∧ Admits s3 0xB x (some y) ∧ ∃ p q s5, Numbers c x y s3 p q s5 ∧ ∃ w s6, floatResult c (mulF p.bits q.bits) s5 = .ok (w, s6))
    ∧ (∃ (s : State) (a : _) (l : _), ∃ c r x y s3, Ready s a Opcode.fdiv l c r x y s3 ∧ Admits s3 0xC x (some y) ∧ ∃ p q s5, Numbers c x y s3 p q s5 ∧ ∃ w s6, floatResult c (divF p.bits q.bits) s5 = .ok (w, s6))
    ∧ (∃ (s : State) (a : _) (l : _), ∃ c r x y s3, Ready s a .fsqrt l c r x y s3 ∧ Admits s3 0xD y none ∧ ∃ p s4, numOf c y s3 = .ok (p, s4) ∧ ∃ w s5, floatResult c (sqrtF p.bits) s4 = .ok (w, s5))
    ∧ (∃ (s : State) (a : _) (l : _), ∃ c r w1 y s3, Ready s a .fcvt l c r w1 y s3 ∧ w1 = (fixN 0) ∧ Admits s3 0xE y none ∧ ∃ i s4, numOf c y s3 = .ok (.int i, s4) ∧ ∃ w s5, floatResult c (intToF i) s4 = .ok (w, s5))
    ∧ (∃ (s : State) (a : _) (l : _), ∃ c r w1 y s3, Ready s a .fcvt l c r w1 y s3 ∧ w1 = (fixN 0) ∧ Admits s3 0xE y none ∧ ∃ b s4, numOf c y s3 = .ok (.flt b, s4) ∧ ∃ w s5, floatResult c (if isNaNF b then quiet b else b) s4 = .ok (w, s5))
    ∧ (∃ (s : State) (a : _) (l : _) (m : _), ∃ c r w1 y s3, Ready s a .fcvt l c r w1 y s3 ∧ w1 = (fixN m) ∧ 1 ≤ m ∧ m ≤ 3 ∧ Admits s3 0xE y none ∧ ∃ p s4, numOf c y s3 = .ok (p, s4) ∧ ∃ i, numInt m p = some i ∧ ∃ w s5, intResult c i s4 = .ok (w, s5))
    ∧ (∃ (s : State) (a : _) (l : _) (m : _), ∃ c r w1 y s3, Ready s a .fcvt l c r w1 y s3 ∧ w1 = (fixN m) ∧ 1 ≤ m ∧ m ≤ 3 ∧ Admits s3 0xE y none ∧ ∃ p s4, numOf c y s3 = .ok (p, s4) ∧ ∃ i, numInt m p = some i ∧ ∃ w s5, intResult c i s4 = .ok (w, s5))
    ∧ (∃ (s : State) (a : _) (l : _) (m : _), ∃ c r w1 y s3, Ready s a .fcvt l c r w1 y s3 ∧ w1 = (fixN m) ∧ 1 ≤ m ∧ m ≤ 3 ∧ Admits s3 0xE y none ∧ ∃ p s4, numOf c y s3 = .ok (p, s4) ∧ ∃ i, numInt m p = some i ∧ ∃ w s5, intResult c i s4 = .ok (w, s5)) := by
  refine ⟨?_, ?_, ?_, ?_, ?_, ?_, ?_, ?_, ?_, ?_⟩
  · have k : ∀ (s : State) (a : _) (l : _), (readyB s a Opcode.fadd l fun c r x y s3 => (admitsB s3 0x9 x (some y)) && (numbersB c x y s3 fun p q s5 => okB (floatResult c (addF p.bits q.bits) s5) fun w s6 => true)) = true → ∃ c r x y s3, Ready s a Opcode.fadd l c r x y s3 ∧ Admits s3 0x9 x (some y) ∧ ∃ p q s5, Numbers c x y s3 p q s5 ∧ ∃ w s6, floatResult c (addF p.bits q.bits) s5 = .ok (w, s6) := by
      intro s a l h
      refine ready_of h fun c r x y s3 h => ?_
      refine and_of h (fun h => admits_of h) fun h => ?_
      refine numbers_of h fun p q s5 h => ?_
      obtain ⟨w, s6, h, -⟩ := ok_of (P := fun _ _ => True) h fun _ _ _ => trivial
      exact ⟨w, s6, h⟩
    exact ⟨st [(1, mkWord 2 0x3FF00000000000), (2, mkWord 2 0xC0000000000000)] [], at0, lg 3 1 0 2, k _ _ _ (by decide +kernel)⟩
  · have k : ∀ (s : State) (a : _) (l : _), (readyB s a Opcode.fsub l fun c r x y s3 => (admitsB s3 0xA x (some y)) && (numbersB c x y s3 fun p q s5 => okB (floatResult c (subF p.bits q.bits) s5) fun w s6 => true)) = true → ∃ c r x y s3, Ready s a Opcode.fsub l c r x y s3 ∧ Admits s3 0xA x (some y) ∧ ∃ p q s5, Numbers c x y s3 p q s5 ∧ ∃ w s6, floatResult c (subF p.bits q.bits) s5 = .ok (w, s6) := by
      intro s a l h
      refine ready_of h fun c r x y s3 h => ?_
      refine and_of h (fun h => admits_of h) fun h => ?_
      refine numbers_of h fun p q s5 h => ?_
      obtain ⟨w, s6, h, -⟩ := ok_of (P := fun _ _ => True) h fun _ _ _ => trivial
      exact ⟨w, s6, h⟩
    exact ⟨st [(1, mkWord 2 0x3FF00000000000), (2, mkWord 2 0xC0000000000000)] [], at0, lg 3 1 0 2, k _ _ _ (by decide +kernel)⟩
  · have k : ∀ (s : State) (a : _) (l : _), (readyB s a Opcode.fmul l fun c r x y s3 => (admitsB s3 0xB x (some y)) && (numbersB c x y s3 fun p q s5 => okB (floatResult c (mulF p.bits q.bits) s5) fun w s6 => true)) = true → ∃ c r x y s3, Ready s a Opcode.fmul l c r x y s3 ∧ Admits s3 0xB x (some y) ∧ ∃ p q s5, Numbers c x y s3 p q s5 ∧ ∃ w s6, floatResult c (mulF p.bits q.bits) s5 = .ok (w, s6) := by
      intro s a l h
      refine ready_of h fun c r x y s3 h => ?_
      refine and_of h (fun h => admits_of h) fun h => ?_
      refine numbers_of h fun p q s5 h => ?_
      obtain ⟨w, s6, h, -⟩ := ok_of (P := fun _ _ => True) h fun _ _ _ => trivial
      exact ⟨w, s6, h⟩
    exact ⟨st [(1, mkWord 2 0x3FF00000000000), (2, mkWord 2 0xC0000000000000)] [], at0, lg 3 1 0 2, k _ _ _ (by decide +kernel)⟩
  · have k : ∀ (s : State) (a : _) (l : _), (readyB s a Opcode.fdiv l fun c r x y s3 => (admitsB s3 0xC x (some y)) && (numbersB c x y s3 fun p q s5 => okB (floatResult c (divF p.bits q.bits) s5) fun w s6 => true)) = true → ∃ c r x y s3, Ready s a Opcode.fdiv l c r x y s3 ∧ Admits s3 0xC x (some y) ∧ ∃ p q s5, Numbers c x y s3 p q s5 ∧ ∃ w s6, floatResult c (divF p.bits q.bits) s5 = .ok (w, s6) := by
      intro s a l h
      refine ready_of h fun c r x y s3 h => ?_
      refine and_of h (fun h => admits_of h) fun h => ?_
      refine numbers_of h fun p q s5 h => ?_
      obtain ⟨w, s6, h, -⟩ := ok_of (P := fun _ _ => True) h fun _ _ _ => trivial
      exact ⟨w, s6, h⟩
    exact ⟨st [(1, mkWord 2 0x3FF00000000000), (2, mkWord 2 0xC0000000000000)] [], at0, lg 3 1 0 2, k _ _ _ (by decide +kernel)⟩
  · have k : ∀ (s : State) (a : _) (l : _), (readyB s a .fsqrt l fun c r x y s3 => (admitsB s3 0xD y none) && (okB (numOf c y s3) fun p s4 => okB (floatResult c (sqrtF p.bits) s4) fun w s5 => true)) = true → ∃ c r x y s3, Ready s a .fsqrt l c r x y s3 ∧ Admits s3 0xD y none ∧ ∃ p s4, numOf c y s3 = .ok (p, s4) ∧ ∃ w s5, floatResult c (sqrtF p.bits) s4 = .ok (w, s5) := by
      intro s a l h
      refine ready_of h fun c r x y s3 h => ?_
      refine and_of h (fun h => admits_of h) fun h => ?_
      refine ok_of h fun p s4 h => ?_
      obtain ⟨w, s5, h, -⟩ := ok_of (P := fun _ _ => True) h fun _ _ _ => trivial
      exact ⟨w, s5, h⟩
    exact ⟨st [(2, mkWord 2 0x40100000000000)] [], at0, lg 3 0 0 2, k _ _ _ (by decide +kernel)⟩
  · have k : ∀ (s : State) (a : _) (l : _), (readyB s a .fcvt l fun c r w1 y s3 => (decide (w1 = (fixN 0))) && ((admitsB s3 0xE y none) && (intB c y s3 fun i s4 => okB (floatResult c (intToF i) s4) fun w s5 => true))) = true → ∃ c r w1 y s3, Ready s a .fcvt l c r w1 y s3 ∧ w1 = (fixN 0) ∧ Admits s3 0xE y none ∧ ∃ i s4, numOf c y s3 = .ok (.int i, s4) ∧ ∃ w s5, floatResult c (intToF i) s4 = .ok (w, s5) := by
      intro s a l h
      refine ready_of h fun c r w1 y s3 h => ?_
      refine and_of h (fun h => of_decide_eq_true h) fun h => ?_
      refine and_of h (fun h => admits_of h) fun h => ?_
      refine int_of h fun i s4 h => ?_
      obtain ⟨w, s5, h, -⟩ := ok_of (P := fun _ _ => True) h fun _ _ _ => trivial
      exact ⟨w, s5, h⟩
    exact ⟨st [(1, fixN 0), (2, fixN 3)] [], at0, lg 3 1 0 2, k _ _ _ (by decide +kernel)⟩
  · have k : ∀ (s : State) (a : _) (l : _), (readyB s a .fcvt l fun c r w1 y s3 => (decide (w1 = (fixN 0))) && ((admitsB s3 0xE y none) && (fltB c y s3 fun b s4 => okB (floatResult c (if isNaNF b then quiet b else b) s4) fun w s5 => true))) = true → ∃ c r w1 y s3, Ready s a .fcvt l c r w1 y s3 ∧ w1 = (fixN 0) ∧ Admits s3 0xE y none ∧ ∃ b s4, numOf c y s3 = .ok (.flt b, s4) ∧ ∃ w s5, floatResult c (if isNaNF b then quiet b else b) s4 = .ok (w, s5) := by
      intro s a l h
      refine ready_of h fun c r w1 y s3 h => ?_
      refine and_of h (fun h => of_decide_eq_true h) fun h => ?_
      refine and_of h (fun h => admits_of h) fun h => ?_
      refine flt_of h fun b s4 h => ?_
      obtain ⟨w, s5, h, -⟩ := ok_of (P := fun _ _ => True) h fun _ _ _ => trivial
      exact ⟨w, s5, h⟩
    exact ⟨st [(1, fixN 0), (2, mkWord 2 0x40040000000000)] [], at0, lg 3 1 0 2, k _ _ _ (by decide +kernel)⟩
  · have k : ∀ (s : State) (a : _) (l : _) (m : _), (readyB s a .fcvt l fun c r w1 y s3 => (decide (w1 = (fixN m))) && ((decide (1 ≤ m)) && ((decide (m ≤ 3)) && ((admitsB s3 0xE y none) && (okB (numOf c y s3) fun p s4 => someB (numInt m p) fun i => okB (intResult c i s4) fun w s5 => true))))) = true → ∃ c r w1 y s3, Ready s a .fcvt l c r w1 y s3 ∧ w1 = (fixN m) ∧ 1 ≤ m ∧ m ≤ 3 ∧ Admits s3 0xE y none ∧ ∃ p s4, numOf c y s3 = .ok (p, s4) ∧ ∃ i, numInt m p = some i ∧ ∃ w s5, intResult c i s4 = .ok (w, s5) := by
      intro s a l m h
      refine ready_of h fun c r w1 y s3 h => ?_
      refine and_of h (fun h => of_decide_eq_true h) fun h => ?_
      refine and_of h (fun h => of_decide_eq_true h) fun h => ?_
      refine and_of h (fun h => of_decide_eq_true h) fun h => ?_
      refine and_of h (fun h => admits_of h) fun h => ?_
      refine ok_of h fun p s4 h => ?_
      refine some_of h fun i h => ?_
      obtain ⟨w, s5, h, -⟩ := ok_of (P := fun _ _ => True) h fun _ _ _ => trivial
      exact ⟨w, s5, h⟩
    exact ⟨st [(1, fixN 1), (2, mkWord 2 0x40040000000000)] [], at0, lg 3 1 0 2, 1, k _ _ _ _ (by decide +kernel)⟩
  · have k : ∀ (s : State) (a : _) (l : _) (m : _), (readyB s a .fcvt l fun c r w1 y s3 => (decide (w1 = (fixN m))) && ((decide (1 ≤ m)) && ((decide (m ≤ 3)) && ((admitsB s3 0xE y none) && (okB (numOf c y s3) fun p s4 => someB (numInt m p) fun i => okB (intResult c i s4) fun w s5 => true))))) = true → ∃ c r w1 y s3, Ready s a .fcvt l c r w1 y s3 ∧ w1 = (fixN m) ∧ 1 ≤ m ∧ m ≤ 3 ∧ Admits s3 0xE y none ∧ ∃ p s4, numOf c y s3 = .ok (p, s4) ∧ ∃ i, numInt m p = some i ∧ ∃ w s5, intResult c i s4 = .ok (w, s5) := by
      intro s a l m h
      refine ready_of h fun c r w1 y s3 h => ?_
      refine and_of h (fun h => of_decide_eq_true h) fun h => ?_
      refine and_of h (fun h => of_decide_eq_true h) fun h => ?_
      refine and_of h (fun h => of_decide_eq_true h) fun h => ?_
      refine and_of h (fun h => admits_of h) fun h => ?_
      refine ok_of h fun p s4 h => ?_
      refine some_of h fun i h => ?_
      obtain ⟨w, s5, h, -⟩ := ok_of (P := fun _ _ => True) h fun _ _ _ => trivial
      exact ⟨w, s5, h⟩
    exact ⟨st [(1, fixN 2), (2, mkWord 2 0x40040000000000)] [], at0, lg 3 1 0 2, 2, k _ _ _ _ (by decide +kernel)⟩
  · have k : ∀ (s : State) (a : _) (l : _) (m : _), (readyB s a .fcvt l fun c r w1 y s3 => (decide (w1 = (fixN m))) && ((decide (1 ≤ m)) && ((decide (m ≤ 3)) && ((admitsB s3 0xE y none) && (okB (numOf c y s3) fun p s4 => someB (numInt m p) fun i => okB (intResult c i s4) fun w s5 => true))))) = true → ∃ c r w1 y s3, Ready s a .fcvt l c r w1 y s3 ∧ w1 = (fixN m) ∧ 1 ≤ m ∧ m ≤ 3 ∧ Admits s3 0xE y none ∧ ∃ p s4, numOf c y s3 = .ok (p, s4) ∧ ∃ i, numInt m p = some i ∧ ∃ w s5, intResult c i s4 = .ok (w, s5) := by
      intro s a l m h
      refine ready_of h fun c r w1 y s3 h => ?_
      refine and_of h (fun h => of_decide_eq_true h) fun h => ?_
      refine and_of h (fun h => of_decide_eq_true h) fun h => ?_
      refine and_of h (fun h => of_decide_eq_true h) fun h => ?_
      refine and_of h (fun h => admits_of h) fun h => ?_
      refine ok_of h fun p s4 h => ?_
      refine some_of h fun i h => ?_
      obtain ⟨w, s5, h, -⟩ := ok_of (P := fun _ _ => True) h fun _ _ _ => trivial
      exact ⟨w, s5, h⟩
    exact ⟨st [(1, fixN 3), (2, mkWord 2 0x40040000000000)] [], at0, lg 3 1 0 2, 3, k _ _ _ _ (by decide +kernel)⟩

/-- The hypotheses of part 1 of Obligations.LogicAndShiftsComplete are met. -/
theorem witness_LogicCompletes :
    (∃ (s : State) (a : _) (l : _), ∃ c r x y s3, Ready s a Opcode.and l c r x y s3 ∧ isFix x = true ∧ isFix y = true)
    ∧ (∃ (s : State) (a : _) (l : _), ∃ c r x y s3, Ready s a Opcode.or l c r x y s3 ∧ isFix x = true ∧ isFix y = true)
    ∧ (∃ (s : State) (a : _) (l : _), ∃ c r x y s3, Ready s a Opcode.xor l c r x y s3 ∧ isFix x = true ∧ isFix y = true)
    ∧ (∃ (s : State) (a : _) (l : _), ∃ c r x y s3, Ready s a Opcode.andn l c r x y s3 ∧ isFix x = true ∧ isFix y = true) := by
  refine ⟨?_, ?_, ?_, ?_⟩
  · have k : ∀ (s : State) (a : _) (l : _), (readyB s a Opcode.and l fun c r x y s3 => (decide (isFix x = true)) && (decide (isFix y = true))) = true → ∃ c r x y s3, Ready s a Opcode.and l c r x y s3 ∧ isFix x = true ∧ isFix y = true := by
      intro s a l h
      refine ready_of h fun c r x y s3 h => ?_
      refine and_of h (fun h => of_decide_eq_true h) fun h => ?_
      exact of_decide_eq_true h
    exact ⟨st [(1, fixN 7), (2, fixN 5)] [], at0, lg 3 1 0 2, k _ _ _ (by decide +kernel)⟩
  · have k : ∀ (s : State) (a : _) (l : _), (readyB s a Opcode.or l fun c r x y s3 => (decide (isFix x = true)) && (decide (isFix y = true))) = true → ∃ c r x y s3, Ready s a Opcode.or l c r x y s3 ∧ isFix x = true ∧ isFix y = true := by
      intro s a l h
      refine ready_of h fun c r x y s3 h => ?_
      refine and_of h (fun h => of_decide_eq_true h) fun h => ?_
      exact of_decide_eq_true h
    exact ⟨st [(1, fixN 7), (2, fixN 5)] [], at0, lg 3 1 0 2, k _ _ _ (by decide +kernel)⟩
  · have k : ∀ (s : State) (a : _) (l : _), (readyB s a Opcode.xor l fun c r x y s3 => (decide (isFix x = true)) && (decide (isFix y = true))) = true → ∃ c r x y s3, Ready s a Opcode.xor l c r x y s3 ∧ isFix x = true ∧ isFix y = true := by
      intro s a l h
      refine ready_of h fun c r x y s3 h => ?_
      refine and_of h (fun h => of_decide_eq_true h) fun h => ?_
      exact of_decide_eq_true h
    exact ⟨st [(1, fixN 7), (2, fixN 5)] [], at0, lg 3 1 0 2, k _ _ _ (by decide +kernel)⟩
  · have k : ∀ (s : State) (a : _) (l : _), (readyB s a Opcode.andn l fun c r x y s3 => (decide (isFix x = true)) && (decide (isFix y = true))) = true → ∃ c r x y s3, Ready s a Opcode.andn l c r x y s3 ∧ isFix x = true ∧ isFix y = true := by
      intro s a l h
      refine ready_of h fun c r x y s3 h => ?_
      refine and_of h (fun h => of_decide_eq_true h) fun h => ?_
      exact of_decide_eq_true h
    exact ⟨st [(1, fixN 7), (2, fixN 5)] [], at0, lg 3 1 0 2, k _ _ _ (by decide +kernel)⟩

/-- The hypotheses of part 2 of Obligations.LogicAndShiftsComplete are met. -/
theorem witness_ShiftsComplete :
    (∃ (s : State) (a : _) (l : _) (n : _), ∃ c r x y s3, Ready s a .shl l c r x y s3 ∧ isFix x = true ∧ y = fixN n ∧ n ≤ 63 ∧ ∃ v, v = valOf x * 2 ^ n % 2 ^ 56)
    ∧ (∃ (s : State) (a : _) (l : _) (n : _), ∃ c r x y s3, Ready s a .shr l c r x y s3 ∧ isFix x = true ∧ y = fixN n ∧ n ≤ 63 ∧ ∃ v, v = valOf x / 2 ^ n)
    ∧ (∃ (s : State) (a : _) (l : _) (n : _), ∃ c r x y s3, Ready s a .sar l c r x y s3 ∧ isFix x = true ∧ y = fixN n ∧ n ≤ 63 ∧ ∃ i, i = fixVal x / 2 ^ n)
    ∧ (∃ (s : State) (a : _) (l : _), ∃ c r x y s3, Ready s a Opcode.shl l c r x y s3 ∧ isFix x = true ∧ isFix y = true ∧ 63 < valOf y)
    ∧ (∃ (s : State) (a : _) (l : _), ∃ c r x y s3, Ready s a Opcode.shr l c r x y s3 ∧ isFix x = true ∧ isFix y = true ∧ 63 < valOf y)
    ∧ (∃ (s : State) (a : _) (l : _), ∃ c r x y s3, Ready s a Opcode.sar l c r x y s3 ∧ isFix x = true ∧ isFix y = true ∧ 63 < valOf y) := by
  refine ⟨?_, ?_, ?_, ?_, ?_, ?_⟩
  · have k : ∀ (s : State) (a : _) (l : _) (n : _), (readyB s a .shl l fun c r x y s3 => (decide (isFix x = true)) && ((decide (y = fixN n)) && ((decide (n ≤ 63)) && (eqB (valOf x * 2 ^ n % 2 ^ 56) fun v => true)))) = true → ∃ c r x y s3, Ready s a .shl l c r x y s3 ∧ isFix x = true ∧ y = fixN n ∧ n ≤ 63 ∧ ∃ v, v = valOf x * 2 ^ n % 2 ^ 56 := by
      intro s a l n h
      refine ready_of h fun c r x y s3 h => ?_
      refine and_of h (fun h => of_decide_eq_true h) fun h => ?_
      refine and_of h (fun h => of_decide_eq_true h) fun h => ?_
      refine and_of h (fun h => of_decide_eq_true h) fun h => ?_
      obtain ⟨v, h, -⟩ := eq_of (P := fun _ => True) h fun _ _ => trivial
      exact ⟨v, h⟩
    exact ⟨st [(1, fix (-7)), (2, fixN 63)] [], at0, lg 3 1 0 2, 63, k _ _ _ _ (by decide +kernel)⟩
  · have k : ∀ (s : State) (a : _) (l : _) (n : _), (readyB s a .shr l fun c r x y s3 => (decide (isFix x = true)) && ((decide (y = fixN n)) && ((decide (n ≤ 63)) && (eqB (valOf x / 2 ^ n) fun v => true)))) = true → ∃ c r x y s3, Ready s a .shr l c r x y s3 ∧ isFix x = true ∧ y = fixN n ∧ n ≤ 63 ∧ ∃ v, v = valOf x / 2 ^ n := by
      intro s a l n h
      refine ready_of h fun c r x y s3 h => ?_
      refine and_of h (fun h => of_decide_eq_true h) fun h => ?_
      refine and_of h (fun h => of_decide_eq_true h) fun h => ?_
      refine and_of h (fun h => of_decide_eq_true h) fun h => ?_
      obtain ⟨v, h, -⟩ := eq_of (P := fun _ => True) h fun _ _ => trivial
      exact ⟨v, h⟩
    exact ⟨st [(1, fix (-7)), (2, fixN 63)] [], at0, lg 3 1 0 2, 63, k _ _ _ _ (by decide +kernel)⟩
  · have k : ∀ (s : State) (a : _) (l : _) (n : _), (readyB s a .sar l fun c r x y s3 => (decide (isFix x = true)) && ((decide (y = fixN n)) && ((decide (n ≤ 63)) && (eqB (fixVal x / 2 ^ n) fun i => true)))) = true → ∃ c r x y s3, Ready s a .sar l c r x y s3 ∧ isFix x = true ∧ y = fixN n ∧ n ≤ 63 ∧ ∃ i, i = fixVal x / 2 ^ n := by
      intro s a l n h
      refine ready_of h fun c r x y s3 h => ?_
      refine and_of h (fun h => of_decide_eq_true h) fun h => ?_
      refine and_of h (fun h => of_decide_eq_true h) fun h => ?_
      refine and_of h (fun h => of_decide_eq_true h) fun h => ?_
      obtain ⟨i, h, -⟩ := eq_of (P := fun _ => True) h fun _ _ => trivial
      exact ⟨i, h⟩
    exact ⟨st [(1, fix (-7)), (2, fixN 63)] [], at0, lg 3 1 0 2, 63, k _ _ _ _ (by decide +kernel)⟩
  · have k : ∀ (s : State) (a : _) (l : _), (readyB s a Opcode.shl l fun c r x y s3 => (decide (isFix x = true)) && ((decide (isFix y = true)) && (decide (63 < valOf y)))) = true → ∃ c r x y s3, Ready s a Opcode.shl l c r x y s3 ∧ isFix x = true ∧ isFix y = true ∧ 63 < valOf y := by
      intro s a l h
      refine ready_of h fun c r x y s3 h => ?_
      refine and_of h (fun h => of_decide_eq_true h) fun h => ?_
      refine and_of h (fun h => of_decide_eq_true h) fun h => ?_
      exact of_decide_eq_true h
    exact ⟨st [(1, fixN 7), (2, fixN 64)] [], at0, lg 3 1 0 2, k _ _ _ (by decide +kernel)⟩
  · have k : ∀ (s : State) (a : _) (l : _), (readyB s a Opcode.shr l fun c r x y s3 => (decide (isFix x = true)) && ((decide (isFix y = true)) && (decide (63 < valOf y)))) = true → ∃ c r x y s3, Ready s a Opcode.shr l c r x y s3 ∧ isFix x = true ∧ isFix y = true ∧ 63 < valOf y := by
      intro s a l h
      refine ready_of h fun c r x y s3 h => ?_
      refine and_of h (fun h => of_decide_eq_true h) fun h => ?_
      refine and_of h (fun h => of_decide_eq_true h) fun h => ?_
      exact of_decide_eq_true h
    exact ⟨st [(1, fixN 7), (2, fixN 64)] [], at0, lg 3 1 0 2, k _ _ _ (by decide +kernel)⟩
  · have k : ∀ (s : State) (a : _) (l : _), (readyB s a Opcode.sar l fun c r x y s3 => (decide (isFix x = true)) && ((decide (isFix y = true)) && (decide (63 < valOf y)))) = true → ∃ c r x y s3, Ready s a Opcode.sar l c r x y s3 ∧ isFix x = true ∧ isFix y = true ∧ 63 < valOf y := by
      intro s a l h
      refine ready_of h fun c r x y s3 h => ?_
      refine and_of h (fun h => of_decide_eq_true h) fun h => ?_
      refine and_of h (fun h => of_decide_eq_true h) fun h => ?_
      exact of_decide_eq_true h
    exact ⟨st [(1, fixN 7), (2, fixN 64)] [], at0, lg 3 1 0 2, k _ _ _ (by decide +kernel)⟩

/-- The hypotheses of part 1 of Obligations.CountsAndBitRegistersComplete are met. -/
theorem witness_CountsComplete :
    (∃ (s : State) (a : _) (l : _), ∃ c r x y s3, Ready s a .popc l c r x y s3 ∧ isFix y = true ∧ ∃ n, n = ((List.range 56).filter (bitOf y)).length)
    ∧ (∃ (s : State) (a : _) (l : _), ∃ c r x y s3, Ready s a .parity l c r x y s3 ∧ isFix y = true ∧ ∃ n, n = ((List.range 56).filter (bitOf y)).length % 2)
    ∧ (∃ (s : State) (a : _) (l : _) (n : _), ∃ c r x y s3, Ready s a .clz l c r x y s3 ∧ isFix y = true ∧ n ≤ 56 ∧ (∀ i, 56 ≤ i + n → i < 56 → bitOf y i = false) ∧ ((n < 56 → bitOf y (55 - n) = true)))
    ∧ (∃ (s : State) (a : _) (l : _) (n : _), ∃ c r x y s3, Ready s a .clz l c r x y s3 ∧ isFix y = true ∧ n ≤ 56 ∧ (∀ i, 56 ≤ i + n → i < 56 → bitOf y i = false) ∧ ((n < 56 → bitOf y (55 - n) = true)))
    ∧ (∃ (s : State) (a : _) (l : _) (n : _), ∃ c r x y s3, Ready s a .bitrev l c r x y s3 ∧ x = fixN n ∧ 1 ≤ n ∧ n ≤ 56 ∧ isFix y = true) := by
  refine ⟨?_, ?_, ?_, ?_, ?_⟩
  · have k : ∀ (s : State) (a : _) (l : _), (readyB s a .popc l fun c r x y s3 => (decide (isFix y = true)) && (eqB (((List.range 56).filter (bitOf y)).length) fun n => true)) = true → ∃ c r x y s3, Ready s a .popc l c r x y s3 ∧ isFix y = true ∧ ∃ n, n = ((List.range 56).filter (bitOf y)).length := by
      intro s a l h
      refine ready_of h fun c r x y s3 h => ?_
      refine and_of h (fun h => of_decide_eq_true h) fun h => ?_
      obtain ⟨n, h, -⟩ := eq_of (P := fun _ => True) h fun _ _ => trivial
      exact ⟨n, h⟩
    exact ⟨st [(1, fix (-7)), (2, fixN 63)] [], at0, lg 3 0 0 2, k _ _ _ (by decide +kernel)⟩
  · have k : ∀ (s : State) (a : _) (l : _), (readyB s a .parity l fun c r x y s3 => (decide (isFix y = true)) && (eqB (((List.range 56).filter (bitOf y)).length % 2) fun n => true)) = true → ∃ c r x y s3, Ready s a .parity l c r x y s3 ∧ isFix y = true ∧ ∃ n, n = ((List.range 56).filter (bitOf y)).length % 2 := by
      intro s a l h
      refine ready_of h fun c r x y s3 h => ?_
      refine and_of h (fun h => of_decide_eq_true h) fun h => ?_
      obtain ⟨n, h, -⟩ := eq_of (P := fun _ => True) h fun _ _ => trivial
      exact ⟨n, h⟩
    exact ⟨st [(1, fix (-7)), (2, fixN 63)] [], at0, lg 3 0 0 2, k _ _ _ (by decide +kernel)⟩
  · have k : ∀ (s : State) (a : _) (l : _) (n : _), (readyB s a .clz l fun c r x y s3 => (decide (isFix y = true)) && ((decide (n ≤ 56)) && ((decide (∀ i, i < 56 → 56 ≤ i + n → bitOf y i = false)) && (decide ((n < 56 → bitOf y (55 - n) = true)))))) = true → ∃ c r x y s3, Ready s a .clz l c r x y s3 ∧ isFix y = true ∧ n ≤ 56 ∧ (∀ i, 56 ≤ i + n → i < 56 → bitOf y i = false) ∧ ((n < 56 → bitOf y (55 - n) = true)) := by
      intro s a l n h
      refine ready_of h fun c r x y s3 h => ?_
      refine and_of h (fun h => of_decide_eq_true h) fun h => ?_
      refine and_of h (fun h => of_decide_eq_true h) fun h => ?_
      refine and_of h (fun h => fun i h1 h2 => of_decide_eq_true h i h2 h1) fun h => ?_
      exact of_decide_eq_true h
    exact ⟨st [(1, fix (-7)), (2, fixN 63)] [], at0, lg 3 0 0 2, 50, k _ _ _ _ (by decide +kernel)⟩
  · have k : ∀ (s : State) (a : _) (l : _) (n : _), (readyB s a .clz l fun c r x y s3 => (decide (isFix y = true)) && ((decide (n ≤ 56)) && ((decide (∀ i, i < 56 → 56 ≤ i + n → bitOf y i = false)) && (decide ((n < 56 → bitOf y (55 - n) = true)))))) = true → ∃ c r x y s3, Ready s a .clz l c r x y s3 ∧ isFix y = true ∧ n ≤ 56 ∧ (∀ i, 56 ≤ i + n → i < 56 → bitOf y i = false) ∧ ((n < 56 → bitOf y (55 - n) = true)) := by
      intro s a l n h
      refine ready_of h fun c r x y s3 h => ?_
      refine and_of h (fun h => of_decide_eq_true h) fun h => ?_
      refine and_of h (fun h => of_decide_eq_true h) fun h => ?_
      refine and_of h (fun h => fun i h1 h2 => of_decide_eq_true h i h2 h1) fun h => ?_
      exact of_decide_eq_true h
    exact ⟨st [(2, fixN 0)] [], at0, lg 3 0 0 2, 56, k _ _ _ _ (by decide +kernel)⟩
  · have k : ∀ (s : State) (a : _) (l : _) (n : _), (readyB s a .bitrev l fun c r x y s3 => (decide (x = fixN n)) && ((decide (1 ≤ n)) && ((decide (n ≤ 56)) && (decide (isFix y = true))))) = true → ∃ c r x y s3, Ready s a .bitrev l c r x y s3 ∧ x = fixN n ∧ 1 ≤ n ∧ n ≤ 56 ∧ isFix y = true := by
      intro s a l n h
      refine ready_of h fun c r x y s3 h => ?_
      refine and_of h (fun h => of_decide_eq_true h) fun h => ?_
      refine and_of h (fun h => of_decide_eq_true h) fun h => ?_
      refine and_of h (fun h => of_decide_eq_true h) fun h => ?_
      exact of_decide_eq_true h
    exact ⟨st [(1, fixN 56), (2, fixN 0x11)] [], at0, lg 3 1 0 2, 56, k _ _ _ _ (by decide +kernel)⟩

/-- The hypotheses of part 2 of Obligations.CountsAndBitRegistersComplete are met. -/
theorem witness_CrcStepCompletes :
    (∃ (s : State) (a : _) (l : _), ∃ c r x y s3, Ready s a .crcstep l c r x y s3 ∧ isFix x = true ∧ ∃ d k, crcDescOf (valOf x) true = some (d, k) ∧ isFix y = true ∧ ∃ w, (s3.core c).getReg l.rd.toNat = w ∧ isFix w = true ∧ valOf w < 2 ^ d.w)
    ∧ (∃ (s : State) (a : _) (l : _), ∃ c r x y s3, Ready s a .crcstep l c r x y s3 ∧ ((isFix x = false ∨ crcDescOf (valOf x) true = none))) := by
  refine ⟨?_, ?_⟩
  · have k : ∀ (s : State) (a : _) (l : _), (readyB s a .crcstep l fun c r x y s3 => (decide (isFix x = true)) && (someP (crcDescOf (valOf x) true) fun d k => (decide (isFix y = true)) && (eqB ((s3.core c).getReg l.rd.toNat) fun w => (decide (isFix w = true)) && (decide (valOf w < 2 ^ d.w))))) = true → ∃ c r x y s3, Ready s a .crcstep l c r x y s3 ∧ isFix x = true ∧ ∃ d k, crcDescOf (valOf x) true = some (d, k) ∧ isFix y = true ∧ ∃ w, (s3.core c).getReg l.rd.toNat = w ∧ isFix w = true ∧ valOf w < 2 ^ d.w := by
      intro s a l h
      refine ready_of h fun c r x y s3 h => ?_
      refine and_of h (fun h => of_decide_eq_true h) fun h => ?_
      refine someP_of h fun d k h => ?_
      refine and_of h (fun h => of_decide_eq_true h) fun h => ?_
      refine eq_of' h fun w h => ?_
      refine and_of h (fun h => of_decide_eq_true h) fun h => ?_
      exact of_decide_eq_true h
    exact ⟨st [(1, fixN 0xF00001021), (2, fixN 0x31), (3, fixN 0)] [], at0, lg 3 1 0 2, k _ _ _ (by decide +kernel)⟩
  · have k : ∀ (s : State) (a : _) (l : _), (readyB s a .crcstep l fun c r x y s3 => decide ((isFix x = false ∨ crcDescOf (valOf x) true = none))) = true → ∃ c r x y s3, Ready s a .crcstep l c r x y s3 ∧ ((isFix x = false ∨ crcDescOf (valOf x) true = none)) := by
      intro s a l h
      refine ready_of h fun c r x y s3 h => ?_
      exact of_decide_eq_true h
    exact ⟨st [(1, fixN 0), (2, fixN 0x31), (3, fixN 0)] [], at0, lg 3 1 0 2, k _ _ _ (by decide +kernel)⟩

/-- The hypotheses of part 1 of Obligations.ListsAndAllocationsComplete are met. -/
theorem witness_ListsComplete :
    (∃ (s : State) (a : _) (l : _), ∃ c r x y s3, Ready s a .cons l c r x y s3 ∧ ∃ v s4, healRegM c l.ra.toNat s3 = .ok (v, s4) ∧ ∃ w s5, healB c l y s4 = .ok (w, s5) ∧ ∃ va s6, newObject c 1 (bytesOfWord v ++ bytesOfWord w) s5 = .ok (va, s6))
    ∧ (∃ (s : State) (a : _) (l : _), ∃ c r x y s3, Ready s a .car l c r x y s3 ∧ y = nil)
    ∧ (∃ (s : State) (a : _) (l : _), ∃ c r x y s3, Ready s a .cdr l c r x y s3 ∧ y = nil)
    ∧ (∃ (s : State) (a : _) (l : _), ∃ c r x y s3, Ready s a .car l c r x y s3 ∧ tagOf y = 0x10 ∧ ∃ w s4, healB c l y s3 = .ok (w, s4) ∧ tagOf w = 0x10 ∧ addressFormatOk w = true ∧ ∃ v s5, loadWord c (valOf w) .read s4 = .ok (v, s5))
    ∧ (∃ (s : State) (a : _) (l : _), ∃ c r x y s3, Ready s a .cdr l c r x y s3 ∧ tagOf y = 0x10 ∧ ∃ w s4, healB c l y s3 = .ok (w, s4) ∧ tagOf w = 0x10 ∧ addressFormatOk w = true ∧ ∃ v s5, loadWord c (valOf w + 8) .read s4 = .ok (v, s5))
    ∧ (∃ (s : State) (a : _) (l : _), ∃ c r x y s3, Ready s a .rplaca l c r x y s3 ∧ tagOf y = 0x10 ∧ ∃ w s4, healB c l y s3 = .ok (w, s4) ∧ tagOf w = 0x10 ∧ addressFormatOk w = true ∧ ∃ v s5, healRegM c l.ra.toNat s4 = .ok (v, s5) ∧ ∃ s6, storeWord c (valOf w) v s5 = .ok ((), s6))
    ∧ (∃ (s : State) (a : _) (l : _), ∃ c r x y s3, Ready s a .rplacd l c r x y s3 ∧ tagOf y = 0x10 ∧ ∃ w s4, healB c l y s3 = .ok (w, s4) ∧ tagOf w = 0x10 ∧ addressFormatOk w = true ∧ ∃ v s5, healRegM c l.ra.toNat s4 = .ok (v, s5) ∧ ∃ s6, storeWord c (valOf w + 8) v s5 = .ok ((), s6)) := by
  refine ⟨?_, ?_, ?_, ?_, ?_, ?_, ?_⟩
  · have k : ∀ (s : State) (a : _) (l : _), (readyB s a .cons l fun c r x y s3 => okB (healRegM c l.ra.toNat s3) fun v s4 => okB (healB c l y s4) fun w s5 => okB (newObject c 1 (bytesOfWord v ++ bytesOfWord w) s5) fun va s6 => true) = true → ∃ c r x y s3, Ready s a .cons l c r x y s3 ∧ ∃ v s4, healRegM c l.ra.toNat s3 = .ok (v, s4) ∧ ∃ w s5, healB c l y s4 = .ok (w, s5) ∧ ∃ va s6, newObject c 1 (bytesOfWord v ++ bytesOfWord w) s5 = .ok (va, s6) := by
      intro s a l h
      refine ready_of h fun c r x y s3 h => ?_
      refine ok_of h fun v s4 h => ?_
      refine ok_of h fun w s5 h => ?_
      obtain ⟨va, s6, h, -⟩ := ok_of (P := fun _ _ => True) h fun _ _ _ => trivial
      exact ⟨va, s6, h⟩
    exact ⟨sth [(1, fixN 7), (2, fixN 5)] [], at0, lg 3 1 0 2, k _ _ _ (by decide +kernel)⟩
  · have k : ∀ (s : State) (a : _) (l : _), (readyB s a .car l fun c r x y s3 => decide (y = nil)) = true → ∃ c r x y s3, Ready s a .car l c r x y s3 ∧ y = nil := by
      intro s a l h
      refine ready_of h fun c r x y s3 h => ?_
      exact of_decide_eq_true h
    exact ⟨st [(2, nil)] [], at0, lg 3 0 0 2, k _ _ _ (by decide +kernel)⟩
  · have k : ∀ (s : State) (a : _) (l : _), (readyB s a .cdr l fun c r x y s3 => decide (y = nil)) = true → ∃ c r x y s3, Ready s a .cdr l c r x y s3 ∧ y = nil := by
      intro s a l h
      refine ready_of h fun c r x y s3 h => ?_
      exact of_decide_eq_true h
    exact ⟨st [(2, nil)] [], at0, lg 3 0 0 2, k _ _ _ (by decide +kernel)⟩
  · have k : ∀ (s : State) (a : _) (l : _), (readyB s a .car l fun c r x y s3 => (decide (tagOf y = 0x10)) && (okB (healB c l y s3) fun w s4 => (decide (tagOf w = 0x10)) && ((decide (addressFormatOk w = true)) && (okB (loadWord c (valOf w) .read s4) fun v s5 => true)))) = true → ∃ c r x y s3, Ready s a .car l c r x y s3 ∧ tagOf y = 0x10 ∧ ∃ w s4, healB c l y s3 = .ok (w, s4) ∧ tagOf w = 0x10 ∧ addressFormatOk w = true ∧ ∃ v s5, loadWord c (valOf w) .read s4 = .ok (v, s5) := by
      intro s a l h
      refine ready_of h fun c r x y s3 h => ?_
      refine and_of h (fun h => of_decide_eq_true h) fun h => ?_
      refine ok_of h fun w s4 h => ?_
      refine and_of h (fun h => of_decide_eq_true h) fun h => ?_
      refine and_of h (fun h => of_decide_eq_true h) fun h => ?_
      obtain ⟨v, s5, h, -⟩ := ok_of (P := fun _ _ => True) h fun _ _ _ => trivial
      exact ⟨v, s5, h⟩
    exact ⟨st [(1, fixN 5), (2, mkWord 0x10 0x1000)] [(0x1000, fixN 7), (0x1008, fixN 9)], at0, lg 3 0 0 2, k _ _ _ (by decide +kernel)⟩
  · have k : ∀ (s : State) (a : _) (l : _), (readyB s a .cdr l fun c r x y s3 => (decide (tagOf y = 0x10)) && (okB (healB c l y s3) fun w s4 => (decide (tagOf w = 0x10)) && ((decide (addressFormatOk w = true)) && (okB (loadWord c (valOf w + 8) .read s4) fun v s5 => true)))) = true → ∃ c r x y s3, Ready s a .cdr l c r x y s3 ∧ tagOf y = 0x10 ∧ ∃ w s4, healB c l y s3 = .ok (w, s4) ∧ tagOf w = 0x10 ∧ addressFormatOk w = true ∧ ∃ v s5, loadWord c (valOf w + 8) .read s4 = .ok (v, s5) := by
      intro s a l h
      refine ready_of h fun c r x y s3 h => ?_
      refine and_of h (fun h => of_decide_eq_true h) fun h => ?_
      refine ok_of h fun w s4 h => ?_
      refine and_of h (fun h => of_decide_eq_true h) fun h => ?_
      refine and_of h (fun h => of_decide_eq_true h) fun h => ?_
      obtain ⟨v, s5, h, -⟩ := ok_of (P := fun _ _ => True) h fun _ _ _ => trivial
      exact ⟨v, s5, h⟩
    exact ⟨st [(1, fixN 5), (2, mkWord 0x10 0x1000)] [(0x1000, fixN 7), (0x1008, fixN 9)], at0, lg 3 0 0 2, k _ _ _ (by decide +kernel)⟩
  · have k : ∀ (s : State) (a : _) (l : _), (readyB s a .rplaca l fun c r x y s3 => (decide (tagOf y = 0x10)) && (okB (healB c l y s3) fun w s4 => (decide (tagOf w = 0x10)) && ((decide (addressFormatOk w = true)) && (okB (healRegM c l.ra.toNat s4) fun v s5 => okU (storeWord c (valOf w) v s5) fun s6 => true)))) = true → ∃ c r x y s3, Ready s a .rplaca l c r x y s3 ∧ tagOf y = 0x10 ∧ ∃ w s4, healB c l y s3 = .ok (w, s4) ∧ tagOf w = 0x10 ∧ addressFormatOk w = true ∧ ∃ v s5, healRegM c l.ra.toNat s4 = .ok (v, s5) ∧ ∃ s6, storeWord c (valOf w) v s5 = .ok ((), s6) := by
      intro s a l h
      refine ready_of h fun c r x y s3 h => ?_
      refine and_of h (fun h => of_decide_eq_true h) fun h => ?_
      refine ok_of h fun w s4 h => ?_
      refine and_of h (fun h => of_decide_eq_true h) fun h => ?_
      refine and_of h (fun h => of_decide_eq_true h) fun h => ?_
      refine ok_of h fun v s5 h => ?_
      obtain ⟨s6, h, -⟩ := okU_of (P := fun _ => True) h fun _ _ => trivial
      exact ⟨s6, h⟩
    exact ⟨st [(1, fixN 5), (2, mkWord 0x10 0x1000)] [(0x1000, fixN 7), (0x1008, fixN 9)], at0, lg 0 1 0 2, k _ _ _ (by decide +kernel)⟩
  · have k : ∀ (s : State) (a : _) (l : _), (readyB s a .rplacd l fun c r x y s3 => (decide (tagOf y = 0x10)) && (okB (healB c l y s3) fun w s4 => (decide (tagOf w = 0x10)) && ((decide (addressFormatOk w = true)) && (okB (healRegM c l.ra.toNat s4) fun v s5 => okU (storeWord c (valOf w + 8) v s5) fun s6 => true)))) = true → ∃ c r x y s3, Ready s a .rplacd l c r x y s3 ∧ tagOf y = 0x10 ∧ ∃ w s4, healB c l y s3 = .ok (w, s4) ∧ tagOf w = 0x10 ∧ addressFormatOk w = true ∧ ∃ v s5, healRegM c l.ra.toNat s4 = .ok (v, s5) ∧ ∃ s6, storeWord c (valOf w + 8) v s5 = .ok ((), s6) := by
      intro s a l h
      refine ready_of h fun c r x y s3 h => ?_
      refine and_of h (fun h => of_decide_eq_true h) fun h => ?_
      refine ok_of h fun w s4 h => ?_
      refine and_of h (fun h => of_decide_eq_true h) fun h => ?_
      refine and_of h (fun h => of_decide_eq_true h) fun h => ?_
      refine ok_of h fun v s5 h => ?_
      obtain ⟨s6, h, -⟩ := okU_of (P := fun _ => True) h fun _ _ => trivial
      exact ⟨s6, h⟩
    exact ⟨st [(1, fixN 5), (2, mkWord 0x10 0x1000)] [(0x1000, fixN 7), (0x1008, fixN 9)], at0, lg 0 1 0 2, k _ _ _ (by decide +kernel)⟩

/-- The hypotheses of part 2 of Obligations.ListsAndAllocationsComplete are met. -/
theorem witness_AllocationsComplete :
    (∃ (s : State) (a : _) (l : _) (k : _) (n : _), ∃ c r x y s3, Ready s a .allocv l c r x y s3 ∧ y = fixN n ∧ roundUp (8 * (1 + n)) 16 ≤ 2 ^ 32 ∧ x = fixN k ∧ ((k = 7 ∨ 0x100 ≤ k ∧ k ≤ 0xFFFF)) ∧ ∃ va s4, newObject c (kindFor false false (taggedBytes (mkHeader 0x21 k n 0) (List.replicate n nil)).length) (taggedBytes (mkHeader 0x21 k n 0) (List.replicate n nil)) s3 = .ok (va, s4))
    ∧ (∃ (s : State) (a : _) (l : _) (k : _) (n : _), ∃ c r x y s3, Ready s a .allocb l c r x y s3 ∧ y = fixN n ∧ roundUp (8 + n) 16 ≤ 2 ^ 32 ∧ x = fixN k ∧ ((k = 6 ∨ 0x100 ≤ k ∧ k ≤ 0xFFFF)) ∧ ∃ va s4, newObject c (kindFor false false (byteVectorBytes k (List.replicate n 0)).length) (byteVectorBytes k (List.replicate n 0)) s3 = .ok (va, s4))
    ∧ (∃ (s : State) (a : _) (l : _) (k : _) (n : _) (tag : _) (ws : _), ∃ c r x y s3, Ready s a .alloci l c r x y s3 ∧ y = fixN n ∧ roundUp (8 * (1 + n)) 16 ≤ 2 ^ 32 ∧ x = fixN k ∧ ((k = 1 ∧ n = 5 ∧ tag = 0x13 ∧ ws = List.replicate n unbound ∨ k = 2 ∧ 1 ≤ n ∧ tag = 0x15 ∧ ws = List.replicate n unbound ∨ k = 8 ∧ 5 ≤ n ∧ (∃ j, j ≤ 20 ∧ n - 5 = 2 ^ j) ∧ tag = 0x14 ∧ ws = mailboxSlots (n - 5) ∨ k = 0xA ∧ n = 63 ∧ tag = 0x14 ∧ ws = List.replicate n unbound ∨ 0x100 ≤ k ∧ k ≤ 0xFFFF ∧ tag = 0x14 ∧ ws = List.replicate n unbound)) ∧ ∃ va s4, newObject c (kindFor false false (taggedBytes (mkHeader 0x20 k n 0) ws).length) (taggedBytes (mkHeader 0x20 k n 0) ws) s3 = .ok (va, s4))
    ∧ (∃ (s : State) (a : _) (l : _) (k : _) (n : _) (tag : _) (ws : _), ∃ c r x y s3, Ready s a .alloci l c r x y s3 ∧ y = fixN n ∧ roundUp (8 * (1 + n)) 16 ≤ 2 ^ 32 ∧ x = fixN k ∧ ((k = 1 ∧ n = 5 ∧ tag = 0x13 ∧ ws = List.replicate n unbound ∨ k = 2 ∧ 1 ≤ n ∧ tag = 0x15 ∧ ws = List.replicate n unbound ∨ k = 8 ∧ 5 ≤ n ∧ (∃ j, j ≤ 20 ∧ n - 5 = 2 ^ j) ∧ tag = 0x14 ∧ ws = mailboxSlots (n - 5) ∨ k = 0xA ∧ n = 63 ∧ tag = 0x14 ∧ ws = List.replicate n unbound ∨ 0x100 ≤ k ∧ k ≤ 0xFFFF ∧ tag = 0x14 ∧ ws = List.replicate n unbound)) ∧ ∃ va s4, newObject c (kindFor false false (taggedBytes (mkHeader 0x20 k n 0) ws).length) (taggedBytes (mkHeader 0x20 k n 0) ws) s3 = .ok (va, s4))
    ∧ (∃ (s : State) (a : _) (l : _) (k : _) (n : _) (tag : _) (ws : _), ∃ c r x y s3, Ready s a .alloci l c r x y s3 ∧ y = fixN n ∧ roundUp (8 * (1 + n)) 16 ≤ 2 ^ 32 ∧ x = fixN k ∧ ((k = 1 ∧ n = 5 ∧ tag = 0x13 ∧ ws = List.replicate n unbound ∨ k = 2 ∧ 1 ≤ n ∧ tag = 0x15 ∧ ws = List.replicate n unbound ∨ k = 8 ∧ 5 ≤ n ∧ (∃ j, j ≤ 20 ∧ n - 5 = 2 ^ j) ∧ tag = 0x14 ∧ ws = mailboxSlots (n - 5) ∨ k = 0xA ∧ n = 63 ∧ tag = 0x14 ∧ ws = List.replicate n unbound ∨ 0x100 ≤ k ∧ k ≤ 0xFFFF ∧ tag = 0x14 ∧ ws = List.replicate n unbound)) ∧ ∃ va s4, newObject c (kindFor false false (taggedBytes (mkHeader 0x20 k n 0) ws).length) (taggedBytes (mkHeader 0x20 k n 0) ws) s3 = .ok (va, s4))
    ∧ (∃ (s : State) (a : _) (l : _) (k : _) (n : _) (tag : _) (ws : _), ∃ c r x y s3, Ready s a .alloci l c r x y s3 ∧ y = fixN n ∧ roundUp (8 * (1 + n)) 16 ≤ 2 ^ 32 ∧ x = fixN k ∧ ((k = 1 ∧ n = 5 ∧ tag = 0x13 ∧ ws = List.replicate n unbound ∨ k = 2 ∧ 1 ≤ n ∧ tag = 0x15 ∧ ws = List.replicate n unbound ∨ k = 8 ∧ 5 ≤ n ∧ (∃ j, j ≤ 20 ∧ n - 5 = 2 ^ j) ∧ tag = 0x14 ∧ ws = mailboxSlots (n - 5) ∨ k = 0xA ∧ n = 63 ∧ tag = 0x14 ∧ ws = List.replicate n unbound ∨ 0x100 ≤ k ∧ k ≤ 0xFFFF ∧ tag = 0x14 ∧ ws = List.replicate n unbound)) ∧ ∃ va s4, newObject c (kindFor false false (taggedBytes (mkHeader 0x20 k n 0) ws).length) (taggedBytes (mkHeader 0x20 k n 0) ws) s3 = .ok (va, s4))
    ∧ (∃ (s : State) (a : _) (l : _) (k : _) (n : _) (tag : _) (ws : _), ∃ c r x y s3, Ready s a .alloci l c r x y s3 ∧ y = fixN n ∧ roundUp (8 * (1 + n)) 16 ≤ 2 ^ 32 ∧ x = fixN k ∧ ((k = 1 ∧ n = 5 ∧ tag = 0x13 ∧ ws = List.replicate n unbound ∨ k = 2 ∧ 1 ≤ n ∧ tag = 0x15 ∧ ws = List.replicate n unbound ∨ k = 8 ∧ 5 ≤ n ∧ (∃ j, j ≤ 20 ∧ n - 5 = 2 ^ j) ∧ tag = 0x14 ∧ ws = mailboxSlots (n - 5) ∨ k = 0xA ∧ n = 63 ∧ tag = 0x14 ∧ ws = List.replicate n unbound ∨ 0x100 ≤ k ∧ k ≤ 0xFFFF ∧ tag = 0x14 ∧ ws = List.replicate n unbound)) ∧ ∃ va s4, newObject c (kindFor false false (taggedBytes (mkHeader 0x20 k n 0) ws).length) (taggedBytes (mkHeader 0x20 k n 0) ws) s3 = .ok (va, s4))
    ∧ (∃ (s : State) (a : _) (l : _) (n : _), ∃ c r x y s3, Ready s a .alloci l c r x y s3 ∧ y = fixN n ∧ n < 2 ^ 32 ∧ tagOf x = 0x12 ∧ ∃ v s4, newCode c l n y s3 = .ok (v, s4)) := by
  refine ⟨?_, ?_, ?_, ?_, ?_, ?_, ?_, ?_⟩
  · have k : ∀ (s : State) (a : _) (l : _) (k : _) (n : _), (readyB s a .allocv l fun c r x y s3 => (decide (y = fixN n)) && ((decide (roundUp (8 * (1 + n)) 16 ≤ 2 ^ 32)) && ((decide (x = fixN k)) && ((decide ((k = 7 ∨ 0x100 ≤ k ∧ k ≤ 0xFFFF))) && (okB (newObject c (kindFor false false (taggedBytes (mkHeader 0x21 k n 0) (List.replicate n nil)).length) (taggedBytes (mkHeader 0x21 k n 0) (List.replicate n nil)) s3) fun va s4 => true))))) = true → ∃ c r x y s3, Ready s a .allocv l c r x y s3 ∧ y = fixN n ∧ roundUp (8 * (1 + n)) 16 ≤ 2 ^ 32 ∧ x = fixN k ∧ ((k = 7 ∨ 0x100 ≤ k ∧ k ≤ 0xFFFF)) ∧ ∃ va s4, newObject c (kindFor false false (taggedBytes (mkHeader 0x21 k n 0) (List.replicate n nil)).length) (taggedBytes (mkHeader 0x21 k n 0) (List.replicate n nil)) s3 = .ok (va, s4) := by
      intro s a l k n h
      refine ready_of h fun c r x y s3 h => ?_
      refine and_of h (fun h => of_decide_eq_true h) fun h => ?_
      refine and_of h (fun h => of_decide_eq_true h) fun h => ?_
      refine and_of h (fun h => of_decide_eq_true h) fun h => ?_
      refine and_of h (fun h => of_decide_eq_true h) fun h => ?_
      obtain ⟨va, s4, h, -⟩ := ok_of (P := fun _ _ => True) h fun _ _ _ => trivial
      exact ⟨va, s4, h⟩
    exact ⟨sth [(1, fixN 7), (2, fixN 3)] [], at0, lg 3 1 0 2, 7, 3, k _ _ _ _ _ (by decide +kernel)⟩
  · have k : ∀ (s : State) (a : _) (l : _) (k : _) (n : _), (readyB s a .allocb l fun c r x y s3 => (decide (y = fixN n)) && ((decide (roundUp (8 + n) 16 ≤ 2 ^ 32)) && ((decide (x = fixN k)) && ((decide ((k = 6 ∨ 0x100 ≤ k ∧ k ≤ 0xFFFF))) && (okB (newObject c (kindFor false false (byteVectorBytes k (List.replicate n 0)).length) (byteVectorBytes k (List.replicate n 0)) s3) fun va s4 => true))))) = true → ∃ c r x y s3, Ready s a .allocb l c r x y s3 ∧ y = fixN n ∧ roundUp (8 + n) 16 ≤ 2 ^ 32 ∧ x = fixN k ∧ ((k = 6 ∨ 0x100 ≤ k ∧ k ≤ 0xFFFF)) ∧ ∃ va s4, newObject c (kindFor false false (byteVectorBytes k (List.replicate n 0)).length) (byteVectorBytes k (List.replicate n 0)) s3 = .ok (va, s4) := by
      intro s a l k n h
      refine ready_of h fun c r x y s3 h => ?_
      refine and_of h (fun h => of_decide_eq_true h) fun h => ?_
      refine and_of h (fun h => of_decide_eq_true h) fun h => ?_
      refine and_of h (fun h => of_decide_eq_true h) fun h => ?_
      refine and_of h (fun h => of_decide_eq_true h) fun h => ?_
      obtain ⟨va, s4, h, -⟩ := ok_of (P := fun _ _ => True) h fun _ _ _ => trivial
      exact ⟨va, s4, h⟩
    exact ⟨sth [(1, fixN 0x100), (2, fixN 5)] [], at0, lg 3 1 0 2, 0x100, 5, k _ _ _ _ _ (by decide +kernel)⟩
  · have k : ∀ (s : State) (a : _) (l : _) (k : _) (n : _) (tag : _) (ws : _), (readyB s a .alloci l fun c r x y s3 => (decide (y = fixN n)) && ((decide (roundUp (8 * (1 + n)) 16 ≤ 2 ^ 32)) && ((decide (x = fixN k)) && ((decide ((k = 1 ∧ n = 5 ∧ tag = 0x13 ∧ ws = List.replicate n unbound ∨ k = 2 ∧ 1 ≤ n ∧ tag = 0x15 ∧ ws = List.replicate n unbound ∨ k = 8 ∧ 5 ≤ n ∧ (∃ j, j ≤ 20 ∧ n - 5 = 2 ^ j) ∧ tag = 0x14 ∧ ws = mailboxSlots (n - 5) ∨ k = 0xA ∧ n = 63 ∧ tag = 0x14 ∧ ws = List.replicate n unbound ∨ 0x100 ≤ k ∧ k ≤ 0xFFFF ∧ tag = 0x14 ∧ ws = List.replicate n unbound))) && (okB (newObject c (kindFor false false (taggedBytes (mkHeader 0x20 k n 0) ws).length) (taggedBytes (mkHeader 0x20 k n 0) ws) s3) fun va s4 => true))))) = true → ∃ c r x y s3, Ready s a .alloci l c r x y s3 ∧ y = fixN n ∧ roundUp (8 * (1 + n)) 16 ≤ 2 ^ 32 ∧ x = fixN k ∧ ((k = 1 ∧ n = 5 ∧ tag = 0x13 ∧ ws = List.replicate n unbound ∨ k = 2 ∧ 1 ≤ n ∧ tag = 0x15 ∧ ws = List.replicate n unbound ∨ k = 8 ∧ 5 ≤ n ∧ (∃ j, j ≤ 20 ∧ n - 5 = 2 ^ j) ∧ tag = 0x14 ∧ ws = mailboxSlots (n - 5) ∨ k = 0xA ∧ n = 63 ∧ tag = 0x14 ∧ ws = List.replicate n unbound ∨ 0x100 ≤ k ∧ k ≤ 0xFFFF ∧ tag = 0x14 ∧ ws = List.replicate n unbound)) ∧ ∃ va s4, newObject c (kindFor false false (taggedBytes (mkHeader 0x20 k n 0) ws).length) (taggedBytes (mkHeader 0x20 k n 0) ws) s3 = .ok (va, s4) := by
      intro s a l k n tag ws h
      refine ready_of h fun c r x y s3 h => ?_
      refine and_of h (fun h => of_decide_eq_true h) fun h => ?_
      refine and_of h (fun h => of_decide_eq_true h) fun h => ?_
      refine and_of h (fun h => of_decide_eq_true h) fun h => ?_
      refine and_of h (fun h => of_decide_eq_true h) fun h => ?_
      obtain ⟨va, s4, h, -⟩ := ok_of (P := fun _ _ => True) h fun _ _ _ => trivial
      exact ⟨va, s4, h⟩
    exact ⟨sth [(1, fixN 1), (2, fixN 5)] [], at0, lg 3 1 0 2, 1, 5, 0x13, List.replicate 5 unbound, k _ _ _ _ _ _ _ (by decide +kernel)⟩
  · have k : ∀ (s : State) (a : _) (l : _) (k : _) (n : _) (tag : _) (ws : _), (readyB s a .alloci l fun c r x y s3 => (decide (y = fixN n)) && ((decide (roundUp (8 * (1 + n)) 16 ≤ 2 ^ 32)) && ((decide (x = fixN k)) && ((decide ((k = 1 ∧ n = 5 ∧ tag = 0x13 ∧ ws = List.replicate n unbound ∨ k = 2 ∧ 1 ≤ n ∧ tag = 0x15 ∧ ws = List.replicate n unbound ∨ k = 8 ∧ 5 ≤ n ∧ (∃ j, j ≤ 20 ∧ n - 5 = 2 ^ j) ∧ tag = 0x14 ∧ ws = mailboxSlots (n - 5) ∨ k = 0xA ∧ n = 63 ∧ tag = 0x14 ∧ ws = List.replicate n unbound ∨ 0x100 ≤ k ∧ k ≤ 0xFFFF ∧ tag = 0x14 ∧ ws = List.replicate n unbound))) && (okB (newObject c (kindFor false false (taggedBytes (mkHeader 0x20 k n 0) ws).length) (taggedBytes (mkHeader 0x20 k n 0) ws) s3) fun va s4 => true))))) = true → ∃ c r x y s3, Ready s a .alloci l c r x y s3 ∧ y = fixN n ∧ roundUp (8 * (1 + n)) 16 ≤ 2 ^ 32 ∧ x = fixN k ∧ ((k = 1 ∧ n = 5 ∧ tag = 0x13 ∧ ws = List.replicate n unbound ∨ k = 2 ∧ 1 ≤ n ∧ tag = 0x15 ∧ ws = List.replicate n unbound ∨ k = 8 ∧ 5 ≤ n ∧ (∃ j, j ≤ 20 ∧ n - 5 = 2 ^ j) ∧ tag = 0x14 ∧ ws = mailboxSlots (n - 5) ∨ k = 0xA ∧ n = 63 ∧ tag = 0x14 ∧ ws = List.replicate n unbound ∨ 0x100 ≤ k ∧ k ≤ 0xFFFF ∧ tag = 0x14 ∧ ws = List.replicate n unbound)) ∧ ∃ va s4, newObject c (kindFor false false (taggedBytes (mkHeader 0x20 k n 0) ws).length) (taggedBytes (mkHeader 0x20 k n 0) ws) s3 = .ok (va, s4) := by
      intro s a l k n tag ws h
      refine ready_of h fun c r x y s3 h => ?_
      refine and_of h (fun h => of_decide_eq_true h) fun h => ?_
      refine and_of h (fun h => of_decide_eq_true h) fun h => ?_
      refine and_of h (fun h => of_decide_eq_true h) fun h => ?_
      refine and_of h (fun h => of_decide_eq_true h) fun h => ?_
      obtain ⟨va, s4, h, -⟩ := ok_of (P := fun _ _ => True) h fun _ _ _ => trivial
      exact ⟨va, s4, h⟩
    exact ⟨sth [(1, fixN 2), (2, fixN 1)] [], at0, lg 3 1 0 2, 2, 1, 0x15, List.replicate 1 unbound, k _ _ _ _ _ _ _ (by decide +kernel)⟩
  · have k : ∀ (s : State) (a : _) (l : _) (k : _) (n : _) (tag : _) (ws : _), (readyB s a .alloci l fun c r x y s3 => (decide (y = fixN n)) && ((decide (roundUp (8 * (1 + n)) 16 ≤ 2 ^ 32)) && ((decide (x = fixN k)) && ((decide ((k = 1 ∧ n = 5 ∧ tag = 0x13 ∧ ws = List.replicate n unbound ∨ k = 2 ∧ 1 ≤ n ∧ tag = 0x15 ∧ ws = List.replicate n unbound ∨ k = 8 ∧ 5 ≤ n ∧ (∃ j, j ≤ 20 ∧ n - 5 = 2 ^ j) ∧ tag = 0x14 ∧ ws = mailboxSlots (n - 5) ∨ k = 0xA ∧ n = 63 ∧ tag = 0x14 ∧ ws = List.replicate n unbound ∨ 0x100 ≤ k ∧ k ≤ 0xFFFF ∧ tag = 0x14 ∧ ws = List.replicate n unbound))) && (okB (newObject c (kindFor false false (taggedBytes (mkHeader 0x20 k n 0) ws).length) (taggedBytes (mkHeader 0x20 k n 0) ws) s3) fun va s4 => true))))) = true → ∃ c r x y s3, Ready s a .alloci l c r x y s3 ∧ y = fixN n ∧ roundUp (8 * (1 + n)) 16 ≤ 2 ^ 32 ∧ x = fixN k ∧ ((k = 1 ∧ n = 5 ∧ tag = 0x13 ∧ ws = List.replicate n unbound ∨ k = 2 ∧ 1 ≤ n ∧ tag = 0x15 ∧ ws = List.replicate n unbound ∨ k = 8 ∧ 5 ≤ n ∧ (∃ j, j ≤ 20 ∧ n - 5 = 2 ^ j) ∧ tag = 0x14 ∧ ws = mailboxSlots (n - 5) ∨ k = 0xA ∧ n = 63 ∧ tag = 0x14 ∧ ws = List.replicate n unbound ∨ 0x100 ≤ k ∧ k ≤ 0xFFFF ∧ tag = 0x14 ∧ ws = List.replicate n unbound)) ∧ ∃ va s4, newObject c (kindFor false false (taggedBytes (mkHeader 0x20 k n 0) ws).length) (taggedBytes (mkHeader 0x20 k n 0) ws) s3 = .ok (va, s4) := by
      intro s a l k n tag ws h
      refine ready_of h fun c r x y s3 h => ?_
      refine and_of h (fun h => of_decide_eq_true h) fun h => ?_
      refine and_of h (fun h => of_decide_eq_true h) fun h => ?_
      refine and_of h (fun h => of_decide_eq_true h) fun h => ?_
      refine and_of h (fun h => of_decide_eq_true h) fun h => ?_
      obtain ⟨va, s4, h, -⟩ := ok_of (P := fun _ _ => True) h fun _ _ _ => trivial
      exact ⟨va, s4, h⟩
    exact ⟨sth [(1, fixN 8), (2, fixN 6)] [], at0, lg 3 1 0 2, 8, 6, 0x14, mailboxSlots 1, k _ _ _ _ _ _ _ (by decide +kernel)⟩
  · have k : ∀ (s : State) (a : _) (l : _) (k : _) (n : _) (tag : _) (ws : _), (readyB s a .alloci l fun c r x y s3 => (decide (y = fixN n)) && ((decide (roundUp (8 * (1 + n)) 16 ≤ 2 ^ 32)) && ((decide (x = fixN k)) && ((decide ((k = 1 ∧ n = 5 ∧ tag = 0x13 ∧ ws = List.replicate n unbound ∨ k = 2 ∧ 1 ≤ n ∧ tag = 0x15 ∧ ws = List.replicate n unbound ∨ k = 8 ∧ 5 ≤ n ∧ (∃ j, j ≤ 20 ∧ n - 5 = 2 ^ j) ∧ tag = 0x14 ∧ ws = mailboxSlots (n - 5) ∨ k = 0xA ∧ n = 63 ∧ tag = 0x14 ∧ ws = List.replicate n unbound ∨ 0x100 ≤ k ∧ k ≤ 0xFFFF ∧ tag = 0x14 ∧ ws = List.replicate n unbound))) && (okB (newObject c (kindFor false false (taggedBytes (mkHeader 0x20 k n 0) ws).length) (taggedBytes (mkHeader 0x20 k n 0) ws) s3) fun va s4 => true))))) = true → ∃ c r x y s3, Ready s a .alloci l c r x y s3 ∧ y = fixN n ∧ roundUp (8 * (1 + n)) 16 ≤ 2 ^ 32 ∧ x = fixN k ∧ ((k = 1 ∧ n = 5 ∧ tag = 0x13 ∧ ws = List.replicate n unbound ∨ k = 2 ∧ 1 ≤ n ∧ tag = 0x15 ∧ ws = List.replicate n unbound ∨ k = 8 ∧ 5 ≤ n ∧ (∃ j, j ≤ 20 ∧ n - 5 = 2 ^ j) ∧ tag = 0x14 ∧ ws = mailboxSlots (n - 5) ∨ k = 0xA ∧ n = 63 ∧ tag = 0x14 ∧ ws = List.replicate n unbound ∨ 0x100 ≤ k ∧ k ≤ 0xFFFF ∧ tag = 0x14 ∧ ws = List.replicate n unbound)) ∧ ∃ va s4, newObject c (kindFor false false (taggedBytes (mkHeader 0x20 k n 0) ws).length) (taggedBytes (mkHeader 0x20 k n 0) ws) s3 = .ok (va, s4) := by
      intro s a l k n tag ws h
      refine ready_of h fun c r x y s3 h => ?_
      refine and_of h (fun h => of_decide_eq_true h) fun h => ?_
      refine and_of h (fun h => of_decide_eq_true h) fun h => ?_
      refine and_of h (fun h => of_decide_eq_true h) fun h => ?_
      refine and_of h (fun h => of_decide_eq_true h) fun h => ?_
      obtain ⟨va, s4, h, -⟩ := ok_of (P := fun _ _ => True) h fun _ _ _ => trivial
      exact ⟨va, s4, h⟩
    exact ⟨sth [(1, fixN 0xA), (2, fixN 63)] [], at0, lg 3 1 0 2, 0xA, 63, 0x14, List.replicate 63 unbound, k _ _ _ _ _ _ _ (by decide +kernel)⟩
  · have k : ∀ (s : State) (a : _) (l : _) (k : _) (n : _) (tag : _) (ws : _), (readyB s a .alloci l fun c r x y s3 => (decide (y = fixN n)) && ((decide (roundUp (8 * (1 + n)) 16 ≤ 2 ^ 32)) && ((decide (x = fixN k)) && ((decide ((k = 1 ∧ n = 5 ∧ tag = 0x13 ∧ ws = List.replicate n unbound ∨ k = 2 ∧ 1 ≤ n ∧ tag = 0x15 ∧ ws = List.replicate n unbound ∨ k = 8 ∧ 5 ≤ n ∧ (∃ j, j ≤ 20 ∧ n - 5 = 2 ^ j) ∧ tag = 0x14 ∧ ws = mailboxSlots (n - 5) ∨ k = 0xA ∧ n = 63 ∧ tag = 0x14 ∧ ws = List.replicate n unbound ∨ 0x100 ≤ k ∧ k ≤ 0xFFFF ∧ tag = 0x14 ∧ ws = List.replicate n unbound))) && (okB (newObject c (kindFor false false (taggedBytes (mkHeader 0x20 k n 0) ws).length) (taggedBytes (mkHeader 0x20 k n 0) ws) s3) fun va s4 => true))))) = true → ∃ c r x y s3, Ready s a .alloci l c r x y s3 ∧ y = fixN n ∧ roundUp (8 * (1 + n)) 16 ≤ 2 ^ 32 ∧ x = fixN k ∧ ((k = 1 ∧ n = 5 ∧ tag = 0x13 ∧ ws = List.replicate n unbound ∨ k = 2 ∧ 1 ≤ n ∧ tag = 0x15 ∧ ws = List.replicate n unbound ∨ k = 8 ∧ 5 ≤ n ∧ (∃ j, j ≤ 20 ∧ n - 5 = 2 ^ j) ∧ tag = 0x14 ∧ ws = mailboxSlots (n - 5) ∨ k = 0xA ∧ n = 63 ∧ tag = 0x14 ∧ ws = List.replicate n unbound ∨ 0x100 ≤ k ∧ k ≤ 0xFFFF ∧ tag = 0x14 ∧ ws = List.replicate n unbound)) ∧ ∃ va s4, newObject c (kindFor false false (taggedBytes (mkHeader 0x20 k n 0) ws).length) (taggedBytes (mkHeader 0x20 k n 0) ws) s3 = .ok (va, s4) := by
      intro s a l k n tag ws h
      refine ready_of h fun c r x y s3 h => ?_
      refine and_of h (fun h => of_decide_eq_true h) fun h => ?_
      refine and_of h (fun h => of_decide_eq_true h) fun h => ?_
      refine and_of h (fun h => of_decide_eq_true h) fun h => ?_
      refine and_of h (fun h => of_decide_eq_true h) fun h => ?_
      obtain ⟨va, s4, h, -⟩ := ok_of (P := fun _ _ => True) h fun _ _ _ => trivial
      exact ⟨va, s4, h⟩
    exact ⟨sth [(1, fixN 0xFFFF), (2, fixN 1)] [], at0, lg 3 1 0 2, 0xFFFF, 1, 0x14, List.replicate 1 unbound, k _ _ _ _ _ _ _ (by decide +kernel)⟩
  · have k : ∀ (s : State) (a : _) (l : _) (n : _), (readyB s a .alloci l fun c r x y s3 => (decide (y = fixN n)) && ((decide (n < 2 ^ 32)) && ((decide (tagOf x = 0x12)) && (okB (newCode c l n y s3) fun v s4 => true)))) = true → ∃ c r x y s3, Ready s a .alloci l c r x y s3 ∧ y = fixN n ∧ n < 2 ^ 32 ∧ tagOf x = 0x12 ∧ ∃ v s4, newCode c l n y s3 = .ok (v, s4) := by
      intro s a l n h
      refine ready_of h fun c r x y s3 h => ?_
      refine and_of h (fun h => of_decide_eq_true h) fun h => ?_
      refine and_of h (fun h => of_decide_eq_true h) fun h => ?_
      refine and_of h (fun h => of_decide_eq_true h) fun h => ?_
      obtain ⟨v, s4, h, -⟩ := ok_of (P := fun _ _ => True) h fun _ _ _ => trivial
      exact ⟨v, s4, h⟩
    exact ⟨sth [(1, mkWord 0x12 0x1000), (2, fixN 5)] [(0x1000, mkHeader 0x22 6 8 0)], at0, lg 3 1 0 2, 5, k _ _ _ _ (by decide +kernel)⟩

/-- The hypotheses of part 1 of Obligations.ObjectOperationsComplete are met. -/
theorem witness_ObjectQueriesComplete :
    (∃ (s : State) (a : _) (l : _), ∃ c r x y s3, Ready s a .lenof l c r x y s3 ∧ y = nil)
    ∧ (∃ (s : State) (a : _) (l : _), ∃ c r x y s3, Ready s a .lenof l c r x y s3 ∧ isPointerTag (tagOf y) = true ∧ ∃ w s4, healB c l y s3 = .ok (w, s4) ∧ ∃ o s5, openObject c w 10 s4 = .ok (o, s5))
    ∧ (∃ (s : State) (a : _) (l : _), ∃ c r x y s3, Ready s a .classof l c r x y s3 ∧ isPointerTag (tagOf y) = true ∧ ∃ w s4, healB c l y s3 = .ok (w, s4) ∧ ∃ o s5, openObject c w 10 s4 = .ok (o, s5))
    ∧ (∃ (s : State) (a : _) (l : _), ∃ c r x y s3, Ready s a .idhash l c r x y s3 ∧ isPointerTag (tagOf y) = true ∧ tagOf y ≠ 0x10 ∧ ∃ w s4, healB c l y s3 = .ok (w, s4) ∧ ∃ o s5, openObject c w 10 s4 = .ok (o, s5) ∧ ∃ h, o.hdr = some h ∧ hdrHxt h = false ∧ hdrHashed h = true)
    ∧ (∃ (s : State) (a : _) (l : _), ∃ c r x y s3, Ready s a .idhash l c r x y s3 ∧ isPointerTag (tagOf y) = true ∧ tagOf y ≠ 0x10 ∧ ∃ w s4, healB c l y s3 = .ok (w, s4) ∧ ∃ o s5, openObject c w 10 s4 = .ok (o, s5) ∧ ∃ h, o.hdr = some h ∧ hdrHxt h = false ∧ hdrHashed h = false ∧ ∃ s6, atomicWrite c o.addr (bytesOfWord (withBit h 3 true)) true (drainStores s5 c) = .ok ((), s6) ∧ Drains s5 c)
    ∧ (∃ (s : State) (a : _) (l : _), ∃ c r x y s3, Ready s a .idhash l c r x y s3 ∧ isPointerTag (tagOf y) = true ∧ tagOf y ≠ 0x10 ∧ ∃ w s4, healB c l y s3 = .ok (w, s4) ∧ ∃ o s5, openObject c w 10 s4 = .ok (o, s5) ∧ ∃ h, o.hdr = some h ∧ hdrHxt h = true ∧ (¬ (tagOf h = 0x20 ∧ hdrClass h = 3)) ∧ ∃ v s6, loadWord c (o.addr + objectSize h 0 - 16) .read s5 = .ok (v, s6))
    ∧ (∃ (s : State) (a : _) (l : _), ∃ c r x y s3, Ready s a .weakref l c r x y s3 ∧ x = fixN 0 ∧ isPointerTag (tagOf y) = true ∧ ∃ w s4, healB c l y s3 = .ok (w, s4))
    ∧ (∃ (s : State) (a : _) (l : _), ∃ c r x y s3, Ready s a .weakref l c r x y s3 ∧ x = fixN 1 ∧ tagOf y = 0x1A ∧ ∃ w s4, healB c l y s3 = .ok (w, s4) ∧ ∃ o s5, openObject c w 10 s4 = .ok (o, s5) ∧ ∃ v, v = mkWord (match o.hdr with | some h => strongTagOfHeader h | none => 0x10) (valOf w))
    ∧ (∃ (s : State) (a : _) (l : _), ∃ c r x y s3, Ready s a .weakref l c r x y s3 ∧ x = fixN 1 ∧ ((y = nil ∨ isPointerTag (tagOf y) = true ∧ tagOf y ≠ 0x1A)))
    ∧ (∃ (s : State) (a : _) (l : _), ∃ c r x y s3, Ready s a .weakref l c r x y s3 ∧ x = fixN 1 ∧ ((y = nil ∨ isPointerTag (tagOf y) = true ∧ tagOf y ≠ 0x1A)))
    ∧ (∃ (s : State) (a : _) (l : _), ∃ c r x y s3, Ready s a .bitaddr l c r x y s3 ∧ tagOf x = 0x12 ∧ isFix y = true ∧ 0 ≤ fixVal y ∧ ∃ w s4, healRegM c l.ra.toNat s3 = .ok (w, s4) ∧ ∃ o s5, openObject c w 10 s4 = .ok (o, s5) ∧ fixVal y < 8 * o.bound) := by
  refine ⟨?_, ?_, ?_, ?_, ?_, ?_, ?_, ?_, ?_, ?_, ?_⟩
  · have k : ∀ (s : State) (a : _) (l : _), (readyB s a .lenof l fun c r x y s3 => decide (y = nil)) = true → ∃ c r x y s3, Ready s a .lenof l c r x y s3 ∧ y = nil := by
      intro s a l h
      refine ready_of h fun c r x y s3 h => ?_
      exact of_decide_eq_true h
    exact ⟨st [(2, nil)] [], at0, lg 3 0 0 2, k _ _ _ (by decide +kernel)⟩
  · have k : ∀ (s : State) (a : _) (l : _), (readyB s a .lenof l fun c r x y s3 => (decide (isPointerTag (tagOf y) = true)) && (okB (healB c l y s3) fun w s4 => okB (openObject c w 10 s4) fun o s5 => true)) = true → ∃ c r x y s3, Ready s a .lenof l c r x y s3 ∧ isPointerTag (tagOf y) = true ∧ ∃ w s4, healB c l y s3 = .ok (w, s4) ∧ ∃ o s5, openObject c w 10 s4 = .ok (o, s5) := by
      intro s a l h
      refine ready_of h fun c r x y s3 h => ?_
      refine and_of h (fun h => of_decide_eq_true h) fun h => ?_
      refine ok_of h fun w s4 h => ?_
      obtain ⟨o, s5, h, -⟩ := ok_of (P := fun _ _ => True) h fun _ _ _ => trivial
      exact ⟨o, s5, h⟩
    exact ⟨st [(2, mkWord 0x11 0x1000)] [(0x1000, mkHeader 0x21 7 3 0)], at0, lg 3 0 0 2, k _ _ _ (by decide +kernel)⟩
  · have k : ∀ (s : State) (a : _) (l : _), (readyB s a .classof l fun c r x y s3 => (decide (isPointerTag (tagOf y) = true)) && (okB (healB c l y s3) fun w s4 => okB (openObject c w 10 s4) fun o s5 => true)) = true → ∃ c r x y s3, Ready s a .classof l c r x y s3 ∧ isPointerTag (tagOf y) = true ∧ ∃ w s4, healB c l y s3 = .ok (w, s4) ∧ ∃ o s5, openObject c w 10 s4 = .ok (o, s5) := by
      intro s a l h
      refine ready_of h fun c r x y s3 h => ?_
      refine and_of h (fun h => of_decide_eq_true h) fun h => ?_
      refine ok_of h fun w s4 h => ?_
      obtain ⟨o, s5, h, -⟩ := ok_of (P := fun _ _ => True) h fun _ _ _ => trivial
      exact ⟨o, s5, h⟩
    exact ⟨st [(2, mkWord 0x11 0x1000)] [(0x1000, mkHeader 0x21 7 3 0)], at0, lg 3 0 0 2, k _ _ _ (by decide +kernel)⟩
  · have k : ∀ (s : State) (a : _) (l : _), (readyB s a .idhash l fun c r x y s3 => (decide (isPointerTag (tagOf y) = true)) && ((decide (tagOf y ≠ 0x10)) && (okB (healB c l y s3) fun w s4 => okB (openObject c w 10 s4) fun o s5 => someB (o.hdr) fun h => (decide (hdrHxt h = false)) && (decide (hdrHashed h = true))))) = true → ∃ c r x y s3, Ready s a .idhash l c r x y s3 ∧ isPointerTag (tagOf y) = true ∧ tagOf y ≠ 0x10 ∧ ∃ w s4, healB c l y s3 = .ok (w, s4) ∧ ∃ o s5, openObject c w 10 s4 = .ok (o, s5) ∧ ∃ h, o.hdr = some h ∧ hdrHxt h = false ∧ hdrHashed h = true := by
      intro s a l h
      refine ready_of h fun c r x y s3 h => ?_
      refine and_of h (fun h => of_decide_eq_true h) fun h => ?_
      refine and_of h (fun h => of_decide_eq_true h) fun h => ?_
      refine ok_of h fun w s4 h => ?_
      refine ok_of h fun o s5 h => ?_
      refine some_of h fun h h => ?_
      refine and_of h (fun h => of_decide_eq_true h) fun h => ?_
      exact of_decide_eq_true h
    exact ⟨st [(2, mkWord 0x11 0x1000)] [(0x1000, withBit (mkHeader 0x21 7 3 0) 3 true)], at0, lg 3 0 0 2, k _ _ _ (by decide +kernel)⟩
  · have k : ∀ (s : State) (a : _) (l : _), (readyB s a .idhash l fun c r x y s3 => (decide (isPointerTag (tagOf y) = true)) && ((decide (tagOf y ≠ 0x10)) && (okB (healB c l y s3) fun w s4 => okB (openObject c w 10 s4) fun o s5 => someB (o.hdr) fun h => (decide (hdrHxt h = false)) && ((decide (hdrHashed h = false)) && (okU (atomicWrite c o.addr (bytesOfWord (withBit h 3 true)) true (drainStores s5 c)) fun s6 => !((s5.core c).sbuf.any (fun e => writeWaits s5 c e.pa e.bytes.length))))))) = true → ∃ c r x y s3, Ready s a .idhash l c r x y s3 ∧ isPointerTag (tagOf y) = true ∧ tagOf y ≠ 0x10 ∧ ∃ w s4, healB c l y s3 = .ok (w, s4) ∧ ∃ o s5, openObject c w 10 s4 = .ok (o, s5) ∧ ∃ h, o.hdr = some h ∧ hdrHxt h = false ∧ hdrHashed h = false ∧ ∃ s6, atomicWrite c o.addr (bytesOfWord (withBit h 3 true)) true (drainStores s5 c) = .ok ((), s6) ∧ Drains s5 c := by
      intro s a l h
      refine ready_of h fun c r x y s3 h => ?_
      refine and_of h (fun h => of_decide_eq_true h) fun h => ?_
      refine and_of h (fun h => of_decide_eq_true h) fun h => ?_
      refine ok_of h fun w s4 h => ?_
      refine ok_of h fun o s5 h => ?_
      refine some_of h fun h h => ?_
      refine and_of h (fun h => of_decide_eq_true h) fun h => ?_
      refine and_of h (fun h => of_decide_eq_true h) fun h => ?_
      refine okU_of h fun s6 h => ?_
      exact drains_of h
    exact ⟨st [(2, mkWord 0x11 0x1000)] [(0x1000, mkHeader 0x21 7 3 0)], at0, lg 3 0 0 2, k _ _ _ (by decide +kernel)⟩
  · have k : ∀ (s : State) (a : _) (l : _), (readyB s a .idhash l fun c r x y s3 => (decide (isPointerTag (tagOf y) = true)) && ((decide (tagOf y ≠ 0x10)) && (okB (healB c l y s3) fun w s4 => okB (openObject c w 10 s4) fun o s5 => someB (o.hdr) fun h => (decide (hdrHxt h = true)) && ((decide (¬ (tagOf h = 0x20 ∧ hdrClass h = 3))) && (okB (loadWord c (o.addr + objectSize h 0 - 16) .read s5) fun v s6 => true))))) = true → ∃ c r x y s3, Ready s a .idhash l c r x y s3 ∧ isPointerTag (tagOf y) = true ∧ tagOf y ≠ 0x10 ∧ ∃ w s4, healB c l y s3 = .ok (w, s4) ∧ ∃ o s5, openObject c w 10 s4 = .ok (o, s5) ∧ ∃ h, o.hdr = some h ∧ hdrHxt h = true ∧ (¬ (tagOf h = 0x20 ∧ hdrClass h = 3)) ∧ ∃ v s6, loadWord c (o.addr + objectSize h 0 - 16) .read s5 = .ok (v, s6) := by
      intro s a l h
      refine ready_of h fun c r x y s3 h => ?_
      refine and_of h (fun h => of_decide_eq_true h) fun h => ?_
      refine and_of h (fun h => of_decide_eq_true h) fun h => ?_
      refine ok_of h fun w s4 h => ?_
      refine ok_of h fun o s5 h => ?_
      refine some_of h fun h h => ?_
      refine and_of h (fun h => of_decide_eq_true h) fun h => ?_
      refine and_of h (fun h => of_decide_eq_true h) fun h => ?_
      obtain ⟨v, s6, h, -⟩ := ok_of (P := fun _ _ => True) h fun _ _ _ => trivial
      exact ⟨v, s6, h⟩
    exact ⟨st [(2, mkWord 0x11 0x1000)] [(0x1000, withBit (mkHeader 0x21 7 3 0) 5 true)], at0, lg 3 0 0 2, k _ _ _ (by decide +kernel)⟩
  · have k : ∀ (s : State) (a : _) (l : _), (readyB s a .weakref l fun c r x y s3 => (decide (x = fixN 0)) && ((decide (isPointerTag (tagOf y) = true)) && (okB (healB c l y s3) fun w s4 => true))) = true → ∃ c r x y s3, Ready s a .weakref l c r x y s3 ∧ x = fixN 0 ∧ isPointerTag (tagOf y) = true ∧ ∃ w s4, healB c l y s3 = .ok (w, s4) := by
      intro s a l h
      refine ready_of h fun c r x y s3 h => ?_
      refine and_of h (fun h => of_decide_eq_true h) fun h => ?_
      refine and_of h (fun h => of_decide_eq_true h) fun h => ?_
      obtain ⟨w, s4, h, -⟩ := ok_of (P := fun _ _ => True) h fun _ _ _ => trivial
      exact ⟨w, s4, h⟩
    exact ⟨st [(1, fixN 0), (2, mkWord 0x11 0x1000)] [(0x1000, mkHeader 0x21 7 3 0)], at0, lg 3 1 0 2, k _ _ _ (by decide +kernel)⟩
  · have k : ∀ (s : State) (a : _) (l : _), (readyB s a .weakref l fun c r x y s3 => (decide (x = fixN 1)) && ((decide (tagOf y = 0x1A)) && (okB (healB c l y s3) fun w s4 => okB (openObject c w 10 s4) fun o s5 => eqB (mkWord (match o.hdr with | some h => strongTagOfHeader h | none => 0x10) (valOf w)) fun v => true))) = true → ∃ c r x y s3, Ready s a .weakref l c r x y s3 ∧ x = fixN 1 ∧ tagOf y = 0x1A ∧ ∃ w s4, healB c l y s3 = .ok (w, s4) ∧ ∃ o s5, openObject c w 10 s4 = .ok (o, s5) ∧ ∃ v, v = mkWord (match o.hdr with | some h => strongTagOfHeader h | none => 0x10) (valOf w) := by
      intro s a l h
      refine ready_of h fun c r x y s3 h => ?_
      refine and_of h (fun h => of_decide_eq_true h) fun h => ?_
      refine and_of h (fun h => of_decide_eq_true h) fun h => ?_
      refine ok_of h fun w s4 h => ?_
      refine ok_of h fun o s5 h => ?_
      obtain ⟨v, h, -⟩ := eq_of (P := fun _ => True) h fun _ _ => trivial
      exact ⟨v, h⟩
    exact ⟨st [(1, fixN 1), (2, mkWord 0x1A 0x1000)] [(0x1000, mkHeader 0x21 7 3 0)], at0, lg 3 1 0 2, k _ _ _ (by decide +kernel)⟩
  · have k : ∀ (s : State) (a : _) (l : _), (readyB s a .weakref l fun c r x y s3 => (decide (x = fixN 1)) && (decide ((y = nil ∨ isPointerTag (tagOf y) = true ∧ tagOf y ≠ 0x1A)))) = true → ∃ c r x y s3, Ready s a .weakref l c r x y s3 ∧ x = fixN 1 ∧ ((y = nil ∨ isPointerTag (tagOf y) = true ∧ tagOf y ≠ 0x1A)) := by
      intro s a l h
      refine ready_of h fun c r x y s3 h => ?_
      refine and_of h (fun h => of_decide_eq_true h) fun h => ?_
      exact of_decide_eq_true h
    exact ⟨st [(1, fixN 1), (2, nil)] [], at0, lg 3 1 0 2, k _ _ _ (by decide +kernel)⟩
  · have k : ∀ (s : State) (a : _) (l : _), (readyB s a .weakref l fun c r x y s3 => (decide (x = fixN 1)) && (decide ((y = nil ∨ isPointerTag (tagOf y) = true ∧ tagOf y ≠ 0x1A)))) = true → ∃ c r x y s3, Ready s a .weakref l c r x y s3 ∧ x = fixN 1 ∧ ((y = nil ∨ isPointerTag (tagOf y) = true ∧ tagOf y ≠ 0x1A)) := by
      intro s a l h
      refine ready_of h fun c r x y s3 h => ?_
      refine and_of h (fun h => of_decide_eq_true h) fun h => ?_
      exact of_decide_eq_true h
    exact ⟨st [(1, fixN 1), (2, mkWord 0x11 0x1000)] [(0x1000, mkHeader 0x21 7 3 0)], at0, lg 3 1 0 2, k _ _ _ (by decide +kernel)⟩
  · have k : ∀ (s : State) (a : _) (l : _), (readyB s a .bitaddr l fun c r x y s3 => (decide (tagOf x = 0x12)) && ((decide (isFix y = true)) && ((decide (0 ≤ fixVal y)) && (okB (healRegM c l.ra.toNat s3) fun w s4 => okB (openObject c w 10 s4) fun o s5 => decide (fixVal y < 8 * o.bound))))) = true → ∃ c r x y s3, Ready s a .bitaddr l c r x y s3 ∧ tagOf x = 0x12 ∧ isFix y = true ∧ 0 ≤ fixVal y ∧ ∃ w s4, healRegM c l.ra.toNat s3 = .ok (w, s4) ∧ ∃ o s5, openObject c w 10 s4 = .ok (o, s5) ∧ fixVal y < 8 * o.bound := by
      intro s a l h
      refine ready_of h fun c r x y s3 h => ?_
      refine and_of h (fun h => of_decide_eq_true h) fun h => ?_
      refine and_of h (fun h => of_decide_eq_true h) fun h => ?_
      refine and_of h (fun h => of_decide_eq_true h) fun h => ?_
      refine ok_of h fun w s4 h => ?_
      refine ok_of h fun o s5 h => ?_
      exact of_decide_eq_true h
    exact ⟨st [(1, mkWord 0x12 0x1000), (2, fixN 63)] [(0x1000, mkHeader 0x22 6 8 0)], at0, lg 3 1 0 2, k _ _ _ (by decide +kernel)⟩

/-- The hypotheses of part 2 of Obligations.ObjectOperationsComplete are met. -/
theorem witness_PinningCompletes :
    (∃ (s : State) (a : _) (l : _), ∃ c r x y s3, Ready s a .pin l c r x y s3 ∧ isPointerTag (tagOf x) = true ∧ tagOf x ≠ 0x10 ∧ y = fixN 0 ∧ ∃ w s4, healRegM c l.ra.toNat s3 = .ok (w, s4) ∧ ∃ o s5, openObject c w 10 s4 = .ok (o, s5) ∧ ∃ h, o.hdr = some h ∧ ∃ s6, atomicWrite c o.addr (bytesOfWord (withBit h 1 true)) true (drainStores s5 c) = .ok ((), s6) ∧ Drains s5 c)
    ∧ (∃ (s : State) (a : _) (l : _), ∃ c r x y s3, Ready s a .pin l c r x y s3 ∧ isPointerTag (tagOf x) = true ∧ tagOf x ≠ 0x10 ∧ y = fixN 1 ∧ ∃ w s4, healRegM c l.ra.toNat s3 = .ok (w, s4) ∧ ∃ o s5, openObject c w 10 s4 = .ok (o, s5) ∧ ∃ h, o.hdr = some h ∧ (¬ (tagOf h = 0x20 ∧ hdrClass h = 3)) ∧ ∃ s6, atomicWrite c o.addr (bytesOfWord (withBit h 0 true)) true (drainStores s5 c) = .ok ((), s6) ∧ Drains s5 c)
    ∧ (∃ (s : State) (a : _) (l : _), ∃ c r x y s3, Ready s a .pin l c r x y s3 ∧ isPointerTag (tagOf x) = true ∧ tagOf x ≠ 0x10 ∧ y = fixN 1 ∧ ∃ w s4, healRegM c l.ra.toNat s3 = .ok (w, s4) ∧ ∃ o s5, openObject c w 10 s4 = .ok (o, s5) ∧ ∃ h, o.hdr = some h ∧ tagOf h = 0x20 ∧ hdrClass h = 3 ∧ ∃ w1 s6, codeReady c o h s5 = .ok (w1, s6) ∧ w1 = true ∧ ∃ s7, atomicWrite c o.addr (bytesOfWord (withBit h 0 true)) true (drainStores s6 c) = .ok ((), s7) ∧ Drains s6 c)
    ∧ (∃ (s : State) (a : _) (l : _), ∃ c r x y s3, Ready s a .pin l c r x y s3 ∧ isPointerTag (tagOf x) = true ∧ tagOf x ≠ 0x10 ∧ y = fixN 4 ∧ ∃ w s4, healRegM c l.ra.toNat s3 = .ok (w, s4) ∧ ∃ o s5, openObject c w 10 s4 = .ok (o, s5) ∧ ∃ h, o.hdr = some h ∧ tagOf h = 0x20 ∧ hdrClass h = 3 ∧ hdrImm h = false ∧ ∃ s6, atomicWrite c o.addr (bytesOfWord (withBit h 4 true)) true (drainStores s5 c) = .ok ((), s6) ∧ Drains s5 c)
    ∧ (∃ (s : State) (a : _) (l : _), ∃ c r x y s3, Ready s a .unpin l c r x y s3 ∧ isPointerTag (tagOf x) = true ∧ tagOf x ≠ 0x10 ∧ y = fixN 0 ∧ ∃ w s4, healRegM c l.ra.toNat s3 = .ok (w, s4) ∧ ∃ o s5, openObject c w 10 s4 = .ok (o, s5) ∧ ∃ h, o.hdr = some h ∧ ∃ s6, atomicWrite c o.addr (bytesOfWord (withBit h 1 false)) true (drainStores s5 c) = .ok ((), s6) ∧ Drains s5 c) := by
  refine ⟨?_, ?_, ?_, ?_, ?_⟩
  · have k : ∀ (s : State) (a : _) (l : _), (readyB s a .pin l fun c r x y s3 => (decide (isPointerTag (tagOf x) = true)) && ((decide (tagOf x ≠ 0x10)) && ((decide (y = fixN 0)) && (okB (healRegM c l.ra.toNat s3) fun w s4 => okB (openObject c w 10 s4) fun o s5 => someB (o.hdr) fun h => okU (atomicWrite c o.addr (bytesOfWord (withBit h 1 true)) true (drainStores s5 c)) fun s6 => !((s5.core c).sbuf.any (fun e => writeWaits s5 c e.pa e.bytes.length)))))) = true → ∃ c r x y s3, Ready s a .pin l c r x y s3 ∧ isPointerTag (tagOf x) = true ∧ tagOf x ≠ 0x10 ∧ y = fixN 0 ∧ ∃ w s4, healRegM c l.ra.toNat s3 = .ok (w, s4) ∧ ∃ o s5, openObject c w 10 s4 = .ok (o, s5) ∧ ∃ h, o.hdr = some h ∧ ∃ s6, atomicWrite c o.addr (bytesOfWord (withBit h 1 true)) true (drainStores s5 c) = .ok ((), s6) ∧ Drains s5 c := by
      intro s a l h
      refine ready_of h fun c r x y s3 h => ?_
      refine and_of h (fun h => of_decide_eq_true h) fun h => ?_
      refine and_of h (fun h => of_decide_eq_true h) fun h => ?_
      refine and_of h (fun h => of_decide_eq_true h) fun h => ?_
      refine ok_of h fun w s4 h => ?_
      refine ok_of h fun o s5 h => ?_
      refine some_of h fun h h => ?_
      refine okU_of h fun s6 h => ?_
      exact drains_of h
    exact ⟨sth [(1, mkWord 0x11 0x1000), (2, fixN 0)] [(0x1000, mkHeader 0x21 7 3 0)], at0, lg 0 1 0 2, k _ _ _ (by decide +kernel)⟩
  · have k : ∀ (s : State) (a : _) (l : _), (readyB s a .pin l fun c r x y s3 => (decide (isPointerTag (tagOf x) = true)) && ((decide (tagOf x ≠ 0x10)) && ((decide (y = fixN 1)) && (okB (healRegM c l.ra.toNat s3) fun w s4 => okB (openObject c w 10 s4) fun o s5 => someB (o.hdr) fun h => (decide (¬ (tagOf h = 0x20 ∧ hdrClass h = 3))) && (okU (atomicWrite c o.addr (bytesOfWord (withBit h 0 true)) true (drainStores s5 c)) fun s6 => !((s5.core c).sbuf.any (fun e => writeWaits s5 c e.pa e.bytes.length))))))) = true → ∃ c r x y s3, Ready s a .pin l c r x y s3 ∧ isPointerTag (tagOf x) = true ∧ tagOf x ≠ 0x10 ∧ y = fixN 1 ∧ ∃ w s4, healRegM c l.ra.toNat s3 = .ok (w, s4) ∧ ∃ o s5, openObject c w 10 s4 = .ok (o, s5) ∧ ∃ h, o.hdr = some h ∧ (¬ (tagOf h = 0x20 ∧ hdrClass h = 3)) ∧ ∃ s6, atomicWrite c o.addr (bytesOfWord (withBit h 0 true)) true (drainStores s5 c) = .ok ((), s6) ∧ Drains s5 c := by
      intro s a l h
      refine ready_of h fun c r x y s3 h => ?_
      refine and_of h (fun h => of_decide_eq_true h) fun h => ?_
      refine and_of h (fun h => of_decide_eq_true h) fun h => ?_
      refine and_of h (fun h => of_decide_eq_true h) fun h => ?_
      refine ok_of h fun w s4 h => ?_
      refine ok_of h fun o s5 h => ?_
      refine some_of h fun h h => ?_
      refine and_of h (fun h => of_decide_eq_true h) fun h => ?_
      refine okU_of h fun s6 h => ?_
      exact drains_of h
    exact ⟨st [(1, mkWord 0x11 0x1000), (2, fixN 1)] [(0x1000, mkHeader 0x21 7 3 0)], at0, lg 0 1 0 2, k _ _ _ (by decide +kernel)⟩
  · have k : ∀ (s : State) (a : _) (l : _), (readyB s a .pin l fun c r x y s3 => (decide (isPointerTag (tagOf x) = true)) && ((decide (tagOf x ≠ 0x10)) && ((decide (y = fixN 1)) && (okB (healRegM c l.ra.toNat s3) fun w s4 => okB (openObject c w 10 s4) fun o s5 => someB (o.hdr) fun h => (decide (tagOf h = 0x20)) && ((decide (hdrClass h = 3)) && (okB (codeReady c o h s5) fun w1 s6 => (decide (w1 = true)) && (okU (atomicWrite c o.addr (bytesOfWord (withBit h 0 true)) true (drainStores s6 c)) fun s7 => !((s6.core c).sbuf.any (fun e => writeWaits s6 c e.pa e.bytes.length))))))))) = true → ∃ c r x y s3, Ready s a .pin l c r x y s3 ∧ isPointerTag (tagOf x) = true ∧ tagOf x ≠ 0x10 ∧ y = fixN 1 ∧ ∃ w s4, healRegM c l.ra.toNat s3 = .ok (w, s4) ∧ ∃ o s5, openObject c w 10 s4 = .ok (o, s5) ∧ ∃ h, o.hdr = some h ∧ tagOf h = 0x20 ∧ hdrClass h = 3 ∧ ∃ w1 s6, codeReady c o h s5 = .ok (w1, s6) ∧ w1 = true ∧ ∃ s7, atomicWrite c o.addr (bytesOfWord (withBit h 0 true)) true (drainStores s6 c) = .ok ((), s7) ∧ Drains s6 c := by
      intro s a l h
      refine ready_of h fun c r x y s3 h => ?_
      refine and_of h (fun h => of_decide_eq_true h) fun h => ?_
      refine and_of h (fun h => of_decide_eq_true h) fun h => ?_
      refine and_of h (fun h => of_decide_eq_true h) fun h => ?_
      refine ok_of h fun w s4 h => ?_
      refine ok_of h fun o s5 h => ?_
      refine some_of h fun h h => ?_
      refine and_of h (fun h => of_decide_eq_true h) fun h => ?_
      refine and_of h (fun h => of_decide_eq_true h) fun h => ?_
      refine ok_of h fun w1 s6 h => ?_
      refine and_of h (fun h => of_decide_eq_true h) fun h => ?_
      refine okU_of h fun s7 h => ?_
      exact drains_of h
    exact ⟨st [(1, mkWord 0x16 0x1000), (2, fixN 1)] [(0x1000, mkHeader 0x20 3 5 0), (0x1008, fixN 8), (0x1010, fixN 0), (0x1018, nil), (0x1020, nil), (0x1028, fixN 0)], at0, lg 0 1 0 2, k _ _ _ (by decide +kernel)⟩
  · have k : ∀ (s : State) (a : _) (l : _), (readyB s a .pin l fun c r x y s3 => (decide (isPointerTag (tagOf x) = true)) && ((decide (tagOf x ≠ 0x10)) && ((decide (y = fixN 4)) && (okB (healRegM c l.ra.toNat s3) fun w s4 => okB (openObject c w 10 s4) fun o s5 => someB (o.hdr) fun h => (decide (tagOf h = 0x20)) && ((decide (hdrClass h = 3)) && ((decide (hdrImm h = false)) && (okU (atomicWrite c o.addr (bytesOfWord (withBit h 4 true)) true (drainStores s5 c)) fun s6 => !((s5.core c).sbuf.any (fun e => writeWaits s5 c e.pa e.bytes.length))))))))) = true → ∃ c r x y s3, Ready s a .pin l c r x y s3 ∧ isPointerTag (tagOf x) = true ∧ tagOf x ≠ 0x10 ∧ y = fixN 4 ∧ ∃ w s4, healRegM c l.ra.toNat s3 = .ok (w, s4) ∧ ∃ o s5, openObject c w 10 s4 = .ok (o, s5) ∧ ∃ h, o.hdr = some h ∧ tagOf h = 0x20 ∧ hdrClass h = 3 ∧ hdrImm h = false ∧ ∃ s6, atomicWrite c o.addr (bytesOfWord (withBit h 4 true)) true (drainStores s5 c) = .ok ((), s6) ∧ Drains s5 c := by
      intro s a l h
      refine ready_of h fun c r x y s3 h => ?_
      refine and_of h (fun h => of_decide_eq_true h) fun h => ?_
      refine and_of h (fun h => of_decide_eq_true h) fun h => ?_
      refine and_of h (fun h => of_decide_eq_true h) fun h => ?_
      refine ok_of h fun w s4 h => ?_
      refine ok_of h fun o s5 h => ?_
      refine some_of h fun h h => ?_
      refine and_of h (fun h => of_decide_eq_true h) fun h => ?_
      refine and_of h (fun h => of_decide_eq_true h) fun h => ?_
      refine and_of h (fun h => of_decide_eq_true h) fun h => ?_
      refine okU_of h fun s6 h => ?_
      exact drains_of h
    exact ⟨st [(1, mkWord 0x16 0x1000), (2, fixN 4)] [(0x1000, mkHeader 0x20 3 5 0), (0x1008, fixN 8), (0x1010, fixN 0), (0x1018, nil), (0x1020, nil), (0x1028, fixN 0)], at0, lg 0 1 0 2, k _ _ _ (by decide +kernel)⟩
  · have k : ∀ (s : State) (a : _) (l : _), (readyB s a .unpin l fun c r x y s3 => (decide (isPointerTag (tagOf x) = true)) && ((decide (tagOf x ≠ 0x10)) && ((decide (y = fixN 0)) && (okB (healRegM c l.ra.toNat s3) fun w s4 => okB (openObject c w 10 s4) fun o s5 => someB (o.hdr) fun h => okU (atomicWrite c o.addr (bytesOfWord (withBit h 1 false)) true (drainStores s5 c)) fun s6 => !((s5.core c).sbuf.any (fun e => writeWaits s5 c e.pa e.bytes.length)))))) = true → ∃ c r x y s3, Ready s a .unpin l c r x y s3 ∧ isPointerTag (tagOf x) = true ∧ tagOf x ≠ 0x10 ∧ y = fixN 0 ∧ ∃ w s4, healRegM c l.ra.toNat s3 = .ok (w, s4) ∧ ∃ o s5, openObject c w 10 s4 = .ok (o, s5) ∧ ∃ h, o.hdr = some h ∧ ∃ s6, atomicWrite c o.addr (bytesOfWord (withBit h 1 false)) true (drainStores s5 c) = .ok ((), s6) ∧ Drains s5 c := by
      intro s a l h
      refine ready_of h fun c r x y s3 h => ?_
      refine and_of h (fun h => of_decide_eq_true h) fun h => ?_
      refine and_of h (fun h => of_decide_eq_true h) fun h => ?_
      refine and_of h (fun h => of_decide_eq_true h) fun h => ?_
      refine ok_of h fun w s4 h => ?_
      refine ok_of h fun o s5 h => ?_
      refine some_of h fun h h => ?_
      refine okU_of h fun s6 h => ?_
      exact drains_of h
    exact ⟨st [(1, mkWord 0x11 0x1000), (2, fixN 0)] [(0x1000, mkHeader 0x21 7 3 0)], at0, lg 0 1 0 2, k _ _ _ (by decide +kernel)⟩

/-- The hypotheses of part 3 of Obligations.ObjectOperationsComplete are met. -/
theorem witness_TagsComplete :
    (∃ (s : State) (a : _) (l : _) (t : _), ∃ c r x y s3, Ready s a .tagset l c r x y s3 ∧ isImmediateTag (tagOf x) = true ∧ y = fixN t ∧ t < 256 ∧ isReservedTag t = false ∧ (isImmediateTag t || t == 0x1F) = true ∧ inspectWord (mkWord t (valOf x)) = none)
    ∧ (∃ (s : State) (a : _) (l : _) (t : _), ∃ c r x y s3, Ready s a .tagset l c r x y s3 ∧ isImmediateTag (tagOf x) = true ∧ y = fixN t ∧ t < 256 ∧ isReservedTag t = true)
    ∧ (∃ (s : State) (a : _) (l : _) (t : _), ∃ c r x y s3, Ready s a .tagset l c r x y s3 ∧ isImmediateTag (tagOf x) = true ∧ y = fixN t ∧ t < 256 ∧ isReservedTag t = false ∧ (isImmediateTag t || t == 0x1F) = false)
    ∧ (∃ (s : State) (a : _) (l : _), ∃ c r x y s3, Ready s a .tagof l c r x y s3)
    ∧ (∃ (s : State) (a : _) (l : _), ∃ c r x y s3, Ready s a .tageq l c r x y s3)
    ∧ (∃ (s : State) (a : _) (l : _) (n : _), ∃ c r x y s3, Ready s a .classis l c r x y s3 ∧ y = fixN n ∧ n ≤ 15)
    ∧ (∃ (s : State) (a : _) (l : _), ∃ c r x y s3, Ready s a .eq l c r x y s3 ∧ ∃ v s4, healRegM c l.ra.toNat s3 = .ok (v, s4) ∧ ∃ w s5, healB c l y s4 = .ok (w, s5))
    ∧ (∃ (s : State) (a : _) (l : _), ∃ c r x y s3, Ready s a .eql l c r x y s3 ∧ Admits s3 0x8 x (some y) ∧ ∃ v s4, healRegM c l.ra.toNat s3 = .ok (v, s4) ∧ ∃ w s5, healB c l y s4 = .ok (w, s5) ∧ ((v = w ∨ ¬ (classOfTag (tagOf v) = classOfTag (tagOf w) ∧ (classOfTag (tagOf v) = 6 ∨ classOfTag (tagOf v) = 7)))))
    ∧ (∃ (s : State) (a : _) (l : _), ∃ c r x y s3, Ready s a .eql l c r x y s3 ∧ Admits s3 0x8 x (some y) ∧ ∃ v s4, healRegM c l.ra.toNat s3 = .ok (v, s4) ∧ ∃ w s5, healB c l y s4 = .ok (w, s5) ∧ v ≠ w ∧ classOfTag (tagOf v) = classOfTag (tagOf w) ∧ ((classOfTag (tagOf v) = 6 ∨ classOfTag (tagOf v) = 7)) ∧ ∃ p q s6, Numbers c v w s5 p q s6) := by
  refine ⟨?_, ?_, ?_, ?_, ?_, ?_, ?_, ?_, ?_⟩
  · have k : ∀ (s : State) (a : _) (l : _) (t : _), (readyB s a .tagset l fun c r x y s3 => (decide (isImmediateTag (tagOf x) = true)) && ((decide (y = fixN t)) && ((decide (t < 256)) && ((decide (isReservedTag t = false)) && ((decide ((isImmediateTag t || t == 0x1F) = true)) && (decide (inspectWord (mkWord t (valOf x)) = none))))))) = true → ∃ c r x y s3, Ready s a .tagset l c r x y s3 ∧ isImmediateTag (tagOf x) = true ∧ y = fixN t ∧ t < 256 ∧ isReservedTag t = false ∧ (isImmediateTag t || t == 0x1F) = true ∧ inspectWord (mkWord t (valOf x)) = none := by
      intro s a l t h
      refine ready_of h fun c r x y s3 h => ?_
      refine and_of h (fun h => of_decide_eq_true h) fun h => ?_
      refine and_of h (fun h => of_decide_eq_true h) fun h => ?_
      refine and_of h (fun h => of_decide_eq_true h) fun h => ?_
      refine and_of h (fun h => of_decide_eq_true h) fun h => ?_
      refine and_of h (fun h => of_decide_eq_true h) fun h => ?_
      exact of_decide_eq_true h
    exact ⟨st [(1, fixN 7), (2, fixN 0x1F)] [], at0, lg 3 1 0 2, 0x1F, k _ _ _ _ (by decide +kernel)⟩
  · have k : ∀ (s : State) (a : _) (l : _) (t : _), (readyB s a .tagset l fun c r x y s3 => (decide (isImmediateTag (tagOf x) = true)) && ((decide (y = fixN t)) && ((decide (t < 256)) && (decide (isReservedTag t = true))))) = true → ∃ c r x y s3, Ready s a .tagset l c r x y s3 ∧ isImmediateTag (tagOf x) = true ∧ y = fixN t ∧ t < 256 ∧ isReservedTag t = true := by
      intro s a l t h
      refine ready_of h fun c r x y s3 h => ?_
      refine and_of h (fun h => of_decide_eq_true h) fun h => ?_
      refine and_of h (fun h => of_decide_eq_true h) fun h => ?_
      refine and_of h (fun h => of_decide_eq_true h) fun h => ?_
      exact of_decide_eq_true h
    exact ⟨st [(1, fixN 7), (2, fixN 255)] [], at0, lg 3 1 0 2, 255, k _ _ _ _ (by decide +kernel)⟩
  · have k : ∀ (s : State) (a : _) (l : _) (t : _), (readyB s a .tagset l fun c r x y s3 => (decide (isImmediateTag (tagOf x) = true)) && ((decide (y = fixN t)) && ((decide (t < 256)) && ((decide (isReservedTag t = false)) && (decide ((isImmediateTag t || t == 0x1F) = false)))))) = true → ∃ c r x y s3, Ready s a .tagset l c r x y s3 ∧ isImmediateTag (tagOf x) = true ∧ y = fixN t ∧ t < 256 ∧ isReservedTag t = false ∧ (isImmediateTag t || t == 0x1F) = false := by
      intro s a l t h
      refine ready_of h fun c r x y s3 h => ?_
      refine and_of h (fun h => of_decide_eq_true h) fun h => ?_
      refine and_of h (fun h => of_decide_eq_true h) fun h => ?_
      refine and_of h (fun h => of_decide_eq_true h) fun h => ?_
      refine and_of h (fun h => of_decide_eq_true h) fun h => ?_
      exact of_decide_eq_true h
    exact ⟨st [(1, fixN 7), (2, fixN 0x16)] [], at0, lg 3 1 0 2, 0x16, k _ _ _ _ (by decide +kernel)⟩
  · have k : ∀ (s : State) (a : _) (l : _), (readyB s a .tagof l fun c r x y s3 => true) = true → ∃ c r x y s3, Ready s a .tagof l c r x y s3 := by
      intro s a l h
      obtain ⟨c, r, x, y, s3, h, -⟩ := ready_of (P := fun _ _ _ _ _ => True) h fun _ _ _ _ _ _ => trivial
      exact ⟨c, r, x, y, s3, h⟩
    exact ⟨st [(2, nil)] [], at0, lg 3 0 0 2, k _ _ _ (by decide +kernel)⟩
  · have k : ∀ (s : State) (a : _) (l : _), (readyB s a .tageq l fun c r x y s3 => true) = true → ∃ c r x y s3, Ready s a .tageq l c r x y s3 := by
      intro s a l h
      obtain ⟨c, r, x, y, s3, h, -⟩ := ready_of (P := fun _ _ _ _ _ => True) h fun _ _ _ _ _ _ => trivial
      exact ⟨c, r, x, y, s3, h⟩
    exact ⟨st [(1, fixN 7), (2, fixN 5)] [], at0, lg 0 1 0 2, k _ _ _ (by decide +kernel)⟩
  · have k : ∀ (s : State) (a : _) (l : _) (n : _), (readyB s a .classis l fun c r x y s3 => (decide (y = fixN n)) && (decide (n ≤ 15))) = true → ∃ c r x y s3, Ready s a .classis l c r x y s3 ∧ y = fixN n ∧ n ≤ 15 := by
      intro s a l n h
      refine ready_of h fun c r x y s3 h => ?_
      refine and_of h (fun h => of_decide_eq_true h) fun h => ?_
      exact of_decide_eq_true h
    exact ⟨st [(1, fixN 7), (2, fixN 15)] [], at0, lg 0 1 0 2, 15, k _ _ _ _ (by decide +kernel)⟩
  · have k : ∀ (s : State) (a : _) (l : _), (readyB s a .eq l fun c r x y s3 => okB (healRegM c l.ra.toNat s3) fun v s4 => okB (healB c l y s4) fun w s5 => true) = true → ∃ c r x y s3, Ready s a .eq l c r x y s3 ∧ ∃ v s4, healRegM c l.ra.toNat s3 = .ok (v, s4) ∧ ∃ w s5, healB c l y s4 = .ok (w, s5) := by
      intro s a l h
      refine ready_of h fun c r x y s3 h => ?_
      refine ok_of h fun v s4 h => ?_
      obtain ⟨w, s5, h, -⟩ := ok_of (P := fun _ _ => True) h fun _ _ _ => trivial
      exact ⟨w, s5, h⟩
    exact ⟨st [(1, fixN 7), (2, fixN 5)] [], at0, lg 0 1 0 2, k _ _ _ (by decide +kernel)⟩
  · have k : ∀ (s : State) (a : _) (l : _), (readyB s a .eql l fun c r x y s3 => (admitsB s3 0x8 x (some y)) && (okB (healRegM c l.ra.toNat s3) fun v s4 => okB (healB c l y s4) fun w s5 => decide ((v = w ∨ ¬ (classOfTag (tagOf v) = classOfTag (tagOf w) ∧ (classOfTag (tagOf v) = 6 ∨ classOfTag (tagOf v) = 7)))))) = true → ∃ c r x y s3, Ready s a .eql l c r x y s3 ∧ Admits s3 0x8 x (some y) ∧ ∃ v s4, healRegM c l.ra.toNat s3 = .ok (v, s4) ∧ ∃ w s5, healB c l y s4 = .ok (w, s5) ∧ ((v = w ∨ ¬ (classOfTag (tagOf v) = classOfTag (tagOf w) ∧ (classOfTag (tagOf v) = 6 ∨ classOfTag (tagOf v) = 7)))) := by
      intro s a l h
      refine ready_of h fun c r x y s3 h => ?_
      refine and_of h (fun h => admits_of h) fun h => ?_
      refine ok_of h fun v s4 h => ?_
      refine ok_of h fun w s5 h => ?_
      exact of_decide_eq_true h
    exact ⟨st [(1, fixN 7), (2, fixN 5)] [], at0, lg 0 1 0 2, k _ _ _ (by decide +kernel)⟩
  · have k : ∀ (s : State) (a : _) (l : _), (readyB s a .eql l fun c r x y s3 => (admitsB s3 0x8 x (some y)) && (okB (healRegM c l.ra.toNat s3) fun v s4 => okB (healB c l y s4) fun w s5 => (decide (v ≠ w)) && ((decide (classOfTag (tagOf v) = classOfTag (tagOf w))) && ((decide ((classOfTag (tagOf v) = 6 ∨ classOfTag (tagOf v) = 7))) && (numbersB c v w s5 fun p q s6 => true))))) = true → ∃ c r x y s3, Ready s a .eql l c r x y s3 ∧ Admits s3 0x8 x (some y) ∧ ∃ v s4, healRegM c l.ra.toNat s3 = .ok (v, s4) ∧ ∃ w s5, healB c l y s4 = .ok (w, s5) ∧ v ≠ w ∧ classOfTag (tagOf v) = classOfTag (tagOf w) ∧ ((classOfTag (tagOf v) = 6 ∨ classOfTag (tagOf v) = 7)) ∧ ∃ p q s6, Numbers c v w s5 p q s6 := by
      intro s a l h
      refine ready_of h fun c r x y s3 h => ?_
      refine and_of h (fun h => admits_of h) fun h => ?_
      refine ok_of h fun v s4 h => ?_
      refine ok_of h fun w s5 h => ?_
      refine and_of h (fun h => of_decide_eq_true h) fun h => ?_
      refine and_of h (fun h => of_decide_eq_true h) fun h => ?_
      refine and_of h (fun h => of_decide_eq_true h) fun h => ?_
      obtain ⟨p, q, s6, h, -⟩ := numbers_of (P := fun _ _ _ => True) h fun _ _ _ _ => trivial
      exact ⟨p, q, s6, h⟩
    exact ⟨st [(1, mkWord 0x17 0x1000), (2, mkWord 0x17 0x1010)] [(0x1000, mkHeader 0x22 4 8 0), (0x1008, 0x80000000000000#64), (0x1010, mkHeader 0x22 4 8 0), (0x1018, 0x80000000000000#64)], at0, lg 0 1 0 2, k _ _ _ (by decide +kernel)⟩

/-- The hypotheses of part 1 of Obligations.AtomicsComplete are met. -/
theorem witness_WordAtomicsComplete :
    (∃ (s : State) (a : _) (l : _), ∃ c r s2, Located s a .casw l c 8 0 4 r s2 ∧ ∃ va w1, r.b = .word va w1 ∧ w1 = false ∧ ∃ e s3, healRegM c l.rd.toNat s2 = .ok (e, s3) ∧ ∃ w s4, healRegM c l.ra.toNat s3 = .ok (w, s4) ∧ ∃ w2 s5, Exchanges c va s4 w2 w s5 ∧ w2 = e)
    ∧ (∃ (s : State) (a : _) (l : _), ∃ c r s2, Located s a .casw l c 8 0 4 r s2 ∧ ∃ va imm, r.b = .word va imm ∧ ∃ e s3, healRegM c l.rd.toNat s2 = .ok (e, s3) ∧ ∃ w s4, healRegM c l.ra.toNat s3 = .ok (w, s4) ∧ ∃ old s5, loadWord c va .atomic (drainStores s4 c) = .ok (old, s5) ∧ old ≠ e ∧ Drains s4 c)
    ∧ (∃ (s : State) (a : _) (l : _) (old : _), ∃ c r s2, Located s a .faddw l c 8 0 4 r s2 ∧ ∃ va w1, r.b = .word va w1 ∧ w1 = false ∧ ∃ x, (s2.core c).getReg l.ra.toNat = x ∧ isFix x = true ∧ isFix old = true ∧ ∃ w2 s3, Exchanges c va s2 w2 (fix (fixVal old + fixVal x)) s3 ∧ w2 = old) := by
  refine ⟨?_, ?_, ?_⟩
  · have k : ∀ (s : State) (a : _) (l : _), (locatedB s a .casw l 8 0 4 fun c r s2 => bWordB (r.b) fun va w1 => (decide (w1 = false)) && (okB (healRegM c l.rd.toNat s2) fun e s3 => okB (healRegM c l.ra.toNat s3) fun w s4 => exchB c va s4 w fun w2 s5 => decide (w2 = e))) = true → ∃ c r s2, Located s a .casw l c 8 0 4 r s2 ∧ ∃ va w1, r.b = .word va w1 ∧ w1 = false ∧ ∃ e s3, healRegM c l.rd.toNat s2 = .ok (e, s3) ∧ ∃ w s4, healRegM c l.ra.toNat s3 = .ok (w, s4) ∧ ∃ w2 s5, Exchanges c va s4 w2 w s5 ∧ w2 = e := by
      intro s a l h
      refine located_of h fun c r s2 h => ?_
      refine bWord_of h fun va w1 h => ?_
      refine and_of h (fun h => of_decide_eq_true h) fun h => ?_
      refine ok_of h fun e s3 h => ?_
      refine ok_of h fun w s4 h => ?_
      refine exch_of h fun w2 s5 h => ?_
      exact of_decide_eq_true h
    exact ⟨st [(1, fixN 7), (2, mkWord 0x11 0x1000), (3, fixN 9)] [(0x1000, mkHeader 0x21 7 3 0), (0x1010, fixN 9)], at0, lg 3 1 4 2 1, k _ _ _ (by decide +kernel)⟩
  · have k : ∀ (s : State) (a : _) (l : _), (locatedB s a .casw l 8 0 4 fun c r s2 => bWordB (r.b) fun va imm => okB (healRegM c l.rd.toNat s2) fun e s3 => okB (healRegM c l.ra.toNat s3) fun w s4 => okB (loadWord c va .atomic (drainStores s4 c)) fun old s5 => (decide (old ≠ e)) && (!((s4.core c).sbuf.any (fun e => writeWaits s4 c e.pa e.bytes.length)))) = true → ∃ c r s2, Located s a .casw l c 8 0 4 r s2 ∧ ∃ va imm, r.b = .word va imm ∧ ∃ e s3, healRegM c l.rd.toNat s2 = .ok (e, s3) ∧ ∃ w s4, healRegM c l.ra.toNat s3 = .ok (w, s4) ∧ ∃ old s5, loadWord c va .atomic (drainStores s4 c) = .ok (old, s5) ∧ old ≠ e ∧ Drains s4 c := by
      intro s a l h
      refine located_of h fun c r s2 h => ?_
      refine bWord_of h fun va imm h => ?_
      refine ok_of h fun e s3 h => ?_
      refine ok_of h fun w s4 h => ?_
      refine ok_of h fun old s5 h => ?_
      refine and_of h (fun h => of_decide_eq_true h) fun h => ?_
      exact drains_of h
    exact ⟨st [(1, fixN 7), (2, mkWord 0x11 0x1000), (3, fixN 9)] [(0x1000, mkHeader 0x21 7 3 0), (0x1010, fixN 8)], at0, lg 3 1 4 2 1, k _ _ _ (by decide +kernel)⟩
  · have k : ∀ (s : State) (a : _) (l : _) (old : _), (locatedB s a .faddw l 8 0 4 fun c r s2 => bWordB (r.b) fun va w1 => (decide (w1 = false)) && (eqB ((s2.core c).getReg l.ra.toNat) fun x => (decide (isFix x = true)) && ((decide (isFix old = true)) && (exchB c va s2 (fix (fixVal old + fixVal x)) fun w2 s3 => decide (w2 = old))))) = true → ∃ c r s2, Located s a .faddw l c 8 0 4 r s2 ∧ ∃ va w1, r.b = .word va w1 ∧ w1 = false ∧ ∃ x, (s2.core c).getReg l.ra.toNat = x ∧ isFix x = true ∧ isFix old = true ∧ ∃ w2 s3, Exchanges c va s2 w2 (fix (fixVal old + fixVal x)) s3 ∧ w2 = old := by
      intro s a l old h
      refine located_of h fun c r s2 h => ?_
      refine bWord_of h fun va w1 h => ?_
      refine and_of h (fun h => of_decide_eq_true h) fun h => ?_
      refine eq_of' h fun x h => ?_
      refine and_of h (fun h => of_decide_eq_true h) fun h => ?_
      refine and_of h (fun h => of_decide_eq_true h) fun h => ?_
      refine exch_of h fun w2 s3 h => ?_
      exact of_decide_eq_true h
    exact ⟨st [(1, fixN 7), (2, mkWord 0x11 0x1000), (3, fixN 9)] [(0x1000, mkHeader 0x21 7 3 0), (0x1010, fixN 9)], at0, lg 3 1 4 2 1, fixN 9, k _ _ _ _ (by decide +kernel)⟩

/-- The hypotheses of part 2 of Obligations.AtomicsComplete are met. -/
theorem witness_GranuleAtomicsComplete :
    (∃ (s : State) (a : _) (l : _), ∃ c r s2, Located s a .casg l c 16 0 4 r s2 ∧ ∃ va imm, r.b = .word va imm ∧ ∃ e1 s3, healRegM c l.rd.toNat s2 = .ok (e1, s3) ∧ ∃ e2 s4, healRegM c (l.rd.toNat + 1) s3 = .ok (e2, s4) ∧ ∃ n1 s5, healRegM c l.ra.toNat s4 = .ok (n1, s5) ∧ ∃ n2 s6, healRegM c (l.ra.toNat + 1) s5 = .ok (n2, s6) ∧ ∃ o1 o2 s7, loadGranule c va s6 = .ok ((o1, o2), s7) ∧ (¬ (o1 = e1 ∧ o2 = e2)))
    ∧ (∃ (s : State) (a : _) (l : _), ∃ c r s2, Located s a .casg l c 16 0 4 r s2 ∧ ∃ va w1, r.b = .word va w1 ∧ w1 = false ∧ ∃ e1 s3, healRegM c l.rd.toNat s2 = .ok (e1, s3) ∧ ∃ e2 s4, healRegM c (l.rd.toNat + 1) s3 = .ok (e2, s4) ∧ ∃ n1 s5, healRegM c l.ra.toNat s4 = .ok (n1, s5) ∧ ∃ n2 s6, healRegM c (l.ra.toNat + 1) s5 = .ok (n2, s6) ∧ ∃ w2 w3 s7, loadGranule c va s6 = .ok ((w2, w3), s7) ∧ w2 = e1 ∧ w3 = e2 ∧ ∃ s8, writeGranuleM c va false n1 n2 s7 = .ok ((), s8))
    ∧ (∃ (s : State) (a : _) (l : _), ∃ c r s2, Located s a .swpg l c 16 0 4 r s2 ∧ ∃ va w1, r.b = .word va w1 ∧ w1 = false ∧ ∃ n1 s5, healRegM c l.ra.toNat s2 = .ok (n1, s5) ∧ ∃ n2 s6, healRegM c (l.ra.toNat + 1) s5 = .ok (n2, s6) ∧ ∃ o1 o2 s7, loadGranule c va s6 = .ok ((o1, o2), s7) ∧ ∃ s8, writeGranuleM c va false n1 n2 s7 = .ok ((), s8)) := by
  refine ⟨?_, ?_, ?_⟩
  · have k : ∀ (s : State) (a : _) (l : _), (locatedB s a .casg l 16 0 4 fun c r s2 => bWordB (r.b) fun va imm => okB (healRegM c l.rd.toNat s2) fun e1 s3 => okB (healRegM c (l.rd.toNat + 1) s3) fun e2 s4 => okB (healRegM c l.ra.toNat s4) fun n1 s5 => okB (healRegM c (l.ra.toNat + 1) s5) fun n2 s6 => okP (loadGranule c va s6) fun o1 o2 s7 => decide (¬ (o1 = e1 ∧ o2 = e2))) = true → ∃ c r s2, Located s a .casg l c 16 0 4 r s2 ∧ ∃ va imm, r.b = .word va imm ∧ ∃ e1 s3, healRegM c l.rd.toNat s2 = .ok (e1, s3) ∧ ∃ e2 s4, healRegM c (l.rd.toNat + 1) s3 = .ok (e2, s4) ∧ ∃ n1 s5, healRegM c l.ra.toNat s4 = .ok (n1, s5) ∧ ∃ n2 s6, healRegM c (l.ra.toNat + 1) s5 = .ok (n2, s6) ∧ ∃ o1 o2 s7, loadGranule c va s6 = .ok ((o1, o2), s7) ∧ (¬ (o1 = e1 ∧ o2 = e2)) := by
      intro s a l h
      refine located_of h fun c r s2 h => ?_
      refine bWord_of h fun va imm h => ?_
      refine ok_of h fun e1 s3 h => ?_
      refine ok_of h fun e2 s4 h => ?_
      refine ok_of h fun n1 s5 h => ?_
      refine ok_of h fun n2 s6 h => ?_
      refine okP_of h fun o1 o2 s7 h => ?_
      exact of_decide_eq_true h
    exact ⟨st [(4, fixN 7), (5, fixN 8), (2, mkWord 0x11 0x1000), (6, fixN 9), (7, fixN 10)] [(0x1000, mkHeader 0x21 7 3 0)], at0, lg 6 4 4 2 1, k _ _ _ (by decide +kernel)⟩
  · have k : ∀ (s : State) (a : _) (l : _), (locatedB s a .casg l 16 0 4 fun c r s2 => bWordB (r.b) fun va w1 => (decide (w1 = false)) && (okB (healRegM c l.rd.toNat s2) fun e1 s3 => okB (healRegM c (l.rd.toNat + 1) s3) fun e2 s4 => okB (healRegM c l.ra.toNat s4) fun n1 s5 => okB (healRegM c (l.ra.toNat + 1) s5) fun n2 s6 => okP (loadGranule c va s6) fun w2 w3 s7 => (decide (w2 = e1)) && ((decide (w3 = e2)) && (okU (writeGranuleM c va false n1 n2 s7) fun s8 => true)))) = true → ∃ c r s2, Located s a .casg l c 16 0 4 r s2 ∧ ∃ va w1, r.b = .word va w1 ∧ w1 = false ∧ ∃ e1 s3, healRegM c l.rd.toNat s2 = .ok (e1, s3) ∧ ∃ e2 s4, healRegM c (l.rd.toNat + 1) s3 = .ok (e2, s4) ∧ ∃ n1 s5, healRegM c l.ra.toNat s4 = .ok (n1, s5) ∧ ∃ n2 s6, healRegM c (l.ra.toNat + 1) s5 = .ok (n2, s6) ∧ ∃ w2 w3 s7, loadGranule c va s6 = .ok ((w2, w3), s7) ∧ w2 = e1 ∧ w3 = e2 ∧ ∃ s8, writeGranuleM c va false n1 n2 s7 = .ok ((), s8) := by
      intro s a l h
      refine located_of h fun c r s2 h => ?_
      refine bWord_of h fun va w1 h => ?_
      refine and_of h (fun h => of_decide_eq_true h) fun h => ?_
      refine ok_of h fun e1 s3 h => ?_
      refine ok_of h fun e2 s4 h => ?_
      refine ok_of h fun n1 s5 h => ?_
      refine ok_of h fun n2 s6 h => ?_
      refine okP_of h fun w2 w3 s7 h => ?_
      refine and_of h (fun h => of_decide_eq_true h) fun h => ?_
      refine and_of h (fun h => of_decide_eq_true h) fun h => ?_
      obtain ⟨s8, h, -⟩ := okU_of (P := fun _ => True) h fun _ _ => trivial
      exact ⟨s8, h⟩
    exact ⟨st [(4, fixN 7), (5, fixN 8), (2, mkWord 0x11 0x1000), (6, fixN 9), (7, fixN 10)] [(0x1000, mkHeader 0x21 7 3 0), (0x1010, fixN 9), (0x1018, fixN 10)], at0, lg 6 4 4 2 1, k _ _ _ (by decide +kernel)⟩
  · have k : ∀ (s : State) (a : _) (l : _), (locatedB s a .swpg l 16 0 4 fun c r s2 => bWordB (r.b) fun va w1 => (decide (w1 = false)) && (okB (healRegM c l.ra.toNat s2) fun n1 s5 => okB (healRegM c (l.ra.toNat + 1) s5) fun n2 s6 => okP (loadGranule c va s6) fun o1 o2 s7 => okU (writeGranuleM c va false n1 n2 s7) fun s8 => true)) = true → ∃ c r s2, Located s a .swpg l c 16 0 4 r s2 ∧ ∃ va w1, r.b = .word va w1 ∧ w1 = false ∧ ∃ n1 s5, healRegM c l.ra.toNat s2 = .ok (n1, s5) ∧ ∃ n2 s6, healRegM c (l.ra.toNat + 1) s5 = .ok (n2, s6) ∧ ∃ o1 o2 s7, loadGranule c va s6 = .ok ((o1, o2), s7) ∧ ∃ s8, writeGranuleM c va false n1 n2 s7 = .ok ((), s8) := by
      intro s a l h
      refine located_of h fun c r s2 h => ?_
      refine bWord_of h fun va w1 h => ?_
      refine and_of h (fun h => of_decide_eq_true h) fun h => ?_
      refine ok_of h fun n1 s5 h => ?_
      refine ok_of h fun n2 s6 h => ?_
      refine okP_of h fun o1 o2 s7 h => ?_
      obtain ⟨s8, h, -⟩ := okU_of (P := fun _ => True) h fun _ _ => trivial
      exact ⟨s8, h⟩
    exact ⟨st [(4, fixN 7), (5, fixN 8), (2, mkWord 0x11 0x1000), (6, fixN 9), (7, fixN 10)] [(0x1000, mkHeader 0x21 7 3 0), (0x1010, fixN 9), (0x1018, fixN 10)], at0, lg 6 4 4 2 1, k _ _ _ (by decide +kernel)⟩

/-- The hypotheses of part 3 of Obligations.CountsAndBitRegistersComplete are met. -/
theorem witness_BitOperationsComplete :
    (∃ (s : State) (a : _) (l : _) (n : _), ∃ c r x y s3, Ready s a .bset l c r x y s3 ∧ ((l.ra ≠ 24 → isFix x = true)) ∧ isFix y = true ∧ (if l.ra = 24 then 0 else fixVal x) + fixVal y = (n : Nat) ∧ n ≤ 255)
    ∧ (∃ (s : State) (a : _) (l : _) (n : _), ∃ c r x y s3, Ready s a .bset l c r x y s3 ∧ ((l.ra ≠ 24 → isFix x = true)) ∧ isFix y = true ∧ (if l.ra = 24 then 0 else fixVal x) + fixVal y = (n : Nat) ∧ n ≤ 255)
    ∧ (∃ (s : State) (a : _) (l : _) (n : _), ∃ c r x y s3, Ready s a .bclr l c r x y s3 ∧ ((l.ra ≠ 24 → isFix x = true)) ∧ isFix y = true ∧ (if l.ra = 24 then 0 else fixVal x) + fixVal y = (n : Nat) ∧ n ≤ 255)
    ∧ (∃ (s : State) (a : _) (l : _) (n : _), ∃ c r x y s3, Ready s a .btest l c r x y s3 ∧ ((l.ra ≠ 24 → isFix x = true)) ∧ isFix y = true ∧ (if l.ra = 24 then 0 else fixVal x) + fixVal y = (n : Nat) ∧ n ≤ 255)
    ∧ (∃ (s : State) (a : _) (l : _) (d : _), ∃ c r x y s3, Ready s a .bmov l c r x y s3 ∧ ((l.ra ≠ 24 ∧ x = fixN d ∨ l.ra = 24 ∧ d = 0)) ∧ d ≤ 255 ∧ isFix y = true ∧ valOf y < 2 ^ 17 ∧ valOf y / 256 % 256 = 0 ∧ ∃ p, p = (s3.core c).bit (valOf y % 256))
    ∧ (∃ (s : State) (a : _) (l : _) (d : _), ∃ c r x y s3, Ready s a Opcode.band l c r x y s3 ∧ ((l.ra ≠ 24 ∧ x = fixN d ∨ l.ra = 24 ∧ d = 0)) ∧ d ≤ 255 ∧ isFix y = true ∧ valOf y < 2 ^ 17 ∧ ∃ p, p = (s3.core c).bit (valOf y % 256) ∧ ∃ q, q = (s3.core c).bit (valOf y / 256 % 256))
    ∧ (∃ (s : State) (a : _) (l : _) (d : _), ∃ c r x y s3, Ready s a Opcode.band l c r x y s3 ∧ ((l.ra ≠ 24 ∧ x = fixN d ∨ l.ra = 24 ∧ d = 0)) ∧ d ≤ 255 ∧ isFix y = true ∧ valOf y < 2 ^ 17 ∧ ∃ p, p = (s3.core c).bit (valOf y % 256) ∧ ∃ q, q = (s3.core c).bit (valOf y / 256 % 256))
    ∧ (∃ (s : State) (a : _) (l : _) (d : _), ∃ c r x y s3, Ready s a Opcode.bor l c r x y s3 ∧ ((l.ra ≠ 24 ∧ x = fixN d ∨ l.ra = 24 ∧ d = 0)) ∧ d ≤ 255 ∧ isFix y = true ∧ valOf y < 2 ^ 17 ∧ ∃ p, p = (s3.core c).bit (valOf y % 256) ∧ ∃ q, q = (s3.core c).bit (valOf y / 256 % 256))
    ∧ (∃ (s : State) (a : _) (l : _) (d : _), ∃ c r x y s3, Ready s a Opcode.bxor l c r x y s3 ∧ ((l.ra ≠ 24 ∧ x = fixN d ∨ l.ra = 24 ∧ d = 0)) ∧ d ≤ 255 ∧ isFix y = true ∧ valOf y < 2 ^ 17 ∧ ∃ p, p = (s3.core c).bit (valOf y % 256) ∧ ∃ q, q = (s3.core c).bit (valOf y / 256 % 256)) := by
  refine ⟨?_, ?_, ?_, ?_, ?_, ?_, ?_, ?_, ?_⟩
  · have k : ∀ (s : State) (a : _) (l : _) (n : _), (readyB s a .bset l fun c r x y s3 => (decide ((l.ra ≠ 24 → isFix x = true))) && ((decide (isFix y = true)) && ((decide ((if l.ra = 24 then 0 else fixVal x) + fixVal y = (n : Nat))) && (decide (n ≤ 255))))) = true → ∃ c r x y s3, Ready s a .bset l c r x y s3 ∧ ((l.ra ≠ 24 → isFix x = true)) ∧ isFix y = true ∧ (if l.ra = 24 then 0 else fixVal x) + fixVal y = (n : Nat) ∧ n ≤ 255 := by
      intro s a l n h
      refine ready_of h fun c r x y s3 h => ?_
      refine and_of h (fun h => of_decide_eq_true h) fun h => ?_
      refine and_of h (fun h => of_decide_eq_true h) fun h => ?_
      refine and_of h (fun h => of_decide_eq_true h) fun h => ?_
      exact of_decide_eq_true h
    exact ⟨st [(1, fixN 250), (2, fixN 5)] [], at0, lg 0 1 0 2, 255, k _ _ _ _ (by decide +kernel)⟩
  · have k : ∀ (s : State) (a : _) (l : _) (n : _), (readyB s a .bset l fun c r x y s3 => (decide ((l.ra ≠ 24 → isFix x = true))) && ((decide (isFix y = true)) && ((decide ((if l.ra = 24 then 0 else fixVal x) + fixVal y = (n : Nat))) && (decide (n ≤ 255))))) = true → ∃ c r x y s3, Ready s a .bset l c r x y s3 ∧ ((l.ra ≠ 24 → isFix x = true)) ∧ isFix y = true ∧ (if l.ra = 24 then 0 else fixVal x) + fixVal y = (n : Nat) ∧ n ≤ 255 := by
      intro s a l n h
      refine ready_of h fun c r x y s3 h => ?_
      refine and_of h (fun h => of_decide_eq_true h) fun h => ?_
      refine and_of h (fun h => of_decide_eq_true h) fun h => ?_
      refine and_of h (fun h => of_decide_eq_true h) fun h => ?_
      exact of_decide_eq_true h
    exact ⟨st [(2, fixN 255)] [], at0, lg 0 24 0 2, 255, k _ _ _ _ (by decide +kernel)⟩
  · have k : ∀ (s : State) (a : _) (l : _) (n : _), (readyB s a .bclr l fun c r x y s3 => (decide ((l.ra ≠ 24 → isFix x = true))) && ((decide (isFix y = true)) && ((decide ((if l.ra = 24 then 0 else fixVal x) + fixVal y = (n : Nat))) && (decide (n ≤ 255))))) = true → ∃ c r x y s3, Ready s a .bclr l c r x y s3 ∧ ((l.ra ≠ 24 → isFix x = true)) ∧ isFix y = true ∧ (if l.ra = 24 then 0 else fixVal x) + fixVal y = (n : Nat) ∧ n ≤ 255 := by
      intro s a l n h
      refine ready_of h fun c r x y s3 h => ?_
      refine and_of h (fun h => of_decide_eq_true h) fun h => ?_
      refine and_of h (fun h => of_decide_eq_true h) fun h => ?_
      refine and_of h (fun h => of_decide_eq_true h) fun h => ?_
      exact of_decide_eq_true h
    exact ⟨st [(1, fixN 250), (2, fixN 5)] [], at0, lg 0 1 0 2, 255, k _ _ _ _ (by decide +kernel)⟩
  · have k : ∀ (s : State) (a : _) (l : _) (n : _), (readyB s a .btest l fun c r x y s3 => (decide ((l.ra ≠ 24 → isFix x = true))) && ((decide (isFix y = true)) && ((decide ((if l.ra = 24 then 0 else fixVal x) + fixVal y = (n : Nat))) && (decide (n ≤ 255))))) = true → ∃ c r x y s3, Ready s a .btest l c r x y s3 ∧ ((l.ra ≠ 24 → isFix x = true)) ∧ isFix y = true ∧ (if l.ra = 24 then 0 else fixVal x) + fixVal y = (n : Nat) ∧ n ≤ 255 := by
      intro s a l n h
      refine ready_of h fun c r x y s3 h => ?_
      refine and_of h (fun h => of_decide_eq_true h) fun h => ?_
      refine and_of h (fun h => of_decide_eq_true h) fun h => ?_
      refine and_of h (fun h => of_decide_eq_true h) fun h => ?_
      exact of_decide_eq_true h
    exact ⟨st [(1, fixN 250), (2, fixN 5)] [], at0, lg 0 1 0 2, 255, k _ _ _ _ (by decide +kernel)⟩
  · have k : ∀ (s : State) (a : _) (l : _) (d : _), (readyB s a .bmov l fun c r x y s3 => (decide ((l.ra ≠ 24 ∧ x = fixN d ∨ l.ra = 24 ∧ d = 0))) && ((decide (d ≤ 255)) && ((decide (isFix y = true)) && ((decide (valOf y < 2 ^ 17)) && ((decide (valOf y / 256 % 256 = 0)) && (eqB ((s3.core c).bit (valOf y % 256)) fun p => true)))))) = true → ∃ c r x y s3, Ready s a .bmov l c r x y s3 ∧ ((l.ra ≠ 24 ∧ x = fixN d ∨ l.ra = 24 ∧ d = 0)) ∧ d ≤ 255 ∧ isFix y = true ∧ valOf y < 2 ^ 17 ∧ valOf y / 256 % 256 = 0 ∧ ∃ p, p = (s3.core c).bit (valOf y % 256) := by
      intro s a l d h
      refine ready_of h fun c r x y s3 h => ?_
      refine and_of h (fun h => of_decide_eq_true h) fun h => ?_
      refine and_of h (fun h => of_decide_eq_true h) fun h => ?_
      refine and_of h (fun h => of_decide_eq_true h) fun h => ?_
      refine and_of h (fun h => of_decide_eq_true h) fun h => ?_
      refine and_of h (fun h => of_decide_eq_true h) fun h => ?_
      obtain ⟨p, h, -⟩ := eq_of (P := fun _ => True) h fun _ _ => trivial
      exact ⟨p, h⟩
    exact ⟨st [(1, fixN 255), (2, fixN 0x100FF)] [], at0, lg 0 1 0 2, 255, k _ _ _ _ (by decide +kernel)⟩
  · have k : ∀ (s : State) (a : _) (l : _) (d : _), (readyB s a Opcode.band l fun c r x y s3 => (decide ((l.ra ≠ 24 ∧ x = fixN d ∨ l.ra = 24 ∧ d = 0))) && ((decide (d ≤ 255)) && ((decide (isFix y = true)) && ((decide (valOf y < 2 ^ 17)) && (eqB ((s3.core c).bit (valOf y % 256)) fun p => eqB ((s3.core c).bit (valOf y / 256 % 256)) fun q => true))))) = true → ∃ c r x y s3, Ready s a Opcode.band l c r x y s3 ∧ ((l.ra ≠ 24 ∧ x = fixN d ∨ l.ra = 24 ∧ d = 0)) ∧ d ≤ 255 ∧ isFix y = true ∧ valOf y < 2 ^ 17 ∧ ∃ p, p = (s3.core c).bit (valOf y % 256) ∧ ∃ q, q = (s3.core c).bit (valOf y / 256 % 256) := by
      intro s a l d h
      refine ready_of h fun c r x y s3 h => ?_
      refine and_of h (fun h => of_decide_eq_true h) fun h => ?_
      refine and_of h (fun h => of_decide_eq_true h) fun h => ?_
      refine and_of h (fun h => of_decide_eq_true h) fun h => ?_
      refine and_of h (fun h => of_decide_eq_true h) fun h => ?_
      refine eq_of h fun p h => ?_
      obtain ⟨q, h, -⟩ := eq_of (P := fun _ => True) h fun _ _ => trivial
      exact ⟨q, h⟩
    exact ⟨st [(1, fixN 255), (2, fixN 0x1FFFF)] [], at0, lg 0 1 0 2, 255, k _ _ _ _ (by decide +kernel)⟩
  · have k : ∀ (s : State) (a : _) (l : _) (d : _), (readyB s a Opcode.band l fun c r x y s3 => (decide ((l.ra ≠ 24 ∧ x = fixN d ∨ l.ra = 24 ∧ d = 0))) && ((decide (d ≤ 255)) && ((decide (isFix y = true)) && ((decide (valOf y < 2 ^ 17)) && (eqB ((s3.core c).bit (valOf y % 256)) fun p => eqB ((s3.core c).bit (valOf y / 256 % 256)) fun q => true))))) = true → ∃ c r x y s3, Ready s a Opcode.band l c r x y s3 ∧ ((l.ra ≠ 24 ∧ x = fixN d ∨ l.ra = 24 ∧ d = 0)) ∧ d ≤ 255 ∧ isFix y = true ∧ valOf y < 2 ^ 17 ∧ ∃ p, p = (s3.core c).bit (valOf y % 256) ∧ ∃ q, q = (s3.core c).bit (valOf y / 256 % 256) := by
      intro s a l d h
      refine ready_of h fun c r x y s3 h => ?_
      refine and_of h (fun h => of_decide_eq_true h) fun h => ?_
      refine and_of h (fun h => of_decide_eq_true h) fun h => ?_
      refine and_of h (fun h => of_decide_eq_true h) fun h => ?_
      refine and_of h (fun h => of_decide_eq_true h) fun h => ?_
      refine eq_of h fun p h => ?_
      obtain ⟨q, h, -⟩ := eq_of (P := fun _ => True) h fun _ _ => trivial
      exact ⟨q, h⟩
    exact ⟨st [(2, fixN 0x1FFFF)] [], at0, lg 0 24 0 2, 0, k _ _ _ _ (by decide +kernel)⟩
  · have k : ∀ (s : State) (a : _) (l : _) (d : _), (readyB s a Opcode.bor l fun c r x y s3 => (decide ((l.ra ≠ 24 ∧ x = fixN d ∨ l.ra = 24 ∧ d = 0))) && ((decide (d ≤ 255)) && ((decide (isFix y = true)) && ((decide (valOf y < 2 ^ 17)) && (eqB ((s3.core c).bit (valOf y % 256)) fun p => eqB ((s3.core c).bit (valOf y / 256 % 256)) fun q => true))))) = true → ∃ c r x y s3, Ready s a Opcode.bor l c r x y s3 ∧ ((l.ra ≠ 24 ∧ x = fixN d ∨ l.ra = 24 ∧ d = 0)) ∧ d ≤ 255 ∧ isFix y = true ∧ valOf y < 2 ^ 17 ∧ ∃ p, p = (s3.core c).bit (valOf y % 256) ∧ ∃ q, q = (s3.core c).bit (valOf y / 256 % 256) := by
      intro s a l d h
      refine ready_of h fun c r x y s3 h => ?_
      refine and_of h (fun h => of_decide_eq_true h) fun h => ?_
      refine and_of h (fun h => of_decide_eq_true h) fun h => ?_
      refine and_of h (fun h => of_decide_eq_true h) fun h => ?_
      refine and_of h (fun h => of_decide_eq_true h) fun h => ?_
      refine eq_of h fun p h => ?_
      obtain ⟨q, h, -⟩ := eq_of (P := fun _ => True) h fun _ _ => trivial
      exact ⟨q, h⟩
    exact ⟨st [(1, fixN 255), (2, fixN 0x1FFFF)] [], at0, lg 0 1 0 2, 255, k _ _ _ _ (by decide +kernel)⟩
  · have k : ∀ (s : State) (a : _) (l : _) (d : _), (readyB s a Opcode.bxor l fun c r x y s3 => (decide ((l.ra ≠ 24 ∧ x = fixN d ∨ l.ra = 24 ∧ d = 0))) && ((decide (d ≤ 255)) && ((decide (isFix y = true)) && ((decide (valOf y < 2 ^ 17)) && (eqB ((s3.core c).bit (valOf y % 256)) fun p => eqB ((s3.core c).bit (valOf y / 256 % 256)) fun q => true))))) = true → ∃ c r x y s3, Ready s a Opcode.bxor l c r x y s3 ∧ ((l.ra ≠ 24 ∧ x = fixN d ∨ l.ra = 24 ∧ d = 0)) ∧ d ≤ 255 ∧ isFix y = true ∧ valOf y < 2 ^ 17 ∧ ∃ p, p = (s3.core c).bit (valOf y % 256) ∧ ∃ q, q = (s3.core c).bit (valOf y / 256 % 256) := by
      intro s a l d h
      refine ready_of h fun c r x y s3 h => ?_
      refine and_of h (fun h => of_decide_eq_true h) fun h => ?_
      refine and_of h (fun h => of_decide_eq_true h) fun h => ?_
      refine and_of h (fun h => of_decide_eq_true h) fun h => ?_
      refine and_of h (fun h => of_decide_eq_true h) fun h => ?_
      refine eq_of h fun p h => ?_
      obtain ⟨q, h, -⟩ := eq_of (P := fun _ => True) h fun _ _ => trivial
      exact ⟨q, h⟩
    exact ⟨st [(1, fixN 255), (2, fixN 0x1FFFF)] [], at0, lg 0 1 0 2, 255, k _ _ _ _ (by decide +kernel)⟩

/-- The hypotheses of Obligations.RotationMovesWindows are met. -/
theorem witness_RotationMovesWindows :
    ∃ (k : Core), k.tw = false ∧ k.fb = false ∧ k.cwp < 12 ∧ ∃ k', k' = rotatedForward k := by
  have k : ∀ (k : Core), ((decide (k.tw = false)) && ((decide (k.fb = false)) && ((decide (k.cwp < 12)) && (eqB (rotatedForward k) fun k' => true)))) = true → k.tw = false ∧ k.fb = false ∧ k.cwp < 12 ∧ ∃ k', k' = rotatedForward k := by
    intro k h
    refine and_of h (fun h => of_decide_eq_true h) fun h => ?_
    refine and_of h (fun h => of_decide_eq_true h) fun h => ?_
    refine and_of h (fun h => of_decide_eq_true h) fun h => ?_
    obtain ⟨k', h, -⟩ := eq_of (P := fun _ => True) h fun _ _ => trivial
    exact ⟨k', h⟩
  exact ⟨{ Core.reset with cwp := 11 }, k _ (by decide +kernel)⟩

/-- The hypotheses of part 1 of Obligations.TransfersComplete are met. -/
theorem witness_JumpsAndReturnsComplete :
    (∃ (s : State) (a : _) (l : _), ∃ c r x y s3, Ready s a .jmp l c r x y s3 ∧ Lands (movedIndex s3 c r) c y ∧ retFmt y = ((movedIndex s3 c r).core c).fmt)
    ∧ (∃ (s : State) (a : _) (l : _), ∃ c r x y s3, Ready s a .retn l c r x y s3 ∧ Lands (movedIndex s3 c r) c y)
    ∧ (∃ (s : State) (a : _) (l : _), ∃ c r x y s3, Ready s a .retn l c r x y s3 ∧ Lands (movedIndex s3 c r) c y)
    ∧ (∃ (s : State) (a : _) (l : _), ∃ c r x y s3, Ready s a .ret l c r x y s3 ∧ Lands (movedIndex s3 c r) c y ∧ ∃ k, k = (movedIndex s3 c r).core c ∧ k.tw = false ∧ k.lastResort = false ∧ k.resident ≠ 1)
    ∧ (∃ (s : State) (a : _) (l : _), ∃ c r x y s3, Ready s a .ret l c r x y s3 ∧ Lands (movedIndex s3 c r) c y ∧ ∃ k, k = (movedIndex s3 c r).core c ∧ k.tw = false ∧ k.lastResort = false ∧ k.resident = 1)
    ∧ (∃ (s : State) (a : _) (l : _), ∃ c r x y s3, Ready s a .ret l c r x y s3 ∧ Lands (movedIndex s3 c r) c y ∧ ∃ k, k = (movedIndex s3 c r).core c ∧ (k.tw || k.lastResort) = true)
    ∧ (∃ (s : State) (a : _) (l : _), ∃ c r x y s3, Ready s a .ret l c r x y s3 ∧ Lands (movedIndex s3 c r) c y ∧ ∃ k, k = (movedIndex s3 c r).core c ∧ (k.tw || k.lastResort) = true) := by
  refine ⟨?_, ?_, ?_, ?_, ?_, ?_, ?_⟩
  · have k : ∀ (s : State) (a : _) (l : _), (readyB s a .jmp l fun c r x y s3 => (landsB (movedIndex s3 c r) c y) && (decide (retFmt y = ((movedIndex s3 c r).core c).fmt))) = true → ∃ c r x y s3, Ready s a .jmp l c r x y s3 ∧ Lands (movedIndex s3 c r) c y ∧ retFmt y = ((movedIndex s3 c r).core c).fmt := by
      intro s a l h
      refine ready_of h fun c r x y s3 h => ?_
      refine and_of h (fun h => lands_of h) fun h => ?_
      exact of_decide_eq_true h
    exact ⟨stj (fun k => k) [(2, mkWord 0x30 0x8040)], at0, lg 0 0 0 2, k _ _ _ (by decide +kernel)⟩
  · have k : ∀ (s : State) (a : _) (l : _), (readyB s a .retn l fun c r x y s3 => landsB (movedIndex s3 c r) c y) = true → ∃ c r x y s3, Ready s a .retn l c r x y s3 ∧ Lands (movedIndex s3 c r) c y := by
      intro s a l h
      refine ready_of h fun c r x y s3 h => ?_
      exact lands_of h
    exact ⟨stj (fun k => k) [(2, mkWord 0x30 0x8040)], at0, lg 0 0 0 2, k _ _ _ (by decide +kernel)⟩
  · have k : ∀ (s : State) (a : _) (l : _), (readyB s a .retn l fun c r x y s3 => landsB (movedIndex s3 c r) c y) = true → ∃ c r x y s3, Ready s a .retn l c r x y s3 ∧ Lands (movedIndex s3 c r) c y := by
      intro s a l h
      refine ready_of h fun c r x y s3 h => ?_
      exact lands_of h
    exact ⟨stj (fun k => k) [(2, mkWord 0x30 0x800000009040)], at0, lg 0 0 0 2, k _ _ _ (by decide +kernel)⟩
  · have k : ∀ (s : State) (a : _) (l : _), (readyB s a .ret l fun c r x y s3 => (landsB (movedIndex s3 c r) c y) && (eqB ((movedIndex s3 c r).core c) fun k => (decide (k.tw = false)) && ((decide (k.lastResort = false)) && (decide (k.resident ≠ 1))))) = true → ∃ c r x y s3, Ready s a .ret l c r x y s3 ∧ Lands (movedIndex s3 c r) c y ∧ ∃ k, k = (movedIndex s3 c r).core c ∧ k.tw = false ∧ k.lastResort = false ∧ k.resident ≠ 1 := by
      intro s a l h
      refine ready_of h fun c r x y s3 h => ?_
      refine and_of h (fun h => lands_of h) fun h => ?_
      refine eq_of h fun k h => ?_
      refine and_of h (fun h => of_decide_eq_true h) fun h => ?_
      refine and_of h (fun h => of_decide_eq_true h) fun h => ?_
      exact of_decide_eq_true h
    exact ⟨stj (fun k => { k with cwp := 1, resident := 2 }) [(2, mkWord 0x30 0x8040)], at0, lg 0 0 0 2, k _ _ _ (by decide +kernel)⟩
  · have k : ∀ (s : State) (a : _) (l : _), (readyB s a .ret l fun c r x y s3 => (landsB (movedIndex s3 c r) c y) && (eqB ((movedIndex s3 c r).core c) fun k => (decide (k.tw = false)) && ((decide (k.lastResort = false)) && (decide (k.resident = 1))))) = true → ∃ c r x y s3, Ready s a .ret l c r x y s3 ∧ Lands (movedIndex s3 c r) c y ∧ ∃ k, k = (movedIndex s3 c r).core c ∧ k.tw = false ∧ k.lastResort = false ∧ k.resident = 1 := by
      intro s a l h
      refine ready_of h fun c r x y s3 h => ?_
      refine and_of h (fun h => lands_of h) fun h => ?_
      refine eq_of h fun k h => ?_
      refine and_of h (fun h => of_decide_eq_true h) fun h => ?_
      refine and_of h (fun h => of_decide_eq_true h) fun h => ?_
      exact of_decide_eq_true h
    exact ⟨stj (fun k => k) [(2, mkWord 0x30 0x8040), (30, mkWord 0x32 0x1000)], at0, lg 0 0 0 2, k _ _ _ (by decide +kernel)⟩
  · have k : ∀ (s : State) (a : _) (l : _), (readyB s a .ret l fun c r x y s3 => (landsB (movedIndex s3 c r) c y) && (eqB ((movedIndex s3 c r).core c) fun k => decide ((k.tw || k.lastResort) = true))) = true → ∃ c r x y s3, Ready s a .ret l c r x y s3 ∧ Lands (movedIndex s3 c r) c y ∧ ∃ k, k = (movedIndex s3 c r).core c ∧ (k.tw || k.lastResort) = true := by
      intro s a l h
      refine ready_of h fun c r x y s3 h => ?_
      refine and_of h (fun h => lands_of h) fun h => ?_
      refine eq_of h fun k h => ?_
      exact of_decide_eq_true h
    exact ⟨stj (fun k => k.setStatus 23 23 1) [(2, mkWord 0x30 0x8040)], at0, lg 0 0 0 2, k _ _ _ (by decide +kernel)⟩
  · have k : ∀ (s : State) (a : _) (l : _), (readyB s a .ret l fun c r x y s3 => (landsB (movedIndex s3 c r) c y) && (eqB ((movedIndex s3 c r).core c) fun k => decide ((k.tw || k.lastResort) = true))) = true → ∃ c r x y s3, Ready s a .ret l c r x y s3 ∧ Lands (movedIndex s3 c r) c y ∧ ∃ k, k = (movedIndex s3 c r).core c ∧ (k.tw || k.lastResort) = true := by
      intro s a l h
      refine ready_of h fun c r x y s3 h => ?_
      refine and_of h (fun h => lands_of h) fun h => ?_
      refine eq_of h fun k h => ?_
      exact of_decide_eq_true h
    exact ⟨stj (fun k => { k with lastResort := true }) [(2, mkWord 0x30 0x8040)], at0, lg 0 0 0 2, k _ _ _ (by decide +kernel)⟩

/-- The hypotheses of part 2 of Obligations.TransfersComplete are met. -/
theorem witness_CallsComplete :
    (∃ (s : State) (a : _) (l : _), ∃ c r x y s3, Ready s a .calln l c r x y s3 ∧ ∃ tg s4, callTarget c y (movedIndex s3 c r) = .ok (tg, s4) ∧ ∃ s5, s5 = withReg (withReg s4 c 22 tg.closure) c 23 (retWord ((s4.core c).pc + 4 * l.parcels) (s4.core c).fmt))
    ∧ (∃ (s : State) (a : _) (l : _), ∃ c r x y s3, Ready s a .calln l c r x y s3 ∧ ∃ tg s4, callTarget c y (movedIndex s3 c r) = .ok (tg, s4) ∧ ∃ s5, s5 = withReg (withReg s4 c 22 tg.closure) c 23 (retWord ((s4.core c).pc + 4 * l.parcels) (s4.core c).fmt))
    ∧ (∃ (s : State) (a : _) (l : _), ∃ c r x y s3, Ready s a .call l c r x y s3 ∧ ∃ tg s4, callTarget c y (movedIndex s3 c r) = .ok (tg, s4) ∧ (s4.core c).tw = false ∧ (s4.core c).lastResort = false ∧ (s4.core c).resident ≠ 11 ∧ ∃ s5, s5 = withReg (withReg s4 c 22 tg.closure) c 23 (retWord ((s4.core c).pc + 4 * l.parcels) (s4.core c).fmt))
    ∧ (∃ (s : State) (a : _) (l : _), ∃ c r x y s3, Ready s a .call l c r x y s3 ∧ ∃ tg s4, callTarget c y (movedIndex s3 c r) = .ok (tg, s4) ∧ (s4.core c).tw = false ∧ (s4.core c).lastResort = false ∧ (s4.core c).resident = 11)
    ∧ (∃ (s : State) (a : _) (l : _), ∃ c r x y s3, Ready s a .call l c r x y s3 ∧ ∃ tg s4, callTarget c y (movedIndex s3 c r) = .ok (tg, s4) ∧ ((s4.core c).tw || (s4.core c).lastResort) = true) := by
  refine ⟨?_, ?_, ?_, ?_, ?_⟩
  · have k : ∀ (s : State) (a : _) (l : _), (readyB s a .calln l fun c r x y s3 => okB (callTarget c y (movedIndex s3 c r)) fun tg s4 => eqB (withReg (withReg s4 c 22 tg.closure) c 23 (retWord ((s4.core c).pc + 4 * l.parcels) (s4.core c).fmt)) fun s5 => true) = true → ∃ c r x y s3, Ready s a .calln l c r x y s3 ∧ ∃ tg s4, callTarget c y (movedIndex s3 c r) = .ok (tg, s4) ∧ ∃ s5, s5 = withReg (withReg s4 c 22 tg.closure) c 23 (retWord ((s4.core c).pc + 4 * l.parcels) (s4.core c).fmt) := by
      intro s a l h
      refine ready_of h fun c r x y s3 h => ?_
      refine ok_of h fun tg s4 h => ?_
      obtain ⟨s5, h, -⟩ := eq_of (P := fun _ => True) h fun _ _ => trivial
      exact ⟨s5, h⟩
    exact ⟨stc (fun k => k) [(2, mkWord 0x16 0x1000)] (code0 0x1000 16), at0, lg 0 0 0 2, k _ _ _ (by decide +kernel)⟩
  · have k : ∀ (s : State) (a : _) (l : _), (readyB s a .calln l fun c r x y s3 => okB (callTarget c y (movedIndex s3 c r)) fun tg s4 => eqB (withReg (withReg s4 c 22 tg.closure) c 23 (retWord ((s4.core c).pc + 4 * l.parcels) (s4.core c).fmt)) fun s5 => true) = true → ∃ c r x y s3, Ready s a .calln l c r x y s3 ∧ ∃ tg s4, callTarget c y (movedIndex s3 c r) = .ok (tg, s4) ∧ ∃ s5, s5 = withReg (withReg s4 c 22 tg.closure) c 23 (retWord ((s4.core c).pc + 4 * l.parcels) (s4.core c).fmt) := by
      intro s a l h
      refine ready_of h fun c r x y s3 h => ?_
      refine ok_of h fun tg s4 h => ?_
      obtain ⟨s5, h, -⟩ := eq_of (P := fun _ => True) h fun _ _ => trivial
      exact ⟨s5, h⟩
    exact ⟨stc (fun k => k) [(2, mkWord 0x15 0x2000)] (code0 0x1000 16 ++ [(0x2000, mkHeader 0x20 2 1 0), (0x2008, mkWord 0x16 0x1000)]), at0, lg 0 0 0 2, k _ _ _ (by decide +kernel)⟩
  · have k : ∀ (s : State) (a : _) (l : _), (readyB s a .call l fun c r x y s3 => okB (callTarget c y (movedIndex s3 c r)) fun tg s4 => (decide ((s4.core c).tw = false)) && ((decide ((s4.core c).lastResort = false)) && ((decide ((s4.core c).resident ≠ 11)) && (eqB (withReg (withReg s4 c 22 tg.closure) c 23 (retWord ((s4.core c).pc + 4 * l.parcels) (s4.core c).fmt)) fun s5 => true)))) = true → ∃ c r x y s3, Ready s a .call l c r x y s3 ∧ ∃ tg s4, callTarget c y (movedIndex s3 c r) = .ok (tg, s4) ∧ (s4.core c).tw = false ∧ (s4.core c).lastResort = false ∧ (s4.core c).resident ≠ 11 ∧ ∃ s5, s5 = withReg (withReg s4 c 22 tg.closure) c 23 (retWord ((s4.core c).pc + 4 * l.parcels) (s4.core c).fmt) := by
      intro s a l h
      refine ready_of h fun c r x y s3 h => ?_
      refine ok_of h fun tg s4 h => ?_
      refine and_of h (fun h => of_decide_eq_true h) fun h => ?_
      refine and_of h (fun h => of_decide_eq_true h) fun h => ?_
      refine and_of h (fun h => of_decide_eq_true h) fun h => ?_
      obtain ⟨s5, h, -⟩ := eq_of (P := fun _ => True) h fun _ _ => trivial
      exact ⟨s5, h⟩
    exact ⟨stc (fun k => k) [(2, mkWord 0x16 0x1000)] (code0 0x1000 16), at0, lg 0 0 0 2, k _ _ _ (by decide +kernel)⟩
  · have k : ∀ (s : State) (a : _) (l : _), (readyB s a .call l fun c r x y s3 => okB (callTarget c y (movedIndex s3 c r)) fun tg s4 => (decide ((s4.core c).tw = false)) && ((decide ((s4.core c).lastResort = false)) && (decide ((s4.core c).resident = 11)))) = true → ∃ c r x y s3, Ready s a .call l c r x y s3 ∧ ∃ tg s4, callTarget c y (movedIndex s3 c r) = .ok (tg, s4) ∧ (s4.core c).tw = false ∧ (s4.core c).lastResort = false ∧ (s4.core c).resident = 11 := by
      intro s a l h
      refine ready_of h fun c r x y s3 h => ?_
      refine ok_of h fun tg s4 h => ?_
      refine and_of h (fun h => of_decide_eq_true h) fun h => ?_
      refine and_of h (fun h => of_decide_eq_true h) fun h => ?_
      exact of_decide_eq_true h
    exact ⟨stc (fun k => { k with cwp := 10, resident := 11 }) [(2, mkWord 0x16 0x1000), (30, mkWord 0x32 0x2000)] (code0 0x1000 16), at0, lg 0 0 0 2, k _ _ _ (by decide +kernel)⟩
  · have k : ∀ (s : State) (a : _) (l : _), (readyB s a .call l fun c r x y s3 => okB (callTarget c y (movedIndex s3 c r)) fun tg s4 => decide (((s4.core c).tw || (s4.core c).lastResort) = true)) = true → ∃ c r x y s3, Ready s a .call l c r x y s3 ∧ ∃ tg s4, callTarget c y (movedIndex s3 c r) = .ok (tg, s4) ∧ ((s4.core c).tw || (s4.core c).lastResort) = true := by
      intro s a l h
      refine ready_of h fun c r x y s3 h => ?_
      refine ok_of h fun tg s4 h => ?_
      exact of_decide_eq_true h
    exact ⟨stc (fun k => k.setStatus 23 23 1) [(2, mkWord 0x16 0x1000)] (code0 0x1000 16), at0, lg 0 0 0 2, k _ _ _ (by decide +kernel)⟩

/-- The hypotheses of part 2 of Obligations.TrapsAndReturnsComplete are met. -/
theorem witness_WindowTrapsRun :
    (∃ (s : State) (a : At) (op : Opcode) (l : Long) (body : CoreId → M Flow), ∃ c, sourceCore s a.core = some c ∧ (s.core c).mode = .running ∧ inWindowTrap (s.core c) = true ∧ ∃ s1, windowHandler c s = .ok ((), s1) ∧ sourceCore s1 a.core = some c ∧ (s1.core c).mode = .running ∧ inWindowTrap (s1.core c) = false)
    ∧ (∃ (s : State) (a : At) (op : Opcode) (l : Long) (body : CoreId → M Flow), ∃ c, sourceCore s a.core = some c ∧ (s.core c).mode = .running ∧ inWindowTrap (s.core c) = true ∧ ∃ x, windowHandler c s = .error x)
    ∧ (∃ (s : State) (c : CoreId), ∃ w, (s.core c).wtrap = some w ∧ ∃ s1, (if w.overflow then spill c else fill c) s = .ok ((), s1))
    ∧ (∃ (s : State) (c : CoreId), ∃ w, (s.core c).wtrap = some w ∧ ∃ t, (if w.overflow then spill c else fill c) s = .error (.trap t)) := by
  refine ⟨?_, ?_, ?_, ?_⟩
  · have k : ∀ (s : State) (a : At) (op : Opcode) (l : Long) (body : CoreId → M Flow), (someB (sourceCore s a.core) fun c => (decide ((s.core c).mode = .running)) && ((decide (inWindowTrap (s.core c) = true)) && (okU (windowHandler c s) fun s1 => (decide (sourceCore s1 a.core = some c)) && ((decide ((s1.core c).mode = .running)) && (decide (inWindowTrap (s1.core c) = false)))))) = true → ∃ c, sourceCore s a.core = some c ∧ (s.core c).mode = .running ∧ inWindowTrap (s.core c) = true ∧ ∃ s1, windowHandler c s = .ok ((), s1) ∧ sourceCore s1 a.core = some c ∧ (s1.core c).mode = .running ∧ inWindowTrap (s1.core c) = false := by
      intro s a op l body h
      refine some_of h fun c h => ?_
      refine and_of h (fun h => of_decide_eq_true h) fun h => ?_
      refine and_of h (fun h => of_decide_eq_true h) fun h => ?_
      refine okU_of h fun s1 h => ?_
      refine and_of h (fun h => of_decide_eq_true h) fun h => ?_
      refine and_of h (fun h => of_decide_eq_true h) fun h => ?_
      exact of_decide_eq_true h
    exact ⟨stc (fun k => { (k.setStatus 23 23 1) with cwp := 10, resident := 11, wtrap := some ⟨true, 0x30⟩ }) [(30, mkWord 0x32 0x2000)] [], at0, Opcode.mov, lg 2 0 0 1, bodyMov (lg 2 0 0 1), k _ _ (Opcode.mov) (lg 2 0 0 1) (bodyMov (lg 2 0 0 1)) (by decide +kernel)⟩
  · have k : ∀ (s : State) (a : At) (op : Opcode) (l : Long) (body : CoreId → M Flow), (someB (sourceCore s a.core) fun c => (decide ((s.core c).mode = .running)) && ((decide (inWindowTrap (s.core c) = true)) && (errE (windowHandler c s) fun x => true))) = true → ∃ c, sourceCore s a.core = some c ∧ (s.core c).mode = .running ∧ inWindowTrap (s.core c) = true ∧ ∃ x, windowHandler c s = .error x := by
      intro s a op l body h
      refine some_of h fun c h => ?_
      refine and_of h (fun h => of_decide_eq_true h) fun h => ?_
      refine and_of h (fun h => of_decide_eq_true h) fun h => ?_
      obtain ⟨x, h, -⟩ := errE_of (P := fun _ => True) h fun _ _ => trivial
      exact ⟨x, h⟩
    exact ⟨stc (fun k => { (k.setStatus 23 23 1) with cwp := 10, resident := 11, wtrap := some ⟨true, 0x30⟩ }) [(30, mkWord 0x32 0x40)] [], at0, Opcode.mov, lg 2 0 0 1, bodyMov (lg 2 0 0 1), k _ _ (Opcode.mov) (lg 2 0 0 1) (bodyMov (lg 2 0 0 1)) (by decide +kernel)⟩
  · have k : ∀ (s : State) (c : CoreId), (someB ((s.core c).wtrap) fun w => okU ((if w.overflow then spill c else fill c) s) fun s1 => true) = true → ∃ w, (s.core c).wtrap = some w ∧ ∃ s1, (if w.overflow then spill c else fill c) s = .ok ((), s1) := by
      intro s c h
      refine some_of h fun w h => ?_
      obtain ⟨s1, h, -⟩ := okU_of (P := fun _ => True) h fun _ _ => trivial
      exact ⟨s1, h⟩
    exact ⟨stc (fun k => { (k.setStatus 23 23 1) with cwp := 10, resident := 11, wtrap := some ⟨true, 0x30⟩ }) [(30, mkWord 0x32 0x2000)] [], 0, k _ _ (by decide +kernel)⟩
  · have k : ∀ (s : State) (c : CoreId), (someB ((s.core c).wtrap) fun w => trapB ((if w.overflow then spill c else fill c) s) fun t => true) = true → ∃ w, (s.core c).wtrap = some w ∧ ∃ t, (if w.overflow then spill c else fill c) s = .error (.trap t) := by
      intro s c h
      refine some_of h fun w h => ?_
      obtain ⟨t, h, -⟩ := trap_of (P := fun _ => True) h fun _ _ => trivial
      exact ⟨t, h⟩
    exact ⟨stc (fun k => { (k.setStatus 23 23 1) with cwp := 10, resident := 11, wtrap := some ⟨true, 0x30⟩ }) [(30, mkWord 0x32 0x40)] [], 0, k _ _ (by decide +kernel)⟩

/-- The hypotheses of part 1 of Obligations.TrapsAndReturnsComplete are met. -/
theorem witness_TrapsRaised :
    (∃ (s : State) (a : _) (l : _), ∃ c s1, Issues s a .rett l c s1)
    ∧ (∃ (s : State) (a : _) (l : _), ∃ c r x y s3, Ready s a .trap l c r x y s3 ∧ isFix y = true ∧ valOf y ≤ 255) := by
  refine ⟨?_, ?_⟩
  · have k : ∀ (s : State) (a : _) (l : _), (issuesB s a .rett l fun c s1 => true) = true → ∃ c s1, Issues s a .rett l c s1 := by
      intro s a l h
      obtain ⟨c, s1, h, -⟩ := issues_of (P := fun _ _ => True) h fun _ _ _ => trivial
      exact ⟨c, s1, h⟩
    exact ⟨st [] [], at0, lg 0 0 0 0, k _ _ _ (by decide +kernel)⟩
  · have k : ∀ (s : State) (a : _) (l : _), (readyB s a .trap l fun c r x y s3 => (decide (isFix y = true)) && (decide (valOf y ≤ 255))) = true → ∃ c r x y s3, Ready s a .trap l c r x y s3 ∧ isFix y = true ∧ valOf y ≤ 255 := by
      intro s a l h
      refine ready_of h fun c r x y s3 h => ?_
      refine and_of h (fun h => of_decide_eq_true h) fun h => ?_
      exact of_decide_eq_true h
    exact ⟨st [(2, fixN 255)] [], at0, lg 0 0 0 2, k _ _ _ (by decide +kernel)⟩

/-- The hypotheses of part 3 of Obligations.TrapsAndReturnsComplete are met. -/
theorem witness_ExceptionReturnCompletes :
    (∃ (s : State) (a : _) (l : _), ∃ c s1, Issues s a .rete l c s1 ∧ ∃ sp, (s1.core c).g7 = sp ∧ tagOf sp = 0x32 ∧ Drains s1 c ∧ ∃ f s2, loadWords c (valOf sp) 12 (drainStores s1 c) = .ok (f, s2) ∧ frameFault f = none ∧ (s1.core c).lastResort = false ∧ ((s1.core c).cwp + 11) % 12 = bitsOf (f[8]?.getD nil) 35 32 ∧ ∃ s3, rotateBackward c (some (resumeAt f)) s2 = .ok ((), s3))
    ∧ (∃ (s : State) (a : _) (l : _), ∃ c s1, Issues s a .rete l c s1 ∧ ∃ sp, (s1.core c).g7 = sp ∧ tagOf sp = 0x32 ∧ Drains s1 c ∧ ∃ f s2, loadWords c (valOf sp) 12 (drainStores s1 c) = .ok (f, s2) ∧ frameFault f = none ∧ (s1.core c).lastResort = true)
    ∧ (∃ (s : State) (a : _) (l : _), ∃ c s1, Issues s a .rete l c s1 ∧ ∃ sp, (s1.core c).g7 = sp ∧ tagOf sp = 0x32 ∧ Drains s1 c ∧ ∃ f s2, loadWords c (valOf sp) 12 (drainStores s1 c) = .ok (f, s2) ∧ ∃ x, frameFault f = some x)
    ∧ (∃ (s : State) (a : _) (l : _), ∃ c s1, Issues s a .rete l c s1 ∧ ∃ sp, (s1.core c).g7 = sp ∧ tagOf sp = 0x32 ∧ Drains s1 c ∧ ∃ f s2, loadWords c (valOf sp) 12 (drainStores s1 c) = .ok (f, s2) ∧ ∃ x, frameFault f = some x) := by
  refine ⟨?_, ?_, ?_, ?_⟩
  · have k : ∀ (s : State) (a : _) (l : _), (issuesB s a .rete l fun c s1 => eqB ((s1.core c).g7) fun sp => (decide (tagOf sp = 0x32)) && ((!((s1.core c).sbuf.any (fun e => writeWaits s1 c e.pa e.bytes.length))) && (okB (loadWords c (valOf sp) 12 (drainStores s1 c)) fun f s2 => (decide (frameFault f = none)) && ((decide ((s1.core c).lastResort = false)) && ((decide (((s1.core c).cwp + 11) % 12 = bitsOf (f[8]?.getD nil) 35 32)) && (okU (rotateBackward c (some (resumeAt f)) s2) fun s3 => true)))))) = true → ∃ c s1, Issues s a .rete l c s1 ∧ ∃ sp, (s1.core c).g7 = sp ∧ tagOf sp = 0x32 ∧ Drains s1 c ∧ ∃ f s2, loadWords c (valOf sp) 12 (drainStores s1 c) = .ok (f, s2) ∧ frameFault f = none ∧ (s1.core c).lastResort = false ∧ ((s1.core c).cwp + 11) % 12 = bitsOf (f[8]?.getD nil) 35 32 ∧ ∃ s3, rotateBackward c (some (resumeAt f)) s2 = .ok ((), s3) := by
      intro s a l h
      refine issues_of h fun c s1 h => ?_
      refine eq_of' h fun sp h => ?_
      refine and_of h (fun h => of_decide_eq_true h) fun h => ?_
      refine and_of h (fun h => drains_of h) fun h => ?_
      refine ok_of h fun f s2 h => ?_
      refine and_of h (fun h => of_decide_eq_true h) fun h => ?_
      refine and_of h (fun h => of_decide_eq_true h) fun h => ?_
      refine and_of h (fun h => of_decide_eq_true h) fun h => ?_
      obtain ⟨s3, h, -⟩ := okU_of (P := fun _ => True) h fun _ _ => trivial
      exact ⟨s3, h⟩
    exact ⟨stc (fun k => { k with cwp := 1, resident := 2 }) [(31, mkWord 0x32 0x1000)] ([(0x1000, 0x310000000000000C#64), (0x1010, mkWord 0x30 0x40), (0x1018, mkWord 0x30 0x44), (0x1040, fixN 0x0), (0x1048, mkWord 0x32 0x1000)]), at0, lg 0 0 0 0, k _ _ _ (by decide +kernel)⟩
  · have k : ∀ (s : State) (a : _) (l : _), (issuesB s a .rete l fun c s1 => eqB ((s1.core c).g7) fun sp => (decide (tagOf sp = 0x32)) && ((!((s1.core c).sbuf.any (fun e => writeWaits s1 c e.pa e.bytes.length))) && (okB (loadWords c (valOf sp) 12 (drainStores s1 c)) fun f s2 => (decide (frameFault f = none)) && (decide ((s1.core c).lastResort = true))))) = true → ∃ c s1, Issues s a .rete l c s1 ∧ ∃ sp, (s1.core c).g7 = sp ∧ tagOf sp = 0x32 ∧ Drains s1 c ∧ ∃ f s2, loadWords c (valOf sp) 12 (drainStores s1 c) = .ok (f, s2) ∧ frameFault f = none ∧ (s1.core c).lastResort = true := by
      intro s a l h
      refine issues_of h fun c s1 h => ?_
      refine eq_of' h fun sp h => ?_
      refine and_of h (fun h => of_decide_eq_true h) fun h => ?_
      refine and_of h (fun h => drains_of h) fun h => ?_
      refine ok_of h fun f s2 h => ?_
      refine and_of h (fun h => of_decide_eq_true h) fun h => ?_
      exact of_decide_eq_true h
    exact ⟨stc (fun k => { k with lastResort := true }) [(31, mkWord 0x32 0x1000)] ([(0x1000, 0x310000000000000C#64), (0x1010, mkWord 0x30 0x40), (0x1018, mkWord 0x30 0x44), (0x1040, fixN 0x0), (0x1048, mkWord 0x32 0x1000)]), at0, lg 0 0 0 0, k _ _ _ (by decide +kernel)⟩
  · have k : ∀ (s : State) (a : _) (l : _), (issuesB s a .rete l fun c s1 => eqB ((s1.core c).g7) fun sp => (decide (tagOf sp = 0x32)) && ((!((s1.core c).sbuf.any (fun e => writeWaits s1 c e.pa e.bytes.length))) && (okB (loadWords c (valOf sp) 12 (drainStores s1 c)) fun f s2 => someB (frameFault f) fun x => true))) = true → ∃ c s1, Issues s a .rete l c s1 ∧ ∃ sp, (s1.core c).g7 = sp ∧ tagOf sp = 0x32 ∧ Drains s1 c ∧ ∃ f s2, loadWords c (valOf sp) 12 (drainStores s1 c) = .ok (f, s2) ∧ ∃ x, frameFault f = some x := by
      intro s a l h
      refine issues_of h fun c s1 h => ?_
      refine eq_of' h fun sp h => ?_
      refine and_of h (fun h => of_decide_eq_true h) fun h => ?_
      refine and_of h (fun h => drains_of h) fun h => ?_
      refine ok_of h fun f s2 h => ?_
      obtain ⟨x, h, -⟩ := some_of (P := fun _ => True) h fun _ _ => trivial
      exact ⟨x, h⟩
    exact ⟨stc (fun k => k) [(31, mkWord 0x32 0x1000)] ([(0x1000, 0x310000000000000C#64), (0x1010, mkWord 0x30 0x40), (0x1018, mkWord 0x30 0x44), (0x1040, fixN 0x0), (0x1048, mkWord 0x32 0x1000), (0x1000, nil)]), at0, lg 0 0 0 0, k _ _ _ (by decide +kernel)⟩
  · have k : ∀ (s : State) (a : _) (l : _), (issuesB s a .rete l fun c s1 => eqB ((s1.core c).g7) fun sp => (decide (tagOf sp = 0x32)) && ((!((s1.core c).sbuf.any (fun e => writeWaits s1 c e.pa e.bytes.length))) && (okB (loadWords c (valOf sp) 12 (drainStores s1 c)) fun f s2 => someB (frameFault f) fun x => true))) = true → ∃ c s1, Issues s a .rete l c s1 ∧ ∃ sp, (s1.core c).g7 = sp ∧ tagOf sp = 0x32 ∧ Drains s1 c ∧ ∃ f s2, loadWords c (valOf sp) 12 (drainStores s1 c) = .ok (f, s2) ∧ ∃ x, frameFault f = some x := by
      intro s a l h
      refine issues_of h fun c s1 h => ?_
      refine eq_of' h fun sp h => ?_
      refine and_of h (fun h => of_decide_eq_true h) fun h => ?_
      refine and_of h (fun h => drains_of h) fun h => ?_
      refine ok_of h fun f s2 h => ?_
      obtain ⟨x, h, -⟩ := some_of (P := fun _ => True) h fun _ _ => trivial
      exact ⟨x, h⟩
    exact ⟨stc (fun k => k) [(31, mkWord 0x32 0x1000)] ([(0x1000, 0x310000000000000C#64), (0x1010, mkWord 0x30 0x40), (0x1018, mkWord 0x30 0x44), (0x1040, fixN 0x0), (0x1048, mkWord 0x32 0x1000), (0x1048, nil)]), at0, lg 0 0 0 0, k _ _ _ (by decide +kernel)⟩

/-- The hypotheses of part 1 of Obligations.LoopsComplete are met. -/
theorem witness_LoopsComplete :
    (∃ (s : State) (a : _) (l : _), ∃ c r x y s3, Ready s a .loop l c r x y s3 ∧ isFix x = true ∧ 0 < valOf x ∧ valOf x < 2 ^ 32 ∧ isFix y = true ∧ 0 ≤ fixVal y ∧ fixVal y % 4 = 0 ∧ ∃ first, first = (s3.core c).pc + 4 * l.parcels ∧ inCode s3 c (first + valOf y) = true ∧ (s3.core c).ld ≠ 4)
    ∧ (∃ (s : State) (a : _) (l : _), ∃ c r x y s3, Ready s a .loop l c r x y s3 ∧ x = fixN 0 ∧ isFix y = true ∧ 0 ≤ fixVal y ∧ fixVal y % 4 = 0 ∧ ∃ first, first = (s3.core c).pc + 4 * l.parcels ∧ inCode s3 c (first + valOf y) = true ∧ ∃ n s4, lengthAt c (first + valOf y) s3 = .ok (n, s4))
    ∧ (∃ (s : State) (a : _) (l : _), ∃ c r x y s3, Ready s a .loop l c r x y s3 ∧ isFix x = true ∧ 0 < valOf x ∧ valOf x < 2 ^ 32 ∧ isFix y = true ∧ 0 ≤ fixVal y ∧ fixVal y % 4 = 0 ∧ ∃ first, first = (s3.core c).pc + 4 * l.parcels ∧ inCode s3 c (first + valOf y) = true ∧ (s3.core c).ld = 4)
    ∧ (∃ (s : State) (a : _) (l : _), ∃ c r x y s3, Ready s a .loopx l c r x y s3 ∧ ((movedIndex s3 c r).core c).ld ≠ 0 ∧ Lands (movedIndex s3 c r) c y ∧ retFmt y = ((movedIndex s3 c r).core c).fmt) := by
  refine ⟨?_, ?_, ?_, ?_⟩
  · have k : ∀ (s : State) (a : _) (l : _), (readyB s a .loop l fun c r x y s3 => (decide (isFix x = true)) && ((decide (0 < valOf x)) && ((decide (valOf x < 2 ^ 32)) && ((decide (isFix y = true)) && ((decide (0 ≤ fixVal y)) && ((decide (fixVal y % 4 = 0)) && (eqB ((s3.core c).pc + 4 * l.parcels) fun first => (decide (inCode s3 c (first + valOf y) = true)) && (decide ((s3.core c).ld ≠ 4))))))))) = true → ∃ c r x y s3, Ready s a .loop l c r x y s3 ∧ isFix x = true ∧ 0 < valOf x ∧ valOf x < 2 ^ 32 ∧ isFix y = true ∧ 0 ≤ fixVal y ∧ fixVal y % 4 = 0 ∧ ∃ first, first = (s3.core c).pc + 4 * l.parcels ∧ inCode s3 c (first + valOf y) = true ∧ (s3.core c).ld ≠ 4 := by
      intro s a l h
      refine ready_of h fun c r x y s3 h => ?_
      refine and_of h (fun h => of_decide_eq_true h) fun h => ?_
      refine and_of h (fun h => of_decide_eq_true h) fun h => ?_
      refine and_of h (fun h => of_decide_eq_true h) fun h => ?_
      refine and_of h (fun h => of_decide_eq_true h) fun h => ?_
      refine and_of h (fun h => of_decide_eq_true h) fun h => ?_
      refine and_of h (fun h => of_decide_eq_true h) fun h => ?_
      refine eq_of h fun first h => ?_
      refine and_of h (fun h => of_decide_eq_true h) fun h => ?_
      exact of_decide_eq_true h
    exact ⟨st [(1, fixN 0xFFFFFFFF), (2, fixN 0x40)] [], at0, lg 0 1 0 2, k _ _ _ (by decide +kernel)⟩
  · have k : ∀ (s : State) (a : _) (l : _), (readyB s a .loop l fun c r x y s3 => (decide (x = fixN 0)) && ((decide (isFix y = true)) && ((decide (0 ≤ fixVal y)) && ((decide (fixVal y % 4 = 0)) && (eqB ((s3.core c).pc + 4 * l.parcels) fun first => (decide (inCode s3 c (first + valOf y) = true)) && (okB (lengthAt c (first + valOf y) s3) fun n s4 => true)))))) = true → ∃ c r x y s3, Ready s a .loop l c r x y s3 ∧ x = fixN 0 ∧ isFix y = true ∧ 0 ≤ fixVal y ∧ fixVal y % 4 = 0 ∧ ∃ first, first = (s3.core c).pc + 4 * l.parcels ∧ inCode s3 c (first + valOf y) = true ∧ ∃ n s4, lengthAt c (first + valOf y) s3 = .ok (n, s4) := by
      intro s a l h
      refine ready_of h fun c r x y s3 h => ?_
      refine and_of h (fun h => of_decide_eq_true h) fun h => ?_
      refine and_of h (fun h => of_decide_eq_true h) fun h => ?_
      refine and_of h (fun h => of_decide_eq_true h) fun h => ?_
      refine and_of h (fun h => of_decide_eq_true h) fun h => ?_
      refine eq_of h fun first h => ?_
      refine and_of h (fun h => of_decide_eq_true h) fun h => ?_
      obtain ⟨n, s4, h, -⟩ := ok_of (P := fun _ _ => True) h fun _ _ _ => trivial
      exact ⟨n, s4, h⟩
    exact ⟨stc (fun k => k) [(1, fixN 0), (2, fixN 0x40)] ([(0x78, 0)]), at0, lg 0 1 0 2, k _ _ _ (by decide +kernel)⟩
  · have k : ∀ (s : State) (a : _) (l : _), (readyB s a .loop l fun c r x y s3 => (decide (isFix x = true)) && ((decide (0 < valOf x)) && ((decide (valOf x < 2 ^ 32)) && ((decide (isFix y = true)) && ((decide (0 ≤ fixVal y)) && ((decide (fixVal y % 4 = 0)) && (eqB ((s3.core c).pc + 4 * l.parcels) fun first => (decide (inCode s3 c (first + valOf y) = true)) && (decide ((s3.core c).ld = 4))))))))) = true → ∃ c r x y s3, Ready s a .loop l c r x y s3 ∧ isFix x = true ∧ 0 < valOf x ∧ valOf x < 2 ^ 32 ∧ isFix y = true ∧ 0 ≤ fixVal y ∧ fixVal y % 4 = 0 ∧ ∃ first, first = (s3.core c).pc + 4 * l.parcels ∧ inCode s3 c (first + valOf y) = true ∧ (s3.core c).ld = 4 := by
      intro s a l h
      refine ready_of h fun c r x y s3 h => ?_
      refine and_of h (fun h => of_decide_eq_true h) fun h => ?_
      refine and_of h (fun h => of_decide_eq_true h) fun h => ?_
      refine and_of h (fun h => of_decide_eq_true h) fun h => ?_
      refine and_of h (fun h => of_decide_eq_true h) fun h => ?_
      refine and_of h (fun h => of_decide_eq_true h) fun h => ?_
      refine and_of h (fun h => of_decide_eq_true h) fun h => ?_
      refine eq_of h fun first h => ?_
      refine and_of h (fun h => of_decide_eq_true h) fun h => ?_
      exact of_decide_eq_true h
    exact ⟨stc (fun k => k.setStatus 26 24 4) [(1, fixN 1), (2, fixN 0x40)] ([]), at0, lg 0 1 0 2, k _ _ _ (by decide +kernel)⟩
  · have k : ∀ (s : State) (a : _) (l : _), (readyB s a .loopx l fun c r x y s3 => (decide (((movedIndex s3 c r).core c).ld ≠ 0)) && ((landsB (movedIndex s3 c r) c y) && (decide (retFmt y = ((movedIndex s3 c r).core c).fmt)))) = true → ∃ c r x y s3, Ready s a .loopx l c r x y s3 ∧ ((movedIndex s3 c r).core c).ld ≠ 0 ∧ Lands (movedIndex s3 c r) c y ∧ retFmt y = ((movedIndex s3 c r).core c).fmt := by
      intro s a l h
      refine ready_of h fun c r x y s3 h => ?_
      refine and_of h (fun h => of_decide_eq_true h) fun h => ?_
      refine and_of h (fun h => lands_of h) fun h => ?_
      exact of_decide_eq_true h
    exact ⟨stj (fun k => k.setStatus 26 24 1) [(2, mkWord 0x30 0x8040)], at0, lg 0 0 0 2, k _ _ _ (by decide +kernel)⟩

/-- The hypotheses of part 2 of Obligations.LoopsComplete are met. -/
theorem witness_LoopTestRepeats :
    (∃ (f : Nat) (k : Core) (pc : Nat) (next : Nat), atLoopEnd k pc = true ∧ 1 < bitsOf (k.lcN (k.ld - 1)) 31 0)
    ∧ (∃ (k : Core) (pc : Nat) (next : Nat), atLoopEnd k pc = true ∧ k.ld = 1 ∧ bitsOf (k.lcN 0) 31 0 ≤ 1)
    ∧ (∃ (f : Nat) (k : Core) (pc : Nat) (next : Nat), atLoopEnd k pc = false) := by
  refine ⟨?_, ?_, ?_⟩
  · have k : ∀ (f : Nat) (k : Core) (pc : Nat) (next : Nat), ((decide (atLoopEnd k pc = true)) && (decide (1 < bitsOf (k.lcN (k.ld - 1)) 31 0))) = true → atLoopEnd k pc = true ∧ 1 < bitsOf (k.lcN (k.ld - 1)) 31 0 := by
      intro f k pc next h
      refine and_of h (fun h => of_decide_eq_true h) fun h => ?_
      exact of_decide_eq_true h
    exact ⟨0, { (Core.reset.setStatus 26 24 1) with le := [(0, retWord 0x40 false)], ls := [(0, retWord 0x30 false)], lc := [(0, fixN 2)] }, 0x40, 0x44, k (0) _ _ (0x44) (by decide +kernel)⟩
  · have k : ∀ (k : Core) (pc : Nat) (next : Nat), ((decide (atLoopEnd k pc = true)) && ((decide (k.ld = 1)) && (decide (bitsOf (k.lcN 0) 31 0 ≤ 1)))) = true → atLoopEnd k pc = true ∧ k.ld = 1 ∧ bitsOf (k.lcN 0) 31 0 ≤ 1 := by
      intro k pc next h
      refine and_of h (fun h => of_decide_eq_true h) fun h => ?_
      refine and_of h (fun h => of_decide_eq_true h) fun h => ?_
      exact of_decide_eq_true h
    exact ⟨{ (Core.reset.setStatus 26 24 1) with le := [(0, retWord 0x40 false)], ls := [(0, retWord 0x30 false)], lc := [(0, fixN 1)] }, 0x40, 0x44, k _ _ (0x44) (by decide +kernel)⟩
  · have k : ∀ (f : Nat) (k : Core) (pc : Nat) (next : Nat), (decide (atLoopEnd k pc = false)) = true → atLoopEnd k pc = false := by
      intro f k pc next h
      exact of_decide_eq_true h
    exact ⟨0, { (Core.reset.setStatus 26 24 1) with le := [(0, retWord 0x40 false)], ls := [(0, retWord 0x30 false)], lc := [(0, fixN 1)] }, 0x3C, 0x40, k (0) _ _ (0x40) (by decide +kernel)⟩

/-- The hypotheses of part 1 of Obligations.WindowAndContextOperationsComplete are met. -/
theorem witness_WindowStepsComplete :
    (∃ (s : State) (a : _) (l : _), ∃ c s1, Issues s a .spillw l c s1 ∧ (s1.core c).tw = true ∧ ∃ s2, spill c s1 = .ok ((), s2))
    ∧ (∃ (s : State) (a : _) (l : _), ∃ c s1, Issues s a .fillw l c s1 ∧ (s1.core c).tw = true ∧ ∃ s2, fill c s1 = .ok ((), s2))
    ∧ (∃ (s : State) (a : _) (l : _), ∃ c s1, Issues s a .spillw l c s1 ∧ (s1.core c).tw = false)
    ∧ (∃ (s : State) (a : _) (l : _), ∃ c s1, Issues s a .fillw l c s1 ∧ (s1.core c).tw = false)
    ∧ (∃ (s : State) (a : _) (l : _), ∃ c r x y s3, Ready s a .space l c r x y s3 ∧ isFix y = true ∧ valOf y < 4096 ∧ Drains s3 c) := by
  refine ⟨?_, ?_, ?_, ?_, ?_⟩
  · have k : ∀ (s : State) (a : _) (l : _), (issuesB s a .spillw l fun c s1 => (decide ((s1.core c).tw = true)) && (okU (spill c s1) fun s2 => true)) = true → ∃ c s1, Issues s a .spillw l c s1 ∧ (s1.core c).tw = true ∧ ∃ s2, spill c s1 = .ok ((), s2) := by
      intro s a l h
      refine issues_of h fun c s1 h => ?_
      refine and_of h (fun h => of_decide_eq_true h) fun h => ?_
      obtain ⟨s2, h, -⟩ := okU_of (P := fun _ => True) h fun _ _ => trivial
      exact ⟨s2, h⟩
    exact ⟨stc (fun k => k.setStatus 23 23 1) [(30, mkWord 0x32 0x1000)] ([]), at0, lg 0 0 0 0, k _ _ _ (by decide +kernel)⟩
  · have k : ∀ (s : State) (a : _) (l : _), (issuesB s a .fillw l fun c s1 => (decide ((s1.core c).tw = true)) && (okU (fill c s1) fun s2 => true)) = true → ∃ c s1, Issues s a .fillw l c s1 ∧ (s1.core c).tw = true ∧ ∃ s2, fill c s1 = .ok ((), s2) := by
      intro s a l h
      refine issues_of h fun c s1 h => ?_
      refine and_of h (fun h => of_decide_eq_true h) fun h => ?_
      obtain ⟨s2, h, -⟩ := okU_of (P := fun _ => True) h fun _ _ => trivial
      exact ⟨s2, h⟩
    exact ⟨stc (fun k => k.setStatus 23 23 1) [(30, mkWord 0x32 0x1000)] ([]), at0, lg 0 0 0 0, k _ _ _ (by decide +kernel)⟩
  · have k : ∀ (s : State) (a : _) (l : _), (issuesB s a .spillw l fun c s1 => decide ((s1.core c).tw = false)) = true → ∃ c s1, Issues s a .spillw l c s1 ∧ (s1.core c).tw = false := by
      intro s a l h
      refine issues_of h fun c s1 h => ?_
      exact of_decide_eq_true h
    exact ⟨stc (fun k => k) [] ([]), at0, lg 0 0 0 0, k _ _ _ (by decide +kernel)⟩
  · have k : ∀ (s : State) (a : _) (l : _), (issuesB s a .fillw l fun c s1 => decide ((s1.core c).tw = false)) = true → ∃ c s1, Issues s a .fillw l c s1 ∧ (s1.core c).tw = false := by
      intro s a l h
      refine issues_of h fun c s1 h => ?_
      exact of_decide_eq_true h
    exact ⟨stc (fun k => k) [] ([]), at0, lg 0 0 0 0, k _ _ _ (by decide +kernel)⟩
  · have k : ∀ (s : State) (a : _) (l : _), (readyB s a .space l fun c r x y s3 => (decide (isFix y = true)) && ((decide (valOf y < 4096)) && (!((s3.core c).sbuf.any (fun e => writeWaits s3 c e.pa e.bytes.length))))) = true → ∃ c r x y s3, Ready s a .space l c r x y s3 ∧ isFix y = true ∧ valOf y < 4096 ∧ Drains s3 c := by
      intro s a l h
      refine ready_of h fun c r x y s3 h => ?_
      refine and_of h (fun h => of_decide_eq_true h) fun h => ?_
      refine and_of h (fun h => of_decide_eq_true h) fun h => ?_
      exact drains_of h
    exact ⟨st [(2, fixN 4095)] [], at0, lg 3 0 0 2, k _ _ _ (by decide +kernel)⟩

/-- The hypotheses of part 2 of Obligations.WindowAndContextOperationsComplete are met. -/
theorem witness_ContextSavesComplete :
    (∃ (s : State) (a : _) (l : _), ∃ c r x y s3, Ready s a .savelo l c r x y s3 ∧ ∃ o s4, saveArea c y true s3 = .ok (o, s4) ∧ ∃ s5, storeSlots c o 1 (lowerWords (s4.core c)) s4 = .ok ((), s5) ∧ Drains s5 c)
    ∧ (∃ (s : State) (a : _) (l : _), ∃ c r x y s3, Ready s a .savehi l c r x y s3 ∧ ∃ s4, saveUpper c (s3.core c) 4 0 (upperGroups (s3.core c)) y s3 = .ok ((), s4) ∧ Drains s4 c)
    ∧ (∃ (s : State) (a : _) (l : _), ∃ c r x y s3, Ready s a .restlo l c r x y s3 ∧ ∃ o s4, saveArea c y false s3 = .ok (o, s4) ∧ ∃ d s5, areaWords c o 1 1 s4 = .ok (d, s5) ∧ ∃ rest s6, areaWords c o 3 49 s5 = .ok (rest, s6) ∧ ∃ ws, ws = d ++ [nil] ++ rest ∧ lowerBadWord 1 ws = none ∧ lowerDescOk (d[0]?.getD nil) = true)
    ∧ (∃ (s : State) (a : _) (l : _), ∃ c r x y s3, Ready s a .resthi l c r x y s3 ∧ ∃ gs s4, readUpper c l (s3.core c) 25 0 [] y s3 = .ok (gs, s4)) := by
  refine ⟨?_, ?_, ?_, ?_⟩
  · have k : ∀ (s : State) (a : _) (l : _), (readyB s a .savelo l fun c r x y s3 => okB (saveArea c y true s3) fun o s4 => okU (storeSlots c o 1 (lowerWords (s4.core c)) s4) fun s5 => !((s5.core c).sbuf.any (fun e => writeWaits s5 c e.pa e.bytes.length))) = true → ∃ c r x y s3, Ready s a .savelo l c r x y s3 ∧ ∃ o s4, saveArea c y true s3 = .ok (o, s4) ∧ ∃ s5, storeSlots c o 1 (lowerWords (s4.core c)) s4 = .ok ((), s5) ∧ Drains s5 c := by
      intro s a l h
      refine ready_of h fun c r x y s3 h => ?_
      refine ok_of h fun o s4 h => ?_
      refine okU_of h fun s5 h => ?_
      exact drains_of h
    exact ⟨stc (fun k => k) [(2, mkWord 0x14 0x1000)] ([(0x1000, mkHeader 0x20 0xA 63 0)]), at0, lg 24 0 0 2, k _ _ _ (by decide +kernel)⟩
  · have k : ∀ (s : State) (a : _) (l : _), (readyB s a .savehi l fun c r x y s3 => okU (saveUpper c (s3.core c) 4 0 (upperGroups (s3.core c)) y s3) fun s4 => !((s4.core c).sbuf.any (fun e => writeWaits s4 c e.pa e.bytes.length))) = true → ∃ c r x y s3, Ready s a .savehi l c r x y s3 ∧ ∃ s4, saveUpper c (s3.core c) 4 0 (upperGroups (s3.core c)) y s3 = .ok ((), s4) ∧ Drains s4 c := by
      intro s a l h
      refine ready_of h fun c r x y s3 h => ?_
      refine okU_of h fun s4 h => ?_
      exact drains_of h
    exact ⟨stc (fun k => k) [(2, mkWord 0x14 0x1000)] ([(0x1000, mkHeader 0x20 0xA 63 0)]), at0, lg 24 0 0 2, k _ _ _ (by decide +kernel)⟩
  · have k : ∀ (s : State) (a : _) (l : _), (readyB s a .restlo l fun c r x y s3 => okB (saveArea c y false s3) fun o s4 => okB (areaWords c o 1 1 s4) fun d s5 => okB (areaWords c o 3 49 s5) fun rest s6 => eqB (d ++ [nil] ++ rest) fun ws => (decide (lowerBadWord 1 ws = none)) && (decide (lowerDescOk (d[0]?.getD nil) = true))) = true → ∃ c r x y s3, Ready s a .restlo l c r x y s3 ∧ ∃ o s4, saveArea c y false s3 = .ok (o, s4) ∧ ∃ d s5, areaWords c o 1 1 s4 = .ok (d, s5) ∧ ∃ rest s6, areaWords c o 3 49 s5 = .ok (rest, s6) ∧ ∃ ws, ws = d ++ [nil] ++ rest ∧ lowerBadWord 1 ws = none ∧ lowerDescOk (d[0]?.getD nil) = true := by
      intro s a l h
      refine ready_of h fun c r x y s3 h => ?_
      refine ok_of h fun o s4 h => ?_
      refine ok_of h fun d s5 h => ?_
      refine ok_of h fun rest s6 h => ?_
      refine eq_of h fun ws h => ?_
      refine and_of h (fun h => of_decide_eq_true h) fun h => ?_
      exact of_decide_eq_true h
    exact ⟨stc (fun k => k) [(2, mkWord 0x14 0x1000)] (lower0), at0, lg 24 0 0 2, k _ _ _ (by decide +kernel)⟩
  · have k : ∀ (s : State) (a : _) (l : _), (readyB s a .resthi l fun c r x y s3 => okB (readUpper c l (s3.core c) 25 0 [] y s3) fun gs s4 => true) = true → ∃ c r x y s3, Ready s a .resthi l c r x y s3 ∧ ∃ gs s4, readUpper c l (s3.core c) 25 0 [] y s3 = .ok (gs, s4) := by
      intro s a l h
      refine ready_of h fun c r x y s3 h => ?_
      obtain ⟨gs, s4, h, -⟩ := ok_of (P := fun _ _ => True) h fun _ _ _ => trivial
      exact ⟨gs, s4, h⟩
    exact ⟨stc (fun k => k) [(2, mkWord 0x14 0x1000)] ([(0x1000, mkHeader 0x20 0xA 63 0), (0x1010, fixN (2 * 2 ^ 48 + 2 ^ 39))]), at0, lg 24 0 0 2, k _ _ _ (by decide +kernel)⟩

/-- The hypotheses of part 1 of Obligations.WaitsAndClassEndsComplete are met. -/
theorem witness_WaitsComplete :
    (∃ (s : State) (a : _) (l : _), ∃ c s1, Issues s a .fence l c s1 ∧ Drains s1 c)
    ∧ (∃ (s : State) (a : _) (l : _) (n : _), ∃ c r x y s3, Ready s a .barrier l c r x y s3 ∧ ((l.ra ≠ 24 → isFix x = true)) ∧ isFix y = true ∧ (if l.ra = 24 then 0 else fixVal x) + fixVal y = (n : Nat) ∧ n ≤ 15 ∧ ∃ s4, s4 = drainStores s3 c ∧ participant s4 n (barCore s4 c) = false ∧ Drains s3 c)
    ∧ (∃ (s : State) (a : _) (l : _) (n : _), ∃ c r x y s3, Ready s a .barrier l c r x y s3 ∧ ((l.ra ≠ 24 → isFix x = true)) ∧ isFix y = true ∧ (if l.ra = 24 then 0 else fixVal x) + fixVal y = (n : Nat) ∧ n ≤ 15 ∧ ∃ s4, s4 = drainStores s3 c ∧ participant s4 n (barCore s4 c) = false ∧ Drains s3 c)
    ∧ (∃ (s : State) (a : _) (l : _) (n : _), ∃ c r x y s3, Ready s a .barrier l c r x y s3 ∧ ((l.ra ≠ 24 → isFix x = true)) ∧ isFix y = true ∧ (if l.ra = 24 then 0 else fixVal x) + fixVal y = (n : Nat) ∧ n ≤ 15 ∧ ∃ s4, s4 = drainStores s3 c ∧ participant s4 n (barCore s4 c) = true ∧ Tbl.get? (s4.core c).bars n = some true ∧ Drains s3 c)
    ∧ (∃ (s : State) (a : _) (l : _) (n : _), ∃ c r x y s3, Ready s a .barrier l c r x y s3 ∧ ((l.ra ≠ 24 → isFix x = true)) ∧ isFix y = true ∧ (if l.ra = 24 then 0 else fixVal x) + fixVal y = (n : Nat) ∧ n ≤ 15 ∧ ∃ s4, s4 = drainStores s3 c ∧ participant s4 n (barCore s4 c) = true ∧ Tbl.get? (s4.core c).bars n ≠ some true ∧ Drains s3 c)
    ∧ (∃ (s : State) (a : _) (l : _), ∃ c s1, Issues s a .wait l c s1 ∧ ∃ k, k = s1.core c ∧ (k.tw || k.fb || waitEnds s1 c k) = true)
    ∧ (∃ (s : State) (a : _) (l : _), ∃ c s1, Issues s a .wait l c s1 ∧ ∃ k, k = s1.core c ∧ (k.tw || k.fb || waitEnds s1 c k) = false)
    ∧ (∃ (s : State) (c : _), ∃ d, sourceCore s c = some d ∧ ∃ k, k = s.core d ∧ k.mode = .waiting ∧ waitEnds s d k = true) := by
  refine ⟨?_, ?_, ?_, ?_, ?_, ?_, ?_, ?_⟩
  · have k : ∀ (s : State) (a : _) (l : _), (issuesB s a .fence l fun c s1 => !((s1.core c).sbuf.any (fun e => writeWaits s1 c e.pa e.bytes.length))) = true → ∃ c s1, Issues s a .fence l c s1 ∧ Drains s1 c := by
      intro s a l h
      refine issues_of h fun c s1 h => ?_
      exact drains_of h
    exact ⟨st [] [], at0, lg 0 0 0 0, k _ _ _ (by decide +kernel)⟩
  · have k : ∀ (s : State) (a : _) (l : _) (n : _), (readyB s a .barrier l fun c r x y s3 => (decide ((l.ra ≠ 24 → isFix x = true))) && ((decide (isFix y = true)) && ((decide ((if l.ra = 24 then 0 else fixVal x) + fixVal y = (n : Nat))) && ((decide (n ≤ 15)) && (eqB (drainStores s3 c) fun s4 => (decide (participant s4 n (barCore s4 c) = false)) && (!((s3.core c).sbuf.any (fun e => writeWaits s3 c e.pa e.bytes.length)))))))) = true → ∃ c r x y s3, Ready s a .barrier l c r x y s3 ∧ ((l.ra ≠ 24 → isFix x = true)) ∧ isFix y = true ∧ (if l.ra = 24 then 0 else fixVal x) + fixVal y = (n : Nat) ∧ n ≤ 15 ∧ ∃ s4, s4 = drainStores s3 c ∧ participant s4 n (barCore s4 c) = false ∧ Drains s3 c := by
      intro s a l n h
      refine ready_of h fun c r x y s3 h => ?_
      refine and_of h (fun h => of_decide_eq_true h) fun h => ?_
      refine and_of h (fun h => of_decide_eq_true h) fun h => ?_
      refine and_of h (fun h => of_decide_eq_true h) fun h => ?_
      refine and_of h (fun h => of_decide_eq_true h) fun h => ?_
      refine eq_of h fun s4 h => ?_
      refine and_of h (fun h => of_decide_eq_true h) fun h => ?_
      exact drains_of h
    exact ⟨st [(1, fixN 10), (2, fixN 5)] [], at0, lg 0 1 0 2, 15, k _ _ _ _ (by decide +kernel)⟩
  · have k : ∀ (s : State) (a : _) (l : _) (n : _), (readyB s a .barrier l fun c r x y s3 => (decide ((l.ra ≠ 24 → isFix x = true))) && ((decide (isFix y = true)) && ((decide ((if l.ra = 24 then 0 else fixVal x) + fixVal y = (n : Nat))) && ((decide (n ≤ 15)) && (eqB (drainStores s3 c) fun s4 => (decide (participant s4 n (barCore s4 c) = false)) && (!((s3.core c).sbuf.any (fun e => writeWaits s3 c e.pa e.bytes.length)))))))) = true → ∃ c r x y s3, Ready s a .barrier l c r x y s3 ∧ ((l.ra ≠ 24 → isFix x = true)) ∧ isFix y = true ∧ (if l.ra = 24 then 0 else fixVal x) + fixVal y = (n : Nat) ∧ n ≤ 15 ∧ ∃ s4, s4 = drainStores s3 c ∧ participant s4 n (barCore s4 c) = false ∧ Drains s3 c := by
      intro s a l n h
      refine ready_of h fun c r x y s3 h => ?_
      refine and_of h (fun h => of_decide_eq_true h) fun h => ?_
      refine and_of h (fun h => of_decide_eq_true h) fun h => ?_
      refine and_of h (fun h => of_decide_eq_true h) fun h => ?_
      refine and_of h (fun h => of_decide_eq_true h) fun h => ?_
      refine eq_of h fun s4 h => ?_
      refine and_of h (fun h => of_decide_eq_true h) fun h => ?_
      exact drains_of h
    exact ⟨st [(2, fixN 15)] [], at0, lg 0 24 0 2, 15, k _ _ _ _ (by decide +kernel)⟩
  · have k : ∀ (s : State) (a : _) (l : _) (n : _), (readyB s a .barrier l fun c r x y s3 => (decide ((l.ra ≠ 24 → isFix x = true))) && ((decide (isFix y = true)) && ((decide ((if l.ra = 24 then 0 else fixVal x) + fixVal y = (n : Nat))) && ((decide (n ≤ 15)) && (eqB (drainStores s3 c) fun s4 => (decide (participant s4 n (barCore s4 c) = true)) && ((decide (Tbl.get? (s4.core c).bars n = some true)) && (!((s3.core c).sbuf.any (fun e => writeWaits s3 c e.pa e.bytes.length))))))))) = true → ∃ c r x y s3, Ready s a .barrier l c r x y s3 ∧ ((l.ra ≠ 24 → isFix x = true)) ∧ isFix y = true ∧ (if l.ra = 24 then 0 else fixVal x) + fixVal y = (n : Nat) ∧ n ≤ 15 ∧ ∃ s4, s4 = drainStores s3 c ∧ participant s4 n (barCore s4 c) = true ∧ Tbl.get? (s4.core c).bars n = some true ∧ Drains s3 c := by
      intro s a l n h
      refine ready_of h fun c r x y s3 h => ?_
      refine and_of h (fun h => of_decide_eq_true h) fun h => ?_
      refine and_of h (fun h => of_decide_eq_true h) fun h => ?_
      refine and_of h (fun h => of_decide_eq_true h) fun h => ?_
      refine and_of h (fun h => of_decide_eq_true h) fun h => ?_
      refine eq_of h fun s4 h => ?_
      refine and_of h (fun h => of_decide_eq_true h) fun h => ?_
      refine and_of h (fun h => of_decide_eq_true h) fun h => ?_
      exact drains_of h
    exact ⟨(stc (fun k => { k with bars := [(15, true)] }) [(1, fixN 10), (2, fixN 5)] []).setR .cfgBarLo 15 1#64, at0, lg 0 1 0 2, 15, k _ _ _ _ (by decide +kernel)⟩
  · have k : ∀ (s : State) (a : _) (l : _) (n : _), (readyB s a .barrier l fun c r x y s3 => (decide ((l.ra ≠ 24 → isFix x = true))) && ((decide (isFix y = true)) && ((decide ((if l.ra = 24 then 0 else fixVal x) + fixVal y = (n : Nat))) && ((decide (n ≤ 15)) && (eqB (drainStores s3 c) fun s4 => (decide (participant s4 n (barCore s4 c) = true)) && ((decide (Tbl.get? (s4.core c).bars n ≠ some true)) && (!((s3.core c).sbuf.any (fun e => writeWaits s3 c e.pa e.bytes.length))))))))) = true → ∃ c r x y s3, Ready s a .barrier l c r x y s3 ∧ ((l.ra ≠ 24 → isFix x = true)) ∧ isFix y = true ∧ (if l.ra = 24 then 0 else fixVal x) + fixVal y = (n : Nat) ∧ n ≤ 15 ∧ ∃ s4, s4 = drainStores s3 c ∧ participant s4 n (barCore s4 c) = true ∧ Tbl.get? (s4.core c).bars n ≠ some true ∧ Drains s3 c := by
      intro s a l n h
      refine ready_of h fun c r x y s3 h => ?_
      refine and_of h (fun h => of_decide_eq_true h) fun h => ?_
      refine and_of h (fun h => of_decide_eq_true h) fun h => ?_
      refine and_of h (fun h => of_decide_eq_true h) fun h => ?_
      refine and_of h (fun h => of_decide_eq_true h) fun h => ?_
      refine eq_of h fun s4 h => ?_
      refine and_of h (fun h => of_decide_eq_true h) fun h => ?_
      refine and_of h (fun h => of_decide_eq_true h) fun h => ?_
      exact drains_of h
    exact ⟨(stc (fun k => k) [(1, fixN 10), (2, fixN 5)] []).setR .cfgBarLo 15 1#64, at0, lg 0 1 0 2, 15, k _ _ _ _ (by decide +kernel)⟩
  · have k : ∀ (s : State) (a : _) (l : _), (issuesB s a .wait l fun c s1 => eqB (s1.core c) fun k => decide ((k.tw || k.fb || waitEnds s1 c k) = true)) = true → ∃ c s1, Issues s a .wait l c s1 ∧ ∃ k, k = s1.core c ∧ (k.tw || k.fb || waitEnds s1 c k) = true := by
      intro s a l h
      refine issues_of h fun c s1 h => ?_
      refine eq_of h fun k h => ?_
      exact of_decide_eq_true h
    exact ⟨stc (fun k => { k with pend := [(0, 1#64)] }) [] ([]), at0, lg 0 0 0 0, k _ _ _ (by decide +kernel)⟩
  · have k : ∀ (s : State) (a : _) (l : _), (issuesB s a .wait l fun c s1 => eqB (s1.core c) fun k => decide ((k.tw || k.fb || waitEnds s1 c k) = false)) = true → ∃ c s1, Issues s a .wait l c s1 ∧ ∃ k, k = s1.core c ∧ (k.tw || k.fb || waitEnds s1 c k) = false := by
      intro s a l h
      refine issues_of h fun c s1 h => ?_
      refine eq_of h fun k h => ?_
      exact of_decide_eq_true h
    exact ⟨st [] [], at0, lg 0 0 0 0, k _ _ _ (by decide +kernel)⟩
  · have k : ∀ (s : State) (c : _), (someB (sourceCore s c) fun d => eqB (s.core d) fun k => (decide (k.mode = .waiting)) && (decide (waitEnds s d k = true))) = true → ∃ d, sourceCore s c = some d ∧ ∃ k, k = s.core d ∧ k.mode = .waiting ∧ waitEnds s d k = true := by
      intro s c h
      refine some_of h fun d h => ?_
      refine eq_of h fun k h => ?_
      refine and_of h (fun h => of_decide_eq_true h) fun h => ?_
      exact of_decide_eq_true h
    exact ⟨(stc (fun k => { k with mode := .waiting, pend := [(0, 1#64)] }) [] []), 0, k _ _ (by decide +kernel)⟩

/-- The hypotheses of part 2 of Obligations.WaitsAndClassEndsComplete are met. -/
theorem witness_ClassEndsComplete :
    (∃ (s : State) (a : _) (l : _), ∃ c s1, Issues s a .eoin l c s1 ∧ (s1.core c).cstk = 1 ∧ Drains s1 c)
    ∧ (∃ (s : State) (a : _) (l : _), ∃ c s1, Issues s a .eoin l c s1 ∧ (s1.core c).cstk ≠ 1)
    ∧ (∃ (s : State) (a : _) (l : _), ∃ c s1, Issues s a .eoin l c s1 ∧ (s1.core c).cstk ≠ 1)
    ∧ (∃ (s : State) (a : _) (l : _), ∃ c s1, Issues s a .eoif l c s1 ∧ 2 ≤ (s1.core c).cstk ∧ Drains s1 c ∧ ∃ s2, s2 = drainStores s1 c ∧ ∃ k, k = s2.core c ∧ k.fastRet = none)
    ∧ (∃ (s : State) (a : _) (l : _), ∃ c s1, Issues s a .eoif l c s1 ∧ 2 ≤ (s1.core c).cstk ∧ Drains s1 c ∧ ∃ s2, s2 = drainStores s1 c ∧ ∃ k, k = s2.core c ∧ ∃ f, k.fastRet = some f ∧ ∃ k1, k1 = { (k.setStatus 15 14 (k.cstk % 2)).setStatus 22 22 0 with fastRet := none })
    ∧ (∃ (s : State) (a : _) (l : _), ∃ c s1, Issues s a .eoif l c s1 ∧ (s1.core c).cstk < 2)
    ∧ (∃ (s : State) (a : _) (l : _), ∃ c s1, Issues s a .niwopen l c s1 ∧ s1.compact = false ∧ (s1.core c).niw = false)
    ∧ (∃ (s : State) (a : _) (l : _), ∃ c s1, Issues s a .niwopen l c s1 ∧ ((s1.compact = true ∨ (s1.core c).niw = true)))
    ∧ (∃ (s : State) (a : _) (l : _), ∃ c s1, Issues s a .niwopen l c s1 ∧ ((s1.compact = true ∨ (s1.core c).niw = true)))
    ∧ (∃ (s : State) (a : _) (l : _), ∃ c s1, Issues s a .niwclose l c s1)
    ∧ (∃ (s : State) (c : _), ∃ d, sourceCore s c = some d ∧ ∃ k, k = s.core d ∧ k.niwTicks = true) := by
  refine ⟨?_, ?_, ?_, ?_, ?_, ?_, ?_, ?_, ?_, ?_, ?_⟩
  · have k : ∀ (s : State) (a : _) (l : _), (issuesB s a .eoin l fun c s1 => (decide ((s1.core c).cstk = 1)) && (!((s1.core c).sbuf.any (fun e => writeWaits s1 c e.pa e.bytes.length)))) = true → ∃ c s1, Issues s a .eoin l c s1 ∧ (s1.core c).cstk = 1 ∧ Drains s1 c := by
      intro s a l h
      refine issues_of h fun c s1 h => ?_
      refine and_of h (fun h => of_decide_eq_true h) fun h => ?_
      exact drains_of h
    exact ⟨stc (fun k => k.setStatus 15 14 1) [] ([]), at0, lg 0 0 0 0, k _ _ _ (by decide +kernel)⟩
  · have k : ∀ (s : State) (a : _) (l : _), (issuesB s a .eoin l fun c s1 => decide ((s1.core c).cstk ≠ 1)) = true → ∃ c s1, Issues s a .eoin l c s1 ∧ (s1.core c).cstk ≠ 1 := by
      intro s a l h
      refine issues_of h fun c s1 h => ?_
      exact of_decide_eq_true h
    exact ⟨st [] [], at0, lg 0 0 0 0, k _ _ _ (by decide +kernel)⟩
  · have k : ∀ (s : State) (a : _) (l : _), (issuesB s a .eoin l fun c s1 => decide ((s1.core c).cstk ≠ 1)) = true → ∃ c s1, Issues s a .eoin l c s1 ∧ (s1.core c).cstk ≠ 1 := by
      intro s a l h
      refine issues_of h fun c s1 h => ?_
      exact of_decide_eq_true h
    exact ⟨stc (fun k => k.setStatus 15 14 2) [] ([]), at0, lg 0 0 0 0, k _ _ _ (by decide +kernel)⟩
  · have k : ∀ (s : State) (a : _) (l : _), (issuesB s a .eoif l fun c s1 => (decide (2 ≤ (s1.core c).cstk)) && ((!((s1.core c).sbuf.any (fun e => writeWaits s1 c e.pa e.bytes.length))) && (eqB (drainStores s1 c) fun s2 => eqB (s2.core c) fun k => decide (k.fastRet = none)))) = true → ∃ c s1, Issues s a .eoif l c s1 ∧ 2 ≤ (s1.core c).cstk ∧ Drains s1 c ∧ ∃ s2, s2 = drainStores s1 c ∧ ∃ k, k = s2.core c ∧ k.fastRet = none := by
      intro s a l h
      refine issues_of h fun c s1 h => ?_
      refine and_of h (fun h => of_decide_eq_true h) fun h => ?_
      refine and_of h (fun h => drains_of h) fun h => ?_
      refine eq_of h fun s2 h => ?_
      refine eq_of h fun k h => ?_
      exact of_decide_eq_true h
    exact ⟨stc (fun k => k.setStatus 15 14 3) [] ([]), at0, lg 0 0 0 0, k _ _ _ (by decide +kernel)⟩
  · have k : ∀ (s : State) (a : _) (l : _), (issuesB s a .eoif l fun c s1 => (decide (2 ≤ (s1.core c).cstk)) && ((!((s1.core c).sbuf.any (fun e => writeWaits s1 c e.pa e.bytes.length))) && (eqB (drainStores s1 c) fun s2 => eqB (s2.core c) fun k => someB (k.fastRet) fun f => eqB ({ (k.setStatus 15 14 (k.cstk % 2)).setStatus 22 22 0 with fastRet := none }) fun k1 => true))) = true → ∃ c s1, Issues s a .eoif l c s1 ∧ 2 ≤ (s1.core c).cstk ∧ Drains s1 c ∧ ∃ s2, s2 = drainStores s1 c ∧ ∃ k, k = s2.core c ∧ ∃ f, k.fastRet = some f ∧ ∃ k1, k1 = { (k.setStatus 15 14 (k.cstk % 2)).setStatus 22 22 0 with fastRet := none } := by
      intro s a l h
      refine issues_of h fun c s1 h => ?_
      refine and_of h (fun h => of_decide_eq_true h) fun h => ?_
      refine and_of h (fun h => drains_of h) fun h => ?_
      refine eq_of h fun s2 h => ?_
      refine eq_of h fun k h => ?_
      refine some_of h fun f h => ?_
      obtain ⟨k1, h, -⟩ := eq_of (P := fun _ => True) h fun _ _ => trivial
      exact ⟨k1, h⟩
    exact ⟨stc (fun k => { k.setStatus 15 14 2 with fastRet := some ⟨0x40, false, false⟩ }) [] ([]), at0, lg 0 0 0 0, k _ _ _ (by decide +kernel)⟩
  · have k : ∀ (s : State) (a : _) (l : _), (issuesB s a .eoif l fun c s1 => decide ((s1.core c).cstk < 2)) = true → ∃ c s1, Issues s a .eoif l c s1 ∧ (s1.core c).cstk < 2 := by
      intro s a l h
      refine issues_of h fun c s1 h => ?_
      exact of_decide_eq_true h
    exact ⟨stc (fun k => k.setStatus 15 14 1) [] ([]), at0, lg 0 0 0 0, k _ _ _ (by decide +kernel)⟩
  · have k : ∀ (s : State) (a : _) (l : _), (issuesB s a .niwopen l fun c s1 => (decide (s1.compact = false)) && (decide ((s1.core c).niw = false))) = true → ∃ c s1, Issues s a .niwopen l c s1 ∧ s1.compact = false ∧ (s1.core c).niw = false := by
      intro s a l h
      refine issues_of h fun c s1 h => ?_
      refine and_of h (fun h => of_decide_eq_true h) fun h => ?_
      exact of_decide_eq_true h
    exact ⟨st [] [], at0, lg 0 0 0 0, k _ _ _ (by decide +kernel)⟩
  · have k : ∀ (s : State) (a : _) (l : _), (issuesB s a .niwopen l fun c s1 => decide ((s1.compact = true ∨ (s1.core c).niw = true))) = true → ∃ c s1, Issues s a .niwopen l c s1 ∧ ((s1.compact = true ∨ (s1.core c).niw = true)) := by
      intro s a l h
      refine issues_of h fun c s1 h => ?_
      exact of_decide_eq_true h
    exact ⟨stc (fun k => k.setStatus 17 17 1) [] ([]), at0, lg 0 0 0 0, k _ _ _ (by decide +kernel)⟩
  · have k : ∀ (s : State) (a : _) (l : _), (issuesB s a .niwopen l fun c s1 => decide ((s1.compact = true ∨ (s1.core c).niw = true))) = true → ∃ c s1, Issues s a .niwopen l c s1 ∧ ((s1.compact = true ∨ (s1.core c).niw = true)) := by
      intro s a l h
      refine issues_of h fun c s1 h => ?_
      exact of_decide_eq_true h
    exact ⟨{ st [] [] with compact := true }, at0, lg 0 0 0 0, k _ _ _ (by decide +kernel)⟩
  · have k : ∀ (s : State) (a : _) (l : _), (issuesB s a .niwclose l fun c s1 => true) = true → ∃ c s1, Issues s a .niwclose l c s1 := by
      intro s a l h
      obtain ⟨c, s1, h, -⟩ := issues_of (P := fun _ _ => True) h fun _ _ _ => trivial
      exact ⟨c, s1, h⟩
    exact ⟨st [] [], at0, lg 0 0 0 0, k _ _ _ (by decide +kernel)⟩
  · have k : ∀ (s : State) (c : _), (someB (sourceCore s c) fun d => eqB (s.core d) fun k => decide (k.niwTicks = true)) = true → ∃ d, sourceCore s c = some d ∧ ∃ k, k = s.core d ∧ k.niwTicks = true := by
      intro s c h
      refine some_of h fun d h => ?_
      refine eq_of h fun k h => ?_
      exact of_decide_eq_true h
    exact ⟨stc (fun k => { k with niwTicks := true }) [] [], 0, k _ _ (by decide +kernel)⟩

/-- The hypotheses of Obligations.TableOperationsComplete are met. -/
theorem witness_TableOperationsComplete :
    (∃ (s : State) (a : _) (l : _), ∃ c r x y s3, Ready s a .cqlook l c r x y s3 ∧ ∃ t b fp ctrl k0 k1 w s4, Searches s3 c l y t b fp ctrl k0 k1 w s4 ∧ ∃ v s5, foundValue c t b w s4 = .ok (v, s5))
    ∧ (∃ (s : State) (a : _) (l : _), ∃ c r x y s3, Ready s a .cqlook l c r x y s3 ∧ ∃ t b fp ctrl k0 k1 w s4, Searches s3 c l y t b fp ctrl k0 k1 w s4 ∧ ∃ v s5, foundValue c t b w s4 = .ok (v, s5))
    ∧ (∃ (s : State) (a : _) (l : _), ∃ c r x y s3, Ready s a .cqlook l c r x y s3 ∧ ∃ t b fp ctrl k0 k1 w s4, Searches s3 c l y t b fp ctrl k0 k1 w s4 ∧ ∃ v s5, foundValue c t b w s4 = .ok (v, s5))
    ∧ (∃ (s : State) (a : _) (l : _), ∃ c r x y s3, Ready s a .cqins l c r x y s3 ∧ ∃ t b fp ctrl k0 k1 w s4, Searches s3 c l y t b fp ctrl k0 k1 w s4 ∧ w ≠ .absent ∧ ∃ v s5, healRegM c l.rd.toNat s4 = .ok (v, s5) ∧ forgeTag (tagOf v) = false ∧ t.obj.imm = false ∧ ∃ old s6, foundValue c t b w s5 = .ok (old, s6) ∧ ∃ s7, putValue c t b v w s6 = .ok ((), s7))
    ∧ (∃ (s : State) (a : _) (l : _), ∃ c r x y s3, Ready s a .cqins l c r x y s3 ∧ ∃ t b fp ctrl k0 k1 w s4, Searches s3 c l y t b fp ctrl k0 k1 w s4 ∧ w ≠ .absent ∧ ∃ v s5, healRegM c l.rd.toNat s4 = .ok (v, s5) ∧ forgeTag (tagOf v) = false ∧ t.obj.imm = false ∧ ∃ old s6, foundValue c t b w s5 = .ok (old, s6) ∧ ∃ s7, putValue c t b v w s6 = .ok ((), s7))
    ∧ (∃ (s : State) (a : _) (l : _), ∃ c r x y s3, Ready s a .cqins l c r x y s3 ∧ ∃ t b fp ctrl k0 k1 w s4, Searches s3 c l y t b fp ctrl k0 k1 w s4 ∧ w ≠ .absent ∧ ∃ v s5, healRegM c l.rd.toNat s4 = .ok (v, s5) ∧ forgeTag (tagOf v) = false ∧ t.obj.imm = false ∧ ∃ old s6, foundValue c t b w s5 = .ok (old, s6) ∧ ∃ s7, putValue c t b v w s6 = .ok ((), s7))
    ∧ (∃ (s : State) (a : _) (l : _) (i : _), ∃ c r x y s3, Ready s a .cqins l c r x y s3 ∧ ∃ t b fp ctrl k0 k1 w1 s4, Searches s3 c l y t b fp ctrl k0 k1 w1 s4 ∧ w1 = .absent ∧ ∃ v s5, healRegM c l.rd.toNat s4 = .ok (v, s5) ∧ forgeTag (tagOf v) = false ∧ t.obj.imm = false ∧ ((usedBit ctrl 0 = false ∧ i = 0 ∨ usedBit ctrl 0 = true ∧ usedBit ctrl 1 = false ∧ i = 1)) ∧ ∃ s6, insertBucket c t b fp i ctrl k0 k1 v s5 = .ok ((), s6))
    ∧ (∃ (s : State) (a : _) (l : _) (i : _), ∃ c r x y s3, Ready s a .cqins l c r x y s3 ∧ ∃ t b fp ctrl k0 k1 w1 s4, Searches s3 c l y t b fp ctrl k0 k1 w1 s4 ∧ w1 = .absent ∧ ∃ v s5, healRegM c l.rd.toNat s4 = .ok (v, s5) ∧ forgeTag (tagOf v) = false ∧ t.obj.imm = false ∧ ((usedBit ctrl 0 = false ∧ i = 0 ∨ usedBit ctrl 0 = true ∧ usedBit ctrl 1 = false ∧ i = 1)) ∧ ∃ s6, insertBucket c t b fp i ctrl k0 k1 v s5 = .ok ((), s6))
    ∧ (∃ (s : State) (a : _) (l : _), ∃ c r x y s3, Ready s a .cqins l c r x y s3 ∧ ∃ t b fp ctrl k0 k1 w1 s4, Searches s3 c l y t b fp ctrl k0 k1 w1 s4 ∧ w1 = .absent ∧ ∃ v s5, healRegM c l.rd.toNat s4 = .ok (v, s5) ∧ forgeTag (tagOf v) = false ∧ t.obj.imm = false ∧ usedBit ctrl 0 = true ∧ usedBit ctrl 1 = true ∧ ∃ s6, insertChain c t b ctrl k0 k1 v s5 = .ok ((), s6))
    ∧ (∃ (s : State) (a : _) (l : _), ∃ c r x y s3, Ready s a .cqdel l c r x y s3 ∧ ∃ t b fp ctrl k0 k1 w1 s4, Searches s3 c l y t b fp ctrl k0 k1 w1 s4 ∧ w1 = .absent ∧ t.obj.imm = false)
    ∧ (∃ (s : State) (a : _) (l : _) (i : _), ∃ c r x y s3, Ready s a .cqdel l c r x y s3 ∧ ∃ t b fp ctrl k0 k1 w1 s4, Searches s3 c l y t b fp ctrl k0 k1 w1 s4 ∧ w1 = (.bucket i) ∧ t.obj.imm = false ∧ ∃ old s5, foundValue c t b (.bucket i) s4 = .ok (old, s5) ∧ ∃ s6, removeBucket c t b i ctrl s5 = .ok ((), s6))
    ∧ (∃ (s : State) (a : _) (l : _) (i : _), ∃ c r x y s3, Ready s a .cqdel l c r x y s3 ∧ ∃ t b fp ctrl k0 k1 w1 s4, Searches s3 c l y t b fp ctrl k0 k1 w1 s4 ∧ w1 = (.bucket i) ∧ t.obj.imm = false ∧ ∃ old s5, foundValue c t b (.bucket i) s4 = .ok (old, s5) ∧ ∃ s6, removeBucket c t b i ctrl s5 = .ok ((), s6))
    ∧ (∃ (s : State) (a : _) (l : _) (j : _) (p : _), ∃ c r x y s3, Ready s a .cqdel l c r x y s3 ∧ ∃ t b fp ctrl k0 k1 w1 s4, Searches s3 c l y t b fp ctrl k0 k1 w1 s4 ∧ w1 = (.chain j p) ∧ t.obj.imm = false ∧ ∃ old s5, foundValue c t b (.chain j p) s4 = .ok (old, s5) ∧ ∃ s6, removeChain c t b j p ctrl s5 = .ok ((), s6)) := by
  refine ⟨?_, ?_, ?_, ?_, ?_, ?_, ?_, ?_, ?_, ?_, ?_, ?_, ?_⟩
  · have k : ∀ (s : State) (a : _) (l : _), (readyB s a .cqlook l fun c r x y s3 => searchesB s3 c l y fun t b fp ctrl k0 k1 w s4 => okB (foundValue c t b w s4) fun v s5 => true) = true → ∃ c r x y s3, Ready s a .cqlook l c r x y s3 ∧ ∃ t b fp ctrl k0 k1 w s4, Searches s3 c l y t b fp ctrl k0 k1 w s4 ∧ ∃ v s5, foundValue c t b w s4 = .ok (v, s5) := by
      intro s a l h
      refine ready_of h fun c r x y s3 h => ?_
      refine searches_of h fun t b fp ctrl k0 k1 w s4 h => ?_
      obtain ⟨v, s5, h, -⟩ := ok_of (P := fun _ _ => True) h fun _ _ _ => trivial
      exact ⟨v, s5, h⟩
    exact ⟨stc (fun k => k) [(1, mkWord 0x14 0x1000), (2, fixN 5), (3, fixN 9)] (table0 []), at0, lg 3 1 0 2, k _ _ _ (by decide +kernel)⟩
  · have k : ∀ (s : State) (a : _) (l : _), (readyB s a .cqlook l fun c r x y s3 => searchesB s3 c l y fun t b fp ctrl k0 k1 w s4 => okB (foundValue c t b w s4) fun v s5 => true) = true → ∃ c r x y s3, Ready s a .cqlook l c r x y s3 ∧ ∃ t b fp ctrl k0 k1 w s4, Searches s3 c l y t b fp ctrl k0 k1 w s4 ∧ ∃ v s5, foundValue c t b w s4 = .ok (v, s5) := by
      intro s a l h
      refine ready_of h fun c r x y s3 h => ?_
      refine searches_of h fun t b fp ctrl k0 k1 w s4 h => ?_
      obtain ⟨v, s5, h, -⟩ := ok_of (P := fun _ _ => True) h fun _ _ _ => trivial
      exact ⟨v, s5, h⟩
    exact ⟨stc (fun k => k) [(1, mkWord 0x14 0x1000), (2, fixN 5), (3, fixN 9)] (table0 [(0x1080, fixN 0x100002758), (0x1088, fixN 7), (0x1090, fixN 5), (0x1098, nil)]), at0, lg 3 1 0 2, k _ _ _ (by decide +kernel)⟩
  · have k : ∀ (s : State) (a : _) (l : _), (readyB s a .cqlook l fun c r x y s3 => searchesB s3 c l y fun t b fp ctrl k0 k1 w s4 => okB (foundValue c t b w s4) fun v s5 => true) = true → ∃ c r x y s3, Ready s a .cqlook l c r x y s3 ∧ ∃ t b fp ctrl k0 k1 w s4, Searches s3 c l y t b fp ctrl k0 k1 w s4 ∧ ∃ v s5, foundValue c t b w s4 = .ok (v, s5) := by
      intro s a l h
      refine ready_of h fun c r x y s3 h => ?_
      refine searches_of h fun t b fp ctrl k0 k1 w s4 h => ?_
      obtain ⟨v, s5, h, -⟩ := ok_of (P := fun _ _ => True) h fun _ _ _ => trivial
      exact ⟨v, s5, h⟩
    exact ⟨stc (fun k => k) [(1, mkWord 0x14 0x1000), (2, fixN 5), (3, fixN 9)] (chain0 (2 ^ 34) 5), at0, lg 3 1 0 2, k _ _ _ (by decide +kernel)⟩
  · have k : ∀ (s : State) (a : _) (l : _), (readyB s a .cqins l fun c r x y s3 => searchesB s3 c l y fun t b fp ctrl k0 k1 w s4 => (decide (w ≠ .absent)) && (okB (healRegM c l.rd.toNat s4) fun v s5 => (decide (forgeTag (tagOf v) = false)) && ((decide (t.obj.imm = false)) && (okB (foundValue c t b w s5) fun old s6 => okU (putValue c t b v w s6) fun s7 => true)))) = true → ∃ c r x y s3, Ready s a .cqins l c r x y s3 ∧ ∃ t b fp ctrl k0 k1 w s4, Searches s3 c l y t b fp ctrl k0 k1 w s4 ∧ w ≠ .absent ∧ ∃ v s5, healRegM c l.rd.toNat s4 = .ok (v, s5) ∧ forgeTag (tagOf v) = false ∧ t.obj.imm = false ∧ ∃ old s6, foundValue c t b w s5 = .ok (old, s6) ∧ ∃ s7, putValue c t b v w s6 = .ok ((), s7) := by
      intro s a l h
      refine ready_of h fun c r x y s3 h => ?_
      refine searches_of h fun t b fp ctrl k0 k1 w s4 h => ?_
      refine and_of h (fun h => of_decide_eq_true h) fun h => ?_
      refine ok_of h fun v s5 h => ?_
      refine and_of h (fun h => of_decide_eq_true h) fun h => ?_
      refine and_of h (fun h => of_decide_eq_true h) fun h => ?_
      refine ok_of h fun old s6 h => ?_
      obtain ⟨s7, h, -⟩ := okU_of (P := fun _ => True) h fun _ _ => trivial
      exact ⟨s7, h⟩
    exact ⟨stc (fun k => k) [(1, mkWord 0x14 0x1000), (2, fixN 5), (3, fixN 9)] (table0 [(0x1080, fixN 0x100002758), (0x1088, fixN 7), (0x1090, fixN 5), (0x1098, nil)]), at0, lg 3 1 0 2, k _ _ _ (by decide +kernel)⟩
  · have k : ∀ (s : State) (a : _) (l : _), (readyB s a .cqins l fun c r x y s3 => searchesB s3 c l y fun t b fp ctrl k0 k1 w s4 => (decide (w ≠ .absent)) && (okB (healRegM c l.rd.toNat s4) fun v s5 => (decide (forgeTag (tagOf v) = false)) && ((decide (t.obj.imm = false)) && (okB (foundValue c t b w s5) fun old s6 => okU (putValue c t b v w s6) fun s7 => true)))) = true → ∃ c r x y s3, Ready s a .cqins l c r x y s3 ∧ ∃ t b fp ctrl k0 k1 w s4, Searches s3 c l y t b fp ctrl k0 k1 w s4 ∧ w ≠ .absent ∧ ∃ v s5, healRegM c l.rd.toNat s4 = .ok (v, s5) ∧ forgeTag (tagOf v) = false ∧ t.obj.imm = false ∧ ∃ old s6, foundValue c t b w s5 = .ok (old, s6) ∧ ∃ s7, putValue c t b v w s6 = .ok ((), s7) := by
      intro s a l h
      refine ready_of h fun c r x y s3 h => ?_
      refine searches_of h fun t b fp ctrl k0 k1 w s4 h => ?_
      refine and_of h (fun h => of_decide_eq_true h) fun h => ?_
      refine ok_of h fun v s5 h => ?_
      refine and_of h (fun h => of_decide_eq_true h) fun h => ?_
      refine and_of h (fun h => of_decide_eq_true h) fun h => ?_
      refine ok_of h fun old s6 h => ?_
      obtain ⟨s7, h, -⟩ := okU_of (P := fun _ => True) h fun _ _ => trivial
      exact ⟨s7, h⟩
    exact ⟨stc (fun k => k) [(1, mkWord 0x14 0x1000), (2, fixN 5), (3, fixN 9)] (table0 [(0x1080, fixN 0x227580000), (0x10A0, fixN 5), (0x10A8, nil), (0x10B0, fixN 7)]), at0, lg 3 1 0 2, k _ _ _ (by decide +kernel)⟩
  · have k : ∀ (s : State) (a : _) (l : _), (readyB s a .cqins l fun c r x y s3 => searchesB s3 c l y fun t b fp ctrl k0 k1 w s4 => (decide (w ≠ .absent)) && (okB (healRegM c l.rd.toNat s4) fun v s5 => (decide (forgeTag (tagOf v) = false)) && ((decide (t.obj.imm = false)) && (okB (foundValue c t b w s5) fun old s6 => okU (putValue c t b v w s6) fun s7 => true)))) = true → ∃ c r x y s3, Ready s a .cqins l c r x y s3 ∧ ∃ t b fp ctrl k0 k1 w s4, Searches s3 c l y t b fp ctrl k0 k1 w s4 ∧ w ≠ .absent ∧ ∃ v s5, healRegM c l.rd.toNat s4 = .ok (v, s5) ∧ forgeTag (tagOf v) = false ∧ t.obj.imm = false ∧ ∃ old s6, foundValue c t b w s5 = .ok (old, s6) ∧ ∃ s7, putValue c t b v w s6 = .ok ((), s7) := by
      intro s a l h
      refine ready_of h fun c r x y s3 h => ?_
      refine searches_of h fun t b fp ctrl k0 k1 w s4 h => ?_
      refine and_of h (fun h => of_decide_eq_true h) fun h => ?_
      refine ok_of h fun v s5 h => ?_
      refine and_of h (fun h => of_decide_eq_true h) fun h => ?_
      refine and_of h (fun h => of_decide_eq_true h) fun h => ?_
      refine ok_of h fun old s6 h => ?_
      obtain ⟨s7, h, -⟩ := okU_of (P := fun _ => True) h fun _ _ => trivial
      exact ⟨s7, h⟩
    exact ⟨stc (fun k => k) [(1, mkWord 0x14 0x1000), (2, fixN 5), (3, fixN 9)] (chain0 (2 ^ 34) 5), at0, lg 3 1 0 2, k _ _ _ (by decide +kernel)⟩
  · have k : ∀ (s : State) (a : _) (l : _) (i : _), (readyB s a .cqins l fun c r x y s3 => searchesB s3 c l y fun t b fp ctrl k0 k1 w1 s4 => (decide (w1 = .absent)) && (okB (healRegM c l.rd.toNat s4) fun v s5 => (decide (forgeTag (tagOf v) = false)) && ((decide (t.obj.imm = false)) && ((decide ((usedBit ctrl 0 = false ∧ i = 0 ∨ usedBit ctrl 0 = true ∧ usedBit ctrl 1 = false ∧ i = 1))) && (okU (insertBucket c t b fp i ctrl k0 k1 v s5) fun s6 => true))))) = true → ∃ c r x y s3, Ready s a .cqins l c r x y s3 ∧ ∃ t b fp ctrl k0 k1 w1 s4, Searches s3 c l y t b fp ctrl k0 k1 w1 s4 ∧ w1 = .absent ∧ ∃ v s5, healRegM c l.rd.toNat s4 = .ok (v, s5) ∧ forgeTag (tagOf v) = false ∧ t.obj.imm = false ∧ ((usedBit ctrl 0 = false ∧ i = 0 ∨ usedBit ctrl 0 = true ∧ usedBit ctrl 1 = false ∧ i = 1)) ∧ ∃ s6, insertBucket c t b fp i ctrl k0 k1 v s5 = .ok ((), s6) := by
      intro s a l i h
      refine ready_of h fun c r x y s3 h => ?_
      refine searches_of h fun t b fp ctrl k0 k1 w1 s4 h => ?_
      refine and_of h (fun h => of_decide_eq_true h) fun h => ?_
      refine ok_of h fun v s5 h => ?_
      refine and_of h (fun h => of_decide_eq_true h) fun h => ?_
      refine and_of h (fun h => of_decide_eq_true h) fun h => ?_
      refine and_of h (fun h => of_decide_eq_true h) fun h => ?_
      obtain ⟨s6, h, -⟩ := okU_of (P := fun _ => True) h fun _ _ => trivial
      exact ⟨s6, h⟩
    exact ⟨stc (fun k => k) [(1, mkWord 0x14 0x1000), (2, fixN 5), (3, fixN 9)] (table0 []), at0, lg 3 1 0 2, 0, k _ _ _ _ (by decide +kernel)⟩
  · have k : ∀ (s : State) (a : _) (l : _) (i : _), (readyB s a .cqins l fun c r x y s3 => searchesB s3 c l y fun t b fp ctrl k0 k1 w1 s4 => (decide (w1 = .absent)) && (okB (healRegM c l.rd.toNat s4) fun v s5 => (decide (forgeTag (tagOf v) = false)) && ((decide (t.obj.imm = false)) && ((decide ((usedBit ctrl 0 = false ∧ i = 0 ∨ usedBit ctrl 0 = true ∧ usedBit ctrl 1 = false ∧ i = 1))) && (okU (insertBucket c t b fp i ctrl k0 k1 v s5) fun s6 => true))))) = true → ∃ c r x y s3, Ready s a .cqins l c r x y s3 ∧ ∃ t b fp ctrl k0 k1 w1 s4, Searches s3 c l y t b fp ctrl k0 k1 w1 s4 ∧ w1 = .absent ∧ ∃ v s5, healRegM c l.rd.toNat s4 = .ok (v, s5) ∧ forgeTag (tagOf v) = false ∧ t.obj.imm = false ∧ ((usedBit ctrl 0 = false ∧ i = 0 ∨ usedBit ctrl 0 = true ∧ usedBit ctrl 1 = false ∧ i = 1)) ∧ ∃ s6, insertBucket c t b fp i ctrl k0 k1 v s5 = .ok ((), s6) := by
      intro s a l i h
      refine ready_of h fun c r x y s3 h => ?_
      refine searches_of h fun t b fp ctrl k0 k1 w1 s4 h => ?_
      refine and_of h (fun h => of_decide_eq_true h) fun h => ?_
      refine ok_of h fun v s5 h => ?_
      refine and_of h (fun h => of_decide_eq_true h) fun h => ?_
      refine and_of h (fun h => of_decide_eq_true h) fun h => ?_
      refine and_of h (fun h => of_decide_eq_true h) fun h => ?_
      obtain ⟨s6, h, -⟩ := okU_of (P := fun _ => True) h fun _ _ => trivial
      exact ⟨s6, h⟩
    exact ⟨stc (fun k => k) [(1, mkWord 0x14 0x1000), (2, fixN 5), (3, fixN 9)] (table0 [(0x1080, fixN 0x100000000)]), at0, lg 3 1 0 2, 1, k _ _ _ _ (by decide +kernel)⟩
  · have k : ∀ (s : State) (a : _) (l : _), (readyB s a .cqins l fun c r x y s3 => searchesB s3 c l y fun t b fp ctrl k0 k1 w1 s4 => (decide (w1 = .absent)) && (okB (healRegM c l.rd.toNat s4) fun v s5 => (decide (forgeTag (tagOf v) = false)) && ((decide (t.obj.imm = false)) && ((decide (usedBit ctrl 0 = true)) && ((decide (usedBit ctrl 1 = true)) && (okU (insertChain c t b ctrl k0 k1 v s5) fun s6 => true)))))) = true → ∃ c r x y s3, Ready s a .cqins l c r x y s3 ∧ ∃ t b fp ctrl k0 k1 w1 s4, Searches s3 c l y t b fp ctrl k0 k1 w1 s4 ∧ w1 = .absent ∧ ∃ v s5, healRegM c l.rd.toNat s4 = .ok (v, s5) ∧ forgeTag (tagOf v) = false ∧ t.obj.imm = false ∧ usedBit ctrl 0 = true ∧ usedBit ctrl 1 = true ∧ ∃ s6, insertChain c t b ctrl k0 k1 v s5 = .ok ((), s6) := by
      intro s a l h
      refine ready_of h fun c r x y s3 h => ?_
      refine searches_of h fun t b fp ctrl k0 k1 w1 s4 h => ?_
      refine and_of h (fun h => of_decide_eq_true h) fun h => ?_
      refine ok_of h fun v s5 h => ?_
      refine and_of h (fun h => of_decide_eq_true h) fun h => ?_
      refine and_of h (fun h => of_decide_eq_true h) fun h => ?_
      refine and_of h (fun h => of_decide_eq_true h) fun h => ?_
      refine and_of h (fun h => of_decide_eq_true h) fun h => ?_
      obtain ⟨s6, h, -⟩ := okU_of (P := fun _ => True) h fun _ _ => trivial
      exact ⟨s6, h⟩
    exact ⟨stc (fun k => k) [(1, mkWord 0x14 0x1000), (2, fixN 5), (3, fixN 9)] (chain0 (3 * 2 ^ 32) 4), at0, lg 3 1 0 2, k _ _ _ (by decide +kernel)⟩
  · have k : ∀ (s : State) (a : _) (l : _), (readyB s a .cqdel l fun c r x y s3 => searchesB s3 c l y fun t b fp ctrl k0 k1 w1 s4 => (decide (w1 = .absent)) && (decide (t.obj.imm = false))) = true → ∃ c r x y s3, Ready s a .cqdel l c r x y s3 ∧ ∃ t b fp ctrl k0 k1 w1 s4, Searches s3 c l y t b fp ctrl k0 k1 w1 s4 ∧ w1 = .absent ∧ t.obj.imm = false := by
      intro s a l h
      refine ready_of h fun c r x y s3 h => ?_
      refine searches_of h fun t b fp ctrl k0 k1 w1 s4 h => ?_
      refine and_of h (fun h => of_decide_eq_true h) fun h => ?_
      exact of_decide_eq_true h
    exact ⟨stc (fun k => k) [(1, mkWord 0x14 0x1000), (2, fixN 5), (3, fixN 9)] (table0 []), at0, lg 3 1 0 2, k _ _ _ (by decide +kernel)⟩
  · have k : ∀ (s : State) (a : _) (l : _) (i : _), (readyB s a .cqdel l fun c r x y s3 => searchesB s3 c l y fun t b fp ctrl k0 k1 w1 s4 => (decide (w1 = (.bucket i))) && ((decide (t.obj.imm = false)) && (okB (foundValue c t b (.bucket i) s4) fun old s5 => okU (removeBucket c t b i ctrl s5) fun s6 => true))) = true → ∃ c r x y s3, Ready s a .cqdel l c r x y s3 ∧ ∃ t b fp ctrl k0 k1 w1 s4, Searches s3 c l y t b fp ctrl k0 k1 w1 s4 ∧ w1 = (.bucket i) ∧ t.obj.imm = false ∧ ∃ old s5, foundValue c t b (.bucket i) s4 = .ok (old, s5) ∧ ∃ s6, removeBucket c t b i ctrl s5 = .ok ((), s6) := by
      intro s a l i h
      refine ready_of h fun c r x y s3 h => ?_
      refine searches_of h fun t b fp ctrl k0 k1 w1 s4 h => ?_
      refine and_of h (fun h => of_decide_eq_true h) fun h => ?_
      refine and_of h (fun h => of_decide_eq_true h) fun h => ?_
      refine ok_of h fun old s5 h => ?_
      obtain ⟨s6, h, -⟩ := okU_of (P := fun _ => True) h fun _ _ => trivial
      exact ⟨s6, h⟩
    exact ⟨stc (fun k => k) [(1, mkWord 0x14 0x1000), (2, fixN 5), (3, fixN 9)] (table0 [(0x1080, fixN 0x100002758), (0x1088, fixN 7), (0x1090, fixN 5), (0x1098, nil)]), at0, lg 3 1 0 2, 0, k _ _ _ _ (by decide +kernel)⟩
  · have k : ∀ (s : State) (a : _) (l : _) (i : _), (readyB s a .cqdel l fun c r x y s3 => searchesB s3 c l y fun t b fp ctrl k0 k1 w1 s4 => (decide (w1 = (.bucket i))) && ((decide (t.obj.imm = false)) && (okB (foundValue c t b (.bucket i) s4) fun old s5 => okU (removeBucket c t b i ctrl s5) fun s6 => true))) = true → ∃ c r x y s3, Ready s a .cqdel l c r x y s3 ∧ ∃ t b fp ctrl k0 k1 w1 s4, Searches s3 c l y t b fp ctrl k0 k1 w1 s4 ∧ w1 = (.bucket i) ∧ t.obj.imm = false ∧ ∃ old s5, foundValue c t b (.bucket i) s4 = .ok (old, s5) ∧ ∃ s6, removeBucket c t b i ctrl s5 = .ok ((), s6) := by
      intro s a l i h
      refine ready_of h fun c r x y s3 h => ?_
      refine searches_of h fun t b fp ctrl k0 k1 w1 s4 h => ?_
      refine and_of h (fun h => of_decide_eq_true h) fun h => ?_
      refine and_of h (fun h => of_decide_eq_true h) fun h => ?_
      refine ok_of h fun old s5 h => ?_
      obtain ⟨s6, h, -⟩ := okU_of (P := fun _ => True) h fun _ _ => trivial
      exact ⟨s6, h⟩
    exact ⟨stc (fun k => k) [(1, mkWord 0x14 0x1000), (2, fixN 5), (3, fixN 9)] (table0 [(0x1080, fixN 0x227580000), (0x10A0, fixN 5), (0x10A8, nil), (0x10B0, fixN 7)]), at0, lg 3 1 0 2, 1, k _ _ _ _ (by decide +kernel)⟩
  · have k : ∀ (s : State) (a : _) (l : _) (j : _) (p : _), (readyB s a .cqdel l fun c r x y s3 => searchesB s3 c l y fun t b fp ctrl k0 k1 w1 s4 => (decide (w1 = (.chain j p))) && ((decide (t.obj.imm = false)) && (okB (foundValue c t b (.chain j p) s4) fun old s5 => okU (removeChain c t b j p ctrl s5) fun s6 => true))) = true → ∃ c r x y s3, Ready s a .cqdel l c r x y s3 ∧ ∃ t b fp ctrl k0 k1 w1 s4, Searches s3 c l y t b fp ctrl k0 k1 w1 s4 ∧ w1 = (.chain j p) ∧ t.obj.imm = false ∧ ∃ old s5, foundValue c t b (.chain j p) s4 = .ok (old, s5) ∧ ∃ s6, removeChain c t b j p ctrl s5 = .ok ((), s6) := by
      intro s a l j p h
      refine ready_of h fun c r x y s3 h => ?_
      refine searches_of h fun t b fp ctrl k0 k1 w1 s4 h => ?_
      refine and_of h (fun h => of_decide_eq_true h) fun h => ?_
      refine and_of h (fun h => of_decide_eq_true h) fun h => ?_
      refine ok_of h fun old s5 h => ?_
      obtain ⟨s6, h, -⟩ := okU_of (P := fun _ => True) h fun _ _ => trivial
      exact ⟨s6, h⟩
    exact ⟨stc (fun k => k) [(1, mkWord 0x14 0x1000), (2, fixN 5), (3, fixN 9)] (chain0 (2 ^ 34) 5), at0, lg 3 1 0 2, 0, none, k _ _ _ _ _ (by decide +kernel)⟩

/-- The hypotheses of Obligations.PostsAndStartsComplete are met. -/
theorem witness_PostsAndStartsComplete :
    (∃ (s : State) (a : _) (l : _), ∃ c r x y s3, Ready s a .crgpost l c r x y s3 ∧ tagOf y = 0x14 ∧ ∃ w s4, healB c l y s3 = .ok (w, s4) ∧ ∃ o s5, openObject c w 10 s4 = .ok (o, s5) ∧ ∃ h, o.hdr = some h ∧ tagOf h = 0x20 ∧ hdrClass h = 8 ∧ ∃ msg s6, healRegM c l.ra.toNat s5 = .ok (msg, s6) ∧ ∃ n s7, postFromCore c o msg s6 = .ok (n, s7))
    ∧ (∃ (s : State) (a : _) (l : _) (n : _), ∃ c r x y s3, Ready s a .trvgo l c r x y s3 ∧ y = fixN n ∧ n < 64 ∧ ∃ s4, s4 = drainStores s3 c ∧ ((chState s4 n = chDisabled ∨ s4.flag .trvCtl n 62 = false)) ∧ Drains s3 c)
    ∧ (∃ (s : State) (a : _) (l : _) (n : _), ∃ c r x y s3, Ready s a .trvgo l c r x y s3 ∧ y = fixN n ∧ n < 64 ∧ ∃ s4, s4 = drainStores s3 c ∧ ((chState s4 n = chDisabled ∨ s4.flag .trvCtl n 62 = false)) ∧ Drains s3 c)
    ∧ (∃ (s : State) (a : _) (l : _) (n : _), ∃ c r x y s3, Ready s a .trvgo l c r x y s3 ∧ y = fixN n ∧ n < 64 ∧ ∃ s4, s4 = drainStores s3 c ∧ s4.flag .trvCtl n 62 = true ∧ ((chState s4 n = chIdle ∨ chState s4 n = chDone ∨ chState s4 n = chAborted)) ∧ Drains s3 c)
    ∧ (∃ (s : State) (a : _) (l : _) (n : _), ∃ c r x y s3, Ready s a .trvgo l c r x y s3 ∧ y = fixN n ∧ n < 64 ∧ ∃ s4, s4 = drainStores s3 c ∧ s4.flag .trvCtl n 62 = true ∧ ((chState s4 n = chIdle ∨ chState s4 n = chDone ∨ chState s4 n = chAborted)) ∧ Drains s3 c)
    ∧ (∃ (s : State) (a : _) (l : _) (n : _), ∃ c r x y s3, Ready s a .trvgo l c r x y s3 ∧ y = fixN n ∧ n < 64 ∧ ∃ s4, s4 = drainStores s3 c ∧ s4.flag .trvCtl n 62 = true ∧ ((chState s4 n = chIdle ∨ chState s4 n = chDone ∨ chState s4 n = chAborted)) ∧ Drains s3 c)
    ∧ (∃ (s : State) (a : _) (l : _) (n : _), ∃ c r x y s3, Ready s a .trvgo l c r x y s3 ∧ y = fixN n ∧ n < 64 ∧ ∃ s4, s4 = drainStores s3 c ∧ s4.flag .trvCtl n 62 = true ∧ ((chState s4 n = chRunning ∨ chState s4 n = chWaiting ∨ chState s4 n = chAborting)) ∧ Drains s3 c)
    ∧ (∃ (s : State) (a : _) (l : _) (n : _), ∃ c r x y s3, Ready s a .trvgo l c r x y s3 ∧ y = fixN n ∧ n < 64 ∧ ∃ s4, s4 = drainStores s3 c ∧ s4.flag .trvCtl n 62 = true ∧ ((chState s4 n = chRunning ∨ chState s4 n = chWaiting ∨ chState s4 n = chAborting)) ∧ Drains s3 c)
    ∧ (∃ (s : State) (a : _) (l : _) (n : _), ∃ c r x y s3, Ready s a .trvgo l c r x y s3 ∧ y = fixN n ∧ n < 64 ∧ ∃ s4, s4 = drainStores s3 c ∧ s4.flag .trvCtl n 62 = true ∧ ((chState s4 n = chRunning ∨ chState s4 n = chWaiting ∨ chState s4 n = chAborting)) ∧ Drains s3 c) := by
  refine ⟨?_, ?_, ?_, ?_, ?_, ?_, ?_, ?_, ?_⟩
  · have k : ∀ (s : State) (a : _) (l : _), (readyB s a .crgpost l fun c r x y s3 => (decide (tagOf y = 0x14)) && (okB (healB c l y s3) fun w s4 => okB (openObject c w 10 s4) fun o s5 => someB (o.hdr) fun h => (decide (tagOf h = 0x20)) && ((decide (hdrClass h = 8)) && (okB (healRegM c l.ra.toNat s5) fun msg s6 => okB (postFromCore c o msg s6) fun n s7 => true)))) = true → ∃ c r x y s3, Ready s a .crgpost l c r x y s3 ∧ tagOf y = 0x14 ∧ ∃ w s4, healB c l y s3 = .ok (w, s4) ∧ ∃ o s5, openObject c w 10 s4 = .ok (o, s5) ∧ ∃ h, o.hdr = some h ∧ tagOf h = 0x20 ∧ hdrClass h = 8 ∧ ∃ msg s6, healRegM c l.ra.toNat s5 = .ok (msg, s6) ∧ ∃ n s7, postFromCore c o msg s6 = .ok (n, s7) := by
      intro s a l h
      refine ready_of h fun c r x y s3 h => ?_
      refine and_of h (fun h => of_decide_eq_true h) fun h => ?_
      refine ok_of h fun w s4 h => ?_
      refine ok_of h fun o s5 h => ?_
      refine some_of h fun h h => ?_
      refine and_of h (fun h => of_decide_eq_true h) fun h => ?_
      refine and_of h (fun h => of_decide_eq_true h) fun h => ?_
      refine ok_of h fun msg s6 h => ?_
      obtain ⟨n, s7, h, -⟩ := ok_of (P := fun _ _ => True) h fun _ _ _ => trivial
      exact ⟨n, s7, h⟩
    exact ⟨stc (fun k => k) [(1, fixN 7), (2, mkWord 0x14 0x1000)] ([(0x1000, mkHeader 0x20 8 6 0), (0x1008, fixN 1)]), at0, lg 3 1 0 2, k _ _ _ (by decide +kernel)⟩
  · have k : ∀ (s : State) (a : _) (l : _) (n : _), (readyB s a .trvgo l fun c r x y s3 => (decide (y = fixN n)) && ((decide (n < 64)) && (eqB (drainStores s3 c) fun s4 => (decide ((chState s4 n = chDisabled ∨ s4.flag .trvCtl n 62 = false))) && (!((s3.core c).sbuf.any (fun e => writeWaits s3 c e.pa e.bytes.length)))))) = true → ∃ c r x y s3, Ready s a .trvgo l c r x y s3 ∧ y = fixN n ∧ n < 64 ∧ ∃ s4, s4 = drainStores s3 c ∧ ((chState s4 n = chDisabled ∨ s4.flag .trvCtl n 62 = false)) ∧ Drains s3 c := by
      intro s a l n h
      refine ready_of h fun c r x y s3 h => ?_
      refine and_of h (fun h => of_decide_eq_true h) fun h => ?_
      refine and_of h (fun h => of_decide_eq_true h) fun h => ?_
      refine eq_of h fun s4 h => ?_
      refine and_of h (fun h => of_decide_eq_true h) fun h => ?_
      exact drains_of h
    exact ⟨((st [(2, fixN 63)] []).setF .trvCtl 63 62 62 1).setF .trvStat 63 63 61 0, at0, lg 3 0 0 2, 63, k _ _ _ _ (by decide +kernel)⟩
  · have k : ∀ (s : State) (a : _) (l : _) (n : _), (readyB s a .trvgo l fun c r x y s3 => (decide (y = fixN n)) && ((decide (n < 64)) && (eqB (drainStores s3 c) fun s4 => (decide ((chState s4 n = chDisabled ∨ s4.flag .trvCtl n 62 = false))) && (!((s3.core c).sbuf.any (fun e => writeWaits s3 c e.pa e.bytes.length)))))) = true → ∃ c r x y s3, Ready s a .trvgo l c r x y s3 ∧ y = fixN n ∧ n < 64 ∧ ∃ s4, s4 = drainStores s3 c ∧ ((chState s4 n = chDisabled ∨ s4.flag .trvCtl n 62 = false)) ∧ Drains s3 c := by
      intro s a l n h
      refine ready_of h fun c r x y s3 h => ?_
      refine and_of h (fun h => of_decide_eq_true h) fun h => ?_
      refine and_of h (fun h => of_decide_eq_true h) fun h => ?_
      refine eq_of h fun s4 h => ?_
      refine and_of h (fun h => of_decide_eq_true h) fun h => ?_
      exact drains_of h
    exact ⟨((st [(2, fixN 63)] []).setF .trvCtl 63 62 62 0).setF .trvStat 63 63 61 1, at0, lg 3 0 0 2, 63, k _ _ _ _ (by decide +kernel)⟩
  · have k : ∀ (s : State) (a : _) (l : _) (n : _), (readyB s a .trvgo l fun c r x y s3 => (decide (y = fixN n)) && ((decide (n < 64)) && (eqB (drainStores s3 c) fun s4 => (decide (s4.flag .trvCtl n 62 = true)) && ((decide ((chState s4 n = chIdle ∨ chState s4 n = chDone ∨ chState s4 n = chAborted))) && (!((s3.core c).sbuf.any (fun e => writeWaits s3 c e.pa e.bytes.length))))))) = true → ∃ c r x y s3, Ready s a .trvgo l c r x y s3 ∧ y = fixN n ∧ n < 64 ∧ ∃ s4, s4 = drainStores s3 c ∧ s4.flag .trvCtl n 62 = true ∧ ((chState s4 n = chIdle ∨ chState s4 n = chDone ∨ chState s4 n = chAborted)) ∧ Drains s3 c := by
      intro s a l n h
      refine ready_of h fun c r x y s3 h => ?_
      refine and_of h (fun h => of_decide_eq_true h) fun h => ?_
      refine and_of h (fun h => of_decide_eq_true h) fun h => ?_
      refine eq_of h fun s4 h => ?_
      refine and_of h (fun h => of_decide_eq_true h) fun h => ?_
      refine and_of h (fun h => of_decide_eq_true h) fun h => ?_
      exact drains_of h
    exact ⟨((st [(2, fixN 63)] []).setF .trvCtl 63 62 62 1).setF .trvStat 63 63 61 1, at0, lg 3 0 0 2, 63, k _ _ _ _ (by decide +kernel)⟩
  · have k : ∀ (s : State) (a : _) (l : _) (n : _), (readyB s a .trvgo l fun c r x y s3 => (decide (y = fixN n)) && ((decide (n < 64)) && (eqB (drainStores s3 c) fun s4 => (decide (s4.flag .trvCtl n 62 = true)) && ((decide ((chState s4 n = chIdle ∨ chState s4 n = chDone ∨ chState s4 n = chAborted))) && (!((s3.core c).sbuf.any (fun e => writeWaits s3 c e.pa e.bytes.length))))))) = true → ∃ c r x y s3, Ready s a .trvgo l c r x y s3 ∧ y = fixN n ∧ n < 64 ∧ ∃ s4, s4 = drainStores s3 c ∧ s4.flag .trvCtl n 62 = true ∧ ((chState s4 n = chIdle ∨ chState s4 n = chDone ∨ chState s4 n = chAborted)) ∧ Drains s3 c := by
      intro s a l n h
      refine ready_of h fun c r x y s3 h => ?_
      refine and_of h (fun h => of_decide_eq_true h) fun h => ?_
      refine and_of h (fun h => of_decide_eq_true h) fun h => ?_
      refine eq_of h fun s4 h => ?_
      refine and_of h (fun h => of_decide_eq_true h) fun h => ?_
      refine and_of h (fun h => of_decide_eq_true h) fun h => ?_
      exact drains_of h
    exact ⟨((st [(2, fixN 63)] []).setF .trvCtl 63 62 62 1).setF .trvStat 63 63 61 6, at0, lg 3 0 0 2, 63, k _ _ _ _ (by decide +kernel)⟩
  · have k : ∀ (s : State) (a : _) (l : _) (n : _), (readyB s a .trvgo l fun c r x y s3 => (decide (y = fixN n)) && ((decide (n < 64)) && (eqB (drainStores s3 c) fun s4 => (decide (s4.flag .trvCtl n 62 = true)) && ((decide ((chState s4 n = chIdle ∨ chState s4 n = chDone ∨ chState s4 n = chAborted))) && (!((s3.core c).sbuf.any (fun e => writeWaits s3 c e.pa e.bytes.length))))))) = true → ∃ c r x y s3, Ready s a .trvgo l c r x y s3 ∧ y = fixN n ∧ n < 64 ∧ ∃ s4, s4 = drainStores s3 c ∧ s4.flag .trvCtl n 62 = true ∧ ((chState s4 n = chIdle ∨ chState s4 n = chDone ∨ chState s4 n = chAborted)) ∧ Drains s3 c := by
      intro s a l n h
      refine ready_of h fun c r x y s3 h => ?_
      refine and_of h (fun h => of_decide_eq_true h) fun h => ?_
      refine and_of h (fun h => of_decide_eq_true h) fun h => ?_
      refine eq_of h fun s4 h => ?_
      refine and_of h (fun h => of_decide_eq_true h) fun h => ?_
      refine and_of h (fun h => of_decide_eq_true h) fun h => ?_
      exact drains_of h
    exact ⟨((st [(2, fixN 63)] []).setF .trvCtl 63 62 62 1).setF .trvStat 63 63 61 5, at0, lg 3 0 0 2, 63, k _ _ _ _ (by decide +kernel)⟩
  · have k : ∀ (s : State) (a : _) (l : _) (n : _), (readyB s a .trvgo l fun c r x y s3 => (decide (y = fixN n)) && ((decide (n < 64)) && (eqB (drainStores s3 c) fun s4 => (decide (s4.flag .trvCtl n 62 = true)) && ((decide ((chState s4 n = chRunning ∨ chState s4 n = chWaiting ∨ chState s4 n = chAborting))) && (!((s3.core c).sbuf.any (fun e => writeWaits s3 c e.pa e.bytes.length))))))) = true → ∃ c r x y s3, Ready s a .trvgo l c r x y s3 ∧ y = fixN n ∧ n < 64 ∧ ∃ s4, s4 = drainStores s3 c ∧ s4.flag .trvCtl n 62 = true ∧ ((chState s4 n = chRunning ∨ chState s4 n = chWaiting ∨ chState s4 n = chAborting)) ∧ Drains s3 c := by
      intro s a l n h
      refine ready_of h fun c r x y s3 h => ?_
      refine and_of h (fun h => of_decide_eq_true h) fun h => ?_
      refine and_of h (fun h => of_decide_eq_true h) fun h => ?_
      refine eq_of h fun s4 h => ?_
      refine and_of h (fun h => of_decide_eq_true h) fun h => ?_
      refine and_of h (fun h => of_decide_eq_true h) fun h => ?_
      exact drains_of h
    exact ⟨((st [(2, fixN 63)] []).setF .trvCtl 63 62 62 1).setF .trvStat 63 63 61 2, at0, lg 3 0 0 2, 63, k _ _ _ _ (by decide +kernel)⟩
  · have k : ∀ (s : State) (a : _) (l : _) (n : _), (readyB s a .trvgo l fun c r x y s3 => (decide (y = fixN n)) && ((decide (n < 64)) && (eqB (drainStores s3 c) fun s4 => (decide (s4.flag .trvCtl n 62 = true)) && ((decide ((chState s4 n = chRunning ∨ chState s4 n = chWaiting ∨ chState s4 n = chAborting))) && (!((s3.core c).sbuf.any (fun e => writeWaits s3 c e.pa e.bytes.length))))))) = true → ∃ c r x y s3, Ready s a .trvgo l c r x y s3 ∧ y = fixN n ∧ n < 64 ∧ ∃ s4, s4 = drainStores s3 c ∧ s4.flag .trvCtl n 62 = true ∧ ((chState s4 n = chRunning ∨ chState s4 n = chWaiting ∨ chState s4 n = chAborting)) ∧ Drains s3 c := by
      intro s a l n h
      refine ready_of h fun c r x y s3 h => ?_
      refine and_of h (fun h => of_decide_eq_true h) fun h => ?_
      refine and_of h (fun h => of_decide_eq_true h) fun h => ?_
      refine eq_of h fun s4 h => ?_
      refine and_of h (fun h => of_decide_eq_true h) fun h => ?_
      refine and_of h (fun h => of_decide_eq_true h) fun h => ?_
      exact drains_of h
    exact ⟨((st [(2, fixN 63)] []).setF .trvCtl 63 62 62 1).setF .trvStat 63 63 61 3, at0, lg 3 0 0 2, 63, k _ _ _ _ (by decide +kernel)⟩
  · have k : ∀ (s : State) (a : _) (l : _) (n : _), (readyB s a .trvgo l fun c r x y s3 => (decide (y = fixN n)) && ((decide (n < 64)) && (eqB (drainStores s3 c) fun s4 => (decide (s4.flag .trvCtl n 62 = true)) && ((decide ((chState s4 n = chRunning ∨ chState s4 n = chWaiting ∨ chState s4 n = chAborting))) && (!((s3.core c).sbuf.any (fun e => writeWaits s3 c e.pa e.bytes.length))))))) = true → ∃ c r x y s3, Ready s a .trvgo l c r x y s3 ∧ y = fixN n ∧ n < 64 ∧ ∃ s4, s4 = drainStores s3 c ∧ s4.flag .trvCtl n 62 = true ∧ ((chState s4 n = chRunning ∨ chState s4 n = chWaiting ∨ chState s4 n = chAborting)) ∧ Drains s3 c := by
      intro s a l n h
      refine ready_of h fun c r x y s3 h => ?_
      refine and_of h (fun h => of_decide_eq_true h) fun h => ?_
      refine and_of h (fun h => of_decide_eq_true h) fun h => ?_
      refine eq_of h fun s4 h => ?_
      refine and_of h (fun h => of_decide_eq_true h) fun h => ?_
      refine and_of h (fun h => of_decide_eq_true h) fun h => ?_
      exact drains_of h
    exact ⟨((st [(2, fixN 63)] []).setF .trvCtl 63 62 62 1).setF .trvStat 63 63 61 4, at0, lg 3 0 0 2, 63, k _ _ _ _ (by decide +kernel)⟩

/-- The hypotheses of Obligations.PrefixesComplete are met. -/
theorem witness_PrefixesComplete :
    (∃ (s : State) (a : _) (p : _) (code : _) (op : _) (l : _), ∃ c s1, Prefixed s a p code op l c s1 ∧ ((p.rep = true → repeatOk p op l = true)) ∧ pfxHolds (s1.core c) p l = false)
    ∧ (∃ (s : State) (a : _) (p : _) (code : _) (op : _) (l : _), ∃ c s1, Prefixed s a p code op l c s1 ∧ p.rep = false ∧ pfxHolds (s1.core c) p l = true ∧ ∃ fl s2, bodyOf a op l (4 * (1 + l.parcels)) c s1 = .ok (fl, s2))
    ∧ (∃ (s : State) (a : _) (p : _) (code : _) (op : _) (l : _) (n : _), ∃ c s1, Prefixed s a p code op l c s1 ∧ p.rep = true ∧ repeatOk p op l = true ∧ pfxHolds (s1.core c) p l = true ∧ (s1.core c).getReg p.rc.toNat = fixN n ∧ n < 2 ^ 32 ∧ ∃ fl s2, iterate p l (4 * (1 + l.parcels)) (bodyOf a op l (4 * (1 + l.parcels))) c n true s1 = (fl, s2))
    ∧ (∃ (s : State) (a : _) (p : _) (code : _) (op : _) (l : _) (n : _), ∃ c s1, Prefixed s a p code op l c s1 ∧ p.rep = true ∧ repeatOk p op l = true ∧ pfxHolds (s1.core c) p l = true ∧ (s1.core c).getReg p.rc.toNat = fixN n ∧ n < 2 ^ 32 ∧ ∃ fl s2, iterate p l (4 * (1 + l.parcels)) (bodyOf a op l (4 * (1 + l.parcels))) c n true s1 = (fl, s2)) := by
  refine ⟨?_, ?_, ?_, ?_⟩
  · have k : ∀ (s : State) (a : _) (p : _) (code : _) (op : _) (l : _), (prefixedB s a p code op l fun c s1 => (decide ((p.rep = true → repeatOk p op l = true))) && (decide (pfxHolds (s1.core c) p l = false))) = true → ∃ c s1, Prefixed s a p code op l c s1 ∧ ((p.rep = true → repeatOk p op l = true)) ∧ pfxHolds (s1.core c) p l = false := by
      intro s a p code op l h
      refine prefixed_of h fun c s1 h => ?_
      refine and_of h (fun h => of_decide_eq_true h) fun h => ?_
      exact of_decide_eq_true h
    exact ⟨stc (fun k => k) [(1, fixN 7), (2, fixN 5)] ([]), at0, ⟨0x105, false, 0, 0⟩, 0x10, Opcode.add, lg 3 1 0 2, k _ _ _ _ _ _ (by decide +kernel)⟩
  · have k : ∀ (s : State) (a : _) (p : _) (code : _) (op : _) (l : _), (prefixedB s a p code op l fun c s1 => (decide (p.rep = false)) && ((decide (pfxHolds (s1.core c) p l = true)) && (okB (bodyOf a op l (4 * (1 + l.parcels)) c s1) fun fl s2 => true))) = true → ∃ c s1, Prefixed s a p code op l c s1 ∧ p.rep = false ∧ pfxHolds (s1.core c) p l = true ∧ ∃ fl s2, bodyOf a op l (4 * (1 + l.parcels)) c s1 = .ok (fl, s2) := by
      intro s a p code op l h
      refine prefixed_of h fun c s1 h => ?_
      refine and_of h (fun h => of_decide_eq_true h) fun h => ?_
      refine and_of h (fun h => of_decide_eq_true h) fun h => ?_
      obtain ⟨fl, s2, h, -⟩ := ok_of (P := fun _ _ => True) h fun _ _ _ => trivial
      exact ⟨fl, s2, h⟩
    exact ⟨stc (fun k => k.setBit 5 true) [(1, fixN 7), (2, fixN 5)] ([]), at0, ⟨0x105, false, 0, 0⟩, 0x10, Opcode.add, lg 3 1 0 2, k _ _ _ _ _ _ (by decide +kernel)⟩
  · have k : ∀ (s : State) (a : _) (p : _) (code : _) (op : _) (l : _) (n : _), (prefixedB s a p code op l fun c s1 => (decide (p.rep = true)) && ((decide (repeatOk p op l = true)) && ((decide (pfxHolds (s1.core c) p l = true)) && ((decide ((s1.core c).getReg p.rc.toNat = fixN n)) && ((decide (n < 2 ^ 32)) && (pairB (iterate p l (4 * (1 + l.parcels)) (bodyOf a op l (4 * (1 + l.parcels))) c n true s1) fun fl s2 => true)))))) = true → ∃ c s1, Prefixed s a p code op l c s1 ∧ p.rep = true ∧ repeatOk p op l = true ∧ pfxHolds (s1.core c) p l = true ∧ (s1.core c).getReg p.rc.toNat = fixN n ∧ n < 2 ^ 32 ∧ ∃ fl s2, iterate p l (4 * (1 + l.parcels)) (bodyOf a op l (4 * (1 + l.parcels))) c n true s1 = (fl, s2) := by
      intro s a p code op l n h
      refine prefixed_of h fun c s1 h => ?_
      refine and_of h (fun h => of_decide_eq_true h) fun h => ?_
      refine and_of h (fun h => of_decide_eq_true h) fun h => ?_
      refine and_of h (fun h => of_decide_eq_true h) fun h => ?_
      refine and_of h (fun h => of_decide_eq_true h) fun h => ?_
      refine and_of h (fun h => of_decide_eq_true h) fun h => ?_
      obtain ⟨fl, s2, h, -⟩ := pair_of (P := fun _ _ => True) h fun _ _ _ => trivial
      exact ⟨fl, s2, h⟩
    exact ⟨stc (fun k => k) [(1, fixN 7), (2, fixN 5), (9, fixN 0)] ([]), at0, ⟨0, true, 9, 0⟩, 0x10, Opcode.add, lg 3 1 0 2, 0, k _ _ _ _ _ _ _ (by decide +kernel)⟩
  · have k : ∀ (s : State) (a : _) (p : _) (code : _) (op : _) (l : _) (n : _), (prefixedB s a p code op l fun c s1 => (decide (p.rep = true)) && ((decide (repeatOk p op l = true)) && ((decide (pfxHolds (s1.core c) p l = true)) && ((decide ((s1.core c).getReg p.rc.toNat = fixN n)) && ((decide (n < 2 ^ 32)) && (pairB (iterate p l (4 * (1 + l.parcels)) (bodyOf a op l (4 * (1 + l.parcels))) c n true s1) fun fl s2 => true)))))) = true → ∃ c s1, Prefixed s a p code op l c s1 ∧ p.rep = true ∧ repeatOk p op l = true ∧ pfxHolds (s1.core c) p l = true ∧ (s1.core c).getReg p.rc.toNat = fixN n ∧ n < 2 ^ 32 ∧ ∃ fl s2, iterate p l (4 * (1 + l.parcels)) (bodyOf a op l (4 * (1 + l.parcels))) c n true s1 = (fl, s2) := by
      intro s a p code op l n h
      refine prefixed_of h fun c s1 h => ?_
      refine and_of h (fun h => of_decide_eq_true h) fun h => ?_
      refine and_of h (fun h => of_decide_eq_true h) fun h => ?_
      refine and_of h (fun h => of_decide_eq_true h) fun h => ?_
      refine and_of h (fun h => of_decide_eq_true h) fun h => ?_
      refine and_of h (fun h => of_decide_eq_true h) fun h => ?_
      obtain ⟨fl, s2, h, -⟩ := pair_of (P := fun _ _ => True) h fun _ _ _ => trivial
      exact ⟨fl, s2, h⟩
    exact ⟨stc (fun k => k) [(1, fixN 7), (2, fixN 5), (9, fixN 2)] ([]), at0, ⟨0, true, 9, 0⟩, 0x10, Opcode.add, lg 3 1 0 2, 2, k _ _ _ _ _ _ _ (by decide +kernel)⟩

/-- The hypotheses of Obligations.RepeatCountsDown are met. -/
theorem witness_RepeatCountsDown :
    ∃ (p : Pfx) (l : Long) (f : State → State) (P : State → Prop) (c : CoreId) (n : Nat) (s : State),
      p.rc ≠ 24 ∧ n < 2 ^ 32 ∧ P s ∧ (s.core c).getReg p.rc.toNat = fixN n
      ∧ (∀ x m, P x → m < n → (x.core c).getReg p.rc.toNat = fixN (m + 1) → ((f x).core c).getReg p.rc.toNat = fixN (m + 1)
        ∧ P ((f x).modCore c (fun k => k.setReg p.rc.toNat (fixN m))))
      ∧ (∀ x, P x → pfxHolds (x.core c) p l = true ∧ (x.core c).mode = .running ∧ takesEvent x c = false) := by
  refine ⟨⟨0, true, 9, 0⟩, lg 3 1 0 2, id, fun x => x = st [(9, fixN 1)] [] ∨ x = st [(9, fixN 0)] [], 0, 1, st [(9, fixN 1)] [],
    by decide, by decide, Or.inl rfl, by decide +kernel, ?_, ?_⟩
  · intro x m hx hm h
    obtain rfl : m = 0 := by omega
    refine ⟨h, ?_⟩
    obtain rfl | rfl := hx
    · exact Or.inr (by decide +kernel)
    · exact Or.inr (by decide +kernel)
  · rintro x (rfl | rfl)
    · decide +kernel
    · decide +kernel

/-- The hypotheses of part 1 of Obligations.PairsComplete are met. -/
theorem witness_PairsComplete :
    (∃ (s : State) (a : _) (p : _), ∃ c, Runs s a c ∧ ∃ s1, fetchM c (p.bytes / 4) 5 p.word (s.modCore c Core.landAll) = .ok ((), s1) ∧ pairDecode p = none ∧ (s1.core c).onlyB = false ∧ ∃ s2, (if condHolds (s1.core c) p.condA then shortOp c p.a s1 = .ok ((), s2) else s2 = s1) ∧ ∃ s3, (if condHolds (s1.core c) p.condB then shortOp c p.b s2 = .ok ((), s3) else s3 = s2))
    ∧ (∃ (s : State) (a : _) (p : _), ∃ c, Runs s a c ∧ ∃ s1, fetchM c (p.bytes / 4) 5 p.word (s.modCore c Core.landAll) = .ok ((), s1) ∧ pairDecode p = none ∧ (s1.core c).onlyB = false ∧ ∃ s2, (if condHolds (s1.core c) p.condA then shortOp c p.a s1 = .ok ((), s2) else s2 = s1) ∧ ∃ s3, (if condHolds (s1.core c) p.condB then shortOp c p.b s2 = .ok ((), s3) else s3 = s2))
    ∧ (∃ (s : State) (a : _) (p : _), ∃ c, Runs s a c ∧ ∃ s1, fetchM c (p.bytes / 4) 5 p.word (s.modCore c Core.landAll) = .ok ((), s1) ∧ pairDecode p = none ∧ (s1.core c).onlyB = false ∧ ∃ s2, (if condHolds (s1.core c) p.condA then shortOp c p.a s1 = .ok ((), s2) else s2 = s1) ∧ ∃ s3, (if condHolds (s1.core c) p.condB then shortOp c p.b s2 = .ok ((), s3) else s3 = s2))
    ∧ (∃ (s : State) (a : _) (p : _), ∃ c, Runs s a c ∧ ∃ s1, fetchM c (p.bytes / 4) 5 p.word (s.modCore c Core.landAll) = .ok ((), s1) ∧ ∃ t, pairDecode p = some t)
    ∧ (∃ (s : State) (a : _) (p : _), ∃ c, Runs s a c ∧ ∃ s1, fetchM c (p.bytes / 4) 5 p.word (s.modCore c Core.landAll) = .ok ((), s1) ∧ ∃ t, pairDecode p = some t)
    ∧ (∃ (s : State) (a : _) (p : _), ∃ c, Runs s a c ∧ ∃ s1, fetchM c (p.bytes / 4) 5 p.word (s.modCore c Core.landAll) = .ok ((), s1) ∧ ∃ t, pairDecode p = some t) := by
  refine ⟨?_, ?_, ?_, ?_, ?_, ?_⟩
  · have k : ∀ (s : State) (a : _) (p : _), (runsB s a fun c => okU (fetchM c (p.bytes / 4) 5 p.word (s.modCore c Core.landAll)) fun s1 => (decide (pairDecode p = none)) && ((decide ((s1.core c).onlyB = false)) && (iteB (condHolds (s1.core c) p.condA) (shortOp c p.a) s1 fun s2 => iteB (condHolds (s1.core c) p.condB) (shortOp c p.b) s2 fun s3 => true))) = true → ∃ c, Runs s a c ∧ ∃ s1, fetchM c (p.bytes / 4) 5 p.word (s.modCore c Core.landAll) = .ok ((), s1) ∧ pairDecode p = none ∧ (s1.core c).onlyB = false ∧ ∃ s2, (if condHolds (s1.core c) p.condA then shortOp c p.a s1 = .ok ((), s2) else s2 = s1) ∧ ∃ s3, (if condHolds (s1.core c) p.condB then shortOp c p.b s2 = .ok ((), s3) else s3 = s2) := by
      intro s a p h
      refine runs_of h fun c h => ?_
      refine okU_of h fun s1 h => ?_
      refine and_of h (fun h => of_decide_eq_true h) fun h => ?_
      refine and_of h (fun h => of_decide_eq_true h) fun h => ?_
      refine ite_of h fun s2 h => ?_
      obtain ⟨s3, h, -⟩ := ite_of (P := fun _ => True) h fun _ _ => trivial
      exact ⟨s3, h⟩
    exact ⟨stc (fun k => k) [(1, fixN 7), (3, fixN 5)] [], at0, ⟨3169, 2183, none⟩, k _ _ _ (by decide +kernel)⟩
  · have k : ∀ (s : State) (a : _) (p : _), (runsB s a fun c => okU (fetchM c (p.bytes / 4) 5 p.word (s.modCore c Core.landAll)) fun s1 => (decide (pairDecode p = none)) && ((decide ((s1.core c).onlyB = false)) && (iteB (condHolds (s1.core c) p.condA) (shortOp c p.a) s1 fun s2 => iteB (condHolds (s1.core c) p.condB) (shortOp c p.b) s2 fun s3 => true))) = true → ∃ c, Runs s a c ∧ ∃ s1, fetchM c (p.bytes / 4) 5 p.word (s.modCore c Core.landAll) = .ok ((), s1) ∧ pairDecode p = none ∧ (s1.core c).onlyB = false ∧ ∃ s2, (if condHolds (s1.core c) p.condA then shortOp c p.a s1 = .ok ((), s2) else s2 = s1) ∧ ∃ s3, (if condHolds (s1.core c) p.condB then shortOp c p.b s2 = .ok ((), s3) else s3 = s2) := by
      intro s a p h
      refine runs_of h fun c h => ?_
      refine okU_of h fun s1 h => ?_
      refine and_of h (fun h => of_decide_eq_true h) fun h => ?_
      refine and_of h (fun h => of_decide_eq_true h) fun h => ?_
      refine ite_of h fun s2 h => ?_
      obtain ⟨s3, h, -⟩ := ite_of (P := fun _ => True) h fun _ _ => trivial
      exact ⟨s3, h⟩
    exact ⟨stc (fun k => k) [(1, fixN 7), (3, fixN 5)] [], at0, ⟨3169, 2183, (some (BitVec.ofNat 32 (0x105 * 2 ^ 22 + 0x206 * 2 ^ 12)))⟩, k _ _ _ (by decide +kernel)⟩
  · have k : ∀ (s : State) (a : _) (p : _), (runsB s a fun c => okU (fetchM c (p.bytes / 4) 5 p.word (s.modCore c Core.landAll)) fun s1 => (decide (pairDecode p = none)) && ((decide ((s1.core c).onlyB = false)) && (iteB (condHolds (s1.core c) p.condA) (shortOp c p.a) s1 fun s2 => iteB (condHolds (s1.core c) p.condB) (shortOp c p.b) s2 fun s3 => true))) = true → ∃ c, Runs s a c ∧ ∃ s1, fetchM c (p.bytes / 4) 5 p.word (s.modCore c Core.landAll) = .ok ((), s1) ∧ pairDecode p = none ∧ (s1.core c).onlyB = false ∧ ∃ s2, (if condHolds (s1.core c) p.condA then shortOp c p.a s1 = .ok ((), s2) else s2 = s1) ∧ ∃ s3, (if condHolds (s1.core c) p.condB then shortOp c p.b s2 = .ok ((), s3) else s3 = s2) := by
      intro s a p h
      refine runs_of h fun c h => ?_
      refine okU_of h fun s1 h => ?_
      refine and_of h (fun h => of_decide_eq_true h) fun h => ?_
      refine and_of h (fun h => of_decide_eq_true h) fun h => ?_
      refine ite_of h fun s2 h => ?_
      obtain ⟨s3, h, -⟩ := ite_of (P := fun _ => True) h fun _ _ => trivial
      exact ⟨s3, h⟩
    exact ⟨stc (fun k => k.setBit 5 true) [(1, fixN 7), (3, fixN 5)] [], at0, ⟨3169, 2183, (some (BitVec.ofNat 32 (0x105 * 2 ^ 22 + 0x206 * 2 ^ 12)))⟩, k _ _ _ (by decide +kernel)⟩
  · have k : ∀ (s : State) (a : _) (p : _), (runsB s a fun c => okU (fetchM c (p.bytes / 4) 5 p.word (s.modCore c Core.landAll)) fun s1 => someB (pairDecode p) fun t => true) = true → ∃ c, Runs s a c ∧ ∃ s1, fetchM c (p.bytes / 4) 5 p.word (s.modCore c Core.landAll) = .ok ((), s1) ∧ ∃ t, pairDecode p = some t := by
      intro s a p h
      refine runs_of h fun c h => ?_
      refine okU_of h fun s1 h => ?_
      obtain ⟨t, h, -⟩ := some_of (P := fun _ => True) h fun _ _ => trivial
      exact ⟨t, h⟩
    exact ⟨stc (fun k => k) [(1, fixN 7), (3, fixN 5)] [], at0, ⟨3169, 2151, none⟩, k _ _ _ (by decide +kernel)⟩
  · have k : ∀ (s : State) (a : _) (p : _), (runsB s a fun c => okU (fetchM c (p.bytes / 4) 5 p.word (s.modCore c Core.landAll)) fun s1 => someB (pairDecode p) fun t => true) = true → ∃ c, Runs s a c ∧ ∃ s1, fetchM c (p.bytes / 4) 5 p.word (s.modCore c Core.landAll) = .ok ((), s1) ∧ ∃ t, pairDecode p = some t := by
      intro s a p h
      refine runs_of h fun c h => ?_
      refine okU_of h fun s1 h => ?_
      obtain ⟨t, h, -⟩ := some_of (P := fun _ => True) h fun _ _ => trivial
      exact ⟨t, h⟩
    exact ⟨stc (fun k => k) [(1, fixN 7), (3, fixN 5)] [], at0, ⟨20577, 2151, none⟩, k _ _ _ (by decide +kernel)⟩
  · have k : ∀ (s : State) (a : _) (p : _), (runsB s a fun c => okU (fetchM c (p.bytes / 4) 5 p.word (s.modCore c Core.landAll)) fun s1 => someB (pairDecode p) fun t => true) = true → ∃ c, Runs s a c ∧ ∃ s1, fetchM c (p.bytes / 4) 5 p.word (s.modCore c Core.landAll) = .ok ((), s1) ∧ ∃ t, pairDecode p = some t := by
      intro s a p h
      refine runs_of h fun c h => ?_
      refine okU_of h fun s1 h => ?_
      obtain ⟨t, h, -⟩ := some_of (P := fun _ => True) h fun _ _ => trivial
      exact ⟨t, h⟩
    exact ⟨stc (fun k => k) [(1, fixN 7), (3, fixN 5)] [], at0, ⟨17505, 2183, none⟩, k _ _ _ (by decide +kernel)⟩

/-- The hypotheses of part 2 of Obligations.PairsComplete are met. -/
theorem witness_ShortOperationsComplete :
    (∃ (c : CoreId) (x : _) (s : State), shortSopc x = 0x01)
    ∧ (∃ (c : CoreId) (x : _) (s : State), shortSopc x = 0x02)
    ∧ (∃ (c : CoreId) (x : _) (s : State), shortSopc x = 0x03 ∧ ∃ d, (s.core c).getReg (shortRd x) = d ∧ ∃ w, (s.core c).getReg (shortRs x) = w ∧ isFix d = true ∧ isFix w = true ∧ fitsFix (fixVal d + fixVal w) = true ∧ Admits s 0x0 d (some w))
    ∧ (∃ (c : CoreId) (x : _) (s : State), shortSopc x = 0x10 ∧ ∃ w, (s.core c).getReg (shortRs x) = w)
    ∧ (∃ (c : CoreId) (x : _) (s : State), shortSopc x = 0x11)
    ∧ (∃ (c : CoreId) (x : _) (s : State), shortSopc x = 0x12) := by
  refine ⟨?_, ?_, ?_, ?_, ?_, ?_⟩
  · have k : ∀ (c : CoreId) (x : _) (s : State), (decide (shortSopc x = 0x01)) = true → shortSopc x = 0x01 := by
      intro c x s h
      exact of_decide_eq_true h
    exact ⟨0, 2017, stc (fun k => k) [(1, fixN 7), (31, fixN 9)] [], k (0) _ (stc (fun k => k) [(1, fixN 7), (31, fixN 9)] []) (by decide +kernel)⟩
  · have k : ∀ (c : CoreId) (x : _) (s : State), (decide (shortSopc x = 0x02)) = true → shortSopc x = 0x02 := by
      intro c x s h
      exact of_decide_eq_true h
    exact ⟨0, 3071, stc (fun k => k) [(1, fixN 7), (31, fixN 9)] [], k (0) _ (stc (fun k => k) [(1, fixN 7), (31, fixN 9)] []) (by decide +kernel)⟩
  · have k : ∀ (c : CoreId) (x : _) (s : State), ((decide (shortSopc x = 0x03)) && (eqB ((s.core c).getReg (shortRd x)) fun d => eqB ((s.core c).getReg (shortRs x)) fun w => (decide (isFix d = true)) && ((decide (isFix w = true)) && ((decide (fitsFix (fixVal d + fixVal w) = true)) && (admitsB s 0x0 d (some w)))))) = true → shortSopc x = 0x03 ∧ ∃ d, (s.core c).getReg (shortRd x) = d ∧ ∃ w, (s.core c).getReg (shortRs x) = w ∧ isFix d = true ∧ isFix w = true ∧ fitsFix (fixVal d + fixVal w) = true ∧ Admits s 0x0 d (some w) := by
      intro c x s h
      refine and_of h (fun h => of_decide_eq_true h) fun h => ?_
      refine eq_of' h fun d h => ?_
      refine eq_of' h fun w h => ?_
      refine and_of h (fun h => of_decide_eq_true h) fun h => ?_
      refine and_of h (fun h => of_decide_eq_true h) fun h => ?_
      refine and_of h (fun h => of_decide_eq_true h) fun h => ?_
      exact admits_of h
    exact ⟨0, 4065, stc (fun k => k) [(1, fixN 7), (31, fixN 9)] [], k _ _ _ (by decide +kernel)⟩
  · have k : ∀ (c : CoreId) (x : _) (s : State), ((decide (shortSopc x = 0x10)) && (eqB ((s.core c).getReg (shortRs x)) fun w => true)) = true → shortSopc x = 0x10 ∧ ∃ w, (s.core c).getReg (shortRs x) = w := by
      intro c x s h
      refine and_of h (fun h => of_decide_eq_true h) fun h => ?_
      obtain ⟨w, h, -⟩ := eq_of' (P := fun _ => True) h fun _ _ => trivial
      exact ⟨w, h⟩
    exact ⟨0, 17377, stc (fun k => k) [(1, fixN 7), (31, fixN 9)] [], k _ _ _ (by decide +kernel)⟩
  · have k : ∀ (c : CoreId) (x : _) (s : State), (decide (shortSopc x = 0x11)) = true → shortSopc x = 0x11 := by
      intro c x s h
      exact of_decide_eq_true h
    exact ⟨0, 17409, stc (fun k => k) [(1, fixN 7), (31, fixN 9)] [], k (0) _ (stc (fun k => k) [(1, fixN 7), (31, fixN 9)] []) (by decide +kernel)⟩
  · have k : ∀ (c : CoreId) (x : _) (s : State), (decide (shortSopc x = 0x12)) = true → shortSopc x = 0x12 := by
      intro c x s h
      exact of_decide_eq_true h
    exact ⟨0, 19431, stc (fun k => k) [(1, fixN 7), (31, fixN 9)] [], k (0) _ (stc (fun k => k) [(1, fixN 7), (31, fixN 9)] []) (by decide +kernel)⟩

/-- The hypotheses of part 1 of Obligations.BundlesComplete are met. -/
theorem witness_BundlesComplete :
    (∃ (s : State) (a : _) (w : _), ∃ c, Runs s a c ∧ ∃ s1, fetchM c 2 0x15 (moveAt w 0).bits (s.modCore c Core.landAll) = .ok ((), s1) ∧ bundleDecode (s1.core c) w = none ∧ (s1.core c).jump = none ∧ ((∀ x, x ∈ liveMoves (s1.core c) w → x.move.dst < 0x20)))
    ∧ (∃ (s : State) (a : _) (w : _), ∃ c, Runs s a c ∧ ∃ s1, fetchM c 2 0x15 (moveAt w 0).bits (s.modCore c Core.landAll) = .ok ((), s1) ∧ ∃ fl s2, bundleSteps w c s1 = .ok (fl, s2)) := by
  refine ⟨?_, ?_⟩
  · have k : ∀ (s : State) (a : _) (w : _), (runsB s a fun c => okU (fetchM c 2 0x15 (moveAt w 0).bits (s.modCore c Core.landAll)) fun s1 => (decide (bundleDecode (s1.core c) w = none)) && ((decide ((s1.core c).jump = none)) && (decide ((∀ x, x ∈ liveMoves (s1.core c) w → x.move.dst < 0x20))))) = true → ∃ c, Runs s a c ∧ ∃ s1, fetchM c 2 0x15 (moveAt w 0).bits (s.modCore c Core.landAll) = .ok ((), s1) ∧ bundleDecode (s1.core c) w = none ∧ (s1.core c).jump = none ∧ ((∀ x, x ∈ liveMoves (s1.core c) w → x.move.dst < 0x20)) := by
      intro s a w h
      refine runs_of h fun c h => ?_
      refine okU_of h fun s1 h => ?_
      refine and_of h (fun h => of_decide_eq_true h) fun h => ?_
      refine and_of h (fun h => of_decide_eq_true h) fun h => ?_
      exact of_decide_eq_true h
    exact ⟨stc (fun k => k) [(1, fixN 7)] [], at0, 0x1030220400205#64, k _ _ _ (by decide +kernel)⟩
  · have k : ∀ (s : State) (a : _) (w : _), (runsB s a fun c => okU (fetchM c 2 0x15 (moveAt w 0).bits (s.modCore c Core.landAll)) fun s1 => okB (bundleSteps w c s1) fun fl s2 => true) = true → ∃ c, Runs s a c ∧ ∃ s1, fetchM c 2 0x15 (moveAt w 0).bits (s.modCore c Core.landAll) = .ok ((), s1) ∧ ∃ fl s2, bundleSteps w c s1 = .ok (fl, s2) := by
      intro s a w h
      refine runs_of h fun c h => ?_
      refine okU_of h fun s1 h => ?_
      obtain ⟨fl, s2, h, -⟩ := ok_of (P := fun _ _ => True) h fun _ _ _ => trivial
      exact ⟨fl, s2, h⟩
    exact ⟨stc (fun k => k) [(1, fixN 7)] [], at0, 0x1030220400205#64, k _ _ _ (by decide +kernel)⟩

/-- The hypotheses of part 2 of Obligations.BundlesComplete are met. -/
theorem witness_UnitResultsLand :
    ∃ (s : State) (c : _) (i : _), ∃ d, sourceCore s c = some d ∧ ∃ k, s.core d = k ∧ i < k.pendRes.length := by
  have k : ∀ (s : State) (c : _) (i : _), (someB (sourceCore s c) fun d => eqB (s.core d) fun k => decide (i < k.pendRes.length)) = true → ∃ d, sourceCore s c = some d ∧ ∃ k, s.core d = k ∧ i < k.pendRes.length := by
    intro s c i h
    refine some_of h fun d h => ?_
    refine eq_of' h fun k h => ?_
    exact of_decide_eq_true h
  exact ⟨stc (fun k => { k with pendRes := [⟨some 3, fixN 7, []⟩] }) [] [], 0, 0, k _ _ _ (by decide +kernel)⟩

/-- The hypotheses of part 1 of Obligations.BarriersAndEventsTaken are met. -/
theorem witness_BarriersRelease :
    (∃ (s : State) (n : Fin 16), allArrived s n.val = true ∧ ((rangeBarrier s n.val = false ∨ rangeSize s = 1)))
    ∧ (∃ (s : State) (n : Fin 16), allArrived s n.val = true ∧ ((rangeBarrier s n.val = false ∨ rangeSize s = 1)))
    ∧ (∃ (s : State) (n : Fin 16), allArrived s n.val = true ∧ rangeBarrier s n.val = true ∧ 1 < rangeSize s)
    ∧ (∃ (k : Core) (n : _) (len : _), k.under = .barrier n len) := by
  refine ⟨?_, ?_, ?_, ?_⟩
  · have k : ∀ (s : State) (n : Fin 16), ((decide (allArrived s n.val = true)) && (decide ((rangeBarrier s n.val = false ∨ rangeSize s = 1)))) = true → allArrived s n.val = true ∧ ((rangeBarrier s n.val = false ∨ rangeSize s = 1)) := by
      intro s n h
      refine and_of h (fun h => of_decide_eq_true h) fun h => ?_
      exact of_decide_eq_true h
    exact ⟨(stc (fun k => { k with mode := .barrier 15 4, bars := [(15, false)] }) [] []).setR .cfgBarLo 15 1#64, 15, k _ _ (by decide +kernel)⟩
  · have k : ∀ (s : State) (n : Fin 16), ((decide (allArrived s n.val = true)) && (decide ((rangeBarrier s n.val = false ∨ rangeSize s = 1)))) = true → allArrived s n.val = true ∧ ((rangeBarrier s n.val = false ∨ rangeSize s = 1)) := by
      intro s n h
      refine and_of h (fun h => of_decide_eq_true h) fun h => ?_
      exact of_decide_eq_true h
    exact ⟨(((stc (fun k => { k with mode := .barrier 15 4, bars := [(15, false)] }) [] []).setR .cfgBarLo 15 1#64).setF .cfgBarHi 15 33 33 1).setR .rdgRange 0 0x101#64, 15, k _ _ (by decide +kernel)⟩
  · have k : ∀ (s : State) (n : Fin 16), ((decide (allArrived s n.val = true)) && ((decide (rangeBarrier s n.val = true)) && (decide (1 < rangeSize s)))) = true → allArrived s n.val = true ∧ rangeBarrier s n.val = true ∧ 1 < rangeSize s := by
      intro s n h
      refine and_of h (fun h => of_decide_eq_true h) fun h => ?_
      refine and_of h (fun h => of_decide_eq_true h) fun h => ?_
      exact of_decide_eq_true h
    exact ⟨(((stc (fun k => { k with mode := .barrier 15 4, bars := [(15, false)] }) [] []).setR .cfgBarLo 15 1#64).setF .cfgBarHi 15 33 33 1).setR .rdgRange 0 0x201#64, 15, k _ _ (by decide +kernel)⟩
  · have k : ∀ (k : Core) (n : _) (len : _), (decide (k.under = .barrier n len)) = true → k.under = .barrier n len := by
      intro k n len h
      exact of_decide_eq_true h
    exact ⟨{ Core.reset with mode := .barrier 15 4, bars := [(15, false)] }, 15, 4, k _ _ _ (by decide +kernel)⟩

/-- The hypotheses of part 2 of Obligations.BarriersAndEventsTaken are met. -/
theorem witness_EventsEntered :
    (∃ (s : State) (c : _), ∃ d, sourceCore s c = some d ∧ ∃ k, s.core d = k ∧ takesEvents k = true ∧ inWindowTrap k = false ∧ takesNormal s k = true ∧ takesFast s d k = false ∧ takesCheck s k = false)
    ∧ (∃ (s : State) (c : _), ∃ d, sourceCore s c = some d ∧ ∃ k, s.core d = k ∧ takesEvents k = true ∧ takesFast s d k = true ∧ takesCheck s k = false ∧ entryWaits (atBoundary s d) d = false ∧ ∃ u, u = drainStores (atBoundary s d) d ∧ u.compact = false ∧ ∃ tg s1, codeTarget d nil (mkWord 0x16 (u.fld .cfgXfast (leadOf u d).val 46 4 * 16)) u = .ok (tg, s1) ∧ ∃ k1, k1 = { ((s1.core d).setStatus 22 22 1).setStatus 15 14 ((s1.core d).cstk % 2 + 2) with fastRet := some ⟨(s1.core d).pc, (s1.core d).fmt, (s1.core d).im⟩ })
    ∧ (∃ (s : State) (c : _), ∃ d, sourceCore s c = some d ∧ ∃ k, s.core d = k ∧ ∃ pa, k.mcPend = some pa ∧ takesEvents k = true ∧ takesCheck s k = true ∧ entryWaits s d = false) := by
  refine ⟨?_, ?_, ?_⟩
  · have k : ∀ (s : State) (c : _), (someB (sourceCore s c) fun d => eqB (s.core d) fun k => (decide (takesEvents k = true)) && ((decide (inWindowTrap k = false)) && ((decide (takesNormal s k = true)) && ((decide (takesFast s d k = false)) && (decide (takesCheck s k = false)))))) = true → ∃ d, sourceCore s c = some d ∧ ∃ k, s.core d = k ∧ takesEvents k = true ∧ inWindowTrap k = false ∧ takesNormal s k = true ∧ takesFast s d k = false ∧ takesCheck s k = false := by
      intro s c h
      refine some_of h fun d h => ?_
      refine eq_of' h fun k h => ?_
      refine and_of h (fun h => of_decide_eq_true h) fun h => ?_
      refine and_of h (fun h => of_decide_eq_true h) fun h => ?_
      refine and_of h (fun h => of_decide_eq_true h) fun h => ?_
      refine and_of h (fun h => of_decide_eq_true h) fun h => ?_
      exact of_decide_eq_true h
    exact ⟨sth0 (fun k => { k with pend := [(0, 1#64)] }), 0, k _ _ (by decide +kernel)⟩
  · have k : ∀ (s : State) (c : _), (someB (sourceCore s c) fun d => eqB (s.core d) fun k => (decide (takesEvents k = true)) && ((decide (takesFast s d k = true)) && ((decide (takesCheck s k = false)) && ((decide (entryWaits (atBoundary s d) d = false)) && (eqB (drainStores (atBoundary s d) d) fun u => (decide (u.compact = false)) && (okB (codeTarget d nil (mkWord 0x16 (u.fld .cfgXfast (leadOf u d).val 46 4 * 16)) u) fun tg s1 => eqB ({ ((s1.core d).setStatus 22 22 1).setStatus 15 14 ((s1.core d).cstk % 2 + 2) with fastRet := some ⟨(s1.core d).pc, (s1.core d).fmt, (s1.core d).im⟩ }) fun k1 => true)))))) = true → ∃ d, sourceCore s c = some d ∧ ∃ k, s.core d = k ∧ takesEvents k = true ∧ takesFast s d k = true ∧ takesCheck s k = false ∧ entryWaits (atBoundary s d) d = false ∧ ∃ u, u = drainStores (atBoundary s d) d ∧ u.compact = false ∧ ∃ tg s1, codeTarget d nil (mkWord 0x16 (u.fld .cfgXfast (leadOf u d).val 46 4 * 16)) u = .ok (tg, s1) ∧ ∃ k1, k1 = { ((s1.core d).setStatus 22 22 1).setStatus 15 14 ((s1.core d).cstk % 2 + 2) with fastRet := some ⟨(s1.core d).pc, (s1.core d).fmt, (s1.core d).im⟩ } := by
      intro s c h
      refine some_of h fun d h => ?_
      refine eq_of' h fun k h => ?_
      refine and_of h (fun h => of_decide_eq_true h) fun h => ?_
      refine and_of h (fun h => of_decide_eq_true h) fun h => ?_
      refine and_of h (fun h => of_decide_eq_true h) fun h => ?_
      refine and_of h (fun h => of_decide_eq_true h) fun h => ?_
      refine eq_of h fun u h => ?_
      refine and_of h (fun h => of_decide_eq_true h) fun h => ?_
      refine ok_of h fun tg s1 h => ?_
      obtain ⟨k1, h, -⟩ := eq_of (P := fun _ => True) h fun _ _ => trivial
      exact ⟨k1, h⟩
    exact ⟨((sth0 (fun k => { k with pend := [(0, 1#64)] })).setR .cfgXfast 0 (BitVec.ofNat 64 (2 ^ 63 + 0x1000))).setF .evcGcfg 0 62 62 1, 0, k _ _ (by decide +kernel)⟩
  · have k : ∀ (s : State) (c : _), (someB (sourceCore s c) fun d => eqB (s.core d) fun k => someB (k.mcPend) fun pa => (decide (takesEvents k = true)) && ((decide (takesCheck s k = true)) && (decide (entryWaits s d = false)))) = true → ∃ d, sourceCore s c = some d ∧ ∃ k, s.core d = k ∧ ∃ pa, k.mcPend = some pa ∧ takesEvents k = true ∧ takesCheck s k = true ∧ entryWaits s d = false := by
      intro s c h
      refine some_of h fun d h => ?_
      refine eq_of' h fun k h => ?_
      refine some_of h fun pa h => ?_
      refine and_of h (fun h => of_decide_eq_true h) fun h => ?_
      refine and_of h (fun h => of_decide_eq_true h) fun h => ?_
      exact of_decide_eq_true h
    exact ⟨sth0 (fun k => { k with mcPend := some 0x1000 }), 0, k _ _ (by decide +kernel)⟩

/-- The hypotheses of part 1 of Obligations.ExceptionsEntered are met. -/
theorem witness_ExceptionsEntered :
    (∃ (s : State) (c : _) (t : _) (fpc : _) (npc : Nat), ∃ k, s.core c = k ∧ k.lastResort = false ∧ k.tw = false ∧ k.fb = false ∧ k.resident ≠ 11 ∧ ∃ tg s1, readHandler c t t.cause.code s = .ok (tg, s1) ∧ tagOf k.g7 = 0x32 ∧ 96 ≤ valOf k.g7 ∧ ∃ s2, pushFrame c (valOf k.g7 - 96) (buildFrame (s1.core c) t fpc npc) s1 = .ok ((), s2) ∧ ∃ s3, s3 = enterException s c t fpc npc ∧ (s2.core c).fb = false ∧ (s2.core c).tw = false)
    ∧ (∃ (s : State) (c : CoreId) (t : Trap) (fpc : Nat) (npc : Nat), ∃ k, s.core c = k ∧ k.lastResort = false ∧ k.tw = false ∧ k.fb = false ∧ k.resident = 11) := by
  refine ⟨?_, ?_⟩
  · have k : ∀ (s : State) (c : _) (t : _) (fpc : _) (npc : Nat), (eqB (s.core c) fun k => (decide (k.lastResort = false)) && ((decide (k.tw = false)) && ((decide (k.fb = false)) && ((decide (k.resident ≠ 11)) && (okB (readHandler c t t.cause.code s) fun tg s1 => (decide (tagOf k.g7 = 0x32)) && ((decide (96 ≤ valOf k.g7)) && (okU (pushFrame c (valOf k.g7 - 96) (buildFrame (s1.core c) t fpc npc) s1) fun s2 => eqB (enterException s c t fpc npc) fun s3 => (decide ((s2.core c).fb = false)) && (decide ((s2.core c).tw = false))))))))) = true → ∃ k, s.core c = k ∧ k.lastResort = false ∧ k.tw = false ∧ k.fb = false ∧ k.resident ≠ 11 ∧ ∃ tg s1, readHandler c t t.cause.code s = .ok (tg, s1) ∧ tagOf k.g7 = 0x32 ∧ 96 ≤ valOf k.g7 ∧ ∃ s2, pushFrame c (valOf k.g7 - 96) (buildFrame (s1.core c) t fpc npc) s1 = .ok ((), s2) ∧ ∃ s3, s3 = enterException s c t fpc npc ∧ (s2.core c).fb = false ∧ (s2.core c).tw = false := by
      intro s c t fpc npc h
      refine eq_of' h fun k h => ?_
      refine and_of h (fun h => of_decide_eq_true h) fun h => ?_
      refine and_of h (fun h => of_decide_eq_true h) fun h => ?_
      refine and_of h (fun h => of_decide_eq_true h) fun h => ?_
      refine and_of h (fun h => of_decide_eq_true h) fun h => ?_
      refine ok_of h fun tg s1 h => ?_
      refine and_of h (fun h => of_decide_eq_true h) fun h => ?_
      refine and_of h (fun h => of_decide_eq_true h) fun h => ?_
      refine okU_of h fun s2 h => ?_
      refine eq_of h fun s3 h => ?_
      refine and_of h (fun h => of_decide_eq_true h) fun h => ?_
      exact of_decide_eq_true h
    exact ⟨sth0 (fun k => k), 0, { cause := .trap, sub := 5, step := 10 }, 0x30, 0x34, k _ _ _ _ _ (by decide +kernel)⟩
  · have k : ∀ (s : State) (c : CoreId) (t : Trap) (fpc : Nat) (npc : Nat), (eqB (s.core c) fun k => (decide (k.lastResort = false)) && ((decide (k.tw = false)) && ((decide (k.fb = false)) && (decide (k.resident = 11))))) = true → ∃ k, s.core c = k ∧ k.lastResort = false ∧ k.tw = false ∧ k.fb = false ∧ k.resident = 11 := by
      intro s c t fpc npc h
      refine eq_of' h fun k h => ?_
      refine and_of h (fun h => of_decide_eq_true h) fun h => ?_
      refine and_of h (fun h => of_decide_eq_true h) fun h => ?_
      refine and_of h (fun h => of_decide_eq_true h) fun h => ?_
      exact of_decide_eq_true h
    exact ⟨sth0 (fun k => { k with resident := 11 }), 0, { cause := .trap, sub := 5, step := 10 }, 0x30, 0x34, k _ _ ({ cause := .trap, sub := 5, step := 10 }) (0x30) (0x34) (by decide +kernel)⟩

/-- The hypotheses of part 2 of Obligations.ExceptionsEntered are met. -/
theorem witness_FramesHoldState :
    ∃ (k : _) (t : _) (fpc : _) (npc : Nat), ∃ f, f = buildFrame k t fpc npc := by
  have k : ∀ (k : _) (t : _) (fpc : _) (npc : Nat), (eqB (buildFrame k t fpc npc) fun f => true) = true → ∃ f, f = buildFrame k t fpc npc := by
    intro k t fpc npc h
    obtain ⟨f, h, -⟩ := eq_of (P := fun _ => True) h fun _ _ => trivial
    exact ⟨f, h⟩
  exact ⟨Core.reset, { cause := .trap, sub := 5, step := 10 }, 0x30, 0x34, k _ _ _ _ (by decide +kernel)⟩

/-- The hypotheses of part 1 of Obligations.PatchesComplete are met. -/
theorem witness_PatchesRequested :
    (∃ (s : State) (c : CoreId) (w : SetupWrite), acts w 63 = true ∧ mayReach s w.agent .mcCtl c.val = true ∧ ∃ d, sourceCore s c = some d ∧ (s.core d).patch = none ∧ ∃ s1, s1 = storeSetup s .mcCtl c.val w ∧ (s1.core d).mode ≠ .halted)
    ∧ (∃ (s : State) (c : CoreId) (w : SetupWrite), acts w 62 = true ∧ acts w 63 = false ∧ mayReach s w.agent .mcCtl c.val = true ∧ ∃ d, sourceCore s c = some d ∧ (s.core d).patch = none ∧ ∃ s1, s1 = storeSetup s .mcCtl c.val w ∧ patchFloor s1 = 0)
    ∧ (∃ (s : State) (c : CoreId) (w : SetupWrite), acts w 62 = true ∧ acts w 63 = false ∧ mayReach s w.agent .mcCtl c.val = true ∧ ∃ d, sourceCore s c = some d ∧ (s.core d).patch = none ∧ patchFloor (storeSetup s .mcCtl c.val w) ≠ 0) := by
  refine ⟨?_, ?_, ?_⟩
  · have k : ∀ (s : State) (c : CoreId) (w : SetupWrite), ((decide (acts w 63 = true)) && ((decide (mayReach s w.agent .mcCtl c.val = true)) && (someB (sourceCore s c) fun d => (decide ((s.core d).patch = none)) && (eqB (storeSetup s .mcCtl c.val w) fun s1 => decide ((s1.core d).mode ≠ .halted))))) = true → acts w 63 = true ∧ mayReach s w.agent .mcCtl c.val = true ∧ ∃ d, sourceCore s c = some d ∧ (s.core d).patch = none ∧ ∃ s1, s1 = storeSetup s .mcCtl c.val w ∧ (s1.core d).mode ≠ .halted := by
      intro s c w h
      refine and_of h (fun h => of_decide_eq_true h) fun h => ?_
      refine and_of h (fun h => of_decide_eq_true h) fun h => ?_
      refine some_of h fun d h => ?_
      refine and_of h (fun h => of_decide_eq_true h) fun h => ?_
      refine eq_of h fun s1 h => ?_
      exact of_decide_eq_true h
    exact ⟨on [uCore 95], 95, sw (2 ^ 63), k _ _ _ (by decide +kernel)⟩
  · have k : ∀ (s : State) (c : CoreId) (w : SetupWrite), ((decide (acts w 62 = true)) && ((decide (acts w 63 = false)) && ((decide (mayReach s w.agent .mcCtl c.val = true)) && (someB (sourceCore s c) fun d => (decide ((s.core d).patch = none)) && (eqB (storeSetup s .mcCtl c.val w) fun s1 => decide (patchFloor s1 = 0)))))) = true → acts w 62 = true ∧ acts w 63 = false ∧ mayReach s w.agent .mcCtl c.val = true ∧ ∃ d, sourceCore s c = some d ∧ (s.core d).patch = none ∧ ∃ s1, s1 = storeSetup s .mcCtl c.val w ∧ patchFloor s1 = 0 := by
      intro s c w h
      refine and_of h (fun h => of_decide_eq_true h) fun h => ?_
      refine and_of h (fun h => of_decide_eq_true h) fun h => ?_
      refine and_of h (fun h => of_decide_eq_true h) fun h => ?_
      refine some_of h fun d h => ?_
      refine and_of h (fun h => of_decide_eq_true h) fun h => ?_
      refine eq_of h fun s1 h => ?_
      exact of_decide_eq_true h
    exact ⟨on [uCore 95], 95, sw (2 ^ 62), k _ _ _ (by decide +kernel)⟩
  · have k : ∀ (s : State) (c : CoreId) (w : SetupWrite), ((decide (acts w 62 = true)) && ((decide (acts w 63 = false)) && ((decide (mayReach s w.agent .mcCtl c.val = true)) && (someB (sourceCore s c) fun d => (decide ((s.core d).patch = none)) && (decide (patchFloor (storeSetup s .mcCtl c.val w) ≠ 0)))))) = true → acts w 62 = true ∧ acts w 63 = false ∧ mayReach s w.agent .mcCtl c.val = true ∧ ∃ d, sourceCore s c = some d ∧ (s.core d).patch = none ∧ patchFloor (storeSetup s .mcCtl c.val w) ≠ 0 := by
      intro s c w h
      refine and_of h (fun h => of_decide_eq_true h) fun h => ?_
      refine and_of h (fun h => of_decide_eq_true h) fun h => ?_
      refine and_of h (fun h => of_decide_eq_true h) fun h => ?_
      refine some_of h fun d h => ?_
      refine and_of h (fun h => of_decide_eq_true h) fun h => ?_
      exact of_decide_eq_true h
    exact ⟨{ on [uCore 95] with crag := { State.reset.crag with counters := [(0, 1)] } }, 95, sw (2 ^ 62), k _ _ _ (by decide +kernel)⟩

/-- The hypotheses of part 2 of Obligations.PatchesComplete are met. -/
theorem witness_PatchesEnd :
    (∃ (s : State) (c : _) (r : PatchOutcome) (odd : Option (Fin 3 × PatchOutcome)) (image : Nat), ∃ d, sourceCore s c = some d ∧ ∃ k, s.core d = k ∧ k.shadow = false ∧ k.onlyB = false ∧ k.jump = none ∧ k.mode ≠ .halted ∧ k.mode ≠ .stopped ∧ k.patch = some (.apply image) ∧ ∃ s1, s1 = drainStores s d ∧ ∃ code, imageRefused s1 image = some code)
    ∧ (∃ (s : State) (c d : CoreId) (k : Core) (image : Nat) (s1 : State), sourceCore s c = some d ∧ s.core d = k ∧
      k.shadow = false ∧ k.onlyB = false ∧ k.jump = none ∧ k.mode ≠ .halted ∧ k.mode ≠ .stopped ∧ k.patch = some (.apply image) ∧
      s1 = drainStores s d ∧ imageRefused s1 image = none ∧
      spanPoisoned s1 image (32 + 0x120 + 4 * imageWords s1 (image + 32)) = false)
    ∧ (∃ (s : State) (c : _) (r : PatchOutcome) (odd : Option (Fin 3 × PatchOutcome)), ∃ d, sourceCore s c = some d ∧ ∃ k, s.core d = k ∧ k.shadow = false ∧ k.onlyB = false ∧ k.jump = none ∧ k.mode ≠ .halted ∧ k.mode ≠ .stopped ∧ k.patch = some .disable ∧ ∃ s1, s1 = drainStores s d)
    ∧ (∃ (s : State) (c : _) (r : PatchOutcome) (odd : Option (Fin 3 × PatchOutcome)) (load : Option (Tbl MatchReg × Nat)) (back : CoreMode), ∃ d, sourceCore s c = some d ∧ (s.core d).patch = some (.ending r odd load back) ∧ ((odd = none ∨ troikaVoted s (troikaOfCore d) = false)) ∧ ∃ s1, s1 = mirror (s.modCore d (fun k => { k with mode := back, patch := none })) d)
    ∧ (∃ (s : State) (c : _) (r : PatchOutcome) (m : Fin 3) (o : PatchOutcome) (load : Tbl MatchReg × Nat) (back : CoreMode), ∃ d, sourceCore s c = some d ∧ (s.core d).patch = some (.ending r (some (m, o)) (some load) back) ∧ troikaVoted s (troikaOfCore d) = true ∧ (s.core (memberOf (troikaOf d) m)).minority = false ∧ o ≠ r ∧ minorityCount s (troikaOf d) ≠ 1 ∧ ∃ s1, s1 = mirror (s.modCore d (fun k => { k with mode := back, patch := none })) d ∧ ∃ s2, s2 = setResult ((majority s1 d).foldl (fun x m => endPatch x m (some load) r) s1) (leadOf s d) false (patchCode (some load) r)) := by
  refine ⟨?_, ?_, ?_, ?_, ?_⟩
  · have k : ∀ (s : State) (c : _) (r : PatchOutcome) (odd : Option (Fin 3 × PatchOutcome)) (image : Nat), (someB (sourceCore s c) fun d => eqB (s.core d) fun k => (decide (k.shadow = false)) && ((decide (k.onlyB = false)) && ((decide (k.jump = none)) && ((decide (k.mode ≠ .halted)) && ((decide (k.mode ≠ .stopped)) && ((decide (k.patch = some (.apply image))) && (eqB (drainStores s d) fun s1 => someB (imageRefused s1 image) fun code => true))))))) = true → ∃ d, sourceCore s c = some d ∧ ∃ k, s.core d = k ∧ k.shadow = false ∧ k.onlyB = false ∧ k.jump = none ∧ k.mode ≠ .halted ∧ k.mode ≠ .stopped ∧ k.patch = some (.apply image) ∧ ∃ s1, s1 = drainStores s d ∧ ∃ code, imageRefused s1 image = some code := by
      intro s c r odd image h
      refine some_of h fun d h => ?_
      refine eq_of' h fun k h => ?_
      refine and_of h (fun h => of_decide_eq_true h) fun h => ?_
      refine and_of h (fun h => of_decide_eq_true h) fun h => ?_
      refine and_of h (fun h => of_decide_eq_true h) fun h => ?_
      refine and_of h (fun h => of_decide_eq_true h) fun h => ?_
      refine and_of h (fun h => of_decide_eq_true h) fun h => ?_
      refine and_of h (fun h => of_decide_eq_true h) fun h => ?_
      refine eq_of h fun s1 h => ?_
      obtain ⟨code, h, -⟩ := some_of (P := fun _ => True) h fun _ _ => trivial
      exact ⟨code, h⟩
    exact ⟨withCore (on [uCore 0, uTile 0]) (fun k => { k with patch := some (.apply 0x2000) }), 0, .loaded, none, 0x2000, k _ _ (.loaded) (none) _ (by decide +kernel)⟩
  · have h : imageRefused (withRom patchSt) 0x2000 = none := image_accepted patchSt (by decide +kernel) (by decide +kernel) (by decide +kernel)
      (by decide +kernel) (by decide +kernel) (by decide +kernel)
    have e : drainStores (withRom patchSt) 0 = withRom patchSt := by
      have : ((withRom patchSt).core 0).sbuf.length = 0 := by decide +kernel
      unfold drainStores; rw [this]; simp only [drainN]
    have p : (withRom patchSt).poison = [] := by decide +kernel
    have q : (withRom patchSt).deep = [] := by decide +kernel
    refine ⟨withRom patchSt, 0, 0, _, 0x2000, withRom patchSt, by decide +kernel, rfl, by decide +kernel, by decide +kernel, by decide +kernel,
      by decide +kernel, by decide +kernel, by decide +kernel, e.symm, h, ?_⟩
    simp only [spanPoisoned, p, q]; rfl
  · have k : ∀ (s : State) (c : _) (r : PatchOutcome) (odd : Option (Fin 3 × PatchOutcome)), (someB (sourceCore s c) fun d => eqB (s.core d) fun k => (decide (k.shadow = false)) && ((decide (k.onlyB = false)) && ((decide (k.jump = none)) && ((decide (k.mode ≠ .halted)) && ((decide (k.mode ≠ .stopped)) && ((decide (k.patch = some .disable)) && (eqB (drainStores s d) fun s1 => true))))))) = true → ∃ d, sourceCore s c = some d ∧ ∃ k, s.core d = k ∧ k.shadow = false ∧ k.onlyB = false ∧ k.jump = none ∧ k.mode ≠ .halted ∧ k.mode ≠ .stopped ∧ k.patch = some .disable ∧ ∃ s1, s1 = drainStores s d := by
      intro s c r odd h
      refine some_of h fun d h => ?_
      refine eq_of' h fun k h => ?_
      refine and_of h (fun h => of_decide_eq_true h) fun h => ?_
      refine and_of h (fun h => of_decide_eq_true h) fun h => ?_
      refine and_of h (fun h => of_decide_eq_true h) fun h => ?_
      refine and_of h (fun h => of_decide_eq_true h) fun h => ?_
      refine and_of h (fun h => of_decide_eq_true h) fun h => ?_
      refine and_of h (fun h => of_decide_eq_true h) fun h => ?_
      obtain ⟨s1, h, -⟩ := eq_of (P := fun _ => True) h fun _ _ => trivial
      exact ⟨s1, h⟩
    exact ⟨withCore (on [uCore 0, uTile 0]) (fun k => { k with patch := some (.disable) }), 0, .loaded, none, k _ _ (.loaded) (none) (by decide +kernel)⟩
  · have k : ∀ (s : State) (c : _) (r : PatchOutcome) (odd : Option (Fin 3 × PatchOutcome)) (load : Option (Tbl MatchReg × Nat)) (back : CoreMode), (someB (sourceCore s c) fun d => (decide ((s.core d).patch = some (.ending r odd load back))) && ((decide ((odd = none ∨ troikaVoted s (troikaOfCore d) = false))) && (eqB (mirror (s.modCore d (fun k => { k with mode := back, patch := none })) d) fun s1 => true))) = true → ∃ d, sourceCore s c = some d ∧ (s.core d).patch = some (.ending r odd load back) ∧ ((odd = none ∨ troikaVoted s (troikaOfCore d) = false)) ∧ ∃ s1, s1 = mirror (s.modCore d (fun k => { k with mode := back, patch := none })) d := by
      intro s c r odd load back h
      refine some_of h fun d h => ?_
      refine and_of h (fun h => of_decide_eq_true h) fun h => ?_
      refine and_of h (fun h => of_decide_eq_true h) fun h => ?_
      obtain ⟨s1, h, -⟩ := eq_of (P := fun _ => True) h fun _ _ => trivial
      exact ⟨s1, h⟩
    exact ⟨withCore (on [uCore 0, uTile 0]) (fun k => { k with patch := some (.ending .loaded none none .running) }), 0, .loaded, none, none, .running, k _ _ _ _ _ _ (by decide +kernel)⟩
  · have k : ∀ (s : State) (c : _) (r : PatchOutcome) (m : Fin 3) (o : PatchOutcome) (load : Tbl MatchReg × Nat) (back : CoreMode), (someB (sourceCore s c) fun d => (decide ((s.core d).patch = some (.ending r (some (m, o)) (some load) back))) && ((decide (troikaVoted s (troikaOfCore d) = true)) && ((decide ((s.core (memberOf (troikaOf d) m)).minority = false)) && ((decide (o ≠ r)) && ((decide (minorityCount s (troikaOf d) ≠ 1)) && (eqB (mirror (s.modCore d (fun k => { k with mode := back, patch := none })) d) fun s1 => eqB (setResult ((majority s1 d).foldl (fun x m => endPatch x m (some load) r) s1) (leadOf s d) false (patchCode (some load) r)) fun s2 => true)))))) = true → ∃ d, sourceCore s c = some d ∧ (s.core d).patch = some (.ending r (some (m, o)) (some load) back) ∧ troikaVoted s (troikaOfCore d) = true ∧ (s.core (memberOf (troikaOf d) m)).minority = false ∧ o ≠ r ∧ minorityCount s (troikaOf d) ≠ 1 ∧ ∃ s1, s1 = mirror (s.modCore d (fun k => { k with mode := back, patch := none })) d ∧ ∃ s2, s2 = setResult ((majority s1 d).foldl (fun x m => endPatch x m (some load) r) s1) (leadOf s d) false (patchCode (some load) r) := by
      intro s c r m o load back h
      refine some_of h fun d h => ?_
      refine and_of h (fun h => of_decide_eq_true h) fun h => ?_
      refine and_of h (fun h => of_decide_eq_true h) fun h => ?_
      refine and_of h (fun h => of_decide_eq_true h) fun h => ?_
      refine and_of h (fun h => of_decide_eq_true h) fun h => ?_
      refine and_of h (fun h => of_decide_eq_true h) fun h => ?_
      refine eq_of h fun s1 h => ?_
      obtain ⟨s2, h, -⟩ := eq_of (P := fun _ => True) h fun _ _ => trivial
      exact ⟨s2, h⟩
    exact ⟨withCore ((on [uTroika 0, uCore 0, uCore 1, uCore 2]).setR .trkMode 0 1#64) (fun k => { k with patch := some (.ending .loaded (some (1, .readBack)) (some ([], 7)) .running) }), 0, .loaded, 1, .readBack, ([], 7), .running, k _ _ _ _ _ _ _ (by decide +kernel)⟩

/-- The hypotheses of part 1 of Obligations.TranslationAndMemoryRequestsComplete are met. -/
theorem witness_TlbInvalidationsComplete :
    (∃ (s : State) (p : Fin 97) (w : SetupWrite), w.part = .full ∧ 1 ≤ wfld w 63 60 ∧ wfld w 63 60 ≤ 4 ∧ mayReach s w.agent .cfgTlbinv p.val = true ∧ s.flag .cfgTlbstat p.val 63 = false ∧ ∃ s1, s1 = storeSetup s .cfgTlbinv p.val w ∧ 1 ≤ s1.fld .cfgTlbinv p.val 63 60 ∧ ∃ i, i = (⟨s1.fld .cfgTlbinv p.val 63 60, s1.fld .cfgTlbinv p.val 59 48, s1.fld .cfgTlbinv p.val 46 14⟩ : Inval))
    ∧ (∃ (s : State) (p : Fin 97) (w : SetupWrite), w.part = .full ∧ 1 ≤ wfld w 63 60 ∧ wfld w 63 60 ≤ 4 ∧ mayReach s w.agent .cfgTlbinv p.val = true ∧ s.flag .cfgTlbstat p.val 63 = true)
    ∧ (∃ (s : State) (p : Fin 97), ∃ i, Tbl.get? s.invs p.val = some i ∧ ∃ s1, s1 = ({ invalidate (drainAll s) i with invs := Tbl.del (invalidate (drainAll s) i).invs p.val }).setF .cfgTlbstat p.val 63 63 0) := by
  refine ⟨?_, ?_, ?_⟩
  · have k : ∀ (s : State) (p : Fin 97) (w : SetupWrite), ((decide (w.part = .full)) && ((decide (1 ≤ wfld w 63 60)) && ((decide (wfld w 63 60 ≤ 4)) && ((decide (mayReach s w.agent .cfgTlbinv p.val = true)) && ((decide (s.flag .cfgTlbstat p.val 63 = false)) && (eqB (storeSetup s .cfgTlbinv p.val w) fun s1 => (decide (1 ≤ s1.fld .cfgTlbinv p.val 63 60)) && (eqB ((⟨s1.fld .cfgTlbinv p.val 63 60, s1.fld .cfgTlbinv p.val 59 48, s1.fld .cfgTlbinv p.val 46 14⟩ : Inval)) fun i => true))))))) = true → w.part = .full ∧ 1 ≤ wfld w 63 60 ∧ wfld w 63 60 ≤ 4 ∧ mayReach s w.agent .cfgTlbinv p.val = true ∧ s.flag .cfgTlbstat p.val 63 = false ∧ ∃ s1, s1 = storeSetup s .cfgTlbinv p.val w ∧ 1 ≤ s1.fld .cfgTlbinv p.val 63 60 ∧ ∃ i, i = (⟨s1.fld .cfgTlbinv p.val 63 60, s1.fld .cfgTlbinv p.val 59 48, s1.fld .cfgTlbinv p.val 46 14⟩ : Inval) := by
      intro s p w h
      refine and_of h (fun h => of_decide_eq_true h) fun h => ?_
      refine and_of h (fun h => of_decide_eq_true h) fun h => ?_
      refine and_of h (fun h => of_decide_eq_true h) fun h => ?_
      refine and_of h (fun h => of_decide_eq_true h) fun h => ?_
      refine and_of h (fun h => of_decide_eq_true h) fun h => ?_
      refine eq_of h fun s1 h => ?_
      refine and_of h (fun h => of_decide_eq_true h) fun h => ?_
      obtain ⟨i, h, -⟩ := eq_of (P := fun _ => True) h fun _ _ => trivial
      exact ⟨i, h⟩
    exact ⟨on [], 96, sw (4 * 2 ^ 60), k _ _ _ (by decide +kernel)⟩
  · have k : ∀ (s : State) (p : Fin 97) (w : SetupWrite), ((decide (w.part = .full)) && ((decide (1 ≤ wfld w 63 60)) && ((decide (wfld w 63 60 ≤ 4)) && ((decide (mayReach s w.agent .cfgTlbinv p.val = true)) && (decide (s.flag .cfgTlbstat p.val 63 = true)))))) = true → w.part = .full ∧ 1 ≤ wfld w 63 60 ∧ wfld w 63 60 ≤ 4 ∧ mayReach s w.agent .cfgTlbinv p.val = true ∧ s.flag .cfgTlbstat p.val 63 = true := by
      intro s p w h
      refine and_of h (fun h => of_decide_eq_true h) fun h => ?_
      refine and_of h (fun h => of_decide_eq_true h) fun h => ?_
      refine and_of h (fun h => of_decide_eq_true h) fun h => ?_
      refine and_of h (fun h => of_decide_eq_true h) fun h => ?_
      exact of_decide_eq_true h
    exact ⟨(on []).setF .cfgTlbstat 96 63 63 1, 96, sw (4 * 2 ^ 60), k _ _ _ (by decide +kernel)⟩
  · have k : ∀ (s : State) (p : Fin 97), (someB (Tbl.get? s.invs p.val) fun i => eqB (({ invalidate (drainAll s) i with invs := Tbl.del (invalidate (drainAll s) i).invs p.val }).setF .cfgTlbstat p.val 63 63 0) fun s1 => true) = true → ∃ i, Tbl.get? s.invs p.val = some i ∧ ∃ s1, s1 = ({ invalidate (drainAll s) i with invs := Tbl.del (invalidate (drainAll s) i).invs p.val }).setF .cfgTlbstat p.val 63 63 0 := by
      intro s p h
      refine some_of h fun i h => ?_
      obtain ⟨s1, h, -⟩ := eq_of (P := fun _ => True) h fun _ _ => trivial
      exact ⟨s1, h⟩
    exact ⟨{ on [] with invs := [(96, ⟨4, 0, 0⟩)] }, 96, k _ _ (by decide +kernel)⟩

/-- The hypotheses of part 2 of Obligations.TranslationAndMemoryRequestsComplete are met. -/
theorem witness_MemoryRequestsComplete :
    (∃ (s : State) (m : Master) (pa : Nat) (n : Nat), s.queued = [] ∧ pa < physTop ∧ ∃ i, freeSlot s m = some i ∧ rowBusy s pa n = false ∧ isMemory pa = true ∧ spanAccessible s pa n = true ∧ missingLines s pa n = [] ∧ ∃ s1, s1 = consumeSpan (cacheTouch s (classOfMaster m pa) pa n false) pa n)
    ∧ (∃ (s : State) (m : Master) (pa : Nat) (n : Nat), s.queued = [] ∧ pa < physTop ∧ ∃ i, freeSlot s m = some i ∧ rowBusy s pa n = false ∧ isMemory pa = true ∧ spanAccessible s pa n = true ∧ ∃ l ls, missingLines s pa n = l :: ls)
    ∧ (∃ (s : State) (m : Master) (pa : Nat) (n : Nat) (f : List CairnCheck), s.queued = [] ∧ pa < physTop ∧ ∃ i, freeSlot s m = some i ∧ rowBusy s pa n = false ∧ isMemory pa = true ∧ spanAccessible s pa n = false)
    ∧ (∃ (s : State) (m : Master) (pa : Nat) (bs : List Byte), s.queued = [] ∧ pa < physTop ∧ ∃ i, freeSlot s m = some i ∧ rowBusy s pa bs.length = false ∧ isMemory pa = true ∧ spanState s pa bs.length ≠ .stalled ∧ spanAccessible s pa bs.length = true ∧ ∃ s1 e, performWrite (logSpan s pa bs.length) (classOfMaster m pa) none pa bs = (s1, e))
    ∧ (∃ (s : State) (c : _) (i : _), s.queued = [] ∧ ∃ d, sourceCore s c = some d ∧ ∃ e, (s.core d).sbuf[i]? = some e ∧ ((s.core d).sbuf.take i).any (fun x => sameGranule x.pa x.bytes.length e.pa e.bytes.length) = false ∧ writeWaits s d e.pa e.bytes.length = false) := by
  refine ⟨?_, ?_, ?_, ?_, ?_⟩
  · have k : ∀ (s : State) (m : Master) (pa : Nat) (n : Nat), ((decide (s.queued = [])) && ((decide (pa < physTop)) && (someB (freeSlot s m) fun i => (decide (rowBusy s pa n = false)) && ((decide (isMemory pa = true)) && ((decide (spanAccessible s pa n = true)) && ((decide (missingLines s pa n = [])) && (eqB (consumeSpan (cacheTouch s (classOfMaster m pa) pa n false) pa n) fun s1 => true))))))) = true → s.queued = [] ∧ pa < physTop ∧ ∃ i, freeSlot s m = some i ∧ rowBusy s pa n = false ∧ isMemory pa = true ∧ spanAccessible s pa n = true ∧ missingLines s pa n = [] ∧ ∃ s1, s1 = consumeSpan (cacheTouch s (classOfMaster m pa) pa n false) pa n := by
      intro s m pa n h
      refine and_of h (fun h => of_decide_eq_true h) fun h => ?_
      refine and_of h (fun h => of_decide_eq_true h) fun h => ?_
      refine some_of h fun i h => ?_
      refine and_of h (fun h => of_decide_eq_true h) fun h => ?_
      refine and_of h (fun h => of_decide_eq_true h) fun h => ?_
      refine and_of h (fun h => of_decide_eq_true h) fun h => ?_
      refine and_of h (fun h => of_decide_eq_true h) fun h => ?_
      obtain ⟨s1, h, -⟩ := eq_of (P := fun _ => True) h fun _ _ => trivial
      exact ⟨s1, h⟩
    exact ⟨on [uTile 0], .hre, 0x1000, 16, k _ _ _ _ (by decide +kernel)⟩
  · have k : ∀ (s : State) (m : Master) (pa : Nat) (n : Nat), ((decide (s.queued = [])) && ((decide (pa < physTop)) && (someB (freeSlot s m) fun i => (decide (rowBusy s pa n = false)) && ((decide (isMemory pa = true)) && ((decide (spanAccessible s pa n = true)) && (consB (missingLines s pa n) fun l ls => true)))))) = true → s.queued = [] ∧ pa < physTop ∧ ∃ i, freeSlot s m = some i ∧ rowBusy s pa n = false ∧ isMemory pa = true ∧ spanAccessible s pa n = true ∧ ∃ l ls, missingLines s pa n = l :: ls := by
      intro s m pa n h
      refine and_of h (fun h => of_decide_eq_true h) fun h => ?_
      refine and_of h (fun h => of_decide_eq_true h) fun h => ?_
      refine some_of h fun i h => ?_
      refine and_of h (fun h => of_decide_eq_true h) fun h => ?_
      refine and_of h (fun h => of_decide_eq_true h) fun h => ?_
      refine and_of h (fun h => of_decide_eq_true h) fun h => ?_
      obtain ⟨l, ls, h, -⟩ := cons_of (P := fun _ _ => True) h fun _ _ _ => trivial
      exact ⟨l, ls, h⟩
    exact ⟨chan3, .hre, 0x2800000000, 16, k _ _ _ _ (by decide +kernel)⟩
  · have k : ∀ (s : State) (m : Master) (pa : Nat) (n : Nat) (f : List CairnCheck), ((decide (s.queued = [])) && ((decide (pa < physTop)) && (someB (freeSlot s m) fun i => (decide (rowBusy s pa n = false)) && ((decide (isMemory pa = true)) && (decide (spanAccessible s pa n = false)))))) = true → s.queued = [] ∧ pa < physTop ∧ ∃ i, freeSlot s m = some i ∧ rowBusy s pa n = false ∧ isMemory pa = true ∧ spanAccessible s pa n = false := by
      intro s m pa n f h
      refine and_of h (fun h => of_decide_eq_true h) fun h => ?_
      refine and_of h (fun h => of_decide_eq_true h) fun h => ?_
      refine some_of h fun i h => ?_
      refine and_of h (fun h => of_decide_eq_true h) fun h => ?_
      refine and_of h (fun h => of_decide_eq_true h) fun h => ?_
      exact of_decide_eq_true h
    exact ⟨on [uTile 0], .hre, 0xFFFFFFF, 1, [], k _ _ _ _ ([]) (by decide +kernel)⟩
  · have k : ∀ (s : State) (m : Master) (pa : Nat) (bs : List Byte), ((decide (s.queued = [])) && ((decide (pa < physTop)) && (someB (freeSlot s m) fun i => (decide (rowBusy s pa bs.length = false)) && ((decide (isMemory pa = true)) && ((decide (spanState s pa bs.length ≠ .stalled)) && ((decide (spanAccessible s pa bs.length = true)) && (pairB (performWrite (logSpan s pa bs.length) (classOfMaster m pa) none pa bs) fun s1 e => true))))))) = true → s.queued = [] ∧ pa < physTop ∧ ∃ i, freeSlot s m = some i ∧ rowBusy s pa bs.length = false ∧ isMemory pa = true ∧ spanState s pa bs.length ≠ .stalled ∧ spanAccessible s pa bs.length = true ∧ ∃ s1 e, performWrite (logSpan s pa bs.length) (classOfMaster m pa) none pa bs = (s1, e) := by
      intro s m pa bs h
      refine and_of h (fun h => of_decide_eq_true h) fun h => ?_
      refine and_of h (fun h => of_decide_eq_true h) fun h => ?_
      refine some_of h fun i h => ?_
      refine and_of h (fun h => of_decide_eq_true h) fun h => ?_
      refine and_of h (fun h => of_decide_eq_true h) fun h => ?_
      refine and_of h (fun h => of_decide_eq_true h) fun h => ?_
      refine and_of h (fun h => of_decide_eq_true h) fun h => ?_
      obtain ⟨s1, e, h, -⟩ := pair_of (P := fun _ _ => True) h fun _ _ _ => trivial
      exact ⟨s1, e, h⟩
    exact ⟨on [uTile 0], .hre, 0x1000, [1, 2], k _ _ _ _ (by decide +kernel)⟩
  · have k : ∀ (s : State) (c : _) (i : _), ((decide (s.queued = [])) && (someB (sourceCore s c) fun d => someB ((s.core d).sbuf[i]?) fun e => (decide (((s.core d).sbuf.take i).any (fun x => sameGranule x.pa x.bytes.length e.pa e.bytes.length) = false)) && (decide (writeWaits s d e.pa e.bytes.length = false)))) = true → s.queued = [] ∧ ∃ d, sourceCore s c = some d ∧ ∃ e, (s.core d).sbuf[i]? = some e ∧ ((s.core d).sbuf.take i).any (fun x => sameGranule x.pa x.bytes.length e.pa e.bytes.length) = false ∧ writeWaits s d e.pa e.bytes.length = false := by
      intro s c i h
      refine and_of h (fun h => of_decide_eq_true h) fun h => ?_
      refine some_of h fun d h => ?_
      refine some_of h fun e h => ?_
      refine and_of h (fun h => of_decide_eq_true h) fun h => ?_
      exact of_decide_eq_true h
    exact ⟨withCore (on [uTile 0]) (fun k => { k with sbuf := [⟨0x1000, [1, 2, 3, 4, 5, 6, 7, 8], true, false⟩] }), 0, 0, k _ _ _ (by decide +kernel)⟩

/-- The hypotheses of part 3 of Obligations.MemoryRepairsComplete are met. -/
theorem witness_RequestsWaitOrReachFurther :
    (∃ (s : State) (r : MemReq) (f : List CairnCheck), s.queued = [] ∧ requestAddress r < physTop ∧ requestWaits s r = true)
    ∧ (∃ (s : State) (c : CoreId) (pa : Nat) (f : List CairnCheck), s.queued = [] ∧ pa < physTop ∧ ∃ i, freeSlot s (.core c) = some i ∧ inDevice pa = true ∧ pa % 8 = 0 ∧ rowBusy s pa 8 = false ∧ isMemory pa = false)
    ∧ (∃ (s : State) (m : Master) (pa : Nat) (n : Nat) (f : List CairnCheck), s.queued = [] ∧ pa < physTop ∧ ∃ i, freeSlot s m = some i ∧ inDevice pa = false ∧ inHostWindow pa = true ∧ rowBusy s pa n = false ∧ isMemory pa = false ∧ reachesHost m = true ∧ s.pcie.link = true)
    ∧ (∃ (s : State) (m : Master) (pa : Nat) (n : Nat) (f : List CairnCheck), s.queued = [] ∧ pa < physTop ∧ ∃ i, freeSlot s m = some i ∧ inDevice pa = false ∧ isMemory pa = false ∧ rowBusy s pa n = false ∧ ((inHostWindow pa = false ∨ reachesHost m = false)))
    ∧ (∃ (s : State) (m : Master) (pa : Nat) (n : Nat) (f : List CairnCheck), s.queued = [] ∧ pa < physTop ∧ ∃ i, freeSlot s m = some i ∧ inDevice pa = false ∧ isMemory pa = false ∧ rowBusy s pa n = false ∧ ((inHostWindow pa = false ∨ reachesHost m = false))) := by
  refine ⟨?_, ?_, ?_, ?_, ?_⟩
  · have k : ∀ (s : State) (r : MemReq) (f : List CairnCheck), ((decide (s.queued = [])) && ((decide (requestAddress r < physTop)) && (decide (requestWaits s r = true)))) = true → s.queued = [] ∧ requestAddress r < physTop ∧ requestWaits s r = true := by
      intro s r f h
      refine and_of h (fun h => of_decide_eq_true h) fun h => ?_
      refine and_of h (fun h => of_decide_eq_true h) fun h => ?_
      exact of_decide_eq_true h
    exact ⟨{ on [uTile 0] with rowRepair := [(0, rowOf 0x1000)] }, .read .hre 0x1000 16, [], k _ _ ([]) (by decide +kernel)⟩
  · have k : ∀ (s : State) (c : CoreId) (pa : Nat) (f : List CairnCheck), ((decide (s.queued = [])) && ((decide (pa < physTop)) && (someB (freeSlot s (.core c)) fun i => (decide (inDevice pa = true)) && ((decide (pa % 8 = 0)) && ((decide (rowBusy s pa 8 = false)) && (decide (isMemory pa = false))))))) = true → s.queued = [] ∧ pa < physTop ∧ ∃ i, freeSlot s (.core c) = some i ∧ inDevice pa = true ∧ pa % 8 = 0 ∧ rowBusy s pa 8 = false ∧ isMemory pa = false := by
      intro s c pa f h
      refine and_of h (fun h => of_decide_eq_true h) fun h => ?_
      refine and_of h (fun h => of_decide_eq_true h) fun h => ?_
      refine some_of h fun i h => ?_
      refine and_of h (fun h => of_decide_eq_true h) fun h => ?_
      refine and_of h (fun h => of_decide_eq_true h) fun h => ?_
      refine and_of h (fun h => of_decide_eq_true h) fun h => ?_
      exact of_decide_eq_true h
    exact ⟨on [uTile 0], 95, 0x800FFFFF8, [], k _ _ _ ([]) (by decide +kernel)⟩
  · have k : ∀ (s : State) (m : Master) (pa : Nat) (n : Nat) (f : List CairnCheck), ((decide (s.queued = [])) && ((decide (pa < physTop)) && (someB (freeSlot s m) fun i => (decide (inDevice pa = false)) && ((decide (inHostWindow pa = true)) && ((decide (rowBusy s pa n = false)) && ((decide (isMemory pa = false)) && ((decide (reachesHost m = true)) && (decide (s.pcie.link = true))))))))) = true → s.queued = [] ∧ pa < physTop ∧ ∃ i, freeSlot s m = some i ∧ inDevice pa = false ∧ inHostWindow pa = true ∧ rowBusy s pa n = false ∧ isMemory pa = false ∧ reachesHost m = true ∧ s.pcie.link = true := by
      intro s m pa n f h
      refine and_of h (fun h => of_decide_eq_true h) fun h => ?_
      refine and_of h (fun h => of_decide_eq_true h) fun h => ?_
      refine some_of h fun i h => ?_
      refine and_of h (fun h => of_decide_eq_true h) fun h => ?_
      refine and_of h (fun h => of_decide_eq_true h) fun h => ?_
      refine and_of h (fun h => of_decide_eq_true h) fun h => ?_
      refine and_of h (fun h => of_decide_eq_true h) fun h => ?_
      refine and_of h (fun h => of_decide_eq_true h) fun h => ?_
      exact of_decide_eq_true h
    exact ⟨{ on [] with pcie := { State.reset.pcie with link := true } }, .hre, 0xFFFFFFFFFF0, 16, [], k _ _ _ _ ([]) (by decide +kernel)⟩
  · have k : ∀ (s : State) (m : Master) (pa : Nat) (n : Nat) (f : List CairnCheck), ((decide (s.queued = [])) && ((decide (pa < physTop)) && (someB (freeSlot s m) fun i => (decide (inDevice pa = false)) && ((decide (isMemory pa = false)) && ((decide (rowBusy s pa n = false)) && (decide ((inHostWindow pa = false ∨ reachesHost m = false)))))))) = true → s.queued = [] ∧ pa < physTop ∧ ∃ i, freeSlot s m = some i ∧ inDevice pa = false ∧ isMemory pa = false ∧ rowBusy s pa n = false ∧ ((inHostWindow pa = false ∨ reachesHost m = false)) := by
      intro s m pa n f h
      refine and_of h (fun h => of_decide_eq_true h) fun h => ?_
      refine and_of h (fun h => of_decide_eq_true h) fun h => ?_
      refine some_of h fun i h => ?_
      refine and_of h (fun h => of_decide_eq_true h) fun h => ?_
      refine and_of h (fun h => of_decide_eq_true h) fun h => ?_
      refine and_of h (fun h => of_decide_eq_true h) fun h => ?_
      exact of_decide_eq_true h
    exact ⟨on [uTile 0], .crag, 0xFFFFFFFFFF0, 16, [], k _ _ _ _ ([]) (by decide +kernel)⟩
  · have k : ∀ (s : State) (m : Master) (pa : Nat) (n : Nat) (f : List CairnCheck), ((decide (s.queued = [])) && ((decide (pa < physTop)) && (someB (freeSlot s m) fun i => (decide (inDevice pa = false)) && ((decide (isMemory pa = false)) && ((decide (rowBusy s pa n = false)) && (decide ((inHostWindow pa = false ∨ reachesHost m = false)))))))) = true → s.queued = [] ∧ pa < physTop ∧ ∃ i, freeSlot s m = some i ∧ inDevice pa = false ∧ isMemory pa = false ∧ rowBusy s pa n = false ∧ ((inHostWindow pa = false ∨ reachesHost m = false)) := by
      intro s m pa n f h
      refine and_of h (fun h => of_decide_eq_true h) fun h => ?_
      refine and_of h (fun h => of_decide_eq_true h) fun h => ?_
      refine some_of h fun i h => ?_
      refine and_of h (fun h => of_decide_eq_true h) fun h => ?_
      refine and_of h (fun h => of_decide_eq_true h) fun h => ?_
      refine and_of h (fun h => of_decide_eq_true h) fun h => ?_
      exact of_decide_eq_true h
    exact ⟨on [uTile 0], .hre, 0x3000000000, 16, [], k _ _ _ _ ([]) (by decide +kernel)⟩

/-- The hypotheses of part 1 of Obligations.MemoryRepairsComplete are met. -/
theorem witness_PatrolCompletes :
    (∃ (s : State) (pa : Nat), pa < physTop)
    ∧ (∃ (s : State) (pa : Nat) (f : Codeword), pa < physTop ∧ accessible s pa = true ∧ poisoned s pa = false ∧ ∃ t, tileOfPa pa = some t ∧ channelOfPa pa = none ∧ ∃ e, findingError 1 (judge f).1 = some e ∧ e.kind = 3)
    ∧ (∃ (s : State) (pa : Nat) (f : Codeword), physTop ≤ pa) := by
  refine ⟨?_, ?_, ?_⟩
  · have k : ∀ (s : State) (pa : Nat), (decide (pa < physTop)) = true → pa < physTop := by
      intro s pa h
      exact of_decide_eq_true h
    exact ⟨on [uTile 0], 0xFFFFFFFFFFF, k (on [uTile 0]) _ (by decide +kernel)⟩
  · have k : ∀ (s : State) (pa : Nat) (f : Codeword), ((decide (pa < physTop)) && ((decide (accessible s pa = true)) && ((decide (poisoned s pa = false)) && (someB (tileOfPa pa) fun t => (decide (channelOfPa pa = none)) && (someB (findingError 1 (judge f).1) fun e => decide (e.kind = 3)))))) = true → pa < physTop ∧ accessible s pa = true ∧ poisoned s pa = false ∧ ∃ t, tileOfPa pa = some t ∧ channelOfPa pa = none ∧ ∃ e, findingError 1 (judge f).1 = some e ∧ e.kind = 3 := by
      intro s pa f h
      refine and_of h (fun h => of_decide_eq_true h) fun h => ?_
      refine and_of h (fun h => of_decide_eq_true h) fun h => ?_
      refine and_of h (fun h => of_decide_eq_true h) fun h => ?_
      refine some_of h fun t h => ?_
      refine and_of h (fun h => of_decide_eq_true h) fun h => ?_
      refine some_of h fun e h => ?_
      exact of_decide_eq_true h
    exact ⟨on [uTile 0], 0x1000, 0x11, k _ _ _ (by decide +kernel)⟩
  · have k : ∀ (s : State) (pa : Nat) (f : Codeword), (decide (physTop ≤ pa)) = true → physTop ≤ pa := by
      intro s pa f h
      exact of_decide_eq_true h
    exact ⟨on [uTile 0], 0x100000000000, 0, k (on [uTile 0]) _ (0) (by decide +kernel)⟩

/-- The hypotheses of part 2 of Obligations.MemoryRepairsComplete are met. -/
theorem witness_RowRepairsComplete :
    (∃ (s : State) (t : TileId) (w : SetupWrite), acts w 63 = true ∧ mayReach s w.agent .cfgTsrep t.val = true ∧ s.flag .cfgTsrstat t.val 63 = false ∧ ∃ s1, s1 = storeSetup s .cfgTsrep t.val w ∧ ∃ pa, pa = 16 * s1.fld .cfgTsrep t.val 43 4 ∧ tileOfPa pa = some t.val ∧ (repairedRows s t.val).contains (rowOf pa) = false ∧ bankUsed s t.val (bankOf pa) < 4)
    ∧ (∃ (s : State) (t : TileId), ∃ row, Tbl.get? s.rowRepair t.val = some row ∧ ∃ s1, s1 = { s with rowRepair := Tbl.del s.rowRepair t.val, repaired := Tbl.put s.repaired t.val (insertNat (repairedRows s t.val) row) }) := by
  refine ⟨?_, ?_⟩
  · have k : ∀ (s : State) (t : TileId) (w : SetupWrite), ((decide (acts w 63 = true)) && ((decide (mayReach s w.agent .cfgTsrep t.val = true)) && ((decide (s.flag .cfgTsrstat t.val 63 = false)) && (eqB (storeSetup s .cfgTsrep t.val w) fun s1 => eqB (16 * s1.fld .cfgTsrep t.val 43 4) fun pa => (decide (tileOfPa pa = some t.val)) && ((decide ((repairedRows s t.val).contains (rowOf pa) = false)) && (decide (bankUsed s t.val (bankOf pa) < 4))))))) = true → acts w 63 = true ∧ mayReach s w.agent .cfgTsrep t.val = true ∧ s.flag .cfgTsrstat t.val 63 = false ∧ ∃ s1, s1 = storeSetup s .cfgTsrep t.val w ∧ ∃ pa, pa = 16 * s1.fld .cfgTsrep t.val 43 4 ∧ tileOfPa pa = some t.val ∧ (repairedRows s t.val).contains (rowOf pa) = false ∧ bankUsed s t.val (bankOf pa) < 4 := by
      intro s t w h
      refine and_of h (fun h => of_decide_eq_true h) fun h => ?_
      refine and_of h (fun h => of_decide_eq_true h) fun h => ?_
      refine and_of h (fun h => of_decide_eq_true h) fun h => ?_
      refine eq_of h fun s1 h => ?_
      refine eq_of h fun pa h => ?_
      refine and_of h (fun h => of_decide_eq_true h) fun h => ?_
      refine and_of h (fun h => of_decide_eq_true h) fun h => ?_
      exact of_decide_eq_true h
    exact ⟨on [uTile 0], 0, sw (2 ^ 63 + 0x1000), k _ _ _ (by decide +kernel)⟩
  · have k : ∀ (s : State) (t : TileId), (someB (Tbl.get? s.rowRepair t.val) fun row => eqB ({ s with rowRepair := Tbl.del s.rowRepair t.val, repaired := Tbl.put s.repaired t.val (insertNat (repairedRows s t.val) row) }) fun s1 => true) = true → ∃ row, Tbl.get? s.rowRepair t.val = some row ∧ ∃ s1, s1 = { s with rowRepair := Tbl.del s.rowRepair t.val, repaired := Tbl.put s.repaired t.val (insertNat (repairedRows s t.val) row) } := by
      intro s t h
      refine some_of h fun row h => ?_
      obtain ⟨s1, h, -⟩ := eq_of (P := fun _ => True) h fun _ _ => trivial
      exact ⟨s1, h⟩
    exact ⟨{ on [uTile 0] with rowRepair := [(0, 5)] }, 0, k _ _ (by decide +kernel)⟩

/-- The hypotheses of part 1 of Obligations.DeepMemoryEventsComplete are met. -/
theorem witness_ChannelReadsComplete :
    (∃ (s : State) (q : QuadId), s.online (uChan q.val) = true ∧ (s.deepOf q.val).retraining = false ∧ ∃ e es, (s.deepOf q.val).evict = e :: es ∧ e.issued = false)
    ∧ (∃ (s : State) (q : QuadId), s.online (uChan q.val) = true ∧ (s.deepOf q.val).retraining = false ∧ ∃ e es, (s.deepOf q.val).evict = e :: es ∧ e.issued = true)
    ∧ (∃ (s : State) (q : QuadId) (line : _) (g : Fin 4) (again : Codeword), mayReadLine s q.val line = true ∧ (s.deepOf q.val).retraining = false)
    ∧ (∃ (s : State) (q : QuadId) (line : _), mayReadLine s q.val line = true ∧ (s.deepOf q.val).retraining = false ∧ (s.deepOf q.val).reads.any (fun x => x.1 == line) = true)
    ∧ (∃ (s : State) (q : QuadId) (line : _), mayReadLine s q.val line = true ∧ (s.deepOf q.val).retraining = false ∧ (s.deepOf q.val).reads.any (fun x => x.1 == line) = false)
    ∧ (∃ (s : State) (q : QuadId), s.online (uChan q.val) = true) := by
  refine ⟨?_, ?_, ?_, ?_, ?_, ?_⟩
  · have k : ∀ (s : State) (q : QuadId), ((decide (s.online (uChan q.val) = true)) && ((decide ((s.deepOf q.val).retraining = false)) && (consB ((s.deepOf q.val).evict) fun e es => decide (e.issued = false)))) = true → s.online (uChan q.val) = true ∧ (s.deepOf q.val).retraining = false ∧ ∃ e es, (s.deepOf q.val).evict = e :: es ∧ e.issued = false := by
      intro s q h
      refine and_of h (fun h => of_decide_eq_true h) fun h => ?_
      refine and_of h (fun h => of_decide_eq_true h) fun h => ?_
      refine cons_of h fun e es h => ?_
      exact of_decide_eq_true h
    exact ⟨chan3.setDeep 3 { Deep.empty with evict := [⟨0xA0000000, false, [], []⟩] }, 3, k _ _ (by decide +kernel)⟩
  · have k : ∀ (s : State) (q : QuadId), ((decide (s.online (uChan q.val) = true)) && ((decide ((s.deepOf q.val).retraining = false)) && (consB ((s.deepOf q.val).evict) fun e es => decide (e.issued = true)))) = true → s.online (uChan q.val) = true ∧ (s.deepOf q.val).retraining = false ∧ ∃ e es, (s.deepOf q.val).evict = e :: es ∧ e.issued = true := by
      intro s q h
      refine and_of h (fun h => of_decide_eq_true h) fun h => ?_
      refine and_of h (fun h => of_decide_eq_true h) fun h => ?_
      refine cons_of h fun e es h => ?_
      exact of_decide_eq_true h
    exact ⟨chan3.setDeep 3 { Deep.empty with evict := [⟨0xA0000000, true, [], []⟩] }, 3, k _ _ (by decide +kernel)⟩
  · have k : ∀ (s : State) (q : QuadId) (line : _) (g : Fin 4) (again : Codeword), ((decide (mayReadLine s q.val line = true)) && (decide ((s.deepOf q.val).retraining = false))) = true → mayReadLine s q.val line = true ∧ (s.deepOf q.val).retraining = false := by
      intro s q line g again h
      refine and_of h (fun h => of_decide_eq_true h) fun h => ?_
      exact of_decide_eq_true h
    exact ⟨chan3, 3, 0xA0000000, 3, 0, k _ _ _ (3) (0) (by decide +kernel)⟩
  · have k : ∀ (s : State) (q : QuadId) (line : _), ((decide (mayReadLine s q.val line = true)) && ((decide ((s.deepOf q.val).retraining = false)) && (decide ((s.deepOf q.val).reads.any (fun x => x.1 == line) = true)))) = true → mayReadLine s q.val line = true ∧ (s.deepOf q.val).retraining = false ∧ (s.deepOf q.val).reads.any (fun x => x.1 == line) = true := by
      intro s q line h
      refine and_of h (fun h => of_decide_eq_true h) fun h => ?_
      refine and_of h (fun h => of_decide_eq_true h) fun h => ?_
      exact of_decide_eq_true h
    exact ⟨chan3.setDeep 3 { Deep.empty with reads := [(0xA0000000, 5)] }, 3, 0xA0000000, k _ _ _ (by decide +kernel)⟩
  · have k : ∀ (s : State) (q : QuadId) (line : _), ((decide (mayReadLine s q.val line = true)) && ((decide ((s.deepOf q.val).retraining = false)) && (decide ((s.deepOf q.val).reads.any (fun x => x.1 == line) = false)))) = true → mayReadLine s q.val line = true ∧ (s.deepOf q.val).retraining = false ∧ (s.deepOf q.val).reads.any (fun x => x.1 == line) = false := by
      intro s q line h
      refine and_of h (fun h => of_decide_eq_true h) fun h => ?_
      refine and_of h (fun h => of_decide_eq_true h) fun h => ?_
      exact of_decide_eq_true h
    exact ⟨chan3, 3, 0xA0000000, k _ _ _ (by decide +kernel)⟩
  · have k : ∀ (s : State) (q : QuadId), (decide (s.online (uChan q.val) = true)) = true → s.online (uChan q.val) = true := by
      intro s q h
      exact of_decide_eq_true h
    exact ⟨chan3, 3, k _ _ (by decide +kernel)⟩

/-- The hypotheses of Obligations.RangeOperationsComplete are met. -/
theorem witness_RangeOperationsComplete :
    (∃ (s : State) (q : QuadId) (w : SetupWrite), acts w 63 = true ∧ wfld w 59 56 = 1 ∧ mayReach s w.agent .dmcRop q.val = true ∧ s.flag .dmcRstat q.val 63 = false ∧ ∃ s1, s1 = storeSetup s .dmcRop q.val w ∧ s1.fld .dmcRop q.val 59 56 = 1 ∧ ∃ o, o = (⟨1, s1.fld .dmcRop q.val 50 48, s1.fld .dmcRbase q.val 43 6, s1.fld .dmcRop q.val 31 0⟩ : RangeOp))
    ∧ (∃ (s : State) (q : QuadId) (w : SetupWrite), acts w 63 = true ∧ wfld w 59 56 = 2 ∧ mayReach s w.agent .dmcRop q.val = true ∧ s.flag .dmcRstat q.val 63 = false ∧ ∃ s1, s1 = storeSetup s .dmcRop q.val w ∧ s1.fld .dmcRop q.val 59 56 = 2 ∧ ∃ o, o = (⟨2, s1.fld .dmcRop q.val 50 48, s1.fld .dmcRbase q.val 43 6, s1.fld .dmcRop q.val 31 0⟩ : RangeOp))
    ∧ (∃ (s : State) (q : QuadId) (w : SetupWrite), acts w 63 = true ∧ wfld w 59 56 = 3 ∧ mayReach s w.agent .dmcRop q.val = true ∧ s.flag .dmcRstat q.val 63 = false ∧ ∃ s1, s1 = storeSetup s .dmcRop q.val w ∧ s1.fld .dmcRop q.val 59 56 = 3 ∧ ∃ o, o = (⟨3, s1.fld .dmcRop q.val 50 48, s1.fld .dmcRbase q.val 43 6, s1.fld .dmcRop q.val 31 0⟩ : RangeOp))
    ∧ (∃ (s : State) (q : QuadId) (w : SetupWrite), acts w 63 = true ∧ wfld w 59 56 = 4 ∧ mayReach s w.agent .dmcRop q.val = true ∧ s.flag .dmcRstat q.val 63 = false ∧ ∃ s1, s1 = storeSetup s .dmcRop q.val w ∧ s1.fld .dmcRop q.val 59 56 = 4 ∧ ∃ o, o = (⟨4, s1.fld .dmcRop q.val 50 48, s1.fld .dmcRbase q.val 43 6, s1.fld .dmcRop q.val 31 0⟩ : RangeOp))
    ∧ (∃ (s : State) (q : QuadId) (w : SetupWrite), acts w 63 = true ∧ wfld w 59 56 = 5 ∧ mayReach s w.agent .dmcRop q.val = true ∧ s.flag .dmcRstat q.val 63 = false ∧ ∃ s1, s1 = storeSetup s .dmcRop q.val w ∧ s1.fld .dmcRop q.val 59 56 = 5 ∧ ∃ o, o = (⟨5, s1.fld .dmcRop q.val 50 48, s1.fld .dmcRbase q.val 43 6, s1.fld .dmcRop q.val 31 0⟩ : RangeOp))
    ∧ (∃ (s : State) (q : QuadId) (w : SetupWrite), acts w 63 = true ∧ wfld w 59 56 = 6 ∧ mayReach s w.agent .dmcRop q.val = true ∧ s.flag .dmcRstat q.val 63 = false ∧ ∃ s1, s1 = storeSetup s .dmcRop q.val w ∧ s1.fld .dmcRop q.val 59 56 = 6 ∧ ∃ o, o = (⟨6, s1.fld .dmcRop q.val 50 48, s1.fld .dmcRbase q.val 43 6, s1.fld .dmcRop q.val 31 0⟩ : RangeOp))
    ∧ (∃ (s : State) (q : QuadId) (w : SetupWrite), acts w 63 = true ∧ wfld w 59 56 = 1 ∧ mayReach s w.agent .dmcRop q.val = true ∧ s.flag .dmcRstat q.val 63 = true)
    ∧ (∃ (s : State) (q : QuadId) (w : SetupWrite), acts w 63 = true ∧ wfld w 59 56 = 2 ∧ mayReach s w.agent .dmcRop q.val = true ∧ s.flag .dmcRstat q.val 63 = true)
    ∧ (∃ (s : State) (q : QuadId) (w : SetupWrite), acts w 63 = true ∧ wfld w 59 56 = 3 ∧ mayReach s w.agent .dmcRop q.val = true ∧ s.flag .dmcRstat q.val 63 = true)
    ∧ (∃ (s : State) (q : QuadId) (w : SetupWrite), acts w 63 = true ∧ wfld w 59 56 = 4 ∧ mayReach s w.agent .dmcRop q.val = true ∧ s.flag .dmcRstat q.val 63 = true)
    ∧ (∃ (s : State) (q : QuadId) (w : SetupWrite), acts w 63 = true ∧ wfld w 59 56 = 5 ∧ mayReach s w.agent .dmcRop q.val = true ∧ s.flag .dmcRstat q.val 63 = true)
    ∧ (∃ (s : State) (q : QuadId) (w : SetupWrite), acts w 63 = true ∧ wfld w 59 56 = 6 ∧ mayReach s w.agent .dmcRop q.val = true ∧ s.flag .dmcRstat q.val 63 = true)
    ∧ (∃ (s : State) (q : QuadId), ∃ r, (s.deepOf q.val).op = some r ∧ ∃ n, n = linesInside s q.val r ∧ ∃ v, v = (visited s q.val n r).foldl (visit q.val r.op r.cls) ⟨s, 0, 0⟩ ∧ ∃ s1, s1 = v.s.setDeep q.val { v.s.deepOf q.val with op := none } ∧ ∃ s2, s2 = (s1.setF .dmcRstat q.val 63 63 0).setF .dmcRstat q.val 61 56 (if r.op ≠ 0 ∧ n < r.lines then 2 else 1)) := by
  refine ⟨?_, ?_, ?_, ?_, ?_, ?_, ?_, ?_, ?_, ?_, ?_, ?_, ?_⟩
  · have k : ∀ (s : State) (q : QuadId) (w : SetupWrite), ((decide (acts w 63 = true)) && ((decide (wfld w 59 56 = 1)) && ((decide (mayReach s w.agent .dmcRop q.val = true)) && ((decide (s.flag .dmcRstat q.val 63 = false)) && (eqB (storeSetup s .dmcRop q.val w) fun s1 => (decide (s1.fld .dmcRop q.val 59 56 = 1)) && (eqB ((⟨1, s1.fld .dmcRop q.val 50 48, s1.fld .dmcRbase q.val 43 6, s1.fld .dmcRop q.val 31 0⟩ : RangeOp)) fun o => true)))))) = true → acts w 63 = true ∧ wfld w 59 56 = 1 ∧ mayReach s w.agent .dmcRop q.val = true ∧ s.flag .dmcRstat q.val 63 = false ∧ ∃ s1, s1 = storeSetup s .dmcRop q.val w ∧ s1.fld .dmcRop q.val 59 56 = 1 ∧ ∃ o, o = (⟨1, s1.fld .dmcRop q.val 50 48, s1.fld .dmcRbase q.val 43 6, s1.fld .dmcRop q.val 31 0⟩ : RangeOp) := by
      intro s q w h
      refine and_of h (fun h => of_decide_eq_true h) fun h => ?_
      refine and_of h (fun h => of_decide_eq_true h) fun h => ?_
      refine and_of h (fun h => of_decide_eq_true h) fun h => ?_
      refine and_of h (fun h => of_decide_eq_true h) fun h => ?_
      refine eq_of h fun s1 h => ?_
      refine and_of h (fun h => of_decide_eq_true h) fun h => ?_
      obtain ⟨o, h, -⟩ := eq_of (P := fun _ => True) h fun _ _ => trivial
      exact ⟨o, h⟩
    exact ⟨chan3, 3, sw (2 ^ 63 + 1 * 2 ^ 56), k _ _ _ (by decide +kernel)⟩
  · have k : ∀ (s : State) (q : QuadId) (w : SetupWrite), ((decide (acts w 63 = true)) && ((decide (wfld w 59 56 = 2)) && ((decide (mayReach s w.agent .dmcRop q.val = true)) && ((decide (s.flag .dmcRstat q.val 63 = false)) && (eqB (storeSetup s .dmcRop q.val w) fun s1 => (decide (s1.fld .dmcRop q.val 59 56 = 2)) && (eqB ((⟨2, s1.fld .dmcRop q.val 50 48, s1.fld .dmcRbase q.val 43 6, s1.fld .dmcRop q.val 31 0⟩ : RangeOp)) fun o => true)))))) = true → acts w 63 = true ∧ wfld w 59 56 = 2 ∧ mayReach s w.agent .dmcRop q.val = true ∧ s.flag .dmcRstat q.val 63 = false ∧ ∃ s1, s1 = storeSetup s .dmcRop q.val w ∧ s1.fld .dmcRop q.val 59 56 = 2 ∧ ∃ o, o = (⟨2, s1.fld .dmcRop q.val 50 48, s1.fld .dmcRbase q.val 43 6, s1.fld .dmcRop q.val 31 0⟩ : RangeOp) := by
      intro s q w h
      refine and_of h (fun h => of_decide_eq_true h) fun h => ?_
      refine and_of h (fun h => of_decide_eq_true h) fun h => ?_
      refine and_of h (fun h => of_decide_eq_true h) fun h => ?_
      refine and_of h (fun h => of_decide_eq_true h) fun h => ?_
      refine eq_of h fun s1 h => ?_
      refine and_of h (fun h => of_decide_eq_true h) fun h => ?_
      obtain ⟨o, h, -⟩ := eq_of (P := fun _ => True) h fun _ _ => trivial
      exact ⟨o, h⟩
    exact ⟨chan3, 3, sw (2 ^ 63 + 2 * 2 ^ 56), k _ _ _ (by decide +kernel)⟩
  · have k : ∀ (s : State) (q : QuadId) (w : SetupWrite), ((decide (acts w 63 = true)) && ((decide (wfld w 59 56 = 3)) && ((decide (mayReach s w.agent .dmcRop q.val = true)) && ((decide (s.flag .dmcRstat q.val 63 = false)) && (eqB (storeSetup s .dmcRop q.val w) fun s1 => (decide (s1.fld .dmcRop q.val 59 56 = 3)) && (eqB ((⟨3, s1.fld .dmcRop q.val 50 48, s1.fld .dmcRbase q.val 43 6, s1.fld .dmcRop q.val 31 0⟩ : RangeOp)) fun o => true)))))) = true → acts w 63 = true ∧ wfld w 59 56 = 3 ∧ mayReach s w.agent .dmcRop q.val = true ∧ s.flag .dmcRstat q.val 63 = false ∧ ∃ s1, s1 = storeSetup s .dmcRop q.val w ∧ s1.fld .dmcRop q.val 59 56 = 3 ∧ ∃ o, o = (⟨3, s1.fld .dmcRop q.val 50 48, s1.fld .dmcRbase q.val 43 6, s1.fld .dmcRop q.val 31 0⟩ : RangeOp) := by
      intro s q w h
      refine and_of h (fun h => of_decide_eq_true h) fun h => ?_
      refine and_of h (fun h => of_decide_eq_true h) fun h => ?_
      refine and_of h (fun h => of_decide_eq_true h) fun h => ?_
      refine and_of h (fun h => of_decide_eq_true h) fun h => ?_
      refine eq_of h fun s1 h => ?_
      refine and_of h (fun h => of_decide_eq_true h) fun h => ?_
      obtain ⟨o, h, -⟩ := eq_of (P := fun _ => True) h fun _ _ => trivial
      exact ⟨o, h⟩
    exact ⟨chan3, 3, sw (2 ^ 63 + 3 * 2 ^ 56), k _ _ _ (by decide +kernel)⟩
  · have k : ∀ (s : State) (q : QuadId) (w : SetupWrite), ((decide (acts w 63 = true)) && ((decide (wfld w 59 56 = 4)) && ((decide (mayReach s w.agent .dmcRop q.val = true)) && ((decide (s.flag .dmcRstat q.val 63 = false)) && (eqB (storeSetup s .dmcRop q.val w) fun s1 => (decide (s1.fld .dmcRop q.val 59 56 = 4)) && (eqB ((⟨4, s1.fld .dmcRop q.val 50 48, s1.fld .dmcRbase q.val 43 6, s1.fld .dmcRop q.val 31 0⟩ : RangeOp)) fun o => true)))))) = true → acts w 63 = true ∧ wfld w 59 56 = 4 ∧ mayReach s w.agent .dmcRop q.val = true ∧ s.flag .dmcRstat q.val 63 = false ∧ ∃ s1, s1 = storeSetup s .dmcRop q.val w ∧ s1.fld .dmcRop q.val 59 56 = 4 ∧ ∃ o, o = (⟨4, s1.fld .dmcRop q.val 50 48, s1.fld .dmcRbase q.val 43 6, s1.fld .dmcRop q.val 31 0⟩ : RangeOp) := by
      intro s q w h
      refine and_of h (fun h => of_decide_eq_true h) fun h => ?_
      refine and_of h (fun h => of_decide_eq_true h) fun h => ?_
      refine and_of h (fun h => of_decide_eq_true h) fun h => ?_
      refine and_of h (fun h => of_decide_eq_true h) fun h => ?_
      refine eq_of h fun s1 h => ?_
      refine and_of h (fun h => of_decide_eq_true h) fun h => ?_
      obtain ⟨o, h, -⟩ := eq_of (P := fun _ => True) h fun _ _ => trivial
      exact ⟨o, h⟩
    exact ⟨chan3, 3, sw (2 ^ 63 + 4 * 2 ^ 56), k _ _ _ (by decide +kernel)⟩
  · have k : ∀ (s : State) (q : QuadId) (w : SetupWrite), ((decide (acts w 63 = true)) && ((decide (wfld w 59 56 = 5)) && ((decide (mayReach s w.agent .dmcRop q.val = true)) && ((decide (s.flag .dmcRstat q.val 63 = false)) && (eqB (storeSetup s .dmcRop q.val w) fun s1 => (decide (s1.fld .dmcRop q.val 59 56 = 5)) && (eqB ((⟨5, s1.fld .dmcRop q.val 50 48, s1.fld .dmcRbase q.val 43 6, s1.fld .dmcRop q.val 31 0⟩ : RangeOp)) fun o => true)))))) = true → acts w 63 = true ∧ wfld w 59 56 = 5 ∧ mayReach s w.agent .dmcRop q.val = true ∧ s.flag .dmcRstat q.val 63 = false ∧ ∃ s1, s1 = storeSetup s .dmcRop q.val w ∧ s1.fld .dmcRop q.val 59 56 = 5 ∧ ∃ o, o = (⟨5, s1.fld .dmcRop q.val 50 48, s1.fld .dmcRbase q.val 43 6, s1.fld .dmcRop q.val 31 0⟩ : RangeOp) := by
      intro s q w h
      refine and_of h (fun h => of_decide_eq_true h) fun h => ?_
      refine and_of h (fun h => of_decide_eq_true h) fun h => ?_
      refine and_of h (fun h => of_decide_eq_true h) fun h => ?_
      refine and_of h (fun h => of_decide_eq_true h) fun h => ?_
      refine eq_of h fun s1 h => ?_
      refine and_of h (fun h => of_decide_eq_true h) fun h => ?_
      obtain ⟨o, h, -⟩ := eq_of (P := fun _ => True) h fun _ _ => trivial
      exact ⟨o, h⟩
    exact ⟨chan3, 3, sw (2 ^ 63 + 5 * 2 ^ 56), k _ _ _ (by decide +kernel)⟩
  · have k : ∀ (s : State) (q : QuadId) (w : SetupWrite), ((decide (acts w 63 = true)) && ((decide (wfld w 59 56 = 6)) && ((decide (mayReach s w.agent .dmcRop q.val = true)) && ((decide (s.flag .dmcRstat q.val 63 = false)) && (eqB (storeSetup s .dmcRop q.val w) fun s1 => (decide (s1.fld .dmcRop q.val 59 56 = 6)) && (eqB ((⟨6, s1.fld .dmcRop q.val 50 48, s1.fld .dmcRbase q.val 43 6, s1.fld .dmcRop q.val 31 0⟩ : RangeOp)) fun o => true)))))) = true → acts w 63 = true ∧ wfld w 59 56 = 6 ∧ mayReach s w.agent .dmcRop q.val = true ∧ s.flag .dmcRstat q.val 63 = false ∧ ∃ s1, s1 = storeSetup s .dmcRop q.val w ∧ s1.fld .dmcRop q.val 59 56 = 6 ∧ ∃ o, o = (⟨6, s1.fld .dmcRop q.val 50 48, s1.fld .dmcRbase q.val 43 6, s1.fld .dmcRop q.val 31 0⟩ : RangeOp) := by
      intro s q w h
      refine and_of h (fun h => of_decide_eq_true h) fun h => ?_
      refine and_of h (fun h => of_decide_eq_true h) fun h => ?_
      refine and_of h (fun h => of_decide_eq_true h) fun h => ?_
      refine and_of h (fun h => of_decide_eq_true h) fun h => ?_
      refine eq_of h fun s1 h => ?_
      refine and_of h (fun h => of_decide_eq_true h) fun h => ?_
      obtain ⟨o, h, -⟩ := eq_of (P := fun _ => True) h fun _ _ => trivial
      exact ⟨o, h⟩
    exact ⟨chan3, 3, sw (2 ^ 63 + 6 * 2 ^ 56), k _ _ _ (by decide +kernel)⟩
  · have k : ∀ (s : State) (q : QuadId) (w : SetupWrite), ((decide (acts w 63 = true)) && ((decide (wfld w 59 56 = 1)) && ((decide (mayReach s w.agent .dmcRop q.val = true)) && (decide (s.flag .dmcRstat q.val 63 = true))))) = true → acts w 63 = true ∧ wfld w 59 56 = 1 ∧ mayReach s w.agent .dmcRop q.val = true ∧ s.flag .dmcRstat q.val 63 = true := by
      intro s q w h
      refine and_of h (fun h => of_decide_eq_true h) fun h => ?_
      refine and_of h (fun h => of_decide_eq_true h) fun h => ?_
      refine and_of h (fun h => of_decide_eq_true h) fun h => ?_
      exact of_decide_eq_true h
    exact ⟨(chan3).setF .dmcRstat 3 63 63 1, 3, sw (2 ^ 63 + 1 * 2 ^ 56), k _ _ _ (by decide +kernel)⟩
  · have k : ∀ (s : State) (q : QuadId) (w : SetupWrite), ((decide (acts w 63 = true)) && ((decide (wfld w 59 56 = 2)) && ((decide (mayReach s w.agent .dmcRop q.val = true)) && (decide (s.flag .dmcRstat q.val 63 = true))))) = true → acts w 63 = true ∧ wfld w 59 56 = 2 ∧ mayReach s w.agent .dmcRop q.val = true ∧ s.flag .dmcRstat q.val 63 = true := by
      intro s q w h
      refine and_of h (fun h => of_decide_eq_true h) fun h => ?_
      refine and_of h (fun h => of_decide_eq_true h) fun h => ?_
      refine and_of h (fun h => of_decide_eq_true h) fun h => ?_
      exact of_decide_eq_true h
    exact ⟨(chan3).setF .dmcRstat 3 63 63 1, 3, sw (2 ^ 63 + 2 * 2 ^ 56), k _ _ _ (by decide +kernel)⟩
  · have k : ∀ (s : State) (q : QuadId) (w : SetupWrite), ((decide (acts w 63 = true)) && ((decide (wfld w 59 56 = 3)) && ((decide (mayReach s w.agent .dmcRop q.val = true)) && (decide (s.flag .dmcRstat q.val 63 = true))))) = true → acts w 63 = true ∧ wfld w 59 56 = 3 ∧ mayReach s w.agent .dmcRop q.val = true ∧ s.flag .dmcRstat q.val 63 = true := by
      intro s q w h
      refine and_of h (fun h => of_decide_eq_true h) fun h => ?_
      refine and_of h (fun h => of_decide_eq_true h) fun h => ?_
      refine and_of h (fun h => of_decide_eq_true h) fun h => ?_
      exact of_decide_eq_true h
    exact ⟨(chan3).setF .dmcRstat 3 63 63 1, 3, sw (2 ^ 63 + 3 * 2 ^ 56), k _ _ _ (by decide +kernel)⟩
  · have k : ∀ (s : State) (q : QuadId) (w : SetupWrite), ((decide (acts w 63 = true)) && ((decide (wfld w 59 56 = 4)) && ((decide (mayReach s w.agent .dmcRop q.val = true)) && (decide (s.flag .dmcRstat q.val 63 = true))))) = true → acts w 63 = true ∧ wfld w 59 56 = 4 ∧ mayReach s w.agent .dmcRop q.val = true ∧ s.flag .dmcRstat q.val 63 = true := by
      intro s q w h
      refine and_of h (fun h => of_decide_eq_true h) fun h => ?_
      refine and_of h (fun h => of_decide_eq_true h) fun h => ?_
      refine and_of h (fun h => of_decide_eq_true h) fun h => ?_
      exact of_decide_eq_true h
    exact ⟨(chan3).setF .dmcRstat 3 63 63 1, 3, sw (2 ^ 63 + 4 * 2 ^ 56), k _ _ _ (by decide +kernel)⟩
  · have k : ∀ (s : State) (q : QuadId) (w : SetupWrite), ((decide (acts w 63 = true)) && ((decide (wfld w 59 56 = 5)) && ((decide (mayReach s w.agent .dmcRop q.val = true)) && (decide (s.flag .dmcRstat q.val 63 = true))))) = true → acts w 63 = true ∧ wfld w 59 56 = 5 ∧ mayReach s w.agent .dmcRop q.val = true ∧ s.flag .dmcRstat q.val 63 = true := by
      intro s q w h
      refine and_of h (fun h => of_decide_eq_true h) fun h => ?_
      refine and_of h (fun h => of_decide_eq_true h) fun h => ?_
      refine and_of h (fun h => of_decide_eq_true h) fun h => ?_
      exact of_decide_eq_true h
    exact ⟨(chan3).setF .dmcRstat 3 63 63 1, 3, sw (2 ^ 63 + 5 * 2 ^ 56), k _ _ _ (by decide +kernel)⟩
  · have k : ∀ (s : State) (q : QuadId) (w : SetupWrite), ((decide (acts w 63 = true)) && ((decide (wfld w 59 56 = 6)) && ((decide (mayReach s w.agent .dmcRop q.val = true)) && (decide (s.flag .dmcRstat q.val 63 = true))))) = true → acts w 63 = true ∧ wfld w 59 56 = 6 ∧ mayReach s w.agent .dmcRop q.val = true ∧ s.flag .dmcRstat q.val 63 = true := by
      intro s q w h
      refine and_of h (fun h => of_decide_eq_true h) fun h => ?_
      refine and_of h (fun h => of_decide_eq_true h) fun h => ?_
      refine and_of h (fun h => of_decide_eq_true h) fun h => ?_
      exact of_decide_eq_true h
    exact ⟨(chan3).setF .dmcRstat 3 63 63 1, 3, sw (2 ^ 63 + 6 * 2 ^ 56), k _ _ _ (by decide +kernel)⟩
  · have k : ∀ (s : State) (q : QuadId), (someB ((s.deepOf q.val).op) fun r => eqB (linesInside s q.val r) fun n => eqB ((visited s q.val n r).foldl (visit q.val r.op r.cls) ⟨s, 0, 0⟩) fun v => eqB (v.s.setDeep q.val { v.s.deepOf q.val with op := none }) fun s1 => eqB ((s1.setF .dmcRstat q.val 63 63 0).setF .dmcRstat q.val 61 56 (if r.op ≠ 0 ∧ n < r.lines then 2 else 1)) fun s2 => true) = true → ∃ r, (s.deepOf q.val).op = some r ∧ ∃ n, n = linesInside s q.val r ∧ ∃ v, v = (visited s q.val n r).foldl (visit q.val r.op r.cls) ⟨s, 0, 0⟩ ∧ ∃ s1, s1 = v.s.setDeep q.val { v.s.deepOf q.val with op := none } ∧ ∃ s2, s2 = (s1.setF .dmcRstat q.val 63 63 0).setF .dmcRstat q.val 61 56 (if r.op ≠ 0 ∧ n < r.lines then 2 else 1) := by
      intro s q h
      refine some_of h fun r h => ?_
      refine eq_of h fun n h => ?_
      refine eq_of h fun v h => ?_
      refine eq_of h fun s1 h => ?_
      obtain ⟨s2, h, -⟩ := eq_of (P := fun _ => True) h fun _ _ => trivial
      exact ⟨s2, h⟩
    exact ⟨chan3.setDeep 3 { Deep.empty with op := some ⟨1, 0, 0xA0000000, 1⟩ }, 3, k _ _ (by decide +kernel)⟩

/-- The hypotheses of part 2 of Obligations.DeepMemoryEventsComplete are met. -/
theorem witness_ChannelsRetire :
    (∃ (s : State) (q : QuadId) (w : SetupWrite), acts w 63 = true ∧ mayReach s w.agent .dmcCtl q.val = true ∧ s.online (uChan q.val) = true)
    ∧ (∃ (s : State) (q : QuadId), s.unit (uChan q.val) = stDraining ∧ s.flights.any (fun f => channelOfPa f.pa == some q.val) = false) := by
  refine ⟨?_, ?_⟩
  · have k : ∀ (s : State) (q : QuadId) (w : SetupWrite), ((decide (acts w 63 = true)) && ((decide (mayReach s w.agent .dmcCtl q.val = true)) && (decide (s.online (uChan q.val) = true)))) = true → acts w 63 = true ∧ mayReach s w.agent .dmcCtl q.val = true ∧ s.online (uChan q.val) = true := by
      intro s q w h
      refine and_of h (fun h => of_decide_eq_true h) fun h => ?_
      refine and_of h (fun h => of_decide_eq_true h) fun h => ?_
      exact of_decide_eq_true h
    exact ⟨chan3, 3, sw (2 ^ 63), k _ _ _ (by decide +kernel)⟩
  · have k : ∀ (s : State) (q : QuadId), ((decide (s.unit (uChan q.val) = stDraining)) && (decide (s.flights.any (fun f => channelOfPa f.pa == some q.val) = false))) = true → s.unit (uChan q.val) = stDraining ∧ s.flights.any (fun f => channelOfPa f.pa == some q.val) = false := by
      intro s q h
      refine and_of h (fun h => of_decide_eq_true h) fun h => ?_
      exact of_decide_eq_true h
    exact ⟨(on []).setUnit (uChan 3) stDraining, 3, k _ _ (by decide +kernel)⟩

/-- The hypotheses of part 1 of Obligations.CollectionAdvances are met. -/
theorem witness_CyclesBegin :
    (∃ (s : State) (w : SetupWrite), acts w 63 = true ∧ mayReach s w.agent .morCtl 0 = true ∧ phase s = 1 ∧ ∃ s1, s1 = storeSetup s .morCtl 0 w (fun o n => keepField (bitsOf n 15 8 ≤ 100) 15 8 o n) ∧ morEnabled s1 = true)
    ∧ (∃ (s : State) (c : _), phase s = 2 ∧ ∃ d, sourceCore s c = some d ∧ ∃ k, s.core d = k ∧ k.mode ≠ .halted ∧ k.mode ≠ .stopped ∧ k.mode ≠ .patching ∧ (s.core (leadOf s c)).scanned = false ∧ ∃ k1, k1 = healRoots s k.landAll ∧ ∃ s1, s1 = addWork { s.setCore d { k1 with wbuf := [] } with mor := { s.mor with tops := s.mor.tops ++ stackTops k1 } } (rootWords k1)) := by
  refine ⟨?_, ?_⟩
  · have k : ∀ (s : State) (w : SetupWrite), ((decide (acts w 63 = true)) && ((decide (mayReach s w.agent .morCtl 0 = true)) && ((decide (phase s = 1)) && (eqB (storeSetup s .morCtl 0 w (fun o n => keepField (bitsOf n 15 8 ≤ 100) 15 8 o n)) fun s1 => decide (morEnabled s1 = true))))) = true → acts w 63 = true ∧ mayReach s w.agent .morCtl 0 = true ∧ phase s = 1 ∧ ∃ s1, s1 = storeSetup s .morCtl 0 w (fun o n => keepField (bitsOf n 15 8 ≤ 100) 15 8 o n) ∧ morEnabled s1 = true := by
      intro s w h
      refine and_of h (fun h => of_decide_eq_true h) fun h => ?_
      refine and_of h (fun h => of_decide_eq_true h) fun h => ?_
      refine and_of h (fun h => of_decide_eq_true h) fun h => ?_
      refine eq_of h fun s1 h => ?_
      exact of_decide_eq_true h
    exact ⟨heapM 1, sw (2 ^ 63 + 2 ^ 62), k _ _ (by decide +kernel)⟩
  · have k : ∀ (s : State) (c : _), ((decide (phase s = 2)) && (someB (sourceCore s c) fun d => eqB (s.core d) fun k => (decide (k.mode ≠ .halted)) && ((decide (k.mode ≠ .stopped)) && ((decide (k.mode ≠ .patching)) && ((decide ((s.core (leadOf s c)).scanned = false)) && (eqB (healRoots s k.landAll) fun k1 => eqB (addWork { s.setCore d { k1 with wbuf := [] } with mor := { s.mor with tops := s.mor.tops ++ stackTops k1 } } (rootWords k1)) fun s1 => true)))))) = true → phase s = 2 ∧ ∃ d, sourceCore s c = some d ∧ ∃ k, s.core d = k ∧ k.mode ≠ .halted ∧ k.mode ≠ .stopped ∧ k.mode ≠ .patching ∧ (s.core (leadOf s c)).scanned = false ∧ ∃ k1, k1 = healRoots s k.landAll ∧ ∃ s1, s1 = addWork { s.setCore d { k1 with wbuf := [] } with mor := { s.mor with tops := s.mor.tops ++ stackTops k1 } } (rootWords k1) := by
      intro s c h
      refine and_of h (fun h => of_decide_eq_true h) fun h => ?_
      refine some_of h fun d h => ?_
      refine eq_of' h fun k h => ?_
      refine and_of h (fun h => of_decide_eq_true h) fun h => ?_
      refine and_of h (fun h => of_decide_eq_true h) fun h => ?_
      refine and_of h (fun h => of_decide_eq_true h) fun h => ?_
      refine and_of h (fun h => of_decide_eq_true h) fun h => ?_
      refine eq_of h fun k1 h => ?_
      obtain ⟨s1, h, -⟩ := eq_of (P := fun _ => True) h fun _ _ => trivial
      exact ⟨s1, h⟩
    exact ⟨withCore (heapM 2) id, 0, k _ _ (by decide +kernel)⟩

/-- The hypotheses of part 2 of Obligations.CollectionAdvances are met. -/
theorem witness_MarkingCompletes :
    (∃ (s : State) (t : TileId), phase s = 3 ∧ ∃ w ws, s.mor.work = w :: ws)
    ∧ (∃ (s : State) (t : TileId), phase s = 3 ∧ s.mor.work = [] ∧ (handOverAll s).mor.work = [])
    ∧ (∃ (s : State), phase s = 4 ∧ ∃ s1, s1 = finalise s ∧ ∃ s2, s2 = s1.mor.weak.foldl clearWeak s1 ∧ ∃ s3, s3 = (List.range (regionCount s2)).foldl endRegion s2)
    ∧ (∃ (s : State), phase s = 5 ∧ ∃ s1, s1 = { drainAll (s.mor.hints.foldl applyHint s) with mor := { (drainAll (s.mor.hints.foldl applyHint s)).mor with hints := [] } })
    ∧ (∃ (s : State) (p : Nat), p < 8) := by
  refine ⟨?_, ?_, ?_, ?_, ?_⟩
  · have k : ∀ (s : State) (t : TileId), ((decide (phase s = 3)) && (consB (s.mor.work) fun w ws => true)) = true → phase s = 3 ∧ ∃ w ws, s.mor.work = w :: ws := by
      intro s t h
      refine and_of h (fun h => of_decide_eq_true h) fun h => ?_
      obtain ⟨w, ws, h, -⟩ := cons_of (P := fun _ _ => True) h fun _ _ _ => trivial
      exact ⟨w, ws, h⟩
    exact ⟨{ heapM 3 with mor := { (heapM 3).mor with work := [fixN 5] } }, 0, k _ (0) (by decide +kernel)⟩
  · have k : ∀ (s : State) (t : TileId), ((decide (phase s = 3)) && ((decide (s.mor.work = [])) && (decide ((handOverAll s).mor.work = [])))) = true → phase s = 3 ∧ s.mor.work = [] ∧ (handOverAll s).mor.work = [] := by
      intro s t h
      refine and_of h (fun h => of_decide_eq_true h) fun h => ?_
      refine and_of h (fun h => of_decide_eq_true h) fun h => ?_
      exact of_decide_eq_true h
    exact ⟨heapM 3, 15, k _ (15) (by decide +kernel)⟩
  · have k : ∀ (s : State), ((decide (phase s = 4)) && (eqB (finalise s) fun s1 => eqB (s1.mor.weak.foldl clearWeak s1) fun s2 => eqB ((List.range (regionCount s2)).foldl endRegion s2) fun s3 => true)) = true → phase s = 4 ∧ ∃ s1, s1 = finalise s ∧ ∃ s2, s2 = s1.mor.weak.foldl clearWeak s1 ∧ ∃ s3, s3 = (List.range (regionCount s2)).foldl endRegion s2 := by
      intro s h
      refine and_of h (fun h => of_decide_eq_true h) fun h => ?_
      refine eq_of h fun s1 h => ?_
      refine eq_of h fun s2 h => ?_
      obtain ⟨s3, h, -⟩ := eq_of (P := fun _ => True) h fun _ _ => trivial
      exact ⟨s3, h⟩
    exact ⟨heapM 4, k _ (by decide +kernel)⟩
  · have k : ∀ (s : State), ((decide (phase s = 5)) && (eqB ({ drainAll (s.mor.hints.foldl applyHint s) with mor := { (drainAll (s.mor.hints.foldl applyHint s)).mor with hints := [] } }) fun s1 => true)) = true → phase s = 5 ∧ ∃ s1, s1 = { drainAll (s.mor.hints.foldl applyHint s) with mor := { (drainAll (s.mor.hints.foldl applyHint s)).mor with hints := [] } } := by
      intro s h
      refine and_of h (fun h => of_decide_eq_true h) fun h => ?_
      obtain ⟨s1, h, -⟩ := eq_of (P := fun _ => True) h fun _ _ => trivial
      exact ⟨s1, h⟩
    exact ⟨heapM 5, k _ (by decide +kernel)⟩
  · have k : ∀ (s : State) (p : Nat), (decide (p < 8)) = true → p < 8 := by
      intro s p h
      exact of_decide_eq_true h
    exact ⟨heapM 5, 7, k (heapM 5) _ (by decide +kernel)⟩

/-- The hypotheses of part 1 of Obligations.EvacuationCompletes are met. -/
theorem witness_EvacuationCompletes :
    (∃ (s : State) (t : TileId), phase s = 6 ∧ ∃ r, (List.range (regionCount s)).find? (fun r => bstateOf s r == 1 && ownerOf s r == t.val) = some r ∧ ∃ a, nextUnmoved s r = some a ∧ ∃ b s1, moveObject s a none = some (b, s1))
    ∧ (∃ (s : State) (t : TileId), phase s = 6 ∧ ∃ r, (List.range (regionCount s)).find? (fun r => bstateOf s r == 1 && ownerOf s r == t.val) = some r ∧ nextUnmoved s r = none)
    ∧ (∃ (s : State), phase s = 6 ∧ ((∀ r, r < regionCount s → bstateOf s r ≠ 1)))
    ∧ (∃ (s : State) (m : _) (w : _), isPointerTag (tagOf w) = true ∧ ∃ r, regionOf s (valOf w) = some r ∧ bstateOf s r = 1 ∧ movedWord s w = none ∧ (sizeAt s (valOf w)).getD 0 ≤ 4096 ∧ ∃ a s1, moveObject s (valOf w) (tileOfMaster m) = some (a, s1))
    ∧ (∃ (s : State) (va : _) (page : Nat), ∃ base, base = va / 16384 * 16384 ∧ ∃ r, regionOf s base = some r ∧ ∃ h, h = desc s (runHead s r) ∧ ((descKind h = 3 ∨ descKind h = 5)) ∧ bitsOf h 46 46 = 1 ∧ tileOfPa (16384 * page) = some (bitsOf h 43 40) ∧ ∃ leaf pa, masterWalk s (heapSpace s) base 2 = .ok (leaf, pa) ∧ phase s = 6 ∧ accessible s (16384 * page) = true ∧ bitOf leaf 2 = false ∧ leafEpoch leaf = globalEpoch s ∧ spaceIdmap s (heapSpace s) = false) := by
  refine ⟨?_, ?_, ?_, ?_, ?_⟩
  · have k : ∀ (s : State) (t : TileId), ((decide (phase s = 6)) && (someB ((List.range (regionCount s)).find? (fun r => bstateOf s r == 1 && ownerOf s r == t.val)) fun r => someB (nextUnmoved s r) fun a => someP (moveObject s a none) fun b s1 => true)) = true → phase s = 6 ∧ ∃ r, (List.range (regionCount s)).find? (fun r => bstateOf s r == 1 && ownerOf s r == t.val) = some r ∧ ∃ a, nextUnmoved s r = some a ∧ ∃ b s1, moveObject s a none = some (b, s1) := by
      intro s t h
      refine and_of h (fun h => of_decide_eq_true h) fun h => ?_
      refine some_of h fun r h => ?_
      refine some_of h fun a h => ?_
      obtain ⟨b, s1, h, -⟩ := someP_of (P := fun _ _ => True) h fun _ _ _ => trivial
      exact ⟨b, s1, h⟩
    exact ⟨(setBstate (heapM 6) 0 1), 0, k _ _ (by decide +kernel)⟩
  · have k : ∀ (s : State) (t : TileId), ((decide (phase s = 6)) && (someB ((List.range (regionCount s)).find? (fun r => bstateOf s r == 1 && ownerOf s r == t.val)) fun r => decide (nextUnmoved s r = none))) = true → phase s = 6 ∧ ∃ r, (List.range (regionCount s)).find? (fun r => bstateOf s r == 1 && ownerOf s r == t.val) = some r ∧ nextUnmoved s r = none := by
      intro s t h
      refine and_of h (fun h => of_decide_eq_true h) fun h => ?_
      refine some_of h fun r h => ?_
      exact of_decide_eq_true h
    exact ⟨writeWord (setBstate (heapM 6) 0 1) 0x400000 (mkWord 0x2E 0x440000), 0, k _ _ (by decide +kernel)⟩
  · have k : ∀ (s : State), ((decide (phase s = 6)) && (decide ((∀ r, r < regionCount s → bstateOf s r ≠ 1)))) = true → phase s = 6 ∧ ((∀ r, r < regionCount s → bstateOf s r ≠ 1)) := by
      intro s h
      refine and_of h (fun h => of_decide_eq_true h) fun h => ?_
      exact of_decide_eq_true h
    exact ⟨heapM 6, k _ (by decide +kernel)⟩
  · have k : ∀ (s : State) (m : _) (w : _), ((decide (isPointerTag (tagOf w) = true)) && (someB (regionOf s (valOf w)) fun r => (decide (bstateOf s r = 1)) && ((decide (movedWord s w = none)) && ((decide ((sizeAt s (valOf w)).getD 0 ≤ 4096)) && (someP (moveObject s (valOf w) (tileOfMaster m)) fun a s1 => true))))) = true → isPointerTag (tagOf w) = true ∧ ∃ r, regionOf s (valOf w) = some r ∧ bstateOf s r = 1 ∧ movedWord s w = none ∧ (sizeAt s (valOf w)).getD 0 ≤ 4096 ∧ ∃ a s1, moveObject s (valOf w) (tileOfMaster m) = some (a, s1) := by
      intro s m w h
      refine and_of h (fun h => of_decide_eq_true h) fun h => ?_
      refine some_of h fun r h => ?_
      refine and_of h (fun h => of_decide_eq_true h) fun h => ?_
      refine and_of h (fun h => of_decide_eq_true h) fun h => ?_
      refine and_of h (fun h => of_decide_eq_true h) fun h => ?_
      obtain ⟨a, s1, h, -⟩ := someP_of (P := fun _ _ => True) h fun _ _ _ => trivial
      exact ⟨a, s1, h⟩
    exact ⟨(setBstate (heapM 6) 0 1), .hre, mkWord 0x11 0x400000, k _ _ _ (by decide +kernel)⟩
  · have k : ∀ (s : State) (va : _) (page : Nat), (eqB (va / 16384 * 16384) fun base => someB (regionOf s base) fun r => eqB (desc s (runHead s r)) fun h => (decide ((descKind h = 3 ∨ descKind h = 5))) && ((decide (bitsOf h 46 46 = 1)) && ((decide (tileOfPa (16384 * page) = some (bitsOf h 43 40))) && (okQ (masterWalk s (heapSpace s) base 2) fun leaf pa => (decide (phase s = 6)) && ((decide (accessible s (16384 * page) = true)) && ((decide (bitOf leaf 2 = false)) && ((decide (leafEpoch leaf = globalEpoch s)) && (decide (spaceIdmap s (heapSpace s) = false))))))))) = true → ∃ base, base = va / 16384 * 16384 ∧ ∃ r, regionOf s base = some r ∧ ∃ h, h = desc s (runHead s r) ∧ ((descKind h = 3 ∨ descKind h = 5)) ∧ bitsOf h 46 46 = 1 ∧ tileOfPa (16384 * page) = some (bitsOf h 43 40) ∧ ∃ leaf pa, masterWalk s (heapSpace s) base 2 = .ok (leaf, pa) ∧ phase s = 6 ∧ accessible s (16384 * page) = true ∧ bitOf leaf 2 = false ∧ leafEpoch leaf = globalEpoch s ∧ spaceIdmap s (heapSpace s) = false := by
      intro s va page h
      refine eq_of h fun base h => ?_
      refine some_of h fun r h => ?_
      refine eq_of h fun h h => ?_
      refine and_of h (fun h => of_decide_eq_true h) fun h => ?_
      refine and_of h (fun h => of_decide_eq_true h) fun h => ?_
      refine and_of h (fun h => of_decide_eq_true h) fun h => ?_
      refine okQ_of h fun leaf pa h => ?_
      refine and_of h (fun h => of_decide_eq_true h) fun h => ?_
      refine and_of h (fun h => of_decide_eq_true h) fun h => ?_
      refine and_of h (fun h => of_decide_eq_true h) fun h => ?_
      refine and_of h (fun h => of_decide_eq_true h) fun h => ?_
      exact of_decide_eq_true h
    exact ⟨mem0 ((({ heapM 6 with mor := (heapM 6).mor }).setF .morCtl 0 51 40 1).setR .cfgSproot 1 (BitVec.ofNat 64 (2 ^ 63 + 0x10000))) (map1 ++ [(0x200000, withBits (withBits 0#64 55 53 3) 46 46 1)]), 0x400005, 0x200, k _ _ _ (by decide +kernel)⟩

/-- The hypotheses of part 2 of Obligations.EvacuationCompletes are met. -/
theorem witness_HintsAndWaitsComplete :
    (∃ (s : State) (w : SetupWrite), acts w 63 = true ∧ mayReach s w.agent .morHint 0 = true ∧ ∃ s1, s1 = storeSetup s .morHint 0 w (fun o n => keepField (bitsOf n 58 56 ≤ 5) 58 56 o n) ∧ ∃ r, r = s1.fld .morHint 0 19 0 ∧ r < regionCount s1 ∧ ∃ op, op = s1.fld .morHint 0 58 56 ∧ 3 ≤ op)
    ∧ (∃ (s : State) (w : SetupWrite), acts w 63 = true ∧ mayReach s w.agent .morHint 0 = true ∧ ∃ s1, s1 = storeSetup s .morHint 0 w (fun o n => keepField (bitsOf n 58 56 ≤ 5) 58 56 o n) ∧ ∃ r, r = s1.fld .morHint 0 19 0 ∧ r < regionCount s1 ∧ ∃ op, op = s1.fld .morHint 0 58 56 ∧ ((op = 1 ∨ op = 2)))
    ∧ (∃ (s : State) (w : SetupWrite), acts w 63 = true ∧ mayReach s w.agent .morHint 0 = true ∧ ∃ s1, s1 = storeSetup s .morHint 0 w (fun o n => keepField (bitsOf n 58 56 ≤ 5) 58 56 o n) ∧ ∃ r, r = s1.fld .morHint 0 19 0 ∧ r < regionCount s1 ∧ ∃ op, op = s1.fld .morHint 0 58 56 ∧ ((op = 1 ∨ op = 2)))
    ∧ (∃ (s : State) (c : _) (t : _) (npc : Nat), ∃ d, sourceCore s c = some d ∧ (s.core d).mode = .heapWait t npc ∧ ∃ s1, s1 = s.modCore d (fun k => { k with mode := .running, onlyB := false }))
    ∧ (∃ (s : State) (c : _) (t : _) (npc : Nat), (s.core c).mode = .heapWait t npc ∧ s.fld .morStat 0 51 32 ≠ 0) := by
  refine ⟨?_, ?_, ?_, ?_, ?_⟩
  · have k : ∀ (s : State) (w : SetupWrite), ((decide (acts w 63 = true)) && ((decide (mayReach s w.agent .morHint 0 = true)) && (eqB (storeSetup s .morHint 0 w (fun o n => keepField (bitsOf n 58 56 ≤ 5) 58 56 o n)) fun s1 => eqB (s1.fld .morHint 0 19 0) fun r => (decide (r < regionCount s1)) && (eqB (s1.fld .morHint 0 58 56) fun op => decide (3 ≤ op))))) = true → acts w 63 = true ∧ mayReach s w.agent .morHint 0 = true ∧ ∃ s1, s1 = storeSetup s .morHint 0 w (fun o n => keepField (bitsOf n 58 56 ≤ 5) 58 56 o n) ∧ ∃ r, r = s1.fld .morHint 0 19 0 ∧ r < regionCount s1 ∧ ∃ op, op = s1.fld .morHint 0 58 56 ∧ 3 ≤ op := by
      intro s w h
      refine and_of h (fun h => of_decide_eq_true h) fun h => ?_
      refine and_of h (fun h => of_decide_eq_true h) fun h => ?_
      refine eq_of h fun s1 h => ?_
      refine eq_of h fun r h => ?_
      refine and_of h (fun h => of_decide_eq_true h) fun h => ?_
      refine eq_of h fun op h => ?_
      exact of_decide_eq_true h
    exact ⟨heapM 1, sw (2 ^ 63 + 5 * 2 ^ 56 + 3), k _ _ (by decide +kernel)⟩
  · have k : ∀ (s : State) (w : SetupWrite), ((decide (acts w 63 = true)) && ((decide (mayReach s w.agent .morHint 0 = true)) && (eqB (storeSetup s .morHint 0 w (fun o n => keepField (bitsOf n 58 56 ≤ 5) 58 56 o n)) fun s1 => eqB (s1.fld .morHint 0 19 0) fun r => (decide (r < regionCount s1)) && (eqB (s1.fld .morHint 0 58 56) fun op => decide ((op = 1 ∨ op = 2)))))) = true → acts w 63 = true ∧ mayReach s w.agent .morHint 0 = true ∧ ∃ s1, s1 = storeSetup s .morHint 0 w (fun o n => keepField (bitsOf n 58 56 ≤ 5) 58 56 o n) ∧ ∃ r, r = s1.fld .morHint 0 19 0 ∧ r < regionCount s1 ∧ ∃ op, op = s1.fld .morHint 0 58 56 ∧ ((op = 1 ∨ op = 2)) := by
      intro s w h
      refine and_of h (fun h => of_decide_eq_true h) fun h => ?_
      refine and_of h (fun h => of_decide_eq_true h) fun h => ?_
      refine eq_of h fun s1 h => ?_
      refine eq_of h fun r h => ?_
      refine and_of h (fun h => of_decide_eq_true h) fun h => ?_
      refine eq_of h fun op h => ?_
      exact of_decide_eq_true h
    exact ⟨heapM 1, sw (2 ^ 63 + 1 * 2 ^ 56 + 3), k _ _ (by decide +kernel)⟩
  · have k : ∀ (s : State) (w : SetupWrite), ((decide (acts w 63 = true)) && ((decide (mayReach s w.agent .morHint 0 = true)) && (eqB (storeSetup s .morHint 0 w (fun o n => keepField (bitsOf n 58 56 ≤ 5) 58 56 o n)) fun s1 => eqB (s1.fld .morHint 0 19 0) fun r => (decide (r < regionCount s1)) && (eqB (s1.fld .morHint 0 58 56) fun op => decide ((op = 1 ∨ op = 2)))))) = true → acts w 63 = true ∧ mayReach s w.agent .morHint 0 = true ∧ ∃ s1, s1 = storeSetup s .morHint 0 w (fun o n => keepField (bitsOf n 58 56 ≤ 5) 58 56 o n) ∧ ∃ r, r = s1.fld .morHint 0 19 0 ∧ r < regionCount s1 ∧ ∃ op, op = s1.fld .morHint 0 58 56 ∧ ((op = 1 ∨ op = 2)) := by
      intro s w h
      refine and_of h (fun h => of_decide_eq_true h) fun h => ?_
      refine and_of h (fun h => of_decide_eq_true h) fun h => ?_
      refine eq_of h fun s1 h => ?_
      refine eq_of h fun r h => ?_
      refine and_of h (fun h => of_decide_eq_true h) fun h => ?_
      refine eq_of h fun op h => ?_
      exact of_decide_eq_true h
    exact ⟨heapM 1, sw (2 ^ 63 + 2 * 2 ^ 56 + 3), k _ _ (by decide +kernel)⟩
  · have k : ∀ (s : State) (c : _) (t : _) (npc : Nat), (someB (sourceCore s c) fun d => (decide ((s.core d).mode = .heapWait t npc)) && (eqB (s.modCore d (fun k => { k with mode := .running, onlyB := false })) fun s1 => true)) = true → ∃ d, sourceCore s c = some d ∧ (s.core d).mode = .heapWait t npc ∧ ∃ s1, s1 = s.modCore d (fun k => { k with mode := .running, onlyB := false }) := by
      intro s c t npc h
      refine some_of h fun d h => ?_
      refine and_of h (fun h => of_decide_eq_true h) fun h => ?_
      obtain ⟨s1, h, -⟩ := eq_of (P := fun _ => True) h fun _ _ => trivial
      exact ⟨s1, h⟩
    exact ⟨withCore (heapM 1) (fun k => { k with mode := .heapWait { cause := .heapFull } 0x34 }), 0, { cause := .heapFull }, 0x34, k _ _ _ _ (by decide +kernel)⟩
  · have k : ∀ (s : State) (c : _) (t : _) (npc : Nat), ((decide ((s.core c).mode = .heapWait t npc)) && (decide (s.fld .morStat 0 51 32 ≠ 0))) = true → (s.core c).mode = .heapWait t npc ∧ s.fld .morStat 0 51 32 ≠ 0 := by
      intro s c t npc h
      refine and_of h (fun h => of_decide_eq_true h) fun h => ?_
      exact of_decide_eq_true h
    exact ⟨(withCore (heapM 1) (fun k => { k with mode := .heapWait { cause := .heapFull } 0x34 })).setF .morStat 0 51 32 1, 0, { cause := .heapFull }, 0x34, k _ _ _ _ (by decide +kernel)⟩

/-- The hypotheses of part 1 of Obligations.CirqueAndCrestComplete are met. -/
theorem witness_TablesMade :
    (∃ (s : State) (t : TileId), s.flag .cqxCmd t.val 63 = true ∧ s.online (uTile t.val) = true ∧ ∃ m s0, takeMessage (withEngine s t.val) (heapSpace s) 3 (16 * s.fld .cqxCmd t.val 46 4) = some (m, s0) ∧ ∃ msg b s2, loadBarrier s0 t.val m = some (msg, b, s2) ∧ tagOf msg = 0x10 ∧ addressFormatOk msg = true ∧ ∃ s3, s3 = heapTouch s2 (valOf msg) 16 ∧ ∃ d, heapWord s3 (valOf msg) = some d ∧ ∃ r, heapWord s3 (valOf msg + 8) = some r ∧ ∃ q b2 s1, loadBarrier s3 t.val r = some (q, b2, s1) ∧ tagOf q = 0x14 ∧ (mailboxAt s1 3 (heapSpace s1) (valOf q)).isOk = true ∧ isFix d = true ∧ bitsOf d 55 40 = 0 ∧ bitsOf d 7 5 = 0 ∧ 4 ≤ bitsOf d 4 0 ∧ bitsOf d 4 0 ≤ 16)
    ∧ (∃ (s : State) (t : TileId), s.flag .cqxCmd t.val 63 = true ∧ s.online (uTile t.val) = true ∧ ∃ m s0, takeMessage (withEngine s t.val) (heapSpace s) 3 (16 * s.fld .cqxCmd t.val 46 4) = some (m, s0) ∧ ∃ msg b s2, loadBarrier s0 t.val m = some (msg, b, s2) ∧ tagOf msg = 0x10 ∧ addressFormatOk msg = true ∧ ∃ s3, s3 = heapTouch s2 (valOf msg) 16 ∧ ∃ d, heapWord s3 (valOf msg) = some d ∧ ∃ r, heapWord s3 (valOf msg + 8) = some r ∧ ∃ q b2 s1, loadBarrier s3 t.val r = some (q, b2, s1) ∧ tagOf q = 0x14 ∧ (mailboxAt s1 3 (heapSpace s1) (valOf q)).isOk = true ∧ isFix d = false) := by
  refine ⟨?_, ?_⟩
  · have k : ∀ (s : State) (t : TileId), ((decide (s.flag .cqxCmd t.val 63 = true)) && ((decide (s.online (uTile t.val) = true)) && (someP (takeMessage (withEngine s t.val) (heapSpace s) 3 (16 * s.fld .cqxCmd t.val 46 4)) fun m s0 => someT (loadBarrier s0 t.val m) fun msg b s2 => (decide (tagOf msg = 0x10)) && ((decide (addressFormatOk msg = true)) && (eqB (heapTouch s2 (valOf msg) 16) fun s3 => someB (heapWord s3 (valOf msg)) fun d => someB (heapWord s3 (valOf msg + 8)) fun r => someT (loadBarrier s3 t.val r) fun q b2 s1 => (decide (tagOf q = 0x14)) && ((decide ((mailboxAt s1 3 (heapSpace s1) (valOf q)).isOk = true)) && ((decide (isFix d = true)) && ((decide (bitsOf d 55 40 = 0)) && ((decide (bitsOf d 7 5 = 0)) && ((decide (4 ≤ bitsOf d 4 0)) && (decide (bitsOf d 4 0 ≤ 16)))))))))))) = true → s.flag .cqxCmd t.val 63 = true ∧ s.online (uTile t.val) = true ∧ ∃ m s0, takeMessage (withEngine s t.val) (heapSpace s) 3 (16 * s.fld .cqxCmd t.val 46 4) = some (m, s0) ∧ ∃ msg b s2, loadBarrier s0 t.val m = some (msg, b, s2) ∧ tagOf msg = 0x10 ∧ addressFormatOk msg = true ∧ ∃ s3, s3 = heapTouch s2 (valOf msg) 16 ∧ ∃ d, heapWord s3 (valOf msg) = some d ∧ ∃ r, heapWord s3 (valOf msg + 8) = some r ∧ ∃ q b2 s1, loadBarrier s3 t.val r = some (q, b2, s1) ∧ tagOf q = 0x14 ∧ (mailboxAt s1 3 (heapSpace s1) (valOf q)).isOk = true ∧ isFix d = true ∧ bitsOf d 55 40 = 0 ∧ bitsOf d 7 5 = 0 ∧ 4 ≤ bitsOf d 4 0 ∧ bitsOf d 4 0 ≤ 16 := by
      intro s t h
      refine and_of h (fun h => of_decide_eq_true h) fun h => ?_
      refine and_of h (fun h => of_decide_eq_true h) fun h => ?_
      refine someP_of h fun m s0 h => ?_
      refine someT_of h fun msg b s2 h => ?_
      refine and_of h (fun h => of_decide_eq_true h) fun h => ?_
      refine and_of h (fun h => of_decide_eq_true h) fun h => ?_
      refine eq_of h fun s3 h => ?_
      refine some_of h fun d h => ?_
      refine some_of h fun r h => ?_
      refine someT_of h fun q b2 s1 h => ?_
      refine and_of h (fun h => of_decide_eq_true h) fun h => ?_
      refine and_of h (fun h => of_decide_eq_true h) fun h => ?_
      refine and_of h (fun h => of_decide_eq_true h) fun h => ?_
      refine and_of h (fun h => of_decide_eq_true h) fun h => ?_
      refine and_of h (fun h => of_decide_eq_true h) fun h => ?_
      refine and_of h (fun h => of_decide_eq_true h) fun h => ?_
      exact of_decide_eq_true h
    exact ⟨mem0 ((heapM 1).setR .cqxCmd 0 (BitVec.ofNat 64 (2 ^ 63 + 0x1000))) (box0 0x1000 (mkWord 0x10 0x2000) ++ box0 0x3000 0 ++ [(0x2000, fixN 16), (0x2008, mkWord 0x14 0x3000)]), 0, k _ _ (by decide +kernel)⟩
  · have k : ∀ (s : State) (t : TileId), ((decide (s.flag .cqxCmd t.val 63 = true)) && ((decide (s.online (uTile t.val) = true)) && (someP (takeMessage (withEngine s t.val) (heapSpace s) 3 (16 * s.fld .cqxCmd t.val 46 4)) fun m s0 => someT (loadBarrier s0 t.val m) fun msg b s2 => (decide (tagOf msg = 0x10)) && ((decide (addressFormatOk msg = true)) && (eqB (heapTouch s2 (valOf msg) 16) fun s3 => someB (heapWord s3 (valOf msg)) fun d => someB (heapWord s3 (valOf msg + 8)) fun r => someT (loadBarrier s3 t.val r) fun q b2 s1 => (decide (tagOf q = 0x14)) && ((decide ((mailboxAt s1 3 (heapSpace s1) (valOf q)).isOk = true)) && (decide (isFix d = false)))))))) = true → s.flag .cqxCmd t.val 63 = true ∧ s.online (uTile t.val) = true ∧ ∃ m s0, takeMessage (withEngine s t.val) (heapSpace s) 3 (16 * s.fld .cqxCmd t.val 46 4) = some (m, s0) ∧ ∃ msg b s2, loadBarrier s0 t.val m = some (msg, b, s2) ∧ tagOf msg = 0x10 ∧ addressFormatOk msg = true ∧ ∃ s3, s3 = heapTouch s2 (valOf msg) 16 ∧ ∃ d, heapWord s3 (valOf msg) = some d ∧ ∃ r, heapWord s3 (valOf msg + 8) = some r ∧ ∃ q b2 s1, loadBarrier s3 t.val r = some (q, b2, s1) ∧ tagOf q = 0x14 ∧ (mailboxAt s1 3 (heapSpace s1) (valOf q)).isOk = true ∧ isFix d = false := by
      intro s t h
      refine and_of h (fun h => of_decide_eq_true h) fun h => ?_
      refine and_of h (fun h => of_decide_eq_true h) fun h => ?_
      refine someP_of h fun m s0 h => ?_
      refine someT_of h fun msg b s2 h => ?_
      refine and_of h (fun h => of_decide_eq_true h) fun h => ?_
      refine and_of h (fun h => of_decide_eq_true h) fun h => ?_
      refine eq_of h fun s3 h => ?_
      refine some_of h fun d h => ?_
      refine some_of h fun r h => ?_
      refine someT_of h fun q b2 s1 h => ?_
      refine and_of h (fun h => of_decide_eq_true h) fun h => ?_
      refine and_of h (fun h => of_decide_eq_true h) fun h => ?_
      exact of_decide_eq_true h
    exact ⟨mem0 ((heapM 1).setR .cqxCmd 0 (BitVec.ofNat 64 (2 ^ 63 + 0x1000))) (box0 0x1000 (mkWord 0x10 0x2000) ++ box0 0x3000 0 ++ [(0x2000, nil), (0x2008, mkWord 0x14 0x3000)]), 0, k _ _ (by decide +kernel)⟩

/-- The hypotheses of part 2 of Obligations.CirqueAndCrestComplete are met. -/
theorem witness_SnapshotsComplete :
    (∃ (s : State) (w : SetupWrite), acts w 63 = true ∧ mayReach s w.agent .cfgCrest 0 = true ∧ ∃ s1, s1 = storeSetup s .cfgCrest 0 w ∧ crestBusy s1 = false ∧ ((s1.flag .cfgCrest 0 58 = false ∨ rangeSize s1 ≤ 1)) ∧ ∃ c s2, advanceInto s1 (s1.fld .cfgCrest 0 57 55) = (c, s2))
    ∧ (∃ (s : State) (k : _), globalEpoch s = 0xFFFF ∧ s.flag .cfgSnap k 63 = false)
    ∧ (∃ (s : State) (w : SetupWrite), acts w 62 = true ∧ acts w 63 = false ∧ mayReach s w.agent .cfgCrest 0 = true ∧ ∃ s1, s1 = storeSetup s .cfgCrest 0 w ∧ crestBusy s1 = false ∧ ∃ k, k = s1.fld .cfgCrest 0 57 55 ∧ s1.flag .cfgSnap k 63 = true ∧ ∃ sp, sp = s1.fld .cfgSnap k 59 48)
    ∧ (∃ (s : State) (w : SetupWrite), acts w 61 = true ∧ acts w 62 = false ∧ acts w 63 = false ∧ mayReach s w.agent .cfgCrest 0 = true ∧ ∃ s1, s1 = storeSetup s .cfgCrest 0 w ∧ crestBusy s1 = false ∧ anyHeld s1 = false)
    ∧ (∃ (s : State) (k : _), s.crestOp = some (.release k))
    ∧ (∃ (s : State), s.crestOp = some .rebase)
    ∧ (∃ (s : State) (n : Fin 20) (w : SetupWrite), mayReach s w.agent .cfgCrpool n.val = true ∧ anyHeld s = false ∧ ∃ s1, s1 = storeSetup s .cfgCrpool n.val w ∧ ∃ pages, pages = (List.range (s1.fld .cfgCrpool n.val 13 0)).map (fun i => 16384 * (s1.fld .cfgCrpool n.val 43 14 + i))) := by
  refine ⟨?_, ?_, ?_, ?_, ?_, ?_, ?_⟩
  · have k : ∀ (s : State) (w : SetupWrite), ((decide (acts w 63 = true)) && ((decide (mayReach s w.agent .cfgCrest 0 = true)) && (eqB (storeSetup s .cfgCrest 0 w) fun s1 => (decide (crestBusy s1 = false)) && ((decide ((s1.flag .cfgCrest 0 58 = false ∨ rangeSize s1 ≤ 1))) && (pairB (advanceInto s1 (s1.fld .cfgCrest 0 57 55)) fun c s2 => true))))) = true → acts w 63 = true ∧ mayReach s w.agent .cfgCrest 0 = true ∧ ∃ s1, s1 = storeSetup s .cfgCrest 0 w ∧ crestBusy s1 = false ∧ ((s1.flag .cfgCrest 0 58 = false ∨ rangeSize s1 ≤ 1)) ∧ ∃ c s2, advanceInto s1 (s1.fld .cfgCrest 0 57 55) = (c, s2) := by
      intro s w h
      refine and_of h (fun h => of_decide_eq_true h) fun h => ?_
      refine and_of h (fun h => of_decide_eq_true h) fun h => ?_
      refine eq_of h fun s1 h => ?_
      refine and_of h (fun h => of_decide_eq_true h) fun h => ?_
      refine and_of h (fun h => of_decide_eq_true h) fun h => ?_
      obtain ⟨c, s2, h, -⟩ := pair_of (P := fun _ _ => True) h fun _ _ _ => trivial
      exact ⟨c, s2, h⟩
    exact ⟨on [], sw (2 ^ 63 + 7 * 2 ^ 55), k _ _ (by decide +kernel)⟩
  · have k : ∀ (s : State) (k : _), ((decide (globalEpoch s = 0xFFFF)) && (decide (s.flag .cfgSnap k 63 = false))) = true → globalEpoch s = 0xFFFF ∧ s.flag .cfgSnap k 63 = false := by
      intro s k h
      refine and_of h (fun h => of_decide_eq_true h) fun h => ?_
      exact of_decide_eq_true h
    exact ⟨(on []).setF .cfgCrest 0 15 0 0xFFFF, 7, k _ _ (by decide +kernel)⟩
  · have k : ∀ (s : State) (w : SetupWrite), ((decide (acts w 62 = true)) && ((decide (acts w 63 = false)) && ((decide (mayReach s w.agent .cfgCrest 0 = true)) && (eqB (storeSetup s .cfgCrest 0 w) fun s1 => (decide (crestBusy s1 = false)) && (eqB (s1.fld .cfgCrest 0 57 55) fun k => (decide (s1.flag .cfgSnap k 63 = true)) && (eqB (s1.fld .cfgSnap k 59 48) fun sp => true)))))) = true → acts w 62 = true ∧ acts w 63 = false ∧ mayReach s w.agent .cfgCrest 0 = true ∧ ∃ s1, s1 = storeSetup s .cfgCrest 0 w ∧ crestBusy s1 = false ∧ ∃ k, k = s1.fld .cfgCrest 0 57 55 ∧ s1.flag .cfgSnap k 63 = true ∧ ∃ sp, sp = s1.fld .cfgSnap k 59 48 := by
      intro s w h
      refine and_of h (fun h => of_decide_eq_true h) fun h => ?_
      refine and_of h (fun h => of_decide_eq_true h) fun h => ?_
      refine and_of h (fun h => of_decide_eq_true h) fun h => ?_
      refine eq_of h fun s1 h => ?_
      refine and_of h (fun h => of_decide_eq_true h) fun h => ?_
      refine eq_of h fun k h => ?_
      refine and_of h (fun h => of_decide_eq_true h) fun h => ?_
      obtain ⟨sp, h, -⟩ := eq_of (P := fun _ => True) h fun _ _ => trivial
      exact ⟨sp, h⟩
    exact ⟨(on []).setF .cfgSnap 7 63 63 1, sw (2 ^ 62 + 7 * 2 ^ 55), k _ _ (by decide +kernel)⟩
  · have k : ∀ (s : State) (w : SetupWrite), ((decide (acts w 61 = true)) && ((decide (acts w 62 = false)) && ((decide (acts w 63 = false)) && ((decide (mayReach s w.agent .cfgCrest 0 = true)) && (eqB (storeSetup s .cfgCrest 0 w) fun s1 => (decide (crestBusy s1 = false)) && (decide (anyHeld s1 = false))))))) = true → acts w 61 = true ∧ acts w 62 = false ∧ acts w 63 = false ∧ mayReach s w.agent .cfgCrest 0 = true ∧ ∃ s1, s1 = storeSetup s .cfgCrest 0 w ∧ crestBusy s1 = false ∧ anyHeld s1 = false := by
      intro s w h
      refine and_of h (fun h => of_decide_eq_true h) fun h => ?_
      refine and_of h (fun h => of_decide_eq_true h) fun h => ?_
      refine and_of h (fun h => of_decide_eq_true h) fun h => ?_
      refine and_of h (fun h => of_decide_eq_true h) fun h => ?_
      refine eq_of h fun s1 h => ?_
      refine and_of h (fun h => of_decide_eq_true h) fun h => ?_
      exact of_decide_eq_true h
    exact ⟨on [], sw (2 ^ 61), k _ _ (by decide +kernel)⟩
  · have k : ∀ (s : State) (k : _), (decide (s.crestOp = some (.release k))) = true → s.crestOp = some (.release k) := by
      intro s k h
      exact of_decide_eq_true h
    exact ⟨{ on [] with crestOp := some (.release 7) }, 7, k _ _ (by decide +kernel)⟩
  · have k : ∀ (s : State), (decide (s.crestOp = some .rebase)) = true → s.crestOp = some .rebase := by
      intro s h
      exact of_decide_eq_true h
    exact ⟨{ on [] with crestOp := some .rebase }, k _ (by decide +kernel)⟩
  · have k : ∀ (s : State) (n : Fin 20) (w : SetupWrite), ((decide (mayReach s w.agent .cfgCrpool n.val = true)) && ((decide (anyHeld s = false)) && (eqB (storeSetup s .cfgCrpool n.val w) fun s1 => eqB ((List.range (s1.fld .cfgCrpool n.val 13 0)).map (fun i => 16384 * (s1.fld .cfgCrpool n.val 43 14 + i))) fun pages => true))) = true → mayReach s w.agent .cfgCrpool n.val = true ∧ anyHeld s = false ∧ ∃ s1, s1 = storeSetup s .cfgCrpool n.val w ∧ ∃ pages, pages = (List.range (s1.fld .cfgCrpool n.val 13 0)).map (fun i => 16384 * (s1.fld .cfgCrpool n.val 43 14 + i)) := by
      intro s n w h
      refine and_of h (fun h => of_decide_eq_true h) fun h => ?_
      refine and_of h (fun h => of_decide_eq_true h) fun h => ?_
      refine eq_of h fun s1 h => ?_
      obtain ⟨pages, h, -⟩ := eq_of (P := fun _ => True) h fun _ _ => trivial
      exact ⟨pages, h⟩
    exact ⟨on [], 19, sw (0x1000000000 + 2), k _ _ _ (by decide +kernel)⟩

/-- The hypotheses of part 1 of Obligations.TroikasAndDebugComplete are met. -/
theorem witness_TroikasReset :
    (∃ (s : State) (k : TroikaId), ∃ dst, (members k).find? (fun c => (s.core c).minority) = some dst ∧ ∃ src, (members k).find? (fun c => !(s.core c).minority) = some src ∧ troikaVoted s k.val = true ∧ (s.core src).mode ≠ .patching ∧ Tbl.get? s.resets k.val = none)
    ∧ (∃ (s : State) (src : CoreId) (dst : CoreId), s.reg .mcPatchVersion dst.val = s.reg .mcPatchVersion src.val)
    ∧ (∃ (s : State) (src : CoreId) (dst : CoreId), s.reg .mcPatchVersion dst.val ≠ s.reg .mcPatchVersion src.val)
    ∧ (∃ (s : State) (k : TroikaId) (w : SetupWrite), acts w 63 = true ∧ mayReach s w.agent .trkCtl k.val = true ∧ ∃ s1, s1 = storeSetup s .trkCtl k.val w ∧ s1.unit (uTroika k.val) ≠ stNotConfigured ∧ s1.unit (uTroika k.val) ≠ stRetired ∧ s1.flag .trkStat k.val 63 = false ∧ ((s1.flag .trkMode 0 (32 + k.val) = false ∨ s1.flag .trkCtl k.val 16 = troikaVoted s1 k.val)))
    ∧ (∃ (s : State) (k : TroikaId) (v : Verdict), ∃ r, Tbl.get? s.resets k.val = some r) := by
  refine ⟨?_, ?_, ?_, ?_, ?_⟩
  · have k : ∀ (s : State) (k : TroikaId), (someB ((members k).find? (fun c => (s.core c).minority)) fun dst => someB ((members k).find? (fun c => !(s.core c).minority)) fun src => (decide (troikaVoted s k.val = true)) && ((decide ((s.core src).mode ≠ .patching)) && (decide (Tbl.get? s.resets k.val = none)))) = true → ∃ dst, (members k).find? (fun c => (s.core c).minority) = some dst ∧ ∃ src, (members k).find? (fun c => !(s.core c).minority) = some src ∧ troikaVoted s k.val = true ∧ (s.core src).mode ≠ .patching ∧ Tbl.get? s.resets k.val = none := by
      intro s k h
      refine some_of h fun dst h => ?_
      refine some_of h fun src h => ?_
      refine and_of h (fun h => of_decide_eq_true h) fun h => ?_
      refine and_of h (fun h => of_decide_eq_true h) fun h => ?_
      exact of_decide_eq_true h
    exact ⟨(((on [uTroika 0, uCore 0, uCore 1, uCore 2]).setR .trkMode 0 1#64).modCore 1 (fun k => { k with minority := true })), 0, k _ _ (by decide +kernel)⟩
  · have k : ∀ (s : State) (src : CoreId) (dst : CoreId), (decide (s.reg .mcPatchVersion dst.val = s.reg .mcPatchVersion src.val)) = true → s.reg .mcPatchVersion dst.val = s.reg .mcPatchVersion src.val := by
      intro s src dst h
      exact of_decide_eq_true h
    exact ⟨on [], 0, 1, k _ _ _ (by decide +kernel)⟩
  · have k : ∀ (s : State) (src : CoreId) (dst : CoreId), (decide (s.reg .mcPatchVersion dst.val ≠ s.reg .mcPatchVersion src.val)) = true → s.reg .mcPatchVersion dst.val ≠ s.reg .mcPatchVersion src.val := by
      intro s src dst h
      exact of_decide_eq_true h
    exact ⟨(on []).setR .mcPatchVersion 1 5#64, 0, 1, k _ _ _ (by decide +kernel)⟩
  · have k : ∀ (s : State) (k : TroikaId) (w : SetupWrite), ((decide (acts w 63 = true)) && ((decide (mayReach s w.agent .trkCtl k.val = true)) && (eqB (storeSetup s .trkCtl k.val w) fun s1 => (decide (s1.unit (uTroika k.val) ≠ stNotConfigured)) && ((decide (s1.unit (uTroika k.val) ≠ stRetired)) && ((decide (s1.flag .trkStat k.val 63 = false)) && (decide ((s1.flag .trkMode 0 (32 + k.val) = false ∨ s1.flag .trkCtl k.val 16 = troikaVoted s1 k.val)))))))) = true → acts w 63 = true ∧ mayReach s w.agent .trkCtl k.val = true ∧ ∃ s1, s1 = storeSetup s .trkCtl k.val w ∧ s1.unit (uTroika k.val) ≠ stNotConfigured ∧ s1.unit (uTroika k.val) ≠ stRetired ∧ s1.flag .trkStat k.val 63 = false ∧ ((s1.flag .trkMode 0 (32 + k.val) = false ∨ s1.flag .trkCtl k.val 16 = troikaVoted s1 k.val)) := by
      intro s k w h
      refine and_of h (fun h => of_decide_eq_true h) fun h => ?_
      refine and_of h (fun h => of_decide_eq_true h) fun h => ?_
      refine eq_of h fun s1 h => ?_
      refine and_of h (fun h => of_decide_eq_true h) fun h => ?_
      refine and_of h (fun h => of_decide_eq_true h) fun h => ?_
      refine and_of h (fun h => of_decide_eq_true h) fun h => ?_
      exact of_decide_eq_true h
    exact ⟨on [uTroika 31], 31, sw (2 ^ 63), k _ _ _ (by decide +kernel)⟩
  · have k : ∀ (s : State) (k : TroikaId) (v : Verdict), (someB (Tbl.get? s.resets k.val) fun r => true) = true → ∃ r, Tbl.get? s.resets k.val = some r := by
      intro s k v h
      obtain ⟨r, h, -⟩ := some_of (P := fun _ => True) h fun _ _ => trivial
      exact ⟨r, h⟩
    exact ⟨{ on [uTroika 31] with resets := [(31, ⟨true, false⟩)] }, 31, .pass, k _ _ (.pass) (by decide +kernel)⟩

/-- The hypotheses of part 2 of Obligations.TroikasAndDebugComplete are met. -/
theorem witness_DebugAccessCompletes :
    (∃ (s : State) (k : TroikaId), debugAllowed s = true ∧ (members k).any (fun c => (s.core c).mode == .running) = true)
    ∧ (∃ (s : State) (c : CoreId) (r : DebugReg), debugAllowed s = true)
    ∧ (∃ (s : State) (c : _) (r : DebugReg) (v : Word), debugAllowed s = true ∧ (s.core (leadOf s c)).mode = .debugHalt ∧ troikaVoted s (troikaOfCore c) = false)
    ∧ (∃ (s : State) (a : At) (op : StepOp), debugAllowed s = true ∧ ∃ c, c = leadOf s a.core ∧ (s.core c).mode = .debugHalt)
    ∧ (∃ (s : State) (c : CoreId) (pa : Nat), pa < physTop ∧ ∃ b, b = pa / 8 * 8 ∧ debugAllowed s = true ∧ accessible s b = true ∧ poisoned s b = false)
    ∧ (∃ (s : State) (c : CoreId) (pa : Nat) (w : Word), pa < physTop ∧ ∃ b, b = pa / 8 * 8 ∧ debugAllowed s = true ∧ accessible s b = true ∧ poisoned s b = false ∧ debugWord w = true ∧ mayOverwrite (readWord s b) w = true)
    ∧ (∃ (s : State) (k : TroikaId), debugAllowed s = true ∧ s.fld .trkStat k.val 62 60 = 4 ∧ troikaVoted s k.val = false ∧ ∃ s1, s1 = turnModes s (members k) .debugHalt .running)
    ∧ (∃ (s : State) (k : TroikaId) (c : CoreId) (r : DebugReg) (v : Word) (a : At) (op : StepOp), debugAllowed s = false) := by
  refine ⟨?_, ?_, ?_, ?_, ?_, ?_, ?_, ?_⟩
  · have k : ∀ (s : State) (k : TroikaId), ((decide (debugAllowed s = true)) && (decide ((members k).any (fun c => (s.core c).mode == .running) = true))) = true → debugAllowed s = true ∧ (members k).any (fun c => (s.core c).mode == .running) = true := by
      intro s k h
      refine and_of h (fun h => of_decide_eq_true h) fun h => ?_
      exact of_decide_eq_true h
    exact ⟨withCore ((on [uTile 0, uTroika 0, uCore 0]).setF .crgStat 0 62 62 1) id, 0, k _ _ (by decide +kernel)⟩
  · have k : ∀ (s : State) (c : CoreId) (r : DebugReg), (decide (debugAllowed s = true)) = true → debugAllowed s = true := by
      intro s c r h
      exact of_decide_eq_true h
    exact ⟨((on [uTile 0, uTroika 0, uCore 0]).setF .crgStat 0 62 62 1), 0, .pc, k _ (0) (.pc) (by decide +kernel)⟩
  · have k : ∀ (s : State) (c : _) (r : DebugReg) (v : Word), ((decide (debugAllowed s = true)) && ((decide ((s.core (leadOf s c)).mode = .debugHalt)) && (decide (troikaVoted s (troikaOfCore c) = false)))) = true → debugAllowed s = true ∧ (s.core (leadOf s c)).mode = .debugHalt ∧ troikaVoted s (troikaOfCore c) = false := by
      intro s c r v h
      refine and_of h (fun h => of_decide_eq_true h) fun h => ?_
      refine and_of h (fun h => of_decide_eq_true h) fun h => ?_
      exact of_decide_eq_true h
    exact ⟨(withCore ((on [uTile 0, uTroika 0, uCore 0]).setF .crgStat 0 62 62 1) (fun k => { k with mode := .debugHalt })), 0, .pc, fixN 7, k _ _ (.pc) (fixN 7) (by decide +kernel)⟩
  · have k : ∀ (s : State) (a : At) (op : StepOp), ((decide (debugAllowed s = true)) && (eqB (leadOf s a.core) fun c => decide ((s.core c).mode = .debugHalt))) = true → debugAllowed s = true ∧ ∃ c, c = leadOf s a.core ∧ (s.core c).mode = .debugHalt := by
      intro s a op h
      refine and_of h (fun h => of_decide_eq_true h) fun h => ?_
      refine eq_of h fun c h => ?_
      exact of_decide_eq_true h
    exact ⟨(withCore ((on [uTile 0, uTroika 0, uCore 0]).setF .crgStat 0 62 62 1) (fun k => { k with mode := .debugHalt })), at0, .long .add (lg 3 1 0 2), k _ _ (.long .add (lg 3 1 0 2)) (by decide +kernel)⟩
  · have k : ∀ (s : State) (c : CoreId) (pa : Nat), ((decide (pa < physTop)) && (eqB (pa / 8 * 8) fun b => (decide (debugAllowed s = true)) && ((decide (accessible s b = true)) && (decide (poisoned s b = false))))) = true → pa < physTop ∧ ∃ b, b = pa / 8 * 8 ∧ debugAllowed s = true ∧ accessible s b = true ∧ poisoned s b = false := by
      intro s c pa h
      refine and_of h (fun h => of_decide_eq_true h) fun h => ?_
      refine eq_of h fun b h => ?_
      refine and_of h (fun h => of_decide_eq_true h) fun h => ?_
      refine and_of h (fun h => of_decide_eq_true h) fun h => ?_
      exact of_decide_eq_true h
    exact ⟨((on [uTile 0, uTroika 0, uCore 0]).setF .crgStat 0 62 62 1), 0, 0x1007, k _ (0) _ (by decide +kernel)⟩
  · have k : ∀ (s : State) (c : CoreId) (pa : Nat) (w : Word), ((decide (pa < physTop)) && (eqB (pa / 8 * 8) fun b => (decide (debugAllowed s = true)) && ((decide (accessible s b = true)) && ((decide (poisoned s b = false)) && ((decide (debugWord w = true)) && (decide (mayOverwrite (readWord s b) w = true))))))) = true → pa < physTop ∧ ∃ b, b = pa / 8 * 8 ∧ debugAllowed s = true ∧ accessible s b = true ∧ poisoned s b = false ∧ debugWord w = true ∧ mayOverwrite (readWord s b) w = true := by
      intro s c pa w h
      refine and_of h (fun h => of_decide_eq_true h) fun h => ?_
      refine eq_of h fun b h => ?_
      refine and_of h (fun h => of_decide_eq_true h) fun h => ?_
      refine and_of h (fun h => of_decide_eq_true h) fun h => ?_
      refine and_of h (fun h => of_decide_eq_true h) fun h => ?_
      refine and_of h (fun h => of_decide_eq_true h) fun h => ?_
      exact of_decide_eq_true h
    exact ⟨((on [uTile 0, uTroika 0, uCore 0]).setF .crgStat 0 62 62 1), 0, 0x1007, fixN 7, k _ (0) _ _ (by decide +kernel)⟩
  · have k : ∀ (s : State) (k : TroikaId), ((decide (debugAllowed s = true)) && ((decide (s.fld .trkStat k.val 62 60 = 4)) && ((decide (troikaVoted s k.val = false)) && (eqB (turnModes s (members k) .debugHalt .running) fun s1 => true)))) = true → debugAllowed s = true ∧ s.fld .trkStat k.val 62 60 = 4 ∧ troikaVoted s k.val = false ∧ ∃ s1, s1 = turnModes s (members k) .debugHalt .running := by
      intro s k h
      refine and_of h (fun h => of_decide_eq_true h) fun h => ?_
      refine and_of h (fun h => of_decide_eq_true h) fun h => ?_
      refine and_of h (fun h => of_decide_eq_true h) fun h => ?_
      obtain ⟨s1, h, -⟩ := eq_of (P := fun _ => True) h fun _ _ => trivial
      exact ⟨s1, h⟩
    exact ⟨(withCore ((on [uTile 0, uTroika 0, uCore 0]).setF .crgStat 0 62 62 1) (fun k => { k with mode := .debugHalt })).setF .trkStat 0 62 60 4, 0, k _ _ (by decide +kernel)⟩
  · have k : ∀ (s : State) (k : TroikaId) (c : CoreId) (r : DebugReg) (v : Word) (a : At) (op : StepOp), (decide (debugAllowed s = false)) = true → debugAllowed s = false := by
      intro s k c r v a op h
      exact of_decide_eq_true h
    exact ⟨on [], 31, 0, .pc, fixN 7, at0, .long .add (lg 3 1 0 2), k _ (31) (0) (.pc) (fixN 7) (at0) (.long .add (lg 3 1 0 2)) (by decide +kernel)⟩

/-- The hypotheses of part 1 of Obligations.EventsDelivered are met. -/
theorem witness_EventsDelivered :
    (∃ (s : State) (n : Fin 1024), n.val ≠ 195 ∧ (¬ (204 ≤ n.val ∧ n.val ≤ 207)) ∧ sourcePending s n.val = false)
    ∧ (∃ (s : State) (n : Fin 1024), sourcePending s n.val = true)
    ∧ (∃ (s : State) (w : SetupWrite), mayReach s w.agent .evcRaise 0 = true ∧ 256 ≤ wfld w 9 0 ∧ wfld w 9 0 ≤ 767)
    ∧ (∃ (s : State) (g : Fin 64), timerRuns s g.val = false ∧ deliverable s g.val ≠ 0 ∧ ∃ t, t = groupTarget s g.val ∧ takerOf s t = .awake)
    ∧ (∃ (s : State) (g : Fin 64), timerRuns s g.val = false ∧ deliverable s g.val ≠ 0 ∧ ∃ t, t = groupTarget s g.val ∧ takerOf s t = .down ∧ takerOf s (groupAlt s g.val) = .awake)
    ∧ (∃ (s : State) (g : Fin 64), timerRuns s g.val = false ∧ deliverable s g.val ≠ 0 ∧ ∃ t, t = groupTarget s g.val ∧ takerOf s t = .down ∧ takerOf s (groupAlt s g.val) = .down)
    ∧ (∃ (s : State) (g : Fin 64), timerRuns s g.val = true)
    ∧ (∃ (s : State) (g : Fin 64) (w : SetupWrite), mayReach s w.agent .evcGcfg g.val = true)
    ∧ (∃ (s : State) (i : Fin 16) (c : CoreId) (p : Part) (v : Word), troikaVoted s (troikaOfCore c) = false) := by
  refine ⟨?_, ?_, ?_, ?_, ?_, ?_, ?_, ?_, ?_⟩
  · have k : ∀ (s : State) (n : Fin 1024), ((decide (n.val ≠ 195)) && ((decide (¬ (204 ≤ n.val ∧ n.val ≤ 207))) && (decide (sourcePending s n.val = false)))) = true → n.val ≠ 195 ∧ (¬ (204 ≤ n.val ∧ n.val ≤ 207)) ∧ sourcePending s n.val = false := by
      intro s n h
      refine and_of h (fun h => of_decide_eq_true h) fun h => ?_
      refine and_of h (fun h => of_decide_eq_true h) fun h => ?_
      exact of_decide_eq_true h
    exact ⟨on [], 1023, k _ _ (by decide +kernel)⟩
  · have k : ∀ (s : State) (n : Fin 1024), (decide (sourcePending s n.val = true)) = true → sourcePending s n.val = true := by
      intro s n h
      exact of_decide_eq_true h
    exact ⟨(on []).setR .evcGstat 63 0x8000#64, 1023, k _ _ (by decide +kernel)⟩
  · have k : ∀ (s : State) (w : SetupWrite), ((decide (mayReach s w.agent .evcRaise 0 = true)) && ((decide (256 ≤ wfld w 9 0)) && (decide (wfld w 9 0 ≤ 767)))) = true → mayReach s w.agent .evcRaise 0 = true ∧ 256 ≤ wfld w 9 0 ∧ wfld w 9 0 ≤ 767 := by
      intro s w h
      refine and_of h (fun h => of_decide_eq_true h) fun h => ?_
      refine and_of h (fun h => of_decide_eq_true h) fun h => ?_
      exact of_decide_eq_true h
    exact ⟨on [], sw 767, k _ _ (by decide +kernel)⟩
  · have k : ∀ (s : State) (g : Fin 64), ((decide (timerRuns s g.val = false)) && ((decide (deliverable s g.val ≠ 0)) && (eqB (groupTarget s g.val) fun t => decide (takerOf s t = .awake)))) = true → timerRuns s g.val = false ∧ deliverable s g.val ≠ 0 ∧ ∃ t, t = groupTarget s g.val ∧ takerOf s t = .awake := by
      intro s g h
      refine and_of h (fun h => of_decide_eq_true h) fun h => ?_
      refine and_of h (fun h => of_decide_eq_true h) fun h => ?_
      refine eq_of h fun t h => ?_
      exact of_decide_eq_true h
    exact ⟨(((withCore (on [uCore 0]) id).setR .evcGcfg 63 (BitVec.ofNat 64 (2 ^ 63 + 1 * 2 ^ 48 + 0 * 2 ^ 40 + 0x80000000))).setR .evcGstat 63 0x8000#64), 63, k _ _ (by decide +kernel)⟩
  · have k : ∀ (s : State) (g : Fin 64), ((decide (timerRuns s g.val = false)) && ((decide (deliverable s g.val ≠ 0)) && (eqB (groupTarget s g.val) fun t => (decide (takerOf s t = .down)) && (decide (takerOf s (groupAlt s g.val) = .awake))))) = true → timerRuns s g.val = false ∧ deliverable s g.val ≠ 0 ∧ ∃ t, t = groupTarget s g.val ∧ takerOf s t = .down ∧ takerOf s (groupAlt s g.val) = .awake := by
      intro s g h
      refine and_of h (fun h => of_decide_eq_true h) fun h => ?_
      refine and_of h (fun h => of_decide_eq_true h) fun h => ?_
      refine eq_of h fun t h => ?_
      refine and_of h (fun h => of_decide_eq_true h) fun h => ?_
      exact of_decide_eq_true h
    exact ⟨(((withCore (on [uCore 0]) id).setR .evcGcfg 63 (BitVec.ofNat 64 (2 ^ 63 + 0 * 2 ^ 48 + 1 * 2 ^ 40 + 0x80000000))).setR .evcGstat 63 0x8000#64), 63, k _ _ (by decide +kernel)⟩
  · have k : ∀ (s : State) (g : Fin 64), ((decide (timerRuns s g.val = false)) && ((decide (deliverable s g.val ≠ 0)) && (eqB (groupTarget s g.val) fun t => (decide (takerOf s t = .down)) && (decide (takerOf s (groupAlt s g.val) = .down))))) = true → timerRuns s g.val = false ∧ deliverable s g.val ≠ 0 ∧ ∃ t, t = groupTarget s g.val ∧ takerOf s t = .down ∧ takerOf s (groupAlt s g.val) = .down := by
      intro s g h
      refine and_of h (fun h => of_decide_eq_true h) fun h => ?_
      refine and_of h (fun h => of_decide_eq_true h) fun h => ?_
      refine eq_of h fun t h => ?_
      refine and_of h (fun h => of_decide_eq_true h) fun h => ?_
      exact of_decide_eq_true h
    exact ⟨(((withCore (on [uCore 0]) id).setR .evcGcfg 63 (BitVec.ofNat 64 (2 ^ 63 + 95 * 2 ^ 48 + 1 * 2 ^ 40 + 0x80000000))).setR .evcGstat 63 0x8000#64), 63, k _ _ (by decide +kernel)⟩
  · have k : ∀ (s : State) (g : Fin 64), (decide (timerRuns s g.val = true)) = true → timerRuns s g.val = true := by
      intro s g h
      exact of_decide_eq_true h
    exact ⟨(on []).setF .evcGstat 63 61 61 1, 63, k _ _ (by decide +kernel)⟩
  · have k : ∀ (s : State) (g : Fin 64) (w : SetupWrite), (decide (mayReach s w.agent .evcGcfg g.val = true)) = true → mayReach s w.agent .evcGcfg g.val = true := by
      intro s g w h
      exact of_decide_eq_true h
    exact ⟨on [], 63, sw 0, k _ _ _ (by decide +kernel)⟩
  · have k : ∀ (s : State) (i : Fin 16) (c : CoreId) (p : Part) (v : Word), (decide (troikaVoted s (troikaOfCore c) = false)) = true → troikaVoted s (troikaOfCore c) = false := by
      intro s i c p v h
      exact of_decide_eq_true h
    exact ⟨on [], 15, 95, .full, 1#64, k _ (15) _ (.full) (1#64) (by decide +kernel)⟩

/-- The hypotheses of part 2 of Obligations.EventsDelivered are met. -/
theorem witness_CoresGated :
    (∃ (s : State) (c : _), ∃ i, i = leadOf s c ∧ (s.core i).mode = .waiting ∧ s.flag .evcCpwr i.val 63 = true)
    ∧ (∃ (s : State) (c : _), ∃ i, i = leadOf s c ∧ (s.core i).mode = .gated ∧ s.waking.contains i.val = true ∧ ∃ s1, s1 = { setModes s (partners s c) .waiting with waking := eraseNat s.waking i.val }.setF .evcCpwr i.val 62 62 0 ∧ ((∀ g : Nat, g < 64 → deliverable s1 g = 0)))
    ∧ (∃ (s : State) (g : Fin 64), s.evcWaits.contains g.val = true ∧ ∃ s1, s1 = { s with evcWaits := eraseNat s.evcWaits g.val } ∧ deliverable s1 g.val ≠ 0 ∧ takerOf s1 (groupTarget s1 g.val) = .gated ∧ takerOf s1 (groupAlt s1 g.val) = .awake)
    ∧ (∃ (s : State) (g : Fin 64), s.evcWaits.contains g.val = true ∧ ∃ s1, s1 = { s with evcWaits := eraseNat s.evcWaits g.val } ∧ deliverable s1 g.val ≠ 0 ∧ takerOf s1 (groupTarget s1 g.val) = .gated ∧ takerOf s1 (groupAlt s1 g.val) ≠ .awake) := by
  refine ⟨?_, ?_, ?_, ?_⟩
  · have k : ∀ (s : State) (c : _), (eqB (leadOf s c) fun i => (decide ((s.core i).mode = .waiting)) && (decide (s.flag .evcCpwr i.val 63 = true))) = true → ∃ i, i = leadOf s c ∧ (s.core i).mode = .waiting ∧ s.flag .evcCpwr i.val 63 = true := by
      intro s c h
      refine eq_of h fun i h => ?_
      refine and_of h (fun h => of_decide_eq_true h) fun h => ?_
      exact of_decide_eq_true h
    exact ⟨(withCore (on [uCore 0]) (fun k => { k with mode := .waiting })).setF .evcCpwr 0 63 63 1, 0, k _ _ (by decide +kernel)⟩
  · have k : ∀ (s : State) (c : _), (eqB (leadOf s c) fun i => (decide ((s.core i).mode = .gated)) && ((decide (s.waking.contains i.val = true)) && (eqB ({ setModes s (partners s c) .waiting with waking := eraseNat s.waking i.val }.setF .evcCpwr i.val 62 62 0) fun s1 => decide ((∀ g : Nat, g < 64 → deliverable s1 g = 0))))) = true → ∃ i, i = leadOf s c ∧ (s.core i).mode = .gated ∧ s.waking.contains i.val = true ∧ ∃ s1, s1 = { setModes s (partners s c) .waiting with waking := eraseNat s.waking i.val }.setF .evcCpwr i.val 62 62 0 ∧ ((∀ g : Nat, g < 64 → deliverable s1 g = 0)) := by
      intro s c h
      refine eq_of h fun i h => ?_
      refine and_of h (fun h => of_decide_eq_true h) fun h => ?_
      refine and_of h (fun h => of_decide_eq_true h) fun h => ?_
      refine eq_of h fun s1 h => ?_
      exact of_decide_eq_true h
    exact ⟨{ (withCore (on [uCore 0]) (fun k => { k with mode := .gated })) with waking := [0] }, 0, k _ _ (by decide +kernel)⟩
  · have k : ∀ (s : State) (g : Fin 64), ((decide (s.evcWaits.contains g.val = true)) && (eqB ({ s with evcWaits := eraseNat s.evcWaits g.val }) fun s1 => (decide (deliverable s1 g.val ≠ 0)) && ((decide (takerOf s1 (groupTarget s1 g.val) = .gated)) && (decide (takerOf s1 (groupAlt s1 g.val) = .awake))))) = true → s.evcWaits.contains g.val = true ∧ ∃ s1, s1 = { s with evcWaits := eraseNat s.evcWaits g.val } ∧ deliverable s1 g.val ≠ 0 ∧ takerOf s1 (groupTarget s1 g.val) = .gated ∧ takerOf s1 (groupAlt s1 g.val) = .awake := by
      intro s g h
      refine and_of h (fun h => of_decide_eq_true h) fun h => ?_
      refine eq_of h fun s1 h => ?_
      refine and_of h (fun h => of_decide_eq_true h) fun h => ?_
      refine and_of h (fun h => of_decide_eq_true h) fun h => ?_
      exact of_decide_eq_true h
    exact ⟨waits63 (((((withCore (on [uCore 0]) (fun k => { k with mode := .gated })).setUnit (uCore 1) stOnline).modCore 1 (fun k => { k with mode := .running })).setR .evcGcfg 63 (BitVec.ofNat 64 (2 ^ 63 + 1 * 2 ^ 48 + 0x80000000))).setR .evcGstat 63 0x8000#64), 63, k _ _ (by decide +kernel)⟩
  · have k : ∀ (s : State) (g : Fin 64), ((decide (s.evcWaits.contains g.val = true)) && (eqB ({ s with evcWaits := eraseNat s.evcWaits g.val }) fun s1 => (decide (deliverable s1 g.val ≠ 0)) && ((decide (takerOf s1 (groupTarget s1 g.val) = .gated)) && (decide (takerOf s1 (groupAlt s1 g.val) ≠ .awake))))) = true → s.evcWaits.contains g.val = true ∧ ∃ s1, s1 = { s with evcWaits := eraseNat s.evcWaits g.val } ∧ deliverable s1 g.val ≠ 0 ∧ takerOf s1 (groupTarget s1 g.val) = .gated ∧ takerOf s1 (groupAlt s1 g.val) ≠ .awake := by
      intro s g h
      refine and_of h (fun h => of_decide_eq_true h) fun h => ?_
      refine eq_of h fun s1 h => ?_
      refine and_of h (fun h => of_decide_eq_true h) fun h => ?_
      refine and_of h (fun h => of_decide_eq_true h) fun h => ?_
      exact of_decide_eq_true h
    exact ⟨waits63 ((((withCore (on [uCore 0]) (fun k => { k with mode := .gated }))).setR .evcGcfg 63 (BitVec.ofNat 64 (2 ^ 63 + 0 * 2 ^ 48 + 0x80000000))).setR .evcGstat 63 0x8000#64), 63, k _ _ (by decide +kernel)⟩

/-- The hypotheses of part 1 of Obligations.TraverseChannelsRun are met. -/
theorem witness_BurstsComplete :
    (∃ (s : State) (t : Fin 16), s.flag .trvTmr t.val 63 = true)
    ∧ (∃ (s : State) (n : Fin 64) (h : _), ∃ c, s.chan n.val = c ∧ chState s n.val = chRunning ∧ c.rd < c.granted ∧ (¬ (c.raw = true ∧ c.skind = 4)) ∧ ((s.flag .trvStat n.val 59 = true → c.rd = c.wr)) ∧ bufferRoom c 256 = true ∧ hasSlot s (trvMaster n) = true ∧ ∃ bs total s1, sourcePart s n.val c h = .ok (bs, total, s1) ∧ c.rdPos + bs.length < total)
    ∧ (∃ (s : State) (n : Fin 64) (h : _), ∃ c, s.chan n.val = c ∧ chState s n.val = chRunning ∧ c.rd < c.granted ∧ (¬ (c.raw = true ∧ c.skind = 4)) ∧ ((s.flag .trvStat n.val 59 = true → c.rd = c.wr)) ∧ bufferRoom c 256 = true ∧ hasSlot s (trvMaster n) = true ∧ ∃ bs total s1, sourcePart s n.val c h = .ok (bs, total, s1) ∧ total ≤ c.rdPos + bs.length)
    ∧ (∃ (s : State) (n : Fin 64) (h : _), ∃ c, s.chan n.val = c ∧ chState s n.val = chRunning ∧ c.rd < c.granted ∧ (¬ (c.raw = true ∧ c.skind = 4)) ∧ ((s.flag .trvStat n.val 59 = true → c.rd = c.wr)) ∧ bufferRoom c 256 = true ∧ hasSlot s (trvMaster n) = true ∧ ∃ code addr, sourcePart s n.val c h = .error (code, addr) ∧ code ≠ 0)
    ∧ (∃ (s : State) (n : Fin 64) (h : _), ∃ c, s.chan n.val = c ∧ chState s n.val = chRunning ∧ c.rd < c.granted ∧ (¬ (c.raw = true ∧ c.skind = 4)) ∧ ((s.flag .trvStat n.val 59 = true → c.rd = c.wr)) ∧ bufferRoom c 256 = true ∧ hasSlot s (trvMaster n) = true ∧ ∃ w1 addr, sourcePart s n.val c h = .error (w1, addr) ∧ w1 = 0 ∧ ∃ pa, mapEdge s (trvCls n.val) c.space addr = some pa)
    ∧ (∃ (s : State) (n : Fin 64), ∃ c, s.chan n.val = c ∧ chState s n.val = chRunning ∧ c.full = false ∧ hasSlot s (trvMaster n) = true ∧ ∃ k rest, c.buf = k :: rest ∧ (¬ (c.raw = true ∧ c.dkind = 4)) ∧ ∃ s1, writePart s n.val c k (k.bytes.take 256) = .done s1 ∧ 256 < k.bytes.length)
    ∧ (∃ (s : State) (n : Fin 64), ∃ c, s.chan n.val = c ∧ chState s n.val = chRunning ∧ c.full = false ∧ hasSlot s (trvMaster n) = true ∧ ∃ k rest, c.buf = k :: rest ∧ (¬ (c.raw = true ∧ c.dkind = 4)) ∧ ∃ s1, writePart s n.val c k (k.bytes.take 256) = .done s1 ∧ k.bytes.length ≤ 256 ∧ k.total ≤ k.pos + k.bytes.length ∧ k.stamp = none)
    ∧ (∃ (s : State) (n : Fin 64), ∃ c, s.chan n.val = c ∧ ∃ f fs, Tbl.getD s.ingress [] c.queue = f :: fs ∧ chState s n.val = chRunning ∧ c.raw = true ∧ c.skind = 4 ∧ c.rd < c.granted ∧ bufferRoom c f.bytes.length = true ∧ f.bytes.length ≤ c.esize) := by
  refine ⟨?_, ?_, ?_, ?_, ?_, ?_, ?_, ?_⟩
  · have k : ∀ (s : State) (t : Fin 16), (decide (s.flag .trvTmr t.val 63 = true)) = true → s.flag .trvTmr t.val 63 = true := by
      intro s t h
      exact of_decide_eq_true h
    exact ⟨(on []).setF .trvTmr 15 63 63 1, 15, k _ _ (by decide +kernel)⟩
  · have k : ∀ (s : State) (n : Fin 64) (h : _), (eqB (s.chan n.val) fun c => (decide (chState s n.val = chRunning)) && ((decide (c.rd < c.granted)) && ((decide (¬ (c.raw = true ∧ c.skind = 4))) && ((decide ((s.flag .trvStat n.val 59 = true → c.rd = c.wr))) && ((decide (bufferRoom c 256 = true)) && ((decide (hasSlot s (trvMaster n) = true)) && (okT (sourcePart s n.val c h) fun bs total s1 => decide (c.rdPos + bs.length < total)))))))) = true → ∃ c, s.chan n.val = c ∧ chState s n.val = chRunning ∧ c.rd < c.granted ∧ (¬ (c.raw = true ∧ c.skind = 4)) ∧ ((s.flag .trvStat n.val 59 = true → c.rd = c.wr)) ∧ bufferRoom c 256 = true ∧ hasSlot s (trvMaster n) = true ∧ ∃ bs total s1, sourcePart s n.val c h = .ok (bs, total, s1) ∧ c.rdPos + bs.length < total := by
      intro s n h h
      refine eq_of' h fun c h => ?_
      refine and_of h (fun h => of_decide_eq_true h) fun h => ?_
      refine and_of h (fun h => of_decide_eq_true h) fun h => ?_
      refine and_of h (fun h => of_decide_eq_true h) fun h => ?_
      refine and_of h (fun h => of_decide_eq_true h) fun h => ?_
      refine and_of h (fun h => of_decide_eq_true h) fun h => ?_
      refine and_of h (fun h => of_decide_eq_true h) fun h => ?_
      refine okT_of h fun bs total s1 h => ?_
      exact of_decide_eq_true h
    exact ⟨chn (raw0 257) 2, 63, .data (List.replicate 256 7), k _ _ _ (by decide +kernel)⟩
  · have k : ∀ (s : State) (n : Fin 64) (h : _), (eqB (s.chan n.val) fun c => (decide (chState s n.val = chRunning)) && ((decide (c.rd < c.granted)) && ((decide (¬ (c.raw = true ∧ c.skind = 4))) && ((decide ((s.flag .trvStat n.val 59 = true → c.rd = c.wr))) && ((decide (bufferRoom c 256 = true)) && ((decide (hasSlot s (trvMaster n) = true)) && (okT (sourcePart s n.val c h) fun bs total s1 => decide (total ≤ c.rdPos + bs.length)))))))) = true → ∃ c, s.chan n.val = c ∧ chState s n.val = chRunning ∧ c.rd < c.granted ∧ (¬ (c.raw = true ∧ c.skind = 4)) ∧ ((s.flag .trvStat n.val 59 = true → c.rd = c.wr)) ∧ bufferRoom c 256 = true ∧ hasSlot s (trvMaster n) = true ∧ ∃ bs total s1, sourcePart s n.val c h = .ok (bs, total, s1) ∧ total ≤ c.rdPos + bs.length := by
      intro s n h h
      refine eq_of' h fun c h => ?_
      refine and_of h (fun h => of_decide_eq_true h) fun h => ?_
      refine and_of h (fun h => of_decide_eq_true h) fun h => ?_
      refine and_of h (fun h => of_decide_eq_true h) fun h => ?_
      refine and_of h (fun h => of_decide_eq_true h) fun h => ?_
      refine and_of h (fun h => of_decide_eq_true h) fun h => ?_
      refine and_of h (fun h => of_decide_eq_true h) fun h => ?_
      refine okT_of h fun bs total s1 h => ?_
      exact of_decide_eq_true h
    exact ⟨chn (raw0 16) 2, 63, .data [1, 2], k _ _ _ (by decide +kernel)⟩
  · have k : ∀ (s : State) (n : Fin 64) (h : _), (eqB (s.chan n.val) fun c => (decide (chState s n.val = chRunning)) && ((decide (c.rd < c.granted)) && ((decide (¬ (c.raw = true ∧ c.skind = 4))) && ((decide ((s.flag .trvStat n.val 59 = true → c.rd = c.wr))) && ((decide (bufferRoom c 256 = true)) && ((decide (hasSlot s (trvMaster n) = true)) && (errP (sourcePart s n.val c h) fun code addr => decide (code ≠ 0)))))))) = true → ∃ c, s.chan n.val = c ∧ chState s n.val = chRunning ∧ c.rd < c.granted ∧ (¬ (c.raw = true ∧ c.skind = 4)) ∧ ((s.flag .trvStat n.val 59 = true → c.rd = c.wr)) ∧ bufferRoom c 256 = true ∧ hasSlot s (trvMaster n) = true ∧ ∃ code addr, sourcePart s n.val c h = .error (code, addr) ∧ code ≠ 0 := by
      intro s n h h
      refine eq_of' h fun c h => ?_
      refine and_of h (fun h => of_decide_eq_true h) fun h => ?_
      refine and_of h (fun h => of_decide_eq_true h) fun h => ?_
      refine and_of h (fun h => of_decide_eq_true h) fun h => ?_
      refine and_of h (fun h => of_decide_eq_true h) fun h => ?_
      refine and_of h (fun h => of_decide_eq_true h) fun h => ?_
      refine and_of h (fun h => of_decide_eq_true h) fun h => ?_
      refine errP_of h fun code addr h => ?_
      exact of_decide_eq_true h
    exact ⟨chn (raw0 16) 2, 63, .failed true, k _ _ _ (by decide +kernel)⟩
  · have k : ∀ (s : State) (n : Fin 64) (h : _), (eqB (s.chan n.val) fun c => (decide (chState s n.val = chRunning)) && ((decide (c.rd < c.granted)) && ((decide (¬ (c.raw = true ∧ c.skind = 4))) && ((decide ((s.flag .trvStat n.val 59 = true → c.rd = c.wr))) && ((decide (bufferRoom c 256 = true)) && ((decide (hasSlot s (trvMaster n) = true)) && (errP (sourcePart s n.val c h) fun w1 addr => (decide (w1 = 0)) && (someB (mapEdge s (trvCls n.val) c.space addr) fun pa => true)))))))) = true → ∃ c, s.chan n.val = c ∧ chState s n.val = chRunning ∧ c.rd < c.granted ∧ (¬ (c.raw = true ∧ c.skind = 4)) ∧ ((s.flag .trvStat n.val 59 = true → c.rd = c.wr)) ∧ bufferRoom c 256 = true ∧ hasSlot s (trvMaster n) = true ∧ ∃ w1 addr, sourcePart s n.val c h = .error (w1, addr) ∧ w1 = 0 ∧ ∃ pa, mapEdge s (trvCls n.val) c.space addr = some pa := by
      intro s n h h
      refine eq_of' h fun c h => ?_
      refine and_of h (fun h => of_decide_eq_true h) fun h => ?_
      refine and_of h (fun h => of_decide_eq_true h) fun h => ?_
      refine and_of h (fun h => of_decide_eq_true h) fun h => ?_
      refine and_of h (fun h => of_decide_eq_true h) fun h => ?_
      refine and_of h (fun h => of_decide_eq_true h) fun h => ?_
      refine and_of h (fun h => of_decide_eq_true h) fun h => ?_
      refine errP_of h fun w1 addr h => ?_
      refine and_of h (fun h => of_decide_eq_true h) fun h => ?_
      obtain ⟨pa, h, -⟩ := some_of (P := fun _ => True) h fun _ _ => trivial
      exact ⟨pa, h⟩
    exact ⟨{ chn { Chan.empty with ctl := BitVec.ofNat 64 (8 * 2 ^ 11), src := 0x1000#64, cnta := 0x100000001#64, cntb := 1#64, granted := 1 } 2 with rowRepair := [(0, rowOf 0x1000)] }, 63, .data [], k _ _ _ (by decide +kernel)⟩
  · have k : ∀ (s : State) (n : Fin 64), (eqB (s.chan n.val) fun c => (decide (chState s n.val = chRunning)) && ((decide (c.full = false)) && ((decide (hasSlot s (trvMaster n) = true)) && (consB (c.buf) fun k rest => (decide (¬ (c.raw = true ∧ c.dkind = 4))) && (doneB (writePart s n.val c k (k.bytes.take 256)) fun s1 => decide (256 < k.bytes.length)))))) = true → ∃ c, s.chan n.val = c ∧ chState s n.val = chRunning ∧ c.full = false ∧ hasSlot s (trvMaster n) = true ∧ ∃ k rest, c.buf = k :: rest ∧ (¬ (c.raw = true ∧ c.dkind = 4)) ∧ ∃ s1, writePart s n.val c k (k.bytes.take 256) = .done s1 ∧ 256 < k.bytes.length := by
      intro s n h
      refine eq_of' h fun c h => ?_
      refine and_of h (fun h => of_decide_eq_true h) fun h => ?_
      refine and_of h (fun h => of_decide_eq_true h) fun h => ?_
      refine and_of h (fun h => of_decide_eq_true h) fun h => ?_
      refine cons_of h fun k rest h => ?_
      refine and_of h (fun h => of_decide_eq_true h) fun h => ?_
      refine done_of h fun s1 h => ?_
      exact of_decide_eq_true h
    exact ⟨chn ({ raw0 257 with buf := [⟨0, 0, 257, List.replicate 257 7, none⟩] }) 2, 63, k _ _ (by decide +kernel)⟩
  · have k : ∀ (s : State) (n : Fin 64), (eqB (s.chan n.val) fun c => (decide (chState s n.val = chRunning)) && ((decide (c.full = false)) && ((decide (hasSlot s (trvMaster n) = true)) && (consB (c.buf) fun k rest => (decide (¬ (c.raw = true ∧ c.dkind = 4))) && (doneB (writePart s n.val c k (k.bytes.take 256)) fun s1 => (decide (k.bytes.length ≤ 256)) && ((decide (k.total ≤ k.pos + k.bytes.length)) && (decide (k.stamp = none)))))))) = true → ∃ c, s.chan n.val = c ∧ chState s n.val = chRunning ∧ c.full = false ∧ hasSlot s (trvMaster n) = true ∧ ∃ k rest, c.buf = k :: rest ∧ (¬ (c.raw = true ∧ c.dkind = 4)) ∧ ∃ s1, writePart s n.val c k (k.bytes.take 256) = .done s1 ∧ k.bytes.length ≤ 256 ∧ k.total ≤ k.pos + k.bytes.length ∧ k.stamp = none := by
      intro s n h
      refine eq_of' h fun c h => ?_
      refine and_of h (fun h => of_decide_eq_true h) fun h => ?_
      refine and_of h (fun h => of_decide_eq_true h) fun h => ?_
      refine and_of h (fun h => of_decide_eq_true h) fun h => ?_
      refine cons_of h fun k rest h => ?_
      refine and_of h (fun h => of_decide_eq_true h) fun h => ?_
      refine done_of h fun s1 h => ?_
      refine and_of h (fun h => of_decide_eq_true h) fun h => ?_
      refine and_of h (fun h => of_decide_eq_true h) fun h => ?_
      exact of_decide_eq_true h
    exact ⟨chn ({ raw0 16 with buf := [⟨0, 0, 16, List.replicate 16 7, none⟩] }) 2, 63, k _ _ (by decide +kernel)⟩
  · have k : ∀ (s : State) (n : Fin 64), (eqB (s.chan n.val) fun c => consB (Tbl.getD s.ingress [] c.queue) fun f fs => (decide (chState s n.val = chRunning)) && ((decide (c.raw = true)) && ((decide (c.skind = 4)) && ((decide (c.rd < c.granted)) && ((decide (bufferRoom c f.bytes.length = true)) && (decide (f.bytes.length ≤ c.esize))))))) = true → ∃ c, s.chan n.val = c ∧ ∃ f fs, Tbl.getD s.ingress [] c.queue = f :: fs ∧ chState s n.val = chRunning ∧ c.raw = true ∧ c.skind = 4 ∧ c.rd < c.granted ∧ bufferRoom c f.bytes.length = true ∧ f.bytes.length ≤ c.esize := by
      intro s n h
      refine eq_of' h fun c h => ?_
      refine cons_of h fun f fs h => ?_
      refine and_of h (fun h => of_decide_eq_true h) fun h => ?_
      refine and_of h (fun h => of_decide_eq_true h) fun h => ?_
      refine and_of h (fun h => of_decide_eq_true h) fun h => ?_
      refine and_of h (fun h => of_decide_eq_true h) fun h => ?_
      refine and_of h (fun h => of_decide_eq_true h) fun h => ?_
      exact of_decide_eq_true h
    exact ⟨{ chn { raw0 64 with ctl := BitVec.ofNat 64 (2 ^ 61 + 4 * 2 ^ 58 + 3 * 2 ^ 55 + 64 * 2 ^ 11) } 2 with ingress := [(0, [⟨[1, 2], 0⟩])] }, 63, k _ _ (by decide +kernel)⟩

/-- The hypotheses of part 2 of Obligations.TraverseChannelsRun are met. -/
theorem witness_ChannelsEnd :
    (∃ (s : State) (n : Fin 64), ∃ c, s.chan n.val = c ∧ ∃ p ps, c.points = p :: ps ∧ p ≠ c.total ∧ bitOf c.ctl 26 = true ∧ ∃ s1, s1 = pulse (s.setChan n.val { c with points := ps }) (bitsOf c.ctl 36 27))
    ∧ (∃ (s : State) (n : Fin 64), ∃ c, s.chan n.val = c ∧ ∃ w1 ps, c.points = w1 :: ps ∧ w1 = c.total ∧ bitOf c.ctl 26 = false ∧ chState s n.val = chRunning ∧ ∃ s1, s1 = setChState (s.setChan n.val { c with points := ps }) n.val chDone)
    ∧ (∃ (s : State) (n : Fin 64) (w : SetupWrite), acts w 63 = true ∧ mayReach s w.agent .trvCtl n.val = true ∧ ∃ s1, s1 = storeSetup s .trvCtl n.val w ∧ ((chState s n.val = chRunning ∨ chState s n.val = chWaiting ∨ chState s n.val = chDone)))
    ∧ (∃ (s : State) (n : Fin 64) (w : SetupWrite), acts w 63 = true ∧ mayReach s w.agent .trvCtl n.val = true ∧ ∃ s1, s1 = storeSetup s .trvCtl n.val w ∧ ((chState s n.val = chRunning ∨ chState s n.val = chWaiting ∨ chState s n.val = chDone)))
    ∧ (∃ (s : State) (n : Fin 64) (w : SetupWrite), acts w 63 = true ∧ mayReach s w.agent .trvCtl n.val = true ∧ ∃ s1, s1 = storeSetup s .trvCtl n.val w ∧ ((chState s n.val = chRunning ∨ chState s n.val = chWaiting ∨ chState s n.val = chDone)))
    ∧ (∃ (s : State) (n : Fin 64) (w : SetupWrite), w.part ≠ .low ∧ acts w 62 = false ∧ acts w 63 = false ∧ mayReach s w.agent .trvCtl n.val = true ∧ ∃ s1, s1 = storeSetup s .trvCtl n.val w ∧ s1.flag .trvCtl n.val 62 = false ∧ ((chState s n.val = chRunning ∨ chState s n.val = chWaiting)))
    ∧ (∃ (s : State) (n : Fin 64) (w : SetupWrite), w.part ≠ .low ∧ acts w 62 = false ∧ acts w 63 = false ∧ mayReach s w.agent .trvCtl n.val = true ∧ ∃ s1, s1 = storeSetup s .trvCtl n.val w ∧ s1.flag .trvCtl n.val 62 = false ∧ ((chState s n.val = chRunning ∨ chState s n.val = chWaiting)))
    ∧ (∃ (s : State) (n : Fin 64) (w : SetupWrite), w.part ≠ .low ∧ acts w 62 = false ∧ acts w 63 = false ∧ mayReach s w.agent .trvCtl n.val = true ∧ ∃ s1, s1 = storeSetup s .trvCtl n.val w ∧ s1.flag .trvCtl n.val 62 = false ∧ chState s n.val = chIdle)
    ∧ (∃ (s : State) (n : Fin 64), ∃ c, s.chan n.val = c ∧ ∃ code late addr, c.ending = some (code, late, addr) ∧ c.points = [] ∧ ∃ left, left = (fun (count i : Nat) => if late then 0 else count - i) ∧ ∃ r0, r0 = left c.c0 (c.i0 c.wr) ∧ ∃ r1, r1 = left c.c1 (c.i1 c.wr) ∧ ∃ r2, r2 = left c.c2 (c.i2 c.wr) ∧ ∃ s0, (if bitOf c.sb 63 = true then writeWords s (trvCls n.val) c.space (bitsOf c.sb 46 0) (statusWords s n.val code late r0 r1 r2 addr) = .ok s0 else s0 = s) ∧ ∃ s1, s1 = ((((s0.setF .trvStat n.val 60 60 (if late then 1 else 0)).setF .trvStat n.val 55 48 code).setF .trvStat n.val 24 0 r2).setR .trvRes n.val (BitVec.ofNat 64 (r1 * 2 ^ 32 + r0))).setChan n.val { c with ending := none })
    ∧ (∃ (s : State) (n : Fin 64), ∃ c, s.chan n.val = c ∧ ∃ code late addr, c.ending = some (code, late, addr) ∧ c.points = [] ∧ ∃ left, left = (fun (count i : Nat) => if late then 0 else count - i) ∧ ∃ r0, r0 = left c.c0 (c.i0 c.wr) ∧ ∃ r1, r1 = left c.c1 (c.i1 c.wr) ∧ ∃ r2, r2 = left c.c2 (c.i2 c.wr) ∧ ∃ s0, (if bitOf c.sb 63 = true then writeWords s (trvCls n.val) c.space (bitsOf c.sb 46 0) (statusWords s n.val code late r0 r1 r2 addr) = .ok s0 else s0 = s) ∧ ∃ s1, s1 = ((((s0.setF .trvStat n.val 60 60 (if late then 1 else 0)).setF .trvStat n.val 55 48 code).setF .trvStat n.val 24 0 r2).setR .trvRes n.val (BitVec.ofNat 64 (r1 * 2 ^ 32 + r0))).setChan n.val { c with ending := none }) := by
  refine ⟨?_, ?_, ?_, ?_, ?_, ?_, ?_, ?_, ?_, ?_⟩
  · have k : ∀ (s : State) (n : Fin 64), (eqB (s.chan n.val) fun c => consB (c.points) fun p ps => (decide (p ≠ c.total)) && ((decide (bitOf c.ctl 26 = true)) && (eqB (pulse (s.setChan n.val { c with points := ps }) (bitsOf c.ctl 36 27)) fun s1 => true))) = true → ∃ c, s.chan n.val = c ∧ ∃ p ps, c.points = p :: ps ∧ p ≠ c.total ∧ bitOf c.ctl 26 = true ∧ ∃ s1, s1 = pulse (s.setChan n.val { c with points := ps }) (bitsOf c.ctl 36 27) := by
      intro s n h
      refine eq_of' h fun c h => ?_
      refine cons_of h fun p ps h => ?_
      refine and_of h (fun h => of_decide_eq_true h) fun h => ?_
      refine and_of h (fun h => of_decide_eq_true h) fun h => ?_
      obtain ⟨s1, h, -⟩ := eq_of (P := fun _ => True) h fun _ _ => trivial
      exact ⟨s1, h⟩
    exact ⟨chn ({ raw0 16 with ctl := BitVec.ofNat 64 (2 ^ 26), points := [0] }) 2, 63, k _ _ (by decide +kernel)⟩
  · have k : ∀ (s : State) (n : Fin 64), (eqB (s.chan n.val) fun c => consB (c.points) fun w1 ps => (decide (w1 = c.total)) && ((decide (bitOf c.ctl 26 = false)) && ((decide (chState s n.val = chRunning)) && (eqB (setChState (s.setChan n.val { c with points := ps }) n.val chDone) fun s1 => true)))) = true → ∃ c, s.chan n.val = c ∧ ∃ w1 ps, c.points = w1 :: ps ∧ w1 = c.total ∧ bitOf c.ctl 26 = false ∧ chState s n.val = chRunning ∧ ∃ s1, s1 = setChState (s.setChan n.val { c with points := ps }) n.val chDone := by
      intro s n h
      refine eq_of' h fun c h => ?_
      refine cons_of h fun w1 ps h => ?_
      refine and_of h (fun h => of_decide_eq_true h) fun h => ?_
      refine and_of h (fun h => of_decide_eq_true h) fun h => ?_
      refine and_of h (fun h => of_decide_eq_true h) fun h => ?_
      obtain ⟨s1, h, -⟩ := eq_of (P := fun _ => True) h fun _ _ => trivial
      exact ⟨s1, h⟩
    exact ⟨chn ({ raw0 16 with points := [1] }) 2, 63, k _ _ (by decide +kernel)⟩
  · have k : ∀ (s : State) (n : Fin 64) (w : SetupWrite), ((decide (acts w 63 = true)) && ((decide (mayReach s w.agent .trvCtl n.val = true)) && (eqB (storeSetup s .trvCtl n.val w) fun s1 => decide ((chState s n.val = chRunning ∨ chState s n.val = chWaiting ∨ chState s n.val = chDone))))) = true → acts w 63 = true ∧ mayReach s w.agent .trvCtl n.val = true ∧ ∃ s1, s1 = storeSetup s .trvCtl n.val w ∧ ((chState s n.val = chRunning ∨ chState s n.val = chWaiting ∨ chState s n.val = chDone)) := by
      intro s n w h
      refine and_of h (fun h => of_decide_eq_true h) fun h => ?_
      refine and_of h (fun h => of_decide_eq_true h) fun h => ?_
      refine eq_of h fun s1 h => ?_
      exact of_decide_eq_true h
    exact ⟨chn (raw0 16) 2, 63, sw (2 ^ 63), k _ _ _ (by decide +kernel)⟩
  · have k : ∀ (s : State) (n : Fin 64) (w : SetupWrite), ((decide (acts w 63 = true)) && ((decide (mayReach s w.agent .trvCtl n.val = true)) && (eqB (storeSetup s .trvCtl n.val w) fun s1 => decide ((chState s n.val = chRunning ∨ chState s n.val = chWaiting ∨ chState s n.val = chDone))))) = true → acts w 63 = true ∧ mayReach s w.agent .trvCtl n.val = true ∧ ∃ s1, s1 = storeSetup s .trvCtl n.val w ∧ ((chState s n.val = chRunning ∨ chState s n.val = chWaiting ∨ chState s n.val = chDone)) := by
      intro s n w h
      refine and_of h (fun h => of_decide_eq_true h) fun h => ?_
      refine and_of h (fun h => of_decide_eq_true h) fun h => ?_
      refine eq_of h fun s1 h => ?_
      exact of_decide_eq_true h
    exact ⟨chn (raw0 16) 3, 63, sw (2 ^ 63), k _ _ _ (by decide +kernel)⟩
  · have k : ∀ (s : State) (n : Fin 64) (w : SetupWrite), ((decide (acts w 63 = true)) && ((decide (mayReach s w.agent .trvCtl n.val = true)) && (eqB (storeSetup s .trvCtl n.val w) fun s1 => decide ((chState s n.val = chRunning ∨ chState s n.val = chWaiting ∨ chState s n.val = chDone))))) = true → acts w 63 = true ∧ mayReach s w.agent .trvCtl n.val = true ∧ ∃ s1, s1 = storeSetup s .trvCtl n.val w ∧ ((chState s n.val = chRunning ∨ chState s n.val = chWaiting ∨ chState s n.val = chDone)) := by
      intro s n w h
      refine and_of h (fun h => of_decide_eq_true h) fun h => ?_
      refine and_of h (fun h => of_decide_eq_true h) fun h => ?_
      refine eq_of h fun s1 h => ?_
      exact of_decide_eq_true h
    exact ⟨chn (raw0 16) 6, 63, sw (2 ^ 63), k _ _ _ (by decide +kernel)⟩
  · have k : ∀ (s : State) (n : Fin 64) (w : SetupWrite), ((decide (w.part ≠ .low)) && ((decide (acts w 62 = false)) && ((decide (acts w 63 = false)) && ((decide (mayReach s w.agent .trvCtl n.val = true)) && (eqB (storeSetup s .trvCtl n.val w) fun s1 => (decide (s1.flag .trvCtl n.val 62 = false)) && (decide ((chState s n.val = chRunning ∨ chState s n.val = chWaiting)))))))) = true → w.part ≠ .low ∧ acts w 62 = false ∧ acts w 63 = false ∧ mayReach s w.agent .trvCtl n.val = true ∧ ∃ s1, s1 = storeSetup s .trvCtl n.val w ∧ s1.flag .trvCtl n.val 62 = false ∧ ((chState s n.val = chRunning ∨ chState s n.val = chWaiting)) := by
      intro s n w h
      refine and_of h (fun h => of_decide_eq_true h) fun h => ?_
      refine and_of h (fun h => of_decide_eq_true h) fun h => ?_
      refine and_of h (fun h => of_decide_eq_true h) fun h => ?_
      refine and_of h (fun h => of_decide_eq_true h) fun h => ?_
      refine eq_of h fun s1 h => ?_
      refine and_of h (fun h => of_decide_eq_true h) fun h => ?_
      exact of_decide_eq_true h
    exact ⟨chn (raw0 16) 2, 63, sw 0, k _ _ _ (by decide +kernel)⟩
  · have k : ∀ (s : State) (n : Fin 64) (w : SetupWrite), ((decide (w.part ≠ .low)) && ((decide (acts w 62 = false)) && ((decide (acts w 63 = false)) && ((decide (mayReach s w.agent .trvCtl n.val = true)) && (eqB (storeSetup s .trvCtl n.val w) fun s1 => (decide (s1.flag .trvCtl n.val 62 = false)) && (decide ((chState s n.val = chRunning ∨ chState s n.val = chWaiting)))))))) = true → w.part ≠ .low ∧ acts w 62 = false ∧ acts w 63 = false ∧ mayReach s w.agent .trvCtl n.val = true ∧ ∃ s1, s1 = storeSetup s .trvCtl n.val w ∧ s1.flag .trvCtl n.val 62 = false ∧ ((chState s n.val = chRunning ∨ chState s n.val = chWaiting)) := by
      intro s n w h
      refine and_of h (fun h => of_decide_eq_true h) fun h => ?_
      refine and_of h (fun h => of_decide_eq_true h) fun h => ?_
      refine and_of h (fun h => of_decide_eq_true h) fun h => ?_
      refine and_of h (fun h => of_decide_eq_true h) fun h => ?_
      refine eq_of h fun s1 h => ?_
      refine and_of h (fun h => of_decide_eq_true h) fun h => ?_
      exact of_decide_eq_true h
    exact ⟨chn (raw0 16) 3, 63, sw 0, k _ _ _ (by decide +kernel)⟩
  · have k : ∀ (s : State) (n : Fin 64) (w : SetupWrite), ((decide (w.part ≠ .low)) && ((decide (acts w 62 = false)) && ((decide (acts w 63 = false)) && ((decide (mayReach s w.agent .trvCtl n.val = true)) && (eqB (storeSetup s .trvCtl n.val w) fun s1 => (decide (s1.flag .trvCtl n.val 62 = false)) && (decide (chState s n.val = chIdle))))))) = true → w.part ≠ .low ∧ acts w 62 = false ∧ acts w 63 = false ∧ mayReach s w.agent .trvCtl n.val = true ∧ ∃ s1, s1 = storeSetup s .trvCtl n.val w ∧ s1.flag .trvCtl n.val 62 = false ∧ chState s n.val = chIdle := by
      intro s n w h
      refine and_of h (fun h => of_decide_eq_true h) fun h => ?_
      refine and_of h (fun h => of_decide_eq_true h) fun h => ?_
      refine and_of h (fun h => of_decide_eq_true h) fun h => ?_
      refine and_of h (fun h => of_decide_eq_true h) fun h => ?_
      refine eq_of h fun s1 h => ?_
      refine and_of h (fun h => of_decide_eq_true h) fun h => ?_
      exact of_decide_eq_true h
    exact ⟨chn (raw0 16) 1, 63, sw 0, k _ _ _ (by decide +kernel)⟩
  · have k : ∀ (s : State) (n : Fin 64), (eqB (s.chan n.val) fun c => someT (c.ending) fun code late addr => (decide (c.points = [])) && (eqB ((fun (count i : Nat) => if late then 0 else count - i)) fun left => eqB (left c.c0 (c.i0 c.wr)) fun r0 => eqB (left c.c1 (c.i1 c.wr)) fun r1 => eqB (left c.c2 (c.i2 c.wr)) fun r2 => iteE (bitOf c.sb 63 = true) (writeWords s (trvCls n.val) c.space (bitsOf c.sb 46 0) (statusWords s n.val code late r0 r1 r2 addr)) s fun s0 => eqB (((((s0.setF .trvStat n.val 60 60 (if late then 1 else 0)).setF .trvStat n.val 55 48 code).setF .trvStat n.val 24 0 r2).setR .trvRes n.val (BitVec.ofNat 64 (r1 * 2 ^ 32 + r0))).setChan n.val { c with ending := none }) fun s1 => true)) = true → ∃ c, s.chan n.val = c ∧ ∃ code late addr, c.ending = some (code, late, addr) ∧ c.points = [] ∧ ∃ left, left = (fun (count i : Nat) => if late then 0 else count - i) ∧ ∃ r0, r0 = left c.c0 (c.i0 c.wr) ∧ ∃ r1, r1 = left c.c1 (c.i1 c.wr) ∧ ∃ r2, r2 = left c.c2 (c.i2 c.wr) ∧ ∃ s0, (if bitOf c.sb 63 = true then writeWords s (trvCls n.val) c.space (bitsOf c.sb 46 0) (statusWords s n.val code late r0 r1 r2 addr) = .ok s0 else s0 = s) ∧ ∃ s1, s1 = ((((s0.setF .trvStat n.val 60 60 (if late then 1 else 0)).setF .trvStat n.val 55 48 code).setF .trvStat n.val 24 0 r2).setR .trvRes n.val (BitVec.ofNat 64 (r1 * 2 ^ 32 + r0))).setChan n.val { c with ending := none } := by
      intro s n h
      refine eq_of' h fun c h => ?_
      refine someT_of h fun code late addr h => ?_
      refine and_of h (fun h => of_decide_eq_true h) fun h => ?_
      refine eq_of h fun left h => ?_
      refine eq_of h fun r0 h => ?_
      refine eq_of h fun r1 h => ?_
      refine eq_of h fun r2 h => ?_
      refine iteE_of h fun s0 h => ?_
      obtain ⟨s1, h, -⟩ := eq_of (P := fun _ => True) h fun _ _ => trivial
      exact ⟨s1, h⟩
    exact ⟨chn ({ raw0 16 with ending := some (1, false, 0x1000) }) 4, 63, k _ _ (by decide +kernel)⟩
  · have k : ∀ (s : State) (n : Fin 64), (eqB (s.chan n.val) fun c => someT (c.ending) fun code late addr => (decide (c.points = [])) && (eqB ((fun (count i : Nat) => if late then 0 else count - i)) fun left => eqB (left c.c0 (c.i0 c.wr)) fun r0 => eqB (left c.c1 (c.i1 c.wr)) fun r1 => eqB (left c.c2 (c.i2 c.wr)) fun r2 => iteE (bitOf c.sb 63 = true) (writeWords s (trvCls n.val) c.space (bitsOf c.sb 46 0) (statusWords s n.val code late r0 r1 r2 addr)) s fun s0 => eqB (((((s0.setF .trvStat n.val 60 60 (if late then 1 else 0)).setF .trvStat n.val 55 48 code).setF .trvStat n.val 24 0 r2).setR .trvRes n.val (BitVec.ofNat 64 (r1 * 2 ^ 32 + r0))).setChan n.val { c with ending := none }) fun s1 => true)) = true → ∃ c, s.chan n.val = c ∧ ∃ code late addr, c.ending = some (code, late, addr) ∧ c.points = [] ∧ ∃ left, left = (fun (count i : Nat) => if late then 0 else count - i) ∧ ∃ r0, r0 = left c.c0 (c.i0 c.wr) ∧ ∃ r1, r1 = left c.c1 (c.i1 c.wr) ∧ ∃ r2, r2 = left c.c2 (c.i2 c.wr) ∧ ∃ s0, (if bitOf c.sb 63 = true then writeWords s (trvCls n.val) c.space (bitsOf c.sb 46 0) (statusWords s n.val code late r0 r1 r2 addr) = .ok s0 else s0 = s) ∧ ∃ s1, s1 = ((((s0.setF .trvStat n.val 60 60 (if late then 1 else 0)).setF .trvStat n.val 55 48 code).setF .trvStat n.val 24 0 r2).setR .trvRes n.val (BitVec.ofNat 64 (r1 * 2 ^ 32 + r0))).setChan n.val { c with ending := none } := by
      intro s n h
      refine eq_of' h fun c h => ?_
      refine someT_of h fun code late addr h => ?_
      refine and_of h (fun h => of_decide_eq_true h) fun h => ?_
      refine eq_of h fun left h => ?_
      refine eq_of h fun r0 h => ?_
      refine eq_of h fun r1 h => ?_
      refine eq_of h fun r2 h => ?_
      refine iteE_of h fun s0 h => ?_
      obtain ⟨s1, h, -⟩ := eq_of (P := fun _ => True) h fun _ _ => trivial
      exact ⟨s1, h⟩
    exact ⟨chn ({ raw0 16 with ending := some (1, true, 0x1000), sb := BitVec.ofNat 64 (2 ^ 63 + 0x1000) }) 4, 63, k _ _ (by decide +kernel)⟩

/-- The hypotheses of part 1 of Obligations.WaitsForRoomEnd are met. -/
theorem witness_MailboxWaitsEnd :
    (∃ (s : State) (n : Fin 64), chState s n.val = chRunning ∧ (s.chan n.val).full = true)
    ∧ (∃ (s : State) (r : Fin 64), ∃ msg, (s.ring r.val).posting = some msg ∧ ∃ f fs, (s.ring r.val).fetched = f :: fs ∧ ∃ e, e = bitsOf (f.words.getD 2 0) 15 0 ∧ ∃ w s1, tableSlot s 0 e = .ok (w, s1))
    ∧ (∃ (s : State) (n : Fin 64), chState s n.val = chRunning ∧ (s.chan n.val).full = true)
    ∧ (∃ (s : State) (r : Fin 64), ∃ msg, (s.ring r.val).posting = some msg ∧ ∃ f fs, (s.ring r.val).fetched = f :: fs) := by
  refine ⟨?_, ?_, ?_, ?_⟩
  · have k : ∀ (s : State) (n : Fin 64), ((decide (chState s n.val = chRunning)) && (decide ((s.chan n.val).full = true))) = true → chState s n.val = chRunning ∧ (s.chan n.val).full = true := by
      intro s n h
      refine and_of h (fun h => of_decide_eq_true h) fun h => ?_
      exact of_decide_eq_true h
    exact ⟨chn ({ raw0 16 with full := true }) 2, 63, k _ _ (by decide +kernel)⟩
  · have k : ∀ (s : State) (r : Fin 64), (someB ((s.ring r.val).posting) fun msg => consB ((s.ring r.val).fetched) fun f fs => eqB (bitsOf (f.words.getD 2 0) 15 0) fun e => okQ (tableSlot s 0 e) fun w s1 => true) = true → ∃ msg, (s.ring r.val).posting = some msg ∧ ∃ f fs, (s.ring r.val).fetched = f :: fs ∧ ∃ e, e = bitsOf (f.words.getD 2 0) 15 0 ∧ ∃ w s1, tableSlot s 0 e = .ok (w, s1) := by
      intro s r h
      refine some_of h fun msg h => ?_
      refine cons_of h fun f fs h => ?_
      refine eq_of h fun e h => ?_
      obtain ⟨w, s1, h, -⟩ := okQ_of (P := fun _ _ => True) h fun _ _ _ => trivial
      exact ⟨w, s1, h⟩
    exact ⟨dev 0 (mkWord 0x14 0x2000) [] (hst [desc0 1 [0]] (some (fixN 7))), 63, k _ _ (by decide +kernel)⟩
  · have k : ∀ (s : State) (n : Fin 64), ((decide (chState s n.val = chRunning)) && (decide ((s.chan n.val).full = true))) = true → chState s n.val = chRunning ∧ (s.chan n.val).full = true := by
      intro s n h
      refine and_of h (fun h => of_decide_eq_true h) fun h => ?_
      exact of_decide_eq_true h
    exact ⟨chn ({ raw0 16 with full := true }) 2, 63, k _ _ (by decide +kernel)⟩
  · have k : ∀ (s : State) (r : Fin 64), (someB ((s.ring r.val).posting) fun msg => consB ((s.ring r.val).fetched) fun f fs => true) = true → ∃ msg, (s.ring r.val).posting = some msg ∧ ∃ f fs, (s.ring r.val).fetched = f :: fs := by
      intro s r h
      refine some_of h fun msg h => ?_
      obtain ⟨f, fs, h, -⟩ := cons_of (P := fun _ _ => True) h fun _ _ _ => trivial
      exact ⟨f, fs, h⟩
    exact ⟨hst [desc0 1 [0]] (some (fixN 7)), 63, k _ _ (by decide +kernel)⟩

/-- The hypotheses of part 2 of Obligations.WaitsForRoomEnd are met. -/
theorem witness_DoorbellsComplete :
    (∃ (s : State) (bs : List Byte), engineOn s = true ∧ engineQuiet s = false ∧ s.pcie.link = true ∧ ∃ s1, s1 = (List.range 64).foldl (fun x c => takeHead x c (wordOfBytes ((bs.drop (8 * (64 + c))).take 8))) s ∧ ∃ s2 found, (List.range 64).foldl (fun (x : State × Bool) r => ((takeTail x.1 r (wordOfBytes ((bs.drop (8 * r)).take 8))).1, x.2 || (takeTail x.1 r (wordOfBytes ((bs.drop (8 * r)).take 8))).2)) (s1, false) = (s2, found))
    ∧ (∃ (s : State) (t : Bool), engineOn s = true ∧ engineQuiet s = false ∧ s.pcie.link = true)
    ∧ (∃ (s : State) (c : Fin 64) (bs : List Byte), engineOn s = true ∧ engineQuiet s = false ∧ cqRoom s c.val = false ∧ s.pcie.link = true)
    ∧ (∃ (s : State) (r : Fin 64) (bs : List Byte) (exts : _), engineOn s = true ∧ engineQuiet s = false ∧ sqRunning s r.val = true ∧ ∃ q, s.ring r.val = q ∧ q.fetched.length ≤ 16 ∧ q.fetched.any (fun f => match f.ends with | .failed _ => true | _ => false) = false ∧ q.resetting = false ∧ q.fetched.length < countDiff q.tail (sqHead s r.val) ∧ s.pcie.link = true ∧ ∃ segs e, readDescriptor s r.val (wordsOf bs) exts = some (segs, e) ∧ ∃ s1, s1 = s.setRing r.val { q with fetched := q.fetched ++ [⟨s.hre.order, wordsOf bs, segs, e⟩] }) := by
  refine ⟨?_, ?_, ?_, ?_⟩
  · have k : ∀ (s : State) (bs : List Byte), ((decide (engineOn s = true)) && ((decide (engineQuiet s = false)) && ((decide (s.pcie.link = true)) && (eqB ((List.range 64).foldl (fun x c => takeHead x c (wordOfBytes ((bs.drop (8 * (64 + c))).take 8))) s) fun s1 => pairB ((List.range 64).foldl (fun (x : State × Bool) r => ((takeTail x.1 r (wordOfBytes ((bs.drop (8 * r)).take 8))).1, x.2 || (takeTail x.1 r (wordOfBytes ((bs.drop (8 * r)).take 8))).2)) (s1, false)) fun s2 found => true)))) = true → engineOn s = true ∧ engineQuiet s = false ∧ s.pcie.link = true ∧ ∃ s1, s1 = (List.range 64).foldl (fun x c => takeHead x c (wordOfBytes ((bs.drop (8 * (64 + c))).take 8))) s ∧ ∃ s2 found, (List.range 64).foldl (fun (x : State × Bool) r => ((takeTail x.1 r (wordOfBytes ((bs.drop (8 * r)).take 8))).1, x.2 || (takeTail x.1 r (wordOfBytes ((bs.drop (8 * r)).take 8))).2)) (s1, false) = (s2, found) := by
      intro s bs h
      refine and_of h (fun h => of_decide_eq_true h) fun h => ?_
      refine and_of h (fun h => of_decide_eq_true h) fun h => ?_
      refine and_of h (fun h => of_decide_eq_true h) fun h => ?_
      refine eq_of h fun s1 h => ?_
      obtain ⟨s2, found, h, -⟩ := pair_of (P := fun _ _ => True) h fun _ _ _ => trivial
      exact ⟨s2, found, h⟩
    exact ⟨hst [], [1, 2], k _ _ (by decide +kernel)⟩
  · have k : ∀ (s : State) (t : Bool), ((decide (engineOn s = true)) && ((decide (engineQuiet s = false)) && (decide (s.pcie.link = true)))) = true → engineOn s = true ∧ engineQuiet s = false ∧ s.pcie.link = true := by
      intro s t h
      refine and_of h (fun h => of_decide_eq_true h) fun h => ?_
      refine and_of h (fun h => of_decide_eq_true h) fun h => ?_
      exact of_decide_eq_true h
    exact ⟨hst [], true, k _ (true) (by decide +kernel)⟩
  · have k : ∀ (s : State) (c : Fin 64) (bs : List Byte), ((decide (engineOn s = true)) && ((decide (engineQuiet s = false)) && ((decide (cqRoom s c.val = false)) && (decide (s.pcie.link = true))))) = true → engineOn s = true ∧ engineQuiet s = false ∧ cqRoom s c.val = false ∧ s.pcie.link = true := by
      intro s c bs h
      refine and_of h (fun h => of_decide_eq_true h) fun h => ?_
      refine and_of h (fun h => of_decide_eq_true h) fun h => ?_
      refine and_of h (fun h => of_decide_eq_true h) fun h => ?_
      exact of_decide_eq_true h
    exact ⟨(hst []).setR .hreCqcfg 0 0, 63, [], k _ _ ([]) (by decide +kernel)⟩
  · have k : ∀ (s : State) (r : Fin 64) (bs : List Byte) (exts : _), ((decide (engineOn s = true)) && ((decide (engineQuiet s = false)) && ((decide (sqRunning s r.val = true)) && (eqB (s.ring r.val) fun q => (decide (q.fetched.length ≤ 16)) && ((decide (q.fetched.any (fun f => match f.ends with | .failed _ => true | _ => false) = false)) && ((decide (q.resetting = false)) && ((decide (q.fetched.length < countDiff q.tail (sqHead s r.val))) && ((decide (s.pcie.link = true)) && (someP (readDescriptor s r.val (wordsOf bs) exts) fun segs e => eqB (s.setRing r.val { q with fetched := q.fetched ++ [⟨s.hre.order, wordsOf bs, segs, e⟩] }) fun s1 => true))))))))) = true → engineOn s = true ∧ engineQuiet s = false ∧ sqRunning s r.val = true ∧ ∃ q, s.ring r.val = q ∧ q.fetched.length ≤ 16 ∧ q.fetched.any (fun f => match f.ends with | .failed _ => true | _ => false) = false ∧ q.resetting = false ∧ q.fetched.length < countDiff q.tail (sqHead s r.val) ∧ s.pcie.link = true ∧ ∃ segs e, readDescriptor s r.val (wordsOf bs) exts = some (segs, e) ∧ ∃ s1, s1 = s.setRing r.val { q with fetched := q.fetched ++ [⟨s.hre.order, wordsOf bs, segs, e⟩] } := by
      intro s r bs exts h
      refine and_of h (fun h => of_decide_eq_true h) fun h => ?_
      refine and_of h (fun h => of_decide_eq_true h) fun h => ?_
      refine and_of h (fun h => of_decide_eq_true h) fun h => ?_
      refine eq_of' h fun q h => ?_
      refine and_of h (fun h => of_decide_eq_true h) fun h => ?_
      refine and_of h (fun h => of_decide_eq_true h) fun h => ?_
      refine and_of h (fun h => of_decide_eq_true h) fun h => ?_
      refine and_of h (fun h => of_decide_eq_true h) fun h => ?_
      refine and_of h (fun h => of_decide_eq_true h) fun h => ?_
      refine someP_of h fun segs e h => ?_
      obtain ⟨s1, h, -⟩ := eq_of (P := fun _ => True) h fun _ _ => trivial
      exact ⟨s1, h⟩
    exact ⟨(hst []).setRing 63 { Ring.empty with tail := 1 }, 63, toBytes 64 8, [], k _ _ _ _ (by decide +kernel)⟩

/-- The hypotheses of part 1 of Obligations.HostOperationsComplete are met. -/
theorem witness_HostTransfersComplete :
    (∃ (s : State) (r : Fin 64), ∃ f, frontOf s r.val 1 = some f)
    ∧ (∃ (s : State) (r : Fin 64) (bs : List Byte), ∃ f, frontOf s r.val 2 = some f ∧ engineQuiet s = false ∧ s.pcie.link = true ∧ bs.length = bitsOf (f.words.getD 2 0) 63 32)
    ∧ (∃ (s : State) (r : Fin 64), ∃ f, frontOf s r.val 3 = some f ∧ engineQuiet s = false ∧ ∃ n, n = bitsOf (f.words.getD 2 0) 63 32 ∧ ∃ off, off = bitsOf (f.words.getD 3 0) 31 0 ∧ ∃ w s1, tableSlot s 1 (bitsOf (f.words.getD 2 0) 15 0) = .ok (w, s1) ∧ ((tagOf w = 0x12 ∨ tagOf w = 0x19)) ∧ ∃ h, spaceWord s1 5 (heapSpace s1) (valOf w) = some h ∧ headerFits (tagOf w) h = true ∧ headerMalformed h = false ∧ off + n ≤ hdrLength h ∧ ∃ bs, trvRead s1 5 (heapSpace s1) true (valOf w + payloadOffset h + off) n = .ok bs)
    ∧ (∃ (s : State) (r : Fin 64), ∃ f, frontOf s r.val 3 = some f ∧ engineQuiet s = false ∧ ∃ n, n = bitsOf (f.words.getD 2 0) 63 32 ∧ ∃ off, off = bitsOf (f.words.getD 3 0) 31 0 ∧ ∃ w s1, tableSlot s 1 (bitsOf (f.words.getD 2 0) 15 0) = .ok (w, s1) ∧ ((tagOf w = 0x12 ∨ tagOf w = 0x19)) ∧ ∃ h, spaceWord s1 5 (heapSpace s1) (valOf w) = some h ∧ headerFits (tagOf w) h = true ∧ headerMalformed h = false ∧ hdrLength h < off + n) := by
  refine ⟨?_, ?_, ?_, ?_⟩
  · have k : ∀ (s : State) (r : Fin 64), (someB (frontOf s r.val 1) fun f => true) = true → ∃ f, frontOf s r.val 1 = some f := by
      intro s r h
      obtain ⟨f, h, -⟩ := some_of (P := fun _ => True) h fun _ _ => trivial
      exact ⟨f, h⟩
    exact ⟨hst [desc0 1 [0]], 63, k _ _ (by decide +kernel)⟩
  · have k : ∀ (s : State) (r : Fin 64) (bs : List Byte), (someB (frontOf s r.val 2) fun f => (decide (engineQuiet s = false)) && ((decide (s.pcie.link = true)) && (decide (bs.length = bitsOf (f.words.getD 2 0) 63 32)))) = true → ∃ f, frontOf s r.val 2 = some f ∧ engineQuiet s = false ∧ s.pcie.link = true ∧ bs.length = bitsOf (f.words.getD 2 0) 63 32 := by
      intro s r bs h
      refine some_of h fun f h => ?_
      refine and_of h (fun h => of_decide_eq_true h) fun h => ?_
      refine and_of h (fun h => of_decide_eq_true h) fun h => ?_
      exact of_decide_eq_true h
    exact ⟨hst [desc0 2 [8 * 2 ^ 32]], 63, [1, 2, 3, 4, 5, 6, 7, 8], k _ _ _ (by decide +kernel)⟩
  · have k : ∀ (s : State) (r : Fin 64), (someB (frontOf s r.val 3) fun f => (decide (engineQuiet s = false)) && (eqB (bitsOf (f.words.getD 2 0) 63 32) fun n => eqB (bitsOf (f.words.getD 3 0) 31 0) fun off => okQ (tableSlot s 1 (bitsOf (f.words.getD 2 0) 15 0)) fun w s1 => (decide ((tagOf w = 0x12 ∨ tagOf w = 0x19))) && (someB (spaceWord s1 5 (heapSpace s1) (valOf w)) fun h => (decide (headerFits (tagOf w) h = true)) && ((decide (headerMalformed h = false)) && ((decide (off + n ≤ hdrLength h)) && (okE (trvRead s1 5 (heapSpace s1) true (valOf w + payloadOffset h + off) n) fun bs => true)))))) = true → ∃ f, frontOf s r.val 3 = some f ∧ engineQuiet s = false ∧ ∃ n, n = bitsOf (f.words.getD 2 0) 63 32 ∧ ∃ off, off = bitsOf (f.words.getD 3 0) 31 0 ∧ ∃ w s1, tableSlot s 1 (bitsOf (f.words.getD 2 0) 15 0) = .ok (w, s1) ∧ ((tagOf w = 0x12 ∨ tagOf w = 0x19)) ∧ ∃ h, spaceWord s1 5 (heapSpace s1) (valOf w) = some h ∧ headerFits (tagOf w) h = true ∧ headerMalformed h = false ∧ off + n ≤ hdrLength h ∧ ∃ bs, trvRead s1 5 (heapSpace s1) true (valOf w + payloadOffset h + off) n = .ok bs := by
      intro s r h
      refine some_of h fun f h => ?_
      refine and_of h (fun h => of_decide_eq_true h) fun h => ?_
      refine eq_of h fun n h => ?_
      refine eq_of h fun off h => ?_
      refine okQ_of h fun w s1 h => ?_
      refine and_of h (fun h => of_decide_eq_true h) fun h => ?_
      refine some_of h fun h h => ?_
      refine and_of h (fun h => of_decide_eq_true h) fun h => ?_
      refine and_of h (fun h => of_decide_eq_true h) fun h => ?_
      refine and_of h (fun h => of_decide_eq_true h) fun h => ?_
      obtain ⟨bs, h, -⟩ := okE_of (P := fun _ => True) h fun _ _ => trivial
      exact ⟨bs, h⟩
    exact ⟨dev 1 (mkWord 0x12 0x2000) [(0x2000, mkHeader 0x22 6 16 0)] (hst [desc0 3 [8 * 2 ^ 32, 8]]), 63, k _ _ (by decide +kernel)⟩
  · have k : ∀ (s : State) (r : Fin 64), (someB (frontOf s r.val 3) fun f => (decide (engineQuiet s = false)) && (eqB (bitsOf (f.words.getD 2 0) 63 32) fun n => eqB (bitsOf (f.words.getD 3 0) 31 0) fun off => okQ (tableSlot s 1 (bitsOf (f.words.getD 2 0) 15 0)) fun w s1 => (decide ((tagOf w = 0x12 ∨ tagOf w = 0x19))) && (someB (spaceWord s1 5 (heapSpace s1) (valOf w)) fun h => (decide (headerFits (tagOf w) h = true)) && ((decide (headerMalformed h = false)) && (decide (hdrLength h < off + n)))))) = true → ∃ f, frontOf s r.val 3 = some f ∧ engineQuiet s = false ∧ ∃ n, n = bitsOf (f.words.getD 2 0) 63 32 ∧ ∃ off, off = bitsOf (f.words.getD 3 0) 31 0 ∧ ∃ w s1, tableSlot s 1 (bitsOf (f.words.getD 2 0) 15 0) = .ok (w, s1) ∧ ((tagOf w = 0x12 ∨ tagOf w = 0x19)) ∧ ∃ h, spaceWord s1 5 (heapSpace s1) (valOf w) = some h ∧ headerFits (tagOf w) h = true ∧ headerMalformed h = false ∧ hdrLength h < off + n := by
      intro s r h
      refine some_of h fun f h => ?_
      refine and_of h (fun h => of_decide_eq_true h) fun h => ?_
      refine eq_of h fun n h => ?_
      refine eq_of h fun off h => ?_
      refine okQ_of h fun w s1 h => ?_
      refine and_of h (fun h => of_decide_eq_true h) fun h => ?_
      refine some_of h fun h h => ?_
      refine and_of h (fun h => of_decide_eq_true h) fun h => ?_
      refine and_of h (fun h => of_decide_eq_true h) fun h => ?_
      exact of_decide_eq_true h
    exact ⟨dev 1 (mkWord 0x12 0x2000) [(0x2000, mkHeader 0x22 6 16 0)] (hst [desc0 3 [8 * 2 ^ 32, 9]]), 63, k _ _ (by decide +kernel)⟩

/-- The hypotheses of part 2 of Obligations.HostOperationsComplete are met. -/
theorem witness_HostRequestsComplete :
    (∃ (s : State) (r : Fin 64), ∃ f, frontOf s r.val 4 = some f ∧ ∃ w s1, tableSlot s 2 (bitsOf (f.words.getD 2 0) 15 0) = .ok (w, s1) ∧ tagOf w = 0x14 ∧ ∃ v, hostLook (drainAll (touchEdge s1 5 (heapSpace s1) (valOf w) 16)) (valOf w) (f.words.getD 3 0) (f.words.getD 4 0) = .ok (some v))
    ∧ (∃ (s : State) (r : Fin 64), ∃ f, frontOf s r.val 4 = some f ∧ ∃ w s1, tableSlot s 2 (bitsOf (f.words.getD 2 0) 15 0) = .ok (w, s1) ∧ tagOf w = 0x14 ∧ hostLook (drainAll (touchEdge s1 5 (heapSpace s1) (valOf w) 16)) (valOf w) (f.words.getD 3 0) (f.words.getD 4 0) = .ok none)
    ∧ (∃ (s : State) (r : Fin 64), ∃ f, frontOf s r.val 5 = some f ∧ bitOf (f.words.getD 2 0) 8 = false ∧ ∃ k, k = bitsOf (f.words.getD 2 0) 2 0 ∧ ∃ s1, s1 = writeCrest s ⟨.host, .full, BitVec.ofNat 64 (2 ^ 63 + k * 2 ^ 55)⟩)
    ∧ (∃ (s : State) (r : Fin 64), ∃ f, frontOf s r.val 6 = some f ∧ cragUp s = true ∧ engineQuiet s = false ∧ 5467 ≤ bitsOf (f.words.getD 2 0) 63 32 ∧ ∃ nonce, nonce = (((f.words.drop 3).take 4).map bytesOfWord).flatten.take (bitsOf (f.words.getD 2 0) 5 0) ∧ ∃ report, report = reportBytes s nonce ∧ ∃ sig s1, signWith s 1 4 report = (sig, s1))
    ∧ (∃ (s : State) (r : Fin 64) (img : List Byte), ∃ f, frontOf s r.val 7 = some f ∧ cragUp s = true ∧ engineQuiet s = false ∧ s.pcie.link = true ∧ img.length = bitsOf (f.words.getD 2 0) 63 32)
    ∧ (∃ (s : State) (r : Fin 64), ∃ f, frontOf s r.val 8 = some f ∧ bitsOf (f.words.getD 2 0) 7 0 = 0)
    ∧ (∃ (s : State) (r : Fin 64), ∃ f, frontOf s r.val 8 = some f ∧ bitsOf (f.words.getD 2 0) 7 0 = 1)
    ∧ (∃ (s : State) (r : Fin 64), ∃ f, frontOf s r.val 8 = some f ∧ bitsOf (f.words.getD 2 0) 7 0 = 2 ∧ ((∀ e, e ∈ s.hre.rings → ∀ g, g ∈ e.2.fetched → f.order ≤ g.order)) ∧ ((∀ e, e ∈ s.hre.entries → e.sq = none))) := by
  refine ⟨?_, ?_, ?_, ?_, ?_, ?_, ?_, ?_⟩
  · have k : ∀ (s : State) (r : Fin 64), (someB (frontOf s r.val 4) fun f => okQ (tableSlot s 2 (bitsOf (f.words.getD 2 0) 15 0)) fun w s1 => (decide (tagOf w = 0x14)) && (okO (hostLook (drainAll (touchEdge s1 5 (heapSpace s1) (valOf w) 16)) (valOf w) (f.words.getD 3 0) (f.words.getD 4 0)) fun v => true)) = true → ∃ f, frontOf s r.val 4 = some f ∧ ∃ w s1, tableSlot s 2 (bitsOf (f.words.getD 2 0) 15 0) = .ok (w, s1) ∧ tagOf w = 0x14 ∧ ∃ v, hostLook (drainAll (touchEdge s1 5 (heapSpace s1) (valOf w) 16)) (valOf w) (f.words.getD 3 0) (f.words.getD 4 0) = .ok (some v) := by
      intro s r h
      refine some_of h fun f h => ?_
      refine okQ_of h fun w s1 h => ?_
      refine and_of h (fun h => of_decide_eq_true h) fun h => ?_
      obtain ⟨v, h, -⟩ := okO_of (P := fun _ => True) h fun _ _ => trivial
      exact ⟨v, h⟩
    exact ⟨dev 2 (mkWord 0x14 0x2000) [(0x2000, mkHeader 0x20 9 135 0), (0x2008, fixN 4), (0x2018, nil), (0x2080, fixN 0x100002758), (0x2088, fixN 7), (0x2090, fixN 5), (0x2098, nil)] (hst [desc0 4 [0, (fixN 5).toNat, nil.toNat]]), 63, k _ _ (by decide +kernel)⟩
  · have k : ∀ (s : State) (r : Fin 64), (someB (frontOf s r.val 4) fun f => okQ (tableSlot s 2 (bitsOf (f.words.getD 2 0) 15 0)) fun w s1 => (decide (tagOf w = 0x14)) && (decide (hostLook (drainAll (touchEdge s1 5 (heapSpace s1) (valOf w) 16)) (valOf w) (f.words.getD 3 0) (f.words.getD 4 0) = .ok none))) = true → ∃ f, frontOf s r.val 4 = some f ∧ ∃ w s1, tableSlot s 2 (bitsOf (f.words.getD 2 0) 15 0) = .ok (w, s1) ∧ tagOf w = 0x14 ∧ hostLook (drainAll (touchEdge s1 5 (heapSpace s1) (valOf w) 16)) (valOf w) (f.words.getD 3 0) (f.words.getD 4 0) = .ok none := by
      intro s r h
      refine some_of h fun f h => ?_
      refine okQ_of h fun w s1 h => ?_
      refine and_of h (fun h => of_decide_eq_true h) fun h => ?_
      exact of_decide_eq_true h
    exact ⟨dev 2 (mkWord 0x14 0x2000) [(0x2000, mkHeader 0x20 9 135 0), (0x2008, fixN 4), (0x2018, nil)] (hst [desc0 4 [0, (fixN 5).toNat, nil.toNat]]), 63, k _ _ (by decide +kernel)⟩
  · have k : ∀ (s : State) (r : Fin 64), (someB (frontOf s r.val 5) fun f => (decide (bitOf (f.words.getD 2 0) 8 = false)) && (eqB (bitsOf (f.words.getD 2 0) 2 0) fun k => eqB (writeCrest s ⟨.host, .full, BitVec.ofNat 64 (2 ^ 63 + k * 2 ^ 55)⟩) fun s1 => true)) = true → ∃ f, frontOf s r.val 5 = some f ∧ bitOf (f.words.getD 2 0) 8 = false ∧ ∃ k, k = bitsOf (f.words.getD 2 0) 2 0 ∧ ∃ s1, s1 = writeCrest s ⟨.host, .full, BitVec.ofNat 64 (2 ^ 63 + k * 2 ^ 55)⟩ := by
      intro s r h
      refine some_of h fun f h => ?_
      refine and_of h (fun h => of_decide_eq_true h) fun h => ?_
      refine eq_of h fun k h => ?_
      obtain ⟨s1, h, -⟩ := eq_of (P := fun _ => True) h fun _ _ => trivial
      exact ⟨s1, h⟩
    exact ⟨hst [desc0 5 [7]], 63, k _ _ (by decide +kernel)⟩
  · have k : ∀ (s : State) (r : Fin 64), (someB (frontOf s r.val 6) fun f => (decide (cragUp s = true)) && ((decide (engineQuiet s = false)) && ((decide (5467 ≤ bitsOf (f.words.getD 2 0) 63 32)) && (eqB ((((f.words.drop 3).take 4).map bytesOfWord).flatten.take (bitsOf (f.words.getD 2 0) 5 0)) fun nonce => eqB (reportBytes s nonce) fun report => pairB (signWith s 1 4 report) fun sig s1 => true)))) = true → ∃ f, frontOf s r.val 6 = some f ∧ cragUp s = true ∧ engineQuiet s = false ∧ 5467 ≤ bitsOf (f.words.getD 2 0) 63 32 ∧ ∃ nonce, nonce = (((f.words.drop 3).take 4).map bytesOfWord).flatten.take (bitsOf (f.words.getD 2 0) 5 0) ∧ ∃ report, report = reportBytes s nonce ∧ ∃ sig s1, signWith s 1 4 report = (sig, s1) := by
      intro s r h
      refine some_of h fun f h => ?_
      refine and_of h (fun h => of_decide_eq_true h) fun h => ?_
      refine and_of h (fun h => of_decide_eq_true h) fun h => ?_
      refine and_of h (fun h => of_decide_eq_true h) fun h => ?_
      refine eq_of h fun nonce h => ?_
      refine eq_of h fun report h => ?_
      obtain ⟨sig, s1, h, -⟩ := pair_of (P := fun _ _ => True) h fun _ _ _ => trivial
      exact ⟨sig, s1, h⟩
    exact ⟨hst [desc0 6 [5467 * 2 ^ 32 + 32]], 63, k _ _ (by decide +kernel)⟩
  · have k : ∀ (s : State) (r : Fin 64) (img : List Byte), (someB (frontOf s r.val 7) fun f => (decide (cragUp s = true)) && ((decide (engineQuiet s = false)) && ((decide (s.pcie.link = true)) && (decide (img.length = bitsOf (f.words.getD 2 0) 63 32))))) = true → ∃ f, frontOf s r.val 7 = some f ∧ cragUp s = true ∧ engineQuiet s = false ∧ s.pcie.link = true ∧ img.length = bitsOf (f.words.getD 2 0) 63 32 := by
      intro s r img h
      refine some_of h fun f h => ?_
      refine and_of h (fun h => of_decide_eq_true h) fun h => ?_
      refine and_of h (fun h => of_decide_eq_true h) fun h => ?_
      refine and_of h (fun h => of_decide_eq_true h) fun h => ?_
      exact of_decide_eq_true h
    exact ⟨hst [desc0 7 [2 * 2 ^ 32]], 63, [1, 2], k _ _ _ (by decide +kernel)⟩
  · have k : ∀ (s : State) (r : Fin 64), (someB (frontOf s r.val 8) fun f => decide (bitsOf (f.words.getD 2 0) 7 0 = 0)) = true → ∃ f, frontOf s r.val 8 = some f ∧ bitsOf (f.words.getD 2 0) 7 0 = 0 := by
      intro s r h
      refine some_of h fun f h => ?_
      exact of_decide_eq_true h
    exact ⟨hst [desc0 8 [0]], 63, k _ _ (by decide +kernel)⟩
  · have k : ∀ (s : State) (r : Fin 64), (someB (frontOf s r.val 8) fun f => decide (bitsOf (f.words.getD 2 0) 7 0 = 1)) = true → ∃ f, frontOf s r.val 8 = some f ∧ bitsOf (f.words.getD 2 0) 7 0 = 1 := by
      intro s r h
      refine some_of h fun f h => ?_
      exact of_decide_eq_true h
    exact ⟨hst [desc0 8 [1]], 63, k _ _ (by decide +kernel)⟩
  · have k : ∀ (s : State) (r : Fin 64), (someB (frontOf s r.val 8) fun f => (decide (bitsOf (f.words.getD 2 0) 7 0 = 2)) && ((decide ((∀ e, e ∈ s.hre.rings → ∀ g, g ∈ e.2.fetched → f.order ≤ g.order))) && (decide ((∀ e, e ∈ s.hre.entries → e.sq = none))))) = true → ∃ f, frontOf s r.val 8 = some f ∧ bitsOf (f.words.getD 2 0) 7 0 = 2 ∧ ((∀ e, e ∈ s.hre.rings → ∀ g, g ∈ e.2.fetched → f.order ≤ g.order)) ∧ ((∀ e, e ∈ s.hre.entries → e.sq = none)) := by
      intro s r h
      refine some_of h fun f h => ?_
      refine and_of h (fun h => of_decide_eq_true h) fun h => ?_
      refine and_of h (fun h => of_decide_eq_true h) fun h => ?_
      exact of_decide_eq_true h
    exact ⟨hst [desc0 8 [2]], 63, k _ _ (by decide +kernel)⟩

/-- The hypotheses of part 1 of Obligations.RingsAndNotificationsComplete are met. -/
theorem witness_NotificationsComplete :
    (∃ (s : State), engineOn s = true ∧ s.flag .hreDevtab 3 63 = true ∧ hasSlot s .hre = true ∧ engineQuiet s = false ∧ s.hre.entries.any (fun e => e.sq.isNone) = false ∧ ∃ w s1, takeMessage s (heapSpace s) 5 (16 * s.fld .hreDevtab 3 46 4) = some (w, s1) ∧ isFix w = true ∧ bitsOf w 49 48 = 0 ∧ cqEnabled s1 (bitsOf w 55 50) = true)
    ∧ (∃ (s : State) (c : Fin 64), 0 < (s.cq c.val).unann) := by
  refine ⟨?_, ?_⟩
  · have k : ∀ (s : State), ((decide (engineOn s = true)) && ((decide (s.flag .hreDevtab 3 63 = true)) && ((decide (hasSlot s .hre = true)) && ((decide (engineQuiet s = false)) && ((decide (s.hre.entries.any (fun e => e.sq.isNone) = false)) && (someP (takeMessage s (heapSpace s) 5 (16 * s.fld .hreDevtab 3 46 4)) fun w s1 => (decide (isFix w = true)) && ((decide (bitsOf w 49 48 = 0)) && (decide (cqEnabled s1 (bitsOf w 55 50) = true))))))))) = true → engineOn s = true ∧ s.flag .hreDevtab 3 63 = true ∧ hasSlot s .hre = true ∧ engineQuiet s = false ∧ s.hre.entries.any (fun e => e.sq.isNone) = false ∧ ∃ w s1, takeMessage s (heapSpace s) 5 (16 * s.fld .hreDevtab 3 46 4) = some (w, s1) ∧ isFix w = true ∧ bitsOf w 49 48 = 0 ∧ cqEnabled s1 (bitsOf w 55 50) = true := by
      intro s h
      refine and_of h (fun h => of_decide_eq_true h) fun h => ?_
      refine and_of h (fun h => of_decide_eq_true h) fun h => ?_
      refine and_of h (fun h => of_decide_eq_true h) fun h => ?_
      refine and_of h (fun h => of_decide_eq_true h) fun h => ?_
      refine and_of h (fun h => of_decide_eq_true h) fun h => ?_
      refine someP_of h fun w s1 h => ?_
      refine and_of h (fun h => of_decide_eq_true h) fun h => ?_
      refine and_of h (fun h => of_decide_eq_true h) fun h => ?_
      exact of_decide_eq_true h
    exact ⟨mem0 ((hst []).setR .hreDevtab 3 (BitVec.ofNat 64 (2 ^ 63 + 0x1000))) (box0 0x1000 (fixN 7)), k _ (by decide +kernel)⟩
  · have k : ∀ (s : State) (c : Fin 64), (decide (0 < (s.cq c.val).unann)) = true → 0 < (s.cq c.val).unann := by
      intro s c h
      exact of_decide_eq_true h
    exact ⟨(hst []).setCq 63 { CqRing.empty with unann := 1 }, 63, k _ _ (by decide +kernel)⟩

/-- The hypotheses of part 2 of Obligations.RingsAndNotificationsComplete are met. -/
theorem witness_RingsConfigured :
    (∃ (s : State) (r : Fin 64) (w : SetupWrite), acts w 63 = true ∧ acts w 62 = false ∧ mayReach s w.agent .hreSqcfg r.val = true ∧ sqState s r.val = 0 ∧ ∃ s1, s1 = storeSetup s .hreSqcfg r.val w (fun old new => keepField (log2Ok (bitsOf (keepField (bitsOf new 39 32 != 0) 39 32 old new) 4 0)) 4 0 old (keepField (bitsOf new 39 32 != 0) 39 32 old new)) ∧ w.part = .full ∧ ∃ c, c = boundCq s1 r.val ∧ cqEnabled s1 c = true ∧ log2Ok (wfld w 4 0) = true ∧ windowHolds s1 (s1.fld .hreSqbase r.val 63 12 * 4096) (64 * sqSize s1 r.val) = true ∧ windowHolds s1 (s1.fld .hreCqbase c 63 12 * 4096) (32 * cqSize s1 c) = true)
    ∧ (∃ (s : State) (r : Fin 64) (w : SetupWrite), acts w 62 = true ∧ mayReach s w.agent .hreSqcfg r.val = true ∧ sqState s r.val = 2 ∧ acts w 63 = false)
    ∧ (∃ (s : State) (c : Fin 64) (w : SetupWrite), w.part ≠ .low ∧ acts w 63 = false ∧ mayReach s w.agent .hreCqcfg c.val = true ∧ cqEnabled s c.val = true ∧ ∃ s1, s1 = storeSetup s .hreCqcfg c.val w (fun old new => keepField false 4 0 old (keepField (bitsOf new 15 8 != 0) 15 8 old new)) ∧ cqEnabled s1 c.val = false)
    ∧ (∃ (s : State) (w : SetupWrite), acts w 63 = true ∧ mayReach s w.agent .hreCtl 0 = true ∧ ((bootState s = 7 ∨ bootState s = 8)))
    ∧ (∃ (s : State) (w : SetupWrite), acts w 63 = true ∧ mayReach s w.agent .hreCtl 0 = true ∧ ((bootState s = 7 ∨ bootState s = 8))) := by
  refine ⟨?_, ?_, ?_, ?_, ?_⟩
  · have k : ∀ (s : State) (r : Fin 64) (w : SetupWrite), ((decide (acts w 63 = true)) && ((decide (acts w 62 = false)) && ((decide (mayReach s w.agent .hreSqcfg r.val = true)) && ((decide (sqState s r.val = 0)) && (eqB (storeSetup s .hreSqcfg r.val w (fun old new => keepField (log2Ok (bitsOf (keepField (bitsOf new 39 32 != 0) 39 32 old new) 4 0)) 4 0 old (keepField (bitsOf new 39 32 != 0) 39 32 old new))) fun s1 => (decide (w.part = .full)) && (eqB (boundCq s1 r.val) fun c => (decide (cqEnabled s1 c = true)) && ((decide (log2Ok (wfld w 4 0) = true)) && ((decide (windowHolds s1 (s1.fld .hreSqbase r.val 63 12 * 4096) (64 * sqSize s1 r.val) = true)) && (decide (windowHolds s1 (s1.fld .hreCqbase c 63 12 * 4096) (32 * cqSize s1 c) = true)))))))))) = true → acts w 63 = true ∧ acts w 62 = false ∧ mayReach s w.agent .hreSqcfg r.val = true ∧ sqState s r.val = 0 ∧ ∃ s1, s1 = storeSetup s .hreSqcfg r.val w (fun old new => keepField (log2Ok (bitsOf (keepField (bitsOf new 39 32 != 0) 39 32 old new) 4 0)) 4 0 old (keepField (bitsOf new 39 32 != 0) 39 32 old new)) ∧ w.part = .full ∧ ∃ c, c = boundCq s1 r.val ∧ cqEnabled s1 c = true ∧ log2Ok (wfld w 4 0) = true ∧ windowHolds s1 (s1.fld .hreSqbase r.val 63 12 * 4096) (64 * sqSize s1 r.val) = true ∧ windowHolds s1 (s1.fld .hreCqbase c 63 12 * 4096) (32 * cqSize s1 c) = true := by
      intro s r w h
      refine and_of h (fun h => of_decide_eq_true h) fun h => ?_
      refine and_of h (fun h => of_decide_eq_true h) fun h => ?_
      refine and_of h (fun h => of_decide_eq_true h) fun h => ?_
      refine and_of h (fun h => of_decide_eq_true h) fun h => ?_
      refine eq_of h fun s1 h => ?_
      refine and_of h (fun h => of_decide_eq_true h) fun h => ?_
      refine eq_of h fun c h => ?_
      refine and_of h (fun h => of_decide_eq_true h) fun h => ?_
      refine and_of h (fun h => of_decide_eq_true h) fun h => ?_
      refine and_of h (fun h => of_decide_eq_true h) fun h => ?_
      exact of_decide_eq_true h
    exact ⟨((hst []).setF .hreSqstat 63 63 62 0), 63, sw (2 ^ 63 + 2 ^ 32 + 4), k _ _ _ (by decide +kernel)⟩
  · have k : ∀ (s : State) (r : Fin 64) (w : SetupWrite), ((decide (acts w 62 = true)) && ((decide (mayReach s w.agent .hreSqcfg r.val = true)) && ((decide (sqState s r.val = 2)) && (decide (acts w 63 = false))))) = true → acts w 62 = true ∧ mayReach s w.agent .hreSqcfg r.val = true ∧ sqState s r.val = 2 ∧ acts w 63 = false := by
      intro s r w h
      refine and_of h (fun h => of_decide_eq_true h) fun h => ?_
      refine and_of h (fun h => of_decide_eq_true h) fun h => ?_
      refine and_of h (fun h => of_decide_eq_true h) fun h => ?_
      exact of_decide_eq_true h
    exact ⟨(hst []).setF .hreSqstat 63 63 62 2, 63, sw (2 ^ 62), k _ _ _ (by decide +kernel)⟩
  · have k : ∀ (s : State) (c : Fin 64) (w : SetupWrite), ((decide (w.part ≠ .low)) && ((decide (acts w 63 = false)) && ((decide (mayReach s w.agent .hreCqcfg c.val = true)) && ((decide (cqEnabled s c.val = true)) && (eqB (storeSetup s .hreCqcfg c.val w (fun old new => keepField false 4 0 old (keepField (bitsOf new 15 8 != 0) 15 8 old new))) fun s1 => decide (cqEnabled s1 c.val = false)))))) = true → w.part ≠ .low ∧ acts w 63 = false ∧ mayReach s w.agent .hreCqcfg c.val = true ∧ cqEnabled s c.val = true ∧ ∃ s1, s1 = storeSetup s .hreCqcfg c.val w (fun old new => keepField false 4 0 old (keepField (bitsOf new 15 8 != 0) 15 8 old new)) ∧ cqEnabled s1 c.val = false := by
      intro s c w h
      refine and_of h (fun h => of_decide_eq_true h) fun h => ?_
      refine and_of h (fun h => of_decide_eq_true h) fun h => ?_
      refine and_of h (fun h => of_decide_eq_true h) fun h => ?_
      refine and_of h (fun h => of_decide_eq_true h) fun h => ?_
      refine eq_of h fun s1 h => ?_
      exact of_decide_eq_true h
    exact ⟨hst [], 0, sw 4, k _ _ _ (by decide +kernel)⟩
  · have k : ∀ (s : State) (w : SetupWrite), ((decide (acts w 63 = true)) && ((decide (mayReach s w.agent .hreCtl 0 = true)) && (decide ((bootState s = 7 ∨ bootState s = 8))))) = true → acts w 63 = true ∧ mayReach s w.agent .hreCtl 0 = true ∧ ((bootState s = 7 ∨ bootState s = 8)) := by
      intro s w h
      refine and_of h (fun h => of_decide_eq_true h) fun h => ?_
      refine and_of h (fun h => of_decide_eq_true h) fun h => ?_
      exact of_decide_eq_true h
    exact ⟨(on []).setF .basBoot 0 63 60 7, sw (2 ^ 63), k _ _ (by decide +kernel)⟩
  · have k : ∀ (s : State) (w : SetupWrite), ((decide (acts w 63 = true)) && ((decide (mayReach s w.agent .hreCtl 0 = true)) && (decide ((bootState s = 7 ∨ bootState s = 8))))) = true → acts w 63 = true ∧ mayReach s w.agent .hreCtl 0 = true ∧ ((bootState s = 7 ∨ bootState s = 8)) := by
      intro s w h
      refine and_of h (fun h => of_decide_eq_true h) fun h => ?_
      refine and_of h (fun h => of_decide_eq_true h) fun h => ?_
      exact of_decide_eq_true h
    exact ⟨(on []).setF .basBoot 0 63 60 8, sw (2 ^ 63), k _ _ (by decide +kernel)⟩

/-- The hypotheses of Obligations.FunctionStatesComplete are met. -/
theorem witness_FunctionStatesComplete :
    (∃ (s : State), ∃ s1, s1 = proceed { s with pcie := { s.pcie with d3 := false, bme := true, pme := false, due := [] } })
    ∧ (∃ (s : State), s.base.held = [] ∧ s.board.outside.contains 2 = false)
    ∧ (∃ (s : State), s.pcie.link = true)
    ∧ (∃ (s : State) (r : HostRequest), s.pcie.link = true ∧ ∀ off len, r = .bar0 off len → 0x10000 ≤ off) := by
  refine ⟨?_, ?_, ?_, ?_⟩
  · have k : ∀ (s : State), (eqB (proceed { s with pcie := { s.pcie with d3 := false, bme := true, pme := false, due := [] } }) fun s1 => true) = true → ∃ s1, s1 = proceed { s with pcie := { s.pcie with d3 := false, bme := true, pme := false, due := [] } } := by
      intro s h
      obtain ⟨s1, h, -⟩ := eq_of (P := fun _ => True) h fun _ _ => trivial
      exact ⟨s1, h⟩
    exact ⟨hst [], k _ (by decide +kernel)⟩
  · have k : ∀ (s : State), ((decide (s.base.held = [])) && (decide (s.board.outside.contains 2 = false))) = true → s.base.held = [] ∧ s.board.outside.contains 2 = false := by
      intro s h
      refine and_of h (fun h => of_decide_eq_true h) fun h => ?_
      exact of_decide_eq_true h
    exact ⟨on [], k _ (by decide +kernel)⟩
  · have k : ∀ (s : State), (decide (s.pcie.link = true)) = true → s.pcie.link = true := by
      intro s h
      exact of_decide_eq_true h
    exact ⟨hst [], k _ (by decide +kernel)⟩
  · exact ⟨hst [], .other 5, by decide +kernel, fun _ _ h => by cases h⟩

/-- The hypotheses of part 1 of Obligations.CragCommandsComplete are met. -/
theorem witness_CragCommandsComplete :
    (∃ (s : State), ∃ v vec s1, CragFinds s 0x01 v vec s1 ∧ ∃ w s2, cmdRandom v vec s1 = .ok (w, s2))
    ∧ (∃ (s : State), ∃ v vec s1, CragFinds s 0x02 v vec s1 ∧ ∃ w s2, cmdHash v vec s1 = .ok (w, s2))
    ∧ (∃ (s : State), ∃ v vec s1, CragFinds s 0x03 v vec s1 ∧ ∃ w s2, cmdGcmSeal v vec s1 = .ok (w, s2))
    ∧ (∃ (s : State), ∃ v vec s1, CragFinds s 0x05 v vec s1 ∧ ∃ w s2, cmdSign v vec s1 = .ok (w, s2))
    ∧ (∃ (s : State), ∃ v vec s1, CragFinds s 0x09 v vec s1 ∧ ∃ w s2, cmdKeygen v vec s1 = .ok (w, s2))
    ∧ (∃ (s : State), ∃ v vec s1, CragFinds s 0x0B v vec s1 ∧ ∃ w s2, cmdKeydelete v vec s1 = .ok (w, s2))
    ∧ (∃ (s : State), ∃ v vec s1, CragFinds s 0x0C v vec s1 ∧ ∃ w s2, cmdCtrRead v vec s1 = .ok (w, s2))
    ∧ (∃ (s : State), ∃ v vec s1, CragFinds s 0x0D v vec s1 ∧ ∃ w s2, cmdCtrInc v vec s1 = .ok (w, s2))
    ∧ (∃ (s : State), ∃ v vec s1, CragFinds s 0x10 v vec s1 ∧ ∃ w s2, cmdTpolRaise v vec s1 = .ok (w, s2))
    ∧ (∃ (s : State), ∃ v vec s1, CragFinds s 0x04 v vec s1)
    ∧ (∃ (s : State), ∃ v vec s1, CragFinds s 0x06 v vec s1)
    ∧ (∃ (s : State), ∃ v vec s1, CragFinds s 0x07 v vec s1)
    ∧ (∃ (s : State), ∃ v vec s1, CragFinds s 0x08 v vec s1)
    ∧ (∃ (s : State), ∃ v vec s1, CragFinds s 0x0A v vec s1)
    ∧ (∃ (s : State), ∃ v vec s1, CragFinds s 0x0E v vec s1)
    ∧ (∃ (s : State), ∃ v vec s1, CragFinds s 0x0F v vec s1)
    ∧ (∃ (s : State), ∃ v vec s1, CragFinds s 0x11 v vec s1)
    ∧ (∃ (s : State), ∃ v vec s1, CragFinds s 0x12 v vec s1)
    ∧ (∃ (s : State), ∃ v vec s1, CragFinds s 0x01 v vec s1 ∧ ∃ e left, cmdRandom v vec s1 = .error (e, left) ∧ e ≠ 2 ∧ e ≠ 12)
    ∧ (∃ (s : State), ∃ v vec s1, CragFinds s 0x12 v vec s1 ∧ ∃ e left, cmdOwner v vec s1 = .error (e, left) ∧ e ≠ 2 ∧ e ≠ 12)
    ∧ (∃ (s : State), cragUp s = true ∧ s.flag .crgMbox 0 63 = true ∧ hasSlot s .crag = true ∧ ∃ m0 s0, takeMessage s (heapSpace s) 6 (s.fld .crgMbox 0 46 4 * 16) = some (m0, s0) ∧ ∃ m s1, trvHeal s0 m0 = (m, s1) ∧ commandVector s1 6 m = none)
    ∧ (∃ (s : State), cragUp s = true ∧ s.flag .crgMbox 0 63 = true ∧ hasSlot s .crag = true ∧ ∃ m0 s0, takeMessage s (heapSpace s) 6 (s.fld .crgMbox 0 46 4 * 16) = some (m0, s0) ∧ ∃ m s1, trvHeal s0 m0 = (m, s1) ∧ ∃ vec, commandVector s1 6 m = some vec ∧ ∃ w, spaceWord s1 6 (heapSpace s1) (vec + 8) = some w ∧ ((isFix w = false ∨ offered s1 (bitsOf w 7 0) = false)))
    ∧ (∃ (s : State), cragUp s = true ∧ s.flag .crgMbox 0 63 = true ∧ hasSlot s .crag = true ∧ ∃ m0 s0, takeMessage s (heapSpace s) 6 (s.fld .crgMbox 0 46 4 * 16) = some (m0, s0) ∧ ∃ m s1, trvHeal s0 m0 = (m, s1) ∧ ∃ vec, commandVector s1 6 m = some vec ∧ ∃ w, spaceWord s1 6 (heapSpace s1) (vec + 8) = some w ∧ ((isFix w = false ∨ offered s1 (bitsOf w 7 0) = false)))
    ∧ (∃ (s : State), ∃ w1 vec s1, CragFinds s 0x0D w1 vec s1 ∧ w1 = 0 ∧ ∃ p s2, fixParam vec 0 64 s1 = .ok (p, s2) ∧ ∃ w2 s3, unused vec 1 s2 = .ok (w2, s3) ∧ w2 = () ∧ 8 ≤ p ∧ floorOf s3 p < 2 ^ 55 - 1 ∧ raisesOf s3 p < 10000000 ∧ softwareRaises s3 < 100000000) := by
  refine ⟨?_, ?_, ?_, ?_, ?_, ?_, ?_, ?_, ?_, ?_, ?_, ?_, ?_, ?_, ?_, ?_, ?_, ?_, ?_, ?_, ?_, ?_, ?_, ?_⟩
  · have k : ∀ (s : State), (cragFindsB s 0x01 fun v vec s1 => okQ (cmdRandom v vec s1) fun w s2 => true) = true → ∃ v vec s1, CragFinds s 0x01 v vec s1 ∧ ∃ w s2, cmdRandom v vec s1 = .ok (w, s2) := by
      intro s h
      refine cragFinds_of h fun v vec s1 h => ?_
      obtain ⟨w, s2, h, -⟩ := okQ_of (P := fun _ _ => True) h fun _ _ _ => trivial
      exact ⟨w, s2, h⟩
    exact ⟨crg (fixN 1) [bv, span 0 1], k _ (by decide +kernel)⟩
  · have k : ∀ (s : State), (cragFindsB s 0x02 fun v vec s1 => okQ (cmdHash v vec s1) fun w s2 => true) = true → ∃ v vec s1, CragFinds s 0x02 v vec s1 ∧ ∃ w s2, cmdHash v vec s1 = .ok (w, s2) := by
      intro s h
      refine cragFinds_of h fun v vec s1 h => ?_
      obtain ⟨w, s2, h, -⟩ := okQ_of (P := fun _ _ => True) h fun _ _ _ => trivial
      exact ⟨w, s2, h⟩
    exact ⟨crg (fixN 258) [bv, span 0 1, bv, fixN 16], k _ (by decide +kernel)⟩
  · have k : ∀ (s : State), (cragFindsB s 0x03 fun v vec s1 => okQ (cmdGcmSeal v vec s1) fun w s2 => true) = true → ∃ v vec s1, CragFinds s 0x03 v vec s1 ∧ ∃ w s2, cmdGcmSeal v vec s1 = .ok (w, s2) := by
      intro s h
      refine cragFinds_of h fun v vec s1 h => ?_
      obtain ⟨w, s2, h, -⟩ := okQ_of (P := fun _ _ => True) h fun _ _ _ => trivial
      exact ⟨w, s2, h⟩
    exact ⟨crg (fixN 3075) [fixN 0x100, bv, span 0 12, span 12 0, span 16 4, bv, fixN 32], k _ (by decide +kernel)⟩
  · have k : ∀ (s : State), (cragFindsB s 0x05 fun v vec s1 => okQ (cmdSign v vec s1) fun w s2 => true) = true → ∃ v vec s1, CragFinds s 0x05 v vec s1 ∧ ∃ w s2, cmdSign v vec s1 = .ok (w, s2) := by
      intro s h
      refine cragFinds_of h fun v vec s1 h => ?_
      obtain ⟨w, s2, h, -⟩ := okQ_of (P := fun _ _ => True) h fun _ _ _ => trivial
      exact ⟨w, s2, h⟩
    exact ⟨crg (fixN 517) [fixN 0x101, bv, span 0 1, bv, fixN 16], k _ (by decide +kernel)⟩
  · have k : ∀ (s : State), (cragFindsB s 0x09 fun v vec s1 => okQ (cmdKeygen v vec s1) fun w s2 => true) = true → ∃ v vec s1, CragFinds s 0x09 v vec s1 ∧ ∃ w s2, cmdKeygen v vec s1 = .ok (w, s2) := by
      intro s h
      refine cragFinds_of h fun v vec s1 h => ?_
      obtain ⟨w, s2, h, -⟩ := okQ_of (P := fun _ _ => True) h fun _ _ _ => trivial
      exact ⟨w, s2, h⟩
    exact ⟨crg (fixN 1289) [fixN 0x2FF, fixN 15], k _ (by decide +kernel)⟩
  · have k : ∀ (s : State), (cragFindsB s 0x0B fun v vec s1 => okQ (cmdKeydelete v vec s1) fun w s2 => true) = true → ∃ v vec s1, CragFinds s 0x0B v vec s1 ∧ ∃ w s2, cmdKeydelete v vec s1 = .ok (w, s2) := by
      intro s h
      refine cragFinds_of h fun v vec s1 h => ?_
      obtain ⟨w, s2, h, -⟩ := okQ_of (P := fun _ _ => True) h fun _ _ _ => trivial
      exact ⟨w, s2, h⟩
    exact ⟨crg (fixN 11) [fixN 0x100], k _ (by decide +kernel)⟩
  · have k : ∀ (s : State), (cragFindsB s 0x0C fun v vec s1 => okQ (cmdCtrRead v vec s1) fun w s2 => true) = true → ∃ v vec s1, CragFinds s 0x0C v vec s1 ∧ ∃ w s2, cmdCtrRead v vec s1 = .ok (w, s2) := by
      intro s h
      refine cragFinds_of h fun v vec s1 h => ?_
      obtain ⟨w, s2, h, -⟩ := okQ_of (P := fun _ _ => True) h fun _ _ _ => trivial
      exact ⟨w, s2, h⟩
    exact ⟨crg (fixN 12) [fixN 63], k _ (by decide +kernel)⟩
  · have k : ∀ (s : State), (cragFindsB s 0x0D fun v vec s1 => okQ (cmdCtrInc v vec s1) fun w s2 => true) = true → ∃ v vec s1, CragFinds s 0x0D v vec s1 ∧ ∃ w s2, cmdCtrInc v vec s1 = .ok (w, s2) := by
      intro s h
      refine cragFinds_of h fun v vec s1 h => ?_
      obtain ⟨w, s2, h, -⟩ := okQ_of (P := fun _ _ => True) h fun _ _ _ => trivial
      exact ⟨w, s2, h⟩
    exact ⟨crg (fixN 13) [fixN 63], k _ (by decide +kernel)⟩
  · have k : ∀ (s : State), (cragFindsB s 0x10 fun v vec s1 => okQ (cmdTpolRaise v vec s1) fun w s2 => true) = true → ∃ v vec s1, CragFinds s 0x10 v vec s1 ∧ ∃ w s2, cmdTpolRaise v vec s1 = .ok (w, s2) := by
      intro s h
      refine cragFinds_of h fun v vec s1 h => ?_
      obtain ⟨w, s2, h, -⟩ := okQ_of (P := fun _ _ => True) h fun _ _ _ => trivial
      exact ⟨w, s2, h⟩
    exact ⟨crg (fixN 16) [fixN 0x3FFFFF], k _ (by decide +kernel)⟩
  · have k : ∀ (s : State), (cragFindsB s 0x04 fun v vec s1 => true) = true → ∃ v vec s1, CragFinds s 0x04 v vec s1 := by
      intro s h
      obtain ⟨v, vec, s1, h, -⟩ := cragFinds_of (P := fun _ _ _ => True) h fun _ _ _ _ => trivial
      exact ⟨v, vec, s1, h⟩
    exact ⟨crg (fixN 4) [], k _ (by decide +kernel)⟩
  · have k : ∀ (s : State), (cragFindsB s 0x06 fun v vec s1 => true) = true → ∃ v vec s1, CragFinds s 0x06 v vec s1 := by
      intro s h
      obtain ⟨v, vec, s1, h, -⟩ := cragFinds_of (P := fun _ _ _ => True) h fun _ _ _ _ => trivial
      exact ⟨v, vec, s1, h⟩
    exact ⟨crg (fixN 6) [], k _ (by decide +kernel)⟩
  · have k : ∀ (s : State), (cragFindsB s 0x07 fun v vec s1 => true) = true → ∃ v vec s1, CragFinds s 0x07 v vec s1 := by
      intro s h
      obtain ⟨v, vec, s1, h, -⟩ := cragFinds_of (P := fun _ _ _ => True) h fun _ _ _ _ => trivial
      exact ⟨v, vec, s1, h⟩
    exact ⟨crg (fixN 7) [], k _ (by decide +kernel)⟩
  · have k : ∀ (s : State), (cragFindsB s 0x08 fun v vec s1 => true) = true → ∃ v vec s1, CragFinds s 0x08 v vec s1 := by
      intro s h
      obtain ⟨v, vec, s1, h, -⟩ := cragFinds_of (P := fun _ _ _ => True) h fun _ _ _ _ => trivial
      exact ⟨v, vec, s1, h⟩
    exact ⟨crg (fixN 8) [], k _ (by decide +kernel)⟩
  · have k : ∀ (s : State), (cragFindsB s 0x0A fun v vec s1 => true) = true → ∃ v vec s1, CragFinds s 0x0A v vec s1 := by
      intro s h
      obtain ⟨v, vec, s1, h, -⟩ := cragFinds_of (P := fun _ _ _ => True) h fun _ _ _ _ => trivial
      exact ⟨v, vec, s1, h⟩
    exact ⟨crg (fixN 10) [], k _ (by decide +kernel)⟩
  · have k : ∀ (s : State), (cragFindsB s 0x0E fun v vec s1 => true) = true → ∃ v vec s1, CragFinds s 0x0E v vec s1 := by
      intro s h
      obtain ⟨v, vec, s1, h, -⟩ := cragFinds_of (P := fun _ _ _ => True) h fun _ _ _ _ => trivial
      exact ⟨v, vec, s1, h⟩
    exact ⟨crg (fixN 14) [], k _ (by decide +kernel)⟩
  · have k : ∀ (s : State), (cragFindsB s 0x0F fun v vec s1 => true) = true → ∃ v vec s1, CragFinds s 0x0F v vec s1 := by
      intro s h
      obtain ⟨v, vec, s1, h, -⟩ := cragFinds_of (P := fun _ _ _ => True) h fun _ _ _ _ => trivial
      exact ⟨v, vec, s1, h⟩
    exact ⟨crg (fixN 15) [], k _ (by decide +kernel)⟩
  · have k : ∀ (s : State), (cragFindsB s 0x11 fun v vec s1 => true) = true → ∃ v vec s1, CragFinds s 0x11 v vec s1 := by
      intro s h
      obtain ⟨v, vec, s1, h, -⟩ := cragFinds_of (P := fun _ _ _ => True) h fun _ _ _ _ => trivial
      exact ⟨v, vec, s1, h⟩
    exact ⟨crg (fixN 17) [], k _ (by decide +kernel)⟩
  · have k : ∀ (s : State), (cragFindsB s 0x12 fun v vec s1 => true) = true → ∃ v vec s1, CragFinds s 0x12 v vec s1 := by
      intro s h
      obtain ⟨v, vec, s1, h, -⟩ := cragFinds_of (P := fun _ _ _ => True) h fun _ _ _ _ => trivial
      exact ⟨v, vec, s1, h⟩
    exact ⟨crg (fixN 18) [], k _ (by decide +kernel)⟩
  · have k : ∀ (s : State), (cragFindsB s 0x01 fun v vec s1 => errP (cmdRandom v vec s1) fun e left => (decide (e ≠ 2)) && (decide (e ≠ 12))) = true → ∃ v vec s1, CragFinds s 0x01 v vec s1 ∧ ∃ e left, cmdRandom v vec s1 = .error (e, left) ∧ e ≠ 2 ∧ e ≠ 12 := by
      intro s h
      refine cragFinds_of h fun v vec s1 h => ?_
      refine errP_of h fun e left h => ?_
      refine and_of h (fun h => of_decide_eq_true h) fun h => ?_
      exact of_decide_eq_true h
    exact ⟨crg (fixN 65281) [], k _ (by decide +kernel)⟩
  · have k : ∀ (s : State), (cragFindsB s 0x12 fun v vec s1 => errP (cmdOwner v vec s1) fun e left => (decide (e ≠ 2)) && (decide (e ≠ 12))) = true → ∃ v vec s1, CragFinds s 0x12 v vec s1 ∧ ∃ e left, cmdOwner v vec s1 = .error (e, left) ∧ e ≠ 2 ∧ e ≠ 12 := by
      intro s h
      refine cragFinds_of h fun v vec s1 h => ?_
      refine errP_of h fun e left h => ?_
      refine and_of h (fun h => of_decide_eq_true h) fun h => ?_
      exact of_decide_eq_true h
    exact ⟨crg (fixN 65298) [], k _ (by decide +kernel)⟩
  · have k : ∀ (s : State), ((decide (cragUp s = true)) && ((decide (s.flag .crgMbox 0 63 = true)) && ((decide (hasSlot s .crag = true)) && (someP (takeMessage s (heapSpace s) 6 (s.fld .crgMbox 0 46 4 * 16)) fun m0 s0 => pairB (trvHeal s0 m0) fun m s1 => decide (commandVector s1 6 m = none))))) = true → cragUp s = true ∧ s.flag .crgMbox 0 63 = true ∧ hasSlot s .crag = true ∧ ∃ m0 s0, takeMessage s (heapSpace s) 6 (s.fld .crgMbox 0 46 4 * 16) = some (m0, s0) ∧ ∃ m s1, trvHeal s0 m0 = (m, s1) ∧ commandVector s1 6 m = none := by
      intro s h
      refine and_of h (fun h => of_decide_eq_true h) fun h => ?_
      refine and_of h (fun h => of_decide_eq_true h) fun h => ?_
      refine and_of h (fun h => of_decide_eq_true h) fun h => ?_
      refine someP_of h fun m0 s0 h => ?_
      refine pair_of h fun m s1 h => ?_
      exact of_decide_eq_true h
    exact ⟨(mem0 ((bt 7).setUnit (uTile 0) stOnline |>.setR .crgMbox 0 (BitVec.ofNat 64 (2 ^ 63 + 0x2000))) ([(0x2000, mkHeader 0x20 8 6 0), (0x2008, fixN 1), (0x2010, fixN 1), (0x2018, fixN 0), (0x2030, fixN 5)])), k _ (by decide +kernel)⟩
  · have k : ∀ (s : State), ((decide (cragUp s = true)) && ((decide (s.flag .crgMbox 0 63 = true)) && ((decide (hasSlot s .crag = true)) && (someP (takeMessage s (heapSpace s) 6 (s.fld .crgMbox 0 46 4 * 16)) fun m0 s0 => pairB (trvHeal s0 m0) fun m s1 => someB (commandVector s1 6 m) fun vec => someB (spaceWord s1 6 (heapSpace s1) (vec + 8)) fun w => decide ((isFix w = false ∨ offered s1 (bitsOf w 7 0) = false)))))) = true → cragUp s = true ∧ s.flag .crgMbox 0 63 = true ∧ hasSlot s .crag = true ∧ ∃ m0 s0, takeMessage s (heapSpace s) 6 (s.fld .crgMbox 0 46 4 * 16) = some (m0, s0) ∧ ∃ m s1, trvHeal s0 m0 = (m, s1) ∧ ∃ vec, commandVector s1 6 m = some vec ∧ ∃ w, spaceWord s1 6 (heapSpace s1) (vec + 8) = some w ∧ ((isFix w = false ∨ offered s1 (bitsOf w 7 0) = false)) := by
      intro s h
      refine and_of h (fun h => of_decide_eq_true h) fun h => ?_
      refine and_of h (fun h => of_decide_eq_true h) fun h => ?_
      refine and_of h (fun h => of_decide_eq_true h) fun h => ?_
      refine someP_of h fun m0 s0 h => ?_
      refine pair_of h fun m s1 h => ?_
      refine some_of h fun vec h => ?_
      refine some_of h fun w h => ?_
      exact of_decide_eq_true h
    exact ⟨crg nil [], k _ (by decide +kernel)⟩
  · have k : ∀ (s : State), ((decide (cragUp s = true)) && ((decide (s.flag .crgMbox 0 63 = true)) && ((decide (hasSlot s .crag = true)) && (someP (takeMessage s (heapSpace s) 6 (s.fld .crgMbox 0 46 4 * 16)) fun m0 s0 => pairB (trvHeal s0 m0) fun m s1 => someB (commandVector s1 6 m) fun vec => someB (spaceWord s1 6 (heapSpace s1) (vec + 8)) fun w => decide ((isFix w = false ∨ offered s1 (bitsOf w 7 0) = false)))))) = true → cragUp s = true ∧ s.flag .crgMbox 0 63 = true ∧ hasSlot s .crag = true ∧ ∃ m0 s0, takeMessage s (heapSpace s) 6 (s.fld .crgMbox 0 46 4 * 16) = some (m0, s0) ∧ ∃ m s1, trvHeal s0 m0 = (m, s1) ∧ ∃ vec, commandVector s1 6 m = some vec ∧ ∃ w, spaceWord s1 6 (heapSpace s1) (vec + 8) = some w ∧ ((isFix w = false ∨ offered s1 (bitsOf w 7 0) = false)) := by
      intro s h
      refine and_of h (fun h => of_decide_eq_true h) fun h => ?_
      refine and_of h (fun h => of_decide_eq_true h) fun h => ?_
      refine and_of h (fun h => of_decide_eq_true h) fun h => ?_
      refine someP_of h fun m0 s0 h => ?_
      refine pair_of h fun m s1 h => ?_
      refine some_of h fun vec h => ?_
      refine some_of h fun w h => ?_
      exact of_decide_eq_true h
    exact ⟨crg (fixN 0x13) [], k _ (by decide +kernel)⟩
  · have k : ∀ (s : State), (cragFindsB s 0x0D fun w1 vec s1 => (decide (w1 = 0)) && (okQ (fixParam vec 0 64 s1) fun p s2 => okQ (unused vec 1 s2) fun w2 s3 => (decide (w2 = ())) && ((decide (8 ≤ p)) && ((decide (floorOf s3 p < 2 ^ 55 - 1)) && ((decide (raisesOf s3 p < 10000000)) && (decide (softwareRaises s3 < 100000000))))))) = true → ∃ w1 vec s1, CragFinds s 0x0D w1 vec s1 ∧ w1 = 0 ∧ ∃ p s2, fixParam vec 0 64 s1 = .ok (p, s2) ∧ ∃ w2 s3, unused vec 1 s2 = .ok (w2, s3) ∧ w2 = () ∧ 8 ≤ p ∧ floorOf s3 p < 2 ^ 55 - 1 ∧ raisesOf s3 p < 10000000 ∧ softwareRaises s3 < 100000000 := by
      intro s h
      refine cragFinds_of h fun w1 vec s1 h => ?_
      refine and_of h (fun h => of_decide_eq_true h) fun h => ?_
      refine okQ_of h fun p s2 h => ?_
      refine okQ_of h fun w2 s3 h => ?_
      refine and_of h (fun h => of_decide_eq_true h) fun h => ?_
      refine and_of h (fun h => of_decide_eq_true h) fun h => ?_
      refine and_of h (fun h => of_decide_eq_true h) fun h => ?_
      refine and_of h (fun h => of_decide_eq_true h) fun h => ?_
      exact of_decide_eq_true h
    exact ⟨crg (fixN 13) [fixN 8], k _ (by decide +kernel)⟩

/-- The hypotheses of part 2 of Obligations.CragCommandsComplete are met. -/
theorem witness_TamperAndEntropyComplete :
    (∃ (s : State) (src : Fin 11), s.base.held = [] ∧ ∃ act, act = s.fld .crgTpol 0 (2 * src.val + 1) (2 * src.val) ∧ act = 0)
    ∧ (∃ (s : State) (src : Fin 11), s.base.held = [] ∧ ∃ act, act = s.fld .crgTpol 0 (2 * src.val + 1) (2 * src.val) ∧ act = 0)
    ∧ (∃ (s : State) (src : Fin 11), s.base.held = [] ∧ ∃ act, act = s.fld .crgTpol 0 (2 * src.val + 1) (2 * src.val) ∧ act = 1)
    ∧ (∃ (s : State) (src : Fin 11), s.base.held = [] ∧ ∃ act, act = s.fld .crgTpol 0 (2 * src.val + 1) (2 * src.val) ∧ act = 1)
    ∧ (∃ (s : State) (src : Fin 11), s.base.held = [] ∧ ∃ act, act = s.fld .crgTpol 0 (2 * src.val + 1) (2 * src.val) ∧ act = 2)
    ∧ (∃ (s : State) (src : Fin 11), s.base.held = [] ∧ ∃ act, act = s.fld .crgTpol 0 (2 * src.val + 1) (2 * src.val) ∧ act = 2)
    ∧ (∃ (s : State) (src : Fin 11), s.base.held = [] ∧ ∃ act, act = s.fld .crgTpol 0 (2 * src.val + 1) (2 * src.val) ∧ act = 3)
    ∧ (∃ (s : State) (src : Fin 11), s.base.held = [] ∧ ∃ act, act = s.fld .crgTpol 0 (2 * src.val + 1) (2 * src.val) ∧ act = 3)
    ∧ (∃ (s : State) (src : Fin 11), unpowered s = true ∧ s.base.held.contains 6 = false ∧ src.val < 9 ∧ tamperAction s.base.policy src.val = 3)
    ∧ (∃ (s : State) (src : Fin 11), unpowered s = true ∧ s.base.held.contains 6 = false ∧ src.val < 9 ∧ tamperAction s.base.policy src.val ≠ 3)
    ∧ (∃ (s : State), s.online uCrag = true) := by
  refine ⟨?_, ?_, ?_, ?_, ?_, ?_, ?_, ?_, ?_, ?_, ?_⟩
  · have k : ∀ (s : State) (src : Fin 11), ((decide (s.base.held = [])) && (eqB (s.fld .crgTpol 0 (2 * src.val + 1) (2 * src.val)) fun act => decide (act = 0))) = true → s.base.held = [] ∧ ∃ act, act = s.fld .crgTpol 0 (2 * src.val + 1) (2 * src.val) ∧ act = 0 := by
      intro s src h
      refine and_of h (fun h => of_decide_eq_true h) fun h => ?_
      refine eq_of h fun act h => ?_
      exact of_decide_eq_true h
    exact ⟨(bt 7).setF .crgTpol 0 1 0 0, 0, k _ _ (by decide +kernel)⟩
  · have k : ∀ (s : State) (src : Fin 11), ((decide (s.base.held = [])) && (eqB (s.fld .crgTpol 0 (2 * src.val + 1) (2 * src.val)) fun act => decide (act = 0))) = true → s.base.held = [] ∧ ∃ act, act = s.fld .crgTpol 0 (2 * src.val + 1) (2 * src.val) ∧ act = 0 := by
      intro s src h
      refine and_of h (fun h => of_decide_eq_true h) fun h => ?_
      refine eq_of h fun act h => ?_
      exact of_decide_eq_true h
    exact ⟨(bt 7).setF .crgTpol 0 21 20 0, 10, k _ _ (by decide +kernel)⟩
  · have k : ∀ (s : State) (src : Fin 11), ((decide (s.base.held = [])) && (eqB (s.fld .crgTpol 0 (2 * src.val + 1) (2 * src.val)) fun act => decide (act = 1))) = true → s.base.held = [] ∧ ∃ act, act = s.fld .crgTpol 0 (2 * src.val + 1) (2 * src.val) ∧ act = 1 := by
      intro s src h
      refine and_of h (fun h => of_decide_eq_true h) fun h => ?_
      refine eq_of h fun act h => ?_
      exact of_decide_eq_true h
    exact ⟨(bt 7).setF .crgTpol 0 1 0 1, 0, k _ _ (by decide +kernel)⟩
  · have k : ∀ (s : State) (src : Fin 11), ((decide (s.base.held = [])) && (eqB (s.fld .crgTpol 0 (2 * src.val + 1) (2 * src.val)) fun act => decide (act = 1))) = true → s.base.held = [] ∧ ∃ act, act = s.fld .crgTpol 0 (2 * src.val + 1) (2 * src.val) ∧ act = 1 := by
      intro s src h
      refine and_of h (fun h => of_decide_eq_true h) fun h => ?_
      refine eq_of h fun act h => ?_
      exact of_decide_eq_true h
    exact ⟨(bt 7).setF .crgTpol 0 21 20 1, 10, k _ _ (by decide +kernel)⟩
  · have k : ∀ (s : State) (src : Fin 11), ((decide (s.base.held = [])) && (eqB (s.fld .crgTpol 0 (2 * src.val + 1) (2 * src.val)) fun act => decide (act = 2))) = true → s.base.held = [] ∧ ∃ act, act = s.fld .crgTpol 0 (2 * src.val + 1) (2 * src.val) ∧ act = 2 := by
      intro s src h
      refine and_of h (fun h => of_decide_eq_true h) fun h => ?_
      refine eq_of h fun act h => ?_
      exact of_decide_eq_true h
    exact ⟨(bt 7).setF .crgTpol 0 1 0 2, 0, k _ _ (by decide +kernel)⟩
  · have k : ∀ (s : State) (src : Fin 11), ((decide (s.base.held = [])) && (eqB (s.fld .crgTpol 0 (2 * src.val + 1) (2 * src.val)) fun act => decide (act = 2))) = true → s.base.held = [] ∧ ∃ act, act = s.fld .crgTpol 0 (2 * src.val + 1) (2 * src.val) ∧ act = 2 := by
      intro s src h
      refine and_of h (fun h => of_decide_eq_true h) fun h => ?_
      refine eq_of h fun act h => ?_
      exact of_decide_eq_true h
    exact ⟨(bt 7).setF .crgTpol 0 21 20 2, 10, k _ _ (by decide +kernel)⟩
  · have k : ∀ (s : State) (src : Fin 11), ((decide (s.base.held = [])) && (eqB (s.fld .crgTpol 0 (2 * src.val + 1) (2 * src.val)) fun act => decide (act = 3))) = true → s.base.held = [] ∧ ∃ act, act = s.fld .crgTpol 0 (2 * src.val + 1) (2 * src.val) ∧ act = 3 := by
      intro s src h
      refine and_of h (fun h => of_decide_eq_true h) fun h => ?_
      refine eq_of h fun act h => ?_
      exact of_decide_eq_true h
    exact ⟨(bt 7).setF .crgTpol 0 1 0 3, 0, k _ _ (by decide +kernel)⟩
  · have k : ∀ (s : State) (src : Fin 11), ((decide (s.base.held = [])) && (eqB (s.fld .crgTpol 0 (2 * src.val + 1) (2 * src.val)) fun act => decide (act = 3))) = true → s.base.held = [] ∧ ∃ act, act = s.fld .crgTpol 0 (2 * src.val + 1) (2 * src.val) ∧ act = 3 := by
      intro s src h
      refine and_of h (fun h => of_decide_eq_true h) fun h => ?_
      refine eq_of h fun act h => ?_
      exact of_decide_eq_true h
    exact ⟨(bt 7).setF .crgTpol 0 21 20 3, 10, k _ _ (by decide +kernel)⟩
  · have k : ∀ (s : State) (src : Fin 11), ((decide (unpowered s = true)) && ((decide (s.base.held.contains 6 = false)) && ((decide (src.val < 9)) && (decide (tamperAction s.base.policy src.val = 3))))) = true → unpowered s = true ∧ s.base.held.contains 6 = false ∧ src.val < 9 ∧ tamperAction s.base.policy src.val = 3 := by
      intro s src h
      refine and_of h (fun h => of_decide_eq_true h) fun h => ?_
      refine and_of h (fun h => of_decide_eq_true h) fun h => ?_
      refine and_of h (fun h => of_decide_eq_true h) fun h => ?_
      exact of_decide_eq_true h
    exact ⟨{ bt 7 with base := { (bt 7).base with held := [3], policy := 3 * 4 ^ 8 } }, 8, k _ _ (by decide +kernel)⟩
  · have k : ∀ (s : State) (src : Fin 11), ((decide (unpowered s = true)) && ((decide (s.base.held.contains 6 = false)) && ((decide (src.val < 9)) && (decide (tamperAction s.base.policy src.val ≠ 3))))) = true → unpowered s = true ∧ s.base.held.contains 6 = false ∧ src.val < 9 ∧ tamperAction s.base.policy src.val ≠ 3 := by
      intro s src h
      refine and_of h (fun h => of_decide_eq_true h) fun h => ?_
      refine and_of h (fun h => of_decide_eq_true h) fun h => ?_
      refine and_of h (fun h => of_decide_eq_true h) fun h => ?_
      exact of_decide_eq_true h
    exact ⟨{ bt 7 with base := { (bt 7).base with held := [3], policy := 0 } }, 8, k _ _ (by decide +kernel)⟩
  · have k : ∀ (s : State), (decide (s.online uCrag = true)) = true → s.online uCrag = true := by
      intro s h
      exact of_decide_eq_true h
    exact ⟨bt 7, k _ (by decide +kernel)⟩

/-- The hypotheses of part 1 of Obligations.FieldPortsComplete are met. -/
theorem witness_FramesComplete :
    (∃ (s : State) (p : Fin 8) (f : RxFrame), portUp s p.val = true ∧ f.fec = true ∧ f.fcs = true ∧ 64 ≤ f.wire ∧ f.wire ≤ 9216 ∧ isMacControl f.bytes = false ∧ ∃ s1, macsecReceive s p.val f = some s1 ∧ ∃ q, q = steer s1 p.val f.bytes % 64 ∧ ingressBytes s1 q + f.bytes.length ≤ 32768 ∧ s1.flag .netPcfg p.val 61 = true)
    ∧ (∃ (s : State) (p : Fin 8) (f : RxFrame), portUp s p.val = true ∧ f.fec = true ∧ f.fcs = true ∧ 64 ≤ f.wire ∧ f.wire ≤ 9216 ∧ isMacControl f.bytes = false ∧ ∃ s1, macsecReceive s p.val f = some s1 ∧ ∃ q, q = steer s1 p.val f.bytes % 64 ∧ ingressBytes s1 q + f.bytes.length ≤ 32768 ∧ s1.flag .netPcfg p.val 61 = true)
    ∧ (∃ (s : State) (p : Fin 8) (f : RxFrame), portUp s p.val = true ∧ f.fec = true ∧ f.fcs = true ∧ 64 ≤ f.wire ∧ f.wire ≤ 9216 ∧ isMacControl f.bytes = false ∧ ∃ s1, macsecReceive s p.val f = some s1 ∧ ∃ q, q = steer s1 p.val f.bytes % 64 ∧ 32768 < ingressBytes s1 q + f.bytes.length)
    ∧ (∃ (s : State) (p : Fin 8) (f : RxFrame), portUp s p.val = true ∧ f.fec = false)
    ∧ (∃ (s : State) (p : Fin 8) (f : RxFrame), portUp s p.val = true ∧ f.fec = true ∧ f.fcs = false)
    ∧ (∃ (s : State) (p : Fin 8) (f : RxFrame), portUp s p.val = true ∧ f.fec = true ∧ f.fcs = true ∧ 64 ≤ f.wire ∧ f.wire ≤ 9216 ∧ isMacControl f.bytes = false ∧ macsecReceive s p.val f = none)
    ∧ (∃ (s : State) (p : Fin 8), portUp s p.val = true ∧ ∃ q, nextQueue s p.val = some q ∧ ∃ bs rest, egressFrames s q = bs :: rest ∧ ∃ s1, s1 = { s with egress := Tbl.putD s.egress [] q rest, net := { s.net with last := Tbl.put s.net.last p.val q } } ∧ isProtected s1 q p.val = false ∧ s1.flag .netEqcfg q 63 = false)
    ∧ (∃ (s : State) (p : Fin 8), portUp s p.val = true ∧ ∃ q, nextQueue s p.val = some q ∧ ∃ bs rest, egressFrames s q = bs :: rest ∧ ∃ s1, s1 = { s with egress := Tbl.putD s.egress [] q rest, net := { s.net with last := Tbl.put s.net.last p.val q } } ∧ isProtected s1 q p.val = true ∧ ∃ an a, txSa s1 p.val = some (an, a) ∧ a.pn + 1 < 2 ^ 64 - 2 ^ 32 ∧ ∃ s2, s2 = { s1 with net := { s1.net with sas := Tbl.put s1.net.sas (saKey 1 p.val 0 an) { a with pn := a.pn + 1 } } }) := by
  refine ⟨?_, ?_, ?_, ?_, ?_, ?_, ?_, ?_⟩
  · have k : ∀ (s : State) (p : Fin 8) (f : RxFrame), ((decide (portUp s p.val = true)) && ((decide (f.fec = true)) && ((decide (f.fcs = true)) && ((decide (64 ≤ f.wire)) && ((decide (f.wire ≤ 9216)) && ((decide (isMacControl f.bytes = false)) && (someB (macsecReceive s p.val f) fun s1 => eqB (steer s1 p.val f.bytes % 64) fun q => (decide (ingressBytes s1 q + f.bytes.length ≤ 32768)) && (decide (s1.flag .netPcfg p.val 61 = true))))))))) = true → portUp s p.val = true ∧ f.fec = true ∧ f.fcs = true ∧ 64 ≤ f.wire ∧ f.wire ≤ 9216 ∧ isMacControl f.bytes = false ∧ ∃ s1, macsecReceive s p.val f = some s1 ∧ ∃ q, q = steer s1 p.val f.bytes % 64 ∧ ingressBytes s1 q + f.bytes.length ≤ 32768 ∧ s1.flag .netPcfg p.val 61 = true := by
      intro s p f h
      refine and_of h (fun h => of_decide_eq_true h) fun h => ?_
      refine and_of h (fun h => of_decide_eq_true h) fun h => ?_
      refine and_of h (fun h => of_decide_eq_true h) fun h => ?_
      refine and_of h (fun h => of_decide_eq_true h) fun h => ?_
      refine and_of h (fun h => of_decide_eq_true h) fun h => ?_
      refine and_of h (fun h => of_decide_eq_true h) fun h => ?_
      refine some_of h fun s1 h => ?_
      refine eq_of h fun q h => ?_
      refine and_of h (fun h => of_decide_eq_true h) fun h => ?_
      exact of_decide_eq_true h
    exact ⟨prt.setF .netPcfg 7 61 61 1, 7, frm [1, 2] 64, k _ _ _ (by decide +kernel)⟩
  · have k : ∀ (s : State) (p : Fin 8) (f : RxFrame), ((decide (portUp s p.val = true)) && ((decide (f.fec = true)) && ((decide (f.fcs = true)) && ((decide (64 ≤ f.wire)) && ((decide (f.wire ≤ 9216)) && ((decide (isMacControl f.bytes = false)) && (someB (macsecReceive s p.val f) fun s1 => eqB (steer s1 p.val f.bytes % 64) fun q => (decide (ingressBytes s1 q + f.bytes.length ≤ 32768)) && (decide (s1.flag .netPcfg p.val 61 = true))))))))) = true → portUp s p.val = true ∧ f.fec = true ∧ f.fcs = true ∧ 64 ≤ f.wire ∧ f.wire ≤ 9216 ∧ isMacControl f.bytes = false ∧ ∃ s1, macsecReceive s p.val f = some s1 ∧ ∃ q, q = steer s1 p.val f.bytes % 64 ∧ ingressBytes s1 q + f.bytes.length ≤ 32768 ∧ s1.flag .netPcfg p.val 61 = true := by
      intro s p f h
      refine and_of h (fun h => of_decide_eq_true h) fun h => ?_
      refine and_of h (fun h => of_decide_eq_true h) fun h => ?_
      refine and_of h (fun h => of_decide_eq_true h) fun h => ?_
      refine and_of h (fun h => of_decide_eq_true h) fun h => ?_
      refine and_of h (fun h => of_decide_eq_true h) fun h => ?_
      refine and_of h (fun h => of_decide_eq_true h) fun h => ?_
      refine some_of h fun s1 h => ?_
      refine eq_of h fun q h => ?_
      refine and_of h (fun h => of_decide_eq_true h) fun h => ?_
      exact of_decide_eq_true h
    exact ⟨prt.setF .netPcfg 7 61 61 1, 7, frm [1, 2] 9216, k _ _ _ (by decide +kernel)⟩
  · have k : ∀ (s : State) (p : Fin 8) (f : RxFrame), ((decide (portUp s p.val = true)) && ((decide (f.fec = true)) && ((decide (f.fcs = true)) && ((decide (64 ≤ f.wire)) && ((decide (f.wire ≤ 9216)) && ((decide (isMacControl f.bytes = false)) && (someB (macsecReceive s p.val f) fun s1 => eqB (steer s1 p.val f.bytes % 64) fun q => decide (32768 < ingressBytes s1 q + f.bytes.length)))))))) = true → portUp s p.val = true ∧ f.fec = true ∧ f.fcs = true ∧ 64 ≤ f.wire ∧ f.wire ≤ 9216 ∧ isMacControl f.bytes = false ∧ ∃ s1, macsecReceive s p.val f = some s1 ∧ ∃ q, q = steer s1 p.val f.bytes % 64 ∧ 32768 < ingressBytes s1 q + f.bytes.length := by
      intro s p f h
      refine and_of h (fun h => of_decide_eq_true h) fun h => ?_
      refine and_of h (fun h => of_decide_eq_true h) fun h => ?_
      refine and_of h (fun h => of_decide_eq_true h) fun h => ?_
      refine and_of h (fun h => of_decide_eq_true h) fun h => ?_
      refine and_of h (fun h => of_decide_eq_true h) fun h => ?_
      refine and_of h (fun h => of_decide_eq_true h) fun h => ?_
      refine some_of h fun s1 h => ?_
      refine eq_of h fun q h => ?_
      exact of_decide_eq_true h
    exact ⟨{ prt with ingress := [(0, (List.replicate 8 ⟨List.replicate 4096 0, 0⟩))] }, 7, frm [1] 64, k _ _ _ (by decide +kernel)⟩
  · have k : ∀ (s : State) (p : Fin 8) (f : RxFrame), ((decide (portUp s p.val = true)) && (decide (f.fec = false))) = true → portUp s p.val = true ∧ f.fec = false := by
      intro s p f h
      refine and_of h (fun h => of_decide_eq_true h) fun h => ?_
      exact of_decide_eq_true h
    exact ⟨prt, 7, { frm [] 64 with fec := false }, k _ _ _ (by decide +kernel)⟩
  · have k : ∀ (s : State) (p : Fin 8) (f : RxFrame), ((decide (portUp s p.val = true)) && ((decide (f.fec = true)) && (decide (f.fcs = false)))) = true → portUp s p.val = true ∧ f.fec = true ∧ f.fcs = false := by
      intro s p f h
      refine and_of h (fun h => of_decide_eq_true h) fun h => ?_
      refine and_of h (fun h => of_decide_eq_true h) fun h => ?_
      exact of_decide_eq_true h
    exact ⟨prt, 7, { frm [] 64 with fcs := false }, k _ _ _ (by decide +kernel)⟩
  · have k : ∀ (s : State) (p : Fin 8) (f : RxFrame), ((decide (portUp s p.val = true)) && ((decide (f.fec = true)) && ((decide (f.fcs = true)) && ((decide (64 ≤ f.wire)) && ((decide (f.wire ≤ 9216)) && ((decide (isMacControl f.bytes = false)) && (decide (macsecReceive s p.val f = none)))))))) = true → portUp s p.val = true ∧ f.fec = true ∧ f.fcs = true ∧ 64 ≤ f.wire ∧ f.wire ≤ 9216 ∧ isMacControl f.bytes = false ∧ macsecReceive s p.val f = none := by
      intro s p f h
      refine and_of h (fun h => of_decide_eq_true h) fun h => ?_
      refine and_of h (fun h => of_decide_eq_true h) fun h => ?_
      refine and_of h (fun h => of_decide_eq_true h) fun h => ?_
      refine and_of h (fun h => of_decide_eq_true h) fun h => ?_
      refine and_of h (fun h => of_decide_eq_true h) fun h => ?_
      refine and_of h (fun h => of_decide_eq_true h) fun h => ?_
      exact of_decide_eq_true h
    exact ⟨(prt.setF .netPcfg 7 62 62 1), 7, frm [1] 64, k _ _ _ (by decide +kernel)⟩
  · have k : ∀ (s : State) (p : Fin 8), ((decide (portUp s p.val = true)) && (someB (nextQueue s p.val) fun q => consB (egressFrames s q) fun bs rest => eqB ({ s with egress := Tbl.putD s.egress [] q rest, net := { s.net with last := Tbl.put s.net.last p.val q } }) fun s1 => (decide (isProtected s1 q p.val = false)) && (decide (s1.flag .netEqcfg q 63 = false)))) = true → portUp s p.val = true ∧ ∃ q, nextQueue s p.val = some q ∧ ∃ bs rest, egressFrames s q = bs :: rest ∧ ∃ s1, s1 = { s with egress := Tbl.putD s.egress [] q rest, net := { s.net with last := Tbl.put s.net.last p.val q } } ∧ isProtected s1 q p.val = false ∧ s1.flag .netEqcfg q 63 = false := by
      intro s p h
      refine and_of h (fun h => of_decide_eq_true h) fun h => ?_
      refine some_of h fun q h => ?_
      refine cons_of h fun bs rest h => ?_
      refine eq_of h fun s1 h => ?_
      refine and_of h (fun h => of_decide_eq_true h) fun h => ?_
      exact of_decide_eq_true h
    exact ⟨egr prt, 7, k _ _ (by decide +kernel)⟩
  · have k : ∀ (s : State) (p : Fin 8), ((decide (portUp s p.val = true)) && (someB (nextQueue s p.val) fun q => consB (egressFrames s q) fun bs rest => eqB ({ s with egress := Tbl.putD s.egress [] q rest, net := { s.net with last := Tbl.put s.net.last p.val q } }) fun s1 => (decide (isProtected s1 q p.val = true)) && (someP (txSa s1 p.val) fun an a => (decide (a.pn + 1 < 2 ^ 64 - 2 ^ 32)) && (eqB ({ s1 with net := { s1.net with sas := Tbl.put s1.net.sas (saKey 1 p.val 0 an) { a with pn := a.pn + 1 } } }) fun s2 => true)))) = true → portUp s p.val = true ∧ ∃ q, nextQueue s p.val = some q ∧ ∃ bs rest, egressFrames s q = bs :: rest ∧ ∃ s1, s1 = { s with egress := Tbl.putD s.egress [] q rest, net := { s.net with last := Tbl.put s.net.last p.val q } } ∧ isProtected s1 q p.val = true ∧ ∃ an a, txSa s1 p.val = some (an, a) ∧ a.pn + 1 < 2 ^ 64 - 2 ^ 32 ∧ ∃ s2, s2 = { s1 with net := { s1.net with sas := Tbl.put s1.net.sas (saKey 1 p.val 0 an) { a with pn := a.pn + 1 } } } := by
      intro s p h
      refine and_of h (fun h => of_decide_eq_true h) fun h => ?_
      refine some_of h fun q h => ?_
      refine cons_of h fun bs rest h => ?_
      refine eq_of h fun s1 h => ?_
      refine and_of h (fun h => of_decide_eq_true h) fun h => ?_
      refine someP_of h fun an a h => ?_
      refine and_of h (fun h => of_decide_eq_true h) fun h => ?_
      obtain ⟨s2, h, -⟩ := eq_of (P := fun _ => True) h fun _ _ => trivial
      exact ⟨s2, h⟩
    exact ⟨{ (egr (prt.setF .netPcfg 7 62 62 1)).setF .netEqcfg 63 62 62 1 with net := { prt.net with sas := [(saKey 1 7 0 3, ⟨[], 5⟩)] } }, 7, k _ _ (by decide +kernel)⟩

/-- The hypotheses of part 2 of Obligations.FieldPortsComplete are met. -/
theorem witness_FieldControlsComplete :
    (∃ (s : State) (p : Fin 8), s.net.up.contains p.val = true ∧ portConfigured (portMode s p.val) p.val = true)
    ∧ (∃ (s : State) (p : Fin 8), s.net.up.contains p.val = false ∧ portConfigured (portMode s p.val) p.val = true ∧ portEnabled s p.val = true ∧ s.board.outside.contains 1 = false ∧ 4 ≤ bootState s ∧ bootState s ≠ 8)
    ∧ (∃ (s : State) (w : SetupWrite), acts w 63 = true ∧ removes s w = false ∧ mayReach s w.agent .netSactl 0 = true ∧ ∃ s1, s1 = storeSetup s .netSactl 0 w ∧ ∃ d, s1.fld .netSactl 0 62 62 = d ∧ ∃ po, s1.fld .netSactl 0 61 59 = po ∧ ∃ sc, s1.fld .netSactl 0 58 55 = sc ∧ ∃ an, s1.fld .netSactl 0 54 53 = an ∧ s1.fld .netSactl 0 52 52 = 0)
    ∧ (∃ (s : State) (w : SetupWrite), acts w 63 = true ∧ removes s w = true ∧ mayReach s w.agent .netSactl 0 = true ∧ ∃ s1, s1 = storeSetup s .netSactl 0 w ∧ ∃ d, s1.fld .netSactl 0 62 62 = d ∧ ∃ po, s1.fld .netSactl 0 61 59 = po ∧ ∃ sc, s1.fld .netSactl 0 58 55 = sc ∧ ∃ an, s1.fld .netSactl 0 54 53 = an ∧ s1.fld .netSactl 0 52 52 = 1)
    ∧ (∃ (s : State) (p : Fin 8) (w : SetupWrite), acts w 63 = true ∧ mayReach s w.agent .netPcnt p.val = true)
    ∧ (∃ (s : State) (w : SetupWrite), acts w 63 = true ∧ mayReach s w.agent .netPhcadj 0 = true ∧ ∃ s1, s1 = storeSetup s .netPhcadj 0 w)
    ∧ (∃ (s : State) (w : SetupWrite), mayReach s w.agent .netCfg 0 = true ∧ modeOk (bitsOf (written s .netCfg 0 w) 3 0) = true ∧ modeOk (bitsOf (written s .netCfg 0 w) 7 4) = true ∧ ∃ s1, s1 = storeSetup s .netCfg 0 w ∧ s.net.up = [] ∧ (∀ p, p < 8 → s.unit (uPort p) ≠ stOnline))
    ∧ (∃ (s : State) (w : SetupWrite), mayReach s w.agent .netCfg 0 = true ∧ modeOk (bitsOf (written s .netCfg 0 w) 3 0) = false ∧ modeOk (bitsOf (written s .netCfg 0 w) 7 4) = false ∧ ∃ s1, s1 = storeSetup s .netCfg 0 w (fun old new => keepField false 7 4 old (keepField false 3 0 old new)) ∧ s.net.up = [] ∧ (∀ p, p < 8 → s.unit (uPort p) ≠ stOnline)) := by
  refine ⟨?_, ?_, ?_, ?_, ?_, ?_, ?_, ?_⟩
  · have k : ∀ (s : State) (p : Fin 8), ((decide (s.net.up.contains p.val = true)) && (decide (portConfigured (portMode s p.val) p.val = true))) = true → s.net.up.contains p.val = true ∧ portConfigured (portMode s p.val) p.val = true := by
      intro s p h
      refine and_of h (fun h => of_decide_eq_true h) fun h => ?_
      exact of_decide_eq_true h
    exact ⟨prt, 7, k _ _ (by decide +kernel)⟩
  · have k : ∀ (s : State) (p : Fin 8), ((decide (s.net.up.contains p.val = false)) && ((decide (portConfigured (portMode s p.val) p.val = true)) && ((decide (portEnabled s p.val = true)) && ((decide (s.board.outside.contains 1 = false)) && ((decide (4 ≤ bootState s)) && (decide (bootState s ≠ 8))))))) = true → s.net.up.contains p.val = false ∧ portConfigured (portMode s p.val) p.val = true ∧ portEnabled s p.val = true ∧ s.board.outside.contains 1 = false ∧ 4 ≤ bootState s ∧ bootState s ≠ 8 := by
      intro s p h
      refine and_of h (fun h => of_decide_eq_true h) fun h => ?_
      refine and_of h (fun h => of_decide_eq_true h) fun h => ?_
      refine and_of h (fun h => of_decide_eq_true h) fun h => ?_
      refine and_of h (fun h => of_decide_eq_true h) fun h => ?_
      refine and_of h (fun h => of_decide_eq_true h) fun h => ?_
      exact of_decide_eq_true h
    exact ⟨{ prt with net := { prt.net with up := [] } }, 7, k _ _ (by decide +kernel)⟩
  · have k : ∀ (s : State) (w : SetupWrite), ((decide (acts w 63 = true)) && ((decide (removes s w = false)) && ((decide (mayReach s w.agent .netSactl 0 = true)) && (eqB (storeSetup s .netSactl 0 w) fun s1 => eqB (s1.fld .netSactl 0 62 62) fun d => eqB (s1.fld .netSactl 0 61 59) fun po => eqB (s1.fld .netSactl 0 58 55) fun sc => eqB (s1.fld .netSactl 0 54 53) fun an => decide (s1.fld .netSactl 0 52 52 = 0))))) = true → acts w 63 = true ∧ removes s w = false ∧ mayReach s w.agent .netSactl 0 = true ∧ ∃ s1, s1 = storeSetup s .netSactl 0 w ∧ ∃ d, s1.fld .netSactl 0 62 62 = d ∧ ∃ po, s1.fld .netSactl 0 61 59 = po ∧ ∃ sc, s1.fld .netSactl 0 58 55 = sc ∧ ∃ an, s1.fld .netSactl 0 54 53 = an ∧ s1.fld .netSactl 0 52 52 = 0 := by
      intro s w h
      refine and_of h (fun h => of_decide_eq_true h) fun h => ?_
      refine and_of h (fun h => of_decide_eq_true h) fun h => ?_
      refine and_of h (fun h => of_decide_eq_true h) fun h => ?_
      refine eq_of h fun s1 h => ?_
      refine eq_of' h fun d h => ?_
      refine eq_of' h fun po h => ?_
      refine eq_of' h fun sc h => ?_
      refine eq_of' h fun an h => ?_
      exact of_decide_eq_true h
    exact ⟨prt, swc (2 ^ 63 + 2 ^ 62 + 7 * 2 ^ 59 + 3 * 2 ^ 53), k _ _ (by decide +kernel)⟩
  · have k : ∀ (s : State) (w : SetupWrite), ((decide (acts w 63 = true)) && ((decide (removes s w = true)) && ((decide (mayReach s w.agent .netSactl 0 = true)) && (eqB (storeSetup s .netSactl 0 w) fun s1 => eqB (s1.fld .netSactl 0 62 62) fun d => eqB (s1.fld .netSactl 0 61 59) fun po => eqB (s1.fld .netSactl 0 58 55) fun sc => eqB (s1.fld .netSactl 0 54 53) fun an => decide (s1.fld .netSactl 0 52 52 = 1))))) = true → acts w 63 = true ∧ removes s w = true ∧ mayReach s w.agent .netSactl 0 = true ∧ ∃ s1, s1 = storeSetup s .netSactl 0 w ∧ ∃ d, s1.fld .netSactl 0 62 62 = d ∧ ∃ po, s1.fld .netSactl 0 61 59 = po ∧ ∃ sc, s1.fld .netSactl 0 58 55 = sc ∧ ∃ an, s1.fld .netSactl 0 54 53 = an ∧ s1.fld .netSactl 0 52 52 = 1 := by
      intro s w h
      refine and_of h (fun h => of_decide_eq_true h) fun h => ?_
      refine and_of h (fun h => of_decide_eq_true h) fun h => ?_
      refine and_of h (fun h => of_decide_eq_true h) fun h => ?_
      refine eq_of h fun s1 h => ?_
      refine eq_of' h fun d h => ?_
      refine eq_of' h fun po h => ?_
      refine eq_of' h fun sc h => ?_
      refine eq_of' h fun an h => ?_
      exact of_decide_eq_true h
    exact ⟨prt, swc (2 ^ 63 + 2 ^ 52), k _ _ (by decide +kernel)⟩
  · have k : ∀ (s : State) (p : Fin 8) (w : SetupWrite), ((decide (acts w 63 = true)) && (decide (mayReach s w.agent .netPcnt p.val = true))) = true → acts w 63 = true ∧ mayReach s w.agent .netPcnt p.val = true := by
      intro s p w h
      refine and_of h (fun h => of_decide_eq_true h) fun h => ?_
      exact of_decide_eq_true h
    exact ⟨prt, 7, sw (2 ^ 63), k _ _ _ (by decide +kernel)⟩
  · have k : ∀ (s : State) (w : SetupWrite), ((decide (acts w 63 = true)) && ((decide (mayReach s w.agent .netPhcadj 0 = true)) && (eqB (storeSetup s .netPhcadj 0 w) fun s1 => true))) = true → acts w 63 = true ∧ mayReach s w.agent .netPhcadj 0 = true ∧ ∃ s1, s1 = storeSetup s .netPhcadj 0 w := by
      intro s w h
      refine and_of h (fun h => of_decide_eq_true h) fun h => ?_
      refine and_of h (fun h => of_decide_eq_true h) fun h => ?_
      obtain ⟨s1, h, -⟩ := eq_of (P := fun _ => True) h fun _ _ => trivial
      exact ⟨s1, h⟩
    exact ⟨prt, sw (2 ^ 63), k _ _ (by decide +kernel)⟩
  · have k : ∀ (s : State) (w : SetupWrite), ((decide (mayReach s w.agent .netCfg 0 = true)) && ((decide (modeOk (bitsOf (written s .netCfg 0 w) 3 0) = true)) && ((decide (modeOk (bitsOf (written s .netCfg 0 w) 7 4) = true)) && (eqB (storeSetup s .netCfg 0 w) fun s1 => (decide (s.net.up = [])) && (decide (∀ p : Nat, p < 8 → s.unit (uPort p) ≠ stOnline)))))) = true → mayReach s w.agent .netCfg 0 = true ∧ modeOk (bitsOf (written s .netCfg 0 w) 3 0) = true ∧ modeOk (bitsOf (written s .netCfg 0 w) 7 4) = true ∧ ∃ s1, s1 = storeSetup s .netCfg 0 w ∧ s.net.up = [] ∧ (∀ p, p < 8 → s.unit (uPort p) ≠ stOnline) := by
      intro s w h
      refine and_of h (fun h => of_decide_eq_true h) fun h => ?_
      refine and_of h (fun h => of_decide_eq_true h) fun h => ?_
      refine and_of h (fun h => of_decide_eq_true h) fun h => ?_
      refine eq_of h fun s1 h => ?_
      refine and_of h (fun h => of_decide_eq_true h) fun h => ?_
      exact of_decide_eq_true h
    exact ⟨(bt 7).setUnit (uPort 7) stOffline, sw 0xF3, k _ _ (by decide +kernel)⟩
  · have k : ∀ (s : State) (w : SetupWrite), ((decide (mayReach s w.agent .netCfg 0 = true)) && ((decide (modeOk (bitsOf (written s .netCfg 0 w) 3 0) = false)) && ((decide (modeOk (bitsOf (written s .netCfg 0 w) 7 4) = false)) && (eqB (storeSetup s .netCfg 0 w (fun old new => keepField false 7 4 old (keepField false 3 0 old new))) fun s1 => (decide (s.net.up = [])) && (decide (∀ p : Nat, p < 8 → s.unit (uPort p) ≠ stOnline)))))) = true → mayReach s w.agent .netCfg 0 = true ∧ modeOk (bitsOf (written s .netCfg 0 w) 3 0) = false ∧ modeOk (bitsOf (written s .netCfg 0 w) 7 4) = false ∧ ∃ s1, s1 = storeSetup s .netCfg 0 w (fun old new => keepField false 7 4 old (keepField false 3 0 old new)) ∧ s.net.up = [] ∧ (∀ p, p < 8 → s.unit (uPort p) ≠ stOnline) := by
      intro s w h
      refine and_of h (fun h => of_decide_eq_true h) fun h => ?_
      refine and_of h (fun h => of_decide_eq_true h) fun h => ?_
      refine and_of h (fun h => of_decide_eq_true h) fun h => ?_
      refine eq_of h fun s1 h => ?_
      refine and_of h (fun h => of_decide_eq_true h) fun h => ?_
      exact of_decide_eq_true h
    exact ⟨(bt 7).setUnit (uPort 7) stOffline, sw 0x4E, k _ _ (by decide +kernel)⟩

/-- The hypotheses of part 1 of Obligations.RangeTrafficCompletes are met. -/
theorem witness_RemoteRequestsComplete :
    (∃ (s : State), ∃ vec dst m p s2, RidgeFinds s 1 vec dst m p s2 ∧ ∃ id, id = s2.ridge.nextId % (2 ^ 32 - 1) + 1)
    ∧ (∃ (s : State), ∃ vec dst m p s2, RidgeFinds s 2 vec dst m p s2 ∧ ∃ id, id = s2.ridge.nextId % (2 ^ 32 - 1) + 1)
    ∧ (∃ (s : State), ∃ vec dst m p s2, RidgeFinds s 3 vec dst m p s2 ∧ ∃ id, id = s2.ridge.nextId % (2 ^ 32 - 1) + 1)
    ∧ (∃ (s : State), ∃ vec dst m p s2, RidgeFinds s 4 vec dst m p s2 ∧ ∃ id, id = s2.ridge.nextId % (2 ^ 32 - 1) + 1)
    ∧ (∃ (s : State), ∃ vec dst m p s2, RidgeFinds s 5 vec dst m p s2 ∧ ∃ id, id = s2.ridge.nextId % (2 ^ 32 - 1) + 1)
    ∧ (∃ (s : State), ∃ vec dst m p s2, RidgeFinds s 6 vec dst m p s2 ∧ ∃ id, id = s2.ridge.nextId % (2 ^ 32 - 1) + 1)
    ∧ (∃ (s : State), ∃ vec dst m p s2, RidgeFinds s 7 vec dst m p s2 ∧ ∃ id, id = s2.ridge.nextId % (2 ^ 32 - 1) + 1) := by
  refine ⟨?_, ?_, ?_, ?_, ?_, ?_, ?_⟩
  · have k : ∀ (s : State), (ridgeFindsB s 1 fun vec dst m p s2 => eqB (s2.ridge.nextId % (2 ^ 32 - 1) + 1) fun id => true) = true → ∃ vec dst m p s2, RidgeFinds s 1 vec dst m p s2 ∧ ∃ id, id = s2.ridge.nextId % (2 ^ 32 - 1) + 1 := by
      intro s h
      refine ridgeFinds_of h fun vec dst m p s2 h => ?_
      obtain ⟨id, h, -⟩ := eq_of (P := fun _ => True) h fun _ _ => trivial
      exact ⟨id, h⟩
    exact ⟨rem 1 [fixN 1, fixN 8], k _ (by decide +kernel)⟩
  · have k : ∀ (s : State), (ridgeFindsB s 2 fun vec dst m p s2 => eqB (s2.ridge.nextId % (2 ^ 32 - 1) + 1) fun id => true) = true → ∃ vec dst m p s2, RidgeFinds s 2 vec dst m p s2 ∧ ∃ id, id = s2.ridge.nextId % (2 ^ 32 - 1) + 1 := by
      intro s h
      refine ridgeFinds_of h fun vec dst m p s2 h => ?_
      obtain ⟨id, h, -⟩ := eq_of (P := fun _ => True) h fun _ _ => trivial
      exact ⟨id, h⟩
    exact ⟨rem 2 [fixN 1, fixN 8, nil], k _ (by decide +kernel)⟩
  · have k : ∀ (s : State), (ridgeFindsB s 3 fun vec dst m p s2 => eqB (s2.ridge.nextId % (2 ^ 32 - 1) + 1) fun id => true) = true → ∃ vec dst m p s2, RidgeFinds s 3 vec dst m p s2 ∧ ∃ id, id = s2.ridge.nextId % (2 ^ 32 - 1) + 1 := by
      intro s h
      refine ridgeFinds_of h fun vec dst m p s2 h => ?_
      obtain ⟨id, h, -⟩ := eq_of (P := fun _ => True) h fun _ _ => trivial
      exact ⟨id, h⟩
    exact ⟨rem 3 [fixN 1, fixN 8, nil, nil], k _ (by decide +kernel)⟩
  · have k : ∀ (s : State), (ridgeFindsB s 4 fun vec dst m p s2 => eqB (s2.ridge.nextId % (2 ^ 32 - 1) + 1) fun id => true) = true → ∃ vec dst m p s2, RidgeFinds s 4 vec dst m p s2 ∧ ∃ id, id = s2.ridge.nextId % (2 ^ 32 - 1) + 1 := by
      intro s h
      refine ridgeFinds_of h fun vec dst m p s2 h => ?_
      obtain ⟨id, h, -⟩ := eq_of (P := fun _ => True) h fun _ _ => trivial
      exact ⟨id, h⟩
    exact ⟨rem 4 [fixN 1, fixN 8, fixN 5], k _ (by decide +kernel)⟩
  · have k : ∀ (s : State), (ridgeFindsB s 5 fun vec dst m p s2 => eqB (s2.ridge.nextId % (2 ^ 32 - 1) + 1) fun id => true) = true → ∃ vec dst m p s2, RidgeFinds s 5 vec dst m p s2 ∧ ∃ id, id = s2.ridge.nextId % (2 ^ 32 - 1) + 1 := by
      intro s h
      refine ridgeFinds_of h fun vec dst m p s2 h => ?_
      obtain ⟨id, h, -⟩ := eq_of (P := fun _ => True) h fun _ _ => trivial
      exact ⟨id, h⟩
    exact ⟨rem 5 [fixN 1, fixN 16, fixN 0, bv, span 0 256], k _ (by decide +kernel)⟩
  · have k : ∀ (s : State), (ridgeFindsB s 6 fun vec dst m p s2 => eqB (s2.ridge.nextId % (2 ^ 32 - 1) + 1) fun id => true) = true → ∃ vec dst m p s2, RidgeFinds s 6 vec dst m p s2 ∧ ∃ id, id = s2.ridge.nextId % (2 ^ 32 - 1) + 1 := by
      intro s h
      refine ridgeFinds_of h fun vec dst m p s2 h => ?_
      obtain ⟨id, h, -⟩ := eq_of (P := fun _ => True) h fun _ _ => trivial
      exact ⟨id, h⟩
    exact ⟨rem 6 [fixN 1, fixN 16, fixN 0, bv, span 0 2], k _ (by decide +kernel)⟩
  · have k : ∀ (s : State), (ridgeFindsB s 7 fun vec dst m p s2 => eqB (s2.ridge.nextId % (2 ^ 32 - 1) + 1) fun id => true) = true → ∃ vec dst m p s2, RidgeFinds s 7 vec dst m p s2 ∧ ∃ id, id = s2.ridge.nextId % (2 ^ 32 - 1) + 1 := by
      intro s h
      refine ridgeFinds_of h fun vec dst m p s2 h => ?_
      obtain ⟨id, h, -⟩ := eq_of (P := fun _ => True) h fun _ _ => trivial
      exact ⟨id, h⟩
    exact ⟨rem 7 [fixN 1, fixN 16, nil, bv, span 0 2], k _ (by decide +kernel)⟩

/-- The hypotheses of part 2 of Obligations.RangeTrafficCompletes are met. -/
theorem witness_RidgeTrafficCompletes :
    (∃ (s : State) (p : Fin 4) (f : RidgeRx), ∃ k, s.rport p.val = k ∧ ridgeUp s p.val = true ∧ f.fec = true ∧ f.gcm = true ∧ f.msg ≠ .linkOnly ∧ f.seq.toNat = k.rx ∧ f.nack = false)
    ∧ (∃ (s : State) (p : Fin 4) (f : RidgeRx), ∃ k, s.rport p.val = k ∧ ridgeUp s p.val = true ∧ f.fec = true ∧ f.gcm = true ∧ f.msg ≠ .linkOnly ∧ f.seq.toNat ≠ k.rx)
    ∧ (∃ (s : State) (p : Fin 4) (f : RidgeRx), ∃ k, s.rport p.val = k ∧ ridgeUp s p.val = true ∧ f.fec = false)
    ∧ (∃ (s : State) (p : Fin 4) (f : RidgeRx), ∃ k, s.rport p.val = k ∧ ridgeUp s p.val = true ∧ f.fec = true ∧ f.gcm = false ∧ k.badRow < 15 ∧ ∃ s1, s1 = s.setRport p.val { k with nack := true, badRow := k.badRow + 1 })
    ∧ (∃ (s : State) (p : Fin 4) (f : RidgeRx), ∃ k, s.rport p.val = k ∧ ridgeUp s p.val = true ∧ f.fec = true ∧ f.gcm = false ∧ k.badRow = 15 ∧ ∃ s1, s1 = s.setRport p.val { k with nack := true, badRow := 16 })
    ∧ (∃ (s : State) (p : Fin 4), ∃ k, s.rport p.val = k ∧ ridgeUp s p.val = true ∧ k.unacked ≠ [] ∧ ((∀ u ∈ k.unacked, u.resent < 63)))
    ∧ (∃ (s : State), ∃ ingress f rest, s.ridge.forward = (ingress, f) :: rest ∧ ∃ p, routeTo s f.dst ingress = some p ∧ portRoom s p = true)
    ∧ (∃ (s : State) (p : Fin 4), ∃ f rest, Tbl.getD s.ridge.inbox [] p.val = f :: rest ∧ Tbl.get? s.ridge.posting p.val = none ∧ replyRoom s f = true ∧ s.base.held = [] ∧ hasSlot s (.ridge p) = true ∧ ∃ v bs s1, serve s f.poison f.msg = .done v bs s1)
    ∧ (∃ (s : State) (p : Fin 4), ∃ f rest, Tbl.getD s.ridge.inbox [] p.val = f :: rest ∧ Tbl.get? s.ridge.posting p.val = none ∧ replyRoom s f = true ∧ s.base.held = [] ∧ hasSlot s (.ridge p) = true ∧ ∃ e s1, serve s f.poison f.msg = .failed e s1) := by
  refine ⟨?_, ?_, ?_, ?_, ?_, ?_, ?_, ?_, ?_⟩
  · have k : ∀ (s : State) (p : Fin 4) (f : RidgeRx), (eqB (s.rport p.val) fun k => (decide (ridgeUp s p.val = true)) && ((decide (f.fec = true)) && ((decide (f.gcm = true)) && ((decide (f.msg ≠ .linkOnly)) && ((decide (f.seq.toNat = k.rx)) && (decide (f.nack = false))))))) = true → ∃ k, s.rport p.val = k ∧ ridgeUp s p.val = true ∧ f.fec = true ∧ f.gcm = true ∧ f.msg ≠ .linkOnly ∧ f.seq.toNat = k.rx ∧ f.nack = false := by
      intro s p f h
      refine eq_of' h fun k h => ?_
      refine and_of h (fun h => of_decide_eq_true h) fun h => ?_
      refine and_of h (fun h => of_decide_eq_true h) fun h => ?_
      refine and_of h (fun h => of_decide_eq_true h) fun h => ?_
      refine and_of h (fun h => of_decide_eq_true h) fun h => ?_
      refine and_of h (fun h => of_decide_eq_true h) fun h => ?_
      exact of_decide_eq_true h
    exact ⟨rdg.setRport 0 { RidgePort.empty with rx := 65535 }, 0, rx 65535 true true, k _ _ _ (by decide +kernel)⟩
  · have k : ∀ (s : State) (p : Fin 4) (f : RidgeRx), (eqB (s.rport p.val) fun k => (decide (ridgeUp s p.val = true)) && ((decide (f.fec = true)) && ((decide (f.gcm = true)) && ((decide (f.msg ≠ .linkOnly)) && (decide (f.seq.toNat ≠ k.rx)))))) = true → ∃ k, s.rport p.val = k ∧ ridgeUp s p.val = true ∧ f.fec = true ∧ f.gcm = true ∧ f.msg ≠ .linkOnly ∧ f.seq.toNat ≠ k.rx := by
      intro s p f h
      refine eq_of' h fun k h => ?_
      refine and_of h (fun h => of_decide_eq_true h) fun h => ?_
      refine and_of h (fun h => of_decide_eq_true h) fun h => ?_
      refine and_of h (fun h => of_decide_eq_true h) fun h => ?_
      refine and_of h (fun h => of_decide_eq_true h) fun h => ?_
      exact of_decide_eq_true h
    exact ⟨rdg.setRport 0 { RidgePort.empty with rx := 65535 }, 0, rx 0 true true, k _ _ _ (by decide +kernel)⟩
  · have k : ∀ (s : State) (p : Fin 4) (f : RidgeRx), (eqB (s.rport p.val) fun k => (decide (ridgeUp s p.val = true)) && (decide (f.fec = false))) = true → ∃ k, s.rport p.val = k ∧ ridgeUp s p.val = true ∧ f.fec = false := by
      intro s p f h
      refine eq_of' h fun k h => ?_
      refine and_of h (fun h => of_decide_eq_true h) fun h => ?_
      exact of_decide_eq_true h
    exact ⟨rdg, 0, rx 0 false true, k _ _ _ (by decide +kernel)⟩
  · have k : ∀ (s : State) (p : Fin 4) (f : RidgeRx), (eqB (s.rport p.val) fun k => (decide (ridgeUp s p.val = true)) && ((decide (f.fec = true)) && ((decide (f.gcm = false)) && ((decide (k.badRow < 15)) && (eqB (s.setRport p.val { k with nack := true, badRow := k.badRow + 1 }) fun s1 => true))))) = true → ∃ k, s.rport p.val = k ∧ ridgeUp s p.val = true ∧ f.fec = true ∧ f.gcm = false ∧ k.badRow < 15 ∧ ∃ s1, s1 = s.setRport p.val { k with nack := true, badRow := k.badRow + 1 } := by
      intro s p f h
      refine eq_of' h fun k h => ?_
      refine and_of h (fun h => of_decide_eq_true h) fun h => ?_
      refine and_of h (fun h => of_decide_eq_true h) fun h => ?_
      refine and_of h (fun h => of_decide_eq_true h) fun h => ?_
      refine and_of h (fun h => of_decide_eq_true h) fun h => ?_
      obtain ⟨s1, h, -⟩ := eq_of (P := fun _ => True) h fun _ _ => trivial
      exact ⟨s1, h⟩
    exact ⟨rdg.setRport 0 { RidgePort.empty with badRow := 14 }, 0, rx 0 true false, k _ _ _ (by decide +kernel)⟩
  · have k : ∀ (s : State) (p : Fin 4) (f : RidgeRx), (eqB (s.rport p.val) fun k => (decide (ridgeUp s p.val = true)) && ((decide (f.fec = true)) && ((decide (f.gcm = false)) && ((decide (k.badRow = 15)) && (eqB (s.setRport p.val { k with nack := true, badRow := 16 }) fun s1 => true))))) = true → ∃ k, s.rport p.val = k ∧ ridgeUp s p.val = true ∧ f.fec = true ∧ f.gcm = false ∧ k.badRow = 15 ∧ ∃ s1, s1 = s.setRport p.val { k with nack := true, badRow := 16 } := by
      intro s p f h
      refine eq_of' h fun k h => ?_
      refine and_of h (fun h => of_decide_eq_true h) fun h => ?_
      refine and_of h (fun h => of_decide_eq_true h) fun h => ?_
      refine and_of h (fun h => of_decide_eq_true h) fun h => ?_
      refine and_of h (fun h => of_decide_eq_true h) fun h => ?_
      obtain ⟨s1, h, -⟩ := eq_of (P := fun _ => True) h fun _ _ => trivial
      exact ⟨s1, h⟩
    exact ⟨rdg.setRport 0 { RidgePort.empty with badRow := 15 }, 0, rx 0 true false, k _ _ _ (by decide +kernel)⟩
  · have k : ∀ (s : State) (p : Fin 4), (eqB (s.rport p.val) fun k => (decide (ridgeUp s p.val = true)) && ((decide (k.unacked ≠ [])) && (decide ((∀ u ∈ k.unacked, u.resent < 63))))) = true → ∃ k, s.rport p.val = k ∧ ridgeUp s p.val = true ∧ k.unacked ≠ [] ∧ ((∀ u ∈ k.unacked, u.resent < 63)) := by
      intro s p h
      refine eq_of' h fun k h => ?_
      refine and_of h (fun h => of_decide_eq_true h) fun h => ?_
      refine and_of h (fun h => of_decide_eq_true h) fun h => ?_
      exact of_decide_eq_true h
    exact ⟨rdg.setRport 0 { RidgePort.empty with unacked := [⟨0, ⟨1, 0, 7, .linkOnly, false⟩, 62⟩] }, 0, k _ _ (by decide +kernel)⟩
  · have k : ∀ (s : State), (consP (s.ridge.forward) fun ingress f rest => someB (routeTo s f.dst ingress) fun p => decide (portRoom s p = true)) = true → ∃ ingress f rest, s.ridge.forward = (ingress, f) :: rest ∧ ∃ p, routeTo s f.dst ingress = some p ∧ portRoom s p = true := by
      intro s h
      refine consP_of h fun ingress f rest h => ?_
      refine some_of h fun p h => ?_
      exact of_decide_eq_true h
    exact ⟨{ rdg with ridge := { rdg.ridge with forward := [(1, ⟨1, 0, 7, .linkOnly, false⟩)] } }, k _ (by decide +kernel)⟩
  · have k : ∀ (s : State) (p : Fin 4), (consB (Tbl.getD s.ridge.inbox [] p.val) fun f rest => (decide (Tbl.get? s.ridge.posting p.val = none)) && ((decide (replyRoom s f = true)) && ((decide (s.base.held = [])) && ((decide (hasSlot s (.ridge p) = true)) && (servedB (serve s f.poison f.msg) fun v bs s1 => true))))) = true → ∃ f rest, Tbl.getD s.ridge.inbox [] p.val = f :: rest ∧ Tbl.get? s.ridge.posting p.val = none ∧ replyRoom s f = true ∧ s.base.held = [] ∧ hasSlot s (.ridge p) = true ∧ ∃ v bs s1, serve s f.poison f.msg = .done v bs s1 := by
      intro s p h
      refine cons_of h fun f rest h => ?_
      refine and_of h (fun h => of_decide_eq_true h) fun h => ?_
      refine and_of h (fun h => of_decide_eq_true h) fun h => ?_
      refine and_of h (fun h => of_decide_eq_true h) fun h => ?_
      refine and_of h (fun h => of_decide_eq_true h) fun h => ?_
      obtain ⟨v, bs, s1, h, -⟩ := served_of (P := fun _ _ _ => True) h fun _ _ _ _ => trivial
      exact ⟨v, bs, s1, h⟩
    exact ⟨(prq (.request 1 (fixN 8) 0 0 [] 0)).setR .rdgCfg 0 0, 3, k _ _ (by decide +kernel)⟩
  · have k : ∀ (s : State) (p : Fin 4), (consB (Tbl.getD s.ridge.inbox [] p.val) fun f rest => (decide (Tbl.get? s.ridge.posting p.val = none)) && ((decide (replyRoom s f = true)) && ((decide (s.base.held = [])) && ((decide (hasSlot s (.ridge p) = true)) && (failedB (serve s f.poison f.msg) fun e s1 => true))))) = true → ∃ f rest, Tbl.getD s.ridge.inbox [] p.val = f :: rest ∧ Tbl.get? s.ridge.posting p.val = none ∧ replyRoom s f = true ∧ s.base.held = [] ∧ hasSlot s (.ridge p) = true ∧ ∃ e s1, serve s f.poison f.msg = .failed e s1 := by
      intro s p h
      refine cons_of h fun f rest h => ?_
      refine and_of h (fun h => of_decide_eq_true h) fun h => ?_
      refine and_of h (fun h => of_decide_eq_true h) fun h => ?_
      refine and_of h (fun h => of_decide_eq_true h) fun h => ?_
      refine and_of h (fun h => of_decide_eq_true h) fun h => ?_
      obtain ⟨e, s1, h, -⟩ := failed_of (P := fun _ _ => True) h fun _ _ _ => trivial
      exact ⟨e, s1, h⟩
    exact ⟨prq (.request 1 (fixN 9) 0 0 [] 0), 3, k _ _ (by decide +kernel)⟩

/-- The hypotheses of part 3 of Obligations.RangeTrafficCompletes are met. -/
theorem witness_RangeOperationsOfPortsComplete :
    (∃ (s : State) (p : Fin 4), s.unit (uRidge p.val) = stOffline ∧ ridgeUp s p.val = false ∧ cragUp s = true ∧ s.flag .crgStat 0 63 = false)
    ∧ (∃ (s : State) (p : Fin 4), s.unit (uRidge p.val) = stOffline ∧ rdgState s p.val = 1 ∧ cragUp s = true)
    ∧ (∃ (s : State) (p : Fin 4), ∃ k, s.rport p.val = k ∧ ridgeUp s p.val = true)
    ∧ (∃ (s : State) (p : Fin 4) (lane : Fin 2), rdgState s p.val = 2 ∧ ∃ s1, s1 = (s.setRport p.val { s.rport p.val with lane := some lane.val }).setF .rdgStat p.val 63 60 0xD)
    ∧ (∃ (s : State) (p : Fin 4), rdgState s p.val = 3 ∧ ∃ s1, s1 = (s.setRport p.val { s.rport p.val with lane := none }).setF .rdgStat p.val 63 60 0xA)
    ∧ (∃ (s : State) (kind : Byte) (bytes : List Byte), rangeSelf s ≠ 0 ∧ ∃ s1, s1 = sendRange s kind bytes (treeParent (rangeX s) (rangeY s) (rangeSelf s)))
    ∧ (∃ (s : State) (kind : Byte) (bytes : List Byte), ∃ s1, s1 = (treeChildren s).foldl (fun x r => sendRange x kind bytes r) s)
    ∧ (∃ (s : State) (k : Fin 8), 1 < rangeSize s ∧ s.ridge.own = [] ∧ s.crestOp = some (.range k.val) ∧ ∃ c s1, advanceInto s k.val = (c, s1))
    ∧ (∃ (s : State) (k : Fin 8) (o : Byte), 1 < rangeSize s ∧ s.ridge.own = [] ∧ s.crestOp = some (.range k.val) ∧ o ≠ 0)
    ∧ (∃ (s : State) (w : SetupWrite), acts w 63 = true ∧ acts w 62 = false ∧ mayReach s w.agent .rdgRange 0 = true)
    ∧ (∃ (s : State) (w : SetupWrite), acts w 62 = true ∧ acts w 63 = false ∧ mayReach s w.agent .rdgRange 0 = true) := by
  refine ⟨?_, ?_, ?_, ?_, ?_, ?_, ?_, ?_, ?_, ?_, ?_⟩
  · have k : ∀ (s : State) (p : Fin 4), ((decide (s.unit (uRidge p.val) = stOffline)) && ((decide (ridgeUp s p.val = false)) && ((decide (cragUp s = true)) && (decide (s.flag .crgStat 0 63 = false))))) = true → s.unit (uRidge p.val) = stOffline ∧ ridgeUp s p.val = false ∧ cragUp s = true ∧ s.flag .crgStat 0 63 = false := by
      intro s p h
      refine and_of h (fun h => of_decide_eq_true h) fun h => ?_
      refine and_of h (fun h => of_decide_eq_true h) fun h => ?_
      refine and_of h (fun h => of_decide_eq_true h) fun h => ?_
      exact of_decide_eq_true h
    exact ⟨(bt 7).setUnit (uRidge 3) stOffline, 3, k _ _ (by decide +kernel)⟩
  · have k : ∀ (s : State) (p : Fin 4), ((decide (s.unit (uRidge p.val) = stOffline)) && ((decide (rdgState s p.val = 1)) && (decide (cragUp s = true)))) = true → s.unit (uRidge p.val) = stOffline ∧ rdgState s p.val = 1 ∧ cragUp s = true := by
      intro s p h
      refine and_of h (fun h => of_decide_eq_true h) fun h => ?_
      refine and_of h (fun h => of_decide_eq_true h) fun h => ?_
      exact of_decide_eq_true h
    exact ⟨((bt 7).setUnit (uRidge 3) stOffline).setF .rdgStat 3 63 62 1, 3, k _ _ (by decide +kernel)⟩
  · have k : ∀ (s : State) (p : Fin 4), (eqB (s.rport p.val) fun k => decide (ridgeUp s p.val = true)) = true → ∃ k, s.rport p.val = k ∧ ridgeUp s p.val = true := by
      intro s p h
      refine eq_of' h fun k h => ?_
      exact of_decide_eq_true h
    exact ⟨rdg, 0, k _ _ (by decide +kernel)⟩
  · have k : ∀ (s : State) (p : Fin 4) (lane : Fin 2), ((decide (rdgState s p.val = 2)) && (eqB ((s.setRport p.val { s.rport p.val with lane := some lane.val }).setF .rdgStat p.val 63 60 0xD) fun s1 => true)) = true → rdgState s p.val = 2 ∧ ∃ s1, s1 = (s.setRport p.val { s.rport p.val with lane := some lane.val }).setF .rdgStat p.val 63 60 0xD := by
      intro s p lane h
      refine and_of h (fun h => of_decide_eq_true h) fun h => ?_
      obtain ⟨s1, h, -⟩ := eq_of (P := fun _ => True) h fun _ _ => trivial
      exact ⟨s1, h⟩
    exact ⟨rdg, 0, 1, k _ _ _ (by decide +kernel)⟩
  · have k : ∀ (s : State) (p : Fin 4), ((decide (rdgState s p.val = 3)) && (eqB ((s.setRport p.val { s.rport p.val with lane := none }).setF .rdgStat p.val 63 60 0xA) fun s1 => true)) = true → rdgState s p.val = 3 ∧ ∃ s1, s1 = (s.setRport p.val { s.rport p.val with lane := none }).setF .rdgStat p.val 63 60 0xA := by
      intro s p h
      refine and_of h (fun h => of_decide_eq_true h) fun h => ?_
      obtain ⟨s1, h, -⟩ := eq_of (P := fun _ => True) h fun _ _ => trivial
      exact ⟨s1, h⟩
    exact ⟨rdg.setF .rdgStat 0 63 62 3, 0, k _ _ (by decide +kernel)⟩
  · have k : ∀ (s : State) (kind : Byte) (bytes : List Byte), ((decide (rangeSelf s ≠ 0)) && (eqB (sendRange s kind bytes (treeParent (rangeX s) (rangeY s) (rangeSelf s))) fun s1 => true)) = true → rangeSelf s ≠ 0 ∧ ∃ s1, s1 = sendRange s kind bytes (treeParent (rangeX s) (rangeY s) (rangeSelf s)) := by
      intro s kind bytes h
      refine and_of h (fun h => of_decide_eq_true h) fun h => ?_
      obtain ⟨s1, h, -⟩ := eq_of (P := fun _ => True) h fun _ _ => trivial
      exact ⟨s1, h⟩
    exact ⟨rdg.setF .rdgRange 0 21 16 1, 7, [1], k _ _ _ (by decide +kernel)⟩
  · have k : ∀ (s : State) (kind : Byte) (bytes : List Byte), (eqB ((treeChildren s).foldl (fun x r => sendRange x kind bytes r) s) fun s1 => true) = true → ∃ s1, s1 = (treeChildren s).foldl (fun x r => sendRange x kind bytes r) s := by
      intro s kind bytes h
      obtain ⟨s1, h, -⟩ := eq_of (P := fun _ => True) h fun _ _ => trivial
      exact ⟨s1, h⟩
    exact ⟨rdg, 7, [1], k _ _ _ (by decide +kernel)⟩
  · have k : ∀ (s : State) (k : Fin 8), ((decide (1 < rangeSize s)) && ((decide (s.ridge.own = [])) && ((decide (s.crestOp = some (.range k.val))) && (pairB (advanceInto s k.val) fun c s1 => true)))) = true → 1 < rangeSize s ∧ s.ridge.own = [] ∧ s.crestOp = some (.range k.val) ∧ ∃ c s1, advanceInto s k.val = (c, s1) := by
      intro s k h
      refine and_of h (fun h => of_decide_eq_true h) fun h => ?_
      refine and_of h (fun h => of_decide_eq_true h) fun h => ?_
      refine and_of h (fun h => of_decide_eq_true h) fun h => ?_
      obtain ⟨c, s1, h, -⟩ := pair_of (P := fun _ _ => True) h fun _ _ _ => trivial
      exact ⟨c, s1, h⟩
    exact ⟨{ rdg with crestOp := some (.range 7) }, 7, k _ _ (by decide +kernel)⟩
  · have k : ∀ (s : State) (k : Fin 8) (o : Byte), ((decide (1 < rangeSize s)) && ((decide (s.ridge.own = [])) && ((decide (s.crestOp = some (.range k.val))) && (decide (o ≠ 0))))) = true → 1 < rangeSize s ∧ s.ridge.own = [] ∧ s.crestOp = some (.range k.val) ∧ o ≠ 0 := by
      intro s k o h
      refine and_of h (fun h => of_decide_eq_true h) fun h => ?_
      refine and_of h (fun h => of_decide_eq_true h) fun h => ?_
      refine and_of h (fun h => of_decide_eq_true h) fun h => ?_
      exact of_decide_eq_true h
    exact ⟨{ rdg with crestOp := some (.range 7) }, 7, 255, k _ _ _ (by decide +kernel)⟩
  · have k : ∀ (s : State) (w : SetupWrite), ((decide (acts w 63 = true)) && ((decide (acts w 62 = false)) && (decide (mayReach s w.agent .rdgRange 0 = true)))) = true → acts w 63 = true ∧ acts w 62 = false ∧ mayReach s w.agent .rdgRange 0 = true := by
      intro s w h
      refine and_of h (fun h => of_decide_eq_true h) fun h => ?_
      refine and_of h (fun h => of_decide_eq_true h) fun h => ?_
      exact of_decide_eq_true h
    exact ⟨rdg, sw (2 ^ 63), k _ _ (by decide +kernel)⟩
  · have k : ∀ (s : State) (w : SetupWrite), ((decide (acts w 62 = true)) && ((decide (acts w 63 = false)) && (decide (mayReach s w.agent .rdgRange 0 = true)))) = true → acts w 62 = true ∧ acts w 63 = false ∧ mayReach s w.agent .rdgRange 0 = true := by
      intro s w h
      refine and_of h (fun h => of_decide_eq_true h) fun h => ?_
      refine and_of h (fun h => of_decide_eq_true h) fun h => ?_
      exact of_decide_eq_true h
    exact ⟨rdg, sw (2 ^ 62), k _ _ (by decide +kernel)⟩

/-- The hypotheses of part 1 of Obligations.StartsAdvance are met. -/
theorem witness_StagesComplete :
    (∃ (s : State), inStage s 0 = true)
    ∧ (∃ (s : State), inStage s 0 = true)
    ∧ (∃ (s : State), inStage s 1 = true ∧ ∃ i, i = s.fld .basBootsel 0 1 1 ∧ failCount s ≠ 3)
    ∧ (∃ (s : State), inStage s 1 = true ∧ ∃ i, i = s.fld .basBootsel 0 1 1 ∧ failCount s = 3)
    ∧ (∃ (s : State), inStage s 2 = true ∧ ∃ i, i = bootSlot s ∧ ∃ img, img = bootSlotImage s i ∧ ∃ s1, s1 = s.setF .basBoot 0 53 53 i)
    ∧ (∃ (s : State) (u : BitVec 4) (q : Nat), inStage s 3 = true ∧ ∃ img, img = startedImage s ∧ configInvalid img = false ∧ q < 4 ∧ configQuad img q = true ∧ populated (configChannel img q) ≠ 0 ∧ u.getLsbD q = false)
    ∧ (∃ (s : State), inStage s 3 = true ∧ ∃ img, img = startedImage s ∧ configInvalid img = true)
    ∧ (∃ (s : State), inStage s 4 = true ∧ ∃ img, img = startedImage s ∧ ∃ s1, s1 = (List.range 16).foldl (fun (x : State) t => if configQuad img (t / 4) = true ∧ x.unit (uTile t) ≠ stRetired then x.setUnit (uTile t) stOnline else x) s ∧ ((configQuad img 0 = true → s1.unit (uTile 0) ≠ stOffline)))
    ∧ (∃ (s : State), inStage s 5 = true ∧ ∃ img, img = startedImage s ∧ ∃ sections w1, sectionsOf img = (sections, w1) ∧ w1 = false ∧ ∃ places s1, placeSections sections (Config.loadPlace % 65536 * 16) s = some (places, s1) ∧ patchBytes img = 0)
    ∧ (∃ (s : State), inStage s 5 = true ∧ ∃ img, img = startedImage s ∧ ∃ sections w1, sectionsOf img = (sections, w1) ∧ w1 = true)
    ∧ (∃ (s : State), ((inStage s 1 = true ∨ inStage s 2 = true ∨ inStage s 3 = true ∨ inStage s 5 = true)))
    ∧ (∃ (s : State), ((inStage s 1 = true ∨ inStage s 2 = true ∨ inStage s 3 = true ∨ inStage s 5 = true)))
    ∧ (∃ (s : State), ((inStage s 1 = true ∨ inStage s 2 = true ∨ inStage s 3 = true ∨ inStage s 5 = true)))
    ∧ (∃ (s : State), ((inStage s 1 = true ∨ inStage s 2 = true ∨ inStage s 3 = true ∨ inStage s 5 = true)))
    ∧ (∃ (s : State), starting s = true)
    ∧ (∃ (s : State), starting s = true)
    ∧ (∃ (s : State), s.base.failed = true ∧ s.base.held = []) := by
  refine ⟨?_, ?_, ?_, ?_, ?_, ?_, ?_, ?_, ?_, ?_, ?_, ?_, ?_, ?_, ?_, ?_, ?_⟩
  · have k : ∀ (s : State), (decide (inStage s 0 = true)) = true → inStage s 0 = true := by
      intro s h
      exact of_decide_eq_true h
    exact ⟨bt 0, k _ (by decide +kernel)⟩
  · have k : ∀ (s : State), (decide (inStage s 0 = true)) = true → inStage s 0 = true := by
      intro s h
      exact of_decide_eq_true h
    exact ⟨bt 0, k _ (by decide +kernel)⟩
  · have k : ∀ (s : State), ((decide (inStage s 1 = true)) && (eqB (s.fld .basBootsel 0 1 1) fun i => decide (failCount s ≠ 3))) = true → inStage s 1 = true ∧ ∃ i, i = s.fld .basBootsel 0 1 1 ∧ failCount s ≠ 3 := by
      intro s h
      refine and_of h (fun h => of_decide_eq_true h) fun h => ?_
      refine eq_of h fun i h => ?_
      exact of_decide_eq_true h
    exact ⟨bt 1, k _ (by decide +kernel)⟩
  · have k : ∀ (s : State), ((decide (inStage s 1 = true)) && (eqB (s.fld .basBootsel 0 1 1) fun i => decide (failCount s = 3))) = true → inStage s 1 = true ∧ ∃ i, i = s.fld .basBootsel 0 1 1 ∧ failCount s = 3 := by
      intro s h
      refine and_of h (fun h => of_decide_eq_true h) fun h => ?_
      refine eq_of h fun i h => ?_
      exact of_decide_eq_true h
    exact ⟨(bt 1).setF .basBoot 0 55 54 3, k _ (by decide +kernel)⟩
  · have k : ∀ (s : State), ((decide (inStage s 2 = true)) && (eqB (bootSlot s) fun i => eqB (bootSlotImage s i) fun img => eqB (s.setF .basBoot 0 53 53 i) fun s1 => true)) = true → inStage s 2 = true ∧ ∃ i, i = bootSlot s ∧ ∃ img, img = bootSlotImage s i ∧ ∃ s1, s1 = s.setF .basBoot 0 53 53 i := by
      intro s h
      refine and_of h (fun h => of_decide_eq_true h) fun h => ?_
      refine eq_of h fun i h => ?_
      refine eq_of h fun img h => ?_
      obtain ⟨s1, h, -⟩ := eq_of (P := fun _ => True) h fun _ _ => trivial
      exact ⟨s1, h⟩
    exact ⟨bt 2, k _ (by decide +kernel)⟩
  · have k : ∀ (s : State) (u : BitVec 4) (q : Nat), ((decide (inStage s 3 = true)) && (eqB (startedImage s) fun img => (decide (configInvalid img = false)) && ((decide (q < 4)) && ((decide (configQuad img q = true)) && ((decide (populated (configChannel img q) ≠ 0)) && (decide (u.getLsbD q = false))))))) = true → inStage s 3 = true ∧ ∃ img, img = startedImage s ∧ configInvalid img = false ∧ q < 4 ∧ configQuad img q = true ∧ populated (configChannel img q) ≠ 0 ∧ u.getLsbD q = false := by
      intro s u q h
      refine and_of h (fun h => of_decide_eq_true h) fun h => ?_
      refine eq_of h fun img h => ?_
      refine and_of h (fun h => of_decide_eq_true h) fun h => ?_
      refine and_of h (fun h => of_decide_eq_true h) fun h => ?_
      refine and_of h (fun h => of_decide_eq_true h) fun h => ?_
      refine and_of h (fun h => of_decide_eq_true h) fun h => ?_
      exact of_decide_eq_true h
    exact ⟨img0 0 1 (bt 3), 0, 0, k _ _ _ (by decide +kernel)⟩
  · have k : ∀ (s : State), ((decide (inStage s 3 = true)) && (eqB (startedImage s) fun img => decide (configInvalid img = true))) = true → inStage s 3 = true ∧ ∃ img, img = startedImage s ∧ configInvalid img = true := by
      intro s h
      refine and_of h (fun h => of_decide_eq_true h) fun h => ?_
      refine eq_of h fun img h => ?_
      exact of_decide_eq_true h
    exact ⟨img0 0 0 (bt 3), k _ (by decide +kernel)⟩
  · have k : ∀ (s : State), ((decide (inStage s 4 = true)) && (eqB (startedImage s) fun img => eqB ((List.range 16).foldl (fun (x : State) t => if configQuad img (t / 4) = true ∧ x.unit (uTile t) ≠ stRetired then x.setUnit (uTile t) stOnline else x) s) fun s1 => decide ((configQuad img 0 = true → s1.unit (uTile 0) ≠ stOffline)))) = true → inStage s 4 = true ∧ ∃ img, img = startedImage s ∧ ∃ s1, s1 = (List.range 16).foldl (fun (x : State) t => if configQuad img (t / 4) = true ∧ x.unit (uTile t) ≠ stRetired then x.setUnit (uTile t) stOnline else x) s ∧ ((configQuad img 0 = true → s1.unit (uTile 0) ≠ stOffline)) := by
      intro s h
      refine and_of h (fun h => of_decide_eq_true h) fun h => ?_
      refine eq_of h fun img h => ?_
      refine eq_of h fun s1 h => ?_
      exact of_decide_eq_true h
    exact ⟨img0 0 1 (bt 4), k _ (by decide +kernel)⟩
  · have k : ∀ (s : State), ((decide (inStage s 5 = true)) && (eqB (startedImage s) fun img => pairB (sectionsOf img) fun sections w1 => (decide (w1 = false)) && (someP (placeSections sections (Config.loadPlace % 65536 * 16) s) fun places s1 => decide (patchBytes img = 0)))) = true → inStage s 5 = true ∧ ∃ img, img = startedImage s ∧ ∃ sections w1, sectionsOf img = (sections, w1) ∧ w1 = false ∧ ∃ places s1, placeSections sections (Config.loadPlace % 65536 * 16) s = some (places, s1) ∧ patchBytes img = 0 := by
      intro s h
      refine and_of h (fun h => of_decide_eq_true h) fun h => ?_
      refine eq_of h fun img h => ?_
      refine pair_of h fun sections w1 h => ?_
      refine and_of h (fun h => of_decide_eq_true h) fun h => ?_
      refine someP_of h fun places s1 h => ?_
      exact of_decide_eq_true h
    exact ⟨img0 0 1 (bt 5), k _ (by decide +kernel)⟩
  · have k : ∀ (s : State), ((decide (inStage s 5 = true)) && (eqB (startedImage s) fun img => pairB (sectionsOf img) fun sections w1 => decide (w1 = true))) = true → inStage s 5 = true ∧ ∃ img, img = startedImage s ∧ ∃ sections w1, sectionsOf img = (sections, w1) ∧ w1 = true := by
      intro s h
      refine and_of h (fun h => of_decide_eq_true h) fun h => ?_
      refine eq_of h fun img h => ?_
      refine pair_of h fun sections w1 h => ?_
      exact of_decide_eq_true h
    exact ⟨img0 16 1 (bt 5), k _ (by decide +kernel)⟩
  · have k : ∀ (s : State), (decide ((inStage s 1 = true ∨ inStage s 2 = true ∨ inStage s 3 = true ∨ inStage s 5 = true))) = true → ((inStage s 1 = true ∨ inStage s 2 = true ∨ inStage s 3 = true ∨ inStage s 5 = true)) := by
      intro s h
      exact of_decide_eq_true h
    exact ⟨bt 1, k _ (by decide +kernel)⟩
  · have k : ∀ (s : State), (decide ((inStage s 1 = true ∨ inStage s 2 = true ∨ inStage s 3 = true ∨ inStage s 5 = true))) = true → ((inStage s 1 = true ∨ inStage s 2 = true ∨ inStage s 3 = true ∨ inStage s 5 = true)) := by
      intro s h
      exact of_decide_eq_true h
    exact ⟨bt 2, k _ (by decide +kernel)⟩
  · have k : ∀ (s : State), (decide ((inStage s 1 = true ∨ inStage s 2 = true ∨ inStage s 3 = true ∨ inStage s 5 = true))) = true → ((inStage s 1 = true ∨ inStage s 2 = true ∨ inStage s 3 = true ∨ inStage s 5 = true)) := by
      intro s h
      exact of_decide_eq_true h
    exact ⟨bt 3, k _ (by decide +kernel)⟩
  · have k : ∀ (s : State), (decide ((inStage s 1 = true ∨ inStage s 2 = true ∨ inStage s 3 = true ∨ inStage s 5 = true))) = true → ((inStage s 1 = true ∨ inStage s 2 = true ∨ inStage s 3 = true ∨ inStage s 5 = true)) := by
      intro s h
      exact of_decide_eq_true h
    exact ⟨bt 5, k _ (by decide +kernel)⟩
  · have k : ∀ (s : State), (decide (starting s = true)) = true → starting s = true := by
      intro s h
      exact of_decide_eq_true h
    exact ⟨bt 0, k _ (by decide +kernel)⟩
  · have k : ∀ (s : State), (decide (starting s = true)) = true → starting s = true := by
      intro s h
      exact of_decide_eq_true h
    exact ⟨bt 6, k _ (by decide +kernel)⟩
  · have k : ∀ (s : State), ((decide (s.base.failed = true)) && (decide (s.base.held = []))) = true → s.base.failed = true ∧ s.base.held = [] := by
      intro s h
      refine and_of h (fun h => of_decide_eq_true h) fun h => ?_
      exact of_decide_eq_true h
    exact ⟨{ bt 1 with base := { (bt 1).base with failed := true } }, k _ (by decide +kernel)⟩

/-- The hypotheses of part 2 of Obligations.StartsAdvance are met. -/
theorem witness_DeclarationsComplete :
    (∃ (s : State), inStage s 1 = true ∧ failCount s = 3 ∧ s.online uCrag = true ∧ ∃ s1, s1 = { s.setR .sadReason 0 (saddleReason s.base.failures) with compact := true, massif := { s.massif with saddle := true }, sizes := Tbl.putD s.sizes 16384 (uTile 0) 1024 } ∧ ∃ s2, s2 = ((s1.setR .trkMode 0 1).setF .trkCtl 0 16 16 1).setR .netCfg 0 0xFF ∧ ∃ s3, s3 = [uTile 0, uTroika 0, uCore 0, uCore 1, uCore 2, uHre].foldl (fun x u => bringUp x u stOnline) s2 ∧ ∃ s4, s4 = (members 0).foldl recoverCore (s3.setF .trkStat 0 62 60 0) ∧ ∃ s5, s5 = ((s4.setF .cfgQclk 1 36 32 0).setF .cfgQclk 2 36 32 0).setF .cfgQclk 3 36 32 0)
    ∧ (∃ (s : State) (w : SetupWrite), acts w 63 = true ∧ mayReach s w.agent .cfgOper 0 = true ∧ ∃ s1, s1 = storeSetup s .cfgOper 0 w (fun old new => keepField (0x80 ≤ bitsOf new 7 0) 7 0 old new) ∧ inStage s1 6 = true ∧ ∃ s2, s2 = (clearFails s1).setF .basBootsel 0 0 0 (s1.fld .basBoot 0 53 53) ∧ ∃ s3, s3 = (publish { s2 with massif := { s2.massif with oper := true } } 0 0 6).setF .basBoot 0 63 60 7)
    ∧ (∃ (s : State) (w : SetupWrite), acts w 62 = true ∧ acts w 63 = false ∧ mayReach s w.agent .cfgOper 0 = true ∧ ∃ s1, s1 = storeSetup s .cfgOper 0 w (fun old new => keepField (0x80 ≤ bitsOf new 7 0) 7 0 old new) ∧ inStage s1 6 = true)
    ∧ (∃ (s : State) (w : SetupWrite), keyed w = true ∧ mayReach s w.agent .cfgStart 0 = true)
    ∧ (∃ (s : State) (w : SetupWrite), keyed w = true ∧ mayReach s w.agent .sadCtl 0 = true ∧ inSaddle s = true) := by
  refine ⟨?_, ?_, ?_, ?_, ?_⟩
  · have k : ∀ (s : State), ((decide (inStage s 1 = true)) && ((decide (failCount s = 3)) && ((decide (s.online uCrag = true)) && (eqB ({ s.setR .sadReason 0 (saddleReason s.base.failures) with compact := true, massif := { s.massif with saddle := true }, sizes := Tbl.putD s.sizes 16384 (uTile 0) 1024 }) fun s1 => eqB (((s1.setR .trkMode 0 1).setF .trkCtl 0 16 16 1).setR .netCfg 0 0xFF) fun s2 => eqB ([uTile 0, uTroika 0, uCore 0, uCore 1, uCore 2, uHre].foldl (fun x u => bringUp x u stOnline) s2) fun s3 => eqB ((members 0).foldl recoverCore (s3.setF .trkStat 0 62 60 0)) fun s4 => eqB (((s4.setF .cfgQclk 1 36 32 0).setF .cfgQclk 2 36 32 0).setF .cfgQclk 3 36 32 0) fun s5 => true)))) = true → inStage s 1 = true ∧ failCount s = 3 ∧ s.online uCrag = true ∧ ∃ s1, s1 = { s.setR .sadReason 0 (saddleReason s.base.failures) with compact := true, massif := { s.massif with saddle := true }, sizes := Tbl.putD s.sizes 16384 (uTile 0) 1024 } ∧ ∃ s2, s2 = ((s1.setR .trkMode 0 1).setF .trkCtl 0 16 16 1).setR .netCfg 0 0xFF ∧ ∃ s3, s3 = [uTile 0, uTroika 0, uCore 0, uCore 1, uCore 2, uHre].foldl (fun x u => bringUp x u stOnline) s2 ∧ ∃ s4, s4 = (members 0).foldl recoverCore (s3.setF .trkStat 0 62 60 0) ∧ ∃ s5, s5 = ((s4.setF .cfgQclk 1 36 32 0).setF .cfgQclk 2 36 32 0).setF .cfgQclk 3 36 32 0 := by
      intro s h
      refine and_of h (fun h => of_decide_eq_true h) fun h => ?_
      refine and_of h (fun h => of_decide_eq_true h) fun h => ?_
      refine and_of h (fun h => of_decide_eq_true h) fun h => ?_
      refine eq_of h fun s1 h => ?_
      refine eq_of h fun s2 h => ?_
      refine eq_of h fun s3 h => ?_
      refine eq_of h fun s4 h => ?_
      obtain ⟨s5, h, -⟩ := eq_of (P := fun _ => True) h fun _ _ => trivial
      exact ⟨s5, h⟩
    exact ⟨(bt 1).setF .basBoot 0 55 54 3, k _ (by decide +kernel)⟩
  · have k : ∀ (s : State) (w : SetupWrite), ((decide (acts w 63 = true)) && ((decide (mayReach s w.agent .cfgOper 0 = true)) && (eqB (storeSetup s .cfgOper 0 w (fun old new => keepField (0x80 ≤ bitsOf new 7 0) 7 0 old new)) fun s1 => (decide (inStage s1 6 = true)) && (eqB ((clearFails s1).setF .basBootsel 0 0 0 (s1.fld .basBoot 0 53 53)) fun s2 => eqB ((publish { s2 with massif := { s2.massif with oper := true } } 0 0 6).setF .basBoot 0 63 60 7) fun s3 => true)))) = true → acts w 63 = true ∧ mayReach s w.agent .cfgOper 0 = true ∧ ∃ s1, s1 = storeSetup s .cfgOper 0 w (fun old new => keepField (0x80 ≤ bitsOf new 7 0) 7 0 old new) ∧ inStage s1 6 = true ∧ ∃ s2, s2 = (clearFails s1).setF .basBootsel 0 0 0 (s1.fld .basBoot 0 53 53) ∧ ∃ s3, s3 = (publish { s2 with massif := { s2.massif with oper := true } } 0 0 6).setF .basBoot 0 63 60 7 := by
      intro s w h
      refine and_of h (fun h => of_decide_eq_true h) fun h => ?_
      refine and_of h (fun h => of_decide_eq_true h) fun h => ?_
      refine eq_of h fun s1 h => ?_
      refine and_of h (fun h => of_decide_eq_true h) fun h => ?_
      refine eq_of h fun s2 h => ?_
      obtain ⟨s3, h, -⟩ := eq_of (P := fun _ => True) h fun _ _ => trivial
      exact ⟨s3, h⟩
    exact ⟨bt 6, sw (2 ^ 63), k _ _ (by decide +kernel)⟩
  · have k : ∀ (s : State) (w : SetupWrite), ((decide (acts w 62 = true)) && ((decide (acts w 63 = false)) && ((decide (mayReach s w.agent .cfgOper 0 = true)) && (eqB (storeSetup s .cfgOper 0 w (fun old new => keepField (0x80 ≤ bitsOf new 7 0) 7 0 old new)) fun s1 => decide (inStage s1 6 = true))))) = true → acts w 62 = true ∧ acts w 63 = false ∧ mayReach s w.agent .cfgOper 0 = true ∧ ∃ s1, s1 = storeSetup s .cfgOper 0 w (fun old new => keepField (0x80 ≤ bitsOf new 7 0) 7 0 old new) ∧ inStage s1 6 = true := by
      intro s w h
      refine and_of h (fun h => of_decide_eq_true h) fun h => ?_
      refine and_of h (fun h => of_decide_eq_true h) fun h => ?_
      refine and_of h (fun h => of_decide_eq_true h) fun h => ?_
      refine eq_of h fun s1 h => ?_
      exact of_decide_eq_true h
    exact ⟨bt 6, sw (2 ^ 62 + 0x81), k _ _ (by decide +kernel)⟩
  · have k : ∀ (s : State) (w : SetupWrite), ((decide (keyed w = true)) && (decide (mayReach s w.agent .cfgStart 0 = true))) = true → keyed w = true ∧ mayReach s w.agent .cfgStart 0 = true := by
      intro s w h
      refine and_of h (fun h => of_decide_eq_true h) fun h => ?_
      exact of_decide_eq_true h
    exact ⟨bt 7, sw (2 ^ 63 + 0x5354), k _ _ (by decide +kernel)⟩
  · have k : ∀ (s : State) (w : SetupWrite), ((decide (keyed w = true)) && ((decide (mayReach s w.agent .sadCtl 0 = true)) && (decide (inSaddle s = true)))) = true → keyed w = true ∧ mayReach s w.agent .sadCtl 0 = true ∧ inSaddle s = true := by
      intro s w h
      refine and_of h (fun h => of_decide_eq_true h) fun h => ?_
      refine and_of h (fun h => of_decide_eq_true h) fun h => ?_
      exact of_decide_eq_true h
    exact ⟨bt 8, sw (2 ^ 63 + 0x5354), k _ _ (by decide +kernel)⟩

/-- The hypotheses of part 1 of Obligations.UnitOperationsComplete are met. -/
theorem witness_UnitRequestsComplete :
    (∃ (s : State) (w : _), ∃ unit s0, UnitAsked s w 1 unit s0 ∧ unit < 16 ∧ (storeSetup s .cfgUnitctl 0 w).unit (uTile unit) = stOnline ∧ evacuatingTile s0 unit = false ∧ tileInUse s0 unit = false)
    ∧ (∃ (s : State) (w : _), ∃ unit s0, UnitAsked s w 1 unit s0 ∧ unit < 16 ∧ (storeSetup s .cfgUnitctl 0 w).unit (uTile unit) = stOnline ∧ evacuatingTile s0 unit = false ∧ tileInUse s0 unit = true)
    ∧ (∃ (s : State) (w : _), ∃ unit s0, UnitAsked s w 2 unit s0 ∧ unit < 16 ∧ (storeSetup s .cfgUnitctl 0 w).unit (uTile unit) = stOffline)
    ∧ (∃ (s : State) (w : _), ∃ unit s0, UnitAsked s w 3 unit s0 ∧ unit < 16 ∧ (storeSetup s .cfgUnitctl 0 w).unit (uTile unit) = stOffline)
    ∧ (∃ (s : State) (w : _), ∃ unit s0, UnitAsked s w 9 unit s0 ∧ unit < 16 ∧ (storeSetup s .cfgUnitctl 0 w).unit (uTile unit) = stOffline)
    ∧ (∃ (s : State) (w : _), ∃ unit s0, UnitAsked s w 1 unit s0 ∧ 16 ≤ unit)
    ∧ (∃ (s : State) (w : _), ∃ unit s0, UnitAsked s w 2 unit s0 ∧ 16 ≤ unit)
    ∧ (∃ (s : State) (w : _), ∃ unit s0, UnitAsked s w 3 unit s0 ∧ 16 ≤ unit)
    ∧ (∃ (s : State) (w : _), ∃ unit s0, UnitAsked s w 9 unit s0 ∧ 16 ≤ unit)
    ∧ (∃ (s : State) (w : _) (c : CoreId), ∃ w1 s0, UnitAsked s w 4 w1 s0 ∧ w1 = c.val ∧ mayRetire s0 c = true)
    ∧ (∃ (s : State) (w : _) (c : CoreId), ∃ w1 s0, UnitAsked s w 4 w1 s0 ∧ w1 = c.val ∧ mayRetire s0 c = false)
    ∧ (∃ (s : State) (w : _), ∃ unit s0, UnitAsked s w 5 unit s0)
    ∧ (∃ (s : State) (w : _), ∃ unit s0, UnitAsked s w 6 unit s0 ∧ unit < 8 ∧ rdgState s0 (unit / 2) = 2)
    ∧ (∃ (s : State) (w : _), ∃ unit s0, UnitAsked s w 6 unit s0 ∧ unit < 8)
    ∧ (∃ (s : State) (w : _), ∃ unit s0, UnitAsked s w 7 unit s0)
    ∧ (∃ (s : State) (w : SetupWrite), acts w 63 = true ∧ mayReach s w.agent .cfgUnitctl 0 = true ∧ unitBusy s = true ∧ bitsOf (written s .cfgUnitctl 0 w) 55 48 = 1)
    ∧ (∃ (s : State) (w : SetupWrite), acts w 63 = true ∧ mayReach s w.agent .cfgUnitctl 0 = true ∧ unitBusy s = true ∧ bitsOf (written s .cfgUnitctl 0 w) 55 48 = 2)
    ∧ (∃ (s : State) (w : SetupWrite), acts w 63 = true ∧ mayReach s w.agent .cfgUnitctl 0 = true ∧ unitBusy s = true ∧ bitsOf (written s .cfgUnitctl 0 w) 55 48 = 3)
    ∧ (∃ (s : State) (w : SetupWrite), acts w 63 = true ∧ mayReach s w.agent .cfgUnitctl 0 = true ∧ unitBusy s = true ∧ bitsOf (written s .cfgUnitctl 0 w) 55 48 = 4)
    ∧ (∃ (s : State) (w : SetupWrite), acts w 63 = true ∧ mayReach s w.agent .cfgUnitctl 0 = true ∧ unitBusy s = true ∧ bitsOf (written s .cfgUnitctl 0 w) 55 48 = 5)
    ∧ (∃ (s : State) (w : SetupWrite), acts w 63 = true ∧ mayReach s w.agent .cfgUnitctl 0 = true ∧ unitBusy s = true ∧ bitsOf (written s .cfgUnitctl 0 w) 55 48 = 7)
    ∧ (∃ (s : State) (w : SetupWrite), acts w 63 = true ∧ mayReach s w.agent .cfgUnitctl 0 = true ∧ unitBusy s = true ∧ bitsOf (written s .cfgUnitctl 0 w) 55 48 = 9) := by
  refine ⟨?_, ?_, ?_, ?_, ?_, ?_, ?_, ?_, ?_, ?_, ?_, ?_, ?_, ?_, ?_, ?_, ?_, ?_, ?_, ?_, ?_, ?_⟩
  · have k : ∀ (s : State) (w : _), (unitAskedB s w 1 fun unit s0 => (decide (unit < 16)) && ((decide ((storeSetup s .cfgUnitctl 0 w).unit (uTile unit) = stOnline)) && ((decide (evacuatingTile s0 unit = false)) && (decide (tileInUse s0 unit = false))))) = true → ∃ unit s0, UnitAsked s w 1 unit s0 ∧ unit < 16 ∧ (storeSetup s .cfgUnitctl 0 w).unit (uTile unit) = stOnline ∧ evacuatingTile s0 unit = false ∧ tileInUse s0 unit = false := by
      intro s w h
      refine unitAsked_of h fun unit s0 h => ?_
      refine and_of h (fun h => of_decide_eq_true h) fun h => ?_
      refine and_of h (fun h => of_decide_eq_true h) fun h => ?_
      refine and_of h (fun h => of_decide_eq_true h) fun h => ?_
      exact of_decide_eq_true h
    exact ⟨(bt 7).setUnit (uTile 15) stOnline, ask 1 15, k _ _ (by decide +kernel)⟩
  · have k : ∀ (s : State) (w : _), (unitAskedB s w 1 fun unit s0 => (decide (unit < 16)) && ((decide ((storeSetup s .cfgUnitctl 0 w).unit (uTile unit) = stOnline)) && ((decide (evacuatingTile s0 unit = false)) && (decide (tileInUse s0 unit = true))))) = true → ∃ unit s0, UnitAsked s w 1 unit s0 ∧ unit < 16 ∧ (storeSetup s .cfgUnitctl 0 w).unit (uTile unit) = stOnline ∧ evacuatingTile s0 unit = false ∧ tileInUse s0 unit = true := by
      intro s w h
      refine unitAsked_of h fun unit s0 h => ?_
      refine and_of h (fun h => of_decide_eq_true h) fun h => ?_
      refine and_of h (fun h => of_decide_eq_true h) fun h => ?_
      refine and_of h (fun h => of_decide_eq_true h) fun h => ?_
      exact of_decide_eq_true h
    exact ⟨((bt 7).setUnit (uTile 15) stOnline).setR .cqxCmd 15 (BitVec.ofNat 64 (2 ^ 63)), ask 1 15, k _ _ (by decide +kernel)⟩
  · have k : ∀ (s : State) (w : _), (unitAskedB s w 2 fun unit s0 => (decide (unit < 16)) && (decide ((storeSetup s .cfgUnitctl 0 w).unit (uTile unit) = stOffline))) = true → ∃ unit s0, UnitAsked s w 2 unit s0 ∧ unit < 16 ∧ (storeSetup s .cfgUnitctl 0 w).unit (uTile unit) = stOffline := by
      intro s w h
      refine unitAsked_of h fun unit s0 h => ?_
      refine and_of h (fun h => of_decide_eq_true h) fun h => ?_
      exact of_decide_eq_true h
    exact ⟨(bt 7).setUnit (uTile 15) stOffline, ask 2 15, k _ _ (by decide +kernel)⟩
  · have k : ∀ (s : State) (w : _), (unitAskedB s w 3 fun unit s0 => (decide (unit < 16)) && (decide ((storeSetup s .cfgUnitctl 0 w).unit (uTile unit) = stOffline))) = true → ∃ unit s0, UnitAsked s w 3 unit s0 ∧ unit < 16 ∧ (storeSetup s .cfgUnitctl 0 w).unit (uTile unit) = stOffline := by
      intro s w h
      refine unitAsked_of h fun unit s0 h => ?_
      refine and_of h (fun h => of_decide_eq_true h) fun h => ?_
      exact of_decide_eq_true h
    exact ⟨(bt 7).setUnit (uTile 15) stOffline, ask 3 15, k _ _ (by decide +kernel)⟩
  · have k : ∀ (s : State) (w : _), (unitAskedB s w 9 fun unit s0 => (decide (unit < 16)) && (decide ((storeSetup s .cfgUnitctl 0 w).unit (uTile unit) = stOffline))) = true → ∃ unit s0, UnitAsked s w 9 unit s0 ∧ unit < 16 ∧ (storeSetup s .cfgUnitctl 0 w).unit (uTile unit) = stOffline := by
      intro s w h
      refine unitAsked_of h fun unit s0 h => ?_
      refine and_of h (fun h => of_decide_eq_true h) fun h => ?_
      exact of_decide_eq_true h
    exact ⟨(bt 7).setUnit (uTile 15) stOffline, ask 9 15, k _ _ (by decide +kernel)⟩
  · have k : ∀ (s : State) (w : _), (unitAskedB s w 1 fun unit s0 => decide (16 ≤ unit)) = true → ∃ unit s0, UnitAsked s w 1 unit s0 ∧ 16 ≤ unit := by
      intro s w h
      refine unitAsked_of h fun unit s0 h => ?_
      exact of_decide_eq_true h
    exact ⟨bt 7, ask 1 16, k _ _ (by decide +kernel)⟩
  · have k : ∀ (s : State) (w : _), (unitAskedB s w 2 fun unit s0 => decide (16 ≤ unit)) = true → ∃ unit s0, UnitAsked s w 2 unit s0 ∧ 16 ≤ unit := by
      intro s w h
      refine unitAsked_of h fun unit s0 h => ?_
      exact of_decide_eq_true h
    exact ⟨bt 7, ask 2 16, k _ _ (by decide +kernel)⟩
  · have k : ∀ (s : State) (w : _), (unitAskedB s w 3 fun unit s0 => decide (16 ≤ unit)) = true → ∃ unit s0, UnitAsked s w 3 unit s0 ∧ 16 ≤ unit := by
      intro s w h
      refine unitAsked_of h fun unit s0 h => ?_
      exact of_decide_eq_true h
    exact ⟨bt 7, ask 3 16, k _ _ (by decide +kernel)⟩
  · have k : ∀ (s : State) (w : _), (unitAskedB s w 9 fun unit s0 => decide (16 ≤ unit)) = true → ∃ unit s0, UnitAsked s w 9 unit s0 ∧ 16 ≤ unit := by
      intro s w h
      refine unitAsked_of h fun unit s0 h => ?_
      exact of_decide_eq_true h
    exact ⟨bt 7, ask 9 16, k _ _ (by decide +kernel)⟩
  · have k : ∀ (s : State) (w : _) (c : CoreId), (unitAskedB s w 4 fun w1 s0 => (decide (w1 = c.val)) && (decide (mayRetire s0 c = true))) = true → ∃ w1 s0, UnitAsked s w 4 w1 s0 ∧ w1 = c.val ∧ mayRetire s0 c = true := by
      intro s w c h
      refine unitAsked_of h fun w1 s0 h => ?_
      refine and_of h (fun h => of_decide_eq_true h) fun h => ?_
      exact of_decide_eq_true h
    exact ⟨(bt 7).setUnit (uCore 95) stOffline, ask 4 95, 95, k _ _ _ (by decide +kernel)⟩
  · have k : ∀ (s : State) (w : _) (c : CoreId), (unitAskedB s w 4 fun w1 s0 => (decide (w1 = c.val)) && (decide (mayRetire s0 c = false))) = true → ∃ w1 s0, UnitAsked s w 4 w1 s0 ∧ w1 = c.val ∧ mayRetire s0 c = false := by
      intro s w c h
      refine unitAsked_of h fun w1 s0 h => ?_
      refine and_of h (fun h => of_decide_eq_true h) fun h => ?_
      exact of_decide_eq_true h
    exact ⟨(bt 7).setUnit (uCore 95) stOnline, ask 4 95, 95, k _ _ _ (by decide +kernel)⟩
  · have k : ∀ (s : State) (w : _), (unitAskedB s w 5 fun unit s0 => true) = true → ∃ unit s0, UnitAsked s w 5 unit s0 := by
      intro s w h
      obtain ⟨unit, s0, h, -⟩ := unitAsked_of (P := fun _ _ => True) h fun _ _ _ => trivial
      exact ⟨unit, s0, h⟩
    exact ⟨bt 7, ask 5 0, k _ _ (by decide +kernel)⟩
  · have k : ∀ (s : State) (w : _), (unitAskedB s w 6 fun unit s0 => (decide (unit < 8)) && (decide (rdgState s0 (unit / 2) = 2))) = true → ∃ unit s0, UnitAsked s w 6 unit s0 ∧ unit < 8 ∧ rdgState s0 (unit / 2) = 2 := by
      intro s w h
      refine unitAsked_of h fun unit s0 h => ?_
      refine and_of h (fun h => of_decide_eq_true h) fun h => ?_
      exact of_decide_eq_true h
    exact ⟨(bt 7).setF .rdgStat 3 63 62 2, ask 6 7, k _ _ (by decide +kernel)⟩
  · have k : ∀ (s : State) (w : _), (unitAskedB s w 6 fun unit s0 => decide (unit < 8)) = true → ∃ unit s0, UnitAsked s w 6 unit s0 ∧ unit < 8 := by
      intro s w h
      refine unitAsked_of h fun unit s0 h => ?_
      exact of_decide_eq_true h
    exact ⟨(bt 7).setF .rdgStat 3 63 62 2, ask 6 7, k _ _ (by decide +kernel)⟩
  · have k : ∀ (s : State) (w : _), (unitAskedB s w 7 fun unit s0 => true) = true → ∃ unit s0, UnitAsked s w 7 unit s0 := by
      intro s w h
      obtain ⟨unit, s0, h, -⟩ := unitAsked_of (P := fun _ _ => True) h fun _ _ _ => trivial
      exact ⟨unit, s0, h⟩
    exact ⟨bt 7, ask 7 0, k _ _ (by decide +kernel)⟩
  · have k : ∀ (s : State) (w : SetupWrite), ((decide (acts w 63 = true)) && ((decide (mayReach s w.agent .cfgUnitctl 0 = true)) && ((decide (unitBusy s = true)) && (decide (bitsOf (written s .cfgUnitctl 0 w) 55 48 = 1))))) = true → acts w 63 = true ∧ mayReach s w.agent .cfgUnitctl 0 = true ∧ unitBusy s = true ∧ bitsOf (written s .cfgUnitctl 0 w) 55 48 = 1 := by
      intro s w h
      refine and_of h (fun h => of_decide_eq_true h) fun h => ?_
      refine and_of h (fun h => of_decide_eq_true h) fun h => ?_
      refine and_of h (fun h => of_decide_eq_true h) fun h => ?_
      exact of_decide_eq_true h
    exact ⟨unitOp 5 0, ask 1 0, k _ _ (by decide +kernel)⟩
  · have k : ∀ (s : State) (w : SetupWrite), ((decide (acts w 63 = true)) && ((decide (mayReach s w.agent .cfgUnitctl 0 = true)) && ((decide (unitBusy s = true)) && (decide (bitsOf (written s .cfgUnitctl 0 w) 55 48 = 2))))) = true → acts w 63 = true ∧ mayReach s w.agent .cfgUnitctl 0 = true ∧ unitBusy s = true ∧ bitsOf (written s .cfgUnitctl 0 w) 55 48 = 2 := by
      intro s w h
      refine and_of h (fun h => of_decide_eq_true h) fun h => ?_
      refine and_of h (fun h => of_decide_eq_true h) fun h => ?_
      refine and_of h (fun h => of_decide_eq_true h) fun h => ?_
      exact of_decide_eq_true h
    exact ⟨unitOp 5 0, ask 2 0, k _ _ (by decide +kernel)⟩
  · have k : ∀ (s : State) (w : SetupWrite), ((decide (acts w 63 = true)) && ((decide (mayReach s w.agent .cfgUnitctl 0 = true)) && ((decide (unitBusy s = true)) && (decide (bitsOf (written s .cfgUnitctl 0 w) 55 48 = 3))))) = true → acts w 63 = true ∧ mayReach s w.agent .cfgUnitctl 0 = true ∧ unitBusy s = true ∧ bitsOf (written s .cfgUnitctl 0 w) 55 48 = 3 := by
      intro s w h
      refine and_of h (fun h => of_decide_eq_true h) fun h => ?_
      refine and_of h (fun h => of_decide_eq_true h) fun h => ?_
      refine and_of h (fun h => of_decide_eq_true h) fun h => ?_
      exact of_decide_eq_true h
    exact ⟨unitOp 5 0, ask 3 0, k _ _ (by decide +kernel)⟩
  · have k : ∀ (s : State) (w : SetupWrite), ((decide (acts w 63 = true)) && ((decide (mayReach s w.agent .cfgUnitctl 0 = true)) && ((decide (unitBusy s = true)) && (decide (bitsOf (written s .cfgUnitctl 0 w) 55 48 = 4))))) = true → acts w 63 = true ∧ mayReach s w.agent .cfgUnitctl 0 = true ∧ unitBusy s = true ∧ bitsOf (written s .cfgUnitctl 0 w) 55 48 = 4 := by
      intro s w h
      refine and_of h (fun h => of_decide_eq_true h) fun h => ?_
      refine and_of h (fun h => of_decide_eq_true h) fun h => ?_
      refine and_of h (fun h => of_decide_eq_true h) fun h => ?_
      exact of_decide_eq_true h
    exact ⟨unitOp 5 0, ask 4 0, k _ _ (by decide +kernel)⟩
  · have k : ∀ (s : State) (w : SetupWrite), ((decide (acts w 63 = true)) && ((decide (mayReach s w.agent .cfgUnitctl 0 = true)) && ((decide (unitBusy s = true)) && (decide (bitsOf (written s .cfgUnitctl 0 w) 55 48 = 5))))) = true → acts w 63 = true ∧ mayReach s w.agent .cfgUnitctl 0 = true ∧ unitBusy s = true ∧ bitsOf (written s .cfgUnitctl 0 w) 55 48 = 5 := by
      intro s w h
      refine and_of h (fun h => of_decide_eq_true h) fun h => ?_
      refine and_of h (fun h => of_decide_eq_true h) fun h => ?_
      refine and_of h (fun h => of_decide_eq_true h) fun h => ?_
      exact of_decide_eq_true h
    exact ⟨unitOp 5 0, ask 5 0, k _ _ (by decide +kernel)⟩
  · have k : ∀ (s : State) (w : SetupWrite), ((decide (acts w 63 = true)) && ((decide (mayReach s w.agent .cfgUnitctl 0 = true)) && ((decide (unitBusy s = true)) && (decide (bitsOf (written s .cfgUnitctl 0 w) 55 48 = 7))))) = true → acts w 63 = true ∧ mayReach s w.agent .cfgUnitctl 0 = true ∧ unitBusy s = true ∧ bitsOf (written s .cfgUnitctl 0 w) 55 48 = 7 := by
      intro s w h
      refine and_of h (fun h => of_decide_eq_true h) fun h => ?_
      refine and_of h (fun h => of_decide_eq_true h) fun h => ?_
      refine and_of h (fun h => of_decide_eq_true h) fun h => ?_
      exact of_decide_eq_true h
    exact ⟨unitOp 5 0, ask 7 0, k _ _ (by decide +kernel)⟩
  · have k : ∀ (s : State) (w : SetupWrite), ((decide (acts w 63 = true)) && ((decide (mayReach s w.agent .cfgUnitctl 0 = true)) && ((decide (unitBusy s = true)) && (decide (bitsOf (written s .cfgUnitctl 0 w) 55 48 = 9))))) = true → acts w 63 = true ∧ mayReach s w.agent .cfgUnitctl 0 = true ∧ unitBusy s = true ∧ bitsOf (written s .cfgUnitctl 0 w) 55 48 = 9 := by
      intro s w h
      refine and_of h (fun h => of_decide_eq_true h) fun h => ?_
      refine and_of h (fun h => of_decide_eq_true h) fun h => ?_
      refine and_of h (fun h => of_decide_eq_true h) fun h => ?_
      exact of_decide_eq_true h
    exact ⟨unitOp 5 0, ask 9 0, k _ _ (by decide +kernel)⟩

/-- The hypotheses of part 2 of Obligations.UnitOperationsComplete are met. -/
theorem witness_UnitOperationsEnd :
    (∃ (s : State), unitBusy s = true ∧ s.fld .cfgUnitstat 0 55 48 = 1 ∧ ∃ t, s.fld .cfgUnitstat 0 47 40 = t ∧ s.unit (uTile t) = stDraining ∧ ((∀ f ∈ s.flights, tileOfPa f.pa ≠ some t)))
    ∧ (∃ (s : State), unitBusy s = true ∧ s.fld .cfgUnitstat 0 55 48 = 2 ∧ ∃ t, s.fld .cfgUnitstat 0 47 40 = t)
    ∧ (∃ (s : State), unitBusy s = true ∧ s.fld .cfgUnitstat 0 55 48 = 3 ∧ ∃ t, s.fld .cfgUnitstat 0 47 40 = t)
    ∧ (∃ (s : State) (fs : List (Fin 16384)), unitBusy s = true ∧ s.fld .cfgUnitstat 0 55 48 = 3 ∧ ∃ t, s.fld .cfgUnitstat 0 47 40 = t ∧ repairRows s t (fs.map (·.val)) = none)
    ∧ (∃ (s : State) (c : CoreId), unitBusy s = true ∧ s.fld .cfgUnitstat 0 55 48 = 4 ∧ s.fld .cfgUnitstat 0 47 40 = c.val)
    ∧ (∃ (s : State), unitBusy s = true ∧ s.fld .cfgUnitstat 0 55 48 = 5 ∧ rangeAdvancing s = false ∧ ∃ i, i = 1 - s.fld .basBoot 0 52 52)
    ∧ (∃ (s : State), unitBusy s = true ∧ s.fld .cfgUnitstat 0 55 48 = 5 ∧ rangeAdvancing s = false)
    ∧ (∃ (s : State), unitBusy s = true ∧ s.fld .cfgUnitstat 0 55 48 = 9 ∧ ∃ t, s.fld .cfgUnitstat 0 47 40 = t) := by
  refine ⟨?_, ?_, ?_, ?_, ?_, ?_, ?_, ?_⟩
  · have k : ∀ (s : State), ((decide (unitBusy s = true)) && ((decide (s.fld .cfgUnitstat 0 55 48 = 1)) && (eqB (s.fld .cfgUnitstat 0 47 40) fun t => (decide (s.unit (uTile t) = stDraining)) && (decide ((∀ f ∈ s.flights, tileOfPa f.pa ≠ some t)))))) = true → unitBusy s = true ∧ s.fld .cfgUnitstat 0 55 48 = 1 ∧ ∃ t, s.fld .cfgUnitstat 0 47 40 = t ∧ s.unit (uTile t) = stDraining ∧ ((∀ f ∈ s.flights, tileOfPa f.pa ≠ some t)) := by
      intro s h
      refine and_of h (fun h => of_decide_eq_true h) fun h => ?_
      refine and_of h (fun h => of_decide_eq_true h) fun h => ?_
      refine eq_of' h fun t h => ?_
      refine and_of h (fun h => of_decide_eq_true h) fun h => ?_
      exact of_decide_eq_true h
    exact ⟨unitOp 1 15 ((bt 7).setUnit (uTile 15) stDraining), k _ (by decide +kernel)⟩
  · have k : ∀ (s : State), ((decide (unitBusy s = true)) && ((decide (s.fld .cfgUnitstat 0 55 48 = 2)) && (eqB (s.fld .cfgUnitstat 0 47 40) fun t => true))) = true → unitBusy s = true ∧ s.fld .cfgUnitstat 0 55 48 = 2 ∧ ∃ t, s.fld .cfgUnitstat 0 47 40 = t := by
      intro s h
      refine and_of h (fun h => of_decide_eq_true h) fun h => ?_
      refine and_of h (fun h => of_decide_eq_true h) fun h => ?_
      obtain ⟨t, h, -⟩ := eq_of' (P := fun _ => True) h fun _ _ => trivial
      exact ⟨t, h⟩
    exact ⟨unitOp 2 15, k _ (by decide +kernel)⟩
  · have k : ∀ (s : State), ((decide (unitBusy s = true)) && ((decide (s.fld .cfgUnitstat 0 55 48 = 3)) && (eqB (s.fld .cfgUnitstat 0 47 40) fun t => true))) = true → unitBusy s = true ∧ s.fld .cfgUnitstat 0 55 48 = 3 ∧ ∃ t, s.fld .cfgUnitstat 0 47 40 = t := by
      intro s h
      refine and_of h (fun h => of_decide_eq_true h) fun h => ?_
      refine and_of h (fun h => of_decide_eq_true h) fun h => ?_
      obtain ⟨t, h, -⟩ := eq_of' (P := fun _ => True) h fun _ _ => trivial
      exact ⟨t, h⟩
    exact ⟨unitOp 3 15, k _ (by decide +kernel)⟩
  · have k : ∀ (s : State) (fs : List (Fin 16384)), ((decide (unitBusy s = true)) && ((decide (s.fld .cfgUnitstat 0 55 48 = 3)) && (eqB (s.fld .cfgUnitstat 0 47 40) fun t => decide (repairRows s t (fs.map (·.val)) = none)))) = true → unitBusy s = true ∧ s.fld .cfgUnitstat 0 55 48 = 3 ∧ ∃ t, s.fld .cfgUnitstat 0 47 40 = t ∧ repairRows s t (fs.map (·.val)) = none := by
      intro s fs h
      refine and_of h (fun h => of_decide_eq_true h) fun h => ?_
      refine and_of h (fun h => of_decide_eq_true h) fun h => ?_
      refine eq_of' h fun t h => ?_
      exact of_decide_eq_true h
    exact ⟨unitOp 3 15, [0, 32, 64, 96, 128], k _ _ (by decide +kernel)⟩
  · have k : ∀ (s : State) (c : CoreId), ((decide (unitBusy s = true)) && ((decide (s.fld .cfgUnitstat 0 55 48 = 4)) && (decide (s.fld .cfgUnitstat 0 47 40 = c.val)))) = true → unitBusy s = true ∧ s.fld .cfgUnitstat 0 55 48 = 4 ∧ s.fld .cfgUnitstat 0 47 40 = c.val := by
      intro s c h
      refine and_of h (fun h => of_decide_eq_true h) fun h => ?_
      refine and_of h (fun h => of_decide_eq_true h) fun h => ?_
      exact of_decide_eq_true h
    exact ⟨unitOp 4 95, 95, k _ _ (by decide +kernel)⟩
  · have k : ∀ (s : State), ((decide (unitBusy s = true)) && ((decide (s.fld .cfgUnitstat 0 55 48 = 5)) && ((decide (rangeAdvancing s = false)) && (eqB (1 - s.fld .basBoot 0 52 52) fun i => true)))) = true → unitBusy s = true ∧ s.fld .cfgUnitstat 0 55 48 = 5 ∧ rangeAdvancing s = false ∧ ∃ i, i = 1 - s.fld .basBoot 0 52 52 := by
      intro s h
      refine and_of h (fun h => of_decide_eq_true h) fun h => ?_
      refine and_of h (fun h => of_decide_eq_true h) fun h => ?_
      refine and_of h (fun h => of_decide_eq_true h) fun h => ?_
      obtain ⟨i, h, -⟩ := eq_of (P := fun _ => True) h fun _ _ => trivial
      exact ⟨i, h⟩
    exact ⟨unitOp 5 0, k _ (by decide +kernel)⟩
  · have k : ∀ (s : State), ((decide (unitBusy s = true)) && ((decide (s.fld .cfgUnitstat 0 55 48 = 5)) && (decide (rangeAdvancing s = false)))) = true → unitBusy s = true ∧ s.fld .cfgUnitstat 0 55 48 = 5 ∧ rangeAdvancing s = false := by
      intro s h
      refine and_of h (fun h => of_decide_eq_true h) fun h => ?_
      refine and_of h (fun h => of_decide_eq_true h) fun h => ?_
      exact of_decide_eq_true h
    exact ⟨unitOp 5 0, k _ (by decide +kernel)⟩
  · have k : ∀ (s : State), ((decide (unitBusy s = true)) && ((decide (s.fld .cfgUnitstat 0 55 48 = 9)) && (eqB (s.fld .cfgUnitstat 0 47 40) fun t => true))) = true → unitBusy s = true ∧ s.fld .cfgUnitstat 0 55 48 = 9 ∧ ∃ t, s.fld .cfgUnitstat 0 47 40 = t := by
      intro s h
      refine and_of h (fun h => of_decide_eq_true h) fun h => ?_
      refine and_of h (fun h => of_decide_eq_true h) fun h => ?_
      obtain ⟨t, h, -⟩ := eq_of' (P := fun _ => True) h fun _ _ => trivial
      exact ⟨t, h⟩
    exact ⟨unitOp 9 15, k _ (by decide +kernel)⟩

/-- The hypotheses of Obligations.RegisterWritesComplete are met. -/
theorem witness_RegisterWritesComplete :
    (∃ (s : State) (off : _) (w : SetupWrite), ∃ n i, regAt off = some (n, i) ∧ mayReach s w.agent n i = true)
    ∧ (∃ (s : State) (off : _) (w : SetupWrite), ∃ n i, regAt off = some (n, i) ∧ mayReach s w.agent n i = false)
    ∧ (∃ (s : State) (off : _), regAt off = none)
    ∧ (∃ (s : State) (i : Fin 4096) (w : SetupWrite), mayReach s w.agent .cfgGdt i.val = true) := by
  refine ⟨?_, ?_, ?_, ?_⟩
  · have k : ∀ (s : State) (off : _) (w : SetupWrite), (someP (regAt off) fun n i => decide (mayReach s w.agent n i = true)) = true → ∃ n i, regAt off = some (n, i) ∧ mayReach s w.agent n i = true := by
      intro s off w h
      refine someP_of h fun n i h => ?_
      exact of_decide_eq_true h
    exact ⟨bt 7, 0x40020, sw 1, k _ _ _ (by decide +kernel)⟩
  · have k : ∀ (s : State) (off : _) (w : SetupWrite), (someP (regAt off) fun n i => decide (mayReach s w.agent n i = false)) = true → ∃ n i, regAt off = some (n, i) ∧ mayReach s w.agent n i = false := by
      intro s off w h
      refine someP_of h fun n i h => ?_
      exact of_decide_eq_true h
    exact ⟨bt 7, 0x10008, sw 1, k _ _ _ (by decide +kernel)⟩
  · have k : ∀ (s : State) (off : _), (decide (regAt off = none)) = true → regAt off = none := by
      intro s off h
      exact of_decide_eq_true h
    exact ⟨bt 7, 4, k (bt 7) _ (by decide +kernel)⟩
  · have k : ∀ (s : State) (i : Fin 4096) (w : SetupWrite), (decide (mayReach s w.agent .cfgGdt i.val = true)) = true → mayReach s w.agent .cfgGdt i.val = true := by
      intro s i w h
      exact of_decide_eq_true h
    exact ⟨bt 7, 4095, sw 1, k _ _ _ (by decide +kernel)⟩

/-- The hypotheses of Obligations.PinsMakeStarts are met. -/
theorem witness_PinsMakeStarts :
    (∃ (s : State), s.base.held.contains 6 = true)
    ∧ (∃ (s : State), s.base.held.contains 6 = false ∧ ∃ s1, s1 = unhold (unhold s 5) 2)
    ∧ (∃ (s : State), s.base.held.contains 6 = false ∧ ∃ s1, s1 = (unhold (unhold s 5) 2).setF .basRail 0 61 61 1)
    ∧ (∃ (s : State), s.base.held.contains 0 = false)
    ∧ (∃ (s : State), s.base.held.contains 0 = true ∧ (unhold s 0).base.held.contains 6 = false)
    ∧ (∃ (s : State), s.base.held.contains 1 = false ∧ inSaddle s = false)
    ∧ (∃ (s : State), s.base.held.contains 1 = false ∧ inSaddle s = true)
    ∧ (∃ (s : State), s.base.held.contains 1 = true ∧ (unhold s 1).base.held.contains 6 = false) := by
  refine ⟨?_, ?_, ?_, ?_, ?_, ?_, ?_, ?_⟩
  · have k : ∀ (s : State), (decide (s.base.held.contains 6 = true)) = true → s.base.held.contains 6 = true := by
      intro s h
      exact of_decide_eq_true h
    exact ⟨held0 [6], k _ (by decide +kernel)⟩
  · have k : ∀ (s : State), ((decide (s.base.held.contains 6 = false)) && (eqB (unhold (unhold s 5) 2) fun s1 => true)) = true → s.base.held.contains 6 = false ∧ ∃ s1, s1 = unhold (unhold s 5) 2 := by
      intro s h
      refine and_of h (fun h => of_decide_eq_true h) fun h => ?_
      obtain ⟨s1, h, -⟩ := eq_of (P := fun _ => True) h fun _ _ => trivial
      exact ⟨s1, h⟩
    exact ⟨held0 [2, 5], k _ (by decide +kernel)⟩
  · have k : ∀ (s : State), ((decide (s.base.held.contains 6 = false)) && (eqB ((unhold (unhold s 5) 2).setF .basRail 0 61 61 1) fun s1 => true)) = true → s.base.held.contains 6 = false ∧ ∃ s1, s1 = (unhold (unhold s 5) 2).setF .basRail 0 61 61 1 := by
      intro s h
      refine and_of h (fun h => of_decide_eq_true h) fun h => ?_
      obtain ⟨s1, h, -⟩ := eq_of (P := fun _ => True) h fun _ _ => trivial
      exact ⟨s1, h⟩
    exact ⟨held0 [2, 5], k _ (by decide +kernel)⟩
  · have k : ∀ (s : State), (decide (s.base.held.contains 0 = false)) = true → s.base.held.contains 0 = false := by
      intro s h
      exact of_decide_eq_true h
    exact ⟨bt 7, k _ (by decide +kernel)⟩
  · have k : ∀ (s : State), ((decide (s.base.held.contains 0 = true)) && (decide ((unhold s 0).base.held.contains 6 = false))) = true → s.base.held.contains 0 = true ∧ (unhold s 0).base.held.contains 6 = false := by
      intro s h
      refine and_of h (fun h => of_decide_eq_true h) fun h => ?_
      exact of_decide_eq_true h
    exact ⟨held0 [0], k _ (by decide +kernel)⟩
  · have k : ∀ (s : State), ((decide (s.base.held.contains 1 = false)) && (decide (inSaddle s = false))) = true → s.base.held.contains 1 = false ∧ inSaddle s = false := by
      intro s h
      refine and_of h (fun h => of_decide_eq_true h) fun h => ?_
      exact of_decide_eq_true h
    exact ⟨bt 7, k _ (by decide +kernel)⟩
  · have k : ∀ (s : State), ((decide (s.base.held.contains 1 = false)) && (decide (inSaddle s = true))) = true → s.base.held.contains 1 = false ∧ inSaddle s = true := by
      intro s h
      refine and_of h (fun h => of_decide_eq_true h) fun h => ?_
      exact of_decide_eq_true h
    exact ⟨bt 8, k _ (by decide +kernel)⟩
  · have k : ∀ (s : State), ((decide (s.base.held.contains 1 = true)) && (decide ((unhold s 1).base.held.contains 6 = false))) = true → s.base.held.contains 1 = true ∧ (unhold s 1).base.held.contains 6 = false := by
      intro s h
      refine and_of h (fun h => of_decide_eq_true h) fun h => ?_
      exact of_decide_eq_true h
    exact ⟨held0 [1], k _ (by decide +kernel)⟩

/-- The hypotheses of Obligations.SuppliesComplete are met. -/
theorem witness_SuppliesComplete :
    (∃ (s : State), s.base.held.contains 6 = false ∧ ∃ s1, s1 = pulse (recordRail s 0xB false) 240 ∧ starting s1 = false)
    ∧ (∃ (s : State), s.base.held.contains 6 = false ∧ ∃ s1, s1 = pulse (recordRail s 0xB false) 240 ∧ starting s1 = true)
    ∧ (∃ (s : State), s.base.held.contains 6 = false ∧ ∃ s1, s1 = hold (resetBase (resetDevice s)) 6)
    ∧ (∃ (s : State) (rail : Fin 12) (high : Bool), s.base.held = [] ∧ ∃ s0, s0 = { s with board := { s.board with railsOut := insertNat s.board.railsOut rail.val } } ∧ ∃ s1, s1 = pulse (recordRail s0 rail.val high) 241 ∧ starting s1 = false ∧ 4 ≤ rail.val)
    ∧ (∃ (s : State) (rail : Fin 12) (high : Bool), s.base.held = [] ∧ ∃ s0, s0 = { s with board := { s.board with railsOut := insertNat s.board.railsOut rail.val } } ∧ ∃ s1, s1 = pulse (recordRail s0 rail.val high) 241 ∧ starting s1 = false ∧ 4 ≤ rail.val)
    ∧ (∃ (s : State) (rail : Fin 12) (high : Bool), s.base.held = [] ∧ ∃ s0, s0 = { s with board := { s.board with railsOut := insertNat s.board.railsOut rail.val } } ∧ ∃ s1, s1 = pulse (recordRail s0 rail.val high) 241 ∧ starting s1 = false ∧ rail.val < 4)
    ∧ (∃ (s : State) (rail : Fin 12) (high : Bool), s.base.held = [] ∧ ∃ s0, s0 = { s with board := { s.board with railsOut := insertNat s.board.railsOut rail.val } } ∧ ∃ s1, s1 = pulse (recordRail s0 rail.val high) 241 ∧ starting s1 = false ∧ rail.val < 4)
    ∧ (∃ (s : State) (rail : Fin 12), 4 ≤ rail.val ∧ rail.val < 11 ∧ s.board.railsOut.contains rail.val = true ∧ s.base.held.contains 6 = false)
    ∧ (∃ (s : State) (rail : Fin 12), 4 ≤ rail.val ∧ rail.val < 11 ∧ s.board.railsOut.contains rail.val = true ∧ s.base.held.contains 6 = false)
    ∧ (∃ (s : State), ((s.base.held.contains 2 = true ∨ s.base.held.contains 3 = true)) ∧ ∃ s1, s1 = unhold (unhold s 2) 3 ∧ s1.base.held.contains 6 = false)
    ∧ (∃ (s : State), ((s.base.held.contains 2 = true ∨ s.base.held.contains 3 = true)) ∧ ∃ s1, s1 = unhold (unhold s 2) 3 ∧ s1.base.held.contains 6 = false)
    ∧ (∃ (s : State), s.board.outside.contains 0 = false ∧ s.base.held.contains 6 = false ∧ ∃ s1, s1 = pulse { s with board := { s.board with outside := insertNat s.board.outside 0 } } 245)
    ∧ (∃ (s : State), s.board.outside.contains 1 = false ∧ s.base.held.contains 6 = false ∧ ∃ s1, s1 = pulse { s with board := { s.board with outside := insertNat s.board.outside 1 } } 245)
    ∧ (∃ (s : State), s.board.outside.contains 2 = false ∧ s.base.held.contains 6 = false ∧ ∃ s1, s1 = pulse { s with board := { s.board with outside := insertNat s.board.outside 2 } } 245)
    ∧ (∃ (s : State), s.base.held.contains 4 = true ∧ ∃ s1, s1 = unhold { s with board := { s.board with outside := eraseNat s.board.outside 0 } } 4 ∧ s1.base.held.contains 6 = false)
    ∧ (∃ (r : Fin 3), r ≠ 0) := by
  refine ⟨?_, ?_, ?_, ?_, ?_, ?_, ?_, ?_, ?_, ?_, ?_, ?_, ?_, ?_, ?_, ?_⟩
  · have k : ∀ (s : State), ((decide (s.base.held.contains 6 = false)) && (eqB (pulse (recordRail s 0xB false) 240) fun s1 => decide (starting s1 = false))) = true → s.base.held.contains 6 = false ∧ ∃ s1, s1 = pulse (recordRail s 0xB false) 240 ∧ starting s1 = false := by
      intro s h
      refine and_of h (fun h => of_decide_eq_true h) fun h => ?_
      refine eq_of h fun s1 h => ?_
      exact of_decide_eq_true h
    exact ⟨bt 7, k _ (by decide +kernel)⟩
  · have k : ∀ (s : State), ((decide (s.base.held.contains 6 = false)) && (eqB (pulse (recordRail s 0xB false) 240) fun s1 => decide (starting s1 = true))) = true → s.base.held.contains 6 = false ∧ ∃ s1, s1 = pulse (recordRail s 0xB false) 240 ∧ starting s1 = true := by
      intro s h
      refine and_of h (fun h => of_decide_eq_true h) fun h => ?_
      refine eq_of h fun s1 h => ?_
      exact of_decide_eq_true h
    exact ⟨bt 6, k _ (by decide +kernel)⟩
  · have k : ∀ (s : State), ((decide (s.base.held.contains 6 = false)) && (eqB (hold (resetBase (resetDevice s)) 6) fun s1 => true)) = true → s.base.held.contains 6 = false ∧ ∃ s1, s1 = hold (resetBase (resetDevice s)) 6 := by
      intro s h
      refine and_of h (fun h => of_decide_eq_true h) fun h => ?_
      obtain ⟨s1, h, -⟩ := eq_of (P := fun _ => True) h fun _ _ => trivial
      exact ⟨s1, h⟩
    exact ⟨bt 7, k _ (by decide +kernel)⟩
  · have k : ∀ (s : State) (rail : Fin 12) (high : Bool), ((decide (s.base.held = [])) && (eqB ({ s with board := { s.board with railsOut := insertNat s.board.railsOut rail.val } }) fun s0 => eqB (pulse (recordRail s0 rail.val high) 241) fun s1 => (decide (starting s1 = false)) && (decide (4 ≤ rail.val)))) = true → s.base.held = [] ∧ ∃ s0, s0 = { s with board := { s.board with railsOut := insertNat s.board.railsOut rail.val } } ∧ ∃ s1, s1 = pulse (recordRail s0 rail.val high) 241 ∧ starting s1 = false ∧ 4 ≤ rail.val := by
      intro s rail high h
      refine and_of h (fun h => of_decide_eq_true h) fun h => ?_
      refine eq_of h fun s0 h => ?_
      refine eq_of h fun s1 h => ?_
      refine and_of h (fun h => of_decide_eq_true h) fun h => ?_
      exact of_decide_eq_true h
    exact ⟨bt 7, 4, true, k _ _ _ (by decide +kernel)⟩
  · have k : ∀ (s : State) (rail : Fin 12) (high : Bool), ((decide (s.base.held = [])) && (eqB ({ s with board := { s.board with railsOut := insertNat s.board.railsOut rail.val } }) fun s0 => eqB (pulse (recordRail s0 rail.val high) 241) fun s1 => (decide (starting s1 = false)) && (decide (4 ≤ rail.val)))) = true → s.base.held = [] ∧ ∃ s0, s0 = { s with board := { s.board with railsOut := insertNat s.board.railsOut rail.val } } ∧ ∃ s1, s1 = pulse (recordRail s0 rail.val high) 241 ∧ starting s1 = false ∧ 4 ≤ rail.val := by
      intro s rail high h
      refine and_of h (fun h => of_decide_eq_true h) fun h => ?_
      refine eq_of h fun s0 h => ?_
      refine eq_of h fun s1 h => ?_
      refine and_of h (fun h => of_decide_eq_true h) fun h => ?_
      exact of_decide_eq_true h
    exact ⟨bt 7, 11, true, k _ _ _ (by decide +kernel)⟩
  · have k : ∀ (s : State) (rail : Fin 12) (high : Bool), ((decide (s.base.held = [])) && (eqB ({ s with board := { s.board with railsOut := insertNat s.board.railsOut rail.val } }) fun s0 => eqB (pulse (recordRail s0 rail.val high) 241) fun s1 => (decide (starting s1 = false)) && (decide (rail.val < 4)))) = true → s.base.held = [] ∧ ∃ s0, s0 = { s with board := { s.board with railsOut := insertNat s.board.railsOut rail.val } } ∧ ∃ s1, s1 = pulse (recordRail s0 rail.val high) 241 ∧ starting s1 = false ∧ rail.val < 4 := by
      intro s rail high h
      refine and_of h (fun h => of_decide_eq_true h) fun h => ?_
      refine eq_of h fun s0 h => ?_
      refine eq_of h fun s1 h => ?_
      refine and_of h (fun h => of_decide_eq_true h) fun h => ?_
      exact of_decide_eq_true h
    exact ⟨bt 7, 0, false, k _ _ _ (by decide +kernel)⟩
  · have k : ∀ (s : State) (rail : Fin 12) (high : Bool), ((decide (s.base.held = [])) && (eqB ({ s with board := { s.board with railsOut := insertNat s.board.railsOut rail.val } }) fun s0 => eqB (pulse (recordRail s0 rail.val high) 241) fun s1 => (decide (starting s1 = false)) && (decide (rail.val < 4)))) = true → s.base.held = [] ∧ ∃ s0, s0 = { s with board := { s.board with railsOut := insertNat s.board.railsOut rail.val } } ∧ ∃ s1, s1 = pulse (recordRail s0 rail.val high) 241 ∧ starting s1 = false ∧ rail.val < 4 := by
      intro s rail high h
      refine and_of h (fun h => of_decide_eq_true h) fun h => ?_
      refine eq_of h fun s0 h => ?_
      refine eq_of h fun s1 h => ?_
      refine and_of h (fun h => of_decide_eq_true h) fun h => ?_
      exact of_decide_eq_true h
    exact ⟨bt 7, 3, false, k _ _ _ (by decide +kernel)⟩
  · have k : ∀ (s : State) (rail : Fin 12), ((decide (4 ≤ rail.val)) && ((decide (rail.val < 11)) && ((decide (s.board.railsOut.contains rail.val = true)) && (decide (s.base.held.contains 6 = false))))) = true → 4 ≤ rail.val ∧ rail.val < 11 ∧ s.board.railsOut.contains rail.val = true ∧ s.base.held.contains 6 = false := by
      intro s rail h
      refine and_of h (fun h => of_decide_eq_true h) fun h => ?_
      refine and_of h (fun h => of_decide_eq_true h) fun h => ?_
      refine and_of h (fun h => of_decide_eq_true h) fun h => ?_
      exact of_decide_eq_true h
    exact ⟨{ bt 7 with board := { (bt 7).board with railsOut := [4] } }, 4, k _ _ (by decide +kernel)⟩
  · have k : ∀ (s : State) (rail : Fin 12), ((decide (4 ≤ rail.val)) && ((decide (rail.val < 11)) && ((decide (s.board.railsOut.contains rail.val = true)) && (decide (s.base.held.contains 6 = false))))) = true → 4 ≤ rail.val ∧ rail.val < 11 ∧ s.board.railsOut.contains rail.val = true ∧ s.base.held.contains 6 = false := by
      intro s rail h
      refine and_of h (fun h => of_decide_eq_true h) fun h => ?_
      refine and_of h (fun h => of_decide_eq_true h) fun h => ?_
      refine and_of h (fun h => of_decide_eq_true h) fun h => ?_
      exact of_decide_eq_true h
    exact ⟨{ bt 7 with board := { (bt 7).board with railsOut := [10] } }, 10, k _ _ (by decide +kernel)⟩
  · have k : ∀ (s : State), ((decide ((s.base.held.contains 2 = true ∨ s.base.held.contains 3 = true))) && (eqB (unhold (unhold s 2) 3) fun s1 => decide (s1.base.held.contains 6 = false))) = true → ((s.base.held.contains 2 = true ∨ s.base.held.contains 3 = true)) ∧ ∃ s1, s1 = unhold (unhold s 2) 3 ∧ s1.base.held.contains 6 = false := by
      intro s h
      refine and_of h (fun h => of_decide_eq_true h) fun h => ?_
      refine eq_of h fun s1 h => ?_
      exact of_decide_eq_true h
    exact ⟨held0 [2], k _ (by decide +kernel)⟩
  · have k : ∀ (s : State), ((decide ((s.base.held.contains 2 = true ∨ s.base.held.contains 3 = true))) && (eqB (unhold (unhold s 2) 3) fun s1 => decide (s1.base.held.contains 6 = false))) = true → ((s.base.held.contains 2 = true ∨ s.base.held.contains 3 = true)) ∧ ∃ s1, s1 = unhold (unhold s 2) 3 ∧ s1.base.held.contains 6 = false := by
      intro s h
      refine and_of h (fun h => of_decide_eq_true h) fun h => ?_
      refine eq_of h fun s1 h => ?_
      exact of_decide_eq_true h
    exact ⟨held0 [3], k _ (by decide +kernel)⟩
  · have k : ∀ (s : State), ((decide (s.board.outside.contains 0 = false)) && ((decide (s.base.held.contains 6 = false)) && (eqB (pulse { s with board := { s.board with outside := insertNat s.board.outside 0 } } 245) fun s1 => true))) = true → s.board.outside.contains 0 = false ∧ s.base.held.contains 6 = false ∧ ∃ s1, s1 = pulse { s with board := { s.board with outside := insertNat s.board.outside 0 } } 245 := by
      intro s h
      refine and_of h (fun h => of_decide_eq_true h) fun h => ?_
      refine and_of h (fun h => of_decide_eq_true h) fun h => ?_
      obtain ⟨s1, h, -⟩ := eq_of (P := fun _ => True) h fun _ _ => trivial
      exact ⟨s1, h⟩
    exact ⟨bt 7, k _ (by decide +kernel)⟩
  · have k : ∀ (s : State), ((decide (s.board.outside.contains 1 = false)) && ((decide (s.base.held.contains 6 = false)) && (eqB (pulse { s with board := { s.board with outside := insertNat s.board.outside 1 } } 245) fun s1 => true))) = true → s.board.outside.contains 1 = false ∧ s.base.held.contains 6 = false ∧ ∃ s1, s1 = pulse { s with board := { s.board with outside := insertNat s.board.outside 1 } } 245 := by
      intro s h
      refine and_of h (fun h => of_decide_eq_true h) fun h => ?_
      refine and_of h (fun h => of_decide_eq_true h) fun h => ?_
      obtain ⟨s1, h, -⟩ := eq_of (P := fun _ => True) h fun _ _ => trivial
      exact ⟨s1, h⟩
    exact ⟨bt 7, k _ (by decide +kernel)⟩
  · have k : ∀ (s : State), ((decide (s.board.outside.contains 2 = false)) && ((decide (s.base.held.contains 6 = false)) && (eqB (pulse { s with board := { s.board with outside := insertNat s.board.outside 2 } } 245) fun s1 => true))) = true → s.board.outside.contains 2 = false ∧ s.base.held.contains 6 = false ∧ ∃ s1, s1 = pulse { s with board := { s.board with outside := insertNat s.board.outside 2 } } 245 := by
      intro s h
      refine and_of h (fun h => of_decide_eq_true h) fun h => ?_
      refine and_of h (fun h => of_decide_eq_true h) fun h => ?_
      obtain ⟨s1, h, -⟩ := eq_of (P := fun _ => True) h fun _ _ => trivial
      exact ⟨s1, h⟩
    exact ⟨bt 7, k _ (by decide +kernel)⟩
  · have k : ∀ (s : State), ((decide (s.base.held.contains 4 = true)) && (eqB (unhold { s with board := { s.board with outside := eraseNat s.board.outside 0 } } 4) fun s1 => decide (s1.base.held.contains 6 = false))) = true → s.base.held.contains 4 = true ∧ ∃ s1, s1 = unhold { s with board := { s.board with outside := eraseNat s.board.outside 0 } } 4 ∧ s1.base.held.contains 6 = false := by
      intro s h
      refine and_of h (fun h => of_decide_eq_true h) fun h => ?_
      refine eq_of h fun s1 h => ?_
      exact of_decide_eq_true h
    exact ⟨held0 [4], k _ (by decide +kernel)⟩
  · have k : ∀ (r : Fin 3), (decide (r ≠ 0)) = true → r ≠ 0 := by
      intro r h
      exact of_decide_eq_true h
    exact ⟨2, k _ (by decide +kernel)⟩

/-- The hypotheses of Obligations.ClocksComplete are met. -/
theorem witness_ClocksComplete :
    (∃ (s : State) (q : QuadId) (w : SetupWrite), mayReach s w.agent .cfgQclk q.val = true ∧ 400 ≤ bitsOf (written s .cfgQclk q.val w) 11 0 ∧ bitsOf (written s .cfgQclk q.val w) 11 0 ≤ 2000 ∧ ∃ s1, s1 = storeSetup s .cfgQclk q.val w ∧ fmaxReq s1 q.val ≤ clockOf s1 q.val)
    ∧ (∃ (s : State) (q : QuadId) (w : SetupWrite), mayReach s w.agent .cfgQclk q.val = true ∧ 400 ≤ bitsOf (written s .cfgQclk q.val w) 11 0 ∧ bitsOf (written s .cfgQclk q.val w) 11 0 ≤ 2000 ∧ ∃ s1, s1 = storeSetup s .cfgQclk q.val w ∧ clockOf s1 q.val < fmaxReq s1 q.val ∧ voltage s1 q.val < voltageCode (fmaxReq s1 q.val) (gbOf s1 q.val))
    ∧ (∃ (s : State) (q : QuadId), clockOf s q.val < fmaxReq s q.val ∧ s.fld .cfgQclk q.val 43 40 = 0 ∧ s.board.settling.contains q.val = false ∧ voltageCode (fmaxReq s q.val) (gbOf s q.val) ≤ voltage s q.val)
    ∧ (∃ (s : State) (q : QuadId), fmaxReq s q.val + 100 < clockOf s q.val)
    ∧ (∃ (s : State) (q : QuadId), fmaxReq s q.val < clockOf s q.val ∧ clockOf s q.val ≤ fmaxReq s q.val + 100)
    ∧ (∃ (s : State) (q : QuadId), fmaxReq s q.val < clockOf s q.val ∧ clockOf s q.val ≤ fmaxReq s q.val + 100)
    ∧ (∃ (s : State) (q : QuadId), s.base.held = [] ∧ ∃ gb, gb = gbOf s q.val ∧ gb ≠ 6 ∧ voltage s q.val ≠ 25 ∧ ∃ s1, s1 = State.setF { s with crag := { s.crag with gb := Tbl.put s.crag.gb q.val (gb + 1) } } .cfgQclk q.val 51 48 (gb + 1))
    ∧ (∃ (s : State) (q : QuadId), s.base.held = [] ∧ ((gbOf s q.val = 6 ∨ voltage s q.val = 25))) := by
  refine ⟨?_, ?_, ?_, ?_, ?_, ?_, ?_, ?_⟩
  · have k : ∀ (s : State) (q : QuadId) (w : SetupWrite), ((decide (mayReach s w.agent .cfgQclk q.val = true)) && ((decide (400 ≤ bitsOf (written s .cfgQclk q.val w) 11 0)) && ((decide (bitsOf (written s .cfgQclk q.val w) 11 0 ≤ 2000)) && (eqB (storeSetup s .cfgQclk q.val w) fun s1 => decide (fmaxReq s1 q.val ≤ clockOf s1 q.val))))) = true → mayReach s w.agent .cfgQclk q.val = true ∧ 400 ≤ bitsOf (written s .cfgQclk q.val w) 11 0 ∧ bitsOf (written s .cfgQclk q.val w) 11 0 ≤ 2000 ∧ ∃ s1, s1 = storeSetup s .cfgQclk q.val w ∧ fmaxReq s1 q.val ≤ clockOf s1 q.val := by
      intro s q w h
      refine and_of h (fun h => of_decide_eq_true h) fun h => ?_
      refine and_of h (fun h => of_decide_eq_true h) fun h => ?_
      refine and_of h (fun h => of_decide_eq_true h) fun h => ?_
      refine eq_of h fun s1 h => ?_
      exact of_decide_eq_true h
    exact ⟨qd 400 400 0, 3, sw 400, k _ _ _ (by decide +kernel)⟩
  · have k : ∀ (s : State) (q : QuadId) (w : SetupWrite), ((decide (mayReach s w.agent .cfgQclk q.val = true)) && ((decide (400 ≤ bitsOf (written s .cfgQclk q.val w) 11 0)) && ((decide (bitsOf (written s .cfgQclk q.val w) 11 0 ≤ 2000)) && (eqB (storeSetup s .cfgQclk q.val w) fun s1 => (decide (clockOf s1 q.val < fmaxReq s1 q.val)) && (decide (voltage s1 q.val < voltageCode (fmaxReq s1 q.val) (gbOf s1 q.val))))))) = true → mayReach s w.agent .cfgQclk q.val = true ∧ 400 ≤ bitsOf (written s .cfgQclk q.val w) 11 0 ∧ bitsOf (written s .cfgQclk q.val w) 11 0 ≤ 2000 ∧ ∃ s1, s1 = storeSetup s .cfgQclk q.val w ∧ clockOf s1 q.val < fmaxReq s1 q.val ∧ voltage s1 q.val < voltageCode (fmaxReq s1 q.val) (gbOf s1 q.val) := by
      intro s q w h
      refine and_of h (fun h => of_decide_eq_true h) fun h => ?_
      refine and_of h (fun h => of_decide_eq_true h) fun h => ?_
      refine and_of h (fun h => of_decide_eq_true h) fun h => ?_
      refine eq_of h fun s1 h => ?_
      refine and_of h (fun h => of_decide_eq_true h) fun h => ?_
      exact of_decide_eq_true h
    exact ⟨qd 400 400 0, 3, sw 2000, k _ _ _ (by decide +kernel)⟩
  · have k : ∀ (s : State) (q : QuadId), ((decide (clockOf s q.val < fmaxReq s q.val)) && ((decide (s.fld .cfgQclk q.val 43 40 = 0)) && ((decide (s.board.settling.contains q.val = false)) && (decide (voltageCode (fmaxReq s q.val) (gbOf s q.val) ≤ voltage s q.val))))) = true → clockOf s q.val < fmaxReq s q.val ∧ s.fld .cfgQclk q.val 43 40 = 0 ∧ s.board.settling.contains q.val = false ∧ voltageCode (fmaxReq s q.val) (gbOf s q.val) ≤ voltage s q.val := by
      intro s q h
      refine and_of h (fun h => of_decide_eq_true h) fun h => ?_
      refine and_of h (fun h => of_decide_eq_true h) fun h => ?_
      refine and_of h (fun h => of_decide_eq_true h) fun h => ?_
      exact of_decide_eq_true h
    exact ⟨qd 2000 1900 31, 3, k _ _ (by decide +kernel)⟩
  · have k : ∀ (s : State) (q : QuadId), (decide (fmaxReq s q.val + 100 < clockOf s q.val)) = true → fmaxReq s q.val + 100 < clockOf s q.val := by
      intro s q h
      exact of_decide_eq_true h
    exact ⟨qd 400 501 0, 3, k _ _ (by decide +kernel)⟩
  · have k : ∀ (s : State) (q : QuadId), ((decide (fmaxReq s q.val < clockOf s q.val)) && (decide (clockOf s q.val ≤ fmaxReq s q.val + 100))) = true → fmaxReq s q.val < clockOf s q.val ∧ clockOf s q.val ≤ fmaxReq s q.val + 100 := by
      intro s q h
      refine and_of h (fun h => of_decide_eq_true h) fun h => ?_
      exact of_decide_eq_true h
    exact ⟨qd 400 401 0, 3, k _ _ (by decide +kernel)⟩
  · have k : ∀ (s : State) (q : QuadId), ((decide (fmaxReq s q.val < clockOf s q.val)) && (decide (clockOf s q.val ≤ fmaxReq s q.val + 100))) = true → fmaxReq s q.val < clockOf s q.val ∧ clockOf s q.val ≤ fmaxReq s q.val + 100 := by
      intro s q h
      refine and_of h (fun h => of_decide_eq_true h) fun h => ?_
      exact of_decide_eq_true h
    exact ⟨qd 400 500 0, 3, k _ _ (by decide +kernel)⟩
  · have k : ∀ (s : State) (q : QuadId), ((decide (s.base.held = [])) && (eqB (gbOf s q.val) fun gb => (decide (gb ≠ 6)) && ((decide (voltage s q.val ≠ 25)) && (eqB (State.setF { s with crag := { s.crag with gb := Tbl.put s.crag.gb q.val (gb + 1) } } .cfgQclk q.val 51 48 (gb + 1)) fun s1 => true)))) = true → s.base.held = [] ∧ ∃ gb, gb = gbOf s q.val ∧ gb ≠ 6 ∧ voltage s q.val ≠ 25 ∧ ∃ s1, s1 = State.setF { s with crag := { s.crag with gb := Tbl.put s.crag.gb q.val (gb + 1) } } .cfgQclk q.val 51 48 (gb + 1) := by
      intro s q h
      refine and_of h (fun h => of_decide_eq_true h) fun h => ?_
      refine eq_of h fun gb h => ?_
      refine and_of h (fun h => of_decide_eq_true h) fun h => ?_
      refine and_of h (fun h => of_decide_eq_true h) fun h => ?_
      obtain ⟨s1, h, -⟩ := eq_of (P := fun _ => True) h fun _ _ => trivial
      exact ⟨s1, h⟩
    exact ⟨qd 400 400 24, 3, k _ _ (by decide +kernel)⟩
  · have k : ∀ (s : State) (q : QuadId), ((decide (s.base.held = [])) && (decide ((gbOf s q.val = 6 ∨ voltage s q.val = 25)))) = true → s.base.held = [] ∧ ((gbOf s q.val = 6 ∨ voltage s q.val = 25)) := by
      intro s q h
      refine and_of h (fun h => of_decide_eq_true h) fun h => ?_
      exact of_decide_eq_true h
    exact ⟨qd 400 400 25, 3, k _ _ (by decide +kernel)⟩

/-- The hypotheses of part 1 of Obligations.TemperaturesAndTargetsComplete are met. -/
theorem witness_TemperaturesComplete :
    (∃ (s : State) (rs : List Int), rs.length = 64 ∧ s.base.held = [] ∧ ((∀ r ∈ rs, -70 ≤ r ∧ r ≤ 150)))
    ∧ (∃ (s : State) (rs : List Int), rs.length = 64 ∧ s.base.held = [] ∧ ((∀ r ∈ rs, -70 ≤ r ∧ r ≤ 150)))
    ∧ (∃ (s : State) (rs : List Int) (r : Int), rs.length = 64 ∧ s.base.held = [] ∧ r ∈ rs ∧ ((r < -70 ∨ 150 < r)))
    ∧ (∃ (s : State) (rs : List Int) (r : Int), rs.length = 64 ∧ s.base.held = [] ∧ r ∈ rs ∧ ((r < -70 ∨ 150 < r)))
    ∧ (∃ (s : State) (q : QuadId), 135 ≤ hotOf s q.val ∧ clockOf s q.val = 400 ∧ s.base.held.contains 6 = false ∧ ∃ s1, s1 = recordRail s 0xF true) := by
  refine ⟨?_, ?_, ?_, ?_, ?_⟩
  · have k : ∀ (s : State) (rs : List Int), ((decide (rs.length = 64)) && ((decide (s.base.held = [])) && (decide ((∀ r ∈ rs, -70 ≤ r ∧ r ≤ 150))))) = true → rs.length = 64 ∧ s.base.held = [] ∧ ((∀ r ∈ rs, -70 ≤ r ∧ r ≤ 150)) := by
      intro s rs h
      refine and_of h (fun h => of_decide_eq_true h) fun h => ?_
      refine and_of h (fun h => of_decide_eq_true h) fun h => ?_
      exact of_decide_eq_true h
    exact ⟨bt 7, List.replicate 64 150, k _ _ (by decide +kernel)⟩
  · have k : ∀ (s : State) (rs : List Int), ((decide (rs.length = 64)) && ((decide (s.base.held = [])) && (decide ((∀ r ∈ rs, -70 ≤ r ∧ r ≤ 150))))) = true → rs.length = 64 ∧ s.base.held = [] ∧ ((∀ r ∈ rs, -70 ≤ r ∧ r ≤ 150)) := by
      intro s rs h
      refine and_of h (fun h => of_decide_eq_true h) fun h => ?_
      refine and_of h (fun h => of_decide_eq_true h) fun h => ?_
      exact of_decide_eq_true h
    exact ⟨bt 7, List.replicate 64 (-70), k _ _ (by decide +kernel)⟩
  · have k : ∀ (s : State) (rs : List Int) (r : Int), ((decide (rs.length = 64)) && ((decide (s.base.held = [])) && ((decide (r ∈ rs)) && (decide ((r < -70 ∨ 150 < r)))))) = true → rs.length = 64 ∧ s.base.held = [] ∧ r ∈ rs ∧ ((r < -70 ∨ 150 < r)) := by
      intro s rs r h
      refine and_of h (fun h => of_decide_eq_true h) fun h => ?_
      refine and_of h (fun h => of_decide_eq_true h) fun h => ?_
      refine and_of h (fun h => of_decide_eq_true h) fun h => ?_
      exact of_decide_eq_true h
    exact ⟨bt 7, List.replicate 64 151, 151, k _ _ _ (by decide +kernel)⟩
  · have k : ∀ (s : State) (rs : List Int) (r : Int), ((decide (rs.length = 64)) && ((decide (s.base.held = [])) && ((decide (r ∈ rs)) && (decide ((r < -70 ∨ 150 < r)))))) = true → rs.length = 64 ∧ s.base.held = [] ∧ r ∈ rs ∧ ((r < -70 ∨ 150 < r)) := by
      intro s rs r h
      refine and_of h (fun h => of_decide_eq_true h) fun h => ?_
      refine and_of h (fun h => of_decide_eq_true h) fun h => ?_
      refine and_of h (fun h => of_decide_eq_true h) fun h => ?_
      exact of_decide_eq_true h
    exact ⟨bt 7, List.replicate 64 (-71), -71, k _ _ _ (by decide +kernel)⟩
  · have k : ∀ (s : State) (q : QuadId), ((decide (135 ≤ hotOf s q.val)) && ((decide (clockOf s q.val = 400)) && ((decide (s.base.held.contains 6 = false)) && (eqB (recordRail s 0xF true) fun s1 => true)))) = true → 135 ≤ hotOf s q.val ∧ clockOf s q.val = 400 ∧ s.base.held.contains 6 = false ∧ ∃ s1, s1 = recordRail s 0xF true := by
      intro s q h
      refine and_of h (fun h => of_decide_eq_true h) fun h => ?_
      refine and_of h (fun h => of_decide_eq_true h) fun h => ?_
      refine and_of h (fun h => of_decide_eq_true h) fun h => ?_
      obtain ⟨s1, h, -⟩ := eq_of (P := fun _ => True) h fun _ _ => trivial
      exact ⟨s1, h⟩
    exact ⟨{ qd 400 400 0 with board := { (qd 400 400 0).board with hot := [(3, 135)] } }, 3, k _ _ (by decide +kernel)⟩

/-- The hypotheses of part 2 of Obligations.TemperaturesAndTargetsComplete are met. -/
theorem witness_TargetsComplete :
    (∃ (s : State), i3cAnswers s = true)
    ∧ (∃ (s : State), i3cAnswers s = true)
    ∧ (∃ (s : State), i3cAnswers s = true)
    ∧ (∃ (s : State), i3cAnswers s = true)
    ∧ (∃ (s : State), s.base.held.contains 0 = true ∧ s.base.held.contains 6 = false ∧ s.board.railsOut = [])
    ∧ (∃ (s : State) (i : JtagInstr), s.base.held.contains 0 = false ∧ i ≠ .idcode) := by
  refine ⟨?_, ?_, ?_, ?_, ?_, ?_⟩
  · have k : ∀ (s : State), (decide (i3cAnswers s = true)) = true → i3cAnswers s = true := by
      intro s h
      exact of_decide_eq_true h
    exact ⟨{ bt 7 with board := { (bt 7).board with i3cAddress := some 8 } }, k _ (by decide +kernel)⟩
  · have k : ∀ (s : State), (decide (i3cAnswers s = true)) = true → i3cAnswers s = true := by
      intro s h
      exact of_decide_eq_true h
    exact ⟨{ bt 7 with board := { (bt 7).board with i3cAddress := some 8 } }, k _ (by decide +kernel)⟩
  · have k : ∀ (s : State), (decide (i3cAnswers s = true)) = true → i3cAnswers s = true := by
      intro s h
      exact of_decide_eq_true h
    exact ⟨{ bt 7 with board := { (bt 7).board with i3cAddress := some 8 } }, k _ (by decide +kernel)⟩
  · have k : ∀ (s : State), (decide (i3cAnswers s = true)) = true → i3cAnswers s = true := by
      intro s h
      exact of_decide_eq_true h
    exact ⟨{ bt 7 with board := { (bt 7).board with i3cAddress := some 8 } }, k _ (by decide +kernel)⟩
  · have k : ∀ (s : State), ((decide (s.base.held.contains 0 = true)) && ((decide (s.base.held.contains 6 = false)) && (decide (s.board.railsOut = [])))) = true → s.base.held.contains 0 = true ∧ s.base.held.contains 6 = false ∧ s.board.railsOut = [] := by
      intro s h
      refine and_of h (fun h => of_decide_eq_true h) fun h => ?_
      refine and_of h (fun h => of_decide_eq_true h) fun h => ?_
      exact of_decide_eq_true h
    exact ⟨held0 [0], k _ (by decide +kernel)⟩
  · have k : ∀ (s : State) (i : JtagInstr), ((decide (s.base.held.contains 0 = false)) && (decide (i ≠ .idcode))) = true → s.base.held.contains 0 = false ∧ i ≠ .idcode := by
      intro s i h
      refine and_of h (fun h => of_decide_eq_true h) fun h => ?_
      exact of_decide_eq_true h
    exact ⟨bt 7, .bypass, k _ _ (by decide +kernel)⟩

end Sys2Proof.Tests
end

/-! PROOFS of the scope family (spec/00_scope.md): what a write of physical memory changes, and that every step keeps
memory in its canonical form. -/

namespace Sys2Proof.Machine

open Sys2Proof

/-! ### Little-endian bytes (R5) -/

@[simp] theorem length_toBytes (n v : Nat) : (toBytes n v).length = n := by
  induction n generalizing v with
  | zero => rfl
  | succ n ih => simp [toBytes, ih]

@[simp] theorem length_bytesOfWord (w : Word) : (bytesOfWord w).length = 8 := length_toBytes 8 _

/-- Byte i of a number is the number shifted right by i bytes, cut to one byte. -/
theorem getElem_toBytes {n i : Nat} (v : Nat) (h : i < (toBytes n v).length) :
    (toBytes n v)[i] = BitVec.ofNat 8 (v / 256 ^ i) := by
  induction n generalizing v i with
  | zero => simp [toBytes] at h
  | succ n ih =>
    cases i with
    | zero => simp [toBytes]
    | succ i => simp [toBytes, ih, Nat.div_div_eq_div_mul, Nat.pow_succ']

/-- A number survives in n bytes modulo 256 ^ n. -/
theorem ofBytes_toBytes (n v : Nat) : ofBytes (toBytes n v) = v % 256 ^ n := by
  induction n generalizing v with
  | zero => simp [toBytes, ofBytes, Nat.mod_one]
  | succ n ih => rw [toBytes, ofBytes, ih, Nat.pow_succ', Nat.mod_mul]; rfl

theorem wordOfBytes_bytesOfWord (w : Word) : wordOfBytes (bytesOfWord w) = w := by
  have hw : w.toNat % 256 ^ 8 = w.toNat := Nat.mod_eq_of_lt w.isLt
  rw [wordOfBytes, bytesOfWord, ofBytes_toBytes, hw, BitVec.ofNat_toNat, BitVec.setWidth_eq]

/-- Byte k of a word holds its bits [8k+7:8k]. -/
theorem getElem_bytesOfWord (w : Word) {k : Nat} (h : k < (bytesOfWord w).length) :
    (bytesOfWord w)[k] = BitVec.ofNat 8 (bitsOf w (8 * k + 7) (8 * k)) := by
  have hw : 8 * k + 7 + 1 - 8 * k = 8 := by omega
  simp only [bytesOfWord, getElem_toBytes, bitsOf, hw, Nat.pow_mul, Nat.reducePow]
  simp [← BitVec.toNat_inj]

/-! ### Spans of bytes -/

@[simp] theorem length_readBytes (s : State) (a n : Nat) : (readBytes s a n).length = n := by
  induction n generalizing a with
  | zero => rfl
  | succ n ih => simp [readBytes, ih]

theorem getElem_readBytes (s : State) (a : Nat) {n i : Nat} (h : i < (readBytes s a n).length) :
    (readBytes s a n)[i] = readByte s (a + i) := by
  induction n generalizing a i with
  | zero => simp [readBytes] at h
  | succ n ih =>
    cases i with
    | zero => simp [readBytes]
    | succ i => simp only [readBytes, List.getElem_cons_succ, ih, Nat.add_right_comm a 1 i, Nat.add_assoc]

/-- A written span reads back as a whole. -/
theorem readBytes_of_written (s : State) (a : Nat) (bs : List Byte) :
    readBytes (writeBytes s a bs) a bs.length = bs := by
  refine List.ext_getElem (by simp) fun i _ hi => ?_
  rw [getElem_readBytes, readByte_writeBytes_in _ _ _ _ hi]

/-- A write may be cut in two at any place. -/
theorem writeBytes_cut (s : State) (a n : Nat) (bs : List Byte) :
    writeBytes (writeBytes s a (bs.take n)) (a + n) (bs.drop n) = writeBytes s a bs := by
  induction bs generalizing s a n with
  | nil => simp [writeBytes]
  | cons b bs ih =>
    cases n with
    | zero => rfl
    | succ n =>
      rw [List.take_succ_cons, List.drop_succ_cons, writeBytes, writeBytes, ← ih _ _ n, Nat.add_assoc, Nat.add_comm 1 n]

/-! ### What a write of bytes leaves alone -/

@[simp] theorem writeBytes_poison (s : State) (a : Nat) (bs : List Byte) : (writeBytes s a bs).poison = s.poison := by
  induction bs generalizing s a with
  | nil => rfl
  | cons b bs ih => exact ih _ _

@[simp] theorem writeBytes_deep (s : State) (a : Nat) (bs : List Byte) : (writeBytes s a bs).deep = s.deep := by
  induction bs generalizing s a with
  | nil => rfl
  | cons b bs ih => exact ih _ _

@[simp] theorem counterFailed_writeBytes (s : State) (a : Nat) (bs : List Byte) (x : Nat) :
    counterFailed (writeBytes s a bs) x = counterFailed s x := by simp only [counterFailed, writeBytes_deep]

@[simp] theorem poisoned_writeBytes (s : State) (a : Nat) (bs : List Byte) (x : Nat) :
    poisoned (writeBytes s a bs) x = poisoned s x := by
  simp only [poisoned, writeBytes_poison, counterFailed_writeBytes]

@[simp] theorem readByte_clearPoison (s : State) (a x : Nat) : readByte (clearPoison s a) x = readByte s x := rfl

@[simp] theorem counterFailed_clearPoison (s : State) (a x : Nat) :
    counterFailed (clearPoison s a) x = counterFailed s x := rfl

/-! ### One granule (R80) -/

/-- A granule takes its bytes when it is not poisoned. -/
theorem writeGranule_of_clean {s : State} {a : Nat} (bs : List Byte) (h : poisoned s a = false) :
    writeGranule s a bs = (writeBytes s a bs, false) := by
  have hc : counterFailed s a = false := (Bool.or_eq_false_iff.mp h).2
  simp [writeGranule, hc, h]

/-- A poisoned granule refuses every write but that of the whole granule. -/
theorem writeGranule_of_poisoned {s : State} {a : Nat} {bs : List Byte} (h : poisoned s a = true)
    (hp : ¬ (a % 16 = 0 ∧ bs.length = 16)) : writeGranule s a bs = (s, true) := by
  cases hc : counterFailed s a with
  | true => simp [writeGranule, hc]
  | false => simp [writeGranule, hc, h, hp]

/-- The write of a whole poisoned granule heals it, unless its counter line failed. -/
theorem writeGranule_of_healed {s : State} {a : Nat} {bs : List Byte} (hc : counterFailed s a = false)
    (h : poisoned s a = true) (ha : a % 16 = 0) (hl : bs.length = 16) :
    writeGranule s a bs = (clearPoison (writeBytes s a bs) a, false) := by
  simp [writeGranule, hc, h, ha, hl]

/-- Poison that no failed counter line makes ends when it is cleared. -/
theorem poisoned_clearPoison_same {s : State} {a : Nat} (h : counterFailed s a = false) :
    poisoned (clearPoison s a) a = false := by
  rw [poisoned, counterFailed_clearPoison, h, Bool.or_false]
  simp [clearPoison, eraseNat]

theorem poisoned_writeGranule_whole {s : State} {a : Nat} {bs : List Byte} (hc : counterFailed s a = false)
    (ha : a % 16 = 0) (hl : bs.length = 16) : poisoned (writeGranule s a bs).1 a = false := by
  cases h : poisoned s a with
  | false => simp [writeGranule_of_clean bs h, h]
  | true => simp [writeGranule_of_healed hc h ha hl, poisoned_clearPoison_same, hc]

theorem readByte_writeGranule_out (s : State) {a x : Nat} {bs : List Byte} (h : x < a ∨ a + bs.length ≤ x) :
    readByte (writeGranule s a bs).1 x = readByte s x := by
  have hw := readByte_writeBytes_out s a bs x h
  unfold writeGranule
  split_ifs <;> simp [hw]

/-! ### A span of granules (R80) -/

theorem readByte_writeSpanF_out (f : Nat) (s : State) (a : Nat) (bs : List Byte) (x : Nat)
    (h : x < a ∨ a + bs.length ≤ x) : readByte (writeSpanF f s a bs).1 x = readByte s x := by
  induction f generalizing s a bs with
  | zero => rfl
  | succ f ih =>
    unfold writeSpanF
    split
    · rfl
    · have hrest : x < a + (16 - a % 16) ∨ a + (16 - a % 16) + (bs.drop (16 - a % 16)).length ≤ x := by
        simp only [List.length_drop]; omega
      have hfirst : x < a ∨ a + (bs.take (16 - a % 16)).length ≤ x := by
        simp only [List.length_take]; omega
      exact (ih _ _ _ hrest).trans (readByte_writeGranule_out s hfirst)

/-- Where no byte of the span is poisoned, the span is written whole; fuel beyond its length suffices. -/
theorem writeSpanF_of_clean {f : Nat} {s : State} {a : Nat} {bs : List Byte} (hf : bs.length < f)
    (h : ∀ i < bs.length, poisoned s (a + i) = false) : writeSpanF f s a bs = (writeBytes s a bs, false) := by
  induction f generalizing s a bs with
  | zero => omega
  | succ f ih =>
    cases bs with
    | nil => rfl
    | cons b bs =>
      have hfirst : poisoned s a = false := h 0 (Nat.succ_pos _)
      have hrest : ∀ i < ((b :: bs).drop (16 - a % 16)).length,
          poisoned (writeBytes s a ((b :: bs).take (16 - a % 16))) (a + (16 - a % 16) + i) = false := by
        intro i hi
        rw [poisoned_writeBytes, Nat.add_assoc]
        exact h _ (by simp only [List.length_drop] at hi; omega)
      have hlen : ((b :: bs).drop (16 - a % 16)).length < f := by
        simp only [List.length_drop, List.length_cons] at hf ⊢; omega
      simp only [writeSpanF, List.isEmpty_cons, Bool.false_eq_true, if_false,
        writeGranule_of_clean _ hfirst, ih hlen hrest, writeBytes_cut, Bool.or_self]

/-- The granules of a span without poison are not poisoned. -/
theorem poisoned_eq_false_of_spanPoisoned {s : State} {a n i : Nat} (h : spanPoisoned s a n = false) (hi : i < n) :
    poisoned s (a + i) = false := by
  simp only [spanPoisoned, Bool.or_eq_false_iff, List.any_eq_false, Bool.and_eq_true, decide_eq_true_eq] at h
  obtain ⟨hp, hd⟩ := h
  have hlisted : s.poison.contains ((a + i) / 16) = false := by
    rw [List.contains_eq_any_beq, List.any_eq_false]
    intro g hg e
    have : (a + i) / 16 = g := by simpa using e
    exact hp g hg (by omega)
  have hcounter : counterFailed s (a + i) = false := by
    simp only [counterFailed, List.any_eq_false, List.any_eq_true, Bool.and_eq_true, decide_eq_true_eq]
    rintro e he ⟨x, hx, h1, h2⟩
    exact hd e he (List.any_eq_true.mpr ⟨x, hx, by simp only [Bool.and_eq_true, decide_eq_true_eq]; omega⟩)
  rw [poisoned, hlisted, hcounter, Bool.or_self]

theorem writeSpan_of_clean {s : State} {a : Nat} {bs : List Byte} (h : spanPoisoned s a bs.length = false) :
    writeSpan s a bs = (writeBytes s a bs, false) :=
  writeSpanF_of_clean (Nat.lt_succ_self _) fun _ hi => poisoned_eq_false_of_spanPoisoned h hi

/-! ### Words (R5) -/

theorem readWord_writeWord_same (s : State) (a : Nat) (w : Word) : readWord (writeWord s a w) a = w := by
  have h := readBytes_of_written s a (bytesOfWord w)
  rw [length_bytesOfWord] at h
  rw [readWord, writeWord, h, wordOfBytes_bytesOfWord]

theorem readByte_writeWord (s : State) (a : Nat) (w : Word) {k : Nat} (hk : k < 8) :
    readByte (writeWord s a w) (a + k) = BitVec.ofNat 8 (bitsOf w (8 * k + 7) (8 * k)) := by
  have h : k < (bytesOfWord w).length := by rwa [length_bytesOfWord]
  rw [writeWord, readByte_writeBytes_in _ _ _ _ h, getElem_bytesOfWord]

/-! ### The statements -/

/-- Settles O4: each clause is a fact about single bytes, about one granule, or about the granules of a span in turn;
a span without poison is the plain write of its bytes. -/
theorem writesChangeTheirBytes : Obligations.WritesChangeTheirBytes := by
  refine ⟨fun s a b x => readByte_writeByte s a x b, readWord_writeWord_same,
    fun s a w k hk => readByte_writeWord s a w hk, fun s a bs x => readByte_writeSpanF_out _ s a bs x, ?_,
    fun s a bs => writeGranule_of_poisoned, fun s a bs => poisoned_writeGranule_whole⟩
  intro s a bs h
  rw [writeSpan_of_clean h]
  refine ⟨rfl, fun i b hb => ?_⟩
  obtain ⟨hi, rfl⟩ := List.getElem?_eq_some_iff.mp hb
  exact readByte_writeBytes_in s a bs i hi

/-- Settles O3: with nothing waiting the step idles; otherwise the front command is performed on a state with the same
memory, and every command keeps its form (`exec_keeps`, by cases on the command). -/
theorem everyStepKeepsMemoryCanonical : Obligations.EveryStepKeepsMemoryCanonical := by
  intro s t hC ht
  unfold step at ht
  split at ht
  case h_1 => cases ht; exact idle_keeps s hC
  case h_2 c rest _ => exact exec_keeps c { s with pending := rest } hC ht

end Sys2Proof.Machine

/-! PROOFS of the overview family (spec/01_overview.md): one step of the device, and the patrol, the row repairs and the
requests that wait. -/

namespace Sys2Proof.Machine

open Sys2Proof

/-! ### One step -/

theorem step_of_pending_cons {s : State} {c : Instr} {rest : List Instr} (h : s.pending = c :: rest) :
    step s = exec c { s with pending := rest } := by
  rw [step, h]

theorem step_of_pending_nil {s : State} (h : s.pending = []) : step s = .next (idle s) := by
  rw [step, h]

/-! ### Checks of a granule (R76, R79) -/

/-- The decoder finds nothing where no bit is wrong. -/
theorem judge_zero : judge 0 = (.clean, 0) := by
  have h : nibblesOf 0 = [] := by decide
  rw [judge, h]

theorem storageCheck_zero (s : State) (pa src : Nat) : storageCheck s pa src 0 = s := by
  simp only [storageCheck, judge_zero, findingError, spoil, if_true, ite_self]

theorem patrolChannel_zero (s : State) (q pa : Nat) : patrolChannel s q pa 0 = s := by
  simp only [patrolChannel, judge_zero, findingError, ite_self]

/-- The records and the source of a granule of a tile store (R82, R392). -/
theorem blockError_of_tile {s : State} {pa t : Nat} (e : CairnError) (ht : tileOfPa pa = some t) :
    blockError s pa e
      = pulse (logCairn s .cfgTserr .cfgTseaddr t pa e) (tileSource t (if e.kind == 3 then 15 else 14)) := by
  rw [blockError, ht]

theorem storageCheck_of_uncorrectable {s : State} {pa src : Nat} {f : Codeword} {e : CairnError}
    (hp : poisoned s pa = false) (he : findingError src (judge f).1 = some e) (hk : e.kind = 3) :
    storageCheck s pa src f = blockError (setPoison s pa) pa e := by
  simp [storageCheck, hp, he, hk]

/-! ### The patrol (R83) -/

/-- A patrol read that meets no error changes nothing. -/
theorem exec_patrolScrub_zero {s : State} {pa : Nat} (h : pa < physTop) : exec (.patrolScrub pa 0) s = .next s := by
  change execPatrolScrub pa 0 s = _
  rw [execPatrolScrub, if_neg (Nat.not_le.mpr h)]
  cases channelOfPa pa with
  | some q => simp only [patrolChannel_zero, ite_self]
  | none => simp only [storageCheck_zero, ite_self]

theorem exec_patrolScrub_tile {s : State} {pa : Nat} {f : Codeword} (h : pa < physTop) (ha : accessible s pa = true)
    (hc : channelOfPa pa = none) : exec (.patrolScrub pa f) s = .next (storageCheck s pa 1 f) := by
  change execPatrolScrub pa f s = _
  rw [execPatrolScrub, if_neg (Nat.not_le.mpr h), ha, hc]; rfl

theorem exec_patrolScrub_uncorrectable {s : State} {pa t : Nat} {f : Codeword} {e : CairnError} (h : pa < physTop)
    (ha : accessible s pa = true) (hp : poisoned s pa = false) (ht : tileOfPa pa = some t) (hc : channelOfPa pa = none)
    (he : findingError 1 (judge f).1 = some e) (hk : e.kind = 3) :
    exec (.patrolScrub pa f) s
      = .next (pulse (logCairn (setPoison s pa) .cfgTserr .cfgTseaddr t pa e) (tileSource t 15)) := by
  rw [exec_patrolScrub_tile h ha hc, storageCheck_of_uncorrectable hp he hk, blockError_of_tile e ht, hk]; rfl

theorem exec_patrolScrub_outside {s : State} {pa : Nat} {f : Codeword} (h : physTop ≤ pa) :
    exec (.patrolScrub pa f) s = .fault (.noSuchAddress pa) :=
  if_pos h

/-! ### Row repairs (R295) -/

@[simp] theorem repairedRows_storeSetup (s : State) (n : RegName) (i : Nat) (w : SetupWrite) (t : Nat) :
    repairedRows (storeSetup s n i w) t = repairedRows s t := rfl

@[simp] theorem bankUsed_storeSetup (s : State) (n : RegName) (i : Nat) (w : SetupWrite) (t b : Nat) :
    bankUsed (storeSetup s n i w) t b = bankUsed s t b := rfl

theorem exec_tsrepGo_of_reach {s : State} {t : TileId} {w : SetupWrite} (hg : acts w 63 = true)
    (hr : mayReach s w.agent .cfgTsrep t.val = true) : exec (.tsrepGo t w) s = .next (writeTsrep s t.val w) := by
  refine congrArg Host.Outcome.next (if_pos ?_)
  rw [hg, hr]; rfl

/-- None of the reasons to refuse a repair holds: a repair already runs, the row is another tile's, the row is repaired
already, its bank has no spare. -/
theorem writeTsrep_starts {s s1 : State} {t pa : Nat} {w : SetupWrite} (hg : acts w 63 = true)
    (hb : s.flag .cfgTsrstat t 63 = false) (hs1 : s1 = storeSetup s .cfgTsrep t w) (hpa : pa = 16 * s1.fld .cfgTsrep t 43 4)
    (ht : tileOfPa pa = some t) (hn : (repairedRows s t).contains (rowOf pa) = false) (hu : bankUsed s t (bankOf pa) < 4) :
    writeTsrep s t w = { s1 with rowRepair := Tbl.put s1.rowRepair t (rowOf pa) }.setF .cfgTsrstat t 63 63 1 := by
  rw [Nat.mul_comm] at hpa
  have hspare : ¬ 4 ≤ bankUsed s t (bankOf pa) := Nat.not_le.mpr hu
  subst hs1
  simp only [writeTsrep, repairedRows_storeSetup, bankUsed_storeSetup, hg, hb, ← hpa, ht, hn, hspare, Bool.and_false,
    Bool.not_true, bne_self_eq_false, Bool.false_eq_true, if_false]

theorem exec_rowRepairEnd {s s1 : State} {t : TileId} {row : Nat} (h : Tbl.get? s.rowRepair t.val = some row)
    (hs1 : s1 = { s with
      rowRepair := Tbl.del s.rowRepair t.val
      repaired := Tbl.put s.repaired t.val (insertNat (repairedRows s t.val) row) }) :
    exec (.rowRepairEnd t) s
      = .next (serveQueued (publish ((s1.setF .cfgTsrstat t.val 63 63 0).setF .cfgTsrstat t.val 7 0 1) 2 t.val 1)) := by
  subst hs1
  change execRowRepairEnd t s = _
  rw [execRowRepairEnd, h]

/-! ### The queue of requests (R24) -/

theorem serveQueued_of_nil {s : State} (h : s.queued = []) : serveQueued s = s := by
  rw [serveQueued, h, List.foldl_nil, ← h]

theorem arrive_of_waits {s : State} {r : MemReq} (f : List CairnCheck) (h : requestWaits s r = true) :
    arrive s (r, f) = { s with queued := s.queued ++ [(r, f)] } :=
  if_pos h

theorem arrive_of_goes {s : State} {r : MemReq} (f : List CairnCheck) (h : requestWaits s r = false) :
    arrive s (r, f) = performRequest s r f :=
  if_neg (Bool.not_eq_true _ ▸ h)

/-- With nothing waiting, a request of the physical address space meets its block at once. -/
theorem exec_memoryRequestArrival_of_nil {s : State} {r : MemReq} (f : List CairnCheck) (hq : s.queued = [])
    (hpa : requestAddress r < physTop) : exec (.memoryRequestArrival r f) s = .next (arrive s (r, f)) := by
  change execMemoryRequestArrival r f s = _
  rw [execMemoryRequestArrival, if_neg (Nat.not_le.mpr hpa), serveQueued_of_nil hq]

theorem requestWaits_read_eq_false {s : State} {m : Master} {pa n i : Nat} (hi : freeSlot s m = some i)
    (hrow : rowBusy s pa n = false) : requestWaits s (.read m pa n) = false := by
  simp only [requestWaits, hasSlot, hi, hrow, Option.isSome_some, Bool.not_true, Bool.or_self]

/-- A read outside memory, with a slot free and nothing waiting (R18). -/
theorem exec_foreignRead {s : State} {m : Master} {pa n i : Nat} (f : List CairnCheck) (hq : s.queued = [])
    (hpa : pa < physTop) (hi : freeSlot s m = some i) (hrow : rowBusy s pa n = false) (hmem : isMemory pa = false) :
    exec (.memoryRequestArrival (.read m pa n) f) s = .next (foreignReadArrives s m i pa n) := by
  rw [exec_memoryRequestArrival_of_nil (r := .read m pa n) f hq hpa,
    arrive_of_goes f (requestWaits_read_eq_false hi hrow), performRequest, hi, hmem]
  rfl

/-! ### The device region and the host window (R18, log 38) -/

theorem foreignReadArrives_device {s : State} {c : CoreId} {i pa : Nat} (hd : inDevice pa = true) (ha : pa % 8 = 0) :
    foreignReadArrives s (.core c) i pa 8
      = addFlight s ⟨.core c, i, pa, 8, false, bytesOfWord (setupRead s c (pa - 0x800000000)), false⟩ := by
  simp [foreignReadArrives, hd, ha]

theorem foreignReadArrives_host {s : State} {m : Master} {i pa n : Nat} (hd : inDevice pa = false)
    (hw : inHostWindow pa = true) (hm : reachesHost m = true) (hl : s.pcie.link = true) :
    foreignReadArrives s m i pa n
      = addFlight { s with free := s.free + n } ⟨m, i, pa, n, false, hostBytes s n, false⟩ := by
  simp [foreignReadArrives, hd, hw, hm, hl]

theorem foreignReadArrives_refused {s : State} {m : Master} {i pa n : Nat} (hd : inDevice pa = false)
    (h : inHostWindow pa = false ∨ reachesHost m = false) :
    foreignReadArrives s m i pa n = addFlight s ⟨m, i, pa, n, false, [], true⟩ := by
  rcases h with hw | hm
  · simp [foreignReadArrives, hd, hw]
  · simp [foreignReadArrives, hd, hm]

/-! ### The statements -/

/-- Settles O1: by cases on the queue, as the step is defined. -/
theorem stepRunsFrontCommand : Obligations.StepRunsFrontCommand :=
  ⟨fun _ _ _ => step_of_pending_cons, fun _ => step_of_pending_nil⟩

/-- Settles O38: each clause is one lemma about the command that it names; a request with nothing waiting before it
either waits or meets the place of its address. -/
theorem memoryRepairsComplete : Obligations.MemoryRepairsComplete := by
  refine ⟨⟨?clean, ?uncorrectable, ?outside⟩, ⟨?repairStarts, ?repairEnds⟩, ?waits, ?device, ?host, ?refused⟩
  case clean => exact fun s pa => exec_patrolScrub_zero
  case uncorrectable => exact fun s pa f e t => exec_patrolScrub_uncorrectable
  case outside => exact fun s pa f => exec_patrolScrub_outside
  case repairStarts =>
    intro s t w s1 pa hg hr hb hs1 hpa ht hn hu
    rw [exec_tsrepGo_of_reach hg hr, writeTsrep_starts hg hb hs1 hpa ht hn hu]
  case repairEnds => exact fun s t row s1 => exec_rowRepairEnd
  case waits =>
    intro s r f hq hpa hwait
    rw [exec_memoryRequestArrival_of_nil f hq hpa, arrive_of_waits f hwait, hq, List.nil_append]
  case device =>
    intro s c pa i f hq hpa hi hd ha hrow hmem
    rw [exec_foreignRead f hq hpa hi hrow hmem, foreignReadArrives_device hd ha]
  case host =>
    intro s m pa n i f hq hpa hi hd hw hrow hmem hm hl
    rw [exec_foreignRead f hq hpa hi hrow hmem, foreignReadArrives_host hd hw hm hl]
  case refused =>
    intro s m pa n i f hq hpa hi hd hmem hrow h
    rw [exec_foreignRead f hq hpa hi hrow hmem, foreignReadArrives_refused hd h]

end Sys2Proof.Machine

/-! PROOFS of the core state family (spec/04_core_state.md), first part: what a register number names, what a rotation and
the retirement of an instruction change, and the state after reset. -/

namespace Sys2Proof.Machine

open Sys2Proof

/-! ### Tables and fields -/

theorem Tbl.get?_filter_key {α : Type} (t : Tbl α) (p : Nat → Bool) (j : Nat) :
    Tbl.get? (t.filter (fun e => p e.1)) j = if p j then Tbl.get? t j else none := by
  induction t with
  | nil => simp [Tbl.get?]
  | cons e t ih =>
    obtain ⟨a, b⟩ := e
    rw [List.filter_cons]
    by_cases hj : a = j
    · subst hj
      cases ha : p a <;> simp [Tbl.get?, ha, ih]
    · cases p a <;> simp [Tbl.get?, ih, hj]

/-- A field set twice holds what was set last. -/
theorem withBits_withBits_same (w : Word) (hi lo u v : Nat) :
    withBits (withBits w hi lo u) hi lo v = withBits w hi lo v := by
  apply BitVec.eq_of_getLsbD_eq
  intro i _
  simp only [getLsbD_withBits]
  split_ifs <;> simp_all

/-! ### Places of registers (R85, R86, R88) -/

/-- What a register number names (R85, R86, R88, R108): g0, which holds nothing, a global, a register of the fast bank, of
the trap window, or of a group of the Reel by its key. -/
inductive Place where
  | zero | global (i : Nat) | fast (i : Nat) | trap (n : Nat) | reel (key : Nat)

namespace Core
variable (k : Core)

/-- The place that register number n names. -/
def place (n : Nat) : Place :=
  if n = 24 then .zero
  else if 24 < n then .global (n - 24)
  else if k.fb && 8 ≤ n && n < 16 then .fast (n - 8)
  else if k.tw then .trap n
  else .reel (reelKey k.cwp n)

/-- The word at a place. -/
def wordAt : Place → Word
  | .zero => nil
  | .global i => Tbl.getD k.globals unbound i
  | .fast i => Tbl.getD k.fast unbound i
  | .trap n => Tbl.getD k.trapw unbound n
  | .reel key => Tbl.getD k.reel unbound key

/-- The core with a word written at a place. -/
def withWordAt (w : Word) : Place → Core
  | .zero => k
  | .global i => { k with globals := Tbl.putD k.globals unbound i w }
  | .fast i => { k with fast := Tbl.putD k.fast unbound i w }
  | .trap n => { k with trapw := Tbl.put k.trapw n w }
  | .reel key => { k with reel := Tbl.put k.reel key w }

theorem getReg_eq_wordAt (n : Nat) : k.getReg n = k.wordAt (k.place n) := by
  unfold getReg place
  split_ifs <;> rfl

theorem setReg_eq_withWordAt (n : Nat) (w : Word) : k.setReg n w = k.withWordAt w (k.place n) := by
  unfold setReg place
  split_ifs <;> rfl

theorem place_withWordAt (w : Word) (p : Place) (n : Nat) : (k.withWordAt w p).place n = k.place n := by
  cases p <;> rfl

theorem wordAt_withWordAt_same (w : Word) {p : Place} (h : p ≠ .zero) : (k.withWordAt w p).wordAt p = w := by
  cases p <;> simp [wordAt, withWordAt] at h ⊢

theorem wordAt_withWordAt_ne (w : Word) {p q : Place} (h : q ≠ p) : (k.withWordAt w p).wordAt q = k.wordAt q := by
  cases p <;> cases q <;> simp_all [wordAt, withWordAt]

/-- The three groups of a window are different groups, so its registers have different keys. -/
theorem reelKey_injective {w n m : Nat} (hn : n < 24) (hm : m < 24) (h : reelKey w m = reelKey w n) : m = n := by
  simp only [reelKey, insGroup, localsGroup, outsGroup] at h
  split_ifs at h <;> omega

/-- Two numbers name one place only where they are the same. -/
theorem place_injective {n m : Nat} (h : k.place m = k.place n) : m = n := by
  have hk : n < 24 → m < 24 → reelKey k.cwp m = reelKey k.cwp n → m = n := reelKey_injective
  unfold place at h
  split_ifs at h <;> simp_all <;> omega

theorem place_ne_zero {n : Nat} (h0 : n ≠ 24) : k.place n ≠ .zero := by
  rw [place, if_neg h0]
  split_ifs <;> simp

/-- A write of any register but g0 changes what its number reads, and no other. -/
theorem getReg_setReg {n m : Nat} (w : Word) (h0 : n ≠ 24) :
    (k.setReg n w).getReg m = if m = n then w else k.getReg m := by
  rw [getReg_eq_wordAt, setReg_eq_withWordAt, place_withWordAt]
  split_ifs with h
  · rw [h, wordAt_withWordAt_same k w (k.place_ne_zero h0)]
  · rw [wordAt_withWordAt_ne k w (fun e => h (place_injective k e)), ← getReg_eq_wordAt]

@[simp] theorem getReg_g0 : k.getReg 24 = nil := rfl

@[simp] theorem setReg_g0 (w : Word) : k.setReg 24 w = k := rfl

theorem getReg_global {n : Nat} (h : 0 < n) : k.getReg (24 + n) = Tbl.getD k.globals unbound n := by
  rw [getReg, if_neg (by omega), if_pos (by omega), Nat.add_sub_cancel_left]

theorem getReg_fast {n : Nat} (hb : k.fb = true) (h : n < 8) : k.getReg (8 + n) = Tbl.getD k.fast unbound n := by
  rw [getReg, if_neg (by omega), if_neg (by omega), if_pos (by simp [hb]; omega), Nat.add_sub_cancel_left]

/-- A register that the fast bank does not take is of the trap window or of the Reel. -/
theorem getReg_window {n : Nat} (h : n < 24) (hb : k.fb = false ∨ n < 8 ∨ 16 ≤ n) :
    k.getReg n = if k.tw then Tbl.getD k.trapw unbound n else Tbl.getD k.reel unbound (reelKey k.cwp n) := by
  have hf : ¬ (k.fb && 8 ≤ n && n < 16) = true := by grind
  rw [getReg, if_neg (Nat.ne_of_lt h), if_neg (Nat.not_lt_of_gt h), if_neg hf]

theorem getReg_trap {n : Nat} (ht : k.tw = true) (h : n < 24) (hb : k.fb = false ∨ n < 8 ∨ 16 ≤ n) :
    k.getReg n = Tbl.getD k.trapw unbound n := by
  rw [getReg_window k h hb, ht, if_pos rfl]

theorem getReg_reel {n : Nat} (ht : k.tw = false) (h : n < 24) (hb : k.fb = false ∨ n < 8 ∨ 16 ≤ n) :
    k.getReg n = Tbl.getD k.reel unbound (reelKey k.cwp n) := by
  rw [getReg_window k h hb, ht, if_neg Bool.false_ne_true]

theorem getReg_ins {n : Nat} (ht : k.tw = false) (h : n < 8) :
    k.getReg n = Tbl.getD k.reel unbound (8 * (12 + (k.cwp + 11) % 12) + n) := by
  rw [getReg_reel k ht (by omega) (.inr (.inl h)), reelKey, if_pos h, insGroup]

theorem getReg_locals {n : Nat} (ht : k.tw = false) (hb : k.fb = false) (h : n < 8) :
    k.getReg (8 + n) = Tbl.getD k.reel unbound (8 * (k.cwp % 12) + n) := by
  rw [getReg_reel k ht (by omega) (.inl hb), reelKey, if_neg (by omega), if_pos (by omega), localsGroup,
    Nat.add_sub_cancel_left]

theorem getReg_outs {n : Nat} (ht : k.tw = false) (h : n < 8) :
    k.getReg (16 + n) = Tbl.getD k.reel unbound (8 * (12 + k.cwp % 12) + n) := by
  rw [getReg_reel k ht (by omega) (.inr (.inr (by omega))), reelKey, if_neg (by omega), if_neg (by omega), outsGroup,
    Nat.add_sub_cancel_left]

/-! ### Rotation (R90) -/

/-- The registers of a voided group read T.UNBOUND; every other place of the Reel is as it was. -/
theorem getD_reel_voidGroup (g key : Nat) :
    Tbl.getD (k.voidGroup g).reel unbound key = if key / 8 = g then unbound else Tbl.getD k.reel unbound key := by
  have h := Tbl.get?_filter_key k.reel (fun j => j / 8 != g) key
  rw [voidGroup, Tbl.getD, h]
  by_cases hg : key / 8 = g <;> simp [hg, Tbl.getD]

theorem getD_reel_rotatedForward (key : Nat) :
    Tbl.getD (rotatedForward k).reel unbound key
      = if key / 8 = 12 + (k.cwp + 1) % 12 ∨ key / 8 = (k.cwp + 1) % 12 then unbound else Tbl.getD k.reel unbound key := by
  have hm : (k.cwp + 1) % 12 % 12 = (k.cwp + 1) % 12 := Nat.mod_mod _ _
  simp only [rotatedForward, getD_reel_voidGroup, localsGroup, outsGroup, hm]
  split_ifs <;> simp_all

@[simp] theorem rotatedForward_cwp : (rotatedForward k).cwp = (k.cwp + 1) % 12 := rfl
@[simp] theorem rotatedForward_resident : (rotatedForward k).resident = k.resident + 1 := rfl
@[simp] theorem rotatedForward_globals : (rotatedForward k).globals = k.globals := rfl
@[simp] theorem rotatedForward_tw : (rotatedForward k).tw = k.tw := rfl
@[simp] theorem rotatedForward_fb : (rotatedForward k).fb = k.fb := rfl

/-- The outs of the old window are the ins of the new one. -/
theorem getReg_rotatedForward_ins {n : Nat} (ht : k.tw = false) (h : n < 8) :
    (rotatedForward k).getReg n = k.getReg (16 + n) := by
  rw [getReg_ins (rotatedForward k) ht h, getReg_outs k ht h, getD_reel_rotatedForward, rotatedForward_cwp,
    if_neg (by omega)]
  congr 1
  omega

/-- The locals and outs of the new window are void. -/
theorem getReg_rotatedForward_void {n : Nat} (ht : k.tw = false) (hb : k.fb = false) (h8 : 8 ≤ n) (h24 : n < 24) :
    (rotatedForward k).getReg n = unbound := by
  have hkey : reelKey ((k.cwp + 1) % 12) n / 8 = 12 + (k.cwp + 1) % 12
      ∨ reelKey ((k.cwp + 1) % 12) n / 8 = (k.cwp + 1) % 12 := by
    simp only [reelKey, insGroup, localsGroup, outsGroup]
    split_ifs <;> omega
  rw [getReg_reel (rotatedForward k) ht h24 (.inl hb), getD_reel_rotatedForward, rotatedForward_cwp, if_pos hkey]

theorem getReg_rotatedForward_global {n : Nat} (h : 24 ≤ n) : (rotatedForward k).getReg n = k.getReg n := by
  obtain ⟨i, rfl⟩ := Nat.exists_eq_add_of_le h
  rcases Nat.eq_zero_or_pos i with rfl | hi
  · rfl
  · rw [getReg_global _ hi, getReg_global _ hi, rotatedForward_globals]

end Core

/-! ### The loop test (R107) -/

section LoopTest

variable {k : Core} {pc : Nat}

theorem Core.lcN_putD (k : Core) (n p : Nat) (v : Word) :
    { k with lc := Tbl.putD k.lc (fixN 0) n v, pc := p }.lcN n = v := by
  simp only [Core.lcN, Tbl.getD_putD, if_true]

theorem innermost_of_active (h : k.ld ≠ 0) : innermost k = some (k.ld - 1) := if_neg h

theorem ld_ne_zero_of_atLoopEnd (h : atLoopEnd k pc = true) : k.ld ≠ 0 := by
  intro h0
  simp [atLoopEnd, innermost, h0] at h

/-- A pass that is not the last. -/
theorem loopTest_again (n next : Nat) (h : atLoopEnd k pc = true) (hc : 1 < bitsOf (k.lcN (k.ld - 1)) 31 0) :
    loopTest (n + 1) k pc next = { k with
      lc := Tbl.putD k.lc (fixN 0) (k.ld - 1) (withBits (k.lcN (k.ld - 1)) 31 0 (bitsOf (k.lcN (k.ld - 1)) 31 0 - 1))
      pc := retAddr (k.lsN (k.ld - 1)) } := by
  simp only [loopTest, innermost_of_active (ld_ne_zero_of_atLoopEnd h), h, if_true, if_pos hc]

/-- The last pass ends the level, and the test goes on with the level outside. -/
theorem loopTest_last (n next : Nat) (h : atLoopEnd k pc = true) (hc : bitsOf (k.lcN (k.ld - 1)) 31 0 ≤ 1) :
    loopTest (n + 1) k pc next = loopTest n (endLevel k) pc next := by
  simp only [loopTest, innermost_of_active (ld_ne_zero_of_atLoopEnd h), h, if_true, if_neg (Nat.not_lt.mpr hc)]
  rfl

theorem loopTest_elsewhere (n next : Nat) (h : atLoopEnd k pc = false) : loopTest n k pc next = { k with pc := next } := by
  cases n with
  | zero => rfl
  | succ n =>
    unfold loopTest
    split
    · rfl
    · simp only [h, Bool.false_eq_true, if_false]

theorem endLevel_ld (h : k.ld ≤ 7) : (endLevel k).ld = k.ld - 1 := by
  have hl : (k.ld - 1) % 2 ^ (26 + 1 - 24) = k.ld - 1 := Nat.mod_eq_of_lt (by omega)
  exact (bitsOf_withBits_same _ _ (by decide)).trans hl

end LoopTest

/-! ### What no register write and no completion moves -/

namespace Core

/-- A reading of a core that a write of a register leaves. -/
def OffRegisters {α : Type} (f : Core → α) : Prop := ∀ k n w, f (k.setReg n w) = f k

/-- A reading of a core that the completion of an instruction leaves (R107, R169, R223, R252, R255): neither the pc, COUNT
and STATUS.LD nor the marks of an instruction under way. -/
structure OffCompletion {α : Type} (f : Core → α) : Prop where
  loop : ∀ k p t, f { k with pc := p, lc := t } = f k
  level : ∀ k n, f (k.setStatus 26 24 n) = f k
  marks : ∀ k n e u h b, f { k with abandon := n, entered := e, ustack := u, shadow := h, onlyB := b } = f k

/-- A reading that no field which either changes is part of. -/
def OffRetirement {α : Type} (f : Core → α) : Prop :=
  ∀ k g a t r p l st n e u h b, f { k with
    globals := g, fast := a, trapw := t, reel := r, pc := p, lc := l, status := st
    abandon := n, entered := e, ustack := u, shadow := h, onlyB := b } = f k

variable {α : Type} {f : Core → α}

theorem OffRetirement.offRegisters (hf : OffRetirement f) : OffRegisters f := by
  intro k n w
  rw [setReg_eq_withWordAt]
  cases k.place n with
  | zero => rfl
  | global | fast | trap | reel => exact hf k _ _ _ _ _ _ _ _ _ _ _ _

theorem offRegisters_status : OffRegisters Core.status := by
  intro k n w
  rw [setReg_eq_withWordAt]
  cases k.place n <;> rfl

theorem OffRetirement.offCompletion (hf : OffRetirement f) : OffCompletion f where
  loop k p l := hf k _ _ _ _ p l _ _ _ _ _ _
  level k n := hf k _ _ _ _ _ _ (withBits k.status 26 24 n) _ _ _ _ _
  marks k n e u h b := hf k _ _ _ _ _ _ _ n e u h b

theorem OffCompletion.endLevel (hf : OffCompletion f) (k : Core) : f (endLevel k) = f k :=
  (hf.level _ _).trans (hf.loop k k.pc _)

theorem OffCompletion.loopTest (hf : OffCompletion f) (n : Nat) (k : Core) (pc next : Nat) :
    f (loopTest n k pc next) = f k := by
  induction n generalizing k with
  | zero => exact hf.loop k next k.lc
  | succ n ih =>
    cases he : atLoopEnd k pc with
    | false => rw [loopTest_elsewhere _ _ he]; exact hf.loop k next k.lc
    | true =>
      by_cases hc : 1 < bitsOf (k.lcN (k.ld - 1)) 31 0
      · rw [loopTest_again n next he hc]; exact hf.loop k _ _
      · rw [loopTest_last n next he (Nat.not_lt.mp hc), ih, hf.endLevel]

theorem OffCompletion.served (hf : OffCompletion f) (k : Core) (pc : Nat) : f (k.served pc) = f k := by
  unfold Core.served
  split
  · exact hf.marks k 0 _ _ _ _
  · rfl

theorem OffCompletion.complete_seq (hf : OffCompletion f) (k : Core) (pc len : Nat) : f (complete k pc len .seq) = f k :=
  calc f (complete k pc len .seq)
      = f { k.served pc with entered := _, ustack := [], shadow := false, onlyB := false } := hf.loopTest 5 _ pc _
    _ = f (k.served pc) := hf.marks (k.served pc) _ _ _ _ _
    _ = f k := hf.served k pc

/-- Which register a number names depends on TW and FB, and neither moves. -/
theorem offCompletion_getReg (n : Nat) : OffCompletion (fun k => k.getReg n) where
  loop _ _ _ := rfl
  level k v := by
    have ht : (k.setStatus 26 24 v).tw = k.tw := bitOf_withBits_ne _ _ (by decide)
    have hb : (k.setStatus 26 24 v).fb = k.fb := bitOf_withBits_ne _ _ (by decide)
    simp only [getReg, ht, hb]
    rfl
  marks _ _ _ _ _ _ := rfl

/-- Every field of STATUS but LD. -/
theorem offCompletion_status : OffCompletion (fun k => withBits k.status 26 24 0) where
  loop _ _ _ := rfl
  level k v := withBits_withBits_same k.status 26 24 v 0
  marks _ _ _ _ _ _ := rfl

end Core

/-! ### The other cores of the majority (R377) -/

variable {s : State} {c : CoreId}

/-- What each copy of the source core to another member keeps, mirroring keeps. -/
theorem mirror_induction {P : State → Prop}
    (h : ∀ x m, troikaOfCore m = troikaOfCore c → m ≠ c → P x → P (x.setCore m (x.core c))) (hs : P s) :
    P (mirror s c) := by
  unfold mirror
  split
  · refine List.foldlRecOn (members (troikaOf c)) _ hs fun x hx m hm => ?_
    split
    · exact hx
    · next hne =>
      have ht : troikaOfCore m = troikaOfCore c := by
        simp only [members, List.mem_cons, List.not_mem_nil, or_false] at hm
        rcases hm with rfl | rfl | rfl <;> simp only [troikaOfCore, troikaOf, memberOf] <;> omega
      simp only [Bool.or_eq_true, beq_iff_eq, not_or] at hne
      obtain ⟨hmc, -⟩ := hne
      exact h x m ht hmc hx
  · exact hs

theorem mirror_of_split (h : troikaVoted s (troikaOfCore c) = false) : mirror s c = s := by
  simp [mirror, h]

@[simp] theorem core_mirror_self : (mirror s c).core c = s.core c :=
  mirror_induction (P := fun x => x.core c = s.core c) (fun x m _ hm hx => by simp [hx, hm.symm]) rfl

theorem core_mirror_of_other {d : CoreId} (h : troikaOfCore d ≠ troikaOfCore c) : (mirror s c).core d = s.core d :=
  mirror_induction (P := fun x => x.core d = s.core d)
    (fun x m hm _ hx => by
      have hd : d ≠ m := fun e => h (e ▸ hm)
      simp [hx, hd]) rfl

/-- A reading of the state that no core is part of. -/
theorem mirror_offCores {α : Type} {f : State → α} (hf : ∀ x d k, f (State.setCore x d k) = f x) : f (mirror s c) = f s :=
  mirror_induction (P := fun x => f x = f s) (fun x m _ _ hx => (hf x m _).trans hx) rfl

/-! ### Retirement -/

theorem core_movedIndex_of_ne {d : CoreId} (r : ResB) (h : d ≠ c) : (movedIndex s c r).core d = s.core d := by
  unfold movedIndex
  split <;> simp [h]

theorem core_withResult_of_ne {d : CoreId} (r : ResB) (rd : BitVec 5) (v : Word) (h : d ≠ c) :
    (withResult s c r rd v).core d = s.core d := by
  simp [withResult, h, core_movedIndex_of_ne]

theorem withResult_offCores {α : Type} {f : State → α} (hf : ∀ x d k, f (State.setCore x d k) = f x) (r : ResB)
    (rd : BitVec 5) (v : Word) : f (withResult s c r rd v) = f s := by
  have hm : f (movedIndex s c r) = f s := by
    unfold movedIndex
    split
    · exact hf _ _ _
    · rfl
  exact (hf _ _ _).trans hm

theorem core_withResult_self (r : ResB) (rd : BitVec 5) (v : Word) :
    (withResult s c r rd v).core c = ((movedIndex s c r).core c).setReg rd.toNat v := by
  simp [withResult]

/-- Retiring leaves what completion leaves. -/
theorem retire_offCompletion {α : Type} {f : Core → α} (hf : Core.OffCompletion f) (pc len : Nat) :
    f ((retire s c pc len .seq).core c) = f (s.core c) := by
  simp only [retire, core_mirror_self, State.core_modCore, if_true]
  split
  · rfl
  · exact hf.complete_seq _ pc len

theorem core_retire_of_ne {pc len : Nat} {fl : Flow} {d : CoreId} (h : d ≠ c)
    (hm : troikaOfCore d ≠ troikaOfCore c ∨ troikaVoted s (troikaOfCore c) = false) :
    (retire s c pc len fl).core d = s.core d := by
  rcases hm with hm | hm
  · rw [retire, core_mirror_of_other hm, State.core_modCore, if_neg h]
  · rw [retire, mirror_of_split (s := s.modCore c _) hm, State.core_modCore, if_neg h]

theorem retire_offCores {α : Type} {f : State → α} (hf : ∀ x d k, f (State.setCore x d k) = f x) (pc len : Nat)
    (fl : Flow) : f (retire s c pc len fl) = f s :=
  (mirror_offCores hf).trans (hf _ _ _)

section Finished

variable (s0 s : State) (l : Long) (c : CoreId) (r : ResB) (v : Word)

theorem done_offCores {α : Type} {f : State → α} (hf : ∀ x d k, f (State.setCore x d k) = f x) :
    f (done s0 l c r s v) = f s :=
  (retire_offCores hf _ _ _).trans (withResult_offCores hf r l.rd v)

theorem core_done_of_ne {d : CoreId} (h : d ≠ c)
    (hm : troikaOfCore d ≠ troikaOfCore c ∨ troikaVoted s (troikaOfCore c) = false) :
    (done s0 l c r s v).core d = s.core d := by
  have hv : troikaVoted (withResult s c r l.rd v) (troikaOfCore c) = troikaVoted s (troikaOfCore c) :=
    withResult_offCores (f := fun x => troikaVoted x (troikaOfCore c)) (fun _ _ _ => rfl) r l.rd v
  exact (core_retire_of_ne h (hv ▸ hm)).trans (core_withResult_of_ne r l.rd v h)

/-- What a result and a retirement leave of the core itself. -/
theorem core_done_off {α : Type} {f : Core → α} (hr : Core.OffRegisters f) (hc : Core.OffCompletion f) :
    f ((done s0 l c r s v).core c) = f (s.core c) := by
  have hm : f ((movedIndex s c r).core c) = f (s.core c) := by
    unfold movedIndex
    split
    · rw [State.core_modCore, if_pos rfl]; exact hr _ _ _
    · rfl
  exact (retire_offCompletion hc _ _).trans (by rw [core_withResult_self, hr, hm])

theorem getReg_done (n : Nat) :
    ((done s0 l c r s v).core c).getReg n = (((movedIndex s c r).core c).setReg l.rd.toNat v).getReg n :=
  (retire_offCompletion (Core.offCompletion_getReg n) _ _).trans (by rw [core_withResult_self])

theorem getReg_movedIndex_of_ne {n : Nat} (h : ∀ p, r.post = some p → n ≠ p.1) :
    ((movedIndex s c r).core c).getReg n = (s.core c).getReg n := by
  unfold movedIndex
  split
  · next i w hp =>
    rw [State.core_modCore, if_pos rfl]
    by_cases hi : i = 24
    · rw [hi, Core.setReg_g0]
    · rw [Core.getReg_setReg _ w hi, if_neg (h _ hp)]
  · rfl

theorem getReg_done_result (h : l.rd.toNat ≠ 24) : ((done s0 l c r s v).core c).getReg l.rd.toNat = v := by
  rw [getReg_done, Core.getReg_setReg _ v h, if_pos rfl]

theorem getReg_done_of_ne {n : Nat} (hd : n ≠ l.rd.toNat) (hp : ∀ p, r.post = some p → n ≠ p.1) :
    ((done s0 l c r s v).core c).getReg n = (s.core c).getReg n := by
  rw [getReg_done]
  by_cases h0 : l.rd.toNat = 24
  · rw [h0, Core.setReg_g0, getReg_movedIndex_of_ne s c r hp]
  · rw [Core.getReg_setReg _ v h0, if_neg hd, getReg_movedIndex_of_ne s c r hp]

end Finished

/-! ### The statements -/

/-- Settles O22: the groups voided are those of the new window, and its ins group is the outs group of the old one. -/
theorem rotationMovesWindows : Obligations.RotationMovesWindows := by
  rintro k ht hb _ _ rfl
  exact ⟨rfl, rfl, fun n => k.getReg_rotatedForward_ins ht, fun n => k.getReg_rotatedForward_void ht hb,
    fun n h _ => k.getReg_rotatedForward_global h⟩

/-- Settles O6: each clause reads the place that the number names, and a write reaches one place. -/
theorem registerNumbersName : Obligations.RegisterNumbersName := by
  refine ⟨?ins, ?locals, ?outs, fun k n => k.getReg_trap, ?beside, fun k n => k.getReg_fast, ?globals, ?zero, ?write⟩
  case ins => exact fun k n ht _ _ => k.getReg_ins ht
  case locals =>
    intro k n ht hb hw h
    rw [k.getReg_locals ht hb h, Nat.mod_eq_of_lt hw]
  case outs =>
    intro k n ht _ hw h
    rw [k.getReg_outs ht h, Nat.mod_eq_of_lt hw]
  case beside =>
    intro k n ht _ hw h
    exact ⟨k.getReg_ins ht h, by rw [k.getReg_outs ht h, Nat.mod_eq_of_lt hw]⟩
  case globals => exact fun k n h _ => k.getReg_global h
  case zero => exact fun k w => ⟨k.getReg_g0, k.setReg_g0 w⟩
  case write => exact fun k n m w _ _ h0 => k.getReg_setReg w h0

theorem getReg_reset {n : Nat} (h0 : n ≠ 24) : Core.reset.getReg n = unbound := by
  rw [Core.getReg_eq_wordAt]
  cases hp : Core.reset.place n with
  | zero => exact absurd hp (Core.reset.place_ne_zero h0)
  | global | fast | trap | reel => rfl

/-- Settles O2: the reset state lists nothing, so every table reads its default. -/
theorem resetStateHolds : Obligations.ResetStateHolds := by
  refine ⟨rfl, rfl, by decide, fun n i => rfl, ?core⟩
  rintro c _ rfl
  have hc : State.reset.core c = Core.reset := rfl
  rw [hc]
  refine ⟨rfl, rfl, ?regs, fun g => rfl, rfl, rfl, rfl, fun n => rfl, ?bits, fun n => ⟨rfl, rfl, rfl⟩, ?_⟩
  case regs => exact fun n _ h0 => getReg_reset h0
  case bits => exact fun n => BitVec.getLsbD_zero
  decide

/-- Settles O9: the result and the index register are writes of registers, and the completion with the loop test moves
the pc, COUNT, STATUS.LD and the marks of an instruction under way alone. -/
theorem retiringWritesOneRegister : Obligations.RetiringWritesOneRegister := by
  rintro s0 l c r s v _ rfl
  have hstate := done_offCores s0 s l c r v (f := fun x => (x.mem, x.setup, x.units, x.pending, x.poison)) fun _ _ _ => rfl
  have hoff : Core.OffRetirement (fun k => (k.bits, k.ls, k.le, k.cwp, k.mode, k.sbuf, k.pend)) := by
    intro; intros; rfl
  have hcore := core_done_off s0 s l c r v hoff.offRegisters hoff.offCompletion
  simp only [Prod.mk.injEq] at hstate hcore
  obtain ⟨hmem, hsetup, hunits, hpending, hpoison⟩ := hstate
  obtain ⟨hbits, hls, hle, hcwp, hmode, hsbuf, hpend⟩ := hcore
  refine ⟨hmem, hsetup, hunits, hpending, hpoison, ?others, ?split, ?kept, ?result, Core.getReg_g0 _, hbits, hls, hle,
    ?status, hcwp, hmode, hsbuf, hpend⟩
  case others => exact fun d h => core_done_of_ne s0 s l c r v (fun e => h (e ▸ rfl)) (.inl h)
  case split => exact fun d h hd => core_done_of_ne s0 s l c r v hd (.inr h)
  case kept => exact fun n _ hd hp => getReg_done_of_ne s0 s l c r v hd fun p h => (hp p h).2
  case result => exact getReg_done_result s0 s l c r v
  case status =>
    exact core_done_off s0 s l c r v (fun k n w => by simp only [Core.offRegisters_status k n w]) Core.offCompletion_status

end Sys2Proof.Machine

/-! PROOFS of the core state family, second part: the control registers and the setup accesses of a core. -/

namespace Sys2Proof.Machine

open Sys2Proof

/-! ### Tables and numbers -/

theorem Tbl.put_put {α : Type} (t : Tbl α) (j : Nat) (u v : α) : Tbl.put (Tbl.put t j u) j v = Tbl.put t j v := by
  induction t with
  | nil => simp [Tbl.put]
  | cons e t ih =>
    obtain ⟨i, b⟩ := e
    by_cases hlt : i < j
    · simp [Tbl.put, hlt, ih]
    · by_cases heq : i = j <;> simp [Tbl.put, hlt, heq]

theorem valOf_fixN {n : Nat} (h : n < 2 ^ 56) : valOf (fixN n) = n :=
  (valOf_mkWord 0 n).trans (Nat.mod_eq_of_lt h)

theorem signed_of_lt {w n : Nat} (h : 2 * n < 2 ^ w) : signed w n = n := by
  have hn : n % 2 ^ w = n := Nat.mod_eq_of_lt (by omega)
  rw [signed, hn, if_pos h]

theorem fixVal_fixN {n : Nat} (h : n < 2 ^ 55) : fixVal (fixN n) = n := by
  rw [fixVal, valOf_fixN (by omega), signed_of_lt (by omega)]

variable {s s3 s4 : State} {a : At} {l : Long} {c : CoreId} {r : ResB} {x y : Word}

/-! ### Control registers (R110) -/

theorem controlNumber_of_fix {w : Word} (h : isFix w = true) : controlNumber w = pure (valOf w) := if_pos h

theorem exec_mfc {v : Word} (h : Ready s a .mfc l c r x y s3) (hy : isFix y = true)
    (hv : controlValue (s3.core c) (valOf y) = some v) : exec (.mfc a l) s = .next (done s l c r s3 v) := by
  refine congrArg Host.Outcome.next (h.unary ?_)
  simp only [controlNumber_of_fix hy, M.bind_pure, M.bind_getC, hv, M.pure_run]

theorem exec_mfc_reserved (h : Ready s a .mfc l c r x y s3) (hy : isFix y = true)
    (hv : controlValue (s3.core c) (valOf y) = none) :
    exec (.mfc a l) s = .next (raised s l c { cause := .reservedField, step := 10, detail := l.word .mfc }) := by
  refine congrArg Host.Outcome.next (h.valueTrap ?_ (by simp))
  simp only [controlNumber_of_fix hy, M.bind_pure, M.bind_getC, hv, reservedField, trapM_run]

/-- MTC of a control register, whose number any core knows. -/
theorem exec_mtc {n : Nat} {k : Core} (h : Ready s a .mtc l c r x y s3) (hy : y = fixN n) (hn : n < 2 ^ 56)
    (hc : (controlValue Core.reset n).isNone = false) (hk : controlWrite (s3.core c) s3.compact n x = some k) :
    exec (.mtc a l) s = .next (doneC s l c r (s3.setCore c k)) := by
  subst hy
  refine congrArg Host.Outcome.next (h.effect ?_)
  simp only [controlNumber_of_fix (isFix_fixN n), valOf_fixN hn, M.bind_pure, hc, Bool.false_eq_true, if_false, hk]

variable {k : Core} {b : Bool} {n : Nat}

theorem controlWrite_status (h : isFix x = true) : controlWrite k b 0 x = some (writeStatus k b x) := by
  simp [controlWrite, h]

theorem controlWrite_cwp (h : isFix x = true) : controlWrite k b 1 x = some k := by
  simp [controlWrite, h]

theorem controlWrite_ls (ht : tagOf x = 0x30) (ha : addressFormatOk x = true) (hn : n < 4) :
    controlWrite k b (0x10 + n) x = some { k with ls := Tbl.putD k.ls ret0 n x } := by
  have h1 : ¬ 0x10 + n ≤ 1 := by omega
  have h2 : 0x10 + n ≤ 0x17 := by omega
  have h3 : 0x10 + n ≤ 0x13 := by omega
  simp only [controlWrite, h1, h2, h3, ht, ha, if_true, if_false, Nat.add_sub_cancel_left]
  rfl

theorem controlWrite_le (ht : tagOf x = 0x30) (ha : addressFormatOk x = true) (hn : n < 4) :
    controlWrite k b (0x14 + n) x = some { k with le := Tbl.putD k.le ret0 n x } := by
  have h1 : ¬ 0x14 + n ≤ 1 := by omega
  have h2 : 0x14 + n ≤ 0x17 := by omega
  have h3 : ¬ 0x14 + n ≤ 0x13 := by omega
  simp only [controlWrite, h1, h2, h3, ht, ha, if_true, if_false, Nat.add_sub_cancel_left]
  rfl

theorem controlWrite_lc (hx : isFix x = true) (hv : valOf x < 2 ^ 36) :
    controlWrite k b (0x18 + n) x = some { k with lc := Tbl.putD k.lc (fixN 0) n x } := by
  have h1 : ¬ 0x18 + n ≤ 1 := by omega
  have h2 : ¬ 0x18 + n ≤ 0x17 := by omega
  have hz : bitsOf x 55 36 = 0 := by
    simp only [valOf, bitsOf] at hv ⊢
    omega
  simp only [controlWrite, h1, h2, hx, hz, if_false, Nat.add_sub_cancel_left]
  rfl

theorem controlValue_of_loop (h : 0x10 ≤ n) (h' : n ≤ 0x1B) : (controlValue k n).isNone = false := by
  unfold controlValue
  grind

theorem State.setCore_setCore (j k : Core) : (s.setCore c j).setCore c k = s.setCore c k := by
  simp only [State.setCore, Tbl.put_put]

theorem State.modCore_setCore (f : Core → Core) (k : Core) : (s.setCore c k).modCore c f = s.setCore c (f k) := by
  rw [State.modCore, State.core_setCore, if_pos rfl, State.setCore_setCore]

/-- Writing a core as it is changes nothing that the retirement does not write too. -/
theorem doneC_setCore_self (s0 s : State) (l : Long) (c : CoreId) (r : ResB) :
    doneC s0 l c r (s.setCore c (s.core c)) = doneC s0 l c r s := by
  have hm : ∀ f, (movedIndex (s.setCore c (s.core c)) c r).modCore c f = (movedIndex s c r).modCore c f := by
    intro f
    unfold movedIndex
    split
    · rw [State.modCore_setCore]; rfl
    · exact State.modCore_setCore f _
  simp only [doneC, retireLong, retire, hm]

/-! ### Setup accesses of a core (R193) -/

theorem setupOffset_fixN {off : Nat} (h : off ≤ 0xFFFFFC) (h4 : off % 4 = 0) : setupOffset (fixN off) = pure off := by
  have hv : fixVal (fixN off) = off := fixVal_fixN (by omega)
  have h1 : ¬ (0xFFFFFC : Int) < off := by omega
  simp [setupOffset, hv, h1, h4]

/-- The half of the register at `base` that an offset names. -/
theorem halfOffset {base : Nat} (high : Bool) (hb : base ≤ 0xFFFFF8) (h8 : base % 8 = 0) :
    setupOffset (fixN (base + if high then 4 else 0)) = pure (base + if high then 4 else 0)
      ∧ (base + if high then 4 else 0) / 8 * 8 = base ∧ ((base + if high then 4 else 0) % 8 == 4) = high
      ∧ ((base + if high then 4 else 0) % 8 = 0 ↔ high = false) := by
  cases high
  · simp [setupOffset_fixN (off := base) (by omega) (by omega)]; omega
  · simp [setupOffset_fixN (off := base + 4) (by omega) (by omega)]; omega

/-- SETUPRD of one half of the register at `base`: `w` is the captured register where the high half finds one, and the
register's own word else. -/
theorem exec_setuprd {base : Nat} (high : Bool) {w : Word} (h : Ready s a .setuprd l c r x y s3)
    (hy : y = fixN (base + if high then 4 else 0)) (hb : base ≤ 0xFFFFF8) (h8 : base % 8 = 0) (hd : Drains s3 c)
    (hs : s4 = drainStores s3 c)
    (hw : w = (((s4.core c).setupCap.filter (fun p => high && p.1 == base)).map (·.2)).getD (setupRead s4 c base)) :
    exec (.setuprd a l) s = .next (done s l c r ((if base < 0x10000 then (takeFree s4).2 else s4).modCore c
      (fun k => { k with setupHeld := none, setupCap := if high then none else some (base, w) })) (halfOf w high)) := by
  subst hy hs
  obtain ⟨ho, hbase, hhigh, -⟩ := halfOffset high hb h8
  refine congrArg Host.Outcome.next (h.unary ?_)
  simp only [ho, M.bind_pure, M.bind_drainM hd, M.bind_getC, hbase, hhigh, hw]
  cases ((drainStores s3 c).core c).setupCap with
  | none => rfl
  | some p =>
    obtain ⟨o, v⟩ := p
    cases hp : high && o == base <;> simp only [hp, Option.filter] <;> rfl

/-- A word that SETUPWR takes. -/
theorem setupData_ok (hx : isFix x = true) (hv : valOf x < 2 ^ 32) :
    (!isFix x || fixVal x < 0 || 0xFFFFFFFF < fixVal x) = false := by
  have hf : fixVal x = valOf x := signed_of_lt (by omega)
  simp only [hx, hf]
  simp
  omega

theorem exec_setupwr_low {base : Nat} (h : Ready s a .setupwr l c r x y s3) (hx : isFix x = true) (hv : valOf x < 2 ^ 32)
    (hy : y = fixN base) (hb : base ≤ 0xFFFFF8) (h8 : base % 8 = 0) (hd : Drains s3 c) :
    exec (.setupwr a l) s = .next (doneC s l c r ((drainStores s3 c).modCore c
      (fun k => { k with setupCap := none, setupHeld := some (base, BitVec.ofNat 64 (valOf x)) }))) := by
  subst hy
  obtain ⟨ho, hbase, -, hlow⟩ := halfOffset false hb h8
  simp only [Bool.false_eq_true, if_false, Nat.add_zero, iff_true] at ho hbase hlow
  refine congrArg Host.Outcome.next (h.effect ?_)
  simp only [setupData_ok hx hv, Bool.false_eq_true, if_false, ho, M.bind_pure, M.bind_drainM hd, M.bind_getC, hbase, hlow]
  rfl

/-- SETUPWR of a high half: `w` is the write of the whole register where the low half is held, and of the half else. -/
theorem exec_setupwr_high {base : Nat} {w : SetupWrite} (h : Ready s a .setupwr l c r x y s3) (hx : isFix x = true)
    (hv : valOf x < 2 ^ 32) (hy : y = fixN (base + 4)) (hb : base ≤ 0xFFFFF8) (h8 : base % 8 = 0) (hd : Drains s3 c)
    (hw : w = ((((drainStores s3 c).core c).setupHeld.filter (fun p => p.1 == base)).map
        (fun p => ⟨.core c, .full, BitVec.ofNat 64 (valOf x * 2 ^ 32 + p.2.toNat)⟩)).getD
      ⟨.core c, .high, BitVec.ofNat 64 (valOf x * 2 ^ 32)⟩) :
    exec (.setupwr a l) s = .next (doneC s l c r (setupWrite
      ((drainStores s3 c).modCore c (fun k => { k with setupCap := none, setupHeld := none })) base w)) := by
  subst hy
  obtain ⟨ho, hbase, -, hlow⟩ := halfOffset true hb h8
  simp only [if_true, reduceCtorEq, iff_false] at ho hbase hlow
  refine congrArg Host.Outcome.next (h.effect ?_)
  simp only [setupData_ok hx hv, Bool.false_eq_true, if_false, ho, M.bind_pure, M.bind_drainM hd, M.bind_getC, M.bind_modC,
    hbase, hlow, beq_iff_eq, hw]
  cases ((drainStores s3 c).core c).setupHeld with
  | none => rfl
  | some p =>
    obtain ⟨o, v⟩ := p
    by_cases hp : o = base <;> simp [hp, Option.filter]

/-! ### The statement -/

/-- Settles O12: MFC and MTC by the number of the register; a setup access by the half that its offset names. -/
theorem controlAndSetupAccessComplete : Obligations.ControlAndSetupAccessComplete := by
  refine ⟨⟨?mfc, ?mfcReserved, ?status, ?cwp, ?ls, ?le, ?lc⟩, ?readLow, ?readTable, ?readHigh, ?readCaptured, ?writeLow,
    ?writeFull, ?writeHigh⟩
  case mfc => exact fun s a l c r x y s3 v => exec_mfc
  case mfcReserved => exact fun s a l c r x y s3 => exec_mfc_reserved
  case status =>
    intro s a l c r x y s3 h hx hy
    exact exec_mtc h hy (by decide) rfl (controlWrite_status hx)
  case cwp =>
    intro s a l c r x y s3 h hx hy
    rw [exec_mtc h hy (by decide) rfl (controlWrite_cwp hx), doneC_setCore_self]
  case ls =>
    intro s a l c r x y s3 n h ht ha hn hy
    exact exec_mtc h hy (by omega) (controlValue_of_loop (by omega) (by omega)) (controlWrite_ls ht ha hn)
  case le =>
    intro s a l c r x y s3 n h ht ha hn hy
    exact exec_mtc h hy (by omega) (controlValue_of_loop (by omega) (by omega)) (controlWrite_le ht ha hn)
  case lc =>
    intro s a l c r x y s3 n h hx hv hn hy
    exact exec_mtc h hy (by omega) (controlValue_of_loop (by omega) (by omega)) (controlWrite_lc hx hv)
  case readLow =>
    intro s a l c r x y s3 off h hy hb h8 ht hd
    rw [exec_setuprd false h hy hb h8 hd rfl rfl, if_neg (by omega)]
    simp [halfOf]
  case readTable =>
    intro s a l c r x y s3 off s4 h hy h8 ht hs hd
    rw [exec_setuprd false h hy (by omega) h8 hd hs rfl, if_pos ht]
    simp [halfOf]
  case readHigh =>
    intro s a l c r x y s3 off h hy hb h8 ht hcap hd
    rw [exec_setuprd true h hy hb h8 hd rfl rfl, if_neg (by omega), hcap]
    rfl
  case readCaptured =>
    intro s a l c r x y s3 off v h hy hb h8 ht hcap hd
    rw [exec_setuprd true h hy hb h8 hd rfl rfl, if_neg (by omega), hcap]
    simp [halfOf, Option.filter]
  case writeLow => exact fun s a l c r x y s3 off h hx hv hy hb h8 => exec_setupwr_low h hx hv hy hb h8
  case writeFull =>
    intro s a l c r x y s3 off lo h hx hv hy hb h8 hheld hd
    refine exec_setupwr_high h hx hv hy hb h8 hd ?_
    simp [hheld, Option.filter]
  case writeHigh =>
    intro s a l c r x y s3 off h hx hv hy hb h8 hheld hd
    refine exec_setupwr_high h hx hv hy hb h8 hd ?_
    simp [hheld]

end Sys2Proof.Machine

/-! PROOFS of the core state family, third part: transfers of control, traps and returns, loops, and the operations on
windows and contexts. -/

namespace Sys2Proof.Machine

open Sys2Proof

variable {s s1 s2 s3 s4 s5 : State} {a : At} {op : Opcode} {l : Long} {c : CoreId} {r : ResB} {x y w : Word} {fl : Flow}
  {body : CoreId → M Flow} {tg : Target} {cont : Option Nat}

/-! ### How an operation with an operand ends -/

theorem stopAt_of_noTrap {z : Stop} (hz : ∀ t, z ≠ .trap t) (p : Bool) (pc after : Nat) :
    stopAt s c z p pc after = raiseStop s c z pc after := by
  cases z with
  | trap t => exact absurd rfl (hz t)
  | doubleFault | machineCheck | heapWait | window | hold | channel => rfl

/-- A stop of the effect that is no trap ends the operation. -/
theorem runLong_stop {z : Stop} (h : Issues s a op l c s1) (hb : body c s1 = .error z) (hz : ∀ t, z ≠ .trap t) :
    runLong s a op l body = stopped s l c z := by
  have h1 := (longSteps_ok (body := body) h).trans hb
  simp [runLong, runBody, h.source, h.running, h.settled, h.calm, h.clean, applyChecks, strike, h1, stopAt_of_noTrap hz,
    stopped]

theorem Ready.runs (h : Ready s a op l c r x y s3) (hb : ∀ s1, Operand op l c s1 r y s3 → body c s1 = .ok (fl, s4)) :
    runLong s a op l body = retire s4 c (s.core c).pc (4 * l.parcels) fl := by
  obtain ⟨s1, hi, ho⟩ := h.issued
  exact runLong_ok hi (hb s1 ho)

theorem Ready.stops {z : Stop} (h : Ready s a op l c r x y s3)
    (hb : ∀ s1, Operand op l c s1 r y s3 → body c s1 = .error z) (hz : ∀ t, z ≠ .trap t) :
    runLong s a op l body = stopped s l c z := by
  obtain ⟨s1, hi, ho⟩ := h.issued
  exact runLong_stop hi (hb s1 ho) hz

theorem Ready.traps {t : Trap} (h : Ready s a op l c r x y s3)
    (hb : ∀ s1, Operand op l c s1 r y s3 → body c s1 = .error (.trap t)) (ht : t.step ≠ 1) :
    runLong s a op l body = raised s l c t := by
  obtain ⟨s1, hi, ho⟩ := h.issued
  exact runLong_trap hi (hb s1 ho) ht

/-- Operand B of form X: the index register moves with the read. -/
theorem operandX_ok (h : Operand op l c s1 r y s3) : operandX op l c s1 = .ok (y, movedIndex s3 c r) := by
  obtain ⟨s2, h1, h2⟩ := h.read
  rw [operandX, M.bind_ok h1, M.bind_ok h2, M.bind_postB]
  rfl

/-! ### Targets (R71, R168) -/

theorem Lands.inFormat (h : Lands s c w) : inFormat s c w = true := by
  obtain ⟨_, _, b, hd, area, hc, hf⟩ := h
  simp [Machine.inFormat, hc, hf]

theorem returnTarget_of_lands (h : Lands s c w) : returnTarget c w s = .ok (w, s) := by
  have hi := h.inFormat
  obtain ⟨ht, ha, -⟩ := h
  simp [returnTarget, ht, ha, hi]

theorem jumpTarget_of_lands (h : Lands s c w) (hf : retFmt w = (s.core c).fmt) : jumpTarget c w s = .ok (w, s) := by
  have hi := h.inFormat
  obtain ⟨ht, ha, -⟩ := h
  simp [jumpTarget, ht, ha, hi, hf]

@[simp] theorem continueM_run (w : Word) : continueM c w s = .ok ((), continueAt s c w) := rfl
@[simp] theorem enterM_run (t : Target) : enterM c t s = .ok ((), enterCode s c t) := rfl

/-! ### Checks of a rotation (R90, R91, R93) -/

theorem wantForward_ok (ht : (s.core c).tw = false) (hl : (s.core c).lastResort = false) (hr : (s.core c).resident ≠ 11) :
    wantForward c cont s = .ok ((), s) := by
  simp [wantForward, ht, hl, hr]

theorem wantForward_full (ht : (s.core c).tw = false) (hl : (s.core c).lastResort = false)
    (hr : (s.core c).resident = 11) : wantForward c cont s = .error (.window true) := by
  simp [wantForward, ht, hl, hr]

theorem wantForward_fault (h : ((s.core c).tw || (s.core c).lastResort) = true) :
    wantForward c cont s = .error (rotationFault cont) := by
  simp only [wantForward, M.bind_getC, h, if_true, stopM_run]

theorem wantBackward_ok (ht : (s.core c).tw = false) (hl : (s.core c).lastResort = false) (hr : (s.core c).resident ≠ 1) :
    wantBackward c cont s = .ok ((), s) := by
  simp [wantBackward, ht, hl, hr]

theorem wantBackward_last (ht : (s.core c).tw = false) (hl : (s.core c).lastResort = false)
    (hr : (s.core c).resident = 1) : wantBackward c cont s = .error (.window false) := by
  simp [wantBackward, ht, hl, hr]

theorem wantBackward_fault (h : ((s.core c).tw || (s.core c).lastResort) = true) :
    wantBackward c cont s = .error (rotationFault cont) := by
  simp only [wantBackward, M.bind_getC, h, if_true, stopM_run]

theorem rotateBackward_ok (h : wantBackward c cont s = .ok ((), s)) :
    rotateBackward c cont s = .ok ((), s.modCore c rotatedBackward) := by
  rw [rotateBackward, M.bind_ok h, modC_run]

theorem rotateBackward_error {z : Stop} (h : wantBackward c cont s = .error z) : rotateBackward c cont s = .error z :=
  M.bind_error h

/-! ### Jumps and returns (R204, R205) -/

theorem exec_jmp (h : Ready s a .jmp l c r x y s3) (hl : Lands (movedIndex s3 c r) c y)
    (hf : retFmt y = ((movedIndex s3 c r).core c).fmt) :
    exec (.jmp a l) s = .next (retireJump s l (continueAt (movedIndex s3 c r) c y) c) := by
  refine congrArg Host.Outcome.next (h.runs fun s1 ho => ?_)
  rw [bodyJmp, M.bind_ok (operandX_ok ho), M.bind_ok (atStep_ok 10 (jumpTarget_of_lands hl hf))]
  rfl

theorem exec_retn (h : Ready s a .retn l c r x y s3) (hl : Lands (movedIndex s3 c r) c y) :
    exec (.retn a l) s = .next (retireJump s l (continueAt (movedIndex s3 c r) c y) c) := by
  refine congrArg Host.Outcome.next (h.runs fun s1 ho => ?_)
  rw [bodyRetn, M.bind_ok (operandX_ok ho), M.bind_ok (atStep_ok 10 (returnTarget_of_lands hl))]
  rfl

theorem exec_ret (h : Ready s a .ret l c r x y s3) (hl : Lands (movedIndex s3 c r) c y)
    (hw : wantBackward c (some (retAddr y)) (movedIndex s3 c r) = .ok ((), movedIndex s3 c r)) :
    exec (.ret a l) s = .next (retireJump s l (continueAt ((movedIndex s3 c r).modCore c rotatedBackward) c y) c) := by
  refine congrArg Host.Outcome.next (h.runs fun s1 ho => ?_)
  rw [bodyRet, M.bind_ok (operandX_ok ho), M.bind_ok (atStep_ok 10 (returnTarget_of_lands hl)),
    M.bind_ok (rotateBackward_ok hw)]
  rfl

/-- RET stops where its rotation does. -/
theorem exec_ret_stopped {z : Stop} (h : Ready s a .ret l c r x y s3) (hl : Lands (movedIndex s3 c r) c y)
    (hw : wantBackward c (some (retAddr y)) (movedIndex s3 c r) = .error z) (hz : ∀ t, z ≠ .trap t) :
    exec (.ret a l) s = .next (stopped s l c z) := by
  refine congrArg Host.Outcome.next (h.stops (fun s1 ho => ?_) hz)
  rw [bodyRet, M.bind_ok (operandX_ok ho), M.bind_ok (atStep_ok 10 (returnTarget_of_lands hl)),
    M.bind_error (rotateBackward_error hw)]

/-! ### Calls (R205) -/

/-- The registers that a call writes: o6 the closure, o7 the T.RET of the next instruction. -/
def linked (s : State) (c : CoreId) (tg : Target) (next : Nat) : State :=
  withReg (withReg s c 22 tg.closure) c 23 (retWord next (s.core c).fmt)

theorem callTo_plain (next : Nat) : callTo c tg false next s = .ok ((), enterCode (linked s c tg next) c tg) := rfl

theorem callTo_rotating {next : Nat} (h : wantForward c (some tg.entry) s = .ok ((), s)) :
    callTo c tg true next s = .ok ((), enterCode ((linked s c tg next).modCore c rotatedForward) c tg) := by
  rw [callTo, if_pos rfl, M.bind_ok h]
  rfl

theorem callTo_error {next : Nat} {z : Stop} (h : wantForward c (some tg.entry) s = .error z) :
    callTo c tg true next s = .error z := by
  rw [callTo, if_pos rfl, M.bind_error h]

theorem callBody_ok {rotate : Bool} {len : Nat} (ho : Operand op l c s1 r y s3)
    (ht : callTarget c y (movedIndex s3 c r) = .ok (tg, s4))
    (hc : callTo c tg rotate ((s4.core c).pc + len) s4 = .ok ((), s5)) :
    callBody op l rotate len c s1 = .ok (.jump, s5) := by
  rw [callBody, M.bind_ok (operandX_ok ho), M.bind_ok (atStep_ok 10 ht), M.bind_getC, M.bind_ok hc]
  rfl

theorem callBody_error {rotate : Bool} {len : Nat} {z : Stop} (ho : Operand op l c s1 r y s3)
    (ht : callTarget c y (movedIndex s3 c r) = .ok (tg, s4))
    (hc : callTo c tg rotate ((s4.core c).pc + len) s4 = .error z) : callBody op l rotate len c s1 = .error z := by
  rw [callBody, M.bind_ok (operandX_ok ho), M.bind_ok (atStep_ok 10 ht), M.bind_getC, M.bind_error hc]

theorem exec_calln (h : Ready s a .calln l c r x y s3) (ht : callTarget c y (movedIndex s3 c r) = .ok (tg, s4)) :
    exec (.calln a l) s
      = .next (retireJump s l (enterCode (linked s4 c tg ((s4.core c).pc + 4 * l.parcels)) c tg) c) :=
  congrArg Host.Outcome.next (h.runs fun _ ho => callBody_ok ho ht (callTo_plain _))

theorem exec_call (h : Ready s a .call l c r x y s3) (ht : callTarget c y (movedIndex s3 c r) = .ok (tg, s4))
    (hw : wantForward c (some tg.entry) s4 = .ok ((), s4)) :
    exec (.call a l) s = .next (retireJump s l
      (enterCode ((linked s4 c tg ((s4.core c).pc + 4 * l.parcels)).modCore c rotatedForward) c tg) c) :=
  congrArg Host.Outcome.next (h.runs fun _ ho => callBody_ok ho ht (callTo_rotating hw))

/-- CALL stops where its rotation does. -/
theorem exec_call_stopped {z : Stop} (h : Ready s a .call l c r x y s3)
    (ht : callTarget c y (movedIndex s3 c r) = .ok (tg, s4)) (hw : wantForward c (some tg.entry) s4 = .error z)
    (hz : ∀ t, z ≠ .trap t) : exec (.call a l) s = .next (stopped s l c z) :=
  congrArg Host.Outcome.next (h.stops (fun _ ho => callBody_error ho ht (callTo_error hw)) hz)

/-- Settles O23: a transfer reads its target, and CALL and RET go on or stop as the checks of their rotation say. -/
theorem transfersComplete : Obligations.TransfersComplete := by
  refine ⟨⟨?jmp, ?retn, ?ret, ?retWindow, ?retFault⟩, ?calln, ?call, ?callWindow, ?callFault⟩
  case jmp => exact fun s a l c r x y s3 => exec_jmp
  case retn => exact fun s a l c r x y s3 => exec_retn
  case ret =>
    rintro s a l c r x y s3 _ h hl rfl ht hlr hr
    exact exec_ret h hl (wantBackward_ok ht hlr hr)
  case retWindow =>
    rintro s a l c r x y s3 _ h hl rfl ht hlr hr
    exact exec_ret_stopped h hl (wantBackward_last ht hlr hr) nofun
  case retFault =>
    rintro s a l c r x y s3 _ h hl rfl hw
    exact exec_ret_stopped h hl (wantBackward_fault hw) nofun
  case calln =>
    rintro s a l c r x y s3 tg s4 _ h ht rfl
    exact exec_calln h ht
  case call =>
    rintro s a l c r x y s3 tg s4 _ h ht htw hlr hr rfl
    exact exec_call h ht (wantForward_ok htw hlr hr)
  case callWindow =>
    exact fun s a l c r x y s3 tg s4 h ht htw hlr hr => exec_call_stopped h ht (wantForward_full htw hlr hr) nofun
  case callFault => exact fun s a l c r x y s3 tg s4 h ht hw => exec_call_stopped h ht (wantForward_fault hw) nofun

/-! ### RETT, TRAP and window traps (R92) -/

theorem exec_rett (h : Issues s a .rett l c s1) :
    exec (.rett a l) s = .next (raised s l c { cause := .illegalOp, sub := 7, step := 10, detail := l.word .rett }) :=
  congrArg Host.Outcome.next (runLong_trap h rfl (by simp))

theorem exec_trap (h : Ready s a .trap l c r x y s3) (hy : isFix y = true) (hv : valOf y ≤ 255) :
    exec (.trap a l) s = .next (raised s l c { cause := .trap, sub := valOf y, step := 10 }) := by
  refine congrArg Host.Outcome.next (h.traps (fun s1 ho => ?_) (by simp))
  rw [bodyTrap, M.bind_ok (operandX_ok ho)]
  simp [hy, hv]

/-- The core in the trap window of a window trap (R92). -/
theorem enterWindowTrap_eq (s : State) (c : CoreId) (o : Bool) (pc : Nat) :
    ∃ k', enterWindowTrap s c o pc = s.setCore c k' ∧ k'.tw = true ∧ k'.wtrap = some ⟨o, pc⟩
      ∧ k'.reel = (s.core c).reel ∧ k'.globals = (s.core c).globals
      ∧ k'.trapw = Tbl.put (Tbl.put [] 0 (fixN (if o then 0 else 1))) 1
          (fixN (if o then (s.core c).bottom else ((s.core c).cwp + 11) % 12)) := by
  refine ⟨_, rfl, ?_, rfl, rfl, rfl, rfl⟩
  exact bitOf_withBits_in _ _ (by decide) (by decide)

theorem runLong_of_handled (hs : sourceCore s a.core = some c) (hr : (s.core c).mode = .running)
    (hw : inWindowTrap (s.core c) = true) (hh : windowHandler c s = .ok ((), s1)) (hs1 : sourceCore s1 a.core = some c)
    (hr1 : (s1.core c).mode = .running) (hw1 : inWindowTrap (s1.core c) = false) :
    runLong s a op l body = runLong s1 a op l body := by
  simp [runLong, runBody, hs, hr, hw, hh, hs1, hr1, hw1]

theorem runLong_of_handler_error {z : Stop} (hs : sourceCore s a.core = some c) (hr : (s.core c).mode = .running)
    (hw : inWindowTrap (s.core c) = true) (hh : windowHandler c s = .error z) :
    runLong s a op l body = mirror (raiseStop s c z (s.core c).pc (s.core c).pc) c := by
  simp [runLong, runBody, hs, hr, hw, hh]

theorem windowHandler_ok {t : WindowTrap} (ht : (s.core c).wtrap = some t)
    (h : (if t.overflow then spill c else fill c) s = .ok ((), s1)) :
    windowHandler c s = .ok ((), s1.modCore c (fun k => { k.setStatus 23 23 0 with wtrap := none })) := by
  simp only [windowHandler, ht, h]

theorem windowHandler_error {t : WindowTrap} {f : Trap} (ht : (s.core c).wtrap = some t)
    (h : (if t.overflow then spill c else fill c) s = .error (.trap f)) :
    windowHandler c s = .error (.doubleFault 1 f) := by
  simp only [windowHandler, ht, h]

/-! ### RETE (R231, R232) -/

variable {sp : Word} {f : List Word}

/-- RETE has read its frame, in state `s2`, after the earlier stores. -/
structure FrameRead (c : CoreId) (s1 : State) (sp : Word) (f : List Word) (s2 : State) : Prop where
  pointer : (s1.core c).g7 = sp
  tag : tagOf sp = 0x32
  drained : Drains s1 c
  words : loadWords c (valOf sp) 12 (drainStores s1 c) = .ok (f, s2)

theorem bodyRete_resume (h : FrameRead c s1 sp f s2) (hf : frameFault f = none) (hlr : (s1.core c).lastResort = false)
    (hw : ((s1.core c).cwp + 11) % 12 = bitsOf (f[8]?.getD nil) 35 32)
    (hb : rotateBackward c (some (resumeAt f)) s2 = .ok ((), s3)) :
    bodyRete l c s1 = .ok (.jump, resume ((s3.modCore c (fun k => setGlobal k 7 (f[9]?.getD nil))).modCore c
        (fun k => restoreStatus k s3.compact false (f[4]?.getD nil))) c f) := by
  simp [bodyRete, h.pointer, h.tag, M.bind_drainM h.drained, M.bind_ok (atStep_ok 9 h.words), hf, hlr, hw, M.bind_ok hb]

theorem bodyRete_lastResort (h : FrameRead c s1 sp f s2) (hf : frameFault f = none) (hlr : (s1.core c).lastResort = true) :
    bodyRete l c s1 = .ok (.jump, resume (((s2.modCore c (fun k => setGlobal k 7 (f[9]?.getD nil))).modCore c
        (fun k => restoreStatus k s2.compact true (f[4]?.getD nil))).setF .cfgMcstat (leadOf s2 c).val 61 61 0) c f) := by
  simp [bodyRete, h.pointer, h.tag, M.bind_drainM h.drained, M.bind_ok (atStep_ok 9 h.words), hf, hlr]
  rfl

theorem bodyRete_fault (h : FrameRead c s1 sp f s2) (hf : frameFault f = some x) :
    bodyRete l c s1 = .error (.trap (wordTrap .wordFormat x 10 0)) := by
  simp [bodyRete, h.pointer, h.tag, M.bind_drainM h.drained, M.bind_ok (atStep_ok 9 h.words), hf, operandFault]

/-- Settles O24: RETT and TRAP raise; the window trap writes the trap window and its handler runs before the next
operation; RETE resumes after one rotation back, or without it out of the last-resort state. -/
theorem trapsAndReturnsComplete : Obligations.TrapsAndReturnsComplete := by
  refine ⟨⟨?rett, ?trap⟩, ⟨?enter, ?handled, ?handlerError, ?handler, ?handlerTrap⟩, ?resume, ?lastResort, ?frameFault⟩
  case rett => exact fun s a l c s1 => exec_rett
  case trap => exact fun s a l c r x y s3 => exec_trap
  case enter =>
    rintro s c o fpc npc _ rfl
    obtain ⟨k', hk, htw, hwt, hreel, hglob, htrapw⟩ := enterWindowTrap_eq s c o fpc
    refine ⟨k', hk, htw, hwt, hreel, hglob, ?_, ?_, fun n hn => ?_⟩ <;> rw [htrapw, Tbl.getD_put, Tbl.getD_put]
    · rfl
    · rfl
    · rw [if_neg (by omega), if_neg (by omega)]; rfl
  case handled => exact fun s a op l body c s1 => runLong_of_handled
  case handlerError => exact fun s a op l body c z => runLong_of_handler_error
  case handler => exact fun s c t s1 => windowHandler_ok
  case handlerTrap => exact fun s c t f => windowHandler_error
  case resume =>
    intro s a l c s1 sp f s2 s3 h hg ht hd hl hf hlr hw hb
    exact congrArg Host.Outcome.next (runLong_ok h (bodyRete_resume ⟨hg, ht, hd, hl⟩ hf hlr hw hb))
  case lastResort =>
    intro s a l c s1 sp f s2 h hg ht hd hl hf hlr
    exact congrArg Host.Outcome.next (runLong_ok h (bodyRete_lastResort ⟨hg, ht, hd, hl⟩ hf hlr))
  case frameFault =>
    intro s a l c s1 sp f s2 x h hg ht hd hl hf
    exact congrArg Host.Outcome.next (runLong_trap h (bodyRete_fault ⟨hg, ht, hd, hl⟩ hf) (by simp [wordTrap]))

/-! ### Loops (R107, R206) -/

theorem loopCount_ok (hx : isFix x = true) (hv : valOf x < 2 ^ 32) : loopCount x = pure (valOf x) :=
  if_pos (by simpa [hx] using hv)

/-- The operands of LOOP: a count, and a distance to an address in the running code object. -/
structure LoopOperands (s : State) (c : CoreId) (x y : Word) (first : Nat) : Prop where
  count : isFix x = true
  short : valOf x < 2 ^ 32
  fix : isFix y = true
  forward : 0 ≤ fixVal y
  aligned : fixVal y % 4 = 0
  inCode : inCode s c (first + valOf y) = true

theorem atStep_congr {α : Type} {m m' : M α} (n : Nat) (h : m s = m' s) : atStep n m s = atStep n m' s := by
  simp only [atStep, h]

/-- LOOP passes its checks and sets up the level or skips the body. -/
theorem bodyLoop_eq {len first : Nat} (ho : Operand .loop l c s1 r y s3) (hx : (s3.core c).getReg l.ra.toNat = x)
    (hf : first = (s3.core c).pc + len) (h : LoopOperands s3 c x y first) :
    bodyLoop l len c s1 = atStep 10 (loopSetup c first (first + valOf y) (valOf x)) s3 := by
  obtain ⟨s2, h1, h2⟩ := ho.read
  have hy : (fixVal y < 0 || fixVal y % 4 != 0) = false := by simp [h.forward, h.aligned]
  subst hx hf
  rw [bodyLoop, M.bind_ok h1, M.bind_ok h2, M.bind_regM, M.bind_getC]
  refine atStep_congr 10 ?_
  rw [loopCount_ok h.count h.short, M.bind_pure, wantFix, if_pos h.fix, M.bind_pure, hy, if_neg Bool.false_ne_true,
    M.bind_ok rfl, h.inCode]
  rfl

theorem loopSetup_level {first last count : Nat} (hc : count ≠ 0) (hd : (s.core c).ld ≠ 4) :
    loopSetup c first last count s = .ok (.seq, s.modCore c (fun k => newLevel k first last count)) := by
  rw [loopSetup, M.bind_getC, if_neg hc, if_neg hd]
  rfl

theorem loopSetup_full {first last count : Nat} (hc : count ≠ 0) (hd : (s.core c).ld = 4) :
    loopSetup c first last count s = .error (.trap { cause := .loopDepth, step := 10 }) := by
  rw [loopSetup, M.bind_getC, if_neg hc, if_pos hd]
  rfl

theorem loopSetup_skip {first last n : Nat} (hn : lengthAt c last s = .ok (n, s4)) :
    loopSetup c first last 0 s = .ok (.skip (last + n), s4) := by
  rw [loopSetup, M.bind_getC, if_pos rfl, M.bind_ok hn]
  rfl

theorem exec_loop {first : Nat} (h : Ready s a .loop l c r x y s3) (hf : first = (s3.core c).pc + 4 * l.parcels)
    (ho : LoopOperands s3 c x y first) (hs : loopSetup c first (first + valOf y) (valOf x) s3 = .ok (fl, s4)) :
    exec (.loop a l) s = .next (retire s4 c (s.core c).pc (4 * l.parcels) fl) := by
  refine congrArg Host.Outcome.next (h.runs fun s1 hb => ?_)
  rw [bodyLoop_eq hb h.first hf ho, atStep_ok 10 hs]

theorem exec_loop_depth {first : Nat} (h : Ready s a .loop l c r x y s3) (hf : first = (s3.core c).pc + 4 * l.parcels)
    (ho : LoopOperands s3 c x y first) (hc : valOf x ≠ 0) (hd : (s3.core c).ld = 4) :
    exec (.loop a l) s = .next (raised s l c { cause := .loopDepth, step := 10 }) := by
  refine congrArg Host.Outcome.next (h.traps (fun s1 hb => ?_) (by simp))
  rw [bodyLoop_eq hb h.first hf ho, atStep_trap 10 (loopSetup_full hc hd)]
  rfl

theorem exec_loopx (h : Ready s a .loopx l c r x y s3) (hd : ((movedIndex s3 c r).core c).ld ≠ 0)
    (hl : Lands (movedIndex s3 c r) c y) (hf : retFmt y = ((movedIndex s3 c r).core c).fmt) :
    exec (.loopx a l) s
      = .next (retireJump s l (continueAt ((movedIndex s3 c r).modCore c endLevel) c y) c) := by
  refine congrArg Host.Outcome.next (h.runs fun s1 ho => ?_)
  rw [bodyLoopx, M.bind_ok (operandX_ok ho), M.bind_getC, if_neg hd, M.bind_ok (atStep_ok 10 (jumpTarget_of_lands hl hf))]
  rfl

/-- Settles O25: LOOP by its count and depth, LOOPX, and the loop test by the count that it finds. -/
theorem loopsComplete : Obligations.LoopsComplete := by
  refine ⟨⟨?level, ?skip, ?depth, ?loopx⟩, ?again, ?last, fun n k pc next => loopTest_elsewhere n next⟩
  case level =>
    intro s a l c r x y s3 first h hx hc hv hy h0 h4 hf hin hd
    exact exec_loop h hf ⟨hx, hv, hy, h0, h4, hin⟩ (loopSetup_level (Nat.ne_of_gt hc) hd)
  case skip =>
    rintro s a l c r _ y s3 first n s4 h rfl hy h0 h4 hf hin hn
    exact exec_loop h hf ⟨isFix_fixN 0, by decide, hy, h0, h4, hin⟩ (loopSetup_skip hn)
  case depth =>
    intro s a l c r x y s3 first h hx hc hv hy h0 h4 hf hin hd
    exact exec_loop_depth h hf ⟨hx, hv, hy, h0, h4, hin⟩ (Nat.ne_of_gt hc) hd
  case loopx => exact fun s a l c r x y s3 => exec_loopx
  case again =>
    intro n k pc next h hc
    have hlt : bitsOf (k.lcN (k.ld - 1)) 31 0 < 2 ^ 32 := bitsOf_lt _ 31 0
    rw [loopTest_again n next h hc]
    refine ⟨rfl, rfl, ?_⟩
    rw [Core.lcN_putD, bitsOf_withBits_same _ _ (by decide), Nat.mod_eq_of_lt (Nat.lt_of_le_of_lt (Nat.sub_le _ 1) hlt)]
  case last =>
    intro k pc next h hd hc
    have hl : (endLevel k).ld = 0 := by rw [endLevel_ld (by omega), hd]
    have he : atLoopEnd (endLevel k) pc = false := by simp [atLoopEnd, innermost, hl]
    rw [loopTest_last 4 next h (by rwa [hd]), loopTest_elsewhere 4 next he]
    exact ⟨rfl, hl⟩

/-! ### Windows and spaces (R94, R270) -/

theorem windowStep_ok {o : Bool} (ht : (s.core c).tw = true) (h : (if o then spill c else fill c) s = .ok ((), s1)) :
    windowStep c o s = .ok (.seq, s1) := by
  simp [windowStep, ht, h]

theorem windowStep_outside {o : Bool} (ht : (s.core c).tw = false) :
    windowStep c o s = .error (.doubleFault 6 { cause := .doubleFault }) := by
  simp [windowStep, ht]

theorem exec_space (h : Ready s a .space l c r x y s3) (hy : isFix y = true) (hv : valOf y < 4096) (hd : Drains s3 c) :
    exec (.space a l) s = .next (done s l c r
      (rearea ((drainStores s3 c).modCore c (fun k => k.setStatus 43 32 (valOf y))) c)
      (fixN ((drainStores s3 c).core c).space)) := by
  refine congrArg Host.Outcome.next (h.unary ?_)
  simp only [hy, hv, decide_true, Bool.and_true, if_true, M.bind_drainM hd, M.bind_getC, M.bind_modC]

/-! ### Contexts (R98 to R102) -/

theorem contextOp_ok {f : CoreId → Word → M Unit} (ho : Operand op l c s1 r y s3) (hf : f c y s3 = .ok ((), s4)) :
    contextOp op l f c s1 = .ok (.seq, movedIndex s4 c r) := by
  obtain ⟨s2, h1, h2⟩ := ho.read
  rw [contextOp, M.bind_ok h1, M.bind_ok h2, M.bind_ok hf, M.bind_postB]
  rfl

/-- A context operation retires when its work is done. -/
theorem Ready.context {f : CoreId → Word → M Unit} (h : Ready s a op l c r x y s3) (hf : f c y s3 = .ok ((), s4)) :
    runLong s a op l (contextOp op l f) = doneC s l c r s4 :=
  h.runs fun _ ho => contextOp_ok ho hf

/-- No error strikes the second pass of a restore of a calm command. -/
theorem secondPass_of_calm (h : a.upset = .none) : secondPass a = pure () := by
  rw [secondPass, h]
  rfl

theorem Ready.calm (h : Ready s a op l c r x y s3) : a.upset = .none :=
  let ⟨_, hi, _⟩ := h.issued
  hi.calm

variable {o : Obj}

theorem exec_savelo (h : Ready s a .savelo l c r x y s3) (ha : saveArea c y true s3 = .ok (o, s4))
    (hw : storeSlots c o 1 (lowerWords (s4.core c)) s4 = .ok ((), s5)) (hd : Drains s5 c) :
    exec (.savelo a l) s = .next (doneC s l c r ((drainStores s5 c).modCore c voidWindow)) := by
  refine congrArg Host.Outcome.next (h.context ?_)
  simp only [M.bind_ok ha, M.bind_getC, M.bind_ok hw, M.bind_drainM hd, modC_run]

theorem exec_savehi (h : Ready s a .savehi l c r x y s3)
    (hw : saveUpper c (s3.core c) 4 0 (upperGroups (s3.core c)) y s3 = .ok ((), s4)) (hd : Drains s4 c) :
    exec (.savehi a l) s = .next (doneC s l c r ((drainStores s4 c).modCore c
      (fun k => (upperGroups (s3.core c)).foldl Core.voidGroup k))) := by
  refine congrArg Host.Outcome.next (h.context ?_)
  simp only [M.bind_getC, M.bind_ok hw, M.bind_drainM hd, modC_run]

theorem exec_restlo {d rest : List Word} {s6 : State} (h : Ready s a .restlo l c r x y s3)
    (ha : saveArea c y false s3 = .ok (o, s4)) (hd : areaWords c o 1 1 s4 = .ok (d, s5))
    (hr : areaWords c o 3 49 s5 = .ok (rest, s6)) (hb : lowerBadWord 1 (d ++ [nil] ++ rest) = none)
    (hok : lowerDescOk (d[0]?.getD nil) = true) :
    exec (.restlo a l) s
      = .next (doneC s l c r (s6.modCore c (fun k => restoreLower k s6.compact (d ++ [nil] ++ rest)))) := by
  refine congrArg Host.Outcome.next (h.context ?_)
  simp only [M.bind_ok ha, M.bind_ok hd, M.bind_ok hr, hb, hok, Bool.not_true, Bool.false_eq_true, if_false,
    secondPass_of_calm h.calm, M.bind_pure]

theorem exec_resthi {gs : List (Nat × List Word)} (h : Ready s a .resthi l c r x y s3)
    (hg : readUpper c l (s3.core c) 25 0 [] y s3 = .ok (gs, s4)) :
    exec (.resthi a l) s = .next (doneC s l c r (s4.modCore c
      (fun k => gs.foldl (fun k g => restoreRegs k (fun n => 8 * g.1 + n) 0 g.2) k))) := by
  refine congrArg Host.Outcome.next (h.context ?_)
  simp only [M.bind_getC, M.bind_ok hg, secondPass_of_calm h.calm, M.bind_pure, modC_run]

/-- Settles O26: a window operation by the trap window, and each context operation by the steps of its work. -/
theorem windowAndContextOperationsComplete : Obligations.WindowAndContextOperationsComplete := by
  refine ⟨⟨?spillw, ?fillw, ?spillwOutside, ?fillwOutside, ?space⟩, ?savelo, ?savehi, ?restlo, ?resthi⟩
  case spillw =>
    exact fun s a l c s1 s2 h ht hw => congrArg Host.Outcome.next (runLong_ok h (windowStep_ok (o := true) ht hw))
  case fillw =>
    exact fun s a l c s1 s2 h ht hw => congrArg Host.Outcome.next (runLong_ok h (windowStep_ok (o := false) ht hw))
  case spillwOutside =>
    exact fun s a l c s1 h ht => congrArg Host.Outcome.next (runLong_stop h (windowStep_outside ht) nofun)
  case fillwOutside =>
    exact fun s a l c s1 h ht => congrArg Host.Outcome.next (runLong_stop h (windowStep_outside ht) nofun)
  case space => exact fun s a l c r x y s3 => exec_space
  case savelo => exact fun s a l c r x y s3 o s4 s5 => exec_savelo
  case savehi => exact fun s a l c r x y s3 s4 => exec_savehi
  case restlo =>
    rintro s a l c r x y s3 o s4 d s5 rest s6 _ h ha hd hr rfl hb hok
    exact exec_restlo h ha hd hr hb hok
  case resthi => exact fun s a l c r x y s3 gs s4 => exec_resthi

end Sys2Proof.Machine

/-! PROOFS of the M-format family (spec/05_m_format.md): operand B, the faults before the effect, repeated operations, and
pairs with their short operations. -/

namespace Sys2Proof.Machine

open Sys2Proof

variable {α β : Type} {s s1 s2 s3 : State} {a : At} {op : Opcode} {l : Long} {c : CoreId} {t : Trap} {fl : Flow}
  {len : Nat} {afterPfx : Bool} {body m : CoreId → M Flow}

/-! ### One command on a core that issues -/

theorem M.exists_of_bind_ok {x : M α} {f : α → M β} {b : β} (h : (x >>= f) s = .ok (b, s2)) :
    ∃ v s1, x s = .ok (v, s1) ∧ f v s1 = .ok (b, s2) := by
  cases hx : x s with
  | error e => rw [M.bind_error hx] at h; cases h
  | ok r => exact ⟨r.1, r.2, rfl, by rwa [M.bind_ok hx] at h⟩

theorem runBody_ok (h : Runs s a c) (hm : m c (s.modCore c Core.landAll) = .ok (fl, s1)) :
    runBody s a len afterPfx m = retire s1 c (s.core c).pc len fl := by
  simp [runBody, h.source, h.running, h.settled, h.calm, h.clean, applyChecks, strike, hm, retire]

/-- A trap other than a failed access of the fetch has its NPC behind the instruction (R225). -/
theorem runBody_trap (h : Runs s a c) (hm : m c (s.modCore c Core.landAll) = .error (.trap t)) (ht : t.access ≠ 1) :
    runBody s a len afterPfx m = mirror (raiseStop (s.modCore c Core.landAll) c (.trap t) (s.core c).pc
      (((s.core c).jump).getD ((s.core c).pc + len))) c := by
  simp [runBody, h.source, h.running, h.settled, h.calm, h.clean, applyChecks, strike, hm, stopAt, ht]

/-! ### Operand B and the header buffer (R130, R132) -/

/-- What a step gives, and the headers that the core then buffers. -/
def withHeaders (c : CoreId) (m : M α) (s : State) : Option (α × List (Nat × Nat)) :=
  match m s with
  | .ok (v, t) => some (v, (t.core c).headers)
  | .error _ => none

theorem withHeaders_eq_some {m : M α} {v : α} {hs : List (Nat × Nat)} (h : withHeaders c m s = some (v, hs)) :
    ∃ t, m s = .ok (v, t) ∧ (t.core c).headers = hs := by
  unfold withHeaders at h
  split at h
  · cases h; exact ⟨_, ‹_›, rfl⟩
  · cases h

/-- A vector of four slots at 0x1000. -/
def vectorObj : Obj := ⟨mkWord 0x11 0x1000, 0x1000, some (mkHeader 0x21 7 4 0)⟩

/-- After reset, with tile store 0 online: the vector in memory and a pointer to it in r2 of core 0, whose space maps each
address to itself. -/
def vectorState : State :=
  (writeWord (State.reset.setUnit (uTile 0) stOnline) 0x1000 (mkHeader 0x21 7 4 0)).modCore 0
    (fun k => k.setReg 2 vectorObj.ptr)

/-- A long operation whose operand B is slot 3 of the object in r2. -/
def slotThree : Long := { cc := 0, rd := 1, ra := 0, mode := 4, rb := 2, ext0 := 3, ext1 := 0 }

theorem objectBase_vectorState : objectBase 0 2 vectorState = .ok (vectorObj.ptr, vectorState) := by
  decide +kernel

theorem openObject_vectorState : withHeaders 0 (openObject 0 vectorObj.ptr 8) vectorState = some (vectorObj, []) := by
  decide +kernel

theorem resolveB_vectorState : withHeaders 0 (resolveB 0 .V slotThree 8 0 2) vectorState
    = some (⟨.word 0x1020 false, none⟩, [(0x1000, 0x1000)]) := by
  decide +kernel

/-- Refutes O7: mode SLOT leaves the header of the object in the header buffer (R132), so the state that follows is not the
one in which the object was opened. Core 0 buffers no header when it has opened the vector, and that of the vector when it
has resolved the operand. -/
theorem not_operandsOfTheInstruction : ¬ Obligations.OperandsOfTheInstruction := by
  rintro ⟨-, -, -, -, hslot, -⟩
  obtain ⟨s2, hopen, hnone⟩ := withHeaders_eq_some openObject_vectorState
  obtain ⟨t, hres, hone⟩ := withHeaders_eq_some resolveB_vectorState
  have h := hslot 0 .V slotThree 8 0 2 vectorState vectorObj.ptr vectorObj vectorState s2 s2 3 rfl (by decide)
    objectBase_vectorState hopen rfl (by decide) (by decide) (by decide) rfl
  obtain ⟨-, rfl⟩ : _ ∧ s2 = t := by simpa using h.symm.trans hres
  simp [hnone] at hone

/-! ### Decode faults of a long operation (R118, R137) -/

theorem imm64Fault_of_mode (h : l.mode = 3) : imm64Fault l =
    if isReservedTag (tagOf l.imm64) then some .tagReserved
    else if !isImmediateTag (tagOf l.imm64) then some .tagForge
    else if !immediateOk l.imm64 then some .wordFormat else none := by
  simp [imm64Fault, h]

theorem decodeFault_of_imm64 {x : Cause} (hf : fieldsOk op l = true) (h : imm64Fault l = some x) :
    decodeFault op l = some (wordTrap x l.imm64 3 0) := by
  simp [decodeFault, hf, h]

/-- A decode fault is of step 3 and of no access. -/
theorem decodeFault_eq_some (h : decodeFault op l = some t) : t.step = 3 ∧ t.access = 0 := by
  rw [decodeFault] at h
  split at h
  · cases h; exact ⟨rfl, rfl⟩
  · obtain ⟨x, -, rfl⟩ := Option.map_eq_some_iff.mp h
    exact ⟨rfl, rfl⟩

theorem longSteps_skips (hs : fetchM c l.parcels 5 (l.word op) s = .ok ((), s1)) (hd : decodeFault op l = none)
    (hc : ccHolds (s1.core c) l.cc.toNat = false) : longSteps op l body c s = .ok (.seq, s1) := by
  rw [longSteps, M.bind_ok hs, hd]
  simp [hc]

theorem longSteps_decodeFault (hs : fetchM c l.parcels 5 (l.word op) s = .ok ((), s1)) (hd : decodeFault op l = some t) :
    longSteps op l body c s = .error (.trap t) := by
  rw [longSteps, M.bind_ok hs, hd]
  rfl

/-! ### The end of the instruction area (R116) -/

/-- Parcel i is the first beyond the area: the parcels before it are fetched, and it raises `t`. -/
theorem fetchParcels_beyond {b size va i n : Nat} (hi : i < n) (hb : b ≤ va)
    (hok : fetchParcels c t (some (b, size)) va i s = .ok ((), s1)) (hend : b + size < va + 4 * i + 4) :
    fetchParcels c t (some (b, size)) va n s = .error (.trap t) := by
  have hva : ¬ va < b := by omega
  obtain ⟨n, rfl⟩ := Nat.exists_eq_succ_of_ne_zero (Nat.ne_zero_of_lt hi)
  induction i generalizing va n s with
  | zero => rw [fetchParcels, if_neg hva, if_pos (by omega), trapM_run]
  | succ i ih =>
    obtain ⟨n, rfl⟩ := Nat.exists_eq_add_of_lt (Nat.lt_of_succ_lt_succ hi)
    rw [fetchParcels, if_neg hva] at hok ⊢
    split
    · rfl
    · rw [if_neg ‹_›] at hok
      obtain ⟨_, s2, h1, h2⟩ := M.exists_of_bind_ok hok
      rw [M.bind_ok h1]
      exact ih (by omega) h2 (by omega) (by omega) _ (by omega)

section Landing

variable {f : Core → α} (hf : Core.OffRegisters f) (hb : ∀ k n b, f (Core.setBit k n b) = f k)
include hb

theorem Core.setBits_off (x : Tbl Bool) (k : Core) : f (k.setBits x) = f k := by
  induction x generalizing k with
  | nil => rfl
  | cons e x ih => exact (ih _).trans (hb k e.1 e.2)

include hf

/-- Unit results land in registers and bit registers alone (R158). -/
theorem Core.foldl_land1_off (us : List UnitResult) (k : Core) : f (us.foldl Core.land1 k) = f k := by
  induction us generalizing k with
  | nil => rfl
  | cons u us ih =>
    rw [List.foldl_cons, ih, Core.land1, Core.setBits_off hb]
    cases u.reg with
    | none => rfl
    | some n => exact hf k n _

end Landing

theorem Core.landAll_pc_area (k : Core) : k.landAll.pc = k.pc ∧ k.landAll.area = k.area := by
  have hf : Core.OffRegisters (fun k => (k.pc, k.area)) := by
    intro k n w
    rw [Core.setReg_eq_withWordAt]
    cases k.place n <;> rfl
  exact Prod.mk.inj (Core.foldl_land1_off hf (fun _ _ _ => rfl) k.pendRes k)

theorem fetchM_beyond {b size i n first : Nat} (ha : (s.core c).area = some (b, size)) (hb : b ≤ (s.core c).pc)
    (hi : i < n) (ht : t = { cause := .illegalOp, sub := 5, step := 1, detail := first })
    (hok : fetchParcels c t (some (b, size)) (s.core c).pc i (s.modCore c Core.landAll) = .ok ((), s1))
    (hend : b + size < (s.core c).pc + 4 * i + 4) :
    fetchM c n 5 first (s.modCore c Core.landAll) = .error (.trap t) := by
  have h := fetchParcels_beyond hi hb hok hend
  obtain ⟨hpc, harea⟩ := (s.core c).landAll_pc_area
  have hk : (getC c >>= fun k => fetchParcels c t k.area k.pc n) (s.modCore c Core.landAll) = .error (.trap t) := by
    simp only [M.bind_getC, State.core_modCore, if_true, hpc, harea, ha, h]
  subst ht
  exact atStep_trap 1 hk

/-! ### The steps of a prefixed operation (R139 to R146) -/

variable {p : Pfx} {code : BitVec 8}

/-- A trap that shows the PFX parcel already keeps its DETAIL. -/
theorem pfxDetail_of_detail (h : t.detail = pfxWord p) : pfxDetail p (.trap t) = .trap t := by
  rw [pfxDetail, ← h]
  exact ite_self _

theorem bodyPfx_fetchFault {x : PfxBody} (hf : fetchM c (1 + pfxParcels x) 5 (pfxWord p) s = .error (.trap t))
    (ht : t.detail = pfxWord p) : bodyPfx a p x c s = .error (.trap t) := by
  simp only [bodyPfx, M.bind_error hf, pfxDetail_of_detail ht]

/-- 0xFE is the byte of PFX and of no operation. -/
theorem code_ne_pfx (h : Opcode.ofCode code.toNat = some op) : (code.toNat == 0xFE) = false := by
  have hnone : Opcode.ofCode 0xFE = none := by decide
  rw [beq_eq_false_iff_ne]
  intro e
  rw [e, hnone] at h
  cases h

theorem bodyPfx_ok (h : Prefixed s a p code op l c s1)
    (hm : pfxSteps a p op l (4 * (1 + l.parcels)) c s1 = .ok (fl, s2)) :
    bodyPfx a p (.long code l) c (s.modCore c Core.landAll) = .ok (fl, s2) := by
  simp only [bodyPfx, pfxParcels, code_ne_pfx h.known, Bool.false_eq_true, if_false, M.bind_ok h.fetched, h.known, hm]

theorem exec_pfx (h : Prefixed s a p code op l c s1)
    (hm : pfxSteps a p op l (4 * (1 + l.parcels)) c s1 = .ok (fl, s2)) :
    exec (.pfx a p (.long code l)) s = .next (retire s2 c (s.core c).pc (4 * (1 + l.parcels)) fl) := by
  have hlen : pfxParcels (.long code l) = l.parcels := by rw [pfxParcels, code_ne_pfx h.known]; rfl
  refine congrArg Host.Outcome.next ?_
  rw [hlen]
  exact runBody_ok h.toRuns (bodyPfx_ok h hm)

theorem pfxSteps_skips (h : Prefixed s a p code op l c s1) (hr : p.rep = true → repeatOk p op l = true)
    (hp : pfxHolds (s1.core c) p l = false) : pfxSteps a p op l len c s1 = .ok (.seq, s1) := by
  have hfault : (p.rep && !repeatOk p op l) = false := by simpa using hr
  simp [pfxSteps, h.fields, h.decoded, hfault, hp]

theorem pfxSteps_once (h : Prefixed s a p code op l c s1) (hr : p.rep = false)
    (hp : pfxHolds (s1.core c) p l = true) : pfxSteps a p op l len c s1 = bodyOf a op l len c s1 := by
  simp [pfxSteps, h.fields, h.decoded, hr, hp]

/-- A count that REP takes from RC (R142). -/
theorem repeatCount_ok {n : Nat} (hn : n < 2 ^ 32) :
    (!isFix (fixN n) || fixVal (fixN n) < 0 || 0xFFFFFFFF < fixVal (fixN n)) = false := by
  have hv : fixVal (fixN n) = n := fixVal_fixN (by omega)
  have hmax : n ≤ 0xFFFFFFFF := by omega
  simpa [hv] using hmax

theorem pfxSteps_repeats {n : Nat} (h : Prefixed s a p code op l c s1) (hr : p.rep = true)
    (hok : repeatOk p op l = true) (hp : pfxHolds (s1.core c) p l = true)
    (hc : (s1.core c).getReg p.rc.toNat = fixN n) (hn : n < 2 ^ 32) :
    pfxSteps a p op l len c s1 = .ok (iterate p l len (bodyOf a op l len) c n true s1) := by
  have hv : valOf (fixN n) = n := valOf_fixN (by omega)
  simp only [pfxSteps, h.fields, h.decoded, hr, hok, hp, hc, repeatCount_ok hn, hv, Bool.not_true, Bool.and_false,
    Bool.false_eq_true, if_false, M.bind_getC]

/-! ### The iterations of a repeated operation (R142, R143) -/

theorem fix_natCast {n : Nat} (h : n < 2 ^ 56) : fix n = fixN n := by
  have hn : ((n : Int) % 2 ^ 56).toNat = n := by omega
  rw [fix, hn, fixN]

theorem countDown_fixN {rc n : Nat} (h : (s.core c).getReg rc = fixN (n + 1)) (hn : n + 1 < 2 ^ 55) :
    countDown s c rc = s.modCore c (fun k => k.setReg rc (fixN n)) := by
  have hv : fix (fixVal (fixN (n + 1)) - 1) = fixN n := by
    rw [fixVal_fixN hn, Nat.cast_add_one, add_sub_cancel_right, fix_natCast (by omega)]
  simp only [countDown, h, isFix_fixN, if_true, hv]

theorem repeatEnds_zero {k : Core} (h : k.getReg p.rc.toNat = fixN 0) : repeatEnds k p l = true := by
  simp [repeatEnds, h, valOf_fixN]

theorem repeatEnds_succ {k : Core} {n : Nat} (h : k.getReg p.rc.toNat = fixN (n + 1)) (hn : n + 1 < 2 ^ 56)
    (hp : pfxHolds k p l = true) : repeatEnds k p l = false := by
  simp [repeatEnds, h, valOf_fixN hn, hp]

theorem iterate_zero {first : Bool} (h : (s.core c).getReg p.rc.toNat = fixN 0) :
    iterate p l len body c 0 first s = (.seq, s) := by
  rw [iterate, repeatEnds_zero h]
  rfl

/-- An iteration that completes, RC counting down, while the core runs on. -/
theorem iterate_succ {first : Bool} {n : Nat} (h : (s.core c).getReg p.rc.toNat = fixN (n + 1)) (hn : n + 1 < 2 ^ 55)
    (hp : pfxHolds (s.core c) p l = true) (he : takesEvent s c = false) (hb : body c s = .ok (fl, s1))
    (h1 : (s1.core c).getReg p.rc.toNat = fixN (n + 1)) (h2 : s2 = s1.modCore c (fun k => k.setReg p.rc.toNat (fixN n)))
    (hr : (s2.core c).mode = .running) :
    iterate p l len body c (n + 1) first s = iterate p l len body c n false s2 := by
  subst h2
  have hne : repeatEnds (s.core c) p l = false := repeatEnds_succ h (by omega) hp
  simp only [iterate, hne, he, hb, countDown_fixN h1 hn, hr, Bool.and_false, Bool.false_eq_true, if_false,
    bne_self_eq_false]

/-! ### Pairs (R120 to R125) -/

variable {q : PairParcel}

/-- A decode fault of a pair is of no access. -/
theorem pairDecode_access (h : pairDecode q = some t) : t.access = 0 := by
  rw [pairDecode] at h
  split at h
  · cases h; rfl
  · split at h
    · cases h; rfl
    · dsimp only at h
      split_ifs at h
      cases h; rfl

theorem bodyPair_decodeFault (hs : fetchM c (q.bytes / 4) 5 q.word s = .ok ((), s1)) (hd : pairDecode q = some t) :
    bodyPair q c s = .error (.trap t) := by
  rw [bodyPair, M.bind_ok hs, hd]
  rfl

theorem slotB_ok (h : shortOp c q.b s = .ok ((), s1)) : slotB c q s = .ok (.seq, s1) := by
  simp only [slotB, atStep_ok 10 h]

/-- Each slot runs or not by its condition in the state before both (R123). -/
theorem bodyPair_ok (hs : fetchM c (q.bytes / 4) 5 q.word s = .ok ((), s1)) (hd : pairDecode q = none)
    (hb : (s1.core c).onlyB = false)
    (hA : if condHolds (s1.core c) q.condA then shortOp c q.a s1 = .ok ((), s2) else s2 = s1)
    (hB : if condHolds (s1.core c) q.condB then shortOp c q.b s2 = .ok ((), s3) else s3 = s2) :
    bodyPair q c s = .ok (.seq, s3) := by
  have hslotB : (if condHolds (s1.core c) q.condB then slotB c q else pure .seq) s2 = .ok (.seq, s3) := by
    split at hB
    · rw [if_pos ‹_›, slotB_ok hB]
    · rw [if_neg ‹_›, hB]; rfl
  rw [bodyPair, M.bind_ok hs, hd]
  simp only [M.bind_getC, hb, Bool.false_eq_true, if_false]
  split at hA
  · rw [if_pos ‹_›, M.bind_ok (atStep_ok 10 hA)]
    exact hslotB
  · subst hA
    rw [if_neg ‹_›]
    exact hslotB

/-! ### The generic ADD of two T.FIX (R181, R185) -/

theorem numOf_of_fix {w : Word} (h : isFix w = true) : numOf c w s = .ok (.int (fixVal w), s) := by
  rw [numOf, (isFix_iff w).mp h]
  rfl

theorem genericAdd_of_fix {v w : Word} (hv : isFix v = true) (hw : isFix w = true) (hf : fitsFix (fixVal v + fixVal w) = true)
    (hd : Admits s 0x0 v (some w)) :
    genericAdd c v w s = .ok (fix (fixVal v + fixVal w), withFlags s c (flagsAdd (fixVal v) (fixVal w))) := by
  have ht : (isTime v || isTime w) = false := by simp [isTime, (isFix_iff v).mp hv, (isFix_iff w).mp hw]
  have hi : intResult c (fixVal v + fixVal w) = pure (fix (fixVal v + fixVal w)) := if_pos hf
  have hb : bothFix v w = true := by rw [bothFix, hv, hw]; rfl
  rw [genericAdd, M.bind_ok (dispatch_ok hd), ht, if_neg Bool.false_ne_true, M.bind_ok (numOf_of_fix hv),
    M.bind_ok (numOf_of_fix hw)]
  simp only [finishInt, hi, hb, intFlags, if_true, M.bind_pure, M.bind_setFlagsM, M.pure_run]

/-! ### The statements -/

/-- Settles O31: by induction on the count, each iteration keeping P and lowering RC by one. -/
theorem repeatCountsDown : Obligations.RepeatCountsDown := by
  intro p l len f P c n s hrc hn hP h hstep hruns
  have h24 : p.rc.toNat ≠ 24 := fun e => hrc (BitVec.eq_of_toNat_eq e)
  suffices H : ∀ m ≤ n, ∀ (first : Bool) (x : State), P x → (x.core c).getReg p.rc.toNat = fixN m →
      ∃ t, iterate p l len (fun _ x => .ok (.seq, f x)) c m first x = (.seq, t) ∧ P t ∧ (t.core c).getReg p.rc.toNat = fixN 0
    from H n le_rfl true s hP h
  intro m
  induction m with
  | zero => exact fun _ _ x hx h0 => ⟨x, iterate_zero h0, hx, h0⟩
  | succ m ih =>
    intro hm first x hx hcount
    obtain ⟨hholds, -, hevent⟩ := hruns x hx
    obtain ⟨hsame, hnext⟩ := hstep x m hx hm hcount
    obtain ⟨-, hrunning, -⟩ := hruns _ hnext
    rw [iterate_succ hcount (by omega) hholds hevent rfl hsame rfl hrunning]
    refine ih (by omega) false _ hnext ?_
    rw [State.core_modCore, if_pos rfl, Core.getReg_setReg _ _ h24, if_pos rfl]

/-- Settles O8: the steps before the effect end the operation, by its condition, its decode checks or the fetch of the
parcel that lies beyond the instruction area. -/
theorem faultsBeforeTheEffect : Obligations.FaultsBeforeTheEffect := by
  refine ⟨?skips, ?decodeFault, ?reserved, ?forged, ?malformed, ?longEnd, ?pairEnd, ?pfxEnd⟩
  case skips => exact fun s a op l c s1 body h hs hd hc => runBody_ok h (longSteps_skips hs hd hc)
  case decodeFault =>
    intro s a op l c s1 t body h hs hd
    obtain ⟨h3, h0⟩ := decodeFault_eq_some hd
    exact ⟨h3, runBody_trap h (longSteps_decodeFault hs hd) (by omega)⟩
  case reserved =>
    intro op l hf hm hr
    exact decodeFault_of_imm64 hf (by simp [imm64Fault_of_mode hm, hr])
  case forged =>
    intro op l hf hm hr hi
    exact decodeFault_of_imm64 hf (by simp [imm64Fault_of_mode hm, hr, hi])
  case malformed =>
    intro op l hf hm hr hi hw
    exact decodeFault_of_imm64 hf (by simp [imm64Fault_of_mode hm, hr, hi, hw])
  case longEnd =>
    intro s a op l c s1 b n i tr body h ha hb hi ht hok hend
    exact runBody_trap h (M.bind_error (fetchM_beyond ha hb hi ht hok hend)) (by simp [ht])
  case pairEnd =>
    intro s a p c s1 b n i tr h ha hb hi ht hok hend
    exact congrArg Host.Outcome.next
      (runBody_trap h (M.bind_error (fetchM_beyond ha hb hi ht hok hend)) (by simp [ht]))
  case pfxEnd =>
    intro s a p x c s1 b n i tr h ha hb hi ht hok hend
    exact congrArg Host.Outcome.next
      (runBody_trap h (bodyPfx_fetchFault (fetchM_beyond ha hb hi ht hok hend) (by rw [ht])) (by simp [ht]))

/-- Settles O30: one PFX command runs its operation not at all, once, or RC times (the number of iterations that one
command performs is the model's own choice, log 41). -/
theorem prefixesComplete : Obligations.PrefixesComplete := by
  refine ⟨?skips, ?once, ?repeats⟩
  case skips => exact fun s a p code op l c s1 h hr hp => exec_pfx h (pfxSteps_skips h hr hp)
  case once =>
    intro s a p code op l c s1 fl s2 h hr hp hb
    exact exec_pfx h ((pfxSteps_once h hr hp).trans hb)
  case repeats =>
    intro s a p code op l c s1 n fl s2 h hr hok hp hc hn hi
    exact exec_pfx h (by rw [pfxSteps_repeats h hr hok hp hc hn, hi])

/-- Settles O32: a pair by its decode checks and its two conditions, a short operation by its SOPC. -/
theorem pairsComplete : Obligations.PairsComplete := by
  refine ⟨⟨?both, ?decodeFault⟩, ?move, ?immediate, ?add, ?tagOf, ?isNil, ?flag⟩
  case both =>
    intro s a p c s1 s2 s3 h hs hd hb hA hB
    exact congrArg Host.Outcome.next (runBody_ok h (bodyPair_ok hs hd hb hA hB))
  case decodeFault =>
    intro s a p c s1 t h hs hd
    have h0 := pairDecode_access hd
    exact congrArg Host.Outcome.next (runBody_trap h (bodyPair_decodeFault hs hd) (by omega))
  case add =>
    rintro c x s d w h rfl rfl hd hw hf ha
    rw [shortOp, M.bind_regM, M.bind_regM, h]
    exact M.bind_ok (genericAdd_of_fix hd hw hf ha)
  case tagOf =>
    rintro c x s w h rfl
    rw [shortOp, M.bind_regM, M.bind_regM, h]
    rfl
  case move | immediate | isNil | flag =>
    intro c x s h
    rw [shortOp, M.bind_regM, M.bind_regM, h]
    rfl

end Sys2Proof.Machine

/-! PROOFS of the T-format family (spec/06_t_format.md): bundles whose units complete, bundles that only move registers, and
unit results that land. -/

namespace Sys2Proof.Machine

open Sys2Proof

variable {s s1 s2 : State} {a : At} {c d : CoreId} {k : Core} {w : Word} {ls : List Live} {fl : Flow}

/-! ### Bundles (R148 to R167) -/

theorem exec_bundle (h : Runs s a c) (hf : fetchM c 2 0x15 (moveAt w 0).bits (s.modCore c Core.landAll) = .ok ((), s1))
    (hm : bundleSteps w c s1 = .ok (fl, s2)) : exec (.bundle a w) s = .next (retire s2 c (s.core c).pc 8 fl) :=
  congrArg Host.Outcome.next (runBody_ok h ((M.bind_ok hf).trans hm))

/-- The number of a register is no trigger: the ports of the units begin at 0x80 (R156). -/
theorem isTrigger_of_register {n : Nat} (h : n < 0x20) : isTrigger n = false := by
  simp only [isTrigger, Bool.or_eq_false_iff, Bool.and_eq_false_iff, decide_eq_false_iff_not]
  omega

theorem triggers_of_registers (h : ∀ x ∈ ls, x.move.dst < 0x20) : ls.filter (fun x => isTrigger x.move.dst) = [] := by
  rw [List.filter_eq_nil_iff]
  intro x hx
  rw [isTrigger_of_register (h x hx)]
  exact Bool.false_ne_true

theorem writeMoves_of_registers (h : ∀ x ∈ ls, x.move.dst < 0x20) :
    writeMoves c ls s = .ok ((), ls.foldl (fun t x => withReg t c x.move.dst x.value) s) := by
  induction ls generalizing s with
  | nil => rfl
  | cons x ls ih =>
    obtain ⟨hx, hls⟩ := List.forall_mem_cons.mp h
    rw [writeMoves, if_pos hx, M.bind_setRegM]
    exact ih hls

/-- With no trigger live there is nothing to check and no unit runs: the moves alone are left, and their values were taken
before the first of them is written (R152). -/
theorem bundleSteps_of_registers (hd : bundleDecode (s.core c) w = none) (hj : (s.core c).jump = none)
    (h : ∀ x ∈ liveMoves (s.core c) w, x.move.dst < 0x20) :
    bundleSteps w c s
      = .ok (.seq, (liveMoves (s.core c) w).foldl (fun t x => withReg t c x.move.dst x.value) s) := by
  simp only [bundleSteps, M.bind_getC, hd, hj, triggers_of_registers h, List.filter_nil, List.find?_nil, checkTriggers,
    runTriggers, M.bind_pure, M.bind_ok (writeMoves_of_registers h), M.pure_run]

/-! ### Unit results (R158) -/

theorem exec_unitResultLanding {i : Nat} (hs : sourceCore s c = some d) (hk : s.core d = k) (hi : i < k.pendRes.length) :
    exec (.unitResultLanding c i) s = .next (mirror (s.setCore d
      { (k.pendRes.take (i + 1)).foldl Core.land1 k with pendRes := k.pendRes.drop (i + 1) }) d) := by
  change execUnitResultLanding c i s = _
  simp only [execUnitResultLanding, hs, hk, List.getElem?_eq_getElem hi]

/-- Settles O33: a bundle by the steps of its units, which for live moves into registers are the writes alone; a landing by
the result that it names. -/
theorem bundlesComplete : Obligations.BundlesComplete := by
  refine ⟨⟨?registers, ?completes⟩, ?lands⟩
  case registers => exact fun s a w c s1 h hf hd hj hr => exec_bundle h hf (bundleSteps_of_registers hd hj hr)
  case completes => exact fun s a w c s1 fl s2 => exec_bundle
  case lands => exact fun s c d i k => exec_unitResultLanding

end Sys2Proof.Machine

/-! PROOFS of the operations family (spec/07_operations.md), first part: moves, byte and field moves, and the atomic
operations. -/

namespace Sys2Proof.Machine

open Sys2Proof

variable {s s1 s2 s3 s4 s5 t : State} {a : At} {op : Opcode} {l : Long} {c : CoreId} {r : ResB} {w old res : Word}
  {al wd ac va n : Nat} {imm : Bool} {body : CoreId → M Flow} {bs : List Byte}

/-! ### Operand B and its writes -/

/-- A trap of an operation that knows where operand B is. -/
theorem Located.traps {z : Trap} (h : Located s a op l c al wd ac r s2)
    (hb : ∀ s1, resolveB c op.modes l al wd ac s1 = .ok (r, s2) → body c s1 = .error (.trap z)) (hz : z.step ≠ 1) :
    runLong s a op l body = raised s l c z := by
  obtain ⟨s1, hi, hr⟩ := h.issued
  exact runLong_trap hi (hb s1 hr) hz

@[simp] theorem readB_reg (acc : Acc) : readB c acc (.reg n) s = .ok ((s.core c).getReg n, s) := rfl

@[simp] theorem writeB_reg : writeB c (.reg n) w s = .ok ((), withReg s c n w) := rfl

theorem M.bind_setRegM_withReg {α : Type} (f : Unit → M α) :
    (setRegM c n w >>= f) s = f () (withReg s c n w) := rfl

theorem M.bind_setBitM {α : Type} {b : Bool} (f : Unit → M α) :
    (setBitM c n b >>= f) s = f () (withBitReg s c n b) := rfl

theorem writeB_word (h : storeWord c va w s = .ok ((), t)) : writeB c (.word va false) w s = .ok ((), t) :=
  atStep_ok 11 h

@[simp] theorem immutableFault_run {α : Type} (acc : Acc) : (immutableFault acc va : M α) s =
    .error (.trap { cause := .immutableWrite, step := 11, access := acc.code, faddr := fixN va }) := rfl

@[simp] theorem M.bind_immutableFault {α β : Type} (acc : Acc) (f : α → M β) : ((immutableFault acc va : M α) >>= f) s =
    .error (.trap { cause := .immutableWrite, step := 11, access := acc.code, faddr := fixN va }) := rfl

theorem M.map_ok {α β : Type} {m : M α} {f : α → β} {v : α} (h : m s = .ok (v, t)) : (f <$> m) s = .ok (f v, t) := by
  rw [map_eq_pure_bind, M.bind_ok h, M.pure_run]

theorem wantFix_of_fix (h : isFix w = true) : wantFix w = pure () := if_pos h

/-! ### MOV, ST (R191, R63) -/

theorem exec_mov {x y : Word} (h : Ready s a .mov l c r x y s3) : exec (.mov a l) s = .next (done s l c r s3 y) :=
  congrArg Host.Outcome.next (h.unary rfl)

theorem exec_st_reg (h : Located s a .st l c 8 0 3 r s2) (hb : r.b = .reg n) :
    exec (.st a l) s = .next (doneC s l c r (withReg s2 c n ((s2.core c).getReg l.ra.toNat))) := by
  refine congrArg Host.Outcome.next (h.runs fun s1 hr => ?_)
  simp only [bodySt, M.bind_ok hr, hb, M.bind_regM, M.bind_ok writeB_reg, M.bind_postB, M.pure_run]

theorem exec_st_word (h : Located s a .st l c 8 0 3 r s2) (hb : r.b = .word va false)
    (hw : healRegM c l.ra.toNat s2 = .ok (w, s3)) (hs : storeWord c va w s3 = .ok ((), s4)) :
    exec (.st a l) s = .next (doneC s l c r s4) := by
  refine congrArg Host.Outcome.next (h.runs fun s1 hr => ?_)
  simp only [bodySt, M.bind_ok hr, hb, M.bind_ok hw, M.bind_ok (writeB_word hs), M.bind_postB, M.pure_run]

theorem exec_st_immutable (h : Located s a .st l c 8 0 3 r s2) (hb : r.b = .word va true)
    (hw : healRegM c l.ra.toNat s2 = .ok (w, s3)) :
    exec (.st a l) s = .next (raised s l c { cause := .immutableWrite, step := 11, access := 3, faddr := fixN va }) := by
  refine congrArg Host.Outcome.next (h.traps (fun s1 hr => ?_) (by simp))
  simp only [bodySt, M.bind_ok hr, hb, M.bind_ok hw, writeB, if_true, M.bind_immutableFault, Acc.code]

/-! ### Atomic exchanges of a word (R200) -/

section Atomic

variable {f : Word → M (Option Word × Word)}

/-- An exchange that writes. -/
theorem atomicWord_exchanges (h : Exchanges c va s old w t) (hf : ∀ x, f old x = .ok ((some w, res), x)) :
    atomicWord c va false f s = .ok (res, t) := by
  obtain ⟨s1, raw, s2, hload, hraw, hmay, hwrite⟩ := h.steps
  simp only [atomicWord, M.bind_drainM h.drained, M.bind_ok (atStep_ok 9 hload), M.bind_ok (hf s1), Bool.false_eq_true,
    if_false, M.bind_ok (atStep_ok 11 hraw), hmay, Bool.not_true, M.bind_ok (atStep_ok 11 hwrite), M.pure_run]

/-- An exchange that only reads. -/
theorem atomicWord_reads (hd : Drains s c) (hl : loadWord c va .atomic (drainStores s c) = .ok (old, t))
    (hf : f old t = .ok ((none, res), t)) : atomicWord c va imm f s = .ok (res, t) := by
  simp only [atomicWord, M.bind_drainM hd, M.bind_ok (atStep_ok 9 hl), M.bind_ok hf, M.pure_run]

/-- An exchange that would write into an immutable object, found after the word is read. -/
theorem atomicWord_immutable (hd : Drains s c) (hl : loadWord c va .atomic (drainStores s c) = .ok (old, t))
    (hf : f old t = .ok ((some w, res), t)) : atomicWord c va true f s =
      .error (.trap { cause := .immutableWrite, step := 11, access := 4, faddr := fixN va }) := by
  simp only [atomicWord, M.bind_drainM hd, M.bind_ok (atStep_ok 9 hl), M.bind_ok hf, if_true, immutableFault_run, Acc.code]

end Atomic

theorem exec_swap_reg (h : Located s a .swap l c 8 0 4 r s2) (hb : r.b = .reg n) :
    exec (.swap a l) s = .next (retireLong s l
      (withReg (withReg s2 c n ((s2.core c).getReg l.ra.toNat)) c l.rd.toNat ((s2.core c).getReg n)) c) := by
  refine congrArg Host.Outcome.next (h.runs fun s1 hr => ?_)
  rw [bodySwap, M.bind_ok hr, hb]
  rfl

theorem exec_swap_word (h : Located s a .swap l c 8 0 4 r s2) (hb : r.b = .word va false)
    (hw : healRegM c l.ra.toNat s2 = .ok (w, s3)) (hx : Exchanges c va s3 old w s4) :
    exec (.swap a l) s = .next (done s l c r s4 old) := by
  refine congrArg Host.Outcome.next (h.runs fun s1 hr => ?_)
  have hold : atomicWord c va false (fun old => pure (some w, old)) s3 = .ok (old, s4) :=
    atomicWord_exchanges hx fun _ => rfl
  simp only [bodySwap, M.bind_ok hr, hb, M.bind_ok hw, M.bind_ok hold, M.bind_postB, M.bind_setRegM, M.pure_run]
  rfl

theorem exec_swap_immutable (h : Located s a .swap l c 8 0 4 r s2) (hb : r.b = .word va true)
    (hw : healRegM c l.ra.toNat s2 = .ok (w, s3)) (hl : loadWord c va .atomic (drainStores s3 c) = .ok (old, s4))
    (hd : Drains s3 c) :
    exec (.swap a l) s = .next (raised s l c { cause := .immutableWrite, step := 11, access := 4, faddr := fixN va }) := by
  refine congrArg Host.Outcome.next (h.traps (fun s1 hr => ?_) (by simp))
  have htrap : atomicWord c va true (fun old => pure (some w, old)) s3 = .error _ := atomicWord_immutable hd hl rfl
  simp only [bodySwap, M.bind_ok hr, hb, M.bind_ok hw, M.bind_error htrap]

/-! ### LDB and STB (R191, R135, R138) -/

theorem exec_ldb_byte (h : Located s a .ldb l c 1 0 2 r s2) (hb : r.b = .byte va imm)
    (hl : loadBytes c va 1 .read true s2 = .ok (bs, s3)) :
    exec (.ldb a l) s = .next (done s l c r s3 (fixN (ofBytes bs))) := by
  refine congrArg Host.Outcome.next (h.runs fun s1 hr => ?_)
  simp only [bodyLdb, M.bind_ok hr, hb, M.bind_ok (atStep_ok 9 (M.map_ok hl)), M.bind_postB, M.bind_setRegM, M.pure_run]
  rfl

/-- While the link is up the host answers a read with its byte (R138). -/
theorem foreignRead_data {b : Byte} (off : Nat) (ha : a.host = .data b) (hl : s.pcie.link = true) :
    foreignRead a off s = .ok (b, { s with pcie := { s.pcie with l1 := false } }) := by
  simp only [foreignRead, ha, hl, if_true]

theorem exec_ldb_foreign {off : Nat} {b : Byte} (h : Located s a .ldb l c 1 0 2 r s2) (hb : r.b = .foreign off)
    (ha : a.host = .data b) (hl : s2.pcie.link = true) :
    exec (.ldb a l) s = .next (done s l c r { s2 with pcie := { s2.pcie with l1 := false } } (fixN b.toNat)) := by
  refine congrArg Host.Outcome.next (h.runs fun s1 hr => ?_)
  simp only [bodyLdb, M.bind_ok hr, hb, M.bind_ok (M.map_ok (foreignRead_data off ha hl)), M.bind_postB, M.bind_setRegM,
    M.pure_run]
  rfl

theorem exec_stb_byte (h : Located s a .stb l c 1 0 3 r s2) (hb : r.b = .byte va false)
    (hw : (s2.core c).getReg l.ra.toNat = w) (hf : isFix w = true)
    (hs : storeBytesM c va [BitVec.ofNat 8 (valOf w)] s2 = .ok ((), s3)) :
    exec (.stb a l) s = .next (doneC s l c r s3) := by
  refine congrArg Host.Outcome.next (h.runs fun s1 hr => ?_)
  simp only [bodyStb, M.bind_ok hr, hb, M.bind_regM, hw, wantFix_of_fix hf, M.bind_pure, Bool.false_eq_true, if_false,
    M.bind_ok (atStep_ok 11 hs), M.bind_postB, M.pure_run]

theorem exec_stb_foreign {off : Nat} (h : Located s a .stb l c 1 0 3 r s2) (hb : r.b = .foreign off)
    (hw : (s2.core c).getReg l.ra.toNat = w) (hf : isFix w = true) :
    exec (.stb a l) s = .next (doneC s l c r (sendHost s2 (hostAddr s2 off) [BitVec.ofNat 8 (valOf w)])) := by
  refine congrArg Host.Outcome.next (h.runs fun s1 hr => ?_)
  simp only [bodyStb, M.bind_ok hr, hb, M.bind_regM, hw, wantFix_of_fix hf, M.bind_pure]
  exact (M.bind_ok rfl).trans (M.bind_postB r _)

theorem exec_stb_immutable (h : Located s a .stb l c 1 0 3 r s2) (hb : r.b = .byte va true)
    (hw : (s2.core c).getReg l.ra.toNat = w) (hf : isFix w = true) :
    exec (.stb a l) s = .next (raised s l c { cause := .immutableWrite, step := 11, access := 3, faddr := fixN va }) := by
  refine congrArg Host.Outcome.next (h.traps (fun s1 hr => ?_) (by simp))
  simp only [bodyStb, M.bind_ok hr, hb, M.bind_regM, hw, wantFix_of_fix hf, M.bind_pure, if_true, M.bind_immutableFault,
    Acc.code]

/-! ### LDBIT and STBIT (R191, R136) -/

/-- A word that is a width of 1 to 56 bits. -/
structure IsWidth (w : Word) : Prop where
  fix : isFix w = true
  pos : 1 ≤ valOf w
  le : valOf w ≤ 56

theorem IsWidth.addressWidth_eq (h : IsWidth w) : addressWidth w = valOf w :=
  if_pos (by simp [h.fix, h.pos, h.le])

theorem IsWidth.widthOf_eq (h : IsWidth w) : widthOf w = pure (valOf w) :=
  if_pos (by simp [h.fix, h.pos, h.le])

theorem atStep_pure {α : Type} (k : Nat) (v : α) : atStep k (pure v) s = .ok (v, s) := rfl

theorem readField_ok {acc : Acc} {lo k : Nat} (h : loadBytes c va 16 acc true s = .ok (bs, t)) :
    readField c acc va lo k s = .ok (ofBytes bs / 2 ^ lo % 2 ^ k, t) := by
  rw [readField, M.bind_ok (atStep_ok 9 h), M.pure_run]

theorem exec_ldbit {lo k : Nat} (h : Issues s a .ldbit l c s1) (hw : (s1.core c).getReg l.ra.toNat = w) (hi : IsWidth w)
    (hr : resolveB c Opcode.ldbit.modes l 1 (valOf w) 2 s1 = .ok (r, s2)) (hb : r.b = .bits va lo k imm)
    (hl : loadBytes c va 16 .read true s2 = .ok (bs, s3)) :
    exec (.ldbit a l) s = .next (done s l c r s3 (fixN (ofBytes bs / 2 ^ lo % 2 ^ k))) := by
  refine congrArg Host.Outcome.next (runLong_ok h ?_)
  simp only [bodyLdbit, M.bind_regM, hw, hi.addressWidth_eq, M.bind_ok hr, hb, M.bind_ok (readField_ok hl), hi.widthOf_eq,
    M.bind_ok (atStep_pure 10 _), M.bind_postB, M.bind_setRegM, M.pure_run]
  rfl

theorem exec_stbit {lo k : Nat} {x : Word} (h : Issues s a .stbit l c s1) (hw : (s1.core c).getReg l.rd.toNat = w)
    (hi : IsWidth w) (hx : (s1.core c).getReg l.ra.toNat = x) (hf : isFix x = true)
    (hr : resolveB c Opcode.stbit.modes l 1 (valOf w) 4 s1 = .ok (r, s2)) (hb : r.b = .bits va lo k false)
    (hd : Drains s2 c) (hl : loadBytes c va 16 .atomic true (drainStores s2 c) = .ok (bs, s3))
    (hs : atomicWrite c va (toBytes 16 (ofBytes bs - ofBytes bs / 2 ^ lo % 2 ^ k * 2 ^ lo + valOf x % 2 ^ k * 2 ^ lo)) false s3
      = .ok ((), s4)) :
    exec (.stbit a l) s = .next (done s l c r s4 (fixN (ofBytes bs / 2 ^ lo % 2 ^ k))) := by
  refine congrArg Host.Outcome.next (runLong_ok h ?_)
  rw [bodyStbit, M.bind_regM, M.bind_regM, hw, hx, hi.addressWidth_eq, M.bind_ok hr, hb]
  refine (M.bind_drainM hd _).trans ((M.bind_ok (atStep_ok 9 hl)).trans ?_)
  simp only [hi.widthOf_eq, M.bind_ok (atStep_pure 10 _), wantFix_of_fix hf, Bool.false_eq_true, if_false,
    M.bind_ok (atStep_ok 11 hs), M.bind_postB, M.bind_setRegM, M.pure_run]
  rfl

/-! ### CASW and FADDW (R200, R201) -/

/-- The words that CASW takes: the one it expects, from RD, and the one it writes, from RA. -/
structure CaswWords (c : CoreId) (l : Long) (s : State) (e w : Word) (t : State) : Prop where
  healed : ∃ s1, healRegM c l.rd.toNat s = .ok (e, s1) ∧ healRegM c l.ra.toNat s1 = .ok (w, t)

theorem exec_casw {e : Word} {hit : Bool} (h : Located s a .casw l c 8 0 4 r s2) (hb : r.b = .word va imm)
    (hw : CaswWords c l s2 e w s4)
    (hx : atomicWord c va imm (fun old => pure (if old == e then some w else none, old)) s4 = .ok (old, s5))
    (hh : (old == e) = hit) :
    exec (.casw a l) s = .next (done s l c r (withBitReg s5 c 0 hit) old) := by
  subst hh
  obtain ⟨s3, hexp, hnew⟩ := hw.healed
  refine congrArg Host.Outcome.next (h.runs fun s1 hr => ?_)
  simp only [bodyCasw, M.bind_ok hr, hb, M.bind_ok hexp, M.bind_ok hnew, bind_assoc, M.bind_ok hx, M.bind_pure,
    M.bind_setBitM, M.bind_postB, M.bind_setRegM, M.pure_run]
  rfl

theorem exec_faddw {x : Word} (h : Located s a .faddw l c 8 0 4 r s2) (hb : r.b = .word va false)
    (hx : (s2.core c).getReg l.ra.toNat = x) (hf : isFix x = true) (ho : isFix old = true)
    (he : Exchanges c va s2 old (fix (fixVal old + fixVal x)) s3) :
    exec (.faddw a l) s = .next (done s l c r
      (withFlags s3 c [(0, fixZ (fixVal old + fixVal x)), (3, !fitsFix (fixVal old + fixVal x))]) old) := by
  refine congrArg Host.Outcome.next (h.runs fun s1 hr => ?_)
  have hold : atomicWord c va false (fun old => do
      wantFix x
      wantFix old
      return (some (fix (fixVal old + fixVal x)), old)) s2 = .ok (old, s3) :=
    atomicWord_exchanges he fun _ => by simp only [wantFix_of_fix hf, wantFix_of_fix ho, M.bind_pure, M.pure_run]
  simp only [bodyFaddw, M.bind_ok hr, hb, M.bind_regM, hx, M.bind_ok hold, M.bind_setFlagsM, M.bind_postB, M.bind_setRegM,
    M.pure_run]
  rfl

/-! ### CASG and SWPG (R174, R201) -/

/-- The two words of a register pair, each through the load barrier. -/
structure PairHeals (c : CoreId) (n : Nat) (s : State) (v w : Word) (t : State) : Prop where
  healed : ∃ s1, healRegM c n s = .ok (v, s1) ∧ healRegM c (n + 1) s1 = .ok (w, t)

variable {e1 e2 n1 n2 o1 o2 : Word}

/-- CASG of a granule that holds other words than it expects. -/
theorem exec_casg_misses (h : Located s a .casg l c 16 0 4 r s2) (hb : r.b = .word va imm)
    (he : PairHeals c l.rd.toNat s2 e1 e2 s3) (hn : PairHeals c l.ra.toNat s3 n1 n2 s4)
    (hg : loadGranule c va s4 = .ok ((o1, o2), s5)) (hne : ¬ (o1 = e1 ∧ o2 = e2)) :
    exec (.casg a l) s = .next (retireLong s l
      (withReg (withReg (movedIndex (withBitReg s5 c 0 false) c r) c l.rd.toNat o1) c (l.rd.toNat + 1) o2) c) := by
  obtain ⟨u, he1, he2⟩ := he.healed
  obtain ⟨v, hn1, hn2⟩ := hn.healed
  have hmiss : (o1 == e1 && o2 == e2) = false := by simpa using hne
  refine congrArg Host.Outcome.next (h.runs fun s1 hr => ?_)
  simp only [bodyCasg, M.bind_ok hr, hb, M.bind_ok he1, M.bind_ok he2, M.bind_ok hn1, M.bind_ok hn2, M.bind_ok hg, hmiss,
    Bool.false_eq_true, if_false, M.bind_setBitM, M.bind_postB, M.bind_setRegM_withReg, M.pure_run]

/-- CASG of a granule that holds the words it expects. -/
theorem exec_casg_hits (h : Located s a .casg l c 16 0 4 r s2) (hb : r.b = .word va false)
    (he : PairHeals c l.rd.toNat s2 e1 e2 s3) (hn : PairHeals c l.ra.toNat s3 n1 n2 s4)
    (hg : loadGranule c va s4 = .ok ((e1, e2), s5)) (hw : writeGranuleM c va false n1 n2 s5 = .ok ((), t)) :
    exec (.casg a l) s = .next (retireLong s l
      (withReg (withReg (movedIndex (withBitReg t c 0 true) c r) c l.rd.toNat e1) c (l.rd.toNat + 1) e2) c) := by
  obtain ⟨u, he1, he2⟩ := he.healed
  obtain ⟨v, hn1, hn2⟩ := hn.healed
  refine congrArg Host.Outcome.next (h.runs fun s1 hr => ?_)
  simp only [bodyCasg, M.bind_ok hr, hb, M.bind_ok he1, M.bind_ok he2, M.bind_ok hn1, M.bind_ok hn2, M.bind_ok hg,
    BEq.rfl, Bool.and_self, if_true, M.bind_ok hw, M.bind_setBitM, M.bind_postB, M.bind_setRegM_withReg, M.pure_run]

theorem exec_swpg (h : Located s a .swpg l c 16 0 4 r s2) (hb : r.b = .word va false)
    (hn : PairHeals c l.ra.toNat s2 n1 n2 s3) (hg : loadGranule c va s3 = .ok ((o1, o2), s4))
    (hw : writeGranuleM c va false n1 n2 s4 = .ok ((), t)) :
    exec (.swpg a l) s = .next (retireLong s l
      (withReg (withReg (movedIndex t c r) c l.rd.toNat o1) c (l.rd.toNat + 1) o2) c) := by
  obtain ⟨u, hn1, hn2⟩ := hn.healed
  refine congrArg Host.Outcome.next (h.runs fun s1 hr => ?_)
  simp only [bodySwpg, M.bind_ok hr, hb, M.bind_ok hn1, M.bind_ok hn2, M.bind_ok hg, M.bind_ok hw, M.bind_postB,
    M.bind_setRegM_withReg, M.pure_run]

/-! ### The statements -/

/-- Settles O10: a move by where operand B is, a register or memory; a store to an immutable object raises where it would
write. -/
theorem movesComplete : Obligations.MovesComplete := by
  refine ⟨⟨?mov, ?stReg, ?stWord, ?swapReg, ?swapWord⟩, ?stImmutable, ?stbImmutable, ?swapImmutable⟩
  case mov => exact fun s a l c r x y s3 => exec_mov
  case stReg => exact fun s a l c r s2 n => exec_st_reg
  case stWord => exact fun s a l c r s2 va w s3 s4 => exec_st_word
  case swapReg => exact fun s a l c r s2 n => exec_swap_reg
  case swapWord => exact fun s a l c r s2 va w s3 old s4 => exec_swap_word
  case stImmutable => exact fun s a l c r s2 va w s3 => exec_st_immutable
  case stbImmutable => exact fun s a l c r s2 va w => exec_stb_immutable
  case swapImmutable => exact fun s a l c r s2 va w s3 old s4 => exec_swap_immutable

/-- Settles O11: a byte by its place, memory or the host window; a field by the granule that holds it. -/
theorem byteAndFieldMovesComplete : Obligations.ByteAndFieldMovesComplete := by
  refine ⟨?ldb, ?ldbForeign, ?stb, ?stbForeign, ?ldbit, ?stbit⟩
  case ldb => exact fun s a l c r s2 va imm bs s3 => exec_ldb_byte
  case ldbForeign => exact fun s a l c r s2 off b => exec_ldb_foreign
  case stb => exact fun s a l c r s2 va w s3 => exec_stb_byte
  case stbForeign => exact fun s a l c r s2 off w => exec_stb_foreign
  case ldbit =>
    intro s a l c s1 r s2 va lo n imm w bs s3 h hw hf h1 h56 hr hb hl
    exact exec_ldbit h hw ⟨hf, h1, h56⟩ hr hb hl
  case stbit =>
    intro s a l c s1 r s2 va lo n x w bs s3 s4 h hw hf h1 h56 hx hxf hr hb hl hs hd
    exact exec_stbit h hw ⟨hf, h1, h56⟩ hx hxf hr hb hd hl hs

/-- Settles O21: an exchange writes where memory holds the expected word or granule, and only reads where it does not. -/
theorem atomicsComplete : Obligations.AtomicsComplete := by
  refine ⟨⟨?caswHit, ?caswMiss, ?faddw⟩, ?casgMiss, ?casgHit, ?swpg⟩
  case caswHit =>
    intro s a l c r s2 va e s3 w s4 s5 h hb he hw hx
    exact exec_casw h hb ⟨s3, he, hw⟩ (atomicWord_exchanges hx fun _ => by simp) BEq.rfl
  case caswMiss =>
    intro s a l c r s2 va imm e s3 w s4 old s5 h hb he hw hl hne hd
    have hmiss : (old == e) = false := by simpa using hne
    exact exec_casw h hb ⟨s3, he, hw⟩ (atomicWord_reads hd hl (by simp [hmiss])) hmiss
  case faddw => exact fun s a l c r s2 va x old s3 => exec_faddw
  case casgMiss =>
    intro s a l c r s2 va imm e1 s3 e2 s4 n1 s5 n2 s6 o1 o2 s7 h hb he1 he2 hn1 hn2
    exact exec_casg_misses h hb ⟨s3, he1, he2⟩ ⟨s5, hn1, hn2⟩
  case casgHit =>
    intro s a l c r s2 va e1 s3 e2 s4 n1 s5 n2 s6 s7 s8 h hb he1 he2 hn1 hn2
    exact exec_casg_hits h hb ⟨s3, he1, he2⟩ ⟨s5, hn1, hn2⟩
  case swpg =>
    intro s a l c r s2 va n1 s5 n2 s6 o1 o2 s7 s8 h hb hn1 hn2
    exact exec_swpg h hb ⟨s5, hn1, hn2⟩

end Sys2Proof.Machine

/-! PROOFS of the operations family, second part: generic arithmetic, comparisons and floats. -/

namespace Sys2Proof.Machine

open Sys2Proof

variable {s s1 s2 s3 s4 s5 s6 s7 t : State} {a : At} {op : Opcode} {l : Long} {c : CoreId} {r : ResB} {x y w : Word}
  {g : Nat} {i j : Int} {p q : Num} {b : Nat}

/-! ### Operands that are numbers (R176, R181, R182) -/

/-- The word of a number has the class of a T.FIX, a T.SFLOAT, a bignum or a float object. -/
theorem classOfTag_of_numOf (h : numOf c w s = .ok (p, t)) : classOfTag (tagOf w) ∈ [0, 2, 6, 7] := by
  by_contra hc
  have hfault : numOf c w = operandFault w := by
    unfold numOf
    split <;> simp_all
  rw [hfault] at h
  cases h

theorem tagOf_ne_of_numOf {k : Nat} (h : numOf c w s = .ok (p, t)) (hk : classOfTag k ∉ [0, 2, 6, 7]) : tagOf w ≠ k :=
  fun e => hk (e ▸ classOfTag_of_numOf h)

theorem Numbers.first_ne {k : Nat} (h : Numbers c x y s p q t) (hk : classOfTag k ∉ [0, 2, 6, 7]) : tagOf x ≠ k := by
  obtain ⟨_, hx, -⟩ := h.read
  exact tagOf_ne_of_numOf hx hk

theorem Numbers.second_ne {k : Nat} (h : Numbers c x y s p q t) (hk : classOfTag k ∉ [0, 2, 6, 7]) : tagOf y ≠ k := by
  obtain ⟨_, -, hy⟩ := h.read
  exact tagOf_ne_of_numOf hy hk

theorem isTime_of_ne (h : tagOf w ≠ 6) : isTime w = false := by simpa [isTime] using h

theorem isTime_iff : isTime w = true ↔ tagOf w = 6 := by simp [isTime]

/-- A T.TIME is no number. -/
theorem Numbers.first_not_time (h : Numbers c x y s p q t) : isTime x = false := isTime_of_ne (h.first_ne (by decide))
theorem Numbers.second_not_time (h : Numbers c x y s p q t) : isTime y = false := isTime_of_ne (h.second_ne (by decide))

/-- Two T.FIX are two integers. -/
theorem Numbers.bothFix_eq_false (h : Numbers c x y s p q t) (hf : anyFloat p q = true) : bothFix x y = false := by
  obtain ⟨u, hx, hy⟩ := h.read
  by_contra hb
  simp only [Bool.not_eq_false, bothFix, Bool.and_eq_true] at hb
  obtain ⟨hfx, hfy⟩ := hb
  rw [numOf_of_fix hfx] at hx
  rw [numOf_of_fix hfy] at hy
  cases hx; cases hy
  cases hf

/-- The dispatch table's entry completes and both operands are read. -/
theorem Numbers.bind {α : Type} {k : Num → Num → M α} (h : Numbers c x y s p q t) (hd : Admits s g x (some y)) :
    (do
      dispatch g x (some y)
      let u ← numOf c x
      let v ← numOf c y
      k u v : M α) s = k p q t := by
  obtain ⟨s1, hx, hy⟩ := h.read
  rw [M.bind_ok (dispatch_ok hd), M.bind_ok hx, M.bind_ok hy]

/-- A generic operation of two numbers: `onInts` of two integers, `onFloats` of the binary64 values where one is a float. -/
def numericOp {α : Type} (g : Nat) (onInts : Int → Int → M α) (onFloats : Nat → Nat → M α) (c : CoreId) (x y : Word) :
    M α := do
  dispatch g x (some y)
  let u ← numOf c x
  let v ← numOf c y
  match u, v with
  | .int i, .int j => onInts i j
  | _, _ => onFloats u.bits v.bits

section NumericOp

variable {α : Type} {onInts : Int → Int → M α} {onFloats : Nat → Nat → M α}

theorem numericOp_ints (h : Numbers c x y s (.int i) (.int j) t) (hd : Admits s g x (some y)) :
    numericOp g onInts onFloats c x y s = onInts i j t := h.bind hd

theorem numericOp_floats (h : Numbers c x y s p q t) (hd : Admits s g x (some y)) (hf : anyFloat p q = true) :
    numericOp g onInts onFloats c x y s = onFloats p.bits q.bits t := by
  refine (h.bind hd).trans ?_
  cases p with
  | flt b => rfl
  | int i =>
    cases q with
    | flt b => rfl
    | int j => cases hf

end NumericOp

theorem finishInt_ok {f : Tbl Bool} (h : intResult c i s = .ok (w, t)) : finishInt c i f s = .ok (w, withFlags t c f) := by
  rw [finishInt, M.bind_ok h, M.bind_setFlagsM, M.pure_run]

theorem finishFloat_ok (h : floatResult c b s = .ok (w, t)) :
    finishFloat c b s = .ok (w, withFlags t c (flagsFloat b)) := by
  rw [finishFloat, M.bind_ok h, M.bind_setFlagsM, M.pure_run]

/-! ### The generic operations on numbers -/

theorem genericAdd_eq (hx : isTime x = false) (hy : isTime y = false) : genericAdd c x y =
    numericOp 0x0 (fun i j => finishInt c (i + j) (intFlags (bothFix x y) (flagsAdd i j) (i + j)))
      (fun p q => finishFloat c (addF p q)) c x y := by
  simp only [genericAdd, hx, hy, Bool.or_self, Bool.false_eq_true, if_false]
  rfl

theorem genericSub_eq (hx : isTime x = false) : genericSub c x y =
    numericOp 0x1 (fun i j => finishInt c (i - j) (intFlags (bothFix x y) (flagsSub i j) (i - j)))
      (fun p q => finishFloat c (subF p q)) c x y := by
  simp only [genericSub, hx, Bool.false_and, Bool.false_eq_true, if_false]
  rfl

theorem genericMul_eq : genericMul c x y =
    numericOp 0x2 (fun i j => finishInt c (i * j) (flagsInt (i * j))) (fun p q => finishFloat c (mulF p q)) c x y := rfl

theorem genericDiv_eq : genericDiv c x y =
    numericOp 0x3 (fun i j => if j = 0 then simpleFault .divideZero 10 else finishInt c (i.tdiv j) (flagsInt (i.tdiv j)))
      (fun p q => finishFloat c (divF p q)) c x y := rfl

theorem genericRem_eq : genericRem c x y =
    numericOp 0x4 (fun i j => if j = 0 then simpleFault .divideZero 10 else finishInt c (i.tmod j) (flagsInt (i.tmod j)))
      (fun _ _ => operandFault y) c x y := rfl

theorem genericCmp_eq (ht : isTime x = false) (hc : tagOf x ≠ 1) (hf : bothFix x y = false) : genericCmp c x y =
    numericOp 0x7 (fun i j => setFlagsM c (flagsCmp (some (i - j)))) (fun p q => setFlagsM c (flagsCmp (cmpF p q))) c x y := by
  simp only [genericCmp, ht, beq_false_of_ne hc, hf, Bool.false_eq_true, if_false]
  rfl

theorem genericAdd_ints (hn : Numbers c x y s (.int i) (.int j) t) (hd : Admits s 0x0 x (some y))
    (hr : intResult c (i + j) t = .ok (w, s4)) :
    genericAdd c x y s = .ok (w, withFlags s4 c (if bothFix x y then flagsAdd i j else flagsInt (i + j))) := by
  rw [genericAdd_eq hn.first_not_time hn.second_not_time, numericOp_ints hn hd]
  exact finishInt_ok hr

theorem genericSub_ints (hn : Numbers c x y s (.int i) (.int j) t) (hd : Admits s 0x1 x (some y))
    (hr : intResult c (i - j) t = .ok (w, s4)) :
    genericSub c x y s = .ok (w, withFlags s4 c (if bothFix x y then flagsSub i j else flagsInt (i - j))) := by
  rw [genericSub_eq hn.first_not_time, numericOp_ints hn hd]
  exact finishInt_ok hr

theorem genericMul_ints (hn : Numbers c x y s (.int i) (.int j) t) (hd : Admits s 0x2 x (some y))
    (hr : intResult c (i * j) t = .ok (w, s4)) :
    genericMul c x y s = .ok (w, withFlags s4 c (flagsInt (i * j))) := by
  rw [genericMul_eq, numericOp_ints hn hd]
  exact finishInt_ok hr

theorem genericDiv_ints (hn : Numbers c x y s (.int i) (.int j) t) (hd : Admits s 0x3 x (some y)) (hj : j ≠ 0)
    (hr : intResult c (i.tdiv j) t = .ok (w, s4)) :
    genericDiv c x y s = .ok (w, withFlags s4 c (flagsInt (i.tdiv j))) := by
  rw [genericDiv_eq, numericOp_ints hn hd, if_neg hj]
  exact finishInt_ok hr

theorem genericRem_ints (hn : Numbers c x y s (.int i) (.int j) t) (hd : Admits s 0x4 x (some y)) (hj : j ≠ 0)
    (hr : intResult c (i.tmod j) t = .ok (w, s4)) :
    genericRem c x y s = .ok (w, withFlags s4 c (flagsInt (i.tmod j))) := by
  rw [genericRem_eq, numericOp_ints hn hd, if_neg hj]
  exact finishInt_ok hr

theorem genericDiv_zero (hn : Numbers c x y s (.int i) (.int 0) t) (hd : Admits s 0x3 x (some y)) :
    genericDiv c x y s = .error (.trap { cause := .divideZero, step := 10 }) := by
  rw [genericDiv_eq, numericOp_ints hn hd, if_pos rfl]
  rfl

theorem genericRem_zero (hn : Numbers c x y s (.int i) (.int 0) t) (hd : Admits s 0x4 x (some y)) :
    genericRem c x y s = .error (.trap { cause := .divideZero, step := 10 }) := by
  rw [genericRem_eq, numericOp_ints hn hd, if_pos rfl]
  rfl

theorem genericAdd_floats (hn : Numbers c x y s p q t) (hd : Admits s 0x0 x (some y)) (hf : anyFloat p q = true)
    (hr : floatResult c (addF p.bits q.bits) t = .ok (w, s4)) :
    genericAdd c x y s = .ok (w, withFlags s4 c (flagsFloat (addF p.bits q.bits))) := by
  rw [genericAdd_eq hn.first_not_time hn.second_not_time, numericOp_floats hn hd hf]
  exact finishFloat_ok hr

theorem genericSub_floats (hn : Numbers c x y s p q t) (hd : Admits s 0x1 x (some y)) (hf : anyFloat p q = true)
    (hr : floatResult c (subF p.bits q.bits) t = .ok (w, s4)) :
    genericSub c x y s = .ok (w, withFlags s4 c (flagsFloat (subF p.bits q.bits))) := by
  rw [genericSub_eq hn.first_not_time, numericOp_floats hn hd hf]
  exact finishFloat_ok hr

theorem genericMul_floats (hn : Numbers c x y s p q t) (hd : Admits s 0x2 x (some y)) (hf : anyFloat p q = true)
    (hr : floatResult c (mulF p.bits q.bits) t = .ok (w, s4)) :
    genericMul c x y s = .ok (w, withFlags s4 c (flagsFloat (mulF p.bits q.bits))) := by
  rw [genericMul_eq, numericOp_floats hn hd hf]
  exact finishFloat_ok hr

theorem genericDiv_floats (hn : Numbers c x y s p q t) (hd : Admits s 0x3 x (some y)) (hf : anyFloat p q = true)
    (hr : floatResult c (divF p.bits q.bits) t = .ok (w, s4)) :
    genericDiv c x y s = .ok (w, withFlags s4 c (flagsFloat (divF p.bits q.bits))) := by
  rw [genericDiv_eq, numericOp_floats hn hd hf]
  exact finishFloat_ok hr

/-! ### ADD and SUB before their generic operations (R188) -/

theorem vectorForm_of_ne (h : tagOf x ≠ 0x11) : vectorForm c x y = pure none := by
  rw [vectorForm, beq_false_of_ne h, Bool.false_and, if_neg Bool.false_ne_true]

/-- ADD of a first operand that is neither a T.SP nor a T.VECTOR is the generic operation. -/
theorem exec_add (h : Ready s a .add l c r x y s3) (hsp : tagOf x ≠ 0x32) (hv : tagOf x ≠ 0x11)
    (hg : genericAdd c x y s3 = .ok (w, s4)) : exec (.add a l) s = .next (done s l c r s4 w) := by
  refine congrArg Host.Outcome.next (h.value ?_)
  simp only [beq_false_of_ne hsp, Bool.false_and, Bool.false_eq_true, if_false, vectorForm_of_ne hv, M.bind_pure, hg]

theorem exec_add_trap {z : Trap} (h : Ready s a .add l c r x y s3) (hsp : tagOf x ≠ 0x32) (hv : tagOf x ≠ 0x11)
    (hg : genericAdd c x y s3 = .error (.trap z)) (hz : 1 < z.step) : exec (.add a l) s = .next (raised s l c z) := by
  refine congrArg Host.Outcome.next (h.valueTrap ?_ hz)
  simp only [beq_false_of_ne hsp, Bool.false_and, Bool.false_eq_true, if_false, vectorForm_of_ne hv, M.bind_pure, hg]

theorem exec_sub (h : Ready s a .sub l c r x y s3) (hsp : tagOf x ≠ 0x32) (hg : genericSub c x y s3 = .ok (w, s4)) :
    exec (.sub a l) s = .next (done s l c r s4 w) := by
  refine congrArg Host.Outcome.next (h.value ?_)
  simp only [beq_false_of_ne hsp, Bool.false_and, Bool.false_eq_true, if_false, hg]

theorem exec_sub_trap {z : Trap} (h : Ready s a .sub l c r x y s3) (hsp : tagOf x ≠ 0x32)
    (hg : genericSub c x y s3 = .error (.trap z)) (hz : 1 < z.step) : exec (.sub a l) s = .next (raised s l c z) := by
  refine congrArg Host.Outcome.next (h.valueTrap ?_ hz)
  simp only [beq_false_of_ne hsp, Bool.false_and, Bool.false_eq_true, if_false, hg]

/-- Settles O13: two integers or two binary64 values by the generic operation, division by the divisor. -/
theorem integerArithmeticCompletes : Obligations.IntegerArithmeticCompletes := by
  refine ⟨⟨?add, ?sub, ?mul, ?addFloat, ?subFloat, ?mulFloat⟩, ?div, ?rem, ?divZero, ?remZero, ?divFloat⟩
  case add =>
    intro s a l c r x y s3 i j s5 w s6 h hd hn hr
    exact exec_add h (hn.first_ne (by decide)) (hn.first_ne (by decide)) (genericAdd_ints hn hd hr)
  case sub =>
    intro s a l c r x y s3 i j s5 w s6 h hd hn hr
    exact exec_sub h (hn.first_ne (by decide)) (genericSub_ints hn hd hr)
  case mul =>
    intro s a l c r x y s3 i j s5 w s6 h hd hn hr
    rw [ite_self]
    exact congrArg Host.Outcome.next (h.value (genericMul_ints hn hd hr))
  case addFloat =>
    intro s a l c r x y s3 p q s5 w s6 h hd hn hf hr
    exact exec_add h (hn.first_ne (by decide)) (hn.first_ne (by decide)) (genericAdd_floats hn hd hf hr)
  case subFloat =>
    intro s a l c r x y s3 p q s5 w s6 h hd hn hf hr
    exact exec_sub h (hn.first_ne (by decide)) (genericSub_floats hn hd hf hr)
  case mulFloat =>
    intro s a l c r x y s3 p q s5 w s6 h hd hn hf hr
    exact congrArg Host.Outcome.next (h.value (genericMul_floats hn hd hf hr))
  case div =>
    intro s a l c r x y s3 i j s5 w s6 h hd hn hj hr
    exact congrArg Host.Outcome.next (h.value (genericDiv_ints hn hd hj hr))
  case rem =>
    intro s a l c r x y s3 i j s5 w s6 h hd hn hj hr
    exact congrArg Host.Outcome.next (h.value (genericRem_ints hn hd hj hr))
  case divZero =>
    intro s a l c r x y s3 i s5 h hd hn
    exact congrArg Host.Outcome.next (h.valueTrap (genericDiv_zero hn hd) (by simp))
  case remZero =>
    intro s a l c r x y s3 i s5 h hd hn
    exact congrArg Host.Outcome.next (h.valueTrap (genericRem_zero hn hd) (by simp))
  case divFloat =>
    intro s a l c r x y s3 p q s5 w s6 h hd hn hf hr
    exact congrArg Host.Outcome.next (h.value (genericDiv_floats hn hd hf hr))

/-! ### NEG and ABS (R182, R185) -/

theorem genericNeg_int (hd : Admits s 0x5 y none) (hn : numOf c y s = .ok (.int j, t))
    (hr : intResult c (-j) t = .ok (w, s4)) :
    genericNeg c y s = .ok (w, withFlags s4 c (if isFix y then flagsSub 0 j else flagsInt (-j))) := by
  rw [genericNeg, M.bind_ok (dispatch_ok hd), M.bind_ok hn]
  exact finishInt_ok hr

theorem genericAbs_int (hd : Admits s 0x6 y none) (hn : numOf c y s = .ok (.int j, t))
    (hr : intResult c j.natAbs t = .ok (w, s4)) :
    genericAbs c y s = .ok (w, withFlags s4 c (if isFix y then flagsAbs j else flagsInt j.natAbs)) := by
  rw [genericAbs, M.bind_ok (dispatch_ok hd), M.bind_ok hn]
  exact finishInt_ok hr

theorem genericNeg_float (hd : Admits s 0x5 y none) (hn : numOf c y s = .ok (.flt b, t))
    (hr : floatResult c (negF b) t = .ok (w, s4)) : genericNeg c y s = .ok (w, withFlags s4 c (flagsFloat (negF b))) := by
  rw [genericNeg, M.bind_ok (dispatch_ok hd), M.bind_ok hn]
  exact finishFloat_ok hr

theorem genericAbs_float (hd : Admits s 0x6 y none) (hn : numOf c y s = .ok (.flt b, t))
    (hr : floatResult c (absF b) t = .ok (w, s4)) : genericAbs c y s = .ok (w, withFlags s4 c (flagsFloat (absF b))) := by
  rw [genericAbs, M.bind_ok (dispatch_ok hd), M.bind_ok hn]
  exact finishFloat_ok hr

/-! ### Times (R53, R184) -/

theorem finishTime_run (v : Int) : finishTime c v s =
    .ok (mkWord 6 (v % 2 ^ 56).toNat, withFlags s c (flagsTime (v % 2 ^ 56).toNat)) := rfl

theorem genericAdd_time (hd : Admits s 0x0 x (some y)) (ht : (isTime x || isTime y) = true) : genericAdd c x y s =
    .ok (mkWord 6 ((valOf x + valOf y) % 2 ^ 56), withFlags s c (flagsTime ((valOf x + valOf y) % 2 ^ 56))) := by
  have hv : (((valOf x : Int) + valOf y) % 2 ^ 56).toNat = (valOf x + valOf y) % 2 ^ 56 := by omega
  rw [genericAdd, M.bind_ok (dispatch_ok hd), if_pos ht, finishTime_run, hv]

theorem genericSub_times (hd : Admits s 0x1 x (some y)) (hx : isTime x = true) (hy : isTime y = true) :
    genericSub c x y s = .ok (fix (timeDiff x y), withFlags s c (flagsInt (timeDiff x y))) := by
  rw [genericSub, M.bind_ok (dispatch_ok hd), hx, hy]
  rfl

theorem isTime_of_fix (h : isFix w = true) : isTime w = false :=
  isTime_of_ne (by rw [(isFix_iff w).mp h]; decide)

theorem genericSub_time (hd : Admits s 0x1 x (some y)) (hx : isTime x = true) (hy : isFix y = true) :
    genericSub c x y s = .ok (mkWord 6 (((valOf x : Int) - fixVal y) % 2 ^ 56).toNat,
      withFlags s c (flagsTime (((valOf x : Int) - fixVal y) % 2 ^ 56).toNat)) := by
  rw [genericSub, M.bind_ok (dispatch_ok hd), hx, isTime_of_fix hy]
  rfl

/-! ### Stack forms (R188) -/

theorem stackResult_ok {n : Nat} (hi : i = (n : Int)) (hn : n < 2 ^ 47) (ha : n % 16 = 0) :
    stackResult i w = pure (mkWord 0x32 n) := by
  subst hi
  have hrange : ((n : Int) < 0 || (2 : Int) ^ 47 ≤ n) = false := by simp; omega
  have halign : ((n : Int) % 16 != 0) = false := by simp; omega
  rw [stackResult, hrange, if_neg Bool.false_ne_true, halign, if_neg Bool.false_ne_true, Int.toNat_natCast]

theorem exec_add_stack {n : Nat} (h : Ready s a .add l c r x y s3) (hx : tagOf x = 0x32) (hy : isFix y = true)
    (hs : (valOf x : Int) + fixVal y = n) (hn : n < 2 ^ 47) (ha : n % 16 = 0) :
    exec (.add a l) s = .next (done s l c r s3 (mkWord 0x32 n)) := by
  refine congrArg Host.Outcome.next (h.value ?_)
  simp only [hx, hy, BEq.rfl, Bool.and_self, if_true, stackResult_ok hs hn ha, M.pure_run]

theorem exec_sub_stack {n : Nat} (h : Ready s a .sub l c r x y s3) (hx : tagOf x = 0x32) (hy : isFix y = true)
    (hs : (valOf x : Int) - fixVal y = n) (hn : n < 2 ^ 47) (ha : n % 16 = 0) :
    exec (.sub a l) s = .next (done s l c r s3 (mkWord 0x32 n)) := by
  refine congrArg Host.Outcome.next (h.value ?_)
  simp only [hx, hy, BEq.rfl, Bool.and_self, if_true, stackResult_ok hs hn ha, M.pure_run]

theorem exec_sub_stacks (h : Ready s a .sub l c r x y s3) (hx : tagOf x = 0x32) (hy : tagOf y = 0x32) :
    exec (.sub a l) s = .next (done s l c r s3 (fix ((valOf x : Int) - valOf y))) := by
  have hf : isFix y = false := by rw [isFix, hy]; rfl
  refine congrArg Host.Outcome.next (h.value ?_)
  simp only [hx, hy, hf, Bool.and_false, Bool.false_eq_true, BEq.rfl, Bool.and_self, if_true, if_false, M.pure_run]

/-- Settles O14: NEG and ABS by the kind of their number, ADD and SUB by the tags of their operands. -/
theorem negationsAndTimesComplete : Obligations.NegationsAndTimesComplete := by
  refine ⟨⟨?neg, ?abs, ?negFloat, ?absFloat⟩, ?addTime, ?subTimes, ?subTime, ?addStack, ?subStack, ?subStacks⟩
  case neg =>
    intro s a l c r x y s3 j s4 w s5 h hd hn hr
    exact congrArg Host.Outcome.next (h.unary (genericNeg_int hd hn hr))
  case abs =>
    intro s a l c r x y s3 j s4 w s5 h hd hn hr
    exact congrArg Host.Outcome.next (h.unary (genericAbs_int hd hn hr))
  case negFloat =>
    intro s a l c r x y s3 b s4 w s5 h hd hn hr
    exact congrArg Host.Outcome.next (h.unary (genericNeg_float hd hn hr))
  case absFloat =>
    intro s a l c r x y s3 b s4 w s5 h hd hn hr
    exact congrArg Host.Outcome.next (h.unary (genericAbs_float hd hn hr))
  case addTime =>
    intro s a l c r x y s3 h ht hd
    have htag : tagOf x = 6 ∨ tagOf x = 0 := by
      simp only [Bool.or_eq_true, Bool.and_eq_true, isTime_iff, isFix_iff] at ht
      omega
    have hany : (isTime x || isTime y) = true := by
      simp only [Bool.or_eq_true, Bool.and_eq_true] at ht ⊢
      exact ht.imp And.left And.right
    exact exec_add h (by omega) (by omega) (genericAdd_time hd hany)
  case subTimes =>
    intro s a l c r x y s3 h hx hy hd
    have htag := isTime_iff.mp hx
    exact exec_sub h (by omega) (genericSub_times hd hx hy)
  case subTime =>
    intro s a l c r x y s3 h hx hy hd
    have htag := isTime_iff.mp hx
    exact exec_sub h (by omega) (genericSub_time hd hx hy)
  case addStack => exact fun s a l c r x y s3 n => exec_add_stack
  case subStack => exact fun s a l c r x y s3 n => exec_sub_stack
  case subStacks => exact fun s a l c r x y s3 => exec_sub_stacks

end Sys2Proof.Machine

/-! PROOFS of the operations family, third part: comparisons, updates in place, dispatch traps and floats. -/

namespace Sys2Proof.Machine

open Sys2Proof

variable {s s1 s2 s3 s4 s5 s6 s7 t : State} {a : At} {op : Opcode} {l : Long} {c : CoreId} {r : ResB} {x y w : Word}
  {g : Nat} {i j : Int} {p q : Num} {b m : Nat}

/-! ### CMP (R184, R185) -/

theorem genericCmp_fix (hd : Admits s 0x7 x (some y)) (hb : bothFix x y = true) :
    genericCmp c x y s = .ok ((), withFlags s c (flagsSub (fixVal x) (fixVal y))) := by
  have hx : tagOf x = 0 := (isFix_iff x).mp (Bool.and_eq_true_iff.mp hb).1
  have hc : tagOf x ≠ 1 := by omega
  rw [genericCmp, M.bind_ok (dispatch_ok hd), isTime_of_ne (by omega), if_neg Bool.false_ne_true, beq_false_of_ne hc,
    if_neg Bool.false_ne_true, if_pos hb, setFlagsM_run]

theorem genericCmp_times (hd : Admits s 0x7 x (some y)) (hx : isTime x = true) :
    genericCmp c x y s = .ok ((), withFlags s c (flagsCmp (some (timeDiff x y)))) := by
  rw [genericCmp, M.bind_ok (dispatch_ok hd), if_pos hx, setFlagsM_run]

theorem genericCmp_chars (hd : Admits s 0x7 x (some y)) (hx : tagOf x = 1) :
    genericCmp c x y s = .ok ((), withFlags s c (flagsCmp (some ((valOf x : Int) - valOf y)))) := by
  rw [genericCmp, M.bind_ok (dispatch_ok hd), isTime_of_ne (by omega), if_neg Bool.false_ne_true, hx, if_pos BEq.rfl,
    setFlagsM_run]

theorem genericCmp_ints (hn : Numbers c x y s (.int i) (.int j) t) (hd : Admits s 0x7 x (some y))
    (hb : bothFix x y = false) : genericCmp c x y s = .ok ((), withFlags t c (flagsCmp (some (i - j)))) := by
  rw [genericCmp_eq hn.first_not_time (hn.first_ne (by decide)) hb, numericOp_ints hn hd, setFlagsM_run]

theorem genericCmp_floats (hn : Numbers c x y s p q t) (hd : Admits s 0x7 x (some y)) (hf : anyFloat p q = true) :
    genericCmp c x y s = .ok ((), withFlags t c (flagsCmp (cmpF p.bits q.bits))) := by
  rw [genericCmp_eq hn.first_not_time (hn.first_ne (by decide)) (hn.bothFix_eq_false hf), numericOp_floats hn hd hf,
    setFlagsM_run]

/-! ### Dispatch traps (R177 to R180) -/

theorem dispatch_trap {z : Option Word} (h : ¬ Admits s g x z) : dispatch g x z s = .error (.trap (sentTo s g x z)) := by
  have hk : s.fld .cfgGdt (dispatchEntry g x z) 17 16 = 2 := not_not.mp h
  simp only [dispatch, hk, BEq.rfl, if_true, sentTo]

section Dispatch

variable {k : At → Long → Instr}

/-- A binary operation with a result whose effect meets the dispatch table first. -/
theorem dispatchForm_of_value {f : CoreId → Word → Word → M Word}
    (hk : ∀ a l s, exec (k a l) s = .next (runLong s a op l (bodyR op l f)))
    (hf : ∀ c x y s, ¬ Admits s g x (some y) → f c x y s = .error (.trap (sentTo s g x (some y)))) :
    DispatchForm k op g := by
  intro s a l c r x y s3 h _ _ hd
  rw [hk, h.valueTrap (hf c x y s3 hd) (by simp [sentTo])]

/-- The same for an operation that only writes flags. -/
theorem dispatchForm_of_effect {f : CoreId → Word → Word → M Unit}
    (hk : ∀ a l s, exec (k a l) s = .next (runLong s a op l (bodyC op l f)))
    (hf : ∀ c x y s, ¬ Admits s g x (some y) → f c x y s = .error (.trap (sentTo s g x (some y)))) :
    DispatchForm k op g := by
  intro s a l c r x y s3 h _ _ hd
  rw [hk, h.effectTrap (hf c x y s3 hd) (by simp [sentTo])]

theorem dispatchUnaryForm_of_value {f : CoreId → Word → M Word}
    (hk : ∀ a l s, exec (k a l) s = .next (runLong s a op l (bodyU op l f)))
    (hf : ∀ c y s, ¬ Admits s g y none → f c y s = .error (.trap (sentTo s g y none))) : DispatchUnaryForm k op g := by
  intro s a l c r x y s3 h hd
  rw [hk]
  exact congrArg Host.Outcome.next (h.valueTrap (hf c y s3 hd) (by simp [sentTo]))

end Dispatch

/-- An effect that begins with the dispatch table stops where its entry traps. -/
theorem traps_of_dispatch {α : Type} {f : Unit → M α} {z : Option Word} (h : ¬ Admits s g x z) :
    (dispatch g x z >>= f) s = .error (.trap (sentTo s g x z)) :=
  M.bind_error (dispatch_trap h)

/-- Settles O15: CMP by the tags of its operands, the updates as the generic operation and then the write of operand B, and
an entry of KIND 2 before anything else of a generic operation. -/
theorem comparisonsAndUpdatesComplete : Obligations.ComparisonsAndUpdatesComplete := by
  refine ⟨⟨?cmpFix, ?cmpTimes, ?cmpChars, ?cmpInts, ?cmpFloats, ?fcmp⟩, ⟨?addto, ?subto, ?addtoFloat, ?subtoFloat⟩, ?add, ?sub,
    ?mul, ?div, ?rem, ?cmp, ?fadd, ?fsub, ?fmul, ?fdiv, ?fcmpTrap, ?neg, ?abs, ?fsqrt⟩
  case cmpFix =>
    intro s a l c r x y s3 h hb hd
    exact congrArg Host.Outcome.next (h.effect (genericCmp_fix hd hb))
  case cmpTimes =>
    intro s a l c r x y s3 h hx _ hd
    exact congrArg Host.Outcome.next (h.effect (genericCmp_times hd hx))
  case cmpChars =>
    intro s a l c r x y s3 h hx _ hd
    exact congrArg Host.Outcome.next (h.effect (genericCmp_chars hd hx))
  case cmpInts =>
    intro s a l c r x y s3 i j s5 h hb hd hn
    exact congrArg Host.Outcome.next (h.effect (genericCmp_ints hn hd hb))
  case cmpFloats =>
    intro s a l c r x y s3 p q s5 h hd hn hf
    exact congrArg Host.Outcome.next (h.effect (genericCmp_floats hn hd hf))
  case fcmp =>
    intro s a l c r x y s3 p q s5 h hd hn
    exact congrArg Host.Outcome.next (h.effect (hn.bind hd))
  case addto =>
    intro s a l c r x y s3 i j s5 w s6 s7 h hd hn hr hw
    exact congrArg Host.Outcome.next (h.update (genericAdd_ints hn hd hr) hw)
  case subto =>
    intro s a l c r x y s3 i j s5 w s6 s7 h hd hn hr hw
    exact congrArg Host.Outcome.next (h.update (genericSub_ints hn hd hr) hw)
  case addtoFloat =>
    intro s a l c r x y s3 p q s5 w s6 s7 h hd hn hf hr hw
    exact congrArg Host.Outcome.next (h.update (genericAdd_floats hn hd hf hr) hw)
  case subtoFloat =>
    intro s a l c r x y s3 p q s5 w s6 s7 h hd hn hf hr hw
    exact congrArg Host.Outcome.next (h.update (genericSub_floats hn hd hf hr) hw)
  case add =>
    intro s a l c r x y s3 h hsp hv hd
    exact exec_add_trap h hsp hv (traps_of_dispatch hd) (by simp [sentTo])
  case sub =>
    intro s a l c r x y s3 h hsp _ hd
    exact exec_sub_trap h hsp (traps_of_dispatch hd) (by simp [sentTo])
  case mul | div | rem | fadd | fsub | fmul | fdiv =>
    exact dispatchForm_of_value (fun _ _ _ => rfl) fun _ _ _ _ hd => traps_of_dispatch hd
  case cmp | fcmpTrap => exact dispatchForm_of_effect (fun _ _ _ => rfl) fun _ _ _ _ hd => traps_of_dispatch hd
  case neg | abs | fsqrt => exact dispatchUnaryForm_of_value (fun _ _ _ => rfl) fun _ _ _ hd => traps_of_dispatch hd

/-! ### Floats (R182, R189) -/

theorem floatOp_ok {f : Nat → Nat → Nat} (hn : Numbers c x y s p q t) (hd : Admits s g x (some y))
    (hr : floatResult c (f p.bits q.bits) t = .ok (w, s4)) :
    floatOp g f c x y s = .ok (w, withFlags s4 c (flagsFloat (f p.bits q.bits))) :=
  (hn.bind hd).trans (finishFloat_ok hr)

theorem exec_fsqrt (h : Ready s a .fsqrt l c r x y s3) (hd : Admits s3 0xD y none) (hn : numOf c y s3 = .ok (p, s4))
    (hr : floatResult c (sqrtF p.bits) s4 = .ok (w, s5)) :
    exec (.fsqrt a l) s = .next (done s l c r (withFlags s5 c (flagsFloat (sqrtF p.bits))) w) := by
  refine congrArg Host.Outcome.next (h.unary ?_)
  rw [M.bind_ok (dispatch_ok hd), M.bind_ok hn]
  exact finishFloat_ok hr

/-- The float that mode 0 of FCVT gives. -/
def Num.asFloat : Num → Nat
  | .int i => intToF i
  | .flt b => if isNaNF b then quiet b else b

theorem exec_fcvt_float (h : Ready s a .fcvt l c r (fixN 0) y s3) (hd : Admits s3 0xE y none)
    (hn : numOf c y s3 = .ok (p, s4)) (hr : floatResult c p.asFloat s4 = .ok (w, s5)) :
    exec (.fcvt a l) s = .next (done s l c r (withFlags s5 c (flagsFloat p.asFloat)) w) := by
  refine congrArg Host.Outcome.next (h.value ?_)
  have hmode : (!isFix (fixN 0) || decide (3 < valOf (fixN 0))) = false := by decide
  have hzero : (valOf (fixN 0) == 0) = true := by decide
  rw [hmode, if_neg Bool.false_ne_true, M.bind_ok (dispatch_ok hd), M.bind_ok hn, if_pos hzero]
  cases p with
  | int i => exact finishFloat_ok hr
  | flt b => exact finishFloat_ok hr

theorem exec_fcvt_int (h : Ready s a .fcvt l c r (fixN m) y s3) (h1 : 1 ≤ m) (h3 : m ≤ 3) (hd : Admits s3 0xE y none)
    (hn : numOf c y s3 = .ok (p, s4)) (hi : numInt m p = some i) (hr : intResult c i s4 = .ok (w, s5)) :
    exec (.fcvt a l) s = .next (done s l c r (withFlags s5 c (flagsInt i)) w) := by
  have hv : valOf (fixN m) = m := valOf_fixN (by omega)
  have hmode : (!isFix (fixN m) || decide (3 < valOf (fixN m))) = false := by simp [hv, h3]
  have hzero : ¬ (valOf (fixN m) == 0) = true := by simp [hv]; omega
  refine congrArg Host.Outcome.next (h.value ?_)
  rw [hmode, if_neg Bool.false_ne_true, M.bind_ok (dispatch_ok hd), M.bind_ok hn, if_neg hzero]
  cases p with
  | int j =>
    obtain rfl : j = i := Option.some.inj hi
    exact finishInt_ok hr
  | flt b =>
    have hb : fToInt (valOf (fixN m)) b = some i := by rw [hv]; exact hi
    simp only [hb, finishInt_ok hr]

/-- Settles O16: a float operation on the binary64 values of its operands, FCVT by its mode. -/
theorem floatsComplete : Obligations.FloatsComplete := by
  refine ⟨?binary, fun s a l c r x y s3 p s4 w s5 => exec_fsqrt, ?fromInt, ?fromFloat, ?toInt⟩
  case binary =>
    intro k op g f hm s a l c r x y s3 p q s5 w s6 h hd hn hr
    simp only [List.mem_cons, Prod.mk.injEq, List.not_mem_nil, or_false] at hm
    obtain ⟨rfl, rfl, rfl, rfl⟩ | ⟨rfl, rfl, rfl, rfl⟩ | ⟨rfl, rfl, rfl, rfl⟩ | ⟨rfl, rfl, rfl, rfl⟩ := hm
    all_goals exact congrArg Host.Outcome.next (h.value (floatOp_ok hn hd hr))
  case fromInt => exact fun s a l c r y s3 i s4 w s5 => exec_fcvt_float (p := .int i)
  case fromFloat => exact fun s a l c r y s3 b s4 w s5 => exec_fcvt_float (p := .flt b)
  case toInt => exact fun s a l c r m y s3 p i s4 w s5 => exec_fcvt_int

end Sys2Proof.Machine

/-! PROOFS of the operations family, fourth part: logic, shifts, counts, checks and bit registers. -/

namespace Sys2Proof.Machine

open Sys2Proof

variable {s s1 s2 s3 s4 t : State} {a : At} {op : Opcode} {l : Long} {c : CoreId} {r : ResB} {x y w : Word}
  {n m u v i : Nat}

/-! ### The bits of a T.FIX value (R50, R189) -/

theorem valOf_lt (w : Word) : valOf w < 2 ^ 56 := bitsOf_lt w 55 0

theorem testBit_valOf (w : Word) (h : i < 56) : (valOf w).testBit i = bitOf w i := by
  rw [valOf, testBit_bitsOf, Nat.zero_add, bitOf]
  simp [h]

theorem flagsLogic_of_lt (h : v < 2 ^ 56) : flagsLogic v = [(0, v == 0), (1, v.testBit 55)] := by
  rw [flagsLogic, Nat.mod_eq_of_lt h]
  rfl

/-- A function of numbers that acts bit by bit on the 56 value bits. -/
def Bitwise56 (F : Nat → Nat → Nat) (f : Bool → Bool → Bool) : Prop :=
  ∀ u v i, v < 2 ^ 56 → i < 56 → (F u v).testBit i = f (u.testBit i) (v.testBit i)

theorem bitwise56_and : Bitwise56 (fun x y => x &&& y) (fun p q => p && q) := fun u v i _ _ => Nat.testBit_and u v i

theorem bitwise56_or : Bitwise56 (fun x y => x ||| y) (fun p q => p || q) := fun u v i _ _ => Nat.testBit_or u v i

theorem bitwise56_xor : Bitwise56 (fun x y => x ^^^ y) (fun p q => p != q) := fun u v i _ _ => Nat.testBit_xor u v i

theorem bitwise56_andn : Bitwise56 andN (fun p q => p && !q) := by
  intro u v i hv hi
  have hsub : 2 ^ 56 - 1 - v % 2 ^ 56 = 2 ^ 56 - (v + 1) := by omega
  rw [andN, hsub, Nat.testBit_and, Nat.testBit_two_pow_sub_succ hv]
  simp [hi]

theorem logicOp_ok {F : Nat → Nat → Nat} {f : Bool → Bool → Bool} (hF : Bitwise56 F f) (hx : isFix x = true)
    (hy : isFix y = true) : ∃ v, v < 2 ^ 56 ∧ (∀ i, i < 56 → v.testBit i = f (bitOf x i) (bitOf y i))
      ∧ logicOp F c x y s = .ok (fixN v, withFlags s c [(0, v == 0), (1, v.testBit 55)]) := by
  have hlt : F (valOf x) (valOf y) % 2 ^ 56 < 2 ^ 56 := Nat.mod_lt _ (by decide)
  refine ⟨_, hlt, fun i hi => ?_, ?_⟩
  · rw [Nat.testBit_mod_two_pow, hF _ _ _ (valOf_lt y) hi, testBit_valOf x hi, testBit_valOf y hi]
    simp [hi]
  · rw [logicOp, fixPair, wantFix_of_fix hx, wantFix_of_fix hy, ← flagsLogic_of_lt hlt]
    rfl

/-! ### Shifts (R189) -/

theorem shiftCount_fixN (h : n ≤ 63) : shiftCount (fixN n) = pure n := by
  have hv : valOf (fixN n) = n := valOf_fixN (by omega)
  rw [shiftCount, hv, if_pos (by simp [h])]

theorem shiftCount_beyond (h : 63 < valOf y) : shiftCount y = operandFault y :=
  if_neg (by simp [h])

theorem shlOp_ok (hx : isFix x = true) (hn : n ≤ 63) (hv : v = valOf x * 2 ^ n % 2 ^ 56) : shlOp c x (fixN n) s =
    .ok (fixN v, withFlags s c [(0, v == 0), (1, v.testBit 55), (3, signed 56 v != fixVal x * 2 ^ n)]) := by
  have hlt : v < 2 ^ 56 := hv ▸ Nat.mod_lt _ (by decide)
  rw [shlOp, wantFix_of_fix hx, M.bind_pure, shiftCount_fixN hn, M.bind_pure, ← hv, flagsLogic_of_lt hlt]
  rfl

theorem shrOp_ok (hx : isFix x = true) (hn : n ≤ 63) (hv : v = valOf x / 2 ^ n) : shrOp c x (fixN n) s =
    .ok (fixN v, withFlags s c [(0, v == 0), (1, v.testBit 55)]) := by
  have hlt : v < 2 ^ 56 := hv ▸ Nat.lt_of_le_of_lt (Nat.div_le_self _ _) (valOf_lt x)
  rw [shrOp, wantFix_of_fix hx, M.bind_pure, shiftCount_fixN hn, M.bind_pure, ← hv, flagsLogic_of_lt hlt]
  rfl

theorem fixVal_range (w : Word) : -2 ^ 55 ≤ fixVal w ∧ fixVal w < 2 ^ 55 := by
  have h := valOf_lt w
  rw [fixVal, signed]
  split <;> omega

/-- The sign bit of the 56 bits of an integer in the T.FIX range. -/
theorem flagsLogic_unsigned56 {j : Int} (hl : -2 ^ 55 ≤ j) (hh : j < 2 ^ 55) :
    flagsLogic (unsigned56 j) = [(0, j == 0), (1, decide (j < 0))] := by
  have hlt : unsigned56 j < 2 ^ 56 := by simp only [unsigned56]; omega
  have hz : (unsigned56 j == 0) = (j == 0) := by
    rw [Bool.eq_iff_iff, beq_iff_eq, beq_iff_eq, unsigned56]
    omega
  have hn : (unsigned56 j).testBit 55 = decide (j < 0) := by
    rw [Nat.testBit_eq_decide_div_mod_eq, decide_eq_decide, unsigned56]
    omega
  rw [flagsLogic_of_lt hlt, hz, hn]

theorem sarOp_ok {j : Int} (hx : isFix x = true) (hn : n ≤ 63) (hj : j = fixVal x / 2 ^ n) : sarOp c x (fixN n) s =
    .ok (fix j, withFlags s c [(0, j == 0), (1, decide (j < 0))]) := by
  obtain ⟨hl, hh⟩ := fixVal_range x
  have hp : (0 : Int) < 2 ^ n := by positivity
  have h1 : -2 ^ 55 ≤ j := hj ▸ (Int.le_ediv_iff_mul_le hp).mpr (by nlinarith)
  have h2 : j < 2 ^ 55 := hj ▸ (Int.ediv_lt_iff_lt_mul hp).mpr (by nlinarith)
  rw [sarOp, wantFix_of_fix hx, M.bind_pure, shiftCount_fixN hn, M.bind_pure, ← hj, flagsLogic_unsigned56 h1 h2]
  rfl

/-- A trap that shows an operand word which a frame may hold (R228, R229). -/
theorem wordTrap_of_fix (z : Cause) (step access : Nat) (h : isFix w = true) :
    wordTrap z w step access = { cause := z, step := step, access := access, foper := w } := by
  rw [wordTrap, (isFix_iff w).mp h]
  rfl

theorem shift_beyond {f : Nat → M Word} (hx : isFix x = true) (hy : isFix y = true) (h : 63 < valOf y) :
    (wantFix x >>= fun _ => shiftCount y >>= f) s = .error (.trap { cause := .wordFormat, step := 10, foper := y }) := by
  rw [wantFix_of_fix hx, M.bind_pure, shiftCount_beyond h, ← wordTrap_of_fix .wordFormat 10 0 hy]
  rfl

/-- Settles O17: logic acts on each bit of the two values; a shift by its count, which 63 bounds. -/
theorem logicAndShiftsComplete : Obligations.LogicAndShiftsComplete := by
  refine ⟨?logic, ?shl, ?shr, ?sar, ?beyond⟩
  case logic =>
    intro k op f hm s a l c r x y s3 h hx hy
    simp only [List.mem_cons, Prod.mk.injEq, List.not_mem_nil, or_false] at hm
    obtain ⟨rfl, rfl, rfl⟩ | ⟨rfl, rfl, rfl⟩ | ⟨rfl, rfl, rfl⟩ | ⟨rfl, rfl, rfl⟩ := hm
    · obtain ⟨v, hlt, hb, hv⟩ := logicOp_ok bitwise56_and hx hy
      exact ⟨v, hlt, hb, congrArg Host.Outcome.next (h.value hv)⟩
    · obtain ⟨v, hlt, hb, hv⟩ := logicOp_ok bitwise56_or hx hy
      exact ⟨v, hlt, hb, congrArg Host.Outcome.next (h.value hv)⟩
    · obtain ⟨v, hlt, hb, hv⟩ := logicOp_ok bitwise56_xor hx hy
      exact ⟨v, hlt, hb, congrArg Host.Outcome.next (h.value hv)⟩
    · obtain ⟨v, hlt, hb, hv⟩ := logicOp_ok bitwise56_andn hx hy
      exact ⟨v, hlt, hb, congrArg Host.Outcome.next (h.value hv)⟩
  case shl =>
    rintro s a l c r x _ s3 n v h hx rfl hn hv
    exact congrArg Host.Outcome.next (h.value (shlOp_ok hx hn hv))
  case shr =>
    rintro s a l c r x _ s3 n v h hx rfl hn hv
    exact congrArg Host.Outcome.next (h.value (shrOp_ok hx hn hv))
  case sar =>
    rintro s a l c r x _ s3 n j h hx rfl hn hj
    exact congrArg Host.Outcome.next (h.value (sarOp_ok hx hn hj))
  case beyond =>
    intro k op hm s a l c r x y s3 h hx hy hv
    simp only [List.mem_cons, Prod.mk.injEq, List.not_mem_nil, or_false] at hm
    obtain ⟨rfl, rfl⟩ | ⟨rfl, rfl⟩ | ⟨rfl, rfl⟩ := hm
    all_goals exact congrArg Host.Outcome.next (h.valueTrap (shift_beyond hx hy hv) (by simp))

/-! ### Counts (R189) -/

theorem countOp_ok {f : Nat → Nat} (hy : isFix y = true) (hn : f (valOf y) = n) :
    countOp f c y s = .ok (fixN n, withBitReg s c 0 (n == 0)) := by
  rw [countOp, wantFix_of_fix hy, M.bind_pure, hn]
  rfl

theorem popcount_valOf (y : Word) : popcount (valOf y) = ((List.range 56).filter (bitOf y)).length := by
  rw [popcount, List.filter_congr fun i hi => testBit_valOf y (List.mem_range.mp hi)]

/-- The leading zeros of 56 bits: n zeros from the top, and below them a one or nothing. -/
theorem clz56_eq (hv : v < 2 ^ 56) (hn : n ≤ 56) (hz : ∀ i, 56 ≤ i + n → i < 56 → v.testBit i = false)
    (h1 : n < 56 → v.testBit (55 - n) = true) : clz56 v = n := by
  have hbelow : v < 2 ^ (56 - n) := by
    refine Nat.lt_pow_two_of_testBit v fun i hi => ?_
    by_cases h56 : i < 56
    · exact hz i (by omega) h56
    · exact Nat.testBit_eq_false_of_lt (Nat.lt_of_lt_of_le hv (Nat.pow_le_pow_right (by decide) (by omega)))
  rw [clz56, Nat.mod_eq_of_lt hv]
  by_cases hfull : n = 56
  · subst hfull
    have h0 : v = 0 := by omega
    rw [h0]; rfl
  · have hge : 2 ^ (55 - n) ≤ v := Nat.ge_two_pow_of_testBit (h1 (by omega))
    have hne : v ≠ 0 := Nat.ne_of_gt (Nat.lt_of_lt_of_le (Nat.two_pow_pos _) hge)
    have hlog : Nat.log2 v = 55 - n := (Nat.log2_eq_iff hne).mpr ⟨hge, by rwa [show 55 - n + 1 = 56 - n by omega]⟩
    rw [if_neg (by simpa using hne), hlog]
    omega

/-! ### BITREV (R189) -/

/-- A power of two added below every bit of a number sets its own bit. -/
theorem testBit_add_two_pow (hz : ∀ i, i ≤ n → v.testBit i = false) (i : Nat) :
    (v + 2 ^ n).testBit i = (decide (i = n) || v.testBit i) := by
  have hmod : v % 2 ^ (n + 1) = 0 := by
    refine Nat.eq_of_testBit_eq fun j => ?_
    rw [Nat.testBit_mod_two_pow, Nat.zero_testBit]
    by_cases hj : j ≤ n
    · rw [hz j hj, Bool.and_false]
    · rw [decide_eq_false (by omega), Bool.false_and]
  have hv : 2 ^ (n + 1) * (v / 2 ^ (n + 1)) = v := Nat.mul_div_cancel' (Nat.dvd_of_mod_eq_zero hmod)
  have hlt : 2 ^ n < 2 ^ (n + 1) := Nat.pow_lt_pow_right (by decide) (Nat.lt_succ_self n)
  have hi := Nat.testBit_two_pow_mul_add (v / 2 ^ (n + 1)) hlt i
  rw [hv] at hi
  rw [hi]
  split
  · rw [Nat.testBit_two_pow, hz i (by omega), Bool.or_false, decide_eq_decide]
    exact eq_comm
  · rw [Nat.testBit_div_two_pow, Nat.sub_add_cancel (by omega), decide_eq_false (by omega), Bool.false_or]

/-- The m lowest bits of a number at their places in a turned width of w. -/
def turned (w v m : Nat) : Nat :=
  (List.range m).foldl (fun a i => if v.testBit i then a + 2 ^ (w - 1 - i) else a) 0

theorem reverseBits_eq (w v : Nat) : reverseBits w v = turned w v w := rfl

theorem turned_succ (w v m : Nat) :
    turned w v (m + 1) = if v.testBit m then turned w v m + 2 ^ (w - 1 - m) else turned w v m := by
  rw [turned, List.range_succ, List.foldl_append]
  rfl

theorem testBit_turned {w : Nat} (hm : m ≤ w) (i : Nat) :
    (turned w v m).testBit i = (decide (w ≤ i + m ∧ i < w) && v.testBit (w - 1 - i)) := by
  induction m generalizing i with
  | zero => rw [decide_eq_false (by omega), Bool.false_and]; exact Nat.zero_testBit i
  | succ m ih =>
    have hstep : (turned w v (m + 1)).testBit i = (decide (i = w - 1 - m) && v.testBit m || (turned w v m).testBit i) := by
      rw [turned_succ]
      split
      · next hb =>
        rw [testBit_add_two_pow (fun j hj => by rw [ih (by omega), decide_eq_false (by omega), Bool.false_and]), hb,
          Bool.and_true]
      · next hb => rw [Bool.eq_false_of_not_eq_true hb, Bool.and_false, Bool.false_or]
    rw [hstep, ih (by omega)]
    by_cases hi : i = w - 1 - m
    · have hback : w - 1 - i = m := by omega
      rw [hback, decide_eq_true hi, decide_eq_false (by omega), decide_eq_true (by omega)]
      simp
    · rw [decide_eq_false hi, Bool.false_and, Bool.false_or]
      congr 2
      exact propext (by omega)

theorem reverseBits_spec (w v : Nat) :
    reverseBits w v < 2 ^ w ∧ ∀ i, i < w → (reverseBits w v).testBit i = v.testBit (w - 1 - i) := by
  rw [reverseBits_eq]
  refine ⟨Nat.lt_pow_two_of_testBit _ fun i hi => ?_, fun i hi => ?_⟩
  · rw [testBit_turned le_rfl, decide_eq_false (by omega), Bool.false_and]
  · rw [testBit_turned le_rfl, decide_eq_true (by omega), Bool.true_and]

/-! ### CRCSTEP (R190) -/

theorem crcDescM_ok {d : CrcDesc} {k : Nat} (hx : isFix x = true) (hd : crcDescOf (valOf x) true = some (d, k)) :
    crcDescM x true = pure (d, k) := by
  rw [crcDescM, if_pos hx, hd]

theorem crcDescM_fault (h : isFix x = false ∨ crcDescOf (valOf x) true = none) : crcDescM x true = operandFault x := by
  have hnone : (if isFix x then crcDescOf (valOf x) true else none) = none := by
    split
    · exact h.resolve_left (by simp [*])
    · rfl
  rw [crcDescM, hnone]

theorem exec_crcstep {d : CrcDesc} {k : Nat} (h : Ready s a .crcstep l c r x y s3) (hx : isFix x = true)
    (hd : crcDescOf (valOf x) true = some (d, k)) (hy : isFix y = true) (hw : (s3.core c).getReg l.rd.toNat = w)
    (hf : isFix w = true) (hlt : valOf w < 2 ^ d.w) :
    exec (.crcstep a l) s = .next (done s l c r s3 (fixN (crcFold d (valOf y) k (valOf w)))) := by
  have hstate : crcOp w d k (valOf y) = pure (fixN (crcFold d (valOf y) k (valOf w))) := if_pos (by simp [hf, hlt])
  refine congrArg Host.Outcome.next (h.value ?_)
  simp only [M.bind_regM, hw, crcDescM_ok hx hd, M.bind_pure, wantFix_of_fix hy, hstate, M.pure_run]

theorem exec_crcstep_fault (h : Ready s a .crcstep l c r x y s3)
    (hx : isFix x = false ∨ crcDescOf (valOf x) true = none) :
    exec (.crcstep a l) s = .next (raised s l c (wordTrap .wordFormat x 10 0)) := by
  refine congrArg Host.Outcome.next (h.valueTrap ?_ (by simp [wordTrap]))
  simp only [M.bind_regM, crcDescM_fault hx, operandFault, M.bind_trapM]

/-! ### Bit registers (R105, R175, R203) -/

/-- The sum of RA and operand B, g0 counting 0 (R175). -/
def operandSum (l : Long) (x y : Word) : Int := (if l.ra = 24 then 0 else fixVal x) + fixVal y

theorem wantFirst_ok {α : Type} {k : Unit → M α} (hx : l.ra ≠ 24 → isFix x = true) :
    (if l.ra != 24 then wantFix x >>= k else k ()) = k () := by
  split
  · next h => rw [wantFix_of_fix (hx (by simpa using h)), pure_bind]
  · rfl

theorem sumOperand_ok (hx : l.ra ≠ 24 → isFix x = true) (hy : isFix y = true) :
    sumOperand l x y = pure (operandSum l x y) := by
  funext s
  simp only [sumOperand, wantFirst_ok hx, wantFix_of_fix hy, M.bind_pure, operandSum, beq_iff_eq]

theorem bitNumber_ok (hx : l.ra ≠ 24 → isFix x = true) (hy : isFix y = true) (hs : operandSum l x y = n)
    (hn : n ≤ 255) : bitNumber l x y = pure n := by
  funext s
  have hrange : (decide ((0 : Int) ≤ n) && decide ((n : Int) ≤ 255)) = true := by simp; omega
  rw [bitNumber, sumOperand_ok hx hy, M.bind_pure, hs, if_pos hrange, Int.toNat_natCast]

/-- The destination of a bit operation (R203). -/
structure Destination (l : Long) (x : Word) (d : Nat) : Prop where
  named : l.ra ≠ 24 ∧ x = fixN d ∨ l.ra = 24 ∧ d = 0
  le : d ≤ 255

theorem Destination.isFix {d : Nat} (h : Destination l x d) (h24 : l.ra ≠ 24) : isFix x = true := by
  obtain ⟨-, rfl⟩ | ⟨he, -⟩ := h.named
  · exact isFix_fixN d
  · exact absurd he h24

theorem Destination.number_eq {d : Nat} (h : Destination l x d) : (if l.ra == 24 then 0 else valOf x) = d := by
  have hle := h.le
  obtain ⟨hne, rfl⟩ | ⟨he, rfl⟩ := h.named
  · rw [if_neg (by simpa using hne), valOf_fixN (by omega)]
  · rw [he]; rfl

theorem bitArgs_ok {d : Nat} {unary : Bool} (hx : Destination l x d) (hy : isFix y = true) (hv : valOf y < 2 ^ 17)
    (hu : unary = true → valOf y / 256 % 256 = 0) :
    bitArgs l x y unary = pure (d, valOf y % 256, valOf y / 256 % 256, bitOf y 16) := by
  funext s
  have hd : ¬ 255 < d := Nat.not_lt.mpr hx.le
  have hok : ¬ (decide (2 ^ 17 ≤ valOf y) || unary && valOf y / 256 % 256 != 0) = true := by
    cases unary with
    | false => simpa using hv
    | true => simpa [hu rfl] using hv
  simp only [bitArgs, wantFirst_ok hx.isFix, wantFix_of_fix hy, M.bind_pure, hx.number_eq, if_neg hd, if_neg hok]

theorem bitOp_ok {d : Nat} {unary : Bool} {f : Bool → Bool → Bool} (hx : Destination l x d) (hy : isFix y = true)
    (hv : valOf y < 2 ^ 17) (hu : unary = true → valOf y / 256 % 256 = 0) : bitOp l unary f c x y s =
    .ok ((), withBitReg s c d (f ((s.core c).bit (valOf y % 256)) ((s.core c).bit (valOf y / 256 % 256)) != bitOf y 16)) := by
  rw [bitOp, bitArgs_ok hx hy hv hu]
  rfl

/-- Settles O18: a count by the bits of its value, a bit operation by the number that its operands name. -/
theorem countsAndBitRegistersComplete : Obligations.CountsAndBitRegistersComplete := by
  refine ⟨⟨?popc, ?parity, ?clz, ?bitrev⟩, ⟨?crcstep, ?crcFault⟩, ?bset, ?bclr, ?btest, ?bmov, ?binary⟩
  case popc =>
    intro s a l c r x y s3 n h hy hn
    exact congrArg Host.Outcome.next (h.unary (countOp_ok hy (by rw [hn, popcount_valOf])))
  case parity =>
    intro s a l c r x y s3 n h hy hn
    exact congrArg Host.Outcome.next (h.unary (countOp_ok hy (by rw [hn, popcount_valOf])))
  case clz =>
    intro s a l c r x y s3 n h hy hn hz h1
    have hclz : clz56 (valOf y) = n := by
      refine clz56_eq (valOf_lt y) hn (fun i hi h56 => ?_) fun h56 => ?_
      · rw [testBit_valOf y h56, hz i hi h56]
      · rw [testBit_valOf y (by omega), h1 h56]
    exact congrArg Host.Outcome.next (h.unary (countOp_ok hy hclz))
  case bitrev =>
    rintro s a l c r _ y s3 n h rfl h1 h56 hy
    have hv : valOf (fixN n) = n := valOf_fixN (by omega)
    have hw : IsWidth (fixN n) := ⟨isFix_fixN n, by omega, by omega⟩
    obtain ⟨hlt, hbit⟩ := reverseBits_spec n (valOf y)
    refine ⟨_, hlt, fun i hi => ?_, congrArg Host.Outcome.next (h.value ?_)⟩
    · rw [hbit i hi, testBit_valOf y (by omega)]
    · simp only [hw.widthOf_eq, hv, M.bind_pure, wantFix_of_fix hy, M.pure_run]
  case crcstep => exact fun s a l c r x y s3 d k w => exec_crcstep
  case crcFault => exact fun s a l c r x y s3 => exec_crcstep_fault
  case bset =>
    intro s a l c r x y s3 n h hx hy hs hn
    refine congrArg Host.Outcome.next (h.effect ?_)
    rw [bitNumber_ok hx hy hs hn]
    rfl
  case bclr =>
    intro s a l c r x y s3 n h hx hy hs hn
    refine congrArg Host.Outcome.next (h.effect ?_)
    rw [bitNumber_ok hx hy hs hn]
    rfl
  case btest =>
    intro s a l c r x y s3 n h hx hy hs hn
    refine congrArg Host.Outcome.next (h.effect ?_)
    rw [bitNumber_ok hx hy hs hn]
    rfl
  case bmov =>
    rintro s a l c r x y s3 d _ h hx hd hy hv hu rfl
    exact congrArg Host.Outcome.next (h.effect (bitOp_ok ⟨hx, hd⟩ hy hv fun _ => hu))
  case binary =>
    rintro k op f hm s a l c r x y s3 d _ _ h hx hd hy hv rfl rfl
    simp only [List.mem_cons, Prod.mk.injEq, List.not_mem_nil, or_false] at hm
    obtain ⟨rfl, rfl, rfl⟩ | ⟨rfl, rfl, rfl⟩ | ⟨rfl, rfl, rfl⟩ := hm
    all_goals exact congrArg Host.Outcome.next (h.effect (bitOp_ok ⟨hx, hd⟩ hy hv nofun))

end Sys2Proof.Machine

/-! PROOFS of the operations family, fifth part: lists, allocations and objects. -/

namespace Sys2Proof.Machine

open Sys2Proof

variable {s s1 s2 s3 s4 s5 s6 s7 t : State} {a : At} {op : Opcode} {l : Long} {c : CoreId} {r : ResB} {x y v w : Word}
  {k n i va tag : Nat} {o : Obj} {h : Word}

/-! ### Lists (R194) -/

theorem isNil_of_tagOf (hw : tagOf w = 0x10) : isNil w = false := by
  rw [isNil, beq_eq_false_iff_ne]
  rintro rfl
  exact absurd hw (by decide)

/-- A cell has no header. -/
theorem openObject_cell {step : Nat} (ht : tagOf w = 0x10) (ha : addressFormatOk w = true) :
    openObject c w step s = .ok (⟨w, valOf w, none⟩, s) := by
  simp [openObject, ht, ha, isPointerTag]
  rfl

/-- Operand B names a cell, whose pointer the load barrier gives as `w`. -/
structure Cell (c : CoreId) (l : Long) (y : Word) (s : State) (w : Word) (t : State) : Prop where
  operand : tagOf y = 0x10
  healed : healB c l y s = .ok (w, t)
  pointer : tagOf w = 0x10
  format : addressFormatOk w = true

theorem cellWord_nil : cellWord l i c nil s = .ok (nil, s) := rfl

theorem cellWord_ok (hc : Cell c l y s w s4) (hv : loadWord c (valOf w + 8 * i) .read s4 = .ok (v, s5)) :
    cellWord l i c y s = .ok (v, s5) := by
  rw [cellWord, isNil_of_tagOf hc.operand, if_neg Bool.false_ne_true, hc.operand, if_pos BEq.rfl, M.bind_ok hc.healed,
    M.bind_ok (openObject_cell hc.pointer hc.format)]
  exact atStep_ok 10 hv

theorem cellWrite_ok (hc : Cell c l y s w s4) (hv : healRegM c l.ra.toNat s4 = .ok (v, s5))
    (hs : storeWord c (valOf w + 8 * i) v s5 = .ok ((), s6)) : cellWrite l i c x y s = .ok ((), s6) := by
  rw [cellWrite, hc.operand, if_pos BEq.rfl, M.bind_ok hc.healed, M.bind_ok (openObject_cell hc.pointer hc.format),
    M.bind_ok hv]
  exact atStep_ok 11 hs

/-! ### New objects (R196, R197) -/

theorem newTagged_ok {hdr : Word} {ws : List Word} (hn : newObject c (kindFor false false (taggedBytes hdr ws).length)
    (taggedBytes hdr ws) s = .ok (va, t)) : newTagged c tag hdr ws s = .ok (mkWord tag va, t) := by
  rw [newTagged, M.bind_ok hn]
  rfl

theorem newBytes_ok {bs : List Byte} (hn : newObject c (kindFor false false (byteVectorBytes k bs).length)
    (byteVectorBytes k bs) s = .ok (va, t)) : newBytes c tag k bs s = .ok (mkWord tag va, t) := by
  rw [newBytes, M.bind_ok hn]
  rfl

theorem exec_cons (hr : Ready s a .cons l c r x y s3) (hv : healRegM c l.ra.toNat s3 = .ok (v, s4))
    (hw : healB c l y s4 = .ok (w, s5)) (hn : newObject c 1 (bytesOfWord v ++ bytesOfWord w) s5 = .ok (va, s6)) :
    exec (.cons a l) s = .next (done s l c r s6 (mkWord 0x10 va)) := by
  refine congrArg Host.Outcome.next (hr.value ?_)
  simp only [M.bind_ok hv, M.bind_ok hw, newCons, M.bind_ok hn, M.pure_run]

theorem lengthOf_fixN (hn : n < 2 ^ 32) : lengthOf (fixN n) = pure n := by
  have hv : valOf (fixN n) = n := valOf_fixN (by omega)
  have hf : fixVal (fixN n) = n := fixVal_fixN (by omega)
  rw [lengthOf, hv, hf, if_pos (by simpa using hn)]

theorem sizeCheck_ok (hn : n ≤ 2 ^ 32) : sizeCheck n w = pure () := if_neg (Nat.not_lt.mpr hn)

/-- The slots of an object that 2^32 bytes hold have a number of 32 bits. -/
theorem slots_lt (hn : roundUp (8 * (1 + n)) 16 ≤ 2 ^ 32) : n < 2 ^ 32 := by
  rw [roundUp] at hn
  omega

theorem bytes_lt (hn : roundUp (8 + n) 16 ≤ 2 ^ 32) : n < 2 ^ 32 := by
  rw [roundUp] at hn
  omega

/-- The class that ALLOCV or ALLOCB takes: its own, or one of software. -/
theorem vectorClass_ok {own : Nat} (hk : k = own ∨ 0x100 ≤ k ∧ k ≤ 0xFFFF) (ho : own < 2 ^ 56) :
    valOf (fixN k) = k ∧ (isFix (fixN k) && (k == own || (decide (0x100 ≤ k) && decide (k ≤ 0xFFFF)))) = true :=
  ⟨valOf_fixN (by omega), by simpa using hk⟩

theorem exec_allocv (hr : Ready s a .allocv l c r (fixN k) (fixN n) s3) (hn : roundUp (8 * (1 + n)) 16 ≤ 2 ^ 32)
    (hk : k = 7 ∨ 0x100 ≤ k ∧ k ≤ 0xFFFF)
    (ho : newObject c (kindFor false false (taggedBytes (mkHeader 0x21 k n 0) (List.replicate n nil)).length)
      (taggedBytes (mkHeader 0x21 k n 0) (List.replicate n nil)) s3 = .ok (va, s4)) :
    exec (.allocv a l) s = .next (done s l c r s4 (mkWord 0x11 va)) := by
  obtain ⟨hv, hclass⟩ := vectorClass_ok hk (by decide)
  refine congrArg Host.Outcome.next (hr.value ?_)
  simp only [lengthOf_fixN (slots_lt hn), M.bind_pure, hv, hclass, if_true, sizeCheck_ok hn, newTagged_ok ho]

theorem exec_allocb (hr : Ready s a .allocb l c r (fixN k) (fixN n) s3) (hn : roundUp (8 + n) 16 ≤ 2 ^ 32)
    (hk : k = 6 ∨ 0x100 ≤ k ∧ k ≤ 0xFFFF)
    (ho : newObject c (kindFor false false (byteVectorBytes k (List.replicate n 0)).length)
      (byteVectorBytes k (List.replicate n 0)) s3 = .ok (va, s4)) :
    exec (.allocb a l) s = .next (done s l c r s4 (mkWord 0x12 va)) := by
  obtain ⟨hv, hclass⟩ := vectorClass_ok hk (by decide)
  refine congrArg Host.Outcome.next (hr.value ?_)
  simp only [lengthOf_fixN (bytes_lt hn), M.bind_pure, hv, hclass, if_true, sizeCheck_ok hn, newBytes_ok ho]

/-! ### ALLOCI (R197) -/

/-- The size, the pointer tag and the first contents that the class of an object of ALLOCI decides. -/
def ClassShape (k n tag : Nat) (ws : List Word) : Prop :=
  k = 1 ∧ n = 5 ∧ tag = 0x13 ∧ ws = List.replicate n unbound ∨ k = 2 ∧ 1 ≤ n ∧ tag = 0x15 ∧ ws = List.replicate n unbound
    ∨ k = 8 ∧ 5 ≤ n ∧ (∃ j, j ≤ 20 ∧ n - 5 = 2 ^ j) ∧ tag = 0x14 ∧ ws = mailboxSlots (n - 5)
    ∨ k = 0xA ∧ n = 63 ∧ tag = 0x14 ∧ ws = List.replicate n unbound
    ∨ 0x100 ≤ k ∧ k ≤ 0xFFFF ∧ tag = 0x14 ∧ ws = List.replicate n unbound

theorem isPow2UpTo_of_pow {m j : Nat} (hj : j ≤ m) (hn : n = 2 ^ j) : isPow2UpTo n m = true := by
  rw [isPow2UpTo, List.any_eq_true]
  exact ⟨j, List.mem_range.mpr (by omega), by simp [hn]⟩

theorem ClassShape.class_le {ws : List Word} (hk : ClassShape k n tag ws) : k ≤ 0xFFFF := by
  rcases hk with hk | hk | hk | hk | hk <;> omega

theorem exec_alloci {ws : List Word} (hr : Ready s a .alloci l c r (fixN k) (fixN n) s3)
    (hn : roundUp (8 * (1 + n)) 16 ≤ 2 ^ 32) (hk : ClassShape k n tag ws)
    (ho : newObject c (kindFor false false (taggedBytes (mkHeader 0x20 k n 0) ws).length)
      (taggedBytes (mkHeader 0x20 k n 0) ws) s3 = .ok (va, s4)) :
    exec (.alloci a l) s = .next (done s l c r s4 (mkWord tag va)) := by
  have hv : valOf (fixN k) = k := valOf_fixN (Nat.lt_of_le_of_lt hk.class_le (by decide))
  have htag : (tagOf (fixN k) == 0x12) = false := by rw [(isFix_iff _).mp (isFix_fixN k)]; rfl
  refine congrArg Host.Outcome.next (hr.value ?_)
  simp only [lengthOf_fixN (slots_lt hn), M.bind_pure, htag, Bool.false_eq_true, if_false, isFix_fixN, Bool.not_true, hv,
    sizeCheck_ok hn]
  rcases hk with ⟨rfl, rfl, rfl, rfl⟩ | ⟨rfl, h1, rfl, rfl⟩ | ⟨rfl, h5, ⟨j, hj, hp⟩, rfl, rfl⟩ | ⟨rfl, rfl, rfl, rfl⟩ |
    ⟨hl, hh, rfl, rfl⟩
  · rw [if_pos BEq.rfl, if_pos BEq.rfl, M.bind_pure, newTagged_ok ho]
  · rw [if_neg (by decide), if_pos BEq.rfl, if_pos h1, M.bind_pure, newTagged_ok ho]
  · rw [if_neg (by decide), if_neg (by decide), if_pos BEq.rfl, if_pos (by simp [h5, isPow2UpTo_of_pow hj hp]), M.bind_pure,
      newTagged_ok ho]
  · rw [if_neg (by decide), if_neg (by decide), if_neg (by decide), if_pos BEq.rfl, if_pos BEq.rfl, M.bind_pure,
      newTagged_ok ho]
  · have hne : ∀ m < 0x100, ¬ (k == m) = true := fun m hm => by simp; omega
    rw [if_neg (hne 1 (by decide)), if_neg (hne 2 (by decide)), if_neg (hne 8 (by decide)), if_neg (hne 0xA (by decide)),
      if_pos (by simp [hl, hh]), M.bind_pure, newTagged_ok ho]

theorem exec_alloci_code (hr : Ready s a .alloci l c r x (fixN n) s3) (hn : n < 2 ^ 32) (hx : tagOf x = 0x12)
    (hc : newCode c l n (fixN n) s3 = .ok (v, s4)) : exec (.alloci a l) s = .next (done s l c r s4 v) := by
  refine congrArg Host.Outcome.next (hr.value ?_)
  simp only [lengthOf_fixN hn, M.bind_pure, hx, BEq.rfl, if_true, hc]

/-- Settles O19: a cell by its address, a new object by its class and size. -/
theorem listsAndAllocationsComplete : Obligations.ListsAndAllocationsComplete := by
  refine ⟨⟨?cons, ?carNil, ?cdrNil, ?car, ?cdr, ?rplaca, ?rplacd⟩, ?allocv, ?allocb, ?alloci, ?code⟩
  case cons => exact fun s a l c r x y s3 v s4 w s5 va s6 => exec_cons
  case carNil =>
    rintro s a l c r x _ s3 hr rfl
    exact congrArg Host.Outcome.next (hr.unary cellWord_nil)
  case cdrNil =>
    rintro s a l c r x _ s3 hr rfl
    exact congrArg Host.Outcome.next (hr.unary cellWord_nil)
  case car =>
    intro s a l c r x y s3 w s4 v s5 hr hy hh ht ha hv
    exact congrArg Host.Outcome.next (hr.unary (cellWord_ok (i := 0) ⟨hy, hh, ht, ha⟩ hv))
  case cdr =>
    intro s a l c r x y s3 w s4 v s5 hr hy hh ht ha hv
    exact congrArg Host.Outcome.next (hr.unary (cellWord_ok (i := 1) ⟨hy, hh, ht, ha⟩ hv))
  case rplaca =>
    intro s a l c r x y s3 w s4 v s5 s6 hr hy hh ht ha hv hs
    exact congrArg Host.Outcome.next (hr.effect (cellWrite_ok (i := 0) ⟨hy, hh, ht, ha⟩ hv hs))
  case rplacd =>
    intro s a l c r x y s3 w s4 v s5 s6 hr hy hh ht ha hv hs
    exact congrArg Host.Outcome.next (hr.effect (cellWrite_ok (i := 1) ⟨hy, hh, ht, ha⟩ hv hs))
  case allocv =>
    rintro s a l c r _ _ s3 k n va s4 hr rfl hn rfl hk ho
    exact exec_allocv hr hn hk ho
  case allocb =>
    rintro s a l c r _ _ s3 k n va s4 hr rfl hn rfl hk ho
    exact exec_allocb hr hn hk ho
  case alloci =>
    rintro s a l c r _ _ s3 k n tag ws va s4 hr rfl hn rfl hk ho
    exact exec_alloci hr hn hk ho
  case code =>
    rintro s a l c r x _ s3 n v s4 hr rfl hn hx hc
    exact exec_alloci_code hr hn hx hc

end Sys2Proof.Machine

/-! PROOFS of the operations family, sixth part: queries of objects, pins and tags. -/

namespace Sys2Proof.Machine

open Sys2Proof

variable {s s1 s2 s3 s4 s5 s6 s7 t : State} {a : At} {op : Opcode} {l : Long} {c : CoreId} {r : ResB} {x y v w h : Word}
  {n i : Nat} {o : Obj} {b : Bool} {p q : Num}

/-! ### Queries of an object (R194) -/

/-- Operand B names an object, which the access finds as `o`. -/
structure Names (c : CoreId) (l : Long) (y : Word) (s : State) (o : Obj) (t : State) : Prop where
  pointer : isPointerTag (tagOf y) = true
  opened : ∃ w s1, healB c l y s = .ok (w, s1) ∧ openObject c w 10 s1 = .ok (o, t)

theorem isNil_of_pointer (hp : isPointerTag (tagOf y) = true) : isNil y = false := by
  rw [isNil, beq_eq_false_iff_ne]
  rintro rfl
  exact absurd hp (by decide)

theorem exec_lenof_nil (hr : Ready s a .lenof l c r x nil s3) :
    exec (.lenof a l) s = .next (done s l c r s3 (fixN 0)) :=
  congrArg Host.Outcome.next (hr.unary rfl)

theorem exec_lenof (hr : Ready s a .lenof l c r x y s3) (hn : Names c l y s3 o s5) :
    exec (.lenof a l) s = .next (done s l c r s5 (fixN o.bound)) := by
  obtain ⟨w, s4, hh, ho⟩ := hn.opened
  refine congrArg Host.Outcome.next (hr.unary ?_)
  simp only [isNil_of_pointer hn.pointer, Bool.false_eq_true, if_false, hn.pointer, if_true, M.bind_ok hh, M.bind_ok ho,
    M.pure_run]

theorem exec_classof (hr : Ready s a .classof l c r x y s3) (hn : Names c l y s3 o s5) :
    exec (.classof a l) s
      = .next (done s l c r s5 (fixN (match o.hdr with | some h => hdrClass h | none => 0))) := by
  obtain ⟨w, s4, hh, ho⟩ := hn.opened
  refine congrArg Host.Outcome.next (hr.unary ?_)
  rw [if_pos hn.pointer, M.bind_ok hh, M.bind_ok ho]
  rfl

/-! ### IDHASH (R75) -/

theorem setHeaderFlag_ok (hd : Drains s c)
    (hw : atomicWrite c o.addr (bytesOfWord (withBit h i b)) true (drainStores s c) = .ok ((), t)) :
    setHeaderFlag c o h i b s = .ok ((), t) := by
  rw [setHeaderFlag, M.bind_drainM hd]
  exact atStep_ok 10 hw

theorem identityHash_known (ho : openObject c w 10 s = .ok (o, t)) (hh : o.hdr = some h) (hx : hdrHxt h = false)
    (hk : hdrHashed h = true) : identityHash c w s = .ok (fixN (o.addr / 16), t) := by
  simp only [identityHash, M.bind_ok ho, hh, hx, hk, Bool.not_true, Bool.false_eq_true, if_false, M.pure_run]

theorem identityHash_first (ho : openObject c w 10 s = .ok (o, t)) (hh : o.hdr = some h) (hx : hdrHxt h = false)
    (hk : hdrHashed h = false) (hd : Drains t c)
    (hw : atomicWrite c o.addr (bytesOfWord (withBit h 3 true)) true (drainStores t c) = .ok ((), s4)) :
    identityHash c w s = .ok (fixN (o.addr / 16), s4) := by
  simp only [identityHash, M.bind_ok ho, hh, hx, hk, Bool.not_false, Bool.false_eq_true, if_false, if_true, M.bind_drainM hd,
    M.bind_ok (atStep_ok 10 hw), M.pure_run]

theorem identityHash_stored (ho : openObject c w 10 s = .ok (o, t)) (hh : o.hdr = some h) (hx : hdrHxt h = true)
    (hc : ¬ (tagOf h = 0x20 ∧ hdrClass h = 3)) (hv : loadWord c (o.addr + objectSize h 0 - 16) .read t = .ok (v, s4)) :
    identityHash c w s = .ok (v, s4) := by
  have hcode : (tagOf h == 0x20 && hdrClass h == 3) = false := by simpa using hc
  simp only [identityHash, M.bind_ok ho, hh, hx, hcode, if_true, Bool.false_eq_true, if_false, M.bind_pure, atStep_ok 10 hv]

theorem exec_idhash (hr : Ready s a .idhash l c r x y s3) (hp : isPointerTag (tagOf y) = true) (hc : tagOf y ≠ 0x10)
    (hh : healB c l y s3 = .ok (w, s4)) (hv : identityHash c w s4 = .ok (v, s5)) :
    exec (.idhash a l) s = .next (done s l c r s5 v) := by
  have hok : (isPointerTag (tagOf y) && tagOf y != 0x10) = true := by simp [hp, hc]
  refine congrArg Host.Outcome.next (hr.unary ?_)
  rw [if_pos hok, M.bind_ok hh, hv]

/-! ### WEAKREF (R198) and BITADDR -/

theorem exec_weakref_weak (hr : Ready s a .weakref l c r (fixN 0) y s3) (hp : isPointerTag (tagOf y) = true)
    (hh : healB c l y s3 = .ok (w, s4)) : exec (.weakref a l) s = .next (done s l c r s4 (mkWord 0x1A (valOf w))) := by
  have hmode : ¬ (!isFix (fixN 0) || decide (1 < valOf (fixN 0))) = true := by decide
  have hzero : (valOf (fixN 0) == 0) = true := by decide
  refine congrArg Host.Outcome.next (hr.value ?_)
  rw [if_neg hmode, if_pos hzero, if_pos hp, M.bind_ok hh]
  rfl

theorem strongOf_ok (ho : openObject c w 10 s = .ok (o, t))
    (hv : v = mkWord (match o.hdr with | some h => strongTagOfHeader h | none => 0x10) (valOf w)) :
    strongOf c w s = .ok (v, if barrierOn t then
      { setMark t (valOf w) with mor := { t.mor with work := t.mor.work ++ [v] } } else t) := by
  subst hv
  rw [strongOf]
  exact Eq.trans (M.bind_ok ho) rfl

theorem exec_weakref_strong (hr : Ready s a .weakref l c r (fixN 1) y s3) (hy : tagOf y = 0x1A)
    (hh : healB c l y s3 = .ok (w, s4)) (hs : strongOf c w s4 = .ok (v, s5)) :
    exec (.weakref a l) s = .next (done s l c r s5 v) := by
  have hmode : ¬ (!isFix (fixN 1) || decide (1 < valOf (fixN 1))) = true := by decide
  have hone : ¬ (valOf (fixN 1) == 0) = true := by decide
  have hnil : isNil y = false := isNil_of_pointer (by rw [hy]; rfl)
  refine congrArg Host.Outcome.next (hr.value ?_)
  rw [if_neg hmode, if_neg hone, hnil, if_neg Bool.false_ne_true, hy, if_pos BEq.rfl, M.bind_ok hh, hs]

/-- T.NIL and a strong pointer are their own strong words. -/
theorem exec_weakref_plain (hr : Ready s a .weakref l c r (fixN 1) y s3)
    (hy : y = nil ∨ isPointerTag (tagOf y) = true ∧ tagOf y ≠ 0x1A) :
    exec (.weakref a l) s = .next (done s l c r s3 y) := by
  have hmode : ¬ (!isFix (fixN 1) || decide (1 < valOf (fixN 1))) = true := by decide
  have hone : ¬ (valOf (fixN 1) == 0) = true := by decide
  refine congrArg Host.Outcome.next (hr.value ?_)
  rw [if_neg hmode, if_neg hone]
  obtain rfl | ⟨hp, hw⟩ := hy
  · rfl
  · rw [isNil_of_pointer hp, if_neg Bool.false_ne_true, beq_false_of_ne hw, if_neg Bool.false_ne_true, if_pos hp, M.pure_run]

theorem exec_bitaddr (hr : Ready s a .bitaddr l c r x y s3) (hx : tagOf x = 0x12) (hy : isFix y = true)
    (h0 : 0 ≤ fixVal y) (hh : healRegM c l.ra.toNat s3 = .ok (w, s4)) (ho : openObject c w 10 s4 = .ok (o, s5))
    (hb : fixVal y < 8 * o.bound) :
    exec (.bitaddr a l) s = .next (done s l c r s5 (mkWord 0x07 (8 * o.payload + valOf y))) := by
  have hrange : (decide (fixVal y < 0) || decide ((8 * o.bound : Int) ≤ fixVal y)) = false := by simp [h0, hb]
  refine congrArg Host.Outcome.next (hr.value ?_)
  simp only [hx, bne_self_eq_false, Bool.false_eq_true, if_false, wantFix_of_fix hy, M.bind_pure, M.bind_ok hh,
    M.bind_ok ho, hrange, M.pure_run]

/-! ### PIN and UNPIN (R199, R345) -/

/-- RA names an object with the header `h`, which PIN and UNPIN find as `o`. -/
structure Pins (c : CoreId) (l : Long) (x : Word) (s : State) (o : Obj) (h : Word) (t : State) : Prop where
  pointer : isPointerTag (tagOf x) = true
  notCell : tagOf x ≠ 0x10
  opened : ∃ w s1, healRegM c l.ra.toNat s = .ok (w, s1) ∧ openObject c w 10 s1 = .ok (o, t)
  header : o.hdr = some h

theorem Pins.admits (hp : Pins c l x s o h t) : (!isPointerTag (tagOf x) || tagOf x == 0x10) = false := by
  simp [hp.pointer, hp.notCell]

/-- The operation that operand B of PIN numbers, on a header (R199). -/
def pinWork (c : CoreId) (o : Obj) (h b : Word) : M Unit := do
  let code := tagOf h == 0x20 && hdrClass h == 3
  if valOf b == 0 then
    setHeaderFlag c o h 1 true
    fun s => .ok ((), markPinned s o.addr)
  else if valOf b == 1 then
    let ok ← (if code then codeReady c o h else pure true)
    if ok then setHeaderFlag c o h 0 true else operandFault b
  else if valOf b == 4 && code && !hdrImm h then setHeaderFlag c o h 4 true
  else operandFault b

theorem exec_pin (hr : Ready s a .pin l c r x y s3) (hp : Pins c l x s3 o h s5) (hy : isFix y = true)
    (hw : pinWork c o h y s5 = .ok ((), s6)) : exec (.pin a l) s = .next (doneC s l c r s6) := by
  obtain ⟨w, s4, hh, ho⟩ := hp.opened
  refine congrArg Host.Outcome.next (hr.effect ?_)
  simp only [hp.admits, Bool.false_eq_true, if_false, wantFix_of_fix hy, M.bind_pure, M.bind_ok hh, M.bind_ok ho, hp.header]
  exact hw

theorem pinWork_pin (hd : Drains s c)
    (hw : atomicWrite c o.addr (bytesOfWord (withBit h 1 true)) true (drainStores s c) = .ok ((), t)) :
    pinWork c o h (fixN 0) s = .ok ((), markPinned t o.addr) := by
  have hzero : (valOf (fixN 0) == 0) = true := by decide
  rw [pinWork, if_pos hzero, M.bind_ok (setHeaderFlag_ok hd hw)]

theorem pinWork_immutable (hd : Drains s c) (hc : ¬ (tagOf h = 0x20 ∧ hdrClass h = 3))
    (hw : atomicWrite c o.addr (bytesOfWord (withBit h 0 true)) true (drainStores s c) = .ok ((), t)) :
    pinWork c o h (fixN 1) s = .ok ((), t) := by
  have hcode : (tagOf h == 0x20 && hdrClass h == 3) = false := by simpa using hc
  have hone : valOf (fixN 1) = 1 := by decide
  simp [pinWork, hone, hcode, setHeaderFlag_ok hd hw]

theorem pinWork_immutable_code (hd : Drains s1 c) (ht : tagOf h = 0x20) (hc : hdrClass h = 3)
    (hr : codeReady c o h s = .ok (true, s1))
    (hw : atomicWrite c o.addr (bytesOfWord (withBit h 0 true)) true (drainStores s1 c) = .ok ((), t)) :
    pinWork c o h (fixN 1) s = .ok ((), t) := by
  have hone : valOf (fixN 1) = 1 := by decide
  simp [pinWork, hone, ht, hc, M.bind_ok hr, setHeaderFlag_ok hd hw]

theorem pinWork_format (hd : Drains s c) (ht : tagOf h = 0x20) (hc : hdrClass h = 3) (hi : hdrImm h = false)
    (hw : atomicWrite c o.addr (bytesOfWord (withBit h 4 true)) true (drainStores s c) = .ok ((), t)) :
    pinWork c o h (fixN 4) s = .ok ((), t) := by
  have hfour : valOf (fixN 4) = 4 := by decide
  simp [pinWork, hfour, ht, hc, hi, setHeaderFlag_ok hd hw]

theorem exec_unpin (hr : Ready s a .unpin l c r x (fixN 0) s3) (hp : Pins c l x s3 o h s5) (hd : Drains s5 c)
    (hw : atomicWrite c o.addr (bytesOfWord (withBit h 1 false)) true (drainStores s5 c) = .ok ((), s6)) :
    exec (.unpin a l) s = .next (doneC s l c r s6) := by
  obtain ⟨w, s4, hh, ho⟩ := hp.opened
  have hzero : (valOf (fixN 0) == 0) = true := by decide
  refine congrArg Host.Outcome.next (hr.effect ?_)
  simp only [hp.admits, Bool.false_eq_true, if_false, wantFix_of_fix (isFix_fixN 0), M.bind_pure, M.bind_ok hh, M.bind_ok ho,
    hp.header, hzero, if_true, setHeaderFlag_ok hd hw]

/-! ### TAGSET (R195) -/

/-- TAGSET has a value and the number of a tag. -/
structure SetsTag (x : Word) (n : Nat) : Prop where
  immediate : isImmediateTag (tagOf x) = true
  lt : n < 256

theorem SetsTag.number (hx : SetsTag x n) : valOf (fixN n) = n := valOf_fixN (Nat.lt_trans hx.lt (by decide))

theorem SetsTag.admits (hx : SetsTag x n) : (!isFix (fixN n) || decide (255 < n)) = false := by
  have hle : ¬ 255 < n := Nat.not_lt.mpr (Nat.le_of_lt_succ hx.lt)
  rw [isFix_fixN, decide_eq_false hle]
  rfl

theorem exec_tagset (hr : Ready s a .tagset l c r x (fixN n) s3) (hx : SetsTag x n) (hres : isReservedTag n = false)
    (hi : (isImmediateTag n || n == 0x1F) = true) (hw : inspectWord (mkWord n (valOf x)) = none) :
    exec (.tagset a l) s = .next (done s l c r s3 (mkWord n (valOf x))) := by
  have hforge : (!isImmediateTag n && n != 0x1F) = false := by rw [bne, ← Bool.not_or, hi]; rfl
  refine congrArg Host.Outcome.next (hr.value ?_)
  simp only [hx.immediate, hx.admits, hx.number, hres, hforge, hw, Bool.not_true, Bool.false_eq_true, if_false, M.pure_run]

theorem exec_tagset_reserved (hr : Ready s a .tagset l c r x (fixN n) s3) (hx : SetsTag x n)
    (hres : isReservedTag n = true) :
    exec (.tagset a l) s = .next (raised s l c (wordTrap .tagReserved (mkWord n (valOf x)) 10 0)) := by
  refine congrArg Host.Outcome.next (hr.valueTrap ?_ (by simp [wordTrap]))
  simp only [hx.immediate, hx.admits, hx.number, hres, Bool.not_true, Bool.false_eq_true, if_false, if_true, trapM_run]

theorem exec_tagset_forged (hr : Ready s a .tagset l c r x (fixN n) s3) (hx : SetsTag x n) (hres : isReservedTag n = false)
    (hi : (isImmediateTag n || n == 0x1F) = false) :
    exec (.tagset a l) s = .next (raised s l c (wordTrap .tagForge (mkWord n (valOf x)) 10 0)) := by
  have hforge : (!isImmediateTag n && n != 0x1F) = true := by rw [bne, ← Bool.not_or, hi]; rfl
  refine congrArg Host.Outcome.next (hr.valueTrap ?_ (by simp [wordTrap]))
  simp only [hx.immediate, hx.admits, hx.number, hres, hforge, Bool.not_true, Bool.false_eq_true, if_false, if_true, trapM_run]

/-! ### EQ and EQL (R194, R341) -/

/-- Both words of a comparison have passed the load barrier. -/
structure Compares (c : CoreId) (l : Long) (y : Word) (s : State) (v w : Word) (t : State) : Prop where
  healed : ∃ s1, healRegM c l.ra.toNat s = .ok (v, s1) ∧ healB c l y s1 = .ok (w, t)

theorem exec_eq (hr : Ready s a .eq l c r x y s3) (hc : Compares c l y s3 v w s5) :
    exec (.eq a l) s = .next (doneC s l c r (withBitReg s5 c 0 (v == w))) := by
  obtain ⟨s4, hv, hw⟩ := hc.healed
  refine congrArg Host.Outcome.next (hr.effect ?_)
  rw [M.bind_ok hv, M.bind_ok hw]
  rfl

/-- What EQL finds once both words are healed: they are the same, or their numbers are. -/
def eqlOf (c : CoreId) (v w : Word) : M Bool := if v == w then pure true else eqlValue c v w

theorem exec_eql (hr : Ready s a .eql l c r x y s3) (hd : Admits s3 0x8 x (some y)) (hc : Compares c l y s3 v w s5)
    (he : eqlOf c v w s5 = .ok (b, s6)) : exec (.eql a l) s = .next (doneC s l c r (withBitReg s6 c 0 b)) := by
  obtain ⟨s4, hv, hw⟩ := hc.healed
  refine congrArg Host.Outcome.next (hr.effect ?_)
  rw [M.bind_ok (dispatch_ok hd), M.bind_ok hv, M.bind_ok hw]
  exact M.bind_ok he

/-- Words that are no two numbers of one class are EQL where they are EQ. -/
theorem eqlOf_words (h : v = w ∨ ¬ (classOfTag (tagOf v) = classOfTag (tagOf w)
    ∧ (classOfTag (tagOf v) = 6 ∨ classOfTag (tagOf v) = 7))) : eqlOf c v w s = .ok (v == w, s) := by
  by_cases he : v = w
  · subst he
    rw [eqlOf, if_pos BEq.rfl, BEq.rfl]
    rfl
  · have hclass : (classOfTag (tagOf v) == classOfTag (tagOf w)
        && (classOfTag (tagOf v) == 6 || classOfTag (tagOf v) == 7)) = false := by
      simpa using h.resolve_left he
    rw [eqlOf, if_neg (by simpa using he), eqlValue, hclass, if_neg Bool.false_ne_true]
    rfl

theorem eqlOf_numbers (hne : v ≠ w) (hs : classOfTag (tagOf v) = classOfTag (tagOf w))
    (hk : classOfTag (tagOf v) = 6 ∨ classOfTag (tagOf v) = 7) (hn : Numbers c v w s p q t) :
    eqlOf c v w s = .ok (p == q, t) := by
  obtain ⟨s1, hp, hq⟩ := hn.read
  have hclass : (classOfTag (tagOf v) == classOfTag (tagOf w)
      && (classOfTag (tagOf v) == 6 || classOfTag (tagOf v) == 7)) = true := by simpa [hs] using hs ▸ hk
  rw [eqlOf, if_neg (by simpa using hne), eqlValue, hclass, if_pos rfl, M.bind_ok hp, M.bind_ok hq]
  rfl

theorem exec_classis (hr : Ready s a .classis l c r x (fixN n) s3) (hn : n ≤ 15) :
    exec (.classis a l) s = .next (doneC s l c r (withBitReg s3 c 4 (classOfTag (tagOf x) == n))) := by
  have hv : valOf (fixN n) = n := valOf_fixN (by omega)
  refine congrArg Host.Outcome.next (hr.effect ?_)
  rw [classisOp, hv, if_pos (by simp [hn])]
  rfl

/-- Settles O20: an object operation by the header that it finds, a tag operation by the tags of its words. -/
theorem objectOperationsComplete : Obligations.ObjectOperationsComplete := by
  refine ⟨⟨?lenofNil, ?lenof, ?classof, ?hashKnown, ?hashFirst, ?hashStored, ?weak, ?strong, ?plain, ?bitaddr⟩,
    ⟨?pin, ?immutable, ?immutableCode, ?format, ?unpin⟩, ?tagset, ?reserved, ?forged, ?tagof, ?tageq, ?classis, ?eq, ?eqlWords,
    ?eqlNumbers⟩
  case lenofNil =>
    rintro s a l c r x _ s3 hr rfl
    exact exec_lenof_nil hr
  case lenof => exact fun s a l c r x y s3 w s4 o s5 hr hp hh ho => exec_lenof hr ⟨hp, w, s4, hh, ho⟩
  case classof => exact fun s a l c r x y s3 w s4 o s5 hr hp hh ho => exec_classof hr ⟨hp, w, s4, hh, ho⟩
  case hashKnown =>
    intro s a l c r x y s3 w s4 o s5 h hr hp hc hh ho ho' hx hk
    exact exec_idhash hr hp hc hh (identityHash_known ho ho' hx hk)
  case hashFirst =>
    intro s a l c r x y s3 w s4 o s5 h s6 hr hp hc hh ho ho' hx hk hw hd
    exact exec_idhash hr hp hc hh (identityHash_first ho ho' hx hk hd hw)
  case hashStored =>
    intro s a l c r x y s3 w s4 o s5 h v s6 hr hp hc hh ho ho' hx hn hv
    exact exec_idhash hr hp hc hh (identityHash_stored ho ho' hx hn hv)
  case weak =>
    rintro s a l c r _ y s3 w s4 hr rfl
    exact exec_weakref_weak hr
  case strong =>
    rintro s a l c r _ y s3 w s4 o s5 v hr rfl hy hh ho hv
    exact exec_weakref_strong hr hy hh (strongOf_ok ho hv)
  case plain =>
    rintro s a l c r _ y s3 hr rfl
    exact exec_weakref_plain hr
  case bitaddr => exact fun s a l c r x y s3 w s4 o s5 => exec_bitaddr
  case pin =>
    rintro s a l c r x _ s3 w s4 o s5 h s6 hr hp hc rfl hh ho ho' hw hd
    exact exec_pin hr ⟨hp, hc, ⟨w, s4, hh, ho⟩, ho'⟩ (isFix_fixN 0) (pinWork_pin hd hw)
  case immutable =>
    rintro s a l c r x _ s3 w s4 o s5 h s6 hr hp hc rfl hh ho ho' hn hw hd
    exact exec_pin hr ⟨hp, hc, ⟨w, s4, hh, ho⟩, ho'⟩ (isFix_fixN 1) (pinWork_immutable hd hn hw)
  case immutableCode =>
    rintro s a l c r x _ s3 w s4 o s5 h s6 s7 hr hp hc rfl hh ho ho' ht hk hready hw hd
    exact exec_pin hr ⟨hp, hc, ⟨w, s4, hh, ho⟩, ho'⟩ (isFix_fixN 1) (pinWork_immutable_code hd ht hk hready hw)
  case format =>
    rintro s a l c r x _ s3 w s4 o s5 h s6 hr hp hc rfl hh ho ho' ht hk hi hw hd
    exact exec_pin hr ⟨hp, hc, ⟨w, s4, hh, ho⟩, ho'⟩ (isFix_fixN 4) (pinWork_format hd ht hk hi hw)
  case unpin =>
    rintro s a l c r x _ s3 w s4 o s5 h s6 hr hp hc rfl hh ho ho' hw hd
    exact exec_unpin hr ⟨hp, hc, ⟨w, s4, hh, ho⟩, ho'⟩ hd hw
  case tagset =>
    rintro s a l c r x _ s3 n hr hx rfl hn
    exact exec_tagset hr ⟨hx, hn⟩
  case reserved =>
    rintro s a l c r x _ s3 n hr hx rfl hn
    exact exec_tagset_reserved hr ⟨hx, hn⟩
  case forged =>
    rintro s a l c r x _ s3 n hr hx rfl hn
    exact exec_tagset_forged hr ⟨hx, hn⟩
  case tagof => exact fun s a l c r x y s3 hr => congrArg Host.Outcome.next (hr.unary rfl)
  case tageq => exact fun s a l c r x y s3 hr => congrArg Host.Outcome.next (hr.effect rfl)
  case classis =>
    rintro s a l c r x _ s3 n hr rfl
    exact exec_classis hr
  case eq => exact fun s a l c r x y s3 v s4 w s5 hr hv hw => exec_eq hr ⟨s4, hv, hw⟩
  case eqlWords =>
    intro s a l c r x y s3 v s4 w s5 hr hd hv hw h
    exact exec_eql hr hd ⟨s4, hv, hw⟩ (eqlOf_words h)
  case eqlNumbers =>
    intro s a l c r x y s3 v s4 w s5 p q s6 hr hd hv hw hne hs hk hn
    exact exec_eql hr hd ⟨s4, hv, hw⟩ (eqlOf_numbers hne hs hk hn)

end Sys2Proof.Machine

/-! PROOFS of the operations family, seventh part: waits, barriers, the ends of classes and windows, and the entries that a
boundary takes. -/

namespace Sys2Proof.Machine

open Sys2Proof

variable {s s1 s2 s3 s4 u t : State} {a : At} {l : Long} {c d : CoreId} {r : ResB} {x y : Word} {n : Nat} {k : Core}

/-! ### FENCE and BARRIER (R207 to R209, R308) -/

theorem exec_fence (h : Issues s a .fence l c s1) (hd : Drains s1 c) :
    exec (.fence a l) s = .next (retireLong s l (drainStores s1 c) c) := by
  refine congrArg Host.Outcome.next (runLong_ok h ?_)
  rw [bodyFence, M.bind_drainM hd]
  rfl

/-- BARRIER stands before its arrival at barrier n: its operands number it and the earlier stores are performed. -/
structure Arrives (s : State) (a : At) (l : Long) (c : CoreId) (n : Nat) (t : State) : Prop where
  ready : ∃ r x y s3, Ready s a .barrier l c r x y s3 ∧ (l.ra ≠ 24 → isFix x = true) ∧ isFix y = true
    ∧ operandSum l x y = (n : Int) ∧ Drains s3 c ∧ t = drainStores s3 c
  le : n ≤ 15

/-- What BARRIER does once it knows its barrier. -/
def barrierArrival (c : CoreId) (i len : Nat) : M Flow := do
  let inIt ← (fun s => .ok (participant s i (barCore s c), s) : M Bool)
  let k ← getC c
  if !inIt then
    modC c (fun k => { k.setBit 4 false with bars := Tbl.del k.bars i })
    return .seq
  else if Tbl.get? k.bars i == some true then
    modC c (fun k => { k.setBit 4 true with bars := Tbl.del k.bars i })
    return .seq
  else
    modC c (fun k => { k with bars := Tbl.put k.bars i false, mode := .barrier i len })
    return .stay

theorem exec_barrier {fl : Flow} (h : Arrives s a l c n s4) (hb : barrierArrival c n (4 * l.parcels) s4 = .ok (fl, t)) :
    exec (.barrier a l) s = .next (retire t c (s.core c).pc (4 * l.parcels) fl) := by
  obtain ⟨r, x, y, s3, hr, hx, hy, hs, hd, rfl⟩ := h.ready
  have hrange : ¬ (decide ((n : Int) < 0) || decide (15 < (n : Int))) = true := by
    have := h.le
    simp
    omega
  refine congrArg Host.Outcome.next (hr.runs fun s1 ho => ?_)
  obtain ⟨s2, h1, h2⟩ := ho.read
  rw [bodyBarrier, M.bind_ok h1, M.bind_ok h2, M.bind_regM, hr.first, sumOperand_ok hx hy, M.bind_ok (atStep_pure 10 _), hs,
    if_neg hrange, M.bind_drainM hd, Int.toNat_natCast]
  exact hb

/-! ### WAIT (R210) -/

theorem exec_wait_goes (h : Issues s a .wait l c s1)
    (hk : ((s1.core c).tw || (s1.core c).fb || waitEnds s1 c (s1.core c)) = true) :
    exec (.wait a l) s = .next (retireLong s l s1 c) := by
  refine congrArg Host.Outcome.next (runLong_ok h ?_)
  rw [bodyWait, M.bind_getC, M.bind_ok rfl, if_pos hk]
  rfl

theorem exec_wait_waits (h : Issues s a .wait l c s1)
    (hk : ((s1.core c).tw || (s1.core c).fb || waitEnds s1 c (s1.core c)) = false) :
    exec (.wait a l) s = .next (retireLong s l (s1.modCore c (fun k => { k with mode := .waiting })) c) := by
  refine congrArg Host.Outcome.next (runLong_ok h ?_)
  rw [bodyWait, M.bind_getC, M.bind_ok rfl, hk, if_neg Bool.false_ne_true]
  rfl

theorem exec_waitWake (hs : sourceCore s c = some d) (hm : (s.core d).mode = .waiting)
    (he : waitEnds s d (s.core d) = true) :
    exec (.waitWake c) s = .next (mirror (s.modCore d (fun k => { k with mode := .running })) d) := by
  change execWaitWake c s = _
  simp [execWaitWake, hs, hm, he]

/-! ### The ends of the classes (R211, R240) -/

theorem exec_eoin (h : Issues s a .eoin l c s1) (hk : (s1.core c).cstk = 1) (hd : Drains s1 c) :
    exec (.eoin a l) s = .next (retireLong s l ((drainStores s1 c).modCore c (fun k => k.setStatus 15 14 0)) c) := by
  refine congrArg Host.Outcome.next (runLong_ok h ?_)
  rw [bodyEoin, M.bind_getC, if_pos hk, M.bind_drainM hd]
  rfl

theorem exec_eoin_order (h : Issues s a .eoin l c s1) (hk : (s1.core c).cstk ≠ 1) :
    exec (.eoin a l) s = .next (raised s l c { cause := .eoiOrder, step := 10 }) := by
  refine congrArg Host.Outcome.next (runLong_trap h ?_ (by simp))
  rw [bodyEoin, M.bind_getC, if_neg hk]
  rfl

theorem exec_eoif_order (h : Issues s a .eoif l c s1) (hk : (s1.core c).cstk < 2) :
    exec (.eoif a l) s = .next (raised s l c { cause := .eoiOrder, step := 10 }) := by
  refine congrArg Host.Outcome.next (runLong_trap h ?_ (by simp))
  rw [bodyEoif, M.bind_getC, if_pos hk]
  rfl

/-- EOIF in a core that interrupted nothing. -/
theorem exec_eoif (h : Issues s a .eoif l c s1) (hk : 2 ≤ (s1.core c).cstk) (hd : Drains s1 c)
    (hf : ((drainStores s1 c).core c).fastRet = none) :
    exec (.eoif a l) s = .next (retireLong s l
      ((drainStores s1 c).modCore c (fun k => (k.setStatus 15 14 (k.cstk % 2)).setStatus 22 22 0)) c) := by
  refine congrArg Host.Outcome.next (runLong_ok h ?_)
  rw [bodyEoif, M.bind_getC, if_neg (Nat.not_lt.mpr hk), M.bind_drainM hd, M.bind_getC, hf]
  rfl

/-- EOIF back to the code that the fast class interrupted. -/
theorem exec_eoif_returns {f : FastReturn} {k1 : Core} (h : Issues s a .eoif l c s1) (hk : 2 ≤ (s1.core c).cstk)
    (hd : Drains s1 c) (hs : s2 = drainStores s1 c) (hf : (s2.core c).fastRet = some f)
    (h1 : k1 = { ((s2.core c).setStatus 15 14 ((s2.core c).cstk % 2)).setStatus 22 22 0 with fastRet := none }) :
    exec (.eoif a l) s = .next (retireJump s l (continueAt (s2.setCore c
      (if s2.compact then k1.setStatus 16 16 (if f.im then 1 else 0) else k1)) c (retWord f.pc f.fmt)) c) := by
  subst hs h1
  refine congrArg Host.Outcome.next (runLong_ok h ?_)
  rw [bodyEoif, M.bind_getC, if_neg (Nat.not_lt.mpr hk), M.bind_drainM hd, M.bind_getC, hf]

/-! ### The window without interrupts (R243) -/

theorem exec_niwopen (h : Issues s a .niwopen l c s1) (hc : s1.compact = false) (hk : (s1.core c).niw = false) :
    exec (.niwopen a l) s
      = .next (retireLong s l (s1.modCore c (fun k => { k.setStatus 17 17 1 with niwTicks := true })) c) := by
  refine congrArg Host.Outcome.next (runLong_ok h ?_)
  rw [bodyNiwopen, M.bind_getC, hc, hk]
  rfl

theorem exec_niwopen_refused (h : Issues s a .niwopen l c s1) (hc : s1.compact = true ∨ (s1.core c).niw = true) :
    exec (.niwopen a l) s
      = .next (raised s l c { cause := .illegalOp, sub := 6, step := 10, detail := l.word .niwopen }) := by
  refine congrArg Host.Outcome.next (runLong_trap h ?_ (by simp))
  rw [bodyNiwopen, M.bind_getC, if_pos (Bool.or_eq_true_iff.mpr hc)]

theorem exec_niwclose (h : Issues s a .niwclose l c s1) :
    exec (.niwclose a l) s
      = .next (retireLong s l (s1.modCore c (fun k => { k.setStatus 17 17 0 with niwTicks := false })) c) :=
  congrArg Host.Outcome.next (runLong_ok h rfl)

theorem exec_niwLimitExpiry (hs : sourceCore s c = some d) (hk : (s.core d).niwTicks = true) :
    exec (.niwLimitExpiry c) s
      = .next (mirror (s.modCore d (fun k => { k.setStatus 18 17 2 with niwTicks := false })) d) := by
  change execNiwLimitExpiry c s = _
  simp only [execNiwLimitExpiry, hs, hk, if_true, State.modCore]

/-- Settles O27: BARRIER by the participant set and the episode, WAIT by what is due, an end of a class by CSTK. -/
theorem waitsAndClassEndsComplete : Obligations.WaitsAndClassEndsComplete := by
  refine ⟨⟨?fence, ?outside, ?released, ?waits, ?goes, ?stays, ?wakes⟩, ?eoin, ?eoinOrder, ?eoif, ?eoifReturns, ?eoifOrder,
    ?niwopen, ?niwopenRefused, ?niwclose, ?niwLimit⟩
  case fence => exact fun s a l c s1 => exec_fence
  case outside =>
    rintro s a l c r x y s3 n s4 h hx hy hs hn rfl hp hd
    refine exec_barrier (fl := .seq) ⟨⟨r, x, y, s3, h, hx, hy, hs, hd, rfl⟩, hn⟩ ?_
    rw [barrierArrival, M.bind_ok rfl, M.bind_getC, hp]
    rfl
  case released =>
    rintro s a l c r x y s3 n s4 h hx hy hs hn rfl hp hb hd
    refine exec_barrier (fl := .seq) ⟨⟨r, x, y, s3, h, hx, hy, hs, hd, rfl⟩, hn⟩ ?_
    rw [barrierArrival, M.bind_ok rfl, M.bind_getC, hp, hb]
    rfl
  case waits =>
    rintro s a l c r x y s3 n s4 h hx hy hs hn rfl hp hb hd
    refine exec_barrier (fl := .stay) ⟨⟨r, x, y, s3, h, hx, hy, hs, hd, rfl⟩, hn⟩ ?_
    rw [barrierArrival, M.bind_ok rfl, M.bind_getC, hp, Bool.not_true, if_neg Bool.false_ne_true, beq_false_of_ne hb,
      if_neg Bool.false_ne_true]
    rfl
  case goes =>
    rintro s a l c s1 _ h rfl
    exact exec_wait_goes h
  case stays =>
    rintro s a l c s1 _ h rfl
    exact exec_wait_waits h
  case wakes =>
    rintro s c d _ hs rfl
    exact exec_waitWake hs
  case eoin => exact fun s a l c s1 => exec_eoin
  case eoinOrder => exact fun s a l c s1 => exec_eoin_order
  case eoif =>
    rintro s a l c s1 _ _ h hk hd rfl rfl hf
    exact exec_eoif h hk hd hf
  case eoifReturns =>
    rintro s a l c s1 s2 _ f k1 h hk hd hs rfl hf h1
    exact exec_eoif_returns h hk hd hs hf h1
  case eoifOrder => exact fun s a l c s1 => exec_eoif_order
  case niwopen => exact fun s a l c s1 => exec_niwopen
  case niwopenRefused => exact fun s a l c s1 => exec_niwopen_refused
  case niwclose => exact fun s a l c s1 => exec_niwclose
  case niwLimit =>
    rintro s c d _ hs rfl
    exact exec_niwLimitExpiry hs

/-! ### The release of a barrier (R208, R209) -/

theorem exec_barrierRelease {b : Fin 16} (ha : allArrived s b.val = true)
    (hr : rangeBarrier s b.val = false ∨ rangeSize s = 1) :
    exec (.barrierRelease b) s = .next (releaseBarrier s b.val) := by
  have hdue : (allArrived s b.val && (!rangeBarrier s b.val || rangeSize s == 1)) = true := by simpa [ha] using hr
  exact congrArg Host.Outcome.next (if_pos hdue)

theorem exec_rangeBarrierRelease {b : Fin 16} (ha : allArrived s b.val = true) (hr : rangeBarrier s b.val = true)
    (hn : 1 < rangeSize s) : exec (.rangeBarrierRelease b) s = .next (releaseBarrier s b.val) := by
  have hdue : (allArrived s b.val && rangeBarrier s b.val && decide (1 < rangeSize s)) = true := by simp [ha, hr, hn]
  exact congrArg Host.Outcome.next (if_pos hdue)

theorem Core.setUnder_under (k : Core) (m : CoreMode) : (k.setUnder m).under = m := by
  unfold setUnder
  split
  · rfl
  · next h =>
    unfold under
    split
    · next hp => exact absurd hp (h _ _ _ _)
    · rfl

theorem Core.setUnder_bars (k : Core) (m : CoreMode) : (k.setUnder m).bars = k.bars := by
  unfold setUnder
  split <;> rfl

/-- The completion of an instruction leaves the mode that a core goes back to, and its barriers. -/
theorem Core.offCompletion_under_bars : Core.OffCompletion (fun k => (k.under, k.bars)) where
  loop _ _ _ := rfl
  level _ _ := rfl
  marks _ _ _ _ _ _ := rfl

/-- A core that leaves the barrier it waits in runs on, and its arrival is gone. -/
theorem leaveBarrier_of_waiting {len : Nat} {f4 : Bool} (h : k.under = .barrier n len) :
    (leaveBarrier k n f4).under = .running ∧ Tbl.get? (leaveBarrier k n f4).bars n = none := by
  have hleft : leaveBarrier k n f4
      = complete ({ k.setBit 4 f4 with bars := Tbl.del k.bars n }.setUnder .running) k.pc len .seq := by
    rw [leaveBarrier, h]
    exact if_pos rfl
  have hkept := Core.offCompletion_under_bars.complete_seq
    ({ k.setBit 4 f4 with bars := Tbl.del k.bars n }.setUnder .running) k.pc len
  obtain ⟨hunder, hbars⟩ := Prod.mk.inj hkept
  rw [hleft, hunder, hbars, Core.setUnder_under, Core.setUnder_bars]
  exact ⟨rfl, by rw [Tbl.get?_del, if_pos rfl]⟩

/-! ### Entries at a boundary (R219, R239 to R245) -/

theorem exec_normalInterruptEntry (hs : sourceCore s c = some d) (he : takesEvents (s.core d) = true)
    (hw : inWindowTrap (s.core d) = false) (hn : takesNormal s (s.core d) = true) (hf : takesFast s d (s.core d) = false)
    (hm : takesCheck s (s.core d) = false) :
    exec (.normalInterruptEntry c) s = .next (mirror (enterException (atBoundary s d) d { cause := .interrupt, async := true }
      (s.core d).pc (s.core d).pc) d) := by
  change execNormalInterruptEntry c s = _
  simp [execNormalInterruptEntry, hs, he, hw, hn, hf, hm]

/-- The core that enters its fast handler (R240). -/
def fastEntered (k : Core) : Core :=
  { (k.setStatus 22 22 1).setStatus 15 14 (k.cstk % 2 + 2) with fastRet := some ⟨k.pc, k.fmt, k.im⟩ }

theorem enterFast_eq {tg : Target} (hw : entryWaits s d = false) (hc : (drainStores s d).compact = false)
    (ht : codeTarget d nil (mkWord 0x16 ((drainStores s d).fld .cfgXfast (leadOf (drainStores s d) d).val 46 4 * 16))
      (drainStores s d) = .ok (tg, s1)) :
    enterFast s d = enterCode (s1.setCore d (fastEntered (s1.core d))) d tg := by
  simp only [enterFast, hw, hc, ht, Bool.false_eq_true, if_false]
  rfl

theorem exec_fastInterruptEntry (hs : sourceCore s c = some d) (he : takesEvents (s.core d) = true)
    (hf : takesFast s d (s.core d) = true) (hm : takesCheck s (s.core d) = false) :
    exec (.fastInterruptEntry c) s = .next (mirror (enterFast (atBoundary s d) d) d) := by
  change execFastInterruptEntry c s = _
  simp [execFastInterruptEntry, hs, he, hf, hm]

theorem exec_deferredMachineCheck {pa : Nat} (hs : sourceCore s c = some d) (hp : (s.core d).mcPend = some pa)
    (he : takesEvents (s.core d) = true) (hm : takesCheck s (s.core d) = true) (hw : entryWaits s d = false) :
    exec (.deferredMachineCheck c) s = .next (mirror (enterLastResort
      (recordCheck ((drainStores (atBoundary s d) d).modCore d (fun k => { k with mcPend := none })) d 3 pa) d
      { cause := .machineCheck, sub := 3, async := true, detail := pa } (s.core d).pc (s.core d).pc) d) := by
  change execDeferredMachineCheck c s = _
  simp only [execDeferredMachineCheck, hs, hp, he, hm, hw, Bool.not_false, Bool.and_self, if_true]

/-- Settles O34: a release by who has arrived, an entry by the events that are due and their ranks. -/
theorem barriersAndEventsTaken : Obligations.BarriersAndEventsTaken := by
  refine ⟨⟨?release, ?rangeRelease, ?leaves⟩, ?normal, ?fast, ?check⟩
  case release => exact fun s b => exec_barrierRelease
  case rangeRelease => exact fun s b => exec_rangeBarrierRelease
  case leaves => exact fun k n len => leaveBarrier_of_waiting
  case normal =>
    rintro s c d _ hs rfl
    exact exec_normalInterruptEntry hs
  case fast =>
    rintro s c d _ _ tg s1 _ hs rfl he hf hm hw rfl hc ht rfl
    rw [exec_fastInterruptEntry hs he hf hm, enterFast_eq hw hc ht]
    rfl
  case check =>
    rintro s c d _ pa hs rfl
    exact exec_deferredMachineCheck hs

end Sys2Proof.Machine

/-! PROOFS of the operations family, eighth part: the operations on Cirque tables, posts and starts of channels. -/

namespace Sys2Proof.Machine

open Sys2Proof

variable {s s1 s2 s3 s4 s5 s6 s7 : State} {a : At} {op : Opcode} {l : Long} {c : CoreId} {r : ResB}
  {x y v w ctrl k0 k1 old : Word} {t : Cq} {b fp i n : Nat} {f : Found} {hit : Bool}

/-! ### Tables (R216, R358) -/

theorem cirqueStatus_ok {α : Type} {m : M α} {p : α × State} (h : m s = .ok p) : cirqueStatus m s = .ok p := by
  rw [cirqueStatus, h]

/-- An operation on a table retires with what its work on the place of the key gives. -/
theorem Ready.table {g : CoreId → Cq → Nat → Nat → Word → Word → Word → Found → M (Word × Bool)}
    (h : Ready s a op l c r x y s3) (hs : Searches s3 c l y t b fp ctrl k0 k1 f s4)
    (hg : g c t b fp ctrl k0 k1 f s4 = .ok ((v, hit), s5)) :
    runLong s a op l (cirqueOp op l g) = cqDone s l c r s5 hit v := by
  obtain ⟨u1, u2, u3, htable, hkey, hplace, hfind⟩ := hs.steps
  refine h.runs fun s1 ho => ?_
  obtain ⟨s2, h1, h2⟩ := ho.read
  rw [cirqueOp, M.bind_ok h1, M.bind_ok h2]
  refine (M.bind_ok (a := (v, hit)) (t := s5) (atStep_ok 10 (cirqueStatus_ok ?work))).trans (M.bind_postB r _)
  calc _ = _ := M.bind_drainM hs.drained _
    _ = _ := M.bind_ok htable
    _ = _ := M.bind_ok hkey
    _ = _ := M.bind_ok hplace
    _ = _ := M.bind_ok hfind
    _ = .ok ((v, hit), s5) := hg

theorem wantMutable_ok (h : t.obj.imm = false) : wantMutable t = pure () := by
  rw [wantMutable, h, if_neg Bool.false_ne_true]

theorem foundValue_absent (t : Cq) (b : Nat) : foundValue c t b .absent s = .ok (unbound, s) := rfl

theorem exec_cqlook (h : Ready s a .cqlook l c r x y s3) (hs : Searches s3 c l y t b fp ctrl k0 k1 f s4)
    (hv : foundValue c t b f s4 = .ok (v, s5)) :
    exec (.cqlook a l) s = .next (cqDone s l c r s5 (f != .absent) v) := by
  refine congrArg Host.Outcome.next (h.table hs ?_)
  rw [M.bind_ok hv]
  rfl

/-- CQINS has a value for a table that may change. -/
structure Inserts (c : CoreId) (l : Long) (t : Cq) (s : State) (v : Word) (u : State) : Prop where
  healed : healRegM c l.rd.toNat s = .ok (v, u)
  plain : forgeTag (tagOf v) = false
  writable : t.obj.imm = false

theorem exec_cqins_replaces (h : Ready s a .cqins l c r x y s3) (hs : Searches s3 c l y t b fp ctrl k0 k1 f s4)
    (hf : f ≠ .absent) (hi : Inserts c l t s4 v s5) (hold : foundValue c t b f s5 = .ok (old, s6))
    (hp : putValue c t b v f s6 = .ok ((), s7)) : exec (.cqins a l) s = .next (cqDone s l c r s7 true old) := by
  refine congrArg Host.Outcome.next (h.table hs ?_)
  rw [M.bind_ok hi.healed, hi.plain, if_neg Bool.false_ne_true, wantMutable_ok hi.writable, M.bind_pure, M.bind_ok hold]
  cases f with
  | absent => exact absurd rfl hf
  | bucket i => exact M.bind_ok hp
  | chain j p => exact M.bind_ok hp

/-- Entry i is the first that is free in its bucket. -/
def FirstFree (ctrl : Word) (i : Nat) : Prop :=
  usedBit ctrl 0 = false ∧ i = 0 ∨ usedBit ctrl 0 = true ∧ usedBit ctrl 1 = false ∧ i = 1

theorem exec_cqins_bucket (h : Ready s a .cqins l c r x y s3) (hs : Searches s3 c l y t b fp ctrl k0 k1 .absent s4)
    (hi : Inserts c l t s4 v s5) (hf : FirstFree ctrl i) (hn : insertBucket c t b fp i ctrl k0 k1 v s5 = .ok ((), s6)) :
    exec (.cqins a l) s = .next (cqDone s l c r s6 false unbound) := by
  refine congrArg Host.Outcome.next (h.table hs ?_)
  rw [M.bind_ok hi.healed, hi.plain, if_neg Bool.false_ne_true, wantMutable_ok hi.writable, M.bind_pure,
    M.bind_ok (foundValue_absent t b)]
  obtain ⟨h0, rfl⟩ | ⟨h0, h1, rfl⟩ := hf
  · rw [h0]
    exact M.bind_ok hn
  · rw [h0, h1]
    exact M.bind_ok hn

theorem exec_cqins_chain (h : Ready s a .cqins l c r x y s3) (hs : Searches s3 c l y t b fp ctrl k0 k1 .absent s4)
    (hi : Inserts c l t s4 v s5) (h0 : usedBit ctrl 0 = true) (h1 : usedBit ctrl 1 = true)
    (hn : insertChain c t b ctrl k0 k1 v s5 = .ok ((), s6)) :
    exec (.cqins a l) s = .next (cqDone s l c r s6 false unbound) := by
  refine congrArg Host.Outcome.next (h.table hs ?_)
  rw [M.bind_ok hi.healed, hi.plain, if_neg Bool.false_ne_true, wantMutable_ok hi.writable, M.bind_pure,
    M.bind_ok (foundValue_absent t b), h0, h1]
  exact M.bind_ok hn

theorem exec_cqdel_absent (h : Ready s a .cqdel l c r x y s3) (hs : Searches s3 c l y t b fp ctrl k0 k1 .absent s4)
    (hm : t.obj.imm = false) : exec (.cqdel a l) s = .next (cqDone s l c r s4 false unbound) := by
  refine congrArg Host.Outcome.next (h.table hs ?_)
  rw [wantMutable_ok hm]
  rfl

theorem exec_cqdel_bucket (h : Ready s a .cqdel l c r x y s3) (hs : Searches s3 c l y t b fp ctrl k0 k1 (.bucket i) s4)
    (hm : t.obj.imm = false) (hold : foundValue c t b (.bucket i) s4 = .ok (old, s5))
    (hd : removeBucket c t b i ctrl s5 = .ok ((), s6)) : exec (.cqdel a l) s = .next (cqDone s l c r s6 true old) := by
  refine congrArg Host.Outcome.next (h.table hs ?_)
  rw [wantMutable_ok hm, M.bind_pure, M.bind_ok hold]
  exact M.bind_ok hd

theorem exec_cqdel_chain {j : Nat} {p : Option Nat} (h : Ready s a .cqdel l c r x y s3)
    (hs : Searches s3 c l y t b fp ctrl k0 k1 (.chain j p) s4) (hm : t.obj.imm = false)
    (hold : foundValue c t b (.chain j p) s4 = .ok (old, s5)) (hd : removeChain c t b j p ctrl s5 = .ok ((), s6)) :
    exec (.cqdel a l) s = .next (cqDone s l c r s6 true old) := by
  refine congrArg Host.Outcome.next (h.table hs ?_)
  rw [wantMutable_ok hm, M.bind_pure, M.bind_ok hold]
  exact M.bind_ok hd

/-- Settles O28: an operation on a table by the place where the search finds its key. -/
theorem tableOperationsComplete : Obligations.TableOperationsComplete := by
  refine ⟨?cqlook, ?replaces, ?newBucket, ?newChain, ?delAbsent, ?delBucket, ?delChain⟩
  case cqlook => exact fun s a l c r x y s3 t b fp ctrl k0 k1 w s4 v s5 => exec_cqlook
  case replaces =>
    intro s a l c r x y s3 t b fp ctrl k0 k1 w s4 v s5 old s6 s7 h hs hw hv hf hm
    exact exec_cqins_replaces h hs hw ⟨hv, hf, hm⟩
  case newBucket =>
    intro s a l c r x y s3 t b fp ctrl k0 k1 s4 v s5 i s6 h hs hv hf hm hi hn
    exact exec_cqins_bucket h hs ⟨hv, hf, hm⟩ hi hn
  case newChain =>
    intro s a l c r x y s3 t b fp ctrl k0 k1 s4 v s5 s6 h hs hv hf hm h0 h1 hn
    exact exec_cqins_chain h hs ⟨hv, hf, hm⟩ h0 h1 hn
  case delAbsent => exact fun s a l c r x y s3 t b fp ctrl k0 k1 s4 => exec_cqdel_absent
  case delBucket => exact fun s a l c r x y s3 t b fp ctrl k0 k1 i s4 old s5 s6 => exec_cqdel_bucket
  case delChain => exact fun s a l c r x y s3 t b fp ctrl k0 k1 j p s4 old s5 s6 => exec_cqdel_chain

/-! ### CRGPOST (R215) -/

variable {o : Obj} {h : Word}

/-- Operand B names a mailbox, which the access finds as `o`. -/
structure NamesMailbox (c : CoreId) (l : Long) (y : Word) (s : State) (o : Obj) (t : State) : Prop where
  pointer : tagOf y = 0x14
  opened : ∃ w s1, healB c l y s = .ok (w, s1) ∧ openObject c w 10 s1 = .ok (o, t)
  mailbox : ∃ h, o.hdr = some h ∧ tagOf h = 0x20 ∧ hdrClass h = 8

theorem exec_crgpost (hr : Ready s a .crgpost l c r x y s3) (hb : NamesMailbox c l y s3 o s5)
    (hv : healRegM c l.ra.toNat s5 = .ok (v, s6)) (hp : postFromCore c o v s6 = .ok (n, s7)) :
    exec (.crgpost a l) s = .next (done s l c r (withBitReg s7 c 0 (n == 0)) (fixN n)) := by
  obtain ⟨w, s4, hh, ho⟩ := hb.opened
  obtain ⟨h, hhdr, htag, hclass⟩ := hb.mailbox
  refine congrArg Host.Outcome.next (hr.value ?_)
  simp only [hb.pointer, bne_self_eq_false, Bool.false_eq_true, if_false, M.bind_ok hh, M.bind_ok ho, hhdr, Option.getD_some,
    htag, hclass, Bool.or_self, M.bind_ok hv, M.bind_ok hp, M.bind_setBitM, M.pure_run]

/-! ### TRVGO (R417) -/

/-- TRVGO answers with what the engine makes of its channel. -/
theorem exec_trvgo {code : Nat} (hr : Ready s a .trvgo l c r x (fixN n) s3) (hn : n < 64) (hd : Drains s3 c)
    (hg : trvGo (drainStores s3 c) n = (code, s4)) :
    exec (.trvgo a l) s = .next (done s l c r s4 (fixN code)) := by
  have hv : valOf (fixN n) = n := valOf_fixN (by omega)
  have hrange : ¬ (!isFix (fixN n) || decide (64 ≤ valOf (fixN n))) = true := by simp [hv, hn]
  refine congrArg Host.Outcome.next (hr.unary ?_)
  rw [if_neg hrange, M.bind_drainM hd, hv, hg]

theorem trvGo_disabled (hc : chState s n = chDisabled ∨ s.flag .trvCtl n 62 = false) : trvGo s n = (2, s) :=
  if_pos (by simpa using hc)

/-- A channel that TRVGO may start is not disabled. -/
theorem trvGo_enabled (he : s.flag .trvCtl n 62 = true) (hc : chState s n ≠ chDisabled) : trvGo s n =
    if chState s n == chIdle || chState s n == chDone || chState s n == chAborted then (0, startChannel s n) else (1, s) :=
  if_neg (by simp [he, hc])

theorem trvGo_starts (he : s.flag .trvCtl n 62 = true)
    (hc : chState s n = chIdle ∨ chState s n = chDone ∨ chState s n = chAborted) : trvGo s n = (0, startChannel s n) := by
  rw [trvGo_enabled he (by rcases hc with e | e | e <;> rw [e] <;> decide), if_pos (by simpa [or_assoc] using hc)]

theorem trvGo_busy (he : s.flag .trvCtl n 62 = true)
    (hc : chState s n = chRunning ∨ chState s n = chWaiting ∨ chState s n = chAborting) : trvGo s n = (1, s) := by
  rw [trvGo_enabled he (by rcases hc with e | e | e <;> rw [e] <;> decide)]
  rcases hc with e | e | e <;> rw [e] <;> rfl

/-- Settles O29: a post by what the mailbox answers, a start by the state of its channel. -/
theorem postsAndStartsComplete : Obligations.PostsAndStartsComplete := by
  refine ⟨?crgpost, ?disabled, ?starts, ?busy⟩
  case crgpost =>
    intro s a l c r x y s3 w s4 o s5 h msg s6 n s7 hr hy hh ho hhdr ht hc
    exact exec_crgpost hr ⟨hy, ⟨w, s4, hh, ho⟩, ⟨h, hhdr, ht, hc⟩⟩
  case disabled =>
    rintro s a l c r x _ s3 n _ hr rfl hn rfl hc hd
    exact exec_trvgo hr hn hd (trvGo_disabled hc)
  case starts =>
    rintro s a l c r x _ s3 n _ hr rfl hn rfl he hc hd
    exact exec_trvgo hr hn hd (trvGo_starts he hc)
  case busy =>
    rintro s a l c r x _ s3 n _ hr rfl hn rfl he hc hd
    exact exec_trvgo hr hn hd (trvGo_busy he hc)

end Sys2Proof.Machine

/-! PROOFS of the traps family (spec/08_traps.md): the entry of an exception and the frame that it pushes. -/

namespace Sys2Proof.Machine

open Sys2Proof

variable {s s1 s2 : State} {c : CoreId} {t : Trap} {tg : Target} {k : Core} {fpc npc sp : Nat}

/-! ### Registers and STATUS (R85, R109) -/

/-- A register reads alike in two cores whose banks, CWP, TW and FB agree. -/
theorem Core.getReg_congr {j : Core} (n : Nat) (hb : j.fb = k.fb) (ht : j.tw = k.tw) (hc : j.cwp = k.cwp)
    (hbanks : (j.globals, j.fast, j.trapw, j.reel) = (k.globals, k.fast, k.trapw, k.reel)) : j.getReg n = k.getReg n := by
  obtain ⟨hg, hf, hw, hr⟩ : j.globals = k.globals ∧ j.fast = k.fast ∧ j.trapw = k.trapw ∧ j.reel = k.reel := by
    simpa using hbanks
  simp only [getReg, hb, ht, hc, hg, hf, hw, hr]

theorem Core.getReg_setStatus {hi : Nat} (lo v n : Nat) (h : hi < 22) : (k.setStatus hi lo v).getReg n = k.getReg n :=
  getReg_congr n (bitOf_withBits_ne _ _ (.inr h)) (bitOf_withBits_ne _ _ (.inr (Nat.lt_succ_of_lt h))) rfl rfl

theorem Core.fmt_setStatus (b : Bool) : (k.setStatus 21 21 (if b then 1 else 0)).fmt = b := by
  rw [fmt, setStatus, bitOf_withBits_in _ _ (by decide) (by decide)]
  cases b <;> rfl

theorem Core.cwp_setReg (n : Nat) (w : Word) : (k.setReg n w).cwp = k.cwp := by
  unfold setReg
  split_ifs <;> rfl

theorem g7_setGlobal (w : Word) : (setGlobal k 7 w).g7 = w := by
  change Tbl.getD (Tbl.putD k.globals unbound 7 w) unbound 7 = w
  rw [Tbl.getD_putD, if_pos rfl]

/-! ### The code object entered (R168, R169) -/

theorem core_enterCode (s : State) (c : CoreId) (tg : Target) :
    (enterCode s c tg).core c = { (s.core c).setStatus 21 21 (if tg.fmt then 1 else 0) with
      pc := tg.entry, codeObj := tg.code, area := some tg.area, jump := none, onlyB := false
      shadow := (s.core c).fmt != tg.fmt } :=
  (State.core_setCore s c c _).trans (if_pos rfl)

/-! ### The last part of an entry (R223, R224) -/

/-- The registers of a handler: g7 and l0 hold the T.SP of the frame, l1 its closure, in the window after the
interrupted one. -/
def handlerWindow (k : Core) (sp : Nat) (tg : Target) : Core :=
  ((rotatedForward (setGlobal k 7 (mkWord 0x32 sp))).setReg 8 (mkWord 0x32 sp)).setReg 9 tg.closure

/-- IM and CSTK as an entry sets them. -/
def maskedFor (k : Core) (compact : Bool) (t : Trap) : Core :=
  let k1 := if compact then k.setStatus 16 16 1 else k
  if t.cause == .interrupt then k1.setStatus 15 14 1 else k1

theorem intoHandler_eq (s : State) (c : CoreId) (t : Trap) (sp : Nat) (tg : Target) :
    intoHandler s c t sp tg
      = (enterCode (s.setCore c (maskedFor (handlerWindow (s.core c) sp tg) s.compact t)) c tg).modCore c
          (fun k => { k with entered := some t.cause }) := rfl

theorem maskedFor_getReg (compact : Bool) (n : Nat) : (maskedFor k compact t).getReg n = k.getReg n := by
  unfold maskedFor
  split_ifs <;> simp [Core.getReg_setStatus]

theorem maskedFor_cwp (compact : Bool) : (maskedFor k compact t).cwp = k.cwp := by
  unfold maskedFor
  split_ifs <;> rfl

theorem handlerWindow_l0 : (handlerWindow k sp tg).getReg 8 = mkWord 0x32 sp := by
  rw [handlerWindow, Core.getReg_setReg _ _ (by decide), if_neg (by decide), Core.getReg_setReg _ _ (by decide), if_pos rfl]

theorem handlerWindow_l1 : (handlerWindow k sp tg).getReg 9 = tg.closure := by
  rw [handlerWindow, Core.getReg_setReg _ _ (by decide), if_pos rfl]

theorem handlerWindow_g7 : (handlerWindow k sp tg).getReg 31 = mkWord 0x32 sp := by
  rw [handlerWindow, Core.getReg_setReg _ _ (by decide), if_neg (by decide), Core.getReg_setReg _ _ (by decide),
    if_neg (by decide), Core.getReg_rotatedForward_global _ (by decide)]
  exact g7_setGlobal _

theorem handlerWindow_cwp : (handlerWindow k sp tg).cwp = (k.cwp + 1) % 12 := by
  rw [handlerWindow, Core.cwp_setReg, Core.cwp_setReg, Core.rotatedForward_cwp]
  rfl

/-- The core in its handler: the registers are those of the handler's window, and STATUS.FMT is the handler's format. -/
theorem core_intoHandler (s : State) (c : CoreId) (t : Trap) (sp : Nat) (tg : Target) :
    (intoHandler s c t sp tg).core c =
      { (maskedFor (handlerWindow (s.core c) sp tg) s.compact t).setStatus 21 21 (if tg.fmt then 1 else 0) with
        pc := tg.entry, codeObj := tg.code, area := some tg.area, jump := none, onlyB := false
        shadow := (maskedFor (handlerWindow (s.core c) sp tg) s.compact t).fmt != tg.fmt, entered := some t.cause } := by
  rw [intoHandler_eq, State.core_modCore, if_pos rfl, core_enterCode, State.core_setCore, if_pos rfl]

theorem intoHandler_getReg (n : Nat) :
    ((intoHandler s c t sp tg).core c).getReg n = (handlerWindow (s.core c) sp tg).getReg n := by
  rw [core_intoHandler, ← maskedFor_getReg (k := handlerWindow (s.core c) sp tg) (t := t) s.compact n]
  exact Core.getReg_congr n (bitOf_withBits_ne _ _ (by decide)) (bitOf_withBits_ne _ _ (by decide)) rfl rfl

theorem intoHandler_cwp : ((intoHandler s c t sp tg).core c).cwp = ((s.core c).cwp + 1) % 12 := by
  rw [core_intoHandler]
  change (maskedFor (handlerWindow (s.core c) sp tg) s.compact t).cwp = _
  rw [maskedFor_cwp, handlerWindow_cwp]

theorem intoHandler_fmt : ((intoHandler s c t sp tg).core c).fmt = tg.fmt := by
  rw [core_intoHandler]
  exact Core.fmt_setStatus tg.fmt

/-! ### Taking an exception (R92, R223) -/

/-- The core is in no last-resort handler, not in the trap window and not on the fast bank, where an exception would be a
halt or a double fault. -/
structure TakesException (k : Core) : Prop where
  ordinary : k.lastResort = false
  outsideTrap : k.tw = false
  outsideFast : k.fb = false

theorem enterException_full (h : TakesException (s.core c)) (hr : (s.core c).resident = 11) :
    enterException s c t fpc npc = enterWindowTrap s c true fpc := by
  simp only [enterException, h.ordinary, h.outsideTrap, h.outsideFast, Bool.false_eq_true, if_false, if_pos hr]

theorem enterException_pushed (h : TakesException (s.core c)) (hr : (s.core c).resident ≠ 11)
    (hh : readHandler c t t.cause.code s = .ok (tg, s1)) (ht : tagOf (s.core c).g7 = 0x32) (hv : 96 ≤ valOf (s.core c).g7)
    (hp : pushFrame c (valOf (s.core c).g7 - 96) (buildFrame (s1.core c) t fpc npc) s1 = .ok ((), s2)) :
    enterException s c t fpc npc = intoHandler s2 c t (valOf (s.core c).g7 - 96) tg := by
  simp only [enterException, h.ordinary, h.outsideTrap, h.outsideFast, Bool.false_eq_true, if_false, if_neg hr, hh, ht,
    bne_self_eq_false, if_neg (Nat.not_lt.mpr hv), hp]

/-! ### The frame (R225 to R229) -/

theorem frameSafe_of_sp {w : Word} (h : tagOf w = 0x32) : frameSafe w = w := by
  simp [frameSafe, h, isReservedTag, isHeaderTag]

/-- Outside a delay bundle and a shadow the pushed STATUS is the core's. -/
theorem buildFrame_status (hj : k.jump = none) (hs : k.shadow = false) : (buildFrame k t fpc npc)[4]? = some k.status := by
  simp [buildFrame, hj, hs]

theorem buildFrame_oldSp (h : tagOf k.g7 = 0x32) : (buildFrame k t fpc npc)[9]? = some k.g7 :=
  congrArg some (frameSafe_of_sp h)

/-- Settles O35: the entry goes on to its last part where the handler and the push answer, and each field of the core that
follows is read off that part; the frame is read off word by word. -/
theorem exceptionsEntered : Obligations.ExceptionsEntered := by
  refine ⟨⟨?entered, ?full⟩, ?frame⟩
  case entered =>
    rintro s c t fpc npc _ tg s1 s2 _ rfl hlr htw hfb hr hh ht hv hp rfl - -
    rw [enterException_pushed ⟨hlr, htw, hfb⟩ hr hh ht hv hp]
    refine ⟨?pc, ?code, ?area, intoHandler_fmt, ?g7, ?l0, ?l1, intoHandler_cwp, ?cause, rfl⟩
    case g7 => exact (intoHandler_getReg 31).trans handlerWindow_g7
    case l0 => exact (intoHandler_getReg 8).trans handlerWindow_l0
    case l1 => exact (intoHandler_getReg 9).trans handlerWindow_l1
    all_goals rw [core_intoHandler]
  case full =>
    rintro s c t fpc npc _ rfl hlr htw hfb hr
    exact enterException_full ⟨hlr, htw, hfb⟩ hr
  case frame =>
    rintro k t fpc npc _ rfl
    exact ⟨rfl, rfl, rfl, rfl, rfl, buildFrame_status, rfl, buildFrame_oldSp, rfl⟩

end Sys2Proof.Machine

/-! PROOFS of the microcode family (spec/09_microcode.md): requests for patches, their drain at a boundary and their end. -/

namespace Sys2Proof.Machine

open Sys2Proof

variable {s s1 : State} {c d : CoreId} {w : SetupWrite} {r : PatchOutcome} {odd : Option (Fin 3 × PatchOutcome)}
  {load : Option (Tbl MatchReg × Nat)} {back : CoreMode} {m : Fin 3} {o : PatchOutcome} {image code : Nat}

/-! ### Requests (R261, R264) -/

@[simp] theorem core_storeSetup (n : RegName) (i : Nat) : (storeSetup s n i w).core d = s.core d := rfl

theorem exec_mcApply_of_reach (ha : acts w 63 = true) (hr : mayReach s w.agent .mcCtl c.val = true) :
    exec (.mcApply c w) s = .next (writeMcCtl s c w) := by
  refine congrArg Host.Outcome.next (if_pos ?_)
  rw [ha, hr]
  rfl

theorem exec_mcDisable_of_reach (hd : acts w 62 = true) (ha : acts w 63 = false)
    (hr : mayReach s w.agent .mcCtl c.val = true) : exec (.mcDisable c w) s = .next (writeMcCtl s c w) := by
  refine congrArg Host.Outcome.next (if_pos ?_)
  rw [hd, ha, hr]
  rfl

/-- A command to MC_CTL finds a core behind it with no patch under way. -/
structure PatchIdle (s : State) (c d : CoreId) : Prop where
  source : sourceCore s c = some d
  idle : (s.core d).patch = none

theorem writeMcCtl_apply (hi : PatchIdle s c d) (ha : acts w 63 = true) (hm : (s.core d).mode ≠ .halted)
    (h1 : s1 = storeSetup s .mcCtl c.val w) :
    writeMcCtl s c w = setResult (setPatch s1 c (.apply (16 * s1.fld .mcCtl c.val 43 4))) c true
      (s1.fld .mcResult c.val 7 0) := by
  subst h1
  rw [writeMcCtl, hi.source]
  simp only [hi.idle, ha, core_storeSetup, beq_false_of_ne hm, Option.isSome_none, Bool.false_eq_true, if_false, if_true,
    Nat.mul_comm 16]

theorem writeMcCtl_disable (hi : PatchIdle s c d) (hd : acts w 62 = true) (ha : acts w 63 = false)
    (h1 : s1 = storeSetup s .mcCtl c.val w) :
    writeMcCtl s c w = if patchFloor s1 = 0 then setResult (setPatch s1 c .disable) c true (s1.fld .mcResult c.val 7 0)
      else setResult s1 c false 9 := by
  subst h1
  rw [writeMcCtl, hi.source]
  simp only [hi.idle, ha, hd, Option.isSome_none, Bool.false_eq_true, if_false, if_true, bne_iff_ne, ne_eq, ite_not]

/-! ### The drain (R260, R261 steps 1 to 6) -/

/-- The core is at a boundary where a patch may begin. -/
structure PatchBoundary (k : Core) : Prop where
  unshadowed : k.shadow = false
  wholeParcel : k.onlyB = false
  noDelay : k.jump = none
  notHalted : k.mode ≠ .halted
  notStopped : k.mode ≠ .stopped

theorem PatchBoundary.drains {k : Core} (h : PatchBoundary k) :
    (k.shadow || k.onlyB || k.jump.isSome || k.mode == .halted || k.mode == .stopped) = false := by
  rw [h.unshadowed, h.wholeParcel, h.noDelay, beq_false_of_ne h.notHalted, beq_false_of_ne h.notStopped]
  rfl

/-- The core in the patch state: no match register holds, and what is to be loaded waits for the end. -/
def inPatchState (out : PatchOutcome) (odd : Option (Fin 3 × PatchOutcome)) (load : Option (Tbl MatchReg × Nat))
    (pram : Tbl (BitVec 33)) (k : Core) : Core :=
  { k.landAll with mode := .patching, patch := some (.ending out odd load k.mode), matchRegs := [], pram := pram }

theorem exec_patchDrain_disable (hs : sourceCore s c = some d) (hb : PatchBoundary (s.core d))
    (hp : (s.core d).patch = some .disable) :
    exec (.patchDrain c ⟨r, odd⟩) s
      = .next (mirror ((drainStores s d).modCore d (inPatchState .loaded odd none (s.core d).pram)) d) := by
  change execPatchDrain c ⟨r, odd⟩ s = _
  simp only [execPatchDrain, hs, hb.drains, hp, Bool.false_eq_true, if_false]
  rfl

theorem exec_patchDrain_refused (hs : sourceCore s c = some d) (hb : PatchBoundary (s.core d))
    (hp : (s.core d).patch = some (.apply image)) (hi : imageRefused (drainStores s d) image = some code) :
    exec (.patchDrain c ⟨r, odd⟩) s = .next (mirror (setResult
      ((drainStores s d).modCore d (fun k => { k with patch := none })) (leadOf s d) false code) d) := by
  change execPatchDrain c ⟨r, odd⟩ s = _
  simp only [execPatchDrain, hs, hb.drains, hp, hi, Bool.false_eq_true, if_false]

theorem exec_patchDrain_accepted (hs : sourceCore s c = some d) (hb : PatchBoundary (s.core d))
    (hp : (s.core d).patch = some (.apply image)) (h1 : s1 = drainStores s d) (hi : imageRefused s1 image = none)
    (hc : spanPoisoned s1 image (32 + 0x120 + 4 * imageWords s1 (image + 32)) = false) :
    exec (.patchDrain c ⟨r, odd⟩) s = .next (mirror (s1.modCore d (inPatchState r odd
      (some (loadMatches s1 (image + 32) (imageMatches s1 (image + 32)), n64 s1 (image + 48) % 2 ^ 32))
      (loadPram s1 (image + 32) (imageWords s1 (image + 32))))) d) := by
  subst h1
  change execPatchDrain c ⟨r, odd⟩ s = _
  simp only [execPatchDrain, hs, hb.drains, hp, hi, hc, Bool.false_eq_true, if_false]
  rfl

/-! ### The end (R261 steps 7 and 8, R262, R263) -/

/-- The members of the majority run on with what was loaded, and MC_RESULT tells it. -/
def patchEnded (s : State) (d : CoreId) (r : PatchOutcome) (load : Option (Tbl MatchReg × Nat)) (back : CoreMode) : State :=
  let s1 := mirror (s.modCore d (fun k => { k with mode := back, patch := none })) d
  setResult ((majority s1 d).foldl (fun x m => endPatch x m load r) s1) (leadOf s d) false (patchCode load r)

theorem exec_patchApplyEnd_agrees (hs : sourceCore s c = some d) (hp : (s.core d).patch = some (.ending r odd load back))
    (ho : odd = none ∨ troikaVoted s (troikaOfCore d) = false) :
    exec (.patchApplyEnd c) s = .next (patchEnded s d r load back) := by
  change execPatchApplyEnd c s = _
  simp only [execPatchApplyEnd, hs, hp]
  obtain rfl | hv := ho
  · cases troikaVoted s (troikaOfCore d) <;> rfl
  · rw [hv]
    rfl

theorem exec_patchApplyEnd_diverges {l : Tbl MatchReg × Nat} (hs : sourceCore s c = some d)
    (hp : (s.core d).patch = some (.ending r (some (m, o)) (some l) back)) (hv : troikaVoted s (troikaOfCore d) = true)
    (hm : (s.core (memberOf (troikaOf d) m)).minority = false) (ho : o ≠ r) (hn : minorityCount s (troikaOf d) ≠ 1) :
    exec (.patchApplyEnd c) s = .next (diverge
      (endPatch (patchEnded s d r (some l) back) (memberOf (troikaOf d) m) (some l) o) (troikaOf d) m 2 0) := by
  change execPatchApplyEnd c s = _
  simp only [execPatchApplyEnd, hs, hp, hv, hm, beq_false_of_ne ho, beq_false_of_ne hn, Option.isNone_some, Bool.or_self,
    Bool.false_eq_true, if_false]
  rfl

/-- Settles O36: a request by the write of MC_CTL to an idle core, a drain by what the check of the image says, an end by
whether a member of a voted troika loaded otherwise. -/
theorem patchesComplete : Obligations.PatchesComplete := by
  refine ⟨⟨?apply, ?disable, ?floor⟩, ?refused, ?accepted, ?disabled, ?agrees, ?diverges⟩
  case apply =>
    rintro s c d w _ ha hr hs hp rfl hm
    rw [exec_mcApply_of_reach ha hr, writeMcCtl_apply ⟨hs, hp⟩ ha hm rfl]
  case disable =>
    rintro s c d w _ hd ha hr hs hp rfl hf
    rw [exec_mcDisable_of_reach hd ha hr, writeMcCtl_disable ⟨hs, hp⟩ hd ha rfl, if_pos hf]
  case floor =>
    intro s c d w hd ha hr hs hp hf
    rw [exec_mcDisable_of_reach hd ha hr, writeMcCtl_disable ⟨hs, hp⟩ hd ha rfl, if_neg hf]
  case refused =>
    rintro s c d _ r odd image _ code hs rfl hsh hb hj hh hst hp rfl hi
    exact exec_patchDrain_refused hs ⟨hsh, hb, hj, hh, hst⟩ hp hi
  case accepted =>
    rintro s c d _ r odd image _ hs rfl hsh hb hj hh hst hp rfl hi hc
    exact exec_patchDrain_accepted hs ⟨hsh, hb, hj, hh, hst⟩ hp rfl hi hc
  case disabled =>
    rintro s c d _ r odd _ hs rfl hsh hb hj hh hst hp rfl
    exact exec_patchDrain_disable hs ⟨hsh, hb, hj, hh, hst⟩ hp
  case agrees =>
    rintro s c d r odd load back _ hs hp ho rfl
    exact exec_patchApplyEnd_agrees hs hp ho
  case diverges =>
    rintro s c d r m o load back _ _ hs hp hv hm ho hn rfl rfl
    exact exec_patchApplyEnd_diverges hs hp hv hm ho hn

end Sys2Proof.Machine

/-! PROOFS of the translation family (spec/10_translation.md), first part: the invalidation of TLB entries, and the requests
of masters at the memory that answers them. -/

namespace Sys2Proof.Machine

open Sys2Proof

variable {s s1 : State} {w : SetupWrite} {m : Master} {pa n i : Nat}

/-! ### Invalidation of TLB entries (R286, R287) -/

theorem exec_tlbinvStart_of_reach {p : Fin 97} (hf : w.part = .full) (h1 : 1 ≤ wfld w 63 60) (h4 : wfld w 63 60 ≤ 4)
    (hr : mayReach s w.agent .cfgTlbinv p.val = true) : exec (.tlbinvStart p w) s = .next (writeTlbinv s p.val w) := by
  refine congrArg Host.Outcome.next (if_pos ?_)
  simp [hf, h1, h4, hr]

theorem writeTlbinv_of_busy {p : Nat} (hb : s.flag .cfgTlbstat p 63 = true) :
    writeTlbinv s p w = s.setF .cfgTlbstat p 62 62 1 :=
  if_pos hb

theorem writeTlbinv_of_idle {p : Nat} (hf : w.part = .full) (h4 : wfld w 63 60 ≤ 4) (hb : s.flag .cfgTlbstat p 63 = false)
    (hs1 : s1 = storeSetup s .cfgTlbinv p w) (hk : 1 ≤ s1.fld .cfgTlbinv p 63 60) :
    writeTlbinv s p w = { s1 with
      invs := Tbl.put s1.invs p ⟨s1.fld .cfgTlbinv p 63 60, s1.fld .cfgTlbinv p 59 48, s1.fld .cfgTlbinv p 46 14⟩
      }.setF .cfgTlbstat p 63 63 1 := by
  subst hs1
  simp only [writeTlbinv, hb, hf, hk, Nat.not_lt.mpr h4, Bool.false_eq_true, if_false, beq_self_eq_true, decide_true,
    Bool.and_self, if_true]

theorem exec_tlbinvComplete {p : Fin 97} {v : Inval} (hv : Tbl.get? s.invs p.val = some v)
    (hs1 : s1 = ({ invalidate (drainAll s) v with invs := Tbl.del (invalidate (drainAll s) v).invs p.val }).setF
      .cfgTlbstat p.val 63 63 0) :
    exec (.tlbinvComplete p) s = .next (s1.setR .cfgTlbstat p.val (wrapInc (s1.reg .cfgTlbstat p.val) 31 0 1)) := by
  subst hs1
  change execTlbinvComplete p s = _
  rw [execTlbinvComplete, hv]

/-! ### Requests that meet no check of their data -/

@[simp] theorem checksAt_nil (s : State) (place : CheckPlace) (src pa n : Nat) (p : Nat → Bool) :
    checksAt s place src pa n p [] = s := rfl

@[simp] theorem mergeChecks_nil (s : State) (pa n : Nat) : mergeChecks s pa n [] = s := rfl

@[simp] theorem arrivalChecks_nil (s : State) (pa n : Nat) : arrivalChecks s pa n [] = s := rfl

@[simp] theorem receiptChecks_nil (s : State) (m : Master) (pa n : Nat) : receiptChecks s m pa n [] = (s, false) := rfl

/-! ### Reads (R40, R79, R81, R306) -/

/-- A read of memory, with a slot free and nothing waiting (R23, R24). -/
theorem exec_memoryRead (f : List CairnCheck) (hq : s.queued = []) (hpa : pa < physTop) (hi : freeSlot s m = some i)
    (hrow : rowBusy s pa n = false) (hmem : isMemory pa = true) :
    exec (.memoryRequestArrival (.read m pa n) f) s = .next (readArrives s m i pa n f) := by
  rw [exec_memoryRequestArrival_of_nil (r := .read m pa n) f hq hpa,
    arrive_of_goes f (requestWaits_read_eq_false hi hrow), performRequest, hi, hmem]
  rfl

theorem readArrives_held (hacc : spanAccessible s pa n = true) (hl : missingLines s pa n = [])
    (hs1 : s1 = consumeSpan (cacheTouch s (classOfMaster m pa) pa n false) pa n) :
    readArrives s m i pa n [] = addFlight s1 ⟨m, i, pa, n, false, readBytes s1 pa n, spanPoisoned s1 pa n⟩ := by
  subst hs1
  simp [readArrives, hacc, hl]

theorem readArrives_missing {l : Nat} {ls : List Nat} (f : List CairnCheck) (hacc : spanAccessible s pa n = true)
    (hl : missingLines s pa n = l :: ls) :
    readArrives s m i pa n f
      = addFlight ((l :: ls).foldl (fun x y => askChannel x (classOfMaster m pa) y) s) ⟨m, i, pa, n, true, [], false⟩ := by
  simp [readArrives, hacc, hl]

theorem readArrives_refused (f : List CairnCheck) (hacc : spanAccessible s pa n = false) :
    readArrives s m i pa n f = addFlight s ⟨m, i, pa, n, false, [], true⟩ := by
  simp [readArrives, hacc]

/-! ### Writes and buffered stores (R306, R307) -/

theorem requestWaits_write_eq_false {bs : List Byte} (hi : freeSlot s m = some i) (hrow : rowBusy s pa bs.length = false)
    (hst : spanState s pa bs.length ≠ .stalled) : requestWaits s (.write m pa bs) = false := by
  simp [requestWaits, hasSlot, hi, hrow, hst]

theorem writeArrives_performed {bs : List Byte} {e : Bool} (hacc : spanAccessible s pa bs.length = true)
    (hw : performWrite (logSpan s pa bs.length) (classOfMaster m pa) none pa bs = (s1, e)) :
    writeArrives s m i pa bs [] = addFlight s1 ⟨m, i, pa, bs.length, false, [], e⟩ := by
  simp [writeArrives, hacc, hw]

theorem exec_memoryWrite {bs : List Byte} {e : Bool} (hq : s.queued = []) (hpa : pa < physTop)
    (hi : freeSlot s m = some i) (hrow : rowBusy s pa bs.length = false) (hmem : isMemory pa = true)
    (hst : spanState s pa bs.length ≠ .stalled) (hacc : spanAccessible s pa bs.length = true)
    (hw : performWrite (logSpan s pa bs.length) (classOfMaster m pa) none pa bs = (s1, e)) :
    exec (.memoryRequestArrival (.write m pa bs) []) s = .next (addFlight s1 ⟨m, i, pa, bs.length, false, [], e⟩) := by
  rw [exec_memoryRequestArrival_of_nil (r := .write m pa bs) [] hq hpa,
    arrive_of_goes [] (requestWaits_write_eq_false hi hrow hst), performRequest, hi, hmem, ← writeArrives_performed hacc hw]
  rfl

theorem storeArrives_performed {d : CoreId} {e : StoreEntry} (he : (s.core d).sbuf[i]? = some e)
    (hfirst : ((s.core d).sbuf.take i).any (fun x => sameGranule x.pa x.bytes.length e.pa e.bytes.length) = false)
    (hw : writeWaits s d e.pa e.bytes.length = false) :
    storeArrives s d i []
      = mirror (performStore (s.modCore d (fun k => { k with sbuf := dropAt k.sbuf i })) d e) d := by
  simp [storeArrives, he, hfirst, hw]

/-- A core's store takes no slot and waits for none at its arrival. -/
theorem exec_memoryStore {c d : CoreId} (hq : s.queued = []) (hd : sourceCore s c = some d) :
    exec (.memoryRequestArrival (.store c i) []) s = .next (storeArrives s d i []) := by
  rw [exec_memoryRequestArrival_of_nil (r := .store c i) [] hq (show 0 < physTop by decide),
    arrive_of_goes [] rfl, performRequest, hd]

/-- Settles O37: an invalidation by what CFG_TLBSTAT says of the pair and at its end; a request by the state of its span,
once nothing waits before it; a response frees its slot by the definition of its command. -/
theorem translationAndMemoryRequestsComplete : Obligations.TranslationAndMemoryRequestsComplete := by
  refine ⟨⟨?starts, ?dropped, ?completes⟩, ?held, ?missing, ?refused, ?write, ?store, ?response⟩
  case starts =>
    rintro s p w s1 _ hf h1 h4 hr hb hs1 hk rfl
    rw [exec_tlbinvStart_of_reach hf h1 h4 hr, writeTlbinv_of_idle hf h4 hb hs1 hk]
  case dropped =>
    intro s p w hf h1 h4 hr hb
    rw [exec_tlbinvStart_of_reach hf h1 h4 hr, writeTlbinv_of_busy hb]
  case completes => exact fun s p v s1 => exec_tlbinvComplete
  case held =>
    intro s m pa n i s1 hq hpa hi hrow hmem hacc hl hs1
    rw [exec_memoryRead [] hq hpa hi hrow hmem, readArrives_held hacc hl hs1]
  case missing =>
    intro s m pa n i l ls hq hpa hi hrow hmem hacc hl
    rw [exec_memoryRead [] hq hpa hi hrow hmem, readArrives_missing [] hacc hl]
  case refused =>
    intro s m pa n i f hq hpa hi hrow hmem hacc
    rw [exec_memoryRead f hq hpa hi hrow hmem, readArrives_refused f hacc]
  case write =>
    intro s m pa bs i s1 e hq hpa hi hrow hmem hst hacc hw
    exact exec_memoryWrite hq hpa hi hrow hmem hst hacc hw
  case store =>
    intro s c d i e hq hd he hfirst hw
    rw [exec_memoryStore hq hd, storeArrives_performed he hfirst hw]
  case response => exact fun s m slot => rfl

end Sys2Proof.Machine

/-! PROOFS of the translation family (spec/10_translation.md), second part: a load or a fetch changes only caches, TLBs and
the bit A of the leaf that its address walks to. -/

namespace Sys2Proof.Machine

open Sys2Proof

variable {s t u : State} {c d : CoreId} {va pa n : Nat} {w : Word}

/-! ### Cores that differ in their caches alone (R280, R296) -/

namespace Core

/-- The core k with the L1 caches and the header buffer of j. -/
def withLines (k j : Core) : Core := { k with l1d := j.l1d, l1i := j.l1i, headers := j.headers, l1bad := j.l1bad }

/-- The core k with the L1 caches, the header buffer and the TLBs of j. -/
def withCaches (k j : Core) : Core := { k.withLines j with dtlb := j.dtlb, itlb := j.itlb }

/-- j is k but for its L1 caches and its header buffer. -/
def LinesOnly (k j : Core) : Prop := j = k.withLines j

/-- j is k but for its L1 caches, its header buffer and its TLBs. -/
def CachesOnly (k j : Core) : Prop := j = k.withCaches j

variable {k j i : Core}

theorem LinesOnly.refl (k : Core) : LinesOnly k k := rfl

theorem CachesOnly.refl (k : Core) : CachesOnly k k := rfl

theorem LinesOnly.trans (h1 : LinesOnly k j) (h2 : LinesOnly j i) : LinesOnly k i :=
  calc
    i = j.withLines i := h2
    _ = (k.withLines j).withLines i := congrArg (withLines · i) h1

theorem CachesOnly.trans (h1 : CachesOnly k j) (h2 : CachesOnly j i) : CachesOnly k i :=
  calc
    i = j.withCaches i := h2
    _ = (k.withCaches j).withCaches i := congrArg (withCaches · i) h1

theorem LinesOnly.caches (h : LinesOnly k j) : CachesOnly k j :=
  calc
    j = j.withCaches j := rfl
    _ = (k.withLines j).withCaches j := congrArg (withCaches · j) h

theorem LinesOnly.update (h : LinesOnly k j) (d i b : List Nat) (hs : List (Nat × Nat)) :
    LinesOnly k { j with l1d := d, l1i := i, l1bad := b, headers := hs } :=
  h.trans rfl

theorem linesOnly_dropData (k : Core) (v : Option Nat) : LinesOnly k (dropData k v) := rfl

end Core

/-! ### States that differ in caches and memory alone -/

/-- From s to t, registers, setup registers, units and the queue stay, and so do the TLBs of every core but c. -/
structure CachesOnly (c : CoreId) (s t : State) : Prop where
  setup : t.setup = s.setup
  units : t.units = s.units
  pending : t.pending = s.pending
  own : Core.CachesOnly (s.core c) (t.core c)
  other : ∀ d, d ≠ c → Core.LinesOnly (s.core d) (t.core d)

/-- The same, and memory stays. -/
structure Quiet (c : CoreId) (s t : State) : Prop extends CachesOnly c s t where
  mem : t.mem = s.mem

theorem CachesOnly.trans (h1 : CachesOnly c s t) (h2 : CachesOnly c t u) : CachesOnly c s u where
  setup := h2.setup.trans h1.setup
  units := h2.units.trans h1.units
  pending := h2.pending.trans h1.pending
  own := h1.own.trans h2.own
  other d hd := (h1.other d hd).trans (h2.other d hd)

/-- What the frame of a read says of each core. -/
theorem CachesOnly.core (h : CachesOnly c s t) (d : CoreId) :
    ∃ x y z w u v, t.core d = { s.core d with l1d := x, l1i := y, headers := z, l1bad := w, dtlb := u, itlb := v }
      ∧ (d ≠ c → u = (s.core d).dtlb ∧ v = (s.core d).itlb) := by
  by_cases hd : d = c
  · subst hd
    exact ⟨_, _, _, _, _, _, h.own, fun hne => absurd rfl hne⟩
  · exact ⟨_, _, _, _, _, _, h.other d hd, fun _ => ⟨rfl, rfl⟩⟩

theorem CachesOnly.of_cores_eq (hsetup : t.setup = s.setup) (hunits : t.units = s.units)
    (hpending : t.pending = s.pending) (hcores : t.cores = s.cores) : CachesOnly c s t := by
  have hcore (d : CoreId) : t.core d = s.core d := by rw [State.core, hcores]; rfl
  refine ⟨hsetup, hunits, hpending, ?_, fun d _ => ?_⟩
  · rw [hcore]; exact .refl _
  · rw [hcore]; exact .refl _

namespace Quiet

theorem of_cores_eq (hsetup : t.setup = s.setup) (hunits : t.units = s.units) (hpending : t.pending = s.pending)
    (hcores : t.cores = s.cores) (hmem : t.mem = s.mem) : Quiet c s t :=
  ⟨.of_cores_eq hsetup hunits hpending hcores, hmem⟩

theorem refl (c : CoreId) (s : State) : Quiet c s s := of_cores_eq rfl rfl rfl rfl rfl

theorem trans (h1 : Quiet c s t) (h2 : Quiet c t u) : Quiet c s u :=
  ⟨h1.toCachesOnly.trans h2.toCachesOnly, h2.mem.trans h1.mem⟩

/-- Steps in turn over a list. -/
theorem foldl {α : Type} {f : State → α → State} (hf : ∀ x a, Quiet c x (f x a)) (l : List α) (s : State) :
    Quiet c s (l.foldl f s) := by
  induction l generalizing s with
  | nil => exact refl c s
  | cons a l ih => exact (hf s a).trans (ih (f s a))

theorem readByte (h : Quiet c s t) (a : Nat) : readByte t a = readByte s a := by
  rw [Machine.readByte, h.mem]; rfl

theorem readWord (h : Quiet c s t) (a : Nat) : readWord t a = readWord s a := by
  refine congrArg wordOfBytes (List.ext_getElem (by simp) fun i _ _ => ?_)
  rw [getElem_readBytes, getElem_readBytes, h.readByte]

end Quiet

/-! ### L1 caches and directories (R296 to R298) -/

theorem Tbl.get?_map {α : Type} (l : Tbl α) (f : Nat × α → α) (j : Nat) :
    Tbl.get? (l.map fun x => (x.1, f x)) j = (Tbl.get? l j).map fun v => f (j, v) := by
  induction l with
  | nil => rfl
  | cons e l ih =>
    obtain ⟨i, v⟩ := e
    simp only [List.map_cons, Tbl.get?, ih]
    split
    · next h => subst h; rfl
    · rfl

/-- Every listed core changed in its lines alone. -/
theorem Quiet.of_cores_map {f : Nat × Core → Core} (hf : ∀ x, Core.LinesOnly x.2 (f x)) (hsetup : t.setup = s.setup)
    (hunits : t.units = s.units) (hpending : t.pending = s.pending) (hmem : t.mem = s.mem)
    (hcores : t.cores = s.cores.map fun x => (x.1, f x)) : Quiet c s t := by
  have hcore (d : CoreId) : Core.LinesOnly (s.core d) (t.core d) := by
    rw [State.core, State.core, Tbl.getD, Tbl.getD, hcores, Tbl.get?_map]
    cases Tbl.get? s.cores d.val with
    | none => exact .refl _
    | some k => exact hf (d.val, k)
  exact ⟨⟨hsetup, hunits, hpending, (hcore c).caches, fun d _ => hcore d⟩, hmem⟩

theorem Quiet.modCore {f : Core → Core} (hf : ∀ k, Core.CachesOnly k (f k)) : Quiet c s (s.modCore c f) := by
  refine ⟨⟨rfl, rfl, rfl, ?_, fun d hd => ?_⟩, rfl⟩
  · rw [State.core_modCore, if_pos rfl]; exact hf _
  · rw [State.core_modCore, if_neg hd]; exact .refl _

theorem quiet_removeLine (c : CoreId) (s : State) (writer : Option CoreId) (line : Nat) :
    Quiet c s (removeLine s writer line) := by
  refine .of_cores_map (fun x => .update ?_ _ _ _ _) rfl rfl rfl rfl rfl
  exact iteInduction (fun _ => .refl x.2) fun _ => Core.linesOnly_dropData x.2 (some line)

theorem quiet_removeLines (c : CoreId) (s : State) (writer : Option CoreId) (pa n : Nat) :
    Quiet c s (removeLines s writer pa n) :=
  .foldl (fun x _ => quiet_removeLine c x writer _) _ s

theorem quiet_enterDirectory (c : CoreId) (s : State) (line : Nat) : Quiet c s (enterDirectory s line) :=
  .of_cores_map (fun x => (Core.linesOnly_dropData x.2 _).update _ _ _ _) rfl rfl rfl rfl rfl

theorem quiet_touchL1 (s : State) (c : CoreId) (fetch : Bool) (line : Nat) : Quiet c s (touchL1 s c fetch line) := by
  unfold touchL1
  refine (quiet_enterDirectory c s line).trans (.modCore fun k => ?_)
  cases fetch <;> rfl

theorem quiet_touchLines (s : State) (c : CoreId) (fetch : Bool) (pa n : Nat) : Quiet c s (touchLines s c fetch pa n) :=
  .foldl (fun x _ => quiet_touchL1 x c fetch _) _ s

theorem quiet_endFlight (s : State) (c : CoreId) (pa n : Nat) : Quiet c s (endFlight s c pa n) :=
  .of_cores_eq rfl rfl rfl rfl rfl

/-! ### Deep caches (R299 to R302) -/

/-- A request to a line changes the deep cache of its channel alone. -/
theorem exists_deepTouch_eq_setDeep (s : State) (q cls line : Nat) (wr : Bool) :
    ∃ d, deepTouch s q cls line wr = s.setDeep q d := by
  unfold deepTouch
  dsimp only
  split
  · exact ⟨_, rfl⟩
  · split <;> exact ⟨_, rfl⟩

theorem quiet_cacheTouch (c : CoreId) (s : State) (cls pa n : Nat) (wr : Bool) : Quiet c s (cacheTouch s cls pa n wr) := by
  unfold cacheTouch
  split
  · refine .foldl (fun x i => ?_) _ s
    obtain ⟨d, hd⟩ := exists_deepTouch_eq_setDeep x _ cls (pa / 64 + i) wr
    rw [hd]
    exact .of_cores_eq rfl rfl rfl rfl rfl
  · exact .refl c s

theorem quiet_touchWalk (c : CoreId) (s : State) (cls : Nat → Nat) (space va : Nat) :
    Quiet c s (touchWalk s cls space va) :=
  .foldl (fun x pa => quiet_cacheTouch c x (cls pa) pa 8 false) _ s

/-! ### TLBs (R280 to R283) -/

theorem quiet_fillL1 (s : State) (c : CoreId) (fetch : Bool) (e : TlbEntry) : Quiet c s (fillL1 s c fetch e) := by
  unfold fillL1
  refine .modCore fun k => ?_
  cases fetch <;> rfl

theorem quiet_installCore (s : State) (c : CoreId) (fetch : Bool) (e : TlbEntry) :
    Quiet c s (installCore s c fetch e) :=
  (quiet_fillL1 s c fetch e).trans (.of_cores_eq rfl rfl rfl rfl rfl)

theorem quiet_tlbLookup {fetch : Bool} {space : Nat} {e : TlbEntry} (h : tlbLookup s c fetch space va = some (e, t)) :
    Quiet c s t := by
  unfold tlbLookup at h
  dsimp only at h
  split at h
  · cases h; exact .refl c s
  · split at h
    · cases h
      refine .trans ?_ (quiet_fillL1 _ c fetch _)
      exact .of_cores_eq rfl rfl rfl rfl rfl
    · cases h

/-! ### The write of a leaf (R278) -/

theorem exists_writeBytes_eq (s : State) (a : Nat) (bs : List Byte) : ∃ m, writeBytes s a bs = { s with mem := m } := by
  induction bs generalizing s a with
  | nil => exact ⟨s.mem, rfl⟩
  | cons b bs ih =>
    obtain ⟨m, hm⟩ := ih (writeByte s a b) (a + 1)
    exact ⟨m, hm⟩

theorem exists_writeGranule_eq (s : State) (a : Nat) (bs : List Byte) :
    ∃ m p, (writeGranule s a bs).1 = { s with mem := m, poison := p } := by
  obtain ⟨m, hm⟩ := exists_writeBytes_eq s a bs
  unfold writeGranule
  split
  · exact ⟨_, _, rfl⟩
  · split
    · split
      · exact ⟨m, _, by rw [hm]; rfl⟩
      · exact ⟨_, _, rfl⟩
    · exact ⟨m, s.poison, hm⟩

/-- A write at a block changes bytes and poison alone. -/
theorem exists_writeSpanF_eq (f : Nat) (s : State) (a : Nat) (bs : List Byte) :
    ∃ m p, (writeSpanF f s a bs).1 = { s with mem := m, poison := p } := by
  induction f generalizing s a bs with
  | zero => exact ⟨_, _, rfl⟩
  | succ f ih =>
    unfold writeSpanF
    split
    · exact ⟨_, _, rfl⟩
    · obtain ⟨m1, p1, h1⟩ := exists_writeGranule_eq s a (bs.take (16 - a % 16))
      obtain ⟨m2, p2, h2⟩ := ih (writeGranule s a (bs.take (16 - a % 16))).1 (a + (16 - a % 16)) (bs.drop (16 - a % 16))
      exact ⟨m2, p2, h2.trans (by rw [h1])⟩

/-- A write that ends in its first granule is the write of that granule. -/
theorem writeSpan_of_fits {a : Nat} {bs : List Byte} (hne : bs ≠ []) (hfit : bs.length ≤ 16 - a % 16) :
    (writeSpan s a bs).1 = (writeGranule s a bs).1 := by
  obtain ⟨b, l, rfl⟩ := List.exists_cons_of_ne_nil hne
  simp only [writeSpan, writeSpanF, List.take_of_length_le hfit, List.drop_of_length_le hfit]
  rfl

/-- A granule takes a word whole or, poisoned, not at all (R80). -/
theorem readWord_writeGranule (s : State) (a : Nat) (w : Word) :
    readWord (writeGranule s a (bytesOfWord w)).1 a = w ∨ readWord (writeGranule s a (bytesOfWord w)).1 a = readWord s a := by
  have hw := readWord_writeWord_same s a w
  unfold writeGranule
  split
  · exact .inr rfl
  · split
    · split
      · exact .inl hw
      · exact .inr rfl
    · exact .inl hw

theorem readWord_writeSpan {a : Nat} (ha : a % 8 = 0) (s : State) (w : Word) :
    readWord (writeSpan s a (bytesOfWord w)).1 a = w ∨ readWord (writeSpan s a (bytesOfWord w)).1 a = readWord s a := by
  have hlen : (bytesOfWord w).length = 8 := length_bytesOfWord w
  rw [writeSpan_of_fits (List.ne_nil_of_length_pos (by omega)) (by omega)]
  exact readWord_writeGranule s a w

/-- The state in which `putWord` writes: the caches have seen the write, the bytes are as they were. -/
theorem exists_putWord_eq (c : CoreId) (s : State) (cls pa : Nat) (w : Word) :
    ∃ t, Quiet c s t ∧ putWord s cls pa w = (writeSpan t pa (bytesOfWord w)).1 :=
  ⟨_, (quiet_cacheTouch c s cls pa _ true).trans (quiet_removeLines c _ none pa _), rfl⟩

theorem cachesOnly_putWord (c : CoreId) (s : State) (cls pa : Nat) (w : Word) : CachesOnly c s (putWord s cls pa w) := by
  obtain ⟨t, ht, hput⟩ := exists_putWord_eq c s cls pa w
  obtain ⟨m, p, hm⟩ := exists_writeSpanF_eq _ t pa (bytesOfWord w)
  rw [hput, writeSpan, hm]
  exact ht.toCachesOnly.trans (.of_cores_eq rfl rfl rfl rfl)

theorem readByte_putWord_out (s : State) (cls : Nat) (w : Word) {x : Nat} (hx : x < pa ∨ pa + 8 ≤ x) :
    readByte (putWord s cls pa w) x = readByte s x := by
  obtain ⟨t, ht, hput⟩ := exists_putWord_eq 0 s cls pa w
  rw [hput, ← ht.readByte x]
  exact readByte_writeSpanF_out _ t pa _ x (by rwa [length_bytesOfWord])

theorem readWord_putWord (s : State) (cls : Nat) (w : Word) (ha : pa % 8 = 0) :
    readWord (putWord s cls pa w) pa = w ∨ readWord (putWord s cls pa w) pa = readWord s pa := by
  obtain ⟨t, ht, hput⟩ := exists_putWord_eq 0 s cls pa w
  rw [hput, ← ht.readWord pa]
  exact readWord_writeSpan ha t w

/-! ### The walk (R277) -/

/-- A check that stops a computation has passed when the computation gives a result. -/
theorem ite_error_eq_ok {ε α : Type} {p : Prop} [Decidable p] {e : ε} {r : Except ε α} {v : α} :
    (if p then .error e else r) = .ok v ↔ ¬ p ∧ r = .ok v := by
  by_cases hp : p <;> simp [hp]

/-- A walk ends at an aligned word of memory, which is the leaf. -/
theorem walkFrom_ok {waits : Bool} {acc left table : Nat} {leaf : Word} (htable : table % 8 = 0)
    (h : walkFrom s waits va acc left table = .ok (leaf, pa)) : readWord s pa = leaf ∧ pa % 8 = 0 := by
  induction left generalizing table with
  | zero => cases h
  | succ left ih =>
    have hentry : (table + 8 * walkIndex va (3 - left)) % 8 = 0 := by omega
    simp only [walkFrom, ite_error_eq_ok] at h
    obtain ⟨-, -, -, -, -, h⟩ := h
    split at h
    · obtain ⟨rfl, rfl⟩ := Prod.mk.inj (Except.ok.inj h)
      exact ⟨rfl, hentry⟩
    · exact ih (by omega) h

theorem walk_ok {space acc : Nat} {leaf : Word} (h : walk s space va acc = .ok (leaf, pa)) :
    readWord s pa = leaf ∧ pa % 8 = 0 :=
  walkFrom_ok (by omega) h

/-! ### A step of a read -/

/-- From s to t only caches change, and of memory at most the bit A of the leaf to which core c's walk of an address
leads. -/
structure ReadStep (c : CoreId) (va code : Nat) (s t : State) : Prop extends CachesOnly c s t where
  outside : ∀ x, (∀ leaf pa, walk s (s.core c).space va code = .ok (leaf, pa) → x < pa ∨ pa + 8 ≤ x) →
    readByte t x = readByte s x
  leaf : ∀ leaf pa, walk s (s.core c).space va code = .ok (leaf, pa) →
    readWord t pa = leaf ∨ readWord t pa = withBit leaf 3 true

variable {code : Nat} {acc : Acc} {byteAcc : Bool}

theorem Quiet.readStep (h : Quiet c s t) : ReadStep c va code s t where
  toCachesOnly := h.toCachesOnly
  outside x _ := h.readByte x
  leaf _ pa hwalk := .inl ((h.readWord pa).trans (walk_ok hwalk).1)

theorem ReadStep.quiet (h : ReadStep c va code s t) (hq : Quiet c t u) : ReadStep c va code s u where
  toCachesOnly := h.toCachesOnly.trans hq.toCachesOnly
  outside x hx := (hq.readByte x).trans (h.outside x hx)
  leaf leaf pa hwalk := by rw [hq.readWord]; exact h.leaf leaf pa hwalk

/-- The bit A is set in the leaf that was walked to. -/
theorem readStep_putWord {leaf : Word} (hwalk : walk s (s.core c).space va code = .ok (leaf, pa)) (hq : Quiet c s t)
    (cls : Nat) : ReadStep c va code s (putWord t cls pa (withBit leaf 3 true)) where
  toCachesOnly := hq.toCachesOnly.trans (cachesOnly_putWord c t cls pa _)
  outside x hx := (readByte_putWord_out t cls _ (hx leaf pa hwalk)).trans (hq.readByte x)
  leaf leaf' pa' hwalk' := by
    obtain ⟨rfl, rfl⟩ := Prod.mk.inj (Except.ok.inj (hwalk.symm.trans hwalk'))
    obtain ⟨hleaf, halign⟩ := walk_ok hwalk
    rcases readWord_putWord t cls (withBit leaf 3 true) halign with h | h
    · exact .inr h
    · exact .inl (h.trans ((hq.readWord pa).trans hleaf))

/-! ### Translation of a read (R276, R277) -/

theorem readStep_walkUpdate {e : TlbEntry} (hr : acc.writes = false)
    (h : walkUpdate s c (s.core c).space va acc byteAcc = .ok (e, t)) : ReadStep c va acc.code s t := by
  have htouch := quiet_touchWalk c s (coreClass c) (s.core c).space va
  unfold walkUpdate at h
  split at h
  · cases h
  next leaf pa hwalk =>
  split at h
  · cases h
  split at h
  · cases h
  cases h
  simp only [hr, Bool.false_and, Bool.or_false, Bool.false_eq_true, if_false]
  split
  · exact (readStep_putWord hwalk htouch _).quiet (quiet_installCore _ c _ _)
  · exact (htouch.trans (quiet_installCore _ c _ _)).readStep

theorem readStep_findEntry {e : TlbEntry} (hr : acc.writes = false)
    (h : findEntry s c (s.core c).space va acc byteAcc = .ok (e, t)) : ReadStep c va acc.code s t := by
  unfold findEntry at h
  split at h
  · exact readStep_walkUpdate hr h
  next e1 s1 hhit =>
  split at h
  · cases h
  simp only [hr, Bool.false_and, Bool.false_eq_true, if_false] at h
  cases h
  exact (quiet_tlbLookup hhit).readStep

theorem readStep_translateEntry {e : TlbEntry} (hr : acc.writes = false)
    (h : translateEntry s c (s.core c).space va acc byteAcc = .ok (e, t)) : ReadStep c va acc.code s t := by
  unfold translateEntry at h
  split at h
  · cases h
  next e1 s1 hfind =>
  dsimp only at h
  split at h
  · cases h
  simp only [hr, Bool.false_and, Bool.false_eq_true, if_false] at h
  cases h
  exact readStep_findEntry hr hfind

theorem readStep_translate (hr : acc.writes = false) (h : translate s c va acc byteAcc = .ok (pa, t)) :
    ReadStep c va acc.code s t := by
  simp only [translate, ite_error_eq_ok] at h
  obtain ⟨-, h⟩ := h
  split at h
  · -- an identity space has no walk
    simp only [ite_error_eq_ok] at h
    obtain ⟨-, -, -, h⟩ := h
    cases h
    exact (Quiet.refl c s).readStep
  · split at h
    · cases h
    next e s1 hentry =>
    cases h
    exact readStep_translateEntry hr hentry

theorem readStep_locate {place : Loc} (hr : acc.writes = false) (h : locate c va acc byteAcc s = .ok (place, t)) :
    ReadStep c va acc.code s t := by
  unfold locate at h
  split at h
  · cases h
    exact (Quiet.refl c s).readStep
  split at h
  next htranslate =>
    cases h
    exact readStep_translate hr htranslate
  · cases h

/-! ### Loads and fetches (R116, R296 to R298) -/

theorem readStep_loadPart {bs : List Byte} (hr : acc.writes = false)
    (h : loadPart c va n acc byteAcc s = .ok (bs, t)) : ReadStep c va acc.code s t := by
  obtain ⟨place, s1, hplace, h⟩ := M.exists_of_bind_ok h
  refine (readStep_locate hr hplace).quiet ?_
  cases place with
  | emerg o =>
    cases h
    exact .refl c _
  | mem pa =>
    dsimp only at h
    split at h
    · cases h
    cases h
    exact ((quiet_cacheTouch c s1 _ pa n false).trans (quiet_endFlight _ c pa n)).trans (quiet_touchLines _ c false pa n)

/-- A load of several pages is a load of each in turn. -/
theorem cachesOnly_loadBytesF {f : Nat} {bs : List Byte} (hr : acc.writes = false)
    (h : loadBytesF c acc byteAcc f va n s = .ok (bs, t)) : CachesOnly c s t := by
  induction f generalizing va n s bs with
  | zero =>
    cases h
    exact (Quiet.refl c _).toCachesOnly
  | succ f ih =>
    unfold loadBytesF at h
    split at h
    · exact (readStep_loadPart hr h).toCachesOnly
    · obtain ⟨x, s1, hx, h⟩ := M.exists_of_bind_ok h
      obtain ⟨y, s2, hy, h⟩ := M.exists_of_bind_ok h
      cases h
      exact (readStep_loadPart hr hx).toCachesOnly.trans (ih hy)

theorem readStep_loadBytes {bs : List Byte} (hr : acc.writes = false) (hpage : n ≤ 16384 - va % 16384)
    (h : loadBytes c va n acc byteAcc s = .ok (bs, t)) : ReadStep c va acc.code s t := by
  rw [loadBytes, loadBytesF, if_pos hpage] at h
  exact readStep_loadPart hr h

theorem readStep_fetchParcel (h : fetchParcel c va s = .ok ((), t)) : ReadStep c va Acc.fetch.code s t := by
  obtain ⟨place, s1, hplace, h⟩ := M.exists_of_bind_ok h
  refine (readStep_locate rfl hplace).quiet ?_
  cases place with
  | emerg o =>
    cases h
    exact .refl c _
  | mem pa =>
    simp only [ite_error_eq_ok] at h
    obtain ⟨-, -, -, -, h⟩ := h
    cases h
    exact ((quiet_cacheTouch c s1 _ pa 4 false).trans (quiet_endFlight _ c pa 4)).trans (quiet_touchL1 _ c true _)

/-- Settles O5: everything a read does but the write of the leaf leaves memory (`Quiet`), and that write sets the bit A of
the leaf that the walk found, or is refused (`readStep_putWord`). -/
theorem readsChangeOnlyCaches : Obligations.ReadsChangeOnlyCaches := by
  refine ⟨?load, ?page, ?fetch⟩
  case load =>
    intro s c va n acc byteAcc bs s1 hr h
    have hstep := cachesOnly_loadBytesF hr h
    exact ⟨hstep.setup, hstep.units, hstep.pending, hstep.core⟩
  case page =>
    intro s c va n acc byteAcc bs s1 hr hpage h
    have hstep := readStep_loadBytes hr hpage h
    exact ⟨hstep.outside, hstep.leaf⟩
  case fetch =>
    intro s c va s1 h
    have hstep := readStep_fetchParcel h
    exact ⟨hstep.setup, hstep.units, hstep.pending, hstep.core, hstep.outside, hstep.leaf⟩

end Sys2Proof.Machine

/-! PROOFS of the memory and caches family (spec/11_memory_caches.md): what each event of a channel does where its
precondition holds, the retirement of a channel, and the range operations of the deep caches. -/

namespace Sys2Proof.Machine

open Sys2Proof

variable {s s1 s2 : State} {q : QuadId} {w : SetupWrite} {line n : Nat} {e : Evicted} {es : List Evicted}

/-! ### The eviction buffer (R302, R314) -/

theorem issueEvicted_of_waiting {d : Deep} (he : d.evict = e :: es) (hi : e.issued = false) :
    issueEvicted d = { d with
      evict := { e with issued := true } :: es
      counters := Tbl.put d.counters e.line (Tbl.getD d.counters 0 e.line + 1) } := by
  rw [issueEvicted, he]
  simp only [hi, Bool.false_eq_true, if_false, countWriteBack]

theorem issueEvicted_of_issued {d : Deep} (he : d.evict = e :: es) (hi : e.issued = true) :
    issueEvicted d = { d with evict := es } := by
  rw [issueEvicted, he]
  exact if_pos hi

theorem exec_evictionWriteback (hon : s.online (uChan q.val) = true) (hr : (s.deepOf q.val).retraining = false) :
    exec (.evictionWriteback q) s = .next (serveQueued (s.setDeep q.val (issueEvicted (s.deepOf q.val)))) := by
  refine congrArg Host.Outcome.next (if_pos ?_)
  rw [hon, hr]
  rfl

/-! ### Reads of lines that the deep cache does not hold (R316, R317) -/

theorem readLine_zero : readLine 0 = ⟨none, true⟩ := by
  simp only [readLine, judge_zero, findingError, decide_true]

theorem deliverLine_clean (s : State) (q line pa : Nat) :
    deliverLine s q line pa ⟨none, true⟩
      = answerReads (cacheTouch s (readClass s q line) (line * 64) 64 false) q line false := rfl

/-- Data without an error pattern are delivered at the first read, those of a granule that the channel stores as
poisoned too. -/
theorem deepOutcome_data_zero (s : State) (q line : Nat) (g : Fin 4) (again : Codeword) :
    deepOutcome s q line (.data g 0 again)
      = answerReads (cacheTouch s (readClass s q line) (line * 64) 64 false) q line false := by
  simp only [deepOutcome, readLine_zero, ← deliverLine_clean s q line (line * 64 + 16 * g.val)]
  split
  · rfl
  · exact if_pos rfl

theorem exec_deepReadComplete (hl : mayReadLine s q.val line = true) (hr : (s.deepOf q.val).retraining = false)
    (o : DeepOutcome) : exec (.deepReadComplete q line o) s = .next (deepOutcome s q.val line o) := by
  refine congrArg Host.Outcome.next (if_pos ?_)
  rw [hl, hr]
  rfl

/-- What a time-out leaves of the reads: those of masters get an error response, and with none of them a core waits. -/
theorem exec_deepReadTimeout (hl : mayReadLine s q.val line = true) (hr : (s.deepOf q.val).retraining = false) :
    exec (.deepReadTimeout q line) s = .next (integrityEvent
      (if (s.deepOf q.val).reads.any (fun x => x.1 == line) then answerReads s q.val line true
        else s.setDeep q.val { s.deepOf q.val with timedOut := insertNat (s.deepOf q.val).timedOut line })
      q.val 4 0 (line * 64)) := by
  refine congrArg Host.Outcome.next (if_pos ?_)
  rw [hl, hr]
  rfl

/-! ### Retraining (R318) -/

theorem exec_retrainingStall (hon : s.online (uChan q.val) = true) :
    exec (.retrainingStall q) s = .next (s.setDeep q.val { s.deepOf q.val with retraining := true }) :=
  congrArg Host.Outcome.next (if_pos hon)

/-! ### Retirement (R320) -/

theorem writeDmcCtl_of_online {q : Nat} (ha : acts w 63 = true) (hon : s.online (uChan q) = true) :
    writeDmcCtl s q w = publishUnit (s.setF .dmcCtl q 2 0 1) (uChan q) stDraining 5 (16 + q) 5 := by
  refine if_pos ?_
  rw [ha, hon]
  rfl

theorem exec_retire_of_reach (ha : acts w 63 = true) (hr : mayReach s w.agent .dmcCtl q.val = true) :
    exec (.retire q w) s = .next (writeDmcCtl s q.val w) := by
  refine congrArg Host.Outcome.next (if_pos ?_)
  rw [ha, hr]
  rfl

theorem exec_channelRetireEnd (hd : s.unit (uChan q.val) = stDraining)
    (hf : s.flights.any (fun f => channelOfPa f.pa == some q.val) = false) :
    exec (.channelRetireEnd q) s = .next (publishUnit ((s.setDeep q.val Deep.empty).setF .dmcCtl q.val 2 0 2)
      (uChan q.val) stRetired 5 (16 + q.val) 5) := by
  refine congrArg Host.Outcome.next (if_pos ?_)
  rw [hd, hf]
  rfl

/-- Settles O39: each event by what its command does where the precondition holds; the oldest eviction by whether it has
been issued, a time-out by whether a master reads the line. -/
theorem deepMemoryEventsComplete : Obligations.DeepMemoryEventsComplete := by
  refine ⟨⟨?issues, ?frees, ?data, ?timeoutRead, ?timeoutUnread, ?stall, ?stallEnds⟩, ?retire, ?retired⟩
  case issues =>
    intro s q e es hon hr he hi
    rw [exec_evictionWriteback hon hr, issueEvicted_of_waiting he hi]
  case frees =>
    intro s q e es hon hr he hi
    rw [exec_evictionWriteback hon hr, issueEvicted_of_issued he hi]
  case data =>
    intro s q line g again hl hr
    rw [exec_deepReadComplete hl hr, deepOutcome_data_zero]
  case timeoutRead =>
    intro s q line hl hr hread
    rw [exec_deepReadTimeout hl hr, if_pos hread]
  case timeoutUnread =>
    intro s q line hl hr hread
    rw [exec_deepReadTimeout hl hr, hread, if_neg Bool.false_ne_true]
  case stall => exact fun s q => exec_retrainingStall
  case stallEnds => exact fun s q => rfl
  case retire =>
    intro s q w ha hr hon
    rw [exec_retire_of_reach ha hr, writeDmcCtl_of_online ha hon]
  case retired => exact fun s q => exec_channelRetireEnd

/-! ### Range operations (R303 to R305) -/

/-- The commands that a GO of DMC_ROPq starts, each with its OP (R303). -/
def rangeCommands : List ((QuadId → SetupWrite → Instr) × Nat) :=
  [(.clean, 1), (.cleanInv, 2), (.inv, 3), (.prefetch, 4), (.prefetchLock, 5), (.unlock, 6)]

theorem exec_rangeCommand {k : QuadId → SetupWrite → Instr} (hk : (k, n) ∈ rangeCommands) (q : QuadId) (w : SetupWrite)
    (s : State) : exec (k q w) s = startRangeOp n q w s := by
  simp only [rangeCommands, List.mem_cons, Prod.mk.injEq, List.not_mem_nil, or_false] at hk
  rcases hk with ⟨rfl, rfl⟩ | ⟨rfl, rfl⟩ | ⟨rfl, rfl⟩ | ⟨rfl, rfl⟩ | ⟨rfl, rfl⟩ | ⟨rfl, rfl⟩ <;> rfl

/-- No command starts a reserved OP, 7 or above. -/
theorem op_le_of_mem_rangeCommands {k : QuadId → SetupWrite → Instr} (hk : (k, n) ∈ rangeCommands) : n ≤ 6 := by
  have hall : ∀ x ∈ rangeCommands.map Prod.snd, x ≤ 6 := by decide
  exact hall n (List.mem_map_of_mem hk)

theorem startRangeOp_of_reach (ha : acts w 63 = true) (ho : wfld w 59 56 = n)
    (hr : mayReach s w.agent .dmcRop q.val = true) : startRangeOp n q w s = .next (writeRop s q.val w) := by
  refine congrArg Host.Outcome.next (if_pos ?_)
  rw [ha, ho, hr, beq_self_eq_true]
  rfl

theorem writeRop_of_busy {q : Nat} (ha : acts w 63 = true) (hb : s.flag .dmcRstat q 63 = true) :
    writeRop s q w = s.setF .dmcRstat q 62 62 1 := by
  refine if_pos ?_
  rw [ha, hb]
  rfl

theorem writeRop_of_idle {q : Nat} {o : RangeOp} (ha : acts w 63 = true) (hb : s.flag .dmcRstat q 63 = false)
    (hs1 : s1 = storeSetup s .dmcRop q w) (hop : s1.fld .dmcRop q 59 56 = n) (hn : n ≤ 6)
    (ho : o = ⟨n, s1.fld .dmcRop q 50 48, s1.fld .dmcRbase q 43 6, s1.fld .dmcRop q 31 0⟩) :
    writeRop s q w = (s1.setDeep q { s1.deepOf q with op := some o }).setF .dmcRstat q 63 63 1 := by
  subst hs1 ho
  simp only [writeRop, ha, hb, hop, Nat.not_lt.mpr hn, Bool.and_false, Bool.not_true, Bool.false_eq_true, if_false]

theorem exec_rangeOperationEnd {r : RangeOp} {v : Visit} (hop : (s.deepOf q.val).op = some r)
    (hn : n = linesInside s q.val r)
    (hv : v = (visited s q.val n r).foldl (visit q.val r.op r.cls) ⟨s, 0, 0⟩)
    (hs1 : s1 = v.s.setDeep q.val { v.s.deepOf q.val with op := none })
    (hs2 : s2 = (s1.setF .dmcRstat q.val 63 63 0).setF .dmcRstat q.val 61 56
      (if r.op ≠ 0 ∧ n < r.lines then 2 else 1)) :
    exec (.rangeOperationEnd q) s = .next (pulse ((s2.setF .dmcRstat q.val 41 21 (min v.b (2 ^ 21 - 1))).setF
      .dmcRstat q.val 20 0 (min v.a (2 ^ 21 - 1))) (200 + q.val)) := by
  subst hn hv hs1 hs2
  change execRangeOperationEnd q s = _
  simp only [execRangeOperationEnd, hop, Bool.and_eq_true, bne_iff_ne, decide_eq_true_eq]

/-- Settles O40: each of the six commands is a write of DMC_ROPq with its own OP, which an idle channel latches and a busy
one drops; the end is that of the operation latched. -/
theorem rangeOperationsComplete : Obligations.RangeOperationsComplete := by
  refine ⟨?starts, ?dropped, ?ends⟩
  case starts =>
    intro k n hk s q w s1 o ha hn hr hb hs1 hop ho
    rw [exec_rangeCommand hk, startRangeOp_of_reach ha hn hr,
      writeRop_of_idle ha hb hs1 hop (op_le_of_mem_rangeCommands hk) ho]
  case dropped =>
    intro k n hk s q w ha hn hr hb
    rw [exec_rangeCommand hk, startRangeOp_of_reach ha hn hr, writeRop_of_busy ha hb]
  case ends => exact fun s q r n v s1 s2 => exec_rangeOperationEnd

end Sys2Proof.Machine

/-! PROOFS of the Moraine family (spec/12_moraine.md): how a collector cycle begins, scans its roots, marks and selects,
and how evacuation, hints and allocations that wait complete. -/

namespace Sys2Proof.Machine

open Sys2Proof

variable {s s1 s2 s3 : State} {c d : CoreId} {k1 : Core} {t : TileId} {m : Master} {w : Word} {sw : SetupWrite}
  {ws : List Word} {tr : Trap} {r a b p op npc : Nat}

/-! ### Phases (R327) -/

/-- The three bits of the phase hold every phase. -/
theorem phase_setPhase (s : State) (h : p < 8) : phase (setPhase s p) = p :=
  (State.fld_setF_same s .morStat 0 61 p (by decide)).trans (Nat.mod_eq_of_lt h)

theorem phase_startCycle (s : State) : phase (startCycle s) = 2 := phase_setPhase _ (by decide)

theorem mor_work_startCycle (s : State) : (startCycle s).mor.work = [] := rfl

theorem scanned_startCycle (s : State) (c : CoreId) : ((startCycle s).core c).scanned = false := by
  have hcores : (startCycle s).cores
      = (clearNew s (regionCount s)).cores.map fun (x : Nat × Core) => (x.1, { x.2 with scanned := false }) := rfl
  rw [State.core, Tbl.getD, hcores, Tbl.get?_map _ fun (x : Nat × Core) => { x.2 with scanned := false }]
  cases Tbl.get? (clearNew s (regionCount s)).cores c.val <;> rfl

/-- Only a write of MOR_STAT changes the phase; MOR_CTL is another register. -/
theorem phase_storeSetup_morCtl (s : State) (sw : SetupWrite) (allow : Word → Word → Word) :
    phase (storeSetup s .morCtl 0 sw allow) = phase s :=
  congrArg (bitsOf · 63 61) (State.reg_setR_ne s .morCtl .morStat 0 0 _ (by decide))

theorem morEnabled_setR_morStat (s : State) (v : Word) : morEnabled (s.setR .morStat 0 v) = morEnabled s :=
  congrArg (bitOf · 62) (State.reg_setR_ne s .morStat .morCtl 0 0 v (by decide))

/-! ### The start of a cycle and the root flip (R327, R331) -/

theorem exec_morStart_of_reach (ha : acts sw 63 = true) (hr : mayReach s sw.agent .morCtl 0 = true) :
    exec (.morStart sw) s = .next (writeMorCtl s sw) := by
  refine congrArg Host.Outcome.next (if_pos ?_)
  rw [ha, hr]
  rfl

theorem writeMorCtl_of_start (ha : acts sw 63 = true) (hp : phase s = 1)
    (h1 : s1 = storeSetup s .morCtl 0 sw (fun o n => keepField (bitsOf n 15 8 ≤ 100) 15 8 o n))
    (he : morEnabled s1 = true) : writeMorCtl s sw = startCycle s1 := by
  have hp1 : phase s1 = 1 := by rw [h1, phase_storeSetup_morCtl, hp]
  rw [writeMorCtl, ← h1]
  simp only [ha, hp1, he, Nat.reduceBEq, Bool.false_and, Bool.not_true, Bool.and_false, Bool.true_and,
    Bool.false_eq_true, if_false, if_true]

/-- A core that FLIP has still to scan, at a boundary: it runs or waits, and is in no patch drain. -/
structure ScanDue (s : State) (c : CoreId) (k : Core) : Prop where
  runs : k.mode ≠ .halted
  powered : k.mode ≠ .stopped
  atBoundary : k.mode ≠ .patching
  unscanned : (s.core (leadOf s c)).scanned = false

theorem exec_rootScan_of_due (hp : phase s = 2) (hd : sourceCore s c = some d) (hdue : ScanDue s c (s.core d))
    (hk1 : k1 = healRoots s (s.core d).landAll)
    (h1 : s1 = addWork { s.setCore d { k1 with wbuf := [] } with
      mor := { s.mor with tops := s.mor.tops ++ stackTops k1 } } (rootWords k1)) :
    exec (.rootScan c) s = .next (endFlip
      ((partners s c).foldl (fun x m => x.modCore m (fun k => { k with scanned := true })) (mirror s1 d))) := by
  obtain ⟨hh, hs, hb, hu⟩ := hdue
  subst hk1 h1
  change execRootScan c s = _
  simp only [execRootScan, hp, hd, hu, beq_eq_false_iff_ne.mpr hh, beq_eq_false_iff_ne.mpr hs,
    beq_eq_false_iff_ne.mpr hb, bne_self_eq_false, Bool.or_self, Bool.false_eq_true, if_false]
  rfl

/-! ### Marking, mark end and selection (R330, R336, R337, R347) -/

theorem exec_markTrace_cons (hp : phase s = 3) (hw : s.mor.work = w :: ws) :
    exec (.markTrace t) s = .next (traceWord t.val { s with mor := { s.mor with work := ws } } w) := by
  change execMarkTrace t s = _
  simp only [execMarkTrace, hp, hw, bne_self_eq_false, Bool.false_eq_true, if_false]

theorem exec_markTrace_nil (hp : phase s = 3) (hw : s.mor.work = []) (ho : (handOverAll s).mor.work = []) :
    exec (.markTrace t) s = .next (setPhase (handOverAll s) 4) := by
  change execMarkTrace t s = _
  simp only [execMarkTrace, hp, hw, ho, bne_self_eq_false, Bool.false_eq_true, if_false, List.isEmpty_nil, if_true]

theorem exec_markEnd (hp : phase s = 4) (h1 : s1 = finalise s) (h2 : s2 = s1.mor.weak.foldl clearWeak s1)
    (h3 : s3 = (List.range (regionCount s2)).foldl endRegion s2) :
    exec .markEnd s
      = .next (setPhase (countFree { s3 with mor := { s3.mor with weak := [], work := [] } }) 5) := by
  subst h1 h2 h3
  exact congrArg Host.Outcome.next (if_neg (by simp [hp]))

theorem exec_select (hp : phase s = 5)
    (h1 : s1 = { drainAll (s.mor.hints.foldl applyHint s) with
      mor := { (drainAll (s.mor.hints.foldl applyHint s)).mor with hints := [] } }) :
    exec .select s = .next (setPhase (countFree (chooseRegions
      (((List.range (regionCount s1)).filter (selectable s1)).foldl (fun l r => insertRegion s1 r l) []) s1 0)) 6) := by
  subst h1
  exact congrArg Host.Outcome.next (if_neg (by simp [hp]))

/-- Settles O41: a START leaves IDLE with the phase that the write of MOR_CTL cannot touch, and each later command meets
the phase it belongs to; the phase field has room for the phase that each sets. -/
theorem collectionAdvances : Obligations.CollectionAdvances := by
  refine ⟨⟨?start, ?begun, ?scan⟩, ?trace, ?marked, ?markEnd, ?select, fun s p => phase_setPhase s⟩
  case start =>
    intro s sw s1 ha hr hp h1 he
    rw [exec_morStart_of_reach ha hr, writeMorCtl_of_start ha hp h1 he]
  case begun => exact fun s => ⟨phase_startCycle s, mor_work_startCycle s, scanned_startCycle s⟩
  case scan =>
    rintro s c d k k1 s1 hp hd rfl hh hs hb hu hk1 h1
    exact exec_rootScan_of_due hp hd ⟨hh, hs, hb, hu⟩ hk1 h1
  case trace => exact fun s t w ws => exec_markTrace_cons
  case marked => exact fun s t => exec_markTrace_nil
  case markEnd => exact fun s s1 s2 s3 => exec_markEnd
  case select => exact fun s s1 => exec_select

/-! ### Evacuation (R338 to R340, R344) -/

/-- The first evacuating region that a tile owns: the one that its engine works on. -/
def evacuating (s : State) (t : TileId) : Option Nat :=
  (List.range (regionCount s)).find? fun r => bstateOf s r == 1 && ownerOf s r == t.val

theorem exec_evacuateCopy_of_moved (hp : phase s = 6) (hr : evacuating s t = some r) (ha : nextUnmoved s r = some a)
    (hm : moveObject s a none = some (b, s1)) : exec (.evacuateCopy t) s = .next s1 := by
  rw [evacuating] at hr
  change execEvacuateCopy t s = _
  simp only [execEvacuateCopy, hp, hr, ha, hm, bne_self_eq_false, Bool.false_eq_true, if_false]

theorem exec_evacuateCopy_of_none_left (hp : phase s = 6) (hr : evacuating s t = some r)
    (ha : nextUnmoved s r = none) : exec (.evacuateCopy t) s = .next (setBstate s r 2) := by
  rw [evacuating] at hr
  change execEvacuateCopy t s = _
  simp only [execEvacuateCopy, hp, hr, ha, bne_self_eq_false, Bool.false_eq_true, if_false]

theorem exec_cycleEnd (hp : phase s = 6) (hall : ∀ r, r < regionCount s → bstateOf s r ≠ 1) :
    exec .cycleEnd s = .next (triggerCycle (pulse (setPhase (s.setR .morStat 0 (wrapInc (s.reg .morStat) 31 0 1))
      (if morEnabled s then 1 else 0)) (tileSource 0 10))) := by
  have hnone : (List.range (regionCount s)).all (fun r => bstateOf s r != 1) = true :=
    List.all_eq_true.mpr fun r hr => bne_iff_ne.mpr (hall r (List.mem_range.mp hr))
  change execCycleEnd s = _
  simp only [execCycleEnd, hp, hnone, beq_self_eq_true, Bool.and_self, if_true, morEnabled_setR_morStat]

theorem exec_moveRequest (hw : isPointerTag (tagOf w) = true) (hr : regionOf s (valOf w) = some r)
    (hb : bstateOf s r = 1) (hm : movedWord s w = none) (hsize : (sizeAt s (valOf w)).getD 0 ≤ 4096)
    (ho : moveObject s (valOf w) (tileOfMaster m) = some (a, s1)) :
    exec (.moveRequest m w) s
      = .next (s1.setR .morCnta (ownerOf s r) (wrapInc (s1.reg .morCnta (ownerOf s r)) 31 0 1)) := by
  change execMoveRequest m w s = _
  simp only [execMoveRequest, hw, hr, hb, hm, ho, Nat.not_lt.mpr hsize, bne_self_eq_false, Option.isSome_none,
    Bool.not_true, Bool.or_self, Bool.false_eq_true, decide_false, if_false]

/-- The run at an address drains to the tile of a page: R344 lets that page take the place of the one there. -/
def drainsTo (s : State) (base page : Nat) : Prop :=
  ∃ r, regionOf s base = some r ∧ (descKind (desc s (runHead s r)) = 3 ∨ descKind (desc s (runHead s r)) = 5)
    ∧ bitsOf (desc s (runHead s r)) 46 46 = 1
    ∧ tileOfPa (16384 * page) = some (bitsOf (desc s (runHead s r)) 43 40)

/-- The new page is the one that the command names (log 32: R344 names none). -/
theorem exec_pageRemap {va page base pa : Nat} {l : Word} (hbase : base = va / 16384 * 16384)
    (hdrain : drainsTo s base page) (hl : masterWalk s (heapSpace s) base 2 = .ok (l, pa)) (hp : phase s = 6)
    (hacc : accessible s (16384 * page) = true) (hpin : bitOf l 2 = false) (hepoch : leafEpoch l = globalEpoch s)
    (hid : spaceIdmap s (heapSpace s) = false) :
    exec (.pageRemap va page) s = .next (putWord (copyPage (invalidate (drainAll s) ⟨4, 0, base / 16384⟩) 2
      (16384 * leafPpn l) (16384 * page)) 2 pa (withBits l 39 10 page)) := by
  obtain ⟨r, hr, hkind, hevac, htile⟩ := hdrain
  have hfits : (descKind (desc s (runHead s r)) == 3 || descKind (desc s (runHead s r)) == 5) = true := by
    simpa using hkind
  subst hbase
  change execPageRemap va page s = _
  simp only [execPageRemap, hr, hl, hp, hfits, hevac, htile, hacc, hpin, hepoch, hid, beq_self_eq_true, Bool.and_self,
    Bool.not_false, if_true]

/-! ### Hints (R346) -/

theorem exec_morHintGo_of_reach (ha : acts sw 63 = true) (hr : mayReach s sw.agent .morHint 0 = true) :
    exec (.morHintGo sw) s = .next (writeMorHint s sw) := by
  refine congrArg Host.Outcome.next (if_pos ?_)
  rw [ha, hr]
  rfl

/-- What a GO of MOR_HINT does with the registers as the write leaves them. -/
def giveHint (s : State) (r op dest : Nat) : State :=
  if op = 0 then s
  else if op = 1 then descField s r 44 44 1
  else if op = 2 then descField s r 44 44 0
  else { s with mor := { s.mor with hints := s.mor.hints ++ [(r, op, dest)] } }

theorem writeMorHint_of_inside (ha : acts sw 63 = true)
    (h1 : s1 = storeSetup s .morHint 0 sw (fun o n => keepField (bitsOf n 58 56 ≤ 5) 58 56 o n))
    (hr : s1.fld .morHint 0 19 0 < regionCount s1) :
    writeMorHint s sw
      = giveHint s1 (s1.fld .morHint 0 19 0) (s1.fld .morHint 0 58 56) (s1.fld .morHint 0 55 52) := by
  rw [writeMorHint, ← h1]
  simp only [ha, Nat.not_le.mpr hr, Bool.not_true, Bool.false_or, decide_false, Bool.false_eq_true, if_false]
  split
  · next h => rw [h]; rfl
  · next h => rw [h]; rfl
  · next h => rw [h]; rfl
  · next h0 h1 h2 => rw [giveHint, if_neg h0, if_neg h1, if_neg h2]

theorem giveHint_recorded (s : State) (r dest : Nat) (h : 3 ≤ op) :
    giveHint s r op dest = { s with mor := { s.mor with hints := s.mor.hints ++ [(r, op, dest)] } } := by
  rw [giveHint, if_neg (by omega), if_neg (by omega), if_neg (by omega)]

theorem giveHint_noevac (s : State) (r dest : Nat) (h : op = 1 ∨ op = 2) :
    giveHint s r op dest = descField s r 44 44 (if op = 1 then 1 else 0) := by
  rcases h with rfl | rfl <;> rfl

/-! ### Allocations that wait (R349) -/

theorem exec_heapFullTimeout (hd : sourceCore s c = some d) (hw : (s.core d).mode = .heapWait tr npc)
    (h1 : s1 = s.modCore d (fun k => { k with mode := .running, onlyB := false })) :
    exec (.heapFullTimeout c) s = .next (mirror (raiseStop s1 d (.trap tr) (s1.core d).pc npc) d) := by
  subst h1
  change execHeapFullTimeout c s = _
  simp only [execHeapFullTimeout, hd, hw]

theorem exec_allocationWaitEnd (hw : (s.core c).mode = .heapWait tr npc) (hfree : s.fld .morStat 0 51 32 ≠ 0) :
    exec (.allocationWaitEnd c) s = .next (setModes s (partners s c) .running) := by
  change execAllocationWaitEnd c s = _
  simp only [execAllocationWaitEnd, hw, beq_eq_false_iff_ne.mpr hfree, Bool.false_eq_true, if_false]

/-- Settles O42: the command is performed on the region, page or core that its precondition names; a GO of MOR_HINT is
one operation on the registers as the write leaves them (`giveHint`). -/
theorem evacuationCompletes : Obligations.EvacuationCompletes := by
  refine ⟨⟨?copied, ?forwarded, ?cycleEnds, ?moved, ?remapped⟩, ?hinted, ?noevac, ?timeout, ?waitEnds⟩
  case copied => exact fun s t r a b s1 => exec_evacuateCopy_of_moved
  case forwarded => exact fun s t r => exec_evacuateCopy_of_none_left
  case cycleEnds => exact fun s => exec_cycleEnd
  case moved => exact fun s m w r a s1 => exec_moveRequest
  case remapped =>
    rintro s va page base r h leaf pa hbase hr rfl hkind hevac htile
    exact exec_pageRemap hbase ⟨r, hr, hkind, hevac, htile⟩
  case hinted =>
    rintro s sw s1 r op ha hm h1 rfl hr rfl hop
    rw [exec_morHintGo_of_reach ha hm, writeMorHint_of_inside ha h1 hr, giveHint_recorded _ _ _ hop]
  case noevac =>
    rintro s sw s1 r op ha hm h1 rfl hr rfl hop
    rw [exec_morHintGo_of_reach ha hm, writeMorHint_of_inside ha h1 hr, giveHint_noevac _ _ _ hop]
  case timeout => exact fun s c d t npc s1 => exec_heapFullTimeout
  case waitEnds => exact fun s c t npc => exec_allocationWaitEnd

end Sys2Proof.Machine

/-! PROOFS of the troika family (spec/14_troikas.md): resynchronisation, the reset of a troika, and debug access. -/

namespace Sys2Proof.Machine

open Sys2Proof

variable {s s1 : State} {k : TroikaId} {c src dst : CoreId} {w v : Word} {sw : SetupWrite}

/-! ### Resynchronisation (R380, R381) -/

/-- The majority holds the state that the one core in the minority takes, and nothing keeps the troika from a boundary. -/
structure Resyncs (s : State) (k : TroikaId) (src dst : CoreId) : Prop where
  minority : (members k).find? (fun c => (s.core c).minority) = some dst
  majority : (members k).find? (fun c => !(s.core c).minority) = some src
  voted : troikaVoted s k.val = true
  noDrain : (s.core src).mode ≠ .patching
  noReset : Tbl.get? s.resets k.val = none

theorem exec_resynchronisation (h : Resyncs s k src dst) :
    exec (.resynchronisation k) s = .next (countResync (copyCore s src dst) k) := by
  change execResynchronisation k s = _
  simp only [execResynchronisation, h.minority, h.majority, h.voted, h.noReset, bne_iff_ne.mpr h.noDrain,
    Option.isNone_none, Bool.and_self, if_true]

/-- The minority core after the copy, before a change of its patch level is published. -/
def takenOver (s : State) (src dst : CoreId) : State :=
  (s.setCore dst { s.core src with minority := false }).setR .mcPatchVersion dst.val (s.reg .mcPatchVersion src.val)

theorem core_takenOver (s : State) (src dst : CoreId) :
    (takenOver s src dst).core dst = { s.core src with minority := false } := by
  rw [takenOver, State.core_setR, State.core_setCore, if_pos rfl]

theorem copyCore_of_same_level (h : s.reg .mcPatchVersion dst.val = s.reg .mcPatchVersion src.val) :
    copyCore s src dst = takenOver s src dst := if_pos (beq_iff_eq.mpr h)

theorem copyCore_of_other_level (h : s.reg .mcPatchVersion dst.val ≠ s.reg .mcPatchVersion src.val) :
    copyCore s src dst = publish (takenOver s src dst) 3 dst.val 4 := if_neg (mt beq_iff_eq.mp h)

/-! ### Troika reset (R387) -/

theorem exec_troikaReset_of_reach (ha : acts sw 63 = true) (hr : mayReach s sw.agent .trkCtl k.val = true) :
    exec (.troikaReset k sw) s = .next (writeTrkCtl s k sw) := by
  refine congrArg Host.Outcome.next (if_pos ?_)
  rw [ha, hr]
  rfl

/-- A troika in service, not already resetting, and free to take the mode that TRK_CTL asks for. -/
structure MayReset (s : State) (k : TroikaId) : Prop where
  configured : s.unit (uTroika k.val) ≠ stNotConfigured
  present : s.unit (uTroika k.val) ≠ stRetired
  idle : s.flag .trkStat k.val 63 = false
  mode : s.flag .trkMode 0 (32 + k.val) = false ∨ s.flag .trkCtl k.val 16 = troikaVoted s k.val

theorem writeTrkCtl_begins (ha : acts sw 63 = true) (h : MayReset (storeSetup s .trkCtl k.val sw) k) :
    writeTrkCtl s k sw = beginReset (storeSetup s .trkCtl k.val sw) k
      ((storeSetup s .trkCtl k.val sw).flag .trkCtl k.val 16) false := by
  obtain ⟨hconf, hpres, hidle, hmode⟩ := h
  have hfree : ((storeSetup s .trkCtl k.val sw).flag .trkMode 0 (32 + k.val)
      && (storeSetup s .trkCtl k.val sw).flag .trkCtl k.val 16 != troikaVoted (storeSetup s .trkCtl k.val sw) k.val) = false := by
    obtain hm | hm := hmode
    · rw [hm, Bool.false_and]
    · rw [hm, bne_self_eq_false, Bool.and_false]
  simp only [writeTrkCtl, ha, beq_false_of_ne hconf, beq_false_of_ne hpres, hidle, hfree, Bool.not_true, Bool.or_self,
    Bool.false_eq_true, if_false]

theorem exec_troikaResetEnd {r : Reset} (v : Verdict) (h : Tbl.get? s.resets k.val = some r) :
    exec (.troikaResetEnd k v) s
      = .next (pulse (finishReset s k r v) (tileSource (k.val / 2) (8 + k.val % 2))) := by
  change execTroikaResetEnd k v s = _
  simp only [execTroikaResetEnd, h]

/-! ### Debug access (R390) -/

theorem exec_debugHalt (hd : debugAllowed s = true)
    (hr : (members k).any (fun c => (s.core c).mode == .running) = true) :
    exec (.debugHalt k) s = .next (((members k).foldl (fun x c => if (x.core c).mode == .running then
      x.modCore c (fun y => { y.landAll with mode := .debugHalt }) else x) s).setF .trkStat k.val 62 60 4) := by
  refine congrArg Host.Outcome.next (if_neg ?_)
  rw [hd, hr]
  decide

theorem exec_debugRead (r : DebugReg) (hd : debugAllowed s = true) :
    exec (.debugRead c r) s = .next (putDebug s (some (debugGet (s.core (leadOf s c)) r))) :=
  congrArg Host.Outcome.next (if_pos hd)

theorem exec_debugWrite_split (r : DebugReg) (hd : debugAllowed s = true) (hm : (s.core (leadOf s c)).mode = .debugHalt)
    (hv : troikaVoted s (troikaOfCore c) = false) :
    exec (.debugWrite c r v) s = .next (s.modCore (leadOf s c) (fun k => debugSet s (leadOf s c) k r v)) := by
  change execDebugWrite c r v s = _
  simp only [execDebugWrite, hd, hm, hv, bne_self_eq_false, Bool.not_true, Bool.or_self, Bool.false_eq_true, if_false]

theorem exec_debugStep {a : At} (op : StepOp) (hd : debugAllowed s = true)
    (hm : (s.core (leadOf s a.core)).mode = .debugHalt) :
    exec (.debugStep a op) s = .next (turnModes (stepBody (turnModes s (partners s (leadOf s a.core)) .debugHalt .running)
      { a with core := leadOf s a.core } op) (partners s (leadOf s a.core)) .running .debugHalt) := by
  refine congrArg Host.Outcome.next (if_neg ?_)
  rw [hd, hm]
  decide

/-- A debugger may reach the word at an address. -/
structure DebugReaches (s : State) (pa : Nat) : Prop where
  inside : pa < physTop
  allowed : debugAllowed s = true
  answers : accessible s (pa / 8 * 8) = true
  clean : poisoned s (pa / 8 * 8) = false

theorem exec_debugMemoryAccess_read {pa : Nat} (h : DebugReaches s pa) :
    exec (.debugMemoryAccess c pa none) s = .next (putDebug
      (cacheTouch s (coreClass c (pa / 8 * 8)) (pa / 8 * 8) 8 false) (some (readWord s (pa / 8 * 8)))) := by
  obtain ⟨hin, hd, ha, hp⟩ := h
  change execDebugMemoryAccess c pa none s = _
  simp only [execDebugMemoryAccess, hd, ha, hp, Nat.not_le.mpr hin, Bool.not_true, Bool.or_self, Bool.false_eq_true,
    if_false]

theorem exec_debugMemoryAccess_write {pa : Nat} (h : DebugReaches s pa) (hw : debugWord w = true)
    (ho : mayOverwrite (readWord s (pa / 8 * 8)) w = true) :
    exec (.debugMemoryAccess c pa (some w)) s = .next (performWrite s (coreClass c (pa / 8 * 8)) (some (leadOf s c))
      (pa / 8 * 8) (bytesOfWord w)).1 := by
  obtain ⟨hin, hd, ha, hp⟩ := h
  change execDebugMemoryAccess c pa (some w) s = _
  simp only [execDebugMemoryAccess, hd, ha, hp, hw, ho, Nat.not_le.mpr hin, Bool.not_true, Bool.or_self, Bool.and_self,
    Bool.false_eq_true, if_false, if_true]

theorem exec_debugResume_split (hd : debugAllowed s = true) (hh : s.fld .trkStat k.val 62 60 = 4)
    (hv : troikaVoted s k.val = false) (h1 : s1 = turnModes s (members k) .debugHalt .running) :
    exec (.debugResume k) s
      = .next (({ s1 with replay := Tbl.del s1.replay k.val } : State).setF .trkStat k.val 62 60 0) := by
  subst h1
  change execDebugResume k s = _
  simp only [execDebugResume, hd, hh, hv, bne_self_eq_false, Bool.not_true, Bool.not_false, Bool.or_self,
    Bool.false_eq_true, if_false, if_true]
  rfl

/-- Every debug command to a core or a troika asks first whether Crag allows it. -/
theorem exec_debug_of_denied (k : TroikaId) (c : CoreId) (r : DebugReg) (v : Word) (a : At) (op : StepOp)
    (hd : debugAllowed s = false) : exec (.debugHalt k) s = .next s ∧ exec (.debugRead c r) s = .next s
      ∧ exec (.debugWrite c r v) s = .next s ∧ exec (.debugStep a op) s = .next s ∧ exec (.debugResume k) s = .next s := by
  refine ⟨congrArg Host.Outcome.next (if_pos ?halt), congrArg Host.Outcome.next (if_neg ?read),
    congrArg Host.Outcome.next (if_pos ?write), congrArg Host.Outcome.next (if_pos ?step),
    congrArg Host.Outcome.next (if_pos ?resume)⟩
  all_goals simp only [hd, Bool.not_false, Bool.true_or, Bool.false_eq_true, not_false_eq_true]

/-! ### The statement -/

/-- Settles O44: the guards of each command are the hypotheses of its clause, and a copied core whose patch level stays is
not published. -/
theorem troikasAndDebugComplete : Obligations.TroikasAndDebugComplete := by
  refine ⟨⟨?resync, ?sameLevel, ?otherLevel, ?reset, ?resetEnd⟩, ?halt, ?read, ?write, ?step, ?memRead, ?memWrite, ?resume,
    fun s k c r v a op => exec_debug_of_denied k c r v a op⟩
  case resync => exact fun s k dst src hmin hmaj hv hp hr => exec_resynchronisation ⟨hmin, hmaj, hv, hp, hr⟩
  case sameLevel => exact fun s src dst h => by rw [copyCore_of_same_level h, core_takenOver]
  case otherLevel =>
    exact fun s src dst h => ⟨takenOver s src dst, core_takenOver s src dst, State.reg_setR_same _ _ _ _,
      copyCore_of_other_level h⟩
  case reset =>
    rintro s k w _ ha hr rfl hconf hpres hidle hmode
    rw [exec_troikaReset_of_reach ha hr, writeTrkCtl_begins ha ⟨hconf, hpres, hidle, hmode⟩]
  case resetEnd => exact fun s k v r => exec_troikaResetEnd v
  case halt => exact fun s k => exec_debugHalt
  case read => exact fun s c r => exec_debugRead r
  case write => exact fun s c r v => exec_debugWrite_split r
  case step =>
    rintro s a op _ hd rfl
    exact exec_debugStep op hd
  case memRead =>
    rintro s c pa _ hin rfl hd ha hp
    exact exec_debugMemoryAccess_read ⟨hin, hd, ha, hp⟩
  case memWrite =>
    rintro s c pa _ w hin rfl hd ha hp
    exact exec_debugMemoryAccess_write ⟨hin, hd, ha, hp⟩
  case resume => exact fun s k s1 => exec_debugResume_split

end Sys2Proof.Machine

/-! PROOFS of the Traverse family (spec/16_traverse.md): triggers, bursts, frames, completion points and aborts. -/

namespace Sys2Proof.Machine

open Sys2Proof

variable {s s0 s1 : State} {n : Fin 64} {c : Chan} {sw : SetupWrite} {h : HostBytes} {bs : List Byte} {k : Chunk}
  {rest : List Chunk} {ps : List Nat} {total code addr pa : Nat}

/-! ### Bursts that read (R407, R412, R420) -/

/-- The read engine of a running channel has an element granted, room in the buffer and a slot. -/
structure ReadsNext (s : State) (n : Fin 64) (c : Chan) : Prop where
  chan : s.chan n.val = c
  running : chState s n.val = chRunning
  granted : c.rd < c.granted
  noFrames : ¬ (c.raw = true ∧ c.skind = 4)
  order : s.flag .trvStat n.val 59 = true → c.rd = c.wr
  room : bufferRoom c 256 = true
  slot : hasSlot s (trvMaster n) = true

theorem ReadsNext.goes (hr : ReadsNext s n c) :
    (chState s n.val != chRunning || c.granted ≤ c.rd || (c.raw && c.skind == 4)
      || (s.flag .trvStat n.val 59 && c.rd != c.wr) || !bufferRoom c 256 || !hasSlot s (trvMaster n)) = false := by
  have hframes : (c.raw && c.skind == 4) = false := by simpa using hr.noFrames
  have horder : (s.flag .trvStat n.val 59 && c.rd != c.wr) = false := by simpa using hr.order
  rw [hr.running, hframes, horder, hr.room, hr.slot, decide_eq_false (Nat.not_le.mpr hr.granted), bne_self_eq_false]
  rfl

/-- A channel with one more part read: the next element, where the part ends this one. -/
def withPart (c : Chan) (bs : List Byte) (total : Nat) : Chan :=
  { c with
    buf := c.buf ++ [⟨c.rd, c.rdPos, total, bs, none⟩]
    rd := if total ≤ c.rdPos + bs.length then c.rd + 1 else c.rd
    rdPos := if total ≤ c.rdPos + bs.length then 0 else c.rdPos + bs.length }

theorem exec_burstRead_part (hr : ReadsNext s n c) (hp : sourcePart s n.val c h = .ok (bs, total, s1)) :
    exec (.burstRead n h) s = .next (s1.setChan n.val (withPart c bs total)) := by
  change execBurstRead n h s = _
  simp only [execBurstRead, hr.chan, hr.goes, hp, Bool.false_eq_true, if_false]
  rfl

theorem exec_burstRead_failed (hr : ReadsNext s n c) (hp : sourcePart s n.val c h = .error (code, addr)) (hc : code ≠ 0) :
    exec (.burstRead n h) s
      = .next (beginAbort (if code = 9 then meetRead s (trvCls n.val) c.space addr 256 else s) n.val code addr) := by
  obtain ⟨code, rfl⟩ := Nat.exists_eq_succ_of_ne_zero hc
  change execBurstRead n h s = _
  simp only [execBurstRead, hr.chan, hr.goes, hp, Bool.false_eq_true, if_false, beq_iff_eq]

theorem exec_burstRead_waits (hr : ReadsNext s n c) (hp : sourcePart s n.val c h = .error (0, addr))
    (hm : mapEdge s (trvCls n.val) c.space addr = some pa) :
    exec (.burstRead n h) s = .next (waitFlight s (trvMaster n) pa 8) := by
  change execBurstRead n h s = _
  simp only [execBurstRead, hr.chan, hr.goes, hp, hm, Bool.false_eq_true, if_false]

/-! ### Bursts that write (R412 to R416) -/

/-- The write engine of a running channel has a part and a slot, and no full mailbox holds it. -/
structure WritesNext (s : State) (n : Fin 64) (c : Chan) (k : Chunk) (rest : List Chunk) : Prop where
  chan : s.chan n.val = c
  running : chState s n.val = chRunning
  notFull : c.full = false
  slot : hasSlot s (trvMaster n) = true
  oldest : c.buf = k :: rest
  noFrames : ¬ (c.raw = true ∧ c.dkind = 4)

theorem exec_burstWrite (hw : WritesNext s n c k rest) : exec (.burstWrite n) s = .next (burstWrite s n.val) := by
  refine congrArg Host.Outcome.next (if_neg ?_)
  rw [hw.running, hw.chan, hw.notFull, hw.slot]
  decide

theorem burstWrite_leaves_rest (hw : WritesNext s n c k rest)
    (hp : writePart s n.val c k (k.bytes.take 256) = .done s1) (hl : 256 < k.bytes.length) :
    burstWrite s n.val = s1.setChan n.val { s1.chan n.val with
      full := false, buf := { k with pos := k.pos + 256, bytes := k.bytes.drop 256 } :: rest } := by
  have hframes : (c.raw && c.dkind == 4) = false := by simpa using hw.noFrames
  have hleft : (k.bytes.drop 256).isEmpty = false := by simpa using hl
  simp only [burstWrite, hw.chan, hw.oldest, hframes, hp, hleft, Bool.false_eq_true, Bool.not_false, if_false, if_true]

theorem burstWrite_ends_element (hw : WritesNext s n c k rest)
    (hp : writePart s n.val c k (k.bytes.take 256) = .done s1) (hl : k.bytes.length ≤ 256)
    (ht : k.total ≤ k.pos + k.bytes.length) (hs : k.stamp = none) :
    burstWrite s n.val = elementDone (s1.setChan n.val { s1.chan n.val with full := false, buf := rest }) n.val := by
  have hframes : (c.raw && c.dkind == 4) = false := by simpa using hw.noFrames
  have hleft : (k.bytes.drop 256).isEmpty = true := by simpa using hl
  rw [List.take_of_length_le hl] at hp
  simp only [burstWrite, hw.chan, hw.oldest, hframes, List.take_of_length_le hl, hp, hleft, Nat.not_lt.mpr ht, hs,
    Bool.false_eq_true, Bool.not_true, if_false]

/-! ### Frames of an ingress queue (R415) -/

theorem exec_ingressFrameReady {f : Frame} {fs : List Frame} (hc : s.chan n.val = c)
    (hf : Tbl.getD s.ingress [] c.queue = f :: fs) (hr : chState s n.val = chRunning) (hraw : c.raw = true)
    (hk : c.skind = 4) (hg : c.rd < c.granted) (hroom : bufferRoom c f.bytes.length = true)
    (hl : f.bytes.length ≤ c.esize) :
    exec (.ingressFrameReady n) s = .next (State.setChan { s with ingress := Tbl.putD s.ingress [] c.queue fs } n.val
      { c with buf := c.buf ++ [⟨c.rd, 0, f.bytes.length, f.bytes, some (f.stamp, f.bytes.length)⟩], rd := c.rd + 1 }) := by
  change execIngressFrameReady n s = _
  simp only [execIngressFrameReady, hc, hf, hr, hraw, hk, hroom, decide_eq_false (Nat.not_le.mpr hg),
    List.take_of_length_le hl, Nat.not_lt.mpr hl, bne_self_eq_false, Bool.not_true, Bool.or_self, Bool.false_eq_true,
    if_false]

/-! ### Completion points (R418, R419) -/

theorem exec_completionPoint {p : Nat} (hp : (s.chan n.val).points = p :: ps)
    (h1 : s1 = s.setChan n.val { s.chan n.val with points := ps }) :
    exec (.completionPoint n) s = .next (sendPoint
      (if p = (s.chan n.val).total ∧ chState s n.val = chRunning then setChState s1 n.val chDone else s1) n.val) := by
  subst h1
  change execCompletionPoint n s = _
  simp only [execCompletionPoint, hp, Bool.and_eq_true, beq_iff_eq]

theorem sendPoint_pulsing (hc : s.chan n.val = c) (hb : bitOf c.ctl 26 = true) :
    sendPoint s n.val = triggerAll (pulse s (bitsOf c.ctl 36 27)) 2 n.val := by
  rw [sendPoint, hc, if_pos hb]

theorem sendPoint_silent (hc : s.chan n.val = c) (hb : bitOf c.ctl 26 = false) :
    sendPoint s n.val = triggerAll s 2 n.val := by
  rw [sendPoint, hc, hb]
  rfl

theorem sendPoints_of_none (hp : (s.chan n.val).points = []) : sendPoints s n.val = s := by
  rw [sendPoints, hp]
  rfl

theorem chan_setChan_self (s : State) (n : Nat) (c : Chan) : (s.setChan n c).chan n = c := by
  rw [State.chan_setChan, if_pos rfl]

/-! ### Aborts (R421 to R423) -/

/-- The state of a channel stands in another register than its control word. -/
theorem chState_storeSetup_trvCtl (s : State) (i : Nat) (sw : SetupWrite) :
    chState (storeSetup s .trvCtl i sw) i = chState s i := by
  refine congrArg (bitsOf · 63 61) (State.reg_setR_ne s .trvCtl .trvStat i i _ ?_)
  simp only [RegName.offset, RegName.info]
  omega

theorem exec_trvAbort_of_reach (ha : acts sw 63 = true) (hr : mayReach s sw.agent .trvCtl n.val = true) :
    exec (.trvAbort n sw) s = .next (writeTrvCtl s n.val sw) := by
  refine congrArg Host.Outcome.next (if_pos ?_)
  rw [ha, hr]
  rfl

theorem exec_channelDisable_of_reach (hp : sw.part ≠ .low) (he : acts sw 62 = false) (ha : acts sw 63 = false)
    (hr : mayReach s sw.agent .trvCtl n.val = true) :
    exec (.channelDisable n sw) s = .next (writeTrvCtl s n.val sw) := by
  refine congrArg Host.Outcome.next (if_pos ?_)
  rw [he, ha, hr, bne_iff_ne.mpr hp]
  rfl

theorem writeTrvCtl_aborts {i : Nat} (ha : acts sw 63 = true)
    (hc : chState s i = chRunning ∨ chState s i = chWaiting ∨ chState s i = chDone) :
    writeTrvCtl s i sw = beginAbort (storeSetup s .trvCtl i sw) i 1 0 := by
  refine if_pos ?_
  rw [ha, chState_storeSetup_trvCtl]
  obtain hc | hc | hc := hc <;> rw [hc] <;> rfl

theorem writeTrvCtl_disables_moving {i : Nat} (ha : acts sw 63 = false)
    (he : (storeSetup s .trvCtl i sw).flag .trvCtl i 62 = false) (hc : chState s i = chRunning ∨ chState s i = chWaiting) :
    writeTrvCtl s i sw = beginAbort (storeSetup s .trvCtl i sw) i 1 0 := by
  simp only [writeTrvCtl, ha, he, chState_storeSetup_trvCtl, Bool.false_and, Bool.false_eq_true, if_false, Bool.not_false,
    Bool.true_and]
  obtain hc | hc := hc <;> rw [hc] <;> rfl

theorem writeTrvCtl_disables_idle {i : Nat} (ha : acts sw 63 = false)
    (he : (storeSetup s .trvCtl i sw).flag .trvCtl i 62 = false) (hc : chState s i = chIdle) :
    writeTrvCtl s i sw = setChState (storeSetup s .trvCtl i sw) i chDisabled := by
  simp only [writeTrvCtl, ha, he, chState_storeSetup_trvCtl, Bool.false_and, Bool.false_eq_true, if_false, Bool.not_false,
    Bool.true_and]
  rw [hc]
  rfl

/-- What was left of a count at an abort: nothing, where the run had in fact completed. -/
def leftOf (late : Bool) (count i : Nat) : Nat := if late then 0 else count - i

/-- The status block of an abort, where the channel has one, is written. -/
def StatusWritten (s : State) (n : Fin 64) (c : Chan) (ws : List Word) (s0 : State) : Prop :=
  if bitOf c.sb 63 = true then writeWords s (trvCls n.val) c.space (bitsOf c.sb 46 0) ws = .ok s0 else s0 = s

theorem exec_abortDrainEnd {late : Bool} {r0 r1 r2 : Nat} (hc : s.chan n.val = c) (he : c.ending = some (code, late, addr))
    (hp : c.points = []) (h0 : r0 = leftOf late c.c0 (c.i0 c.wr)) (h1 : r1 = leftOf late c.c1 (c.i1 c.wr))
    (h2 : r2 = leftOf late c.c2 (c.i2 c.wr))
    (hw : StatusWritten s n c (statusWords s n.val code late r0 r1 r2 addr) s0) :
    exec (.abortDrainEnd n) s = .next (pulse (setChState (State.setChan
      ((((s0.setF .trvStat n.val 60 60 (if late then 1 else 0)).setF .trvStat n.val 55 48 code).setF .trvStat n.val 24 0 r2).setR
        .trvRes n.val (BitVec.ofNat 64 (r1 * 2 ^ 32 + r0))) n.val { c with ending := none }) n.val chAborted) (128 + n.val)) := by
  have hpoints : ({ c with points := [] } : Chan) = c := by rw [← hp]
  have hsent : sendPoints s n.val = s := sendPoints_of_none (by rw [hc, hp])
  change execAbortDrainEnd n s = _
  simp only [execAbortDrainEnd, hc, hpoints, hsent]
  simp only [he]
  subst h0 h1 h2
  unfold StatusWritten leftOf at hw
  unfold leftOf
  split at hw
  next hb => rw [if_pos hb, hw, hp]
  next hb => rw [if_neg hb, hw, hp]

/-! ### The statement -/

/-- Settles O46: each burst takes the branch that what it reads or writes gives, and a write of TRV_CTL leaves the state of
the channel, which then decides whether it aborts. -/
theorem traverseChannelsRun : Obligations.TraverseChannelsRun := by
  refine ⟨⟨?tick, ?readPart, ?readLast, ?readFails, ?readWaits, ?writePart, ?writeLast, ?frame⟩, ?pulses, ?ends, ?abort,
    ?disable, ?disableIdle, ?drained⟩
  case tick => exact fun s t ht => congrArg Host.Outcome.next (if_pos ht)
  case readPart =>
    intro s n h c bs total s1 hc hr hg hf ho hroom hs hp hl
    rw [exec_burstRead_part ⟨hc, hr, hg, hf, ho, hroom, hs⟩ hp, withPart, if_neg (Nat.not_le.mpr hl),
      if_neg (Nat.not_le.mpr hl)]
  case readLast =>
    intro s n h c bs total s1 hc hr hg hf ho hroom hs hp hl
    rw [exec_burstRead_part ⟨hc, hr, hg, hf, ho, hroom, hs⟩ hp, withPart, if_pos hl, if_pos hl]
  case readFails =>
    exact fun s n h c code addr hc hr hg hf ho hroom hs => exec_burstRead_failed ⟨hc, hr, hg, hf, ho, hroom, hs⟩
  case readWaits =>
    exact fun s n h c addr pa hc hr hg hf ho hroom hs => exec_burstRead_waits ⟨hc, hr, hg, hf, ho, hroom, hs⟩
  case writePart =>
    intro s n c k rest s1 hc hr hn hs hb hf hp hl
    have hw : WritesNext s n c k rest := ⟨hc, hr, hn, hs, hb, hf⟩
    rw [exec_burstWrite hw, burstWrite_leaves_rest hw hp hl]
  case writeLast =>
    intro s n c k rest s1 hc hr hn hs hb hf hp hl ht hstamp
    have hw : WritesNext s n c k rest := ⟨hc, hr, hn, hs, hb, hf⟩
    rw [exec_burstWrite hw, burstWrite_ends_element hw hp hl ht hstamp]
  case frame => exact fun s n c f fs => exec_ingressFrameReady
  case pulses =>
    rintro s n _ p ps _ rfl hp hne hb rfl
    rw [exec_completionPoint hp rfl, if_neg fun h => hne h.1]
    exact congrArg Host.Outcome.next (sendPoint_pulsing (c := { s.chan n.val with points := ps }) (chan_setChan_self _ _ _) hb)
  case ends =>
    rintro s n _ ps _ rfl hp hb hr rfl
    rw [exec_completionPoint hp rfl, if_pos ⟨rfl, hr⟩]
    exact congrArg Host.Outcome.next (sendPoint_silent (c := { s.chan n.val with points := ps }) (chan_setChan_self _ _ _) hb)
  case abort =>
    rintro s n w _ ha hr rfl hc
    rw [exec_trvAbort_of_reach ha hr, writeTrvCtl_aborts ha hc]
  case disable =>
    rintro s n w _ hp he ha hr rfl hen hc
    rw [exec_channelDisable_of_reach hp he ha hr, writeTrvCtl_disables_moving ha hen hc]
  case disableIdle =>
    rintro s n w _ hp he ha hr rfl hen hc
    rw [exec_channelDisable_of_reach hp he ha hr, writeTrvCtl_disables_idle ha hen hc]
  case drained =>
    rintro s n c code late addr _ r0 r1 r2 s0 _ hc he hp rfl h0 h1 h2 hw rfl
    exact exec_abortDrainEnd hc he hp h0 h1 h2 hw

end Sys2Proof.Machine

/-! PROOFS of the host ring family (spec/17_host_rings.md), first part: messages that wait for room, the doorbell page, and
the fetch of descriptors. -/

namespace Sys2Proof.Machine

open Sys2Proof

variable {s s1 s2 : State} {n r c : Fin 64} {w msg : Word} {bs : List Byte} {f : Fetched} {fs : List Fetched} {q : Ring}

/-! ### Waits for room in a mailbox (R416, R441) -/

theorem exec_mboxAppendRetry_channel (hr : chState s n.val = chRunning) (hf : (s.chan n.val).full = true) :
    exec (.mboxAppendRetry (.channel n)) s = .next (burstWrite s n.val) := by
  refine congrArg Host.Outcome.next (if_pos ?_)
  rw [hr, hf]
  rfl

theorem exec_mbwaitExpiry_channel (hr : chState s n.val = chRunning) (hf : (s.chan n.val).full = true) :
    exec (.mbwaitExpiry (.channel n)) s = .next (beginAbort s n.val 11 (s.chan n.val).daddr) := by
  refine congrArg Host.Outcome.next (if_pos ?_)
  rw [hr, hf]
  rfl

theorem exec_mboxAppendRetry_ring (hp : (s.ring r.val).posting = some msg) (hf : (s.ring r.val).fetched = f :: fs)
    (ht : tableSlot s 0 (bitsOf (f.words.getD 2 0) 15 0) = .ok (w, s1)) :
    exec (.mboxAppendRetry (.ring r)) s
      = .next (appendMessage s1 r.val (bitsOf (f.words.getD 2 0) 15 0) (valOf w) msg) := by
  change Host.Outcome.next (retryRing s r.val) = _
  simp only [retryRing, hp, hf, ht]

theorem exec_mbwaitExpiry_ring (hp : (s.ring r.val).posting = some msg) (hf : (s.ring r.val).fetched = f :: fs) :
    exec (.mbwaitExpiry (.ring r)) s = .next (finish s r.val 7 (bitsOf (f.words.getD 2 0) 15 0) 0 0) := by
  change Host.Outcome.next (expireRing s r.val) = _
  simp only [expireRing, hp, hf]

/-! ### The doorbell page (R434, R435) -/

theorem hostReply_of_link (h : HostBytes) (hl : s.pcie.link = true) : hostReply s h = h := if_pos hl

/-- The engine may read host memory, over a link that is up. -/
structure ReadsHost (s : State) : Prop where
  on : engineOn s = true
  awake : engineQuiet s = false
  link : s.pcie.link = true

theorem ReadsHost.goes (h : ReadsHost s) : (!engineOn s || engineQuiet s) = false := by
  rw [h.on, h.awake]
  rfl

/-- The record at a place of the doorbell page. -/
def pageRecord (bs : List Byte) (i : Nat) : Word := wordOfBytes ((bs.drop (8 * i)).take 8)

/-- A tail record is taken, and it is told whether any so far showed a new count. -/
def tailTaken (bs : List Byte) (x : State × Bool) (r : Nat) : State × Bool :=
  ((takeTail x.1 r (pageRecord bs r)).1, x.2 || (takeTail x.1 r (pageRecord bs r)).2)

theorem exec_doorbellPoll_data {found : Bool} (h : ReadsHost s)
    (h1 : s1 = (List.range 64).foldl (fun x c => takeHead x c (pageRecord bs (64 + c))) s)
    (h2 : (List.range 64).foldl (tailTaken bs) (s1, false) = (s2, found)) :
    exec (.doorbellPoll (.data bs)) s = .next (proceed (setInterval s2 (if found then s.fld .hreCtl 0 31 16
      else min (s.fld .hreCtl 0 47 32) (2 * max (s.fld .hreCtl 0 31 16) s.hre.interval)))) := by
  subst h1
  change execDoorbellPoll (.data bs) s = _
  simp only [execDoorbellPoll, h.goes, hostReply_of_link _ h.link, Bool.false_eq_true, if_false]
  unfold tailTaken pageRecord at h2
  rw [h2]

theorem exec_doorbellPoll_failed (t : Bool) (h : ReadsHost s) :
    exec (.doorbellPoll (.failed t)) s
      = .next ((enabledRings s).foldl (fun x r => ringError x r (if t then 1 else 2) none) s) := by
  change execDoorbellPoll (.failed t) s = _
  simp only [execDoorbellPoll, h.goes, hostReply_of_link _ h.link, Bool.false_eq_true, if_false]

theorem exec_cqHeadPoll_data (h : ReadsHost s) (hr : cqRoom s c.val = false) :
    exec (.cqHeadPoll c (.data bs)) s = .next (proceed (takeHead s c.val (wordOfBytes (bs.take 8)))) := by
  change execCqHeadPoll c (.data bs) s = _
  simp only [execCqHeadPoll, h.goes, hr, hostReply_of_link _ h.link, Bool.or_self, Bool.false_eq_true, if_false]

/-! ### The fetch of a descriptor (R436 to R438) -/

/-- A fetch of the ring has failed and has not yet taken effect. -/
def fetchFailed (q : Ring) : Bool := q.fetched.any (fun f => match f.ends with | .failed _ => true | _ => false)

/-- A ring in use is owed a descriptor, and may run that far ahead of the one performed. -/
structure FetchesNext (s : State) (r : Fin 64) (q : Ring) : Prop extends ReadsHost s where
  running : sqRunning s r.val = true
  ring : s.ring r.val = q
  ahead : q.fetched.length ≤ 16
  noFailure : fetchFailed q = false
  noReset : q.resetting = false
  owed : q.fetched.length < countDiff q.tail (sqHead s r.val)

theorem exec_descriptorFetch_data {exts : List HostBytes} {segs : List (Nat × Nat)} {e : FetchEnd} (h : FetchesNext s r q)
    (hd : readDescriptor s r.val (wordsOf bs) exts = some (segs, e))
    (h1 : s1 = s.setRing r.val { q with fetched := q.fetched ++ [⟨s.hre.order, wordsOf bs, segs, e⟩] }) :
    exec (.descriptorFetch r (.data bs) exts) s
      = .next (proceed { s1 with hre := { s1.hre with order := s1.hre.order + 1 } }) := by
  obtain ⟨hpage, hrun, rfl, hahead, hfail, hreset, howed⟩ := h
  subst h1
  refine congrArg Host.Outcome.next ((if_neg (ne_true_of_eq_false ?goes)).trans ?fetched)
  case goes =>
    simp only [Bool.or_eq_false_iff, decide_eq_false_iff_not]
    exact ⟨⟨⟨⟨⟨⟨congrArg not hpage.on, hpage.awake⟩, congrArg not hrun⟩, Nat.not_lt.mpr hahead⟩, hfail⟩, hreset⟩,
      Nat.not_le.mpr howed⟩
  case fetched => simp only [hostReply_of_link _ hpage.link, hd]

/-! ### The statement -/

/-- Settles O47: a wait is met by the branch of its waiter; a poll folds over the head records, then over the tail records,
and a fetch passes every reason to hold it back. -/
theorem waitsForRoomEnd : Obligations.WaitsForRoomEnd := by
  refine ⟨⟨?channelRetry, ?ringRetry, ?channelExpiry, ?ringExpiry⟩, ?poll, ?pollFails, ?headPoll, ?fetch⟩
  case channelRetry => exact fun s n => exec_mboxAppendRetry_channel
  case ringRetry =>
    rintro s r msg f fs _ w s1 hp hf rfl ht
    exact exec_mboxAppendRetry_ring hp hf ht
  case channelExpiry => exact fun s n => exec_mbwaitExpiry_channel
  case ringExpiry => exact fun s r msg f fs => exec_mbwaitExpiry_ring
  case poll => exact fun s bs s1 s2 found hon hq hl => exec_doorbellPoll_data ⟨hon, hq, hl⟩
  case pollFails => exact fun s t hon hq hl => exec_doorbellPoll_failed t ⟨hon, hq, hl⟩
  case headPoll => exact fun s c bs hon hq hr hl => exec_cqHeadPoll_data ⟨hon, hq, hl⟩ hr
  case fetch =>
    intro s r q bs exts segs e s1 hon hq hrun hring hahead hfail hreset howed hl hd
    exact exec_descriptorFetch_data ⟨⟨hon, hq, hl⟩, hrun, hring, hahead, hfail, hreset, howed⟩ hd

end Sys2Proof.Machine

/-! PROOFS of the host ring family (spec/17_host_rings.md), second part: an EXPORT of bytes that do not begin in the line of
their object's header. -/

namespace Sys2Proof.Machine

open Sys2Proof

/-! ### What EXPORT reads (R442) -/

/-- EXPORT of 8 bytes from offset 64 of the object in slot 0 of the table of exported objects. -/
def exportDescriptor : Fetched := ⟨0, [3, 0, BitVec.ofNat 64 (8 * 2 ^ 32), 64], [], .ready⟩

/-- The byte vector that is exported stands in the deep memory of quadrant 0. -/
def exportedAt : Nat := 0x1000000000

def exportedHeader : Word := mkHeader 0x22 6 72 0

/-- The engine and its ring 63 are in use, with room in completion ring 0; the tile that holds the table of exported
objects and the channel that holds the object are online. -/
def exportUnits : State :=
  (((([uTile 0, uChan 0, uHre].foldl (fun x u => State.setUnit x u stOnline) State.reset).setF .hreCtl 0 63 63 1).setF
    .hreSqstat 63 63 62 1).setR .hreCqcfg 0 0x8000000000000004#64).setR .hreDevtab 1 0x8000000000001000#64

/-- The same with that table, the object and the descriptor at the front of the ring. -/
def exporting : State :=
  { writeWord (writeWord (writeWord exportUnits 0x1000 (mkHeader 0x21 7 4 0)) 0x1008 (mkWord 0x12 exportedAt))
      exportedAt exportedHeader with
    sizes := [(uChan 0, 1024)]
    hre := { State.reset.hre with rings := [(63, { Ring.empty with fetched := [exportDescriptor] })] }
    pcie := { State.reset.pcie with link := true, bme := true } }

/-- The lines that the deep cache of quadrant 0 holds after a command. -/
def deepLinesAfter : Out → List Nat
  | .next t => (t.deepOf 0).lines.map DLine.line
  | _ => []

/-- The table slot gives the object, and no cache of the device takes part in a read of a tile store. -/
theorem tableSlot_exporting : tableSlot exporting 1 0 = .ok (mkWord 0x12 exportedAt, exporting) := by decide +kernel

theorem spaceWord_exporting : spaceWord exporting 5 0 exportedAt = some exportedHeader := by decide +kernel

theorem trvRead_exporting : trvRead exporting 5 0 true (exportedAt + 8 + 64) 8 = .ok (List.replicate 8 0) := by
  decide +kernel

/-- The engine reads from the first byte exported on: the line of the header is not requested. -/
theorem deepLinesAfter_exporting : deepLinesAfter (exec (.exportBytes 63) exporting) = [exportedAt / 64 + 1] := by
  decide +kernel

/-- What the statement says is left where the object of EXPORT is touched from its header on: the line of the header and
the line of the bytes. -/
theorem deepLinesAfter_finish_fromHeader : deepLinesAfter (.next (finish
    (scatter (touchEdge exporting 5 0 exportedAt (8 + 64 + 8)) exportDescriptor.segs (List.replicate 8 0)) 63 0 0 8 0))
      = [exportedAt / 64 + 1, exportedAt / 64] := by decide +kernel

/-- Refutes O48: EXPORT requests the lines of the bytes that it reads (R442), and the clause of EXPORT has it touch the
object from its header on. With the bytes in the line after the header's, the deep cache holds one line, not two. -/
theorem not_hostOperationsComplete : ¬ Obligations.HostOperationsComplete := by
  rintro ⟨⟨-, -, hexport, -⟩, -⟩
  have hfinished := hexport exporting 63 exportDescriptor (mkWord 0x12 exportedAt) exporting exportedHeader 64 8
    (List.replicate 8 0) (by decide +kernel) (by decide +kernel) (by decide) (by decide) tableSlot_exporting (.inl (by decide))
    spaceWord_exporting (by decide) (by decide) (by decide) trvRead_exporting
  have hlines := congrArg deepLinesAfter hfinished
  rw [deepLinesAfter_exporting] at hlines
  exact absurd (hlines.trans deepLinesAfter_finish_fromHeader) (by decide)

end Sys2Proof.Machine

/-! PROOFS of the host ring family (spec/17_host_rings.md), third part: the states of the PCIe function and of its link. -/

namespace Sys2Proof.Machine

open Sys2Proof

variable {s : State}

/-! ### Function resets and power states (R432, R447) -/

/-- A counter that stops at its bound rises by one below it. -/
theorem bitsOf_satInc_of_lt (w : Word) {hi lo : Nat} (hh : hi < 64) (h : bitsOf w hi lo + 1 < 2 ^ (hi + 1 - lo)) :
    bitsOf (satInc w hi lo) hi lo = bitsOf w hi lo + 1 := by
  rw [satInc, if_pos h, bitsOf_withBits_same _ _ hh, Nat.mod_eq_of_lt h]

/-- The state that a function-level reset leaves: FLRCNT is kept and counts. -/
def functionReset (s : State) : State :=
  let s1 := (resetFunction s).setF .hreStat 0 47 32 (s.fld .hreStat 0 47 32)
  s1.setR .hreStat 0 (satInc (s1.reg .hreStat) 47 32)

theorem fld_functionReset (h : s.fld .hreStat 0 47 32 < 65535) :
    (functionReset s).fld .hreStat 0 47 32 = s.fld .hreStat 0 47 32 + 1 := by
  have hkept : bitsOf (((resetFunction s).setF .hreStat 0 47 32 (s.fld .hreStat 0 47 32)).reg .hreStat) 47 32
      = s.fld .hreStat 0 47 32 :=
    (State.fld_setF_same _ .hreStat 0 32 _ (by decide)).trans (Nat.mod_eq_of_lt (Nat.lt_succ_of_lt h))
  have hcounts := bitsOf_satInc_of_lt _ (hi := 47) (lo := 32) (by decide) (hkept.symm ▸ Nat.add_lt_add_right h 1)
  rw [functionReset, State.fld, State.reg_setR_same, hcounts, hkept]

theorem exec_d0Return_enabled (s : State) :
    exec (.d0Return true) s = .next (sendPending (s.pcie.due.foldl deliverInterrupt
      (proceed { s with pcie := { s.pcie with d3 := false, bme := true, pme := false, due := [] } }))) := by
  change execD0Return true s = _
  simp only [execD0Return, Bool.not_true, Bool.false_eq_true, if_false, if_true]

/-! ### The link (R427, R430) -/

theorem exec_linkUp (hh : s.base.held = []) (ho : s.board.outside.contains 2 = false) :
    exec .linkUp s = .next { s with pcie := { s.pcie with link := true, l1 := false } } := by
  refine congrArg Host.Outcome.next (if_pos ?_)
  rw [hh, ho]
  rfl

/-- The reads that are outstanding fail one after another. -/
theorem exec_linkDown_append (s : State) (rs : List HostReader) (x : HostReader) :
    exec (.linkDown (rs ++ [x])) s
      = .next (failReader (rs.foldl (fun y r => failReader y true r)
          { s with pcie := { s.pcie with link := false, l1 := false } }) true x) :=
  congrArg Host.Outcome.next List.foldl_append

theorem exec_hostUnsupportedRequest {r : HostRequest} (hl : s.pcie.link = true)
    (hr : ∀ off len, r = .bar0 off len → 0x10000 ≤ off) :
    exec (.hostUnsupportedRequest r) s = .next { s with pcie := { s.pcie with answer := some (hostRead s r) } } := by
  change execHostUnsupportedRequest r s = _
  cases r with
  | bar0 off len =>
    simp only [execHostUnsupportedRequest, hl, Nat.not_lt.mpr (hr off len rfl), Bool.not_true, Bool.false_eq_true, if_false]
  | bar2 off len => simp only [execHostUnsupportedRequest, hl, Bool.not_true, Bool.false_eq_true, if_false]
  | other a => simp only [execHostUnsupportedRequest, hl, Bool.not_true, Bool.false_eq_true, if_false]

/-! ### The statement -/

/-- Settles O50: the counter of function-level resets has room below its bound; the other states are fields of the function,
and the readers that a link loses fail in turn. -/
theorem functionStatesComplete : Obligations.FunctionStatesComplete := by
  refine ⟨?reset, ?sleep, ?wakeQuiet, ?wake, fun s => rfl, ?down, fun s => exec_linkUp, ?l1,
    fun s r => exec_hostUnsupportedRequest, fun s a => rfl⟩
  case reset => exact fun s => ⟨functionReset s, rfl, rfl, rfl, rfl, rfl, fld_functionReset⟩
  case sleep =>
    exact fun s p => ⟨{ s with pcie := { s.pcie with
      d3 := true, pmeEn := p, pme := p && (!s.hre.entries.isEmpty || !s.pcie.due.isEmpty) } }, rfl, rfl, rfl⟩
  case wakeQuiet => exact fun s => ⟨{ s with pcie := { s.pcie with d3 := false, bme := false } }, rfl, rfl, rfl, rfl⟩
  case wake =>
    intro s s1 h1
    rw [h1, exec_d0Return_enabled]
  case down => exact exec_linkDown_append
  case l1 => exact fun s hl => congrArg Host.Outcome.next (if_pos hl)

end Sys2Proof.Machine

/-! PROOFS of the Crag family (spec/18_crag.md): the commands that Crag finds in its mailbox, the tamper sources and the
entropy source. -/

namespace Sys2Proof.Machine

open Sys2Proof

variable {s s0 s1 s2 s3 t : State} {m m0 w : Word} {op v vec p e : Nat} {left : Residue} {src : Fin 11}

/-! ### The mailbox of Crag (R454, R455) -/

/-- A command with its opcode and what performs it. -/
abbrev CragRow := Instr × Nat × (Nat → Nat → CragM Word)

/-- Every command of Crag (R456). -/
def cragCommands : List CragRow :=
  [(.random, 0x01, cmdRandom), (.hash, 0x02, cmdHash), (.gcmSeal, 0x03, cmdGcmSeal), (.gcmOpen, 0x04, cmdGcmOpen),
    (.sign, 0x05, cmdSign), (.verify, 0x06, cmdVerify), (.sealVector, 0x07, cmdSeal), (.sealCheck, 0x08, cmdSealCheck),
    (.keygen, 0x09, cmdKeygen), (.keyimport, 0x0A, cmdKeyimport), (.keydelete, 0x0B, cmdKeydelete),
    (.ctrRead, 0x0C, cmdCtrRead), (.ctrInc, 0x0D, cmdCtrInc), (.cragAttest, 0x0E, cmdAttest),
    (.imgVerify, 0x0F, cmdImgVerify), (.tpolRaise, 0x10, cmdTpolRaise), (.debugUnlock, 0x11, cmdDebugUnlock),
    (.owner, 0x12, cmdOwner)]

/-- The commands of some of the opcodes. -/
def cragCommandsOf (ops : List Nat) : List CragRow := cragCommands.filter (fun x => ops.contains x.2.1)

theorem mem_cragCommands_of {x : CragRow} (ops : List Nat) (h : x ∈ cragCommandsOf ops) : x ∈ cragCommands :=
  List.mem_of_mem_filter h

theorem exec_cragCommand (s : State) :
    ∀ x ∈ cragCommands, exec x.1 s = .next (cragRow x.2.1 x.2.2 s) := by
  simp only [cragCommands, List.forall_mem_cons]
  exact ⟨rfl, rfl, rfl, rfl, rfl, rfl, rfl, rfl, rfl, rfl, rfl, rfl, rfl, rfl, rfl, rfl, rfl, rfl,
    fun _ hx => absurd hx List.not_mem_nil⟩

/-- Crag is up and takes the oldest message of its mailbox. -/
structure CragTakes (s : State) (m : Word) (s1 : State) : Prop where
  up : cragUp s = true
  valid : s.flag .crgMbox 0 63 = true
  slot : hasSlot s .crag = true
  message : ∃ m0 s0, takeMessage s (heapSpace s) 6 (s.fld .crgMbox 0 46 4 * 16) = some (m0, s0) ∧ trvHeal s0 m0 = (m, s1)

variable {cmd : Nat → Nat → CragM Word}

theorem cragRow_of_no_vector (h : CragTakes s m s1) (hv : commandVector s1 6 m = none) :
    cragRow op cmd s = badMessage s1 := by
  obtain ⟨hup, hvalid, hslot, m0, s0, htake, hheal⟩ := h
  simp only [cragRow, hup, hvalid, hslot, htake, hheal, hv, Bool.not_true, Bool.or_self, Bool.false_eq_true, if_false]

theorem cragRow_of_unknown (h : CragTakes s m s1) (hv : commandVector s1 6 m = some vec)
    (hw : spaceWord s1 6 (heapSpace s1) (vec + 8) = some w)
    (hu : isFix w = false ∨ offered s1 (bitsOf w 7 0) = false) :
    cragRow op cmd s = finishCrag s1 vec false (.error (sFormat, .nothing)) := by
  obtain ⟨hup, hvalid, hslot, m0, s0, htake, hheal⟩ := h
  have hrefused : (!isFix w || bitsOf w 55 16 != 0 || !offered s1 (bitsOf w 7 0)) = true := by
    obtain hu | hu := hu
    · rw [hu, Bool.not_false, Bool.true_or, Bool.true_or]
    · rw [hu, Bool.not_false, Bool.or_true]
  simp only [cragRow, hup, hvalid, hslot, htake, hheal, hv, hw, hrefused, Bool.not_true, Bool.or_self, Bool.false_eq_true,
    if_false, if_true]

theorem cragRow_of_finds (h : CragFinds s op v vec s1) :
    cragRow op cmd s = finishCrag s1 vec (op == 4 || op == 6 || op == 8) (cmd v vec s1) := by
  obtain ⟨hup, hvalid, hslot, ⟨m0, m, s0, htake, hheal, hvec⟩, ⟨w, hw, hfix, hzero, hop, hv⟩, hoff⟩ := h
  simp only [cragRow, hup, hvalid, hslot, htake, hheal, hvec, hw, hfix, hzero, hop, hv, hoff, Bool.not_true,
    bne_self_eq_false, Bool.or_self, Bool.false_eq_true, if_false]

/-! ### How a command ends (R455) -/

theorem finishCrag_ok (checks : Bool) :
    finishCrag s1 vec checks (.ok (w, s2)) = answerVector (cragCounted s2) 6 vec (some w) 0 := rfl

theorem finishCrag_heapFull (checks : Bool) : finishCrag s1 vec checks (.error (12, left))
    = answerVector (cragCounted (engineHeapFull s1 (tileHolding s1 vec))) 6 vec none 12 := by
  cases checks <;> rfl

/-- The opcodes whose check may fail to verify. -/
theorem checks_iff : (op == 4 || op == 6 || op == 8) = true ↔ op ∈ [0x04, 0x06, 0x08] := by
  simp only [Bool.or_eq_true, beq_iff_eq, List.mem_cons, List.not_mem_nil, or_false, or_assoc]

theorem finishCrag_error (he : e ≠ 12) : finishCrag s1 vec (op == 4 || op == 6 || op == 8) (.error (e, left))
    = answerVector (cragCounted (leave s1 left)) 6 vec
        (if e = 2 ∧ op ∈ [0x04, 0x06, 0x08] then some (boolWord false) else none) e := by
  have hheap : (e == sHeapFull) = false := beq_false_of_ne he
  simp only [finishCrag, hheap, Bool.and_eq_true, checks_iff, beq_iff_eq, sAuth, and_comm, Bool.false_eq_true, if_false]
  rfl

/-! ### CTR_INC (R460) -/

theorem CragM.bind_ok {α β : Type} {x : CragM α} {f : α → CragM β} {a : α} (h : x s = .ok (a, t)) :
    (x >>= f) s = f a t := by
  simp only [bind, StateT.bind, h, Except.bind]

theorem need_ok {b : Bool} {code : Nat} (h : b = true) : need b code s = .ok ((), s) := by
  rw [need, if_pos h]
  rfl

theorem cmdCtrInc_counts (hp : fixParam vec 0 64 s1 = .ok (p, s2)) (hu : unused vec 1 s2 = .ok ((), s3)) (h8 : 8 ≤ p)
    (hf : floorOf s3 p < 2 ^ 55 - 1) (hr : raisesOf s3 p < 10000000) (hs : softwareRaises s3 < 100000000) :
    cmdCtrInc 0 vec s1 = .ok (fixN (floorOf s3 p + 1), setCounter s3 p (floorOf s3 p + 1)) := by
  have hroom : (decide (floorOf s3 p < 2 ^ 55 - 1) && decide (raisesOf s3 p < 10000000)
      && decide (softwareRaises s3 < 100000000)) = true := by
    rw [decide_eq_true hf, decide_eq_true hr, decide_eq_true hs]
    rfl
  unfold cmdCtrInc
  rw [CragM.bind_ok (need_ok (beq_self_eq_true 0)), CragM.bind_ok hp, CragM.bind_ok hu,
    CragM.bind_ok (need_ok (decide_eq_true h8)), CragM.bind_ok (t := s3) (a := s3) rfl, CragM.bind_ok (need_ok hroom)]
  rfl

/-! ### Tamper sources (R464, R465) -/

theorem unpowered_of_free (hh : s.base.held = []) : unpowered s = false := by
  rw [unpowered, hh]
  rfl

theorem exec_tamperEvent_of_free (hh : s.base.held = []) : exec (.tamperEvent src) s = .next (tamper s src.val) := by
  refine congrArg Host.Outcome.next (if_neg ?_)
  rw [unpowered_of_free hh, hh]
  exact Bool.false_ne_true

theorem exec_tamperEvent_unpowered (hu : unpowered s = true) (h6 : s.base.held.contains 6 = false) (hs : src.val < 9) :
    exec (.tamperEvent src) s = .next (tamper s src.val) := by
  refine congrArg Host.Outcome.next (if_neg ?_)
  rw [hu, h6, decide_eq_false (Nat.not_le.mpr hs)]
  exact Bool.false_ne_true

/-- With power, the action of CRG_TPOL is taken, and CLEAR and DESTROY make a start of KIND 5. -/
theorem tamper_of_powered {i act : Nat} (hu : unpowered s = false) (ha : act = s.fld .crgTpol 0 (2 * i + 1) (2 * i)) :
    tamper s i = if 2 ≤ act then deviceStart (tamperEffects s i act).1 5 else (tamperEffects s i act).1 := by
  subst ha
  simp only [tamper, hu, Bool.false_eq_true, if_false, tamperEffects, decide_eq_true_eq]

theorem tamper_of_destroy {i : Nat} (hu : unpowered s = true) (ha : tamperAction s.base.policy i = 3) :
    tamper s i = destroySalt (zeroise s) := by
  rw [tamper, if_pos hu, if_pos (beq_iff_eq.mpr ha)]

theorem tamper_of_recorded {i : Nat} (hu : unpowered s = true) (ha : tamperAction s.base.policy i ≠ 3) :
    tamper s i = { s with base := { s.base with recorded := s.base.recorded ++ [i] } } := by
  rw [tamper, if_pos hu, if_neg (mt beq_iff_eq.mp ha)]

/-! ### The statement -/

/-- Settles O51: every command of Crag is one row over one mailbox, which ends by what the command answers; a tamper source
takes its action, by CRG_TPOL with power and by the policy of the Base domain without. -/
theorem cragCommandsComplete : Obligations.CragCommandsComplete := by
  refine ⟨⟨?performs, ?ends, ?fails, ?bad, ?unknown, ?counts⟩, ?logs, ?pulses, ?clears, ?destroys, ?alone, ?records,
    fun s => rfl, ?stops, fun s => rfl⟩
  case performs =>
    intro x hx s v vec s1 w s2 hfind hcmd
    have hmem : x ∈ cragCommands := mem_cragCommands_of [0x01, 0x02, 0x03, 0x05, 0x09, 0x0B, 0x0C, 0x0D, 0x10] hx
    rw [exec_cragCommand s x hmem, cragRow_of_finds hfind, hcmd, finishCrag_ok]
  case ends =>
    intro x hx s v vec s1 hfind
    have hmem : x ∈ cragCommands := mem_cragCommands_of [0x04, 0x06, 0x07, 0x08, 0x0A, 0x0E, 0x0F, 0x11, 0x12] hx
    rw [exec_cragCommand s x hmem, cragRow_of_finds hfind]
    cases x.2.2 v vec s1 with
    | ok r => rfl
    | error r =>
      obtain ⟨e, left⟩ := r
      by_cases he : e = 12
      · subst he
        rw [finishCrag_heapFull]
        rfl
      · rw [finishCrag_error he]
        exact congrArg Host.Outcome.next (if_neg he).symm
  case fails =>
    intro x hx s v vec s1 e left hfind hcmd h2 h12
    rw [exec_cragCommand s x hx, cragRow_of_finds hfind, hcmd, finishCrag_error h12, if_neg fun h => h2 h.1]
  case bad =>
    intro x hx s m0 m s0 s1 hup hvalid hslot htake hheal hvec
    rw [exec_cragCommand s x hx, cragRow_of_no_vector ⟨hup, hvalid, hslot, m0, s0, htake, hheal⟩ hvec]
    rfl
  case unknown =>
    intro x hx s m0 m s0 s1 vec w hup hvalid hslot htake hheal hvec hw hu
    rw [exec_cragCommand s x hx, cragRow_of_unknown ⟨hup, hvalid, hslot, m0, s0, htake, hheal⟩ hvec hw hu]
    rfl
  case counts =>
    intro s vec s1 p s2 s3 hfind hp hu h8 hf hr hs
    change Host.Outcome.next (cragRow 0x0D cmdCtrInc s) = _
    rw [cragRow_of_finds hfind, cmdCtrInc_counts hp hu h8 hf hr hs, finishCrag_ok]
  case logs =>
    intro s src act hh ha h0
    rw [exec_tamperEvent_of_free hh, tamper_of_powered (unpowered_of_free hh) ha, h0]
    rfl
  case pulses =>
    intro s src act hh ha h1
    rw [exec_tamperEvent_of_free hh, tamper_of_powered (unpowered_of_free hh) ha, h1]
    rfl
  case clears =>
    intro s src act hh ha h2
    rw [exec_tamperEvent_of_free hh, tamper_of_powered (unpowered_of_free hh) ha, h2]
    rfl
  case destroys =>
    intro s src act hh ha h3
    rw [exec_tamperEvent_of_free hh, tamper_of_powered (unpowered_of_free hh) ha, h3]
    rfl
  case alone =>
    intro s src hu h6 hs ha
    rw [exec_tamperEvent_unpowered hu h6 hs, tamper_of_destroy hu ha]
  case records =>
    intro s src hu h6 hs ha
    rw [exec_tamperEvent_unpowered hu h6 hs, tamper_of_recorded hu ha]
  case stops => exact fun s ho => congrArg Host.Outcome.next (if_pos ho)

end Sys2Proof.Machine

/-! PROOFS of the Range's traffic (spec/19_links.md): remote requests, frames on a Ridge port, the service of a peer's
request, sessions, recalibration and the operations of the whole Range. -/

namespace Sys2Proof.Machine

open Sys2Proof

variable {s s1 s2 t : State} {p : Fin 4} {k : RidgePort} {f : RidgeRx} {m : RidgeMsg} {op vec dst : Nat}

/-! ### Remote requests of this device (R483) -/

/-- The remote requests and their operations (R484). -/
def remoteRequests : List (Instr × Nat) :=
  [(.readW, 1), (.writeW, 2), (.casW, 3), (.faddW, 4), (.readB, 5), (.writeB, 6), (.post, 7)]

theorem exec_remoteRequest (s : State) : ∀ x ∈ remoteRequests, exec x.1 s = .next (ridgeRow x.2 s) := by
  simp only [remoteRequests, List.forall_mem_cons]
  exact ⟨rfl, rfl, rfl, rfl, rfl, rfl, rfl, fun _ hx => absurd hx List.not_mem_nil⟩

theorem remoteRequests_op : ∀ x ∈ remoteRequests, 1 ≤ x.2 ∧ x.2 ≤ 7 := by
  simp only [remoteRequests, List.forall_mem_cons]
  exact ⟨by decide, by decide, by decide, by decide, by decide, by decide, by decide, fun _ hx => absurd hx List.not_mem_nil⟩

theorem remoteRequest_parsed {α : Type} {g : Nat → RidgeMsg → α} (hdst : remoteTarget s vec s = .ok (dst, t))
    (hmsg : remoteMessage op vec t = .ok (m, s2)) :
    (remoteTarget s vec >>= fun d => remoteMessage op vec >>= fun x => pure (g d x)) s = .ok (g dst m, s2) := by
  rw [CragM.bind_ok hdst, CragM.bind_ok hmsg]
  rfl

theorem ridgeRow_of_finds {q : Nat} (h : RidgeFinds s op vec dst m q s2) (h1 : 1 ≤ op) (h7 : op ≤ 7) :
    ridgeRow op s = sendVia { s2 with ridge := { s2.ridge with
      nextId := s2.ridge.nextId % (2 ^ 32 - 1) + 1
      own := s2.ridge.own ++ [⟨s2.ridge.nextId % (2 ^ 32 - 1) + 1, dst, vec, op⟩] } } q
      ⟨dst, rangeSelf s, s2.ridge.nextId % (2 ^ 32 - 1) + 1, m, false⟩ := by
  obtain ⟨hvalid, hfree, ⟨m0, x, s0, s1, w, htake, hheal, hvec, hword, hw, t, hdst, hmsg⟩, hroute, hroom⟩ := h
  subst hw
  have hop : valOf (fixN op) = op := valOf_fixN (by omega)
  have hknown : (!isFix (fixN op) || op == 0 || decide (7 < op)) = false := by
    rw [isFix_fixN, beq_false_of_ne (by omega : op ≠ 0), decide_eq_false (by omega)]
    rfl
  simp only [ridgeRow, hvalid, hfree, htake, hheal, hvec, hword, hop, hknown, remoteRequest_parsed hdst hmsg, hroute, hroom,
    List.isEmpty_nil, Bool.not_true, Bool.or_self, bne_self_eq_false, Bool.false_eq_true, if_false]

/-! ### Frames on a port (R477 to R479) -/

/-- A frame arrives at a port that is up. -/
structure FrameArrives (s : State) (p : Fin 4) (k : RidgePort) : Prop where
  port : s.rport p.val = k
  up : ridgeUp s p.val = true

theorem exec_frame_fec (h : FrameArrives s p k) (hfec : f.fec = false) :
    exec (.ridgeFrameReceive p f) s = .next (s.setRport p.val { k with nack := true }) := by
  change execRidgeFrameReceive p f s = _
  simp only [execRidgeFrameReceive, h.port, h.up, hfec, Bool.not_true, Bool.not_false, Bool.false_eq_true, if_false, if_true]

/-- The state after a frame failed GCM: the port asks for a resend, and the failure is counted and pulsed. -/
def gcmFailed (s : State) (p : Fin 4) (k : RidgePort) : State :=
  let s1 := s.setRport p.val { k with nack := true, badRow := k.badRow + 1 }
  pulse (s1.setR .rdgStat p.val (satInc (s1.reg .rdgStat p.val) 31 16)) (252 + p.val)

theorem exec_frame_gcm (h : FrameArrives s p k) (hfec : f.fec = true) (hgcm : f.gcm = false) :
    exec (.ridgeFrameReceive p f) s = .next (
      if 16 ≤ k.badRow + 1 then tamper (linkLost (gcmFailed s p k) p.val) 10 else gcmFailed s p k) := by
  change execRidgeFrameReceive p f s = _
  simp only [execRidgeFrameReceive, h.port, h.up, hfec, hgcm, Bool.not_true, Bool.not_false, Bool.false_eq_true, if_false,
    if_true]
  rfl

theorem exec_frame_out_of_order (h : FrameArrives s p k) (hfec : f.fec = true) (hgcm : f.gcm = true) (hm : f.msg ≠ .linkOnly)
    (hseq : f.seq.toNat ≠ k.rx) :
    exec (.ridgeFrameReceive p f) s = .next (s.setRport p.val { k with nack := true, badRow := 0 }) := by
  change execRidgeFrameReceive p f s = _
  simp only [execRidgeFrameReceive, h.port, h.up, hfec, hgcm, bne_iff_ne.mpr hm, bne_iff_ne.mpr hseq, Bool.not_true,
    Bool.and_self, Bool.false_eq_true, if_false, if_true]

theorem exec_frame_in_order (h : FrameArrives s p k) (hfec : f.fec = true) (hgcm : f.gcm = true) (hm : f.msg ≠ .linkOnly)
    (hseq : f.seq.toNat = k.rx) (hnack : f.nack = false) :
    exec (.ridgeFrameReceive p f) s = .next (acceptFrame (s.setRport p.val { k with
      rx := (k.rx + 1) % 65536, badRow := 0, nack := false, unacked := releaseAcked k.unacked f.ack.toNat }) p.val
      ⟨f.dst.toNat, f.src.toNat, f.reqid.toNat, f.msg, f.poison⟩) := by
  change execRidgeFrameReceive p f s = _
  simp only [execRidgeFrameReceive, h.port, h.up, hfec, hgcm, hseq, hnack, beq_false_of_ne hm, bne_self_eq_false,
    Bool.not_true, Bool.and_false, Bool.false_eq_true, if_false]

theorem resendAll_of_few (hk : s.rport p.val = k) (hfew : ∀ u ∈ k.unacked, u.resent < 63) :
    resendAll s p.val = (s.setRport p.val { k with
      unacked := k.unacked.map (fun u => { u with resent := u.resent + 1 }) }).setR .rdgStat p.val
      (k.unacked.foldl (fun w _ => satInc w 47 32) (s.reg .rdgStat p.val)) := by
  have hkeeps : (k.unacked.map (fun u => { u with resent := u.resent + 1 })).any (fun u => decide (64 ≤ u.resent)) = false := by
    rw [List.any_map, List.any_eq_false]
    intro u hu
    have := hfew u hu
    simp only [Function.comp_apply, decide_eq_true_eq]
    omega
  simp only [resendAll, hk, hkeeps, List.foldl_map, Bool.false_eq_true, if_false]
  rfl

theorem exec_ridgeResendTimeout (h : FrameArrives s p k) (hne : k.unacked ≠ []) :
    exec (.ridgeResendTimeout p) s = .next (resendAll s p.val) := by
  refine congrArg Host.Outcome.next (if_neg ?_)
  rw [h.up, h.port, List.isEmpty_eq_false_iff.mpr hne]
  exact Bool.false_ne_true

theorem exec_ridgeForward {ingress q : Nat} {g : RidgeFrame} {rest : List (Nat × RidgeFrame)}
    (hw : s.ridge.forward = (ingress, g) :: rest) (hr : routeTo s g.dst ingress = some q) (hroom : portRoom s q = true) :
    exec .ridgeForward s = .next (sendVia { s with ridge := { s.ridge with forward := rest } } q g) := by
  change execRidgeForward s = _
  simp only [execRidgeForward, hw, hr, hroom, if_true]

/-! ### Service of a peer's request (R484) -/

/-- A peer's request stands at the front of a port's inbox and may be served: no append is under way, its reply has room,
and the port has a slot. -/
structure PeerAsks (s : State) (p : Fin 4) (g : RidgeFrame) : Prop where
  front : ∃ rest, Tbl.getD s.ridge.inbox [] p.val = g :: rest
  appends : Tbl.get? s.ridge.posting p.val = none
  room : replyRoom s g = true
  free : s.base.held = []
  slot : hasSlot s (.ridge p) = true

/-- What a request's service leaves: the reply goes back, or a POST waits for room. -/
def answered (p : Fin 4) (g : RidgeFrame) : Served → State
  | .done v bs s1 => replyTo s1 p.val g 0 v bs
  | .failed e s1 => replyTo s1 p.val g e (fixN 0) []
  | .waits msg s1 => { s1 with ridge := { s1.ridge with posting := Tbl.put s1.ridge.posting p.val msg } }

theorem exec_peerRequestServe {g : RidgeFrame} (h : PeerAsks s p g) :
    exec (.peerRequestServe p) s = .next (answered p g (serve s g.poison g.msg)) := by
  obtain ⟨⟨rest, hfront⟩, happends, hroom, hfree, hslot⟩ := h
  change execPeerRequestServe p s = _
  simp only [execPeerRequestServe, hfront, happends, hroom, hfree, hslot, Option.isSome_none, List.isEmpty_nil, Bool.not_true,
    Bool.or_self, Bool.false_eq_true, if_false]
  cases serve s g.poison g.msg <;> rfl

/-! ### Sessions (R462, R481) -/

/-- A port waits for a key agreement: its entry is offline and Crag is up. -/
structure KeysAwaited (s : State) (p : Fin 4) : Prop where
  offline : s.unit (uRidge p.val) = stOffline
  down : ridgeUp s p.val = false
  crag : cragUp s = true

/-- The port is up with a session agreed with the device of number r in the roster. -/
def sessionAgreed (s : State) (p : Fin 4) (r : Nat) : State :=
  ridgeChanged { (s.setRport p.val { RidgePort.empty with session := (s.rport p.val).session + 1 }).setR .rdgStat p.val
    (BitVec.ofNat 64 (2 * 2 ^ 62 + 2 * 2 ^ 60 + r)) with crag := { s.crag with
      volatileKeys := insertNat (insertNat s.crag.volatileKeys (0x38 + 2 * p.val)) (0x39 + 2 * p.val) } } p.val stOnline

/-- A key agreement has failed: the port stays down, and tamper source 10 counts it. -/
def agreementFailed (s : State) (p : Fin 4) : State :=
  tamper (if rdgState s p.val == 1 then pulse (s.setF .rdgStat p.val 63 62 0) (248 + p.val) else s) 10

theorem KeysAwaited.guard_eq (h : KeysAwaited s p) :
    (!ridgeConfigured s (rosterOf s) p.val || s.unit (uRidge p.val) != stOffline || ridgeUp s p.val || !cragUp s)
      = !ridgeConfigured s (rosterOf s) p.val := by
  rw [h.offline, h.down, h.crag, bne_self_eq_false, Bool.or_false, Bool.or_false, Bool.not_true, Bool.or_false]

theorem exec_keyAgreement {peer : List Byte} {v : Verdict} (h : KeysAwaited s p) :
    exec (.keyAgreement p peer v) s = .next (
      if ridgeConfigured s (rosterOf s) p.val = true then match rosterIndex s peer, v, s.flag .crgStat 0 63 with
        | some r, .pass, false => sessionAgreed s p r
        | _, _, _ => agreementFailed s p
      else s) := by
  refine congrArg Host.Outcome.next ?_
  rw [h.guard_eq]
  cases ridgeConfigured s (rosterOf s) p.val with
  | false => rfl
  | true => rcases rosterIndex s peer with _ | r <;> cases v <;> cases s.flag .crgStat 0 63 <;> rfl

theorem exec_keyAgreement_fail {peer : List Byte} (h : KeysAwaited s p) :
    exec (.keyAgreement p peer .fail) s = .next (
      if ridgeConfigured s (rosterOf s) p.val = true then agreementFailed s p else s) := by
  rw [exec_keyAgreement h]
  cases rosterIndex s peer <;> rfl

theorem exec_rekey (h : FrameArrives s p k) :
    exec (.rekey p) s = .next (s.setRport p.val { k with session := k.session + 1, frames := 0 }) := by
  change execRekey p s = _
  simp only [execRekey, h.port, h.up, Bool.not_true, Bool.false_eq_true, if_false]

theorem ridgeUp_false_of_training (h : rdgState s p.val = 1) : ridgeUp s p.val = false := by
  rw [ridgeUp, h]
  rfl

/-! ### Recalibration (R489) -/

theorem exec_laneRecalibrationStart (lane : Fin 2) (h : rdgState s p.val = 2)
    (h1 : s1 = (s.setRport p.val { s.rport p.val with lane := some lane.val }).setF .rdgStat p.val 63 60 0xD) :
    exec (.laneRecalibrationStart p lane) s = .next (ridgeChanged s1 p.val (s1.unit (uRidge p.val))) := by
  rw [h1]
  refine congrArg Host.Outcome.next (if_neg ?_)
  rw [h]
  exact Bool.false_ne_true

theorem exec_recalibrationEnd (h : rdgState s p.val = 3)
    (h1 : s1 = (s.setRport p.val { s.rport p.val with lane := none }).setF .rdgStat p.val 63 60 0xA) :
    exec (.recalibrationEnd p) s = .next (ridgeChanged s1 p.val (s1.unit (uRidge p.val))) := by
  rw [h1]
  refine congrArg Host.Outcome.next (if_neg ?_)
  rw [h]
  exact Bool.false_ne_true

/-! ### Operations of the whole Range (R486, R487, R490) -/

theorem exec_broadcast_up {kind : Byte} {bytes : List Byte} (h : rangeSelf s ≠ 0) :
    exec (.broadcast false kind bytes) s
      = .next (sendRange s kind bytes (treeParent (rangeX s) (rangeY s) (rangeSelf s))) := by
  refine congrArg Host.Outcome.next (if_neg ?_)
  rw [beq_false_of_ne h]
  exact Bool.false_ne_true

/-- An advance of the Range in slot n is under way, and every own request has its response. -/
structure RangeAdvances (s : State) (n : Fin 8) : Prop where
  many : 1 < rangeSize s
  quiet : s.ridge.own = []
  slot : s.crestOp = some (.range n.val)

theorem exec_rangeAdvance {n : Fin 8} (o : Byte) (h : RangeAdvances s n) :
    exec (.rangeAdvance n o) s = .next (
      let r := if o != 0 then (o.toNat, s) else advanceInto s n.val
      setCrestCode (({ r.2 with crestOp := none } : State).setF .cfgCrest 0 60 60 0) r.1) := by
  change execRangeAdvance n o s = _
  simp only [execRangeAdvance, h.quiet, h.slot, decide_eq_false (Nat.not_le.mpr h.many), List.isEmpty_nil, Bool.not_true,
    Bool.or_self, bne_self_eq_false, Bool.false_eq_true, if_false]

theorem writeRdgRange_of_acts {w : SetupWrite} : writeRdgRange s w =
    let s2 := if acts w 62 then cancelRange (storeSetup s .rdgRange 0 w) else storeSetup s .rdgRange 0 w
    if acts w 63 then deviceStart s2 6 else s2 := rfl

theorem exec_rangeReset {w : SetupWrite} (h63 : acts w 63 = true) (hr : mayReach s w.agent .rdgRange 0 = true) :
    exec (.rangeReset w) s = .next (writeRdgRange s w) := by
  refine congrArg Host.Outcome.next (if_pos ?_)
  rw [h63, hr]
  rfl

theorem exec_cancel {w : SetupWrite} (h62 : acts w 62 = true) (hr : mayReach s w.agent .rdgRange 0 = true) :
    exec (.cancel w) s = .next (writeRdgRange s w) := by
  refine congrArg Host.Outcome.next (if_pos ?_)
  rw [h62, hr]
  rfl

/-! ### The statement -/

/-- Settles O53: a port's frames, requests and sessions, each by the rule of its instruction. -/
theorem rangeTrafficCompletes : Obligations.RangeTrafficCompletes := by
  refine ⟨?remote, ⟨?inOrder, ?outOfOrder, ?fec, ?gcm, ?gcmLast, ?resend, ?forward, ?served, ?refused⟩, ?agreed, ?disagreed,
    ?rekeyed, ?lane, ?laneEnd, ?up, ?down, ?advance, ?advanceRefused, ?reset, ?cancels⟩
  case remote =>
    intro x hx s vec dst m q s2 id hfind hid
    obtain ⟨h1, h7⟩ := remoteRequests_op x hx
    rw [exec_remoteRequest s x hx, ridgeRow_of_finds hfind h1 h7, hid]
  case inOrder => exact fun s p f k hk hup hfec hgcm hm hseq hnack => exec_frame_in_order ⟨hk, hup⟩ hfec hgcm hm hseq hnack
  case outOfOrder => exact fun s p f k hk hup hfec hgcm hm hseq => exec_frame_out_of_order ⟨hk, hup⟩ hfec hgcm hm hseq
  case fec => exact fun s p f k hk hup hfec => exec_frame_fec ⟨hk, hup⟩ hfec
  case gcm =>
    intro s p f k s1 hk hup hfec hgcm hrow h1
    rw [exec_frame_gcm ⟨hk, hup⟩ hfec hgcm, if_neg (by omega), h1]
    rfl
  case gcmLast =>
    intro s p f k s1 hk hup hfec hgcm hrow h1
    rw [exec_frame_gcm ⟨hk, hup⟩ hfec hgcm, if_pos (by omega), gcmFailed, hrow, h1]
  case resend =>
    intro s p k hk hup hne hfew
    rw [exec_ridgeResendTimeout ⟨hk, hup⟩ hne, resendAll_of_few hk hfew]
  case forward => exact fun s ingress g rest q hw hr hroom => exec_ridgeForward hw hr hroom
  case served =>
    intro s p g rest v bs s1 hfront happ hroom hfree hslot hs
    rw [exec_peerRequestServe ⟨⟨rest, hfront⟩, happ, hroom, hfree, hslot⟩, hs, answered]
  case refused =>
    intro s p g rest e s1 hfront happ hroom hfree hslot hs
    rw [exec_peerRequestServe ⟨⟨rest, hfront⟩, happ, hroom, hfree, hslot⟩, hs, answered]
  case agreed =>
    intro s p peer hoff hdown hcrag hflag
    simp only [exec_keyAgreement ⟨hoff, hdown, hcrag⟩, hflag, ← beq_iff_eq (a := rdgState s p.val)]
    cases rosterIndex s peer <;> rfl
  case disagreed =>
    intro s p peer hoff hstate hcrag
    rw [exec_keyAgreement_fail ⟨hoff, ridgeUp_false_of_training hstate, hcrag⟩, agreementFailed,
      if_pos (beq_iff_eq.mpr hstate)]
  case rekeyed => exact fun s p k hk hup => exec_rekey ⟨hk, hup⟩
  case lane => exact fun s p lane s1 h h1 => exec_laneRecalibrationStart lane h h1
  case laneEnd => exact fun s p s1 h h1 => exec_recalibrationEnd h h1
  case up =>
    intro s kind bytes s1 h h1
    rw [h1, exec_broadcast_up h]
  case down =>
    intro s kind bytes s1 h1
    rw [h1]
    rfl
  case advance =>
    intro s n c s1 hmany hown hslot hadv
    rw [exec_rangeAdvance 0 ⟨hmany, hown, hslot⟩, bne_self_eq_false, if_neg Bool.false_ne_true, hadv]
  case advanceRefused =>
    intro s n o hmany hown hslot ho
    rw [exec_rangeAdvance o ⟨hmany, hown, hslot⟩, if_pos (bne_iff_ne.mpr ho)]
  case reset =>
    intro s w h63 h62 hr
    rw [exec_rangeReset h63 hr, writeRdgRange_of_acts, h63, h62]
    rfl
  case cancels =>
    intro s w h62 h63 hr
    rw [exec_cancel h62 hr, writeRdgRange_of_acts, h63, h62]
    rfl

end Sys2Proof.Machine

/-! PROOFS of the start (spec/20_start_update.md): the stages of a start and their failures, Saddle mode, and the declarations
that end or make a start. -/

namespace Sys2Proof.Machine

open Sys2Proof

variable {s s1 s2 s3 : State} {img : List Byte} {i : Nat}

/-! ### The first stages (R493, R494) -/

theorem exec_bootHoldEnd {v : Verdict} (h : inStage s 0 = true) :
    exec (.bootHoldEnd v) s = .next (match v with | .pass => setBoot s 1 | .fail => stageFailure s 0xB) := by
  change execBootHoldEnd v s = _
  cases v <;> simp only [execBootHoldEnd, h, Bool.not_true, Bool.false_eq_true, if_false]

theorem failCount_bringUp (u st : Nat) : failCount (bringUp s u st) = failCount s := by
  rw [bringUp]
  split <;> rfl

/-- The slot of Crag is another field than FAILS. -/
theorem failCount_runCrag (slot : Nat) (rom : Bool) : failCount (runCrag s slot rom) = failCount s :=
  (failCount_bringUp uCrag stOnline).trans (State.fld_setF_field s .basBoot 0 52 52 slot 55 54 (Or.inr (by decide)))

/-- The slots of Crag in the order in which a start tries them. -/
theorem find_cragSlot (good : Nat → Bool) (i : Nat) :
    [i, 1 - i].find? good = if good i then some i else if good (1 - i) then some (1 - i) else none := by
  cases h : good i <;> cases h' : good (1 - i) <;> simp [h, h']

/-- Crag runs from a slot, and the start goes on unless Saddle mode is due. -/
def cragStarted (s : State) (slot : Nat) : State :=
  if failCount s = 3 then runCrag s slot false else setBoot (runCrag s slot false) 2

theorem exec_cragStageEnd (h : inStage s 1 = true) (hi : i = s.fld .basBootsel 0 1 1) :
    exec .cragStageEnd s = .next (
      if cragImageFault s (cragSlotImage s i) = none then cragStarted s i
      else if cragImageFault s (cragSlotImage s (1 - i)) = none then cragStarted s (1 - i)
      else if failCount s = 3 then runCrag s 0 true else stageFailure s 2) := by
  change execCragStageEnd s = _
  simp only [execCragStageEnd, h, ← hi, find_cragSlot, failCount_runCrag, cragStarted, Option.isNone_iff_eq_none, beq_iff_eq,
    Bool.not_true, Bool.false_eq_true, if_false]
  by_cases hown : cragImageFault s (cragSlotImage s i) = none
  · rw [if_pos hown, if_pos hown]
  · by_cases hother : cragImageFault s (cragSlotImage s (1 - i)) = none
    · rw [if_neg hown, if_neg hown, if_pos hother, if_pos hother]
    · rw [if_neg hown, if_neg hown, if_neg hother, if_neg hother]

/-! ### The stages of the boot image (R493, R500, R501) -/

theorem exec_imageStageEnd_pass (h : inStage s 2 = true) (hf : bootImageFault s (bootSlotImage s (bootSlot s)) = none) :
    exec .imageStageEnd s = .next (
      let s1 := s.setF .basBoot 0 53 53 (bootSlot s)
      setBoot { s1 with massif := { s1.massif with bootVersion := le (bootSlotImage s (bootSlot s)) 0x14 4 } } 3) := by
  change execImageStageEnd s = _
  simp only [execImageStageEnd, h, hf, Bool.not_true, Bool.false_eq_true, if_false]

/-- The reason that a boot image's fault records. -/
def imageReason : ImageFault → Nat
  | .target => 5
  | .floor => 4
  | _ => 3

theorem exec_imageStageEnd_fail {f : ImageFault} (h : inStage s 2 = true)
    (hf : bootImageFault s (bootSlotImage s (bootSlot s)) = some f) :
    exec .imageStageEnd s = .next (stageFailure s (imageReason f)) := by
  change execImageStageEnd s = _
  cases f <;> simp only [execImageStageEnd, imageReason, h, hf, Bool.not_true, Bool.false_eq_true, if_false]

/-- A channel of an enabled quadrant is populated and has trained. -/
def ChannelTrained (img : List Byte) (u : BitVec 4) (q : Nat) : Prop :=
  q < 4 ∧ configQuad img q = true ∧ populated (configChannel img q) ≠ 0 ∧ u.getLsbD q = false

theorem not_all_untrained {u : BitVec 4} {q : Nat} (h : ChannelTrained img u q) :
    ((List.range 4).filter (fun q => configQuad img q && populated (configChannel img q) != 0)).all (fun q => u.getLsbD q)
      = false := by
  obtain ⟨hq, hquad, hpop, hu⟩ := h
  rw [List.all_eq_false]
  refine ⟨q, List.mem_filter.mpr ⟨List.mem_range.mpr hq, ?_⟩, ?_⟩
  · rw [hquad, bne_iff_ne.mpr hpop]
    rfl
  · rw [hu]
    exact Bool.false_ne_true

theorem exec_configStageEnd_pass {u : BitVec 4} {q : Nat} (h : inStage s 3 = true) (hi : img = startedImage s)
    (hvalid : configInvalid img = false) (hq : ChannelTrained img u q) :
    exec (.configStageEnd .pass u) s
      = .next (setBoot ((List.range 4).foldl (bringChannel img u) (applyConfig s img)) 4) := by
  change execConfigStageEnd .pass u s = _
  have hplls : (Verdict.pass == Verdict.fail) = false := rfl
  simp only [execConfigStageEnd, h, ← hi, hvalid, hplls, not_all_untrained hq, Bool.not_true, Bool.and_false,
    Bool.false_eq_true, if_false]

theorem exec_configStageEnd_invalid {v : Verdict} {u : BitVec 4} (h : inStage s 3 = true) (hi : img = startedImage s)
    (hbad : configInvalid img = true) : exec (.configStageEnd v u) s = .next (stageFailure s 6) := by
  change execConfigStageEnd v u s = _
  simp only [execConfigStageEnd, h, ← hi, hbad, Bool.not_true, Bool.false_eq_true, if_false, if_true]

/-- A tile whose self-test found no faulty row is online where its quadrant is enabled, unless it is retired. -/
def tileTested (img : List Byte) (x : State) (t : Nat) : State :=
  if configQuad img (t / 4) = true ∧ x.unit (uTile t) ≠ stRetired then x.setUnit (uTile t) stOnline else x

theorem tileTested_eq (img : List Byte) (x : State) (t : Nat) :
    (if (!configQuad img (t / 4) || x.unit (uTile t) == stRetired) = true then x else x.setUnit (uTile t) stOnline)
      = tileTested img x t := by
  rw [tileTested, ← ite_not]
  simp only [Bool.or_eq_true, Bool.not_eq_true', beq_iff_eq, not_or, Bool.not_eq_false, ne_eq]

theorem exec_selftestStageEnd (h : inStage s 4 = true) (hi : img = startedImage s)
    (h1 : s1 = (List.range 16).foldl (tileTested img) s)
    (h0 : configQuad img 0 = true → s1.unit (uTile 0) ≠ stOffline) :
    exec (.selftestStageEnd []) s = .next (setBoot s1 5) := by
  have hgood : (configQuad img 0 && s1.unit (uTile 0) == stOffline) = false := by
    rw [← Bool.not_eq_true, Bool.and_eq_true, beq_iff_eq]
    exact fun hb => h0 hb.1 hb.2
  change execSelftestStageEnd [] s = _
  simp only [execSelftestStageEnd, h, ← hi, List.filter_nil, List.map_nil, repairRows, tileTested_eq, ← h1, hgood,
    Bool.not_true, Bool.false_eq_true, if_false]

theorem exec_loadStageEnd {sections : List (List Byte × Nat × Bool)} {places : List Nat} (h : inStage s 5 = true)
    (hi : img = startedImage s) (hs : sectionsOf img = (sections, false))
    (hp : placeSections sections (Config.loadPlace % 65536 * 16) s = some (places, s1)) (hn : patchBytes img = 0) :
    exec (.loadStageEnd []) s = .next (endBuild (setBoot ((List.finRange 32).foldl (loadTroika img places []) s1) 6)) := by
  change execLoadStageEnd [] s = _
  simp only [execLoadStageEnd, h, ← hi, hs, hp, hn, List.any_nil, bne_self_eq_false, beq_self_eq_true, Bool.not_true,
    Bool.false_and, Bool.false_eq_true, if_false, if_true]

theorem exec_loadStageEnd_overrun {u : List TroikaId} {sections : List (List Byte × Nat × Bool)} (h : inStage s 5 = true)
    (hi : img = startedImage s) (hs : sectionsOf img = (sections, true)) :
    exec (.loadStageEnd u) s = .next (stageFailure s 0xE) := by
  change execLoadStageEnd u s = _
  simp only [execLoadStageEnd, h, ← hi, hs, Bool.not_true, Bool.false_eq_true, if_false, if_true]

/-! ### What ends an attempt (R494, R495) -/

theorem exec_flashReadTimeout (h : inStage s 1 = true ∨ inStage s 2 = true ∨ inStage s 3 = true ∨ inStage s 5 = true) :
    exec .flashReadTimeout s = .next (stageFailure s 7) := by
  refine congrArg Host.Outcome.next (if_pos ?_)
  rwa [Bool.or_eq_true, Bool.or_eq_true, Bool.or_eq_true, or_assoc, or_assoc]

theorem exec_bootWatchdogExpiry (h : starting s = true) :
    exec .bootWatchdogExpiry s = .next (deviceStart (stageFailure s 1) 7) :=
  congrArg Host.Outcome.next (if_pos h)

theorem exec_failedStartRestart (hf : s.base.failed = true) (hh : s.base.held = []) :
    exec .failedStartRestart s = .next (deviceStart s 8) := by
  refine congrArg Host.Outcome.next (if_pos ?_)
  rw [hf, hh]
  rfl

/-! ### Saddle mode (R504) and the declarations (R491, R496, R506) -/

/-- Saddle mode from its configuration on: the units of R47 come up, and troika 0 runs the recovery program. -/
def saddleBuilt (s : State) : State :=
  let s1 := ((s.setR .trkMode 0 1).setF .trkCtl 0 16 16 1).setR .netCfg 0 0xFF
  let s2 := [uTile 0, uTroika 0, uCore 0, uCore 1, uCore 2, uHre].foldl (fun x u => bringUp x u stOnline) s1
  let s3 := (members 0).foldl recoverCore (s2.setF .trkStat 0 62 60 0)
  endBuild (setBoot ([1, 2, 3].foldl (fun x q => x.setF .cfgQclk q 36 32 0) s3) 8)

theorem exec_saddleEntry (h : inStage s 1 = true) (hf : failCount s = 3) (hc : s.online uCrag = true)
    (h1 : s1 = s.setR .sadReason 0 (saddleReason s.base.failures)) :
    exec .saddleEntry s = .next (saddleBuilt { s1 with
      compact := true
      massif := { s1.massif with saddle := true }
      sizes := Tbl.putD s1.sizes 16384 (uTile 0) 1024 }) := by
  rw [h1]
  refine congrArg Host.Outcome.next (if_neg ?_)
  rw [h, hf, hc]
  exact Bool.false_ne_true

/-- A write of CFG_OPER as it is stored: a REASON below 0x80 leaves the field. -/
abbrev operStored (s : State) (w : SetupWrite) : State :=
  storeSetup s .cfgOper 0 w (fun old new => keepField (0x80 ≤ bitsOf new 7 0) 7 0 old new)

theorem writeCfgOper_oper {w : SetupWrite} (h6 : inStage (operStored s w) 6 = true) (h63 : acts w 63 = true) :
    writeCfgOper s w =
      let s1 := operStored s w
      let s2 := (clearFails s1).setF .basBootsel 0 0 0 (s1.fld .basBoot 0 53 53)
      let s4 := setBoot (publish { s2 with massif := { s2.massif with oper := true } } 0 0 6) 7
      { s4 with board := { s4.board with healthOk := true } } := by
  simp only [writeCfgOper, h6, h63, Bool.not_true, Bool.false_eq_true, if_false, if_true]

theorem writeCfgOper_fail {w : SetupWrite} (h6 : inStage (operStored s w) 6 = true) (h62 : acts w 62 = true)
    (h63 : acts w 63 = false) :
    writeCfgOper s w = stageFailure (operStored s w) ((operStored s w).fld .cfgOper 0 7 0) := by
  simp only [writeCfgOper, h6, h62, h63, Bool.not_true, Bool.false_eq_true, if_false, if_true]

theorem exec_declareOperational {w : SetupWrite} (h63 : acts w 63 = true) (hr : mayReach s w.agent .cfgOper 0 = true) :
    exec (.declareOperational w) s = .next (writeCfgOper s w) := by
  refine congrArg Host.Outcome.next (if_pos ?_)
  rw [h63, hr]
  rfl

theorem exec_declareFail {w : SetupWrite} (h62 : acts w 62 = true) (h63 : acts w 63 = false)
    (hr : mayReach s w.agent .cfgOper 0 = true) : exec (.declareFail w) s = .next (writeCfgOper s w) := by
  refine congrArg Host.Outcome.next (if_pos ?_)
  rw [h62, h63, hr]
  rfl

theorem exec_cfgStart {w : SetupWrite} (hk : keyed w = true) (hr : mayReach s w.agent .cfgStart 0 = true) :
    exec (.cfgStart w) s = .next (deviceStart s 4) := by
  change execCfgStart w s = _
  simp only [execCfgStart, writeCfgStart, hk, hr, Bool.and_self, if_true]

theorem exec_sadCtlGo {w : SetupWrite} (hk : keyed w = true) (hr : mayReach s w.agent .sadCtl 0 = true)
    (hs : inSaddle s = true) : exec (.sadCtlGo w) s = .next (deviceStart s 9) := by
  change execSadCtlGo w s = _
  simp only [execSadCtlGo, writeSadCtl, hk, hr, hs, Bool.and_self, if_true]

/-! ### The statement -/

/-- Settles O54: each stage of a start by the rule of its end. -/
theorem startsAdvance : Obligations.StartsAdvance := by
  refine ⟨⟨?held, ?holdFailed, ?crag, ?cragLast, ?image, ?configured, ?invalid, ?tested, ?loaded, ?overrun, ?flash, ?watchdog,
    ?restart⟩, ?saddle, ?operational, ?failed, ?start, ?leave⟩
  case held => exact fun s h => exec_bootHoldEnd h
  case holdFailed => exact fun s h => exec_bootHoldEnd h
  case crag =>
    intro s i h hi hf
    rw [exec_cragStageEnd h hi, cragStarted, cragStarted, if_neg hf, if_neg hf, if_neg hf]
    rfl
  case cragLast =>
    intro s i h hi hf
    rw [exec_cragStageEnd h hi, cragStarted, cragStarted, if_pos hf, if_pos hf, if_pos hf]
  case image =>
    intro s i img s1 h hi himg h1
    rw [himg, h1, hi]
    cases hf : bootImageFault s (bootSlotImage s (bootSlot s)) with
    | none => exact exec_imageStageEnd_pass h hf
    | some f =>
      rw [exec_imageStageEnd_fail h hf]
      cases f <;> rfl
  case configured =>
    exact fun s img u q h hi hvalid hq hquad hpop hu => exec_configStageEnd_pass h hi hvalid ⟨hq, hquad, hpop, hu⟩
  case invalid => exact fun s img v u h hi hbad => exec_configStageEnd_invalid h hi hbad
  case tested => exact fun s img s1 h hi h1 h0 => exec_selftestStageEnd h hi h1 h0
  case loaded => exact fun s img sections places s1 h hi hs hp hn => exec_loadStageEnd h hi hs hp hn
  case overrun => exact fun s u img sections h hi hs => exec_loadStageEnd_overrun h hi hs
  case flash => exact fun s h => exec_flashReadTimeout h
  case watchdog => exact fun s h => exec_bootWatchdogExpiry h
  case restart => exact fun s hf hh => exec_failedStartRestart hf hh
  case saddle =>
    intro s s1 s2 s3 s4 s5 h hf hc h1 h2 h3 h4 h5
    have hbuilt : endBuild (s5.setF .basBoot 0 63 60 8) = saddleBuilt s1 := by
      rw [h5, h4, h3, h2]
      rfl
    rw [exec_saddleEntry h hf hc rfl, hbuilt, h1, State.setR_massif, State.setR_sizes]
  case operational =>
    intro s w s1 s2 s3 h63 hr h1 h6 h2 h3
    rw [h1] at h6 h2
    rw [exec_declareOperational h63 hr, writeCfgOper_oper h6 h63, h3, h2]
    rfl
  case failed =>
    intro s w s1 h62 h63 hr h1 h6
    rw [h1] at h6 ⊢
    rw [exec_declareFail h62 h63 hr, writeCfgOper_fail h6 h62 h63]
  case start => exact fun s w hk hr => exec_cfgStart hk hr
  case leave => exact fun s w hk hr hs => exec_sadCtlGo hk hr hs

end Sys2Proof.Machine

/-! PROOFS of temperatures and targets (spec/21_field_power.md): the thermal sample and stop, the I3C target
and the JTAG instructions. -/

namespace Sys2Proof.Machine

open Sys2Proof

variable {s : State} {rs : List Int} {q : QuadId}

/-! ### Temperatures (R524) -/

/-- A sample as it acts on the quadrants: the sensors are read, both throttles follow, and throttled clocks step down. -/
def sampled (rs : List Int) (s : State) : State :=
  [0, 1, 2, 3].foldl stepDown ([0, 1, 2, 3].foldl throttleNeighbour
    ([0, 1, 2, 3].foldl throttleHot ([0, 1, 2, 3].foldl (readSensors rs) s)))

theorem exec_thermalSample (hlen : rs.length = 64) (hh : s.base.held = []) :
    exec (.thermalSample rs) s = .next (
      if rs.any (fun r => r < -70 || 150 < r) then tamper (sampled rs s) 4 else sampled rs s) := by
  refine congrArg Host.Outcome.next (if_neg ?_)
  rw [hlen, hh, unpowered_of_free hh]
  exact Bool.false_ne_true

/-- A reading that the sensors cannot give (R464). -/
theorem any_outside_iff :
    rs.any (fun r => decide (r < -70) || decide (150 < r)) = true ↔ ∃ r ∈ rs, r < -70 ∨ 150 < r := by
  simp only [List.any_eq_true, Bool.or_eq_true, decide_eq_true_eq]

theorem exec_thermalStop (hhot : 135 ≤ hotOf s q.val) (hclock : clockOf s q.val = 400) (h6 : s.base.held.contains 6 = false) :
    exec (.thermalStop q) s = .next (
      let s1 := recordRail s 0xF true
      hold (stopDevice { s1 with base := { s1.base with thermal := true } }) 3) := by
  refine congrArg Host.Outcome.next (if_neg ?_)
  rw [decide_eq_false (Int.not_lt.mpr hhot), hclock, h6]
  exact Bool.false_ne_true

/-! ### JTAG (R535) -/

/-- Boundary instructions act: RESET_L is low and every rail is in range. -/
def boundaryActs (s : State) : Bool :=
  s.base.held.contains 0 && !s.base.held.contains 6 && s.board.railsOut.isEmpty

theorem exec_jtagInstruction_acts {i : JtagInstr} (h : boundaryActs s = true) :
    exec (.jtagInstruction i) s = .next { s with board := { s.board with jtag := i } } := by
  change execJtagInstruction i s = _
  rw [boundaryActs] at h
  simp only [execJtagInstruction, h, if_true]
  cases i <;> rfl

theorem exec_jtagInstruction_bypass {i : JtagInstr} (h : boundaryActs s = false) (hi : i ≠ .idcode) :
    exec (.jtagInstruction i) s = .next { s with board := { s.board with jtag := .bypass } } := by
  change execJtagInstruction i s = _
  rw [boundaryActs] at h
  simp only [execJtagInstruction, h, Bool.false_eq_true, if_false]
  cases i with
  | idcode => exact absurd rfl hi
  | _ => rfl

/-! ### The statement -/

/-- Settles O60: a sample by its readings, and the targets while they answer. -/
theorem temperaturesAndTargetsComplete : Obligations.TemperaturesAndTargetsComplete := by
  refine ⟨⟨?inRange, ?outside, ?stops⟩, ?write, ?read, ?timeout, ?address, ?boundary, ?bypass⟩
  case inRange =>
    intro s rs hlen hh hin
    have hnone : ¬ rs.any (fun r => decide (r < -70) || decide (150 < r)) = true := by
      rw [any_outside_iff]
      rintro ⟨r, hr, hout⟩
      have := hin r hr
      omega
    rw [exec_thermalSample hlen hh, if_neg hnone, sampled]
  case outside =>
    intro s rs r hlen hh hr hout
    rw [exec_thermalSample hlen hh, if_pos (any_outside_iff.mpr ⟨r, hr, hout⟩), sampled]
  case stops =>
    intro s q s1 hhot hclock h6 h1
    rw [exec_thermalStop hhot hclock h6, h1]
    rfl
  case write => exact fun s lo hi rest h => congrArg Host.Outcome.next (if_pos h)
  case read => exact fun s h => congrArg Host.Outcome.next (if_pos h)
  case timeout => exact fun s h => congrArg Host.Outcome.next (if_pos h)
  case address => exact fun s a h => congrArg Host.Outcome.next (if_pos h)
  case boundary =>
    intro s i h0 h6 hrails
    refine exec_jtagInstruction_acts ?_
    rw [boundaryActs, h0, h6, hrails]
    rfl
  case bypass =>
    intro s i h0 hi
    refine exec_jtagInstruction_bypass ?_ hi
    rw [boundaryActs, h0]
    rfl

end Sys2Proof.Machine
